-- ==== Sys2Proof/Word.lean ====
section
/-!
DEFINITION. Word types of the CV96 and their plainest arithmetic (00_scope.md R2 to R7).
-/
namespace Sys2Proof

/-- One 32-bit register (R7). -/
abbrev Word := BitVec 32

/-- One byte of a record, buffer or memory. -/
abbrev Byte := BitVec 8

end Sys2Proof
end

