-- ==== Sys2Proof/Syntax.lean ====
section
/-!
DEFINITION. The commands the block takes from outside (spec/opcode_table.json), with the operands each one carries.
An operand is either what its sender writes or what the outside world gives at that instant (a level, an edge, a
measurement, a packet, the end of an interval). Times are in the unit the name says.
-/
namespace Sys2Proof

/-- The masters of the control interconnect (12_host_control.md R353). -/
inductive Master where
  | core | host | strongroom | blotter | debug
  deriving DecidableEq, Repr

/-- An ancillary packet of an SDI line other than audio data: its line, horizontal position and words from DID to checksum
(04_sdi_ports.md R132). -/
structure SdiAnc where
  line : Nat
  hoff : Nat
  words : List (BitVec 10)
  deriving DecidableEq, Repr

/-- One channel's samples of an SDI audio data packet: CHAN as R255 numbers it, the samples, whether the packet passed its
checksum and ECC, whether the channel status says non-PCM, the rate code and the deviation from the clock phase (R132). -/
structure SdiAudio where
  chan : Nat
  samples : List (BitVec 24)
  good : Bool
  nonPcm : Bool
  rate : BitVec 2
  dev : Int
  deriving DecidableEq, Repr

/-- What the moment of a write over a bus adds to the value written, for the rows that the write sets off: the Ruling's sub-line
fraction, ns since a source was lost, audio periods to the next switching point, replies on the port power bus, the image a
FABRIC command reads, the bytes another DMA read returns (none where it fails), whether the Attic store succeeds, whether
fuse bits pass their check at margin, and the levels of the tamper inputs. -/
structure Moment where
  frac : BitVec 16
  sinceNs : Nat
  periods : Nat
  replies : List (BitVec 17)
  data : Option (List (BitVec 8))
  storeOk : Bool
  fuseOk : Bool
  inputs : BitVec 2
  deriving DecidableEq, Repr

/-- A PCIe configuration write (12_host_control.md R342, R347). -/
inductive ConfigWrite where
  | busMaster (on : Bool) | memorySpace (on : Bool) | barSize (log2 : Fin 10) | functionMask (on : Bool) | msixEnable (on : Bool)
  deriving DecidableEq, Repr
/-- The commands of the block, one constructor per row of spec/opcode_table.json. -/
inductive Instr where
  /-- REGISTER_WRITE (R8): A write to a register field that has no row of its own acts per its access type (RW, W1C, W1S, RWS staging, RWI/SEC/RO ignored). -/
  | registerWrite (addr : BitVec 22) (value : BitVec 32) (be : BitVec 4)
  /-- EVENT_COUNTER_WRITE (R12): A write of value v to an event counter field lowers it by v, floored at 0, with a same-cycle increment kept. -/
  | eventCounterWrite (addr : BitVec 22) (value : BitVec 32) (be : BitVec 4)
  /-- READ_POP (R18): A read of the first word of a read-pop port removes the next queue entry into the holding window, or returns VALID 0 when the queue is empty. -/
  | readPop (addr : BitVec 22)
  /-- CAPTURE (R25): A write of 1 to RULING.CTRL.CAPTURE latches the Ruling frame, line, fraction and INSERTED into the POS registers. -/
  | capture (frac : BitVec 16)
  /-- EPOCH_ARM (R26): A write of EPOCH_HI.ARM arms the seconds count to be taken at the next PPS edge. -/
  | epochArm
  /-- PPS_EDGE (R26): A PPS edge arrives: the seconds count advances or takes the armed value, the source's qualification run is updated, and a phase measurement is made. -/
  | ppsEdge (frac : BitVec 16) (tauNs : Nat) (runOk : Bool)
  /-- REF_SYNC_EDGE (R28): An analogue reference line or frame sync arrives and is counted toward qualification and phase measurement. -/
  | refSyncEdge (frameSync : Bool) (frac : BitVec 16) (tauNs : Nat) (runOk : Bool)
  /-- SOURCE_LOST (R508): A loss window closes without the expected edge, sync or frame start, or FREF leaves tolerance, and the source is declared lost, entering COAST. -/
  | sourceLost (src : Fin 3) (sinceNs : Nat)
  /-- SWITCH_TIMEOUT (R31): SWITCH_S seconds of COAST pass in AUTO mode and the Ruling moves to the highest-priority qualified source. -/
  | switchTimeout
  /-- REVERT_TIMEOUT (R31): A higher-priority source stays qualified for REVERT_S seconds and the Ruling moves to it. -/
  | revertTimeout (src : Fin 3)
  /-- SRC_PRIO_WRITE (R509): A write to RULING.SRC_PRIO in AUTO mode takes effect within 1 ms, possibly moving the source or entering COAST. -/
  | srcPrioWrite (value : BitVec 12) (sinceNs : Nat)
  /-- MANUAL_SRC_WRITE (R32): A write of CTRL.MANUAL_SRC or SRC_MODE selects the manual source, with XO moving the Ruling to FREE without a step. -/
  | manualSrcWrite (manual : Bool) (src : Fin 4) (sinceNs : Nat)
  /-- FORCE_COAST_WRITE (R51): A write of CTRL.FORCE_COAST holds the loop in COAST, letting an announced adjustment run first. -/
  | forceCoastWrite (on : Bool) (sinceNs : Nat)
  /-- RULING_LINE_START (R54): A new Ruling line begins; the line counter advances and every accepted event queue entry due at or before it is dispatched. -/
  | rulingLineStart (periods : List Nat)
  /-- SLEW_DONE (R46): The slewing residual reaches 0, SLEW_DONE is raised and the loop enters LOCKED. -/
  | slewDone
  /-- SYN_OUT_CTRL_WRITE (R37): A write to a synthesizer output's OUT_CTRL enables, disables or re-divides it, with SYNC_PENDING set until the next frame boundary. -/
  | synOutCtrlWrite (syn : Fin 2) (out : Fin 8) (en : Bool) (div : BitVec 10)
  /-- DIV_CHANGE_APPLY (R39): A changed output divider takes effect at the end of the current output period. -/
  | divChangeApply (syn : Fin 2) (out : Fin 8)
  /-- OUT_DELAY_WRITE (R38): A write of OUT_DELAY.DELAY sets a new target delay for a synthesizer output. -/
  | outDelayWrite (syn : Fin 2) (out : Fin 8) (delay : BitVec 16)
  /-- OUT_DELAY_STEP (R38): Each produced output period moves CUR_DELAY one fine step toward the target. -/
  | outDelayStep (syn : Fin 2) (out : Fin 8)
  /-- SYN_UNLOCK (R34): A synthesizer's analogue loop loses lock and SYN_UNLOCK is raised. -/
  | synUnlock (syn : Fin 2)
  /-- EVQ_PUSH (R58): A PUSH on EVQ_CMD checks the entry, its lateness and the queue limits, and accepts or refuses it with a result. -/
  | evqPush (master : Master)
  /-- EVQ_CANCEL (R57): A CANCEL on EVQ_CMD removes the entry whose handle matches, or returns NOT_FOUND. -/
  | evqCancel (master : Master)
  /-- EVQ_FLUSH (R56): A FLUSH on EVQ_CMD removes every entry pushed by the same master and reports the count. -/
  | evqFlush (master : Master)
  /-- EVQ_BAD_COMMAND (R56): An undefined OP on EVQ_CMD completes with BAD_COMMAND and changes nothing. -/
  | evqBadCommand (master : Master) (op : BitVec 4)
  /-- GPIO_PULSE_END (R366): The width of a GPIO_PULSE expires and the pulse term of the event output ends. -/
  | gpioPulseEnd (gpio : Fin 32)
  /-- FABRIC_VERIFY (R75): A VERIFY on FABRIC.CMD reads the image and runs the verification checks, changing nothing. -/
  | fabricVerify (image : Option (List (BitVec 8)))
  /-- FABRIC_LOAD (R79): A LOAD on FABRIC.CMD reads the image into management SRAM, verifies it and, on success, starts applying it. -/
  | fabricLoad (image : Option (List (BitVec 8)))
  /-- ADVANCE_SVN (R92): An ADVANCE_SVN on FABRIC.CMD blows thermometer bits until V equals the running image's SVN. -/
  | advanceSvn
  /-- FABRIC_BAD_COMMAND (R75): An undefined OP on FABRIC.CMD completes with BAD_COMMAND and changes nothing. -/
  | fabricBadCommand
  /-- FULL_LOAD_APPLY (R80): After the Cellar closes its segments, at the next frame boundary every route stops and every unit outside the kept domains is reset and re-structured. -/
  | fullLoadApply (replies : List (Nat × List (BitVec 17)))
  /-- PARTIAL_QUIESCE (R82): At the first frame boundary after verification the named cluster is quiesced and its records and INIT_WRITES are applied. -/
  | partialQuiesce (replies : List (Nat × List (BitVec 17)))
  /-- PARTIAL_RELEASE (R82): At the first frame boundary after applying completes the cluster is released and the result LOADED is written. -/
  | partialRelease
  /-- LINK_ENABLE_WRITE (R111): A write of LINK_CTRL.ENABLE holds the link in OFF or lets it enter DETECT. -/
  | linkEnableWrite (port : Fin 96) (en : Bool)
  /-- LINK_RESTART (R111): A write of LINK_CTRL.RESTART returns the link to DETECT, discarding descriptor and identity. -/
  | linkRestart (port : Fin 96)
  /-- LINK_RETRAIN_REQUEST (R112): A write of LINK_CTRL.RETRAIN requests a retrain, ignored during a bring-up or a retrain. -/
  | linkRetrainRequest (port : Fin 96)
  /-- PORT_CLR_CNT (R121): A write of LINK_CTRL.CLR_CNT zeroes the port's Rasyn or SDI counters in one port clock cycle. -/
  | portClrCnt (port : Fin 96) (hits : BitVec 32)
  /-- QUAR_POLICY_WRITE (R117): A change of QUAR_POLICY takes effect at the next Ruling frame boundary, moving the port between ACTIVE and QUARANTINE. -/
  | quarPolicyWrite (port : Fin 96) (policy : BitVec 2)
  /-- LINK_SIGNAL_DETECT (R111): Forward-lane or back-channel energy is found in DETECT and the link moves to BACK. -/
  | linkSignalDetect (port : Fin 96)
  /-- DETECT_REINIT (R111): Every 100 ms without signal in DETECT the receiver is re-initialised. -/
  | detectReinit (port : Fin 96)
  /-- BACK_CHANNEL_UP (R105): 64 clean idle ordered sets bring the back channel up, moving BACK to DISCOVER or restoring BC_UP. -/
  | backChannelUp (port : Fin 96)
  /-- BACK_CHANNEL_LOST (R511): No K28.5 for 10 µs or 32 code violations in 1 ms clear BC_UP and stop back-channel sending. -/
  | backChannelLost (port : Fin 96) (codeErrors : Nat)
  /-- BACK_CHANNEL_LOSS_TIMEOUT (R511): The back channel stays down for 10 ms and the link returns to DETECT, discarding descriptor and identity. -/
  | backChannelLossTimeout (port : Fin 96)
  /-- DISCOVER_COMPLETE (R114): The four DESC_READs complete and the descriptor is checked for magic, CRC, role and rate, entering AUTH or FAULT. -/
  | discoverComplete (port : Fin 96)
  /-- IDENT_RESPONSE (R116): An IDENT RESPONSE arrives, its signature is verified and looked up in the pairing list to set AUTH_RESULT. -/
  | identResponse (port : Fin 96)
  /-- IDENT_NO_KEY (R116): An IDENT NO_KEY reply arrives and the result is NO_KEY. -/
  | identNoKey (port : Fin 96)
  /-- AUTH_TIMEOUT (R116): No identity reply arrives within 200 ms and the result is TIMEOUT. -/
  | authTimeout (port : Fin 96)
  /-- TRAIN_RESULT (R111): A TRAIN_RESULT with preset error counts arrives and the best preset is selected, moving to ALIGN. -/
  | trainResult (port : Fin 96) (counts : List (BitVec 32))
  /-- LINK_STATE_TIMEOUT (R111): A bring-up state's timeout expires (BACK, DISCOVER, TRAIN or ALIGN), moving the link to FAULT or TRAIN. -/
  | linkStateTimeout (port : Fin 96) (replies : List (BitVec 17))
  /-- FAULT_HOLD_EXPIRY (R111): FAULT_HOLD expires and the link moves from FAULT to DETECT. -/
  | faultHoldExpiry (port : Fin 96)
  /-- FEC_FRAME_RECEIVED (R97): A 5,440-bit forward frame is received, locks are updated and its codeword decoded into packet-stream bytes. -/
  | fecFrameReceived (port : Fin 96) (blocks : List (BitVec 66))
  /-- PACKET_RECEIVED (R101): A packet is taken whole from the lane and routed by its type, with reserved types skipped. -/
  | packetReceived (port : Fin 96) (back : List (BitVec 8))
  /-- VIDEO_LINE_PACKET (R144): A VIDEO_LINE segment is placed into its frame row at its pixel offset, or starts or completes a frame. -/
  | videoLinePacket (port : Fin 96) (overflow : Bool)
  /-- VIDEO_XS_PACKET (R148): VIDEO_XS bytes are gathered by BYTE_OFFSET into the stream's codestream buffer. -/
  | videoXsPacket (port : Fin 96)
  /-- AUDIO_PACKET (R258): A Rasyn AUDIO packet is checked for consecutive SAMPLE_COUNT and its samples handed to the converter. -/
  | audioPacket (port : Fin 96) (dev : Int)
  /-- ANC_PACKET (R279): A Rasyn ANC packet binds to the frame in progress on its VC in Marginalia. -/
  | ancPacket (port : Fin 96)
  /-- META_PACKET (R279): A META packet binds to the frame it names, or is dropped as late or orphaned. -/
  | metaPacket (port : Fin 96)
  /-- CTRL_PACKET (R107): A CTRL packet arrives and is acknowledged, executed, matched to an outstanding request or placed in the receive mailbox. -/
  | ctrlPacket (port : Fin 96)
  /-- TIME_ECHO (R109): A camera's TIME ECHO arrives and the forward and back delays are recomputed as running means. -/
  | timeEcho (port : Fin 96) (rttNs : Nat)
  /-- HOST_CTRL_SEND (R107): A write of CTRL_TX_CMD.SEND sends the host's CTRL request to the endpoint. -/
  | hostCtrlSend (port : Fin 96)
  /-- CTRL_RETRY_TIMEOUT (R107): A CTRL request unacknowledged for 2 ms is retried, or after 8 tries completes with TIMEOUT. -/
  | ctrlRetryTimeout (port : Fin 96) (msgId : BitVec 8)
  /-- REAUTH_TIMER (R119): REAUTH_MIN minutes pass and the port sends a new identity challenge with the link up. -/
  | reauthTimer (port : Fin 96)
  /-- PPB_POLL (R123): Every 10 ms the device polls status, current and voltage of each PPB-controlled port and updates PWR_STAT. -/
  | ppbPoll (port : Fin 96) (status : List (BitVec 17)) (current : List (BitVec 17)) (voltage : List (BitVec 17))
  /-- PPB_INT (R123): A low PPBk_INT_N starts status reads of all ports on the bus ahead of regular polling. -/
  | ppbInt (bus : Fin 6) (statuses : List (List (BitVec 17)))
  /-- PWR_ON_WRITE (R124): A write of PWR_CTRL.ON sends POWER_ON or POWER_OFF for the port unless locked out. -/
  | pwrOnWrite (port : Fin 96) (on : Bool) (replies : List (BitVec 17))
  /-- PWR_CYCLE (R124): A write of PWR_CTRL.CYCLE sends POWER_OFF and starts the OFF_TIME wait. -/
  | pwrCycle (port : Fin 96) (replies : List (BitVec 17))
  /-- PWR_OFF_TIME_EXPIRY (R124): The OFF_TIME of a power cycle expires and POWER_ON is sent. -/
  | pwrOffTimeExpiry (port : Fin 96) (replies : List (BitVec 17))
  /-- CLEAR_LOCKOUT (R123): A write of PWR_CTRL.CLEAR_LOCKOUT sends CLEAR_FAULT and clears LOCKOUT. -/
  | clearLockout (port : Fin 96) (replies : List (BitVec 17))
  /-- PWR_LIMIT_WRITE (R122): A write of PWR_CTRL.LIMIT sends SET_LIMIT to the port's controller. -/
  | pwrLimitWrite (port : Fin 96) (limit : BitVec 8) (replies : List (BitVec 17))
  /-- SDI_CARRIER_UP (R127): Carrier appears on an SDI input and it enters SEARCH. -/
  | sdiCarrierUp (port : Fin 96)
  /-- SDI_SEARCH_TIMER (R127): Every 1 ms in SEARCH clock recovery alternates to the other serial rate. -/
  | sdiSearchTimer (port : Fin 96)
  /-- SDI_CDR_LOCK (R127): Clock recovery locks and the input enters DETECT. -/
  | sdiCdrLock (port : Fin 96)
  /-- SDI_NO_LOCK_TIMEOUT (R128): Carrier present without lock for 10 ms sets NO_LOCK. -/
  | sdiNoLockTimeout (port : Fin 96)
  /-- SDI_DETECT_COMPLETE (R128): Two measured frames fix the format, entering LOCKED if it matches the record or MISMATCH otherwise. -/
  | sdiDetectComplete (port : Fin 96) (width : BitVec 12) (height : BitVec 12) (fields : Bool) (lines : Nat) (rate : Fin 9) (pid : Option (BitVec 32))
  /-- SDI_LINE_RECEIVED (R131): An SDI line is received with its TRS, CRC and line number and placed into the frame. -/
  | sdiLineReceived (port : Fin 96) (eav : Bool) (change : Bool) (lnumErr : Bool) (crcY : Bool) (crcC : Bool) (line : Nat) (samples : List (BitVec 10)) (anc : List SdiAnc) (audio : List SdiAudio)
  /-- SDI_LOSS (R130): Carrier loss, CDR unlock or three missing EAVs abandon the frame in progress and return the input to SEARCH or NO_CARRIER. -/
  | sdiLoss (port : Fin 96) (carrier : Bool)
  /-- FRAME_START (R163): A stream frame starts and the writer takes a slot, or drops the frame with cause PIN. -/
  | frameStart (stream : Fin 1600) (frac : BitVec 16) (tauNs : Nat) (runOk : Bool)
  /-- FRAME_COMPLETE (R145): A frame completes; concealment, sketches and header are written, the slot becomes newest and the stream goes LIVE. -/
  | frameComplete (stream : Fin 1600) (frac : BitVec 16) (refused : Bool)
  /-- LOST_TIMEOUT (R140): The newest frame's age passes LOST_FRAMES × T_s and the stream becomes LOST. -/
  | lostTimeout (stream : Fin 1600)
  /-- XS_DECODE_START (R310): A waiting codestream is assigned to the lowest free ROLE 01h engine and its picture header checked. -/
  | xsDecodeStart
  /-- XS_DECODE_WAIT_TIMEOUT (R148): A codestream waits one T_s for an engine, or is overtaken, and is dropped with cause DECODE. -/
  | xsDecodeWaitTimeout (stream : Fin 1600)
  /-- CODEC_JOB_DONE (R309): An engine finishes decoding or encoding a frame, completing the slot or writing the codestream. -/
  | codecJobDone (engine : Fin 32) (frac : BitVec 16)
  /-- MOTION_FIELD_START (R165): A motion unit takes the next queued field, pins the reference and searches block vectors. -/
  | motionFieldStart (unit : Fin 2)
  /-- MOTION_FIELD_DONE (R167): A vector field is fully written and VEC.VALID is set. -/
  | motionFieldDone (unit : Fin 2)
  /-- STREAM_CLR_CNT (R506): A write of STREAM.CTRL.CLR_CNT zeroes FRAMES, DROPS and CONCEAL_ROWS in one cycle. -/
  | streamClrCnt (stream : Fin 1600) (hits : BitVec 32)
  /-- INGEST_CLR_CNT (R506): A write of INGEST.CTRL.CLR_CNT zeroes the cluster counters in one cycle. -/
  | ingestClrCnt (cluster : Fin 8) (hits : BitVec 32)
  /-- FRAME_FETCH_START (R170): Three lines before the first active line each pane of a Folio latches its slots or surface, with occlusion, budget and seal checks. -/
  | frameFetchStart (folio : Fin 64) (frac : BitVec 16)
  /-- SURF_DESCRIPTOR_WRITE (R504): A write to a SURF descriptor word takes effect from the next latch and may invalidate a dry cache. -/
  | surfDescriptorWrite (surface : Fin 256) (word : Fin 3) (value : BitVec 32)
  /-- FENCE_WRITE (R211): A write of a surface's FENCE counts from the next fence check. -/
  | fenceWrite (surface : Fin 256) (value : BitVec 32)
  /-- COEFF_TABLE_WRITE (R200): A write to a Folio's coefficient table takes effect from the next line scaled. -/
  | coeffTableWrite (folio : Fin 64) (word : Fin 448) (value : BitVec 32)
  /-- COMMIT_ARM (R210): A write of COMMIT.ARM arms the Folio's commit for its next switching point. -/
  | commitArm (folio : Fin 64) (periods : Nat)
  /-- COMMIT_DISARM (R213): A write of COMMIT.DISARM removes an armed commit and raises COMMIT_CLEARED. -/
  | commitDisarm (folio : Fin 64)
  /-- COMMIT_REVERT (R209): A write of COMMIT.REVERT copies every active value to the staged page. -/
  | commitRevert (folio : Fin 64)
  /-- STAGE_HOLD_WRITE (R209): A write of COMMIT.STAGE_HOLD holds or releases armed commits at their switching points. -/
  | stageHoldWrite (folio : Fin 64) (hold : Bool)
  /-- SWITCHING_POINT (R210): A raster reaches its switching point; armed commits check fences and apply, defer or partly apply, with related takes and adjustments. -/
  | switchingPoint (folio : Fin 64) (nextPeriods : Nat) (realign : Int)
  /-- RETIRE_ADVANCE (R215): A frame has fully left the Folio and RETIRE advances, raising FRAME_DONE. -/
  | retireAdvance (folio : Fin 64)
  /-- OUTPUT_LINE (R231): A raster sends a line with its composed pixels, events and latency report. -/
  | outputLine (folio : Fin 64) (frac : BitVec 16) (late : Option Nat) (lateB : Option Nat) (margins : List (Nat × Int)) (room : Nat)
  /-- RASTER_START (R237): With RUN active and checks passed the raster begins line 1 at its frame start and raises RASTER_START. -/
  | rasterStart (folio : Fin 64) (periods : Nat) (index : Nat)
  /-- TIMING_CUT (R251): At the first new switching point after the old frame ends and MODE_CHANGE is acknowledged, the new timing becomes active. -/
  | timingCut (folio : Fin 64) (periods : Nat) (index : Nat)
  /-- TE_REPORT (R246): A display's TE_REPORT arrives and the tearing-effect instant is estimated. -/
  | teReport (port : Fin 96) (ns : Int)
  /-- TE_LINE1_START (R246): In display-timed mode the waiting raster begins line 1 at the reported instant plus DELAY_LINES. -/
  | teLine1Start (folio : Fin 64) (readyNs : Int)
  /-- TE_MISS (R247): No report arrives within a nominal frame period, the raster starts itself and counts TE_MISS. -/
  | teMiss (folio : Fin 64)
  /-- HOLD_ENTER (R248): After every port acknowledges HOLD the Folio stops fetching from the next frame fetch start. -/
  | holdEnter (folio : Fin 64)
  /-- IN_MAP_WRITE (R255): A write to AUDIO.IN_MAP binds an input channel, taking effect at the next 1 ms boundary. -/
  | inMapWrite (ch : Fin 2048) (value : BitVec 32)
  /-- OUT_MAP_WRITE (R266): A write to AUDIO.OUT_MAP places an output channel, taking effect at the next 1 ms boundary. -/
  | outMapWrite (ch : Fin 1024) (value : BitVec 32)
  /-- AUDIO_MAP_APPLY (R255): At a 1 ms audio boundary pending map writes take effect and remapped inputs restart in ACQUIRE. -/
  | audioMapApply
  /-- SRC_STATE_TIMEOUT (R260): A converter state timer expires, moving it between ACQUIRE, LOCKED, HOLD, NO_INPUT and OUT_OF_RANGE. -/
  | srcStateTimeout (ch : Fin 2048) (idle : Bool)
  /-- BANK_COMMIT (R270): A write of BANK_CMD.COMMIT copies the staged audio bank to a pending set, or raises BANK_OVERRUN. -/
  | bankCommit
  /-- AUDIO_OUT_PACKET (R274): An AUDIO packet of the output channels is sent on a Rasyn output within 1 ms of its last sample. -/
  | audioOutPacket (port : Fin 96)
  /-- METER_UPDATE (R276): Every 10 ms the peak and RMS meters of each present channel are updated. -/
  | meterUpdate
  /-- QUERY_FETCH (R280): A write of QUERY_CMD.FETCH looks up a Marginalia record and reports it in QUERY_RESULT. -/
  | queryFetch
  /-- MEMORY_ACCESS (R290): A stream memory access is accepted, firewall-checked and served with ECC. -/
  | memoryAccess (kind : Fin 10) (write : Bool) (cls : Fin 4) (addr : BitVec 35) (len : Nat) (data : List (BitVec 8)) (upsets : List (Nat × Bool)) (ns : Nat) (port : Fin 23) (slots : Nat)
  /-- CLASS_WINDOW_END (R293): At the end of each 10 µs window class charges are reset and classes still waiting are shed. -/
  | classWindowEnd
  /-- CL0_METER_WINDOW (R294): At the end of each 1 ms window a port's class-0 excess is carried as class 3 and counted. -/
  | cl0MeterWindow (port : Fin 22)
  /-- SCRUB_STEP (R288): The scrubber reads the next word, writing back corrected words, and raises SCRUB_DONE at a pass end. -/
  | scrubStep (upsets : List (Nat × Bool))
  /-- MEMORY_TRAINING_DONE (R298): Training completes, TRAINED is set or TRAIN_FAIL raised, and warm-up begins. -/
  | memoryTrainingDone (failed : List (Fin 32))
  /-- DRIFT_SAMPLE (R299): Every 10 ms each channel samples one lane group's timing window and updates its delays. -/
  | driftSample (windows : List (BitVec 8))
  /-- WARMUP_END (R300): All channels have full updates or 100 ms passes and the warm-up limit on classes 1–3 ends. -/
  | warmupEnd
  /-- PD_ENTER (R301): With T_min large enough the memory enters LIGHT or DEEP power-down. -/
  | pdEnter (others : Option Nat) (idle : Bool)
  /-- PD_EXIT (R301): The memory exits power-down by a tolerance deadline or an arriving host or Strongroom access. -/
  | pdExit
  /-- MEMORY_CLR_CNT (R506): A write of MEMORY.CTRL.CLR_CNT zeroes the class-0, ECC and firewall counters and VALID bits in one cycle. -/
  | memoryClrCnt (hits : BitVec 32) (keepUe : Bool) (keepFw : Bool)
  /-- BAR2_ACCESS (R289): A host BAR2 access reaches stream memory as class-3 traffic, with poison and firewall handling. -/
  | bar2Access (write : Bool) (offset : Nat) (len : Nat) (data : List (BitVec 8)) (upsets : List (Nat × Bool))
  /-- CELLAR_ENCODE_START (R312): A free ROLE 03h engine takes the highest-ranked Cellar job and latches the newest slot. -/
  | cellarEncodeStart
  /-- ENCODE_ABANDON (R312): An encode not finished 0.9 × T_s after its latch is abandoned. -/
  | encodeAbandon (engine : Fin 32)
  /-- HOST_ENCODE_START (R313): On a new frame of its stream a ROLE 02h engine encodes it into the host ring or skips it when full. -/
  | hostEncodeStart (engine : Fin 32)
  /-- CELLAR_ENTRY_WRITE (R315): A write to a Cellar entry takes effect at its next segment, or with EN 0 closes its open segment. -/
  | cellarEntryWrite (entry : Fin 256) (word : Fin 3) (value : BitVec 32)
  /-- HEARTBEAT (R316): Any write to CELLAR.HEARTBEAT renews the heartbeat watch. -/
  | heartbeat
  /-- HEARTBEAT_LAPSE (R316): HB_TIMEOUT passes without a heartbeat and the uplink is lost. -/
  | heartbeatLapse
  /-- UPLINK_PIN_LOSS (R316): UPLINK_OK low for 100 ms declares the uplink lost. -/
  | uplinkPinLoss
  /-- UPLINK_RESTORED (R316): UPLINK_OK high for 1 s and heartbeats unbroken for one HB_TIMEOUT restore the uplink. -/
  | uplinkRestored
  /-- INCIDENT_SET (R316): A write of INCIDENT_CMD.SET starts an incident and places an FFh mark in every entry. -/
  | incidentSet
  /-- INCIDENT_CLEAR (R316): A write of INCIDENT_CMD.CLEAR ends an incident at once. -/
  | incidentClear
  /-- INCIDENT_HOLD_EXPIRY (R316): INC_HOLD_S seconds after its last cause the incident ends. -/
  | incidentHoldExpiry
  /-- POST_S_EXPIRY (R317): POST_S seconds after an entry's last trigger ends, it stops at its next segment boundary. -/
  | postSExpiry (entry : Fin 256)
  /-- CELLAR_AUDIO_RECORD (R321): Once K passes a 960-sample span by 96 samples the entry writes its audio record. -/
  | cellarAudioRecord (entry : Fin 256)
  /-- CELLAR_DRIVE_WRITE (R319): Pending records are written to the drive oldest first, metered to DRIVE_RATE per 10 ms. -/
  | cellarDriveWrite
  /-- FOOTER_SIGNATURE_DONE (R333): A footer signature completes and the footer is written in GSEQ order with its mode. -/
  | footerSignatureDone (aborted : Bool)
  /-- FOOTER_SIGN_TIMEOUT (R333): A footer signature not complete within 1 s is written unsigned in mode 03h. -/
  | footerSignTimeout
  /-- CELLAR_OVERLOAD_CHECK (R324): Every 10 ms an overloaded Cellar suspends one entry, or every 100 ms resumes one once relieved. -/
  | cellarOverloadCheck
  /-- SUPERBLOCK_TIMER (R328): At least every 10 s while writing, a superblock is written after a Flush. -/
  | superblockTimer
  /-- CELLAR_INIT (R326): The root port link comes up, the controller is enabled, identified and queued, and the superblock read. -/
  | cellarInit (link : Bool) (lbaBytes : Nat) (blocks : Nat) (plain : Bool) (dsm : Bool) (cache : Bool) (transfer : Nat) (copies : List (List (BitVec 8))) (dir : List (List (BitVec 8))) (extents : List (Nat × List (BitVec 8)))
  /-- CELLAR_RETRY_TIMER (R326): NO_DRIVE retries every 1 s and FAULT every 10 s by a new INIT. -/
  | cellarRetryTimer
  /-- NVME_COMPLETION (R325): An NVMe command completes on a completion queue and frees its records. -/
  | nvmeCompletion (tag : Nat)
  /-- NVME_TIMEOUT (R326): A command not completed within 2 s resets the controller, or on the second time puts the Cellar in FAULT. -/
  | nvmeTimeout
  /-- ROOT_PORT_LINK_DOWN (R326): The Cellar's root port link goes down and the Cellar enters FAULT. -/
  | rootPortLinkDown
  /-- CELLAR_FORMAT (R340): A FORMAT on CELLAR.CMD formats a blank drive, or a signed-permitted one. -/
  | cellarFormat
  /-- CELLAR_READ_SEG (R340): A READ_SEG copies a whole segment to a host buffer by DMA. -/
  | cellarReadSeg (ok : Bool) (data : List (BitVec 8))
  /-- CELLAR_RESCAN (R326): A RESCAN on CELLAR.CMD starts INIT at once. -/
  | cellarRescan
  /-- CELLAR_BAD_COMMAND (R340): An undefined OP on CELLAR.CMD completes with BAD_COMMAND. -/
  | cellarBadCommand
  /-- DIR_CURSOR_WRITE (R339): A write to DIR_CURSOR restarts the directory port queue from that GSEQ. -/
  | dirCursorWrite (high : Bool) (value : BitVec 32)
  /-- BAR0_REQUEST (R343): A host BAR0 request is rejected with Unsupported Request or enters the control interconnect. -/
  | bar0Request (write : Bool) (addr : BitVec 22) (len : Nat) (data : List (BitVec 8)) (at' : Moment)
  /-- MSIX_SIGNAL (R347): An armed vector with its condition 1 and holdoff run out sends its MSI-X message or sets its PBA bit. -/
  | msixSignal (vector : Fin 256)
  /-- VECTOR_HOLDOFF_END (R347): A vector's holdoff timer runs out. -/
  | vectorHoldoffEnd (vector : Fin 256)
  /-- VEC_EOI_WRITE (R347): A write of a vector number to VEC_EOI re-arms that vector. -/
  | vecEoiWrite (vector : BitVec 8)
  /-- DMA_TAIL_WRITE (R349): A write of a DMA channel's TAIL starts execution of descriptors up to it. -/
  | dmaTailWrite (chan : Fin 4) (tail : BitVec 13)
  /-- DMA_NOP (R349): A NOP descriptor completes without moving data. -/
  | dmaNop (chan : Fin 4) (flags : BitVec 8) (ok : Bool)
  /-- DMA_H2S (R349): An H2S descriptor copies host memory into stream memory and writes back its STATUS. -/
  | dmaH2s (chan : Fin 4) (dst : BitVec 64) (len : BitVec 32) (flags : BitVec 8) (data : Option (List (BitVec 8)))
  /-- DMA_S2H (R349): An S2H descriptor copies stream memory to host memory and writes back its STATUS. -/
  | dmaS2h (chan : Fin 4) (src : BitVec 64) (dst : BitVec 64) (len : BitVec 32) (flags : BitVec 8) (ok : Bool)
  /-- DMA_REG_WRITE (R350): A REG_WRITE descriptor writes a 32-bit value to a BAR0 register after the previous descriptor completes. -/
  | dmaRegWrite (chan : Fin 4) (dst : BitVec 64) (value : BitVec 32) (flags : BitVec 8) (ok : Bool) (at' : Moment)
  /-- DMA_RESET (R351): A write of DMA CTRL.RESET returns the channel to IDLE with HEAD and TAIL 0. -/
  | dmaReset (chan : Fin 4)
  /-- FUNCTION_RESET (R352): An FLR, hot reset, link-down or PERST_N resets the host function alone. -/
  | functionReset (kind : Fin 4) (burst : Bool)
  /-- ICX_TRANSACTION (R355): An interconnect transaction is granted by QoS and carried to its target. -/
  | icxTransaction (master : Master) (write : Bool) (addr : BitVec 32) (beats : Fin 17) (data : List (BitVec 32)) (at' : Moment)
  /-- ICX_TIMEOUT (R356): A target unanswered for 1,024 management clocks is timed out and the error recorded. -/
  | icxTimeout (master : Master) (write : Bool) (addr : BitVec 32)
  /-- HOSTIF_CLR_CNT (R506): A write of HOSTIF.CTRL.CLR_CNT zeroes the interconnect error counters in one cycle. -/
  | hostifClrCnt (hits : BitVec 2) (keepErr : Bool)
  /-- FLASH_READ (R361): A READ on FLASH_CMD reads up to 256 flash bytes into FLASH_BUF. -/
  | flashRead (addr : BitVec 28)
  /-- FLASH_PROGRAM (R361): A PROGRAM on FLASH_CMD programs up to 256 bytes within a page, refused in the protected area. -/
  | flashProgram (addr : BitVec 28)
  /-- FLASH_ERASE_4K (R361): An ERASE_4K on FLASH_CMD erases a 4 KiB sector, refused in the protected area. -/
  | flashErase4k (addr : BitVec 28)
  /-- FLASH_OP_COMPLETE (R361): The flash completes the host operation and FLASH_RESULT is written. -/
  | flashOpComplete
  /-- FLASH_TIMEOUT (R361): A flash operation not completed within 400 ms ends with TIMEOUT. -/
  | flashTimeout
  /-- SMB_STATE (R362): The SMBus STATE command returns the power state code. -/
  | smbState
  /-- SMB_MAX_TEMP (R362): The SMBus MAX_TEMP command returns the hottest valid sensor. -/
  | smbMaxTemp
  /-- SMB_ALARMS (R362): The SMBus ALARMS command returns the alarm pin levels. -/
  | smbAlarms (uplinkOk : Bool)
  /-- SMB_POWER (R362): The SMBus POWER command returns the power estimate. -/
  | smbPower
  /-- SMB_ID (R362): The SMBus ID command returns DEVICE_UID. -/
  | smbId
  /-- SMB_UNKNOWN_COMMAND (R362): Any other SMBus command is answered with NACK. -/
  | smbUnknownCommand
  /-- PMBUS_POLL (R363): Every 100 ms each enabled regulator is polled, or every 10 s an absent one is retried. -/
  | pmbusPoll (dev : Fin 8) (reply : Option (BitVec 5 × BitVec 16 × BitVec 16 × BitVec 16))
  /-- GPIO_INPUT_CHANGE (R365): A debounced GPIO input changes, raising GPIO_EDGE and acting as incident, quiet or wake input. -/
  | gpioInputChange (gpio : Fin 32) (level : Bool)
  /-- SEAL_APPLY (R224): A seal APPLY command is verified and stored with its CMD_SEQ in the Attic. -/
  | sealApply (storeOk : Bool)
  /-- SEAL_LOAD_SURFACE (R224): A seal LOAD_SURFACE copies a surface into the seal store and checks its hash. -/
  | sealLoadSurface (data : Option (List (BitVec 8))) (storeOk : Bool)
  /-- SEAL_CLEAR (R224): A seal CLEAR command is verified and stored, removing the seal pane's source. -/
  | sealClear (storeOk : Bool)
  /-- PAIR_ADD (R386): The PAIR_ADD owner subop updates or fills a pairing-list entry. -/
  | pairAdd (storeOk : Bool)
  /-- PAIR_REVOKE (R386): The PAIR_REVOKE owner subop sets an entry's revoked flag. -/
  | pairRevoke (storeOk : Bool)
  /-- PAIR_REMOVE (R386): The PAIR_REMOVE owner subop zeroes an entry. -/
  | pairRemove (storeOk : Bool)
  /-- PAIR_REKEY (R386): The PAIR_REKEY owner subop writes a new list tag under slot 1 if the list hash matches. -/
  | pairRekey (storeOk : Bool)
  /-- PAIR_CLEAR (R386): The PAIR_CLEAR owner subop zeroes every entry and writes a new tag. -/
  | pairClear (storeOk : Bool)
  /-- UNPROTECT (R335): The UNPROTECT owner subop lifts protection from a GSEQ range. -/
  | unprotect (storeOk : Bool)
  /-- CELLAR_FORMAT_PERMIT (R386): The CELLAR_FORMAT owner subop permits one FORMAT of the drive within 60 s. -/
  | cellarFormatPermit (storeOk : Bool)
  /-- REROOT (R395): The REROOT owner subop takes a new root and clears TAMPERED, unless a tamper input is active. -/
  | reroot (storeOk : Bool) (inputs : BitVec 2)
  /-- ROTATE_REC (R386): The ROTATE_REC owner subop re-derives the recording key in slot 0. -/
  | rotateRec (storeOk : Bool)
  /-- ADD_OWNER_KEY (R371): The ADD_OWNER_KEY owner subop programs an owner key hash slot. -/
  | addOwnerKey (storeOk : Bool) (fuseOk : Bool)
  /-- REVOKE_OWNER_KEY (R386): The REVOKE_OWNER_KEY owner subop revokes an owner slot, never the last. -/
  | revokeOwnerKey (storeOk : Bool)
  /-- TAMPER_CFG (R391): The TAMPER_CFG owner subop writes the tamper input configuration. -/
  | tamperCfg (storeOk : Bool)
  /-- TAKE_OWNERSHIP (R370): The TAKE_OWNERSHIP owner subop takes a new root, programs an owner slot and moves to OWNED. -/
  | takeOwnership (storeOk : Bool) (fuseOk : Bool)
  /-- RETURN (R370): The RETURN owner subop zeroes the root, revokes owner slots and moves to RETURNED. -/
  | returnPart (storeOk : Bool)
  /-- SCRAP (R370): The SCRAP owner subop zeroes the root and blows the lifecycle to SCRAPPED. -/
  | scrap (storeOk : Bool)
  /-- ATTEST (R399): An ATTEST command returns a statement signed by the identity key. -/
  | attest
  /-- EXTEND (R397): An EXTEND command extends measurement register 5–7 with 48 bytes. -/
  | extend
  /-- RANDOM (R389): A RANDOM command returns LEN bytes from the DRBG. -/
  | random
  /-- DERIVE (R377): A DERIVE command fills a host slot by HKDF from its parent or the root. -/
  | derive
  /-- GENERATE (R377): A GENERATE command fills a host slot with a DRBG key. -/
  | generate
  /-- INVALIDATE (R378): An INVALIDATE command empties a host slot and increases its GEN. -/
  | invalidate
  /-- SIGN (R380): A SIGN command signs a 48-byte hash with an ECDSA host slot. -/
  | sign
  /-- HMAC (R380): An HMAC command computes a tag with an HMAC host slot. -/
  | hmac
  /-- PUBKEY (R382): A PUBKEY command returns the public key of slot 0 or an ECDSA host slot. -/
  | pubkey
  /-- STRONGROOM_BAD_COMMAND (R382): An undefined OP or out-of-range argument completes with BAD_COMMAND. -/
  | strongroomBadCommand
  /-- STRONGROOM_OP_COMPLETE (R381): An engine operation completes and its result, possibly ORPHANED, is published. -/
  | strongroomOpComplete
  /-- TAMPER_DETECT (R392): A tamper source stays active for its filter time; root and slots are zeroed, TAMPERED latched and the log written. -/
  | tamperDetect (source : Fin 4) (bursts : BitVec 2)
  /-- DRBG_HEALTH_RETEST (R389): While health tests fail the entropy source is tested again every second. -/
  | drbgHealthRetest (pass : Bool)
  /-- TAP_EXTEST (R400): The EXTEST instruction drives pins from the boundary register. -/
  | tapExtest (shift : List Bool)
  /-- TAP_IDCODE (R400): The IDCODE instruction shifts out 00C9609Bh. -/
  | tapIdcode
  /-- TAP_SAMPLE_PRELOAD (R400): The SAMPLE/PRELOAD instruction samples or preloads the boundary register. -/
  | tapSamplePreload (pins : List Bool) (shift : List Bool)
  /-- TAP_BYPASS (R400): BYPASS or any undefined instruction selects the bypass register. -/
  | tapBypass (shift : List Bool)
  /-- DBG_CHALLENGE (R400): DBG_CHALLENGE captures a fresh nonce and DEVICE_UID. -/
  | dbgChallenge
  /-- DBG_TOKEN (R401): DBG_TOKEN takes a debug token, verifies it and opens VIEW or FULL. -/
  | dbgToken (token : List (BitVec 8))
  /-- DBG_STATUS (R400): DBG_STATUS captures the debug level and last token result. -/
  | dbgStatus
  /-- DBG_ACCESS (R400): DBG_ACCESS with GO performs an interconnect read or write permitted by the debug level. -/
  | dbgAccess (shift : BitVec 68) (at' : Moment)
  /-- DBG_RELOCK (R404): DBG_RELOCK ends the debug session. -/
  | dbgRelock (burst : Bool)
  /-- TAP_RESET (R494): TRST_N low for 100 ns resets the TAP asynchronously. -/
  | tapReset
  /-- DEBUG_SESSION_EXPIRY (R404): DURATION_S life-clock seconds pass and the debug session ends. -/
  | debugSessionExpiry (burst : Bool)
  /-- PWR_CMD_RUN (R409): A PWR_CMD of RUN requests the RUN state or wakes the device. -/
  | pwrCmdRun
  /-- PWR_CMD_QUIET (R409): A PWR_CMD of QUIET requests the QUIET state or wakes into it. -/
  | pwrCmdQuiet
  /-- PWR_CMD_STANDBY (R412): A PWR_CMD of STANDBY starts STANDBY entry, emptying queues and removing armed commits. -/
  | pwrCmdStandby (replies : List (BitVec 17))
  /-- PWR_BAD_COMMAND (R409): An undefined PWR_CMD.OP completes with BAD_COMMAND. -/
  | pwrBadCommand (op : BitVec 4)
  /-- WAKE_TIMER (R409): The life clock reaches WAKE_TIMER in STANDBY and starts a resume. -/
  | wakeTimer
  /-- QUIET_ENTRY (R410): At the Ruling frame boundary after a QUIET request units of dropped domains stop, with domains switched off 1 ms later. -/
  | quietEntry (replies : List (BitVec 17))
  /-- QUIET_EXIT (R410): On return to RUN re-powered domains come up and their clusters are released at the next frame boundary. -/
  | quietExit (replies : List (BitVec 17))
  /-- STANDBY_ENTRY_COMPLETE (R412): After Cellar close, raster stop and save set, registers are saved, stacks enter self-refresh and domains switch off. -/
  | standbyEntryComplete
  /-- RESUME (R414): A wake event powers domains, restores structure and registers, retrains memory and releases units. -/
  | resume (failed : List (Fin 32)) (entropyOk : Bool) (replies : List (BitVec 17))
  /-- MAIN_POWER_LOSS (R411): Main rails fall and the device enters VBAT-only. -/
  | mainPowerLoss (left : List (Nat × BitVec 8 × Bool))
  /-- PWRFAIL (R418): PWRFAIL_N low for 2 µs starts the power-fail response and save set. -/
  | pwrfail (left : List (Nat × BitVec 8 × Bool))
  /-- PF_RECOVER (R419): PWRFAIL_N high for 100 ms without reset ends the power-fail response. -/
  | pfRecover
  /-- SENSOR_SAMPLE (R422): Each sensor sample is checked for plausibility and T_max and levels are updated. -/
  | sensorSample (raws : List (Option (BitVec 16))) (elapsedNs : Nat)
  /-- STEP_HOLD_END (R423): One second after a sensor failure the throttle step may decrease again. -/
  | stepHoldEnd
  /-- THROTTLE_STEP (R427): Every 10 ms the throttle step rises, holds or falls by one. -/
  | throttleStep
  /-- ESTIMATE_UPDATE (R431): Every 1 ms the power estimate E is recomputed. -/
  | estimateUpdate (mw : List Nat)
  /-- ESTIMATE_RESCALE (R432): Each second telemetered groups are compared with the estimate and S_g rescaled. -/
  | estimateRescale
  /-- ATTIC_READ (R436): A READ on ATTIC_CMD fills the page buffer and byte status, or is refused. -/
  | atticRead (page : BitVec 14)
  /-- ATTIC_WRITE (R439): A WRITE on ATTIC_CMD writes the loaded bytes of the buffer to a page. -/
  | atticWrite (page : BitVec 14)
  /-- ATTIC_WRITE_SEALED (R441): A WRITE_SEALED writes a page with byte 63 committed last as 5Ah. -/
  | atticWriteSealed (page : BitVec 14)
  /-- ATTIC_MARGIN_READ (R436): A MARGIN_READ reads a page at margin and reports weak bytes. -/
  | atticMarginRead (page : BitVec 14)
  /-- ATTIC_BUF_CLEAR (R439): A BUF_CLEAR clears the page buffer mask without writing. -/
  | atticBufClear
  /-- ATTIC_BAD_COMMAND (R438): An undefined ATTIC_CMD.OP completes with BAD_COMMAND. -/
  | atticBadCommand
  /-- ATTIC_BUF_WRITE (R439): A write into ATTIC_BUF sets the bytes' bits in BUF_MASK. -/
  | atticBufWrite (word : Fin 16) (value : BitVec 32) (be : BitVec 4)
  /-- ATTIC_BP_LOCK (R446): A write of 1 to ATTIC_BP.LOCK prevents lowering the protection level. -/
  | atticBpLock
  /-- ATTIC_PAGE_WRITE_DONE (R437): A bank finishes a page write, margin-verifies it and repeats or reports VERIFY_FAIL. -/
  | atticPageWriteDone (bank : Fin 8) (bad : List (Fin 64)) (saveUs : BitVec 16)
  /-- REFRESH_PASS (R449): The periodic margin pass reads pages and rewrites those holding weak bytes. -/
  | refreshPass (page : BitVec 14)
  /-- FOLD_WINDOW_EXPIRY (R454): A held-open record's fold window ends and it closes, becoming pending if severe enough. -/
  | foldWindowExpiry (code : BitVec 16) (inst : BitVec 16)
  /-- BLOTTER_PERSIST (R457): The Blotter writer issues a pending record's write into its ring slot. -/
  | blotterPersist
  /-- HISTOGRAM_SAMPLE (R459): Each operating second the 35 quantities are sampled into their bins and extremes. -/
  | histogramSample (lifeTicks : Nat)
  /-- HISTOGRAM_COPY (R460): Each operating hour each quantity is copied into the next of its four sealed copies. -/
  | histogramCopy
  /-- OP_RESERVE_ADVANCE (R443): OP_S reaches the reserve limit and the OP_RESERVE counter is written. -/
  | opReserveAdvance
  /-- SNAP_START (R461): A write of SNAP_CMD.START fixes SNAP_END and sets the read position to SNAP_FROM. -/
  | snapStart
  /-- CAL_SET_WRITE (R452): A write of CAL_SET sets the calendar offset and makes a CAL_SET record. -/
  | calSetWrite (value : BitVec 32)
  /-- CLEAR_SUBMIT (R462): A write of CLEAR_CMD.SUBMIT verifies a signed clear block and clears log, histograms or both. -/
  | clearSubmit (storeOk : Bool)
  /-- POWER_ON_RESET (R464): VDD_AON rising through its threshold resets the device and clears the shutdown latch. -/
  | powerOnReset (vbatLost : Bool) (lifeS : Nat) (left : List (Nat × BitVec 8 × Bool))
  /-- PIN_RESET (R464): PORESET_N low for 1 µs resets the device without a drain. -/
  | pinReset (left : List (Nat × BitVec 8 × Bool))
  /-- WATCHDOG_EXPIRY (R468): The management core's watchdog expires and a drained WATCHDOG reset follows. -/
  | watchdogExpiry (burst : Bool) (left : List (Nat × BitVec 8 × Bool))
  /-- SOFT_RESET_REQUEST (R466): A write of RESET_CMD with SOFT and the right key starts a drain before a SOFT reset. -/
  | softResetRequest (key : BitVec 16) (soft : Bool)
  /-- RESET_DRAIN_END (R466): The drain ends after 50 ms or when no record is pending, and the reset acts. -/
  | resetDrainEnd (left : List (Nat × BitVec 8 × Bool))
  /-- COLD_BOOT (R469): From PORESET_N rising the boot ROM reads fuses, loads Zalu and the image, and trains memory. -/
  | coldBoot (entropyOk : Bool) (replies : List (Nat × List (BitVec 17)))
  /-- BOOT_RELEASE (R469): At the first Ruling frame boundary after image and training every unit is released and STAGE reads RUNNING. -/
  | bootRelease (ms : Nat)
  /-- FAULT_ACK_ECC (R476): A write of FAULT_ACK.ECC ends the latched ECC fault source. -/
  | faultAckEcc
  /-- AUDIO_SAMPLE (R267): At each 48 kHz period of the audio master clock the converters deliver a sample into the delay store, each output channel is mixed, and fades and delay tracking advance. -/
  | audioSample
  /-- PRESET_DWELL_EXPIRY (R111): In TRAIN each preset dwell of DWELL ms ends, moving the transmitter to the next preset or, on an input port, ending the device's own error count and selecting the best preset. -/
  | presetDwellExpiry (port : Fin 96)
  /-- VCO_LOCK_REGAINED (R34): A synthesizer's analogue loop regains lock and STATUS.VCO_LOCK returns to 1. -/
  | vcoLockRegained (syn : Fin 2)
  /-- LIFE_CLOCK_SAVE (R375): Every hour of the life clock the Strongroom saves the life clock into its Attic pages. -/
  | lifeClockSave
  /-- CONFIGURATION_REQUEST (R342): A PCIe configuration write changes Bus Master Enable, Memory Space Enable, the Resizable BAR size or the MSI-X Function Mask, with a BAR2 size taking effect once Memory Space Enable has been 0. -/
  | configurationRequest (what : ConfigWrite)
  /-- MSIX_VECTOR_MASK_WRITE (R347): A write to a vector's MSI-X table mask bit masks or unmasks it, and an unmasked vector with its PBA bit set then sends its message. -/
  | msixVectorMaskWrite (vector : Fin 256) (mask : Bool)
  /-- ENDPOINT_LINK_UP (R341): The host endpoint's PCIe link completes training and reaches L0, updating HOSTIF.LINK and releasing WAKE_N. -/
  | endpointLinkUp (gen : Fin 5) (widthLog2 : Fin 4)
  deriving DecidableEq, Repr

end Sys2Proof
end

