-- ==== Sys2Proof/Config.lean ====
section
/-!
DEFINITION. What the spec leaves open: opaque constants with no body, so that no proof can use a particular value.
Each is named in a log entry (notes/assumptions).
-/
namespace Sys2Proof.Config

/-- Whether a register that shows a quantity in whole units of it holds the next number up, where the quantity is no whole number
(01_ruling.md R40, R41, R45 and others state no rounding). Log entry 10. -/
opaque roundsUp : Rat → Bool

/-- Octet `i` of the DRBG output numbered `n` (13_strongroom.md R389 gives no values). Log entry 2. -/
opaque entropy : Nat → Nat → Byte

/-- The key of a slot's TAG, from DEVICE_SECRET or the test root: R376 says that it is derived, not how. Log entry 19. -/
opaque slotTagKey : List Byte → List Byte

/-- The pad samples of a line's last group (05_ingest_inkwell.md R154 gives no value for the device's own lines). Log entry 29. -/
opaque padSample : Nat

/-- The JPEG XS decoder (11_codecs_cellar.md names the standard): the sample at a component, row and column of the picture
a codestream holds. Log entry 30. -/
opaque xsDecode : List Byte → Nat → Nat → Nat → Nat

/-- Width, height, sampling (as storage layouts: 0 4:2:2, 1 4:2:0, 2 4:4:4) and component count of a codestream's picture
header. Log entry 30. -/
opaque xsHeader : List Byte → Option (Nat × Nat × Nat × Nat)

/-- Whether a slice of 16 rows holds one of the byte ranges (offset, length) of a codestream. Log entry 30. -/
opaque xsSliceHit : List Byte → List (Nat × Nat) → Nat → Bool

/-- The JPEG XS encoder: the codestream of a frame of a storage format, width, height and rate whose samples are listed, within a number of
bytes (11_codecs_cellar.md R308, R309). Log entry 30. -/
opaque xsEncode : (code width height num den : Nat) → List Nat → Nat → List Byte

/-- Frames lost beyond the cut of a segment closed at recovery (R337 counts them; what was lost is not known). Log entry 35. -/
opaque framesLost : Nat → Nat

/-- A sample-rate converter's output, from the arrived samples (newest first), the deviation in 0.1 ppm, the rate code and the
period number: R261 bounds its response and gives no coefficients. Log entry 33. -/
opaque resample : List Int → Int → Nat → Nat → Rat

/-- The 16-tap interpolator of the delay store at a position in 1/16 samples (09_audio_marginalia.md R263). Log entry 33. -/
opaque interpolate : List Int → Nat → Rat

/-- The value at position `i` of a linear ramp of `n` samples from 0 to `v` (R259, R260 give no rounding). Log entry 33. -/
opaque ramp : Nat → Nat → Int → Int

/-- What a gain of a fade that no Q3.13 number equals is at 24-bit precision (R268). Log entry 33. -/
opaque gain24 : Rat → Rat

/-- A component of a pixel whose picture an undefined encoding leaves unpredictable (00_scope.md R10), at the free value number,
column, row and component given. Log entry 50. -/
opaque undefinedPixel : Nat → Nat → Nat → Nat → Nat

/-- What a register field of a width and signedness holds of a quantity outside its range (14_power_thermal.md and
12_host_control.md R363 state no limit). Log entry 57. -/
opaque fieldValue : Rat → Nat → Bool → Int

/-- The share of a new difference in a gradient's exponential mean of 10 s time constant, after a number of ns (R422). Log entry 58. -/
opaque gradientGain : Nat → Rat

/-- A byte of the flash under an operation that timed out: the free value number and the address (12_host_control.md R361 does not say
what a PROGRAM or ERASE_4K leaves then). Log entry 59. -/
opaque tornFlash : Nat → Nat → Byte

/-- The offset in ns of a TIME marker's start from line 1, at a free value number, modulo 65 (03_rasyn_link.md R109: 0 to 64 ns).
Log entry 66. -/
opaque markerPhase : Nat → Nat

/-- A byte of the boot ROM (12_host_control.md R353, 18_register_map.md R505 give its place, not its content). Log entry 68. -/
opaque romByte : Nat → Byte

/-- Whether firmware verifies against the vendor key hash (16_startup_faults.md R468 gives no layout of a firmware image), and the
version it carries (13_strongroom.md R399). Log entry 69. -/
opaque zaluVerifies : List Byte → List Byte → Bool

/-- See above. -/
opaque zaluVersion : List Byte → Nat

/-- Of the class-0 load in bit/s of all host and Cellar encodes, what one codec cluster's port is admitted
(10_stream_memory.md R294 names the port and no share). Log entry 71. -/
opaque codecAdmitted : Nat → Rat → Rat

/-- Channel time in ns that an access of so many bytes at an address spends on row activation and bus turnaround (10_stream_memory.md
R293). -/
opaque rowTime : Nat → Nat → Nat

end Sys2Proof.Config
end

