-- ==== Sys2Proof/Machine/Crypto.lean ====
section
/-!
DEFINITION. The checks and the cryptography the spec names by standard: CRC-32 of IEEE 802.3 and CRC-16 (R66, R99), SHA-384
(R68), HMAC and HKDF over it (13_strongroom.md R376), and ECDSA on P-384 per FIPS 186-5 (R73). The standards' own texts
are not in the spec; log entry 15.
-/
namespace Sys2Proof.Machine
open Sys2Proof

/-- One bit of a reflected CRC-32 (polynomial EDB88320h). -/
def crc32Bit (c : BitVec 32) : BitVec 32 := if c.getLsbD 0 then (c >>> 1) ^^^ 0xEDB88320 else c >>> 1

def crc32Byte (c : BitVec 32) (b : Byte) : BitVec 32 :=
  crc32Bit (crc32Bit (crc32Bit (crc32Bit (crc32Bit (crc32Bit (crc32Bit (crc32Bit (c ^^^ b.setWidth 32))))))))

/-- The CRC-32 of IEEE 802.3. -/
def crc32 (bs : List Byte) : BitVec 32 := ~~~(bs.foldl crc32Byte 0xFFFFFFFF)

def crc16Bit (c : BitVec 16) : BitVec 16 := if c.getLsbD 15 then (c <<< 1) ^^^ 0x1021 else c <<< 1

def crc16Byte (c : BitVec 16) (b : Byte) : BitVec 16 :=
  crc16Bit (crc16Bit (crc16Bit (crc16Bit (crc16Bit (crc16Bit (crc16Bit (crc16Bit (c ^^^ (b.setWidth 16 <<< 8)))))))))

/-- CRC-16 with polynomial 1021h, initial value FFFFh, no reflection and no final XOR (R99). -/
def crc16 (bs : List Byte) : BitVec 16 := bs.foldl crc16Byte 0xFFFF

/-- `n` octets of a number, the most significant first. -/
def beBytes (n v : Nat) : List Byte := (List.range n).map fun i => BitVec.ofNat 8 (v >>> (8 * (n - 1 - i)))

/-- The number a big-endian octet string spells. -/
def beNat (bs : List Byte) : Nat := bs.foldl (fun n b => n * 256 + b.toNat) 0

/-- `n` bytes of a number, the least significant first (R6). -/
def leBytes (n v : Nat) : List Byte := (List.range n).map fun i => BitVec.ofNat 8 (v >>> (8 * i))

/-- The number a little-endian byte string spells (R6). -/
def leNat (bs : List Byte) : Nat := bs.foldr (fun b n => b.toNat + 256 * n) 0

/-- Bytes `o` to `o + n - 1` of a record; bytes beyond its end read 0. -/
def slice (bs : List Byte) (o n : Nat) : List Byte :=
  let x := (bs.drop o).take n
  x ++ List.replicate (n - x.length) 0

/-- The little-endian field of `n` bytes at offset `o`. -/
def leAt (bs : List Byte) (o n : Nat) : Nat := leNat (slice bs o n)

def shaK0 : List Nat := [
  0x428A2F98D728AE22, 0x7137449123EF65CD, 0xB5C0FBCFEC4D3B2F, 0xE9B5DBA58189DBBC,
  0x3956C25BF348B538, 0x59F111F1B605D019, 0x923F82A4AF194F9B, 0xAB1C5ED5DA6D8118,
  0xD807AA98A3030242, 0x12835B0145706FBE, 0x243185BE4EE4B28C, 0x550C7DC3D5FFB4E2,
  0x72BE5D74F27B896F, 0x80DEB1FE3B1696B1, 0x9BDC06A725C71235, 0xC19BF174CF692694,
  0xE49B69C19EF14AD2, 0xEFBE4786384F25E3, 0x0FC19DC68B8CD5B5, 0x240CA1CC77AC9C65]
def shaK1 : List Nat := [
  0x2DE92C6F592B0275, 0x4A7484AA6EA6E483, 0x5CB0A9DCBD41FBD4, 0x76F988DA831153B5,
  0x983E5152EE66DFAB, 0xA831C66D2DB43210, 0xB00327C898FB213F, 0xBF597FC7BEEF0EE4,
  0xC6E00BF33DA88FC2, 0xD5A79147930AA725, 0x06CA6351E003826F, 0x142929670A0E6E70,
  0x27B70A8546D22FFC, 0x2E1B21385C26C926, 0x4D2C6DFC5AC42AED, 0x53380D139D95B3DF,
  0x650A73548BAF63DE, 0x766A0ABB3C77B2A8, 0x81C2C92E47EDAEE6, 0x92722C851482353B]
def shaK2 : List Nat := [
  0xA2BFE8A14CF10364, 0xA81A664BBC423001, 0xC24B8B70D0F89791, 0xC76C51A30654BE30,
  0xD192E819D6EF5218, 0xD69906245565A910, 0xF40E35855771202A, 0x106AA07032BBD1B8,
  0x19A4C116B8D2D0C8, 0x1E376C085141AB53, 0x2748774CDF8EEB99, 0x34B0BCB5E19B48A8,
  0x391C0CB3C5C95A63, 0x4ED8AA4AE3418ACB, 0x5B9CCA4F7763E373, 0x682E6FF3D6B2B8A3,
  0x748F82EE5DEFB2FC, 0x78A5636F43172F60, 0x84C87814A1F0AB72, 0x8CC702081A6439EC]
def shaK3 : List Nat := [
  0x90BEFFFA23631E28, 0xA4506CEBDE82BDE9, 0xBEF9A3F7B2C67915, 0xC67178F2E372532B,
  0xCA273ECEEA26619C, 0xD186B8C721C0C207, 0xEADA7DD6CDE0EB1E, 0xF57D4F7FEE6ED178,
  0x06F067AA72176FBA, 0x0A637DC5A2C898A6, 0x113F9804BEF90DAE, 0x1B710B35131C471B,
  0x28DB77F523047D84, 0x32CAAB7B40C72493, 0x3C9EBE0A15C9BEBC, 0x431D67C49C100D4C,
  0x4CC5D4BECB3E42B6, 0x597F299CFC657E2A, 0x5FCB6FAB3AD6FAEC, 0x6C44198C4A475817]

/-- The round constants of SHA-384. -/
def shaK : List Nat := shaK0 ++ shaK1 ++ shaK2 ++ shaK3

/-- The eight working words, each below 2^64. -/
structure ShaState where
  a : Nat
  b : Nat
  c : Nat
  d : Nat
  e : Nat
  f : Nat
  g : Nat
  h : Nat
  deriving DecidableEq, Repr

def shaInit : ShaState :=
  ⟨0xCBBB9D5DC1059ED8, 0x629A292A367CD507, 0x9159015A3070DD17, 0x152FECD8F70E5939,
   0x67332667FFC00B31, 0x8EB44A8768581511, 0xDB0C2E0D64F98FA7, 0x47B5481DBEFA4FA4⟩

/-- A sum of words, modulo 2^64. -/
def shaMod (x : Nat) : Nat := x % 0x10000000000000000

/-- A 64-bit word rotated right by `n` places. -/
def shaRot (x n : Nat) : Nat := (x >>> n) ||| shaMod (x <<< (64 - n))

/-- One round with constant `k` and schedule word `w`. -/
def shaRound (x : ShaState) (k w : Nat) : ShaState :=
  let s1 := (shaRot x.e 14).xor ((shaRot x.e 18).xor (shaRot x.e 41))
  let ch := (x.e &&& x.f).xor ((0xFFFFFFFFFFFFFFFF - x.e) &&& x.g)
  let t1 := shaMod (x.h + s1 + ch + k + w)
  let s0 := (shaRot x.a 28).xor ((shaRot x.a 34).xor (shaRot x.a 39))
  let mj := (x.a &&& x.b).xor ((x.a &&& x.c).xor (x.b &&& x.c))
  ⟨shaMod (t1 + s0 + mj), x.a, x.b, x.c, shaMod (x.d + t1), x.e, x.f, x.g⟩

/-- The rounds, over a window of the sixteen newest schedule words. -/
def shaRounds : List Nat → List Nat → ShaState → ShaState
  | [], _, x => x
  | k :: ks, ws, x =>
    let w := ws.headD 0
    let w1 := ws.getD 1 0
    let w14 := ws.getD 14 0
    let n := shaMod ((shaRot w14 19).xor ((shaRot w14 61).xor (w14 >>> 6)) + ws.getD 9 0
      + (shaRot w1 1).xor ((shaRot w1 8).xor (w1 >>> 7)) + w)
    shaRounds ks (ws.drop 1 ++ [n]) (shaRound x k w)

/-- A block of 128 octets as sixteen words. -/
def shaWords (bs : List Byte) : List Nat := (List.range 16).map fun i => beNat (slice bs (8 * i) 8)

def shaBlock (x : ShaState) (bs : List Byte) : ShaState :=
  let y := shaRounds shaK (shaWords bs) x
  ⟨shaMod (x.a + y.a), shaMod (x.b + y.b), shaMod (x.c + y.c), shaMod (x.d + y.d), shaMod (x.e + y.e), shaMod (x.f + y.f),
   shaMod (x.g + y.g), shaMod (x.h + y.h)⟩

/-- The message padded to whole blocks. -/
def shaPad (bs : List Byte) : List Byte :=
  let z := (239 - bs.length % 128) % 128
  bs ++ [0x80] ++ List.replicate z 0 ++ beBytes 16 (8 * bs.length)

def shaRun : Nat → List Byte → ShaState → ShaState
  | 0, _, x => x
  | n + 1, bs, x => shaRun n (bs.drop 128) (shaBlock x (bs.take 128))

/-- The SHA-384 digest, 48 octets. -/
def sha384 (bs : List Byte) : List Byte :=
  let p := shaPad bs
  let x := shaRun (p.length / 128) p shaInit
  beBytes 8 x.a ++ beBytes 8 x.b ++ beBytes 8 x.c ++ beBytes 8 x.d ++ beBytes 8 x.e ++ beBytes 8 x.f

/-- HMAC-SHA-384. -/
def hmac384 (key msg : List Byte) : List Byte :=
  let k := if 128 < key.length then sha384 key else key
  let k := k ++ List.replicate (128 - k.length) 0
  sha384 (k.map (· ^^^ 0x5C) ++ sha384 (k.map (· ^^^ 0x36) ++ msg))

def hkdfExpand (prk info : List Byte) : Nat → List Byte → Nat → List Byte
  | 0, _, _ => []
  | n + 1, prev, i =>
    let t := hmac384 prk (prev ++ info ++ [BitVec.ofNat 8 i])
    t ++ hkdfExpand prk info n t (i + 1)

/-- HKDF-SHA-384 with output length `l`. -/
def hkdf384 (salt ikm info : List Byte) (l : Nat) : List Byte :=
  (hkdfExpand (hmac384 salt ikm) info ((l + 47) / 48) [] 1).take l

/-- The prime, the order, the coefficient b and the base point of P-384. -/
def ecP : Nat := 2 ^ 384 - 2 ^ 128 - 2 ^ 96 + 2 ^ 32 - 1
def ecN : Nat := 0xFFFFFFFFFFFFFFFFFFFFFFFFFFFFFFFFFFFFFFFFFFFFFFFFC7634D81F4372DDF581A0DB248B0A77AECEC196ACCC52973
def ecB : Nat := 0xB3312FA7E23EE7E4988E056BE3F82D19181D9C6EFE8141120314088F5013875AC656398D8A2ED19D2A85C8EDD3EC2AEF
def ecG : Option (Nat × Nat) := some
  (0xAA87CA22BE8B05378EB1C71EF320AD746E1D3B628BA79B9859F741E082542A385502F25DBF55296C3A545E3872760AB7,
   0x3617DE4A96262C6F5D9E98BF9292DC29F8F41DBD289A147CE9DA3113B5F0B8C00A60B1CE1D7E819D7A431D7C90EA0E5F)

/-- `b` to the power `e` modulo `m`, over at most `n` bits of `e`. -/
def powMod (m : Nat) : Nat → Nat → Nat → Nat
  | 0, _, _ => 1 % m
  | n + 1, b, e => let r := powMod m n (b * b % m) (e / 2); if e % 2 = 1 then r * b % m else r

/-- The inverse modulo a prime of at most 384 bits. -/
def invMod (m x : Nat) : Nat := powMod m 384 (x % m) (m - 2)

/-- Addition on P-384; none is the point at infinity. -/
def ecAdd : Option (Nat × Nat) → Option (Nat × Nat) → Option (Nat × Nat)
  | none, q => q
  | p, none => p
  | some (x1, y1), some (x2, y2) =>
    if x1 = x2 ∧ (y1 + y2) % ecP = 0 then none
    else
      let l := if x1 = x2 then (3 * x1 * x1 + (ecP - 3)) * invMod ecP (2 * y1) % ecP
        else (y2 + ecP - y1) * invMod ecP (x2 + ecP - x1) % ecP
      let x := (l * l + 2 * ecP - x1 - x2) % ecP
      some (x, (l * (x1 + ecP - x) + ecP - y1) % ecP)

/-- `k` times a point, over at most `n` bits of `k`. -/
def ecMul : Nat → Nat → Option (Nat × Nat) → Option (Nat × Nat)
  | 0, _, _ => none
  | n + 1, k, p => let r := ecMul n (k / 2) (ecAdd p p); if k % 2 = 1 then ecAdd p r else r

/-- The octets of a public key: 04h, X, Y. -/
def ecPubBytes (d : Nat) : List Byte :=
  match ecMul 384 d ecG with
  | none => List.replicate 97 0
  | some (x, y) => 0x04 :: (beBytes 48 x ++ beBytes 48 y)

/-- The point an uncompressed public key names, if it lies on the curve. -/
def ecPoint (pub : List Byte) : Option (Nat × Nat) :=
  let x := beNat (slice pub 1 48)
  let y := beNat (slice pub 49 48)
  if pub.headD 0 = 0x04 ∧ x < ecP ∧ y < ecP ∧ y * y % ecP = (x * x * x + (ecP - 3) * x + ecB) % ecP then some (x, y) else none

/-- ECDSA verification over a message with SHA-384; `sig` is r then s, 48 octets each. -/
def ecdsaVerify (pub msg sig : List Byte) : Bool :=
  match ecPoint pub with
  | none => false
  | some q =>
    let r := beNat (slice sig 0 48)
    let t := beNat (slice sig 48 48)
    if r = 0 ∨ ecN ≤ r ∨ t = 0 ∨ ecN ≤ t then false
    else
      let e := beNat (sha384 msg)
      let w := invMod ecN t
      match ecAdd (ecMul 384 (e * w % ecN) ecG) (ecMul 384 (r * w % ecN) (some q)) with
      | none => false
      | some (x, _) => x % ecN == r

/-- The ECDSA signature of a hash with private key `d` and nonce `k`: r then s. -/
def ecdsaSignHash (d k : Nat) (hash : List Byte) : List Byte :=
  let r := match ecMul 384 k ecG with | none => 0 | some (x, _) => x % ecN
  beBytes 48 r ++ beBytes 48 (invMod ecN k * (beNat hash + r * d) % ecN)

/-- The ECDSA signature of a message with SHA-384. -/
def ecdsaSign (d k : Nat) (msg : List Byte) : List Byte := ecdsaSignHash d k (sha384 msg)

end Sys2Proof.Machine
end

