-- ==== Sys2Proof/Machine/RegMap.lean ====
section
/-!
DEFINITION. The register map: every field of the field tables of spec/ (00_scope.md R7 to R10) with its bits, its
access type and its reset value, per block of 18_register_map.md R499, and the addresses of R501 to R503.
-/
namespace Sys2Proof.Machine

/-- Access types of R8; `cnt` is an event counter half (R12), `own` a writable field that a command of its own row sets. -/
inductive Access where
  | rw | ro | wo | w1c | w1s | rp | rws | rwi | sec | cnt | own
  deriving DecidableEq, Repr

/-- One field of a field table: bits [hi:lo], access type, reset value. -/
structure FieldRow where
  hi : Nat
  lo : Nat
  acc : Access
  reset : Nat
  deriving DecidableEq, Repr

/-- One register of a field table: offset of its first copy, how many copies and how far apart, and its fields. -/
structure RegRow where
  name : String
  off : Nat
  count : Nat
  stride : Nat
  fields : List FieldRow
  deriving DecidableEq, Repr

/-- Registers of RULING, part 1 (01_ruling.md, R21-R64). -/
def rulingRows1 : List RegRow := [
  ⟨"CTRL", 0x0, 1, 4, [⟨31, 31, .wo, 0⟩, ⟨28, 28, .own, 0⟩, ⟨27, 26, .rw, 1⟩, ⟨25, 25, .rw, 0⟩, ⟨24, 24, .own, 0⟩, ⟨23, 22, .own, 3⟩]⟩,
  ⟨"SRC_PRIO", 0x4, 1, 4, [⟨11, 8, .own, 0⟩, ⟨7, 4, .own, 0⟩, ⟨3, 0, .own, 0⟩]⟩,
  ⟨"SRC_TIMING", 0x8, 1, 4, [⟨31, 24, .rw, 10⟩, ⟨23, 16, .rw, 2⟩, ⟨15, 14, .rw, 1⟩]⟩,
  ⟨"REF_FORMAT", 0xC, 1, 4, [⟨7, 0, .rwi, 2⟩]⟩,
  ⟨"REF_CFG", 0x10, 1, 4, [⟨15, 8, .rw, 128⟩, ⟨1, 0, .rw, 0⟩]⟩,
  ⟨"PPS_CFG", 0x14, 1, 4, [⟨31, 16, .rw, 0⟩, ⟨1, 1, .rw, 0⟩, ⟨0, 0, .rw, 0⟩]⟩,
  ⟨"EPOCH_LO", 0x18, 1, 4, [⟨31, 0, .rw, 0⟩]⟩,
  ⟨"EPOCH_HI", 0x1C, 1, 4, [⟨31, 31, .wo, 0⟩, ⟨15, 0, .rw, 0⟩]⟩,
  ⟨"STREAM_SRC", 0x20, 1, 4, [⟨10, 0, .rw, 0⟩]⟩,
  ⟨"JUMP_CFG", 0x24, 1, 4, [⟨31, 24, .rw, 20⟩, ⟨19, 0, .rw, 1000⟩]⟩,
  ⟨"LOOP_CFG", 0x28, 1, 4, [⟨15, 8, .rw, 16⟩, ⟨7, 0, .rw, 100⟩]⟩,
  ⟨"STATUS", 0x30, 1, 4, [⟨31, 31, .ro, 0⟩, ⟨30, 28, .ro, 0⟩, ⟨27, 26, .ro, 3⟩, ⟨25, 22, .ro, 8⟩, ⟨21, 21, .ro, 0⟩, ⟨15, 0, .ro, 0⟩]⟩,
  ⟨"PHASE_ERR", 0x34, 1, 4, [⟨31, 0, .ro, 0⟩]⟩,
  ⟨"FREQ_OFFSET", 0x38, 1, 4, [⟨31, 0, .ro, 0⟩]⟩,
  ⟨"RESIDUAL", 0x3C, 1, 4, [⟨31, 0, .ro, 0⟩]⟩,
  ⟨"POS_FRAME_LO", 0x40, 1, 4, [⟨31, 0, .ro, 0⟩]⟩,
  ⟨"POS_FRAME_HI", 0x44, 1, 4, [⟨15, 0, .ro, 0⟩]⟩,
  ⟨"POS_LINE", 0x48, 1, 4, [⟨31, 16, .ro, 0⟩, ⟨15, 15, .ro, 0⟩, ⟨11, 0, .ro, 1⟩]⟩,
  ⟨"INT_STATUS", 0x50, 1, 4, [⟨14, 14, .w1c, 0⟩, ⟨13, 13, .w1c, 0⟩, ⟨12, 12, .w1c, 0⟩, ⟨11, 11, .w1c, 0⟩, ⟨10, 10, .w1c, 0⟩, ⟨9, 9, .w1c, 0⟩, ⟨8, 8, .w1c, 0⟩, ⟨7, 7, .w1c, 0⟩, ⟨6, 6, .w1c, 0⟩, ⟨5, 5, .w1c, 0⟩, ⟨4, 4, .w1c, 0⟩, ⟨3, 3, .w1c, 0⟩, ⟨2, 2, .w1c, 0⟩, ⟨1, 1, .w1c, 0⟩, ⟨0, 0, .w1c, 0⟩]⟩,
  ⟨"INT_EN", 0x54, 1, 4, [⟨14, 14, .rw, 0⟩, ⟨13, 13, .rw, 0⟩, ⟨12, 12, .rw, 0⟩, ⟨11, 11, .rw, 0⟩, ⟨10, 10, .rw, 0⟩, ⟨9, 9, .rw, 0⟩, ⟨8, 8, .rw, 0⟩, ⟨7, 7, .rw, 0⟩, ⟨6, 6, .rw, 0⟩, ⟨5, 5, .rw, 0⟩, ⟨4, 4, .rw, 0⟩, ⟨3, 3, .rw, 0⟩, ⟨2, 2, .rw, 0⟩, ⟨1, 1, .rw, 0⟩, ⟨0, 0, .rw, 0⟩]⟩,
  ⟨"INT_STATUS_CNT", 0x58, 7, 4, [⟨31, 16, .cnt, 0⟩, ⟨15, 0, .cnt, 0⟩]⟩,
  ⟨"INT_STATUS_CNT_LAST", 0x74, 1, 4, [⟨15, 0, .cnt, 0⟩]⟩,
  ⟨"SALVO_GRP_LO", 0x80, 16, 8, [⟨31, 0, .rw, 0⟩]⟩,
  ⟨"SALVO_GRP_HI", 0x84, 16, 8, [⟨31, 0, .rw, 0⟩]⟩]

/-- Registers of RULING, part 2 (01_ruling.md, R21-R64). -/
def rulingRows2 : List RegRow := [
  ⟨"EVQ_W", 0x100, 4, 4, [⟨31, 0, .rw, 0⟩]⟩,
  ⟨"EVQ_CMD", 0x110, 1, 4, [⟨3, 0, .wo, 0⟩]⟩,
  ⟨"EVQ_RESULT", 0x114, 1, 4, [⟨31, 31, .ro, 1⟩, ⟨30, 16, .ro, 0⟩, ⟨15, 0, .ro, 0⟩]⟩,
  ⟨"EVQ_HANDLE", 0x118, 1, 4, [⟨15, 0, .ro, 0⟩]⟩,
  ⟨"EVQ_LEVEL", 0x11C, 1, 4, [⟨25, 16, .ro, 0⟩, ⟨9, 0, .ro, 0⟩]⟩,
  ⟨"EVQ_USER_TAG", 0x120, 1, 4, [⟨7, 0, .ro, 0⟩]⟩,
  ⟨"EVQ_FLUSH_CNT", 0x124, 1, 4, [⟨8, 0, .ro, 0⟩]⟩]

/-- Registers of RULING. -/
def rulingRows : List RegRow := rulingRows1 ++ rulingRows2

/-- Registers of CLOCK (01_ruling.md, R34-R39). -/
def clockRows : List RegRow := [
  ⟨"CTRL", 0x0, 1, 4, [⟨2, 1, .rwi, 0⟩, ⟨0, 0, .rwi, 1⟩]⟩,
  ⟨"STATUS", 0x4, 1, 4, [⟨31, 31, .ro, 0⟩, ⟨15, 0, .ro, 0⟩]⟩,
  ⟨"N_INT", 0x8, 1, 4, [⟨7, 0, .ro, 0⟩]⟩,
  ⟨"FRAC", 0xC, 1, 4, [⟨31, 0, .ro, 0⟩]⟩,
  ⟨"OUT_CTRL", 0x40, 8, 8, [⟨31, 31, .own, 0⟩, ⟨30, 30, .ro, 0⟩, ⟨9, 0, .own, 40⟩]⟩,
  ⟨"OUT_DELAY", 0x44, 8, 8, [⟨31, 16, .ro, 0⟩, ⟨15, 0, .own, 0⟩]⟩]

/-- Registers of FABRIC (02_fabric_image.md, R65-R90). -/
def fabricRows : List RegRow := [
  ⟨"CMD", 0x0, 1, 4, [⟨3, 0, .wo, 0⟩]⟩,
  ⟨"RESULT", 0x4, 1, 4, [⟨31, 31, .ro, 1⟩, ⟨30, 16, .ro, 0⟩, ⟨15, 0, .ro, 0⟩]⟩,
  ⟨"RESULT_INFO", 0x8, 1, 4, [⟨15, 8, .ro, 0⟩, ⟨7, 0, .ro, 0⟩]⟩,
  ⟨"SRC_ADDR_LO", 0x10, 1, 4, [⟨31, 0, .rw, 0⟩]⟩,
  ⟨"SRC_ADDR_HI", 0x14, 1, 4, [⟨31, 0, .rw, 0⟩]⟩,
  ⟨"SRC_LEN", 0x18, 1, 4, [⟨22, 0, .rw, 0⟩]⟩,
  ⟨"STATE", 0x20, 1, 4, [⟨31, 31, .ro, 0⟩, ⟨30, 30, .ro, 0⟩, ⟨29, 28, .ro, 0⟩, ⟨22, 16, .ro, 0⟩, ⟨15, 8, .ro, 0⟩]⟩,
  ⟨"INIT_SKIPPED", 0x24, 1, 4, [⟨31, 0, .ro, 0⟩]⟩,
  ⟨"PARTIAL_MASK_LO", 0x28, 1, 4, [⟨31, 0, .ro, 0⟩]⟩,
  ⟨"PARTIAL_MASK_HI", 0x2C, 1, 4, [⟨11, 0, .ro, 0⟩]⟩,
  ⟨"WINDOW_DROP", 0x30, 1, 4, [⟨15, 0, .ro, 0⟩]⟩,
  ⟨"BASE_HASH", 0x40, 12, 4, [⟨31, 0, .ro, 0⟩]⟩,
  ⟨"PART_SEL", 0x90, 1, 4, [⟨5, 0, .rw, 0⟩]⟩,
  ⟨"PART_HASH", 0xA0, 12, 4, [⟨31, 0, .ro, 0⟩]⟩,
  ⟨"INT_STATUS", 0x70, 1, 4, [⟨5, 5, .w1c, 0⟩, ⟨4, 4, .w1c, 0⟩, ⟨3, 3, .w1c, 0⟩, ⟨2, 2, .w1c, 0⟩, ⟨1, 1, .w1c, 0⟩, ⟨0, 0, .w1c, 0⟩]⟩,
  ⟨"INT_EN", 0x74, 1, 4, [⟨5, 5, .rw, 0⟩, ⟨4, 4, .rw, 0⟩, ⟨3, 3, .rw, 0⟩, ⟨2, 2, .rw, 0⟩, ⟨1, 1, .rw, 0⟩, ⟨0, 0, .rw, 0⟩]⟩,
  ⟨"INT_STATUS_CNT", 0x78, 3, 4, [⟨31, 16, .cnt, 0⟩, ⟨15, 0, .cnt, 0⟩]⟩]

/-- Registers of PORT, part 1 (03_rasyn_link.md,04_sdi_ports.md, R91-R136). -/
def portRows1 : List RegRow := [
  ⟨"PORT_CFG", 0x0, 1, 4, [⟨20, 16, .rwi, 0⟩, ⟨10, 10, .rwi, 0⟩, ⟨9, 9, .rwi, 0⟩, ⟨8, 8, .rwi, 0⟩, ⟨7, 4, .rwi, 0⟩, ⟨3, 0, .rwi, 0⟩]⟩,
  ⟨"LINK_CTRL", 0x4, 1, 4, [⟨31, 31, .wo, 0⟩, ⟨30, 30, .wo, 0⟩, ⟨29, 29, .wo, 0⟩, ⟨23, 16, .rw, 0⟩, ⟨11, 10, .own, 0⟩, ⟨8, 8, .own, 1⟩, ⟨7, 0, .rw, 100⟩]⟩,
  ⟨"LINK_STATE", 0x8, 1, 4, [⟨31, 28, .ro, 0⟩, ⟨27, 24, .ro, 0⟩, ⟨23, 20, .ro, 0⟩, ⟨19, 19, .ro, 0⟩, ⟨18, 18, .ro, 0⟩, ⟨17, 17, .ro, 0⟩, ⟨16, 16, .ro, 0⟩, ⟨10, 8, .ro, 0⟩]⟩,
  ⟨"RETRAIN_CFG", 0xC, 1, 4, [⟨31, 16, .rw, 64⟩, ⟨15, 8, .rw, 16⟩, ⟨7, 0, .rw, 4⟩]⟩,
  ⟨"GENLOCK_CTRL", 0x10, 1, 4, [⟨31, 31, .rw, 0⟩, ⟨11, 0, .rw, 1⟩]⟩,
  ⟨"ASYM", 0x14, 1, 4, [⟨15, 0, .rw, 0⟩]⟩,
  ⟨"DELAYS", 0x18, 1, 4, [⟨31, 16, .ro, 0⟩, ⟨15, 0, .ro, 0⟩]⟩,
  ⟨"GL_STAT", 0x1C, 1, 4, [⟨31, 16, .ro, 0⟩, ⟨15, 0, .ro, 0⟩]⟩,
  ⟨"FEC_CORR_SYM", 0x40, 1, 4, [⟨31, 0, .ro, 0⟩]⟩,
  ⟨"FEC_CORR_CW", 0x44, 1, 4, [⟨31, 0, .ro, 0⟩]⟩,
  ⟨"FEC_UNCORR_CW", 0x48, 1, 4, [⟨31, 0, .ro, 0⟩]⟩,
  ⟨"HCRC_ERR", 0x4C, 1, 4, [⟨31, 0, .ro, 0⟩]⟩,
  ⟨"PCRC_ERR", 0x50, 1, 4, [⟨31, 0, .ro, 0⟩]⟩,
  ⟨"PKT_TYPE_UNK", 0x54, 1, 4, [⟨31, 0, .ro, 0⟩]⟩,
  ⟨"VIDEO_SEG_LOST", 0x58, 1, 4, [⟨31, 0, .ro, 0⟩]⟩,
  ⟨"BC_CODE_ERR", 0x5C, 1, 4, [⟨31, 0, .ro, 0⟩]⟩,
  ⟨"CTRL_RETRY", 0x60, 1, 4, [⟨31, 0, .ro, 0⟩]⟩,
  ⟨"CTRL_FAIL", 0x64, 1, 4, [⟨31, 0, .ro, 0⟩]⟩,
  ⟨"RETRAINS", 0x68, 1, 4, [⟨31, 0, .ro, 0⟩]⟩,
  ⟨"BRINGUPS", 0x6C, 1, 4, [⟨31, 0, .ro, 0⟩]⟩,
  ⟨"RX_DROP", 0x70, 1, 4, [⟨31, 0, .ro, 0⟩]⟩,
  ⟨"INT_STATUS", 0x80, 1, 4, [⟨11, 11, .w1c, 0⟩, ⟨10, 10, .w1c, 0⟩, ⟨9, 9, .w1c, 0⟩, ⟨8, 8, .w1c, 0⟩, ⟨7, 7, .w1c, 0⟩, ⟨6, 6, .w1c, 0⟩, ⟨5, 5, .w1c, 0⟩, ⟨4, 4, .w1c, 0⟩, ⟨3, 3, .w1c, 0⟩, ⟨2, 2, .w1c, 0⟩, ⟨1, 1, .w1c, 0⟩, ⟨0, 0, .w1c, 0⟩]⟩,
  ⟨"INT_EN", 0x84, 1, 4, [⟨11, 11, .rw, 0⟩, ⟨10, 10, .rw, 0⟩, ⟨9, 9, .rw, 0⟩, ⟨8, 8, .rw, 0⟩, ⟨7, 7, .rw, 0⟩, ⟨6, 6, .rw, 0⟩, ⟨5, 5, .rw, 0⟩, ⟨4, 4, .rw, 0⟩, ⟨3, 3, .rw, 0⟩, ⟨2, 2, .rw, 0⟩, ⟨1, 1, .rw, 0⟩, ⟨0, 0, .rw, 0⟩]⟩,
  ⟨"INT_STATUS_CNT", 0x88, 6, 4, [⟨31, 16, .cnt, 0⟩, ⟨15, 0, .cnt, 0⟩]⟩]

/-- Registers of PORT, part 2 (03_rasyn_link.md,04_sdi_ports.md, R91-R136). -/
def portRows2 : List RegRow := [
  ⟨"CTRL_TX_HDR", 0x100, 1, 4, [⟨31, 24, .rw, 0⟩, ⟨23, 20, .rw, 0⟩, ⟨6, 0, .rw, 0⟩]⟩,
  ⟨"CTRL_TX_DATA", 0x104, 16, 4, [⟨31, 0, .rw, 0⟩]⟩,
  ⟨"CTRL_TX_CMD", 0x144, 1, 4, [⟨0, 0, .wo, 0⟩]⟩,
  ⟨"CTRL_RESULT", 0x148, 1, 4, [⟨31, 31, .ro, 1⟩, ⟨30, 16, .ro, 0⟩, ⟨15, 0, .ro, 0⟩]⟩,
  ⟨"CTRL_RESP_HDR", 0x14C, 1, 4, [⟨31, 24, .ro, 0⟩, ⟨23, 16, .ro, 0⟩, ⟨6, 0, .ro, 0⟩]⟩,
  ⟨"CTRL_RESP_DATA", 0x150, 16, 4, [⟨31, 0, .ro, 0⟩]⟩,
  ⟨"RX_HDR", 0x200, 1, 4, [⟨31, 31, .rp, 0⟩, ⟨23, 16, .rp, 0⟩, ⟨15, 12, .rp, 0⟩, ⟨11, 8, .rp, 0⟩, ⟨6, 0, .rp, 0⟩]⟩,
  ⟨"RX_DATA", 0x204, 16, 4, [⟨31, 0, .ro, 0⟩]⟩,
  ⟨"DESC", 0x400, 64, 4, [⟨31, 0, .ro, 0⟩]⟩,
  ⟨"KEY_HASH", 0x500, 12, 4, [⟨31, 0, .ro, 0⟩]⟩,
  ⟨"AUTH_TIME", 0x530, 1, 4, [⟨31, 0, .ro, 0⟩]⟩,
  ⟨"PWR_CTRL", 0x600, 1, 4, [⟨31, 31, .wo, 0⟩, ⟨30, 30, .wo, 0⟩, ⟨23, 16, .rw, 20⟩, ⟨15, 8, .own, 0⟩, ⟨3, 3, .rw, 0⟩, ⟨2, 2, .rw, 0⟩, ⟨1, 1, .rw, 0⟩, ⟨0, 0, .own, 0⟩]⟩,
  ⟨"PWR_STAT", 0x604, 1, 4, [⟨31, 31, .ro, 0⟩, ⟨30, 30, .ro, 0⟩, ⟨29, 29, .ro, 0⟩, ⟨28, 28, .ro, 0⟩, ⟨27, 16, .ro, 0⟩, ⟨11, 0, .ro, 0⟩]⟩,
  ⟨"PWR_CYCLES", 0x608, 1, 4, [⟨15, 0, .ro, 0⟩]⟩,
  ⟨"SDI_CFG", 0x700, 1, 4, [⟨31, 31, .rw, 0⟩, ⟨30, 28, .rw, 0⟩, ⟨27, 27, .rw, 0⟩, ⟨26, 26, .rw, 0⟩]⟩,
  ⟨"SDI_STATE", 0x704, 1, 4, [⟨31, 28, .ro, 0⟩, ⟨27, 27, .ro, 0⟩, ⟨26, 26, .ro, 0⟩, ⟨25, 25, .ro, 0⟩, ⟨24, 24, .ro, 0⟩, ⟨23, 23, .ro, 0⟩]⟩,
  ⟨"SDI_FMT", 0x708, 1, 4, [⟨31, 31, .ro, 0⟩, ⟨30, 30, .ro, 0⟩, ⟨27, 16, .ro, 0⟩, ⟨15, 12, .ro, 0⟩, ⟨11, 0, .ro, 0⟩]⟩,
  ⟨"PID_RX", 0x70C, 1, 4, [⟨31, 0, .ro, 0⟩]⟩,
  ⟨"PID_TX_OVR", 0x710, 1, 4, [⟨31, 0, .rw, 0⟩]⟩,
  ⟨"CRC_ERR_Y", 0x720, 1, 4, [⟨31, 0, .ro, 0⟩]⟩,
  ⟨"CRC_ERR_C", 0x724, 1, 4, [⟨31, 0, .ro, 0⟩]⟩,
  ⟨"LNUM_ERR", 0x728, 1, 4, [⟨31, 0, .ro, 0⟩]⟩,
  ⟨"ANC_CSUM_ERR", 0x72C, 1, 4, [⟨31, 0, .ro, 0⟩]⟩,
  ⟨"ANC_DROP", 0x730, 1, 4, [⟨31, 0, .ro, 0⟩]⟩]

/-- Registers of PORT, part 3 (03_rasyn_link.md,04_sdi_ports.md, R91-R136). -/
def portRows3 : List RegRow := [
  ⟨"LOSS_COUNT", 0x734, 1, 4, [⟨31, 0, .ro, 0⟩]⟩,
  ⟨"SDI_INT_STATUS", 0x740, 1, 4, [⟨6, 6, .w1c, 0⟩, ⟨5, 5, .w1c, 0⟩, ⟨4, 4, .w1c, 0⟩, ⟨3, 3, .w1c, 0⟩, ⟨2, 2, .w1c, 0⟩, ⟨1, 1, .w1c, 0⟩, ⟨0, 0, .w1c, 0⟩]⟩,
  ⟨"SDI_INT_EN", 0x744, 1, 4, [⟨6, 6, .rw, 0⟩, ⟨5, 5, .rw, 0⟩, ⟨4, 4, .rw, 0⟩, ⟨3, 3, .rw, 0⟩, ⟨2, 2, .rw, 0⟩, ⟨1, 1, .rw, 0⟩, ⟨0, 0, .rw, 0⟩]⟩,
  ⟨"SDI_INT_STATUS_CNT", 0x748, 3, 4, [⟨31, 16, .cnt, 0⟩, ⟨15, 0, .cnt, 0⟩]⟩,
  ⟨"SDI_INT_STATUS_CNT_LAST", 0x754, 1, 4, [⟨15, 0, .cnt, 0⟩]⟩]

/-- Registers of PORT. -/
def portRows : List RegRow := portRows1 ++ portRows2 ++ portRows3

/-- Registers of STREAM (05_ingest_inkwell.md, R137-R168). -/
def streamRows : List RegRow := [
  ⟨"CFG", 0x0, 1, 4, [⟨31, 30, .rwi, 0⟩, ⟨29, 27, .rwi, 0⟩, ⟨26, 26, .rwi, 0⟩, ⟨25, 25, .rwi, 0⟩, ⟨24, 24, .rwi, 0⟩, ⟨23, 23, .rwi, 0⟩, ⟨22, 22, .rwi, 0⟩, ⟨21, 21, .rwi, 0⟩, ⟨20, 18, .rwi, 0⟩, ⟨16, 16, .rwi, 0⟩, ⟨15, 8, .rwi, 0⟩, ⟨7, 4, .rwi, 0⟩, ⟨0, 0, .rwi, 0⟩]⟩,
  ⟨"GEOM", 0x4, 1, 4, [⟨28, 16, .rwi, 0⟩, ⟨12, 0, .rwi, 0⟩]⟩,
  ⟨"RATE", 0x8, 1, 4, [⟨31, 16, .rwi, 0⟩, ⟨15, 0, .rwi, 0⟩]⟩,
  ⟨"RING_BASE", 0xC, 1, 4, [⟨18, 0, .rwi, 0⟩]⟩,
  ⟨"SLOT_STRIDE", 0x10, 1, 4, [⟨31, 31, .rwi, 0⟩, ⟨29, 24, .rwi, 0⟩, ⟨22, 0, .rwi, 0⟩]⟩,
  ⟨"CTRL", 0x14, 1, 4, [⟨31, 31, .wo, 0⟩, ⟨30, 30, .rw, 0⟩, ⟨29, 28, .rw, 1⟩, ⟨23, 16, .rw, 3⟩, ⟨15, 8, .rw, 128⟩, ⟨7, 0, .rw, 24⟩]⟩,
  ⟨"STATE", 0x18, 1, 4, [⟨31, 29, .ro, 0⟩, ⟨28, 26, .ro, 0⟩, ⟨25, 23, .ro, 0⟩, ⟨22, 22, .ro, 0⟩, ⟨21, 14, .ro, 0⟩, ⟨13, 11, .ro, 0⟩, ⟨10, 10, .ro, 0⟩]⟩,
  ⟨"NEWEST_SEQ", 0x1C, 1, 4, [⟨31, 0, .ro, 0⟩]⟩,
  ⟨"AGE", 0x20, 1, 4, [⟨31, 0, .ro, 0⟩]⟩,
  ⟨"FRAMES", 0x24, 1, 4, [⟨31, 0, .ro, 0⟩]⟩,
  ⟨"DROPS", 0x28, 1, 4, [⟨31, 16, .ro, 0⟩, ⟨15, 0, .ro, 0⟩]⟩,
  ⟨"CONCEAL_ROWS", 0x2C, 1, 4, [⟨31, 0, .ro, 0⟩]⟩,
  ⟨"INT_STATUS", 0x30, 1, 4, [⟨3, 3, .w1c, 0⟩, ⟨2, 2, .w1c, 0⟩, ⟨1, 1, .w1c, 0⟩, ⟨0, 0, .w1c, 0⟩]⟩,
  ⟨"INT_EN", 0x34, 1, 4, [⟨3, 3, .rw, 0⟩, ⟨2, 2, .rw, 0⟩, ⟨1, 1, .rw, 0⟩, ⟨0, 0, .rw, 0⟩]⟩,
  ⟨"INT_STATUS_CNT", 0x38, 2, 4, [⟨31, 16, .cnt, 0⟩, ⟨15, 0, .cnt, 0⟩]⟩]

/-- Registers of INGEST (05_ingest_inkwell.md, R148-R168). -/
def ingestRows : List RegRow := [
  ⟨"CFG", 0x0, 1, 4, [⟨0, 0, .rwi, 0⟩]⟩,
  ⟨"SHED", 0x4, 1, 4, [⟨1, 1, .ro, 0⟩, ⟨0, 0, .ro, 0⟩]⟩,
  ⟨"LOAD", 0x8, 1, 4, [⟨31, 16, .ro, 0⟩, ⟨15, 0, .ro, 0⟩]⟩,
  ⟨"WRITE_LOAD", 0xC, 1, 4, [⟨15, 0, .ro, 0⟩]⟩,
  ⟨"OVERFLOW", 0x10, 1, 4, [⟨31, 0, .ro, 0⟩]⟩,
  ⟨"DECODE_DROP", 0x14, 1, 4, [⟨31, 0, .ro, 0⟩]⟩,
  ⟨"MEM_DROP", 0x18, 1, 4, [⟨31, 0, .ro, 0⟩]⟩,
  ⟨"CTRL", 0x1C, 1, 4, [⟨0, 0, .wo, 0⟩]⟩,
  ⟨"INT_STATUS", 0x20, 1, 4, [⟨3, 3, .w1c, 0⟩, ⟨2, 2, .w1c, 0⟩, ⟨1, 1, .w1c, 0⟩, ⟨0, 0, .w1c, 0⟩]⟩,
  ⟨"INT_EN", 0x24, 1, 4, [⟨3, 3, .rw, 0⟩, ⟨2, 2, .rw, 0⟩, ⟨1, 1, .rw, 0⟩, ⟨0, 0, .rw, 0⟩]⟩,
  ⟨"INT_STATUS_CNT", 0x28, 2, 4, [⟨31, 16, .cnt, 0⟩, ⟨15, 0, .cnt, 0⟩]⟩]

/-- Registers of MOT (05_ingest_inkwell.md, R165-R168). -/
def motRows : List RegRow := [
  ⟨"STATUS", 0x0, 1, 4, [⟨31, 31, .ro, 0⟩, ⟨30, 30, .ro, 0⟩, ⟨15, 0, .ro, 0⟩]⟩,
  ⟨"FIELDS", 0x4, 1, 4, [⟨31, 0, .ro, 0⟩]⟩,
  ⟨"LATE", 0x8, 1, 4, [⟨31, 0, .ro, 0⟩]⟩,
  ⟨"SKIPPED", 0xC, 1, 4, [⟨31, 0, .ro, 0⟩]⟩,
  ⟨"INT_STATUS", 0x10, 1, 4, [⟨1, 1, .w1c, 0⟩, ⟨0, 0, .w1c, 0⟩]⟩,
  ⟨"INT_EN", 0x14, 1, 4, [⟨1, 1, .rw, 0⟩, ⟨0, 0, .rw, 0⟩]⟩,
  ⟨"INT_STATUS_CNT", 0x18, 1, 4, [⟨31, 16, .cnt, 0⟩, ⟨15, 0, .cnt, 0⟩]⟩]

/-- Registers of PANE, part 1 (06_panes.md, R169-R200). -/
def paneRows1 : List RegRow := [
  ⟨"SRC", 0x0, 1, 4, [⟨31, 30, .rws, 0⟩, ⟨10, 0, .rws, 0⟩]⟩,
  ⟨"CROP_POS", 0x4, 1, 4, [⟨28, 16, .rws, 0⟩, ⟨12, 0, .rws, 0⟩]⟩,
  ⟨"CROP_SIZE", 0x8, 1, 4, [⟨28, 16, .rws, 0⟩, ⟨12, 0, .rws, 0⟩]⟩,
  ⟨"DST_POS", 0xC, 1, 4, [⟨29, 16, .rws, 0⟩, ⟨13, 0, .rws, 0⟩]⟩,
  ⟨"DST_SIZE", 0x10, 1, 4, [⟨29, 16, .rws, 0⟩, ⟨13, 0, .rws, 0⟩]⟩,
  ⟨"SCALE", 0x14, 1, 4, [⟨10, 10, .rws, 0⟩, ⟨9, 8, .rws, 0⟩, ⟨5, 4, .rws, 0⟩, ⟨1, 0, .rws, 0⟩]⟩,
  ⟨"RATE", 0x18, 1, 4, [⟨31, 24, .rws, 160⟩, ⟨23, 16, .rws, 96⟩, ⟨1, 0, .rws, 0⟩]⟩,
  ⟨"COLOUR", 0x1C, 1, 4, [⟨31, 31, .rws, 0⟩, ⟨2, 2, .rws, 0⟩, ⟨1, 0, .rws, 0⟩]⟩,
  ⟨"CSC_M0", 0x20, 1, 4, [⟨31, 16, .rws, 0⟩, ⟨15, 0, .rws, 4096⟩]⟩,
  ⟨"CSC_M1", 0x24, 1, 4, [⟨31, 16, .rws, 0⟩, ⟨15, 0, .rws, 0⟩]⟩,
  ⟨"CSC_M2", 0x28, 1, 4, [⟨31, 16, .rws, 0⟩, ⟨15, 0, .rws, 4096⟩]⟩,
  ⟨"CSC_M3", 0x2C, 1, 4, [⟨31, 16, .rws, 0⟩, ⟨15, 0, .rws, 0⟩]⟩,
  ⟨"CSC_M4", 0x30, 1, 4, [⟨15, 0, .rws, 4096⟩]⟩,
  ⟨"CSC_OFF_IN0", 0x34, 1, 4, [⟨31, 16, .rws, 0⟩, ⟨15, 0, .rws, 0⟩]⟩,
  ⟨"CSC_OFF_IN1", 0x38, 1, 4, [⟨15, 0, .rws, 0⟩]⟩,
  ⟨"CSC_OFF_OUT0", 0x3C, 1, 4, [⟨31, 16, .rws, 0⟩, ⟨15, 0, .rws, 0⟩]⟩,
  ⟨"CSC_OFF_OUT1", 0x40, 1, 4, [⟨15, 0, .rws, 0⟩]⟩,
  ⟨"BLEND", 0x44, 1, 4, [⟨31, 24, .rws, 255⟩, ⟨1, 0, .rws, 0⟩]⟩,
  ⟨"FILL", 0x48, 1, 4, [⟨29, 20, .rws, 0⟩, ⟨19, 10, .rws, 0⟩, ⟨9, 0, .rws, 0⟩]⟩,
  ⟨"CTRL", 0x4C, 1, 4, [⟨31, 31, .rws, 0⟩, ⟨23, 16, .rws, 0⟩, ⟨9, 8, .rws, 0⟩]⟩,
  ⟨"STATUS", 0xC0, 1, 4, [⟨31, 30, .ro, 0⟩, ⟨29, 28, .ro, 0⟩, ⟨27, 25, .ro, 0⟩, ⟨24, 16, .ro, 0⟩, ⟨15, 15, .ro, 0⟩, ⟨14, 14, .ro, 0⟩, ⟨13, 13, .ro, 0⟩, ⟨12, 12, .ro, 0⟩, ⟨11, 11, .ro, 0⟩, ⟨10, 10, .ro, 0⟩, ⟨9, 9, .ro, 0⟩, ⟨8, 8, .ro, 0⟩, ⟨7, 7, .ro, 0⟩, ⟨6, 6, .ro, 0⟩, ⟨5, 5, .ro, 0⟩, ⟨4, 4, .ro, 0⟩]⟩,
  ⟨"PERMIT", 0xC4, 1, 4, [⟨5, 4, .rwi, 0⟩, ⟨3, 3, .rwi, 0⟩, ⟨2, 2, .rwi, 0⟩, ⟨1, 1, .rwi, 0⟩, ⟨0, 0, .rwi, 0⟩]⟩,
  ⟨"SHOWN_B", 0xC8, 1, 4, [⟨31, 0, .ro, 0⟩]⟩,
  ⟨"SHOWN_A", 0xCC, 1, 4, [⟨31, 0, .ro, 0⟩]⟩]

/-- Registers of PANE, part 2 (06_panes.md, R169-R200). -/
def paneRows2 : List RegRow := [
  ⟨"FW_VIOL", 0xD0, 1, 4, [⟨31, 0, .ro, 0⟩]⟩,
  ⟨"CUT_MARGIN", 0xD4, 1, 4, [⟨31, 16, .ro, 0⟩, ⟨15, 0, .ro, 0⟩]⟩,
  ⟨"INT_STATUS", 0xE0, 1, 4, [⟨9, 9, .w1c, 0⟩, ⟨8, 8, .w1c, 0⟩, ⟨7, 7, .w1c, 0⟩, ⟨6, 6, .w1c, 0⟩, ⟨5, 5, .w1c, 0⟩, ⟨4, 4, .w1c, 0⟩, ⟨3, 3, .w1c, 0⟩, ⟨2, 2, .w1c, 0⟩, ⟨1, 1, .w1c, 0⟩, ⟨0, 0, .w1c, 0⟩]⟩,
  ⟨"INT_EN", 0xE4, 1, 4, [⟨9, 9, .rw, 0⟩, ⟨8, 8, .rw, 0⟩, ⟨7, 7, .rw, 0⟩, ⟨6, 6, .rw, 0⟩, ⟨5, 5, .rw, 0⟩, ⟨4, 4, .rw, 0⟩, ⟨3, 3, .rw, 0⟩, ⟨2, 2, .rw, 0⟩, ⟨1, 1, .rw, 0⟩, ⟨0, 0, .rw, 0⟩]⟩,
  ⟨"INT_STATUS_CNT", 0xE8, 5, 4, [⟨31, 16, .cnt, 0⟩, ⟨15, 0, .cnt, 0⟩]⟩]

/-- Registers of PANE. -/
def paneRows : List RegRow := paneRows1 ++ paneRows2

/-- Registers of FOLIO, part 1 (07_folio_commit_seal.md,08_raster_out.md, R201-R253). -/
def folioRows1 : List RegRow := [
  ⟨"CFG", 0x100, 1, 4, [⟨31, 31, .rwi, 0⟩, ⟨30, 30, .rwi, 0⟩, ⟨29, 29, .rwi, 0⟩, ⟨28, 28, .rwi, 0⟩, ⟨27, 27, .rwi, 0⟩, ⟨15, 8, .rwi, 255⟩, ⟨7, 0, .rwi, 0⟩]⟩,
  ⟨"BG", 0x104, 1, 4, [⟨29, 20, .rws, 0⟩, ⟨19, 10, .rws, 0⟩, ⟨9, 0, .rws, 0⟩]⟩,
  ⟨"OUT_FMT", 0x108, 1, 4, [⟨7, 4, .rws, 2⟩, ⟨2, 2, .rws, 0⟩, ⟨1, 0, .rws, 0⟩]⟩,
  ⟨"DITHER", 0x10C, 1, 4, [⟨3, 2, .rws, 2⟩, ⟨1, 0, .rws, 1⟩]⟩,
  ⟨"BORDER_CLR", 0x110, 4, 4, [⟨29, 0, .rws, 0⟩]⟩,
  ⟨"BORDER", 0x120, 8, 4, [⟨15, 12, .rws, 0⟩, ⟨9, 8, .rws, 0⟩, ⟨3, 0, .rws, 0⟩]⟩,
  ⟨"FENCE_WAIT", 0x140, 8, 4, [⟨31, 0, .rws, 0⟩]⟩,
  ⟨"CTRL", 0x160, 1, 4, [⟨8, 8, .rws, 1⟩, ⟨7, 0, .rws, 0⟩]⟩,
  ⟨"COMMIT", 0x180, 1, 4, [⟨31, 31, .wo, 0⟩, ⟨30, 30, .wo, 0⟩, ⟨29, 29, .wo, 0⟩, ⟨0, 0, .own, 0⟩]⟩,
  ⟨"COMMIT_CFG", 0x184, 1, 4, [⟨4, 4, .rw, 1⟩, ⟨3, 0, .rw, 2⟩]⟩,
  ⟨"COMMIT_STATUS", 0x188, 1, 4, [⟨31, 31, .ro, 0⟩, ⟨30, 30, .ro, 0⟩, ⟨29, 28, .ro, 0⟩, ⟨27, 24, .ro, 0⟩, ⟨23, 16, .ro, 0⟩, ⟨15, 0, .ro, 0⟩]⟩,
  ⟨"FROM_FRAME", 0x18C, 1, 4, [⟨31, 0, .ro, 0⟩]⟩,
  ⟨"FRAME_NUM", 0x190, 1, 4, [⟨31, 0, .ro, 0⟩]⟩,
  ⟨"RETIRE", 0x194, 1, 4, [⟨31, 0, .ro, 0⟩]⟩,
  ⟨"RETIRE_WAIT", 0x198, 1, 4, [⟨31, 0, .rw, 0⟩]⟩,
  ⟨"FENCE_READY", 0x19C, 1, 4, [⟨7, 0, .ro, 255⟩]⟩,
  ⟨"DRY_STATUS", 0x1A0, 1, 4, [⟨31, 31, .ro, 0⟩, ⟨30, 30, .ro, 0⟩, ⟨29, 29, .ro, 0⟩, ⟨7, 0, .ro, 0⟩]⟩,
  ⟨"DRY_REBUILDS", 0x1A4, 1, 4, [⟨31, 0, .ro, 0⟩]⟩,
  ⟨"WB_STATUS", 0x1A8, 1, 4, [⟨31, 31, .ro, 0⟩, ⟨30, 30, .ro, 0⟩]⟩,
  ⟨"WB_FRAMES", 0x1AC, 1, 4, [⟨31, 0, .ro, 0⟩]⟩,
  ⟨"INT_STATUS", 0x1C0, 1, 4, [⟨7, 7, .w1c, 0⟩, ⟨6, 6, .w1c, 0⟩, ⟨5, 5, .w1c, 0⟩, ⟨4, 4, .w1c, 0⟩, ⟨3, 3, .w1c, 0⟩, ⟨2, 2, .w1c, 0⟩, ⟨1, 1, .w1c, 0⟩, ⟨0, 0, .w1c, 0⟩]⟩,
  ⟨"INT_EN", 0x1C4, 1, 4, [⟨7, 7, .rw, 0⟩, ⟨6, 6, .rw, 0⟩, ⟨5, 5, .rw, 0⟩, ⟨4, 4, .rw, 0⟩, ⟨3, 3, .rw, 0⟩, ⟨2, 2, .rw, 0⟩, ⟨1, 1, .rw, 0⟩, ⟨0, 0, .rw, 0⟩]⟩,
  ⟨"INT_STATUS_CNT", 0x1C8, 4, 4, [⟨31, 16, .cnt, 0⟩, ⟨15, 0, .cnt, 0⟩]⟩,
  ⟨"TIMING_H", 0x300, 1, 4, [⟨28, 16, .rws, 2640⟩, ⟨12, 0, .rws, 1920⟩]⟩]

/-- Registers of FOLIO, part 2 (07_folio_commit_seal.md,08_raster_out.md, R201-R253). -/
def folioRows2 : List RegRow := [
  ⟨"TIMING_HS", 0x304, 1, 4, [⟨27, 16, .rws, 44⟩, ⟨11, 0, .rws, 528⟩]⟩,
  ⟨"TIMING_V", 0x308, 1, 4, [⟨28, 16, .rws, 1125⟩, ⟨12, 0, .rws, 1080⟩]⟩,
  ⟨"TIMING_VA", 0x30C, 1, 4, [⟨28, 16, .rws, 0⟩, ⟨12, 0, .rws, 42⟩]⟩,
  ⟨"TIMING_VS", 0x310, 1, 4, [⟨28, 16, .rws, 7⟩, ⟨3, 0, .rws, 5⟩]⟩,
  ⟨"TIMING_RATE", 0x314, 1, 4, [⟨31, 16, .rws, 50⟩, ⟨15, 0, .rws, 1⟩]⟩,
  ⟨"TIMING_CLK", 0x318, 1, 4, [⟨31, 31, .rws, 0⟩, ⟨30, 28, .rws, 0⟩, ⟨27, 27, .rws, 0⟩]⟩,
  ⟨"TIMING_MODE", 0x31C, 1, 4, [⟨31, 31, .rws, 0⟩, ⟨30, 30, .rws, 0⟩, ⟨29, 29, .rws, 0⟩, ⟨28, 28, .rws, 0⟩, ⟨27, 27, .rws, 0⟩, ⟨26, 26, .rws, 0⟩, ⟨3, 0, .rws, 2⟩]⟩,
  ⟨"TIMING_OFFSET", 0x320, 1, 4, [⟨28, 16, .rws, 0⟩, ⟨12, 0, .rws, 0⟩]⟩,
  ⟨"UR_COLOUR", 0x324, 1, 4, [⟨29, 0, .rws, 0⟩]⟩,
  ⟨"RASTER_STATUS", 0x500, 1, 4, [⟨31, 29, .ro, 0⟩, ⟨28, 28, .ro, 0⟩, ⟨27, 27, .ro, 0⟩, ⟨12, 0, .ro, 0⟩]⟩,
  ⟨"RASTER_PHASE", 0x504, 1, 4, [⟨31, 0, .ro, 0⟩]⟩,
  ⟨"LINE_MATCH", 0x508, 1, 4, [⟨12, 0, .rw, 1⟩]⟩,
  ⟨"UNDERRUN_LINES", 0x50C, 1, 4, [⟨31, 0, .ro, 0⟩]⟩,
  ⟨"UNDERRUN_FRAMES", 0x510, 1, 4, [⟨31, 0, .ro, 0⟩]⟩,
  ⟨"TE_COUNT", 0x514, 1, 4, [⟨31, 16, .ro, 0⟩, ⟨15, 0, .ro, 0⟩]⟩,
  ⟨"TE_FRAME", 0x518, 1, 4, [⟨31, 0, .ro, 0⟩]⟩,
  ⟨"RASTER_INT_STATUS", 0x520, 1, 4, [⟨14, 14, .w1c, 0⟩, ⟨13, 13, .w1c, 0⟩, ⟨12, 12, .w1c, 0⟩, ⟨11, 11, .w1c, 0⟩, ⟨10, 10, .w1c, 0⟩, ⟨9, 9, .w1c, 0⟩, ⟨8, 8, .w1c, 0⟩, ⟨7, 7, .w1c, 0⟩, ⟨6, 6, .w1c, 0⟩, ⟨5, 5, .w1c, 0⟩, ⟨4, 4, .w1c, 0⟩, ⟨3, 3, .w1c, 0⟩, ⟨2, 2, .w1c, 0⟩, ⟨1, 1, .w1c, 0⟩, ⟨0, 0, .w1c, 0⟩]⟩,
  ⟨"RASTER_INT_EN", 0x524, 1, 4, [⟨14, 14, .rw, 0⟩, ⟨13, 13, .rw, 0⟩, ⟨12, 12, .rw, 0⟩, ⟨11, 11, .rw, 0⟩, ⟨10, 10, .rw, 0⟩, ⟨9, 9, .rw, 0⟩, ⟨8, 8, .rw, 0⟩, ⟨7, 7, .rw, 0⟩, ⟨6, 6, .rw, 0⟩, ⟨5, 5, .rw, 0⟩, ⟨4, 4, .rw, 0⟩, ⟨3, 3, .rw, 0⟩, ⟨2, 2, .rw, 0⟩, ⟨1, 1, .rw, 0⟩, ⟨0, 0, .rw, 0⟩]⟩,
  ⟨"RASTER_INT_STATUS_CNT", 0x528, 7, 4, [⟨31, 16, .cnt, 0⟩, ⟨15, 0, .cnt, 0⟩]⟩,
  ⟨"RASTER_INT_STATUS_CNT_LAST", 0x544, 1, 4, [⟨15, 0, .cnt, 0⟩]⟩,
  ⟨"TE_CFG", 0x700, 1, 4, [⟨31, 16, .rw, 0⟩, ⟨15, 8, .rw, 0⟩, ⟨3, 0, .rw, 3⟩]⟩,
  ⟨"HOLD_CTRL", 0x704, 1, 4, [⟨31, 31, .rw, 0⟩, ⟨30, 30, .rw, 0⟩, ⟨7, 0, .rw, 8⟩]⟩,
  ⟨"HOLD_COUNT", 0x708, 1, 4, [⟨31, 0, .ro, 0⟩]⟩,
  ⟨"LTR_CFG", 0x70C, 1, 4, [⟨15, 0, .rw, 20⟩]⟩]

/-- Registers of FOLIO, part 3 (07_folio_commit_seal.md,08_raster_out.md, R201-R253). -/
def folioRows3 : List RegRow := [
  ⟨"LTR_STATUS", 0x710, 1, 4, [⟨15, 0, .ro, 65535⟩]⟩,
  ⟨"SEAL_STATE", 0x900, 1, 4, [⟨31, 29, .ro, 0⟩, ⟨28, 28, .ro, 0⟩, ⟨27, 27, .ro, 0⟩, ⟨8, 0, .ro, 0⟩]⟩,
  ⟨"SEAL_SHOWN_SEQ", 0x904, 1, 4, [⟨31, 0, .ro, 0⟩]⟩,
  ⟨"SEAL_STALE_TIME", 0x908, 1, 4, [⟨31, 0, .ro, 0⟩]⟩,
  ⟨"SEAL_SURF_LOADED", 0x90C, 1, 4, [⟨15, 0, .ro, 0⟩]⟩,
  ⟨"SEAL_CMD", 0x940, 32, 4, [⟨31, 0, .sec, 0⟩]⟩,
  ⟨"SEAL_INT_STATUS", 0x9C0, 1, 4, [⟨4, 4, .w1c, 0⟩, ⟨3, 3, .w1c, 0⟩, ⟨2, 2, .w1c, 0⟩, ⟨1, 1, .w1c, 0⟩, ⟨0, 0, .w1c, 0⟩]⟩,
  ⟨"SEAL_INT_EN", 0x9C4, 1, 4, [⟨4, 4, .rw, 0⟩, ⟨3, 3, .rw, 0⟩, ⟨2, 2, .rw, 0⟩, ⟨1, 1, .rw, 0⟩, ⟨0, 0, .rw, 0⟩]⟩,
  ⟨"SEAL_INT_STATUS_CNT", 0x9C8, 2, 4, [⟨31, 16, .cnt, 0⟩, ⟨15, 0, .cnt, 0⟩]⟩,
  ⟨"SEAL_INT_STATUS_CNT_LAST", 0x9D0, 1, 4, [⟨15, 0, .cnt, 0⟩]⟩]

/-- Registers of FOLIO. -/
def folioRows : List RegRow := folioRows1 ++ folioRows2 ++ folioRows3

/-- Registers of AUDIO (09_audio_marginalia.md, R254-R277). -/
def audioRows : List RegRow := [
  ⟨"CFG", 0x0, 1, 4, [⟨27, 16, .rwi, 0⟩, ⟨10, 0, .rwi, 0⟩]⟩,
  ⟨"DELAY_MAX", 0x4, 1, 4, [⟨15, 0, .ro, 0⟩]⟩,
  ⟨"CTRL", 0x8, 1, 4, [⟨8, 8, .rw, 0⟩, ⟨6, 0, .rw, 10⟩]⟩,
  ⟨"BANK_CMD", 0xC, 1, 4, [⟨0, 0, .wo, 0⟩]⟩,
  ⟨"BANK_STATUS", 0x10, 1, 4, [⟨31, 31, .ro, 0⟩, ⟨10, 0, .ro, 0⟩]⟩,
  ⟨"INT_STATUS", 0x20, 1, 4, [⟨9, 9, .w1c, 0⟩, ⟨8, 8, .w1c, 0⟩, ⟨7, 7, .w1c, 0⟩, ⟨6, 6, .w1c, 0⟩, ⟨5, 5, .w1c, 0⟩, ⟨4, 4, .w1c, 0⟩, ⟨3, 3, .w1c, 0⟩, ⟨2, 2, .w1c, 0⟩, ⟨1, 1, .w1c, 0⟩, ⟨0, 0, .w1c, 0⟩]⟩,
  ⟨"INT_EN", 0x24, 1, 4, [⟨9, 9, .rw, 0⟩, ⟨8, 8, .rw, 0⟩, ⟨7, 7, .rw, 0⟩, ⟨6, 6, .rw, 0⟩, ⟨5, 5, .rw, 0⟩, ⟨4, 4, .rw, 0⟩, ⟨3, 3, .rw, 0⟩, ⟨2, 2, .rw, 0⟩, ⟨1, 1, .rw, 0⟩, ⟨0, 0, .rw, 0⟩]⟩,
  ⟨"INT_STATUS_CNT", 0x28, 5, 4, [⟨31, 16, .cnt, 0⟩, ⟨15, 0, .cnt, 0⟩]⟩,
  ⟨"LOST_SAMPLES", 0x40, 1, 4, [⟨31, 0, .ro, 0⟩]⟩,
  ⟨"CLIP", 0x44, 1, 4, [⟨31, 0, .ro, 0⟩]⟩,
  ⟨"OUT_METER", 0x800, 512, 4, [⟨31, 0, .ro, 4294967295⟩]⟩,
  ⟨"OUT_MAP", 0x1000, 1024, 4, [⟨31, 31, .own, 0⟩, ⟨30, 30, .own, 0⟩, ⟨29, 27, .own, 0⟩, ⟨26, 21, .own, 0⟩, ⟨20, 16, .own, 0⟩, ⟨15, 0, .own, 0⟩]⟩,
  ⟨"IN_MAP", 0x2000, 2048, 4, [⟨31, 31, .own, 0⟩, ⟨30, 20, .own, 0⟩, ⟨14, 10, .own, 0⟩]⟩,
  ⟨"IN_STAT", 0x4000, 2048, 4, [⟨31, 29, .ro, 0⟩, ⟨28, 27, .ro, 0⟩, ⟨15, 0, .ro, 0⟩]⟩,
  ⟨"IN_METER", 0x6000, 1024, 4, [⟨31, 0, .ro, 4294967295⟩]⟩,
  ⟨"OUT_DELAY", 0x7000, 1024, 4, [⟨31, 16, .ro, 0⟩, ⟨15, 0, .ro, 0⟩]⟩,
  ⟨"MIX", 0x8000, 4096, 4, [⟨31, 31, .rws, 0⟩, ⟨30, 20, .rws, 0⟩, ⟨19, 18, .rws, 0⟩, ⟨15, 0, .rws, 0⟩]⟩]

/-- Registers of MARGINALIA (09_audio_marginalia.md, R278-R284). -/
def marginaliaRows : List RegRow := [
  ⟨"QUERY_STREAM", 0x10, 1, 4, [⟨10, 0, .rw, 0⟩]⟩,
  ⟨"QUERY_SEQ", 0x14, 1, 4, [⟨31, 0, .rw, 0⟩]⟩,
  ⟨"QUERY_CMD", 0x18, 1, 4, [⟨0, 0, .wo, 0⟩]⟩,
  ⟨"QUERY_RESULT", 0x1C, 1, 4, [⟨31, 31, .ro, 1⟩, ⟨30, 16, .ro, 0⟩, ⟨15, 0, .ro, 0⟩]⟩,
  ⟨"QUERY_DATA", 0x20, 32, 4, [⟨31, 0, .ro, 0⟩]⟩,
  ⟨"INT_STATUS", 0x100, 1, 4, [⟨5, 5, .w1c, 0⟩, ⟨4, 4, .w1c, 0⟩, ⟨3, 3, .w1c, 0⟩, ⟨2, 2, .w1c, 0⟩, ⟨1, 1, .w1c, 0⟩, ⟨0, 0, .w1c, 0⟩]⟩,
  ⟨"INT_EN", 0x104, 1, 4, [⟨5, 5, .rw, 0⟩, ⟨4, 4, .rw, 0⟩, ⟨3, 3, .rw, 0⟩, ⟨2, 2, .rw, 0⟩, ⟨1, 1, .rw, 0⟩, ⟨0, 0, .rw, 0⟩]⟩,
  ⟨"INT_STATUS_CNT", 0x108, 3, 4, [⟨31, 16, .cnt, 0⟩, ⟨15, 0, .cnt, 0⟩]⟩,
  ⟨"ZONE_STATUS_LO", 0x300, 1, 4, [⟨31, 0, .w1c, 0⟩]⟩,
  ⟨"ZONE_STATUS_HI", 0x304, 1, 4, [⟨31, 0, .w1c, 0⟩]⟩,
  ⟨"ZONE_EN_LO", 0x308, 1, 4, [⟨31, 0, .rw, 0⟩]⟩,
  ⟨"ZONE_EN_HI", 0x30C, 1, 4, [⟨31, 0, .rw, 0⟩]⟩,
  ⟨"ZONE_STATUS_CNT", 0x310, 32, 4, [⟨31, 16, .cnt, 0⟩, ⟨15, 0, .cnt, 0⟩]⟩,
  ⟨"OUT_CTRL", 0x1000, 64, 16, [⟨31, 30, .rw, 0⟩, ⟨29, 27, .rw, 0⟩, ⟨26, 26, .rw, 1⟩, ⟨25, 25, .rw, 0⟩, ⟨24, 22, .rw, 0⟩, ⟨21, 21, .rw, 0⟩]⟩,
  ⟨"OUT_TC_OFFSET", 0x1004, 64, 16, [⟨16, 0, .rw, 0⟩]⟩,
  ⟨"OUT_FILTER0", 0x1008, 64, 16, [⟨31, 0, .rw, 0⟩]⟩,
  ⟨"OUT_FILTER1", 0x100C, 64, 16, [⟨31, 0, .rw, 0⟩]⟩,
  ⟨"WATCH_CTRL", 0x2000, 64, 16, [⟨31, 31, .rw, 0⟩, ⟨10, 0, .rw, 0⟩]⟩,
  ⟨"WATCH_MASK_LO", 0x2004, 64, 16, [⟨31, 0, .rw, 0⟩]⟩,
  ⟨"WATCH_MASK_HI", 0x2008, 64, 16, [⟨31, 0, .rw, 0⟩]⟩,
  ⟨"WATCH_HIT_SEQ", 0x200C, 64, 16, [⟨31, 0, .ro, 0⟩]⟩]

/-- Registers of MEMORY, part 1 (10_stream_memory.md, R285-R301). -/
def memoryRows1 : List RegRow := [
  ⟨"STATUS", 0x0, 1, 4, [⟨31, 31, .ro, 0⟩, ⟨30, 30, .ro, 0⟩, ⟨29, 29, .ro, 0⟩, ⟨28, 27, .ro, 0⟩, ⟨26, 25, .ro, 0⟩, ⟨24, 23, .ro, 0⟩, ⟨22, 21, .ro, 0⟩]⟩,
  ⟨"BAR2_WIN", 0x4, 1, 4, [⟨18, 0, .rw, 0⟩]⟩,
  ⟨"SCRUB_CFG", 0x8, 1, 4, [⟨31, 31, .rw, 1⟩, ⟨7, 0, .rw, 24⟩]⟩,
  ⟨"SCRUB_POS", 0xC, 1, 4, [⟨18, 0, .ro, 0⟩]⟩,
  ⟨"SCRUB_PASSES", 0x10, 1, 4, [⟨31, 0, .ro, 0⟩]⟩,
  ⟨"PD_CFG", 0x14, 1, 4, [⟨31, 31, .rw, 1⟩, ⟨30, 30, .rw, 1⟩, ⟨7, 0, .rw, 5⟩]⟩,
  ⟨"PD_STATUS", 0x18, 1, 4, [⟨15, 0, .ro, 65535⟩]⟩,
  ⟨"PD_LIGHT", 0x1C, 1, 4, [⟨31, 0, .ro, 0⟩]⟩,
  ⟨"PD_DEEP", 0x20, 1, 4, [⟨31, 0, .ro, 0⟩]⟩,
  ⟨"DRIFT_CFG", 0x24, 1, 4, [⟨7, 0, .rw, 16⟩]⟩,
  ⟨"DRIFT_STATUS", 0x28, 1, 4, [⟨31, 0, .ro, 0⟩]⟩,
  ⟨"CLASS_ADMIT_CUR", 0x40, 4, 16, [⟨31, 0, .ro, 0⟩]⟩,
  ⟨"CLASS_USE", 0x44, 4, 16, [⟨31, 0, .ro, 0⟩]⟩,
  ⟨"CLASS_SHED_US", 0x48, 4, 16, [⟨31, 0, .ro, 0⟩]⟩,
  ⟨"CLASS_CFG", 0x4C, 4, 16, [⟨31, 31, .ro, 0⟩, ⟨7, 0, .rwi, 0⟩]⟩,
  ⟨"CL0_LAT_MAX", 0x80, 1, 4, [⟨31, 0, .ro, 0⟩]⟩,
  ⟨"CL0_QFULL", 0x84, 1, 4, [⟨31, 0, .ro, 0⟩]⟩,
  ⟨"CL0_EXCESS", 0x88, 1, 4, [⟨31, 0, .ro, 0⟩]⟩,
  ⟨"ECC_CORR", 0x90, 1, 4, [⟨31, 0, .ro, 0⟩]⟩,
  ⟨"ECC_UNCORR", 0x94, 1, 4, [⟨31, 0, .ro, 0⟩]⟩,
  ⟨"UE_ADDR_LO", 0x98, 1, 4, [⟨31, 0, .ro, 0⟩]⟩,
  ⟨"UE_ADDR_HI", 0x9C, 1, 4, [⟨31, 31, .ro, 0⟩, ⟨30, 29, .ro, 0⟩, ⟨2, 0, .ro, 0⟩]⟩,
  ⟨"FW_VIOL", 0xA0, 10, 4, [⟨31, 0, .ro, 0⟩]⟩,
  ⟨"FW_LAST", 0xC8, 1, 4, [⟨31, 31, .ro, 0⟩, ⟨30, 30, .ro, 0⟩, ⟨29, 26, .ro, 0⟩, ⟨18, 0, .ro, 0⟩]⟩]

/-- Registers of MEMORY, part 2 (10_stream_memory.md, R285-R301). -/
def memoryRows2 : List RegRow := [
  ⟨"CTRL", 0xCC, 1, 4, [⟨0, 0, .wo, 0⟩]⟩,
  ⟨"INT_STATUS", 0xE0, 1, 4, [⟨10, 10, .w1c, 0⟩, ⟨9, 9, .w1c, 0⟩, ⟨8, 8, .w1c, 0⟩, ⟨7, 7, .w1c, 0⟩, ⟨6, 6, .w1c, 0⟩, ⟨5, 5, .w1c, 0⟩, ⟨4, 4, .w1c, 0⟩, ⟨3, 3, .w1c, 0⟩, ⟨2, 2, .w1c, 0⟩, ⟨1, 1, .w1c, 0⟩, ⟨0, 0, .w1c, 0⟩]⟩,
  ⟨"INT_EN", 0xE4, 1, 4, [⟨10, 10, .rw, 0⟩, ⟨9, 9, .rw, 0⟩, ⟨8, 8, .rw, 0⟩, ⟨7, 7, .rw, 0⟩, ⟨6, 6, .rw, 0⟩, ⟨5, 5, .rw, 0⟩, ⟨4, 4, .rw, 0⟩, ⟨3, 3, .rw, 0⟩, ⟨2, 2, .rw, 0⟩, ⟨1, 1, .rw, 0⟩, ⟨0, 0, .rw, 0⟩]⟩,
  ⟨"INT_STATUS_CNT", 0xE8, 5, 4, [⟨31, 16, .cnt, 0⟩, ⟨15, 0, .cnt, 0⟩]⟩,
  ⟨"INT_STATUS_CNT_LAST", 0xFC, 1, 4, [⟨15, 0, .cnt, 0⟩]⟩]

/-- Registers of MEMORY. -/
def memoryRows : List RegRow := memoryRows1 ++ memoryRows2

/-- Registers of CODEC (11_codecs_cellar.md, R302-R314). -/
def codecRows : List RegRow := [
  ⟨"CFG", 0x0, 1, 4, [⟨31, 31, .rwi, 0⟩, ⟨1, 0, .rwi, 0⟩]⟩,
  ⟨"STATUS", 0x4, 1, 4, [⟨31, 31, .ro, 0⟩, ⟨30, 29, .ro, 0⟩, ⟨10, 0, .ro, 0⟩]⟩,
  ⟨"JOBS", 0x8, 1, 4, [⟨31, 0, .ro, 0⟩]⟩,
  ⟨"ABANDONED", 0xC, 1, 4, [⟨31, 0, .ro, 0⟩]⟩,
  ⟨"CONCEALED_SLICES", 0x10, 1, 4, [⟨31, 0, .ro, 0⟩]⟩,
  ⟨"POISONED", 0x14, 1, 4, [⟨31, 0, .ro, 0⟩]⟩,
  ⟨"LOAD", 0x18, 1, 4, [⟨15, 0, .ro, 0⟩]⟩,
  ⟨"HENC_CFG", 0x40, 1, 4, [⟨31, 31, .rw, 0⟩, ⟨23, 16, .rw, 32⟩, ⟨10, 0, .rw, 0⟩]⟩,
  ⟨"HENC_RING_BASE", 0x44, 1, 4, [⟨18, 0, .rw, 0⟩]⟩,
  ⟨"HENC_RING_SIZE", 0x48, 1, 4, [⟨18, 0, .rw, 0⟩]⟩,
  ⟨"HENC_WR", 0x4C, 1, 4, [⟨31, 0, .ro, 0⟩]⟩,
  ⟨"HENC_RD", 0x50, 1, 4, [⟨31, 0, .rw, 0⟩]⟩,
  ⟨"HENC_SKIP", 0x54, 1, 4, [⟨31, 0, .ro, 0⟩]⟩,
  ⟨"INT_STATUS", 0x80, 1, 4, [⟨3, 3, .w1c, 0⟩, ⟨2, 2, .w1c, 0⟩, ⟨1, 1, .w1c, 0⟩, ⟨0, 0, .w1c, 0⟩]⟩,
  ⟨"INT_EN", 0x84, 1, 4, [⟨3, 3, .rw, 0⟩, ⟨2, 2, .rw, 0⟩, ⟨1, 1, .rw, 0⟩, ⟨0, 0, .rw, 0⟩]⟩,
  ⟨"INT_STATUS_CNT", 0x88, 2, 4, [⟨31, 16, .cnt, 0⟩, ⟨15, 0, .cnt, 0⟩]⟩]

/-- Registers of CELLAR, part 1 (11_codecs_cellar.md, R315-R340). -/
def cellarRows1 : List RegRow := [
  ⟨"CFG", 0x0, 1, 4, [⟨31, 31, .rwi, 0⟩, ⟨30, 30, .rwi, 0⟩, ⟨29, 28, .rwi, 0⟩, ⟨8, 0, .rwi, 0⟩]⟩,
  ⟨"CTRL", 0x4, 1, 4, [⟨31, 31, .rw, 1⟩, ⟨30, 30, .rw, 0⟩, ⟨29, 29, .rw, 0⟩, ⟨28, 28, .rw, 1⟩, ⟨23, 16, .rw, 50⟩, ⟨15, 8, .rw, 20⟩, ⟨7, 0, .rw, 30⟩]⟩,
  ⟨"STATE", 0x8, 1, 4, [⟨31, 28, .ro, 0⟩, ⟨27, 27, .ro, 0⟩, ⟨26, 26, .ro, 0⟩, ⟨25, 25, .ro, 0⟩, ⟨24, 22, .ro, 3⟩, ⟨21, 21, .ro, 0⟩, ⟨8, 0, .ro, 0⟩]⟩,
  ⟨"HEARTBEAT", 0xC, 1, 4, [⟨31, 0, .wo, 0⟩]⟩,
  ⟨"INCIDENT_CMD", 0x10, 1, 4, [⟨31, 31, .wo, 0⟩, ⟨30, 30, .wo, 0⟩]⟩,
  ⟨"INC_GPIO", 0x14, 1, 4, [⟨31, 0, .rw, 0⟩]⟩,
  ⟨"INC_EVENT", 0x18, 1, 4, [⟨4, 0, .rw, 0⟩]⟩,
  ⟨"CMD", 0x20, 1, 4, [⟨3, 0, .wo, 0⟩]⟩,
  ⟨"RESULT", 0x24, 1, 4, [⟨31, 31, .ro, 1⟩, ⟨30, 16, .ro, 0⟩, ⟨15, 0, .ro, 0⟩]⟩,
  ⟨"RESULT_INFO", 0x28, 1, 4, [⟨31, 0, .ro, 0⟩]⟩,
  ⟨"ARG_GSEQ_LO", 0x30, 1, 4, [⟨31, 0, .rw, 0⟩]⟩,
  ⟨"ARG_GSEQ_HI", 0x34, 1, 4, [⟨31, 0, .rw, 0⟩]⟩,
  ⟨"ARG_ADDR_LO", 0x38, 1, 4, [⟨31, 0, .rw, 0⟩]⟩,
  ⟨"ARG_ADDR_HI", 0x3C, 1, 4, [⟨31, 0, .rw, 0⟩]⟩,
  ⟨"ARG_LEN", 0x40, 1, 4, [⟨31, 0, .rw, 0⟩]⟩,
  ⟨"FMT_CFG", 0x44, 1, 4, [⟨31, 16, .rw, 64⟩, ⟨15, 0, .rw, 256⟩]⟩,
  ⟨"REC_MAP", 0x50, 8, 4, [⟨31, 0, .ro, 0⟩]⟩,
  ⟨"DRIVE_CB_LO", 0x80, 1, 4, [⟨31, 0, .ro, 0⟩]⟩,
  ⟨"DRIVE_CB_HI", 0x84, 1, 4, [⟨31, 0, .ro, 0⟩]⟩,
  ⟨"EXTENTS", 0x88, 1, 4, [⟨31, 0, .ro, 0⟩]⟩,
  ⟨"PROTECT_EXT", 0x8C, 1, 4, [⟨31, 0, .ro, 0⟩]⟩,
  ⟨"NEXT_GSEQ_LO", 0x90, 1, 4, [⟨31, 0, .ro, 0⟩]⟩,
  ⟨"NEXT_GSEQ_HI", 0x94, 1, 4, [⟨31, 0, .ro, 0⟩]⟩,
  ⟨"OLDEST_GSEQ_LO", 0x98, 1, 4, [⟨31, 0, .ro, 0⟩]⟩]

/-- Registers of CELLAR, part 2 (11_codecs_cellar.md, R315-R340). -/
def cellarRows2 : List RegRow := [
  ⟨"OLDEST_GSEQ_HI", 0x9C, 1, 4, [⟨31, 0, .ro, 0⟩]⟩,
  ⟨"RING_PENDING", 0xA0, 1, 4, [⟨31, 0, .ro, 0⟩]⟩,
  ⟨"SEGMENTS", 0xB0, 1, 4, [⟨31, 0, .ro, 0⟩]⟩,
  ⟨"GAP_FRAMES", 0xB4, 1, 4, [⟨31, 0, .ro, 0⟩]⟩,
  ⟨"SUSPENDS", 0xB8, 1, 4, [⟨31, 0, .ro, 0⟩]⟩,
  ⟨"DRIVE_ERRORS", 0xBC, 1, 4, [⟨31, 0, .ro, 0⟩]⟩,
  ⟨"UNSIGNED", 0xC0, 1, 4, [⟨31, 0, .ro, 0⟩]⟩,
  ⟨"PROTECT_REFUSED", 0xC4, 1, 4, [⟨31, 0, .ro, 0⟩]⟩,
  ⟨"INT_STATUS", 0xE0, 1, 4, [⟨10, 10, .w1c, 0⟩, ⟨9, 9, .w1c, 0⟩, ⟨8, 8, .w1c, 0⟩, ⟨7, 7, .w1c, 0⟩, ⟨6, 6, .w1c, 0⟩, ⟨5, 5, .w1c, 0⟩, ⟨4, 4, .w1c, 0⟩, ⟨3, 3, .w1c, 0⟩, ⟨2, 2, .w1c, 0⟩, ⟨1, 1, .w1c, 0⟩, ⟨0, 0, .w1c, 0⟩]⟩,
  ⟨"INT_EN", 0xE4, 1, 4, [⟨10, 10, .rw, 0⟩, ⟨9, 9, .rw, 0⟩, ⟨8, 8, .rw, 0⟩, ⟨7, 7, .rw, 0⟩, ⟨6, 6, .rw, 0⟩, ⟨5, 5, .rw, 0⟩, ⟨4, 4, .rw, 0⟩, ⟨3, 3, .rw, 0⟩, ⟨2, 2, .rw, 0⟩, ⟨1, 1, .rw, 0⟩, ⟨0, 0, .rw, 0⟩]⟩,
  ⟨"INT_STATUS_CNT", 0xE8, 5, 4, [⟨31, 16, .cnt, 0⟩, ⟨15, 0, .cnt, 0⟩]⟩,
  ⟨"INT_STATUS_CNT_LAST", 0xFC, 1, 4, [⟨15, 0, .cnt, 0⟩]⟩,
  ⟨"DIR_HDR", 0x100, 1, 4, [⟨31, 31, .rp, 0⟩]⟩,
  ⟨"DIR_DATA", 0x104, 32, 4, [⟨31, 0, .ro, 0⟩]⟩,
  ⟨"DIR_CURSOR_LO", 0x1C0, 1, 4, [⟨31, 0, .own, 0⟩]⟩,
  ⟨"DIR_CURSOR_HI", 0x1C4, 1, 4, [⟨31, 0, .own, 0⟩]⟩,
  ⟨"ENTRY_CTRL", 0x1000, 256, 32, [⟨31, 31, .own, 0⟩, ⟨30, 28, .own, 0⟩, ⟨27, 27, .own, 0⟩, ⟨26, 24, .own, 0⟩, ⟨23, 20, .own, 2⟩, ⟨19, 12, .own, 0⟩, ⟨11, 4, .own, 10⟩]⟩,
  ⟨"ENTRY_SRC", 0x1004, 256, 32, [⟨31, 24, .own, 32⟩, ⟨10, 0, .own, 0⟩]⟩,
  ⟨"ENTRY_AUDIO", 0x1008, 256, 32, [⟨31, 27, .own, 0⟩, ⟨10, 0, .own, 0⟩]⟩,
  ⟨"ENTRY_STATUS", 0x100C, 256, 32, [⟨31, 29, .ro, 0⟩, ⟨28, 28, .ro, 0⟩]⟩,
  ⟨"ENTRY_FRAMES", 0x1010, 256, 32, [⟨31, 0, .ro, 0⟩]⟩,
  ⟨"ENTRY_GAPS", 0x1014, 256, 32, [⟨31, 0, .ro, 0⟩]⟩,
  ⟨"ENTRY_LAST_GSEQ", 0x1018, 256, 32, [⟨31, 0, .ro, 0⟩]⟩]

/-- Registers of CELLAR. -/
def cellarRows : List RegRow := cellarRows1 ++ cellarRows2

/-- Registers of HOSTIF, part 1 (12_host_control.md, R341-R358). -/
def hostifRows1 : List RegRow := [
  ⟨"LINK", 0x0, 1, 4, [⟨31, 28, .ro, 0⟩, ⟨27, 24, .ro, 0⟩, ⟨23, 23, .ro, 0⟩, ⟨22, 22, .ro, 0⟩]⟩,
  ⟨"BAR2_LOG2", 0x4, 1, 4, [⟨5, 0, .ro, 28⟩]⟩,
  ⟨"RESETS", 0x8, 1, 4, [⟨31, 16, .ro, 0⟩, ⟨15, 0, .ro, 0⟩]⟩,
  ⟨"ICX_QOS", 0xC0, 1, 4, [⟨19, 18, .rw, 0⟩, ⟨17, 16, .rw, 3⟩, ⟨15, 14, .rw, 3⟩, ⟨13, 12, .rw, 1⟩, ⟨11, 10, .rw, 2⟩]⟩,
  ⟨"ICX_ERR", 0xC4, 1, 4, [⟨31, 31, .ro, 0⟩, ⟨30, 30, .ro, 0⟩, ⟨29, 27, .ro, 0⟩, ⟨26, 26, .ro, 0⟩]⟩,
  ⟨"ICX_ERR_ADDR", 0xC8, 1, 4, [⟨31, 0, .ro, 0⟩]⟩,
  ⟨"ICX_ERR_CNT", 0xCC, 1, 4, [⟨31, 0, .ro, 0⟩]⟩,
  ⟨"BURST_RESCUES", 0xD0, 1, 4, [⟨31, 0, .ro, 0⟩]⟩,
  ⟨"CTRL", 0xDC, 1, 4, [⟨0, 0, .wo, 0⟩]⟩,
  ⟨"INT_STATUS", 0xE0, 1, 4, [⟨9, 9, .w1c, 0⟩, ⟨8, 8, .w1c, 0⟩, ⟨7, 4, .w1c, 0⟩, ⟨3, 0, .w1c, 0⟩]⟩,
  ⟨"INT_EN", 0xE4, 1, 4, [⟨9, 9, .rw, 0⟩, ⟨8, 8, .rw, 0⟩, ⟨7, 4, .rw, 0⟩, ⟨3, 0, .rw, 0⟩]⟩,
  ⟨"INT_STATUS_CNT", 0xE8, 5, 4, [⟨31, 16, .cnt, 0⟩, ⟨15, 0, .cnt, 0⟩]⟩,
  ⟨"DMA_CTRL", 0x100, 4, 64, [⟨31, 31, .rw, 0⟩, ⟨30, 30, .wo, 0⟩, ⟨3, 0, .rw, 4⟩]⟩,
  ⟨"DMA_RING_LO", 0x104, 4, 64, [⟨31, 0, .rw, 0⟩]⟩,
  ⟨"DMA_RING_HI", 0x108, 4, 64, [⟨31, 0, .rw, 0⟩]⟩,
  ⟨"DMA_TAIL", 0x10C, 4, 64, [⟨12, 0, .own, 0⟩]⟩,
  ⟨"DMA_HEAD", 0x110, 4, 64, [⟨12, 0, .ro, 0⟩]⟩,
  ⟨"DMA_STATUS", 0x114, 4, 64, [⟨31, 29, .ro, 0⟩, ⟨28, 24, .ro, 0⟩]⟩,
  ⟨"DMA_DESCS", 0x118, 4, 64, [⟨31, 0, .ro, 0⟩]⟩,
  ⟨"IRQ_ROUTE", 0x1000, 512, 4, [⟨31, 31, .rw, 0⟩, ⟨7, 0, .rw, 0⟩]⟩,
  ⟨"IRQ_PEND", 0x1800, 16, 4, [⟨31, 0, .ro, 0⟩]⟩,
  ⟨"VEC_CFG", 0x2000, 256, 4, [⟨31, 31, .rw, 0⟩, ⟨30, 30, .ro, 1⟩, ⟨15, 0, .rw, 0⟩]⟩,
  ⟨"VEC_EOI", 0x2400, 1, 4, [⟨7, 0, .wo, 0⟩]⟩,
  ⟨"STREAM_PEND", 0x3000, 100, 4, [⟨15, 0, .ro, 0⟩]⟩]

/-- Registers of HOSTIF, part 2 (12_host_control.md, R341-R358). -/
def hostifRows2 : List RegRow := [
  ⟨"MSIX_ADDR_LO", 0x8000, 256, 16, [⟨31, 0, .rw, 0⟩]⟩,
  ⟨"MSIX_ADDR_HI", 0x8004, 256, 16, [⟨31, 0, .rw, 0⟩]⟩,
  ⟨"MSIX_DATA", 0x8008, 256, 16, [⟨31, 0, .rw, 0⟩]⟩,
  ⟨"MSIX_VCTRL", 0x800C, 256, 16, [⟨0, 0, .own, 1⟩]⟩,
  ⟨"MSIX_PBA", 0x9000, 8, 4, [⟨31, 0, .ro, 0⟩]⟩]

/-- Registers of HOSTIF. -/
def hostifRows : List RegRow := hostifRows1 ++ hostifRows2

/-- Registers of SYSIF (12_host_control.md, R359-R367). -/
def sysifRows : List RegRow := [
  ⟨"GPIO_IN", 0x0, 1, 4, [⟨31, 0, .ro, 0⟩]⟩,
  ⟨"GPIO_OUT", 0x4, 1, 4, [⟨31, 0, .rw, 0⟩]⟩,
  ⟨"GPIO_CFG", 0x100, 32, 4, [⟨31, 30, .rw, 0⟩, ⟨29, 29, .rw, 0⟩, ⟨28, 28, .rw, 0⟩, ⟨27, 24, .rw, 0⟩, ⟨23, 18, .rw, 0⟩, ⟨17, 15, .rw, 0⟩, ⟨10, 0, .rw, 0⟩]⟩,
  ⟨"SMB_CFG", 0x200, 1, 4, [⟨6, 0, .rw, 88⟩]⟩,
  ⟨"PMB_DEV", 0x210, 8, 4, [⟨31, 31, .rw, 0⟩, ⟨30, 30, .ro, 0⟩, ⟨6, 0, .rw, 0⟩]⟩,
  ⟨"PMB_VAL", 0x240, 8, 8, [⟨31, 16, .ro, 0⟩, ⟨15, 0, .ro, 0⟩]⟩,
  ⟨"PMB_TEMP", 0x244, 8, 8, [⟨15, 0, .ro, 0⟩]⟩,
  ⟨"FLASH_CMD", 0x300, 1, 4, [⟨31, 30, .wo, 0⟩, ⟨27, 0, .wo, 0⟩]⟩,
  ⟨"FLASH_LEN", 0x304, 1, 4, [⟨8, 0, .rw, 0⟩]⟩,
  ⟨"FLASH_RESULT", 0x308, 1, 4, [⟨31, 31, .ro, 1⟩, ⟨30, 16, .ro, 0⟩, ⟨15, 0, .ro, 0⟩]⟩,
  ⟨"FLASH_CFG", 0x30C, 1, 4, [⟨0, 0, .rw, 1⟩]⟩,
  ⟨"INT_STATUS", 0x340, 1, 4, [⟨3, 3, .w1c, 0⟩, ⟨2, 2, .w1c, 0⟩, ⟨1, 1, .w1c, 0⟩, ⟨0, 0, .w1c, 0⟩]⟩,
  ⟨"INT_EN", 0x344, 1, 4, [⟨3, 3, .rw, 0⟩, ⟨2, 2, .rw, 0⟩, ⟨1, 1, .rw, 0⟩, ⟨0, 0, .rw, 0⟩]⟩,
  ⟨"INT_STATUS_CNT", 0x348, 2, 4, [⟨31, 16, .cnt, 0⟩, ⟨15, 0, .cnt, 0⟩]⟩,
  ⟨"FLASH_BUF", 0x400, 64, 4, [⟨31, 0, .rw, 0⟩]⟩]

/-- Registers of STRONGROOM, part 1 (13_strongroom.md, R368-R405). -/
def strongroomRows1 : List RegRow := [
  ⟨"STATE", 0x0, 1, 4, [⟨31, 29, .ro, 0⟩, ⟨28, 27, .ro, 0⟩, ⟨26, 25, .ro, 0⟩, ⟨24, 22, .ro, 0⟩, ⟨21, 21, .ro, 0⟩, ⟨20, 20, .ro, 0⟩, ⟨19, 19, .ro, 0⟩, ⟨18, 18, .ro, 0⟩, ⟨17, 17, .ro, 0⟩, ⟨16, 14, .ro, 3⟩]⟩,
  ⟨"ROOT_GEN", 0x4, 1, 4, [⟨31, 0, .ro, 0⟩]⟩,
  ⟨"LIFE_CLOCK", 0x8, 1, 4, [⟨31, 0, .ro, 0⟩]⟩,
  ⟨"FUSE_INFO", 0xC, 1, 4, [⟨20, 16, .ro, 0⟩, ⟨15, 12, .ro, 0⟩, ⟨11, 8, .ro, 0⟩, ⟨6, 0, .ro, 0⟩]⟩,
  ⟨"DEVICE_UID", 0x10, 4, 4, [⟨31, 0, .ro, 0⟩]⟩,
  ⟨"CMD", 0x20, 1, 4, [⟨7, 0, .wo, 0⟩]⟩,
  ⟨"RESULT", 0x24, 1, 4, [⟨31, 31, .ro, 1⟩, ⟨30, 16, .ro, 0⟩, ⟨15, 0, .ro, 0⟩]⟩,
  ⟨"RESULT_INFO", 0x28, 1, 4, [⟨31, 0, .ro, 0⟩]⟩,
  ⟨"CMD_ARG", 0x2C, 1, 4, [⟨31, 30, .rw, 0⟩, ⟨28, 24, .rw, 0⟩, ⟨23, 18, .rw, 63⟩, ⟨17, 14, .rw, 0⟩, ⟨9, 0, .rw, 0⟩]⟩,
  ⟨"TAMPER_CFG", 0x30, 1, 4, [⟨16, 16, .sec, 0⟩, ⟨15, 15, .sec, 0⟩, ⟨14, 13, .sec, 0⟩, ⟨12, 11, .sec, 1⟩, ⟨10, 10, .sec, 0⟩, ⟨7, 7, .sec, 0⟩, ⟨6, 5, .sec, 0⟩, ⟨4, 3, .sec, 1⟩, ⟨2, 2, .sec, 0⟩]⟩,
  ⟨"TAMPER_STATUS", 0x34, 1, 4, [⟨31, 31, .ro, 0⟩, ⟨30, 30, .ro, 0⟩, ⟨29, 29, .ro, 0⟩, ⟨7, 0, .ro, 0⟩]⟩,
  ⟨"TAMPER_LOG_LIFE", 0x40, 4, 8, [⟨31, 0, .ro, 0⟩]⟩,
  ⟨"TAMPER_LOG_SRC", 0x44, 4, 8, [⟨31, 24, .ro, 0⟩, ⟨23, 16, .ro, 0⟩]⟩,
  ⟨"DEBUG_REMAIN", 0x60, 1, 4, [⟨31, 0, .ro, 0⟩]⟩,
  ⟨"DRBG_STATUS", 0x64, 1, 4, [⟨31, 31, .ro, 0⟩, ⟨15, 0, .ro, 0⟩]⟩,
  ⟨"INT_STATUS", 0x70, 1, 4, [⟨8, 8, .w1c, 0⟩, ⟨7, 7, .w1c, 0⟩, ⟨6, 6, .w1c, 0⟩, ⟨5, 5, .w1c, 0⟩, ⟨4, 4, .w1c, 0⟩, ⟨3, 3, .w1c, 0⟩, ⟨2, 2, .w1c, 0⟩, ⟨1, 1, .w1c, 0⟩, ⟨0, 0, .w1c, 0⟩]⟩,
  ⟨"INT_EN", 0x74, 1, 4, [⟨8, 8, .rw, 0⟩, ⟨7, 7, .rw, 0⟩, ⟨6, 6, .rw, 0⟩, ⟨5, 5, .rw, 0⟩, ⟨4, 4, .rw, 0⟩, ⟨3, 3, .rw, 0⟩, ⟨2, 2, .rw, 0⟩, ⟨1, 1, .rw, 0⟩, ⟨0, 0, .rw, 0⟩]⟩,
  ⟨"INT_STATUS_CNT", 0x78, 4, 4, [⟨31, 16, .cnt, 0⟩, ⟨15, 0, .cnt, 0⟩]⟩,
  ⟨"INT_STATUS_CNT_LAST", 0x88, 1, 4, [⟨15, 0, .cnt, 0⟩]⟩,
  ⟨"SLOT_INFO", 0x100, 32, 4, [⟨31, 31, .ro, 0⟩, ⟨30, 29, .ro, 0⟩, ⟨28, 28, .ro, 0⟩, ⟨27, 22, .ro, 0⟩, ⟨15, 0, .ro, 0⟩]⟩,
  ⟨"MEAS", 0x200, 96, 4, [⟨31, 0, .ro, 0⟩]⟩,
  ⟨"ENDORSE", 0x400, 24, 4, [⟨31, 0, .ro, 0⟩]⟩,
  ⟨"ID_PUBKEY", 0x460, 25, 4, [⟨31, 0, .ro, 0⟩]⟩,
  ⟨"CMD_BUF", 0x800, 256, 4, [⟨31, 0, .rw, 0⟩]⟩]

/-- Registers of STRONGROOM, part 2 (13_strongroom.md, R368-R405). -/
def strongroomRows2 : List RegRow := [
  ⟨"RESULT_DATA", 0xC00, 208, 4, [⟨31, 0, .ro, 0⟩]⟩]

/-- Registers of STRONGROOM. -/
def strongroomRows : List RegRow := strongroomRows1 ++ strongroomRows2

/-- Registers of POWER, part 1 (14_power_thermal.md, R406-R435). -/
def powerRows1 : List RegRow := [
  ⟨"PWR_CMD", 0x0, 1, 4, [⟨3, 0, .wo, 0⟩]⟩,
  ⟨"PWR_RESULT", 0x4, 1, 4, [⟨31, 31, .ro, 1⟩, ⟨30, 16, .ro, 0⟩, ⟨15, 0, .ro, 0⟩]⟩,
  ⟨"PWR_STATE", 0x8, 1, 4, [⟨31, 29, .ro, 0⟩, ⟨28, 28, .ro, 0⟩]⟩,
  ⟨"DOM_ON_LO", 0xC, 1, 4, [⟨31, 0, .ro, 255⟩]⟩,
  ⟨"DOM_ON_HI", 0x10, 1, 4, [⟨29, 0, .ro, 536870912⟩]⟩,
  ⟨"RUN_MASK_LO", 0x14, 1, 4, [⟨31, 0, .rwi, 0⟩]⟩,
  ⟨"RUN_MASK_HI", 0x18, 1, 4, [⟨31, 0, .rwi, 0⟩]⟩,
  ⟨"QUIET_MASK_LO", 0x1C, 1, 4, [⟨31, 0, .rwi, 0⟩]⟩,
  ⟨"QUIET_MASK_HI", 0x20, 1, 4, [⟨31, 0, .rwi, 0⟩]⟩,
  ⟨"WAKE_CFG", 0x24, 1, 4, [⟨31, 31, .rw, 0⟩, ⟨28, 24, .rw, 0⟩, ⟨23, 23, .rw, 0⟩, ⟨22, 22, .rw, 0⟩]⟩,
  ⟨"WAKE_TIMER", 0x28, 1, 4, [⟨31, 0, .rw, 0⟩]⟩,
  ⟨"QUIET_CFG", 0x2C, 1, 4, [⟨31, 31, .rw, 0⟩, ⟨28, 24, .rw, 0⟩]⟩,
  ⟨"PF_STATUS", 0x30, 1, 4, [⟨31, 16, .ro, 0⟩, ⟨15, 0, .ro, 0⟩]⟩,
  ⟨"TS", 0x100, 28, 4, [⟨31, 31, .ro, 0⟩, ⟨30, 30, .ro, 0⟩, ⟨15, 0, .ro, 0⟩]⟩,
  ⟨"TS_RAW", 0x180, 28, 4, [⟨31, 16, .ro, 0⟩, ⟨15, 0, .ro, 0⟩]⟩,
  ⟨"TH_CFG", 0x200, 1, 4, [⟨31, 24, .rwi, 135⟩, ⟨23, 16, .rwi, 142⟩, ⟨15, 8, .rwi, 155⟩, ⟨7, 4, .rwi, 15⟩, ⟨1, 1, .rw, 0⟩, ⟨0, 0, .rwi, 0⟩]⟩,
  ⟨"TH_STATUS", 0x204, 1, 4, [⟨31, 30, .ro, 0⟩, ⟨29, 29, .ro, 0⟩, ⟨28, 28, .ro, 0⟩, ⟨27, 27, .ro, 0⟩, ⟨26, 26, .ro, 0⟩, ⟨24, 20, .ro, 0⟩, ⟨19, 16, .ro, 0⟩, ⟨15, 0, .ro, 0⟩]⟩,
  ⟨"SHED", 0x208, 1, 4, [⟨13, 0, .ro, 0⟩]⟩,
  ⟨"STEP_STAT", 0x20C, 1, 4, [⟨31, 16, .ro, 0⟩, ⟨15, 0, .ro, 0⟩]⟩,
  ⟨"EST_POWER", 0x210, 1, 4, [⟨31, 16, .ro, 0⟩, ⟨15, 0, .ro, 0⟩]⟩,
  ⟨"EST_CFG", 0x214, 1, 4, [⟨31, 16, .rw, 0⟩, ⟨0, 0, .ro, 0⟩]⟩,
  ⟨"PMB_RAIL", 0x218, 8, 4, [⟨3, 0, .rw, 0⟩]⟩,
  ⟨"EST_GROUP", 0x244, 10, 4, [⟨31, 16, .ro, 0⟩, ⟨15, 0, .ro, 4096⟩]⟩,
  ⟨"SD_NOTE", 0x280, 1, 4, [⟨31, 31, .ro, 0⟩, ⟨28, 24, .ro, 0⟩, ⟨15, 0, .ro, 0⟩]⟩]

/-- Registers of POWER, part 2 (14_power_thermal.md, R406-R435). -/
def powerRows2 : List RegRow := [
  ⟨"SD_LIFE_S", 0x284, 1, 4, [⟨31, 0, .ro, 0⟩]⟩,
  ⟨"INT_STATUS", 0x2C0, 1, 4, [⟨15, 15, .w1c, 0⟩, ⟨14, 14, .w1c, 0⟩, ⟨13, 13, .w1c, 0⟩, ⟨12, 12, .w1c, 0⟩, ⟨11, 11, .w1c, 0⟩, ⟨10, 10, .w1c, 0⟩, ⟨9, 9, .w1c, 0⟩, ⟨8, 8, .w1c, 0⟩, ⟨7, 7, .w1c, 0⟩, ⟨6, 6, .w1c, 0⟩, ⟨5, 5, .w1c, 0⟩, ⟨4, 4, .w1c, 0⟩, ⟨3, 3, .w1c, 0⟩, ⟨2, 2, .w1c, 0⟩, ⟨1, 1, .w1c, 0⟩, ⟨0, 0, .w1c, 0⟩]⟩,
  ⟨"INT_EN", 0x2C4, 1, 4, [⟨15, 15, .rw, 0⟩, ⟨14, 14, .rw, 0⟩, ⟨13, 13, .rw, 0⟩, ⟨12, 12, .rw, 0⟩, ⟨11, 11, .rw, 0⟩, ⟨10, 10, .rw, 0⟩, ⟨9, 9, .rw, 0⟩, ⟨8, 8, .rw, 0⟩, ⟨7, 7, .rw, 0⟩, ⟨6, 6, .rw, 0⟩, ⟨5, 5, .rw, 0⟩, ⟨4, 4, .rw, 0⟩, ⟨3, 3, .rw, 0⟩, ⟨2, 2, .rw, 0⟩, ⟨1, 1, .rw, 0⟩, ⟨0, 0, .rw, 0⟩]⟩,
  ⟨"INT_STATUS_CNT", 0x2C8, 8, 4, [⟨31, 16, .cnt, 0⟩, ⟨15, 0, .cnt, 0⟩]⟩]

/-- Registers of POWER. -/
def powerRows : List RegRow := powerRows1 ++ powerRows2

/-- Registers of BLOTTER, part 1 (15_attic_blotter.md, R436-R463). -/
def blotterRows1 : List RegRow := [
  ⟨"ATTIC_CMD", 0x0, 1, 4, [⟨31, 28, .wo, 0⟩, ⟨13, 0, .wo, 0⟩]⟩,
  ⟨"ATTIC_RESULT", 0x4, 1, 4, [⟨31, 31, .ro, 1⟩, ⟨30, 16, .ro, 0⟩, ⟨15, 0, .ro, 0⟩]⟩,
  ⟨"ATTIC_STATUS", 0x8, 1, 4, [⟨31, 31, .ro, 0⟩, ⟨30, 30, .ro, 0⟩, ⟨7, 0, .ro, 0⟩]⟩,
  ⟨"ATTIC_BP", 0xC, 1, 4, [⟨31, 31, .w1s, 0⟩, ⟨1, 0, .rw, 0⟩]⟩,
  ⟨"BUF_MASK_LO", 0x10, 1, 4, [⟨31, 0, .ro, 0⟩]⟩,
  ⟨"BUF_MASK_HI", 0x14, 1, 4, [⟨31, 0, .ro, 0⟩]⟩,
  ⟨"ATTIC_BUF", 0x40, 16, 4, [⟨31, 0, .own, 0⟩]⟩,
  ⟨"BYTE_STAT", 0x80, 4, 4, [⟨31, 0, .ro, 0⟩]⟩,
  ⟨"REFRESH_CFG", 0x90, 1, 4, [⟨7, 0, .rw, 30⟩]⟩,
  ⟨"PAGE_WRITES", 0x94, 1, 4, [⟨31, 0, .ro, 0⟩]⟩,
  ⟨"WEAK_PAGES", 0x98, 1, 4, [⟨31, 0, .ro, 0⟩]⟩,
  ⟨"REFRESHED", 0x9C, 1, 4, [⟨31, 0, .ro, 0⟩]⟩,
  ⟨"VERIFY_FAILS", 0xA0, 1, 4, [⟨31, 0, .ro, 0⟩]⟩,
  ⟨"ATTIC_INT_STATUS", 0xC0, 1, 4, [⟨4, 4, .w1c, 0⟩, ⟨3, 3, .w1c, 0⟩, ⟨2, 2, .w1c, 0⟩, ⟨1, 1, .w1c, 0⟩, ⟨0, 0, .w1c, 0⟩]⟩,
  ⟨"ATTIC_INT_EN", 0xC4, 1, 4, [⟨4, 4, .rw, 0⟩, ⟨3, 3, .rw, 0⟩, ⟨2, 2, .rw, 0⟩, ⟨1, 1, .rw, 0⟩, ⟨0, 0, .rw, 0⟩]⟩,
  ⟨"ATTIC_INT_STATUS_CNT", 0xC8, 2, 4, [⟨31, 16, .cnt, 0⟩, ⟨15, 0, .cnt, 0⟩]⟩,
  ⟨"ATTIC_INT_STATUS_CNT_LAST", 0xD0, 1, 4, [⟨15, 0, .cnt, 0⟩]⟩,
  ⟨"BL_CTRL", 0x100, 1, 4, [⟨31, 31, .rw, 1⟩, ⟨2, 0, .rw, 2⟩]⟩,
  ⟨"BL_STATUS", 0x104, 1, 4, [⟨28, 16, .ro, 0⟩, ⟨12, 0, .ro, 0⟩]⟩,
  ⟨"NEWEST_SEQ", 0x108, 1, 4, [⟨31, 0, .ro, 0⟩]⟩,
  ⟨"LOG_FLOOR", 0x10C, 1, 4, [⟨31, 0, .ro, 0⟩]⟩,
  ⟨"OP_S", 0x110, 1, 4, [⟨31, 0, .ro, 0⟩]⟩,
  ⟨"OP_FRAC", 0x114, 1, 4, [⟨15, 0, .ro, 0⟩]⟩,
  ⟨"CYCLES", 0x118, 1, 4, [⟨23, 0, .ro, 0⟩]⟩]

/-- Registers of BLOTTER, part 2 (15_attic_blotter.md, R436-R463). -/
def blotterRows2 : List RegRow := [
  ⟨"CAL_NOW", 0x11C, 1, 4, [⟨31, 0, .ro, 0⟩]⟩,
  ⟨"CAL_SET", 0x120, 1, 4, [⟨31, 0, .wo, 0⟩]⟩,
  ⟨"PERSIST_FAIL", 0x124, 1, 4, [⟨15, 0, .ro, 0⟩]⟩,
  ⟨"DROP_TOTAL", 0x128, 1, 4, [⟨31, 0, .ro, 0⟩]⟩,
  ⟨"SNAP_FROM", 0x130, 1, 4, [⟨31, 0, .rw, 0⟩]⟩,
  ⟨"SNAP_CMD", 0x134, 1, 4, [⟨0, 0, .wo, 0⟩]⟩,
  ⟨"SNAP_END", 0x138, 1, 4, [⟨31, 0, .ro, 0⟩]⟩,
  ⟨"RD_HDR", 0x140, 1, 4, [⟨31, 31, .rp, 0⟩, ⟨30, 30, .rp, 0⟩]⟩,
  ⟨"RD_DATA", 0x144, 8, 4, [⟨31, 0, .ro, 0⟩]⟩,
  ⟨"RATE", 0x180, 16, 4, [⟨15, 8, .rw, 255⟩, ⟨7, 0, .rw, 64⟩]⟩,
  ⟨"CLEAR_CMD", 0x1C0, 1, 4, [⟨0, 0, .wo, 0⟩]⟩,
  ⟨"CLEAR_RESULT", 0x1C4, 1, 4, [⟨31, 31, .ro, 1⟩, ⟨30, 16, .ro, 0⟩, ⟨15, 0, .ro, 0⟩]⟩,
  ⟨"INT_STATUS", 0x1E0, 1, 4, [⟨4, 4, .w1c, 0⟩, ⟨3, 3, .w1c, 0⟩, ⟨2, 2, .w1c, 0⟩, ⟨1, 1, .w1c, 0⟩, ⟨0, 0, .w1c, 0⟩]⟩,
  ⟨"INT_EN", 0x1E4, 1, 4, [⟨4, 4, .rw, 0⟩, ⟨3, 3, .rw, 0⟩, ⟨2, 2, .rw, 0⟩, ⟨1, 1, .rw, 0⟩, ⟨0, 0, .rw, 0⟩]⟩,
  ⟨"INT_STATUS_CNT", 0x1E8, 2, 4, [⟨31, 16, .cnt, 0⟩, ⟨15, 0, .cnt, 0⟩]⟩,
  ⟨"INT_STATUS_CNT_LAST", 0x1F0, 1, 4, [⟨15, 0, .cnt, 0⟩]⟩,
  ⟨"HIST_SEL", 0x200, 1, 4, [⟨5, 0, .rw, 0⟩]⟩,
  ⟨"HIST_VREF", 0x210, 8, 4, [⟨31, 0, .rw, 0⟩]⟩,
  ⟨"HIST_BIN", 0x240, 16, 4, [⟨31, 0, .ro, 0⟩]⟩,
  ⟨"HIST_MIN", 0x280, 1, 4, [⟨31, 0, .ro, 0⟩]⟩,
  ⟨"HIST_MAX", 0x284, 1, 4, [⟨31, 0, .ro, 0⟩]⟩,
  ⟨"HIST_MAX_AT", 0x288, 1, 4, [⟨31, 0, .ro, 0⟩]⟩,
  ⟨"DROP", 0x400, 128, 4, [⟨31, 0, .ro, 0⟩]⟩,
  ⟨"CLEAR_BUF", 0x800, 82, 4, [⟨31, 0, .rw, 0⟩]⟩]

/-- Registers of BLOTTER. -/
def blotterRows : List RegRow := blotterRows1 ++ blotterRows2

/-- Registers of GLOBAL (16_startup_faults.md, R464-R480). -/
def globalRows : List RegRow := [
  ⟨"ID", 0x0, 1, 4, [⟨31, 16, .ro, 3222⟩, ⟨15, 8, .ro, 0⟩, ⟨7, 0, .ro, 1⟩]⟩,
  ⟨"RESET_CAUSE", 0x4, 1, 4, [⟨4, 4, .ro, 0⟩, ⟨3, 3, .ro, 0⟩, ⟨2, 2, .ro, 0⟩, ⟨1, 1, .ro, 0⟩, ⟨0, 0, .ro, 0⟩]⟩,
  ⟨"BOOT_STATUS", 0x8, 1, 4, [⟨31, 28, .ro, 0⟩, ⟨27, 27, .ro, 0⟩, ⟨26, 26, .ro, 0⟩, ⟨15, 0, .ro, 0⟩]⟩,
  ⟨"RESET_CMD", 0xC, 1, 4, [⟨31, 16, .wo, 0⟩, ⟨0, 0, .wo, 0⟩]⟩,
  ⟨"FAULT_EN", 0x10, 1, 4, [⟨9, 9, .rw, 1⟩, ⟨8, 8, .rw, 1⟩, ⟨7, 7, .rw, 1⟩, ⟨6, 6, .rw, 1⟩, ⟨5, 5, .rw, 1⟩]⟩,
  ⟨"FAULT_SRC", 0x14, 1, 4, [⟨9, 0, .ro, 0⟩]⟩,
  ⟨"FAULT_ACK", 0x18, 1, 4, [⟨6, 6, .wo, 0⟩]⟩,
  ⟨"RESET_COUNT", 0x1C, 1, 4, [⟨31, 16, .ro, 0⟩, ⟨15, 0, .ro, 0⟩]⟩,
  ⟨"TRACE_LOST", 0x20, 1, 4, [⟨31, 0, .ro, 0⟩]⟩]

/-- Registers of TABLES (18_register_map.md,06_panes.md, R200,R503). -/
def tablesRows : List RegRow := [
  ⟨"SURF_BASE", 0x0, 256, 16, [⟨31, 0, .own, 0⟩]⟩,
  ⟨"SURF_FMT", 0x4, 256, 16, [⟨31, 24, .own, 0⟩, ⟨15, 0, .own, 0⟩]⟩,
  ⟨"SURF_SIZE", 0x8, 256, 16, [⟨31, 16, .own, 0⟩, ⟨15, 0, .own, 0⟩]⟩,
  ⟨"SURF_FENCE", 0xC, 256, 16, [⟨31, 0, .own, 0⟩]⟩]

/-- Registers of COEF (18_register_map.md,06_panes.md, R200,R503). -/
def coefRows : List RegRow := [
  ⟨"COEF", 0x0, 448, 4, [⟨31, 16, .own, 0⟩, ⟨15, 0, .own, 0⟩]⟩]

/-- A decoded block of R499: base, number of copies, distance, and its registers. The Folio block is decoded by
`folioLookup`, since R502 lays it out as two pages of subblocks. -/
structure BlockRow where
  base : Nat
  size : Nat
  count : Nat
  stride : Nat
  rows : List RegRow

/-- The blocks of R499 other than FOLIO. -/
def blockRows : List BlockRow := [
  ⟨0x10000, 0x10000, 1, 0x0, rulingRows⟩,
  ⟨0x20000, 0x10000, 2, 0x100, clockRows⟩,
  ⟨0x220000, 0x10000, 1, 0x0, fabricRows⟩,
  ⟨0x40000, 0x30000, 96, 0x800, portRows⟩,
  ⟨0x80000, 0x19000, 1600, 0x40, streamRows⟩,
  ⟨0xC0000, 0x8000, 8, 0x1000, ingestRows⟩,
  ⟨0xC8000, 0x1000, 2, 0x100, motRows⟩,
  ⟨0x180000, 0x10000, 1, 0x0, audioRows⟩,
  ⟨0x190000, 0x10000, 1, 0x0, marginaliaRows⟩,
  ⟨0x1C0000, 0x10000, 1, 0x0, memoryRows⟩,
  ⟨0x1A0000, 0x10000, 32, 0x800, codecRows⟩,
  ⟨0x1B0000, 0x10000, 1, 0x0, cellarRows⟩,
  ⟨0x200000, 0x10000, 1, 0x0, hostifRows⟩,
  ⟨0x210000, 0x10000, 1, 0x0, sysifRows⟩,
  ⟨0x1D0000, 0x10000, 1, 0x0, strongroomRows⟩,
  ⟨0x1E0000, 0x10000, 1, 0x0, powerRows⟩,
  ⟨0x1F0000, 0x10000, 1, 0x0, blotterRows⟩,
  ⟨0x0, 0x10000, 1, 0x0, globalRows⟩,
  ⟨0x300000, 0x10000, 1, 0x0, tablesRows⟩,
  ⟨0x310000, 0x20000, 64, 0x800, coefRows⟩]

end Sys2Proof.Machine
end

