-- ==== Sys2Proof/Machine/Regs.lean ====
section
/-!
DEFINITION. Names of every register field and event flag of the field tables, as places in the register file
(18_register_map.md R501 to R503). `R.block_REGISTER_FIELD` is a field, `Flag.block_NAME` an event flag with its
counter (00_scope.md R11, R12), `Reg.block_REGISTER` a whole register's address.
-/
namespace Sys2Proof.Machine

/-- A field of a register: its BAR0 offset and bits [hi:lo]. -/
structure Fld where
  addr : Nat
  hi : Nat
  lo : Nat
  deriving DecidableEq, Repr

/-- An event flag: its status register, its bit, and the first of its counters (R12). -/
structure Flg where
  addr : Nat
  cnt : Nat
  bit : Nat
  deriving DecidableEq, Repr

def Reg.ruling_CTRL : Nat := 0x10000
def R.ruling_CTRL_CAPTURE : Fld := ⟨Reg.ruling_CTRL, 31, 31⟩
def R.ruling_CTRL_FORCE_COAST : Fld := ⟨Reg.ruling_CTRL, 28, 28⟩
def R.ruling_CTRL_LOOP_BW : Fld := ⟨Reg.ruling_CTRL, 27, 26⟩
def R.ruling_CTRL_JUMP_POLICY : Fld := ⟨Reg.ruling_CTRL, 25, 25⟩
def R.ruling_CTRL_SRC_MODE : Fld := ⟨Reg.ruling_CTRL, 24, 24⟩
def R.ruling_CTRL_MANUAL_SRC : Fld := ⟨Reg.ruling_CTRL, 23, 22⟩
def Reg.ruling_SRC_PRIO : Nat := 0x10004
def R.ruling_SRC_PRIO_PRIO2 : Fld := ⟨Reg.ruling_SRC_PRIO, 11, 8⟩
def R.ruling_SRC_PRIO_PRIO1 : Fld := ⟨Reg.ruling_SRC_PRIO, 7, 4⟩
def R.ruling_SRC_PRIO_PRIO0 : Fld := ⟨Reg.ruling_SRC_PRIO, 3, 0⟩
def Reg.ruling_SRC_TIMING : Nat := 0x10008
def R.ruling_SRC_TIMING_REVERT_S : Fld := ⟨Reg.ruling_SRC_TIMING, 31, 24⟩
def R.ruling_SRC_TIMING_SWITCH_S : Fld := ⟨Reg.ruling_SRC_TIMING, 23, 16⟩
def R.ruling_SRC_TIMING_HOLD_AVG : Fld := ⟨Reg.ruling_SRC_TIMING, 15, 14⟩
def Reg.ruling_REF_FORMAT : Nat := 0x1000C
def R.ruling_REF_FORMAT_FORMAT : Fld := ⟨Reg.ruling_REF_FORMAT, 7, 0⟩
def Reg.ruling_REF_CFG : Nat := 0x10010
def R.ruling_REF_CFG_SLICE : Fld := ⟨Reg.ruling_REF_CFG, 15, 8⟩
def R.ruling_REF_CFG_REF_TYPE : Fld := ⟨Reg.ruling_REF_CFG, 1, 0⟩
def Reg.ruling_PPS_CFG : Nat := 0x10014
def R.ruling_PPS_CFG_CABLE_DELAY : Fld := ⟨Reg.ruling_PPS_CFG, 31, 16⟩
def R.ruling_PPS_CFG_PPS_EDGE : Fld := ⟨Reg.ruling_PPS_CFG, 1, 1⟩
def R.ruling_PPS_CFG_FREF_SEL : Fld := ⟨Reg.ruling_PPS_CFG, 0, 0⟩
def Reg.ruling_EPOCH_LO : Nat := 0x10018
def R.ruling_EPOCH_LO_SEC : Fld := ⟨Reg.ruling_EPOCH_LO, 31, 0⟩
def Reg.ruling_EPOCH_HI : Nat := 0x1001C
def R.ruling_EPOCH_HI_ARM : Fld := ⟨Reg.ruling_EPOCH_HI, 31, 31⟩
def R.ruling_EPOCH_HI_SEC : Fld := ⟨Reg.ruling_EPOCH_HI, 15, 0⟩
def Reg.ruling_STREAM_SRC : Nat := 0x10020
def R.ruling_STREAM_SRC_STREAM : Fld := ⟨Reg.ruling_STREAM_SRC, 10, 0⟩
def Reg.ruling_JUMP_CFG : Nat := 0x10024
def R.ruling_JUMP_CFG_SLEW_RATE : Fld := ⟨Reg.ruling_JUMP_CFG, 31, 24⟩
def R.ruling_JUMP_CFG_THRESH : Fld := ⟨Reg.ruling_JUMP_CFG, 19, 0⟩
def Reg.ruling_LOOP_CFG : Nat := 0x10028
def R.ruling_LOOP_CFG_LOCK_COUNT : Fld := ⟨Reg.ruling_LOOP_CFG, 15, 8⟩
def R.ruling_LOOP_CFG_LOCK_WIN : Fld := ⟨Reg.ruling_LOOP_CFG, 7, 0⟩
def Reg.ruling_STATUS : Nat := 0x10030
def R.ruling_STATUS_EPOCH_KNOWN : Fld := ⟨Reg.ruling_STATUS, 31, 31⟩
def R.ruling_STATUS_STATE : Fld := ⟨Reg.ruling_STATUS, 30, 28⟩
def R.ruling_STATUS_CUR_SRC : Fld := ⟨Reg.ruling_STATUS, 27, 26⟩
def R.ruling_STATUS_QUAL : Fld := ⟨Reg.ruling_STATUS, 25, 22⟩
def R.ruling_STATUS_RASTERS_ACTIVE : Fld := ⟨Reg.ruling_STATUS, 21, 21⟩
def R.ruling_STATUS_COAST_S : Fld := ⟨Reg.ruling_STATUS, 15, 0⟩
def Reg.ruling_PHASE_ERR : Nat := 0x10034
def R.ruling_PHASE_ERR : Fld := ⟨Reg.ruling_PHASE_ERR, 31, 0⟩
def Reg.ruling_FREQ_OFFSET : Nat := 0x10038
def R.ruling_FREQ_OFFSET : Fld := ⟨Reg.ruling_FREQ_OFFSET, 31, 0⟩
def Reg.ruling_RESIDUAL : Nat := 0x1003C
def R.ruling_RESIDUAL : Fld := ⟨Reg.ruling_RESIDUAL, 31, 0⟩
def Reg.ruling_POS_FRAME_LO : Nat := 0x10040
def R.ruling_POS_FRAME_LO_FRAME : Fld := ⟨Reg.ruling_POS_FRAME_LO, 31, 0⟩
def Reg.ruling_POS_FRAME_HI : Nat := 0x10044
def R.ruling_POS_FRAME_HI_FRAME : Fld := ⟨Reg.ruling_POS_FRAME_HI, 15, 0⟩
def Reg.ruling_POS_LINE : Nat := 0x10048
def R.ruling_POS_LINE_FRACTION : Fld := ⟨Reg.ruling_POS_LINE, 31, 16⟩
def R.ruling_POS_LINE_INSERTED : Fld := ⟨Reg.ruling_POS_LINE, 15, 15⟩
def R.ruling_POS_LINE_LINE : Fld := ⟨Reg.ruling_POS_LINE, 11, 0⟩
def Reg.ruling_INT_STATUS : Nat := 0x10050
def Flag.ruling_SYN_UNLOCK : Flg := ⟨Reg.ruling_INT_STATUS, 0x10058, 14⟩
def Flag.ruling_EVQ_FLUSH : Flg := ⟨Reg.ruling_INT_STATUS, 0x10058, 13⟩
def Flag.ruling_CMD_OVERRUN : Flg := ⟨Reg.ruling_INT_STATUS, 0x10058, 12⟩
def Flag.ruling_EVQ_USER : Flg := ⟨Reg.ruling_INT_STATUS, 0x10058, 11⟩
def Flag.ruling_EVQ_FULL : Flg := ⟨Reg.ruling_INT_STATUS, 0x10058, 10⟩
def Flag.ruling_EVQ_LATE : Flg := ⟨Reg.ruling_INT_STATUS, 0x10058, 9⟩
def Flag.ruling_COUNT_STEP : Flg := ⟨Reg.ruling_INT_STATUS, 0x10058, 8⟩
def Flag.ruling_SNAP : Flg := ⟨Reg.ruling_INT_STATUS, 0x10058, 7⟩
def Flag.ruling_SNAP_ANNOUNCE : Flg := ⟨Reg.ruling_INT_STATUS, 0x10058, 6⟩
def Flag.ruling_SLEW_DONE : Flg := ⟨Reg.ruling_INT_STATUS, 0x10058, 5⟩
def Flag.ruling_JUMP : Flg := ⟨Reg.ruling_INT_STATUS, 0x10058, 4⟩
def Flag.ruling_SRC_SWITCH : Flg := ⟨Reg.ruling_INT_STATUS, 0x10058, 3⟩
def Flag.ruling_SRC_LOST : Flg := ⟨Reg.ruling_INT_STATUS, 0x10058, 2⟩
def Flag.ruling_COAST : Flg := ⟨Reg.ruling_INT_STATUS, 0x10058, 1⟩
def Flag.ruling_LOCKED : Flg := ⟨Reg.ruling_INT_STATUS, 0x10058, 0⟩
def Reg.ruling_INT_EN : Nat := 0x10054
def R.ruling_INT_EN_SYN_UNLOCK : Fld := ⟨Reg.ruling_INT_EN, 14, 14⟩
def R.ruling_INT_EN_EVQ_FLUSH : Fld := ⟨Reg.ruling_INT_EN, 13, 13⟩
def R.ruling_INT_EN_CMD_OVERRUN : Fld := ⟨Reg.ruling_INT_EN, 12, 12⟩
def R.ruling_INT_EN_EVQ_USER : Fld := ⟨Reg.ruling_INT_EN, 11, 11⟩
def R.ruling_INT_EN_EVQ_FULL : Fld := ⟨Reg.ruling_INT_EN, 10, 10⟩
def R.ruling_INT_EN_EVQ_LATE : Fld := ⟨Reg.ruling_INT_EN, 9, 9⟩
def R.ruling_INT_EN_COUNT_STEP : Fld := ⟨Reg.ruling_INT_EN, 8, 8⟩
def R.ruling_INT_EN_SNAP : Fld := ⟨Reg.ruling_INT_EN, 7, 7⟩
def R.ruling_INT_EN_SNAP_ANNOUNCE : Fld := ⟨Reg.ruling_INT_EN, 6, 6⟩
def R.ruling_INT_EN_SLEW_DONE : Fld := ⟨Reg.ruling_INT_EN, 5, 5⟩
def R.ruling_INT_EN_JUMP : Fld := ⟨Reg.ruling_INT_EN, 4, 4⟩
def R.ruling_INT_EN_SRC_SWITCH : Fld := ⟨Reg.ruling_INT_EN, 3, 3⟩
def R.ruling_INT_EN_SRC_LOST : Fld := ⟨Reg.ruling_INT_EN, 2, 2⟩
def R.ruling_INT_EN_COAST : Fld := ⟨Reg.ruling_INT_EN, 1, 1⟩
def R.ruling_INT_EN_LOCKED : Fld := ⟨Reg.ruling_INT_EN, 0, 0⟩
def Reg.ruling_SALVO_GRP_LO (i : Nat) : Nat := 0x10080 + 8 * i
def R.ruling_SALVO_GRP_LO_MASK (i : Nat) : Fld := ⟨(Reg.ruling_SALVO_GRP_LO i), 31, 0⟩
def Reg.ruling_SALVO_GRP_HI (i : Nat) : Nat := 0x10084 + 8 * i
def R.ruling_SALVO_GRP_HI_MASK (i : Nat) : Fld := ⟨(Reg.ruling_SALVO_GRP_HI i), 31, 0⟩
def Reg.ruling_EVQ_W (i : Nat) : Nat := 0x10100 + 4 * i
def R.ruling_EVQ_W (i : Nat) : Fld := ⟨(Reg.ruling_EVQ_W i), 31, 0⟩
def Reg.ruling_EVQ_CMD : Nat := 0x10110
def R.ruling_EVQ_CMD_OP : Fld := ⟨Reg.ruling_EVQ_CMD, 3, 0⟩
def Reg.ruling_EVQ_RESULT : Nat := 0x10114
def R.ruling_EVQ_RESULT_DONE : Fld := ⟨Reg.ruling_EVQ_RESULT, 31, 31⟩
def R.ruling_EVQ_RESULT_STATUS : Fld := ⟨Reg.ruling_EVQ_RESULT, 30, 16⟩
def R.ruling_EVQ_RESULT_SEQ : Fld := ⟨Reg.ruling_EVQ_RESULT, 15, 0⟩
def Reg.ruling_EVQ_HANDLE : Nat := 0x10118
def R.ruling_EVQ_HANDLE : Fld := ⟨Reg.ruling_EVQ_HANDLE, 15, 0⟩
def Reg.ruling_EVQ_LEVEL : Nat := 0x1011C
def R.ruling_EVQ_LEVEL_HOST : Fld := ⟨Reg.ruling_EVQ_LEVEL, 25, 16⟩
def R.ruling_EVQ_LEVEL_TOTAL : Fld := ⟨Reg.ruling_EVQ_LEVEL, 9, 0⟩
def Reg.ruling_EVQ_USER_TAG : Nat := 0x10120
def R.ruling_EVQ_USER_TAG : Fld := ⟨Reg.ruling_EVQ_USER_TAG, 7, 0⟩
def Reg.clock_CTRL (s : Nat) : Nat := 0x20000 + 0x100 * s
def R.clock_CTRL_REF_PATH (s : Nat) : Fld := ⟨(Reg.clock_CTRL s), 2, 1⟩
def R.clock_CTRL_EN (s : Nat) : Fld := ⟨(Reg.clock_CTRL s), 0, 0⟩
def Reg.clock_STATUS (s : Nat) : Nat := 0x20004 + 0x100 * s
def R.clock_STATUS_VCO_LOCK (s : Nat) : Fld := ⟨(Reg.clock_STATUS s), 31, 31⟩
def R.clock_STATUS_UNLOCK_CNT (s : Nat) : Fld := ⟨(Reg.clock_STATUS s), 15, 0⟩
def Reg.clock_N_INT (s : Nat) : Nat := 0x20008 + 0x100 * s
def R.clock_N_INT (s : Nat) : Fld := ⟨(Reg.clock_N_INT s), 7, 0⟩
def Reg.clock_FRAC (s : Nat) : Nat := 0x2000C + 0x100 * s
def R.clock_FRAC (s : Nat) : Fld := ⟨(Reg.clock_FRAC s), 31, 0⟩
def Reg.clock_OUT_CTRL (s : Nat) (i : Nat) : Nat := 0x20040 + 0x100 * s + 8 * i
def R.clock_OUT_CTRL_EN (s : Nat) (i : Nat) : Fld := ⟨(Reg.clock_OUT_CTRL s i), 31, 31⟩
def R.clock_OUT_CTRL_SYNC_PENDING (s : Nat) (i : Nat) : Fld := ⟨(Reg.clock_OUT_CTRL s i), 30, 30⟩
def R.clock_OUT_CTRL_DIV (s : Nat) (i : Nat) : Fld := ⟨(Reg.clock_OUT_CTRL s i), 9, 0⟩
def Reg.clock_OUT_DELAY (s : Nat) (i : Nat) : Nat := 0x20044 + 0x100 * s + 8 * i
def R.clock_OUT_DELAY_CUR_DELAY (s : Nat) (i : Nat) : Fld := ⟨(Reg.clock_OUT_DELAY s i), 31, 16⟩
def R.clock_OUT_DELAY_DELAY (s : Nat) (i : Nat) : Fld := ⟨(Reg.clock_OUT_DELAY s i), 15, 0⟩
def Reg.fabric_CMD : Nat := 0x220000
def R.fabric_CMD_OP : Fld := ⟨Reg.fabric_CMD, 3, 0⟩
def Reg.fabric_RESULT : Nat := 0x220004
def R.fabric_RESULT_DONE : Fld := ⟨Reg.fabric_RESULT, 31, 31⟩
def R.fabric_RESULT_STATUS : Fld := ⟨Reg.fabric_RESULT, 30, 16⟩
def R.fabric_RESULT_SEQ : Fld := ⟨Reg.fabric_RESULT, 15, 0⟩
def Reg.fabric_RESULT_INFO : Nat := 0x220008
def R.fabric_RESULT_INFO_TYPE : Fld := ⟨Reg.fabric_RESULT_INFO, 15, 8⟩
def R.fabric_RESULT_INFO_INDEX : Fld := ⟨Reg.fabric_RESULT_INFO, 7, 0⟩
def Reg.fabric_SRC_ADDR_LO : Nat := 0x220010
def R.fabric_SRC_ADDR_LO_ADDR : Fld := ⟨Reg.fabric_SRC_ADDR_LO, 31, 0⟩
def Reg.fabric_SRC_ADDR_HI : Nat := 0x220014
def R.fabric_SRC_ADDR_HI_ADDR : Fld := ⟨Reg.fabric_SRC_ADDR_HI, 31, 0⟩
def Reg.fabric_SRC_LEN : Nat := 0x220018
def R.fabric_SRC_LEN_LEN : Fld := ⟨Reg.fabric_SRC_LEN, 22, 0⟩
def Reg.fabric_STATE : Nat := 0x220020
def R.fabric_STATE_CONFIGURED : Fld := ⟨Reg.fabric_STATE, 31, 31⟩
def R.fabric_STATE_PARTIAL_BUSY : Fld := ⟨Reg.fabric_STATE, 30, 30⟩
def R.fabric_STATE_SOURCE : Fld := ⟨Reg.fabric_STATE, 29, 28⟩
def R.fabric_STATE_SVN_FUSE : Fld := ⟨Reg.fabric_STATE, 22, 16⟩
def R.fabric_STATE_SVN : Fld := ⟨Reg.fabric_STATE, 15, 8⟩
def Reg.fabric_INIT_SKIPPED : Nat := 0x220024
def R.fabric_INIT_SKIPPED : Fld := ⟨Reg.fabric_INIT_SKIPPED, 31, 0⟩
def Reg.fabric_PARTIAL_MASK_LO : Nat := 0x220028
def R.fabric_PARTIAL_MASK_LO : Fld := ⟨Reg.fabric_PARTIAL_MASK_LO, 31, 0⟩
def Reg.fabric_PARTIAL_MASK_HI : Nat := 0x22002C
def R.fabric_PARTIAL_MASK_HI : Fld := ⟨Reg.fabric_PARTIAL_MASK_HI, 11, 0⟩
def Reg.fabric_WINDOW_DROP : Nat := 0x220030
def R.fabric_WINDOW_DROP : Fld := ⟨Reg.fabric_WINDOW_DROP, 15, 0⟩
def Reg.fabric_BASE_HASH (i : Nat) : Nat := 0x220040 + 4 * i
def R.fabric_BASE_HASH (i : Nat) : Fld := ⟨(Reg.fabric_BASE_HASH i), 31, 0⟩
def Reg.fabric_PART_SEL : Nat := 0x220090
def R.fabric_PART_SEL : Fld := ⟨Reg.fabric_PART_SEL, 5, 0⟩
def Reg.fabric_PART_HASH (i : Nat) : Nat := 0x2200A0 + 4 * i
def R.fabric_PART_HASH (i : Nat) : Fld := ⟨(Reg.fabric_PART_HASH i), 31, 0⟩
def Reg.fabric_INT_STATUS : Nat := 0x220070
def Flag.fabric_BOOT_FALLBACK : Flg := ⟨Reg.fabric_INT_STATUS, 0x220078, 5⟩
def Flag.fabric_CMD_OVERRUN : Flg := ⟨Reg.fabric_INT_STATUS, 0x220078, 4⟩
def Flag.fabric_PARTIAL_END : Flg := ⟨Reg.fabric_INT_STATUS, 0x220078, 3⟩
def Flag.fabric_PARTIAL_START : Flg := ⟨Reg.fabric_INT_STATUS, 0x220078, 2⟩
def Flag.fabric_LOAD_FAIL : Flg := ⟨Reg.fabric_INT_STATUS, 0x220078, 1⟩
def Flag.fabric_LOAD_DONE : Flg := ⟨Reg.fabric_INT_STATUS, 0x220078, 0⟩
def Reg.fabric_INT_EN : Nat := 0x220074
def R.fabric_INT_EN_BOOT_FALLBACK : Fld := ⟨Reg.fabric_INT_EN, 5, 5⟩
def R.fabric_INT_EN_CMD_OVERRUN : Fld := ⟨Reg.fabric_INT_EN, 4, 4⟩
def R.fabric_INT_EN_PARTIAL_END : Fld := ⟨Reg.fabric_INT_EN, 3, 3⟩
def R.fabric_INT_EN_PARTIAL_START : Fld := ⟨Reg.fabric_INT_EN, 2, 2⟩
def R.fabric_INT_EN_LOAD_FAIL : Fld := ⟨Reg.fabric_INT_EN, 1, 1⟩
def R.fabric_INT_EN_LOAD_DONE : Fld := ⟨Reg.fabric_INT_EN, 0, 0⟩
def Reg.port_PORT_CFG (n : Nat) : Nat := 0x40000 + 0x800 * n
def R.port_PORT_CFG_VSTREAMS (n : Nat) : Fld := ⟨(Reg.port_PORT_CFG n), 20, 16⟩
def R.port_PORT_CFG_PPB (n : Nat) : Fld := ⟨(Reg.port_PORT_CFG n), 10, 10⟩
def R.port_PORT_CFG_GENLOCK_OK (n : Nat) : Fld := ⟨(Reg.port_PORT_CFG n), 9, 9⟩
def R.port_PORT_CFG_FEC (n : Nat) : Fld := ⟨(Reg.port_PORT_CFG n), 8, 8⟩
def R.port_PORT_CFG_RATE (n : Nat) : Fld := ⟨(Reg.port_PORT_CFG n), 7, 4⟩
def R.port_PORT_CFG_MODE (n : Nat) : Fld := ⟨(Reg.port_PORT_CFG n), 3, 0⟩
def Reg.port_LINK_CTRL (n : Nat) : Nat := 0x40004 + 0x800 * n
def R.port_LINK_CTRL_RESTART (n : Nat) : Fld := ⟨(Reg.port_LINK_CTRL n), 31, 31⟩
def R.port_LINK_CTRL_RETRAIN (n : Nat) : Fld := ⟨(Reg.port_LINK_CTRL n), 30, 30⟩
def R.port_LINK_CTRL_CLR_CNT (n : Nat) : Fld := ⟨(Reg.port_LINK_CTRL n), 29, 29⟩
def R.port_LINK_CTRL_REAUTH_MIN (n : Nat) : Fld := ⟨(Reg.port_LINK_CTRL n), 23, 16⟩
def R.port_LINK_CTRL_QUAR_POLICY (n : Nat) : Fld := ⟨(Reg.port_LINK_CTRL n), 11, 10⟩
def R.port_LINK_CTRL_ENABLE (n : Nat) : Fld := ⟨(Reg.port_LINK_CTRL n), 8, 8⟩
def R.port_LINK_CTRL_FAULT_HOLD (n : Nat) : Fld := ⟨(Reg.port_LINK_CTRL n), 7, 0⟩
def Reg.port_LINK_STATE (n : Nat) : Nat := 0x40008 + 0x800 * n
def R.port_LINK_STATE_STATE (n : Nat) : Fld := ⟨(Reg.port_LINK_STATE n), 31, 28⟩
def R.port_LINK_STATE_FAULT_CAUSE (n : Nat) : Fld := ⟨(Reg.port_LINK_STATE n), 27, 24⟩
def R.port_LINK_STATE_AUTH_RESULT (n : Nat) : Fld := ⟨(Reg.port_LINK_STATE n), 23, 20⟩
def R.port_LINK_STATE_BC_UP (n : Nat) : Fld := ⟨(Reg.port_LINK_STATE n), 19, 19⟩
def R.port_LINK_STATE_FEC_LOCK (n : Nat) : Fld := ⟨(Reg.port_LINK_STATE n), 18, 18⟩
def R.port_LINK_STATE_BLOCK_LOCK (n : Nat) : Fld := ⟨(Reg.port_LINK_STATE n), 17, 17⟩
def R.port_LINK_STATE_QUARANTINED (n : Nat) : Fld := ⟨(Reg.port_LINK_STATE n), 16, 16⟩
def R.port_LINK_STATE_PRESET (n : Nat) : Fld := ⟨(Reg.port_LINK_STATE n), 10, 8⟩
def Reg.port_RETRAIN_CFG (n : Nat) : Nat := 0x4000C + 0x800 * n
def R.port_RETRAIN_CFG_HCRC_LIMIT (n : Nat) : Fld := ⟨(Reg.port_RETRAIN_CFG n), 31, 16⟩
def R.port_RETRAIN_CFG_UNCORR_LIMIT (n : Nat) : Fld := ⟨(Reg.port_RETRAIN_CFG n), 15, 8⟩
def R.port_RETRAIN_CFG_DWELL (n : Nat) : Fld := ⟨(Reg.port_RETRAIN_CFG n), 7, 0⟩
def Reg.port_GENLOCK_CTRL (n : Nat) : Nat := 0x40010 + 0x800 * n
def R.port_GENLOCK_CTRL_EN (n : Nat) : Fld := ⟨(Reg.port_GENLOCK_CTRL n), 31, 31⟩
def R.port_GENLOCK_CTRL_TARGET_LINE (n : Nat) : Fld := ⟨(Reg.port_GENLOCK_CTRL n), 11, 0⟩
def Reg.port_ASYM (n : Nat) : Nat := 0x40014 + 0x800 * n
def R.port_ASYM_ASYM (n : Nat) : Fld := ⟨(Reg.port_ASYM n), 15, 0⟩
def Reg.port_DELAYS (n : Nat) : Nat := 0x40018 + 0x800 * n
def R.port_DELAYS_DELAY_F (n : Nat) : Fld := ⟨(Reg.port_DELAYS n), 31, 16⟩
def R.port_DELAYS_DELAY_B (n : Nat) : Fld := ⟨(Reg.port_DELAYS n), 15, 0⟩
def Reg.port_GL_STAT (n : Nat) : Nat := 0x4001C + 0x800 * n
def R.port_GL_STAT_TURN_NS (n : Nat) : Fld := ⟨(Reg.port_GL_STAT n), 31, 16⟩
def R.port_GL_STAT_GENLOCKED (n : Nat) : Fld := ⟨(Reg.port_GL_STAT n), 15, 0⟩
def Reg.port_FEC_CORR_SYM (n : Nat) : Nat := 0x40040 + 0x800 * n
def R.port_FEC_CORR_SYM (n : Nat) : Fld := ⟨(Reg.port_FEC_CORR_SYM n), 31, 0⟩
def Reg.port_FEC_CORR_CW (n : Nat) : Nat := 0x40044 + 0x800 * n
def R.port_FEC_CORR_CW (n : Nat) : Fld := ⟨(Reg.port_FEC_CORR_CW n), 31, 0⟩
def Reg.port_FEC_UNCORR_CW (n : Nat) : Nat := 0x40048 + 0x800 * n
def R.port_FEC_UNCORR_CW (n : Nat) : Fld := ⟨(Reg.port_FEC_UNCORR_CW n), 31, 0⟩
def Reg.port_HCRC_ERR (n : Nat) : Nat := 0x4004C + 0x800 * n
def R.port_HCRC_ERR (n : Nat) : Fld := ⟨(Reg.port_HCRC_ERR n), 31, 0⟩
def Reg.port_PCRC_ERR (n : Nat) : Nat := 0x40050 + 0x800 * n
def R.port_PCRC_ERR (n : Nat) : Fld := ⟨(Reg.port_PCRC_ERR n), 31, 0⟩
def Reg.port_PKT_TYPE_UNK (n : Nat) : Nat := 0x40054 + 0x800 * n
def R.port_PKT_TYPE_UNK (n : Nat) : Fld := ⟨(Reg.port_PKT_TYPE_UNK n), 31, 0⟩
def Reg.port_VIDEO_SEG_LOST (n : Nat) : Nat := 0x40058 + 0x800 * n
def R.port_VIDEO_SEG_LOST (n : Nat) : Fld := ⟨(Reg.port_VIDEO_SEG_LOST n), 31, 0⟩
def Reg.port_BC_CODE_ERR (n : Nat) : Nat := 0x4005C + 0x800 * n
def R.port_BC_CODE_ERR (n : Nat) : Fld := ⟨(Reg.port_BC_CODE_ERR n), 31, 0⟩
def Reg.port_CTRL_RETRY (n : Nat) : Nat := 0x40060 + 0x800 * n
def R.port_CTRL_RETRY (n : Nat) : Fld := ⟨(Reg.port_CTRL_RETRY n), 31, 0⟩
def Reg.port_CTRL_FAIL (n : Nat) : Nat := 0x40064 + 0x800 * n
def R.port_CTRL_FAIL (n : Nat) : Fld := ⟨(Reg.port_CTRL_FAIL n), 31, 0⟩
def Reg.port_RETRAINS (n : Nat) : Nat := 0x40068 + 0x800 * n
def R.port_RETRAINS (n : Nat) : Fld := ⟨(Reg.port_RETRAINS n), 31, 0⟩
def Reg.port_BRINGUPS (n : Nat) : Nat := 0x4006C + 0x800 * n
def R.port_BRINGUPS (n : Nat) : Fld := ⟨(Reg.port_BRINGUPS n), 31, 0⟩
def Reg.port_RX_DROP (n : Nat) : Nat := 0x40070 + 0x800 * n
def R.port_RX_DROP (n : Nat) : Fld := ⟨(Reg.port_RX_DROP n), 31, 0⟩
def Reg.port_INT_STATUS (n : Nat) : Nat := 0x40080 + 0x800 * n
def Flag.port_PPB_FAULT (n : Nat) : Flg := ⟨(Reg.port_INT_STATUS n), 0x40088 + 0x800 * n, 11⟩
def Flag.port_QUARANTINE (n : Nat) : Flg := ⟨(Reg.port_INT_STATUS n), 0x40088 + 0x800 * n, 10⟩
def Flag.port_AUTH_DONE (n : Nat) : Flg := ⟨(Reg.port_INT_STATUS n), 0x40088 + 0x800 * n, 9⟩
def Flag.port_DESC_READY (n : Nat) : Flg := ⟨(Reg.port_INT_STATUS n), 0x40088 + 0x800 * n, 8⟩
def Flag.port_RX_OVERFLOW (n : Nat) : Flg := ⟨(Reg.port_INT_STATUS n), 0x40088 + 0x800 * n, 7⟩
def Flag.port_RX_AVAIL (n : Nat) : Flg := ⟨(Reg.port_INT_STATUS n), 0x40088 + 0x800 * n, 6⟩
def Flag.port_CTRL_DONE (n : Nat) : Flg := ⟨(Reg.port_INT_STATUS n), 0x40088 + 0x800 * n, 5⟩
def Flag.port_CMD_OVERRUN (n : Nat) : Flg := ⟨(Reg.port_INT_STATUS n), 0x40088 + 0x800 * n, 4⟩
def Flag.port_GENLOCK_CHANGE (n : Nat) : Flg := ⟨(Reg.port_INT_STATUS n), 0x40088 + 0x800 * n, 3⟩
def Flag.port_RETRAIN (n : Nat) : Flg := ⟨(Reg.port_INT_STATUS n), 0x40088 + 0x800 * n, 2⟩
def Flag.port_LINK_DOWN (n : Nat) : Flg := ⟨(Reg.port_INT_STATUS n), 0x40088 + 0x800 * n, 1⟩
def Flag.port_LINK_UP (n : Nat) : Flg := ⟨(Reg.port_INT_STATUS n), 0x40088 + 0x800 * n, 0⟩
def Reg.port_INT_EN (n : Nat) : Nat := 0x40084 + 0x800 * n
def R.port_INT_EN_PPB_FAULT (n : Nat) : Fld := ⟨(Reg.port_INT_EN n), 11, 11⟩
def R.port_INT_EN_QUARANTINE (n : Nat) : Fld := ⟨(Reg.port_INT_EN n), 10, 10⟩
def R.port_INT_EN_AUTH_DONE (n : Nat) : Fld := ⟨(Reg.port_INT_EN n), 9, 9⟩
def R.port_INT_EN_DESC_READY (n : Nat) : Fld := ⟨(Reg.port_INT_EN n), 8, 8⟩
def R.port_INT_EN_RX_OVERFLOW (n : Nat) : Fld := ⟨(Reg.port_INT_EN n), 7, 7⟩
def R.port_INT_EN_RX_AVAIL (n : Nat) : Fld := ⟨(Reg.port_INT_EN n), 6, 6⟩
def R.port_INT_EN_CTRL_DONE (n : Nat) : Fld := ⟨(Reg.port_INT_EN n), 5, 5⟩
def R.port_INT_EN_CMD_OVERRUN (n : Nat) : Fld := ⟨(Reg.port_INT_EN n), 4, 4⟩
def R.port_INT_EN_GENLOCK_CHANGE (n : Nat) : Fld := ⟨(Reg.port_INT_EN n), 3, 3⟩
def R.port_INT_EN_RETRAIN (n : Nat) : Fld := ⟨(Reg.port_INT_EN n), 2, 2⟩
def R.port_INT_EN_LINK_DOWN (n : Nat) : Fld := ⟨(Reg.port_INT_EN n), 1, 1⟩
def R.port_INT_EN_LINK_UP (n : Nat) : Fld := ⟨(Reg.port_INT_EN n), 0, 0⟩
def Reg.port_CTRL_TX_HDR (n : Nat) : Nat := 0x40100 + 0x800 * n
def R.port_CTRL_TX_HDR_OPCODE (n : Nat) : Fld := ⟨(Reg.port_CTRL_TX_HDR n), 31, 24⟩
def R.port_CTRL_TX_HDR_VC (n : Nat) : Fld := ⟨(Reg.port_CTRL_TX_HDR n), 23, 20⟩
def R.port_CTRL_TX_HDR_LENGTH (n : Nat) : Fld := ⟨(Reg.port_CTRL_TX_HDR n), 6, 0⟩
def Reg.port_CTRL_TX_DATA (n : Nat) (i : Nat) : Nat := 0x40104 + 0x800 * n + 4 * i
def R.port_CTRL_TX_DATA (n : Nat) (i : Nat) : Fld := ⟨(Reg.port_CTRL_TX_DATA n i), 31, 0⟩
def Reg.port_CTRL_TX_CMD (n : Nat) : Nat := 0x40144 + 0x800 * n
def R.port_CTRL_TX_CMD_SEND (n : Nat) : Fld := ⟨(Reg.port_CTRL_TX_CMD n), 0, 0⟩
def Reg.port_CTRL_RESULT (n : Nat) : Nat := 0x40148 + 0x800 * n
def R.port_CTRL_RESULT_DONE (n : Nat) : Fld := ⟨(Reg.port_CTRL_RESULT n), 31, 31⟩
def R.port_CTRL_RESULT_STATUS (n : Nat) : Fld := ⟨(Reg.port_CTRL_RESULT n), 30, 16⟩
def R.port_CTRL_RESULT_SEQ (n : Nat) : Fld := ⟨(Reg.port_CTRL_RESULT n), 15, 0⟩
def Reg.port_CTRL_RESP_HDR (n : Nat) : Nat := 0x4014C + 0x800 * n
def R.port_CTRL_RESP_HDR_OPCODE (n : Nat) : Fld := ⟨(Reg.port_CTRL_RESP_HDR n), 31, 24⟩
def R.port_CTRL_RESP_HDR_REASON (n : Nat) : Fld := ⟨(Reg.port_CTRL_RESP_HDR n), 23, 16⟩
def R.port_CTRL_RESP_HDR_LENGTH (n : Nat) : Fld := ⟨(Reg.port_CTRL_RESP_HDR n), 6, 0⟩
def Reg.port_CTRL_RESP_DATA (n : Nat) (i : Nat) : Nat := 0x40150 + 0x800 * n + 4 * i
def R.port_CTRL_RESP_DATA (n : Nat) (i : Nat) : Fld := ⟨(Reg.port_CTRL_RESP_DATA n i), 31, 0⟩
def Reg.port_RX_HDR (n : Nat) : Nat := 0x40200 + 0x800 * n
def R.port_RX_HDR_VALID (n : Nat) : Fld := ⟨(Reg.port_RX_HDR n), 31, 31⟩
def R.port_RX_HDR_OPCODE (n : Nat) : Fld := ⟨(Reg.port_RX_HDR n), 23, 16⟩
def R.port_RX_HDR_VC (n : Nat) : Fld := ⟨(Reg.port_RX_HDR n), 15, 12⟩
def R.port_RX_HDR_KIND (n : Nat) : Fld := ⟨(Reg.port_RX_HDR n), 11, 8⟩
def R.port_RX_HDR_LENGTH (n : Nat) : Fld := ⟨(Reg.port_RX_HDR n), 6, 0⟩
def Reg.port_RX_DATA (n : Nat) (i : Nat) : Nat := 0x40204 + 0x800 * n + 4 * i
def R.port_RX_DATA (n : Nat) (i : Nat) : Fld := ⟨(Reg.port_RX_DATA n i), 31, 0⟩
def Reg.port_DESC (n : Nat) (i : Nat) : Nat := 0x40400 + 0x800 * n + 4 * i
def R.port_DESC (n : Nat) (i : Nat) : Fld := ⟨(Reg.port_DESC n i), 31, 0⟩
def Reg.port_KEY_HASH (n : Nat) (i : Nat) : Nat := 0x40500 + 0x800 * n + 4 * i
def R.port_KEY_HASH (n : Nat) (i : Nat) : Fld := ⟨(Reg.port_KEY_HASH n i), 31, 0⟩
def Reg.port_AUTH_TIME (n : Nat) : Nat := 0x40530 + 0x800 * n
def R.port_AUTH_TIME (n : Nat) : Fld := ⟨(Reg.port_AUTH_TIME n), 31, 0⟩
def Reg.port_PWR_CTRL (n : Nat) : Nat := 0x40600 + 0x800 * n
def R.port_PWR_CTRL_CYCLE (n : Nat) : Fld := ⟨(Reg.port_PWR_CTRL n), 31, 31⟩
def R.port_PWR_CTRL_CLEAR_LOCKOUT (n : Nat) : Fld := ⟨(Reg.port_PWR_CTRL n), 30, 30⟩
def R.port_PWR_CTRL_OFF_TIME (n : Nat) : Fld := ⟨(Reg.port_PWR_CTRL n), 23, 16⟩
def R.port_PWR_CTRL_LIMIT (n : Nat) : Fld := ⟨(Reg.port_PWR_CTRL n), 15, 8⟩
def R.port_PWR_CTRL_AUTO_CYCLE (n : Nat) : Fld := ⟨(Reg.port_PWR_CTRL n), 3, 3⟩
def R.port_PWR_CTRL_STANDBY_OFF (n : Nat) : Fld := ⟨(Reg.port_PWR_CTRL n), 2, 2⟩
def R.port_PWR_CTRL_QUIET_OFF (n : Nat) : Fld := ⟨(Reg.port_PWR_CTRL n), 1, 1⟩
def R.port_PWR_CTRL_ON (n : Nat) : Fld := ⟨(Reg.port_PWR_CTRL n), 0, 0⟩
def Reg.port_PWR_STAT (n : Nat) : Nat := 0x40604 + 0x800 * n
def R.port_PWR_STAT_LOCKOUT (n : Nat) : Fld := ⟨(Reg.port_PWR_STAT n), 31, 31⟩
def R.port_PWR_STAT_FAULT (n : Nat) : Fld := ⟨(Reg.port_PWR_STAT n), 30, 30⟩
def R.port_PWR_STAT_POWERED (n : Nat) : Fld := ⟨(Reg.port_PWR_STAT n), 29, 29⟩
def R.port_PWR_STAT_CTRL_ABSENT (n : Nat) : Fld := ⟨(Reg.port_PWR_STAT n), 28, 28⟩
def R.port_PWR_STAT_VOLTAGE (n : Nat) : Fld := ⟨(Reg.port_PWR_STAT n), 27, 16⟩
def R.port_PWR_STAT_CURRENT (n : Nat) : Fld := ⟨(Reg.port_PWR_STAT n), 11, 0⟩
def Reg.port_PWR_CYCLES (n : Nat) : Nat := 0x40608 + 0x800 * n
def R.port_PWR_CYCLES_COUNT (n : Nat) : Fld := ⟨(Reg.port_PWR_CYCLES n), 15, 0⟩
def Reg.port_SDI_CFG (n : Nat) : Nat := 0x40700 + 0x800 * n
def R.port_SDI_CFG_TX_REF_SYN (n : Nat) : Fld := ⟨(Reg.port_SDI_CFG n), 31, 31⟩
def R.port_SDI_CFG_TX_REF_OUT (n : Nat) : Fld := ⟨(Reg.port_SDI_CFG n), 30, 28⟩
def R.port_SDI_CFG_PID_OVR_EN (n : Nat) : Fld := ⟨(Reg.port_SDI_CFG n), 27, 27⟩
def R.port_SDI_CFG_PSF_DEFAULT (n : Nat) : Fld := ⟨(Reg.port_SDI_CFG n), 26, 26⟩
def Reg.port_SDI_STATE (n : Nat) : Nat := 0x40704 + 0x800 * n
def R.port_SDI_STATE_STATE (n : Nat) : Fld := ⟨(Reg.port_SDI_STATE n), 31, 28⟩
def R.port_SDI_STATE_CARRIER (n : Nat) : Fld := ⟨(Reg.port_SDI_STATE n), 27, 27⟩
def R.port_SDI_STATE_CDR_LOCK (n : Nat) : Fld := ⟨(Reg.port_SDI_STATE n), 26, 26⟩
def R.port_SDI_STATE_NO_LOCK (n : Nat) : Fld := ⟨(Reg.port_SDI_STATE n), 25, 25⟩
def R.port_SDI_STATE_FAMILY (n : Nat) : Fld := ⟨(Reg.port_SDI_STATE n), 24, 24⟩
def R.port_SDI_STATE_PID_PRESENT (n : Nat) : Fld := ⟨(Reg.port_SDI_STATE n), 23, 23⟩
def Reg.port_SDI_FMT (n : Nat) : Nat := 0x40708 + 0x800 * n
def R.port_SDI_FMT_INTERLACED (n : Nat) : Fld := ⟨(Reg.port_SDI_FMT n), 31, 31⟩
def R.port_SDI_FMT_PSF (n : Nat) : Fld := ⟨(Reg.port_SDI_FMT n), 30, 30⟩
def R.port_SDI_FMT_WIDTH (n : Nat) : Fld := ⟨(Reg.port_SDI_FMT n), 27, 16⟩
def R.port_SDI_FMT_RATE (n : Nat) : Fld := ⟨(Reg.port_SDI_FMT n), 15, 12⟩
def R.port_SDI_FMT_HEIGHT (n : Nat) : Fld := ⟨(Reg.port_SDI_FMT n), 11, 0⟩
def Reg.port_PID_RX (n : Nat) : Nat := 0x4070C + 0x800 * n
def R.port_PID_RX (n : Nat) : Fld := ⟨(Reg.port_PID_RX n), 31, 0⟩
def Reg.port_PID_TX_OVR (n : Nat) : Nat := 0x40710 + 0x800 * n
def R.port_PID_TX_OVR (n : Nat) : Fld := ⟨(Reg.port_PID_TX_OVR n), 31, 0⟩
def Reg.port_CRC_ERR_Y (n : Nat) : Nat := 0x40720 + 0x800 * n
def R.port_CRC_ERR_Y (n : Nat) : Fld := ⟨(Reg.port_CRC_ERR_Y n), 31, 0⟩
def Reg.port_CRC_ERR_C (n : Nat) : Nat := 0x40724 + 0x800 * n
def R.port_CRC_ERR_C (n : Nat) : Fld := ⟨(Reg.port_CRC_ERR_C n), 31, 0⟩
def Reg.port_LNUM_ERR (n : Nat) : Nat := 0x40728 + 0x800 * n
def R.port_LNUM_ERR (n : Nat) : Fld := ⟨(Reg.port_LNUM_ERR n), 31, 0⟩
def Reg.port_ANC_CSUM_ERR (n : Nat) : Nat := 0x4072C + 0x800 * n
def R.port_ANC_CSUM_ERR (n : Nat) : Fld := ⟨(Reg.port_ANC_CSUM_ERR n), 31, 0⟩
def Reg.port_ANC_DROP (n : Nat) : Nat := 0x40730 + 0x800 * n
def R.port_ANC_DROP (n : Nat) : Fld := ⟨(Reg.port_ANC_DROP n), 31, 0⟩
def Reg.port_LOSS_COUNT (n : Nat) : Nat := 0x40734 + 0x800 * n
def R.port_LOSS_COUNT (n : Nat) : Fld := ⟨(Reg.port_LOSS_COUNT n), 31, 0⟩
def Reg.port_SDI_INT_STATUS (n : Nat) : Nat := 0x40740 + 0x800 * n
def Flag.port_SDI_TX_REF_MISMATCH (n : Nat) : Flg := ⟨(Reg.port_SDI_INT_STATUS n), 0x40748 + 0x800 * n, 6⟩
def Flag.port_SDI_PID_LOST (n : Nat) : Flg := ⟨(Reg.port_SDI_INT_STATUS n), 0x40748 + 0x800 * n, 5⟩
def Flag.port_SDI_PID_MISMATCH (n : Nat) : Flg := ⟨(Reg.port_SDI_INT_STATUS n), 0x40748 + 0x800 * n, 4⟩
def Flag.port_SDI_FORMAT_MISMATCH (n : Nat) : Flg := ⟨(Reg.port_SDI_INT_STATUS n), 0x40748 + 0x800 * n, 3⟩
def Flag.port_SDI_FORMAT_DETECTED (n : Nat) : Flg := ⟨(Reg.port_SDI_INT_STATUS n), 0x40748 + 0x800 * n, 2⟩
def Flag.port_SDI_SIGNAL_LOSS (n : Nat) : Flg := ⟨(Reg.port_SDI_INT_STATUS n), 0x40748 + 0x800 * n, 1⟩
def Flag.port_SDI_CARRIER_UP (n : Nat) : Flg := ⟨(Reg.port_SDI_INT_STATUS n), 0x40748 + 0x800 * n, 0⟩
def Reg.port_SDI_INT_EN (n : Nat) : Nat := 0x40744 + 0x800 * n
def R.port_SDI_INT_EN_TX_REF_MISMATCH (n : Nat) : Fld := ⟨(Reg.port_SDI_INT_EN n), 6, 6⟩
def R.port_SDI_INT_EN_PID_LOST (n : Nat) : Fld := ⟨(Reg.port_SDI_INT_EN n), 5, 5⟩
def R.port_SDI_INT_EN_PID_MISMATCH (n : Nat) : Fld := ⟨(Reg.port_SDI_INT_EN n), 4, 4⟩
def R.port_SDI_INT_EN_FORMAT_MISMATCH (n : Nat) : Fld := ⟨(Reg.port_SDI_INT_EN n), 3, 3⟩
def R.port_SDI_INT_EN_FORMAT_DETECTED (n : Nat) : Fld := ⟨(Reg.port_SDI_INT_EN n), 2, 2⟩
def R.port_SDI_INT_EN_SIGNAL_LOSS (n : Nat) : Fld := ⟨(Reg.port_SDI_INT_EN n), 1, 1⟩
def R.port_SDI_INT_EN_CARRIER_UP (n : Nat) : Fld := ⟨(Reg.port_SDI_INT_EN n), 0, 0⟩
def Reg.stream_CFG (n : Nat) : Nat := 0x80000 + 0x40 * n
def R.stream_CFG_CLASS (n : Nat) : Fld := ⟨(Reg.stream_CFG n), 31, 30⟩
def R.stream_CFG_INGEST (n : Nat) : Fld := ⟨(Reg.stream_CFG n), 29, 27⟩
def R.stream_CFG_CUT_OK (n : Nat) : Fld := ⟨(Reg.stream_CFG n), 26, 26⟩
def R.stream_CFG_EVIDENCE (n : Nat) : Fld := ⟨(Reg.stream_CFG n), 25, 25⟩
def R.stream_CFG_INTERLACED (n : Nat) : Fld := ⟨(Reg.stream_CFG n), 24, 24⟩
def R.stream_CFG_XS (n : Nat) : Fld := ⟨(Reg.stream_CFG n), 23, 23⟩
def R.stream_CFG_MOTION_UNIT (n : Nat) : Fld := ⟨(Reg.stream_CFG n), 22, 22⟩
def R.stream_CFG_MOTION (n : Nat) : Fld := ⟨(Reg.stream_CFG n), 21, 21⟩
def R.stream_CFG_SKETCH (n : Nat) : Fld := ⟨(Reg.stream_CFG n), 20, 18⟩
def R.stream_CFG_TWO_SLOT (n : Nat) : Fld := ⟨(Reg.stream_CFG n), 16, 16⟩
def R.stream_CFG_STORE_FMT (n : Nat) : Fld := ⟨(Reg.stream_CFG n), 15, 8⟩
def R.stream_CFG_SLOTS (n : Nat) : Fld := ⟨(Reg.stream_CFG n), 7, 4⟩
def R.stream_CFG_PRESENT (n : Nat) : Fld := ⟨(Reg.stream_CFG n), 0, 0⟩
def Reg.stream_GEOM (n : Nat) : Nat := 0x80004 + 0x40 * n
def R.stream_GEOM_WIDTH (n : Nat) : Fld := ⟨(Reg.stream_GEOM n), 28, 16⟩
def R.stream_GEOM_HEIGHT (n : Nat) : Fld := ⟨(Reg.stream_GEOM n), 12, 0⟩
def Reg.stream_RATE (n : Nat) : Nat := 0x80008 + 0x40 * n
def R.stream_RATE_NUM (n : Nat) : Fld := ⟨(Reg.stream_RATE n), 31, 16⟩
def R.stream_RATE_DEN (n : Nat) : Fld := ⟨(Reg.stream_RATE n), 15, 0⟩
def Reg.stream_RING_BASE (n : Nat) : Nat := 0x8000C + 0x40 * n
def R.stream_RING_BASE_BASE (n : Nat) : Fld := ⟨(Reg.stream_RING_BASE n), 18, 0⟩
def Reg.stream_SLOT_STRIDE (n : Nat) : Nat := 0x80010 + 0x40 * n
def R.stream_SLOT_STRIDE_WB (n : Nat) : Fld := ⟨(Reg.stream_SLOT_STRIDE n), 31, 31⟩
def R.stream_SLOT_STRIDE_WB_FOLIO (n : Nat) : Fld := ⟨(Reg.stream_SLOT_STRIDE n), 29, 24⟩
def R.stream_SLOT_STRIDE_STRIDE (n : Nat) : Fld := ⟨(Reg.stream_SLOT_STRIDE n), 22, 0⟩
def Reg.stream_CTRL (n : Nat) : Nat := 0x80014 + 0x40 * n
def R.stream_CTRL_CLR_CNT (n : Nat) : Fld := ⟨(Reg.stream_CTRL n), 31, 31⟩
def R.stream_CTRL_FIELD1_BOTTOM (n : Nat) : Fld := ⟨(Reg.stream_CTRL n), 30, 30⟩
def R.stream_CTRL_DEINT_MODE (n : Nat) : Fld := ⟨(Reg.stream_CTRL n), 29, 28⟩
def R.stream_CTRL_LOST_FRAMES (n : Nat) : Fld := ⟨(Reg.stream_CTRL n), 23, 16⟩
def R.stream_CTRL_CONCEAL_MAX (n : Nat) : Fld := ⟨(Reg.stream_CTRL n), 15, 8⟩
def R.stream_CTRL_DEINT_THRESH (n : Nat) : Fld := ⟨(Reg.stream_CTRL n), 7, 0⟩
def Reg.stream_STATE (n : Nat) : Nat := 0x80018 + 0x40 * n
def R.stream_STATE_STATE (n : Nat) : Fld := ⟨(Reg.stream_STATE n), 31, 29⟩
def R.stream_STATE_NEWEST (n : Nat) : Fld := ⟨(Reg.stream_STATE n), 28, 26⟩
def R.stream_STATE_WRITING (n : Nat) : Fld := ⟨(Reg.stream_STATE n), 25, 23⟩
def R.stream_STATE_WRITING_VALID (n : Nat) : Fld := ⟨(Reg.stream_STATE n), 22, 22⟩
def R.stream_STATE_PINNED (n : Nat) : Fld := ⟨(Reg.stream_STATE n), 21, 14⟩
def R.stream_STATE_LAST_DROP (n : Nat) : Fld := ⟨(Reg.stream_STATE n), 13, 11⟩
def R.stream_STATE_UNVERIFIED (n : Nat) : Fld := ⟨(Reg.stream_STATE n), 10, 10⟩
def Reg.stream_NEWEST_SEQ (n : Nat) : Nat := 0x8001C + 0x40 * n
def R.stream_NEWEST_SEQ (n : Nat) : Fld := ⟨(Reg.stream_NEWEST_SEQ n), 31, 0⟩
def Reg.stream_AGE (n : Nat) : Nat := 0x80020 + 0x40 * n
def R.stream_AGE (n : Nat) : Fld := ⟨(Reg.stream_AGE n), 31, 0⟩
def Reg.stream_FRAMES (n : Nat) : Nat := 0x80024 + 0x40 * n
def R.stream_FRAMES (n : Nat) : Fld := ⟨(Reg.stream_FRAMES n), 31, 0⟩
def Reg.stream_DROPS (n : Nat) : Nat := 0x80028 + 0x40 * n
def R.stream_DROPS_PIN (n : Nat) : Fld := ⟨(Reg.stream_DROPS n), 31, 16⟩
def R.stream_DROPS_OTHER (n : Nat) : Fld := ⟨(Reg.stream_DROPS n), 15, 0⟩
def Reg.stream_CONCEAL_ROWS (n : Nat) : Nat := 0x8002C + 0x40 * n
def R.stream_CONCEAL_ROWS (n : Nat) : Fld := ⟨(Reg.stream_CONCEAL_ROWS n), 31, 0⟩
def Reg.stream_INT_STATUS (n : Nat) : Nat := 0x80030 + 0x40 * n
def Flag.stream_CONCEAL (n : Nat) : Flg := ⟨(Reg.stream_INT_STATUS n), 0x80038 + 0x40 * n, 3⟩
def Flag.stream_FRAME_DROP (n : Nat) : Flg := ⟨(Reg.stream_INT_STATUS n), 0x80038 + 0x40 * n, 2⟩
def Flag.stream_LOST (n : Nat) : Flg := ⟨(Reg.stream_INT_STATUS n), 0x80038 + 0x40 * n, 1⟩
def Flag.stream_LIVE (n : Nat) : Flg := ⟨(Reg.stream_INT_STATUS n), 0x80038 + 0x40 * n, 0⟩
def Reg.stream_INT_EN (n : Nat) : Nat := 0x80034 + 0x40 * n
def R.stream_INT_EN_CONCEAL (n : Nat) : Fld := ⟨(Reg.stream_INT_EN n), 3, 3⟩
def R.stream_INT_EN_FRAME_DROP (n : Nat) : Fld := ⟨(Reg.stream_INT_EN n), 2, 2⟩
def R.stream_INT_EN_LOST (n : Nat) : Fld := ⟨(Reg.stream_INT_EN n), 1, 1⟩
def R.stream_INT_EN_LIVE (n : Nat) : Fld := ⟨(Reg.stream_INT_EN n), 0, 0⟩
def Reg.ingest_CFG (c : Nat) : Nat := 0xC0000 + 0x1000 * c
def R.ingest_CFG_PRESENT (c : Nat) : Fld := ⟨(Reg.ingest_CFG c), 0, 0⟩
def Reg.ingest_SHED (c : Nat) : Nat := 0xC0004 + 0x1000 * c
def R.ingest_SHED_SKETCH_STOP (c : Nat) : Fld := ⟨(Reg.ingest_SHED c), 1, 1⟩
def R.ingest_SHED_MOTION_STOP (c : Nat) : Fld := ⟨(Reg.ingest_SHED c), 0, 0⟩
def Reg.ingest_LOAD (c : Nat) : Nat := 0xC0008 + 0x1000 * c
def R.ingest_LOAD_PEAK (c : Nat) : Fld := ⟨(Reg.ingest_LOAD c), 31, 16⟩
def R.ingest_LOAD_LAST (c : Nat) : Fld := ⟨(Reg.ingest_LOAD c), 15, 0⟩
def Reg.ingest_WRITE_LOAD (c : Nat) : Nat := 0xC000C + 0x1000 * c
def R.ingest_WRITE_LOAD_LAST (c : Nat) : Fld := ⟨(Reg.ingest_WRITE_LOAD c), 15, 0⟩
def Reg.ingest_OVERFLOW (c : Nat) : Nat := 0xC0010 + 0x1000 * c
def R.ingest_OVERFLOW (c : Nat) : Fld := ⟨(Reg.ingest_OVERFLOW c), 31, 0⟩
def Reg.ingest_DECODE_DROP (c : Nat) : Nat := 0xC0014 + 0x1000 * c
def R.ingest_DECODE_DROP (c : Nat) : Fld := ⟨(Reg.ingest_DECODE_DROP c), 31, 0⟩
def Reg.ingest_MEM_DROP (c : Nat) : Nat := 0xC0018 + 0x1000 * c
def R.ingest_MEM_DROP (c : Nat) : Fld := ⟨(Reg.ingest_MEM_DROP c), 31, 0⟩
def Reg.ingest_CTRL (c : Nat) : Nat := 0xC001C + 0x1000 * c
def R.ingest_CTRL_CLR_CNT (c : Nat) : Fld := ⟨(Reg.ingest_CTRL c), 0, 0⟩
def Reg.ingest_INT_STATUS (c : Nat) : Nat := 0xC0020 + 0x1000 * c
def Flag.ingest_MEM_DROP (c : Nat) : Flg := ⟨(Reg.ingest_INT_STATUS c), 0xC0028 + 0x1000 * c, 3⟩
def Flag.ingest_SHED_CHANGE (c : Nat) : Flg := ⟨(Reg.ingest_INT_STATUS c), 0xC0028 + 0x1000 * c, 2⟩
def Flag.ingest_DECODE_DROP (c : Nat) : Flg := ⟨(Reg.ingest_INT_STATUS c), 0xC0028 + 0x1000 * c, 1⟩
def Flag.ingest_OVERFLOW (c : Nat) : Flg := ⟨(Reg.ingest_INT_STATUS c), 0xC0028 + 0x1000 * c, 0⟩
def Reg.ingest_INT_EN (c : Nat) : Nat := 0xC0024 + 0x1000 * c
def R.ingest_INT_EN_MEM_DROP (c : Nat) : Fld := ⟨(Reg.ingest_INT_EN c), 3, 3⟩
def R.ingest_INT_EN_SHED_CHANGE (c : Nat) : Fld := ⟨(Reg.ingest_INT_EN c), 2, 2⟩
def R.ingest_INT_EN_DECODE_DROP (c : Nat) : Fld := ⟨(Reg.ingest_INT_EN c), 1, 1⟩
def R.ingest_INT_EN_OVERFLOW (c : Nat) : Fld := ⟨(Reg.ingest_INT_EN c), 0, 0⟩
def Reg.mot_STATUS (u : Nat) : Nat := 0xC8000 + 0x100 * u
def R.mot_STATUS_ACTIVE (u : Nat) : Fld := ⟨(Reg.mot_STATUS u), 31, 31⟩
def R.mot_STATUS_STOPPED (u : Nat) : Fld := ⟨(Reg.mot_STATUS u), 30, 30⟩
def R.mot_STATUS_LOAD (u : Nat) : Fld := ⟨(Reg.mot_STATUS u), 15, 0⟩
def Reg.mot_FIELDS (u : Nat) : Nat := 0xC8004 + 0x100 * u
def R.mot_FIELDS (u : Nat) : Fld := ⟨(Reg.mot_FIELDS u), 31, 0⟩
def Reg.mot_LATE (u : Nat) : Nat := 0xC8008 + 0x100 * u
def R.mot_LATE (u : Nat) : Fld := ⟨(Reg.mot_LATE u), 31, 0⟩
def Reg.mot_SKIPPED (u : Nat) : Nat := 0xC800C + 0x100 * u
def R.mot_SKIPPED (u : Nat) : Fld := ⟨(Reg.mot_SKIPPED u), 31, 0⟩
def Reg.mot_INT_STATUS (u : Nat) : Nat := 0xC8010 + 0x100 * u
def Flag.mot_STOP_CHANGE (u : Nat) : Flg := ⟨(Reg.mot_INT_STATUS u), 0xC8018 + 0x100 * u, 1⟩
def Flag.mot_LATE (u : Nat) : Flg := ⟨(Reg.mot_INT_STATUS u), 0xC8018 + 0x100 * u, 0⟩
def Reg.mot_INT_EN (u : Nat) : Nat := 0xC8014 + 0x100 * u
def R.mot_INT_EN_STOP_CHANGE (u : Nat) : Fld := ⟨(Reg.mot_INT_EN u), 1, 1⟩
def R.mot_INT_EN_LATE (u : Nat) : Fld := ⟨(Reg.mot_INT_EN u), 0, 0⟩
def Reg.pane_SRC (f p : Nat) : Nat := 0x100000 + 0x2000 * f + 0x200 * p
def R.pane_SRC_KIND (f p : Nat) : Fld := ⟨(Reg.pane_SRC f p), 31, 30⟩
def R.pane_SRC_INDEX (f p : Nat) : Fld := ⟨(Reg.pane_SRC f p), 10, 0⟩
def Reg.pane_CROP_POS (f p : Nat) : Nat := 0x100004 + 0x2000 * f + 0x200 * p
def R.pane_CROP_POS_X (f p : Nat) : Fld := ⟨(Reg.pane_CROP_POS f p), 28, 16⟩
def R.pane_CROP_POS_Y (f p : Nat) : Fld := ⟨(Reg.pane_CROP_POS f p), 12, 0⟩
def Reg.pane_CROP_SIZE (f p : Nat) : Nat := 0x100008 + 0x2000 * f + 0x200 * p
def R.pane_CROP_SIZE_W (f p : Nat) : Fld := ⟨(Reg.pane_CROP_SIZE f p), 28, 16⟩
def R.pane_CROP_SIZE_H (f p : Nat) : Fld := ⟨(Reg.pane_CROP_SIZE f p), 12, 0⟩
def Reg.pane_DST_POS (f p : Nat) : Nat := 0x10000C + 0x2000 * f + 0x200 * p
def R.pane_DST_POS_X (f p : Nat) : Fld := ⟨(Reg.pane_DST_POS f p), 29, 16⟩
def R.pane_DST_POS_Y (f p : Nat) : Fld := ⟨(Reg.pane_DST_POS f p), 13, 0⟩
def Reg.pane_DST_SIZE (f p : Nat) : Nat := 0x100010 + 0x2000 * f + 0x200 * p
def R.pane_DST_SIZE_W (f p : Nat) : Fld := ⟨(Reg.pane_DST_SIZE f p), 29, 16⟩
def R.pane_DST_SIZE_H (f p : Nat) : Fld := ⟨(Reg.pane_DST_SIZE f p), 13, 0⟩
def Reg.pane_SCALE (f p : Nat) : Nat := 0x100014 + 0x2000 * f + 0x200 * p
def R.pane_SCALE_SKETCH_FORCE (f p : Nat) : Fld := ⟨(Reg.pane_SCALE f p), 10, 10⟩
def R.pane_SCALE_SKETCH_LEVEL (f p : Nat) : Fld := ⟨(Reg.pane_SCALE f p), 9, 8⟩
def R.pane_SCALE_FILTER_V (f p : Nat) : Fld := ⟨(Reg.pane_SCALE f p), 5, 4⟩
def R.pane_SCALE_FILTER_H (f p : Nat) : Fld := ⟨(Reg.pane_SCALE f p), 1, 0⟩
def Reg.pane_RATE (f p : Nat) : Nat := 0x100018 + 0x2000 * f + 0x200 * p
def R.pane_RATE_CONF_HI (f p : Nat) : Fld := ⟨(Reg.pane_RATE f p), 31, 24⟩
def R.pane_RATE_CONF_LO (f p : Nat) : Fld := ⟨(Reg.pane_RATE f p), 23, 16⟩
def R.pane_RATE_RC_MODE (f p : Nat) : Fld := ⟨(Reg.pane_RATE f p), 1, 0⟩
def Reg.pane_COLOUR (f p : Nat) : Nat := 0x10001C + 0x2000 * f + 0x200 * p
def R.pane_COLOUR_CSC_CUSTOM (f p : Nat) : Fld := ⟨(Reg.pane_COLOUR f p), 31, 31⟩
def R.pane_COLOUR_SRC_FULL (f p : Nat) : Fld := ⟨(Reg.pane_COLOUR f p), 2, 2⟩
def R.pane_COLOUR_SRC_CS (f p : Nat) : Fld := ⟨(Reg.pane_COLOUR f p), 1, 0⟩
def Reg.pane_CSC_M0 (f p : Nat) : Nat := 0x100020 + 0x2000 * f + 0x200 * p
def R.pane_CSC_M0_HI (f p : Nat) : Fld := ⟨(Reg.pane_CSC_M0 f p), 31, 16⟩
def R.pane_CSC_M0_LO (f p : Nat) : Fld := ⟨(Reg.pane_CSC_M0 f p), 15, 0⟩
def Reg.pane_CSC_M1 (f p : Nat) : Nat := 0x100024 + 0x2000 * f + 0x200 * p
def R.pane_CSC_M1_HI (f p : Nat) : Fld := ⟨(Reg.pane_CSC_M1 f p), 31, 16⟩
def R.pane_CSC_M1_LO (f p : Nat) : Fld := ⟨(Reg.pane_CSC_M1 f p), 15, 0⟩
def Reg.pane_CSC_M2 (f p : Nat) : Nat := 0x100028 + 0x2000 * f + 0x200 * p
def R.pane_CSC_M2_HI (f p : Nat) : Fld := ⟨(Reg.pane_CSC_M2 f p), 31, 16⟩
def R.pane_CSC_M2_LO (f p : Nat) : Fld := ⟨(Reg.pane_CSC_M2 f p), 15, 0⟩
def Reg.pane_CSC_M3 (f p : Nat) : Nat := 0x10002C + 0x2000 * f + 0x200 * p
def R.pane_CSC_M3_HI (f p : Nat) : Fld := ⟨(Reg.pane_CSC_M3 f p), 31, 16⟩
def R.pane_CSC_M3_LO (f p : Nat) : Fld := ⟨(Reg.pane_CSC_M3 f p), 15, 0⟩
def Reg.pane_CSC_M4 (f p : Nat) : Nat := 0x100030 + 0x2000 * f + 0x200 * p
def R.pane_CSC_M4_LO (f p : Nat) : Fld := ⟨(Reg.pane_CSC_M4 f p), 15, 0⟩
def Reg.pane_CSC_OFF_IN0 (f p : Nat) : Nat := 0x100034 + 0x2000 * f + 0x200 * p
def R.pane_CSC_OFF_IN0_HI (f p : Nat) : Fld := ⟨(Reg.pane_CSC_OFF_IN0 f p), 31, 16⟩
def R.pane_CSC_OFF_IN0_LO (f p : Nat) : Fld := ⟨(Reg.pane_CSC_OFF_IN0 f p), 15, 0⟩
def Reg.pane_CSC_OFF_IN1 (f p : Nat) : Nat := 0x100038 + 0x2000 * f + 0x200 * p
def R.pane_CSC_OFF_IN1_LO (f p : Nat) : Fld := ⟨(Reg.pane_CSC_OFF_IN1 f p), 15, 0⟩
def Reg.pane_CSC_OFF_OUT0 (f p : Nat) : Nat := 0x10003C + 0x2000 * f + 0x200 * p
def R.pane_CSC_OFF_OUT0_HI (f p : Nat) : Fld := ⟨(Reg.pane_CSC_OFF_OUT0 f p), 31, 16⟩
def R.pane_CSC_OFF_OUT0_LO (f p : Nat) : Fld := ⟨(Reg.pane_CSC_OFF_OUT0 f p), 15, 0⟩
def Reg.pane_CSC_OFF_OUT1 (f p : Nat) : Nat := 0x100040 + 0x2000 * f + 0x200 * p
def R.pane_CSC_OFF_OUT1_LO (f p : Nat) : Fld := ⟨(Reg.pane_CSC_OFF_OUT1 f p), 15, 0⟩
def Reg.pane_BLEND (f p : Nat) : Nat := 0x100044 + 0x2000 * f + 0x200 * p
def R.pane_BLEND_GLOBAL_ALPHA (f p : Nat) : Fld := ⟨(Reg.pane_BLEND f p), 31, 24⟩
def R.pane_BLEND_MODE (f p : Nat) : Fld := ⟨(Reg.pane_BLEND f p), 1, 0⟩
def Reg.pane_FILL (f p : Nat) : Nat := 0x100048 + 0x2000 * f + 0x200 * p
def R.pane_FILL_R (f p : Nat) : Fld := ⟨(Reg.pane_FILL f p), 29, 20⟩
def R.pane_FILL_G (f p : Nat) : Fld := ⟨(Reg.pane_FILL f p), 19, 10⟩
def R.pane_FILL_B (f p : Nat) : Fld := ⟨(Reg.pane_FILL f p), 9, 0⟩
def Reg.pane_CTRL (f p : Nat) : Nat := 0x10004C + 0x2000 * f + 0x200 * p
def R.pane_CTRL_CUT_EN (f p : Nat) : Fld := ⟨(Reg.pane_CTRL f p), 31, 31⟩
def R.pane_CTRL_SLATE_SURF (f p : Nat) : Fld := ⟨(Reg.pane_CTRL f p), 23, 16⟩
def R.pane_CTRL_LOST_POLICY (f p : Nat) : Fld := ⟨(Reg.pane_CTRL f p), 9, 8⟩
def Reg.pane_STATUS (f p : Nat) : Nat := 0x1000C0 + 0x2000 * f + 0x200 * p
def R.pane_STATUS_EFF_RC (f p : Nat) : Fld := ⟨(Reg.pane_STATUS f p), 31, 30⟩
def R.pane_STATUS_EFF_LEVEL (f p : Nat) : Fld := ⟨(Reg.pane_STATUS f p), 29, 28⟩
def R.pane_STATUS_TAPS_V (f p : Nat) : Fld := ⟨(Reg.pane_STATUS f p), 27, 25⟩
def R.pane_STATUS_PHASE_W (f p : Nat) : Fld := ⟨(Reg.pane_STATUS f p), 24, 16⟩
def R.pane_STATUS_LBUF_DEGRADED (f p : Nat) : Fld := ⟨(Reg.pane_STATUS f p), 15, 15⟩
def R.pane_STATUS_OCCLUDED (f p : Nat) : Fld := ⟨(Reg.pane_STATUS f p), 14, 14⟩
def R.pane_STATUS_BUDGET_DEMOTED (f p : Nat) : Fld := ⟨(Reg.pane_STATUS f p), 13, 13⟩
def R.pane_STATUS_BUDGET_SKIP (f p : Nat) : Fld := ⟨(Reg.pane_STATUS f p), 12, 12⟩
def R.pane_STATUS_THERM_LIMIT (f p : Nat) : Fld := ⟨(Reg.pane_STATUS f p), 11, 11⟩
def R.pane_STATUS_UNVERIFIED (f p : Nat) : Fld := ⟨(Reg.pane_STATUS f p), 10, 10⟩
def R.pane_STATUS_CONCEALED (f p : Nat) : Fld := ⟨(Reg.pane_STATUS f p), 9, 9⟩
def R.pane_STATUS_SYNTH (f p : Nat) : Fld := ⟨(Reg.pane_STATUS f p), 8, 8⟩
def R.pane_STATUS_SKETCH_FALLBACK (f p : Nat) : Fld := ⟨(Reg.pane_STATUS f p), 7, 7⟩
def R.pane_STATUS_VEC_FALLBACK (f p : Nat) : Fld := ⟨(Reg.pane_STATUS f p), 6, 6⟩
def R.pane_STATUS_LOST_SHOWN (f p : Nat) : Fld := ⟨(Reg.pane_STATUS f p), 5, 5⟩
def R.pane_STATUS_SHOWN_NEW (f p : Nat) : Fld := ⟨(Reg.pane_STATUS f p), 4, 4⟩
def Reg.pane_PERMIT (f p : Nat) : Nat := 0x1000C4 + 0x2000 * f + 0x200 * p
def R.pane_PERMIT_CLASS (f p : Nat) : Fld := ⟨(Reg.pane_PERMIT f p), 5, 4⟩
def R.pane_PERMIT_CUT_OK (f p : Nat) : Fld := ⟨(Reg.pane_PERMIT f p), 3, 3⟩
def R.pane_PERMIT_EVIDENCE (f p : Nat) : Fld := ⟨(Reg.pane_PERMIT f p), 2, 2⟩
def R.pane_PERMIT_MOTION_OK (f p : Nat) : Fld := ⟨(Reg.pane_PERMIT f p), 1, 1⟩
def R.pane_PERMIT_BLEND_OK (f p : Nat) : Fld := ⟨(Reg.pane_PERMIT f p), 0, 0⟩
def Reg.pane_SHOWN_B (f p : Nat) : Nat := 0x1000C8 + 0x2000 * f + 0x200 * p
def R.pane_SHOWN_B (f p : Nat) : Fld := ⟨(Reg.pane_SHOWN_B f p), 31, 0⟩
def Reg.pane_SHOWN_A (f p : Nat) : Nat := 0x1000CC + 0x2000 * f + 0x200 * p
def R.pane_SHOWN_A (f p : Nat) : Fld := ⟨(Reg.pane_SHOWN_A f p), 31, 0⟩
def Reg.pane_FW_VIOL (f p : Nat) : Nat := 0x1000D0 + 0x2000 * f + 0x200 * p
def R.pane_FW_VIOL (f p : Nat) : Fld := ⟨(Reg.pane_FW_VIOL f p), 31, 0⟩
def Reg.pane_CUT_MARGIN (f p : Nat) : Nat := 0x1000D4 + 0x2000 * f + 0x200 * p
def R.pane_CUT_MARGIN_MAX (f p : Nat) : Fld := ⟨(Reg.pane_CUT_MARGIN f p), 31, 16⟩
def R.pane_CUT_MARGIN_MIN (f p : Nat) : Fld := ⟨(Reg.pane_CUT_MARGIN f p), 15, 0⟩
def Reg.pane_INT_STATUS (f p : Nat) : Nat := 0x1000E0 + 0x2000 * f + 0x200 * p
def Flag.pane_SKETCH_FALLBACK (f p : Nat) : Flg := ⟨(Reg.pane_INT_STATUS f p), 0x1000E8 + 0x2000 * f + 0x200 * p, 9⟩
def Flag.pane_UNVERIFIED (f p : Nat) : Flg := ⟨(Reg.pane_INT_STATUS f p), 0x1000E8 + 0x2000 * f + 0x200 * p, 8⟩
def Flag.pane_PANE_STALE (f p : Nat) : Flg := ⟨(Reg.pane_INT_STATUS f p), 0x1000E8 + 0x2000 * f + 0x200 * p, 7⟩
def Flag.pane_FW_VIOL (f p : Nat) : Flg := ⟨(Reg.pane_INT_STATUS f p), 0x1000E8 + 0x2000 * f + 0x200 * p, 6⟩
def Flag.pane_CUT_LATE (f p : Nat) : Flg := ⟨(Reg.pane_INT_STATUS f p), 0x1000E8 + 0x2000 * f + 0x200 * p, 5⟩
def Flag.pane_CUT_EXIT (f p : Nat) : Flg := ⟨(Reg.pane_INT_STATUS f p), 0x1000E8 + 0x2000 * f + 0x200 * p, 4⟩
def Flag.pane_CUT_ENTER (f p : Nat) : Flg := ⟨(Reg.pane_INT_STATUS f p), 0x1000E8 + 0x2000 * f + 0x200 * p, 3⟩
def Flag.pane_RC_FALLBACK (f p : Nat) : Flg := ⟨(Reg.pane_INT_STATUS f p), 0x1000E8 + 0x2000 * f + 0x200 * p, 2⟩
def Flag.pane_BUDGET (f p : Nat) : Flg := ⟨(Reg.pane_INT_STATUS f p), 0x1000E8 + 0x2000 * f + 0x200 * p, 1⟩
def Flag.pane_LBUF_DEGRADED (f p : Nat) : Flg := ⟨(Reg.pane_INT_STATUS f p), 0x1000E8 + 0x2000 * f + 0x200 * p, 0⟩
def Reg.pane_INT_EN (f p : Nat) : Nat := 0x1000E4 + 0x2000 * f + 0x200 * p
def R.pane_INT_EN_SKETCH_FALLBACK (f p : Nat) : Fld := ⟨(Reg.pane_INT_EN f p), 9, 9⟩
def R.pane_INT_EN_UNVERIFIED (f p : Nat) : Fld := ⟨(Reg.pane_INT_EN f p), 8, 8⟩
def R.pane_INT_EN_PANE_STALE (f p : Nat) : Fld := ⟨(Reg.pane_INT_EN f p), 7, 7⟩
def R.pane_INT_EN_FW_VIOL (f p : Nat) : Fld := ⟨(Reg.pane_INT_EN f p), 6, 6⟩
def R.pane_INT_EN_CUT_LATE (f p : Nat) : Fld := ⟨(Reg.pane_INT_EN f p), 5, 5⟩
def R.pane_INT_EN_CUT_EXIT (f p : Nat) : Fld := ⟨(Reg.pane_INT_EN f p), 4, 4⟩
def R.pane_INT_EN_CUT_ENTER (f p : Nat) : Fld := ⟨(Reg.pane_INT_EN f p), 3, 3⟩
def R.pane_INT_EN_RC_FALLBACK (f p : Nat) : Fld := ⟨(Reg.pane_INT_EN f p), 2, 2⟩
def R.pane_INT_EN_BUDGET (f p : Nat) : Fld := ⟨(Reg.pane_INT_EN f p), 1, 1⟩
def R.pane_INT_EN_LBUF_DEGRADED (f p : Nat) : Fld := ⟨(Reg.pane_INT_EN f p), 0, 0⟩
def Reg.folio_CFG (f : Nat) : Nat := 0x100100 + 0x2000 * f
def R.folio_CFG_PRESENT (f : Nat) : Fld := ⟨(Reg.folio_CFG f), 31, 31⟩
def R.folio_CFG_WB (f : Nat) : Fld := ⟨(Reg.folio_CFG f), 30, 30⟩
def R.folio_CFG_DISP_TIMED_OK (f : Nat) : Fld := ⟨(Reg.folio_CFG f), 29, 29⟩
def R.folio_CFG_SEAL (f : Nat) : Fld := ⟨(Reg.folio_CFG f), 28, 28⟩
def R.folio_CFG_DRY (f : Nat) : Fld := ⟨(Reg.folio_CFG f), 27, 27⟩
def R.folio_CFG_PORT_B (f : Nat) : Fld := ⟨(Reg.folio_CFG f), 15, 8⟩
def R.folio_CFG_PORT_A (f : Nat) : Fld := ⟨(Reg.folio_CFG f), 7, 0⟩
def Reg.folio_BG (f : Nat) : Nat := 0x100104 + 0x2000 * f
def R.folio_BG_R (f : Nat) : Fld := ⟨(Reg.folio_BG f), 29, 20⟩
def R.folio_BG_G (f : Nat) : Fld := ⟨(Reg.folio_BG f), 19, 10⟩
def R.folio_BG_B (f : Nat) : Fld := ⟨(Reg.folio_BG f), 9, 0⟩
def Reg.folio_OUT_FMT (f : Nat) : Nat := 0x100108 + 0x2000 * f
def R.folio_OUT_FMT_LINK_FMT (f : Nat) : Fld := ⟨(Reg.folio_OUT_FMT f), 7, 4⟩
def R.folio_OUT_FMT_OUT_FULL (f : Nat) : Fld := ⟨(Reg.folio_OUT_FMT f), 2, 2⟩
def R.folio_OUT_FMT_OUT_CS (f : Nat) : Fld := ⟨(Reg.folio_OUT_FMT f), 1, 0⟩
def Reg.folio_DITHER (f : Nat) : Nat := 0x10010C + 0x2000 * f
def R.folio_DITHER_DEPTH (f : Nat) : Fld := ⟨(Reg.folio_DITHER f), 3, 2⟩
def R.folio_DITHER_MODE (f : Nat) : Fld := ⟨(Reg.folio_DITHER f), 1, 0⟩
def Reg.folio_BORDER_CLR (f : Nat) (i : Nat) : Nat := 0x100110 + 0x2000 * f + 4 * i
def R.folio_BORDER_CLR_RGB (f : Nat) (i : Nat) : Fld := ⟨(Reg.folio_BORDER_CLR f i), 29, 0⟩
def Reg.folio_BORDER (f : Nat) (i : Nat) : Nat := 0x100120 + 0x2000 * f + 4 * i
def R.folio_BORDER_SIDES (f : Nat) (i : Nat) : Fld := ⟨(Reg.folio_BORDER f i), 15, 12⟩
def R.folio_BORDER_CLR (f : Nat) (i : Nat) : Fld := ⟨(Reg.folio_BORDER f i), 9, 8⟩
def R.folio_BORDER_WIDTH (f : Nat) (i : Nat) : Fld := ⟨(Reg.folio_BORDER f i), 3, 0⟩
def Reg.folio_FENCE_WAIT (f : Nat) (i : Nat) : Nat := 0x100140 + 0x2000 * f + 4 * i
def R.folio_FENCE_WAIT (f : Nat) (i : Nat) : Fld := ⟨(Reg.folio_FENCE_WAIT f i), 31, 0⟩
def Reg.folio_CTRL (f : Nat) : Nat := 0x100160 + 0x2000 * f
def R.folio_CTRL_DRY_EN (f : Nat) : Fld := ⟨(Reg.folio_CTRL f), 8, 8⟩
def R.folio_CTRL_WAIT_EN (f : Nat) : Fld := ⟨(Reg.folio_CTRL f), 7, 0⟩
def Reg.folio_COMMIT (f : Nat) : Nat := 0x100180 + 0x2000 * f
def R.folio_COMMIT_ARM (f : Nat) : Fld := ⟨(Reg.folio_COMMIT f), 31, 31⟩
def R.folio_COMMIT_DISARM (f : Nat) : Fld := ⟨(Reg.folio_COMMIT f), 30, 30⟩
def R.folio_COMMIT_REVERT (f : Nat) : Fld := ⟨(Reg.folio_COMMIT f), 29, 29⟩
def R.folio_COMMIT_STAGE_HOLD (f : Nat) : Fld := ⟨(Reg.folio_COMMIT f), 0, 0⟩
def Reg.folio_COMMIT_CFG (f : Nat) : Nat := 0x100184 + 0x2000 * f
def R.folio_COMMIT_CFG_POLICY (f : Nat) : Fld := ⟨(Reg.folio_COMMIT_CFG f), 4, 4⟩
def R.folio_COMMIT_CFG_DEFER_LIMIT (f : Nat) : Fld := ⟨(Reg.folio_COMMIT_CFG f), 3, 0⟩
def Reg.folio_COMMIT_STATUS (f : Nat) : Nat := 0x100188 + 0x2000 * f
def R.folio_COMMIT_STATUS_ARMED (f : Nat) : Fld := ⟨(Reg.folio_COMMIT_STATUS f), 31, 31⟩
def R.folio_COMMIT_STATUS_HELD (f : Nat) : Fld := ⟨(Reg.folio_COMMIT_STATUS f), 30, 30⟩
def R.folio_COMMIT_STATUS_LAST (f : Nat) : Fld := ⟨(Reg.folio_COMMIT_STATUS f), 29, 28⟩
def R.folio_COMMIT_STATUS_DEFERS (f : Nat) : Fld := ⟨(Reg.folio_COMMIT_STATUS f), 27, 24⟩
def R.folio_COMMIT_STATUS_STALE_PANES (f : Nat) : Fld := ⟨(Reg.folio_COMMIT_STATUS f), 23, 16⟩
def R.folio_COMMIT_STATUS_COMMIT_SEQ (f : Nat) : Fld := ⟨(Reg.folio_COMMIT_STATUS f), 15, 0⟩
def Reg.folio_FROM_FRAME (f : Nat) : Nat := 0x10018C + 0x2000 * f
def R.folio_FROM_FRAME (f : Nat) : Fld := ⟨(Reg.folio_FROM_FRAME f), 31, 0⟩
def Reg.folio_FRAME_NUM (f : Nat) : Nat := 0x100190 + 0x2000 * f
def R.folio_FRAME_NUM (f : Nat) : Fld := ⟨(Reg.folio_FRAME_NUM f), 31, 0⟩
def Reg.folio_RETIRE (f : Nat) : Nat := 0x100194 + 0x2000 * f
def R.folio_RETIRE (f : Nat) : Fld := ⟨(Reg.folio_RETIRE f), 31, 0⟩
def Reg.folio_RETIRE_WAIT (f : Nat) : Nat := 0x100198 + 0x2000 * f
def R.folio_RETIRE_WAIT (f : Nat) : Fld := ⟨(Reg.folio_RETIRE_WAIT f), 31, 0⟩
def Reg.folio_FENCE_READY (f : Nat) : Nat := 0x10019C + 0x2000 * f
def R.folio_FENCE_READY_READY (f : Nat) : Fld := ⟨(Reg.folio_FENCE_READY f), 7, 0⟩
def Reg.folio_DRY_STATUS (f : Nat) : Nat := 0x1001A0 + 0x2000 * f
def R.folio_DRY_STATUS_VALID (f : Nat) : Fld := ⟨(Reg.folio_DRY_STATUS f), 31, 31⟩
def R.folio_DRY_STATUS_TOO_SMALL (f : Nat) : Fld := ⟨(Reg.folio_DRY_STATUS f), 30, 30⟩
def R.folio_DRY_STATUS_IN_USE (f : Nat) : Fld := ⟨(Reg.folio_DRY_STATUS f), 29, 29⟩
def R.folio_DRY_STATUS_MEMBERS (f : Nat) : Fld := ⟨(Reg.folio_DRY_STATUS f), 7, 0⟩
def Reg.folio_DRY_REBUILDS (f : Nat) : Nat := 0x1001A4 + 0x2000 * f
def R.folio_DRY_REBUILDS (f : Nat) : Fld := ⟨(Reg.folio_DRY_REBUILDS f), 31, 0⟩
def Reg.folio_WB_STATUS (f : Nat) : Nat := 0x1001A8 + 0x2000 * f
def R.folio_WB_STATUS_ACTIVE (f : Nat) : Fld := ⟨(Reg.folio_WB_STATUS f), 31, 31⟩
def R.folio_WB_STATUS_SIZE_MISMATCH (f : Nat) : Fld := ⟨(Reg.folio_WB_STATUS f), 30, 30⟩
def Reg.folio_WB_FRAMES (f : Nat) : Nat := 0x1001AC + 0x2000 * f
def R.folio_WB_FRAMES (f : Nat) : Fld := ⟨(Reg.folio_WB_FRAMES f), 31, 0⟩
def Reg.folio_INT_STATUS (f : Nat) : Nat := 0x1001C0 + 0x2000 * f
def Flag.folio_WB_DROP (f : Nat) : Flg := ⟨(Reg.folio_INT_STATUS f), 0x1001C8 + 0x2000 * f, 7⟩
def Flag.folio_DRY_INVALID (f : Nat) : Flg := ⟨(Reg.folio_INT_STATUS f), 0x1001C8 + 0x2000 * f, 6⟩
def Flag.folio_DRY_REBUILT (f : Nat) : Flg := ⟨(Reg.folio_INT_STATUS f), 0x1001C8 + 0x2000 * f, 5⟩
def Flag.folio_RETIRE_REACHED (f : Nat) : Flg := ⟨(Reg.folio_INT_STATUS f), 0x1001C8 + 0x2000 * f, 4⟩
def Flag.folio_COMMIT_CLEARED (f : Nat) : Flg := ⟨(Reg.folio_INT_STATUS f), 0x1001C8 + 0x2000 * f, 3⟩
def Flag.folio_COMMIT_PARTIAL (f : Nat) : Flg := ⟨(Reg.folio_INT_STATUS f), 0x1001C8 + 0x2000 * f, 2⟩
def Flag.folio_COMMIT_DEFER (f : Nat) : Flg := ⟨(Reg.folio_INT_STATUS f), 0x1001C8 + 0x2000 * f, 1⟩
def Flag.folio_COMMIT_DONE (f : Nat) : Flg := ⟨(Reg.folio_INT_STATUS f), 0x1001C8 + 0x2000 * f, 0⟩
def Reg.folio_INT_EN (f : Nat) : Nat := 0x1001C4 + 0x2000 * f
def R.folio_INT_EN_WB_DROP (f : Nat) : Fld := ⟨(Reg.folio_INT_EN f), 7, 7⟩
def R.folio_INT_EN_DRY_INVALID (f : Nat) : Fld := ⟨(Reg.folio_INT_EN f), 6, 6⟩
def R.folio_INT_EN_DRY_REBUILT (f : Nat) : Fld := ⟨(Reg.folio_INT_EN f), 5, 5⟩
def R.folio_INT_EN_RETIRE_REACHED (f : Nat) : Fld := ⟨(Reg.folio_INT_EN f), 4, 4⟩
def R.folio_INT_EN_COMMIT_CLEARED (f : Nat) : Fld := ⟨(Reg.folio_INT_EN f), 3, 3⟩
def R.folio_INT_EN_COMMIT_PARTIAL (f : Nat) : Fld := ⟨(Reg.folio_INT_EN f), 2, 2⟩
def R.folio_INT_EN_COMMIT_DEFER (f : Nat) : Fld := ⟨(Reg.folio_INT_EN f), 1, 1⟩
def R.folio_INT_EN_COMMIT_DONE (f : Nat) : Fld := ⟨(Reg.folio_INT_EN f), 0, 0⟩
def Reg.folio_TIMING_H (f : Nat) : Nat := 0x100300 + 0x2000 * f
def R.folio_TIMING_H_H_TOTAL (f : Nat) : Fld := ⟨(Reg.folio_TIMING_H f), 28, 16⟩
def R.folio_TIMING_H_H_ACTIVE (f : Nat) : Fld := ⟨(Reg.folio_TIMING_H f), 12, 0⟩
def Reg.folio_TIMING_HS (f : Nat) : Nat := 0x100304 + 0x2000 * f
def R.folio_TIMING_HS_H_SW (f : Nat) : Fld := ⟨(Reg.folio_TIMING_HS f), 27, 16⟩
def R.folio_TIMING_HS_H_FP (f : Nat) : Fld := ⟨(Reg.folio_TIMING_HS f), 11, 0⟩
def Reg.folio_TIMING_V (f : Nat) : Nat := 0x100308 + 0x2000 * f
def R.folio_TIMING_V_V_TOTAL (f : Nat) : Fld := ⟨(Reg.folio_TIMING_V f), 28, 16⟩
def R.folio_TIMING_V_V_ACTIVE (f : Nat) : Fld := ⟨(Reg.folio_TIMING_V f), 12, 0⟩
def Reg.folio_TIMING_VA (f : Nat) : Nat := 0x10030C + 0x2000 * f
def R.folio_TIMING_VA_FIRST_ACTIVE2 (f : Nat) : Fld := ⟨(Reg.folio_TIMING_VA f), 28, 16⟩
def R.folio_TIMING_VA_FIRST_ACTIVE (f : Nat) : Fld := ⟨(Reg.folio_TIMING_VA f), 12, 0⟩
def Reg.folio_TIMING_VS (f : Nat) : Nat := 0x100310 + 0x2000 * f
def R.folio_TIMING_VS_SWITCH_LINE (f : Nat) : Fld := ⟨(Reg.folio_TIMING_VS f), 28, 16⟩
def R.folio_TIMING_VS_V_SW (f : Nat) : Fld := ⟨(Reg.folio_TIMING_VS f), 3, 0⟩
def Reg.folio_TIMING_RATE (f : Nat) : Nat := 0x100314 + 0x2000 * f
def R.folio_TIMING_RATE_NUM (f : Nat) : Fld := ⟨(Reg.folio_TIMING_RATE f), 31, 16⟩
def R.folio_TIMING_RATE_DEN (f : Nat) : Fld := ⟨(Reg.folio_TIMING_RATE f), 15, 0⟩
def Reg.folio_TIMING_CLK (f : Nat) : Nat := 0x100318 + 0x2000 * f
def R.folio_TIMING_CLK_SYN (f : Nat) : Fld := ⟨(Reg.folio_TIMING_CLK f), 31, 31⟩
def R.folio_TIMING_CLK_OUT (f : Nat) : Fld := ⟨(Reg.folio_TIMING_CLK f), 30, 28⟩
def R.folio_TIMING_CLK_PIX_DIV2 (f : Nat) : Fld := ⟨(Reg.folio_TIMING_CLK f), 27, 27⟩
def Reg.folio_TIMING_MODE (f : Nat) : Nat := 0x10031C + 0x2000 * f
def R.folio_TIMING_MODE_RUN (f : Nat) : Fld := ⟨(Reg.folio_TIMING_MODE f), 31, 31⟩
def R.folio_TIMING_MODE_INTERLACED (f : Nat) : Fld := ⟨(Reg.folio_TIMING_MODE f), 30, 30⟩
def R.folio_TIMING_MODE_PSF (f : Nat) : Fld := ⟨(Reg.folio_TIMING_MODE f), 29, 29⟩
def R.folio_TIMING_MODE_DISP_TIMED (f : Nat) : Fld := ⟨(Reg.folio_TIMING_MODE f), 28, 28⟩
def R.folio_TIMING_MODE_HS_POL (f : Nat) : Fld := ⟨(Reg.folio_TIMING_MODE f), 27, 27⟩
def R.folio_TIMING_MODE_VS_POL (f : Nat) : Fld := ⟨(Reg.folio_TIMING_MODE f), 26, 26⟩
def R.folio_TIMING_MODE_BLACK_FRAMES (f : Nat) : Fld := ⟨(Reg.folio_TIMING_MODE f), 3, 0⟩
def Reg.folio_TIMING_OFFSET (f : Nat) : Nat := 0x100320 + 0x2000 * f
def R.folio_TIMING_OFFSET_OFFSET_LINES (f : Nat) : Fld := ⟨(Reg.folio_TIMING_OFFSET f), 28, 16⟩
def R.folio_TIMING_OFFSET_OFFSET_PIX (f : Nat) : Fld := ⟨(Reg.folio_TIMING_OFFSET f), 12, 0⟩
def Reg.folio_UR_COLOUR (f : Nat) : Nat := 0x100324 + 0x2000 * f
def R.folio_UR_COLOUR_RGB (f : Nat) : Fld := ⟨(Reg.folio_UR_COLOUR f), 29, 0⟩
def Reg.folio_RASTER_STATUS (f : Nat) : Nat := 0x100500 + 0x2000 * f
def R.folio_RASTER_STATUS_STATE (f : Nat) : Fld := ⟨(Reg.folio_RASTER_STATUS f), 31, 29⟩
def R.folio_RASTER_STATUS_FIELD2 (f : Nat) : Fld := ⟨(Reg.folio_RASTER_STATUS f), 28, 28⟩
def R.folio_RASTER_STATUS_DISP_TIMED_ACTIVE (f : Nat) : Fld := ⟨(Reg.folio_RASTER_STATUS f), 27, 27⟩
def R.folio_RASTER_STATUS_LINE (f : Nat) : Fld := ⟨(Reg.folio_RASTER_STATUS f), 12, 0⟩
def Reg.folio_RASTER_PHASE (f : Nat) : Nat := 0x100504 + 0x2000 * f
def R.folio_RASTER_PHASE (f : Nat) : Fld := ⟨(Reg.folio_RASTER_PHASE f), 31, 0⟩
def Reg.folio_LINE_MATCH (f : Nat) : Nat := 0x100508 + 0x2000 * f
def R.folio_LINE_MATCH_LINE (f : Nat) : Fld := ⟨(Reg.folio_LINE_MATCH f), 12, 0⟩
def Reg.folio_UNDERRUN_LINES (f : Nat) : Nat := 0x10050C + 0x2000 * f
def R.folio_UNDERRUN_LINES (f : Nat) : Fld := ⟨(Reg.folio_UNDERRUN_LINES f), 31, 0⟩
def Reg.folio_UNDERRUN_FRAMES (f : Nat) : Nat := 0x100510 + 0x2000 * f
def R.folio_UNDERRUN_FRAMES (f : Nat) : Fld := ⟨(Reg.folio_UNDERRUN_FRAMES f), 31, 0⟩
def Reg.folio_TE_COUNT (f : Nat) : Nat := 0x100514 + 0x2000 * f
def R.folio_TE_COUNT_LATE (f : Nat) : Fld := ⟨(Reg.folio_TE_COUNT f), 31, 16⟩
def R.folio_TE_COUNT_MISS (f : Nat) : Fld := ⟨(Reg.folio_TE_COUNT f), 15, 0⟩
def Reg.folio_TE_FRAME (f : Nat) : Nat := 0x100518 + 0x2000 * f
def R.folio_TE_FRAME (f : Nat) : Fld := ⟨(Reg.folio_TE_FRAME f), 31, 0⟩
def Reg.folio_RASTER_INT_STATUS (f : Nat) : Nat := 0x100520 + 0x2000 * f
def Flag.folio_RASTER_FRAME_DONE (f : Nat) : Flg := ⟨(Reg.folio_RASTER_INT_STATUS f), 0x100528 + 0x2000 * f, 14⟩
def Flag.folio_RASTER_MODE_NAK (f : Nat) : Flg := ⟨(Reg.folio_RASTER_INT_STATUS f), 0x100528 + 0x2000 * f, 13⟩
def Flag.folio_RASTER_HOLD_FAIL (f : Nat) : Flg := ⟨(Reg.folio_RASTER_INT_STATUS f), 0x100528 + 0x2000 * f, 12⟩
def Flag.folio_RASTER_HOLD_EXIT (f : Nat) : Flg := ⟨(Reg.folio_RASTER_INT_STATUS f), 0x100528 + 0x2000 * f, 11⟩
def Flag.folio_RASTER_HOLD_ENTER (f : Nat) : Flg := ⟨(Reg.folio_RASTER_INT_STATUS f), 0x100528 + 0x2000 * f, 10⟩
def Flag.folio_RASTER_TE_LOST (f : Nat) : Flg := ⟨(Reg.folio_RASTER_INT_STATUS f), 0x100528 + 0x2000 * f, 9⟩
def Flag.folio_RASTER_DT_REFUSED (f : Nat) : Flg := ⟨(Reg.folio_RASTER_INT_STATUS f), 0x100528 + 0x2000 * f, 8⟩
def Flag.folio_RASTER_SDI_FMT_BAD (f : Nat) : Flg := ⟨(Reg.folio_RASTER_INT_STATUS f), 0x100528 + 0x2000 * f, 7⟩
def Flag.folio_RASTER_CLK_MISMATCH (f : Nat) : Flg := ⟨(Reg.folio_RASTER_INT_STATUS f), 0x100528 + 0x2000 * f, 6⟩
def Flag.folio_RASTER_SNAP_ADJUST (f : Nat) : Flg := ⟨(Reg.folio_RASTER_INT_STATUS f), 0x100528 + 0x2000 * f, 5⟩
def Flag.folio_RASTER_TIMING_CHANGED (f : Nat) : Flg := ⟨(Reg.folio_RASTER_INT_STATUS f), 0x100528 + 0x2000 * f, 4⟩
def Flag.folio_RASTER_RASTER_START (f : Nat) : Flg := ⟨(Reg.folio_RASTER_INT_STATUS f), 0x100528 + 0x2000 * f, 3⟩
def Flag.folio_RASTER_UNDERRUN (f : Nat) : Flg := ⟨(Reg.folio_RASTER_INT_STATUS f), 0x100528 + 0x2000 * f, 2⟩
def Flag.folio_RASTER_LINE_MATCH (f : Nat) : Flg := ⟨(Reg.folio_RASTER_INT_STATUS f), 0x100528 + 0x2000 * f, 1⟩
def Flag.folio_RASTER_START_OF_BLANK (f : Nat) : Flg := ⟨(Reg.folio_RASTER_INT_STATUS f), 0x100528 + 0x2000 * f, 0⟩
def Reg.folio_RASTER_INT_EN (f : Nat) : Nat := 0x100524 + 0x2000 * f
def R.folio_RASTER_INT_EN_FRAME_DONE (f : Nat) : Fld := ⟨(Reg.folio_RASTER_INT_EN f), 14, 14⟩
def R.folio_RASTER_INT_EN_MODE_NAK (f : Nat) : Fld := ⟨(Reg.folio_RASTER_INT_EN f), 13, 13⟩
def R.folio_RASTER_INT_EN_HOLD_FAIL (f : Nat) : Fld := ⟨(Reg.folio_RASTER_INT_EN f), 12, 12⟩
def R.folio_RASTER_INT_EN_HOLD_EXIT (f : Nat) : Fld := ⟨(Reg.folio_RASTER_INT_EN f), 11, 11⟩
def R.folio_RASTER_INT_EN_HOLD_ENTER (f : Nat) : Fld := ⟨(Reg.folio_RASTER_INT_EN f), 10, 10⟩
def R.folio_RASTER_INT_EN_TE_LOST (f : Nat) : Fld := ⟨(Reg.folio_RASTER_INT_EN f), 9, 9⟩
def R.folio_RASTER_INT_EN_DT_REFUSED (f : Nat) : Fld := ⟨(Reg.folio_RASTER_INT_EN f), 8, 8⟩
def R.folio_RASTER_INT_EN_SDI_FMT_BAD (f : Nat) : Fld := ⟨(Reg.folio_RASTER_INT_EN f), 7, 7⟩
def R.folio_RASTER_INT_EN_CLK_MISMATCH (f : Nat) : Fld := ⟨(Reg.folio_RASTER_INT_EN f), 6, 6⟩
def R.folio_RASTER_INT_EN_SNAP_ADJUST (f : Nat) : Fld := ⟨(Reg.folio_RASTER_INT_EN f), 5, 5⟩
def R.folio_RASTER_INT_EN_TIMING_CHANGED (f : Nat) : Fld := ⟨(Reg.folio_RASTER_INT_EN f), 4, 4⟩
def R.folio_RASTER_INT_EN_RASTER_START (f : Nat) : Fld := ⟨(Reg.folio_RASTER_INT_EN f), 3, 3⟩
def R.folio_RASTER_INT_EN_UNDERRUN (f : Nat) : Fld := ⟨(Reg.folio_RASTER_INT_EN f), 2, 2⟩
def R.folio_RASTER_INT_EN_LINE_MATCH (f : Nat) : Fld := ⟨(Reg.folio_RASTER_INT_EN f), 1, 1⟩
def R.folio_RASTER_INT_EN_START_OF_BLANK (f : Nat) : Fld := ⟨(Reg.folio_RASTER_INT_EN f), 0, 0⟩
def Reg.folio_TE_CFG (f : Nat) : Nat := 0x100700 + 0x2000 * f
def R.folio_TE_CFG_CABLE_NS (f : Nat) : Fld := ⟨(Reg.folio_TE_CFG f), 31, 16⟩
def R.folio_TE_CFG_DELAY_LINES (f : Nat) : Fld := ⟨(Reg.folio_TE_CFG f), 15, 8⟩
def R.folio_TE_CFG_TIMEOUT (f : Nat) : Fld := ⟨(Reg.folio_TE_CFG f), 3, 0⟩
def Reg.folio_HOLD_CTRL (f : Nat) : Nat := 0x100704 + 0x2000 * f
def R.folio_HOLD_CTRL_REQ (f : Nat) : Fld := ⟨(Reg.folio_HOLD_CTRL f), 31, 31⟩
def R.folio_HOLD_CTRL_AUTO (f : Nat) : Fld := ⟨(Reg.folio_HOLD_CTRL f), 30, 30⟩
def R.folio_HOLD_CTRL_HOLD_FRAMES (f : Nat) : Fld := ⟨(Reg.folio_HOLD_CTRL f), 7, 0⟩
def Reg.folio_HOLD_COUNT (f : Nat) : Nat := 0x100708 + 0x2000 * f
def R.folio_HOLD_COUNT (f : Nat) : Fld := ⟨(Reg.folio_HOLD_COUNT f), 31, 0⟩
def Reg.folio_LTR_CFG (f : Nat) : Nat := 0x10070C + 0x2000 * f
def R.folio_LTR_CFG_GUARD (f : Nat) : Fld := ⟨(Reg.folio_LTR_CFG f), 15, 0⟩
def Reg.folio_LTR_STATUS (f : Nat) : Nat := 0x100710 + 0x2000 * f
def R.folio_LTR_STATUS_TOL (f : Nat) : Fld := ⟨(Reg.folio_LTR_STATUS f), 15, 0⟩
def Reg.folio_SEAL_STATE (f : Nat) : Nat := 0x100900 + 0x2000 * f
def R.folio_SEAL_STATE_STATE (f : Nat) : Fld := ⟨(Reg.folio_SEAL_STATE f), 31, 29⟩
def R.folio_SEAL_STATE_ALARM (f : Nat) : Fld := ⟨(Reg.folio_SEAL_STATE f), 28, 28⟩
def R.folio_SEAL_STATE_CMD_ACCEPT (f : Nat) : Fld := ⟨(Reg.folio_SEAL_STATE f), 27, 27⟩
def R.folio_SEAL_STATE_REASON (f : Nat) : Fld := ⟨(Reg.folio_SEAL_STATE f), 8, 0⟩
def Reg.folio_SEAL_SHOWN_SEQ (f : Nat) : Nat := 0x100904 + 0x2000 * f
def R.folio_SEAL_SHOWN_SEQ (f : Nat) : Fld := ⟨(Reg.folio_SEAL_SHOWN_SEQ f), 31, 0⟩
def Reg.folio_SEAL_STALE_TIME (f : Nat) : Nat := 0x100908 + 0x2000 * f
def R.folio_SEAL_STALE_TIME (f : Nat) : Fld := ⟨(Reg.folio_SEAL_STALE_TIME f), 31, 0⟩
def Reg.folio_SEAL_SURF_LOADED (f : Nat) : Nat := 0x10090C + 0x2000 * f
def R.folio_SEAL_SURF_LOADED (f : Nat) : Fld := ⟨(Reg.folio_SEAL_SURF_LOADED f), 15, 0⟩
def Reg.folio_SEAL_CMD (f : Nat) (i : Nat) : Nat := 0x100940 + 0x2000 * f + 4 * i
def R.folio_SEAL_CMD (f : Nat) (i : Nat) : Fld := ⟨(Reg.folio_SEAL_CMD f i), 31, 0⟩
def Reg.folio_SEAL_INT_STATUS (f : Nat) : Nat := 0x1009C0 + 0x2000 * f
def Flag.folio_SEAL_SEAL_REFUSED (f : Nat) : Flg := ⟨(Reg.folio_SEAL_INT_STATUS f), 0x1009C8 + 0x2000 * f, 4⟩
def Flag.folio_SEAL_SEAL_APPLIED (f : Nat) : Flg := ⟨(Reg.folio_SEAL_INT_STATUS f), 0x1009C8 + 0x2000 * f, 3⟩
def Flag.folio_SEAL_SEAL_STOPPED (f : Nat) : Flg := ⟨(Reg.folio_SEAL_INT_STATUS f), 0x1009C8 + 0x2000 * f, 2⟩
def Flag.folio_SEAL_SEAL_FRESH (f : Nat) : Flg := ⟨(Reg.folio_SEAL_INT_STATUS f), 0x1009C8 + 0x2000 * f, 1⟩
def Flag.folio_SEAL_SEAL_STALE (f : Nat) : Flg := ⟨(Reg.folio_SEAL_INT_STATUS f), 0x1009C8 + 0x2000 * f, 0⟩
def Reg.folio_SEAL_INT_EN (f : Nat) : Nat := 0x1009C4 + 0x2000 * f
def R.folio_SEAL_INT_EN_SEAL_REFUSED (f : Nat) : Fld := ⟨(Reg.folio_SEAL_INT_EN f), 4, 4⟩
def R.folio_SEAL_INT_EN_SEAL_APPLIED (f : Nat) : Fld := ⟨(Reg.folio_SEAL_INT_EN f), 3, 3⟩
def R.folio_SEAL_INT_EN_SEAL_STOPPED (f : Nat) : Fld := ⟨(Reg.folio_SEAL_INT_EN f), 2, 2⟩
def R.folio_SEAL_INT_EN_SEAL_FRESH (f : Nat) : Fld := ⟨(Reg.folio_SEAL_INT_EN f), 1, 1⟩
def R.folio_SEAL_INT_EN_SEAL_STALE (f : Nat) : Fld := ⟨(Reg.folio_SEAL_INT_EN f), 0, 0⟩
def Reg.audio_CFG : Nat := 0x180000
def R.audio_CFG_IN_CH : Fld := ⟨Reg.audio_CFG, 27, 16⟩
def R.audio_CFG_OUT_CH : Fld := ⟨Reg.audio_CFG, 10, 0⟩
def Reg.audio_DELAY_MAX : Nat := 0x180004
def R.audio_DELAY_MAX : Fld := ⟨Reg.audio_DELAY_MAX, 15, 0⟩
def Reg.audio_CTRL : Nat := 0x180008
def R.audio_CTRL_FADE_LAW : Fld := ⟨Reg.audio_CTRL, 8, 8⟩
def R.audio_CTRL_FADE_MS : Fld := ⟨Reg.audio_CTRL, 6, 0⟩
def Reg.audio_BANK_CMD : Nat := 0x18000C
def R.audio_BANK_CMD_COMMIT : Fld := ⟨Reg.audio_BANK_CMD, 0, 0⟩
def Reg.audio_BANK_STATUS : Nat := 0x180010
def R.audio_BANK_STATUS_PENDING : Fld := ⟨Reg.audio_BANK_STATUS, 31, 31⟩
def R.audio_BANK_STATUS_LEFT : Fld := ⟨Reg.audio_BANK_STATUS, 10, 0⟩
def Reg.audio_INT_STATUS : Nat := 0x180020
def Flag.audio_DELAY_CLAMP : Flg := ⟨Reg.audio_INT_STATUS, 0x180028, 9⟩
def Flag.audio_NON_PCM : Flg := ⟨Reg.audio_INT_STATUS, 0x180028, 8⟩
def Flag.audio_CLIP : Flg := ⟨Reg.audio_INT_STATUS, 0x180028, 7⟩
def Flag.audio_LOST_SAMPLES : Flg := ⟨Reg.audio_INT_STATUS, 0x180028, 6⟩
def Flag.audio_SRC_RANGE : Flg := ⟨Reg.audio_INT_STATUS, 0x180028, 5⟩
def Flag.audio_SRC_UNLOCK : Flg := ⟨Reg.audio_INT_STATUS, 0x180028, 4⟩
def Flag.audio_FADE_LATE : Flg := ⟨Reg.audio_INT_STATUS, 0x180028, 3⟩
def Flag.audio_BANK_CLEARED : Flg := ⟨Reg.audio_INT_STATUS, 0x180028, 2⟩
def Flag.audio_BANK_OVERRUN : Flg := ⟨Reg.audio_INT_STATUS, 0x180028, 1⟩
def Flag.audio_BANK_DONE : Flg := ⟨Reg.audio_INT_STATUS, 0x180028, 0⟩
def Reg.audio_INT_EN : Nat := 0x180024
def R.audio_INT_EN_DELAY_CLAMP : Fld := ⟨Reg.audio_INT_EN, 9, 9⟩
def R.audio_INT_EN_NON_PCM : Fld := ⟨Reg.audio_INT_EN, 8, 8⟩
def R.audio_INT_EN_CLIP : Fld := ⟨Reg.audio_INT_EN, 7, 7⟩
def R.audio_INT_EN_LOST_SAMPLES : Fld := ⟨Reg.audio_INT_EN, 6, 6⟩
def R.audio_INT_EN_SRC_RANGE : Fld := ⟨Reg.audio_INT_EN, 5, 5⟩
def R.audio_INT_EN_SRC_UNLOCK : Fld := ⟨Reg.audio_INT_EN, 4, 4⟩
def R.audio_INT_EN_FADE_LATE : Fld := ⟨Reg.audio_INT_EN, 3, 3⟩
def R.audio_INT_EN_BANK_CLEARED : Fld := ⟨Reg.audio_INT_EN, 2, 2⟩
def R.audio_INT_EN_BANK_OVERRUN : Fld := ⟨Reg.audio_INT_EN, 1, 1⟩
def R.audio_INT_EN_BANK_DONE : Fld := ⟨Reg.audio_INT_EN, 0, 0⟩
def Reg.audio_LOST_SAMPLES : Nat := 0x180040
def R.audio_LOST_SAMPLES : Fld := ⟨Reg.audio_LOST_SAMPLES, 31, 0⟩
def Reg.audio_CLIP : Nat := 0x180044
def R.audio_CLIP : Fld := ⟨Reg.audio_CLIP, 31, 0⟩
def Reg.audio_OUT_METER (i : Nat) : Nat := 0x180800 + 4 * i
def R.audio_OUT_METER (i : Nat) : Fld := ⟨(Reg.audio_OUT_METER i), 31, 0⟩
def Reg.audio_OUT_MAP (i : Nat) : Nat := 0x181000 + 4 * i
def R.audio_OUT_MAP_EN (i : Nat) : Fld := ⟨(Reg.audio_OUT_MAP i), 31, 31⟩
def R.audio_OUT_MAP_DELAY_MODE (i : Nat) : Fld := ⟨(Reg.audio_OUT_MAP i), 30, 30⟩
def R.audio_OUT_MAP_LIP_PANE (i : Nat) : Fld := ⟨(Reg.audio_OUT_MAP i), 29, 27⟩
def R.audio_OUT_MAP_FOLIO (i : Nat) : Fld := ⟨(Reg.audio_OUT_MAP i), 26, 21⟩
def R.audio_OUT_MAP_POS (i : Nat) : Fld := ⟨(Reg.audio_OUT_MAP i), 20, 16⟩
def R.audio_OUT_MAP_DELAY_ADJ (i : Nat) : Fld := ⟨(Reg.audio_OUT_MAP i), 15, 0⟩
def Reg.audio_IN_MAP (i : Nat) : Nat := 0x182000 + 4 * i
def R.audio_IN_MAP_EN (i : Nat) : Fld := ⟨(Reg.audio_IN_MAP i), 31, 31⟩
def R.audio_IN_MAP_STREAM (i : Nat) : Fld := ⟨(Reg.audio_IN_MAP i), 30, 20⟩
def R.audio_IN_MAP_CHAN (i : Nat) : Fld := ⟨(Reg.audio_IN_MAP i), 14, 10⟩
def Reg.audio_IN_STAT (i : Nat) : Nat := 0x184000 + 4 * i
def R.audio_IN_STAT_STATE (i : Nat) : Fld := ⟨(Reg.audio_IN_STAT i), 31, 29⟩
def R.audio_IN_STAT_RATE (i : Nat) : Fld := ⟨(Reg.audio_IN_STAT i), 28, 27⟩
def R.audio_IN_STAT_RATIO (i : Nat) : Fld := ⟨(Reg.audio_IN_STAT i), 15, 0⟩
def Reg.audio_IN_METER (i : Nat) : Nat := 0x186000 + 4 * i
def R.audio_IN_METER (i : Nat) : Fld := ⟨(Reg.audio_IN_METER i), 31, 0⟩
def Reg.audio_OUT_DELAY (i : Nat) : Nat := 0x187000 + 4 * i
def R.audio_OUT_DELAY_TARGET (i : Nat) : Fld := ⟨(Reg.audio_OUT_DELAY i), 31, 16⟩
def R.audio_OUT_DELAY_CUR (i : Nat) : Fld := ⟨(Reg.audio_OUT_DELAY i), 15, 0⟩
def Reg.audio_MIX (i : Nat) : Nat := 0x188000 + 4 * i
def R.audio_MIX_EN (i : Nat) : Fld := ⟨(Reg.audio_MIX i), 31, 31⟩
def R.audio_MIX_INPUT (i : Nat) : Fld := ⟨(Reg.audio_MIX i), 30, 20⟩
def R.audio_MIX_MODE (i : Nat) : Fld := ⟨(Reg.audio_MIX i), 19, 18⟩
def R.audio_MIX_GAIN (i : Nat) : Fld := ⟨(Reg.audio_MIX i), 15, 0⟩
def Reg.marginalia_QUERY_STREAM : Nat := 0x190010
def R.marginalia_QUERY_STREAM : Fld := ⟨Reg.marginalia_QUERY_STREAM, 10, 0⟩
def Reg.marginalia_QUERY_SEQ : Nat := 0x190014
def R.marginalia_QUERY_SEQ : Fld := ⟨Reg.marginalia_QUERY_SEQ, 31, 0⟩
def Reg.marginalia_QUERY_CMD : Nat := 0x190018
def R.marginalia_QUERY_CMD_FETCH : Fld := ⟨Reg.marginalia_QUERY_CMD, 0, 0⟩
def Reg.marginalia_QUERY_RESULT : Nat := 0x19001C
def R.marginalia_QUERY_RESULT_DONE : Fld := ⟨Reg.marginalia_QUERY_RESULT, 31, 31⟩
def R.marginalia_QUERY_RESULT_STATUS : Fld := ⟨Reg.marginalia_QUERY_RESULT, 30, 16⟩
def R.marginalia_QUERY_RESULT_SEQ : Fld := ⟨Reg.marginalia_QUERY_RESULT, 15, 0⟩
def Reg.marginalia_QUERY_DATA (i : Nat) : Nat := 0x190020 + 4 * i
def R.marginalia_QUERY_DATA (i : Nat) : Fld := ⟨(Reg.marginalia_QUERY_DATA i), 31, 0⟩
def Reg.marginalia_INT_STATUS : Nat := 0x190100
def Flag.marginalia_TRACK_FULL : Flg := ⟨Reg.marginalia_INT_STATUS, 0x190108, 5⟩
def Flag.marginalia_TC_MISSING : Flg := ⟨Reg.marginalia_INT_STATUS, 0x190108, 4⟩
def Flag.marginalia_ANC_OVERFLOW : Flg := ⟨Reg.marginalia_INT_STATUS, 0x190108, 3⟩
def Flag.marginalia_META_ORPHAN : Flg := ⟨Reg.marginalia_INT_STATUS, 0x190108, 2⟩
def Flag.marginalia_META_LATE : Flg := ⟨Reg.marginalia_INT_STATUS, 0x190108, 1⟩
def Flag.marginalia_CMD_OVERRUN : Flg := ⟨Reg.marginalia_INT_STATUS, 0x190108, 0⟩
def Reg.marginalia_INT_EN : Nat := 0x190104
def R.marginalia_INT_EN_TRACK_FULL : Fld := ⟨Reg.marginalia_INT_EN, 5, 5⟩
def R.marginalia_INT_EN_TC_MISSING : Fld := ⟨Reg.marginalia_INT_EN, 4, 4⟩
def R.marginalia_INT_EN_ANC_OVERFLOW : Fld := ⟨Reg.marginalia_INT_EN, 3, 3⟩
def R.marginalia_INT_EN_META_ORPHAN : Fld := ⟨Reg.marginalia_INT_EN, 2, 2⟩
def R.marginalia_INT_EN_META_LATE : Fld := ⟨Reg.marginalia_INT_EN, 1, 1⟩
def R.marginalia_INT_EN_CMD_OVERRUN : Fld := ⟨Reg.marginalia_INT_EN, 0, 0⟩
def Reg.marginalia_ZONE_STATUS_LO : Nat := 0x190300
def R.marginalia_ZONE_STATUS_LO : Fld := ⟨Reg.marginalia_ZONE_STATUS_LO, 31, 0⟩
def Reg.marginalia_ZONE_STATUS_HI : Nat := 0x190304
def R.marginalia_ZONE_STATUS_HI : Fld := ⟨Reg.marginalia_ZONE_STATUS_HI, 31, 0⟩
def Reg.marginalia_ZONE_EN_LO : Nat := 0x190308
def R.marginalia_ZONE_EN_LO : Fld := ⟨Reg.marginalia_ZONE_EN_LO, 31, 0⟩
def Reg.marginalia_ZONE_EN_HI : Nat := 0x19030C
def R.marginalia_ZONE_EN_HI : Fld := ⟨Reg.marginalia_ZONE_EN_HI, 31, 0⟩
def Reg.marginalia_OUT_CTRL (i : Nat) : Nat := 0x191000 + 16 * i
def R.marginalia_OUT_CTRL_TC_MODE (i : Nat) : Fld := ⟨(Reg.marginalia_OUT_CTRL i), 31, 30⟩
def R.marginalia_OUT_CTRL_TC_PANE (i : Nat) : Fld := ⟨(Reg.marginalia_OUT_CTRL i), 29, 27⟩
def R.marginalia_OUT_CTRL_DF (i : Nat) : Fld := ⟨(Reg.marginalia_OUT_CTRL i), 26, 26⟩
def R.marginalia_OUT_CTRL_PASS_EN (i : Nat) : Fld := ⟨(Reg.marginalia_OUT_CTRL i), 25, 25⟩
def R.marginalia_OUT_CTRL_PASS_PANE (i : Nat) : Fld := ⟨(Reg.marginalia_OUT_CTRL i), 24, 22⟩
def R.marginalia_OUT_CTRL_FILTER_EN (i : Nat) : Fld := ⟨(Reg.marginalia_OUT_CTRL i), 21, 21⟩
def Reg.marginalia_OUT_TC_OFFSET (i : Nat) : Nat := 0x191004 + 16 * i
def R.marginalia_OUT_TC_OFFSET (i : Nat) : Fld := ⟨(Reg.marginalia_OUT_TC_OFFSET i), 16, 0⟩
def Reg.marginalia_OUT_FILTER0 (i : Nat) : Nat := 0x191008 + 16 * i
def R.marginalia_OUT_FILTER0 (i : Nat) : Fld := ⟨(Reg.marginalia_OUT_FILTER0 i), 31, 0⟩
def Reg.marginalia_OUT_FILTER1 (i : Nat) : Nat := 0x19100C + 16 * i
def R.marginalia_OUT_FILTER1 (i : Nat) : Fld := ⟨(Reg.marginalia_OUT_FILTER1 i), 31, 0⟩
def Reg.marginalia_WATCH_CTRL (i : Nat) : Nat := 0x192000 + 16 * i
def R.marginalia_WATCH_CTRL_EN (i : Nat) : Fld := ⟨(Reg.marginalia_WATCH_CTRL i), 31, 31⟩
def R.marginalia_WATCH_CTRL_STREAM (i : Nat) : Fld := ⟨(Reg.marginalia_WATCH_CTRL i), 10, 0⟩
def Reg.marginalia_WATCH_MASK_LO (i : Nat) : Nat := 0x192004 + 16 * i
def R.marginalia_WATCH_MASK_LO (i : Nat) : Fld := ⟨(Reg.marginalia_WATCH_MASK_LO i), 31, 0⟩
def Reg.marginalia_WATCH_MASK_HI (i : Nat) : Nat := 0x192008 + 16 * i
def R.marginalia_WATCH_MASK_HI (i : Nat) : Fld := ⟨(Reg.marginalia_WATCH_MASK_HI i), 31, 0⟩
def Reg.marginalia_WATCH_HIT_SEQ (i : Nat) : Nat := 0x19200C + 16 * i
def R.marginalia_WATCH_HIT_SEQ (i : Nat) : Fld := ⟨(Reg.marginalia_WATCH_HIT_SEQ i), 31, 0⟩
def Flag.marginalia_ZONE_HIT (z : Nat) : Flg := ⟨if z < 32 then 0x190300 else 0x190304, if z < 32 then 0x190310 else 0x190350, z % 32⟩
def Reg.memory_STATUS : Nat := 0x1C0000
def R.memory_STATUS_TRAINED : Fld := ⟨Reg.memory_STATUS, 31, 31⟩
def R.memory_STATUS_WARMUP : Fld := ⟨Reg.memory_STATUS, 30, 30⟩
def R.memory_STATUS_DRIFT_FULL : Fld := ⟨Reg.memory_STATUS, 29, 29⟩
def R.memory_STATUS_BAND : Fld := ⟨Reg.memory_STATUS, 28, 27⟩
def R.memory_STATUS_BAND_S1 : Fld := ⟨Reg.memory_STATUS, 26, 25⟩
def R.memory_STATUS_BAND_S0 : Fld := ⟨Reg.memory_STATUS, 24, 23⟩
def R.memory_STATUS_PD_STATE : Fld := ⟨Reg.memory_STATUS, 22, 21⟩
def Reg.memory_BAR2_WIN : Nat := 0x1C0004
def R.memory_BAR2_WIN_BASE : Fld := ⟨Reg.memory_BAR2_WIN, 18, 0⟩
def Reg.memory_SCRUB_CFG : Nat := 0x1C0008
def R.memory_SCRUB_CFG_EN : Fld := ⟨Reg.memory_SCRUB_CFG, 31, 31⟩
def R.memory_SCRUB_CFG_PERIOD_H : Fld := ⟨Reg.memory_SCRUB_CFG, 7, 0⟩
def Reg.memory_SCRUB_POS : Nat := 0x1C000C
def R.memory_SCRUB_POS_POS : Fld := ⟨Reg.memory_SCRUB_POS, 18, 0⟩
def Reg.memory_SCRUB_PASSES : Nat := 0x1C0010
def R.memory_SCRUB_PASSES : Fld := ⟨Reg.memory_SCRUB_PASSES, 31, 0⟩
def Reg.memory_PD_CFG : Nat := 0x1C0014
def R.memory_PD_CFG_LIGHT_EN : Fld := ⟨Reg.memory_PD_CFG, 31, 31⟩
def R.memory_PD_CFG_DEEP_EN : Fld := ⟨Reg.memory_PD_CFG, 30, 30⟩
def R.memory_PD_CFG_GUARD_US : Fld := ⟨Reg.memory_PD_CFG, 7, 0⟩
def Reg.memory_PD_STATUS : Nat := 0x1C0018
def R.memory_PD_STATUS_T_MIN : Fld := ⟨Reg.memory_PD_STATUS, 15, 0⟩
def Reg.memory_PD_LIGHT : Nat := 0x1C001C
def R.memory_PD_LIGHT : Fld := ⟨Reg.memory_PD_LIGHT, 31, 0⟩
def Reg.memory_PD_DEEP : Nat := 0x1C0020
def R.memory_PD_DEEP : Fld := ⟨Reg.memory_PD_DEEP, 31, 0⟩
def Reg.memory_DRIFT_CFG : Nat := 0x1C0024
def R.memory_DRIFT_CFG_MIN_WIN : Fld := ⟨Reg.memory_DRIFT_CFG, 7, 0⟩
def Reg.memory_DRIFT_STATUS : Nat := 0x1C0028
def R.memory_DRIFT_STATUS_LOW : Fld := ⟨Reg.memory_DRIFT_STATUS, 31, 0⟩
def Reg.memory_CLASS_ADMIT_CUR (i : Nat) : Nat := 0x1C0040 + 16 * i
def R.memory_CLASS_ADMIT_CUR (i : Nat) : Fld := ⟨(Reg.memory_CLASS_ADMIT_CUR i), 31, 0⟩
def Reg.memory_CLASS_USE (i : Nat) : Nat := 0x1C0044 + 16 * i
def R.memory_CLASS_USE (i : Nat) : Fld := ⟨(Reg.memory_CLASS_USE i), 31, 0⟩
def Reg.memory_CLASS_SHED_US (i : Nat) : Nat := 0x1C0048 + 16 * i
def R.memory_CLASS_SHED_US (i : Nat) : Fld := ⟨(Reg.memory_CLASS_SHED_US i), 31, 0⟩
def Reg.memory_CLASS_CFG (i : Nat) : Nat := 0x1C004C + 16 * i
def R.memory_CLASS_CFG_SHED (i : Nat) : Fld := ⟨(Reg.memory_CLASS_CFG i), 31, 31⟩
def R.memory_CLASS_CFG_WEIGHT (i : Nat) : Fld := ⟨(Reg.memory_CLASS_CFG i), 7, 0⟩
def Reg.memory_CL0_LAT_MAX : Nat := 0x1C0080
def R.memory_CL0_LAT_MAX : Fld := ⟨Reg.memory_CL0_LAT_MAX, 31, 0⟩
def Reg.memory_CL0_QFULL : Nat := 0x1C0084
def R.memory_CL0_QFULL : Fld := ⟨Reg.memory_CL0_QFULL, 31, 0⟩
def Reg.memory_CL0_EXCESS : Nat := 0x1C0088
def R.memory_CL0_EXCESS : Fld := ⟨Reg.memory_CL0_EXCESS, 31, 0⟩
def Reg.memory_ECC_CORR : Nat := 0x1C0090
def R.memory_ECC_CORR : Fld := ⟨Reg.memory_ECC_CORR, 31, 0⟩
def Reg.memory_ECC_UNCORR : Nat := 0x1C0094
def R.memory_ECC_UNCORR : Fld := ⟨Reg.memory_ECC_UNCORR, 31, 0⟩
def Reg.memory_UE_ADDR_LO : Nat := 0x1C0098
def R.memory_UE_ADDR_LO : Fld := ⟨Reg.memory_UE_ADDR_LO, 31, 0⟩
def Reg.memory_UE_ADDR_HI : Nat := 0x1C009C
def R.memory_UE_ADDR_HI_VALID : Fld := ⟨Reg.memory_UE_ADDR_HI, 31, 31⟩
def R.memory_UE_ADDR_HI_SOURCE : Fld := ⟨Reg.memory_UE_ADDR_HI, 30, 29⟩
def R.memory_UE_ADDR_HI_ADDR : Fld := ⟨Reg.memory_UE_ADDR_HI, 2, 0⟩
def Reg.memory_FW_VIOL (i : Nat) : Nat := 0x1C00A0 + 4 * i
def R.memory_FW_VIOL (i : Nat) : Fld := ⟨(Reg.memory_FW_VIOL i), 31, 0⟩
def Reg.memory_FW_LAST : Nat := 0x1C00C8
def R.memory_FW_LAST_VALID : Fld := ⟨Reg.memory_FW_LAST, 31, 31⟩
def R.memory_FW_LAST_WRITE : Fld := ⟨Reg.memory_FW_LAST, 30, 30⟩
def R.memory_FW_LAST_KIND : Fld := ⟨Reg.memory_FW_LAST, 29, 26⟩
def R.memory_FW_LAST_ADDR : Fld := ⟨Reg.memory_FW_LAST, 18, 0⟩
def Reg.memory_CTRL : Nat := 0x1C00CC
def R.memory_CTRL_CLR_CNT : Fld := ⟨Reg.memory_CTRL, 0, 0⟩
def Reg.memory_INT_STATUS : Nat := 0x1C00E0
def Flag.memory_CL0_EXCESS : Flg := ⟨Reg.memory_INT_STATUS, 0x1C00E8, 10⟩
def Flag.memory_TRAIN_FAIL : Flg := ⟨Reg.memory_INT_STATUS, 0x1C00E8, 9⟩
def Flag.memory_SCRUB_DONE : Flg := ⟨Reg.memory_INT_STATUS, 0x1C00E8, 8⟩
def Flag.memory_CL0_QFULL : Flg := ⟨Reg.memory_INT_STATUS, 0x1C00E8, 7⟩
def Flag.memory_DRIFT_MARGIN : Flg := ⟨Reg.memory_INT_STATUS, 0x1C00E8, 6⟩
def Flag.memory_FW_VIOL : Flg := ⟨Reg.memory_INT_STATUS, 0x1C00E8, 5⟩
def Flag.memory_ECC_UNCORR : Flg := ⟨Reg.memory_INT_STATUS, 0x1C00E8, 4⟩
def Flag.memory_ECC_CORR : Flg := ⟨Reg.memory_INT_STATUS, 0x1C00E8, 3⟩
def Flag.memory_WARMUP_END : Flg := ⟨Reg.memory_INT_STATUS, 0x1C00E8, 2⟩
def Flag.memory_SHED : Flg := ⟨Reg.memory_INT_STATUS, 0x1C00E8, 1⟩
def Flag.memory_BAND_CHANGE : Flg := ⟨Reg.memory_INT_STATUS, 0x1C00E8, 0⟩
def Reg.memory_INT_EN : Nat := 0x1C00E4
def R.memory_INT_EN_CL0_EXCESS : Fld := ⟨Reg.memory_INT_EN, 10, 10⟩
def R.memory_INT_EN_TRAIN_FAIL : Fld := ⟨Reg.memory_INT_EN, 9, 9⟩
def R.memory_INT_EN_SCRUB_DONE : Fld := ⟨Reg.memory_INT_EN, 8, 8⟩
def R.memory_INT_EN_CL0_QFULL : Fld := ⟨Reg.memory_INT_EN, 7, 7⟩
def R.memory_INT_EN_DRIFT_MARGIN : Fld := ⟨Reg.memory_INT_EN, 6, 6⟩
def R.memory_INT_EN_FW_VIOL : Fld := ⟨Reg.memory_INT_EN, 5, 5⟩
def R.memory_INT_EN_ECC_UNCORR : Fld := ⟨Reg.memory_INT_EN, 4, 4⟩
def R.memory_INT_EN_ECC_CORR : Fld := ⟨Reg.memory_INT_EN, 3, 3⟩
def R.memory_INT_EN_WARMUP_END : Fld := ⟨Reg.memory_INT_EN, 2, 2⟩
def R.memory_INT_EN_SHED : Fld := ⟨Reg.memory_INT_EN, 1, 1⟩
def R.memory_INT_EN_BAND_CHANGE : Fld := ⟨Reg.memory_INT_EN, 0, 0⟩
def Reg.codec_CFG (e : Nat) : Nat := 0x1A0000 + 0x800 * e
def R.codec_CFG_PRESENT (e : Nat) : Fld := ⟨(Reg.codec_CFG e), 31, 31⟩
def R.codec_CFG_ROLE (e : Nat) : Fld := ⟨(Reg.codec_CFG e), 1, 0⟩
def Reg.codec_STATUS (e : Nat) : Nat := 0x1A0004 + 0x800 * e
def R.codec_STATUS_BUSY (e : Nat) : Fld := ⟨(Reg.codec_STATUS e), 31, 31⟩
def R.codec_STATUS_JOB (e : Nat) : Fld := ⟨(Reg.codec_STATUS e), 30, 29⟩
def R.codec_STATUS_STREAM (e : Nat) : Fld := ⟨(Reg.codec_STATUS e), 10, 0⟩
def Reg.codec_JOBS (e : Nat) : Nat := 0x1A0008 + 0x800 * e
def R.codec_JOBS (e : Nat) : Fld := ⟨(Reg.codec_JOBS e), 31, 0⟩
def Reg.codec_ABANDONED (e : Nat) : Nat := 0x1A000C + 0x800 * e
def R.codec_ABANDONED (e : Nat) : Fld := ⟨(Reg.codec_ABANDONED e), 31, 0⟩
def Reg.codec_CONCEALED_SLICES (e : Nat) : Nat := 0x1A0010 + 0x800 * e
def R.codec_CONCEALED_SLICES (e : Nat) : Fld := ⟨(Reg.codec_CONCEALED_SLICES e), 31, 0⟩
def Reg.codec_POISONED (e : Nat) : Nat := 0x1A0014 + 0x800 * e
def R.codec_POISONED (e : Nat) : Fld := ⟨(Reg.codec_POISONED e), 31, 0⟩
def Reg.codec_LOAD (e : Nat) : Nat := 0x1A0018 + 0x800 * e
def R.codec_LOAD (e : Nat) : Fld := ⟨(Reg.codec_LOAD e), 15, 0⟩
def Reg.codec_HENC_CFG (e : Nat) : Nat := 0x1A0040 + 0x800 * e
def R.codec_HENC_CFG_EN (e : Nat) : Fld := ⟨(Reg.codec_HENC_CFG e), 31, 31⟩
def R.codec_HENC_CFG_BPP (e : Nat) : Fld := ⟨(Reg.codec_HENC_CFG e), 23, 16⟩
def R.codec_HENC_CFG_STREAM (e : Nat) : Fld := ⟨(Reg.codec_HENC_CFG e), 10, 0⟩
def Reg.codec_HENC_RING_BASE (e : Nat) : Nat := 0x1A0044 + 0x800 * e
def R.codec_HENC_RING_BASE (e : Nat) : Fld := ⟨(Reg.codec_HENC_RING_BASE e), 18, 0⟩
def Reg.codec_HENC_RING_SIZE (e : Nat) : Nat := 0x1A0048 + 0x800 * e
def R.codec_HENC_RING_SIZE (e : Nat) : Fld := ⟨(Reg.codec_HENC_RING_SIZE e), 18, 0⟩
def Reg.codec_HENC_WR (e : Nat) : Nat := 0x1A004C + 0x800 * e
def R.codec_HENC_WR (e : Nat) : Fld := ⟨(Reg.codec_HENC_WR e), 31, 0⟩
def Reg.codec_HENC_RD (e : Nat) : Nat := 0x1A0050 + 0x800 * e
def R.codec_HENC_RD (e : Nat) : Fld := ⟨(Reg.codec_HENC_RD e), 31, 0⟩
def Reg.codec_HENC_SKIP (e : Nat) : Nat := 0x1A0054 + 0x800 * e
def R.codec_HENC_SKIP (e : Nat) : Fld := ⟨(Reg.codec_HENC_SKIP e), 31, 0⟩
def Reg.codec_INT_STATUS (e : Nat) : Nat := 0x1A0080 + 0x800 * e
def Flag.codec_POISONED (e : Nat) : Flg := ⟨(Reg.codec_INT_STATUS e), 0x1A0088 + 0x800 * e, 3⟩
def Flag.codec_HENC_SKIP (e : Nat) : Flg := ⟨(Reg.codec_INT_STATUS e), 0x1A0088 + 0x800 * e, 2⟩
def Flag.codec_ABANDONED (e : Nat) : Flg := ⟨(Reg.codec_INT_STATUS e), 0x1A0088 + 0x800 * e, 1⟩
def Flag.codec_HENC_FRAME (e : Nat) : Flg := ⟨(Reg.codec_INT_STATUS e), 0x1A0088 + 0x800 * e, 0⟩
def Reg.codec_INT_EN (e : Nat) : Nat := 0x1A0084 + 0x800 * e
def R.codec_INT_EN_POISONED (e : Nat) : Fld := ⟨(Reg.codec_INT_EN e), 3, 3⟩
def R.codec_INT_EN_HENC_SKIP (e : Nat) : Fld := ⟨(Reg.codec_INT_EN e), 2, 2⟩
def R.codec_INT_EN_ABANDONED (e : Nat) : Fld := ⟨(Reg.codec_INT_EN e), 1, 1⟩
def R.codec_INT_EN_HENC_FRAME (e : Nat) : Fld := ⟨(Reg.codec_INT_EN e), 0, 0⟩
def Reg.cellar_CFG : Nat := 0x1B0000
def R.cellar_CFG_PRESENT : Fld := ⟨Reg.cellar_CFG, 31, 31⟩
def R.cellar_CFG_CONT_OK : Fld := ⟨Reg.cellar_CFG, 30, 30⟩
def R.cellar_CFG_CLASS : Fld := ⟨Reg.cellar_CFG, 29, 28⟩
def R.cellar_CFG_MAX_STREAMS : Fld := ⟨Reg.cellar_CFG, 8, 0⟩
def Reg.cellar_CTRL : Nat := 0x1B0004
def R.cellar_CTRL_ENABLE : Fld := ⟨Reg.cellar_CTRL, 31, 31⟩
def R.cellar_CTRL_UPLINK_PIN_EN : Fld := ⟨Reg.cellar_CTRL, 30, 30⟩
def R.cellar_CTRL_HB_BOOT : Fld := ⟨Reg.cellar_CTRL, 29, 29⟩
def R.cellar_CTRL_PROTECT : Fld := ⟨Reg.cellar_CTRL, 28, 28⟩
def R.cellar_CTRL_PROTECT_PCT : Fld := ⟨Reg.cellar_CTRL, 23, 16⟩
def R.cellar_CTRL_HB_TIMEOUT : Fld := ⟨Reg.cellar_CTRL, 15, 8⟩
def R.cellar_CTRL_INC_HOLD_S : Fld := ⟨Reg.cellar_CTRL, 7, 0⟩
def Reg.cellar_STATE : Nat := 0x1B0008
def R.cellar_STATE_STATE : Fld := ⟨Reg.cellar_STATE, 31, 28⟩
def R.cellar_STATE_UPLINK_LOST : Fld := ⟨Reg.cellar_STATE, 27, 27⟩
def R.cellar_STATE_INCIDENT : Fld := ⟨Reg.cellar_STATE, 26, 26⟩
def R.cellar_STATE_CONTINUOUS : Fld := ⟨Reg.cellar_STATE, 25, 25⟩
def R.cellar_STATE_SIG_MODE : Fld := ⟨Reg.cellar_STATE, 24, 22⟩
def R.cellar_STATE_DSM : Fld := ⟨Reg.cellar_STATE, 21, 21⟩
def R.cellar_STATE_RECORDING : Fld := ⟨Reg.cellar_STATE, 8, 0⟩
def Reg.cellar_HEARTBEAT : Nat := 0x1B000C
def R.cellar_HEARTBEAT : Fld := ⟨Reg.cellar_HEARTBEAT, 31, 0⟩
def Reg.cellar_INCIDENT_CMD : Nat := 0x1B0010
def R.cellar_INCIDENT_CMD_SET : Fld := ⟨Reg.cellar_INCIDENT_CMD, 31, 31⟩
def R.cellar_INCIDENT_CMD_CLEAR : Fld := ⟨Reg.cellar_INCIDENT_CMD, 30, 30⟩
def Reg.cellar_INC_GPIO : Nat := 0x1B0014
def R.cellar_INC_GPIO : Fld := ⟨Reg.cellar_INC_GPIO, 31, 0⟩
def Reg.cellar_INC_EVENT : Nat := 0x1B0018
def R.cellar_INC_EVENT : Fld := ⟨Reg.cellar_INC_EVENT, 4, 0⟩
def Reg.cellar_CMD : Nat := 0x1B0020
def R.cellar_CMD_OP : Fld := ⟨Reg.cellar_CMD, 3, 0⟩
def Reg.cellar_RESULT : Nat := 0x1B0024
def R.cellar_RESULT_DONE : Fld := ⟨Reg.cellar_RESULT, 31, 31⟩
def R.cellar_RESULT_STATUS : Fld := ⟨Reg.cellar_RESULT, 30, 16⟩
def R.cellar_RESULT_SEQ : Fld := ⟨Reg.cellar_RESULT, 15, 0⟩
def Reg.cellar_RESULT_INFO : Nat := 0x1B0028
def R.cellar_RESULT_INFO : Fld := ⟨Reg.cellar_RESULT_INFO, 31, 0⟩
def Reg.cellar_ARG_GSEQ_LO : Nat := 0x1B0030
def R.cellar_ARG_GSEQ_LO : Fld := ⟨Reg.cellar_ARG_GSEQ_LO, 31, 0⟩
def Reg.cellar_ARG_GSEQ_HI : Nat := 0x1B0034
def R.cellar_ARG_GSEQ_HI : Fld := ⟨Reg.cellar_ARG_GSEQ_HI, 31, 0⟩
def Reg.cellar_ARG_ADDR_LO : Nat := 0x1B0038
def R.cellar_ARG_ADDR_LO : Fld := ⟨Reg.cellar_ARG_ADDR_LO, 31, 0⟩
def Reg.cellar_ARG_ADDR_HI : Nat := 0x1B003C
def R.cellar_ARG_ADDR_HI : Fld := ⟨Reg.cellar_ARG_ADDR_HI, 31, 0⟩
def Reg.cellar_ARG_LEN : Nat := 0x1B0040
def R.cellar_ARG_LEN : Fld := ⟨Reg.cellar_ARG_LEN, 31, 0⟩
def Reg.cellar_FMT_CFG : Nat := 0x1B0044
def R.cellar_FMT_CFG_EXTENT_MIB : Fld := ⟨Reg.cellar_FMT_CFG, 31, 16⟩
def R.cellar_FMT_CFG_DIR_4K : Fld := ⟨Reg.cellar_FMT_CFG, 15, 0⟩
def Reg.cellar_REC_MAP (i : Nat) : Nat := 0x1B0050 + 4 * i
def R.cellar_REC_MAP (i : Nat) : Fld := ⟨(Reg.cellar_REC_MAP i), 31, 0⟩
def Reg.cellar_DRIVE_CB_LO : Nat := 0x1B0080
def R.cellar_DRIVE_CB_LO : Fld := ⟨Reg.cellar_DRIVE_CB_LO, 31, 0⟩
def Reg.cellar_DRIVE_CB_HI : Nat := 0x1B0084
def R.cellar_DRIVE_CB_HI : Fld := ⟨Reg.cellar_DRIVE_CB_HI, 31, 0⟩
def Reg.cellar_EXTENTS : Nat := 0x1B0088
def R.cellar_EXTENTS : Fld := ⟨Reg.cellar_EXTENTS, 31, 0⟩
def Reg.cellar_PROTECT_EXT : Nat := 0x1B008C
def R.cellar_PROTECT_EXT : Fld := ⟨Reg.cellar_PROTECT_EXT, 31, 0⟩
def Reg.cellar_NEXT_GSEQ_LO : Nat := 0x1B0090
def R.cellar_NEXT_GSEQ_LO : Fld := ⟨Reg.cellar_NEXT_GSEQ_LO, 31, 0⟩
def Reg.cellar_NEXT_GSEQ_HI : Nat := 0x1B0094
def R.cellar_NEXT_GSEQ_HI : Fld := ⟨Reg.cellar_NEXT_GSEQ_HI, 31, 0⟩
def Reg.cellar_OLDEST_GSEQ_LO : Nat := 0x1B0098
def R.cellar_OLDEST_GSEQ_LO : Fld := ⟨Reg.cellar_OLDEST_GSEQ_LO, 31, 0⟩
def Reg.cellar_OLDEST_GSEQ_HI : Nat := 0x1B009C
def R.cellar_OLDEST_GSEQ_HI : Fld := ⟨Reg.cellar_OLDEST_GSEQ_HI, 31, 0⟩
def Reg.cellar_RING_PENDING : Nat := 0x1B00A0
def R.cellar_RING_PENDING : Fld := ⟨Reg.cellar_RING_PENDING, 31, 0⟩
def Reg.cellar_SEGMENTS : Nat := 0x1B00B0
def R.cellar_SEGMENTS : Fld := ⟨Reg.cellar_SEGMENTS, 31, 0⟩
def Reg.cellar_GAP_FRAMES : Nat := 0x1B00B4
def R.cellar_GAP_FRAMES : Fld := ⟨Reg.cellar_GAP_FRAMES, 31, 0⟩
def Reg.cellar_SUSPENDS : Nat := 0x1B00B8
def R.cellar_SUSPENDS : Fld := ⟨Reg.cellar_SUSPENDS, 31, 0⟩
def Reg.cellar_DRIVE_ERRORS : Nat := 0x1B00BC
def R.cellar_DRIVE_ERRORS : Fld := ⟨Reg.cellar_DRIVE_ERRORS, 31, 0⟩
def Reg.cellar_UNSIGNED : Nat := 0x1B00C0
def R.cellar_UNSIGNED : Fld := ⟨Reg.cellar_UNSIGNED, 31, 0⟩
def Reg.cellar_PROTECT_REFUSED : Nat := 0x1B00C4
def R.cellar_PROTECT_REFUSED : Fld := ⟨Reg.cellar_PROTECT_REFUSED, 31, 0⟩
def Reg.cellar_INT_STATUS : Nat := 0x1B00E0
def Flag.cellar_CMD_DONE : Flg := ⟨Reg.cellar_INT_STATUS, 0x1B00E8, 10⟩
def Flag.cellar_CMD_OVERRUN : Flg := ⟨Reg.cellar_INT_STATUS, 0x1B00E8, 9⟩
def Flag.cellar_RECOVERED : Flg := ⟨Reg.cellar_INT_STATUS, 0x1B00E8, 8⟩
def Flag.cellar_PROTECT_REFUSED : Flg := ⟨Reg.cellar_INT_STATUS, 0x1B00E8, 7⟩
def Flag.cellar_SIGN_MODE : Flg := ⟨Reg.cellar_INT_STATUS, 0x1B00E8, 6⟩
def Flag.cellar_DRIVE_ERROR : Flg := ⟨Reg.cellar_INT_STATUS, 0x1B00E8, 5⟩
def Flag.cellar_SUSPEND : Flg := ⟨Reg.cellar_INT_STATUS, 0x1B00E8, 4⟩
def Flag.cellar_INCIDENT : Flg := ⟨Reg.cellar_INT_STATUS, 0x1B00E8, 3⟩
def Flag.cellar_UPLINK_BACK : Flg := ⟨Reg.cellar_INT_STATUS, 0x1B00E8, 2⟩
def Flag.cellar_UPLINK_LOST : Flg := ⟨Reg.cellar_INT_STATUS, 0x1B00E8, 1⟩
def Flag.cellar_STATE_CHANGE : Flg := ⟨Reg.cellar_INT_STATUS, 0x1B00E8, 0⟩
def Reg.cellar_INT_EN : Nat := 0x1B00E4
def R.cellar_INT_EN_CMD_DONE : Fld := ⟨Reg.cellar_INT_EN, 10, 10⟩
def R.cellar_INT_EN_CMD_OVERRUN : Fld := ⟨Reg.cellar_INT_EN, 9, 9⟩
def R.cellar_INT_EN_RECOVERED : Fld := ⟨Reg.cellar_INT_EN, 8, 8⟩
def R.cellar_INT_EN_PROTECT_REFUSED : Fld := ⟨Reg.cellar_INT_EN, 7, 7⟩
def R.cellar_INT_EN_SIGN_MODE : Fld := ⟨Reg.cellar_INT_EN, 6, 6⟩
def R.cellar_INT_EN_DRIVE_ERROR : Fld := ⟨Reg.cellar_INT_EN, 5, 5⟩
def R.cellar_INT_EN_SUSPEND : Fld := ⟨Reg.cellar_INT_EN, 4, 4⟩
def R.cellar_INT_EN_INCIDENT : Fld := ⟨Reg.cellar_INT_EN, 3, 3⟩
def R.cellar_INT_EN_UPLINK_BACK : Fld := ⟨Reg.cellar_INT_EN, 2, 2⟩
def R.cellar_INT_EN_UPLINK_LOST : Fld := ⟨Reg.cellar_INT_EN, 1, 1⟩
def R.cellar_INT_EN_STATE_CHANGE : Fld := ⟨Reg.cellar_INT_EN, 0, 0⟩
def Reg.cellar_DIR_HDR : Nat := 0x1B0100
def R.cellar_DIR_HDR_VALID : Fld := ⟨Reg.cellar_DIR_HDR, 31, 31⟩
def Reg.cellar_DIR_DATA (i : Nat) : Nat := 0x1B0104 + 4 * i
def R.cellar_DIR_DATA (i : Nat) : Fld := ⟨(Reg.cellar_DIR_DATA i), 31, 0⟩
def Reg.cellar_DIR_CURSOR_LO : Nat := 0x1B01C0
def R.cellar_DIR_CURSOR_LO : Fld := ⟨Reg.cellar_DIR_CURSOR_LO, 31, 0⟩
def Reg.cellar_DIR_CURSOR_HI : Nat := 0x1B01C4
def R.cellar_DIR_CURSOR_HI : Fld := ⟨Reg.cellar_DIR_CURSOR_HI, 31, 0⟩
def Reg.cellar_ENTRY_CTRL (i : Nat) : Nat := 0x1B1000 + 32 * i
def R.cellar_ENTRY_CTRL_EN (i : Nat) : Fld := ⟨(Reg.cellar_ENTRY_CTRL i), 31, 31⟩
def R.cellar_ENTRY_CTRL_TRIG (i : Nat) : Fld := ⟨(Reg.cellar_ENTRY_CTRL i), 30, 28⟩
def R.cellar_ENTRY_CTRL_META (i : Nat) : Fld := ⟨(Reg.cellar_ENTRY_CTRL i), 27, 27⟩
def R.cellar_ENTRY_CTRL_FRAME_DIV (i : Nat) : Fld := ⟨(Reg.cellar_ENTRY_CTRL i), 26, 24⟩
def R.cellar_ENTRY_CTRL_SEG_S (i : Nat) : Fld := ⟨(Reg.cellar_ENTRY_CTRL i), 23, 20⟩
def R.cellar_ENTRY_CTRL_PREROLL_S (i : Nat) : Fld := ⟨(Reg.cellar_ENTRY_CTRL i), 19, 12⟩
def R.cellar_ENTRY_CTRL_POST_S (i : Nat) : Fld := ⟨(Reg.cellar_ENTRY_CTRL i), 11, 4⟩
def Reg.cellar_ENTRY_SRC (i : Nat) : Nat := 0x1B1004 + 32 * i
def R.cellar_ENTRY_SRC_BPP (i : Nat) : Fld := ⟨(Reg.cellar_ENTRY_SRC i), 31, 24⟩
def R.cellar_ENTRY_SRC_STREAM (i : Nat) : Fld := ⟨(Reg.cellar_ENTRY_SRC i), 10, 0⟩
def Reg.cellar_ENTRY_AUDIO (i : Nat) : Nat := 0x1B1008 + 32 * i
def R.cellar_ENTRY_AUDIO_COUNT (i : Nat) : Fld := ⟨(Reg.cellar_ENTRY_AUDIO i), 31, 27⟩
def R.cellar_ENTRY_AUDIO_FIRST (i : Nat) : Fld := ⟨(Reg.cellar_ENTRY_AUDIO i), 10, 0⟩
def Reg.cellar_ENTRY_STATUS (i : Nat) : Nat := 0x1B100C + 32 * i
def R.cellar_ENTRY_STATUS_STATE (i : Nat) : Fld := ⟨(Reg.cellar_ENTRY_STATUS i), 31, 29⟩
def R.cellar_ENTRY_STATUS_INCIDENT_SEG (i : Nat) : Fld := ⟨(Reg.cellar_ENTRY_STATUS i), 28, 28⟩
def Reg.cellar_ENTRY_FRAMES (i : Nat) : Nat := 0x1B1010 + 32 * i
def R.cellar_ENTRY_FRAMES (i : Nat) : Fld := ⟨(Reg.cellar_ENTRY_FRAMES i), 31, 0⟩
def Reg.cellar_ENTRY_GAPS (i : Nat) : Nat := 0x1B1014 + 32 * i
def R.cellar_ENTRY_GAPS (i : Nat) : Fld := ⟨(Reg.cellar_ENTRY_GAPS i), 31, 0⟩
def Reg.cellar_ENTRY_LAST_GSEQ (i : Nat) : Nat := 0x1B1018 + 32 * i
def R.cellar_ENTRY_LAST_GSEQ (i : Nat) : Fld := ⟨(Reg.cellar_ENTRY_LAST_GSEQ i), 31, 0⟩
def Reg.hostif_LINK : Nat := 0x200000
def R.hostif_LINK_GEN : Fld := ⟨Reg.hostif_LINK, 31, 28⟩
def R.hostif_LINK_WIDTH : Fld := ⟨Reg.hostif_LINK, 27, 24⟩
def R.hostif_LINK_BME : Fld := ⟨Reg.hostif_LINK, 23, 23⟩
def R.hostif_LINK_MSIX_EN : Fld := ⟨Reg.hostif_LINK, 22, 22⟩
def Reg.hostif_BAR2_LOG2 : Nat := 0x200004
def R.hostif_BAR2_LOG2 : Fld := ⟨Reg.hostif_BAR2_LOG2, 5, 0⟩
def Reg.hostif_RESETS : Nat := 0x200008
def R.hostif_RESETS_HOT : Fld := ⟨Reg.hostif_RESETS, 31, 16⟩
def R.hostif_RESETS_FLR : Fld := ⟨Reg.hostif_RESETS, 15, 0⟩
def Reg.hostif_ICX_QOS : Nat := 0x2000C0
def R.hostif_ICX_QOS_M4 : Fld := ⟨Reg.hostif_ICX_QOS, 19, 18⟩
def R.hostif_ICX_QOS_M3 : Fld := ⟨Reg.hostif_ICX_QOS, 17, 16⟩
def R.hostif_ICX_QOS_M2 : Fld := ⟨Reg.hostif_ICX_QOS, 15, 14⟩
def R.hostif_ICX_QOS_M1 : Fld := ⟨Reg.hostif_ICX_QOS, 13, 12⟩
def R.hostif_ICX_QOS_M0 : Fld := ⟨Reg.hostif_ICX_QOS, 11, 10⟩
def Reg.hostif_ICX_ERR : Nat := 0x2000C4
def R.hostif_ICX_ERR_VALID : Fld := ⟨Reg.hostif_ICX_ERR, 31, 31⟩
def R.hostif_ICX_ERR_TIMEOUT : Fld := ⟨Reg.hostif_ICX_ERR, 30, 30⟩
def R.hostif_ICX_ERR_MASTER : Fld := ⟨Reg.hostif_ICX_ERR, 29, 27⟩
def R.hostif_ICX_ERR_WRITE : Fld := ⟨Reg.hostif_ICX_ERR, 26, 26⟩
def Reg.hostif_ICX_ERR_ADDR : Nat := 0x2000C8
def R.hostif_ICX_ERR_ADDR : Fld := ⟨Reg.hostif_ICX_ERR_ADDR, 31, 0⟩
def Reg.hostif_BURST_RESCUES : Nat := 0x2000D0
def R.hostif_BURST_RESCUES : Fld := ⟨Reg.hostif_BURST_RESCUES, 31, 0⟩
def Reg.hostif_CTRL : Nat := 0x2000DC
def R.hostif_CTRL_CLR_CNT : Fld := ⟨Reg.hostif_CTRL, 0, 0⟩
def Reg.hostif_INT_STATUS : Nat := 0x2000E0
def Flag.hostif_BURST_RESCUE : Flg := ⟨Reg.hostif_INT_STATUS, 0x2000E8, 9⟩
def Flag.hostif_ICX_ERR : Flg := ⟨Reg.hostif_INT_STATUS, 0x2000E8, 8⟩
def Flag.hostif_DMA_ERROR (i : Nat) : Flg := ⟨Reg.hostif_INT_STATUS, 0x2000E8, 4 + i⟩
def Flag.hostif_DESC_DONE (i : Nat) : Flg := ⟨Reg.hostif_INT_STATUS, 0x2000E8, 0 + i⟩
def Reg.hostif_INT_EN : Nat := 0x2000E4
def R.hostif_INT_EN_BURST_RESCUE : Fld := ⟨Reg.hostif_INT_EN, 9, 9⟩
def R.hostif_INT_EN_ICX_ERR : Fld := ⟨Reg.hostif_INT_EN, 8, 8⟩
def R.hostif_INT_EN_DMA_ERROR : Fld := ⟨Reg.hostif_INT_EN, 7, 4⟩
def R.hostif_INT_EN_DESC_DONE : Fld := ⟨Reg.hostif_INT_EN, 3, 0⟩
def Reg.hostif_DMA_CTRL (i : Nat) : Nat := 0x200100 + 64 * i
def R.hostif_DMA_CTRL_ENABLE (i : Nat) : Fld := ⟨(Reg.hostif_DMA_CTRL i), 31, 31⟩
def R.hostif_DMA_CTRL_RESET (i : Nat) : Fld := ⟨(Reg.hostif_DMA_CTRL i), 30, 30⟩
def R.hostif_DMA_CTRL_RING_LOG2 (i : Nat) : Fld := ⟨(Reg.hostif_DMA_CTRL i), 3, 0⟩
def Reg.hostif_DMA_RING_LO (i : Nat) : Nat := 0x200104 + 64 * i
def R.hostif_DMA_RING_LO (i : Nat) : Fld := ⟨(Reg.hostif_DMA_RING_LO i), 31, 0⟩
def Reg.hostif_DMA_RING_HI (i : Nat) : Nat := 0x200108 + 64 * i
def R.hostif_DMA_RING_HI (i : Nat) : Fld := ⟨(Reg.hostif_DMA_RING_HI i), 31, 0⟩
def Reg.hostif_DMA_TAIL (i : Nat) : Nat := 0x20010C + 64 * i
def R.hostif_DMA_TAIL (i : Nat) : Fld := ⟨(Reg.hostif_DMA_TAIL i), 12, 0⟩
def Reg.hostif_DMA_HEAD (i : Nat) : Nat := 0x200110 + 64 * i
def R.hostif_DMA_HEAD (i : Nat) : Fld := ⟨(Reg.hostif_DMA_HEAD i), 12, 0⟩
def Reg.hostif_DMA_STATUS (i : Nat) : Nat := 0x200114 + 64 * i
def R.hostif_DMA_STATUS_STATE (i : Nat) : Fld := ⟨(Reg.hostif_DMA_STATUS i), 31, 29⟩
def R.hostif_DMA_STATUS_ERR (i : Nat) : Fld := ⟨(Reg.hostif_DMA_STATUS i), 28, 24⟩
def Reg.hostif_DMA_DESCS (i : Nat) : Nat := 0x200118 + 64 * i
def R.hostif_DMA_DESCS (i : Nat) : Fld := ⟨(Reg.hostif_DMA_DESCS i), 31, 0⟩
def Reg.hostif_IRQ_ROUTE (i : Nat) : Nat := 0x201000 + 4 * i
def R.hostif_IRQ_ROUTE_EN (i : Nat) : Fld := ⟨(Reg.hostif_IRQ_ROUTE i), 31, 31⟩
def R.hostif_IRQ_ROUTE_VECTOR (i : Nat) : Fld := ⟨(Reg.hostif_IRQ_ROUTE i), 7, 0⟩
def Reg.hostif_IRQ_PEND (i : Nat) : Nat := 0x201800 + 4 * i
def R.hostif_IRQ_PEND (i : Nat) : Fld := ⟨(Reg.hostif_IRQ_PEND i), 31, 0⟩
def Reg.hostif_VEC_CFG (i : Nat) : Nat := 0x202000 + 4 * i
def R.hostif_VEC_CFG_AUTO_REARM (i : Nat) : Fld := ⟨(Reg.hostif_VEC_CFG i), 31, 31⟩
def R.hostif_VEC_CFG_ARMED (i : Nat) : Fld := ⟨(Reg.hostif_VEC_CFG i), 30, 30⟩
def R.hostif_VEC_CFG_HOLDOFF_US (i : Nat) : Fld := ⟨(Reg.hostif_VEC_CFG i), 15, 0⟩
def Reg.hostif_VEC_EOI : Nat := 0x202400
def R.hostif_VEC_EOI : Fld := ⟨Reg.hostif_VEC_EOI, 7, 0⟩
def Reg.hostif_STREAM_PEND (i : Nat) : Nat := 0x203000 + 4 * i
def R.hostif_STREAM_PEND (i : Nat) : Fld := ⟨(Reg.hostif_STREAM_PEND i), 15, 0⟩
def Reg.hostif_MSIX_ADDR_LO (i : Nat) : Nat := 0x208000 + 16 * i
def R.hostif_MSIX_ADDR_LO (i : Nat) : Fld := ⟨(Reg.hostif_MSIX_ADDR_LO i), 31, 0⟩
def Reg.hostif_MSIX_ADDR_HI (i : Nat) : Nat := 0x208004 + 16 * i
def R.hostif_MSIX_ADDR_HI (i : Nat) : Fld := ⟨(Reg.hostif_MSIX_ADDR_HI i), 31, 0⟩
def Reg.hostif_MSIX_DATA (i : Nat) : Nat := 0x208008 + 16 * i
def R.hostif_MSIX_DATA (i : Nat) : Fld := ⟨(Reg.hostif_MSIX_DATA i), 31, 0⟩
def Reg.hostif_MSIX_VCTRL (i : Nat) : Nat := 0x20800C + 16 * i
def R.hostif_MSIX_VCTRL_MASK (i : Nat) : Fld := ⟨(Reg.hostif_MSIX_VCTRL i), 0, 0⟩
def Reg.hostif_MSIX_PBA (i : Nat) : Nat := 0x209000 + 4 * i
def R.hostif_MSIX_PBA (i : Nat) : Fld := ⟨(Reg.hostif_MSIX_PBA i), 31, 0⟩
def Reg.sysif_GPIO_IN : Nat := 0x210000
def R.sysif_GPIO_IN : Fld := ⟨Reg.sysif_GPIO_IN, 31, 0⟩
def Reg.sysif_GPIO_OUT : Nat := 0x210004
def R.sysif_GPIO_OUT : Fld := ⟨Reg.sysif_GPIO_OUT, 31, 0⟩
def Reg.sysif_GPIO_CFG (i : Nat) : Nat := 0x210100 + 4 * i
def R.sysif_GPIO_CFG_FUNC (i : Nat) : Fld := ⟨(Reg.sysif_GPIO_CFG i), 31, 30⟩
def R.sysif_GPIO_CFG_POL (i : Nat) : Fld := ⟨(Reg.sysif_GPIO_CFG i), 29, 29⟩
def R.sysif_GPIO_CFG_OD (i : Nat) : Fld := ⟨(Reg.sysif_GPIO_CFG i), 28, 28⟩
def R.sysif_GPIO_CFG_DEBOUNCE_MS (i : Nat) : Fld := ⟨(Reg.sysif_GPIO_CFG i), 27, 24⟩
def R.sysif_GPIO_CFG_TALLY_FOLIO (i : Nat) : Fld := ⟨(Reg.sysif_GPIO_CFG i), 23, 18⟩
def R.sysif_GPIO_CFG_TALLY_PANE (i : Nat) : Fld := ⟨(Reg.sysif_GPIO_CFG i), 17, 15⟩
def R.sysif_GPIO_CFG_TALLY_STREAM (i : Nat) : Fld := ⟨(Reg.sysif_GPIO_CFG i), 10, 0⟩
def Reg.sysif_SMB_CFG : Nat := 0x210200
def R.sysif_SMB_CFG_ADDR : Fld := ⟨Reg.sysif_SMB_CFG, 6, 0⟩
def Reg.sysif_PMB_DEV (i : Nat) : Nat := 0x210210 + 4 * i
def R.sysif_PMB_DEV_EN (i : Nat) : Fld := ⟨(Reg.sysif_PMB_DEV i), 31, 31⟩
def R.sysif_PMB_DEV_ABSENT (i : Nat) : Fld := ⟨(Reg.sysif_PMB_DEV i), 30, 30⟩
def R.sysif_PMB_DEV_ADDR (i : Nat) : Fld := ⟨(Reg.sysif_PMB_DEV i), 6, 0⟩
def Reg.sysif_PMB_VAL (i : Nat) : Nat := 0x210240 + 8 * i
def R.sysif_PMB_VAL_VOUT (i : Nat) : Fld := ⟨(Reg.sysif_PMB_VAL i), 31, 16⟩
def R.sysif_PMB_VAL_IOUT (i : Nat) : Fld := ⟨(Reg.sysif_PMB_VAL i), 15, 0⟩
def Reg.sysif_PMB_TEMP (i : Nat) : Nat := 0x210244 + 8 * i
def R.sysif_PMB_TEMP (i : Nat) : Fld := ⟨(Reg.sysif_PMB_TEMP i), 15, 0⟩
def Reg.sysif_FLASH_CMD : Nat := 0x210300
def R.sysif_FLASH_CMD_OP : Fld := ⟨Reg.sysif_FLASH_CMD, 31, 30⟩
def R.sysif_FLASH_CMD_ADDR : Fld := ⟨Reg.sysif_FLASH_CMD, 27, 0⟩
def Reg.sysif_FLASH_LEN : Nat := 0x210304
def R.sysif_FLASH_LEN : Fld := ⟨Reg.sysif_FLASH_LEN, 8, 0⟩
def Reg.sysif_FLASH_RESULT : Nat := 0x210308
def R.sysif_FLASH_RESULT_DONE : Fld := ⟨Reg.sysif_FLASH_RESULT, 31, 31⟩
def R.sysif_FLASH_RESULT_STATUS : Fld := ⟨Reg.sysif_FLASH_RESULT, 30, 16⟩
def R.sysif_FLASH_RESULT_SEQ : Fld := ⟨Reg.sysif_FLASH_RESULT, 15, 0⟩
def Reg.sysif_FLASH_CFG : Nat := 0x21030C
def R.sysif_FLASH_CFG_WP_64K : Fld := ⟨Reg.sysif_FLASH_CFG, 0, 0⟩
def Reg.sysif_INT_STATUS : Nat := 0x210340
def Flag.sysif_CMD_OVERRUN : Flg := ⟨Reg.sysif_INT_STATUS, 0x210348, 3⟩
def Flag.sysif_FLASH_DONE : Flg := ⟨Reg.sysif_INT_STATUS, 0x210348, 2⟩
def Flag.sysif_PMB_ABSENT : Flg := ⟨Reg.sysif_INT_STATUS, 0x210348, 1⟩
def Flag.sysif_GPIO_EDGE : Flg := ⟨Reg.sysif_INT_STATUS, 0x210348, 0⟩
def Reg.sysif_INT_EN : Nat := 0x210344
def R.sysif_INT_EN_CMD_OVERRUN : Fld := ⟨Reg.sysif_INT_EN, 3, 3⟩
def R.sysif_INT_EN_FLASH_DONE : Fld := ⟨Reg.sysif_INT_EN, 2, 2⟩
def R.sysif_INT_EN_PMB_ABSENT : Fld := ⟨Reg.sysif_INT_EN, 1, 1⟩
def R.sysif_INT_EN_GPIO_EDGE : Fld := ⟨Reg.sysif_INT_EN, 0, 0⟩
def Reg.sysif_FLASH_BUF (i : Nat) : Nat := 0x210400 + 4 * i
def R.sysif_FLASH_BUF (i : Nat) : Fld := ⟨(Reg.sysif_FLASH_BUF i), 31, 0⟩
def Reg.strongroom_STATE : Nat := 0x1D0000
def R.strongroom_STATE_LIFECYCLE : Fld := ⟨Reg.strongroom_STATE, 31, 29⟩
def R.strongroom_STATE_DEBUG : Fld := ⟨Reg.strongroom_STATE, 28, 27⟩
def R.strongroom_STATE_ROOT_STATE : Fld := ⟨Reg.strongroom_STATE, 26, 25⟩
def R.strongroom_STATE_ZERO_CAUSE : Fld := ⟨Reg.strongroom_STATE, 24, 22⟩
def R.strongroom_STATE_TAMPERED : Fld := ⟨Reg.strongroom_STATE, 21, 21⟩
def R.strongroom_STATE_LIST_OK : Fld := ⟨Reg.strongroom_STATE, 20, 20⟩
def R.strongroom_STATE_HOST_SLOTS : Fld := ⟨Reg.strongroom_STATE, 19, 19⟩
def R.strongroom_STATE_SEAL_ACCEPT : Fld := ⟨Reg.strongroom_STATE, 18, 18⟩
def R.strongroom_STATE_ATTEST_OK : Fld := ⟨Reg.strongroom_STATE, 17, 17⟩
def R.strongroom_STATE_SIG_MODE : Fld := ⟨Reg.strongroom_STATE, 16, 14⟩
def Reg.strongroom_ROOT_GEN : Nat := 0x1D0004
def R.strongroom_ROOT_GEN : Fld := ⟨Reg.strongroom_ROOT_GEN, 31, 0⟩
def Reg.strongroom_LIFE_CLOCK : Nat := 0x1D0008
def R.strongroom_LIFE_CLOCK : Fld := ⟨Reg.strongroom_LIFE_CLOCK, 31, 0⟩
def Reg.strongroom_FUSE_INFO : Nat := 0x1D000C
def R.strongroom_FUSE_INFO_LC_COUNT : Fld := ⟨Reg.strongroom_FUSE_INFO, 20, 16⟩
def R.strongroom_FUSE_INFO_OWNER_REVOKED : Fld := ⟨Reg.strongroom_FUSE_INFO, 15, 12⟩
def R.strongroom_FUSE_INFO_OWNER_PROG : Fld := ⟨Reg.strongroom_FUSE_INFO, 11, 8⟩
def R.strongroom_FUSE_INFO_SVN_FUSE : Fld := ⟨Reg.strongroom_FUSE_INFO, 6, 0⟩
def Reg.strongroom_DEVICE_UID (i : Nat) : Nat := 0x1D0010 + 4 * i
def R.strongroom_DEVICE_UID (i : Nat) : Fld := ⟨(Reg.strongroom_DEVICE_UID i), 31, 0⟩
def Reg.strongroom_CMD : Nat := 0x1D0020
def R.strongroom_CMD_OP : Fld := ⟨Reg.strongroom_CMD, 7, 0⟩
def Reg.strongroom_RESULT : Nat := 0x1D0024
def R.strongroom_RESULT_DONE : Fld := ⟨Reg.strongroom_RESULT, 31, 31⟩
def R.strongroom_RESULT_STATUS : Fld := ⟨Reg.strongroom_RESULT, 30, 16⟩
def R.strongroom_RESULT_SEQ : Fld := ⟨Reg.strongroom_RESULT, 15, 0⟩
def Reg.strongroom_RESULT_INFO : Nat := 0x1D0028
def R.strongroom_RESULT_INFO : Fld := ⟨Reg.strongroom_RESULT_INFO, 31, 0⟩
def Reg.strongroom_CMD_ARG : Nat := 0x1D002C
def R.strongroom_CMD_ARG_KIND : Fld := ⟨Reg.strongroom_CMD_ARG, 31, 30⟩
def R.strongroom_CMD_ARG_SLOT : Fld := ⟨Reg.strongroom_CMD_ARG, 28, 24⟩
def R.strongroom_CMD_ARG_PARENT : Fld := ⟨Reg.strongroom_CMD_ARG, 23, 18⟩
def R.strongroom_CMD_ARG_MEAS : Fld := ⟨Reg.strongroom_CMD_ARG, 17, 14⟩
def R.strongroom_CMD_ARG_LEN : Fld := ⟨Reg.strongroom_CMD_ARG, 9, 0⟩
def Reg.strongroom_TAMPER_CFG : Nat := 0x1D0030
def R.strongroom_TAMPER_CFG_LXO_STOP_EN : Fld := ⟨Reg.strongroom_TAMPER_CFG, 16, 16⟩
def R.strongroom_TAMPER_CFG_IN1_EN : Fld := ⟨Reg.strongroom_TAMPER_CFG, 15, 15⟩
def R.strongroom_TAMPER_CFG_IN1_MODE : Fld := ⟨Reg.strongroom_TAMPER_CFG, 14, 13⟩
def R.strongroom_TAMPER_CFG_IN1_FILTER : Fld := ⟨Reg.strongroom_TAMPER_CFG, 12, 11⟩
def R.strongroom_TAMPER_CFG_IN1_FAULT : Fld := ⟨Reg.strongroom_TAMPER_CFG, 10, 10⟩
def R.strongroom_TAMPER_CFG_IN0_EN : Fld := ⟨Reg.strongroom_TAMPER_CFG, 7, 7⟩
def R.strongroom_TAMPER_CFG_IN0_MODE : Fld := ⟨Reg.strongroom_TAMPER_CFG, 6, 5⟩
def R.strongroom_TAMPER_CFG_IN0_FILTER : Fld := ⟨Reg.strongroom_TAMPER_CFG, 4, 3⟩
def R.strongroom_TAMPER_CFG_IN0_FAULT : Fld := ⟨Reg.strongroom_TAMPER_CFG, 2, 2⟩
def Reg.strongroom_TAMPER_STATUS : Nat := 0x1D0034
def R.strongroom_TAMPER_STATUS_IN0_ACTIVE : Fld := ⟨Reg.strongroom_TAMPER_STATUS, 31, 31⟩
def R.strongroom_TAMPER_STATUS_IN1_ACTIVE : Fld := ⟨Reg.strongroom_TAMPER_STATUS, 30, 30⟩
def R.strongroom_TAMPER_STATUS_LXO_RUN : Fld := ⟨Reg.strongroom_TAMPER_STATUS, 29, 29⟩
def R.strongroom_TAMPER_STATUS_COUNT : Fld := ⟨Reg.strongroom_TAMPER_STATUS, 7, 0⟩
def Reg.strongroom_TAMPER_LOG_LIFE (i : Nat) : Nat := 0x1D0040 + 8 * i
def R.strongroom_TAMPER_LOG_LIFE_LIFE_S (i : Nat) : Fld := ⟨(Reg.strongroom_TAMPER_LOG_LIFE i), 31, 0⟩
def Reg.strongroom_TAMPER_LOG_SRC (i : Nat) : Nat := 0x1D0044 + 8 * i
def R.strongroom_TAMPER_LOG_SRC_SOURCE (i : Nat) : Fld := ⟨(Reg.strongroom_TAMPER_LOG_SRC i), 31, 24⟩
def R.strongroom_TAMPER_LOG_SRC_POWER (i : Nat) : Fld := ⟨(Reg.strongroom_TAMPER_LOG_SRC i), 23, 16⟩
def Reg.strongroom_DEBUG_REMAIN : Nat := 0x1D0060
def R.strongroom_DEBUG_REMAIN : Fld := ⟨Reg.strongroom_DEBUG_REMAIN, 31, 0⟩
def Reg.strongroom_DRBG_STATUS : Nat := 0x1D0064
def R.strongroom_DRBG_STATUS_OK : Fld := ⟨Reg.strongroom_DRBG_STATUS, 31, 31⟩
def R.strongroom_DRBG_STATUS_FAILS : Fld := ⟨Reg.strongroom_DRBG_STATUS, 15, 0⟩
def Reg.strongroom_INT_STATUS : Nat := 0x1D0070
def Flag.strongroom_ORPHANED : Flg := ⟨Reg.strongroom_INT_STATUS, 0x1D0078, 8⟩
def Flag.strongroom_ENTROPY_FAIL : Flg := ⟨Reg.strongroom_INT_STATUS, 0x1D0078, 7⟩
def Flag.strongroom_LIST_CHANGE : Flg := ⟨Reg.strongroom_INT_STATUS, 0x1D0078, 6⟩
def Flag.strongroom_LIFECYCLE_CHANGE : Flg := ⟨Reg.strongroom_INT_STATUS, 0x1D0078, 5⟩
def Flag.strongroom_DEBUG_CHANGE : Flg := ⟨Reg.strongroom_INT_STATUS, 0x1D0078, 4⟩
def Flag.strongroom_ROOT_CHANGE : Flg := ⟨Reg.strongroom_INT_STATUS, 0x1D0078, 3⟩
def Flag.strongroom_TAMPER : Flg := ⟨Reg.strongroom_INT_STATUS, 0x1D0078, 2⟩
def Flag.strongroom_CMD_OVERRUN : Flg := ⟨Reg.strongroom_INT_STATUS, 0x1D0078, 1⟩
def Flag.strongroom_CMD_DONE : Flg := ⟨Reg.strongroom_INT_STATUS, 0x1D0078, 0⟩
def Reg.strongroom_INT_EN : Nat := 0x1D0074
def R.strongroom_INT_EN_ORPHANED : Fld := ⟨Reg.strongroom_INT_EN, 8, 8⟩
def R.strongroom_INT_EN_ENTROPY_FAIL : Fld := ⟨Reg.strongroom_INT_EN, 7, 7⟩
def R.strongroom_INT_EN_LIST_CHANGE : Fld := ⟨Reg.strongroom_INT_EN, 6, 6⟩
def R.strongroom_INT_EN_LIFECYCLE_CHANGE : Fld := ⟨Reg.strongroom_INT_EN, 5, 5⟩
def R.strongroom_INT_EN_DEBUG_CHANGE : Fld := ⟨Reg.strongroom_INT_EN, 4, 4⟩
def R.strongroom_INT_EN_ROOT_CHANGE : Fld := ⟨Reg.strongroom_INT_EN, 3, 3⟩
def R.strongroom_INT_EN_TAMPER : Fld := ⟨Reg.strongroom_INT_EN, 2, 2⟩
def R.strongroom_INT_EN_CMD_OVERRUN : Fld := ⟨Reg.strongroom_INT_EN, 1, 1⟩
def R.strongroom_INT_EN_CMD_DONE : Fld := ⟨Reg.strongroom_INT_EN, 0, 0⟩
def Reg.strongroom_SLOT_INFO (i : Nat) : Nat := 0x1D0100 + 4 * i
def R.strongroom_SLOT_INFO_VALID (i : Nat) : Fld := ⟨(Reg.strongroom_SLOT_INFO i), 31, 31⟩
def R.strongroom_SLOT_INFO_KIND (i : Nat) : Fld := ⟨(Reg.strongroom_SLOT_INFO i), 30, 29⟩
def R.strongroom_SLOT_INFO_ORPHANED (i : Nat) : Fld := ⟨(Reg.strongroom_SLOT_INFO i), 28, 28⟩
def R.strongroom_SLOT_INFO_PARENT (i : Nat) : Fld := ⟨(Reg.strongroom_SLOT_INFO i), 27, 22⟩
def R.strongroom_SLOT_INFO_GEN (i : Nat) : Fld := ⟨(Reg.strongroom_SLOT_INFO i), 15, 0⟩
def Reg.strongroom_MEAS (i : Nat) : Nat := 0x1D0200 + 4 * i
def R.strongroom_MEAS (i : Nat) : Fld := ⟨(Reg.strongroom_MEAS i), 31, 0⟩
def Reg.strongroom_ENDORSE (i : Nat) : Nat := 0x1D0400 + 4 * i
def R.strongroom_ENDORSE (i : Nat) : Fld := ⟨(Reg.strongroom_ENDORSE i), 31, 0⟩
def Reg.strongroom_ID_PUBKEY (i : Nat) : Nat := 0x1D0460 + 4 * i
def R.strongroom_ID_PUBKEY (i : Nat) : Fld := ⟨(Reg.strongroom_ID_PUBKEY i), 31, 0⟩
def Reg.strongroom_CMD_BUF (i : Nat) : Nat := 0x1D0800 + 4 * i
def R.strongroom_CMD_BUF (i : Nat) : Fld := ⟨(Reg.strongroom_CMD_BUF i), 31, 0⟩
def Reg.strongroom_RESULT_DATA (i : Nat) : Nat := 0x1D0C00 + 4 * i
def R.strongroom_RESULT_DATA (i : Nat) : Fld := ⟨(Reg.strongroom_RESULT_DATA i), 31, 0⟩
def Reg.power_PWR_CMD : Nat := 0x1E0000
def R.power_PWR_CMD_OP : Fld := ⟨Reg.power_PWR_CMD, 3, 0⟩
def Reg.power_PWR_RESULT : Nat := 0x1E0004
def R.power_PWR_RESULT_DONE : Fld := ⟨Reg.power_PWR_RESULT, 31, 31⟩
def R.power_PWR_RESULT_STATUS : Fld := ⟨Reg.power_PWR_RESULT, 30, 16⟩
def R.power_PWR_RESULT_SEQ : Fld := ⟨Reg.power_PWR_RESULT, 15, 0⟩
def Reg.power_PWR_STATE : Nat := 0x1E0008
def R.power_PWR_STATE_STATE : Fld := ⟨Reg.power_PWR_STATE, 31, 29⟩
def R.power_PWR_STATE_PF_ACTIVE : Fld := ⟨Reg.power_PWR_STATE, 28, 28⟩
def Reg.power_DOM_ON_LO : Nat := 0x1E000C
def R.power_DOM_ON_LO : Fld := ⟨Reg.power_DOM_ON_LO, 31, 0⟩
def Reg.power_DOM_ON_HI : Nat := 0x1E0010
def R.power_DOM_ON_HI : Fld := ⟨Reg.power_DOM_ON_HI, 29, 0⟩
def Reg.power_RUN_MASK_LO : Nat := 0x1E0014
def R.power_RUN_MASK_LO : Fld := ⟨Reg.power_RUN_MASK_LO, 31, 0⟩
def Reg.power_RUN_MASK_HI : Nat := 0x1E0018
def R.power_RUN_MASK_HI : Fld := ⟨Reg.power_RUN_MASK_HI, 31, 0⟩
def Reg.power_QUIET_MASK_LO : Nat := 0x1E001C
def R.power_QUIET_MASK_LO : Fld := ⟨Reg.power_QUIET_MASK_LO, 31, 0⟩
def Reg.power_QUIET_MASK_HI : Nat := 0x1E0020
def R.power_QUIET_MASK_HI : Fld := ⟨Reg.power_QUIET_MASK_HI, 31, 0⟩
def Reg.power_WAKE_CFG : Nat := 0x1E0024
def R.power_WAKE_CFG_GPIO_EN : Fld := ⟨Reg.power_WAKE_CFG, 31, 31⟩
def R.power_WAKE_CFG_GPIO : Fld := ⟨Reg.power_WAKE_CFG, 28, 24⟩
def R.power_WAKE_CFG_TIMER_EN : Fld := ⟨Reg.power_WAKE_CFG, 23, 23⟩
def R.power_WAKE_CFG_TARGET : Fld := ⟨Reg.power_WAKE_CFG, 22, 22⟩
def Reg.power_WAKE_TIMER : Nat := 0x1E0028
def R.power_WAKE_TIMER : Fld := ⟨Reg.power_WAKE_TIMER, 31, 0⟩
def Reg.power_QUIET_CFG : Nat := 0x1E002C
def R.power_QUIET_CFG_EN : Fld := ⟨Reg.power_QUIET_CFG, 31, 31⟩
def R.power_QUIET_CFG_GPIO : Fld := ⟨Reg.power_QUIET_CFG, 28, 24⟩
def Reg.power_PF_STATUS : Nat := 0x1E0030
def R.power_PF_STATUS_COUNT : Fld := ⟨Reg.power_PF_STATUS, 31, 16⟩
def R.power_PF_STATUS_LAST_SAVE_US : Fld := ⟨Reg.power_PF_STATUS, 15, 0⟩
def Reg.power_TS (i : Nat) : Nat := 0x1E0100 + 4 * i
def R.power_TS_FAILED (i : Nat) : Fld := ⟨(Reg.power_TS i), 31, 31⟩
def R.power_TS_IMPLAUSIBLE (i : Nat) : Fld := ⟨(Reg.power_TS i), 30, 30⟩
def R.power_TS_TEMP (i : Nat) : Fld := ⟨(Reg.power_TS i), 15, 0⟩
def Reg.power_TS_RAW (i : Nat) : Nat := 0x1E0180 + 4 * i
def R.power_TS_RAW_GRADIENT (i : Nat) : Fld := ⟨(Reg.power_TS_RAW i), 31, 16⟩
def R.power_TS_RAW_RAW (i : Nat) : Fld := ⟨(Reg.power_TS_RAW i), 15, 0⟩
def Reg.power_TH_CFG : Nat := 0x1E0200
def R.power_TH_CFG_WARN : Fld := ⟨Reg.power_TH_CFG, 31, 24⟩
def R.power_TH_CFG_THROTTLE : Fld := ⟨Reg.power_TH_CFG, 23, 16⟩
def R.power_TH_CFG_SHUTDOWN : Fld := ⟨Reg.power_TH_CFG, 15, 8⟩
def R.power_TH_CFG_MAX_STEP : Fld := ⟨Reg.power_TH_CFG, 7, 4⟩
def R.power_TH_CFG_PIN_AT_WARN : Fld := ⟨Reg.power_TH_CFG, 1, 1⟩
def R.power_TH_CFG_CLKDIV : Fld := ⟨Reg.power_TH_CFG, 0, 0⟩
def Reg.power_TH_STATUS : Nat := 0x1E0204
def R.power_TH_STATUS_LEVEL : Fld := ⟨Reg.power_TH_STATUS, 31, 30⟩
def R.power_TH_STATUS_FAST : Fld := ⟨Reg.power_TH_STATUS, 29, 29⟩
def R.power_TH_STATUS_HOLD : Fld := ⟨Reg.power_TH_STATUS, 28, 28⟩
def R.power_TH_STATUS_ADJ_FAIL : Fld := ⟨Reg.power_TH_STATUS, 27, 27⟩
def R.power_TH_STATUS_FLOOR : Fld := ⟨Reg.power_TH_STATUS, 26, 26⟩
def R.power_TH_STATUS_HOT : Fld := ⟨Reg.power_TH_STATUS, 24, 20⟩
def R.power_TH_STATUS_STEP : Fld := ⟨Reg.power_TH_STATUS, 19, 16⟩
def R.power_TH_STATUS_T_MAX : Fld := ⟨Reg.power_TH_STATUS, 15, 0⟩
def Reg.power_SHED : Nat := 0x1E0208
def R.power_SHED : Fld := ⟨Reg.power_SHED, 13, 0⟩
def Reg.power_STEP_STAT : Nat := 0x1E020C
def R.power_STEP_STAT_MAX_SEEN : Fld := ⟨Reg.power_STEP_STAT, 31, 16⟩
def R.power_STEP_STAT_CHANGES : Fld := ⟨Reg.power_STEP_STAT, 15, 0⟩
def Reg.power_EST_POWER : Nat := 0x1E0210
def R.power_EST_POWER_LIMIT : Fld := ⟨Reg.power_EST_POWER, 31, 16⟩
def R.power_EST_POWER_ESTIMATE : Fld := ⟨Reg.power_EST_POWER, 15, 0⟩
def Reg.power_EST_CFG : Nat := 0x1E0214
def R.power_EST_CFG_POWER_CAP : Fld := ⟨Reg.power_EST_CFG, 31, 16⟩
def R.power_EST_CFG_GUARD_ALL : Fld := ⟨Reg.power_EST_CFG, 0, 0⟩
def Reg.power_PMB_RAIL (i : Nat) : Nat := 0x1E0218 + 4 * i
def R.power_PMB_RAIL_GROUP (i : Nat) : Fld := ⟨(Reg.power_PMB_RAIL i), 3, 0⟩
def Reg.power_EST_GROUP (i : Nat) : Nat := 0x1E0244 + 4 * i
def R.power_EST_GROUP_MEASURED (i : Nat) : Fld := ⟨(Reg.power_EST_GROUP i), 31, 16⟩
def R.power_EST_GROUP_SCALE (i : Nat) : Fld := ⟨(Reg.power_EST_GROUP i), 15, 0⟩
def Reg.power_SD_NOTE : Nat := 0x1E0280
def R.power_SD_NOTE_VALID : Fld := ⟨Reg.power_SD_NOTE, 31, 31⟩
def R.power_SD_NOTE_SENSOR : Fld := ⟨Reg.power_SD_NOTE, 28, 24⟩
def R.power_SD_NOTE_TEMP : Fld := ⟨Reg.power_SD_NOTE, 15, 0⟩
def Reg.power_SD_LIFE_S : Nat := 0x1E0284
def R.power_SD_LIFE_S : Fld := ⟨Reg.power_SD_LIFE_S, 31, 0⟩
def Reg.power_INT_STATUS : Nat := 0x1E02C0
def Flag.power_SHUTDOWN_SEEN : Flg := ⟨Reg.power_INT_STATUS, 0x1E02C8, 15⟩
def Flag.power_WAKE : Flg := ⟨Reg.power_INT_STATUS, 0x1E02C8, 14⟩
def Flag.power_EST_CLAMP : Flg := ⟨Reg.power_INT_STATUS, 0x1E02C8, 13⟩
def Flag.power_EST_RESCALE : Flg := ⟨Reg.power_INT_STATUS, 0x1E02C8, 12⟩
def Flag.power_FLOOR : Flg := ⟨Reg.power_INT_STATUS, 0x1E02C8, 11⟩
def Flag.power_ADJ_FAIL : Flg := ⟨Reg.power_INT_STATUS, 0x1E02C8, 10⟩
def Flag.power_SENSOR_OK : Flg := ⟨Reg.power_INT_STATUS, 0x1E02C8, 9⟩
def Flag.power_SENSOR_FAIL : Flg := ⟨Reg.power_INT_STATUS, 0x1E02C8, 8⟩
def Flag.power_STEP_CHANGE : Flg := ⟨Reg.power_INT_STATUS, 0x1E02C8, 7⟩
def Flag.power_THROTTLE_OFF : Flg := ⟨Reg.power_INT_STATUS, 0x1E02C8, 6⟩
def Flag.power_THROTTLE_ON : Flg := ⟨Reg.power_INT_STATUS, 0x1E02C8, 5⟩
def Flag.power_WARN : Flg := ⟨Reg.power_INT_STATUS, 0x1E02C8, 4⟩
def Flag.power_PF_RECOVER : Flg := ⟨Reg.power_INT_STATUS, 0x1E02C8, 3⟩
def Flag.power_PWRFAIL : Flg := ⟨Reg.power_INT_STATUS, 0x1E02C8, 2⟩
def Flag.power_CMD_OVERRUN : Flg := ⟨Reg.power_INT_STATUS, 0x1E02C8, 1⟩
def Flag.power_STATE_CHANGE : Flg := ⟨Reg.power_INT_STATUS, 0x1E02C8, 0⟩
def Reg.power_INT_EN : Nat := 0x1E02C4
def R.power_INT_EN_SHUTDOWN_SEEN : Fld := ⟨Reg.power_INT_EN, 15, 15⟩
def R.power_INT_EN_WAKE : Fld := ⟨Reg.power_INT_EN, 14, 14⟩
def R.power_INT_EN_EST_CLAMP : Fld := ⟨Reg.power_INT_EN, 13, 13⟩
def R.power_INT_EN_EST_RESCALE : Fld := ⟨Reg.power_INT_EN, 12, 12⟩
def R.power_INT_EN_FLOOR : Fld := ⟨Reg.power_INT_EN, 11, 11⟩
def R.power_INT_EN_ADJ_FAIL : Fld := ⟨Reg.power_INT_EN, 10, 10⟩
def R.power_INT_EN_SENSOR_OK : Fld := ⟨Reg.power_INT_EN, 9, 9⟩
def R.power_INT_EN_SENSOR_FAIL : Fld := ⟨Reg.power_INT_EN, 8, 8⟩
def R.power_INT_EN_STEP_CHANGE : Fld := ⟨Reg.power_INT_EN, 7, 7⟩
def R.power_INT_EN_THROTTLE_OFF : Fld := ⟨Reg.power_INT_EN, 6, 6⟩
def R.power_INT_EN_THROTTLE_ON : Fld := ⟨Reg.power_INT_EN, 5, 5⟩
def R.power_INT_EN_WARN : Fld := ⟨Reg.power_INT_EN, 4, 4⟩
def R.power_INT_EN_PF_RECOVER : Fld := ⟨Reg.power_INT_EN, 3, 3⟩
def R.power_INT_EN_PWRFAIL : Fld := ⟨Reg.power_INT_EN, 2, 2⟩
def R.power_INT_EN_CMD_OVERRUN : Fld := ⟨Reg.power_INT_EN, 1, 1⟩
def R.power_INT_EN_STATE_CHANGE : Fld := ⟨Reg.power_INT_EN, 0, 0⟩
def Reg.blotter_ATTIC_CMD : Nat := 0x1F0000
def R.blotter_ATTIC_CMD_OP : Fld := ⟨Reg.blotter_ATTIC_CMD, 31, 28⟩
def R.blotter_ATTIC_CMD_PAGE : Fld := ⟨Reg.blotter_ATTIC_CMD, 13, 0⟩
def Reg.blotter_ATTIC_RESULT : Nat := 0x1F0004
def R.blotter_ATTIC_RESULT_DONE : Fld := ⟨Reg.blotter_ATTIC_RESULT, 31, 31⟩
def R.blotter_ATTIC_RESULT_STATUS : Fld := ⟨Reg.blotter_ATTIC_RESULT, 30, 16⟩
def R.blotter_ATTIC_RESULT_SEQ : Fld := ⟨Reg.blotter_ATTIC_RESULT, 15, 0⟩
def Reg.blotter_ATTIC_STATUS : Nat := 0x1F0008
def R.blotter_ATTIC_STATUS_FAILED : Fld := ⟨Reg.blotter_ATTIC_STATUS, 31, 31⟩
def R.blotter_ATTIC_STATUS_SAVE_ACTIVE : Fld := ⟨Reg.blotter_ATTIC_STATUS, 30, 30⟩
def R.blotter_ATTIC_STATUS_BANK_BUSY : Fld := ⟨Reg.blotter_ATTIC_STATUS, 7, 0⟩
def Reg.blotter_ATTIC_BP : Nat := 0x1F000C
def R.blotter_ATTIC_BP_LOCK : Fld := ⟨Reg.blotter_ATTIC_BP, 31, 31⟩
def R.blotter_ATTIC_BP_LEVEL : Fld := ⟨Reg.blotter_ATTIC_BP, 1, 0⟩
def Reg.blotter_BUF_MASK_LO : Nat := 0x1F0010
def R.blotter_BUF_MASK_LO : Fld := ⟨Reg.blotter_BUF_MASK_LO, 31, 0⟩
def Reg.blotter_BUF_MASK_HI : Nat := 0x1F0014
def R.blotter_BUF_MASK_HI : Fld := ⟨Reg.blotter_BUF_MASK_HI, 31, 0⟩
def Reg.blotter_ATTIC_BUF (i : Nat) : Nat := 0x1F0040 + 4 * i
def R.blotter_ATTIC_BUF (i : Nat) : Fld := ⟨(Reg.blotter_ATTIC_BUF i), 31, 0⟩
def Reg.blotter_BYTE_STAT (i : Nat) : Nat := 0x1F0080 + 4 * i
def R.blotter_BYTE_STAT (i : Nat) : Fld := ⟨(Reg.blotter_BYTE_STAT i), 31, 0⟩
def Reg.blotter_REFRESH_CFG : Nat := 0x1F0090
def R.blotter_REFRESH_CFG_DAYS : Fld := ⟨Reg.blotter_REFRESH_CFG, 7, 0⟩
def Reg.blotter_PAGE_WRITES : Nat := 0x1F0094
def R.blotter_PAGE_WRITES : Fld := ⟨Reg.blotter_PAGE_WRITES, 31, 0⟩
def Reg.blotter_WEAK_PAGES : Nat := 0x1F0098
def R.blotter_WEAK_PAGES : Fld := ⟨Reg.blotter_WEAK_PAGES, 31, 0⟩
def Reg.blotter_REFRESHED : Nat := 0x1F009C
def R.blotter_REFRESHED : Fld := ⟨Reg.blotter_REFRESHED, 31, 0⟩
def Reg.blotter_VERIFY_FAILS : Nat := 0x1F00A0
def R.blotter_VERIFY_FAILS : Fld := ⟨Reg.blotter_VERIFY_FAILS, 31, 0⟩
def Reg.blotter_ATTIC_INT_STATUS : Nat := 0x1F00C0
def Flag.blotter_ATTIC_FAILED : Flg := ⟨Reg.blotter_ATTIC_INT_STATUS, 0x1F00C8, 4⟩
def Flag.blotter_ATTIC_WEAK : Flg := ⟨Reg.blotter_ATTIC_INT_STATUS, 0x1F00C8, 3⟩
def Flag.blotter_ATTIC_VERIFY_FAIL : Flg := ⟨Reg.blotter_ATTIC_INT_STATUS, 0x1F00C8, 2⟩
def Flag.blotter_ATTIC_CMD_OVERRUN : Flg := ⟨Reg.blotter_ATTIC_INT_STATUS, 0x1F00C8, 1⟩
def Flag.blotter_ATTIC_CMD_DONE : Flg := ⟨Reg.blotter_ATTIC_INT_STATUS, 0x1F00C8, 0⟩
def Reg.blotter_ATTIC_INT_EN : Nat := 0x1F00C4
def R.blotter_ATTIC_INT_EN_FAILED : Fld := ⟨Reg.blotter_ATTIC_INT_EN, 4, 4⟩
def R.blotter_ATTIC_INT_EN_WEAK : Fld := ⟨Reg.blotter_ATTIC_INT_EN, 3, 3⟩
def R.blotter_ATTIC_INT_EN_VERIFY_FAIL : Fld := ⟨Reg.blotter_ATTIC_INT_EN, 2, 2⟩
def R.blotter_ATTIC_INT_EN_CMD_OVERRUN : Fld := ⟨Reg.blotter_ATTIC_INT_EN, 1, 1⟩
def R.blotter_ATTIC_INT_EN_CMD_DONE : Fld := ⟨Reg.blotter_ATTIC_INT_EN, 0, 0⟩
def Reg.blotter_BL_CTRL : Nat := 0x1F0100
def R.blotter_BL_CTRL_FAULT_ON_ATTIC : Fld := ⟨Reg.blotter_BL_CTRL, 31, 31⟩
def R.blotter_BL_CTRL_PERSIST_MIN : Fld := ⟨Reg.blotter_BL_CTRL, 2, 0⟩
def Reg.blotter_BL_STATUS : Nat := 0x1F0104
def R.blotter_BL_STATUS_VOL_LEVEL : Fld := ⟨Reg.blotter_BL_STATUS, 28, 16⟩
def R.blotter_BL_STATUS_PENDING : Fld := ⟨Reg.blotter_BL_STATUS, 12, 0⟩
def Reg.blotter_NEWEST_SEQ : Nat := 0x1F0108
def R.blotter_NEWEST_SEQ : Fld := ⟨Reg.blotter_NEWEST_SEQ, 31, 0⟩
def Reg.blotter_LOG_FLOOR : Nat := 0x1F010C
def R.blotter_LOG_FLOOR : Fld := ⟨Reg.blotter_LOG_FLOOR, 31, 0⟩
def Reg.blotter_OP_S : Nat := 0x1F0110
def R.blotter_OP_S : Fld := ⟨Reg.blotter_OP_S, 31, 0⟩
def Reg.blotter_OP_FRAC : Nat := 0x1F0114
def R.blotter_OP_FRAC : Fld := ⟨Reg.blotter_OP_FRAC, 15, 0⟩
def Reg.blotter_CYCLES : Nat := 0x1F0118
def R.blotter_CYCLES : Fld := ⟨Reg.blotter_CYCLES, 23, 0⟩
def Reg.blotter_CAL_NOW : Nat := 0x1F011C
def R.blotter_CAL_NOW : Fld := ⟨Reg.blotter_CAL_NOW, 31, 0⟩
def Reg.blotter_CAL_SET : Nat := 0x1F0120
def R.blotter_CAL_SET : Fld := ⟨Reg.blotter_CAL_SET, 31, 0⟩
def Reg.blotter_PERSIST_FAIL : Nat := 0x1F0124
def R.blotter_PERSIST_FAIL : Fld := ⟨Reg.blotter_PERSIST_FAIL, 15, 0⟩
def Reg.blotter_DROP_TOTAL : Nat := 0x1F0128
def R.blotter_DROP_TOTAL : Fld := ⟨Reg.blotter_DROP_TOTAL, 31, 0⟩
def Reg.blotter_SNAP_FROM : Nat := 0x1F0130
def R.blotter_SNAP_FROM : Fld := ⟨Reg.blotter_SNAP_FROM, 31, 0⟩
def Reg.blotter_SNAP_CMD : Nat := 0x1F0134
def R.blotter_SNAP_CMD_START : Fld := ⟨Reg.blotter_SNAP_CMD, 0, 0⟩
def Reg.blotter_SNAP_END : Nat := 0x1F0138
def R.blotter_SNAP_END : Fld := ⟨Reg.blotter_SNAP_END, 31, 0⟩
def Reg.blotter_RD_HDR : Nat := 0x1F0140
def R.blotter_RD_HDR_VALID : Fld := ⟨Reg.blotter_RD_HDR, 31, 31⟩
def R.blotter_RD_HDR_FROM_RING : Fld := ⟨Reg.blotter_RD_HDR, 30, 30⟩
def Reg.blotter_RD_DATA (i : Nat) : Nat := 0x1F0144 + 4 * i
def R.blotter_RD_DATA (i : Nat) : Fld := ⟨(Reg.blotter_RD_DATA i), 31, 0⟩
def Reg.blotter_RATE (i : Nat) : Nat := 0x1F0180 + 4 * i
def R.blotter_RATE_BURST (i : Nat) : Fld := ⟨(Reg.blotter_RATE i), 15, 8⟩
def R.blotter_RATE_RATE (i : Nat) : Fld := ⟨(Reg.blotter_RATE i), 7, 0⟩
def Reg.blotter_CLEAR_CMD : Nat := 0x1F01C0
def R.blotter_CLEAR_CMD_SUBMIT : Fld := ⟨Reg.blotter_CLEAR_CMD, 0, 0⟩
def Reg.blotter_CLEAR_RESULT : Nat := 0x1F01C4
def R.blotter_CLEAR_RESULT_DONE : Fld := ⟨Reg.blotter_CLEAR_RESULT, 31, 31⟩
def R.blotter_CLEAR_RESULT_STATUS : Fld := ⟨Reg.blotter_CLEAR_RESULT, 30, 16⟩
def R.blotter_CLEAR_RESULT_SEQ : Fld := ⟨Reg.blotter_CLEAR_RESULT, 15, 0⟩
def Reg.blotter_INT_STATUS : Nat := 0x1F01E0
def Flag.blotter_CRITICAL : Flg := ⟨Reg.blotter_INT_STATUS, 0x1F01E8, 4⟩
def Flag.blotter_CLEARED : Flg := ⟨Reg.blotter_INT_STATUS, 0x1F01E8, 3⟩
def Flag.blotter_CMD_OVERRUN : Flg := ⟨Reg.blotter_INT_STATUS, 0x1F01E8, 2⟩
def Flag.blotter_DROP : Flg := ⟨Reg.blotter_INT_STATUS, 0x1F01E8, 1⟩
def Flag.blotter_PERSIST_FAIL : Flg := ⟨Reg.blotter_INT_STATUS, 0x1F01E8, 0⟩
def Reg.blotter_INT_EN : Nat := 0x1F01E4
def R.blotter_INT_EN_CRITICAL : Fld := ⟨Reg.blotter_INT_EN, 4, 4⟩
def R.blotter_INT_EN_CLEARED : Fld := ⟨Reg.blotter_INT_EN, 3, 3⟩
def R.blotter_INT_EN_CMD_OVERRUN : Fld := ⟨Reg.blotter_INT_EN, 2, 2⟩
def R.blotter_INT_EN_DROP : Fld := ⟨Reg.blotter_INT_EN, 1, 1⟩
def R.blotter_INT_EN_PERSIST_FAIL : Fld := ⟨Reg.blotter_INT_EN, 0, 0⟩
def Reg.blotter_HIST_SEL : Nat := 0x1F0200
def R.blotter_HIST_SEL : Fld := ⟨Reg.blotter_HIST_SEL, 5, 0⟩
def Reg.blotter_HIST_VREF (i : Nat) : Nat := 0x1F0210 + 4 * i
def R.blotter_HIST_VREF (i : Nat) : Fld := ⟨(Reg.blotter_HIST_VREF i), 31, 0⟩
def Reg.blotter_HIST_BIN (i : Nat) : Nat := 0x1F0240 + 4 * i
def R.blotter_HIST_BIN (i : Nat) : Fld := ⟨(Reg.blotter_HIST_BIN i), 31, 0⟩
def Reg.blotter_HIST_MIN : Nat := 0x1F0280
def R.blotter_HIST_MIN : Fld := ⟨Reg.blotter_HIST_MIN, 31, 0⟩
def Reg.blotter_HIST_MAX : Nat := 0x1F0284
def R.blotter_HIST_MAX : Fld := ⟨Reg.blotter_HIST_MAX, 31, 0⟩
def Reg.blotter_HIST_MAX_AT : Nat := 0x1F0288
def R.blotter_HIST_MAX_AT : Fld := ⟨Reg.blotter_HIST_MAX_AT, 31, 0⟩
def Reg.blotter_DROP (i : Nat) : Nat := 0x1F0400 + 4 * i
def R.blotter_DROP (i : Nat) : Fld := ⟨(Reg.blotter_DROP i), 31, 0⟩
def Reg.blotter_CLEAR_BUF (i : Nat) : Nat := 0x1F0800 + 4 * i
def R.blotter_CLEAR_BUF (i : Nat) : Fld := ⟨(Reg.blotter_CLEAR_BUF i), 31, 0⟩
def Reg.global_ID : Nat := 0x0
def R.global_ID_PART : Fld := ⟨Reg.global_ID, 31, 16⟩
def R.global_ID_REV : Fld := ⟨Reg.global_ID, 15, 8⟩
def R.global_ID_GRADE : Fld := ⟨Reg.global_ID, 7, 0⟩
def Reg.global_RESET_CAUSE : Nat := 0x4
def R.global_RESET_CAUSE_SOFT : Fld := ⟨Reg.global_RESET_CAUSE, 4, 4⟩
def R.global_RESET_CAUSE_WATCHDOG : Fld := ⟨Reg.global_RESET_CAUSE, 3, 3⟩
def R.global_RESET_CAUSE_PIN : Fld := ⟨Reg.global_RESET_CAUSE, 2, 2⟩
def R.global_RESET_CAUSE_POWER_ON : Fld := ⟨Reg.global_RESET_CAUSE, 1, 1⟩
def R.global_RESET_CAUSE_SHUTDOWN_HOLD : Fld := ⟨Reg.global_RESET_CAUSE, 0, 0⟩
def Reg.global_BOOT_STATUS : Nat := 0x8
def R.global_BOOT_STATUS_STAGE : Fld := ⟨Reg.global_BOOT_STATUS, 31, 28⟩
def R.global_BOOT_STATUS_ZALU_COPY : Fld := ⟨Reg.global_BOOT_STATUS, 27, 27⟩
def R.global_BOOT_STATUS_FUSE_COMPLETED : Fld := ⟨Reg.global_BOOT_STATUS, 26, 26⟩
def R.global_BOOT_STATUS_RELEASE_MS : Fld := ⟨Reg.global_BOOT_STATUS, 15, 0⟩
def Reg.global_RESET_CMD : Nat := 0xC
def R.global_RESET_CMD_KEY : Fld := ⟨Reg.global_RESET_CMD, 31, 16⟩
def R.global_RESET_CMD_SOFT : Fld := ⟨Reg.global_RESET_CMD, 0, 0⟩
def Reg.global_FAULT_EN : Nat := 0x10
def R.global_FAULT_EN_ENTROPY : Fld := ⟨Reg.global_FAULT_EN, 9, 9⟩
def R.global_FAULT_EN_ADJ_FAIL : Fld := ⟨Reg.global_FAULT_EN, 8, 8⟩
def R.global_FAULT_EN_DRIVE : Fld := ⟨Reg.global_FAULT_EN, 7, 7⟩
def R.global_FAULT_EN_ECC : Fld := ⟨Reg.global_FAULT_EN, 6, 6⟩
def R.global_FAULT_EN_FUSE : Fld := ⟨Reg.global_FAULT_EN, 5, 5⟩
def Reg.global_FAULT_SRC : Nat := 0x14
def R.global_FAULT_SRC_SRC : Fld := ⟨Reg.global_FAULT_SRC, 9, 0⟩
def Reg.global_FAULT_ACK : Nat := 0x18
def R.global_FAULT_ACK_ECC : Fld := ⟨Reg.global_FAULT_ACK, 6, 6⟩
def Reg.global_RESET_COUNT : Nat := 0x1C
def R.global_RESET_COUNT_WATCHDOG : Fld := ⟨Reg.global_RESET_COUNT, 31, 16⟩
def R.global_RESET_COUNT_SOFT : Fld := ⟨Reg.global_RESET_COUNT, 15, 0⟩
def Reg.global_TRACE_LOST : Nat := 0x20
def R.global_TRACE_LOST : Fld := ⟨Reg.global_TRACE_LOST, 31, 0⟩
def Reg.surf_BASE (i : Nat) : Nat := 0x300000 + 16 * i
def R.surf_BASE (i : Nat) : Fld := ⟨(Reg.surf_BASE i), 31, 0⟩
def Reg.surf_FMT (i : Nat) : Nat := 0x300004 + 16 * i
def R.surf_FMT_FMT (i : Nat) : Fld := ⟨(Reg.surf_FMT i), 31, 24⟩
def R.surf_FMT_PITCH (i : Nat) : Fld := ⟨(Reg.surf_FMT i), 15, 0⟩
def Reg.surf_SIZE (i : Nat) : Nat := 0x300008 + 16 * i
def R.surf_SIZE_WIDTH (i : Nat) : Fld := ⟨(Reg.surf_SIZE i), 31, 16⟩
def R.surf_SIZE_HEIGHT (i : Nat) : Fld := ⟨(Reg.surf_SIZE i), 15, 0⟩
def Reg.surf_FENCE (i : Nat) : Nat := 0x30000C + 16 * i
def R.surf_FENCE (i : Nat) : Fld := ⟨(Reg.surf_FENCE i), 31, 0⟩
def Reg.coef_COEF (f : Nat) (i : Nat) : Nat := 0x310000 + 0x800 * f + 4 * i
def R.coef_COEF_ODD (f : Nat) (i : Nat) : Fld := ⟨(Reg.coef_COEF f i), 31, 16⟩
def R.coef_COEF_EVEN (f : Nat) (i : Nat) : Fld := ⟨(Reg.coef_COEF f i), 15, 0⟩

end Sys2Proof.Machine
end

