-- ==== Sys2Proof/Machine/Sparse.lean ====
section
/-!
DEFINITION. Sparse maps: a list of (key, value) pairs with keys strictly rising and no entry equal to what an unlisted
key reads as. The register file, stream memory, the Attic and every numbered instance are held in this one form, so
that equal contents are equal data.
-/
namespace Sys2Proof.Machine

/-- The value at key `a`; `d` gives what an unlisted key reads as. -/
def Sparse.get {α : Type} (d : Nat → α) : List (Nat × α) → Nat → α
  | [], a => d a
  | (k, v) :: m, a => if k = a then v else Sparse.get d m a

/-- The map without key `a`. -/
def Sparse.erase {α : Type} : List (Nat × α) → Nat → List (Nat × α)
  | [], _ => []
  | (k, v) :: m, a => if k = a then Sparse.erase m a else (k, v) :: Sparse.erase m a

/-- The map with `(a, v)` placed before the first greater key. -/
def Sparse.insert {α : Type} : List (Nat × α) → Nat → α → List (Nat × α)
  | [], a, v => [(a, v)]
  | (k, w) :: m, a, v => if a < k then (a, v) :: (k, w) :: m else (k, w) :: Sparse.insert m a v

/-- Writing the value an unlisted key reads as removes the entry. -/
def Sparse.set {α : Type} [DecidableEq α] (d : Nat → α) (m : List (Nat × α)) (a : Nat) (v : α) : List (Nat × α) :=
  if v = d a then Sparse.erase m a else Sparse.insert (Sparse.erase m a) a v

/-- Every key of the map is above `b`, keys rise strictly, and no value is the unlisted one. -/
def Sparse.wfAbove {α : Type} [DecidableEq α] (d : Nat → α) : Option Nat → List (Nat × α) → Bool
  | _, [] => true
  | b, (k, v) :: m =>
    (match b with | none => true | some n => decide (n < k)) && !decide (v = d k) && Sparse.wfAbove d (some k) m

/-- The canonical form. -/
def Sparse.wf {α : Type} [DecidableEq α] (d : Nat → α) (m : List (Nat × α)) : Bool := Sparse.wfAbove d none m

end Sys2Proof.Machine
end

