-- ==== Sys2Proof/Machine/State.lean ====
section
/-!
DEFINITION. The state of the CV96 as plain data: the software-visible registers in one sparse register file, and each
unit's hidden state in a structure of its own. Every field's default is its value after reset.
-/
namespace Sys2Proof.Machine
open Sys2Proof

/-- Why the block stops. No command of the table stops in a fault: the spec gives every command an effect. -/
inductive Fault where
  /-- Raised by no command; kept so that the fault type is not empty. Safe. -/
  | none
  deriving DecidableEq, Repr

/-- Why a command has no meaning here. -/
inductive Refusal where
  /-- Raised by the arm of a command that has no meaning yet, under its mnemonic. Safe. -/
  | notModelled (mnemonic : String)
  deriving DecidableEq, Repr

/-- The audio an SDI output embeds in a line (09_audio_marginalia.md R273): per position the samples, the K of the first of them,
the channel status block that every channel repeats (bit K mod 192 goes with the sample of K), and the frame sequence number of the
audio control packets where the line carries them. -/
structure SdiAudioOut where
  samples : List (List Int) := []
  first : Nat := 0
  status : List Byte := []
  control : Option Nat := none
  deriving DecidableEq, Repr

/-- What the block sends out. The record of a run keeps them in order (log entry 3). -/
inductive Output where
  /-- A 32-bit word read, returned to its reader. -/
  | readData (value : BitVec 32)
  /-- A packet on a port's outgoing lane, header and checks included (03_rasyn_link.md R99). -/
  | packet (port : Nat) (bytes : List Byte)
  /-- Bytes a stream memory read returns, with the bytes of poisoned words marked (10_stream_memory.md R287). -/
  | memory (bytes : List Byte) (poison : List Bool)
  /-- Bytes the block writes to a host bus address by DMA (11_codecs_cellar.md R340, 12_host_control.md R351). -/
  | hostWrite (addr : Nat) (bytes : List Byte)
  /-- Bytes written to the Cellar's drive, at a byte offset from Cellar block `cb` (11_codecs_cellar.md R325, R327). -/
  | driveWrite (cb offset : Nat) (bytes : List Byte)
  /-- An NVMe I/O command without data: Flush (0), Dataset Management for the extent at a Cellar block (9); or a controller reset (1)
  (11_codecs_cellar.md R325, R326). -/
  | driveCommand (op : Nat) (cb : Nat)
  /-- An NVMe admin command: its opcode, and its CNS, feature or queue number (R325). -/
  | driveAdmin (op : Nat) (arg : Nat)
  /-- Bits the test access port shifts out, first bit first (13_strongroom.md R400). -/
  | tap (bits : List Bool)
  /-- A port power bus transaction (R122). -/
  | ppb (bus : Nat) (word : BitVec 17)
  /-- A line an SDI output sends: its raster line, the 10-bit codes of its active pixels (Cb, Y, Cr, Y), its ancillary packets as
  words from DID to checksum, and the embedded audio placed on it (04_sdi_ports.md R135 to R137). -/
  | sdi (port line : Nat) (codes : List Nat) (anc : List (List Nat)) (audio : SdiAudioOut)
  /-- A completion to the host with the bytes of a read: 0 success, 1 Unsupported Request, 4 Completer Abort
  (12_host_control.md R343, R356). -/
  | completion (status : Nat) (data : List Byte)
  /-- An MSI-X message (12_host_control.md R347). -/
  | msix (addr : Nat) (data : BitVec 32)
  /-- The SMBus target's answer, none for a NACK (12_host_control.md R362). -/
  | smbus (answer : Option (List Byte))
  /-- The end of an interconnect transaction of a master inside the device: error response, words read (12_host_control.md
  R355, R356). -/
  | icx (master : Master) (error : Bool) (data : List (BitVec 32))
  deriving DecidableEq, Repr

/-- When a late entry of the event queue runs (01_ruling.md R58, R59). -/
inductive LateMark where
  | onTime | nextLine | nextFrame
  deriving DecidableEq, Repr

/-- An entry of the event queue (R52, R57). -/
structure EvqEntry where
  index : Nat
  gen : Nat
  order : Nat
  master : Master
  frame : Nat
  line : Nat
  action : Nat
  target : BitVec 32
  lateRun : Bool
  param : BitVec 31
  late : LateMark
  deriving DecidableEq, Repr

/-- Where the loop goes at the end of an adjusted frame, unless MANUAL_SRC names XO then (R47, R51, R32): on with the residual, to
COAST at a frequency formed when the source was lost, or to another source. -/
inductive AfterAdjust where
  | resume | coast (held : Rat) | acquire (src : Nat)
  deriving DecidableEq, Repr

/-- An announced whole-line adjustment (R47): `lines` positive shortens the adjusted frame. -/
structure Adjust where
  lines : Int
  residual : Rat
  rate : Nat
  running : Bool
  after : AfterAdjust
  deriving DecidableEq, Repr

/-- The Ruling's hidden state (R21 to R51). -/
structure RulingState where
  frame : Nat := 0
  line : Nat := 1
  frac : Nat := 0
  inserted : Bool := false
  insertedLeft : Nat := 0
  lineTotal : Nat := 0
  integ : Rat := 0
  corr : Rat := 0
  base : Rat := 0
  tauAcc : Rat := 0
  inWin : Nat := 0
  outWin : Nat := 0
  firstMeas : Bool := false
  /-- Intervals between measurements, newest first: seconds, the loop's correction, and the relative frequency with the slew (R43,
  R44). -/
  history : List (Rat × Rat × Rat) := []
  /-- ns of residual absorbed since the last measurement, and `lineTotal` where a slew began that no measurement has met yet (R46,
  R47). -/
  absorbed : Rat := 0
  slewFrom : Option Nat := none
  /-- `lineTotal` and the fraction at the last measurement, and `lineTotal` at the entry to COAST (R43). -/
  measAt : Nat × Nat := (0, 0)
  coastAt : Nat := 0
  residual : Rat := 0
  slewRate : Nat := 0
  adjust : Option Adjust := none
  countStep : Option Int := none
  stepInFrame : Int := 0
  seconds : Nat := 0
  secStarted : Bool := false
  armed : Option Nat := none
  runs : List (Nat × Nat) := []
  acquired : Bool := false
  switchExpired : Bool := false
  lostSrc : Option Nat := none
  deriving DecidableEq, Repr

/-- One synthesizer output (R37 to R39): it produces periods, with the divider in effect. -/
structure SynOut where
  running : Bool := false
  div : Nat := 40
  deriving DecidableEq, Repr

/-- The event queue (R52 to R61): entries held and the generation each index takes next. -/
structure EvqState where
  entries : List EvqEntry := []
  gens : List (Nat × Nat) := []
  order : Nat := 0
  deriving DecidableEq, Repr

/-- GPIO hidden state (12_host_control.md R365, R366): EVENT_OUT base levels and running pulses. -/
structure GpioState where
  base : BitVec 32 := 0
  pulse : BitVec 32 := 0
  /-- Width in µs of the pulse running on each GPIO. -/
  widths : List (Nat × Nat) := []
  /-- The levels at the pins, as last sampled, before debouncing and polarity. -/
  pins : BitVec 32 := 0
  deriving DecidableEq, Repr

/-- How a byte of the Attic reads (15_attic_blotter.md R436): the outcome of a normal read, and whether it is weak. -/
inductive ByteCond where
  | good | corrected | bad
  deriving DecidableEq, Repr

structure AtticByte where
  val : Byte := 0xFF
  cond : ByteCond := .good
  weak : Bool := false
  deriving DecidableEq, Repr

/-- The sources of Attic writes, in their order of service (R438). -/
inductive AtticSrc where
  | saveSet | m2 | m3 | m0 | refresh | host
  deriving DecidableEq, Repr

/-- What waits for the end of a page write: nothing, a Blotter record, the host's result, or the page writes of a sealed group that are
still to come (R442), each with its page, its loaded bytes and whether it is sealed. -/
inductive AtticTag where
  | plain | record (seq : Nat) | hostCmd | group (rest : List (Nat × List (Nat × Byte) × Bool))
  deriving DecidableEq, Repr

/-- One page write (R439, R441): the loaded bytes by offset. -/
structure AtticWrite where
  src : AtticSrc
  page : Nat
  loaded : List (Nat × Byte)
  sealed : Bool
  tag : AtticTag
  repeated : Bool
  deriving DecidableEq, Repr

/-- The Attic (R436 to R449). The array and the counters are non-volatile. -/
structure AtticState where
  bytes : List (Nat × AtticByte) := []
  /-- At most one write per bank. -/
  running : List AtticWrite := []
  /-- Writes waiting for their bank, in order of issue. -/
  waiting : List AtticWrite := []
  cycles : Nat := 0
  opReserve : Nat := 0
  seqReserve : Nat := 0
  clearSeq : Nat := 0
  wear : List (Nat × Nat) := []
  calOffset : BitVec 32 := 0
  /-- Persistence failures in a row (R458). -/
  failRun : Nat := 0
  /-- A persistence failure has occurred since the cold boot (R458). -/
  faultSeen : Bool := false
  saveSeq : Nat := 0
  deriving DecidableEq, Repr

/-- A Blotter record in the volatile ring (R450, R453, R454, R457). -/
structure BlotRecord where
  seq : Nat
  opS : Nat
  opFrac : Nat
  cycles : Nat
  sev : Nat
  notPersisted : Bool := false
  fromSave : Bool := false
  vbatCopy : Bool := false
  folded : Bool := false
  code : Nat
  reps : Nat := 0
  inst : Nat
  data : List Byte
  isOpen : Bool := false
  pending : Bool := false
  issued : Bool := false
  persisted : Bool := false
  deriving DecidableEq, Repr

/-- A histogram's accumulators (R459, R460). -/
structure Histogram where
  bins : List Nat := List.replicate 16 0
  min : Option Int := none
  max : Option Int := none
  maxAt : Nat := 0
  copySeq : Nat := 0
  nextCopy : Nat := 0
  deriving DecidableEq, Repr

/-- The Blotter (R450 to R463). -/
structure BlotState where
  ring : List BlotRecord := []
  nextSeq : Nat := 0
  /-- Rate tokens used, per unit (R455). -/
  used : List (Nat × Nat) := []
  hists : List (Nat × Histogram) := []
  readPos : Nat := 0
  reading : Bool := false
  deriving DecidableEq, Repr

/-- A PORTS record (02_fabric_image.md R69). -/
structure PortRec where
  port : Nat
  mode : Nat
  rate : Nat
  fec : Bool
  genlock : Bool
  ppb : Bool
  vstreams : Nat
  declLoad : Nat
  deriving DecidableEq, Repr

/-- A STREAMS record (R69). -/
structure StreamRec where
  stream : Nat
  ingest : Nat
  cls : Nat
  storeFmt : Nat
  slots : Nat
  sketch : Nat
  motion : Bool
  motionUnit : Nat
  xs : Bool
  interlaced : Bool
  evidence : Bool
  cutThrough : Bool
  width : Nat
  height : Nat
  rateNum : Nat
  rateDen : Nat
  ringBase : Nat
  slotStride : Nat
  wbFolio : Nat
  holdMax : Nat
  readers : Nat
  recEntries : Nat
  deriving DecidableEq, Repr

/-- An INKWELL record: a firewall region (R69, 10_stream_memory.md R290). -/
structure RegionRec where
  region : Nat
  kind : Nat
  writers : Nat
  base : Nat
  size : Nat
  readers : Nat
  tag : Nat
  deriving DecidableEq, Repr

/-- A FOLIOS record (R71). -/
structure FolioRec where
  folio : Nat
  writeback : Bool
  displayTimed : Bool
  portA : Nat
  portB : Nat
  maxWidth : Nat
  maxHeight : Nat
  maxPixrate : Nat
  wbStream : Nat
  wbFmt : Nat
  dryBase : Nat
  drySize : Nat
  deriving DecidableEq, Repr

/-- A PANES record; pane 8 is the seal pane (R71). -/
structure PaneRec where
  folio : Nat
  pane : Nat
  cls : Nat
  blend : Bool
  motion : Bool
  evidence : Bool
  cutThrough : Bool
  declFetch : Nat
  fetchFmt : Nat
  srcClass : Nat
  deriving DecidableEq, Repr

/-- A CLASSES record (R71). -/
structure ClassRec where
  cls : Nat
  weight : Nat
  admits : List Nat
  deriving DecidableEq, Repr

/-- A CODECS record (R71). -/
structure CodecRec where
  engine : Nat
  role : Nat
  declLoad : Nat
  deriving DecidableEq, Repr

/-- A SEAL record (R72). -/
structure SealRec where
  folio : Nat
  surfBase : Nat
  surfSize : Nat
  deriving DecidableEq, Repr

/-- The AUDIO, CELLAR, POWER and THERMAL records (R72), one of each. -/
structure SingleRecs where
  audioIn : Nat := 0
  audioOut : Nat := 0
  audioBase : Nat := 0
  audioSize : Nat := 0
  cellarPresent : Bool := false
  cellarContinuous : Bool := false
  cellarClass : Nat := 1
  cellarStreams : Nat := 0
  cellarRate : Nat := 0
  prerollBase : Nat := 0
  prerollSize : Nat := 0
  runMask : BitVec 64 := 0
  quietMask : BitVec 64 := 0
  warn : Nat := 135
  throttle : Nat := 142
  shutdown : Nat := 155
  maxStep : Nat := 15
  clkDiv : Bool := false
  deriving DecidableEq, Repr

/-- The structure an image gives the device: its section records (R67). INGEST records are cluster numbers, INIT_WRITES
are (address, value) pairs in record order. -/
structure Structure where
  ports : List PortRec := []
  streams : List StreamRec := []
  regions : List RegionRec := []
  ingest : List Nat := []
  folios : List FolioRec := []
  panes : List PaneRec := []
  classes : List ClassRec := []
  codecs : List CodecRec := []
  seals : List SealRec := []
  single : SingleRecs := {}
  initWrites : List (Nat × BitVec 32) := []
  deriving DecidableEq, Repr

/-- A verified image on its way into force (R80, R82). -/
structure LoadedImage where
  isPartial : Bool
  cluster : Nat
  svn : Nat
  structHash : List Byte
  pubkey : List Byte
  body : Structure
  deriving DecidableEq, Repr

/-- Where a LOAD stands (R80, R82): verified and waiting for its frame boundary, or with its cluster quiesced. -/
inductive LoadStage where
  | fullPending | partialPending | quiesced
  deriving DecidableEq, Repr

/-- The fabric loader (R65 to R92, R510). -/
structure FabricState where
  /-- The structure in force, partial images included. -/
  now : Structure := {}
  /-- STRUCT_HASH of the partial image in force per cluster index. -/
  partials : List (Nat × List Byte) := []
  load : Option (LoadStage × LoadedImage) := none
  deriving DecidableEq, Repr

/-- A fuse field with its CRC word (13_strongroom.md R367). -/
structure CrcField where
  octets : List Byte := []
  crc : BitVec 32 := 0
  deriving DecidableEq, Repr

/-- The fuse array (R367, R368): blown bits, and which of the thermometers' bits are weakly blown. -/
structure Fuses where
  lifecycle : BitVec 16 := 0
  lifecycleWeak : BitVec 16 := 0
  svn : BitVec 64 := 0
  svnWeak : BitVec 64 := 0
  ownerProg : BitVec 4 := 0
  ownerRevoked : BitVec 4 := 0
  uid : CrcField := {}
  secret : CrcField := {}
  vendorHash : CrcField := {}
  ownerHash : List (Nat × CrcField) := []
  endorsement : CrcField := {}
  deriving DecidableEq, Repr

/-- A half of a key slot (R376, R379). Kind as CMD_ARG.KIND; parent 63 is the root. -/
structure KeySlot where
  valid : Bool := false
  kind : Nat := 0
  parent : Nat := 0
  parentGen : Nat := 0
  gen : Nat := 0
  label : List Byte := []
  key : List Byte := []
  tag : List Byte := []
  deriving DecidableEq, Repr

/-- A bank of 32 slots: half h of slot n under key 2 n + h, and the selectors (R379). -/
structure SlotBank where
  halves : List (Nat × KeySlot) := []
  sel : BitVec 32 := 0
  deriving DecidableEq, Repr

/-- An operation on engine 0 that holds the working key register (R380, R381). -/
inductive EngineKind where
  | sign | hmac | pubkey | attest
  deriving DecidableEq, Repr

structure EngineOp where
  kind : EngineKind
  /-- The parent of the slot at its load (63 the root), and the generations from it up the chain, the root's last (R381). -/
  parent : Nat
  chain : List Nat
  result : List Byte
  deriving DecidableEq, Repr

/-- A host operation accepted that waits for engine 0 (R384): its kind, slot and input data. -/
structure EngineWait where
  kind : EngineKind
  slot : Nat
  input : List Byte
  deriving DecidableEq, Repr

/-- An entry of the tamper log (R392). -/
structure TamperEntry where
  lifeS : Nat
  source : Nat
  power : Nat
  copied : Bool := false
  deriving DecidableEq, Repr

/-- A copy of the pairing list's integrity record (R388). -/
structure ListTag where
  seq : Nat
  tag : List Byte
  deriving DecidableEq, Repr

/-- What the Strongroom keeps of one Folio's seal commands (07_folio_commit_seal.md R225). -/
structure SealStore where
  seq : Nat := 0
  /-- The body of the APPLY or CLEAR in force, and the LOAD_SURFACE bodies by surface. -/
  apply : List Byte := []
  loads : List (Nat × List Byte) := []
  deriving DecidableEq, Repr

/-- The Strongroom (13_strongroom.md). Fuses and the store fields are non-volatile, the root, slots and tamper fields are
battery-backed, the rest is volatile. -/
structure StrongState where
  fuses : Fuses := {}
  root : List Byte := []
  rootCheck : Bool := true
  zeroCause : Nat := 5
  rootGen : Nat := 0
  bank : SlotBank := {}
  tampered : Bool := false
  tamperCount : Nat := 0
  tamperLog : List TamperEntry := []
  tamperCfg : BitVec 32 := 0x0808
  lifeClock : Nat := 0
  /-- The store in the Attic. -/
  ownerSeq : Nat := 0
  savedRootGen : Nat := 0
  savedSlotGens : List (Nat × Nat) := []
  savedLife : Nat := 0
  tagA : Option ListTag := none
  tagB : Option ListTag := none
  pendEntry : Option (ListTag × Nat × List Byte) := none
  seals : List (Nat × SealStore) := []
  /-- Volatile. -/
  testBank : SlotBank := {}
  debug : Nat := 0
  nonce : Option (List Byte × Nat) := none
  tokenResult : Nat := 0
  sessionEnd : Nat := 0
  engine : Option EngineOp := none
  waiting : Option EngineWait := none
  /-- A CELLAR_FORMAT permit: the drive's UUID (zeros for any) and when it ends (R386, R340). -/
  formatPermit : Option (List Byte × Nat) := none
  /-- The tamper inputs' levels as sampled, and the boundary register of the test port (R391, R400). -/
  tamperPins : BitVec 2 := 0
  /-- The life-clock crystal has stopped (R391). -/
  lxoStopped : Bool := false
  tapIr : BitVec 8 := 1
  /-- ZALU_VERSION of the attestation statement (R399), and the 68-bit register of DBG_ACCESS (R400). -/
  zaluVersion : Nat := 0
  dbgReg : BitVec 68 := 0
  boundary : List Bool := []
  extest : Bool := false
  deriving DecidableEq, Repr

/-- A packet taken whole from a lane (03_rasyn_link.md R99). -/
structure Packet where
  typ : Nat
  vc : Nat
  field2 : Bool
  last : Bool
  eof : Bool
  sof : Bool
  tag : Nat
  payload : List Byte
  /-- An AUDIO packet that was discarded: its samples are lost (R120). -/
  lost : Bool := false
  deriving DecidableEq, Repr

/-- A CTRL request of the device that awaits its acknowledgement (R107); one not yet sent has no tries. -/
structure CtrlReq where
  msgId : Nat
  opcode : Nat
  vc : Nat
  data : List Byte
  tries : Nat
  deriving DecidableEq, Repr

/-- An entry of a port's receive mailbox (R108). -/
structure RxEntry where
  opcode : Nat
  vc : Nat
  kind : Nat
  data : List Byte
  deriving DecidableEq, Repr

/-- The hidden state of a Rasyn port (R93 to R124, R511). -/
structure PortState where
  descParts : List (Nat × List Byte) := []
  /-- The nonce of the challenge that awaits its answer, and whether it was sent with the link up (R115, R119). -/
  nonce : Option (List Byte) := none
  reauth : Bool := false
  /-- An identity result, and a policy, that take effect at the next Ruling frame boundary (R117, R119). -/
  pendAuth : Option Nat := none
  pendPolicy : Bool := false
  policy : Nat := 0
  retraining : Bool := false
  alignFails : Nat := 0
  bcSeen : Bool := false
  darkFaults : Nat := 0
  autoCycled : Bool := false
  trainPreset : Nat := 0
  /-- Receiver: run of valid sync headers, invalid marks of the last 64, runs of good and bad frames, scrambler. -/
  headerRun : Nat := 0
  headerBad : BitVec 64 := 0
  frameRun : Nat := 0
  frameBad : Nat := 0
  frameLock : Bool := false
  descrambler : BitVec 58 := 0
  /-- FRAME_SEQ expected next on this lane; bonded pair: the FRAME_SEQ delivered next and the frames waiting for it (R95, R97). -/
  laneSeq : Option Nat := none
  nextSeq : Option Nat := none
  held : List (Nat × List (Byte × Bool)) := []
  /-- Packet-stream bytes not yet taken, each with its damaged mark (R98, R101). -/
  lane : List (Byte × Bool) := []
  packetLock : Bool := false
  /-- Packets taken whole and routed, oldest first. -/
  rx : List Packet := []
  /-- By VC the FRAME_SEQ of the frame in progress and whether the port delivers it (R117). -/
  vcFrames : List (Nat × (Nat × Bool)) := []
  txTags : List (Nat × Nat) := []
  reqs : List CtrlReq := []
  nextHostId : Nat := 0
  nextFwId : Nat := 0
  seenIds : List Nat := []
  mailbox : List RxEntry := []
  hcrcSecond : Nat := 0
  uncorrSecond : Nat := 0
  echoes : List (Int × Int) := []
  cycling : Bool := false
  /-- MODE_CHANGE and HOLD requests of the raster (08_raster_out.md R248, R252): 0 none, 1 awaited, 2 ACK, 3 NAK or TIMEOUT. -/
  modeReply : Nat := 0
  holdReply : Nat := 0
  /-- The MSG_IDs of those requests. A `holdReply` of 4 awaits the answer to a hold that another port has refused. -/
  modeMsg : Nat := 0
  holdMsg : Nat := 0
  /-- SDI (04_sdi_ports.md): the serial rate SEARCH tries (false integer, true 1000/1001), whether the frame in progress has
  carried a payload ID, and the frames without one since the last that had one. -/
  sdiTry : Bool := false
  pidSeen : Bool := false
  pidHad : Bool := false
  pidMissed : Nat := 0
  /-- An SDI output's format last sent, as its place in the table of 08_raster_out.md R234, and the line last sent (R135). -/
  sdiSent : Option Nat := none
  sdiLine : Nat := 0
  deriving DecidableEq, Repr

/-- What ECC finds in a 32-byte word of stream memory (10_stream_memory.md R286, R287). -/
inductive WordEcc where
  | good | oneSymbol | bad
  deriving DecidableEq, Repr

/-- An access that waits for the memory to leave power-down (R302). -/
structure MemReq where
  kind : Nat
  write : Bool
  cls : Nat
  addr : Nat
  len : Nat
  data : List Byte
  /-- The requester port, 22 for one that is not metered (R294); the channel time taken beyond the slots, in ns (R293). -/
  port : Nat := 22
  ns : Nat := 0
  deriving DecidableEq, Repr

/-- Stream memory and its fabric (R285 to R306). -/
structure MemState where
  /-- The 32 GiB; an unlisted byte reads 0 (log entry 26). -/
  bytes : List Host.Cell := []
  /-- ECC state of words by word number. -/
  ecc : List (Nat × WordEcc) := []
  held : List MemReq := []
  /-- Bytes admitted per 1 ms window to a class-0 requester port (R294). -/
  admitted : List (Nat × Nat) := []
  /-- Bytes served per class in the present millisecond, windows since it began, channel time charged per class in the window, and what
  of earlier windows a class still waits for (ns of the 32 channels). -/
  served : List (Nat × Nat) := []
  windows : Nat := 0
  charge : List (Nat × Rat) := []
  backlog : List (Nat × Rat) := []
  shedBefore : Bool := false
  /-- The band whose entitlements hold in the present window (R296). -/
  windowBand : Nat := 0
  /-- Class-0 bytes a requester port has moved in its 1 ms window (R294). -/
  metered : List (Nat × Nat) := []
  /-- Class-0 credits and queued 64-byte accesses of each channel, and the slot among five, 0 the reserved one (R292). -/
  class0 : List (Nat × (Nat × Nat)) := []
  slotPhase : Nat := 0
  /-- The longest class-0 latency of the present second, in ns (15_attic_blotter.md R459). -/
  latSecond : Nat := 0
  /-- Drift samples per channel since training (R299). -/
  samples : List (Nat × Nat) := []
  scrubWord : Nat := 0
  /-- Samples at or above a band's lower boundary and below it, up to 8, by 3 × stack + band (R295). -/
  bandRun : List (Nat × (Nat × Nat)) := []
  trainTries : Nat := 0
  deriving DecidableEq, Repr

/-- A piece of a row as received, samples at 12 bits in the order of the link (05_ingest_inkwell.md R144). -/
structure Segment where
  row : Nat
  x : Nat
  count : Nat
  full : Bool
  samples : List Nat
  deriving DecidableEq, Repr

/-- Who holds a pin (R160). -/
inductive Reader where
  | pane (folio pane : Nat) | engine (e : Nat) | motion (u : Nat)
  deriving DecidableEq, Repr

/-- A slot as its stream's slot manager knows it: STATE (0 EMPTY, 1 WRITING, 2 COMPLETE), the header's content and the pins
(R156, R159). -/
structure SlotInfo where
  st : Nat := 0
  flags : Nat := 0
  seq : Nat := 0
  startFrame : Nat := 0
  startLine : Nat := 0
  doneFrame : Nat := 0
  doneLine : Nat := 0
  doneFrac : Nat := 0
  /-- Ruling lines since reset at DONE. -/
  doneTotal : Nat := 0
  srcGap : Nat := 0
  lumaCrc : BitVec 32 := 0
  concealPix : Nat := 0
  concealRows : Nat := 0
  repeatCnt : Nat := 0
  sketches : Nat := 0
  vec : Nat := 0
  vecRef : Nat := 0
  srcKind : Nat := 0
  /-- Size and storage format of the frame, as its header gives them (R156). -/
  width : Nat := 0
  height : Nat := 0
  fmt : Nat := 0
  pins : List Reader := []
  deriving DecidableEq, Repr

/-- An ancillary packet as Marginalia keeps it (09_audio_marginalia.md R279, R282): line, position, words from DID to checksum. -/
structure AncPacket where
  line : Nat
  hoff : Nat
  words : List Nat
  deriving DecidableEq, Repr

/-- A Marginalia record (R278) with the packets kept for passing (R282). -/
structure MargRec where
  seq : Nat := 0
  frameSeq : Nat := 0
  tc : Option (List Byte × Bool) := none
  pid : Option (List Byte) := none
  hasMeta : Bool := false
  metaCut : Bool := false
  ancOver : Bool := false
  ancCount : Nat := 0
  items : List Byte := []
  passBytes : Nat := 0
  /-- The stream was tracked for passing when the frame started. -/
  track : Bool := false
  kept : List AncPacket := []
  deriving DecidableEq, Repr

/-- A frame being received or decoded (R141 to R149). -/
structure Writing where
  slot : Nat
  frameSeq : Option Nat
  startFrame : Nat
  startLine : Nat
  flags : Nat := 0
  segs : List Segment := []
  badFormat : Bool := false
  overflow : Bool := false
  noSketch : Bool := false
  noMotion : Bool := false
  /-- Its last pixel or EOF has arrived; it waits for completion. -/
  ended : Bool := false
  deriving DecidableEq, Repr

/-- A codestream in gathering, waiting or decoding (R148, R311). -/
structure Codestream where
  frameSeq : Nat
  buffer : Nat
  startFrame : Nat
  startLine : Nat
  flags : Nat
  length : Nat := 0
  got : List (Nat × Nat) := []
  marg : MargRec := {}
  noSketch : Bool := false
  noMotion : Bool := false
  deriving DecidableEq, Repr

/-- The hidden state of a stream (R138 to R168). -/
structure StreamState where
  slots : List SlotInfo := []
  newest : Option Nat := none
  second : Option Nat := none
  writing : Option Writing := none
  /-- A start seen whose slot is not yet taken: FRAME_SEQ and the Ruling position of its first pixel. -/
  startSeen : Option (Option Nat × Nat × Nat) := none
  /-- Packets in the cluster's input buffer behind that start (R145). -/
  buffer : List Packet := []
  sdiBuffer : List Segment := []
  lastFrameSeq : Option Nat := none
  lastSeq : Option Nat := none
  /-- FRAME_SEQ of the frame begun last (09_audio_marginalia.md R279), and whether that frame has completed, or for an XS stream arrived
  whole (01_ruling.md R28). -/
  begun : Option Nat := none
  lastDone : Bool := false
  gathering : Option Codestream := none
  nextBuffer : Nat := 0
  /-- Genlock: run of frames within ±0.25 line, run outside ±0.5 line (01_ruling.md R64). -/
  lockRun : Nat := 0
  lossRun : Nat := 0
  /-- Marginalia: the record of the frame in progress, of a frame whose start waits behind it, those of the newest complete
  frames (newest first), and META that names the next frame (09_audio_marginalia.md R278, R279). -/
  openMarg : Option MargRec := none
  nextMarg : Option MargRec := none
  margs : List MargRec := []
  early : Option (Nat × List Byte × Bool) := none
  deriving DecidableEq, Repr

/-- A motion estimation unit (R165 to R168): queued fields (stream, slot, SEQ, reference slot and its SEQ), and the one
being written. -/
structure MotState where
  queue : List (Nat × Nat × Nat × Nat × Nat) := []
  running : Option (Nat × Nat × Nat × Nat × Nat) := none
  deriving DecidableEq, Repr

/-- An input channel of the audio engine (09_audio_marginalia.md R255 to R262). -/
structure SrcChan where
  /-- Samples as they arrived, newest first, each with its validity. -/
  samples : List (Int × Bool) := []
  expected : Option Nat := none
  lastGood : Int := 0
  /-- Lost samples at the newest end of a run that no good sample has closed (R259). -/
  run : Nat := 0
  /-- Samples that have arrived since ACQUIRE, and the position among them at which the converter now reads (R262). -/
  total : Nat := 0
  phase : Rat := 0
  /-- Samples since LOCKED was entered, up to 480; and the ramp that follows an exit. -/
  fadeIn : Nat := 0
  rampLeft : Nat := 0
  lastOut : Int := 0
  /-- Meter: the present 10 ms (peak, sum of squares, count) and the last 30. -/
  block : Nat × Nat × Nat := (0, 0, 0)
  blocks : List (Nat × Nat × Nat) := []
  deriving DecidableEq, Repr

/-- A fade (R268): samples until it starts, its next sample, its length, its gains per input at start and end, and the
Folio's planned input when it is an AFV plan (R269). -/
structure AudioFade where
  wait : Nat
  k : Nat
  n : Nat
  cur : List (Nat × Rat)
  tgt : List (Nat × Rat)
  afv : Bool
  deriving DecidableEq, Repr

/-- An output channel (R263 to R271). -/
structure OutChan where
  d : Option Rat := none
  /-- Whether D has taken its first measured target since the engine started (R277). -/
  settled : Bool := false
  target : Option Rat := none
  fixedAdj : Option Int := none
  meas : List Rat := []
  count : Nat := 0
  measured : Bool := false
  /-- A delay step: the old delay, its next sample and its length. -/
  step : Option (Rat × Nat × Nat) := none
  fade : Option AudioFade := none
  queued : Option AudioFade := none
  /-- A bank switch: the pending words, and samples to its instant once its fade has begun. -/
  bank : Option (List (BitVec 32)) := none
  bankAt : Option Nat := none
  /-- The last 128 output samples, newest first. -/
  recent : List Int := []
  block : Nat × Nat × Nat := (0, 0, 0)
  blocks : List (Nat × Nat × Nat) := []
  deriving DecidableEq, Repr

/-- The audio engine and the Marginalia tracking (R255 to R283). -/
structure AudioState where
  k : Nat := 0
  /-- The K at which the delay store began; earlier words are not yet written (R263). -/
  startK : Nat := 0
  srcs : List (Nat × SrcChan) := []
  outs : List (Nat × OutChan) := []
  /-- Map writes that wait for the 1 ms boundary (R255, R266). -/
  inPend : List (Nat × BitVec 32) := []
  outPend : List (Nat × BitVec 32) := []
  /-- Audio periods to each Folio's next switching point. -/
  spWait : List (Nat × Nat) := []
  /-- The K of the next sample each port sends. -/
  portNext : List (Nat × Nat) := []
  /-- The K up to which an SDI output's samples have been due (04_sdi_ports.md R137). -/
  portDue : List (Nat × Nat) := []
  tracked : List Nat := []
  deriving DecidableEq, Repr

/-- What a codec engine works on (11_codecs_cellar.md R309 to R313): a decode with its codestream, or an encode of a pinned slot
for the host or for a Cellar entry. -/
inductive EngineJob where
  | decode (stream : Nat) (c : Codestream)
  | host (stream slot : Nat) (frame : List Byte)
  | cellar (entry stream slot : Nat)
  deriving DecidableEq, Repr

/-- A record of the Cellar in the pre-roll ring (R318, R331): its bytes, the Ruling line count and the Ruling frame of its instant (a
frame's DONE), and where it stands: 0 pre-roll, 1 pending, 2 with the drive. -/
structure CelRecord where
  id : Nat
  entry : Nat
  typ : Nat
  bytes : List Byte
  lineAt : Nat
  seq : Nat := 0
  missed : Nat := 0
  slotFlags : Nat := 0
  doneFrame : Nat := 0
  st : Nat := 0
  /-- Where on the drive it goes, once it is in a segment: first block of the extent and byte offset. -/
  place : Nat × Nat := (0, 0)
  deriving DecidableEq, Repr

/-- A segment in the making (R322, R330 to R332). -/
structure CelSeg where
  openId : Nat
  entry : Nat
  stream : Nat
  /-- The Ruling frame at which its interval ends, and that before which its records fall: the same unless it was stopped early. -/
  endFrame : Nat
  bound : Nat
  startCb : Nat
  header : List Byte
  body : List Byte := []
  frames : Nat := 0
  records : Nat := 0
  firstSeq : Nat := 0
  lastSeq : Nat := 0
  firstDone : Nat := 0
  marks : Nat := 0
  gapFrames : Nat := 0
  flags : Nat := 0
  opsec : Nat := 0
  deriving DecidableEq, Repr

/-- A closed segment whose footer is not yet written (R332 to R334). -/
structure CelClose where
  seg : CelSeg
  gseq : Nat
  cause : Nat
  opsec : Nat
  prot : Bool
  mode : Option Nat
  /-- Whether its signature runs on engine 0; and at the load of the recording key its parent, the generations from that up its chain, its
  own generation, and the key. -/
  loaded : Bool := false
  parent : Nat := 63
  gens : List Nat := []
  keyGen : Nat := 0
  key : List Byte := []
  deriving DecidableEq, Repr

/-- A Cellar entry at work (R315 to R324). -/
structure CelEntry where
  ctrl : BitVec 32 := 0
  src : BitVec 32 := 0
  audio : BitVec 32 := 0
  /-- 0 idle, 1 recording, 2 after its last trigger. -/
  mode : Nat := 0
  suspended : Bool := false
  stopDue : Bool := false
  hostStop : Bool := false
  lastSeq : Option Nat := none
  missed : Nat := 0
  missedAt : Nat := 0
  cause : Nat := 1
  nextSpan : Option Nat := none
  /-- Order of the queued job. -/
  job : Option Nat := none
  seg : Option CelSeg := none
  ended : List (CelSeg × Nat) := []
  deriving DecidableEq, Repr

/-- The drive as its superblock describes it (R328). -/
structure CelDrive where
  lbaShift : Nat := 12
  sbSeq : Nat := 0
  uuid : List Byte := []
  owner : List Byte := []
  cbCount : Nat := 0
  dirEntries : Nat := 0
  extentCb : Nat := 1
  dataStart : Nat := 0
  head : Nat := 0
  nextGseq : Nat := 0
  oldest : Nat := 0
  nextOpenId : Nat := 0
  protectExt : Nat := 0
  formatOpsec : Nat := 0
  formatCycles : Nat := 0
  lastChain : List Byte := []
  dsm : Bool := false
  /-- The most bytes of one transfer. -/
  transfer : Nat := 2 ^ 20
  deriving DecidableEq, Repr

/-- What an NVMe command's completion brings about (R325, R334). -/
inductive CelTag where
  | records (ids : List Nat) | other | dirEntry (gseq : Nat)
  deriving DecidableEq, Repr

/-- The codec pool and the Cellar (R307 to R340). -/
structure CellarState where
  engines : List (Nat × EngineJob) := []
  jobOrder : Nat := 0
  entries : List (Nat × CelEntry) := []
  ring : List CelRecord := []
  nextId : Nat := 0
  ringAt : Nat := 0
  drive : Option CelDrive := none
  /-- Directory entries by GSEQ, rising, and whether each has been written. -/
  dir : List (Nat × List Byte × Bool) := []
  dirPos : Nat := 0
  closing : List CelClose := []
  nvme : List (Nat × CelTag) := []
  nextTag : Nat := 0
  timeouts : Nat := 0
  dirty : Bool := false
  hbSeen : Bool := false
  hbLapsed : Bool := false
  pinLost : Bool := false
  powerFail : Bool := false
  /-- Bytes written to the ring and to the drive beyond what the present 10 ms allow, and records that wait for the ring (R319). -/
  ringDebt : Nat := 0
  driveDebt : Nat := 0
  ringWait : List CelRecord := []
  /-- Headers of extents allocated since the last superblock: block and bytes (R328). -/
  fresh : List (Nat × List Byte) := []
  /-- The footer mode last shown or used (R333). -/
  lastMode : Nat := 3
  /-- Ruling line counts of the Cellar jobs latched and abandoned over the last second, and overload checks since the last entry resumed
  (R324). -/
  latches : List Nat := []
  abandons : List Nat := []
  calm : Nat := 0
  deriving DecidableEq, Repr

/-- The settings of a pane as a latch takes them: its active registers, or the seal command in effect (06_panes.md R199,
07_folio_commit_seal.md R223). -/
structure PaneSet where
  /-- 0 OFF, 1 STREAM, 2 SURFACE, 3 FILL. -/
  kind : Nat := 0
  index : Nat := 0
  cropX : Nat := 0
  cropY : Nat := 0
  cropW : Nat := 0
  cropH : Nat := 0
  dstX : Int := 0
  dstY : Int := 0
  dstW : Nat := 0
  dstH : Nat := 0
  force : Option Nat := none
  filterH : Nat := 0
  filterV : Nat := 0
  rc : Nat := 0
  confLo : Nat := 0
  confHi : Nat := 0
  custom : Bool := false
  full : Bool := false
  cs : Nat := 0
  m : List Int := []
  offIn : List Int := []
  offOut : List Int := []
  alpha : Nat := 255
  mode : Nat := 0
  fill : BitVec 32 := 0
  cutEn : Bool := false
  slate : Nat := 0
  policy : Nat := 0
  sides : Nat := 0
  borderW : Nat := 0
  border : BitVec 32 := 0
  deriving DecidableEq, Repr

/-- What a pane draws in an output frame. -/
inductive PaneShow where
  | nothing | picture | surface | colour | cut
  deriving DecidableEq, Repr

/-- What a pane latched at a frame fetch start (06_panes.md R170 to R196). -/
structure PaneLatch where
  pane : Nat
  set : PaneSet
  show' : PaneShow := .nothing
  /-- Whether its picture cannot be known: an undefined encoding (00_scope.md R10). -/
  unknown : Bool := false
  /-- First byte of the level's part in each slot read, newest first; line pitch, format and size of the part. -/
  bases : List Nat := []
  pitch : Nat := 0
  fmt : Nat := 1
  w : Nat := 0
  h : Nat := 0
  /-- The clamped crop in full-frame pixels, the level, the mode used (0 NEAREST, 1 BLEND, 2 MOTION) and its weight. -/
  cx : Nat := 0
  cy : Nat := 0
  cw : Nat := 0
  ch : Nat := 0
  level : Nat := 0
  mode : Nat := 0
  weight : Nat := 256
  /-- The vector field of the newest slot: first byte and size in blocks. -/
  vecBase : Nat := 0
  vecW : Nat := 0
  vecH : Nat := 0
  /-- Marks of the frames shown (07_folio_commit_seal.md R221), and σ of R264 as Ruling lines and 1/65536 of a line. -/
  unverified : Bool := false
  synth : Bool := false
  concealed : Bool := false
  evidence : Bool := false
  sigma : Option (Nat × Nat) := none
  /-- The columns of the fetched level that its destination columns inside the raster need, first and last (R176). -/
  span : Nat × Nat := (0, 0)
  deriving DecidableEq, Repr

/-- A stored row a pane has fetched for the frame in progress: pane, slot (0 newest, 1 second, 2 vectors), row, bytes with the
poison mark. -/
structure FetchedRow where
  pane : Nat
  slot : Nat
  row : Nat
  bytes : List (Byte × Bool)
  deriving DecidableEq, Repr

/-- The hidden state of a Folio (06_panes.md, 07_folio_commit_seal.md, 08_raster_out.md). -/
structure FolioState where
  /-- Seal settings applied that wait for the next switching point (R225): the body, zeros for a CLEAR. -/
  sealDue : Option (List Byte) := none
  /-- Frames in a row that were not fresh, and that had no reason but STARTING (R226, R227). -/
  sealBad : Nat := 0
  sealGood : Nat := 0
  /-- New settings took effect, or fetching resumed, since the last latch (R227). -/
  sealRestart : Bool := false
  /-- A line crossing the seal pane's destination underran in the present frame, and in the one before. -/
  sealHit : Bool := false
  sealHitBefore : Bool := false
  /-- The seal pane's last shown picture, which stays while it is STALE under STALE_MODE FRAME (R228). -/
  sealKept : Option PaneLatch := none
  /-- The frame in progress: what each pane draws, lowest first (8 the seal pane); rows fetched; a frame begun and not
  retired; the rest of it sent black (R239). -/
  latches : List PaneLatch := []
  rows : List FetchedRow := []
  began : Bool := false
  black : Bool := false
  underran : Bool := false
  /-- The line that follows the present one, when a jump says so (R239). -/
  nextLine : Option Nat := none
  /-- A SNAP's line count that waits for the next switching point (R239), and the displacement from the R62 target. -/
  snap : Option Int := none
  disp : Int := 0
  /-- The present frame's place among the p of R62, and the frame start as a Ruling frame and line. -/
  tie : Nat := 0
  startAt : Nat × Nat := (0, 1)
  /-- The raster restarts at a common point (02_fabric_image.md R83). -/
  common : Bool := false
  /-- A timing change under way (R251): the taken values by offset; black frames still owed, and whether frame n has ended. -/
  taken : Option (List (Nat × BitVec 32)) := none
  takenStale : Nat := 0
  blackLeft : Nat := 0
  gap : Bool := false
  /-- The dry cache in the present frame (R205, R206): 0 not used, 1 read, 2 rebuilt; and whether the rebuild failed. -/
  dry : Nat := 0
  dryBad : Bool := false
  /-- The writeback frame in progress: row and its 16-bit components in output order, and underrun rows with their first
  pixel. -/
  wbRows : List (Nat × List Nat) := []
  wbUnder : List (Nat × Nat) := []
  wbOn : Bool := false
  /-- Hold (R248, R249): static frames in a row, whether this frame is still static, HOLD 01h sent, and an end due. -/
  still : Nat := 0
  moving : Bool := false
  holdAsked : Bool := false
  holdEnd : Bool := false
  /-- Display-timed mode: waiting for line 1, a report received since the last frame start, misses in a row. -/
  waiting : Bool := false
  report : Bool := false
  misses : Nat := 0
  /-- TE_LOST holds: the raster runs by itself until reports resume (R247). DISP_TIMED has been judged since it became active or
  the raster started (R245). -/
  teLost : Bool := false
  dtJudged : Bool := false
  /-- Panes whose stream was genlocked at the last fetch start; margins of the present frame per pane, least and greatest
  in 1/16 lines, with the rows measured; panes whose last whole frame had good margins; the pane on the cut-through route, and the destination
  row from which it shows the slot (R196 to R198). -/
  genlocked : BitVec 8 := 0
  margins : List (Nat × Int × Int × Nat) := []
  marginGood : BitVec 8 := 0
  cut : Option Nat := none
  cutLate : Option Nat := none
  /-- The slot the cut-through source frame is being written to, once that frame has begun. -/
  cutSlot : Option Nat := none
  /-- Ancillary packets queued for each port of the present frame (04_sdi_ports.md R137). -/
  anc : List (Nat × AncPacket) := []
  /-- Frame ends before a refused hold is asked for again, and the instant E of the newest report in ns (08_raster_out.md R246,
  R248). -/
  holdWait : Nat := 0
  teAt : Int := 0
  deriving DecidableEq, Repr

/-- The hidden state of the host endpoint (12_host_control.md R342, R347). -/
structure HostState where
  memorySpace : Bool := false
  functionMask : Bool := false
  /-- A BAR2 size that waits for Memory Space Enable to be 0. -/
  barPend : Option Nat := none
  /-- Vectors whose holdoff runs. -/
  holdoff : List Nat := []
  deriving DecidableEq, Repr

/-- The hidden state of SYSIF (12_host_control.md R361, R363): the flash operation under way (OP, address, length, bytes to
program), the consecutive failed polls of each regulator, and the products VOUT × IOUT of its last 10 polls, newest first. -/
structure SysifState where
  flashOp : Option (Nat × Nat × Nat × List Byte) := none
  pmbFails : List (Nat × Nat) := []
  polls : List (Nat × List Nat) := []
  deriving DecidableEq, Repr

/-- What a temperature sensor has behind its registers (14_power_thermal.md R422, R423): the learned gradient in 0.1 °C, the sum and
count of the first differences, implausible samples in a row, and ns of plausible samples since it failed. -/
structure SensorState where
  gradient : Rat := 0
  sum : Rat := 0
  count : Nat := 0
  bad : Nat := 0
  goodNs : Option Nat := none
  deriving DecidableEq, Repr

/-- The hidden state of power and temperature (14_power_thermal.md). -/
structure PowerState where
  /-- Main rails are down; only D01 lives (R411). -/
  vbatOnly : Bool := false
  /-- The shutdown latch in D00, and the shutdown note in D01: sensor, effective value, life-clock seconds (R434, R435). -/
  shutdown : Bool := false
  note : Option (Nat × Int × Nat) := none
  /-- The largest T_max of the present second, in 0.1 °C (15_attic_blotter.md R459). -/
  secMax : Option Int := none
  /-- Sum and count of each regulator's VOUT readings in the present second (R459). -/
  vouts : List (Nat × Nat × Nat) := []
  /-- WAKE_N is driven low (17_package_electrical.md, pin table). -/
  wakeN : Bool := false
  /-- The transition under way: its target (0 RUN, 1 QUIET, 2 STANDBY) and whether PWR_RESULT waits for it; and the request that
  waits for its end, likewise (R409, R415). -/
  target : Nat := 0
  owned : Bool := false
  next : Option (Nat × Bool) := none
  /-- Sample rounds since start-up, up to 64, and the sensors (R422). -/
  rounds : Nat := 0
  sensors : List (Nat × SensorState) := []
  /-- Samples in a row on the far side of a threshold: into WARN, out of it, into THROTTLE, out of it, into SHUTDOWN (R425). -/
  warnIn : Nat := 0
  warnOut : Nat := 0
  thrIn : Nat := 0
  thrOut : Nat := 0
  shutIn : Nat := 0
  /-- WARN is in force below THROTTLE as well (R425). -/
  warn : Bool := false
  /-- ns since the throttle step changed, up to 10 ms; P_entry and E in mW (R427, R428, R431). -/
  stepNs : Nat := 10000000
  pEntry : Rat := 0
  est : Rat := 0
  /-- Activity and leakage of each rail group in mW, before S_g, and the groups' S_g (R431, R432). -/
  groups : List (Nat × Nat) := []
  scales : List (Nat × Rat) := []
  /-- Entries that STANDBY removed from the event queue (01_ruling.md R61). -/
  flushed : Nat := 0
  deriving DecidableEq, Repr

/-- What D00 and the boot ROM keep across a reset (16_startup_faults.md R464 to R473). -/
structure BootState where
  /-- The causes that act at the coming boot, as RESET_CAUSE numbers them. -/
  causes : BitVec 5 := 0
  /-- A drain runs for a SOFT or WATCHDOG reset (R466). -/
  drain : Bool := false
  /-- In reset, from the reset to COLD_BOOT. -/
  held : Bool := true
  /-- The BOOT record has been made (R473). -/
  recorded : Bool := false
  /-- Records pending at the reset, as D00 counted them (R466). -/
  lost : Nat := 0
  /-- OP_S and OP_FRAC of D00 (R465, R467). -/
  opS : Nat := 0
  opFrac : Nat := 0
  /-- Consecutive WATCHDOG resets within 60 s of a release, and operating seconds since the release (R468). -/
  dogRun : Nat := 0
  sinceRelease : Option Nat := none
  /-- The Zalu copy loaded last (R468). -/
  copyB : Bool := false
  /-- The image found at boot waits for training and release (R469). -/
  waiting : Bool := false
  deriving DecidableEq, Repr

/-- An interconnect transaction as the debug trace holds it (16_startup_faults.md R478; its 16-byte format is not in the spec). -/
structure TraceEntry where
  master : Master
  write : Bool
  addr : Nat
  beats : Nat
  error : Bool
  deriving DecidableEq, Repr

/-- The whole block. -/
structure State where
  /-- Commands waiting, first in first out. -/
  pending : List Instr := []
  /-- The register file: BAR0 offset and value; an unlisted register holds its reset value. -/
  regs : List (Nat × BitVec 32) := []
  ruling : RulingState := {}
  /-- Synthesizer output o of synthesizer s under key 8 s + o. -/
  synOuts : List (Nat × SynOut) := []
  evq : EvqState := {}
  gpio : GpioState := {}
  attic : AtticState := {}
  blot : BlotState := {}
  fabric : FabricState := {}
  strong : StrongState := {}
  ports : List (Nat × PortState) := []
  mem : MemState := {}
  streams : List (Nat × StreamState) := []
  mots : List (Nat × MotState) := []
  /-- Codestreams that wait for an engine, in the order their EOF arrived (R310). -/
  xsWaiting : List (Nat × Codestream) := []
  audio : AudioState := {}
  cellar : CellarState := {}
  folios : List (Nat × FolioState) := []
  power : PowerState := {}
  boot : BootState := {}
  host : HostState := {}
  sysif : SysifState := {}
  /-- Boot flash by byte address; non-volatile, an unlisted byte reads FFh (R360; log entry 54). -/
  flash : List (Nat × Byte) := []
  /-- Management SRAM by byte offset, as the interconnect reaches it (R353; log entry 54). -/
  sram : List (Nat × Byte) := []
  /-- The debug trace in D60, oldest first, at most 4,096 entries (16_startup_faults.md R478). -/
  trace : List TraceEntry := []
  /-- The latched fault sources of GLOBAL.FAULT_SRC, before FAULT_EN (16_startup_faults.md R475, R476). -/
  faults : BitVec 10 := 0
  /-- What the per-second load registers accumulate: ingest pixels under 0 to 7, ingest bits written under 8 to 15, sketch
  pixels of the motion units under 16 and 17, codec pixels under 32 to 63, corrected FEC symbols of a
  port group under 100 and up. -/
  loads : List (Nat × Nat) := []
  /-- What the block has sent, oldest first (the model's own). -/
  out : List Output := []
  /-- Counter the free values of Config are applied to (the model's own). -/
  freeCount : Nat := 0
  deriving DecidableEq, Repr

/-- What a command answers. -/
abbrev Result := Host.Outcome State Fault Refusal

/-- The machine right after reset: every register at its reset value, every queue empty. -/
def State.reset : State := {}

end Sys2Proof.Machine
end

