-- ==== Sys2Proof/Machine/Ops.lean ====
section
/-!
DEFINITION. The named operations over registers: decoding an address (R499 to R503), reading and writing a register or a
field, raising an event flag with its counter (R11, R12), and the result blocks (R14 to R17).
-/
namespace Sys2Proof.Machine
open Sys2Proof

/-- The register of a block at offset `o`. -/
def rowAt (rows : List RegRow) (o : Nat) : Option RegRow :=
  rows.find? fun r => decide (r.off ≤ o) && ((o - r.off) % r.stride == 0) && decide ((o - r.off) / r.stride < r.count)

/-- A decoded register: the address its value is kept at, its row, and whether the access came through an active
mirror (R8, R502). -/
structure RegHit where
  addr : Nat
  row : RegRow
  mirror : Bool
  deriving DecidableEq, Repr

/-- Whether a register is staged, that is, has RWS fields. -/
def RegRow.staged (r : RegRow) : Bool := r.fields.any fun f => f.acc == .rws

/-- The Folio block of R502: two pages of eight subblocks, panes below 100h in each. -/
def folioLookup (addr : Nat) : Option RegHit :=
  let q := (addr - 0x100000) % 0x2000
  let x := q % 0x1000
  let row := if x % 0x200 < 0x100 then rowAt paneRows (x % 0x200) else rowAt folioRows x
  row.map fun r => ⟨if r.staged then addr else addr - q + x, r, decide (0x1000 ≤ q)⟩

/-- The register at a BAR0 offset, if the address holds one. -/
def regLookup (addr : Nat) : Option RegHit :=
  if 0x100000 ≤ addr ∧ addr < 0x180000 then folioLookup addr
  else if 0x18C000 ≤ addr ∧ addr < 0x190000 then
    (rowAt audioRows (addr - 0x180000 - 0x4000)).map fun r => ⟨addr, r, true⟩
  else match blockRows.find? fun b => decide (b.base ≤ addr) && decide (addr < b.base + b.size) with
    | none => none
    | some b =>
      let o := addr - b.base
      let r := if b.stride = 0 then rowAt b.rows o else if o / b.stride < b.count then rowAt b.rows (o % b.stride) else none
      r.map fun r => ⟨addr, r, false⟩

/-- The reset value a row's fields spell. -/
def RegRow.resetValue (r : RegRow) : BitVec 32 :=
  BitVec.ofNat 32 (r.fields.foldl (fun n f => n + f.reset * 2 ^ f.lo) 0)

/-- The reset value of the register at an address. The synthesizers' dividers have none in the field table; they read
what R34 computes at the nominal frequency with REF_PATH ×1 (log entry 4). -/
def regReset (addr : Nat) : BitVec 32 :=
  if addr = 0x20008 ∨ addr = 0x20108 then 118
  else if addr = 0x2000C then 0xCCCCCCCC
  else if addr = 0x2010C then 0xAE6AE6AE
  else match regLookup addr with
    | none => 0
    | some h => h.row.resetValue

/-- The value a register holds. -/
def State.rd (s : State) (addr : Nat) : BitVec 32 := Sparse.get regReset s.regs addr

/-- Sets what a register holds. -/
def State.wr (s : State) (addr : Nat) (v : BitVec 32) : State := { s with regs := Sparse.set regReset s.regs addr v }

/-- The mask of bits [hi:lo]. -/
def maskBits (hi lo : Nat) : BitVec 32 := (BitVec.allOnes 32 >>> (31 - (hi - lo))) <<< lo

/-- Bits [hi:lo] of a word, as a number. -/
def getBits (w : BitVec 32) (hi lo : Nat) : Nat := (w.toNat >>> lo) % 2 ^ (hi + 1 - lo)

/-- The word with bits [hi:lo] replaced by the low bits of `v`. -/
def setBits (w : BitVec 32) (hi lo : Nat) (v : Nat) : BitVec 32 :=
  (w &&& ~~~(maskBits hi lo)) ||| ((BitVec.ofNat 32 v <<< lo) &&& maskBits hi lo)

/-- The value of a field. -/
def State.get (s : State) (f : Fld) : Nat := getBits (s.rd f.addr) f.hi f.lo

/-- The state with a field set to the low bits of `v`. -/
def State.put (s : State) (f : Fld) (v : Nat) : State := s.wr f.addr (setBits (s.rd f.addr) f.hi f.lo v)

/-- Whether a one-bit field is 1. -/
def State.on (s : State) (f : Fld) : Bool := s.get f == 1

/-- A field read as a two's complement number. -/
def State.getInt (s : State) (f : Fld) : Int :=
  let v := s.get f
  if v < 2 ^ (f.hi - f.lo) then (v : Int) else (v : Int) - 2 ^ (f.hi + 1 - f.lo)

/-- The two's complement bits of a number. -/
def twos (w : Nat) (v : Int) : Nat := (v % (2 ^ w : Int)).toNat

/-- A number clamped to what `w` signed bits hold. -/
def clampInt (w : Nat) (v : Int) : Int := max (-(2 ^ (w - 1) : Int)) (min v (2 ^ (w - 1) - 1))

/-- The state with a signed field set, clamped to its range. -/
def State.putInt (s : State) (f : Fld) (v : Int) : State :=
  s.put f (twos (f.hi + 1 - f.lo) (clampInt (f.hi + 1 - f.lo) v))

/-- The state with `n` added to a counter field that saturates. -/
def State.bumpBy (s : State) (f : Fld) (n : Nat) : State :=
  s.put f (min (s.get f + n) (2 ^ (f.hi + 1 - f.lo) - 1))

/-- The state with a saturating counter field incremented. -/
def State.bump (s : State) (f : Fld) : State := s.bumpBy f 1

/-- A whole register as a field. -/
def whole (addr : Nat) : Fld := ⟨addr, 31, 0⟩

/-- The same field at the active mirror of a Folio page (R502). -/
def Fld.active (f : Fld) : Fld := ⟨f.addr + 0x1000, f.hi, f.lo⟩

/-- The state with the items of a list applied in turn. -/
def State.each {α : Type} (s : State) (l : List α) (f : State → α → State) : State := l.foldl f s

/-- `f` applied when `b` holds. -/
def State.when (s : State) (b : Bool) (f : State → State) : State := if b then f s else s

/-! Updates of the hidden state of one unit. -/

def State.modPower (s : State) (f : PowerState → PowerState) : State := { s with power := f s.power }
def State.modBoot (s : State) (f : BootState → BootState) : State := { s with boot := f s.boot }
def State.modStrong (s : State) (f : StrongState → StrongState) : State := { s with strong := f s.strong }
def State.modHost (s : State) (f : HostState → HostState) : State := { s with host := f s.host }
def State.modGpio (s : State) (f : GpioState → GpioState) : State := { s with gpio := f s.gpio }
def State.setWaiting (s : State) (l : List (Nat × Codestream)) : State := { s with xsWaiting := l }

/-- The newest 4,096 of the debug trace's entries (16_startup_faults.md R478). -/
@[irreducible] def traceKept (l : List TraceEntry) : List TraceEntry := l.drop (l.length - 4096)

/-- An entry of the debug trace. -/
def State.pushTrace (s : State) (t : TraceEntry) : State := { s with trace := traceKept (s.trace ++ [t]) }
def State.clearTrace (s : State) : State := { s with trace := [] }

/-- A byte of the management SRAM (12_host_control.md R353; log entry 54). -/
def State.setSram (s : State) (a : Nat) (b : Byte) : State := { s with sram := Sparse.set (fun _ => 0) s.sram a b }

def State.clearSram (s : State) : State := { s with sram := [] }

/-- Something the block sends. -/
def State.emit (s : State) (o : Output) : State := { s with out := s.out ++ [o] }

/-- The state after a free value has been drawn. -/
def State.drawn (s : State) : State := { s with freeCount := s.freeCount + 1 }

/-- Whether power domain `d` is powered, as DOM_ON shows (14_power_thermal.md R406, R407). -/
def State.domainOn (s : State) (d : Nat) : Bool :=
  if d < 32 then s.on ⟨Reg.power_DOM_ON_LO, d, d⟩ else s.on ⟨Reg.power_DOM_ON_HI, d - 32, d - 32⟩

/-- Whether cluster index `i` (02_fabric_image.md R65: port groups 0 to 23, ingest 24 to 31, Folio 32 to 39, codec 40 to 43) is
quiesced by a partial load (R82). -/
def State.quiesced (s : State) (i : Nat) : Bool :=
  match s.fabric.load with
  | some (.quiesced, im) => im.cluster == i
  | _ => false

/-- Whether a cluster's units run: its domain is powered and it is not quiesced. -/
def State.clusterUp (s : State) (i : Nat) : Bool :=
  s.domainOn (if i < 32 then i + 10 else i + 12) && !s.quiesced i

/-- In reset: from a reset of the device to its cold boot, with the management domain still off. -/
def State.inReset (s : State) : Bool := s.boot.held && !s.domainOn 2

/-- A byte of the boot flash (12_host_control.md R360). -/
def State.flashByte (s : State) (a : Nat) : Byte := Sparse.get (fun _ => 0xFF) s.flash a
def State.setFlash (s : State) (a : Nat) (b : Byte) : State := { s with flash := Sparse.set (fun _ => 0xFF) s.flash a b }

/-- Load accumulators of the per-second registers. -/
def State.addLoad (s : State) (key v : Nat) : State :=
  { s with loads := Sparse.set (fun _ => 0) s.loads key (Sparse.get (fun _ => 0) s.loads key + v) }

def State.clearLoads (s : State) : State := { s with loads := [] }

/-- A fault source of GLOBAL.FAULT_SRC begins or ends (16_startup_faults.md R475). -/
def State.setFault (s : State) (k : Nat) (v : Bool) : State :=
  { s with faults := if v then s.faults ||| BitVec.ofNat 10 (2 ^ k) else s.faults &&& ~~~(BitVec.ofNat 10 (2 ^ k)) }

/-- FAULT_SRC: sources 5 to 9 count only while their FAULT_EN bit is 1, source 4 while FAULT_ON_ATTIC is (R475). -/
def State.faultSrc (s : State) : BitVec 10 :=
  s.faults &&& ((if s.on R.blotter_BL_CTRL_FAULT_ON_ATTIC then 0x1F#10 else 0x0F#10)
    ||| BitVec.ofNat 10 (getBits (s.rd Reg.global_FAULT_EN) 9 5 * 32))

/-- Words `i, i + 1, …` of an array register set from bytes, byte 4i in bits 7:0. -/
def State.putBytes (s : State) : Nat → List Byte → State
  | a, b0 :: b1 :: b2 :: b3 :: bs =>
    State.putBytes (s.wr a (b3 ++ b2 ++ b1 ++ b0)) (a + 4) bs
  | a, [b0, b1, b2] => s.wr a (0#8 ++ b2 ++ b1 ++ b0)
  | a, [b0, b1] => s.wr a (0#16 ++ b1 ++ b0)
  | a, [b0] => s.wr a (0#24 ++ b0)
  | _, [] => s

/-- The four bytes of a word, lowest first. -/
def wordBytes (w : BitVec 32) : List Byte :=
  [w.extractLsb' 0 8, w.extractLsb' 8 8, w.extractLsb' 16 8, w.extractLsb' 24 8]

/-- The bytes of `n` words from an address on. -/
def State.getBytes (s : State) (a : Nat) : Nat → List Byte
  | 0 => []
  | n + 1 => wordBytes (s.rd a) ++ State.getBytes s (a + 4) n

end Sys2Proof.Machine
end

