-- ==== Sys2Proof/Machine/PortMode.lean ====
section
/-!
DEFINITION. A port's hidden state and what its MODE says (02_fabric_image.md R69); a Folio's hidden state and its ports.
-/
namespace Sys2Proof.Machine
open Sys2Proof

def State.port (s : State) (n : Nat) : PortState := Sparse.get (fun _ => {}) s.ports n
def State.setPort (s : State) (n : Nat) (p : PortState) : State := { s with ports := Sparse.set (fun _ => {}) s.ports n p }
def State.modPort (s : State) (n : Nat) (f : PortState → PortState) : State := s.setPort n (f (s.port n))

/-- PORTS MODE of a port, and what it says (R69). -/
def State.portMode (s : State) (n : Nat) : Nat := s.get (R.port_PORT_CFG_MODE n)
def State.rasynIn (s : State) (n : Nat) : Bool := s.portMode n == 1 || s.portMode n == 5
def State.rasynOut (s : State) (n : Nat) : Bool := s.portMode n == 2 || s.portMode n == 6
def State.rasyn (s : State) (n : Nat) : Bool := s.rasynIn n || s.rasynOut n
def State.sdiIn (s : State) (n : Nat) : Bool := s.portMode n == 3
def State.sdiOut (s : State) (n : Nat) : Bool := s.portMode n == 4

/-- A Folio's hidden state, and the ports it drives (07_folio_commit_seal.md R201). -/
def State.folio (s : State) (f : Nat) : FolioState := Sparse.get (fun _ => ({} : FolioState)) s.folios f
def State.modFolio (s : State) (f : Nat) (g : FolioState → FolioState) : State :=
  { s with folios := Sparse.set (fun _ => ({} : FolioState)) s.folios f (g (s.folio f)) }
def State.folioOn (s : State) (f : Nat) : Bool := s.on (R.folio_CFG_PRESENT f)
def State.folioPorts (s : State) (f : Nat) : List Nat :=
  [s.get (R.folio_CFG_PORT_A f), s.get (R.folio_CFG_PORT_B f)].filter fun n => decide (n < 96)
def State.folioOfPort (s : State) (n : Nat) : Option Nat :=
  (List.range 64).find? fun f => s.folioOn f && (s.folioPorts f).contains n

end Sys2Proof.Machine
end

