-- ==== Sys2Proof/Machine/Live.lean ====
section
/-!
DEFINITION. Which blocks of the register map answer (02_fabric_image.md R84; 12_host_control.md R357; 14_power_thermal.md R407), and a
write by the host or the management core as such a block takes it.
-/
namespace Sys2Proof.Machine
open Sys2Proof

/-! ### Which blocks answer -/

/-- Whether BAR0 decodes an address (18_register_map.md R499). -/
def bar0Decodes (a : Nat) : Bool :=
  decide (a < 0x30000) || (decide (0x40000 ≤ a) && decide (a < 0x70000)) || (decide (0x80000 ≤ a) && decide (a < 0x99000))
    || (decide (0xC0000 ≤ a) && decide (a < 0xC9000)) || (decide (0x100000 ≤ a) && decide (a < 0x230000))
    || (decide (0x300000 ≤ a) && decide (a < 0x400000))

/-- The instance of a block a register belongs to. -/
inductive BlockOf where
  | port (n : Nat) | stream (n : Nat) | ingest (c : Nat) | motion (u : Nat) | folio (f : Nat) | codec (e : Nat) | coef (f : Nat)
  | domain (d : Nat)
  deriving DecidableEq, Repr

/-- The block at an address: where it is no repeated unit, the domain that holds it (14_power_thermal.md R406; log entry 53). -/
def blockAt (a : Nat) : BlockOf :=
  if a < 0x10000 then .domain 2
  else if a < 0x30000 then .domain 5
  else if a < 0x70000 then .port ((a - 0x40000) / 0x800)
  else if a < 0x99000 then .stream ((a - 0x80000) / 0x40)
  else if a < 0xC8000 then .ingest ((a - 0xC0000) / 0x1000)
  else if a < 0xC9000 then .motion ((a - 0xC8000) / 0x100)
  else if a < 0x180000 then .folio ((a - 0x100000) / 0x2000)
  else if a < 0x1A0000 then .domain 56
  else if a < 0x1B0000 then .codec ((a - 0x1A0000) / 0x800)
  else if a < 0x1C0000 then .domain 9
  else if a < 0x1D0000 then .domain 57
  else if a < 0x1E0000 then .domain 3
  else if a < 0x1F0000 then .domain 0
  else if a < 0x200000 then .domain 4
  else if a < 0x210000 then .domain 7
  else if a < 0x220000 then .domain 61
  else if a < 0x230000 then .domain 2
  else if 0x310000 ≤ a ∧ a < 0x330000 then .coef ((a - 0x310000) / 0x800)
  else .domain 57

/-- The power domain of a cluster index. -/
def clusterDomain (i : Nat) : Nat := if i < 32 then i + 10 else i + 12

/-- The cluster whose blocks R81 of 02_fabric_image.md counts a register in. -/
def State.clusterOfAddr (s : State) (a : Nat) : Option Nat :=
  match blockAt a with
  | .port n => some (n / 4)
  | .stream n => if n < 1536 then some (n / 64) else some (32 + s.get (R.stream_SLOT_STRIDE_WB_FOLIO n) / 8)
  | .ingest c => some (24 + c)
  | .folio f => some (32 + f / 8)
  | .codec e => some (40 + e / 8)
  | _ => none

/-- The power domain a register lies in. -/
def State.domainOfAddr (s : State) (a : Nat) : Nat :=
  match blockAt a with
  | .motion u => 42 + u
  | .coef f => 44 + f / 8
  | .domain d => d
  | _ => clusterDomain ((s.clusterOfAddr a).getD 0)

/-- Whether the unit whose block this is is present (R357; 05_ingest_inkwell.md R138; 07_folio_commit_seal.md R201). -/
def State.unitPresent (s : State) (a : Nat) : Bool :=
  match blockAt a with
  | .port n => s.fabric.now.ports.any fun r => r.port == n
  | .stream n => s.on (R.stream_CFG_PRESENT n)
  | .ingest c => s.on (R.ingest_CFG_PRESENT c)
  | .folio f => s.folioOn f
  | .codec e => s.on (R.codec_CFG_PRESENT e)
  | .domain 9 => s.on R.cellar_CFG_PRESENT
  | _ => true

/-- Registers of a port that its MODE leaves out (04_sdi_ports.md R126; 03_rasyn_link.md for a bond partner, whose counters lie at
040h to 070h). -/
def State.portRegLive (s : State) (n o : Nat) : Bool :=
  let mode := s.portMode n
  if o = 0 then true
  else if mode = 3 ∨ mode = 4 then decide (0x700 ≤ o)
  else if 0x700 ≤ o then false
  else mode != 7 || (decide (0x40 ≤ o) && decide (o ≤ 0x70))

/-- Whether a register answers for itself: its domain on, its unit present, its cluster not quiesced. In STANDBY only the POWER
block does (14_power_thermal.md R409), after FIRMWARE_FAIL only GLOBAL and the flash registers do (16_startup_faults.md R468). -/
def State.regLive (s : State) (a : Nat) : Bool :=
  let st := s.get R.power_PWR_STATE_STATE
  let stage := s.get R.global_BOOT_STATUS_STAGE
  let power := decide (0x1E0000 ≤ a) && decide (a < 0x1F0000)
  let flash := decide (Reg.sysif_FLASH_CMD ≤ a) && decide (a ≤ Reg.sysif_FLASH_CFG) || decide (0x210400 ≤ a) && decide (a < 0x210500)
  if s.domainOn 2 = false then false
  else if st = 2 then power
  else if stage = 6 then decide (a < 0x10000) || flash
  else s.domainOn (s.domainOfAddr a) && s.unitPresent a && !((s.clusterOfAddr a).any s.quiesced)
    && (match blockAt a with | .port n => s.portRegLive n ((a - 0x40000) % 0x800) | _ => true)

/-! ### Writes of the host and the management core -/

/-- A row that is a register write acts only where its block answers (R357); in a quiesced cluster it is dropped and counted
(02_fabric_image.md R84). -/
def State.hostWrite (s : State) (a : Nat) (f : State → State) : State :=
  if (s.clusterOfAddr a).any s.quiesced then s.bump R.fabric_WINDOW_DROP else if s.regLive a then f s else s

/-- The same for a row with a result of its own. -/
def State.rowWrite (s : State) (a : Nat) (f : State → Result) : Result :=
  if (s.clusterOfAddr a).any s.quiesced then .next (s.bump R.fabric_WINDOW_DROP) else if s.regLive a then f s else .next s

end Sys2Proof.Machine
end

