-- ==== Sys2Proof/Machine/Flags.lean ====
section
/-!
DEFINITION. Event flags with their counters (00_scope.md R11 to R13) and result blocks (R14 to R17).
-/
namespace Sys2Proof.Machine
open Sys2Proof

/-- The counter half of an event flag (R12): bits [15:0] of word b div 2 for even b, [31:16] for odd b. -/
def Flg.counter (f : Flg) : Fld :=
  if f.bit % 2 = 0 then ⟨f.cnt + 4 * (f.bit / 2), 15, 0⟩ else ⟨f.cnt + 4 * (f.bit / 2), 31, 16⟩

/-- The flag itself as a field. -/
def Flg.fld (f : Flg) : Fld := ⟨f.addr, f.bit, f.bit⟩

/-- Hardware sets an event flag: the flag reads 1 and its counter goes up, saturating at FFFFh (R12). -/
def State.raise (s : State) (f : Flg) : State := (s.put f.fld 1).bump f.counter

/-- Raises a flag `n` times at once. -/
def State.raiseN (s : State) (f : Flg) (n : Nat) : State := if n = 0 then s else (s.put f.fld 1).bumpBy f.counter n

/-- Raises a flag when `b` holds. -/
def State.raiseIf (s : State) (b : Bool) (f : Flg) : State := if b then s.raise f else s

/-- The sequence number after `n` (R15): 1 after reset, up by 1, FFFFh to 1. -/
def nextSeq (n : Nat) : Nat := if n = 0xFFFF then 1 else n + 1

/-- DONE of the result block whose status word is at `a`. -/
def State.done (s : State) (a : Nat) : Bool := s.get ⟨a, 31, 31⟩ == 1

/-- A unit accepts a command: DONE becomes 0 and the rest of the block keeps the previous result (R14). -/
def State.accept (s : State) (a : Nat) : State := s.put ⟨a, 31, 31⟩ 0

/-- A command completes: STATUS, the next SEQ and DONE, in one step (R14, R15). -/
def State.complete (s : State) (a : Nat) (status : Nat) : State :=
  s.wr a (setBits (setBits (setBits 0 31 31 1) 30 16 status) 15 0 (nextSeq (s.get ⟨a, 15, 0⟩)))

/-- A command offered to a unit whose result block is at `a`: ignored with `overrun` raised while DONE is 0 (R17), else `f`. It is a
register write, which the unit's block must answer. -/
def State.offer (s : State) (a : Nat) (overrun : Flg) (f : State → State) : State :=
  s.hostWrite a fun s => if s.done a then f s else s.raise overrun

/-- A burst completed on a reset master's behalf (12_host_control.md R358). -/
def State.burstRescue (s : State) : State := (s.bump R.hostif_BURST_RESCUES).raise Flag.hostif_BURST_RESCUE

end Sys2Proof.Machine
end

