-- ==== Sys2Proof/Machine/AtticOps.lean ====
section
/-!
DEFINITION. The Attic's page writes, counters and protection (15_attic_blotter.md R436 to R446), and the making of
Blotter records (R450 to R458).
-/
namespace Sys2Proof.Machine
open Sys2Proof

def State.modAttic (s : State) (f : AtticState → AtticState) : State := { s with attic := f s.attic }
def State.modBlot (s : State) (f : BlotState → BlotState) : State := { s with blot := f s.blot }

/-- The Attic byte at an address; an unlisted one is erased (R436). -/
def State.atticAt (s : State) (a : Nat) : AtticByte := Sparse.get (fun _ => {}) s.attic.bytes a

def State.setAttic (s : State) (a : Nat) (b : AtticByte) : State :=
  s.modAttic fun u => { u with bytes := Sparse.set (fun _ => {}) u.bytes a b }

/-- The 64 bytes of a page at a normal read. -/
def State.atticPage (s : State) (p : Nat) : List Byte := (List.range 64).map fun i => (s.atticAt (64 * p + i)).val

/-- Whether ATTIC_BP.LEVEL protects a page (R446); pages 4480 to 7679 never are. -/
def State.atticProtected (s : State) (p : Nat) : Bool :=
  match s.get R.blotter_ATTIC_BP_LEVEL with
  | 0 => false
  | 1 => decide (12288 ≤ p)
  | 2 => decide (8192 ≤ p)
  | _ => decide (8192 ≤ p) || decide (p < 4480)

/-- The rank of a source of writes in its bank (R438). -/
def AtticSrc.rank : AtticSrc → Nat
  | .saveSet => 0 | .m2 => 1 | .m3 => 2 | .m0 => 3 | .refresh => 4 | .host => 5

/-- BANK_BUSY shows the banks that are writing (R437). -/
def State.showBanks (s : State) : State :=
  s.put R.blotter_ATTIC_STATUS_BANK_BUSY (s.attic.running.foldl (fun n w => n ||| 2 ^ (w.page % 8)) 0)

/-- The waiting write a bank serves next: lowest rank first, then order of issue (R438). -/
def nextWrite (ws : List AtticWrite) (bank : Nat) : Option AtticWrite :=
  (ws.filter fun w => w.page % 8 == bank).foldl
    (fun best w => match best with | none => some w | some b => if w.src.rank < b.src.rank then some w else some b) none

/-- Whether a page of a save area belongs to round 1 (R447). -/
def firstRound (page : Nat) : Bool := page % 16 < 8

/-- A write of the save set's round 2 waits until its round 1 is complete (R447). -/
def State.roundWaits (s : State) (w : AtticWrite) : Bool :=
  w.src == .saveSet && !firstRound w.page && (s.attic.running ++ s.attic.waiting).any fun x => x.src == .saveSet && firstRound x.page

/-- An idle bank starts its next waiting write. -/
def State.startBank (s : State) (bank : Nat) : State :=
  if s.attic.running.any fun w => w.page % 8 == bank then s
  else match nextWrite s.attic.waiting bank with
    | none => s
    | some w =>
      if s.roundWaits w then s
      else (s.modAttic fun u => { u with running := u.running ++ [w], waiting := u.waiting.erase w }).showBanks

/-- A page write is issued and starts when its bank is free. -/
def State.atticIssue (s : State) (w : AtticWrite) : State :=
  (s.modAttic fun u => { u with waiting := u.waiting ++ [w] }).startBank (w.page % 8)

/-- The next page write of a sealed group is issued; the others follow it one by one (R442). -/
def State.issueGroup (s : State) (src : AtticSrc) (steps : List (Nat × List (Nat × Byte) × Bool)) : State :=
  match steps with
  | [] => s
  | (page, loaded, commit) :: rest => s.atticIssue ⟨src, page, loaded, commit, .group rest, false⟩

/-- Loaded bytes from offset `o` on. -/
def loadFrom (o : Nat) (bs : List Byte) : List (Nat × Byte) := (bs.zipIdx).map fun p => (o + p.2, p.1)

/-- The page of a device counter; the place in pages 4512 to 4607 is the model's (log entry 16). -/
inductive DevCounter where
  | cycles | opReserve | seqReserve | wear (b : Nat) | clearSeq
  deriving DecidableEq, Repr

def DevCounter.page : DevCounter → Nat
  | .cycles => 4512 | .opReserve => 4513 | .seqReserve => 4514 | .wear b => 4515 + b | .clearSeq => 4523

/-- A cell of a counter page (R443): none when it is invalid (R444), else its value and sequence. -/
def State.counterCell (s : State) (page c : Nat) : Option (Nat × Nat) :=
  let bs := (List.range 4).map fun i => s.atticAt (64 * page + 4 * c + i)
  let v := leNat (bs.map fun b => b.val)
  let q := v / 2 ^ 28
  if (bs.any fun b => b.weak || b.cond == .bad) ∨ q = 15 then none else some (v % 2 ^ 28, q)

/-- The newest cell of a counter: its number, value and sequence (R444). -/
def State.newestCell (s : State) (page : Nat) : Option (Nat × Nat × Nat) :=
  let valid := (List.range 16).filterMap fun c => (s.counterCell page c).map fun x => (c, x.1, x.2)
  match valid with
  | [] => none
  | (_, _, q) :: _ => (valid.filter fun x => x.2.2 == q).getLast?

/-- The write that gives a counter a new value, in the next cell (R443, R444); values saturate. -/
def State.counterWrite (s : State) (d : DevCounter) (src : AtticSrc) (v : Nat) : State :=
  let (c, q) := match s.newestCell d.page with
    | none => (0, 0)
    | some (n, _, q) => if n = 15 then (0, (q + 1) % 15) else (n + 1, q)
  s.atticIssue ⟨src, d.page, loadFrom (4 * c) (leBytes 4 (min v 0x0FFFFFFF + q * 2 ^ 28)), false, .plain, false⟩

/-- Severity and fold window (seconds, 0 for none) of a code (R453). -/
def codeTable (code : Nat) : Nat × Nat :=
  match code with
  | 0x0001 => (2, 0) | 0x0002 => (2, 0) | 0x0003 => (5, 0) | 0x0004 => (4, 1) | 0x0005 => (3, 0) | 0x0006 => (3, 0)
  | 0x0007 => (2, 0) | 0x0008 => (2, 0) | 0x0009 => (5, 0) | 0x000A => (5, 0)
  | 0x0101 => (3, 1) | 0x0102 => (4, 0) | 0x0103 => (2, 0) | 0x0104 => (2, 0)
  | 0x0201 => (5, 0) | 0x0202 => (3, 0) | 0x0203 => (5, 0) | 0x0204 => (4, 0)
  | 0x0301 => (4, 0) | 0x0302 => (2, 0)
  | 0x0401 => (2, 1) | 0x0402 => (4, 0) | 0x0403 => (4, 1)
  | 0x0501 => (3, 0) | 0x0502 => (2, 10) | 0x0601 => (4, 1) | 0x0701 => (3, 0) | 0x0801 => (2, 0)
  | _ => (0, 0)

/-- The 28 bytes of a record before its check. -/
def BlotRecord.body (r : BlotRecord) : List Byte :=
  let fl := r.sev + (if r.notPersisted then 8 else 0) + (if r.fromSave then 16 else 0) + (if r.vbatCopy then 32 else 0)
    + (if r.folded then 64 else 0)
  leBytes 4 r.seq ++ leBytes 4 r.opS ++ leBytes 2 r.opFrac ++ leBytes 3 r.cycles ++ leBytes 1 fl ++ leBytes 2 r.code
    ++ leBytes 2 r.reps ++ leBytes 2 r.inst ++ slice r.data 0 8

/-- The 32 bytes of a record (R450). -/
def BlotRecord.bytes (r : BlotRecord) : List Byte := r.body ++ leBytes 4 (crc32 r.body).toNat

/-- VOL_LEVEL and PENDING follow the ring. -/
def State.showBlot (s : State) : State :=
  (s.put R.blotter_BL_STATUS_VOL_LEVEL s.blot.ring.length).put R.blotter_BL_STATUS_PENDING
    (s.blot.ring.filter fun r => r.pending).length

/-- The counter of drops of an event (R456). -/
def dropField (code : Nat) : Fld :=
  let a := Reg.blotter_DROP ((code / 256) * 8 + (code % 256) / 2)
  if code % 2 = 0 then ⟨a, 15, 0⟩ else ⟨a, 31, 16⟩

/-- A record is dropped (R456). -/
def State.dropRecord (s : State) (code sev : Nat) : State :=
  let s := ((s.bump (dropField code)).bump R.blotter_DROP_TOTAL).raise Flag.blotter_DROP
  if s.get R.blotter_BL_CTRL_PERSIST_MIN ≤ sev then s.bump R.blotter_PERSIST_FAIL else s

/-- The record that leaves a full ring for one of severity `sev` (R456), if any. -/
def evicted (ring : List BlotRecord) (sev : Nat) : Option BlotRecord :=
  match ring.find? fun r => r.persisted with
  | some r => some r
  | none =>
    ring.foldl (fun best r =>
      if sev ≤ r.sev then best
      else match best with | none => some r | some b => if r.sev < b.sev then some r else some b) none

/-- A closed record becomes pending, or carries NOT_PERSISTED once the Attic is FAILED (R457, R458). -/
def State.closeRecord (s : State) (seq : Nat) : State :=
  let failed := s.on R.blotter_ATTIC_STATUS_FAILED
  let m := s.get R.blotter_BL_CTRL_PERSIST_MIN
  match s.blot.ring.find? fun r => r.seq == seq with
  | none => s
  | some r =>
    let r' := { r with isOpen := false, pending := decide (m ≤ r.sev) && !failed && !r.notPersisted,
                       notPersisted := r.notPersisted || (decide (m ≤ r.sev) && failed) }
    let s := s.modBlot fun b => { b with ring := b.ring.map fun x => if x.seq = seq then r' else x }
    let s := if m ≤ r.sev ∧ failed then (s.bump R.blotter_PERSIST_FAIL).raise Flag.blotter_PERSIST_FAIL else s
    s.showBlot

/-- Places a new record in the volatile ring (R451, R456) and closes it when it has no fold window. -/
def State.acceptRecord (s : State) (r : BlotRecord) (fold : Bool) : State :=
  let s := if s.attic.seqReserve * 4096 ≤ s.blot.nextSeq then
      let v := s.attic.seqReserve + 1
      (s.modAttic fun u => { u with seqReserve := v }).counterWrite .seqReserve .m3 v
    else s
  let n := s.blot.nextSeq
  let r := { r with seq := n, isOpen := fold }
  let s := s.modBlot fun b => { b with ring := b.ring ++ [r], nextSeq := (n + 1) % 2 ^ 32 }
  let s := (s.put R.blotter_NEWEST_SEQ n).raiseIf (r.sev == 5) Flag.blotter_CRITICAL
  if fold then s.showBlot else s.closeRecord n

/-- Makes a record (R450 to R456): folds it into an open one, drops it beyond its unit's rate, or places it. -/
def State.blotter (s : State) (code inst : Nat) (data : List Byte) (vbat fromFault : Bool := false) : State :=
  let (sev, fold) := codeTable code
  let u := code / 256
  match s.blot.ring.find? fun r => r.isOpen && r.code == code && r.inst == inst with
  | some o =>
    s.modBlot fun b =>
      { b with ring := b.ring.map fun x =>
          if x.seq = o.seq then { x with reps := min (x.reps + 1) 0xFFFF, folded := true } else x }
  | none =>
    let used := Sparse.get (fun _ => 0) s.blot.used u
    if s.get (R.blotter_RATE_BURST u) ≤ used then s.dropRecord code sev
    else
      let s := s.modBlot fun b => { b with used := Sparse.set (fun _ => 0) b.used u (used + 1) }
      let r : BlotRecord :=
        { seq := 0, opS := s.get R.blotter_OP_S, opFrac := s.get R.blotter_OP_FRAC, cycles := s.get R.blotter_CYCLES,
          sev := sev, code := code, inst := inst, data := slice data 0 8, vbatCopy := vbat, notPersisted := fromFault }
      if s.blot.ring.length < 4096 then s.acceptRecord r (fold != 0)
      else match evicted s.blot.ring sev with
        | none => s.dropRecord code sev
        | some x =>
          let s := s.modBlot fun b => { b with ring := b.ring.filter fun y => y.seq != x.seq }
          let s := if x.persisted then s else s.dropRecord x.code x.sev
          s.acceptRecord r (fold != 0)

end Sys2Proof.Machine
end

