-- ==== Sys2Proof/Machine/StrongroomOps.lean ====
section
/-!
DEFINITION. The Strongroom's fuses, keys, lists and measurements (13_strongroom.md R367 to R405), and the trust of a
signature block (02_fabric_image.md R73, R74).
-/
namespace Sys2Proof.Machine
open Sys2Proof

def State.modFuses (s : State) (f : Fuses → Fuses) : State := s.modStrong fun u => { u with fuses := f u.fuses }

/-- The count of a thermometer: the index of its highest blown bit plus 1 (R368). -/
def thermo {w : Nat} (b : BitVec w) : Nat := b.toNat.log2 + (if b.toNat = 0 then 0 else 1)

/-- The completion R368 makes at each boot: every bit below the highest blown one is blown and strong. -/
def thermoFill {w : Nat} (b weak : BitVec w) : BitVec w × BitVec w :=
  let n := thermo b
  (BitVec.ofNat w (2 ^ n - 1), BitVec.ofNat w (weak.toNat / 2 ^ (n - 1) * 2 ^ (n - 1)))

/-- Whether a field's CRC is good (R367, R369). -/
def CrcField.good (f : CrcField) (n : Nat) : Bool := crc32 (slice f.octets 0 n) == f.crc

/-- The lifecycle states (R370), as STATE.LIFECYCLE codes them. -/
inductive Lifecycle where
  | blank | vendor | owned | returned | scrapped
  deriving DecidableEq, Repr

def Lifecycle.code : Lifecycle → Nat
  | .blank => 0 | .vendor => 1 | .owned => 2 | .returned => 3 | .scrapped => 4

/-- The state a LIFECYCLE count means (R370). -/
def lifecycleOf (n : Nat) : Lifecycle :=
  if n = 0 then .blank else if n = 1 then .vendor else if 10 ≤ n then .scrapped
  else if n % 2 = 0 then .owned else .returned

def State.lcCount (s : State) : Nat := thermo s.strong.fuses.lifecycle
def State.lifecycle (s : State) : Lifecycle := lifecycleOf s.lcCount

/-- The anti-rollback count V (R91). -/
def State.svnFuse (s : State) : Nat := thermo s.strong.fuses.svn

/-- DEVICE_UID; one whose CRC fails reads as zeros (R369). -/
def State.uid (s : State) : List Byte :=
  if s.strong.fuses.uid.good 16 then slice s.strong.fuses.uid.octets 0 16 else List.replicate 16 0

/-- Whether the test root is in use: debug level FULL or FULL_ENDED (R403, R404). -/
def State.testRoot (s : State) : Bool := s.strong.debug == 2 || s.strong.debug == 3

def asciiBytes (t : String) : List Byte := t.toList.map fun c => BitVec.ofNat 8 c.toNat

/-- The published test root (R377). -/
def testRootBytes : List Byte := sha384 (asciiBytes "CV96-TEST-ROOT")

/-- The root in use (R373). -/
def State.rootBytes (s : State) : List Byte := if s.testRoot then testRootBytes else slice s.strong.root 0 48

/-- ROOT_STATE: 0 NORMAL, 1 ZERO, 2 TEST (R373). -/
def State.rootState (s : State) : Nat :=
  if s.testRoot then 2
  else if s.strong.rootCheck && (s.strong.root.any fun b => b != 0) then 0 else 1

def State.slotBank (s : State) : SlotBank := if s.testRoot then s.strong.testBank else s.strong.bank
def State.setBank (s : State) (b : SlotBank) : State :=
  s.modStrong fun u => if s.testRoot then { u with testBank := b } else { u with bank := b }

/-- The half of slot `n` that the selector names. -/
def SlotBank.slot (b : SlotBank) (n : Nat) : KeySlot :=
  Sparse.get (fun _ => {}) b.halves (2 * n + (if b.sel.getLsbD n then 1 else 0))

def State.slot (s : State) (n : Nat) : KeySlot := s.slotBank.slot n

/-- The new contents go into the inactive half, and the selector is flipped (R379). -/
def SlotBank.replace (b : SlotBank) (n : Nat) (k : KeySlot) : SlotBank :=
  ⟨Sparse.set (fun _ => {}) b.halves (2 * n + (if b.sel.getLsbD n then 0 else 1)) k, b.sel ^^^ BitVec.ofNat 32 (2 ^ n)⟩

/-- Both halves of every slot zeroed, every GEN one higher (R378, R392). -/
def SlotBank.zeroed (b : SlotBank) : SlotBank :=
  (List.range 32).foldl (fun z n =>
    let g := ((b.slot n).gen + 1) % 65536
    ⟨Sparse.set (fun _ => {}) (Sparse.set (fun _ => {}) z.halves (2 * n) { gen := g }) (2 * n + 1) { gen := g }, z.sel⟩) b

/-- What the TAG's key is derived from (R376). -/
def State.tagSecret (s : State) : List Byte :=
  if s.testRoot then testRootBytes else slice s.strong.fuses.secret.octets 0 48

/-- The fields of a slot in the order R376 lists them; the order is the model's (log entry 19). -/
def KeySlot.bytes (k : KeySlot) : List Byte :=
  [if k.valid then 1 else 0, BitVec.ofNat 8 k.kind, BitVec.ofNat 8 k.parent] ++ leBytes 4 k.parentGen ++ leBytes 2 k.gen
    ++ slice k.label 0 16 ++ slice k.key 0 48

def State.tagOf (s : State) (k : KeySlot) : List Byte := (hmac384 (Config.slotTagKey s.tagSecret) k.bytes).take 8

/-- Whether every link of a slot's chain up to the root holds, over at most `n` links (R378). -/
def State.chainGood (s : State) : Nat → KeySlot → Bool
  | 0, _ => false
  | n + 1, k =>
    if k.parent = 63 then k.parentGen == s.strong.rootGen
    else
      let p := s.slot (k.parent % 32)
      p.valid && p.gen == k.parentGen && State.chainGood s n p

/-- The generations along a slot's chain, the root's last. -/
def State.chainGens (s : State) : Nat → KeySlot → List Nat
  | 0, _ => []
  | n + 1, k =>
    if k.parent = 63 then [k.gen, s.strong.rootGen]
    else k.gen :: State.chainGens s n (s.slot (k.parent % 32))

/-- The generations from a slot's parent up the chain, the root's last (R381). -/
def State.parentGens (s : State) (parent : Nat) : List Nat :=
  if parent = 63 then [s.strong.rootGen] else s.chainGens 31 (s.slot (parent % 32))

/-- R378. -/
def State.usable (s : State) (n : Nat) : Bool :=
  let k := s.slot n
  k.valid && k.tag == s.tagOf k && s.chainGood 32 k && s.rootState != 1

/-- The failure of a load under R380, if any: SLOT_EMPTY, SLOT_CORRUPT or LOAD_ORPHANED. -/
def State.loadFailure (s : State) (n : Nat) : Option Nat :=
  let k := s.slot n
  if k.valid = false then some 9
  else if k.tag ≠ s.tagOf k then some 10
  else if s.chainGood 32 k && s.rootState != 1 then none else some 11

/-- A private key from 56 octets of key material (R377, FIPS 186-5 A.2.1). -/
def ecdsaKey (okm : List Byte) : List Byte := beBytes 48 (beNat okm % (ecN - 1) + 1)

/-- The key DERIVE computes (R377). Kinds: 1 ECDSA, 2 HMAC, 3 derivation key. -/
def State.derivedKey (s : State) (ikm : List Byte) (parentGen kind : Nat) (label : List Byte) (gen slot : Nat) : List Byte :=
  let salt := s.uid ++ leBytes 4 parentGen
  let info := asciiBytes "GWKD" ++ leBytes 1 kind ++ slice label 0 16 ++ leBytes 2 gen ++ leBytes 1 slot
  if kind = 1 then ecdsaKey (hkdf384 salt ikm info 56) else hkdf384 salt ikm info 48

/-- Slot contents with their TAG, placed in a slot (R376, R379). -/
def State.fillSlot (s : State) (n : Nat) (k : KeySlot) : State :=
  s.setBank (s.slotBank.replace n { k with tag := s.tagOf k })

/-- Slot `n` derived from the root with a label. -/
def State.deriveFromRoot (s : State) (n kind : Nat) (label : List Byte) : State :=
  let g := ((s.slot n).gen + 1) % 65536
  let key := s.derivedKey s.rootBytes s.strong.rootGen kind label g n
  s.fillSlot n { valid := true, kind := kind, parent := 63, parentGen := s.strong.rootGen, gen := g,
                 label := slice label 0 16, key := key }

/-- Slots 0 and 1 under the root in use (R377). -/
def State.deriveFixed (s : State) : State :=
  (s.deriveFromRoot 0 1 (asciiBytes "CELLAR-REC")).deriveFromRoot 1 2 (asciiBytes "PAIR-LIST")

/-- Every change of a generation is saved in the Strongroom's Attic pages (R375). -/
def State.saveGens (s : State) : State :=
  s.modStrong fun u =>
    { u with savedRootGen := u.rootGen, savedSlotGens := (List.range 32).map fun n => (n, (u.bank.slot n).gen) }

/-- `n` octets from the DRBG. -/
def State.draw (s : State) (n : Nat) : List Byte × State :=
  ((List.range n).map (Config.entropy s.freeCount), s.drawn)

/-- Whether the entropy source passes its health tests (R389). -/
def State.entropyOk (s : State) : Bool := s.on R.strongroom_DRBG_STATUS_OK

/-- A new root from the DRBG, with slots 0 and 1 derived from it (R374). -/
def State.newRoot (s : State) : State :=
  let (r, s) := s.draw 48
  let s := s.modStrong fun u => { u with root := r, rootCheck := true, zeroCause := 0, rootGen := (u.rootGen + 1) % 2 ^ 32 }
  (s.deriveFixed.saveGens).raise Flag.strongroom_ROOT_CHANGE

/-- The root and every slot of D01 zeroed (R373, R378), with the cause. -/
def State.zeroRoot (s : State) (cause : Nat) : State :=
  s.modStrong fun u =>
    { u with root := [], rootCheck := true, zeroCause := cause, rootGen := (u.rootGen + 1) % 2 ^ 32, bank := u.bank.zeroed }

/-- `f` on the real root and the D01 bank, whatever the debug level (R403 isolates them; log entry 39). -/
def State.onReal (s : State) (f : State → State) : State :=
  let d := s.strong.debug
  (f (s.modStrong fun u => { u with debug := 0 })).modStrong fun u => { u with debug := d }

/-- The identity key's private value (R396). -/
def State.identityKey (s : State) : Nat :=
  let ikm := if s.testRoot then testRootBytes else slice s.strong.fuses.secret.octets 0 48
  beNat (ecdsaKey (hkdf384 s.uid ikm (asciiBytes "GWID") 56))

/-- Whether the identity key can be used: DEVICE_SECRET is good, or the test root stands in (R369, R396). -/
def State.identityOk (s : State) : Bool := s.testRoot || s.strong.fuses.secret.good 48

/-- MEASi extended with 48 octets (R397). -/
def State.extend (s : State) (i : Nat) (v : List Byte) : State :=
  s.putBytes (Reg.strongroom_MEAS (12 * i)) (sha384 (s.getBytes (Reg.strongroom_MEAS (12 * i)) 12 ++ slice v 0 48))

/-- A security event into MEAS4 (R398). -/
def State.event (s : State) (code detail : Nat) : State :=
  s.extend 4 (sha384 (leBytes 1 code ++ leBytes 3 detail ++ leBytes 4 s.strong.lifeClock
    ++ leBytes 4 (s.get R.blotter_OP_S) ++ leBytes 4 (s.get R.blotter_CYCLES % 2 ^ 24)))

/-- Entry `i` of the pairing list (03_rasyn_link.md R118), one Attic page. -/
def State.pairEntry (s : State) (i : Nat) : List Byte := s.atticPage (4608 + i)

/-- The 131,072 bytes of the list. -/
def State.pairBytes (s : State) : List Byte := (List.range 2048).flatMap s.pairEntry

/-- An entry that is valid; the flag bits of byte 50. -/
def pairValid (e : List Byte) : Bool := (slice e 50 1).headD 0 &&& 1 != 0
def pairRevoked (e : List Byte) : Bool := (slice e 50 1).headD 0 &&& 2 != 0

/-- The first entry that holds H, revoked or not. -/
def State.pairFind (s : State) (h : List Byte) : Option Nat :=
  (List.range 2048).find? fun i => let e := s.pairEntry i; pairValid e && slice e 0 48 == slice h 0 48

/-- The tag copy in force: the one with the higher LIST_SEQ (R388). -/
def State.listTag (s : State) : Option ListTag :=
  match s.strong.tagA, s.strong.tagB with
  | none, b => b
  | a, none => a
  | some a, some b => if a.seq < b.seq then some b else some a

/-- LIST_TAG under slot 1 (R388). -/
def State.tagFor (s : State) (seq : Nat) : List Byte := hmac384 (slice (s.slot 1).key 0 48) (leBytes 4 seq ++ s.pairBytes)

/-- The integrity check of the list (R388). -/
def State.listGood (s : State) : Bool :=
  match s.listTag with
  | none => false
  | some t => s.usable 1 && (s.slot 1).kind == 2 && t.tag == s.tagFor t.seq

/-- The older tag copy takes a new tag. -/
def State.writeTag (s : State) (t : ListTag) : State :=
  s.modStrong fun u =>
    match u.tagA, u.tagB with
    | none, _ => { u with tagA := some t }
    | _, none => { u with tagB := some t }
    | some a, some b => if a.seq < b.seq then { u with tagA := some t } else { u with tagB := some t }

/-- The list takes a new tag, one sequence higher. -/
def State.retag (s : State) : State :=
  let n := ((match s.listTag with | none => 0 | some t => t.seq) + 1) % 2 ^ 32
  s.writeTag ⟨n, s.tagFor n⟩

/-- A Strongroom page write, done within its command (log entry 18). -/
def State.storePage (s : State) (page : Nat) (bs : List Byte) : State :=
  s.each ((slice bs 0 64).zipIdx) fun s p => s.setAttic (64 * page + p.2) ⟨p.1, .good, false⟩

/-- Whether the SIG_MODE, slots, seal commands and ATTEST of R405 are on offer. -/
def State.quiet (s : State) : Bool := s.get R.power_PWR_STATE_STATE == 1

/-- Slots usable by the host now, as R405's combination: any state but BLANK, in RUN, and SCRAPPED only under FULL. -/
def State.hostSlots (s : State) : Bool :=
  !s.quiet && (s.testRoot && s.lifecycle != .blank ||
    (s.lifecycle == .vendor || s.lifecycle == .owned || s.lifecycle == .returned))

/-- Seal commands accepted (R405). -/
def State.sealAccept (s : State) : Bool :=
  (s.lifecycle == .vendor || s.lifecycle == .owned || s.lifecycle == .returned) && !s.testRoot

/-- ATTEST available (R405). -/
def State.attestOk (s : State) : Bool := s.lifecycle != .blank

/-- The Cellar column of R405. -/
def State.sigMode (s : State) : Nat :=
  if s.lifecycle = .blank then 3
  else if s.testRoot then 1
  else if s.rootState = 0 then 0
  else if s.strong.zeroCause = 1 ∨ s.strong.zeroCause = 2 then 2 else 3

/-- The mode the next footer takes, the recording key's own state included (11_codecs_cellar.md R333). -/
def State.footerMode (s : State) : Nat :=
  let m := s.sigMode
  if (m == 0 || m == 1) && !s.usable 0 then 3 else m

/-- The read-only registers that follow the Strongroom's state. -/
def State.showStrong (s : State) : State :=
  let u := s.strong
  let s := s.put R.strongroom_STATE_LIFECYCLE s.lifecycle.code
  let s := s.put R.strongroom_STATE_DEBUG u.debug
  let s := s.put R.strongroom_STATE_ROOT_STATE s.rootState
  let s := s.put R.strongroom_STATE_ZERO_CAUSE u.zeroCause
  let s := s.put R.strongroom_STATE_TAMPERED (if u.tampered then 1 else 0)
  let s := s.put R.strongroom_STATE_HOST_SLOTS (if s.hostSlots && s.rootState != 1 then 1 else 0)
  let s := s.put R.strongroom_STATE_SEAL_ACCEPT (if s.sealAccept then 1 else 0)
  let s := s.put R.strongroom_STATE_ATTEST_OK (if s.attestOk then 1 else 0)
  let s := s.put R.strongroom_STATE_SIG_MODE s.footerMode
  let s := s.put R.strongroom_ROOT_GEN u.rootGen
  let s := s.put R.strongroom_LIFE_CLOCK u.lifeClock
  let s := s.put R.strongroom_FUSE_INFO_LC_COUNT s.lcCount
  let s := s.put R.strongroom_FUSE_INFO_OWNER_REVOKED u.fuses.ownerRevoked.toNat
  let s := s.put R.strongroom_FUSE_INFO_OWNER_PROG u.fuses.ownerProg.toNat
  let s := s.put R.strongroom_FUSE_INFO_SVN_FUSE s.svnFuse
  let s := s.put R.fabric_STATE_SVN_FUSE s.svnFuse
  let s := s.putBytes (Reg.strongroom_DEVICE_UID 0) s.uid
  let s := s.wr Reg.strongroom_TAMPER_CFG u.tamperCfg
  let s := s.put R.strongroom_TAMPER_STATUS_COUNT u.tamperCount
  let s := s.put R.strongroom_TAMPER_STATUS_LXO_RUN (if u.lxoStopped then 0 else 1)
  let s := s.put R.strongroom_TAMPER_STATUS_IN0_ACTIVE (u.tamperPins.toNat % 2)
  let s := s.put R.strongroom_TAMPER_STATUS_IN1_ACTIVE (u.tamperPins.toNat / 2)
  let s := s.each [0, 1, 2, 3] fun s i =>
    match u.tamperLog[i]? with
    | none => (s.wr (Reg.strongroom_TAMPER_LOG_LIFE i) 0).wr (Reg.strongroom_TAMPER_LOG_SRC i) 0
    | some e => ((s.put (R.strongroom_TAMPER_LOG_LIFE_LIFE_S i) e.lifeS).put (R.strongroom_TAMPER_LOG_SRC_SOURCE i) e.source).put
        (R.strongroom_TAMPER_LOG_SRC_POWER i) e.power
  s.each (List.range 32) fun s n =>
    let k := s.slot n
    let v := setBits (setBits (setBits (setBits (setBits 0 31 31 (if k.valid then 1 else 0)) 30 29 k.kind) 28 28
      (if k.valid && !s.usable n then 1 else 0)) 27 22 k.parent) 15 0 k.gen
    s.wr (Reg.strongroom_SLOT_INFO n) v

/-- ID_PUBKEY and ENDORSE (R396, R403). -/
def State.showIdentity (s : State) : State :=
  let pub := if s.identityOk && s.lifecycle != .blank then ecPubBytes s.identityKey else List.replicate 97 0
  (s.putBytes (Reg.strongroom_ID_PUBKEY 0) pub).putBytes (Reg.strongroom_ENDORSE 0) (slice s.strong.fuses.endorsement.octets 0 96)

/-- A signature block of 200 bytes is well formed (R73). -/
def sigForm (b : List Byte) : Bool :=
  let k := leAt b 0 1
  (k ≤ 3 || k == 0xFF) && leAt b 1 1 == 1 && leAt b 2 2 == 0 && leAt b 101 3 == 0

/-- The fused hash a KEY_INDEX selects, when its CRC is good (R73, R369). -/
def State.fusedHash (s : State) (k : Nat) : Option (List Byte) :=
  let f := if k = 0xFF then s.strong.fuses.vendorHash else Sparse.get (fun _ => {}) s.strong.fuses.ownerHash k
  if f.good 48 then some (slice f.octets 0 48) else none

/-- An owner slot that is programmed and not revoked. -/
def State.ownerSlot (s : State) (k : Nat) : Bool :=
  decide (k < 4) && s.strong.fuses.ownerProg.getLsbD k && !s.strong.fuses.ownerRevoked.getLsbD k

/-- Whether PUBKEY of a signature block is a key that KEY_INDEX selects, among the accepted ones (R73). -/
def State.keyMatches (s : State) (b : List Byte) (accepted : Nat → Bool) : Bool :=
  let k := leAt b 0 1
  accepted k && s.fusedHash k == some (sha384 (slice b 4 97))

/-- The keys R74 accepts in the present lifecycle state. -/
def State.imageKey (s : State) (k : Nat) : Bool :=
  match s.lifecycle with
  | .vendor | .returned => k == 0xFF
  | .owned => s.ownerSlot k
  | _ => false

/-- Whether the signature of a block verifies over a message (R73). -/
def sigGood (b msg : List Byte) : Bool := ecdsaVerify (slice b 4 97) msg (slice b 104 96)

/-- The words of CMD_BUF as bytes. -/
def State.cmdBuf (s : State) (n : Nat) : List Byte := s.getBytes (Reg.strongroom_CMD_BUF 0) n

/-- A command ends: RESULT_DATA holds its data, RESULT_INFO their length (R382). -/
def State.strongDone (s : State) (status : Nat) (data : List Byte) : State :=
  let s := s.each (List.range 208) fun s w => s.wr (Reg.strongroom_RESULT_DATA w) 0
  let s := (s.putBytes (Reg.strongroom_RESULT_DATA 0) data).put R.strongroom_RESULT_INFO data.length
  (s.complete Reg.strongroom_RESULT status).raise Flag.strongroom_CMD_DONE

/-- A fresh ECDSA nonce below the order of the curve. -/
def State.drawScalar (s : State) : Nat × State :=
  let (k, s) := s.draw 56
  (beNat k % (ecN - 1) + 1, s)

end Sys2Proof.Machine
end

