-- ==== Sys2Proof/Machine/Attic.lean ====
section
/-!
DEFINITION. The commands of the Attic: host page commands, page writes and refresh (15_attic_blotter.md R436 to R449),
and the persistence of Blotter records (R457, R458).
-/
namespace Sys2Proof.Machine
open Sys2Proof

/-- Host page READ is refused here (R445). -/
def atticHidden (p : Nat) : Bool := decide (6656 ≤ p) && decide (p < 8192)

def AtticByte.stat (b : AtticByte) (margin : Bool) : Nat :=
  match b.cond with
  | .bad => 3
  | .good => if margin && b.weak then 2 else 0
  | .corrected => if margin && b.weak then 2 else 1

/-- BYTE_STAT of a page (080h to 08Ch). -/
def State.showByteStat (s : State) (p : Nat) (margin : Bool) : State :=
  s.each (List.range 4) fun s k =>
    s.wr (Reg.blotter_BYTE_STAT k)
      (BitVec.ofNat 32 ((List.range 16).foldl (fun m j => m + (s.atticAt (64 * p + 16 * k + j)).stat margin * 4 ^ j) 0))

def State.clearMask (s : State) : State := (s.wr Reg.blotter_BUF_MASK_LO 0).wr Reg.blotter_BUF_MASK_HI 0

def State.atticComplete (s : State) (status : Nat) : State :=
  (s.complete Reg.blotter_ATTIC_RESULT status).raise Flag.blotter_ATTIC_CMD_DONE

/-- A host command is offered to the Attic (R14, R17). -/
def State.atticOffer (s : State) (f : State → State) : State :=
  s.offer Reg.blotter_ATTIC_RESULT Flag.blotter_ATTIC_CMD_OVERRUN fun s => f (s.accept Reg.blotter_ATTIC_RESULT)

/-- R436, R439, R445. -/
def execAtticRead (page : BitVec 14) (s : State) : Result :=
  .next <| s.atticOffer fun s =>
    let p := page.toNat
    if atticHidden p then s.atticComplete 2
    else (((s.putBytes (Reg.blotter_ATTIC_BUF 0) (s.atticPage p)).clearMask).showByteStat p false).atticComplete 0

/-- R436: byte states at margin; the buffer stays. -/
def execAtticMarginRead (page : BitVec 14) (s : State) : Result :=
  .next <| s.atticOffer fun s => (s.showByteStat page.toNat true).atticComplete 0

/-- The bytes of the page buffer whose mask bits are set, by offset. -/
def State.loadedBytes (s : State) : List (Nat × Byte) :=
  let buf := s.getBytes (Reg.blotter_ATTIC_BUF 0) 16
  let m := s.get R.blotter_BUF_MASK_LO + 2 ^ 32 * s.get R.blotter_BUF_MASK_HI
  (buf.zipIdx.filter fun p => m.testBit p.2).map fun p => (p.2, p.1)

/-- A host write is accepted: the mask is taken and cleared (R439), refused outside the host area or where protected (R445,
R446), else issued. -/
def State.hostWritePage (s : State) (p : Nat) (commit : Bool) : State :=
  s.atticOffer fun s =>
    let ld := s.loadedBytes
    let ld := if commit then (ld.filter fun x => x.1 != 63) ++ [(63, 0x5A#8)] else ld
    let s := s.clearMask
    if p < 8192 ∨ s.atticProtected p = true then s.atticComplete 1
    else s.atticIssue ⟨.host, p, ld, commit, .hostCmd, false⟩

/-- R439. -/
def execAtticWrite (page : BitVec 14) (s : State) : Result := .next (s.hostWritePage page.toNat false)

/-- R441. -/
def execAtticWriteSealed (page : BitVec 14) (s : State) : Result := .next (s.hostWritePage page.toNat true)

/-- R439. -/
def execAtticBufClear (s : State) : Result := .next (s.atticOffer fun s => s.clearMask.atticComplete 0)

/-- R438. -/
def execAtticBadCommand (s : State) : Result := .next (s.atticOffer fun s => s.atticComplete 5)

/-- R439: the bytes `be` selects of a word of ATTIC_BUF. -/
def execAtticBufWrite (word : Fin 16) (value : BitVec 32) (be : BitVec 4) (s : State) : Result :=
  s.rowWrite (Reg.blotter_ATTIC_BUF word) fun s =>
  let w := word.val
  .next (s.each [0, 1, 2, 3] fun s j =>
    if be.getLsbD j then
      let s := s.put ⟨Reg.blotter_ATTIC_BUF w, 8 * j + 7, 8 * j⟩ (value.toNat / 2 ^ (8 * j))
      let i := 4 * w + j
      s.put (if i < 32 then ⟨Reg.blotter_BUF_MASK_LO, i, i⟩ else ⟨Reg.blotter_BUF_MASK_HI, i - 32, i - 32⟩) 1
    else s)

/-- R446. -/
def execAtticBpLock (s : State) : Result :=
  s.rowWrite Reg.blotter_ATTIC_BP fun s => .next (s.put R.blotter_ATTIC_BP_LOCK 1)

/-! ### Persistence -/

/-- Sets what the ring holds of a record. -/
def State.modRecord (s : State) (seq : Nat) (f : BlotRecord → BlotRecord) : State :=
  (s.modBlot fun b => { b with ring := b.ring.map fun r => if r.seq = seq then f r else r }).showBlot

/-- A record could not be persisted: NOT_PERSISTED and the count (R458). -/
def State.notPersisted (s : State) (seq : Nat) : State :=
  let s := s.modRecord seq fun r => { r with notPersisted := true, pending := false, issued := false }
  (s.bump R.blotter_PERSIST_FAIL).raise Flag.blotter_PERSIST_FAIL

/-- A persistence write failed (R458): 16 in a row make the Attic FAILED. -/
def State.persistFailed (s : State) (seq page bad : Nat) : State :=
  let s := s.notPersisted seq
  let s := s.blotter 0x0004 page (leBytes 1 (page % 8) ++ leBytes 1 bad) false true
  let s := (s.modAttic fun a => { a with failRun := a.failRun + 1, faultSeen := true }).setFault 4 true
  if 16 ≤ s.attic.failRun ∧ s.on R.blotter_ATTIC_STATUS_FAILED = false then
    let s := (s.put R.blotter_ATTIC_STATUS_FAILED 1).raise Flag.blotter_ATTIC_FAILED
    s.each ((s.blot.ring.filter fun r => r.pending).map fun r => r.seq) fun s q => s.notPersisted q
  else s

/-- The order of the writer: CLEARED first (R463), then highest severity, then oldest (R457). -/
def writesBefore (a b : BlotRecord) : Bool :=
  if (a.code == 3) != (b.code == 3) then a.code == 3
  else if a.sev ≠ b.sev then decide (b.sev < a.sev) else decide (a.seq < b.seq)

def firstOf (l : List BlotRecord) : Option BlotRecord :=
  l.foldl (fun b r => match b with | none => some r | some x => if writesBefore r x then some r else some x) none

/-- The record of a write, if it is one. -/
def AtticWrite.record? (w : AtticWrite) : Option Nat := match w.tag with | .record q => some q | _ => none

/-- R457: the next pending record whose bank has no record write takes its ring slot. -/
def execBlotterPersist (s : State) : Result :=
  let writes := (s.attic.running ++ s.attic.waiting).filter fun w => w.record?.isSome
  let busy (r : BlotRecord) : Bool := writes.any fun w => w.page % 8 == r.seq % 8192 / 2 % 8
  if s.on R.blotter_ATTIC_STATUS_FAILED ∨ 8 ≤ writes.length then .next s
  else match firstOf (s.blot.ring.filter fun r => r.pending && !r.issued && !busy r) with
    | none => .next s
    | some r =>
      let slot := r.seq % 8192
      let page := slot / 2
      if s.atticProtected page then .next (s.persistFailed r.seq page 0)
      else
        let s := s.modRecord r.seq fun r => { r with issued := true }
        .next (s.atticIssue ⟨.m3, page, loadFrom (32 * (slot % 2)) r.bytes, false, .record r.seq, false⟩)

/-! ### Page writes -/

/-- One page write in a bank is counted (R443). -/
def State.countWrite (s : State) (bank : Nat) : State :=
  let n := Sparse.get (fun _ => 0) s.attic.wear bank + 1
  let s := (s.modAttic fun a => { a with wear := Sparse.set (fun _ => 0) a.wear bank n }).bump R.blotter_PAGE_WRITES
  if n % 1024 = 0 then s.counterWrite (.wear bank) .m3 (n / 1024) else s

/-- The end of a page write, whatever its outcome: its bank is free, the save set's end shows (R447). -/
def State.bankDone (s : State) (w : AtticWrite) : State :=
  let s := (s.modAttic fun a => { a with running := a.running.erase w }).showBanks
  let saving := (s.attic.running ++ s.attic.waiting).any fun x => x.src == .saveSet
  let s := if w.src == .saveSet && !saving then s.put R.blotter_ATTIC_STATUS_SAVE_ACTIVE 0 else s
  s.each (List.range 8) State.startBank

/-- R437, R438: `bad` lists the loaded bytes that read WEAK or BAD at margin; `saveUs` is how long a save set that this write ends took
(14_power_thermal.md R418). -/
def execAtticPageWriteDone (bank : Fin 8) (bad : List (Fin 64)) (saveUs : BitVec 16) (s : State) : Result :=
  match s.attic.running.find? fun w => w.page % 8 == bank.val with
  | none => .next s
  | some w =>
    let failed := (w.loaded.map (·.1)).filter fun i => bad.any fun b => b.val == i
    let s := s.countWrite bank
    if failed ≠ [] ∧ w.repeated = false then
      .next (s.modAttic fun a => { a with running := a.running.map fun x => if x = w then { x with repeated := true } else x })
    else
      let ok := failed.isEmpty
      let s := s.each w.loaded fun s x => s.setAttic (64 * w.page + x.1) ⟨x.2, .good, failed.contains x.1⟩
      let s := if ok then s else (s.bump R.blotter_VERIFY_FAILS).raise Flag.blotter_ATTIC_VERIFY_FAIL
      let saving := s.on R.blotter_ATTIC_STATUS_SAVE_ACTIVE
      let s := s.bankDone w
      let s := if saving && !s.on R.blotter_ATTIC_STATUS_SAVE_ACTIVE then s.put R.power_PF_STATUS_LAST_SAVE_US saveUs.toNat else s
      match w.tag with
      | .plain => .next s
      | .group rest => .next (s.issueGroup w.src rest)
      | .hostCmd => .next (s.atticComplete (if ok then 0 else 3))
      | .record q =>
        if ok then
          .next ((s.modAttic fun a => { a with failRun := 0 }).modRecord q fun r => { r with pending := false, issued := false, persisted := true })
        else .next (s.persistFailed q w.page failed.length)

/-! ### Sealed pairs -/

/-- Whether a sealed page is committed (R441). -/
def State.committed (s : State) (p : Nat) : Bool :=
  let b := s.atticAt (64 * p + 63)
  b.val == 0x5A && b.cond == .good && !b.weak

/-- The sequence of a copy of a sealed pair, none where it is not committed. -/
def State.pairSeq (s : State) (p : Nat) : Option Nat := if s.committed p then some (leAt (s.atticPage p) 0 4) else none

/-- The committed copy with the higher sequence. -/
def State.pairCopy (s : State) (a b : Nat) : Option Nat :=
  match s.pairSeq a, s.pairSeq b with
  | none, none => none
  | some _, none => some a
  | none, some _ => some b
  | some x, some y => if x < y then some b else some a

/-- A new version of a pair of sealed pages, in the older copy (R442): sequence, then the value. -/
def State.storePair (s : State) (a b v : Nat) : State :=
  let (p, q) := match s.pairCopy a b with
    | none => (a, 1)
    | some c => (if c = a then b else a, leAt (s.atticPage c) 0 4 + 1)
  s.atticIssue ⟨.m3, p, loadFrom 0 (leBytes 4 q ++ leBytes 4 v ++ List.replicate 55 0 ++ [0x5A]), true, .plain, false⟩

/-- The pages of the calendar offset and of LOG_FLOOR (log entry 16). -/
def State.storeCal (s : State) : State := s.storePair 4524 4525 s.attic.calOffset.toNat
def State.storeFloor (s : State) : State := s.storePair 4526 4527 (s.get R.blotter_LOG_FLOOR)

/-! ### Histogram copies -/

def State.hist (s : State) (q : Nat) : Histogram := Sparse.get (fun _ => ({} : Histogram)) s.blot.hists q
def State.setHist (s : State) (q : Nat) (h : Histogram) : State :=
  s.modBlot fun b => { b with hists := Sparse.set (fun _ => ({} : Histogram)) b.hists q h }

/-- A quantity is copied into the next of its four copies, a sealed group of two pages (R460). -/
def State.copyHist (s : State) (q : Nat) : State :=
  let h := s.hist q
  let p := 4096 + 8 * q + 2 * (h.nextCopy % 4)
  let one := (List.range 16).flatMap fun i => leBytes 4 (h.bins.getD i 0)
  let two := leBytes 4 (h.copySeq + 1) ++ leBytes 1 q ++ leBytes 3 0 ++ leBytes 4 (twos 32 (h.min.getD 0)) ++ leBytes 4 (twos 32 (h.max.getD 0))
    ++ leBytes 4 h.maxAt ++ leBytes 4 (s.get R.blotter_OP_S) ++ leBytes 4 (crc32 one).toNat
  let s := s.setHist q { h with copySeq := h.copySeq + 1, nextCopy := (h.nextCopy + 1) % 4 }
  if s.atticProtected p then s
  else s.issueGroup .m3
    [(p + 1, [(63, 0)], false), (p, loadFrom 0 one, false), (p + 1, loadFrom 0 (slice two 0 63 ++ [0x5A]), true)]

/-- The committed copy of a quantity with the highest COPY_SEQ, whose bins are good (R460). -/
def State.readHist (s : State) (q : Nat) : Histogram :=
  let copies := (List.range 4).filterMap fun c =>
    let p := 4096 + 8 * q + 2 * c
    let one := s.atticPage p
    let two := s.atticPage (p + 1)
    if s.committed (p + 1) && leAt two 24 4 == (crc32 one).toNat then some (leAt two 0 4, c, one, two) else none
  match copies.foldl (fun (b : Option (Nat × Nat × List Byte × List Byte)) x =>
      match b with | none => some x | some y => if y.1 < x.1 then some x else some y) none with
  | none => {}
  | some (q, c, one, two) =>
    let sgn (v : Nat) : Int := if v < 2 ^ 31 then (v : Int) else (v : Int) - 2 ^ 32
    let bins := (List.range 16).map fun i => leAt one (4 * i) 4
    let seen := bins.any fun n => n != 0
    { bins := bins, min := if seen then some (sgn (leAt two 8 4)) else none,
      max := if seen then some (sgn (leAt two 12 4)) else none, maxAt := leAt two 16 4, copySeq := q, nextCopy := (c + 1) % 4 }

/-! ### Refresh -/

/-- The counter that lives in a page (log entry 16). -/
def counterOf (p : Nat) : Option DevCounter :=
  if p = 4512 then some .cycles else if p = 4513 then some .opReserve else if p = 4514 then some .seqReserve
  else if 4515 ≤ p ∧ p < 4523 then some (.wear (p - 4515)) else if p = 4523 then some .clearSeq else none

/-- A page that holds WEAK bytes and no BAD one is refreshed according to what it holds (R449). -/
def State.refreshPage (s : State) (p : Nat) (weak : List Nat) : State :=
  match counterOf p with
  | some d => s.counterWrite d .refresh (match s.newestCell p with | some (_, v, _) => v | none => 0)
  | none =>
    if p = 4524 ∨ p = 4525 then s.storeCal
    else if p = 4526 ∨ p = 4527 then s.storeFloor
    else if 4096 ≤ p ∧ p < 4376 then s.copyHist ((p - 4096) / 8)
    else s.atticIssue ⟨.refresh, p, weak.map fun i => (i, (s.atticAt (64 * p + i)).val), false, .plain, false⟩

/-- R449: the margin pass reads a page. -/
def execRefreshPass (page : BitVec 14) (s : State) : Result :=
  let p := page.toNat
  let bytes := (List.range 64).map fun i => s.atticAt (64 * p + i)
  let bad := (bytes.filter fun b => b.cond == .bad).length
  let weak := (List.range 64).filter fun i => let b := s.atticAt (64 * p + i); b.weak && b.cond != .bad
  if bad = 0 ∧ weak = [] then .next s
  else
    let s := (s.bump R.blotter_WEAK_PAGES).raise Flag.blotter_ATTIC_WEAK
    let s := s.blotter 0x0005 p (leBytes 1 weak.length ++ leBytes 1 bad)
    if bad ≠ 0 ∨ (4480 ≤ p ∧ p < 4512) then .next s
    else .next ((s.refreshPage p weak).bump R.blotter_REFRESHED)

end Sys2Proof.Machine
end

