-- ==== Sys2Proof/Machine/Exact.lean ====
section
/-!
DEFINITION. Numbers the spec gives exactly: π and the sine, held to far more places than any rounding of the spec can show (log
entry 10), and what a register in whole units shows of a quantity that is none.
-/
namespace Sys2Proof.Machine
open Sys2Proof

/-- π to 60 decimal places. -/
def piRat : Rat := 3141592653589793238462643383279502884197169399375105820974944 / 10 ^ 60

/-- The terms of the sine series from the `k`-th on, in units of 2^-128: `t` is the last one, `q` the square of the argument. -/
def sineSeries (t q : Int) : Nat → Nat → Int
  | _, 0 => 0
  | k, n + 1 =>
    let u := -(t * q / 2 ^ 128) / ((2 * k) * (2 * k + 1) : Nat)
    u + sineSeries u q (k + 1) n

/-- sin(π x / 2) for x from 0 to 1. -/
def sineFirst (x : Rat) : Rat :=
  let y : Int := (piRat / 2 * x * 2 ^ 128).floor
  ((y + sineSeries y (y * y / 2 ^ 128) 1 20 : Int) : Rat) / 2 ^ 128

/-- sin(π x / 2). -/
def quarterSine (x : Rat) : Rat :=
  let n := x.floor
  let f := x - n
  let v := if n % 2 = 0 then sineFirst f else sineFirst (1 - f)
  if n % 4 < 2 then v else -v

def absRat (r : Rat) : Rat := if r < 0 then -r else r

/-- A quantity in whole units: itself, or one of the two numbers beside it (log entry 10). -/
def wholeUnits (r : Rat) : Int := if r.den = 1 then r.num else if Config.roundsUp r then r.floor + 1 else r.floor

/-- A field takes a quantity in its own units; what it holds of a value out of its range is left open (log entry 57). -/
def fieldInt (w : Nat) (signed : Bool) (r : Rat) : Int :=
  let lo : Int := if signed then -(2 ^ (w - 1) : Int) else 0
  let hi : Int := if signed then 2 ^ (w - 1) - 1 else 2 ^ w - 1
  if (lo : Rat) ≤ r ∧ r ≤ (hi : Rat) then wholeUnits r else Config.fieldValue r w signed

/-- A gain of a fade: exact where Q3.13 holds it (09_audio_marginalia.md R267, R268; log entry 33). -/
def gain24 (r : Rat) : Rat := if (8192 * r).den = 1 then r else Config.gain24 r

/-- The value at position `i` of a ramp of `n` samples from 0 to `v` (R259, R260; log entry 33). -/
def rampAt (i n : Nat) (v : Int) : Int := if v = 0 then 0 else Config.ramp i n v

end Sys2Proof.Machine
end

