-- ==== Sys2Proof/Machine/MemoryOps.lean ====
section
/-!
DEFINITION. Stream memory: accesses, firewall, ECC and classes (10_stream_memory.md R285 to R306).
-/
namespace Sys2Proof.Machine
open Sys2Proof

def State.modMem (s : State) (f : MemState → MemState) : State := { s with mem := f s.mem }

/-- The canonical form of stream memory. -/
def Memory.wf (m : List Host.Cell) : Bool := Sparse.wf (fun _ => (0 : Byte)) m

/-- The size of stream memory (R285). -/
def memSize : Nat := 2 ^ 35

/-- The channel of an address (R285). -/
def channelOf (a : Nat) : Nat := Nat.xor (Nat.xor (a / 2 ^ 8 % 32) (a / 2 ^ 13 % 32)) (a / 2 ^ 18 % 32)

/-- One byte of stream memory. -/
def State.memByte (s : State) (a : Nat) : Byte := Sparse.get (fun _ => 0) s.mem.bytes a

def State.setMemByte (s : State) (a : Nat) (b : Byte) : State :=
  s.modMem fun m => { m with bytes := Sparse.set (fun _ => 0) m.bytes a b }

def State.wordEcc (s : State) (w : Nat) : WordEcc := Sparse.get (fun _ => .good) s.mem.ecc w
def State.setWordEcc (s : State) (w : Nat) (e : WordEcc) : State :=
  s.modMem fun m => { m with ecc := Sparse.set (fun _ => .good) m.ecc w e }

/-- Symbols struck since the last access: false leaves a word with one erroneous symbol, true with an uncorrectable error;
a second strike on a struck word is uncorrectable (R286). -/
def State.strike (s : State) (upsets : List (Nat × Bool)) : State :=
  s.each upsets fun s u =>
    s.setWordEcc (u.1 % 2 ^ 30) (if u.2 || s.wordEcc (u.1 % 2 ^ 30) != .good then .bad else .oneSymbol)

/-- Regions that permit a kind (R290). -/
def RegionRec.permits (r : RegionRec) (kind : Nat) (write : Bool) (addr len : Nat) : Bool :=
  (if write then r.writers else r.readers).testBit kind && decide (r.base * 65536 ≤ addr)
    && decide (addr + len ≤ (r.base + r.size) * 65536)

/-- Whether all the bytes of an access lie in one region that includes its kind (R290). -/
def State.fwAllows (s : State) (kind : Nat) (write : Bool) (addr len : Nat) : Bool :=
  s.fabric.now.regions.any fun r => r.permits kind write addr len

/-- A refusal (R291). -/
def State.fwRefuse (s : State) (kind : Nat) (write : Bool) (addr : Nat) : State :=
  let s := (s.bump (R.memory_FW_VIOL kind)).raise Flag.memory_FW_VIOL
  if s.on R.memory_FW_LAST_VALID then s
  else
    let v := setBits (setBits (setBits (setBits 0 31 31 1) 30 30 (if write then 1 else 0)) 29 26 kind) 18 0 (addr / 65536)
    s.wr Reg.memory_FW_LAST v

/-- An uncorrectable word is read (R287). Sources: 0 unit, 1 scrub, 2 host, 3 Strongroom. -/
def State.uncorrectable (s : State) (word source : Nat) : State :=
  let s := ((s.bump R.memory_ECC_UNCORR).raise Flag.memory_ECC_UNCORR).setFault 6 true
  let s := s.blotter 0x0403 source (leBytes 8 (32 * word))
  if s.on R.memory_UE_ADDR_HI_VALID then s
  else
    let a := 32 * word
    (s.wr Reg.memory_UE_ADDR_LO (BitVec.ofNat 32 a)).wr Reg.memory_UE_ADDR_HI
      (setBits (setBits (setBits 0 31 31 1) 30 29 source) 2 0 (a / 2 ^ 32))

/-- A word is read through ECC: whether it is poisoned, and the counts (R286, R287). -/
def State.eccRead (s : State) (word source : Nat) : Bool × State :=
  match s.wordEcc word with
  | .good => (false, s)
  | .oneSymbol => (false, (s.bump R.memory_ECC_CORR).raise Flag.memory_ECC_CORR)
  | .bad => (true, s.uncorrectable word source)

/-- The words an access touches. -/
def wordsOf (addr len : Nat) : List Nat :=
  if len = 0 then [] else (List.range ((addr + len - 1) / 32 + 1 - addr / 32)).map fun i => addr / 32 + i

/-- The source code of a kind in UE_ADDR_HI. -/
def sourceOf (kind : Nat) : Nat := if kind = 6 then 2 else if kind = 7 then 3 else 0

/-- Writes `bs` through ECC: a word written in part is read first (R286), only a whole write clears poison (R287). -/
def State.memPut (s : State) (kind addr : Nat) (bs : List Byte) : State :=
  let s := s.each (wordsOf addr bs.length) fun s w =>
    if addr ≤ 32 * w ∧ 32 * w + 32 ≤ addr + bs.length then s.setWordEcc w .good
    else
      let (poison, s) := s.eccRead w (sourceOf kind)
      if poison then s else s.setWordEcc w .good
  s.each bs.zipIdx fun s p => s.setMemByte (addr + p.2) p.1

/-- Reads through ECC: the bytes, with those of poisoned words 0 and marked. -/
def State.memTake (s : State) (kind addr len : Nat) : List (Byte × Bool) × State :=
  let (bad, s) := (wordsOf addr len).foldl (fun (x : List Nat × State) w =>
    let (p, s) := x.2.eccRead w (sourceOf kind)
    (if p then w :: x.1 else x.1, s)) ([], s)
  ((List.range len).map fun i =>
    let a := addr + i
    if bad.contains (a / 32) then (0, true) else (s.memByte a, false), s)

/-- The pieces of a host or Strongroom access at 64 KiB boundaries (R290). -/
def splitAccess : Nat → Nat → Nat → List (Nat × Nat)
  | 0, _, _ => []
  | n + 1, addr, len =>
    if len = 0 then []
    else
      let k := min len (65536 - addr % 65536)
      (addr % memSize, k) :: splitAccess n (addr + k) (len - k)

def accessPieces (kind addr len : Nat) : List (Nat × Nat) :=
  if kind = 6 ∨ kind = 7 then splitAccess (len / 65536 + 2) addr len else [(addr, len)]

/-- A unit's write (R290, R291). -/
def State.memWrite (s : State) (kind addr : Nat) (bs : List Byte) : State :=
  ((accessPieces kind addr bs.length).foldl (fun (x : List Byte × State) p =>
    (x.1.drop p.2,
      if x.2.fwAllows kind true p.1 p.2 then x.2.memPut kind p.1 (x.1.take p.2) else x.2.fwRefuse kind true p.1))
    (bs, s)).2

/-- A unit's read: refused pieces return zeros (R291). -/
def State.memRead (s : State) (kind addr len : Nat) : List (Byte × Bool) × State :=
  (accessPieces kind addr len).foldl (fun (x : List (Byte × Bool) × State) p =>
    if x.2.fwAllows kind false p.1 p.2 then
      let (bs, s) := x.2.memTake kind p.1 p.2
      (x.1 ++ bs, s)
    else (x.1 ++ List.replicate p.2 (0, false), x.2.fwRefuse kind false p.1)) ([], s)

/-! Classes, slots and credits (R292 to R297). -/

/-- Bytes served and channel time charged to a class (R293). -/
def State.chargeClass (s : State) (cls bytes : Nat) (ns : Rat) : State :=
  s.modMem fun m =>
    { m with served := Sparse.set (fun _ => 0) m.served cls (Sparse.get (fun _ => 0) m.served cls + bytes),
             charge := Sparse.set (fun _ => 0) m.charge cls (Sparse.get (fun _ => 0) m.charge cls + ns) }

/-- The usable fraction U_b in percent (02_fabric_image.md R89). -/
def usablePercent (band : Nat) : Nat := match band with | 0 => 90 | 1 => 87 | 2 => 82 | _ => 72

/-- The channel time of a unit's bytes: units reach U_b of the 32 × 25.6 GB/s (R293, log entry 133). -/
def State.unitTime (s : State) (bytes : Nat) : Rat := (bytes * 1000 : Nat) / (256 * usablePercent s.mem.windowBand : Nat)

/-- Of a class-0 access the bytes that its port may still move as class 0 in this window (R294). -/
def State.classZero (s : State) (port bytes : Nat) : Nat :=
  if port < 22 then
    min bytes (Sparse.get (fun _ => 0) s.mem.admitted port + 65536 - Sparse.get (fun _ => 0) s.mem.metered port)
  else bytes

/-- An access of a class charges it; class-0 bytes beyond the port's load are carried as class 3 (R294). -/
def State.useMem (s : State) (port cls bytes : Nat) (ns : Rat) : State :=
  if cls = 0 then
    let within := s.classZero port bytes
    let share : Rat := ns * (within : Nat) / (bytes : Nat)
    let s := if port < 22 then
        s.modMem fun m => { m with metered := Sparse.set (fun _ => 0) m.metered port (Sparse.get (fun _ => 0) m.metered port + bytes) }
      else s
    let s := s.chargeClass 0 within share
    if within < bytes then s.chargeClass 3 (bytes - within) (ns - share) else s
  else s.chargeClass cls bytes ns

/-- A unit's own traffic of a class (R87, R293). -/
def State.unitUse (s : State) (port cls bytes : Nat) : State := s.useMem port cls bytes (s.unitTime bytes)

/-- One slot of a channel: a reserved one adds a credit, and the head of the class-0 queue is served if there is one to spend. -/
def slotStep (reserved : Bool) (x : Nat × Nat) : Nat × Nat :=
  let c := if reserved then min 64 (x.1 + 1) else x.1
  if 0 < x.2 ∧ 0 < c then (c - 1, x.2 - 1) else (c, x.2)

/-- `n` slots of a channel from a place among the five on. -/
def slotSteps : Nat → Nat → Nat × Nat → Nat × Nat
  | 0, _, x => x
  | n + 1, place, x => slotSteps n ((place + 1) % 5) (slotStep (place == 0) x)

def State.channel0 (s : State) (c : Nat) : Nat × Nat := Sparse.get (fun _ => ((0, 0) : Nat × Nat)) s.mem.class0 c
def State.setChannel0 (s : State) (c : Nat) (x : Nat × Nat) : State :=
  s.modMem fun m => { m with class0 := Sparse.set (fun _ => ((0, 0) : Nat × Nat)) m.class0 c x }

/-- Slots pass on every channel (R292). After 1,024 of them only the place among the five can still change. -/
def State.passSlots (s : State) (n : Nat) : State :=
  if n = 0 then s
  else
    let skip := n - min n 1024
    let place := (s.mem.slotPhase + skip) % 5
    let s := s.each (List.range 32) fun s c => s.setChannel0 c (slotSteps (min n 1024) place (s.channel0 c))
    s.modMem fun m => { m with slotPhase := (m.slotPhase + n) % 5 }

/-- A 64-byte class-0 access joins a channel's queue: whether the queue of 64 was full, so that it is held at its port. -/
def State.enqueue0 (s : State) (c : Nat) : Bool × State :=
  let x := s.channel0 c
  (decide (64 ≤ x.2), s.setChannel0 c (x.1, x.2 + 1))

/-- The 64-byte accesses a class-0 request is divided into join their channels' queues (R292). -/
def State.enqueueBytes (s : State) (addr len : Nat) : State :=
  let blocks := if len = 0 then [] else (List.range ((addr + len - 1) / 64 + 1 - addr / 64)).map fun i => addr / 64 + i
  let (full, s) := blocks.foldl (fun (x : Bool × State) b =>
    let (f, s) := x.2.enqueue0 (channelOf (64 * b))
    (x.1 || f, s)) (false, s)
  if full then (s.bump R.memory_CL0_QFULL).raise Flag.memory_CL0_QFULL else s

/-- Stream memory can be used: trained, and not in power-down or its exit (R298, R302). -/
def State.memUp (s : State) : Bool := s.on R.memory_STATUS_TRAINED && s.get R.memory_STATUS_PD_STATE == 0

/-- The channel time of one access: its slots and what it causes beside them (R285, R293). -/
def reqTime (bytes ns : Nat) : Rat := ((bytes + 63) / 64 : Nat) * (5 / 2) + (ns : Nat)

/-- An access is served. -/
def State.memServe (s : State) (r : MemReq) : State :=
  let n := if r.write then r.data.length else r.len
  let s := if r.cls = 0 then s.enqueueBytes r.addr (s.classZero r.port n) else s
  let s := s.useMem r.port r.cls n (reqTime n r.ns)
  if r.write then s.memWrite r.kind r.addr r.data
  else
    let (bs, s) := s.memRead r.kind r.addr r.len
    s.emit (.memory (bs.map (·.1)) (bs.map (·.2)))

/-- An access that arrives: served, or held while the memory is down (R302). -/
def State.memAccess (s : State) (r : MemReq) : State :=
  if s.memUp then s.memServe r else s.modMem fun m => { m with held := m.held ++ [r] }

/-- Whether a class 1 to 3 is held back: shed, or under the warm-up limit (R297, R300). -/
def State.classHeld (s : State) (c : Nat) : Bool :=
  c != 0 && (s.on (R.memory_CLASS_CFG_SHED c) || s.on R.memory_STATUS_WARMUP)

/-- The channel time of a 10 µs window, in ns of the 32 channels. -/
def windowTime : Rat := 320000

/-- The entitlement of class `c` in a window, of the window's band; half of it in the warm-up (R293, R296, R300). -/
def State.entitlement (s : State) (c : Nat) : Rat :=
  let band := s.mem.windowBand
  let admits := match s.fabric.now.classes.find? fun k => k.cls == c with
    | none => 0
    | some k => k.admits.getD band 0
  let full : Rat := windowTime * (admits * 100 : Nat) / (usablePercent band * 6553600 : Nat)
  if s.on R.memory_STATUS_WARMUP then full / 2 else full

/-- The channel time a class asks for in the window. -/
def State.demand (s : State) (c : Nat) : Rat := Sparse.get (fun _ => 0) s.mem.backlog c + Sparse.get (fun _ => 0) s.mem.charge c

/-- A round of the sharing of slots left over, in proportion to WEIGHT among the classes that still wait: classes with their weights and
what they wait for. -/
def shareRound (x : Rat × List (Nat × Nat × Rat)) : Rat × List (Nat × Nat × Rat) :=
  let total := ((x.2.filter fun q => decide (0 < q.2.2)).map fun q => q.2.1).sum
  let give (q : Nat × Nat × Rat) : Rat := if 0 < q.2.2 ∧ total ≠ 0 then min q.2.2 (x.1 * (q.2.1 : Nat) / (total : Nat)) else 0
  (x.1 - (x.2.map give).sum, x.2.map fun q => (q.1, q.2.1, q.2.2 - give q))

/-- What each of classes 1 to 3 still waits for at a window's end (R293, R297): class 0 goes first; then each class up to its entitlement,
class 1 before 2 before 3; the rest is shared, but for the warm-up (R300). -/
def State.windowRest (s : State) : List (Nat × Nat × Rat) :=
  let left := windowTime - min windowTime (s.demand 0)
  let (left, waits) := [1, 2, 3].foldl (fun (x : Rat × List (Nat × Nat × Rat)) c =>
    let got := min (min (s.entitlement c) x.1) (s.demand c)
    (x.1 - got, x.2 ++ [(c, s.get (R.memory_CLASS_CFG_WEIGHT c), s.demand c - got)])) (left, [])
  if s.on R.memory_STATUS_WARMUP then waits else (shareRound (shareRound (shareRound (left, waits)))).2

/-- ADMIT_CUR and WEIGHT follow the image and the band (R296). -/
def State.showClasses (s : State) : State :=
  let band := s.get R.memory_STATUS_BAND
  s.each [0, 1, 2, 3] fun s c =>
    match s.fabric.now.classes.find? fun k => k.cls == c with
    | none => (s.put (R.memory_CLASS_ADMIT_CUR c) 0).put (R.memory_CLASS_CFG_WEIGHT c) 0
    | some k =>
      (s.put (R.memory_CLASS_ADMIT_CUR c) (k.admits.getD band 0)).put (R.memory_CLASS_CFG_WEIGHT c) (if c = 0 then 0 else k.weight)

end Sys2Proof.Machine
end

