-- ==== Sys2Proof/Machine/LineCode.lean ====
section
/-!
DEFINITION. The forward lane's line code: the scrambler of 64b/66b blocks (03_rasyn_link.md R96) and the RS(544,514) code
over GF(2^10) (R97). Field and generator polynomials are those of IEEE 802.3 clause 91 (log entry 20).
-/
namespace Sys2Proof.Machine
open Sys2Proof

/-- The bits of a word, bit 0 first. -/
def bitsOf {w : Nat} (b : BitVec w) : List Bool := (List.range w).map b.getLsbD

/-- The number whose bit i is the i-th of the list. -/
def natOfBits (l : List Bool) : Nat := l.foldr (fun b n => (if b then 1 else 0) + 2 * n) 0

/-- The descrambler x^58 + x^39 + 1: register and output bits, first bit first. -/
def descramble : BitVec 58 → List Bool → BitVec 58 × List Bool
  | r, [] => (r, [])
  | r, b :: bs =>
    let x := b ^^ r.getLsbD 38 ^^ r.getLsbD 57
    let (r', l) := descramble ((r <<< 1) ||| (if b then 1 else 0)) bs
    (r', x :: l)

/-- Multiplication in GF(2^10) modulo x^10 + x^3 + 1, over the bits of `b`. -/
def gfMulN : Nat → Nat → Nat → Nat
  | 0, _, _ => 0
  | n + 1, a, b =>
    let a2 := 2 * a
    Nat.xor (if b % 2 = 1 then a else 0) (gfMulN n (if a2 < 1024 then a2 else Nat.xor a2 1033) (b / 2))

def gfMul (a b : Nat) : Nat := gfMulN 10 a b

def gfPowN : Nat → Nat → Nat → Nat
  | 0, _, _ => 1
  | n + 1, a, e => let r := gfPowN n (gfMul a a) (e / 2); if e % 2 = 1 then gfMul r a else r

def gfPow (a e : Nat) : Nat := gfPowN 11 a (e % 1023)
def gfInv (a : Nat) : Nat := gfPow a 1022

/-- The value at `x` of a polynomial, lowest coefficient first. -/
def gfEval (p : List Nat) (x : Nat) : Nat := p.foldr (fun c v => Nat.xor c (gfMul v x)) 0

def gfAdd : List Nat → List Nat → List Nat
  | [], q => q
  | p, [] => p
  | a :: p, b :: q => Nat.xor a b :: gfAdd p q

def gfScale (c : Nat) (p : List Nat) : List Nat := p.map (gfMul c)

def gfPolyMul : List Nat → List Nat → List Nat
  | [], _ => []
  | a :: p, q => gfAdd (gfScale a q) (0 :: gfPolyMul p q)

/-- Berlekamp and Massey's search: the error locator of the syndromes still to come. -/
def locator (syn : List Nat) : Nat → Nat → List Nat → List Nat → Nat → Nat → List Nat × Nat
  | 0, _, c, _, l, _ => (c, l)
  | n + 1, i, c, b, l, bd =>
    let d := (c.zipIdx).foldl (fun v p => if p.2 ≤ i then Nat.xor v (gfMul p.1 (syn.getD (i - p.2) 0)) else v) 0
    if d = 0 then locator syn n (i + 1) c (0 :: b) l bd
    else
      let c' := gfAdd c (gfScale (gfMul d (gfInv bd)) (0 :: b))
      if 2 * l ≤ i then locator syn n (i + 1) c' c (i + 1 - l) d else locator syn n (i + 1) c' (0 :: b) l bd

/-- The derivative of a polynomial in characteristic 2. -/
def gfDeriv : List Nat → Bool → List Nat
  | [], _ => []
  | a :: p, odd => (if odd then a else 0) :: gfDeriv p (!odd)

/-- Decodes 544 received symbols, the first sent first: the 514 message symbols and how many symbols were corrected, or
none when more than 15 are wrong (R97). -/
def rsDecode (rx : List Nat) : Option (List Nat × Nat) :=
  let poly := rx.reverse
  let syn := (List.range 30).map fun j => gfEval poly (gfPow 2 j)
  if syn.all (· == 0) then some (rx.take 514, 0)
  else
    let (c, l) := locator syn 30 0 [1] [1] 0 1
    let roots := (List.range 544).filter fun i => gfEval c (gfPow 2 (1023 - i)) == 0
    if 15 < l ∨ roots.length ≠ l then none
    else
      let om := (gfPolyMul syn c).take 30
      let dv := (gfDeriv c false).drop 1
      let fixed := roots.foldl (fun p i =>
        let xi := gfPow 2 (1023 - i)
        let e := gfMul (gfPow 2 i) (gfMul (gfEval om xi) (gfInv (gfEval dv xi)))
        p.set i (Nat.xor (p.getD i 0) e)) poly
      if ((List.range 30).map fun j => gfEval fixed (gfPow 2 j)).all (· == 0) then some (fixed.reverse.take 514, l) else none

/-- The list cut into pieces of `k`, at most `n` of them. -/
def pieces {α : Type} (k : Nat) : Nat → List α → List (List α)
  | 0, _ => []
  | n + 1, l => l.take k :: pieces k n (l.drop k)

/-- The bytes of a bit string, each bit 0 first. -/
def bytesOfBits (n : Nat) (l : List Bool) : List Byte := (pieces 8 n l).map fun p => BitVec.ofNat 8 (natOfBits p)

end Sys2Proof.Machine
end

