-- ==== Sys2Proof/Machine/PixelOps.lean ====
section
/-!
DEFINITION. Pictures as samples and as bytes: link pixels, storage formats, conversion, sketches and block search
(03_rasyn_link.md R102, 05_ingest_inkwell.md R143 to R155, R165, R166).
-/
namespace Sys2Proof.Machine
open Sys2Proof

/-- The layouts of R154. -/
inductive Layout where
  | c422 | c420 | c444 | rgba
  deriving DecidableEq, Repr

/-- Layout and sample depth of a storage format code (R154). -/
def storageFormat (code : Nat) : Option (Layout × Nat) :=
  match code with
  | 1 => some (.c422, 12) | 2 => some (.c420, 12) | 3 => some (.c444, 12) | 4 => some (.c422, 10) | 5 => some (.c420, 10)
  | 6 => some (.rgba, 8) | _ => none

/-- The components of a layout. -/
def Layout.comps : Layout → Nat | .rgba => 4 | _ => 3

/-- Width and height of a component plane (R154). -/
def planeDims (l : Layout) (w h comp : Nat) : Nat × Nat :=
  if comp = 0 then (w, h)
  else match l with
    | .c422 => ((w + 1) / 2, h) | .c420 => ((w + 1) / 2, h / 2) | _ => (w, h)

/-- Line bytes at width `w` (R154). -/
def lineBytes (code w : Nat) : Nat :=
  match code with
  | 1 => 6 * ((w + 1) / 2) | 2 => 3 * ((w + 1) / 2) | 3 => 9 * ((w + 1) / 2) | 4 => 5 * ((w + 1) / 2)
  | 5 => 5 * ((w + 3) / 4) | _ => 4 * w

/-- Line bytes rounded up to 256 (R153). -/
def linePitch (code w : Nat) : Nat := (lineBytes code w + 255) / 256 * 256

/-- Stored rows of a part (R153). -/
def partRows (l : Layout) (h : Nat) : Nat := if l = .c420 then h + h / 2 else h

/-- Which sample of a line a component's column is, counted from the line's first. -/
def sampleIndex (l : Layout) (comp col : Nat) : Nat :=
  match l with
  | .c422 => if comp = 0 then 4 * (col / 2) + 1 + 2 * (col % 2) else 4 * col + 2 * (comp - 1)
  | .c420 => if comp = 0 then col else 2 * col + (comp - 1)
  | .c444 => 3 * col + comp
  | .rgba => 4 * col + comp

/-- The component and column of sample `i` of stored row `r` (chroma rows of a 4:2:0 part follow its luma rows). -/
def sampleOwner (l : Layout) (h r i : Nat) : Nat × Nat :=
  match l with
  | .c422 => if i % 2 = 1 then (0, i / 4 * 2 + i % 4 / 2) else (1 + i % 4 / 2, i / 4)
  | .c420 => if r < h then (0, i) else (1 + i % 2, i / 2)
  | .c444 => (i % 3, i / 3)
  | .rgba => (i % 4, i / 4)

/-- Samples of `b` bits as bytes, sample 0 in the lowest bits (R154, R102). -/
def packSamples (b : Nat) (l : List Nat) : List Byte :=
  let bits := l.flatMap fun v => (List.range b).map fun i => v.testBit i
  bytesOfBits ((bits.length + 7) / 8) bits

/-- Sample `i` of `b` bits in a line of bytes. -/
def unpackSample (b : Nat) (line : List Byte) (i : Nat) : Nat :=
  (leNat (slice line (i * b / 8) 3) >>> (i * b % 8)) % 2 ^ b

/-- A picture as a function of component, row and column. -/
abbrev Picture := Nat → Nat → Nat → Nat

/-- The bytes of stored row `r` of a picture in format `code` (R154). -/
def rowBytes (code w h : Nat) (g : Picture) (r : Nat) : List Byte :=
  match storageFormat code with
  | none => []
  | some (l, b) =>
    let n := lineBytes code w * 8 / b
    packSamples b ((List.range n).map fun i =>
      let (c, x) := sampleOwner l h r i
      if x < (planeDims l w h c).1 then g c (if l = .c420 && c != 0 then r - h else r) x else Config.padSample % 2 ^ b)

/-- A picture read back from stored rows. -/
def pictureOf (code h : Nat) (rows : Nat → List Byte) : Picture := fun c r x =>
  match storageFormat code with
  | none => 0
  | some (l, b) => unpackSample b (rows (if l = .c420 && c != 0 then h + r else r)) (sampleIndex l c x)

/-- Bits per sample and bytes per pixel pair of a link format (R102). -/
def linkFormat (code : Nat) : Option (Nat × Nat × Bool) :=
  match code with
  | 1 => some (8, 4, false) | 2 => some (10, 5, false) | 3 => some (12, 6, false) | 4 => some (12, 9, true)
  | 5 => some (12, 9, true) | _ => none

/-- A segment's samples widened to 12 bits (R102, R143). -/
def linkSamples (fmt : Nat) (bs : List Byte) (count : Nat) : List Nat :=
  match linkFormat fmt with
  | none => []
  | some (b, _, full) =>
    (List.range (if full then 3 * count else 2 * count)).map fun i => unpackSample b bs i * 2 ^ (12 - b)

/-- The received sample at a component, row and column; of a 4:2:2 source chroma columns are pairs. The latest segment
counts. -/
def receivedAt (segs : List Segment) (c r x : Nat) : Option Nat :=
  match segs.reverse.find? fun g => g.row == r &&
      (let p := if g.full || c == 0 then x else 2 * x; decide (g.x ≤ p) && decide (p < g.x + g.count)) with
  | none => none
  | some g =>
    if g.full then g.samples[3 * (x - g.x) + c]?
    else if c = 0 then g.samples[4 * ((x - g.x) / 2) + 1 + 2 * (x % 2)]?
    else g.samples[4 * (x - g.x / 2) + 2 * (c - 1)]?

/-- A picture with holes. -/
abbrev Holed := Nat → Nat → Nat → Option Nat

/-- A sum over `d` at 12 bits, rounded once, halves up, to a depth; 10 and 8 bits are limited (R143). -/
def roundTo (b sum d : Nat) : Nat :=
  let k := d * 2 ^ (12 - b)
  min ((2 * sum + k) / (2 * k)) (2 ^ b - 1)

/-- The sum of received samples; none when one is missing. -/
def sumAll (l : List (Option Nat)) : Option Nat :=
  l.foldl (fun a x => match a, x with | some a, some x => some (a + x) | _, _ => none) (some 0)

/-- The chroma of a 4:4:4 source at a 4:2:2 column, times 4: taps [1 2 1], edges repeated (R143). -/
def chroma4 (w : Nat) (g : Holed) (c r i : Nat) : Option Nat :=
  let x := 2 * i
  sumAll [g c r (x - 1), g c r x, g c r x, g c r (min (x + 1) (w - 1))]

/-- Whether a link format may be stored in a format (R143). -/
def formatPairs (link code : Nat) : Bool :=
  if link = 5 then code == 3 || code == 6
  else if link = 4 then code == 1 || code == 2 || code == 3 || code == 4 || code == 5
  else code == 1 || code == 2 || code == 4 || code == 5

/-- The stored sample a received frame gives, none where it needs a sample that was not received (R143). -/
def convertSample (full : Bool) (code w : Nat) (g : Holed) (c r x : Nat) : Option Nat :=
  match storageFormat code with
  | none => none
  | some (l, b) =>
    if c = 3 then (g 0 r x).map fun _ => 0xFF
    else if c = 0 ∨ l = .c444 ∨ l = .rgba then (g c r x).map fun v => roundTo b v 1
    else
      let one (row : Nat) : Option Nat := if full then chroma4 w g c row x else (g c row x).map fun v => 4 * v
      if l = .c420 then (sumAll [one (2 * r), one (2 * r + 1)]).map fun v => roundTo b v 8
      else (one r).map fun v => roundTo b v 4

/-- Adaptive de-interlacing (R149): a first-field pixel that moved takes the rounded mean of its second-field neighbours. The
chroma of a 4:2:2 source follows the pixel it is sited with (log entry 31). -/
def deinterlace (firstField : Nat → Bool) (h thresh : Nat) (old : Nat → Nat → Nat) (g : Holed) (full : Bool) : Holed :=
  fun c r x =>
    if firstField r then
      let px := if full || c == 0 then x else 2 * x
      match g 0 r px with
      | none => none
      | some y =>
        let o := old r px
        if (if o ≤ y then y - o else o - y) ≤ thresh then g c r x
        else
          match (if r = 0 then none else g c (r - 1) x), (if r + 1 < h then g c (r + 1) x else none) with
          | some a, some b => some ((a + b + 1) / 2)
          | some a, none => some a
          | none, b => b
    else g c r x

/-- Whether de-interlacing replaces a pixel. -/
def moved (firstField : Nat → Bool) (thresh : Nat) (old : Nat → Nat → Nat) (g : Holed) (r x : Nat) : Bool :=
  firstField r && match g 0 r x with
    | none => false
    | some y => let o := old r x; decide (thresh < (if o ≤ y then y - o else o - y))

/-- Black in a storage format (R146). -/
def blackSample (code c : Nat) : Nat :=
  match storageFormat code with
  | some (.rgba, _) => if c = 3 then 0xFF else 0
  | some (_, 10) => if c = 0 then 0x040 else 0x200
  | _ => if c = 0 then 0x100 else 0x800

/-- Width and height of sketch level `n` (R155). -/
def sketchDims (code w h n : Nat) : Nat × Nat :=
  let hn := (h + 2 ^ n - 1) / 2 ^ n
  (2 * ((w + 2 ^ (n + 1) - 1) / 2 ^ (n + 1)), if code = 2 ∨ code = 5 then (hn + 1) / 2 * 2 else hn)

/-- The next sketch level of a plane: taps 1 3 3 1 in each axis, one rounding of the vertical result (R155). -/
def sketchStep (w h b : Nat) (p : Nat → Nat → Nat) (r x : Nat) : Nat :=
  let cx (i : Nat) : Nat := min i (w - 1)
  let cr (i : Nat) : Nat := min i (h - 1)
  let hor (row : Nat) : Nat :=
    p row (cx (2 * x - 1)) + 3 * p row (cx (2 * x)) + 3 * p row (cx (2 * x + 1)) + p row (cx (2 * x + 2))
  let v := hor (cr (2 * r - 1)) + 3 * hor (cr (2 * r)) + 3 * hor (cr (2 * r + 1)) + hor (cr (2 * r + 2))
  min ((v + 32) / 64) (2 ^ b - 1)

/-- Sketch level `n` of a picture, level 0 being the frame (R155). -/
def sketch (code w h : Nat) (g : Picture) : Nat → Picture
  | 0 => g
  | n + 1 => fun c r x =>
    match storageFormat code with
    | none => 0
    | some (l, b) =>
      let (pw, ph) := if n = 0 then (w, h) else sketchDims code w h n
      let (cw, ch) := planeDims l pw ph c
      sketchStep cw ch b (sketch code w h g n c) r x

/-- The CRC over component 0 in raster order, each sample as two bytes (R158). -/
def lumaCrc (w h : Nat) (g : Picture) : BitVec 32 :=
  crc32 ((List.range h).flatMap fun r => (List.range w).flatMap fun x => leBytes 2 (g 0 r x))

/-- Four times the bilinear value at a position in quarter pixels, edges repeated, times 4 more: 16 times the sample. -/
def bilinear16 (w h : Nat) (p : Nat → Nat → Nat) (qy qx : Int) : Nat :=
  let fy := (qy % 4).toNat
  let fx := (qx % 4).toNat
  let cl (v : Int) (n : Nat) : Nat := min v.toNat (n - 1)
  let y := qy / 4
  let x := qx / 4
  (4 - fy) * ((4 - fx) * p (cl y h) (cl x w) + fx * p (cl y h) (cl (x + 1) w))
    + fy * ((4 - fx) * p (cl (y + 1) h) (cl x w) + fx * p (cl (y + 1) h) (cl (x + 1) w))

/-- A displacement in quarter sketch pixels and 16 times its SAD (R165). -/
structure Match where
  dy : Int
  dx : Int
  sad16 : Nat
  deriving DecidableEq, Repr

/-- Least SAD, then the smaller |dx| + |dy|, then |dy|, then |dx| (R165). -/
def Match.better (a b : Match) : Bool :=
  if a.sad16 ≠ b.sad16 then decide (a.sad16 < b.sad16)
  else
    let s (m : Match) := m.dx.natAbs + m.dy.natAbs
    if s a ≠ s b then decide (s a < s b)
    else if a.dy.natAbs ≠ b.dy.natAbs then decide (a.dy.natAbs < b.dy.natAbs) else decide (a.dx.natAbs < b.dx.natAbs)

def bestMatch (m : Match) (l : List Match) : Match := l.foldl (fun a b => if b.better a then b else a) m

/-- The block at (`by8`, `bx8`) of a sketch against its reference (R165): full-pel search over ±32, then half and quarter
refinement within that range, and whether a candidate reached beyond the picture. -/
def searchBlock (w h : Nat) (cur ref : Nat → Nat → Nat) (by8 bx8 : Nat) : Match × Bool :=
  let depth (p : Nat → Nat → Nat) (r x : Nat) : Nat := p (min r (h - 1)) (min x (w - 1))
  let sad (dy dx : Int) : Nat :=
    ((List.range 64).map fun i =>
      let r := 8 * by8 + i / 8
      let x := 8 * bx8 + i % 8
      let a := 16 * depth cur r x
      let b := bilinear16 w h ref (4 * r + dy) (4 * x + dx)
      if a ≤ b then b - a else a - b).foldl (· + ·) 0
  let at_ (dy dx : Int) : Match := ⟨dy, dx, sad dy dx⟩
  let steps : List Int := (List.range 65).map fun (i : Nat) => 4 * ((i : Int) - 32)
  let full := bestMatch (at_ 0 0) (steps.flatMap fun dy => steps.map fun dx => at_ dy dx)
  let refine (m : Match) (k : Int) : Match :=
    bestMatch m (([-k, 0, k].flatMap fun dy => [-k, 0, k].map fun dx => (m.dy + dy, m.dx + dx)).filterMap fun p =>
      if p.1.natAbs ≤ 128 ∧ p.2.natAbs ≤ 128 then some (at_ p.1 p.2) else none)
  (refine (refine full 2) 1, decide (8 * bx8 < 32) || decide (8 * by8 < 32) || decide (w < 8 * bx8 + 40) || decide (h < 8 * by8 + 40))

/-- A vector entry (R166). -/
def vectorEntry (m : Match) (edge : Bool) : BitVec 32 :=
  let conf := 255 - min 255 (m.sad16 / 256)
  BitVec.ofNat 32 (conf * 2 ^ 24 + (if edge then 2 ^ 23 else 0) + twos 11 m.dy * 2 ^ 11 + twos 11 m.dx)
where
  twos (w : Nat) (v : Int) : Nat := (v % (2 ^ w : Int)).toNat

end Sys2Proof.Machine
end

