-- ==== Sys2Proof/Machine/RulingOps.lean ====
section
/-!
DEFINITION. The Ruling: its format, its position, its sources, the lock loop and the jump policy
(01_ruling.md R21 to R51, R507 to R509).
-/
namespace Sys2Proof.Machine
open Sys2Proof

/-- A reference format of R22: lines per frame and frame rate as a fraction, and whether it is of the integer family. -/
structure RulingFormat where
  lines : Nat
  num : Nat
  den : Nat
  integer : Bool
  deriving DecidableEq, Repr

/-- The table of R22; reserved codes act as 02h (R507). -/
def rulingFormatOf (code : Nat) : RulingFormat :=
  match code with
  | 0x00 => ⟨1125, 60, 1, true⟩
  | 0x01 => ⟨1125, 60000, 1001, false⟩
  | 0x02 => ⟨1125, 50, 1, true⟩
  | 0x03 => ⟨1125, 30, 1, true⟩
  | 0x04 => ⟨1125, 30000, 1001, false⟩
  | 0x05 => ⟨1125, 25, 1, true⟩
  | 0x06 => ⟨1125, 24, 1, true⟩
  | 0x07 => ⟨1125, 24000, 1001, false⟩
  | 0x08 => ⟨750, 60, 1, true⟩
  | 0x09 => ⟨750, 60000, 1001, false⟩
  | 0x0A => ⟨750, 50, 1, true⟩
  | 0x0B => ⟨625, 25, 1, true⟩
  | 0x0C => ⟨525, 30000, 1001, false⟩
  | _ => ⟨1125, 50, 1, true⟩

/-- The reference format in force. -/
def State.rulingFormat (s : State) : RulingFormat := rulingFormatOf (s.get R.ruling_REF_FORMAT_FORMAT)

/-- Nanoseconds of a Ruling frame and of a Ruling line. -/
def RulingFormat.frameNs (f : RulingFormat) : Rat := (1000000000 * f.den : Rat) / f.num
def RulingFormat.lineNs (f : RulingFormat) : Rat := f.frameNs / f.lines

/-- The loop's states (R41), as STATUS.STATE codes them. -/
inductive LoopState where
  | free | acquire | locked | slewing | snapPending | coast
  deriving DecidableEq, Repr

def LoopState.code : LoopState → Nat
  | .free => 0 | .acquire => 1 | .locked => 2 | .slewing => 3 | .snapPending => 4 | .coast => 5

def LoopState.ofCode : Nat → LoopState
  | 1 => .acquire | 2 => .locked | 3 => .slewing | 4 => .snapPending | 5 => .coast | _ => .free

def State.loop (s : State) : LoopState := LoopState.ofCode (s.get R.ruling_STATUS_STATE)
def State.setLoop (s : State) (l : LoopState) : State := s.put R.ruling_STATUS_STATE l.code

/-- An update of the Ruling's hidden state. -/
def State.modRuling (s : State) (f : RulingState → RulingState) : State := { s with ruling := f s.ruling }

/-- Whether source code `c` is qualified (STATUS.QUAL). -/
def State.qualified (s : State) (c : Nat) : Bool := (s.rd Reg.ruling_STATUS).getLsbD (22 + c)

def State.setQualified (s : State) (c : Nat) (q : Bool) : State := s.put ⟨Reg.ruling_STATUS, 22 + c, 22 + c⟩ (if q then 1 else 0)

/-- The source codes of the enabled entries of SRC_PRIO, highest priority first (R30); code 3 is never qualified. -/
def State.listed (s : State) : List Nat :=
  let one (f : Fld) : List Nat := let v := s.get f; if 8 ≤ v ∧ v % 4 < 3 then [v % 4] else []
  one R.ruling_SRC_PRIO_PRIO0 ++ one R.ruling_SRC_PRIO_PRIO1 ++ one R.ruling_SRC_PRIO_PRIO2

/-- The highest-priority qualified listed source (R30). -/
def State.bestSource (s : State) : Option Nat := s.listed.find? s.qualified

/-- RASTERS_ACTIVE: a raster runs (states RUN, CHANGING and HOLD), an SDI output transmits (TX_BLACK or TX_RUN), or a camera is
genlocked (R42; log entry 52). -/
def State.rastersActive (s : State) : Bool :=
  ((List.range 64).any fun f => decide (2 ≤ s.get (R.folio_RASTER_STATUS_STATE f)))
    || (List.range 96).any fun n =>
      s.get (R.port_GL_STAT_GENLOCKED n) != 0
        || (s.get (R.port_PORT_CFG_MODE n) == 4 && (s.get (R.port_SDI_STATE_STATE n) == 9 || s.get (R.port_SDI_STATE_STATE n) == 10))

def State.manualMode (s : State) : Bool := s.on R.ruling_CTRL_SRC_MODE
def State.forceCoast (s : State) : Bool := s.on R.ruling_CTRL_FORCE_COAST
def State.curSrc (s : State) : Nat := s.get R.ruling_STATUS_CUR_SRC

/-- SLEW_RATE as a relative frequency (R46): 0.1 ppm units, 0 acts as 1 and above 100 as 100. -/
def slewOf (field : Nat) : Nat := max 1 (min field 100)
def State.slewNow (s : State) : Nat := slewOf (s.get R.ruling_JUMP_CFG_SLEW_RATE)
def slewRel (units : Nat) : Rat := (units : Rat) / 10000000

/-- THRESH and LOCK_WIN in nanoseconds, with their floors. -/
def State.jumpThresh (s : State) : Nat := max 100 (s.get R.ruling_JUMP_CFG_THRESH)
def State.lockWin (s : State) : Nat := max 10 (s.get R.ruling_LOOP_CFG_LOCK_WIN)

/-- The Ruling's frequency relative to nominal: the loop's correction, and the slew offset while SLEWING (R46). -/
def State.rulingFreq (s : State) : Rat :=
  if s.loop = .slewing then
    if 0 < s.ruling.residual then s.ruling.corr + slewRel s.ruling.slewRate
    else if s.ruling.residual < 0 then s.ruling.corr - slewRel s.ruling.slewRate else s.ruling.corr
  else s.ruling.corr

/-- f_pfd in MHz (R34). -/
def pfdMHz (refPath : Nat) : Rat := if refPath = 1 then 100 else if refPath = 2 then 25 else 50

/-- N and F of synthesizer `n` at relative frequency `y` (R34). -/
def synDivider (n refPath : Nat) (y : Rat) : Nat × Nat :=
  let vco : Rat := (if n = 0 then 5940 else 5940000 / 1001) * (1 + y)
  let r := vco / pfdMHz refPath
  (r.floor.toNat, ((r - r.floor) * 4294967296).floor.toNat)

/-- Both synthesizers take the loop's frequency (R34, R40), and FREQ_OFFSET shows it. -/
def State.applyFreq (s : State) : State :=
  let y := s.rulingFreq
  let s := s.putInt R.ruling_FREQ_OFFSET (wholeUnits (1000000000 * y))
  s.each [0, 1] fun s n =>
    let d := synDivider n (s.get (R.clock_CTRL_REF_PATH n)) y
    (s.put (R.clock_N_INT n) d.1).put (R.clock_FRAC n) d.2

/-- The residual of a slew, in the loop and in RESIDUAL. -/
def State.setResidual (s : State) (r : Rat) : State :=
  (s.modRuling fun u => { u with residual := r }).putInt R.ruling_RESIDUAL (wholeUnits r)

/-- The mean of a frequency history over `len` seconds that end `skip` seconds ago (R43); the oldest frequency stands
for the time before the history (log entry 11). -/
def meanFreq : List (Rat × Rat) → Rat → Rat → Rat → Rat
  | [], _, _, last => last
  | (dt, y) :: h, skip, len, _ =>
    if dt ≤ skip then meanFreq h (skip - dt) len y
    else
      let d := min (dt - skip) len
      if len ≤ d then y else (y * d + meanFreq h 0 (len - d) y * (len - d)) / len

/-- The HOLD_AVG window in seconds. -/
def State.holdAvg (s : State) : Rat :=
  match s.get R.ruling_SRC_TIMING_HOLD_AVG with | 0 => 1 / 10 | 1 => 1 | _ => 10

/-- The history kept, at most as many segments as the longest window can need (log entry 11). -/
def historyCap : Nat := 1024

/-- The frequency COAST holds after a loss declared `sinceNs` after the last measurement (R43): the mean of what the Ruling ran at,
without the slew offset where a slew is under way (R44; log entry 11). -/
def State.heldFreq (s : State) (sinceNs : Nat) : Rat :=
  let u := s.ruling
  let slewing := s.loop == .slewing
  let sec : Rat := (sinceNs : Rat) / 1000000000
  let now := u.corr + (if slewing || sinceNs = 0 then 0 else u.absorbed / sinceNs)
  meanFreq ((sec, now) :: u.history.map fun x => (x.1, if slewing then x.2.1 else x.2.2)) (5 / 100) s.holdAvg now

/-- ns since the last phase measurement, by the Ruling's lines (log entry 101). -/
def State.sinceMeasure (s : State) : Nat :=
  let u := s.ruling
  (((u.lineTotal - u.measAt.1 : Nat) - (u.measAt.2 : Rat) / 65536) * s.rulingFormat.lineNs).floor.toNat

/-- Entry to COAST (R43, R44): the frequency given is held, the residual is discarded, COAST_S starts again. -/
def State.enterCoast (s : State) (held : Rat) : State :=
  let s := s.modRuling fun u =>
    { u with corr := held, inWin := 0, outWin := 0, adjust := none, slewFrom := none, coastAt := u.lineTotal }
  let s := ((s.setResidual 0).setLoop .coast).put R.ruling_STATUS_COAST_S 0
  (s.raise Flag.ruling_COAST).applyFreq

/-- COAST_S: whole seconds since the entry to COAST, by the Ruling's lines at the held frequency (R43; log entry 80). -/
def State.coastSeconds (s : State) : Nat :=
  let u := s.ruling
  (((u.lineTotal - u.coastAt : Nat) : Rat) * s.rulingFormat.lineNs / ((1 + u.corr) * 1000000000)).floor.toNat

/-- Entry to FREE on the crystal (R32): nominal frequency at once, residual discarded. -/
def State.enterFree (s : State) : State :=
  let s := s.modRuling fun u => { u with corr := 0, inWin := 0, outWin := 0, adjust := none, slewFrom := none, lostSrc := none }
  let s := ((s.setResidual 0).setLoop .free).put R.ruling_STATUS_CUR_SRC 3
  s.applyFreq

/-- Entry to ACQUIRE on source `c` (R33, R40, R41); SRC_SWITCH when the source in use changes; a listed source counts as acquired from
here on (R30). -/
def State.enterAcquire (s : State) (c : Nat) : State :=
  let s := s.raiseIf (s.curSrc != c) Flag.ruling_SRC_SWITCH
  let s := s.modRuling fun u =>
    { u with integ := 0, base := u.corr, inWin := 0, outWin := 0, firstMeas := true, adjust := none,
             slewFrom := none, acquired := u.acquired || s.listed.contains c, switchExpired := false, lostSrc := none }
  (((s.setResidual 0).put R.ruling_STATUS_CUR_SRC c).setLoop .acquire).applyFreq

/-- Entry to LOCKED. -/
def State.enterLocked (s : State) : State :=
  let s := s.modRuling fun u => { u with base := u.corr, inWin := 0 }
  ((s.setLoop .locked).raise Flag.ruling_LOCKED).applyFreq

/-- Moves the loop to source `c`, after an announced adjustment when one is pending (log entry 12). -/
def State.moveToSource (s : State) (c : Nat) : State :=
  match s.ruling.adjust with
  | some a =>
    if s.loop = .snapPending then s.modRuling fun u => { u with adjust := some { a with after := .acquire c } }
    else s.enterAcquire c
  | none => s.enterAcquire c

/-- Loses the source in use: COAST now, or at the end of an announced adjusted frame, at the frequency the first such loss forms
(R41, R51). -/
def State.coastOrDefer (s : State) (sinceNs : Nat) : State :=
  match s.loop, s.ruling.adjust with
  | .snapPending, some a =>
    let after : AfterAdjust := match a.after with | .coast y => .coast y | _ => .coast (s.heldFreq sinceNs)
    s.modRuling fun u => { u with adjust := some { a with after := after } }
  | .free, _ => s
  | .coast, _ => s
  | _, _ => s.enterCoast (s.heldFreq sinceNs)

/-- The source the loop may take from COAST or FREE under the rules as they stand (R30 to R32, R41). -/
def State.wanted (s : State) : Option Nat :=
  if s.manualMode then
    let m := s.get R.ruling_CTRL_MANUAL_SRC
    if m ≠ 3 ∧ s.qualified m then some m else none
  else if s.loop = .free ∨ s.ruling.switchExpired ∨ s.listed.contains s.curSrc = false then s.bestSource
  else if s.qualified s.curSrc then some s.curSrc else none

/-- Leaves COAST for the source it may take, if there is one and FORCE_COAST is 0 (R41). -/
def State.leaveCoast (s : State) : State :=
  if s.forceCoast then s
  else match s.wanted with
    | some c => s.enterAcquire c
    | none => s

/-- Slewing by `e` nanoseconds at the slew rate in force (R46). -/
def State.startSlew (s : State) (e : Rat) (rate : Nat) : State :=
  if e = 0 then s.enterLocked
  else
    let s := s.modRuling fun u => { u with slewRate := rate, inWin := 0, outWin := 0, adjust := none, slewFrom := none }
    ((s.setResidual e).setLoop .slewing).applyFreq

/-- The whole lines of a phase error, signed, and what is left (R47). -/
def wholeLines (f : RulingFormat) (e : Rat) : Int × Rat :=
  let n : Int := ((if e < 0 then -e else e) / f.lineNs).floor
  let k : Int := if e < 0 then -n else n
  (k, e - k * f.lineNs)

/-- A jump is declared (R41, R46, R47): the jump policy as it stands now (R50). -/
def State.declareJump (s : State) (e : Rat) : State :=
  let s := s.raise Flag.ruling_JUMP
  let rate := s.slewNow
  let k := wholeLines s.rulingFormat e
  if s.on R.ruling_CTRL_JUMP_POLICY ∧ k.1 ≠ 0 then
    let s := s.modRuling fun u =>
      { u with adjust := some ⟨k.1, k.2, rate, false, .resume⟩, outWin := 0, inWin := 0 }
    ((s.setResidual 0).setLoop .snapPending).raise Flag.ruling_SNAP_ANNOUNCE |>.applyFreq
  else s.startSlew e rate

/-- The Ruling's position within its frame, in nanoseconds. -/
def State.rulingPosNs (s : State) (frac : Nat) : Rat :=
  ((s.ruling.line - 1 : Nat) + (frac : Rat) / 65536) * s.rulingFormat.lineNs

/-- `x` frames as the whole frames and the rest in (−1/2, 1/2] (R45). -/
def splitFrames (x : Rat) : Int × Rat :=
  let n := (x - 1 / 2).ceil
  (n, x - n)

/-- EVQ_LEVEL follows the entries held (R55); those of the debug port count in TOTAL only (log entry 136). -/
def State.setEvq (s : State) (q : EvqState) : State :=
  let s := { s with evq := q }
  (s.put R.ruling_EVQ_LEVEL_TOTAL q.entries.length).put R.ruling_EVQ_LEVEL_HOST
    (q.entries.filter fun e => e.master == .host).length

/-- Marks every waiting entry at or before the position as late at the next frame, or removes it (R42, R59). -/
def State.lateUpTo (s : State) (frame line : Nat) (mark : LateMark) : State :=
  let skipped (e : EvqEntry) : Bool :=
    e.late == .onTime && (decide (e.frame < frame) || (e.frame == frame && decide (e.line ≤ line)))
  let n := (s.evq.entries.filter skipped).length
  let kept := (s.evq.entries.filter fun e => !skipped e || e.lateRun).map fun e =>
    if skipped e then { e with late := mark } else e
  let s := s.setEvq { s.evq with entries := kept }
  s.each (List.replicate n ()) fun s _ => s.raise Flag.ruling_EVQ_LATE

/-- A direct set of the Ruling to a position given in frames since the epoch (R42); the frame count moves only when
`loadCount` holds. An entry whose target is the very line the set lands in counts as passed over (log entry 102). -/
def State.directSet (s : State) (pos : Rat) (loadCount : Bool) : State :=
  let f := s.rulingFormat
  let whole := pos.floor
  let within := (pos - whole) * f.lines
  let line := within.floor.toNat + 1
  let frac := ((within - within.floor) * 65536).floor.toNat
  let s := s.modRuling fun u =>
    { u with frame := if loadCount then (whole % (2 ^ 48 : Int)).toNat else u.frame,
             line := line, frac := frac, inserted := false, insertedLeft := 0 }
  s.lateUpTo s.ruling.frame s.ruling.line .nextFrame

/-- The loop's steering at a used measurement of error `e` nanoseconds, `tau` seconds after the one before (R40). -/
def State.steer (s : State) (e tau : Rat) : State :=
  let fn : Rat := match s.get R.ruling_CTRL_LOOP_BW with | 0 => 1 / 10 | 1 => 1 | 2 => 3 | _ => 10
  let w := min (2 * piRat * fn) ((1 / 2) / tau)
  let es := e / 1000000000
  let i := s.ruling.integ + w * w * es * tau
  let y := 2 * w * es + i
  let lim := slewRel s.slewNow
  let lo := s.ruling.base - lim
  let hi := s.ruling.base + lim
  if lo ≤ y ∧ y ≤ hi then s.modRuling fun u => { u with integ := i, corr := y, tauAcc := 0 }
  else s.modRuling fun u => { u with corr := max lo (min y hi), tauAcc := 0 }

/-- What a phase measurement does to the loop's counts and state (R41). `err` is PHASE_ERR in nanoseconds. -/
def State.judge (s : State) (err e : Rat) : State :=
  let a := if e < 0 then -e else e
  let s := s.modRuling fun u =>
    { u with inWin := if a ≤ s.lockWin then u.inWin + 1 else 0, outWin := if (s.jumpThresh : Rat) < a then u.outWin + 1 else 0 }
  let s := if a ≤ s.jumpThresh then s.steer e s.ruling.tauAcc else s
  if 3 ≤ s.ruling.outWin then s.declareJump err
  else if s.loop = .acquire ∧ max 1 (s.get R.ruling_LOOP_CFG_LOCK_COUNT) ≤ s.ruling.inWin then s.enterLocked
  else s.applyFreq

/-- What a time since the measurement before does to the loop's records (R43, R46): a slew absorbs its residual over that time, or
over the part of it since the slew began at a frame boundary (R47). -/
def State.elapse (s : State) (frac tauNs : Nat) : State :=
  s.modRuling fun u =>
    let tau : Rat := (tauNs : Rat) / 1000000000
    let slewNs : Rat := match u.slewFrom with
      | some l => min (tauNs : Rat) (((u.lineTotal - l : Nat) + (frac : Rat) / 65536) * s.rulingFormat.lineNs)
      | none => tauNs
    let moved := slewRel u.slewRate * slewNs
    let res := if s.loop ≠ .slewing then u.residual
      else if u.residual < 0 then min 0 (u.residual + moved) else max 0 (u.residual - moved)
    let ran := if tauNs = 0 then u.corr else u.corr + (u.absorbed + (u.residual - res)) / tauNs
    { u with frac := frac, tauAcc := u.tauAcc + tau, history := ((tau, u.corr, ran) :: u.history).take historyCap,
             residual := res, absorbed := 0, slewFrom := none, measAt := (u.lineTotal, frac) }

/-- A phase measurement of the source in use (R40 to R42, R45, R50). `refPos` is the source's position in frames since
the epoch, `counted` says that its whole frames are known, `frac` is the Ruling's sub-line fraction at that instant. -/
def State.measure (s : State) (refPos : Rat) (counted : Bool) (frac tauNs : Nat) : State :=
  let f := s.rulingFormat
  let s := s.elapse frac tauNs
  let s := if s.loop = .slewing then s.setResidual s.ruling.residual else s
  let here := s.rulingPosNs frac / f.frameNs
  let diff := if counted then refPos - (s.ruling.frame + here) else (refPos - refPos.floor) - here
  let (n, rest) := splitFrames diff
  let err := rest * f.frameNs
  let s := s.putInt R.ruling_PHASE_ERR (wholeUnits err)
  let step : Option Int := if counted then (if n = 0 then none else some n) else s.ruling.countStep
  match s.loop with
  | .acquire =>
    if s.ruling.firstMeas ∧ s.rastersActive = false then
      (s.directSet refPos counted).modRuling fun u => { u with firstMeas := false, tauAcc := 0, countStep := none }
    else (s.modRuling fun u => { u with firstMeas := false, countStep := step }).judge err err
  | .locked => (s.modRuling fun u => { u with countStep := step }).judge err err
  | .slewing => (s.modRuling fun u => { u with countStep := step }).judge err (err - s.ruling.residual)
  | _ => s

/-- A source has just become qualified (R508): what it means for the loop (R30 to R32, R41). -/
def State.onQualified (s : State) (c : Nat) : State :=
  if s.forceCoast then s
  else if s.manualMode then
    if s.get R.ruling_CTRL_MANUAL_SRC = c ∧ (s.loop = .free ∨ s.loop = .coast) then s.enterAcquire c else s
  else match s.loop with
    | .free => match s.bestSource with | some b => s.enterAcquire b | none => s
    | .coast =>
      if s.ruling.switchExpired then match s.bestSource with | some b => s.enterAcquire b | none => s
      else if c ∈ s.listed ∧ s.curSrc = c then s.enterAcquire c else s
    | _ => s

/-- One instant of a qualification run (R508): `ok` says that the interval or frame before it meets the table of R28. -/
def State.runInstant (s : State) (c : Nat) (ok : Bool) (needed : Nat) : State :=
  let run := if ok then Sparse.get (fun _ => 0) s.ruling.runs c + 1 else 1
  let s := s.modRuling fun u => { u with runs := Sparse.set (fun _ => 0) u.runs c (min run needed) }
  if needed ≤ run ∧ s.qualified c = false then (s.setQualified c true).onQualified c else s

/-- The seconds of the reference at a PPS edge as a frame position (R27), with CABLE_DELAY added back. -/
def State.ppsPos (s : State) : Rat :=
  let f := s.rulingFormat
  ((s.ruling.seconds : Rat) + (s.getInt R.ruling_PPS_CFG_CABLE_DELAY : Rat) / 1000000000) * f.num / f.den

/-- A source's phase measurement is used when it is the source in use, is qualified and the loop tracks it. -/
def State.measures (s : State) (c : Nat) : Bool :=
  s.qualified c && s.curSrc == c && !(s.loop == .free || s.loop == .coast)

/-- A frame sync of REF or a frame start of STREAM: the source stands at line 1, fraction 0. -/
def State.frameInstant (s : State) (c frac tauNs : Nat) (ok : Bool) : State :=
  let s := s.runInstant c ok 8
  if s.measures c then s.measure 0 false frac tauNs else s

end Sys2Proof.Machine
end

