-- ==== Sys2Proof/Machine/StreamOps.lean ====
section
/-!
DEFINITION. Streams, frame slots and their pins, and the writing of a completed frame (05_ingest_inkwell.md R138 to R168).
-/
namespace Sys2Proof.Machine
open Sys2Proof

def State.stream (s : State) (n : Nat) : StreamState := Sparse.get (fun _ => {}) s.streams n
def State.setStream (s : State) (n : Nat) (x : StreamState) : State :=
  { s with streams := Sparse.set (fun _ => {}) s.streams n x }
def State.modStream (s : State) (n : Nat) (f : StreamState → StreamState) : State := s.setStream n (f (s.stream n))
def State.mot (s : State) (u : Nat) : MotState := Sparse.get (fun _ => {}) s.mots u
def State.modMot (s : State) (u : Nat) (f : MotState → MotState) : State :=
  { s with mots := Sparse.set (fun _ => {}) s.mots u (f (s.mot u)) }

def State.present (s : State) (n : Nat) : Bool := s.on (R.stream_CFG_PRESENT n)
def State.isWriteback (s : State) (n : Nat) : Bool := s.on (R.stream_SLOT_STRIDE_WB n)

/-- Whether a stream is being written at all: present, its port's group and its ingest cluster running (R142, 02 R83). -/
def State.ingestRuns (s : State) (n : Nat) : Bool :=
  s.present n && (s.isWriteback n || (s.clusterUp (n / 64) && s.clusterUp (24 + s.get (R.stream_CFG_INGEST n))))

/-- The stream states of R139. -/
inductive StreamMode where
  | absent | waiting | live | lost
  deriving DecidableEq, Repr

def StreamMode.code : StreamMode → Nat | .absent => 0 | .waiting => 1 | .live => 2 | .lost => 3
def StreamMode.ofCode : Nat → StreamMode | 1 => .waiting | 2 => .live | 3 => .lost | _ => .absent
def State.streamMode (s : State) (n : Nat) : StreamMode := StreamMode.ofCode (s.get (R.stream_STATE_STATE n))

def State.width (s : State) (n : Nat) : Nat := s.get (R.stream_GEOM_WIDTH n)
def State.height (s : State) (n : Nat) : Nat := s.get (R.stream_GEOM_HEIGHT n)
def State.storeFmt (s : State) (n : Nat) : Nat := s.get (R.stream_CFG_STORE_FMT n)
def State.slotCount (s : State) (n : Nat) : Nat := s.get (R.stream_CFG_SLOTS n)

/-- T_s in nanoseconds (R140). -/
def State.framePeriodNs (s : State) (n : Nat) : Rat :=
  (1000000000 * s.get (R.stream_RATE_DEN n) : Rat) / s.get (R.stream_RATE_NUM n)

/-- The slot `i` of a stream. -/
def StreamState.slot (x : StreamState) (i : Nat) : SlotInfo := x.slots.getD i ({} : SlotInfo)

def StreamState.setSlot (x : StreamState) (i : Nat) (v : SlotInfo) : StreamState :=
  let l := x.slots ++ List.replicate (i + 1 - x.slots.length) ({} : SlotInfo)
  { x with slots := l.set i v }

/-- Where slot `i` begins. -/
def State.slotBase (s : State) (n i : Nat) : Nat :=
  s.get (R.stream_RING_BASE_BASE n) * 65536 + i * s.get (R.stream_SLOT_STRIDE_STRIDE n) * 4096

/-- Ruling lines since the newest complete frame's DONE (STREAM[s].AGE). -/
def State.streamAge (s : State) (n : Nat) : Nat :=
  match (s.stream n).newest with
  | none => 0
  | some i => min (s.ruling.lineTotal - ((s.stream n).slot i).doneTotal) (2 ^ 32 - 1)

/-- The registers that follow the slot manager. -/
def State.showStream (s : State) (n : Nat) : State :=
  let x := s.stream n
  let s := s.put (R.stream_STATE_NEWEST n) (x.newest.getD 0)
  let s := s.put (R.stream_STATE_WRITING n) (match x.writing with | none => 0 | some w => w.slot)
  let s := s.put (R.stream_STATE_WRITING_VALID n) (if x.writing.isSome then 1 else 0)
  let s := s.put (R.stream_STATE_PINNED n)
    (x.slots.zipIdx.foldl (fun m p => if p.1.pins.isEmpty then m else m + 2 ^ p.2) 0 % 256)
  match x.newest with
  | none => (s.put (R.stream_NEWEST_SEQ n) 0).put (R.stream_STATE_UNVERIFIED n) 0
  | some i => (s.put (R.stream_NEWEST_SEQ n) (x.slot i).seq).put (R.stream_STATE_UNVERIFIED n) ((x.slot i).flags / 2 % 2)

/-- The ring is emptied (R139). -/
def State.emptyRing (s : State) (n : Nat) : State :=
  let s := s.setStream n {}
  (s.put (R.stream_STATE_STATE n) (if s.present n then 1 else 0)).showStream n

/-- Whether a latch may take the second newest slot too (R159). -/
def State.twoSlots (s : State) (n : Nat) : Bool := s.on (R.stream_CFG_TWO_SLOT n) && s.slotCount n != 3

/-- A reader pins the newest slot, and the second newest when it reads two and may (R159). -/
def State.pin (s : State) (n : Nat) (r : Reader) (two : Bool) : Option (Nat × Option Nat) × State :=
  let x := s.stream n
  match x.newest with
  | none => (none, s)
  | some i =>
    let sec := if two && s.twoSlots n then x.second else none
    let add (x : StreamState) (i : Nat) : StreamState := x.setSlot i { x.slot i with pins := (x.slot i).pins ++ [r] }
    let x := add x i
    let x := match sec with | none => x | some j => add x j
    (some (i, sec), (s.setStream n x).showStream n)

/-- A reader gives back its pins on a stream (R160). -/
def State.unpin (s : State) (n : Nat) (r : Reader) : State :=
  (s.modStream n fun x => { x with slots := x.slots.map fun v => { v with pins := v.pins.filter fun q => q != r } }).showStream n

/-- A frame is dropped whole with a cause (R163). -/
def State.dropFrame (s : State) (n cause : Nat) : State :=
  let s := s.bump (if cause = 1 then R.stream_DROPS_PIN n else R.stream_DROPS_OTHER n)
  let s := (s.put (R.stream_STATE_LAST_DROP n) cause).raise (Flag.stream_FRAME_DROP n)
  let c := s.get (R.stream_CFG_INGEST n)
  if s.isWriteback n then s
  else if cause = 3 then (s.bump (R.ingest_DECODE_DROP c)).raise (Flag.ingest_DECODE_DROP c)
  else if cause = 4 then (s.bump (R.ingest_MEM_DROP c)).raise (Flag.ingest_MEM_DROP c)
  else s

/-- STATE of a slot's header in memory (R157). -/
def State.writeSlotState (s : State) (n i v : Nat) : State :=
  s.memWrite (if s.isWriteback n then 1 else 0) (s.slotBase n i + 2) (leBytes 1 v)

/-- The slot being written is EMPTY again (R157). -/
def State.emptyWriting (s : State) (n : Nat) : State :=
  match (s.stream n).writing with
  | none => s
  | some w =>
    let s := s.modStream n fun x => { (x.setSlot w.slot { x.slot w.slot with st := 0 }) with writing := none }
    (s.writeSlotState n w.slot 0).showStream n

/-- The frame being received is abandoned: its slot is EMPTY (R142, R157). -/
def State.abandonFrame (s : State) (n : Nat) : State :=
  (s.emptyWriting n).modStream n fun x =>
    { x with startSeen := none, buffer := [], sdiBuffer := [], openMarg := none, nextMarg := none }

def State.modCellar (s : State) (f : CellarState → CellarState) : State := { s with cellar := f s.cellar }
def State.engineJob (s : State) (e : Nat) : Option EngineJob := (s.cellar.engines.find? fun p => p.1 == e).map (·.2)

/-- An engine is free again; its pin is given back (R160). -/
def State.endJob (s : State) (e : Nat) : State :=
  let s := match s.engineJob e with
    | some (.host n _ _) => s.unpin n (.engine e)
    | some (.cellar _ n _) => s.unpin n (.engine e)
    | _ => s
  let s := s.modCellar fun c => { c with engines := Sparse.erase c.engines e }
  ((s.put (R.codec_STATUS_BUSY e) 0).put (R.codec_STATUS_JOB e) 0).put (R.codec_STATUS_STREAM e) 0

/-- Whether engine `e` decodes for stream `n`. -/
def State.decodesFor (s : State) (n e : Nat) : Bool := match s.engineJob e with | some (.decode m _) => m == n | _ => false

/-- Everything of a stream in progress is abandoned: the frame in reception or decoding, and its codestreams (R142, R148). -/
def State.abandonStream (s : State) (n : Nat) : State :=
  let s := s.setWaiting (s.xsWaiting.filter fun p => p.1 != n)
  let s := s.each ((List.range 32).filter (s.decodesFor n)) State.endJob
  (s.abandonFrame n).modStream n fun x => { x with gathering := none, early := none }

/-- The slot the writer takes (R163). -/
def State.chooseSlot (s : State) (n : Nat) : Option Nat :=
  let x := s.stream n
  let idx := List.range (s.slotCount n)
  match idx.find? fun i => (x.slot i).st == 0 with
  | some i => some i
  | none =>
    (idx.filter fun i =>
        (x.slot i).st == 2 && (x.slot i).pins.isEmpty && x.newest != some i && !(decide (4 ≤ s.slotCount n) && x.second == some i)).foldl
      (fun b i => match b with | none => some i | some j => if (x.slot i).seq < (x.slot j).seq then some i else some j) none

/-- A frame that is dropped discards its open record (09_audio_marginalia.md R278); that of a codestream has left the stream when it is
decoded. -/
def State.discardRecord (s : State) (n : Nat) : State :=
  if s.on (R.stream_CFG_XS n) then s else s.modStream n fun x => { x with openMarg := none }

/-- The writer takes a slot for a frame, or drops it with cause PIN (R163). -/
def State.takeSlot (s : State) (n : Nat) (w : Writing) : State :=
  match s.chooseSlot n with
  | none => (s.discardRecord n).dropFrame n 1
  | some i =>
    let s := s.modStream n fun x =>
      { (x.setSlot i { st := 1 }) with
          writing := some { w with slot := i }, second := if x.second = some i then none else x.second }
    (s.writeSlotState n i 1).showStream n

/-- FLAGS of a frame at its start (R150, R151, R156): bits 1, 2, 3 and 5. -/
def State.startFlags (s : State) (n : Nat) : Nat :=
  let p := n / 16
  let rasyn := !s.isWriteback n && s.rasynIn p
  (if rasyn && s.get (R.port_LINK_STATE_AUTH_RESULT p) != 1 then 2 else 0) + (if s.on (R.stream_CFG_EVIDENCE n) then 4 else 0)
    + (if s.on (R.stream_CFG_INTERLACED n) then 8 else 0)
    + (if rasyn && (s.get (R.port_GL_STAT_GENLOCKED p)).testBit (n % 16) then 32 else 0)

/-- Source kind of a stream (R156). -/
def State.srcKind (s : State) (n : Nat) : Nat := if s.isWriteback n then 2 else if s.sdiIn (n / 16) then 1 else 0

/-- The header's bytes (R156), STATE as given. -/
def headerBytes (v : SlotInfo) (st width height fmt pitch : Nat) : List Byte :=
  leBytes 2 1 ++ leBytes 1 st ++ leBytes 1 v.flags ++ leBytes 4 v.seq ++ leBytes 6 v.startFrame ++ leBytes 2 v.startLine
    ++ leBytes 6 v.doneFrame ++ leBytes 2 v.doneLine ++ leBytes 2 v.doneFrac ++ leBytes 2 v.srcGap
    ++ leBytes 4 v.lumaCrc.toNat ++ leBytes 4 v.concealPix ++ leBytes 2 v.concealRows ++ leBytes 2 v.repeatCnt
    ++ leBytes 2 width ++ leBytes 2 height ++ leBytes 1 fmt ++ leBytes 1 v.sketches ++ leBytes 1 v.vec ++ leBytes 1 v.srcKind
    ++ leBytes 4 v.vecRef ++ leBytes 4 pitch ++ List.replicate 8 0

/-- A size rounded up to 4 KiB. -/
def round4k (n : Nat) : Nat := (n + 4095) / 4096 * 4096

/-- Bytes of a part (R153). -/
def partBytes (code w h : Nat) : Nat :=
  match storageFormat code with
  | none => 0
  | some (l, _) => round4k (linePitch code w * partRows l h)

/-- Offset of sketch level `k` (1 to 3) in a slot of a frame of `w` by `h` with the levels enabled in `m`; level 4 is the vector
field (R153). -/
def partAt (code w h m k : Nat) : Nat :=
  (List.range k).foldl (fun o j =>
    if j = 0 then o + partBytes code w h
    else if m.testBit (j - 1) then let d := sketchDims code w h j; o + partBytes code d.1 d.2 else o) 4096

/-- The same for a stream's record. -/
def State.partOffset (s : State) (n k : Nat) : Nat :=
  partAt (s.storeFmt n) (s.width n) (s.height n) (s.get (R.stream_CFG_SKETCH n)) k

/-- Writes a part's lines (R153, R154). -/
def State.writePart (s : State) (kind base code w h : Nat) (g : Picture) : State :=
  match storageFormat code with
  | none => s
  | some (l, _) =>
    s.each (List.range (partRows l h)) fun s r => s.memWrite kind (base + r * linePitch code w) (rowBytes code w h g r)

/-- Stored row `r` of a part as a unit reads it. -/
def State.readRow (s : State) (kind base code w r : Nat) : List (Byte × Bool) × State :=
  s.memRead kind (base + r * linePitch code w) (lineBytes code w)

/-- All the stored rows of a part. -/
def State.readPart (s : State) (kind base code w h : Nat) : List (List (Byte × Bool)) × State :=
  match storageFormat code with
  | none => ([], s)
  | some (l, _) =>
    (List.range (partRows l h)).foldl (fun (x : List (List (Byte × Bool)) × State) r =>
      let (row, s) := x.2.readRow kind base code w r
      (x.1 ++ [row], s)) ([], s)

/-- Whether any byte of a sample is poisoned. -/
def samplePoisoned (code h : Nat) (rows : List (List (Byte × Bool))) (c r x : Nat) : Bool :=
  match storageFormat code with
  | none => false
  | some (l, b) =>
    let i := sampleIndex l c x
    ((rows.getD (if l = .c420 && c != 0 then h + r else r) []).drop (i * b / 8)).take ((i * b + b + 7) / 8 - i * b / 8) |>.any (·.2)

/-- The picture in a slot as ingest reads it: black where a word is poisoned (R146, R287), and black with no slot. -/
def State.newestPicture (s : State) (n : Nat) : Picture × State :=
  let code := s.storeFmt n
  match (s.stream n).newest with
  | none => (fun c _ _ => blackSample code c, s)
  | some i =>
    let (rows, s) := s.readPart (if s.isWriteback n then 1 else 0) (s.slotBase n i + 4096) code (s.width n) (s.height n)
    let g := pictureOf code (s.height n) fun r => (rows.getD r []).map (·.1)
    (fun c r x => if samplePoisoned code (s.height n) rows c r x then blackSample code c else g c r x, s)

/-- SEQ and SRC_GAP of a completing frame (R147). -/
def StreamState.nextSeq (x : StreamState) (frameSeq : Option Nat) : Nat × Nat :=
  match frameSeq, x.lastFrameSeq, x.lastSeq with
  | some q, some p, some l =>
    let d := (q + 65536 - p) % 65536
    let d := if d = 0 then 65536 else d
    ((l + d) % 2 ^ 32, min (d - 1) 0xFFFF)
  | some q, _, _ => (q, 0)
  | none, _, none => (0, 0)
  | none, _, some l => ((l + 1) % 2 ^ 32, 0)

/-- The frame's motion field is queued, or counted as skipped (R165, R167, R168). -/
def State.queueMotion (s : State) (n slot seq : Nat) (old : Option Nat) (skip : Bool) : State :=
  if s.on (R.stream_CFG_MOTION n) then
    let u := s.get (R.stream_CFG_MOTION_UNIT n)
    match old with
    | none => s.bump (R.mot_SKIPPED u)
    | some r =>
      if skip then s.bump (R.mot_SKIPPED u)
      else s.modMot u fun m => { m with queue := m.queue ++ [(n, slot, seq, r, ((s.stream n).slot r).seq)] }
  else s

/-- A field unfinished when the stream's next frame completes is abandoned (R167). -/
def State.abandonField (s : State) (n : Nat) : State :=
  s.each [0, 1] fun s u =>
    let m := s.mot u
    let mine (q : Nat × Nat × Nat × Nat × Nat) : Bool := q.1 == n
    let late := (m.queue.filter mine) ++ (match m.running with | some q => if mine q then [q] else [] | none => [])
    let s := s.modMot u fun m =>
      { queue := m.queue.filter fun q => !mine q,
        running := match m.running with | some q => if mine q then none else some q | none => none }
    let s := if (match m.running with | some q => mine q | none => false) then s.unpin n (.motion u) else s
    s.each late fun s q =>
      let s := s.modStream n fun x =>
        x.setSlot q.2.1 { x.slot q.2.1 with vec := (x.slot q.2.1).vec % 2 + (x.slot q.2.1).vec / 2 % 2 * 2 + 4 }
      let s := s.memWrite 8 (s.slotBase n q.2.1 + 46) (leBytes 1 (((s.stream n).slot q.2.1).vec))
      (s.bump (R.mot_LATE u)).raise (Flag.mot_LATE u)

/-- The requester port that writes a stream: its ingest cluster, or the Folio cluster of a writeback stream (10_stream_memory.md R294). -/
def State.writerPort (s : State) (n : Nat) : Nat :=
  if s.isWriteback n then
    match s.fabric.now.folios.find? fun r => r.writeback && r.wbStream == n with
    | some r => 10 + r.folio / 8
    | none => 22
  else s.get (R.stream_CFG_INGEST n)

/-- The bytes of a frame with the sketches in mask `m`. -/
def frameBytes (code w h m : Nat) : Nat :=
  partBytes code w h + ((List.range 3).map fun i =>
    let d := sketchDims code w h (i + 1)
    if m.testBit i then partBytes code d.1 d.2 else 0).sum

/-- A finished picture is written into its slot: parts, row map, header and STATE, and the slot becomes newest (R145, R153,
R155 to R158, R139). -/
def State.finishFrame (s : State) (n : Nat) (w : Writing) (g : Picture) (concealed : Nat → Nat → Bool) (synth decoded : Bool)
    (frac : Nat) : State :=
  let (code, wd, ht) := (s.storeFmt n, s.width n, s.height n)
  let kind := if s.isWriteback n then 1 else 0
  let base := s.slotBase n w.slot
  let x := s.stream n
  let old := x.newest
  let s := s.abandonField n
  let s := s.writePart kind (base + 4096) code wd ht g
  let mask := s.get (R.stream_CFG_SKETCH n)
  let sk := if w.noSketch then 0 else mask
  let s := s.each [1, 2, 3] fun s k =>
    if sk.testBit (k - 1) then
      let d := sketchDims code wd ht k
      s.writePart kind (base + s.partOffset n k) code d.1 d.2 (sketch code wd ht g k)
    else s
  let s := s.unitUse (s.writerPort n) (s.get (R.stream_CFG_CLASS n)) (frameBytes code wd ht sk)
  let rowHit := (List.range ht).map fun r => (List.range wd).any (concealed r)
  let pix := (List.range ht).foldl (fun t r => t + ((List.range wd).filter (concealed r)).length) 0
  let rows := (rowHit.filter id).length
  let s := s.memWrite kind (base + 512) ((List.range 512).map fun i =>
    BitVec.ofNat 8 (natOfBits ((List.range 8).map fun j => rowHit.getD (8 * i + j) false)))
  let (seq, gap) := x.nextSeq w.frameSeq
  let crc := lumaCrc wd ht g
  let rep := match old with
    | none => 0
    | some i => if (x.slot i).lumaCrc = crc then min ((x.slot i).repeatCnt + 1) 0xFFFF else 0
  let v : SlotInfo :=
    { st := 2, flags := w.flags + (if pix = 0 then 0 else 1) + (if synth then 16 else 0) + (if decoded then 64 else 0),
      seq := seq, startFrame := w.startFrame, startLine := w.startLine, doneFrame := s.ruling.frame, doneLine := s.ruling.line,
      doneFrac := frac, doneTotal := s.ruling.lineTotal, srcGap := gap, lumaCrc := crc, concealPix := pix, concealRows := rows,
      repeatCnt := rep, sketches := sk, srcKind := s.srcKind n, width := wd, height := ht, fmt := code }
  let s := s.memWrite kind base (headerBytes v 1 wd ht code (linePitch code wd))
  let s := s.writeSlotState n w.slot 2
  let s := s.modStream n fun x =>
    { (x.setSlot w.slot v) with newest := some w.slot, second := old, writing := none,
                                lastFrameSeq := w.frameSeq, lastSeq := some seq }
  let was := s.streamMode n
  let s := s.put (R.stream_STATE_STATE n) 2
  let s := s.raiseIf (was != .live) (Flag.stream_LIVE n)
  let s := s.raiseIf (pix != 0) (Flag.stream_CONCEAL n)
  let s := (s.bump (R.stream_FRAMES n)).bumpBy (R.stream_CONCEAL_ROWS n) rows
  let s := if s.isWriteback n then s else s.addLoad (8 + s.get (R.stream_CFG_INGEST n)) (8 * s.partOffset n 4)
  (s.queueMotion n w.slot seq old w.noMotion).showStream n

/-- The slot of a frame that ends in a drop is EMPTY again (R163). -/
def State.failFrame (s : State) (n cause : Nat) : State :=
  ((s.emptyWriting n).discardRecord n).dropFrame n cause

/-- Concealment of a stored sample: in a 4:2:0 chroma plane, and at a chroma column, when any pixel it covers is (R146). -/
def chromaConcealed (l : Layout) (hole : Nat → Nat → Bool) (c r x : Nat) : Bool :=
  if c = 0 then hole r x
  else match l with
    | .c422 => hole r (2 * x) || hole r (2 * x + 1)
    | .c420 => hole (2 * r) (2 * x) || hole (2 * r) (2 * x + 1) || hole (2 * r + 1) (2 * x) || hole (2 * r + 1) (2 * x + 1)
    | _ => hole r x

/-- Whether a frame is de-interlaced adaptively (R149, R150): not the first after WAITING. -/
def State.adaptive (s : State) (n : Nat) : Bool :=
  s.on (R.stream_CFG_INTERLACED n) && !s.on (R.stream_CFG_EVIDENCE n) && s.get (R.stream_CTRL_DEINT_MODE n) == 1
    && (s.stream n).newest.isSome

/-- The rows of the first field: the even ones, or the odd ones where the first field is the lower one, by FIELD1_BOTTOM on Rasyn
(R144), and in a 525-line SDI format (log entry 107). -/
def State.firstField (s : State) (n : Nat) (r : Nat) : Bool :=
  let bottom := if s.sdiIn (n / 16) then decide (s.get (R.port_SDI_FMT_HEIGHT (n / 16)) = 486) else s.on (R.stream_CTRL_FIELD1_BOTTOM n)
  (r % 2 == 0) != bottom

/-- Whether de-interlacing replaces a pixel of the frame (R149). -/
def anyMoved (first : Nat → Bool) (h w thresh : Nat) (old : Nat → Nat → Nat) (g : Holed) : Bool :=
  (List.range h).any fun r => (List.range w).any fun x => moved first thresh old g r x

/-- A received frame completes: format, de-interlacing, concealment and the write (R143 to R150). `refused` says that its
writes were held back longer than the cluster's buffer holds (R163 MEMORY). -/
def State.completeReceived (s : State) (n : Nat) (frac : Nat) (refused : Bool) : State :=
  match (s.stream n).writing with
  | none => s
  | some w =>
    let (code, wd, ht) := (s.storeFmt n, s.width n, s.height n)
    if w.badFormat then s.failFrame n 6
    else if refused && s.classHeld (s.get (R.stream_CFG_CLASS n)) then s.failFrame n 4
    else if w.overflow && w.segs.isEmpty then s.failFrame n 5
    else match storageFormat code with
    | none => s.failFrame n 6
    | some (l, b) =>
      let full := w.segs.any fun g => g.full
      let src : Holed := receivedAt w.segs
      let hole (r x : Nat) : Bool := decide (x < wd) && (src 0 r x).isNone
      let rows := ((List.range ht).filter fun r => (List.range wd).any (hole r)).length
      let lim := s.get (R.stream_CTRL_CONCEAL_MAX n)
      if lim ≠ 0xFF ∧ lim * ht < rows * 256 then s.failFrame n 2
      else
        let (old, s) := s.newestPicture n
        let adaptive := s.adaptive n
        let first := s.firstField n
        let th := s.get (R.stream_CTRL_DEINT_THRESH n)
        let oldY (r x : Nat) : Nat := old 0 r x * 2 ^ (12 - b)
        let frame : Holed := if adaptive then deinterlace first ht th oldY src full else src
        let g : Picture := fun c r x =>
          if chromaConcealed l hole c r x then old c r x else (convertSample full code wd frame c r x).getD (old c r x)
        let synth := adaptive && anyMoved first ht wd th oldY src
        s.finishFrame n w g hole synth false frac

/-- The Rasyn row of a segment (R144). -/
def State.segmentRow (s : State) (n tag : Nat) (field2 : Bool) : Nat :=
  if s.on (R.stream_CFG_INTERLACED n) then
    let f := if field2 then 1 else 0
    2 * tag + (if s.on (R.stream_CTRL_FIELD1_BOTTOM n) then 1 - f else f)
  else tag

/-- A VIDEO_LINE segment is placed in the frame being written, or discarded and counted (R144, R102, R143). One that the cluster's
input discarded, of type 0 here, leaves only its mark (R152). -/
def State.placeSegment (s : State) (n : Nat) (k : Packet) : State :=
  match (s.stream n).writing with
  | none => s
  | some w =>
    if k.typ = 0 then s.modStream n fun y => { y with writing := some { w with overflow := true } }
    else
    let (x, count, fmt) := (leAt k.payload 2 2, leAt k.payload 4 2, leAt k.payload 6 1)
    let row := s.segmentRow n k.tag k.field2
    match linkFormat fmt with
    | none => s.modStream n fun y => { y with writing := some { w with badFormat := true } }
    | some (_, per, full) =>
      if s.height n ≤ row ∨ s.width n < x + count ∨ count % 2 = 1 ∨ x % 2 = 1 ∨ count * per / 2 ≠ k.payload.length - 8 then
        s.bump (R.port_VIDEO_SEG_LOST (n / 16))
      else
        let g : Segment := ⟨row, x, count, full, linkSamples fmt (k.payload.drop 8) count⟩
        let bad := !formatPairs fmt (s.storeFmt n)
        s.modStream n fun y => { y with writing := some { w with segs := w.segs ++ [g], badFormat := w.badFormat || bad } }

/-- A frame's start is seen; it waits for FRAME_START to take its slot (R141, R145). -/
def State.seeStart (s : State) (n : Nat) (frameSeq : Option Nat) : State :=
  let xs := s.on (R.stream_CFG_XS n)
  let m : MargRec := { track := s.audio.tracked.contains n }
  s.modStream n fun x =>
    let x := { x with startSeen := some (frameSeq, s.ruling.frame, s.ruling.line), begun := frameSeq }
    if x.writing.isSome && !xs then { x with nextMarg := some m } else { x with openMarg := some m }

/-- Genlock of a stream at its frame start: the arrival in lines against the target (01_ruling.md R64, 03_rasyn_link.md
R110). -/
def State.genlockStep (s : State) (n frac : Nat) : State :=
  let p := n / 16
  let asked := s.on (R.port_PORT_CFG_GENLOCK_OK p) && s.on (R.port_GENLOCK_CTRL_EN p)
  let was := (s.get (R.port_GL_STAT_GENLOCKED p)).testBit (n % 16)
  if s.rasynIn p && (asked || was) then
    let f := s.rulingFormat
    let ratio : Rat := ((s.get (R.stream_RATE_NUM n) : Rat) / s.get (R.stream_RATE_DEN n)) / ((f.num : Rat) / f.den)
    let here : Rat := (s.ruling.line : Rat) + (frac : Rat) / 65536
    let target : Rat := s.get (R.port_GENLOCK_CTRL_TARGET_LINE p)
    let off (t : Rat) : Rat := let d := here - t; let d := d - f.lines * (d / f.lines + 1 / 2).floor; if d < 0 then -d else d
    let e := if ratio = 2 then min (off target) (off (target + (f.lines : Rat) / 2)) else off target
    let fits := ratio = 1 ∨ ratio = 2 ∨ ratio = 1 / 2
    let x := s.stream n
    let good := if fits ∧ e ≤ 1 / 4 then x.lockRun + 1 else 0
    let bad := if fits ∧ e ≤ 1 / 2 then 0 else x.lossRun + 1
    let s := s.modStream n fun x => { x with lockRun := min good 8, lossRun := min bad 2 }
    let now := if was then decide (bad < 2) else asked && decide (8 ≤ good)
    if was = now then s
    else
      let m := s.get (R.port_GL_STAT_GENLOCKED p)
      (s.put (R.port_GL_STAT_GENLOCKED p) (if now then m + 2 ^ (n % 16) else m - 2 ^ (n % 16))).raise (Flag.port_GENLOCK_CHANGE p)
  else s

/-- Every genlock ends at the first frame after an adjustment or a count step (01_ruling.md R64). -/
def State.genlockReset (s : State) : State :=
  s.each (List.range 96) fun s p =>
    let m := s.get (R.port_GL_STAT_GENLOCKED p)
    let s := s.each (List.range 16) fun s v =>
      if m.testBit v then s.modStream (16 * p + v) fun x => { x with lockRun := 0, lossRun := 0 } else s
    if m = 0 then s else (s.put (R.port_GL_STAT_GENLOCKED p) 0).raise (Flag.port_GENLOCK_CHANGE p)

/-- The links' streams abandon their frames when a link leaves ACTIVE or QUARANTINE (R142). -/
def State.abandonPort (s : State) (p : Nat) : State :=
  s.each (List.range 16) fun s v =>
    let n := 16 * p + v
    if s.present n then s.abandonStream n else s

end Sys2Proof.Machine
end

