-- ==== Sys2Proof/Machine/AudioOps.lean ====
section
/-!
DEFINITION. The audio engine: inputs, converters, delay store, mixing, fades, delays and meters (09_audio_marginalia.md R255 to
R277).
-/
namespace Sys2Proof.Machine
open Sys2Proof

def State.modAudio (s : State) (f : AudioState → AudioState) : State := { s with audio := f s.audio }
def State.src (s : State) (i : Nat) : SrcChan := Sparse.get (fun _ => ({} : SrcChan)) s.audio.srcs i
def State.modSrc (s : State) (i : Nat) (f : SrcChan → SrcChan) : State :=
  s.modAudio fun a => { a with srcs := Sparse.set (fun _ => ({} : SrcChan)) a.srcs i (f (s.src i)) }
def State.outChan (s : State) (o : Nat) : OutChan := Sparse.get (fun _ => ({} : OutChan)) s.audio.outs o
def State.modOut (s : State) (o : Nat) (f : OutChan → OutChan) : State :=
  s.modAudio fun a => { a with outs := Sparse.set (fun _ => ({} : OutChan)) a.outs o (f (s.outChan o)) }

def State.inCount (s : State) : Nat := s.get R.audio_CFG_IN_CH
def State.outCount (s : State) : Nat := s.get R.audio_CFG_OUT_CH

/-- D56 is powered: the engine runs (R277). -/
def State.audioOn (s : State) : Bool := s.domainOn 56

/-- The converter states of R260. -/
inductive SrcMode where
  | noInput | acquire | locked | hold | outOfRange | nonPcm
  deriving DecidableEq, Repr

def SrcMode.code : SrcMode → Nat | .noInput => 0 | .acquire => 1 | .locked => 2 | .hold => 3 | .outOfRange => 4 | .nonPcm => 5
def SrcMode.ofCode : Nat → SrcMode
  | 1 => .acquire | 2 => .locked | 3 => .hold | 4 => .outOfRange | 5 => .nonPcm | _ => .noInput
def State.srcMode (s : State) (i : Nat) : SrcMode := SrcMode.ofCode (s.get (R.audio_IN_STAT_STATE i))

/-- A converter changes state (R260): exits from LOCKED and entries to OUT_OF_RANGE are raised, and the output ramps. -/
def State.setSrcMode (s : State) (i : Nat) (m : SrcMode) : State :=
  let was := s.srcMode i
  if was = m then s
  else
    let s := s.put (R.audio_IN_STAT_STATE i) m.code
    let s := if was = .locked then (s.raise Flag.audio_SRC_UNLOCK).modSrc i fun c => { c with rampLeft := 48 } else s
    let s := s.raiseIf (m == .outOfRange) Flag.audio_SRC_RANGE
    if m = .locked then s.modSrc i fun c => { c with fadeIn := 0, rampLeft := 0, phase := (c.total : Nat) } else s

/-- Channel positions a stream carries (R256): 16, but the 32 of ST 299-2 on an SDI input above 1.5 Gbit/s. -/
def State.audioPositions (s : State) (n : Nat) : Nat :=
  if s.srcKind n = 1 ∧ 2 ≤ s.get (R.port_PORT_CFG_RATE (n / 16)) then 32 else 16

/-- Whether input channel `i` is bound to a position that a stream carries (R256). -/
def State.inBound (s : State) (i : Nat) : Bool :=
  let n := s.get (R.audio_IN_MAP_STREAM i)
  s.on (R.audio_IN_MAP_EN i) && decide (n < 1536) && s.present n && !s.isWriteback n
    && decide (s.get (R.audio_IN_MAP_CHAN i) < s.audioPositions n)

/-- The present input channels that name a position of a stream. -/
def State.inputsOf (s : State) (n chan : Nat) : List Nat :=
  (List.range s.inCount).filter fun i =>
    s.inBound i && s.get (R.audio_IN_MAP_STREAM i) == n && s.get (R.audio_IN_MAP_CHAN i) == chan

/-- How many arrived samples a converter's history keeps. -/
def srcHistory : Nat := 256

/-- A channel with no samples held: ACQUIRE begins (R255, R258). -/
def SrcChan.cleared (c : SrcChan) : SrcChan := { c with samples := [], run := 0, total := 0, phase := 0 }

/-- A sample read as 24 bits, two's complement. -/
def int24 (v : Nat) : Int := if v % 2 ^ 24 < 2 ^ 23 then (v % 2 ^ 24 : Int) else (v % 2 ^ 24 : Int) - 2 ^ 24

/-- The values of a run of `n` lost samples between two good ones (R259). -/
def lostRun (n : Nat) (before after : Int) : List Int :=
  let m := min 32 (n / 2)
  (List.range n).map fun i =>
    if i < m then rampAt (m - 1 - i) m before else if n - m ≤ i then rampAt (i - (n - m)) m after else 0

/-- Lost samples are counted (R259). -/
def State.countLost (s : State) (n : Nat) : State :=
  (s.bumpBy R.audio_LOST_SAMPLES n).raiseN Flag.audio_LOST_SAMPLES n

/-- The history after `lost` more lost samples and then `vals`: a run of lost samples is one run until a good sample closes it, and its
closing ramp goes to that sample (R259; log entry 32). The reading position stays within what has come (R262, log entry 126). -/
def SrcChan.take (c : SrcChan) (lost : Nat) (vals : List Int) : SrcChan :=
  let n := c.run + lost
  let run := (lostRun n c.lastGood (vals.headD 0)).map fun v => (v, false)
  let add := run ++ vals.map fun v => (v, true)
  let next : Rat := (c.total + lost : Nat)
  let m : Rat := (vals.length : Nat)
  { c with samples := (add.reverse ++ c.samples.drop c.run).take srcHistory, lastGood := vals.getLastD c.lastGood,
           run := if vals.isEmpty then n else 0, total := c.total + lost + vals.length,
           phase := max (next - m) (min (next + m) c.phase) }

/-- Samples of one channel arrive: `lost` missing ones before `vals` (R258 to R260). `dev` is the loop's estimate of the
deviation in 0.1 ppm. -/
def State.samplesIn (s : State) (i lost : Nat) (vals : List Int) (rate : Nat) (dev : Int) : State :=
  let s := (s.countLost lost).modSrc i fun c => c.take lost vals
  let s := (s.put (R.audio_IN_STAT_RATE i) rate).putInt (R.audio_IN_STAT_RATIO i) dev
  match s.srcMode i with
  | .noInput => s.setSrcMode i .acquire
  | .hold => s.setSrcMode i .locked
  | .locked => if 10000 < dev.natAbs then s.setSrcMode i .outOfRange else s
  | _ => s

/-- The delay store's ring (R262): words per channel, and where a word lies. -/
def State.ringWords (s : State) : Nat := s.fabric.now.single.audioSize * 16384 / max 1 s.inCount
def State.ringAddr (s : State) (i : Nat) (k : Int) : Nat :=
  s.fabric.now.single.audioBase * 65536 + 4 * (i * s.ringWords + (k % max 1 s.ringWords).toNat)

/-- D_max (R263). -/
def State.delayMax (s : State) : Nat := s.ringWords - 144

/-- A word of the delay store as a sample (R263). -/
def State.ringRead (s : State) (i : Nat) (k : Int) : Int × State :=
  if k < (s.audio.startK : Int) - 72 ∨ k < 0 ∨ k + s.ringWords ≤ s.audio.k then (0, s)
  else
    let (bs, s) := (s.unitUse 22 1 4).memRead 5 (s.ringAddr i k) 4
    (if bs.any (·.2) then 0 else int24 (leAt (bs.map (·.1)) 0 3), s)

/-- An input term at K − D (R263). -/
def State.termAt (s : State) (i : Nat) (d : Rat) : Rat × State :=
  let pos : Int := 16 * s.audio.k - (d * 16).floor
  let k := pos / 16
  let f := (pos % 16).toNat
  if f = 0 then let (v, s) := s.ringRead i k; (v, s)
  else
    let (taps, s) := List.foldl (fun (x : List Int × State) (j : Nat) =>
      let (v, s) := x.2.ringRead i (k - 7 + (j : Int))
      (x.1 ++ [v], s)) ([], s) (List.range 16)
    (Config.interpolate taps f, s)

/-- The weighted sum of terms at a delay. -/
def State.sumTerms (s : State) (g : List (Nat × Rat)) (d : Rat) : Rat × State :=
  g.foldl (fun (x : Rat × State) t =>
    let (v, s) := x.2.termAt t.1 d
    (x.1 + t.2 * v, s)) (0, s)

/-- The source word of a pane: `active` picks the mirror (R502). Its STREAM number when its source is one. -/
def State.paneStream (s : State) (f p : Nat) (active : Bool) : Option Nat :=
  let k := if active then (R.pane_SRC_KIND f p).active else R.pane_SRC_KIND f p
  let v := if active then (R.pane_SRC_INDEX f p).active else R.pane_SRC_INDEX f p
  if s.get k = 1 then some (s.get v) else none

/-- The words of an output channel's mixing entry, staged or active. -/
def State.mixWords (s : State) (o : Nat) (active : Bool) : List (BitVec 32) :=
  (List.range 4).map fun j => s.rd (Reg.audio_MIX (4 * o + j) + if active then 0x4000 else 0)

/-- The input a term names, AFV terms resolved against a pane's source (R267). -/
def State.termInput (s : State) (o j : Nat) (w : BitVec 32) (activePanes : Bool) : Option Nat :=
  if w.getLsbD 31 then
    if j = 0 ∧ getBits w 19 18 = 1 then
      match s.paneStream (s.get (R.audio_OUT_MAP_FOLIO o)) (getBits w 30 28) activePanes with
      | none => none
      | some n => if n ≤ 1535 then (s.inputsOf n (getBits w 24 20)).head? else none
    else some (getBits w 30 20)
  else none

/-- The gain of a term: signed Q3.13. -/
def termGain (w : BitVec 32) : Rat :=
  let v := getBits w 15 0
  (((if v < 32768 then (v : Int) else (v : Int) - 65536) : Int) : Rat) / 8192

/-- The inputs and gains an entry gives. -/
def State.entryTerms (s : State) (o : Nat) (ws : List (BitVec 32)) (activePanes : Bool) : List (Nat × Rat) :=
  ws.zipIdx.filterMap fun p =>
    match s.termInput o p.2 p.1 activePanes with
    | none => none
    | some i => if i < s.inCount then some (i, termGain p.1) else none

/-- Samples of a fade: N = 48 × C (R268). -/
def State.fadeSamples (s : State) : Nat := 48 * min 100 (s.get R.audio_CTRL_FADE_MS)

/-- Fade factors at sample k of n: out and in (R268). -/
def State.fadeFactors (s : State) (k n : Nat) : Rat × Rat :=
  let x : Rat := ((k : Rat) + 1 / 2) / n
  if s.on R.audio_CTRL_FADE_LAW then (1 - x, x) else (quarterSine (1 - x), quarterSine x)

/-- The gain a list of terms gives an input. -/
def gainOf (l : List (Nat × Rat)) (i : Nat) : Rat := ((l.filter fun t => t.1 == i).map (·.2)).sum

/-- The gains a fade has reached (R268): a term's gain goes from its own to its target, at most 12 terms, the target's first (log
entry 129). -/
def State.fadeGains (s : State) (f : AudioFade) : List (Nat × Rat) :=
  if f.wait ≠ 0 then f.cur
  else if f.n = 0 then f.tgt
  else
    let (o, i) := s.fadeFactors f.k f.n
    ((((f.tgt ++ f.cur).map (·.1)).eraseDups).take 12).map fun t => (t, gain24 (gainOf f.cur t * o + gainOf f.tgt t * i))

/-- The gains in effect on an output channel. -/
def State.gainsNow (s : State) (o : Nat) : List (Nat × Rat) :=
  match (s.outChan o).fade with
  | some f => s.fadeGains f
  | none => s.entryTerms o (s.mixWords o true) true

/-- The entry that a fade of a channel leads to: a pending one whose own fade has begun, else the active one (R270, R271). -/
def State.entryNow (s : State) (o : Nat) : List (BitVec 32) :=
  match (s.outChan o).bank, (s.outChan o).bankAt with
  | some ws, some _ => ws
  | _, _ => s.mixWords o true

/-- The entry in force after a switching point `periods` away: a pending one that switches there, too. -/
def State.entryAhead (s : State) (o periods : Nat) : List (BitVec 32) :=
  match (s.outChan o).bank with
  | some ws => if s.fadeSamples / 2 ≤ periods then ws else s.entryNow o
  | none => s.mixWords o true

/-- Samples left of a fade. -/
def AudioFade.left (f : AudioFade) : Nat := f.wait + (f.n - f.k)

/-- A fade is planned on a channel (R269, R270, R271): one that shares its centre with a planned one joins it; one that would
start before a running fade ends waits for that end, with FADE_LATE. Its target is the entry `ws`, with the staged panes when an AFV
take is part of it. -/
def State.planFade (s : State) (o wait n : Nat) (ws : List (BitVec 32)) (afv : Bool) : State :=
  match (s.outChan o).fade with
  | none => s.modOut o fun c => { c with fade := some ⟨wait, 0, n, s.gainsNow o, s.entryTerms o ws (!afv), afv⟩ }
  | some f =>
    if f.wait = wait ∧ f.n = n ∧ f.k = 0 then
      s.modOut o fun c => { c with fade := some { f with tgt := s.entryTerms o ws (!(f.afv || afv)), afv := f.afv || afv } }
    else
      let afv := afv || ((s.outChan o).queued.any fun q => q.afv)
      let tgt := s.entryTerms o ws (!afv)
      if wait < f.left then
        (s.raise Flag.audio_FADE_LATE).modOut o fun c => { c with queued := some ⟨0, 0, s.fadeSamples, [], tgt, afv⟩ }
      else s.modOut o fun c => { c with queued := some ⟨wait, 0, n, [], tgt, afv⟩ }

/-- The remainder of a fade is replaced by one of C/2 to the entry as applied (R269). -/
def State.replaceFade (s : State) (o : Nat) : State :=
  let cur := s.gainsNow o
  let tgt := s.entryTerms o (s.entryNow o) true
  let n := s.fadeSamples / 2
  s.modOut o fun c => { c with fade := if n = 0 then none else some ⟨0, 0, n, cur, tgt, false⟩ }

/-- Audio periods to a Folio's next switching point, when its raster runs (kept one higher, 0 for none). -/
def State.spPeriods (s : State) (f : Nat) : Option Nat :=
  match Sparse.get (fun _ => 0) s.audio.spWait f with | 0 => none | n + 1 => some n

def State.setSpPeriods (s : State) (f n : Nat) : State :=
  s.modAudio fun a => { a with spWait := Sparse.set (fun _ => 0) a.spWait f (n + 1) }

/-- Output channels placed on a Folio (R266). -/
def State.outsOf (s : State) (f : Nat) : List Nat :=
  (List.range s.outCount).filter fun o => s.on (R.audio_OUT_MAP_EN o) && s.get (R.audio_OUT_MAP_FOLIO o) == f

/-- A commit is armed: AFV fades are planned for the switching point `periods` away (R269). -/
def State.planTakes (s : State) (f periods : Nat) : State :=
  s.each (s.outsOf f) fun s o =>
    let w := s.entryAhead o periods
    let w0 := w.headD 0
    if w0.getLsbD 31 && getBits w0 19 18 == 1 then
      if s.termInput o 0 w0 false = s.termInput o 0 w0 true then s
      else
        let half := s.fadeSamples / 2
        s.planFade o (periods - half) (min s.fadeSamples (periods + half)) w true
    else s

/-- A switching point of a Folio is reached and its commits have acted: a planned AFV fade goes on when the commit applied the
planned input (R269); one that still waits for a running fade's end takes its target as it stands at its start (R271). -/
def State.settleTakes (s : State) (f : Nat) : State :=
  s.each (s.outsOf f) fun s o =>
    let s := s.modOut o fun c => { c with queued := c.queued.map fun q => { q with afv := false } }
    match (s.outChan o).fade with
    | some d =>
      if d.afv then
        if d.tgt = s.entryTerms o (s.entryNow o) true then s.modOut o fun c => { c with fade := some { d with afv := false } }
        else s.replaceFade o
      else s
    | none => s

/-- A measurement of L_v for the channels that follow a pane (R264), in nanoseconds. -/
def State.lipMeasure (s : State) (f p : Nat) (ns : Rat) : State :=
  s.each (s.outsOf f) fun s o =>
    if s.on (R.audio_OUT_MAP_DELAY_MODE o) && s.get (R.audio_OUT_MAP_LIP_PANE o) == p then
      s.modOut o fun c =>
        { c with meas := ((ns * 48 / 1000000) :: c.meas).take 16, count := c.count + 1, measured := true }
    else s

/-- A pane's active source changed: the means that follow it start again (R264). -/
def State.lipRestart (s : State) (f p : Nat) : State :=
  s.each (s.outsOf f) fun s o =>
    if s.get (R.audio_OUT_MAP_LIP_PANE o) = p then s.modOut o fun c => { c with meas := [], count := 0 } else s

/-- D_t before it is clamped (R264); none while it keeps its value. D follows it from the first measurement on (R277). -/
def State.delayTarget (s : State) (o : Nat) : Option Rat :=
  let c := s.outChan o
  let adj : Rat := s.getInt (R.audio_OUT_MAP_DELAY_ADJ o)
  if s.on (R.audio_OUT_MAP_DELAY_MODE o) then
    if c.meas ≠ [] then some (c.meas.foldl (· + ·) 0 / (c.meas.length : Nat) + adj)
    else if c.measured then none else some (96 + adj)
  else some adj

/-- One period of delay tracking (R263 to R265, R277): D is D_t until it is first measured. From then on it moves at 500 ppm, or by a
step at a switching point: in FIXED mode for every change of DELAY_ADJ, and for a difference above 240 samples (log entry 128). -/
def State.trackDelay (s : State) (o : Nat) : State :=
  let c := s.outChan o
  let pane := s.on (R.audio_OUT_MAP_DELAY_MODE o)
  let adj := s.getInt (R.audio_OUT_MAP_DELAY_ADJ o)
  let raw := ((s.delayTarget o).orElse fun _ => c.target).getD (96 + adj)
  let t : Rat := max 96 (min raw (s.delayMax : Nat))
  let s := s.raiseIf (raw != t && c.target != some raw) Flag.audio_DELAY_CLAMP
  let atPoint := s.spPeriods (s.get (R.audio_OUT_MAP_FOLIO o)) == some (s.fadeSamples / 2) && c.step.isNone
  let base : OutChan := { c with target := some raw, fixedAdj := if pane then none else c.fixedAdj.orElse fun _ => some adj }
  let stepped (d : Rat) : OutChan :=
    { base with step := some (d, 0, s.fadeSamples), d := some t, fixedAdj := if pane then none else some adj }
  let next : OutChan := match c.d with
    | none => { base with d := some t, settled := !pane || !c.meas.isEmpty }
    | some d =>
      if c.settled = false then { base with d := some t, settled := !pane || !c.meas.isEmpty }
      else if pane = false ∧ base.fixedAdj ≠ some adj then if atPoint then stepped d else base
      else if 240 < absRat (t - d) then if atPoint && (!pane || decide (4 ≤ c.count)) then stepped d else base
      else { base with d := some (if t < d then max t (d - 1 / 2000) else min t (d + 1 / 2000)) }
  let s := s.modOut o fun _ => next
  (s.putInt (R.audio_OUT_DELAY_TARGET o) t.floor).put (R.audio_OUT_DELAY_CUR o) ((next.d.getD 0).floor.toNat % 65536)

/-- A converter's ratio R (R260): its nominal value with the deviation that IN_STAT shows. -/
def State.srcRatio (s : State) (i : Nat) : Rat :=
  let nominal : Rat := match s.get (R.audio_IN_STAT_RATE i) with | 1 => 91875 / 100000 | 2 => 2 / 3 | 3 => 1 / 3 | _ => 1
  nominal * (1 + (s.getInt (R.audio_IN_STAT_RATIO i) : Rat) / 10000000)

/-- Whether the source sample of the word now written, 72 output periods back, is a good one (R262). -/
def SrcChan.sourceGood (c : SrcChan) (r : Rat) : Bool :=
  let back := (c.total : Int) - 1 - (c.phase - 72 * r).floor
  decide (0 ≤ back) && (c.samples.getD back.toNat (0, false)).2

/-- One period of a converter: the word it writes (R260 to R262). The zeros of HOLD are lost samples (log entry 127). -/
def State.convertOne (s : State) (i : Nat) : State :=
  let c := s.src i
  let r := s.srcRatio i
  let (v, valid, c) :=
    if s.srcMode i = .locked then
      let x := clampInt 24 (Config.resample (c.samples.map (·.1)) (s.getInt (R.audio_IN_STAT_RATIO i))
        (s.get (R.audio_IN_STAT_RATE i)) s.audio.k + 1 / 2).floor
      let x := if c.fadeIn < 480 then rampAt c.fadeIn 480 x else x
      (x, c.sourceGood r, { c with fadeIn := min 480 (c.fadeIn + 1), lastOut := x, phase := c.phase + r })
    else if c.rampLeft ≠ 0 then (rampAt (c.rampLeft - 1) 48 c.lastOut, false, { c with rampLeft := c.rampLeft - 1 })
    else (0, false, c)
  let (p, q, n) := c.block
  let s := s.modSrc i fun _ => { c with block := (max p v.natAbs, q + v.natAbs * v.natAbs, n + 1) }
  let s := if s.srcMode i = .hold then s.countLost 1 else s
  if 72 ≤ s.audio.k then
    (s.unitUse 22 1 4).memWrite 5 (s.ringAddr i ((s.audio.k : Int) - 72)) (leBytes 3 (twos 24 v) ++ [if valid then 1 else 0])
  else s

/-- Saturation to 24 bits, and whether it acted. -/
def saturate24 (r : Rat) : Int × Bool :=
  let v := (r + 1 / 2).floor
  (clampInt 24 v, clampInt 24 v != v)

/-- One sample of an output channel: its terms at its delay, with the step's crossfade (R263, R265, R267). -/
def State.mixOne (s : State) (o : Nat) : State :=
  let c := s.outChan o
  let g := s.gainsNow o
  let (v, s) := s.sumTerms g (c.d.getD 96)
  let (v, s) := match c.step with
    | some (old, k, n) =>
      if k < n then
        let (w, s) := s.sumTerms g old
        let (fo, fi) := s.fadeFactors k n
        (w * gain24 fo + v * gain24 fi, s)
      else (v, s)
    | none => (v, s)
  let (x, clipped) := saturate24 v
  let s := if clipped then (s.bump R.audio_CLIP).raise Flag.audio_CLIP else s
  let (p, q, n) := c.block
  s.modOut o fun c =>
    { c with recent := (x :: c.recent).take 128, block := (max p x.natAbs, q + x.natAbs * x.natAbs, n + 1),
             step := match c.step with | some (old, k, n) => if k + 1 < n then some (old, k + 1, n) else none | none => none }

/-- A fade advances by one sample; the queued one follows, its target taken as it stands then (R268, R271). -/
def State.advanceFade (s : State) (o : Nat) : State :=
  let c := s.outChan o
  let queued := c.queued.map fun q => { q with wait := q.wait - 1 }
  match c.fade with
  | none => s
  | some f =>
    if f.wait ≠ 0 then s.modOut o fun c => { c with fade := some { f with wait := f.wait - 1 }, queued := queued }
    else if f.k + 1 < f.n then s.modOut o fun c => { c with fade := some { f with k := f.k + 1 }, queued := queued }
    else
      let next := queued.map fun q =>
        { q with cur := f.tgt, tgt := if q.wait = 0 then s.entryTerms o (s.entryNow o) (!q.afv) else q.tgt }
      s.modOut o fun c => { c with fade := next, queued := none }

/-- The pending entry of a channel becomes active (R270). -/
def State.switchBank (s : State) (o : Nat) : State :=
  match (s.outChan o).bank with
  | none => s
  | some ws =>
    let s := s.each ws.zipIdx fun s p => s.wr (Reg.audio_MIX (4 * o + p.2) + 0x4000) p.1
    let s := s.modOut o fun c => { c with bank := none, bankAt := none }
    let left := s.get R.audio_BANK_STATUS_LEFT - 1
    let s := s.put R.audio_BANK_STATUS_LEFT left
    if left = 0 then (s.put R.audio_BANK_STATUS_PENDING 0).raise Flag.audio_BANK_DONE else s

/-- A period of a pending bank switch on one channel: it begins its fade C/2 before its Folio's switching point, and switches
there (R270). -/
def State.bankStep (s : State) (o : Nat) : State :=
  let c := s.outChan o
  match c.bank, c.bankAt with
  | none, _ => s
  | some _, some 0 => s.switchBank o
  | some _, some (n + 1) => s.modOut o fun c => { c with bankAt := some n }
  | some ws, none =>
    let half := s.fadeSamples / 2
    if s.spPeriods (s.get (R.audio_OUT_MAP_FOLIO o)) = some half then
      let s := s.planFade o 0 s.fadeSamples ws false
      if half = 0 then s.switchBank o else s.modOut o fun c => { c with bankAt := some (half - 1) }
    else s

/-- The copy of the staged bank (R270). An arming while one is pending is refused. -/
def State.armBank (s : State) : State :=
  if s.audioOn = false then s
  else if s.on R.audio_BANK_STATUS_PENDING then s.raise Flag.audio_BANK_OVERRUN
  else
    let chans := (List.range s.outCount).filter fun o => s.mixWords o false != s.mixWords o true
    let s := s.each chans fun s o =>
      let loose := !s.on (R.audio_OUT_MAP_EN o) || !(s.fabric.now.folios.any fun f => f.folio == s.get (R.audio_OUT_MAP_FOLIO o))
      s.modOut o fun c =>
        { c with bank := some (s.mixWords o false), bankAt := if loose then some (s.fadeSamples / 2) else none }
    if chans.isEmpty then s.raise Flag.audio_BANK_DONE
    else (s.put R.audio_BANK_STATUS_PENDING 1).put R.audio_BANK_STATUS_LEFT chans.length

/-- A pending bank switch is removed (R272). -/
def State.clearBank (s : State) : State :=
  if s.on R.audio_BANK_STATUS_PENDING then
    let s := s.each (List.range s.outCount) fun s o => s.modOut o fun c => { c with bank := none, bankAt := none }
    ((s.put R.audio_BANK_STATUS_PENDING 0).put R.audio_BANK_STATUS_LEFT 0).raise Flag.audio_BANK_CLEARED
  else s

/-- A Folio cluster is quiesced: its channels' fades and switches end, with pending entries in force at once (R272). -/
def State.quiesceAudio (s : State) (f : Nat) : State :=
  s.each (s.outsOf f) fun s o => (s.switchBank o).modOut o fun c => { c with fade := none, queued := none, step := none }

/-- The engine starts again with nothing held (R277): every input in NO_INPUT, delays unmeasured, no records. -/
def State.restartAudio (s : State) : State :=
  let s := s.each (List.range s.inCount) fun s i => (s.put (R.audio_IN_STAT_STATE i) 0)
  let s := s.modAudio fun a => { a with startK := a.k, srcs := [], outs := [], tracked := [] }
  s.each (s.streams.map (·.1)) fun s n => s.modStream n fun x => { x with margs := [], openMarg := none, nextMarg := none, early := none }

/-- The level of a meter in 0.5 dB steps below full scale (R276), of a squared value a / b: the largest k up to 255 with
10^(k/20) × a / b at most 2^46. -/
def meterLevel (a b : Nat) : Nat :=
  if a = 0 then 255
  else ((List.range 256).filter fun k => decide (a ^ 20 * 10 ^ k ≤ b ^ 20 * 2 ^ 920)).getLastD 0

/-- A channel's meter word from its closed blocks: peak of the last 100 ms, mean square of the last 300 ms. -/
def meterWord (blocks : List (Nat × Nat × Nat)) : Nat :=
  let peak := (blocks.take 10).foldl (fun m b => max m b.1) 0
  let sq := (blocks.take 30).foldl (fun t b => t + b.2.1) 0
  let n := (blocks.take 30).foldl (fun t b => t + b.2.2) 0
  meterLevel (peak * peak) 1 * 256 + meterLevel sq (max 1 n)

/-- A meter half-word of a packed array register. -/
def meterFld (a ch : Nat) : Fld := if ch % 2 = 0 then ⟨a, 15, 0⟩ else ⟨a, 31, 16⟩

end Sys2Proof.Machine
end

