-- ==== Sys2Proof/Machine/MargOps.lean ====
section
/-!
DEFINITION. Marginalia: records of frames, ancillary data and metadata bound to them, zone watches (09_audio_marginalia.md R278
to R283).
-/
namespace Sys2Proof.Machine
open Sys2Proof

/-- The checksum word of an ancillary packet: the 9-bit sum of the words from DID on, its top bit inverted in bit 9. The layout
is that of the standards the spec names (log entry 34). -/
def ancSum (ws : List Nat) : Nat :=
  let t := ws.foldl (fun n w => (n + w) % 512) 0
  if 256 ≤ t then t else t + 512

def AncPacket.did (a : AncPacket) : Nat := a.words.getD 0 0 % 256
def AncPacket.sdid (a : AncPacket) : Nat := a.words.getD 1 0 % 256
def AncPacket.good (a : AncPacket) : Bool :=
  let ws := a.words.dropLast
  ancSum ws == a.words.getLastD 0 % 1024

/-- Time address and binary groups of an ATC packet, ST 12-1 bit 0 in bit 0, and whether it is of a VITC type (log entry 34). -/
def AncPacket.timecode (a : AncPacket) : List Byte × Bool :=
  let u := (a.words.drop 3).take 16
  let nib (i : Nat) : Nat := u.getD i 0 / 16 % 16
  let dbb1 := natOfBits ((List.range 8).map fun i => (u.getD i 0).testBit 3)
  ((List.range 8).map fun i => BitVec.ofNat 8 (nib (2 * i) + 16 * nib (2 * i + 1)), dbb1 == 1 || dbb1 == 2)

def AncPacket.isAtc (a : AncPacket) : Bool := a.did == 0x60 && a.sdid == 0x60
def AncPacket.isPid (a : AncPacket) : Bool := a.did == 0x41 && a.sdid == 0x01
def AncPacket.isEdh (a : AncPacket) : Bool := a.did == 0xF4

/-- Embedded audio: data, extended data and control packets of ST 272, ST 299-1 and ST 299-2 (log entry 34). -/
def AncPacket.isAudio (a : AncPacket) : Bool :=
  let d := a.did
  decide (0xF8 ≤ d) || (decide (0xEC ≤ d) && decide (d ≤ 0xEF)) || (decide (0xE0 ≤ d) && decide (d ≤ 0xE7))
    || (decide (0xA0 ≤ d) && decide (d ≤ 0xA7))

/-- The record of the frame in progress: that of a frame whose start waits behind the one being finished, else the open one
(R278, R279). -/
def StreamState.record (x : StreamState) : Option MargRec := x.nextMarg.orElse fun _ => x.openMarg
def StreamState.setRecord (x : StreamState) (m : MargRec) : StreamState :=
  if x.nextMarg.isSome then { x with nextMarg := some m } else { x with openMarg := some m }

/-- An ancillary packet binds to the frame in progress (R279); those that may be passed are kept where the stream was tracked at the
frame's start, up to 2 KiB (R282). A payload ID with a bad checksum is not taken (log entry 108). -/
def State.bindAnc (s : State) (n : Nat) (a : AncPacket) : State :=
  match (s.stream n).record with
  | none => s
  | some m =>
    let keep := m.track && !a.isAtc && !a.isPid && !a.isEdh && !a.isAudio
    let size := 4 + 2 * a.words.length
    let fits := decide (m.passBytes + size ≤ 2048)
    let m1 : MargRec :=
      if a.isAtc then
        if a.good then
          let (tc, vitc) := a.timecode
          match m.tc with
          | none => { m with tc := some (tc, vitc) }
          | some (_, true) => m
          | some (_, false) => if vitc then { m with tc := some (tc, vitc) } else m
        else m
      else if a.isPid && a.good then { m with pid := some (((a.words.drop 3).take 4).map fun w => BitVec.ofNat 8 w) }
      else { m with ancCount := min (m.ancCount + 1) 0xFFFF }
    let m1 := if keep then
        if fits then { m1 with kept := m1.kept ++ [a], passBytes := m1.passBytes + size } else { m1 with ancOver := true }
      else m1
    let s := s.raiseIf (keep && !fits) Flag.marginalia_ANC_OVERFLOW
    s.modStream n fun x => x.setRecord m1

/-- The META items of a payload, each whole (R101). -/
def metaItems : Nat → List Byte → List (List Byte)
  | 0, _ => []
  | k + 1, bs =>
    match bs with
    | _ :: l :: _ => (bs.take (2 + l.toNat)) :: metaItems k (bs.drop (2 + l.toNat))
    | _ => []

/-- Items appended in arrival order, truncated at an item boundary of 96 bytes (R278). -/
def addItems (m : MargRec) (items : List (List Byte)) : MargRec :=
  items.foldl (fun m i =>
    if m.metaCut then m
    else if m.items.length + i.length ≤ 96 then { m with items := m.items ++ i } else { m with metaCut := true })
    { m with hasMeta := true }

/-- The FRAME_SEQ of the frame in progress on a Rasyn stream: the one whose start has come and whose end has not. -/
def StreamState.inProgress (x : StreamState) : Option Nat :=
  match x.gathering, x.startSeen, x.writing with
  | some g, _, _ => some g.frameSeq
  | none, some (q, _), _ => q
  | none, none, some w => if w.ended then none else w.frameSeq
  | none, none, none => none

/-- A META packet binds to the frame whose FRAME_SEQ it names: the frame in progress or the next one; one whose EOF has come is late,
any other an orphan (R279). -/
def State.bindMeta (s : State) (n : Nat) (payload : List Byte) : State :=
  let x := s.stream n
  let q := leAt payload 0 2
  let items := metaItems (leAt payload 2 1) (payload.drop 4)
  if x.inProgress = some q then
    s.modStream n fun x => match x.record with | some m => x.setRecord (addItems m items) | none => x
  else
    let last := x.begun.orElse fun _ => x.lastFrameSeq
    if last.map (fun p => (p + 1) % 65536) = some q then
      let add (m : MargRec) := addItems m items
      let base : MargRec := match x.early with | some (p, it, cut) => if p = q then { items := it, metaCut := cut } else {} | none => {}
      let m := add base
      s.modStream n fun x => { x with early := some (q, m.items, m.metaCut) }
    else if x.margs.any (fun m => m.frameSeq == q) || last == some q then s.raise Flag.marginalia_META_LATE
    else s.raise Flag.marginalia_META_ORPHAN

/-- The record of a frame whose start is taken: META that named it ahead is in it. -/
def State.beginMarg (s : State) (n : Nat) (frameSeq : Option Nat) : State :=
  s.modStream n fun x =>
    let m := x.record.getD {}
    let m := match x.early, frameSeq with
      | some (q, it, cut), some p =>
        if q = p then
          let all := addItems { m with items := it, metaCut := cut } (metaItems 48 m.items)
          { all with metaCut := all.metaCut || m.metaCut }
        else m
      | _, _ => m
    { x with openMarg := if s.audioOn && !s.isWriteback n then some { m with frameSeq := frameSeq.getD 0 } else none,
             nextMarg := none, early := none }

/-- The bytes of a record (R278). -/
def MargRec.bytes (m : MargRec) : List Byte :=
  let flags := (if m.tc.isSome then 1 else 0) + (if m.pid.isSome then 2 else 0) + (if m.hasMeta then 4 else 0)
    + (if m.metaCut then 8 else 0) + (if m.ancOver then 16 else 0)
  leBytes 4 m.seq ++ leBytes 2 m.frameSeq ++ leBytes 1 flags ++ leBytes 1 m.items.length
    ++ (match m.tc with | some (t, _) => t | none => List.replicate 8 0)
    ++ slice (m.pid.getD []) 0 4 ++ leBytes 2 m.ancCount ++ List.replicate 10 0 ++ slice m.items 0 96

/-- A frame completes: its record is closed and is one of the stream's four (R278). -/
def State.closeMarg (s : State) (n seq : Nat) (m : Option MargRec) : State :=
  match m with
  | none => s
  | some m => s.modStream n fun x => { x with margs := ({ m with seq := seq } :: x.margs).take 4 }

/-- The motion-zone bitmaps among a record's items (tag 03h). -/
def zoneBitmaps : Nat → List Byte → List Nat
  | 0, _ => []
  | k + 1, bs =>
    match bs with
    | t :: l :: r =>
      (if t = 3 ∧ l = 8 then [leAt r 0 8] else []) ++ zoneBitmaps k (r.drop l.toNat)
    | _ => []

/-- The watches a completed frame meets (R283). -/
def State.zoneWatches (s : State) (n seq : Nat) : List Nat :=
  match (s.stream n).margs.head? with
  | none => []
  | some m =>
    if m.seq = seq ∧ m.hasMeta = true then
      let maps := zoneBitmaps 48 m.items
      (List.range 64).filter fun w =>
        let mask := s.get (R.marginalia_WATCH_MASK_LO w) + 2 ^ 32 * s.get (R.marginalia_WATCH_MASK_HI w)
        s.on (R.marginalia_WATCH_CTRL_EN w) && s.get (R.marginalia_WATCH_CTRL_STREAM w) == n && maps.any (fun b => b &&& mask != 0)
    else []

/-- A stream is tracked for passing from now on, or TRACK_FULL (R282). -/
def State.trackStream (s : State) (n : Nat) : State :=
  if s.audio.tracked.contains n then s
  else if s.audio.tracked.length < 64 then s.modAudio fun a => { a with tracked := a.tracked ++ [n] }
  else s.raise Flag.marginalia_TRACK_FULL

end Sys2Proof.Machine
end

