-- ==== Sys2Proof/Machine/CellarOps.lean ====
section
/-!
DEFINITION. The Cellar recorder: entries, triggers, pre-roll ring, records, segments, footers, extents and the drive
(11_codecs_cellar.md R312 to R340).
-/
namespace Sys2Proof.Machine
open Sys2Proof

def State.celEntry (s : State) (n : Nat) : CelEntry := Sparse.get (fun _ => ({} : CelEntry)) s.cellar.entries n
def State.modEntry (s : State) (n : Nat) (f : CelEntry → CelEntry) : State :=
  s.modCellar fun c => { c with entries := Sparse.set (fun _ => ({} : CelEntry)) c.entries n (f (s.celEntry n)) }

/-- The Cellar's states (R326). -/
inductive CelMode where
  | off | noDrive | init | recovering | blank | foreign | ready | fault
  deriving DecidableEq, Repr

def CelMode.code : CelMode → Nat
  | .off => 0 | .noDrive => 1 | .init => 2 | .recovering => 3 | .blank => 4 | .foreign => 5 | .ready => 6 | .fault => 7
def CelMode.ofCode : Nat → CelMode
  | 1 => .noDrive | 2 => .init | 3 => .recovering | 4 => .blank | 5 => .foreign | 6 => .ready | 7 => .fault | _ => .off
def State.celMode (s : State) : CelMode := CelMode.ofCode (s.get R.cellar_STATE_STATE)
/-- The state changes; with HB_BOOT the heartbeat watch starts at the entry to READY (R316). -/
def State.setCelMode (s : State) (m : CelMode) : State :=
  if s.celMode = m then s
  else
    let s := if m = .ready ∧ s.on R.cellar_CTRL_HB_BOOT = true then s.modCellar fun c => { c with hbSeen := true } else s
    ((s.put R.cellar_STATE_STATE m.code).raise Flag.cellar_STATE_CHANGE).setFault 7 (m == .fault)

def State.maxEntries (s : State) : Nat := s.get R.cellar_CFG_MAX_STREAMS
def State.entryNums (s : State) : List Nat := List.range s.maxEntries

/-- The settings in effect: those of the open segment, else the registers as they stand (R315). -/
def State.entryCtrl (s : State) (n : Nat) : BitVec 32 :=
  let e := s.celEntry n
  if e.seg.isSome then e.ctrl else s.rd (Reg.cellar_ENTRY_CTRL n)
def State.entrySrc (s : State) (n : Nat) : BitVec 32 :=
  let e := s.celEntry n
  if e.seg.isSome then e.src else s.rd (Reg.cellar_ENTRY_SRC n)
def State.entryAudio (s : State) (n : Nat) : BitVec 32 :=
  let e := s.celEntry n
  if e.seg.isSome then e.audio else s.rd (Reg.cellar_ENTRY_AUDIO n)
def State.entryStream (s : State) (n : Nat) : Nat := getBits (s.entrySrc n) 10 0
def State.entryOn (s : State) (n : Nat) : Bool := (s.entryCtrl n).getLsbD 31
def State.entryPreroll (s : State) (n : Nat) : Nat := getBits (s.entryCtrl n) 19 12
def State.entryDiv (s : State) (n : Nat) : Nat := getBits (s.entryCtrl n) 26 24 + 1

/-- A budget field: below 8 acts as 8, above 192 as 192. -/
def bppOf (v : Nat) : Nat := max 8 (min v 192)

/-- Ruling frames of a segment interval: round(SEG_S × the Ruling frame rate) (R322). -/
def State.segFrames (s : State) (n : Nat) : Nat :=
  let sec := max 1 (min 10 (getBits (s.entryCtrl n) 23 20))
  let f := s.rulingFormat
  max 1 ((sec : Rat) * f.num / f.den + 1 / 2).floor.toNat

/-- Ruling lines of a number of seconds. -/
def State.linesOf (s : State) (sec : Nat) : Nat :=
  let f := s.rulingFormat
  ((sec : Rat) * f.num * f.lines / f.den).floor.toNat

/-- The instants of a list within the last second, as Ruling line counts. -/
def State.lastSecond (s : State) (l : List Nat) : List Nat := l.filter fun x => decide (s.ruling.lineTotal < x + s.linesOf 1)

/-- Bytes of the pre-roll ring, those held, and those pending (R318). -/
def State.ringSize (s : State) : Nat := s.fabric.now.single.prerollSize * 65536
def bytesIn (l : List CelRecord) : Nat := l.foldl (fun t r => t + r.bytes.length) 0
def State.ringPending (s : State) : Nat := bytesIn (s.cellar.ring.filter fun r => r.st != 0)

/-- The registers that follow the recorder. -/
def State.showCellar (s : State) : State :=
  let rec? (n : Nat) : Bool := (s.celEntry n).mode != 0
  let s := s.put R.cellar_STATE_RECORDING ((s.entryNums.filter rec?).length)
  let s := s.each (List.range 8) fun s k =>
    s.wr (Reg.cellar_REC_MAP k) (BitVec.ofNat 32 ((List.range 32).foldl (fun m b => if 32 * k + b < s.maxEntries ∧ rec? (32 * k + b) = true then m + 2 ^ b else m) 0))
  let s := s.each s.entryNums fun s n =>
    let e := s.celEntry n
    let st := if !s.on (R.cellar_ENTRY_CTRL_EN n) && e.mode == 0 then 0
      else if e.suspended then 4 else if e.mode = 1 then 2 else if e.mode = 2 then 3 else 1
    (s.put (R.cellar_ENTRY_STATUS_STATE n) st).put (R.cellar_ENTRY_STATUS_INCIDENT_SEG n)
      (match e.seg with | some g => g.flags % 2 | none => 0)
  let s := s.put R.cellar_RING_PENDING (s.ringPending / 1024)
  let s := s.put R.cellar_STATE_CONTINUOUS (if s.on R.cellar_CFG_PRESENT && s.on R.cellar_CFG_CONT_OK then 1 else 0)
  match s.cellar.drive with
  | none => s
  | some d =>
    let pair (s : State) (lo hi v : Nat) : State := (s.wr lo (BitVec.ofNat 32 v)).wr hi (BitVec.ofNat 32 (v / 2 ^ 32))
    let s := pair s Reg.cellar_DRIVE_CB_LO Reg.cellar_DRIVE_CB_HI d.cbCount
    let s := pair s Reg.cellar_NEXT_GSEQ_LO Reg.cellar_NEXT_GSEQ_HI d.nextGseq
    let s := pair s Reg.cellar_OLDEST_GSEQ_LO Reg.cellar_OLDEST_GSEQ_HI d.oldest
    let s := s.put R.cellar_EXTENTS ((d.cbCount - d.dataStart) / d.extentCb)
    (s.put R.cellar_PROTECT_EXT d.protectExt).put R.cellar_STATE_DSM (if d.dsm then 1 else 0)

def State.modDrive (s : State) (f : CelDrive → CelDrive) : State :=
  s.modCellar fun c => { c with drive := c.drive.map f }

/-- An NVMe command is issued; its completion brings `t` about. -/
def State.nvmeIssue (s : State) (t : CelTag) : State :=
  s.modCellar fun c => { c with nvme := c.nvme ++ [(c.nextTag, t)], nextTag := c.nextTag + 1, dirty := true }

def genesis (uuid owner : List Byte) : List Byte := sha384 (asciiBytes "GWCELLAR" ++ uuid ++ owner)

/-- STATE and GSEQ of a directory entry. -/
def dirState (b : List Byte) : Nat := leAt b 8 1
def dirStart (b : List Byte) : Nat := leAt b 16 8

/-- The oldest of some extents: the one furthest behind HEAD, which wraps (R328, R335); HEAD where there is none. -/
def CelDrive.oldestOf (d : CelDrive) (cbs : List Nat) : Nat :=
  let span := (d.cbCount - d.dataStart) / max 1 d.extentCb * d.extentCb
  let behind (cb : Nat) : Nat := (d.head + span - cb) % max 1 span
  cbs.foldl (fun a cb => if behind a < behind cb then cb else a) d.head

/-- The superblock's bytes (R328): NEXT_GSEQ counts the footers written, as LAST_CHAIN does (log entry 137). -/
def State.superblock (s : State) (d : CelDrive) : List Byte :=
  let openCbs := s.entryNums.flatMap fun n =>
    let e := s.celEntry n
    (match e.seg with | some g => [g.startCb] | none => []) ++ e.ended.map fun x => x.1.startCb
  let openCbs := openCbs ++ s.cellar.closing.map fun x => x.seg.startCb
  let b := [0x47#8, 0x57#8, 0x43#8, 0x42#8] ++ leBytes 2 1 ++ leBytes 2 d.lbaShift ++ leBytes 8 d.sbSeq ++ slice d.uuid 0 16
    ++ slice d.owner 0 16 ++ leBytes 8 d.cbCount ++ leBytes 4 d.dirEntries ++ leBytes 4 d.extentCb ++ leBytes 8 d.dataStart
    ++ leBytes 8 d.head ++ leBytes 8 (d.oldestOf openCbs) ++ leBytes 8 (d.nextGseq - s.cellar.closing.length) ++ leBytes 8 d.oldest
    ++ leBytes 8 d.nextOpenId ++ leBytes 4 d.protectExt ++ leBytes 4 ((if openCbs.isEmpty then 1 else 0) + (if d.dsm then 2 else 0))
    ++ leBytes 4 d.formatOpsec ++ leBytes 4 d.formatCycles ++ genesis d.uuid d.owner ++ slice d.lastChain 0 48
  let b := slice b 0 4092
  b ++ leBytes 4 (crc32 b).toNat

/-- Bytes go to the drive in transfers of its size (R325). -/
def State.driveBytes (s : State) (cb off : Nat) (bs : List Byte) : State :=
  let n := match s.cellar.drive with | some d => max 1 d.transfer | none => 2 ^ 20
  s.each (List.range ((bs.length + n - 1) / n)) fun s k => s.emit (.driveWrite cb (off + n * k) ((bs.drop (n * k)).take n))

/-- A superblock is written, after a Flush, to the copy whose turn it is (R328). -/
def State.writeSuperblock (s : State) : State :=
  match s.cellar.drive with
  | none => s
  | some d =>
    let d := { d with sbSeq := d.sbSeq + 1 }
    let s := (s.modDrive fun _ => d).emit (.driveCommand 0 0)
    let s := (s.driveBytes (d.sbSeq % 2) 0 (s.superblock d)).nvmeIssue .other
    s.modCellar fun c => { c with dirty := false }

/-- The first writes into extents allocated since the last superblock, which goes before them (R328). -/
def State.settleFresh (s : State) : State :=
  if s.cellar.fresh.isEmpty then s
  else
    let l := s.cellar.fresh
    let s := (s.modCellar fun c => { c with fresh := [] }).writeSuperblock
    s.each l fun s x => (s.driveBytes x.1 0 x.2).nvmeIssue .other

/-- The directory CB that holds an entry is written (R329, R334). -/
def State.writeDir (s : State) (gseq : Nat) : State :=
  match s.cellar.drive with
  | none => s
  | some d =>
    let pos := gseq % max 1 d.dirEntries
    let first := pos / 32 * 32
    let at_ (i : Nat) : List Byte :=
      match s.cellar.dir.find? fun x => x.1 % max 1 d.dirEntries == first + i with
      | some x => x.2.1
      | none => List.replicate 128 0
    (s.driveBytes (2 + pos / 32) 0 ((List.range 32).flatMap at_)).nvmeIssue (.dirEntry gseq)

/-- A directory entry with its ECRC (R329). -/
def dirBytes (b : List Byte) : List Byte := let c := slice b 0 124; c ++ leBytes 4 (crc32 c).toNat

/-- Directory entry g mod DIR_ENTRIES takes the entry of GSEQ g (R327). -/
def State.setDir (s : State) (gseq : Nat) (b : List Byte) (written : Bool) : State :=
  let n := match s.cellar.drive with | some d => max 1 d.dirEntries | none => 1
  s.modCellar fun c => { c with dir := Sparse.insert (c.dir.filter fun x => x.1 % n != gseq % n) gseq (b, written) }

/-- The oldest segment not reclaimed, NEXT_GSEQ where there is none. -/
def State.oldestLive (s : State) (d : CelDrive) : Nat :=
  match s.cellar.dir.find? fun x => dirState x.2.1 == 1 || dirState x.2.1 == 2 with
  | some x => x.1
  | none => d.nextGseq

/-- An extent holding an unprotected segment is reclaimed before reuse (R335). -/
def State.reclaim (s : State) (gseq : Nat) (b : List Byte) : State :=
  let s := s.setDir gseq (dirBytes (b.take 8 ++ [3] ++ b.drop 9)) true
  match s.cellar.drive with
  | none => s
  | some d =>
    let s := s.modDrive fun d => { d with oldest := s.oldestLive d }
    let s := if d.dsm then s.emit (.driveCommand 9 (dirStart b)) else s
    (s.writeDir gseq).writeSuperblock

/-- An extent is allocated at HEAD (R335): open and protected ones are skipped, HEAD wraps. -/
def State.allocFrom (s : State) (d : CelDrive) : Nat → Nat → Option (Nat × State)
  | 0, _ => none
  | k + 1, cb =>
    let last := d.dataStart + (d.cbCount - d.dataStart) / d.extentCb * d.extentCb
    let cb := if cb + d.extentCb ≤ last ∧ d.dataStart ≤ cb then cb else d.dataStart
    let next := if cb + 2 * d.extentCb ≤ last then cb + d.extentCb else d.dataStart
    let isOpen := (s.entryNums.any fun n =>
        let e := s.celEntry n
        (match e.seg with | some g => g.startCb == cb | none => false) || e.ended.any fun x => x.1.startCb == cb)
      || s.cellar.closing.any fun x => x.seg.startCb == cb
    let held := s.cellar.dir.find? fun x => dirStart x.2.1 == cb && (dirState x.2.1 == 1 || dirState x.2.1 == 2)
    if isOpen then State.allocFrom s d k next
    else match held with
      | none => some (cb, s.modDrive fun d => { d with head := next })
      | some (g, b, _) =>
        if dirState b = 2 then State.allocFrom s d k next
        else some (cb, (s.reclaim g b).modDrive fun d => { d with head := next })

def State.allocExtent (s : State) : Option (Nat × State) :=
  match s.cellar.drive with
  | none => none
  | some d => s.allocFrom d ((d.cbCount - d.dataStart) / max 1 d.extentCb + 1) d.head

/-- The header block of a segment (R330). -/
def State.segHeader (s : State) (n openId flags : Nat) : List Byte :=
  let c := s.entryCtrl n
  let st := s.entryStream n
  let a := s.entryAudio n
  let (w, h, fmt) := match (s.stream st).newest with
    | some i => let v := (s.stream st).slot i; (v.width, v.height, v.fmt)
    | none => (s.width st, s.height st, s.storeFmt st)
  let b := [0x47#8, 0x57#8, 0x43#8, 0x48#8] ++ leBytes 2 1 ++ leBytes 1 flags ++ leBytes 1 n ++ leBytes 8 openId
    ++ leBytes 2 st ++ leBytes 2 w ++ leBytes 2 h ++ leBytes 1 fmt
    ++ leBytes 1 (getBits (s.entrySrc n) 31 24) ++ leBytes 2 (s.get (R.stream_RATE_NUM st)) ++ leBytes 2 (s.get (R.stream_RATE_DEN st))
    ++ leBytes 1 (getBits c 26 24 + 1) ++ leBytes 1 (min 16 (getBits a 31 27)) ++ leBytes 2 (getBits a 10 0)
    ++ leBytes 4 (s.get R.blotter_OP_S) ++ leBytes 2 (s.get R.blotter_OP_FRAC) ++ leBytes 2 0
    ++ leBytes 4 (s.get R.blotter_CYCLES % 2 ^ 24) ++ slice s.uid 0 16
  let b := slice b 0 4092
  b ++ leBytes 4 (crc32 b).toNat

/-- Whether an entry selects INCIDENT and an incident is active. -/
def State.incidentMarks (s : State) (n : Nat) : Bool := (s.entryCtrl n).getLsbD 29 && s.on R.cellar_STATE_INCIDENT

/-- A segment opens with a record of a Ruling frame (R322, R330): the settings written since take effect (R315), the last SEQ being one of
the stream recorded; an extent is allocated, its header waits for the superblock (R328). -/
def State.openSeg (s : State) (n frame : Nat) (preroll : Bool) : Option CelSeg × State :=
  let s := s.modEntry n fun e =>
    let src := s.rd (Reg.cellar_ENTRY_SRC n)
    { e with ctrl := s.rd (Reg.cellar_ENTRY_CTRL n), src := src, audio := s.rd (Reg.cellar_ENTRY_AUDIO n),
             lastSeq := if getBits src 10 0 = getBits e.src 10 0 then e.lastSeq else none }
  match s.allocExtent with
  | none => (none, s)
  | some (cb, s) =>
    let id := match s.cellar.drive with | some d => d.nextOpenId | none => 0
    let inc := s.incidentMarks n
    let h := s.segHeader n id ((if preroll then 1 else 0) + (if inc then 2 else 0))
    let last := (frame / s.segFrames n + 1) * s.segFrames n
    let g : CelSeg :=
      { openId := id, entry := n, stream := s.entryStream n, endFrame := last, bound := last, startCb := cb, header := h, flags := (if inc then 1 else 0) + (if preroll then 4 else 0), opsec := s.get R.blotter_OP_S }
    let s := s.modDrive fun d => { d with nextOpenId := id + 1 }
    let s := s.modEntry n fun e => { e with seg := some g }
    (some g, s.modCellar fun c => { c with fresh := c.fresh ++ [(cb, h)] })

/-- Bytes left for records in a segment's extent, header, end marker and footer allowed for (R322). -/
def State.segRoom (s : State) (g : CelSeg) : Nat :=
  match s.cellar.drive with | none => 0 | some d => (d.extentCb - 2) * 4096 - 16 - g.body.length

/-- The open segment of an entry ends with a cause; it closes in the order of R332 once its remaining records are in (R334). -/
def State.endSeg (s : State) (n cause : Nat) : State :=
  s.modEntry n fun e =>
    match e.seg with
    | none => e
    | some g => { e with seg := none, ended := e.ended ++ [(g, cause)] }

/-- A segment with one more record (R331, R332). -/
def CelSeg.add (g : CelSeg) (r : CelRecord) : CelSeg :=
  let isFrame := r.typ == 1
  { g with body := g.body ++ r.bytes, records := g.records + 1,
           frames := g.frames + (if isFrame then 1 else 0), marks := min 0xFFFF (g.marks + (if r.typ = 4 then 1 else 0)),
           firstSeq := if isFrame && g.frames == 0 then r.seq else g.firstSeq,
           lastSeq := if isFrame then r.seq else g.lastSeq,
           firstDone := if isFrame && g.frames == 0 then r.doneFrame else g.firstDone,
           gapFrames := g.gapFrames + r.missed,
           flags := g.flags ||| (if r.slotFlags.testBit 1 then 8 else 0) ||| (if r.slotFlags.testBit 0 then 16 else 0)
             ||| (if r.slotFlags.testBit 4 then 32 else 0) ||| (if r.typ = 5 then 64 else 0) }

/-- Whether an ended segment takes a record of its interval that comes late (R322, R334): one whose extent is full takes none. -/
def State.takesLate (s : State) (r : CelRecord) (x : CelSeg × Nat) : Bool :=
  x.2 != 1 && decide (r.doneFrame < x.1.bound) && decide (r.bytes.length ≤ s.segRoom x.1)

/-- The segment a record belongs to: an ended one that takes it, or the open one, its place there, and whether it was ended. -/
def State.lateSeg (s : State) (r : CelRecord) : Option CelSeg :=
  ((s.celEntry r.entry).ended.find? (s.takesLate r)).map (·.1)

/-- A record is in its segment: it is pending and counted (R318, R331). -/
def State.recordIn (s : State) (r : CelRecord) (g : CelSeg) : State :=
  let place := (g.startCb, 4096 + g.body.length)
  let s := s.modCellar fun c =>
    { c with ring := c.ring.map fun x => if x.id = r.id then { x with st := 1, place := place } else x }
  let s := if r.typ = 1 then s.bump (R.cellar_ENTRY_FRAMES r.entry) else s
  (s.bumpBy R.cellar_GAP_FRAMES r.missed).bumpBy (R.cellar_ENTRY_GAPS r.entry) r.missed

/-- A record takes its place in the entry's segment (R322, R331); a segment whose boundary has passed ends at once. -/
def State.placeRecord (s : State) (r : CelRecord) (preroll : Bool) : State :=
  let n := r.entry
  match s.lateSeg r with
  | some g =>
    (s.modEntry n fun e => { e with ended := e.ended.map fun x => if x.1.openId = g.openId then (x.1.add r, x.2) else x }).recordIn r g
  | none =>
    let s := match (s.celEntry n).seg with
      | some g => if g.endFrame ≤ r.doneFrame then s.endSeg n 0 else if s.segRoom g < r.bytes.length then s.endSeg n 1 else s
      | none => s
    let (g, s) := match (s.celEntry n).seg with
      | some g => (some g, s)
      | none => s.openSeg n r.doneFrame preroll
    match g with
    | none => s.modCellar fun c => { c with ring := c.ring.filter fun x => x.id != r.id }
    | some g =>
      let s := (s.modEntry n fun e => { e with seg := some (g.add r) }).recordIn r g
      if g.endFrame ≤ s.ruling.frame then s.endSeg n 0 else s

/-- Oldest pre-roll records give way to a new record (R318). -/
def makeRoom (size need : Nat) : List CelRecord → List CelRecord
  | [] => []
  | r :: l =>
    if bytesIn (r :: l) + need ≤ size then r :: l
    else if r.st = 0 then makeRoom size need l else r :: makeRoom (size - r.bytes.length) need l

/-- The bytes of a record (R331). -/
def recordBytes (typ rflags : Nat) (payload : List Byte) : List Byte :=
  let h := leBytes 1 typ ++ leBytes 1 rflags ++ leBytes 2 0 ++ leBytes 4 payload.length
  let b := h ++ leBytes 4 (crc32 (h ++ payload)).toNat ++ leBytes 4 0 ++ payload
  b ++ List.replicate ((16 - b.length % 16) % 16) 0

/-- A frame of an entry's stream is not recorded: it counts in the next gap record. -/
def State.noteMissed (s : State) (n cause : Nat) : State :=
  s.modEntry n fun e =>
    { e with missed := e.missed + 1, cause := cause, missedAt := if e.missed = 0 then s.ruling.frame else e.missedAt }

/-- A record is written to the ring, through the Cellar's own kind, and to the segment of an entry that records (R318). -/
def State.toRing (s : State) (r : CelRecord) : State :=
  let r := { r with id := s.cellar.nextId }
  let size := s.ringSize
  let ring := makeRoom size r.bytes.length s.cellar.ring
  if size < bytesIn ring + r.bytes.length then (if r.typ = 1 then s.noteMissed r.entry 6 else s)
  else
    let at_ := s.cellar.ringAt
    let base := s.fabric.now.single.prerollBase * 65536
    let k := min r.bytes.length (size - at_)
    let s := (s.unitUse 22 s.fabric.now.single.cellarClass r.bytes.length).memWrite 4 (base + at_) (r.bytes.take k)
    let s := if k < r.bytes.length then s.memWrite 4 base (r.bytes.drop k) else s
    let s := s.modCellar fun c =>
      { c with ring := ring ++ [r], nextId := c.nextId + 1, ringAt := (at_ + r.bytes.length) % max 1 size,
               ringDebt := c.ringDebt + r.bytes.length }
    if (s.celEntry r.entry).mode ≠ 0 ∨ (s.lateSeg r).isSome = true then s.placeRecord r false else s

/-- Bytes that DRIVE_RATE allows in 10 ms (R319). -/
def State.tenMs (s : State) : Nat := s.fabric.now.single.cellarRate * 10000

/-- Records that waited go to the ring, oldest first, as far as the 10 ms allow, or all of them (R319). A record begun within the
allowance is written whole, and what it takes beyond is charged to the next (log entry 138). -/
def State.drainRing (force : Bool) : List CelRecord → State → State
  | [], s => s.modCellar fun c => { c with ringWait := [] }
  | r :: l, s =>
    if force = true ∨ s.cellar.ringDebt < s.tenMs then State.drainRing force l (s.toRing r)
    else s.modCellar fun c => { c with ringWait := r :: l }

/-- Whether an entry's records are kept: it records or has pre-roll, or a segment of its own still takes the record (R318, R319). -/
def State.keepsRecord (s : State) (r : CelRecord) : Bool :=
  (s.celEntry r.entry).mode != 0 || s.entryPreroll r.entry != 0 || (s.lateSeg r).isSome

/-- A record is appended (R318, R319): not while PWRFAIL_N is low, when a frame counts as missed by POWER (R336). -/
def State.appendRecord (s : State) (r : CelRecord) : State :=
  if s.celMode = .off ∨ s.keepsRecord r = false then s
  else if s.cellar.powerFail = true then (if r.typ = 1 then s.noteMissed r.entry 7 else s)
  else if s.cellar.ringWait = [] ∧ s.cellar.ringDebt < s.tenMs then s.toRing r
  else s.modCellar fun c => { c with ringWait := c.ringWait ++ [r] }

/-- A record of an entry, of a Ruling frame. -/
def State.newRecord (s : State) (n typ : Nat) (payload : List Byte) (doneFrame : Nat) : CelRecord :=
  { id := 0, entry := n, typ := typ, bytes := recordBytes typ 0 payload, lineAt := s.ruling.lineTotal, doneFrame := doneFrame }

/-- A gap record (R331), placed by the Ruling frame of its start. -/
def State.gapRecord (s : State) (n cause missed frame : Nat) : State :=
  let last := ((s.celEntry n).lastSeq).getD 0
  let p := leBytes 1 cause ++ leBytes 3 0 ++ leBytes 4 last ++ leBytes 4 missed ++ leBytes 6 frame ++ leBytes 2 0
  s.appendRecord { s.newRecord n 5 p frame with missed := missed }

/-- The frames missed so far go into one gap record (R320), unless appending has stopped (R336). -/
def State.flushMissed (s : State) (n : Nat) : State :=
  let e := s.celEntry n
  if e.missed = 0 ∨ s.cellar.powerFail = true then s
  else (s.gapRecord n e.cause e.missed e.missedAt).modEntry n fun e => { e with missed := 0, cause := 1 }

/-- A frame of an entry's stream was not recorded, for a cause: those missed for another are written first. -/
def State.missFrame (s : State) (n cause : Nat) : State :=
  (if (s.celEntry n).cause = cause then s else s.flushMissed n).noteMissed n cause

/-- A mark in the record stream of an entry (R323). -/
def State.markRecord (s : State) (n code source detail : Nat) : State :=
  let p := leBytes 1 code ++ leBytes 1 source ++ leBytes 2 detail ++ leBytes 6 s.ruling.frame ++ leBytes 2 s.ruling.line
    ++ leBytes 4 (s.get R.blotter_OP_S) ++ leBytes 2 (s.get R.blotter_OP_FRAC) ++ leBytes 2 0
  s.appendRecord (s.newRecord n 4 p s.ruling.frame)

/-- The triggers active now, as TRIG selects them (R316). -/
def State.triggers (s : State) : Nat :=
  (if s.on R.cellar_STATE_UPLINK_LOST then 1 else 0) + (if s.on R.cellar_STATE_INCIDENT then 2 else 0)
    + (if s.on R.cellar_CFG_CONT_OK then 4 else 0)

def State.entryActive (s : State) (n : Nat) : Bool :=
  s.entryOn n && (getBits (s.entryCtrl n) 30 28 &&& s.triggers) != 0

/-- An entry starts recording: its pre-roll becomes pending (R317, R318). -/
def State.startRecording (s : State) (n : Nat) : State :=
  let since := s.ruling.lineTotal - s.linesOf (s.entryPreroll n)
  let s := s.modEntry n fun e =>
    { e with mode := 1, stopDue := false, hostStop := false, nextSpan := if s.entryPreroll n = 0 then none else e.nextSpan }
  let mine := s.cellar.ring.filter fun r => r.entry == n && r.st == 0 && decide (since ≤ r.lineAt)
  s.each mine fun s r => s.placeRecord r true

/-- Entries start, go on after their last trigger, or take up again (R317). -/
def State.retrigger (s : State) : State :=
  if s.celMode = .ready then
    (s.each s.entryNums fun s n =>
      let e := s.celEntry n
      let a := s.entryActive n
      if e.mode = 0 then (if a then s.startRecording n else s)
      else if e.mode = 1 then (if a then s else s.modEntry n fun e => { e with mode := 2 })
      else if a then s.modEntry n fun e => { e with mode := 1, stopDue := false } else s).showCellar
  else s.showCellar

/-- The footer's first 280 bytes: its content and its CHAIN (R332). -/
def State.footerHead (s : State) (c : CelClose) (mode : Nat) (segBytes : List Byte) (prev : List Byte) : List Byte :=
  let g := c.seg
  let signed := mode == 0 || mode == 1 || mode == 4
  let flags := (g.flags &&& 0xFD) + (if c.prot then 2 else 0)
  let b := [0x47#8, 0x57#8, 0x43#8, 0x46#8] ++ leBytes 2 1 ++ leBytes 1 mode ++ leBytes 1 flags ++ leBytes 8 c.gseq ++ leBytes 2 g.stream
    ++ leBytes 1 g.entry ++ leBytes 1 c.cause ++ leBytes 4 (segBytes.length / 4096 + 1) ++ leBytes 4 g.frames
    ++ leBytes 4 g.records ++ leBytes 4 g.firstSeq ++ leBytes 4 g.lastSeq ++ leBytes 6 g.firstDone ++ leBytes 2 0
    ++ leBytes 4 g.opsec ++ leBytes 4 c.opsec ++ leBytes 4 (s.get R.blotter_CYCLES % 2 ^ 24) ++ leBytes 4 g.gapFrames
    ++ slice s.uid 0 16 ++ leBytes 4 (if signed then c.keyGen else 0) ++ leBytes 4 0 ++ sha384 segBytes ++ slice prev 0 48
    ++ (if signed then sha384 (ecPubBytes (beNat c.key)) else List.replicate 48 0)
  b ++ sha384 b

/-- The bytes of a closed segment up to its footer: header, records, end marker, zeros to the end of the block. -/
def CelSeg.bytes (g : CelSeg) : List Byte :=
  let b := g.body ++ List.replicate 16 0
  g.header ++ b ++ List.replicate ((4096 - b.length % 4096) % 4096) 0

/-- Whether records of the segment at an extent still await the drive (R334). -/
def State.recordsOut (s : State) (cb : Nat) : Bool := s.cellar.ring.any fun r => r.st == 1 && r.place.1 == cb

/-- The footer mode shown or used changes: SIGN_MODE (R333). -/
def State.signMode (s : State) (m : Nat) : State :=
  if s.cellar.lastMode = m then s
  else (s.modCellar fun c => { c with lastMode := m }).raise Flag.cellar_SIGN_MODE

/-- Footers whose mode is settled are written in GSEQ order, each after the segment's remaining records and followed by a Flush and its
directory CB (R333, R334). -/
def State.writeFooters (s : State) : Nat → State
  | 0 => s
  | k + 1 =>
    match s.cellar.closing with
    | [] => s
    | c :: rest =>
      match c.mode with
      | none => s
      | some mode =>
        if s.recordsOut c.seg.startCb then s else
        let s := s.settleFresh
        let prev := match s.cellar.drive with | some d => d.lastChain | none => []
        let seg := c.seg.bytes
        let head := s.footerHead c mode seg prev
        let signed := mode == 0 || mode == 1 || mode == 4
        let (sig, s) := if signed then
            let (k, s) := s.draw 48
            (ecdsaSign (beNat c.key) (beNat k) head, s)
          else (List.replicate 96 0, s)
        let f := slice (head ++ sig) 0 4092
        let f := f ++ leBytes 4 (crc32 f).toNat
        let s := (if mode = 0 then s else s.bump R.cellar_UNSIGNED).signMode mode
        let s := s.driveBytes c.seg.startCb (4096 + c.seg.body.length) (seg.drop (4096 + c.seg.body.length))
        let s := ((s.driveBytes c.seg.startCb seg.length f).nvmeIssue .other).emit (.driveCommand 0 0)
        let g := c.seg
        let d := leBytes 8 c.gseq ++ leBytes 1 (if c.prot then 2 else 1) ++ slice f 7 1 ++ leBytes 1 mode ++ leBytes 1 g.entry
          ++ leBytes 2 g.stream ++ leBytes 2 0 ++ leBytes 8 g.startCb ++ leBytes 4 (seg.length / 4096 + 1) ++ leBytes 4 g.frames
          ++ leBytes 6 g.firstDone ++ leBytes 2 g.marks ++ leBytes 4 g.opsec ++ leBytes 4 c.opsec ++ slice f 56 4
          ++ leBytes 4 g.firstSeq ++ leBytes 4 g.lastSeq ++ leBytes 4 0 ++ slice f 232 48
        let s := s.modCellar fun x => { x with closing := rest }
        let s := s.modDrive fun d => { d with lastChain := slice f 232 48 }
        State.writeFooters ((s.setDir c.gseq (dirBytes d) false).writeDir c.gseq) k

/-- STATE.SIG_MODE follows; a change raises SIGN_MODE (R333). -/
def State.showSigMode (s : State) : State :=
  let m := s.footerMode
  if s.get R.cellar_STATE_SIG_MODE = m then s else (s.put R.cellar_STATE_SIG_MODE m).signMode m

/-- RECOVERING ends once the footers of what it closed are written: the superblock is rewritten and the Cellar is READY (R337). -/
def State.recovered (s : State) : State :=
  if s.celMode = .recovering ∧ s.cellar.closing = [] then ((s.writeSuperblock.setCelMode .ready).retrigger).showCellar else s

/-- The oldest footer that awaits its signature takes a mode, and footers are written on (R333). -/
def State.settleFooter (s : State) (mode : CelClose → Nat) : State :=
  let rec go : List CelClose → List CelClose
    | [] => []
    | c :: l => if c.mode.isNone then { c with mode := some (mode c) } :: l else c :: go l
  let s := s.modCellar fun x => { x with closing := go x.closing }
  ((s.writeFooters s.cellar.closing.length).recovered).showCellar

/-! Engine 0 of the Strongroom (13_strongroom.md R380, R384). -/

/-- Whether a footer's signature runs on engine 0. -/
def State.signing (s : State) : Bool := s.cellar.closing.any fun c => c.mode.isNone && c.loaded

/-- A host operation comes to engine 0: it loads its slot and runs, or fails at its load (R380, R382). -/
def State.beginHost (s : State) (w : EngineWait) : State :=
  let n := w.slot
  let run (s : State) (result : List Byte) : State :=
    s.modStrong fun u => { u with engine := some ⟨w.kind, (s.slot n).parent, s.parentGens (s.slot n).parent, result⟩ }
  let key := (s.slot n).key
  let kind := (s.slot n).kind
  match w.kind with
  | .attest =>
    if s.identityOk = false then s.strongDone 19 [] else if s.entropyOk = false then s.strongDone 13 [] else run s w.input
  | _ =>
    match s.loadFailure n with
    | some c => s.strongDone c []
    | none =>
      if kind ≠ (if w.kind = .hmac then 2 else 1) then s.strongDone 20 []
      else if w.kind = .hmac then run s (hmac384 (slice key 0 48) w.input)
      else if w.kind = .pubkey then run s (ecPubBytes (beNat key))
      else if s.entropyOk = false then s.strongDone 13 []
      else
        let (k, s) := s.drawScalar
        run s (ecdsaSignHash (beNat key) k w.input)

/-- The oldest footer that awaits its signature: its key is loaded, or it goes unsigned where no key can be used, or where the entropy
source fails, so that no signature completes (R333; 13_strongroom.md R389; log entry 142). -/
def State.loadFooter (s : State) : State :=
  let m := if s.entropyOk then s.footerMode else max 2 s.footerMode
  let m := if m = 2 ∧ s.footerMode < 2 then 3 else m
  if m = 0 ∨ m = 1 then
    let k := s.slot 0
    let rec go : List CelClose → List CelClose
      | [] => []
      | c :: l =>
        if c.mode.isNone then 
            { c with loaded := true, parent := k.parent, gens := s.parentGens k.parent, keyGen := k.gen, key := k.key } :: l
          else c :: go l
    s.modCellar fun x => { x with closing := go x.closing }
  else s.settleFooter fun _ => m

/-- Engine 0 takes its next work when it is free (R384): a footer signature first, then the host's operation. Zalu's own operations take
no time in the model (log entry 135). -/
def State.engineNext (s : State) : State :=
  let rec go : Nat → State → State
    | 0, s => s
    | k + 1, s =>
      if s.strong.engine.isSome || s.signing then s
      else if s.cellar.closing.any fun c => c.mode.isNone then go k s.loadFooter
      else match s.strong.waiting with
        | none => s
        | some w => (s.modStrong fun u => { u with waiting := none }).beginHost w
  go (s.cellar.closing.length + 1) s

/-- Extents in the data area. -/
def CelDrive.extents (d : CelDrive) : Nat := (d.cbCount - d.dataStart) / max 1 d.extentCb

/-- A segment closes: GSEQ, protection, and the load of the recording key (R332, R333, R335). -/
def State.closeOne (s : State) (g : CelSeg) (cause : Nat) : State :=
  match s.cellar.drive with
  | none => s
  | some d =>
    let want := g.flags % 2 == 1 && s.on R.cellar_CTRL_PROTECT
    let pct := min 90 (s.get R.cellar_CTRL_PROTECT_PCT)
    let prot := want && decide ((d.protectExt + 1) * 100 ≤ pct * d.extents)
    let s := if want && !prot then (s.bump R.cellar_PROTECT_REFUSED).raise Flag.cellar_PROTECT_REFUSED else s
    let s := s.modDrive fun d => { d with nextGseq := d.nextGseq + 1, protectExt := d.protectExt + (if prot then 1 else 0) }
    let s := s.showSigMode
    let m := s.footerMode
    let c : CelClose :=
      { seg := g, gseq := d.nextGseq, cause := cause, opsec := s.get R.blotter_OP_S, prot := prot,
        mode := if m == 0 || m == 1 then none else some m }
    let s := s.modCellar fun x => { x with closing := x.closing ++ [c] }
    (s.bump R.cellar_SEGMENTS).put (R.cellar_ENTRY_LAST_GSEQ g.entry) (d.nextGseq % 2 ^ 32)

/-- Segments that ended close in order: by the boundary that ends their interval, then entry, then OPEN_ID (R332). -/
def insertEnded (x : CelSeg × Nat) : List (CelSeg × Nat) → List (CelSeg × Nat)
  | [] => [x]
  | y :: l =>
    if x.1.endFrame < y.1.endFrame ∨ (x.1.endFrame = y.1.endFrame ∧ (x.1.entry < y.1.entry ∨ (x.1.entry = y.1.entry ∧ x.1.openId < y.1.openId)))
    then x :: y :: l else y :: insertEnded x l

/-- The Ruling frame in which an audio span starts (R321, R322). -/
def State.spanFrame (s : State) (m : Nat) : Nat :=
  let f := s.rulingFormat
  let back := (((s.audio.k - 960 * m : Nat) : Rat) * f.num * f.lines / (48000 * f.den)).floor.toNat
  (s.ruling.frame * f.lines + s.ruling.line - 1 - back) / f.lines

/-- The next span of an entry's audio. -/
def State.nextSpan (s : State) (n : Nat) : Nat := (s.celEntry n).nextSpan.getD ((s.audio.k - 96) / 960 - 1)

/-- Whether records that belong to an ended segment are still to come: an encode that runs or waits, a record that waits for the ring, an
audio span that started before its bound (R321, R322, R334). -/
def State.segWaits (s : State) (g : CelSeg) : Bool :=
  let n := g.entry
  let e := s.celEntry n
  let early (st i : Nat) : Bool := decide (((s.stream st).slot i).doneFrame < g.bound)
  (s.cellar.engines.any fun x => match x.2 with | .cellar m st i => m == n && early st i | _ => false)
    || (e.job.isSome && (match (s.stream g.stream).newest with | some i => early g.stream i | none => false))
    || (s.cellar.ringWait.any fun r => r.entry == n && decide (r.doneFrame < g.bound))
    || (decide (0 < getBits e.audio 31 27) && s.audioOn && !e.suspended && decide (960 * s.nextSpan n ≤ s.audio.k)
        && decide (s.spanFrame (s.nextSpan n) < g.bound))

/-- Segments that ended close, in the order of R332, once their remaining records are in, or at once (`force`). -/
def State.closeEnded (s : State) (force : Bool := false) : State :=
  let now (s : State) (x : CelSeg × Nat) : Bool := force || x.2 == 1 || !s.segWaits x.1
  let l := (s.entryNums.flatMap fun n => (s.celEntry n).ended.filter (now s)).foldl (fun l x => insertEnded x l) []
  let s := s.each s.entryNums fun s n =>
    if (s.celEntry n).ended.isEmpty then s else s.modEntry n fun e => { e with ended := e.ended.filter fun x => !now s x }
  let s := s.each l fun s x => s.closeOne x.1 x.2
  (s.writeFooters s.cellar.closing.length).showCellar.engineNext

/-- Open segments of entries that select INCIDENT are marked while an incident is active (R317). -/
def State.markIncident (s : State) : State :=
  s.each s.entryNums fun s n =>
    if s.incidentMarks n then
      s.modEntry n fun e => { e with seg := e.seg.map fun g => { g with flags := g.flags ||| 1 } }
    else s

/-- A cause of an incident: it begins or is prolonged, and is marked in every entry (R316, R323, log entry 36). -/
def State.incident (s : State) (source detail : Nat) : State :=
  if s.on R.cellar_CFG_PRESENT then
    let s := s.raiseIf (!s.on R.cellar_STATE_INCIDENT) Flag.cellar_INCIDENT
    let s := (s.put R.cellar_STATE_INCIDENT 1).retrigger
    let s := s.each s.entryNums fun s n => if s.entryOn n then s.markRecord n 0xFF source detail else s
    s.markIncident.showCellar
  else s

/-- A cause that counts only when INC_EVENT enables it. -/
def State.incidentEvent (s : State) (bit source detail : Nat) : State :=
  if (s.get R.cellar_INC_EVENT).testBit bit then s.incident source detail else s

/-- A dispatched CELLAR_MARK (R316, R323). -/
def State.cellarMark (s : State) (code param : Nat) : State :=
  let s := s.each s.entryNums fun s n =>
    if s.entryOn n && (param == 0x7FFF || s.entryStream n == param) then s.markRecord n code 0 0 else s
  let s := if 0x80 ≤ code ∧ (s.get R.cellar_INC_EVENT).testBit 4 = true ∧ s.on R.cellar_CFG_PRESENT = true then
      let s := s.raiseIf (!s.on R.cellar_STATE_INCIDENT) Flag.cellar_INCIDENT
      ((s.put R.cellar_STATE_INCIDENT 1).retrigger).markIncident
    else s
  s.showCellar

/-- A Ruling frame boundary: what ended in the frame before closes, in the order of R332 (log entry 139); segments whose interval ends, and
entries that are to stop, end (R315, R317, R322). A stream that was not LIVE across a segment, none of whose frames it holds, gets its gap
record (R331). -/
def State.cellarBoundary (s : State) : State :=
  if s.celMode = .ready then
    let f := s.ruling.frame
    let s := s.closeEnded
    (s.each s.entryNums fun s n =>
      let e := s.celEntry n
      if e.mode = 0 then s
      else if e.hostStop then
        ((s.modEntry n fun e => { e with seg := e.seg.map fun g => { g with bound := f } }).endSeg n 7).modEntry n fun e =>
          { e with mode := 0, hostStop := false }
      else if f % s.segFrames n = 0 then
        let quiet := s.streamMode (s.entryStream n) != .live && (match e.seg with | some g => g.frames == 0 | none => true)
        let s := if quiet then
            let p := leBytes 1 4 ++ leBytes 3 0 ++ leBytes 4 (e.lastSeq.getD 0) ++ leBytes 4 0 ++ leBytes 6 (f - s.segFrames n) ++ leBytes 2 0
            s.appendRecord { s.newRecord n 5 p (f - 1) with missed := 0 }
          else s
        if e.stopDue then (s.endSeg n 2).modEntry n fun e => { e with mode := 0, stopDue := false } else s.endSeg n 0
      else s).showCellar
  else s

/-- Records go to the drive (R319, R334). -/
def State.writeRecords (s : State) (rs : List CelRecord) : State :=
  if rs.isEmpty then s
  else
    let s := s.each rs fun s r => s.driveBytes r.place.1 r.place.2 r.bytes
    let ids := rs.map (·.id)
    let s := s.modCellar fun c =>
      { c with ring := c.ring.map fun r => if ids.contains r.id then { r with st := 2 } else r, driveDebt := c.driveDebt + bytesIn rs }
    s.nvmeIssue (.records ids)

/-- Every pending record goes to the drive. -/
def State.writePending (s : State) : State := s.settleFresh.writeRecords (s.cellar.ring.filter fun r => r.st == 1)

/-- Every open segment closes with a cause, its records written, and recording ends (R338). -/
def State.closeAll (s : State) (cause : Nat) : State :=
  let s := State.drainRing true s.cellar.ringWait s
  let s := s.each s.entryNums fun s n =>
    (s.endSeg n cause).modEntry n fun e => { e with mode := 0, stopDue := false, suspended := false, job := none }
  s.writePending.closeEnded true

/-- The pre-roll ring is emptied (R338). -/
def State.emptyPreroll (s : State) : State := s.modCellar fun c => { c with ring := c.ring.filter fun r => r.st != 0, ringWait := [] }

/-- A codec cluster with an engine of ROLE 03h is quiesced: frames missed meanwhile count under CODEC_QUIESCE (R314). -/
def State.recordersQuiesced (s : State) : Bool :=
  (List.range 4).any fun c => s.quiesced (40 + c) && (s.fabric.now.codecs.any fun r => r.engine / 8 == c && r.role == 3)

/-- A frame of a stream completes: one job per entry waits (R318 to R320); under shed action 5 an entry that does not record encodes
no pre-roll (14_power_thermal.md R428). -/
def State.queueCellarJobs (s : State) (stream : Nat) : State :=
  if s.celMode = .off then s
  else s.each s.entryNums fun s n =>
    let e := s.celEntry n
    if s.entryOn n && s.entryStream n == stream && (e.mode != 0 || (s.entryPreroll n != 0 && !(s.get R.power_SHED).testBit 5)) then
      if e.suspended then s.missFrame n 2
      else match e.job with
        | some _ => s.missFrame n (if s.recordersQuiesced then 3 else 1)
        | none => (s.modEntry n fun e => { e with job := some s.cellar.jobOrder }).modCellar fun c => { c with jobOrder := c.jobOrder + 1 }
    else s

end Sys2Proof.Machine
end

