-- ==== Sys2Proof/Machine/LinkOps.lean ====
section
/-!
DEFINITION. A Rasyn port's sending, its link state machine and its identity results (03_rasyn_link.md R93 to R121, R511),
and its port power bus (R122 to R124).
-/
namespace Sys2Proof.Machine
open Sys2Proof

/-- The link states of R111. -/
inductive LinkState where
  | off | detect | back | discover | auth | train | align | active | quarantine | fault
  deriving DecidableEq, Repr

def LinkState.code : LinkState → Nat
  | .off => 0 | .detect => 1 | .back => 2 | .discover => 3 | .auth => 4 | .train => 5 | .align => 6 | .active => 7
  | .quarantine => 8 | .fault => 9

def LinkState.ofCode : Nat → LinkState
  | 1 => .detect | 2 => .back | 3 => .discover | 4 => .auth | 5 => .train | 6 => .align | 7 => .active | 8 => .quarantine
  | 9 => .fault | _ => .off

def State.link (s : State) (n : Nat) : LinkState := LinkState.ofCode (s.get (R.port_LINK_STATE_STATE n))
def State.setLink (s : State) (n : Nat) (l : LinkState) : State :=
  (s.put (R.port_LINK_STATE_STATE n) l.code).put (R.port_LINK_STATE_QUARANTINED n) (if l = .quarantine then 1 else 0)

/-- The policy in force: 0 BLOCK, 1 VIEW_MARKED, 2 ADMIT; 3 acts as 0. A written one waits for the frame boundary (R117). -/
def State.quarPolicy (s : State) (n : Nat) : Nat := (s.port n).policy % 3

def State.bcUp (s : State) (n : Nat) : Bool := s.on (R.port_LINK_STATE_BC_UP n)

/-- The link is in ACTIVE or QUARANTINE. -/
def State.isUp (s : State) (n : Nat) : Bool := s.link n == .active || s.link n == .quarantine

/-- The bytes of a packet (R99). -/
def packetBytes (typ vc flags tag : Nat) (payload : List Byte) : List Byte :=
  let h := [BitVec.ofNat 8 (16 * typ + vc), BitVec.ofNat 8 flags] ++ leBytes 2 payload.length ++ leBytes 2 tag
  let h := h ++ leBytes 2 (crc16 h).toNat
  if payload.isEmpty then h else h ++ payload ++ leBytes 4 (crc32 payload).toNat

/-- A packet with the next TAG of its channel and type, on the lane the device sends (R99). A back channel that is down
carries none (R511). -/
def State.sendPacket (s : State) (n typ vc : Nat) (payload : List Byte) : State :=
  if s.rasynIn n && !s.bcUp n then s
  else
    let t := Sparse.get (fun _ => 0) (s.port n).txTags (16 * typ + vc)
    let s := s.modPort n fun p => { p with txTags := Sparse.set (fun _ => 0) p.txTags (16 * typ + vc) ((t + 1) % 65536) }
    s.emit (.packet n (packetBytes typ vc 0 t payload))

/-- A CTRL payload: sub-header and data. -/
def ctrlPayload (msgId kind opcode reason : Nat) (data : List Byte) : List Byte :=
  leBytes 1 msgId ++ leBytes 1 kind ++ leBytes 1 opcode ++ leBytes 1 reason ++ data

/-- The host mailbox's requests have MSG_ID 00h to 7Fh (R107). -/
def CtrlReq.byHost (r : CtrlReq) : Bool := decide (r.msgId < 128)

/-- An originator's requests that are sent and not yet acknowledged. -/
def PortState.outstanding (p : PortState) (host : Bool) : Nat :=
  (p.reqs.filter fun r => r.tries != 0 && r.byHost == host).length

/-- The oldest waiting request is sent whose originator has fewer than 4 outstanding (R107). -/
def State.sendWaiting (s : State) (n : Nat) : State :=
  let p := s.port n
  match p.reqs.find? fun r => r.tries == 0 && decide (p.outstanding r.byHost < 4) with
  | none => s
  | some r =>
    let s := s.modPort n fun p =>
      { p with reqs := p.reqs.map fun x => if x.msgId = r.msgId then { x with tries := 1 } else x }
    s.sendPacket n 6 r.vc (ctrlPayload r.msgId 0 r.opcode 0 r.data)

/-- A request of the host mailbox (MSG_ID 00h to 7Fh) or of the device itself (80h to FFh), kept until acknowledged; it waits
while its originator has 4 outstanding (R107). -/
def State.ctrlRequest (s : State) (n : Nat) (host : Bool) (opcode vc : Nat) (data : List Byte) : State :=
  let p := s.port n
  let id := if host then p.nextHostId else 128 + p.nextFwId
  (s.modPort n fun p =>
    { p with reqs := p.reqs ++ [⟨id, opcode, vc, data, 0⟩],
             nextHostId := if host then (p.nextHostId + 1) % 128 else p.nextHostId,
             nextFwId := if host then p.nextFwId else (p.nextFwId + 1) % 128 }).sendWaiting n

/-- A request is over; the next one that waits is sent. -/
def State.endRequest (s : State) (n : Nat) (r : CtrlReq) : State :=
  (s.modPort n fun p => { p with reqs := p.reqs.filter fun x => x.msgId != r.msgId }).sendWaiting n

/-- A hold that a port refuses: HOLD 00h to the ports that acknowledged, now or later, and the static frames are counted again
(08_raster_out.md R248). -/
def State.holdRefused (s : State) (f : Nat) : State :=
  let s := s.each (s.folioPorts f) fun s n =>
    let reply := (s.port n).holdReply
    let s := s.modPort n fun p => { p with holdReply := if reply = 1 then 4 else 0 }
    if reply = 2 then s.ctrlRequest n false 7 0 (leBytes 1 0) else s
  (s.modFolio f fun x => { x with holdAsked := false, still := 0, holdWait := max 1 (s.get (R.folio_HOLD_CTRL_HOLD_FRAMES f)) }).raise (Flag.folio_RASTER_HOLD_FAIL f)

/-- The MSG_ID of the device's next request on a port. -/
def State.nextMsg (s : State) (n : Nat) : Nat := 128 + (s.port n).nextFwId

/-- The answer to the MODE_CHANGE or HOLD that a raster awaits, 2 for ACK and 3 for NAK, TIMEOUT or a lost link; it is known by its
MSG_ID (08_raster_out.md R248, R252). -/
def State.displayReply (s : State) (n msgId reply : Nat) : State :=
  let p := s.port n
  if msgId = p.modeMsg ∧ p.modeReply = 1 then
    let s := s.modPort n fun p => { p with modeReply := reply }
    match s.folioOfPort n with
    | some f => if reply = 3 then s.raise (Flag.folio_RASTER_MODE_NAK f) else s
    | none => s
  else if msgId = p.holdMsg ∧ p.holdReply = 4 then
    let s := s.modPort n fun p => { p with holdReply := 0 }
    if reply = 2 then s.ctrlRequest n false 7 0 (leBytes 1 0) else s
  else if msgId = p.holdMsg ∧ p.holdReply = 1 then
    let s := s.modPort n fun p => { p with holdReply := reply }
    match s.folioOfPort n with
    | some f => if reply = 3 ∧ (s.folio f).holdAsked = true then s.holdRefused f else s
    | none => s
  else s

/-- A request of the host completes (R107, R113). -/
def State.ctrlComplete (s : State) (n status : Nat) : State :=
  (s.complete (Reg.port_CTRL_RESULT n) status).raise (Flag.port_CTRL_DONE n)

/-- A request of the host that ends without an answer: the result words hold zeros (R14, log entry 118). -/
def State.ctrlUnanswered (s : State) (n status : Nat) : State :=
  let s := s.each [R.port_CTRL_RESP_HDR_OPCODE n, R.port_CTRL_RESP_HDR_REASON n, R.port_CTRL_RESP_HDR_LENGTH n] fun s f => s.put f 0
  (s.putBytes (Reg.port_CTRL_RESP_DATA n 0) (List.replicate 64 0)).ctrlComplete n status

/-- Every outstanding host request completes with LINK_DOWN (R113); the device's own are dropped. -/
def State.dropRequests (s : State) (n : Nat) : State :=
  let host := (s.port n).reqs.any CtrlReq.byHost
  let s := s.modPort n fun p => { p with reqs := [], modeReply := if p.modeReply = 1 then 3 else p.modeReply }
  let s := s.displayReply n (s.port n).holdMsg 3
  if host then s.ctrlUnanswered n 3 else s

/-- The state R116 gives a result under the present policy. -/
def State.authLink (s : State) (n result : Nat) : LinkState :=
  if result = 1 then .active
  else if result ≠ 4 ∧ s.quarPolicy n = 2 then .active else .quarantine

/-- Whether the link is up or in a retrain, so that leaving it is a LINK_DOWN (R113). -/
def State.linkWasUp (s : State) (n : Nat) : Bool :=
  s.isUp n || (s.port n).retraining

/-- The link leaves for DETECT, FAULT or OFF: events and requests of R113. -/
def State.linkDown (s : State) (n : Nat) : State :=
  if s.linkWasUp n then
    let left := (s.link n).code
    let s := (s.dropRequests n).abandonPort n
    ((s.raise (Flag.port_LINK_DOWN n)).blotter 0x0502 n (leBytes 1 left)).incidentEvent 0 3 n
  else s.dropRequests n

/-- The ports whose receivers serve a link: both lanes of a bonded pair (R95). -/
def State.lanes (s : State) (n : Nat) : List Nat := if s.portMode n = 5 ∨ s.portMode n = 6 then [n, n + 1] else [n]

/-- Every lane's receiver forgets its locks and the packet stream starts anew (R95, R98, R101; log entry 115). -/
def State.relock (s : State) (n : Nat) : State :=
  let s := s.each (s.lanes n) fun s m =>
    ((s.put (R.port_LINK_STATE_BLOCK_LOCK m) 0).put (R.port_LINK_STATE_FEC_LOCK m) 0).modPort m fun p =>
      { p with headerRun := 0, headerBad := 0, frameRun := 0, frameBad := 0, frameLock := false, laneSeq := none }
  s.modPort n fun p => { p with nextSeq := none, held := [], lane := [], packetLock := false }

/-- Block and frame lock on every lane, and packet lock (R98, R101). -/
def State.locked (s : State) (n : Nat) : Bool :=
  (s.port n).packetLock && (s.lanes n).all fun m => (s.port m).frameLock && s.on (R.port_LINK_STATE_BLOCK_LOCK m)

/-- What a start from DETECT discards: descriptor, identity and locks (R111, R112). -/
def State.discardEndpoint (s : State) (n : Nat) : State :=
  let s := s.putBytes (Reg.port_DESC n 0) (List.replicate 256 0)
  let s := s.putBytes (Reg.port_KEY_HASH n 0) (List.replicate 48 0)
  let s := s.each [R.port_LINK_STATE_AUTH_RESULT n, R.port_LINK_STATE_BC_UP n] fun s f => s.put f 0
  (s.relock n).modPort n fun p =>
    { p with descParts := [], nonce := none, reauth := false, pendAuth := none, pendPolicy := false, retraining := false,
             alignFails := 0, rx := [], vcFrames := [], seenIds := [], echoes := [] }

/-- Entry to DETECT (R111). -/
def State.enterDetect (s : State) (n : Nat) : State :=
  let s := (s.linkDown n).discardEndpoint n
  let s := s.modPort n fun p => { p with bcSeen := false }
  (s.setLink n .detect).bump (R.port_BRINGUPS n)

/-- Whether a link may run: a Rasyn mode, ENABLE, and no unit of it quiesced or unpowered. -/
def State.linkAllowed (s : State) (n : Nat) : Bool := s.rasyn n && s.on (R.port_LINK_CTRL_ENABLE n)

/-- The link is held in OFF. -/
def State.enterOff (s : State) (n : Nat) : State := ((s.linkDown n).discardEndpoint n).setLink n .off

/-- The bus word of R122: OP, address, channel, ARG and an even parity bit, most significant first. -/
def ppbWord (op port arg : Nat) : BitVec 17 :=
  let w := op * 4096 + (port % 16 / 4) * 1024 + (port % 4) * 256 + arg % 256
  BitVec.ofNat 17 (2 * w + (bitsOf (BitVec.ofNat 16 w)).foldl (fun n b => if b then (n + 1) % 2 else n) 0)

/-- A reply with ACK 1 and good parity: its DATA (R122). -/
def ppbReply (w : BitVec 17) : Option (BitVec 12) :=
  if w.getLsbD 16 && (bitsOf w).foldl (fun n b => if b then !n else n) true then some (w.extractLsb' 1 12) else none

/-- One transaction with the replies it meets: a bad one is retried once, then the port reads CTRL_ABSENT (R122). DESIGN
CHOICE (log entry 120): the next good reply clears CTRL_ABSENT, of whose end the spec says nothing. -/
def State.ppb (s : State) (port op arg : Nat) (replies : List (BitVec 17)) : Option (BitVec 12) × State :=
  let s := s.emit (.ppb (port / 16) (ppbWord op port arg))
  match replies.head?.bind ppbReply with
  | some d => (some d, s.put (R.port_PWR_STAT_CTRL_ABSENT port) 0)
  | none =>
    let s := s.emit (.ppb (port / 16) (ppbWord op port arg))
    match (replies.drop 1).head?.bind ppbReply with
    | some d => (some d, s.put (R.port_PWR_STAT_CTRL_ABSENT port) 0)
    | none => (none, s.put (R.port_PWR_STAT_CTRL_ABSENT port) 1)

/-- Whether the port power bus of a port is under the device's control; in STANDBY its lines are released (R124). -/
def State.ppbOwned (s : State) (n : Nat) : Bool := s.on (R.port_PORT_CFG_PPB n) && s.get R.power_PWR_STATE_STATE != 2

/-- A power command with no other effect. -/
def State.ppbSend (s : State) (port op arg : Nat) (replies : List (BitVec 17)) : State := (s.ppb port op arg replies).2

/-- A power cycle starts; during a cycle only its wait starts again (R124). -/
def State.startCycle (s : State) (n : Nat) (replies : List (BitVec 17)) : State :=
  if (s.port n).cycling then s
  else
    let s := (s.ppbSend n 2 0 replies).bump (R.port_PWR_CYCLES_COUNT n)
    s.modPort n fun p => { p with cycling := true }

/-- Entry to FAULT (R111) with its cause; three in a row with a dark back channel cycle the port once (R124). -/
def State.enterFault (s : State) (n cause : Nat) (replies : List (BitVec 17) := []) : State :=
  let dark := !(s.port n).bcSeen
  let s := (s.linkDown n).put (R.port_LINK_STATE_FAULT_CAUSE n) cause
  let s := s.put (R.port_LINK_STATE_BC_UP n) 0
  let s := s.setLink n .fault
  let s := s.modPort n fun p =>
    { p with retraining := false, alignFails := 0, nonce := none, frameLock := false, packetLock := false,
             darkFaults := if dark then p.darkFaults + 1 else 0 }
  let p := s.port n
  if s.on (R.port_PWR_CTRL_AUTO_CYCLE n) && s.ppbOwned n && !s.on (R.port_PWR_STAT_LOCKOUT n) && decide (3 ≤ p.darkFaults)
      && !p.autoCycled then
    (s.modPort n fun p => { p with autoCycled := true, darkFaults := 0 }).startCycle n replies
  else s

/-- The forward lane's preset training starts (R111, R108). -/
def State.enterTrain (s : State) (n : Nat) : State :=
  let s := (s.setLink n .train).relock n
  let s := s.modPort n fun p => { p with trainPreset := 0 }
  s.ctrlRequest n false 0x10 0 (leBytes 1 (max 1 (s.get (R.port_RETRAIN_CFG_DWELL n))))

/-- A retrain (R112): it keeps the back channel, the descriptor and the identity result; the frames being written are abandoned
(05_ingest_inkwell.md R142) and the error counts of the second begin anew (log entry 119). -/
def State.startRetrain (s : State) (n : Nat) : State :=
  if s.isUp n then
    let s := (s.abandonPort n).modPort n fun p =>
      { p with retraining := true, alignFails := 0, hcrcSecond := 0, uncorrSecond := 0, vcFrames := [] }
    ((s.bump (R.port_RETRAINS n)).raise (Flag.port_RETRAIN n)).enterTrain n
  else s

/-- ALIGN has its locks: the link is up (R111, R113). -/
def State.linkUp (s : State) (n : Nat) : State :=
  let result := s.get (R.port_LINK_STATE_AUTH_RESULT n)
  let target := s.authLink n result
  let retrain := (s.port n).retraining
  let s := s.setLink n target
  let s := s.modPort n fun p => { p with retraining := false, alignFails := 0, darkFaults := 0, autoCycled := false }
  let s := if retrain then s else s.raise (Flag.port_LINK_UP n)
  if target = .quarantine then (s.raise (Flag.port_QUARANTINE n)).incidentEvent 1 3 n else s

/-- ALIGN ends when block, frame and packet lock hold (R111). -/
def State.alignDone (s : State) (n : Nat) : State :=
  if s.link n = .align ∧ s.locked n = true then s.linkUp n else s

/-- The challenge of R115; without a working DRBG it is not sent (R389). -/
def State.challenge (s : State) (n : Nat) (reauth : Bool) : State :=
  if s.entropyOk then
    let (nonce, s) := s.draw 48
    let s := s.modPort n fun p => { p with nonce := some nonce, reauth := reauth }
    s.sendPacket n 8 0 ([0x01, 0, 0, 0, BitVec.ofNat 8 n, 0, 0, 0] ++ nonce)
  else s.modPort n fun p => { p with nonce := none, reauth := reauth }

/-- Where H stands in the pairing list for a port (R116, R118): 1, 2, 3 or 7. -/
def State.pairResult (s : State) (n : Nat) (h : List Byte) : Nat :=
  if s.on R.strongroom_STATE_LIST_OK then
    match s.pairFind h with
    | none => 2
    | some i =>
      let e := s.pairEntry i
      if pairRevoked e then 2
      else
        let b := leAt e 48 1
        if b = n ∨ b = 0xFF then 1 else 3
  else 7

/-- AUTH_RESULT is written (R116). -/
def State.setAuth (s : State) (n result : Nat) : State :=
  let changed := s.get (R.port_LINK_STATE_AUTH_RESULT n) != result
  let s := (s.put (R.port_LINK_STATE_AUTH_RESULT n) result).raise (Flag.port_AUTH_DONE n)
  if changed then
    (s.put (R.port_AUTH_TIME n) (s.get R.blotter_OP_S)).blotter 0x0501 n (leBytes 1 result)
  else s

/-- A result reached in AUTH leads to TRAIN; one reached with the link up waits for the frame boundary (R116, R119). -/
def State.authOutcome (s : State) (n result : Nat) : State :=
  let p := s.port n
  let s := s.modPort n fun p => { p with nonce := none, reauth := false }
  if s.link n = .auth then (s.setAuth n result).enterTrain n
  else if p.reauth then s.modPort n fun p => { p with pendAuth := some result }
  else s

/-- The hash of the endpoint's key that KEY_HASH holds. -/
def State.keyHash (s : State) (n : Nat) : List Byte := s.getBytes (Reg.port_KEY_HASH n 0) 12

/-- After any change to the pairing list every port in ACTIVE or QUARANTINE, or in a retrain of it, is evaluated again with its
stored H; the result waits for the next Ruling frame boundary (R119). A failure of a new challenge that waits there stays. -/
def State.reevaluate (s : State) : State :=
  s.each (List.range 96) fun s n =>
    let now := s.get (R.port_LINK_STATE_AUTH_RESULT n)
    let r := (s.port n).pendAuth.getD now
    if s.linkWasUp n = true ∧ (r = 1 ∨ r = 2 ∨ r = 3 ∨ r = 7) then
      let x := s.pairResult n (s.keyHash n)
      s.modPort n fun p => { p with pendAuth := if x = now then none else some x }
    else s

/-- The list is checked (R388): LIST_OK shows the result, a change of it raises LIST_CHANGE. -/
def State.checkList (s : State) : State :=
  let ok := s.listGood
  let changed := s.on R.strongroom_STATE_LIST_OK != ok
  let s := s.put R.strongroom_STATE_LIST_OK (if ok then 1 else 0)
  (s.raiseIf changed Flag.strongroom_LIST_CHANGE).reevaluate

/-- A move between ACTIVE and QUARANTINE, or a result that changes none (R113, R116). -/
def State.settleAuth (s : State) (n : Nat) : State :=
  if s.isUp n then
    let t := s.authLink n (s.get (R.port_LINK_STATE_AUTH_RESULT n))
    let s' := s.setLink n t
    if t = .quarantine ∧ s.link n ≠ .quarantine then (s'.raise (Flag.port_QUARANTINE n)).incidentEvent 1 3 n else s'
  else s

/-- What waits for the Ruling frame boundary on every port: results and policies (R117, R119). -/
def State.portsBoundary (s : State) : State :=
  s.each (List.range 96) fun s n =>
    let p := s.port n
    let s := match p.pendAuth with
      | none => s
      | some r => if s.isUp n || p.retraining then s.setAuth n r else s
    let s := s.modPort n fun p => { p with policy := s.get (R.port_LINK_CTRL_QUAR_POLICY n) }
    let s := if p.pendAuth.isSome || p.pendPolicy then s.settleAuth n else s
    s.modPort n fun p => { p with pendAuth := none, pendPolicy := false }

/-- Whether a port delivers pictures, sound and metadata (R111, R117). -/
def State.delivers (s : State) (n : Nat) : Bool :=
  s.link n == .active || (s.link n == .quarantine && s.quarPolicy n != 0 && s.get (R.port_LINK_STATE_AUTH_RESULT n) != 4)

/-- Whether a port delivers a packet of a VC. A frame in progress ends as it began; a change counts from the next frame that
starts, and at once for packets of no frame (R117). -/
def State.deliversPacket (s : State) (n : Nat) (k : Packet) : Bool × State :=
  let now := s.delivers n
  if k.typ = 1 ∨ k.typ = 2 then
    let seq := leAt k.payload 0 2
    let f := Sparse.get (fun _ => (65536, false)) (s.port n).vcFrames k.vc
    let b := if f.1 = seq ∧ k.sof = false then f.2 else now
    (b, s.modPort n fun p => { p with vcFrames := Sparse.set (fun _ => (65536, false)) p.vcFrames k.vc (seq, b) })
  else (now, s)

/-- The port whose block carries a lane: the even port of a bonded pair (R95). -/
def State.lanePort (s : State) (n : Nat) : Nat := if s.portMode n = 7 then n - 1 else n

end Sys2Proof.Machine
end

