-- ==== Sys2Proof/Machine/Link.lean ====
section
/-!
DEFINITION. The commands of the Rasyn ports and the port power buses (03_rasyn_link.md R93 to R124, R511) that reach no
other unit.
-/
namespace Sys2Proof.Machine
open Sys2Proof

/-- R111: 0 holds the link in OFF, 1 lets it enter DETECT. -/
def execLinkEnableWrite (port : Fin 96) (en : Bool) (s : State) : Result :=
  s.rowWrite (Reg.port_LINK_CTRL port) fun s =>
  let s := s.put (R.port_LINK_CTRL_ENABLE port) (if en then 1 else 0)
  if s.rasyn port then
    if en then .next (if s.link port = .off then s.enterDetect port else s)
    else .next (s.enterOff port)
  else .next s

def execLinkRestart (port : Fin 96) (s : State) : Result :=
  s.rowWrite (Reg.port_LINK_CTRL port) fun s =>
  .next (if s.linkAllowed port then s.enterDetect port else s)

/-- R112: ignored in DETECT to ALIGN, of a bring-up or of a retrain. -/
def execLinkRetrainRequest (port : Fin 96) (s : State) : Result :=
  s.rowWrite (Reg.port_LINK_CTRL port) fun s =>
  .next (if s.rasyn port then s.startRetrain port else s)

/-- The counters of a Rasyn port, or of an SDI port (R121, 04_sdi_ports.md R126). -/
def State.portCounters (s : State) (n : Nat) : List Fld :=
  if s.sdiIn n || s.sdiOut n then
    [R.port_CRC_ERR_Y n, R.port_CRC_ERR_C n, R.port_LNUM_ERR n, R.port_ANC_CSUM_ERR n, R.port_ANC_DROP n, R.port_LOSS_COUNT n]
  else
    [R.port_FEC_CORR_SYM n, R.port_FEC_CORR_CW n, R.port_FEC_UNCORR_CW n, R.port_HCRC_ERR n, R.port_PCRC_ERR n,
      R.port_PKT_TYPE_UNK n, R.port_VIDEO_SEG_LOST n, R.port_BC_CODE_ERR n, R.port_CTRL_RETRY n, R.port_CTRL_FAIL n,
      R.port_RETRAINS n, R.port_BRINGUPS n, R.port_RX_DROP n]

/-- Counters zeroed in one cycle; bit i of `hits` says that counter i is incremented in that same cycle and ends at 1
(R121, 18_register_map.md R506). -/
def State.clearCounters (s : State) (fs : List Fld) (hits : BitVec 32) : State :=
  s.each fs.zipIdx fun s p => s.put p.1 (if hits.getLsbD p.2 then 1 else 0)

def execPortClrCnt (port : Fin 96) (hits : BitVec 32) (s : State) : Result :=
  s.rowWrite (Reg.port_PORT_CFG port) fun s =>
  .next (s.clearCounters (s.portCounters port) hits)

/-- R117: the new policy waits for the next Ruling frame boundary. -/
def execQuarPolicyWrite (port : Fin 96) (policy : BitVec 2) (s : State) : Result :=
  s.rowWrite (Reg.port_LINK_CTRL port) fun s =>
  let s := s.put (R.port_LINK_CTRL_QUAR_POLICY port) policy.toNat
  .next (s.modPort port fun p => { p with pendPolicy := true })

/-- R111: energy is found; BACK. -/
def execLinkSignalDetect (port : Fin 96) (s : State) : Result :=
  .next (if s.link port = .detect then s.setLink port .back else s)

/-- R111: the receiver is re-initialised; what it holds of the line code is forgotten. -/
def execDetectReinit (port : Fin 96) (s : State) : Result :=
  .next (if s.link port = .detect then (s.relock port).modPort port fun p => { p with descrambler := 0 } else s)

/-- The four DESC_READs of DISCOVER (R114). -/
def State.enterDiscover (s : State) (n : Nat) : State :=
  let s := (s.setLink n .discover).modPort n fun p => { p with descParts := [] }
  s.each [0, 64, 128, 192] fun s o => s.ctrlRequest n false 0x01 0 [BitVec.ofNat 8 o, 0]

/-- R105, R511. -/
def execBackChannelUp (port : Fin 96) (s : State) : Result :=
  if s.link port = .off ∨ s.link port = .detect ∨ s.link port = .fault then .next s
  else
    let s := (s.put (R.port_LINK_STATE_BC_UP port) 1).modPort port fun p => { p with bcSeen := true }
    .next (if s.link port = .back then s.enterDiscover port else s)

/-- R105, R511: BC_UP is cleared at once, the link keeps its state. -/
def execBackChannelLost (port : Fin 96) (codeErrors : Nat) (s : State) : Result :=
  .next ((s.bumpBy (R.port_BC_CODE_ERR port) codeErrors).put (R.port_LINK_STATE_BC_UP port) 0)

/-- R511, R112: the back channel stayed down for 10 ms. -/
def execBackChannelLossTimeout (port : Fin 96) (s : State) : Result :=
  if s.bcUp port ∨ s.link port = .off ∨ s.link port = .detect ∨ s.link port = .back ∨ s.link port = .fault then .next s
  else .next (s.enterDetect port)

/-- The descriptor the four reads brought. -/
def PortState.descriptor (p : PortState) : List Byte :=
  [0, 64, 128, 192].flatMap fun o => Sparse.get (fun _ => []) p.descParts o

/-- R114: the checks in their order, then AUTH with its challenge (R115). DESIGN CHOICE (log entry 121): the descriptor is copied
and DESC_READY raised before the checks, also for one whose MAGIC or DCRC is wrong. -/
def execDiscoverComplete (port : Fin 96) (s : State) : Result :=
  if s.link port = .discover then
    let d := (s.port port).descriptor
    if d.length < 256 then .next s
    else
      let s := (s.putBytes (Reg.port_DESC port 0) d).raise (Flag.port_DESC_READY port)
      let role := leAt d 5 1
      let roleOk := if s.rasynIn port then role == 1 || role == 3 else role == 2 || role == 3
      if slice d 0 4 ≠ [0x52, 0x53, 0x59, 0x44] ∨ leAt d 252 4 ≠ (crc32 (slice d 0 252)).toNat then
        .next (s.enterFault port 2)
      else if roleOk = false then .next (s.enterFault port 7)
      else if (leAt d 28 1).testBit (s.get (R.port_PORT_CFG_RATE port)) = false then .next (s.enterFault port 4)
      else .next ((s.setLink port .auth).challenge port false)
  else .next s

/-- Takes the oldest routed packet of a port when `f` accepts it. -/
def State.takePacket (s : State) (n : Nat) (f : Packet → Bool) : Option (Packet × State) :=
  match (s.port n).rx with
  | [] => none
  | k :: rest => if f k then some (k, s.modPort n fun p => { p with rx := rest }) else none

/-- The message an endpoint signs (R115). -/
def identMessage (nonce : List Byte) (n : Nat) (desc : List Byte) : List Byte :=
  asciiBytes "RSYN-ID1" ++ nonce ++ leBytes 1 n ++ sha384 desc

/-- R116: signature, H and pairing list. -/
def execIdentResponse (port : Fin 96) (s : State) : Result :=
  match s.takePacket port fun k => k.typ == 8 && leAt k.payload 0 1 == 2 with
  | none => .next s
  | some (k, s) =>
    match (s.port port).nonce with
    | none => .next s
    | some nonce =>
      let d := s.getBytes (Reg.port_DESC port 0) 64
      let key := slice d 136 97
      let h := sha384 key
      if ecdsaVerify key (identMessage nonce port d) (slice k.payload 4 96) then
        let s := s.putBytes (Reg.port_KEY_HASH port 0) h
        .next (s.authOutcome port (s.pairResult port h))
      else .next ((s.putBytes (Reg.port_KEY_HASH port 0) h).authOutcome port 4)

def execIdentNoKey (port : Fin 96) (s : State) : Result :=
  match s.takePacket port fun k => k.typ == 8 && leAt k.payload 0 1 == 3 with
  | none => .next s
  | some (_, s) => .next (if (s.port port).nonce.isSome then s.authOutcome port 5 else s)

/-- R116: no reply within 200 ms, also when no challenge was sent (R389). -/
def execAuthTimeout (port : Fin 96) (s : State) : Result :=
  .next (if s.link port = .auth ∨ (s.port port).reauth then s.authOutcome port 6 else s)

/-- The preset with the fewest errors, the lowest of equals (log entry 21). -/
def bestPreset (counts : List Nat) : Nat :=
  (counts.zipIdx.foldl (fun (b : Option (Nat × Nat)) p =>
    match b with | none => some (p.1, p.2) | some (c, i) => if p.1 < c then some (p.1, p.2) else some (c, i)) none).elim 0 (·.2)

/-- R111, R108: the best preset is selected; ALIGN. On an input port the device counts the errors itself and sends them as
TRAIN_RESULT; on an output port they come in the display's TRAIN_RESULT, which is acknowledged and remembered (R107). -/
def execTrainResult (port : Fin 96) (counts : List (BitVec 32)) (s : State) : Result :=
  if s.link port = .train then
    let select (s : State) (c : List Nat) : State :=
      let b := bestPreset c
      let s := ((s.put (R.port_LINK_STATE_PRESET port) b).setLink port .align).relock port
      s.ctrlRequest port false 0x12 0 (leBytes 1 b)
    if s.rasynIn port then
      let c := (List.range 8).map fun i => (counts.getD i 0).toNat
      .next (select (s.ctrlRequest port false 0x11 0 (c.flatMap (leBytes 4))) c)
    else match s.takePacket port fun k => k.typ == 6 && leAt k.payload 2 1 == 0x11 with
      | none => .next s
      | some (k, s) =>
        let id := leAt k.payload 0 1
        let s := s.modPort port fun p => { p with seenIds := (id :: p.seenIds).take 32 }
        let s := s.sendPacket port 6 k.vc (ctrlPayload id 1 0x11 0 [])
        .next (select s ((List.range 8).map fun i => leAt k.payload (4 + 4 * i) 4))
  else .next s

/-- R111: the bring-up timeouts. -/
def execLinkStateTimeout (port : Fin 96) (replies : List (BitVec 17)) (s : State) : Result :=
  match s.link port with
  | .back => .next (s.enterFault port 1 replies)
  | .discover => .next (s.enterFault port 3)
  | .train => .next (s.enterFault port 5)
  | .align =>
    let n := (s.port port).alignFails + 1
    if 3 ≤ n then .next (s.enterFault port 6)
    else .next ((s.modPort port fun p => { p with alignFails := n }).enterTrain port)
  | _ => .next s

def execFaultHoldExpiry (port : Fin 96) (s : State) : Result :=
  .next (if s.link port = .fault then s.enterDetect port else s)

/-- On an output port the transmitter moves to the next preset of TRAIN. -/
def execPresetDwellExpiry (port : Fin 96) (s : State) : Result :=
  .next (if s.link port = .train then s.modPort port fun p => { p with trainPreset := min 7 (p.trainPreset + 1) } else s)

/-- A unit of R112's per-second error counts reaches its limit. -/
def limitReached (count limit : Nat) : Bool := limit != 0 && decide (limit ≤ count)

/-- The number of 1 bits. -/
def ones {w : Nat} (b : BitVec w) : Nat := (bitsOf b).foldl (fun n x => if x then n + 1 else n) 0

/-- The state of block lock (R98): the run of valid headers, the invalid ones of the last 64, the lock, and whether it was lost. -/
structure BlockSync where
  run : Nat
  bad : BitVec 64
  lock : Bool
  lost : Bool

/-- The sync headers of a frame's blocks, taken in turn (R98). -/
def headerStep (x : BlockSync) (h : BitVec 2) : BlockSync :=
  let good := h == 1 || h == 2
  let run := if good then x.run + 1 else 0
  let bad := (x.bad <<< 1) ||| (if good then 0 else 1)
  if x.lock && decide (16 ≤ ones bad) then ⟨run, bad, false, true⟩ else ⟨run, bad, x.lock || decide (64 ≤ run), x.lost⟩

/-- Frames of a bonded pair are delivered in the order of FRAME_SEQ (R95). -/
def drainHeld : Nat → Nat → List (Nat × List (Byte × Bool)) → Nat × List (Nat × List (Byte × Bool)) × List (Byte × Bool)
  | 0, q, h => (q, h, [])
  | n + 1, q, h =>
    match h.find? fun x => x.1 == q with
    | none => (q, h, [])
    | some x =>
      let (q', h', l) := drainHeld n ((q + 1) % 16) (h.filter fun y => y.1 != q)
      (q', h', x.2 ++ l)

/-- Bytes of a frame reach the packet stream of port `n`. -/
def State.laneBytes (s : State) (n : Nat) (bonded : Bool) (seq : Nat) (bs : List (Byte × Bool)) : State :=
  if bonded then
    s.modPort n fun p =>
      let (q, h, l) := drainHeld 16 (p.nextSeq.getD seq) (p.held ++ [(seq, bs)])
      { p with nextSeq := some q, held := h, lane := p.lane ++ l }
  else s.modPort n fun p => { p with lane := p.lane ++ bs }

/-- The corrections of a codeword are counted, or that it could not be corrected (none); `port` is the lane's, `n` the link's (R95). -/
def State.countFec (s : State) (n port : Nat) (corrected : Option Nat) : State :=
  match corrected with
  | some 0 => s
  | some k => ((s.bumpBy (R.port_FEC_CORR_SYM port) k).bump (R.port_FEC_CORR_CW port)).addLoad (100 + n / 4) k
  | none => (s.bump (R.port_FEC_UNCORR_CW port)).modPort n fun p => { p with uncorrSecond := p.uncorrSecond + 1 }

/-- The codeword of a frame is decoded, and its bytes go to the link; answers whether it could not be corrected (R95, R96). -/
def State.fecPayload (s : State) (n port : Nat) (bits : List Bool) : Bool × State :=
  let bonded := s.portMode n == 5
  let syms := (pieces 10 544 bits).map natOfBits
  let decoded := rsDecode syms
  let msg := match decoded with | some (m, _) => m | none => syms.take 514
  let mb := msg.flatMap fun x => bitsOf (BitVec.ofNat 10 x)
  let damaged := decoded.isNone
  let sent := natOfBits (mb.take 4)
  let seq := if damaged then (s.port port).laneSeq.getD sent else sent
  let s := (s.countFec n port (decoded.map (·.2))).modPort port fun p => { p with laneSeq := some ((seq + if bonded then 2 else 1) % 16) }
  (damaged, s.laneBytes n bonded seq ((bytesOfBits 642 (mb.drop 4)).map fun b => (b, damaged)))

/-- What a frame does to its lane: block lock, frame lock, whether either was lost, the descrambled bits and the receiver's state. -/
structure LaneStep where
  block : Bool
  frame : Bool
  lost : Bool
  bits : List Bool
  port : PortState

/-- A lane takes 85 blocks (R97, R98), each a sync header in bits 1:0 and 64 scrambled payload bits above it. -/
def laneStep (p : PortState) (block : Bool) (blocks : List (BitVec 66)) : LaneStep :=
  let heads := blocks.map fun b => b.extractLsb' 0 2
  let sync := heads.foldl headerStep ⟨p.headerRun, p.headerBad, block, false⟩
  let inPlace := heads.head? == some 1 && (heads.drop 1).all fun h => h != 1
  let frameRun := if inPlace then p.frameRun + 1 else 0
  let frameBad := if inPlace then 0 else p.frameBad + 1
  let frame := sync.lock && !sync.lost && (if p.frameLock then decide (frameBad < 4) else decide (4 ≤ frameRun))
  let (reg, bits) := descramble p.descrambler (blocks.flatMap fun b => bitsOf (b.extractLsb' 2 64))
  { block := sync.lock, frame := frame, lost := sync.lost || (p.frameLock && !frame), bits := bits
    port := { p with headerRun := sync.run, headerBad := sync.bad, frameRun := if sync.lost then 0 else frameRun, frameBad := frameBad,
                     frameLock := frame, descrambler := reg } }

/-- The payload of a frame in lock goes to the link; answers whether its codeword could not be corrected (R95). -/
def State.encodeFrame (s : State) (n port : Nat) (frame fec : Bool) (bits : List Bool) : Bool × State :=
  if frame = false then (false, s)
  else if fec then s.fecPayload n port bits
  else (false, s.laneBytes n false 0 ((bytesOfBits 680 bits).map fun b => (b, false)))

/-- R95 to R98: a forward frame of 85 blocks, header 01b having value 2 (bit 0 sent first) and 10b value 1; the errors of a bonded pair's
odd lane count in the odd port's block, and a damaged frame has the FRAME_SEQ its lane expects (log entry 116). -/
def execFecFrameReceived (port : Fin 96) (blocks : List (BitVec 66)) (s : State) : Result :=
  let n := s.lanePort port
  if s.rasynIn n = false ∨ s.link n = .off ∨ s.link n = .fault then .next s
  else
    let r := laneStep (s.port port) (s.on (R.port_LINK_STATE_BLOCK_LOCK port)) blocks
    let fec := s.on (R.port_PORT_CFG_FEC n) || s.get (R.port_PORT_CFG_RATE n) == 0
    let s := (s.setPort port r.port).put (R.port_LINK_STATE_BLOCK_LOCK port) (if r.block then 1 else 0)
    let s := s.put (R.port_LINK_STATE_FEC_LOCK port) (if r.frame && fec then 1 else 0)
    let (damaged, s) := s.encodeFrame n port r.frame fec r.bits
    let overUncorr := damaged && limitReached (s.port n).uncorrSecond (s.get (R.port_RETRAIN_CFG_UNCORR_LIMIT n))
    let s := if r.lost then s.modPort n fun p => { p with packetLock := false } else s
    .next (if r.lost || overUncorr then s.startRetrain n else s.alignDone n)

/-- R107: a request is sent again, or after 8 tries ends TIMEOUT. -/
def execCtrlRetryTimeout (port : Fin 96) (msgId : BitVec 8) (s : State) : Result :=
  match (s.port port).reqs.find? fun r => r.msgId == msgId.toNat && r.tries != 0 with
  | none => .next s
  | some r =>
    if r.tries < 8 then
      let s := s.modPort port fun p =>
        { p with reqs := p.reqs.map fun x => if x.msgId = r.msgId then { x with tries := x.tries + 1 } else x }
      let s := s.bump (R.port_CTRL_RETRY port)
      .next (s.sendPacket port 6 r.vc (ctrlPayload r.msgId 0 r.opcode 0 r.data))
    else
      let s := ((s.endRequest port r).bump (R.port_CTRL_FAIL port)).displayReply port r.msgId 3
      .next (if r.byHost then s.ctrlUnanswered port 2 else s)

/-- R107: the host's request; more than 64 data bytes complete with BAD_REQUEST, a link without a back channel with
LINK_DOWN (log entry 22). -/
def execHostCtrlSend (port : Fin 96) (s : State) : Result :=
  .next <| s.offer (Reg.port_CTRL_RESULT port) (Flag.port_CMD_OVERRUN port) fun s =>
    let len := s.get (R.port_CTRL_TX_HDR_LENGTH port)
    let s := s.accept (Reg.port_CTRL_RESULT port)
    if 64 < len then s.ctrlUnanswered port 4
    else if s.linkWasUp port then
      s.ctrlRequest port true (s.get (R.port_CTRL_TX_HDR_OPCODE port)) (s.get (R.port_CTRL_TX_HDR_VC port))
        ((s.getBytes (Reg.port_CTRL_TX_DATA port 0) 16).take len)
    else s.ctrlUnanswered port 3

/-- R119: a new challenge with the link up. -/
def execReauthTimer (port : Fin 96) (s : State) : Result :=
  if s.get (R.port_LINK_CTRL_REAUTH_MIN port) ≠ 0 ∧ s.isUp port then
    .next (s.challenge port true)
  else .next s

/-- Whole-number mean of a list, rounded down (log entry 23). -/
def meanInt (l : List Int) : Int := l.foldl (· + ·) 0 / (max 1 l.length : Nat)

/-- R109: the delays of the last 16 echoes. `rttNs` is the measured round trip. -/
def execTimeEcho (port : Fin 96) (rttNs : Nat) (s : State) : Result :=
  match s.takePacket port fun k => k.typ == 7 && leAt k.payload 0 1 == 1 with
  | none => .next s
  | some (k, s) =>
    let turn := leAt k.payload 16 4
    let d : Int := rttNs - turn
    let asym := s.getInt (R.port_ASYM_ASYM port)
    let es := ((((d - asym) / 2, (d + asym) / 2) :: (s.port port).echoes)).take 16
    let s := s.modPort port fun p => { p with echoes := es }
    let s := s.put (R.port_GL_STAT_TURN_NS port) (min turn 0xFFFF)
    let s := s.put (R.port_DELAYS_DELAY_B port) (twos 16 (meanInt (es.map (·.1))))
    .next (s.put (R.port_DELAYS_DELAY_F port) (twos 16 (meanInt (es.map (·.2)))))

/-- A status read: powered, faulted; a fault locks the port out and powers it off (R123). Two replies are for the read, the next
two for POWER_OFF. -/
def State.ppbStatus (s : State) (n : Nat) (replies : List (BitVec 17)) : State :=
  match s.ppb n 3 0 replies with
  | (none, s) => s
  | (some d, s) =>
    let fault := d.getLsbD 1
    let s := (s.put (R.port_PWR_STAT_POWERED n) (if d.getLsbD 0 then 1 else 0)).put (R.port_PWR_STAT_FAULT n) (if fault then 1 else 0)
    if fault && !s.on (R.port_PWR_STAT_LOCKOUT n) then
      let s := ((s.put (R.port_PWR_STAT_LOCKOUT n) 1).raise (Flag.port_PPB_FAULT n)).bump (R.port_PWR_CYCLES_COUNT n)
      (s.modPort n fun p => { p with cycling := false }).ppbSend n 2 0 (replies.drop 2)
    else s

/-- R123: one round of polling; the replies to the three reads, each list with the retry's reply second. -/
def execPpbPoll (port : Fin 96) (status current voltage : List (BitVec 17)) (s : State) : Result :=
  if s.ppbOwned port then
    let s := s.ppbStatus port status
    let s := match s.ppb port 4 0 current with
      | (none, s) => s
      | (some d, s) => s.put (R.port_PWR_STAT_CURRENT port) d.toNat
    .next (match s.ppb port 5 0 voltage with
      | (none, s) => s
      | (some d, s) => s.put (R.port_PWR_STAT_VOLTAGE port) d.toNat)
  else .next s

/-- R123: the status of every port of the bus, one after another. -/
def execPpbInt (bus : Fin 6) (statuses : List (List (BitVec 17))) (s : State) : Result :=
  .next <| s.each (List.range 16) fun s i =>
    let n := 16 * bus.val + i
    if s.ppbOwned n then s.ppbStatus n (statuses.getD i []) else s

/-- R124: ON 1 is ignored in lockout; ON 0 ends a cycle with the port off. -/
def execPwrOnWrite (port : Fin 96) (on : Bool) (replies : List (BitVec 17)) (s : State) : Result :=
  s.rowWrite (Reg.port_PWR_CTRL port) fun s =>
  if s.ppbOwned port then
    if on then
      if s.on (R.port_PWR_STAT_LOCKOUT port) then .next s
      else .next ((s.put (R.port_PWR_CTRL_ON port) 1).ppbSend port 1 0 replies)
    else
      let s := (s.put (R.port_PWR_CTRL_ON port) 0).modPort port fun p => { p with cycling := false }
      .next (s.ppbSend port 2 0 replies)
  else .next (s.put (R.port_PWR_CTRL_ON port) (if on then 1 else 0))

def execPwrCycle (port : Fin 96) (replies : List (BitVec 17)) (s : State) : Result :=
  s.rowWrite (Reg.port_PWR_CTRL port) fun s =>
  .next (if s.ppbOwned port && !s.on (R.port_PWR_STAT_LOCKOUT port) then s.startCycle port replies else s)

def execPwrOffTimeExpiry (port : Fin 96) (replies : List (BitVec 17)) (s : State) : Result :=
  .next (if (s.port port).cycling && s.ppbOwned port && !s.on (R.port_PWR_STAT_LOCKOUT port) then
    (s.modPort port fun p => { p with cycling := false }).ppbSend port 1 0 replies
  else s)

def execClearLockout (port : Fin 96) (replies : List (BitVec 17)) (s : State) : Result :=
  s.rowWrite (Reg.port_PWR_CTRL port) fun s =>
  .next (if s.ppbOwned port then (s.ppbSend port 7 0 replies).put (R.port_PWR_STAT_LOCKOUT port) 0 else s)

def execPwrLimitWrite (port : Fin 96) (limit : BitVec 8) (replies : List (BitVec 17)) (s : State) : Result :=
  s.rowWrite (Reg.port_PWR_CTRL port) fun s =>
  let s := s.put (R.port_PWR_CTRL_LIMIT port) limit.toNat
  .next (if s.ppbOwned port then s.ppbSend port 6 limit.toNat replies else s)

end Sys2Proof.Machine
end

