-- ==== Sys2Proof/Machine/Audio.lean ====
section
/-!
DEFINITION. The commands of the audio engine and Marginalia (09_audio_marginalia.md R255 to R283).
-/
namespace Sys2Proof.Machine
open Sys2Proof

/-- The samples of a channel of an AUDIO payload (R101). -/
def audioChannel (payload : List Byte) (chans n c : Nat) : List Int :=
  (List.range n).map fun k => int24 (leAt payload (8 + 3 * (k * chans + c)) 3)

/-- One input channel takes a packet (R258): behind is discarded and counted, ahead gives lost samples, more than 4,800 missing
or another rate code returns to ACQUIRE, the missing ones counted. -/
def State.audioTake (s : State) (i count rate : Nat) (vals : List Int) (dev : Int) : State :=
  let c := s.src i
  let next := (count + vals.length) % 2 ^ 32
  let reacquire (s : State) : State :=
    let s := s.modSrc i SrcChan.cleared
    let s := if s.srcMode i = .nonPcm then s else s.setSrcMode i .acquire
    (s.samplesIn i 0 vals rate dev).modSrc i fun c => { c with expected := some next }
  match c.expected with
  | none => (s.samplesIn i 0 vals rate dev).modSrc i fun c => { c with expected := some next }
  | some e =>
    let ahead := (count + 2 ^ 32 - e) % 2 ^ 32
    if 2 ^ 31 ≤ ahead then s.countLost vals.length
    else if 4800 < ahead ∨ rate ≠ s.get (R.audio_IN_STAT_RATE i) then reacquire (s.countLost ahead)
    else (s.samplesIn i ahead vals rate dev).modSrc i fun c => { c with expected := some next }

/-- A discarded packet's `n` samples from `count` on are lost, and those missing before them (03_rasyn_link.md R120; R259). Nothing of a
channel is lost before its first packet. -/
def State.audioLose (s : State) (i count n : Nat) : State :=
  match (s.src i).expected with
  | none => s
  | some e =>
    let ahead := (count + 2 ^ 32 - e) % 2 ^ 32
    if 2 ^ 31 ≤ ahead then s.countLost n
    else
      let s := (s.modSrc i fun c => { c with expected := some ((count + n) % 2 ^ 32) }).countLost (ahead + n)
      if 4800 < ahead + n then (s.modSrc i SrcChan.cleared).setSrcMode i (if s.srcMode i = .nonPcm then .nonPcm else .acquire)
      else s.modSrc i fun c => c.take (ahead + n) []

/-- R258: `dev` is the ratio loop's estimate of the deviation, in 0.1 ppm, with this packet's arrival (R260). -/
def execAudioPacket (port : Fin 96) (dev : Int) (s : State) : Result :=
  match s.takePacket port fun k => k.typ == 3 with
  | none => .next s
  | some (k, s) =>
    let chans := leAt k.payload 0 1
    let rs := leAt k.payload 1 1
    let n := rs % 64
    if s.audioOn = false ∨ chans = 0 ∨ 16 < chans ∨ n = 0 ∨ (k.lost = false ∧ k.payload.length ≠ 8 + 3 * chans * n) then .next s
    else
      let ins := (List.range chans).flatMap fun c => (s.inputsOf (16 * port + k.vc) c).map fun i => (i, c)
      if k.lost then .next (s.each ins fun s p => s.audioLose p.1 (leAt k.payload 4 4) n)
      else .next (s.each ins fun s p => s.audioTake p.1 (leAt k.payload 4 4) (rs / 64) (audioChannel k.payload chans n p.2) dev)

/-- R279: a Rasyn ANC packet. -/
def execAncPacket (port : Fin 96) (s : State) : Result :=
  match s.takePacket port fun k => k.typ == 4 with
  | none => .next s
  | some (k, s) =>
    let a : AncPacket := ⟨leAt k.payload 0 2, leAt k.payload 2 2,
      (List.range ((k.payload.length - 4) / 2)).map fun i => leAt k.payload (4 + 2 * i) 2 % 1024⟩
    .next (if s.audioOn && s.present (16 * port + k.vc) then s.bindAnc (16 * port + k.vc) a else s)

/-- R279: a META packet. -/
def execMetaPacket (port : Fin 96) (s : State) : Result :=
  match s.takePacket port fun k => k.typ == 5 with
  | none => .next s
  | some (k, s) =>
    .next (if s.audioOn && s.present (16 * port + k.vc) then s.bindMeta (16 * port + k.vc) k.payload else s)

/-- R255: the write waits for the next 1 ms boundary; the map of an absent channel ignores writes. -/
def execInMapWrite (ch : Fin 2048) (value : BitVec 32) (s : State) : Result :=
  s.rowWrite (Reg.audio_IN_MAP ch) fun s =>
  if ch.val < s.inCount ∧ s.audioOn = true then
    .next (s.modAudio fun a => { a with inPend := Sparse.insert (Sparse.erase a.inPend ch) ch (value &&& 0xFFF07C00#32) })
  else .next s

/-- R266. -/
def execOutMapWrite (ch : Fin 1024) (value : BitVec 32) (s : State) : Result :=
  s.rowWrite (Reg.audio_OUT_MAP ch) fun s =>
  if ch.val < s.outCount ∧ s.audioOn = true then
    .next (s.modAudio fun a => { a with outPend := Sparse.insert (Sparse.erase a.outPend ch) ch value })
  else .next s

/-- R255, R256, R266: the 1 ms boundary of the audio master. -/
def execAudioMapApply (s : State) : Result :=
  let s := s.each s.audio.inPend fun s p =>
    let s := (s.wr (Reg.audio_IN_MAP p.1) p.2).modSrc p.1 fun c => { c.cleared with expected := none }
    s.setSrcMode p.1 (if s.inBound p.1 then .acquire else .noInput)
  let s := s.each s.audio.outPend fun s p => s.wr (Reg.audio_OUT_MAP p.1) p.2
  .next (s.modAudio fun a => { a with inPend := [], outPend := [] })

/-- R260: the time of a converter state is over. `idle` says that no sample has arrived for the 2 ms (LOCKED) or 100 ms the rule
names. -/
def execSrcStateTimeout (ch : Fin 2048) (idle : Bool) (s : State) : Result :=
  if s.audioOn = false ∨ s.inCount ≤ ch.val then .next s
  else
    let dev := (s.getInt (R.audio_IN_STAT_RATIO ch)).natAbs
    match s.srcMode ch with
    | .noInput => .next s
    | .acquire => .next (if idle then s.setSrcMode ch .noInput
        else if 10000 < dev then s.setSrcMode ch .outOfRange else s.setSrcMode ch .locked)
    | .locked => .next (if idle then s.setSrcMode ch .hold else s)
    | .hold => .next (s.setSrcMode ch .noInput)
    | .outOfRange => .next (if idle then s.setSrcMode ch .noInput
        else if dev ≤ 9000 then s.setSrcMode ch .acquire else s)
    | .nonPcm => .next (if idle then s.setSrcMode ch .noInput else s)

/-- R270. -/
def execBankCommit (s : State) : Result :=
  s.rowWrite Reg.audio_BANK_CMD fun s => .next s.armBank

/-- R276. -/
def execMeterUpdate (s : State) : Result :=
  if s.audioOn = false then .next s
  else
    let s := s.each (List.range s.inCount) fun s i =>
      let s := s.modSrc i fun c => { c with blocks := (c.block :: c.blocks).take 30, block := (0, 0, 0) }
      s.put (meterFld (Reg.audio_IN_METER (i / 2)) i) (meterWord (s.src i).blocks)
    .next (s.each (List.range s.outCount) fun s o =>
      let s := s.modOut o fun c => { c with blocks := (c.block :: c.blocks).take 30, block := (0, 0, 0) }
      s.put (meterFld (Reg.audio_OUT_METER (o / 2)) o) (meterWord (s.outChan o).blocks))

/-- A QUERY_CMD with FETCH 0 names no command: BAD_COMMAND (R280), its data words zeros (log entry 118). -/
def queryBadCommand (s : State) : Result :=
  .next <| if s.audioOn = false then s else
    s.offer Reg.marginalia_QUERY_RESULT Flag.marginalia_CMD_OVERRUN fun s =>
      ((s.accept Reg.marginalia_QUERY_RESULT).putBytes (Reg.marginalia_QUERY_DATA 0) (List.replicate 128 0)).complete
        Reg.marginalia_QUERY_RESULT 3

/-- R280. -/
def execQueryFetch (s : State) : Result :=
  .next <| if s.audioOn = false then s else
    s.offer Reg.marginalia_QUERY_RESULT Flag.marginalia_CMD_OVERRUN fun s =>
      let s := s.accept Reg.marginalia_QUERY_RESULT
      let n := s.get R.marginalia_QUERY_STREAM
      let fails (code : Nat) : State := (s.putBytes (Reg.marginalia_QUERY_DATA 0) (List.replicate 128 0)).complete Reg.marginalia_QUERY_RESULT code
      if s.present n = false ∨ s.isWriteback n = true then fails 2
      else match (s.stream n).margs.find? fun m => m.seq == s.get R.marginalia_QUERY_SEQ with
        | none => fails 1
        | some m => (s.putBytes (Reg.marginalia_QUERY_DATA 0) m.bytes).complete Reg.marginalia_QUERY_RESULT 0

/-- R260 to R271: one period of the audio master. -/
def execAudioSample (s : State) : Result :=
  let s := if s.audioOn then
      let s := s.put R.audio_DELAY_MAX s.delayMax
      let s := s.each (List.range s.inCount) State.convertOne
      s.each (List.range s.outCount) fun s o => (((s.bankStep o).trackDelay o).mixOne o).advanceFade o
    else s
  .next (s.modAudio fun a => { a with k := a.k + 1, spWait := a.spWait.filterMap fun p => if p.2 ≤ 1 then none else some (p.1, p.2 - 1) })

end Sys2Proof.Machine
end

