-- ==== Sys2Proof/Machine/Strongroom.lean ====
section
/-!
DEFINITION. The Strongroom's commands: the command path, owner commands, host keys, attestation, tamper and the entropy
source (13_strongroom.md R370 to R399).
-/
namespace Sys2Proof.Machine
open Sys2Proof

/-- What follows any change in the Strongroom: its registers, the recording mode, the list's check (R388). -/
def State.strongChanged (s : State) : State := s.showStrong.showIdentity.checkList.showSigMode

/-- A command of the host path that is complete at once. -/
def State.strongCommand (s : State) (f : State → Nat × List Byte × State) : State :=
  s.offer Reg.strongroom_RESULT Flag.strongroom_CMD_OVERRUN fun s =>
    let (st, data, s) := f (s.accept Reg.strongroom_RESULT)
    s.strongDone st data

/-! ### Owner commands -/

/-- The lifecycle states a subop is accepted in (R386). -/
def ownerAllowed (sub : Nat) (l : Lifecycle) : Bool :=
  match l with
  | .owned => sub != 0x0D
  | .vendor => sub != 0x0A && sub != 0x0B && sub != 0x0E
  | .returned => sub != 0x0A && sub != 0x0B && sub != 0x0E
  | _ => false

/-- Subops that the test root refuses (R386, R403). -/
def testRefused (sub : Nat) : Bool := sub ≤ 5 || sub == 8 || sub == 9

/-- Bytes of BODY a subop uses (R386). -/
def ownerBody (sub : Nat) : Nat :=
  match sub with
  | 0x01 => 50 | 0x02 => 48 | 0x03 => 48 | 0x04 => 48 | 0x06 => 16 | 0x07 => 16 | 0x0A => 48 | 0x0B => 1 | 0x0C => 4 | 0x0D => 48
  | _ => 0

/-- The form of a block of R385: magic, version, subop, reserved and unused bytes, signature block. -/
def blockForm (b : List Byte) (magic : String) (sub body : Nat) : Bool :=
  slice b 0 4 == asciiBytes magic && leAt b 4 1 == 1 && leAt b 5 1 == sub && leAt b 6 2 == 0 && leAt b 28 4 == 0
    && (slice b (32 + body) (96 - body)).all (fun x => x == 0) && sigForm (slice b 128 200)

/-- Whether DEVICE_UID of a block names this device, or any where `any` permits it. -/
def State.uidFits (s : State) (b : List Byte) (any : Bool) : Bool :=
  let u := slice b 12 16
  u == s.uid && (any || u != List.replicate 16 0) || (any && u == List.replicate 16 0)

/-- Checks of an owner command, in order (R385 to R387, log entry 17): the code of the first that fails. -/
def State.ownerCheck (s : State) (b : List Byte) (sub : Nat) : Option Nat :=
  let key := slice b 128 200
  let trusted := if sub = 0x0D then s.keyMatches key (fun k => k == 0xFF) else s.keyMatches key s.imageKey
  let bound := sub == 8 || sub == 0x0A || sub == 0x0B || sub == 0x0D || sub == 0x0E || sub == 0x0F
  if blockForm b "GWOC" sub (ownerBody sub) = false then some 3
  else if ownerAllowed sub s.lifecycle = false ∨ (s.testRoot && testRefused sub) = true then some 4
  else if trusted = false then some 5
  else if sigGood key (b.take 128) = false then some 6
  else if s.uidFits b (!bound) = false then some 7
  else if (if sub = 0x0D then leAt b 8 4 != s.lcCount else decide (leAt b 8 4 ≤ s.strong.ownerSeq)) then some 8
  else none

/-- An owner command (R385 to R387): `check` is the subop's own, `effect` what it does after OWNER_SEQ is written; `storeOk`
says that the Attic store succeeds (R390). -/
def State.ownerCommand (s : State) (sub : Nat) (storeOk : Bool) (check : State → List Byte → Option Nat)
    (effect : State → List Byte → Nat × State) : State :=
  s.strongCommand fun s =>
    let b := s.cmdBuf 82
    match (s.ownerCheck b sub).orElse fun _ => check s b with
    | some c => (c, [], s)
    | none =>
      if storeOk = false then (21, [], s)
      else
        let s := s.modStrong fun u => { u with ownerSeq := leAt b 8 4 }
        let (c, s) := effect s b
        (c, [], s.strongChanged)

/-- The list must pass its check (R386). -/
def State.listCheck (s : State) : Option Nat := if s.listGood then none else some 15

/-- A change of one entry: written, and the list takes a new tag (R388). -/
def State.setPair (s : State) (i : Nat) (e : List Byte) : State := (s.storePage (4608 + i) e).retag

/-- The bytes of an entry (03_rasyn_link.md R118). -/
def pairBytesOf (h : List Byte) (bind role flags added : Nat) : List Byte :=
  slice h 0 48 ++ leBytes 1 bind ++ leBytes 1 role ++ leBytes 1 flags ++ leBytes 1 0 ++ leBytes 4 added ++ List.replicate 8 0

/-- R386. -/
def execPairAdd (storeOk : Bool) (s : State) : Result :=
  let free (s : State) : Option Nat := (List.range 2048).find? fun i => !pairValid (s.pairEntry i)
  .next <| s.ownerCommand 1 storeOk
    (fun s b => s.listCheck.orElse fun _ =>
      if (s.pairFind (slice b 32 48)).isNone ∧ (free s).isNone then some 16 else none)
    fun s b =>
      let h := slice b 32 48
      match s.pairFind h with
      | some i => (0, s.setPair i (pairBytesOf h (leAt b 80 1) (leAt b 81 1) 1 (leAt (s.pairEntry i) 52 4)))
      | none => match free s with
        | some i => (0, s.setPair i (pairBytesOf h (leAt b 80 1) (leAt b 81 1) 1 (s.get R.blotter_OP_S)))
        | none => (16, s)

/-- The entry that an owner command names must be there. -/
def State.pairNamed (s : State) (b : List Byte) : Option Nat :=
  s.listCheck.orElse fun _ => if (s.pairFind (slice b 32 48)).isNone then some 17 else none

/-- R386. -/
def execPairRevoke (storeOk : Bool) (s : State) : Result :=
  .next <| s.ownerCommand 2 storeOk (fun s b => s.pairNamed b) fun s b =>
    match s.pairFind (slice b 32 48) with
    | none => (17, s)
    | some i =>
      let e := s.pairEntry i
      (0, s.setPair i (e.take 50 ++ [(e.getD 50 0) ||| 2#8] ++ e.drop 51))

/-- R386. -/
def execPairRemove (storeOk : Bool) (s : State) : Result :=
  .next <| s.ownerCommand 3 storeOk (fun s b => s.pairNamed b) fun s b =>
    match s.pairFind (slice b 32 48) with
    | none => (17, s)
    | some i => (0, s.setPair i (List.replicate 64 0))

/-- R386. -/
def execPairRekey (storeOk : Bool) (s : State) : Result :=
  .next <| s.ownerCommand 4 storeOk
    (fun s b => (s.loadFailure 1).orElse fun _ => if sha384 s.pairBytes = slice b 32 48 then none else some 15)
    fun s _ => (0, s.retag)

/-- R386. -/
def execPairClear (storeOk : Bool) (s : State) : Result :=
  .next <| s.ownerCommand 5 storeOk (fun s _ => s.loadFailure 1) fun s _ =>
    (0, (s.each (List.range 2048) fun s i => s.storePage (4608 + i) (List.replicate 64 0)).retag)

/-- Protection is lifted from the segments of a GSEQ range (11_codecs_cellar.md R335). -/
def State.unprotect (s : State) (first last : Nat) : State :=
  let inside (g : Nat) : Bool := decide (first ≤ g) && decide (g ≤ last)
  let hit := s.cellar.dir.filter fun x => inside x.1 && dirState x.2.1 == 2
  let late := (s.cellar.closing.filter fun c => c.prot && inside c.gseq).length
  let s := s.each hit fun s x => (s.setDir x.1 (dirBytes (x.2.1.take 8 ++ [1] ++ x.2.1.drop 9)) false).writeDir x.1
  let s := s.modCellar fun c =>
    { c with closing := c.closing.map fun x => if inside x.gseq then { x with prot := false } else x }
  let s := s.modDrive fun d => { d with protectExt := d.protectExt - hit.length - late }
  if hit.isEmpty then s.showCellar else s.writeSuperblock.showCellar

/-- R335, R386. -/
def execUnprotect (storeOk : Bool) (s : State) : Result :=
  .next <| s.ownerCommand 6 storeOk (fun _ _ => none) fun s b => (0, s.unprotect (leAt b 32 8) (leAt b 40 8))

/-- R386: a permit for one FORMAT within 60 s. -/
def execCellarFormatPermit (storeOk : Bool) (s : State) : Result :=
  .next <| s.ownerCommand 7 storeOk (fun _ _ => none) fun s b =>
    (0, s.modStrong fun u => { u with formatPermit := some (slice b 32 16, s.get R.blotter_OP_S + 60) })

/-- Whether an enabled tamper input is active. -/
def State.tamperActive (s : State) : Bool :=
  (s.on R.strongroom_TAMPER_CFG_IN0_EN && s.strong.tamperPins.getLsbD 0) || (s.on R.strongroom_TAMPER_CFG_IN1_EN && s.strong.tamperPins.getLsbD 1)

/-- R395: `inputs` are the tamper inputs' activity as sampled. -/
def execReroot (storeOk : Bool) (inputs : BitVec 2) (s : State) : Result :=
  let s := s.modStrong fun u => { u with tamperPins := inputs }
  .next <| s.ownerCommand 8 storeOk
    (fun s _ => if s.tamperActive then some 18 else if s.entropyOk then none else some 13)
    fun s _ => (0, (((s.newRoot).modStrong fun u => { u with tampered := false, zeroCause := 0 }).setFault 3 false).event 5 0)

/-- R386. -/
def execRotateRec (storeOk : Bool) (s : State) : Result :=
  .next <| s.ownerCommand 9 storeOk (fun s _ => if s.rootState = 0 then none else some 4) fun s _ =>
    (0, ((s.deriveFromRoot 0 1 (asciiBytes "CELLAR-REC")).saveGens).event 0x0B 0)

/-- An owner slot's field for a hash: the hash and its CRC. -/
def hashField (h : List Byte) : CrcField := ⟨slice h 0 48, crc32 (slice h 0 48)⟩

/-- Whether a field's blown bits are a subset of another's. -/
def CrcField.within (a b : CrcField) : Bool :=
  ((slice a.octets 0 48).zip (slice b.octets 0 48)).all (fun p => p.1 &&& p.2 == p.1) && a.crc &&& b.crc == a.crc

/-- The slot R371 programs: the lowest that is unprogrammed, unrevoked and fits. -/
def State.ownerTarget (s : State) (f : CrcField) : Option Nat :=
  [0, 1, 2, 3].find? fun i =>
    !s.strong.fuses.ownerProg.getLsbD i && !s.strong.fuses.ownerRevoked.getLsbD i
      && (Sparse.get (fun _ => ({} : CrcField)) s.strong.fuses.ownerHash i).within f

/-- Hash, CRC and OWNER_PROG of the chosen slot are blown; the slots passed over are revoked (R371). -/
def State.programOwner (s : State) (f : CrcField) (i : Nat) : State :=
  s.modFuses fun u =>
    let passed := [0, 1, 2, 3].foldl (fun (m : BitVec 4) j =>
      if j < i ∧ u.ownerProg.getLsbD j = false ∧ u.ownerRevoked.getLsbD j = false then m ||| BitVec.ofNat 4 (2 ^ j) else m) 0
    { u with ownerHash := Sparse.set (fun _ => ({} : CrcField)) u.ownerHash i f,
             ownerProg := u.ownerProg ||| BitVec.ofNat 4 (2 ^ i), ownerRevoked := u.ownerRevoked ||| passed }

/-- The next LIFECYCLE bit (R370). -/
def State.nextLifecycle (s : State) : State :=
  s.modFuses fun u => { u with lifecycle := u.lifecycle ||| BitVec.ofNat 16 (2 ^ thermo u.lifecycle) }

/-- The lifecycle or the owner slots changed; a new state has a record. -/
def State.lifecycleChanged (s : State) (record : Bool) : State :=
  let s := s.raise Flag.strongroom_LIFECYCLE_CHANGE
  if record then s.blotter 0x0203 s.lifecycle.code (leBytes 1 s.lcCount) else s

/-- R371, R386: `fuseOk` says that the blown bits pass their check at margin. -/
def execAddOwnerKey (storeOk fuseOk : Bool) (s : State) : Result :=
  .next <| s.ownerCommand 0x0A storeOk
    (fun s b => if (s.ownerTarget (hashField (slice b 32 48))).isNone then some 12 else none)
    fun s b =>
      let f := hashField (slice b 32 48)
      match s.ownerTarget f with
      | none => (12, s)
      | some i => if fuseOk then (0, ((s.programOwner f i).event 9 0).lifecycleChanged false) else (19, s)

/-- R386: never the last unrevoked slot. -/
def execRevokeOwnerKey (storeOk : Bool) (s : State) : Result :=
  .next <| s.ownerCommand 0x0B storeOk
    (fun s b =>
      let i := leAt b 32 1
      let live := [0, 1, 2, 3].filter s.ownerSlot
      if 3 < i ∨ live = [i] then some 4 else none)
    fun s b =>
      let i := leAt b 32 1
      (0, ((s.modFuses fun u => { u with ownerRevoked := u.ownerRevoked ||| BitVec.ofNat 4 (2 ^ i) }).event 0x0A i).lifecycleChanged false)

/-- R391: reserved bits stay 0. -/
def execTamperCfg (storeOk : Bool) (s : State) : Result :=
  .next <| s.ownerCommand 0x0C storeOk (fun _ _ => none) fun s b =>
    (0, (s.modStrong fun u => { u with tamperCfg := BitVec.ofNat 32 (leAt b 32 4) &&& 0x1FCFC#32 }).event 0x0C 0)

/-- R370, R371. -/
def execTakeOwnership (storeOk fuseOk : Bool) (s : State) : Result :=
  .next <| s.ownerCommand 0x0D storeOk
    (fun s b =>
      if s.entropyOk = false then some 13
      else if (s.ownerTarget (hashField (slice b 32 48))).isNone then some 12 else none)
    fun s b =>
      let f := hashField (slice b 32 48)
      match s.ownerTarget f with
      | none => (12, s)
      | some i =>
        let s := s.onReal State.newRoot
        if fuseOk then
          let s := ((s.programOwner f i).nextLifecycle).modStrong fun u => { u with ownerSeq := 0 }
          (0, (s.event 6 0).lifecycleChanged true)
        else (19, s)

/-- R370. -/
def execReturnPart (storeOk : Bool) (s : State) : Result :=
  .next <| s.ownerCommand 0x0E storeOk (fun _ _ => none) fun s _ =>
    let s := ((s.zeroRoot 3).saveGens).raise Flag.strongroom_ROOT_CHANGE
    let s := s.modFuses fun u => { u with ownerRevoked := u.ownerRevoked ||| u.ownerProg }
    (0, (s.nextLifecycle.event 7 0).lifecycleChanged true)

/-- R370. -/
def execScrap (storeOk : Bool) (s : State) : Result :=
  .next <| s.ownerCommand 0x0F storeOk (fun _ _ => none) fun s _ =>
    let s := ((s.zeroRoot 4).saveGens).raise Flag.strongroom_ROOT_CHANGE
    let s := s.modFuses fun u => { u with lifecycle := BitVec.allOnes 16 }
    (0, (s.event 8 0).lifecycleChanged true)

/-! ### Host commands -/

/-- The attestation statement up to its signature (R399). -/
def State.statement (s : State) (nonce : List Byte) : List Byte :=
  let u := s.strong
  let log := (List.range 4).flatMap fun i => match u.tamperLog[i]? with
    | none => List.replicate 8 0
    | some e => leBytes 4 e.lifeS ++ leBytes 1 e.source ++ leBytes 1 e.power ++ leBytes 2 0
  let rec0 := if s.usable 0 then sha384 (ecPubBytes (beNat (s.slot 0).key)) else List.replicate 48 0
  asciiBytes "GWAT" ++ leBytes 2 1 ++ leBytes 2 0x340 ++ slice nonce 0 48 ++ s.uid ++ leBytes 1 s.lifecycle.code
    ++ leBytes 1 u.debug ++ leBytes 1 (if s.quiet then 1 else 0) ++ leBytes 1 s.rootState ++ leBytes 1 u.zeroCause
    ++ leBytes 1 u.tamperCount ++ leBytes 1 (u.fuses.ownerProg.toNat + 16 * u.fuses.ownerRevoked.toNat)
    ++ leBytes 1 ((if u.tampered then 1 else 0) + 2 * s.get R.strongroom_STATE_LIST_OK) ++ leBytes 4 u.rootGen
    ++ leBytes 4 u.lifeClock ++ leBytes 4 (s.get R.blotter_OP_S) ++ leBytes 4 (s.get R.blotter_CYCLES % 2 ^ 24) ++ log
    ++ leBytes 1 s.svnFuse ++ leBytes 1 (s.get R.fabric_STATE_SVN) ++ leBytes 1 (s.get R.fabric_STATE_SOURCE) ++ leBytes 1 0
    ++ leBytes 4 (s.get R.fabric_PARTIAL_MASK_LO) ++ leBytes 4 (s.get R.fabric_PARTIAL_MASK_HI) ++ leBytes 4 u.zaluVersion
    ++ s.getBytes (Reg.fabric_BASE_HASH 0) 12 ++ s.getBytes (Reg.strongroom_MEAS 0) 96 ++ rec0 ++ leBytes 4 (s.slot 0).gen
    ++ leBytes 4 0 ++ ecPubBytes s.identityKey ++ List.replicate 7 0

/-- A host command that runs on engine 0: refused, or waiting for its turn (R384). -/
def State.engineCommand (s : State) (f : State → Sum Nat EngineWait) : State :=
  s.offer Reg.strongroom_RESULT Flag.strongroom_CMD_OVERRUN fun s =>
    let s := s.accept Reg.strongroom_RESULT
    match f s with
    | .inl c => s.strongDone c []
    | .inr w => (s.modStrong fun u => { u with waiting := some w }).engineNext

/-- R399: the statement is made and signed when the operation completes. -/
def execAttest (s : State) : Result :=
  .next <| s.engineCommand fun s => if s.attestOk = false then .inl 4 else .inr ⟨.attest, 0, s.cmdBuf 12⟩

/-- R397. -/
def execExtend (s : State) : Result :=
  .next <| s.strongCommand fun s =>
    let i := s.get R.strongroom_CMD_ARG_MEAS
    if i < 5 ∨ 7 < i then (20, [], s) else (0, [], s.extend i (s.cmdBuf 12))

/-- R389. -/
def execRandom (s : State) : Result :=
  .next <| s.strongCommand fun s =>
    let n := s.get R.strongroom_CMD_ARG_LEN
    if n = 0 ∨ 768 < n then (20, [], s)
    else if s.entropyOk = false then (13, [], s)
    else
      let (bs, s) := s.draw n
      (0, bs, s)

def State.argSlot (s : State) : Nat := s.get R.strongroom_CMD_ARG_SLOT

/-- A host command that names slots: BAD_COMMAND outside 8 to 31, NOT_PERMITTED where the combination offers none (R405). -/
def State.slotRefused (s : State) (argOk : Bool) : Option Nat :=
  if s.argSlot < 8 ∨ argOk = false then some 20 else if s.hostSlots && s.rootState != 1 then none else some 4

/-- R377. -/
def execDerive (s : State) : Result :=
  .next <| s.strongCommand fun s =>
    let (n, p, k) := (s.argSlot, s.get R.strongroom_CMD_ARG_PARENT, s.get R.strongroom_CMD_ARG_KIND)
    match s.slotRefused (k != 0 && (p == 63 || (decide (8 ≤ p) && decide (p ≤ 31)))) with
    | some c => (c, [], s)
    | none =>
      let bad : Option Nat :=
        if p = 63 then none
        else (s.loadFailure p).orElse fun _ => if (s.slot p).kind = 3 then none else some 20
      match bad with
      | some c => (c, [], s)
      | none =>
        let label := s.cmdBuf 4
        let g := ((s.slot n).gen + 1) % 65536
        let (ikm, pg) := if p = 63 then (s.rootBytes, s.strong.rootGen) else (slice (s.slot p).key 0 48, (s.slot p).gen)
        let s := s.fillSlot n
          { valid := true, kind := k, parent := p, parentGen := pg, gen := g, label := label,
            key := s.derivedKey ikm pg k label g n }
        (0, [], s.saveGens.strongChanged)

/-- R377. -/
def execGenerate (s : State) : Result :=
  .next <| s.strongCommand fun s =>
    let (n, k) := (s.argSlot, s.get R.strongroom_CMD_ARG_KIND)
    match s.slotRefused (k == 1 || k == 2) with
    | some c => (c, [], s)
    | none =>
      if s.entropyOk = false then (13, [], s)
      else
        let (bs, s) := s.draw (if k = 1 then 56 else 48)
        let g := ((s.slot n).gen + 1) % 65536
        let s := s.fillSlot n
          { valid := true, kind := k, parent := 63, parentGen := s.strong.rootGen, gen := g, label := List.replicate 16 0,
            key := if k = 1 then ecdsaKey bs else bs }
        (0, [], s.saveGens.strongChanged)

/-- R378. -/
def execInvalidate (s : State) : Result :=
  .next <| s.strongCommand fun s =>
    match s.slotRefused true with
    | some c => (c, [], s)
    | none =>
      let n := s.argSlot
      let s := s.setBank (s.slotBank.replace n { gen := ((s.slot n).gen + 1) % 65536 })
      (0, [], s.saveGens.strongChanged)

/-- R380, R382. -/
def execSign (s : State) : Result :=
  .next <| s.engineCommand fun s =>
    match s.slotRefused true with
    | some c => .inl c
    | none => .inr ⟨.sign, s.argSlot, s.cmdBuf 12⟩

/-- R380, R382. -/
def execHmac (s : State) : Result :=
  .next <| s.engineCommand fun s =>
    let len := s.get R.strongroom_CMD_ARG_LEN
    match s.slotRefused (decide (len ≤ 768)) with
    | some c => .inl c
    | none => .inr ⟨.hmac, s.argSlot, (s.cmdBuf 192).take len⟩

/-- R382: slot 0 or a host slot. -/
def execPubkey (s : State) : Result :=
  .next <| s.engineCommand fun s =>
    let n := s.argSlot
    let refused : Option Nat :=
      if n = 0 then (if s.lifecycle = .blank ∨ (s.lifecycle = .scrapped ∧ s.testRoot = false) ∨ s.rootState = 1 then some 4 else none)
      else s.slotRefused true
    match refused with
    | some c => .inl c
    | none => .inr ⟨.pubkey, n, []⟩

/-- R382. -/
def execStrongroomBadCommand (s : State) : Result := .next (s.strongCommand fun s => (20, [], s))

/-- The result of the operation on engine 0 (R381): as computed, ORPHANED when the slot's parent, an ancestor or the root changed
meanwhile. -/
def State.engineResult (s : State) (e : EngineOp) : State :=
  if e.kind = .attest then
    let m := s.statement e.result
    let (k, s) := s.drawScalar
    s.strongDone 0 (m ++ ecdsaSign s.identityKey k m)
  else if s.parentGens e.parent = e.chain ∧ s.rootState ≠ 1 then s.strongDone 0 e.result
  else (s.strongDone 1 e.result).raise Flag.strongroom_ORPHANED

/-- R381: the operation completes, and engine 0 takes its next work (R384). -/
def execStrongroomOpComplete (s : State) : Result :=
  match s.strong.engine with
  | none => .next s
  | some e => .next ((s.modStrong fun u => { u with engine := none }).engineResult e).engineNext

/-! ### Tamper and entropy -/

/-- The operation on engine 0 aborts, a host command's or a footer's signature (R394, R403; 11_codecs_cellar.md R333). -/
def State.abortEngine (s : State) : State :=
  let s := if s.signing then s.settleFooter fun _ => 5 else s
  if s.strong.engine.isSome then (s.modStrong fun u => { u with engine := none }).strongDone 2 [] else s

/-- The end of a debug session (R404): VIEW goes to CLOSED, FULL to FULL_ENDED. -/
def State.endSession (s : State) : State :=
  let d := s.strong.debug
  if d = 1 ∨ d = 2 then
    let s := s.modStrong fun u => { u with debug := if d = 1 then 0 else 3, sessionEnd := 0 }
    let s := (s.put R.strongroom_DEBUG_REMAIN 0).event 3 0
    ((s.raise Flag.strongroom_DEBUG_CHANGE).blotter 0x0202 s.strong.debug (leBytes 4 0)).strongChanged
  else s

/-- The power state a tamper entry gives: 0 RUN, 1 QUIET, 2 STANDBY, 3 VBAT-only, 4 start-up. -/
def State.tamperPower (s : State) : Nat :=
  if s.power.vbatOnly then 3
  else if s.get R.power_PWR_STATE_STATE = 2 ∨ s.get R.power_PWR_STATE_STATE = 4 then 2
  else if s.get R.global_BOOT_STATUS_STAGE < 3 then 4
  else if s.get R.power_PWR_STATE_STATE = 1 then 1 else 0

/-- Whether an input's FAULT bit is set. -/
def State.tamperFault (s : State) (source : Nat) : Bool :=
  (source == 1 && s.strong.tamperCfg.getLsbD 2) || (source == 2 && s.strong.tamperCfg.getLsbD 10)

/-- What D01 does at a detection, in every power state (R392). -/
def State.tamperD01 (s : State) (source : Nat) : State :=
  let s := s.zeroRoot 1
  s.modStrong fun u =>
    { u with tampered := true, tamperCount := min 255 (u.tamperCount + 1),
             tamperLog := (⟨u.lifeClock, source, s.tamperPower, decide (s.tamperPower < 2)⟩ :: u.tamperLog).take 4 }

/-- R391 to R394. Sources: 1 IN0, 2 IN1, 3 LXO_STOP; `bursts` says whether the Strongroom's DMA (bit 0) and the debug port (bit 1) hold a
path mid-burst (12_host_control.md R358). -/
def execTamperDetect (source : Fin 4) (bursts : BitVec 2) (s : State) : Result :=
  let n := source.val
  let c := s.strong.tamperCfg
  let s := if n = 3 then s.modStrong fun u => { u with lxoStopped := true } else s
  if (n = 1 ∧ c.getLsbD 7) ∨ (n = 2 ∧ c.getLsbD 15) ∨ (n = 3 ∧ c.getLsbD 16) then
    let s := s.modStrong fun u =>
      { u with tamperPins := if n = 1 then u.tamperPins ||| 1 else if n = 2 then u.tamperPins ||| 2 else u.tamperPins }
    let p := s.tamperPower
    let s := s.tamperD01 n
    if p < 2 then
      let s := if bursts.getLsbD 0 then s.burstRescue else s
      let s := if bursts.getLsbD 1 && (s.strong.debug == 1 || s.strong.debug == 2) then s.burstRescue else s
      let s := s.abortEngine.endSession
      let s := s.event 4 n
      let s := ((s.raise Flag.strongroom_TAMPER).raise Flag.strongroom_ROOT_CHANGE).saveGens
      let s := s.blotter 0x0201 n (leBytes 4 s.strong.rootGen)
      let s := if s.tamperFault n then s.setFault 3 true else s
      .next s.strongChanged.engineNext
    else .next s
  else .next s.showStrong

/-- R389: the source is tested again. -/
def execDrbgHealthRetest (pass : Bool) (s : State) : Result :=
  if pass then .next ((s.put R.strongroom_DRBG_STATUS_OK 1).setFault 9 false)
  else
    let s := (s.put R.strongroom_DRBG_STATUS_OK 0).bump R.strongroom_DRBG_STATUS_FAILS
    .next ((s.raise Flag.strongroom_ENTROPY_FAIL).setFault 9 true)

end Sys2Proof.Machine
end

