-- ==== Sys2Proof/Machine/Blotter.lean ====
section
/-!
DEFINITION. The commands of the Blotter (15_attic_blotter.md R450 to R463), the save set and its recovery (R447, R448), and
the interruption of page writes (R440).
-/
namespace Sys2Proof.Machine
open Sys2Proof

/-- R454: the window of the open record of a code and instance ends. -/
def execFoldWindowExpiry (code inst : BitVec 16) (s : State) : Result :=
  match s.blot.ring.find? fun r => r.isOpen && r.code == code.toNat && r.inst == inst.toNat with
  | none => .next s
  | some r => .next (s.closeRecord r.seq)

/-- R460. -/
def execHistogramCopy (s : State) : Result := .next (s.each (List.range 35) fun s q => s.copyHist q)

/-- R443: OP_S has reached the reserve limit. -/
def State.advanceReserve (s : State) : State :=
  if s.attic.opReserve * 1024 ≤ s.get R.blotter_OP_S then
    let v := min (s.attic.opReserve + 1) 0x0FFFFFFF
    (s.modAttic fun a => { a with opReserve := v }).counterWrite .opReserve .m3 v
  else s

def execOpReserveAdvance (s : State) : Result := .next s.advanceReserve

/-- R461. -/
def execSnapStart (s : State) : Result :=
  s.rowWrite Reg.blotter_SNAP_CMD fun s =>
  let s := s.put R.blotter_SNAP_END (s.get R.blotter_NEWEST_SEQ)
  .next (s.modBlot fun b => { b with readPos := s.get R.blotter_SNAP_FROM, reading := true })

/-- CAL_NOW (R452). -/
def State.calNow (s : State) : BitVec 32 := BitVec.ofNat 32 s.strong.lifeClock + s.attic.calOffset

/-- R452. -/
def execCalSetWrite (value : BitVec 32) (s : State) : Result :=
  s.rowWrite Reg.blotter_CAL_SET fun s =>
  let old := s.calNow
  let s := s.modAttic fun a => { a with calOffset := value - BitVec.ofNat 32 s.strong.lifeClock }
  .next ((s.blotter 0x0002 0 (leBytes 4 old.toNat ++ leBytes 4 value.toNat)).storeCal)

/-- 13_strongroom.md R375: the life clock is saved. -/
def execLifeClockSave (s : State) : Result := .next (s.modStrong fun u => { u with savedLife := u.lifeClock })

/-! ### Reading (R461) -/

/-- A record in its ring slot, when the slot holds that SEQ and its check is good. -/
def State.ringRecord (s : State) (seq : Nat) : Option (List Byte) :=
  let slot := seq % 8192
  let b := slice (s.atticPage (slot / 2)) (32 * (slot % 2)) 32
  if leAt b 0 4 = seq ∧ leAt b 28 4 = (crc32 (b.take 28)).toNat then some b else none

/-- Candidates of the next pop: SEQ values of the volatile ring and of the ring slots, from the read position to SNAP_END. -/
def State.nextRecord (s : State) : Option (Nat × List Byte × Bool) :=
  let lo := max s.blot.readPos (s.get R.blotter_LOG_FLOOR)
  let hi := s.get R.blotter_SNAP_END
  let fits (q : Nat) : Bool := decide (lo ≤ q) && decide (q ≤ hi)
  let vol := (s.blot.ring.filter fun r => fits r.seq).map fun r => (r.seq, r.bytes, false)
  let ring := (List.range 8192).filterMap fun k =>
    let q := leAt (s.atticPage (k / 2)) (32 * (k % 2)) 4
    if fits q && q % 8192 == k then (s.ringRecord q).map fun b => (q, b, true) else none
  (vol ++ ring).foldl (fun b x => match b with
    | none => some x
    | some y => if x.1 < y.1 then some x else some y) none

/-- A pop of the read port: RD_HDR and the holding window (R18, R461). -/
def State.blotPop (s : State) : State :=
  match (if s.blot.reading then s.nextRecord else none) with
  | none => (s.putBytes (Reg.blotter_RD_DATA 0) (List.replicate 32 0)).wr Reg.blotter_RD_HDR 0
  | some (q, b, ring) =>
    let s := (s.wr Reg.blotter_RD_HDR (setBits (setBits 0 31 31 1) 30 30 (if ring then 1 else 0))).putBytes (Reg.blotter_RD_DATA 0) b
    s.modBlot fun x => { x with readPos := q + 1 }

/-! ### Clearing (R462, R463) -/

/-- What a clear does once it is accepted (R463). -/
def State.clearBlotter (s : State) (sub seq upTo : Nat) : State :=
  let s := (s.modAttic fun a => { a with clearSeq := seq }).counterWrite .clearSeq .m3 seq
  let log := sub != 2
  let next := s.blot.nextSeq
  let floor := min (upTo + 1) next
  let old := s.get R.blotter_LOG_FLOOR
  let gone := if log && decide (old < floor) then leBytes 4 old ++ leBytes 4 (floor - 1) else List.replicate 8 0
  let s := s.blotter 0x0003 sub gone
  let s := if log then
      let s := s.put R.blotter_LOG_FLOOR floor
      ((s.modBlot fun b => { b with ring := b.ring.filter fun r => decide (floor ≤ r.seq) }).showBlot).storeFloor
    else s
  let s := if sub ≠ 1 then
      s.each (List.range 35) fun s q =>
        let h := s.hist q
        (s.setHist q { copySeq := h.copySeq, nextCopy := h.nextCopy }).copyHist q
    else s
  if sub = 3 then
    let s := s.each (List.range 128) fun s i => s.wr (Reg.blotter_DROP i) 0
    (s.put R.blotter_DROP_TOTAL 0).put R.blotter_PERSIST_FAIL 0
  else s

/-- The checks of R462. -/
def State.clearCheck (s : State) (b : List Byte) : Nat :=
  let key := slice b 128 200
  let sub := leAt b 5 1
  if blockForm b "GWBC" sub 4 = false then 3
  else if sub = 0 ∨ 3 < sub then 20
  else if s.strong.debug = 2 then 4
  else if s.keyMatches key s.imageKey = false then 5
  else if sigGood key (b.take 128) = false then 6
  else if slice b 12 16 ≠ s.uid then 7
  else if leAt b 8 4 ≤ s.attic.clearSeq then 8
  else 0

/-- R462. -/
def execClearSubmit (storeOk : Bool) (s : State) : Result :=
  .next <| s.offer Reg.blotter_CLEAR_RESULT Flag.blotter_CMD_OVERRUN fun s =>
    let s := s.accept Reg.blotter_CLEAR_RESULT
    let b := s.getBytes (Reg.blotter_CLEAR_BUF 0) 82
    let c := s.clearCheck b
    if c ≠ 0 then s.complete Reg.blotter_CLEAR_RESULT c
    else if storeOk = false then s.complete Reg.blotter_CLEAR_RESULT 21
    else ((s.clearBlotter (leAt b 5 1) (leAt b 8 4) (leAt b 32 4)).complete Reg.blotter_CLEAR_RESULT 0).raise Flag.blotter_CLEARED

/-! ### Power failure and STANDBY -/

/-- Whether every bit of `v` is one of the two bits of `a` and `b` at its place. -/
def between (a b v : Byte) : Bool := (v ^^^ a) &&& ~~~(a ^^^ b) == 0

/-- A loaded byte whose way from `a` to `b` was interrupted: it holds one of the two, or is WEAK with bits of both (R440). -/
def partWay (a b v : Byte) (weak : Bool) : Bool := if v == a || v == b then !weak else weak && between a b v

/-- The phase in which a loaded byte is programmed: byte 63 of a sealed page and byte 3 of a counter's cell come last (R441, R443). -/
def AtticWrite.lastPhase (w : AtticWrite) (offset : Nat) : Bool :=
  if w.sealed then offset == 63 else (counterOf w.page).isSome && offset % 4 == 3

/-- What an interrupted write may leave in its loaded bytes (R440): each byte's offset, old and new value, what it holds and whether it is
WEAK. The phase interrupted is the erase, the programming, or that of the last byte. -/
def AtticWrite.interruptedFits (w : AtticWrite) (l : List (Nat × AtticByte × Byte × Byte × Bool)) : Bool :=
  let erase := l.all fun (_, old, _, v, weak) => (v == old.val && weak == old.weak) || partWay old.val 0xFF v weak
  let program := l.all fun (o, _, new, v, weak) =>
    if w.lastPhase o then v == 0xFF && !weak else partWay 0xFF new v weak
  let commit := l.all fun (o, _, new, v, weak) =>
    if w.lastPhase o then partWay 0xFF new v weak else v == new && !weak
  erase || program || commit

/-- An interrupted write leaves what `left` says of its bytes (Attic address, value, whether it is WEAK) where R440 allows it; a byte that
`left` does not give, or a page it gives what no phase leaves, keeps its old value. -/
def State.interruptWrite (s : State) (left : List (Nat × BitVec 8 × Bool)) (w : AtticWrite) : State :=
  let now := w.loaded.map fun x =>
    let old := s.atticAt (64 * w.page + x.1)
    match left.find? fun l => l.1 == 64 * w.page + x.1 with
    | none => (x.1, old, x.2, old.val, old.weak)
    | some (_, v, weak) => (x.1, old, x.2, v, weak)
  if w.interruptedFits now then s.each now fun s (o, _, _, v, weak) => s.setAttic (64 * w.page + o) ⟨v, .good, weak⟩ else s

/-- The running writes but those of the save set are ended; where the rails fall (`save`), the save set's are too and no waiting write
starts (R440). -/
def State.interruptWrites (s : State) (left : List (Nat × BitVec 8 × Bool)) (save : Bool) : State :=
  let hit (w : AtticWrite) : Bool := w.src != .saveSet || save
  let s := s.each (s.attic.running.filter hit) fun s w => s.interruptWrite left w
  let gone := s.attic.running.filter hit ++ (if save then s.attic.waiting else [])
  let s := (s.modAttic fun a =>
    { a with running := a.running.filter fun w => !hit w, waiting := if save then [] else a.waiting }).showBanks
  let seqs := gone.filterMap AtticWrite.record?
  let s := s.modBlot fun b => { b with ring := b.ring.map fun r => if seqs.contains r.seq then { r with issued := false } else r }
  if gone.any fun w => w.tag == .hostCmd then s.atticComplete 4 else s

/-- The two save areas, and the one whose header holds the lower SAVE_SEQ (R447). -/
def State.saveHeader (s : State) (area : Nat) : Option (List Byte) :=
  let p := 4480 + 16 * area
  if s.committed p then some (s.atticPage p) else none

def State.saveTarget (s : State) : Nat × Nat :=
  match s.saveHeader 0, s.saveHeader 1 with
  | none, none => (0, 1)
  | some h, none => (1, leAt h 0 4 + 1)
  | none, some h => (0, leAt h 0 4 + 1)
  | some a, some b => if leAt a 0 4 < leAt b 0 4 then (0, leAt b 0 4 + 1) else (1, leAt a 0 4 + 1)

/-- Records in the writer's order for a save set: highest severity, then oldest. -/
def saveOrder : Nat → List BlotRecord → List BlotRecord
  | 0, _ => []
  | n + 1, l =>
    match l.foldl (fun (b : Option BlotRecord) r => match b with
        | none => some r
        | some x => if x.sev < r.sev ∨ (x.sev = r.sev ∧ r.seq < x.seq) then some r else some x) none with
    | none => []
    | some r => r :: saveOrder n (l.filter fun x => x.seq != r.seq)

/-- The save set (R447): open records close, the PWRFAIL or STANDBY record is made and leads. `kind` is 1 PWRFAIL, 2 STANDBY. -/
def State.saveSet (s : State) (kind inst : Nat) (tail : List Byte) : State :=
  let s := s.each ((s.blot.ring.filter fun r => r.isOpen).map fun r => r.seq) fun s q => s.closeRecord q
  let code := if kind = 1 then 7 else 8
  let pend := (s.blot.ring.filter fun r => r.pending).length + 1
  let n := s.blot.nextSeq
  let s := s.blotter code inst (leBytes 4 pend ++ tail)
  let first := s.blot.ring.find? fun r => r.seq == n && r.code == code
  let others := match first with
    | none => s.blot.ring.filter fun r => r.pending
    | some f => s.blot.ring.filter fun r => r.pending && r.seq != f.seq
  let lead := match first with | none => [] | some f => [f]
  let set := lead ++ saveOrder (30 - lead.length) others
  let pages := 1 + (set.length + 1) / 2
  let (area, q) := s.saveTarget
  let base := 4480 + 16 * area
  let header := leBytes 4 q ++ leBytes 1 kind ++ leBytes 1 pages ++ leBytes 2 pend ++ leBytes 4 (s.get R.blotter_CYCLES % 2 ^ 24)
    ++ leBytes 4 (s.get R.blotter_OP_S) ++ leBytes 2 (s.get R.blotter_OP_FRAC) ++ leBytes 2 0 ++ leBytes 4 s.strong.lifeClock
    ++ leBytes 4 (s.get R.blotter_NEWEST_SEQ) ++ List.replicate 35 0 ++ [0x5A]
  let s := (s.modAttic fun a => { a with saveSeq := q }).put R.blotter_ATTIC_STATUS_SAVE_ACTIVE 1
  let s := s.atticIssue ⟨.saveSet, base, loadFrom 0 header, true, .plain, false⟩
  s.each (List.range (pages - 1)) fun s k =>
    let two := (set.drop (2 * k)).take 2
    let bytes := two.flatMap fun r => r.bytes
    s.atticIssue ⟨.saveSet, base + 1 + k, loadFrom 0 (bytes ++ List.replicate (64 - bytes.length) 0xFF), false, .plain, false⟩

/-- The committed header with the higher SAVE_SEQ, and its area (R448). -/
def State.newestSave (s : State) : Option (Nat × List Byte) :=
  match s.saveHeader 0, s.saveHeader 1 with
  | none, none => none
  | some h, none => some (0, h)
  | none, some h => some (1, h)
  | some a, some b => if leAt a 0 4 < leAt b 0 4 then some (1, b) else some (0, a)

/-- Whether the save set in force counts a record among its own (R447, R448): it is of this power cycle and not newer than its header. -/
def State.savedOf (s : State) (r : BlotRecord) : Bool :=
  match s.newestSave with
  | some (_, h) => leAt h 8 4 == s.get R.blotter_CYCLES % 2 ^ 24 && decide (r.seq ≤ leAt h 24 4)
  | none => false

/-- The records of a set that can be recovered: no byte WEAK, RCRC good; a record of another power cycle is left from an earlier set (log
entry 91). -/
def State.savedRecords (s : State) (area pages cycles : Nat) : List (List Byte) :=
  (List.range (2 * (pages - 1))).filterMap fun i =>
    let a := 64 * (4480 + 16 * area + 1 + i / 2) + 32 * (i % 2)
    let bs := (List.range 32).map fun j => s.atticAt (a + j)
    let b := bs.map fun x => x.val
    if (bs.any fun x => x.weak || x.cond == .bad) || leAt b 28 4 != (crc32 (b.take 28)).toNat || leAt b 10 3 != cycles then none
    else some b

def insertBySeq (b : List Byte) : List (List Byte) → List (List Byte)
  | [] => [b]
  | c :: l => if leAt b 0 4 < leAt c 0 4 then b :: c :: l else c :: insertBySeq b l

/-- FROM_SAVE set in a record's bytes, its check renewed. -/
def fromSave (b : List Byte) : List Byte :=
  let c := b.take 13 ++ [(b.getD 13 0) ||| 0x10#8] ++ (b.drop 14).take 14
  c ++ leBytes 4 (crc32 c).toNat

/-- What a cold boot makes of the save areas (R448). CYCLES has been incremented; answers the set's size, the records recovered
and the lost count where a set of the cycle just ended is there. -/
def State.recoverSave (s : State) : Option (Nat × Nat × Nat) × State :=
  let ended := (s.get R.blotter_CYCLES + 2 ^ 24 - 1) % 2 ^ 24
  match s.newestSave with
  | some (area, h) =>
    if leAt h 8 4 = ended then
      let s := (s.put R.blotter_OP_S (leAt h 12 4)).put R.blotter_OP_FRAC (leAt h 16 2)
      let rs := (s.savedRecords area (leAt h 5 1) ended).foldl (fun l b => insertBySeq b l) []
      let s := s.each rs fun s b =>
        let slot := leAt b 0 4 % 8192
        s.atticIssue ⟨.m3, slot / 2, loadFrom (32 * (slot % 2)) (fromSave b), false, .plain, false⟩
      let lost := leAt h 6 2 - rs.length
      (some (min (leAt h 6 2) 30, rs.length, lost), s.bumpBy R.blotter_PERSIST_FAIL lost)
    else (none, (s.put R.blotter_OP_S (s.attic.opReserve * 1024)).put R.blotter_OP_FRAC 0)
  | none => (none, (s.put R.blotter_OP_S (s.attic.opReserve * 1024)).put R.blotter_OP_FRAC 0)

/-- What a cold boot does to the Attic and the Blotter: counters, CYCLES, the save set, histograms and the BOOT record (R443,
R448, R451, R452, R460). `floor` is OP_S and OP_FRAC as D00 kept them through a reset (16_startup_faults.md R467). -/
def State.bootAttic (s : State) (floor : Option (Nat × Nat)) : State :=
  let val (s : State) (d : DevCounter) : Nat := match s.newestCell d.page with | some (_, v, _) => v | none => 0
  let s := s.modAttic fun a =>
    { a with cycles := min (val s .cycles + 1) 0x0FFFFFFF, opReserve := val s .opReserve, seqReserve := val s .seqReserve,
             clearSeq := val s .clearSeq, wear := (List.range 8).foldl (fun m b =>
               Sparse.set (fun _ => 0) m b (1024 * val s (.wear b))) [], failRun := 0, faultSeen := false,
             calOffset := match s.pairCopy 4524 4525 with | some p => BitVec.ofNat 32 (leAt (s.atticPage p) 4 4) | none => 0 }
  let s := (s.counterWrite .cycles .m3 s.attic.cycles).put R.blotter_CYCLES s.attic.cycles
  let s := s.put R.blotter_LOG_FLOOR (match s.pairCopy 4526 4527 with | some p => leAt (s.atticPage p) 4 4 | none => 0)
  let s := s.modBlot fun b => { b with nextSeq := s.attic.seqReserve * 4096, hists := (List.range 35).foldl (fun m q =>
    Sparse.set (fun _ => ({} : Histogram)) m q (s.readHist q)) [] }
  let (saved, s) := s.recoverSave
  let s := match floor with
    | none => s
    | some (a, b) =>
      let o := s.get R.blotter_OP_S
      let below := if o = a then decide (s.get R.blotter_OP_FRAC < b) else decide (o < a)
      if below then (s.put R.blotter_OP_S a).put R.blotter_OP_FRAC b else s
  let s := s.advanceReserve
  let s := s.blotter 0x0001 0 (leBytes 4 s.strong.lifeClock ++ leBytes 4 s.calNow.toNat)
  match saved with
  | some (n, k, lost) => if lost = 0 then s else s.blotter 0x0006 0 (leBytes 2 n ++ leBytes 2 k ++ leBytes 4 lost)
  | none => s

/-- The tamper log entries not yet copied, oldest first (R393, R452). -/
def State.copyTamperLog (s : State) : State :=
  let fresh := (s.strong.tamperLog.filter fun e => !e.copied).reverse
  let s := s.each fresh fun s e => s.blotter 0x0009 e.source (leBytes 4 e.lifeS ++ leBytes 1 e.power) true
  let s := s.modStrong fun u => { u with tamperLog := u.tamperLog.map fun e => { e with copied := true } }
  s.raiseIf (!fresh.isEmpty) Flag.strongroom_TAMPER

end Sys2Proof.Machine
end

