-- ==== Sys2Proof/Machine/Codec.lean ====
section
/-!
DEFINITION. The encodes of the codec pool (11_codecs_cellar.md R307 to R314, 05_ingest_inkwell.md R160).
-/
namespace Sys2Proof.Machine
open Sys2Proof

/-- An engine with a role, in a cluster that runs. -/
def State.engineRole (s : State) (e : Nat) : Nat :=
  if s.on (R.codec_CFG_PRESENT e) && s.clusterUp (40 + e / 8) then s.get (R.codec_CFG_ROLE e) else 0

def State.engineFree (s : State) (e : Nat) : Bool := (s.engineJob e).isNone

/-- The lowest-numbered free engine of a role. -/
def State.freeEngine (s : State) (role : Nat) : Option Nat :=
  (List.range 32).find? fun e => s.engineRole e == role && s.engineFree e

/-- An engine takes a job, and STATUS shows it. -/
def State.startJob (s : State) (e kind stream : Nat) (j : EngineJob) : State :=
  let s := s.modCellar fun c => { c with engines := Sparse.insert (Sparse.erase c.engines e) e j }
  ((s.put (R.codec_STATUS_BUSY e) 1).put (R.codec_STATUS_JOB e) kind).put (R.codec_STATUS_STREAM e) stream

/-- The samples of a slot in raster order per component, as the encoder takes them, and whether a word was poisoned; a
format 06h frame is coded without A (R308). -/
def State.slotSamples (s : State) (n slot : Nat) : List Nat × Bool × State :=
  let v := (s.stream n).slot slot
  let code := v.fmt
  let (rows, s) := s.readPart 3 (s.slotBase n slot + 4096) code v.width v.height
  let g := pictureOf code v.height fun r => (rows.getD r []).map (·.1)
  match storageFormat code with
  | none => ([], false, s)
  | some (l, _) =>
    let samples := (List.range 3).flatMap fun c =>
      let d := planeDims l v.width v.height c
      (List.range d.2).flatMap fun r => (List.range d.1).map fun x => g c r x
    (samples, rows.any fun r => r.any (·.2), s)

/-- The class of an encode's traffic, and its bytes (02_fabric_image.md R87). -/
def State.encodeUse (s : State) (e n slot : Nat) : State :=
  let v := (s.stream n).slot slot
  s.unitUse (18 + e / 8) (s.get (R.stream_CFG_CLASS n)) (partBytes v.fmt v.width v.height)

/-- The most bytes of a codestream (R309). -/
def codeBudget (w h bpp : Nat) : Nat := w * h * bppOf bpp / 128

/-- The codestream of a frame of a stream within a budget field (R308, R309). -/
def State.codestream (s : State) (n : Nat) (v : SlotInfo) (samples : List Nat) (bpp : Nat) : List Byte :=
  let b := codeBudget v.width v.height bpp
  (Config.xsEncode v.fmt v.width v.height (s.get (R.stream_RATE_NUM n)) (s.get (R.stream_RATE_DEN n)) samples b).take b

/-- A frame for the host ring: header and codestream, padded to 256 bytes (R313). -/
def hostFrame (v : SlotInfo) (cs : List Byte) (status : Nat) : List Byte :=
  let b := leBytes 4 v.seq ++ leBytes 4 cs.length ++ leBytes 6 v.doneFrame ++ leBytes 2 v.doneLine ++ leBytes 1 v.flags
    ++ leBytes 1 status ++ leBytes 2 0 ++ leBytes 4 v.lumaCrc.toNat ++ leBytes 8 0 ++ cs
  b ++ List.replicate ((256 - b.length % 256) % 256) 0

/-- Where a frame of `len` bytes goes in the host ring: preceded by a wrap marker or not, its offset and the offset after it;
none where it would pass HENC_RD. -/
def ringPlace (size wr rd len : Nat) : Option (Bool × Nat × Nat) :=
  let free := (rd + size - wr - 1) % size
  if wr + len ≤ size then (if len ≤ free then some (false, wr, (wr + len) % size) else none)
  else if size - wr + len ≤ free then some (true, 0, len) else none

/-- A host-encode frame is skipped (R313). -/
def State.hencSkip (s : State) (e : Nat) : State := (s.bump (R.codec_HENC_SKIP e)).raise (Flag.codec_HENC_SKIP e)

/-- R313: on a new complete frame of the stream in HENC_CFG. In QUIET nothing is encoded (14_power_thermal.md R410), nor
while shed action 4 is in force (R428). -/
def execHostEncodeStart (engine : Fin 32) (s : State) : Result :=
  let e := engine.val
  let n := s.get (R.codec_HENC_CFG_STREAM e)
  if s.engineRole e ≠ 2 ∨ s.on (R.codec_HENC_CFG_EN e) = false then .next s
  else if s.quiet || (s.get R.power_SHED).testBit 4 then .next (s.hencSkip e)
  else match (s.stream n).newest with
    | none => .next s
    | some i =>
      let size := s.get (R.codec_HENC_RING_SIZE e) * 65536
      let v := (s.stream n).slot i
      if s.engineFree e = false ∨ size = 0 then .next (s.hencSkip e)
      else
        let (samples, poison, s) := (s.encodeUse e n i).slotSamples n i
        let f := hostFrame v (s.codestream n v samples (s.get (R.codec_HENC_CFG_BPP e))) (if poison then 1 else 0)
        match ringPlace size (s.get (R.codec_HENC_WR e) % size) (s.get (R.codec_HENC_RD e) % size) f.length with
        | none => .next (s.hencSkip e)
        | some _ =>
          let s := if poison then (s.bump (R.codec_POISONED e)).raise (Flag.codec_POISONED e) else s
          .next (((s.pin n (.engine e) false).2).startJob e 2 n (.host n i f))

/-- The host frame is written and HENC_WR advances (R313). -/
def State.hostEncodeDone (s : State) (e : Nat) (f : List Byte) : State :=
  let base := s.get (R.codec_HENC_RING_BASE e) * 65536
  let size := s.get (R.codec_HENC_RING_SIZE e) * 65536
  let wr := s.get (R.codec_HENC_WR e)
  let s := s.endJob e
  if size = 0 then s.hencSkip e
  else match ringPlace size (wr % size) (s.get (R.codec_HENC_RD e) % size) f.length with
    | none => s.hencSkip e
    | some (wrap, at_, next) =>
      let s := if wrap then s.memWrite 3 (base + wr % size) (List.replicate 17 0 ++ [0xFF] ++ List.replicate 14 0) else s
      let s := s.memWrite 3 (base + at_) f
      ((s.put (R.codec_HENC_WR e) next).bump (R.codec_JOBS e)).raise (Flag.codec_HENC_FRAME e)

/-- Of two queued Cellar jobs the one that ranks higher (R312). -/
def State.jobBefore (s : State) (a b : Nat) : Bool :=
  let inc (n : Nat) : Nat := match (s.celEntry n).seg with | some g => if g.flags % 2 = 1 then 0 else 1 | none => 1
  let cls (n : Nat) : Nat := s.get (R.stream_CFG_CLASS (s.entryStream n))
  let ord (n : Nat) : Nat := ((s.celEntry n).job).getD 0
  if inc a ≠ inc b then decide (inc a < inc b)
  else if cls a ≠ cls b then decide (cls a < cls b) else decide (ord a < ord b)

/-- The queued job that ranks highest. -/
def State.topJob (s : State) : Option Nat :=
  (s.entryNums.filter fun n => (s.celEntry n).job.isSome).foldl
    (fun b n => match b with | none => some n | some m => if s.jobBefore n m then some n else some m) none

/-- A Cellar job is latched (R160, R320). -/
def State.latchEncode (s : State) (e n st slot : Nat) : State :=
  let s := s.modCellar fun c => { c with latches := s.lastSecond c.latches ++ [s.ruling.lineTotal] }
  ((s.pin st (.engine e) false).2).startJob e 3 st (.cellar n st slot)

/-- Whether a SEQ comes before another, SEQ counting modulo 2^32 (05_ingest_inkwell.md R147, log entry 140). -/
def seqBefore (a b : Nat) : Bool := decide (2 ^ 31 ≤ (a + 2 ^ 33 - b) % 2 ^ 32)

/-- R312, R320: the top job goes to the lowest-numbered free engine; at the latch it is dropped when the newest frame is recorded
already or comes before FRAME_DIV, and a frame so left out counts as never encoded (log entry 140). -/
def execCellarEncodeStart (s : State) : Result :=
  match s.topJob, s.freeEngine 3 with
  | some n, some e =>
    let s := s.modEntry n fun x => { x with job := none }
    let st := s.entryStream n
    match (s.stream st).newest with
    | none => .next s
    | some i =>
      let seq := ((s.stream st).slot i).seq
      match (s.celEntry n).lastSeq with
      | some l =>
        if seq = l then .next s
        else if seqBefore seq (l + s.entryDiv n) then .next (s.missFrame n 1)
        else .next (s.latchEncode e n st i)
      | none => .next (s.latchEncode e n st i)
  | _, _ => .next s

/-- The payload of a FRAME record (R331). -/
def framePayload (v : SlotInfo) (map cs : List Byte) : List Byte :=
  leBytes 4 v.seq ++ leBytes 6 v.doneFrame ++ leBytes 2 v.doneLine ++ leBytes 2 v.doneFrac ++ leBytes 2 v.srcGap
    ++ leBytes 4 v.lumaCrc.toNat ++ leBytes 4 v.concealPix ++ leBytes 2 v.concealRows ++ leBytes 2 v.repeatCnt
    ++ leBytes 1 v.flags ++ leBytes 1 (if map.isEmpty then 0 else 1) ++ leBytes 2 0 ++ leBytes 4 cs.length ++ leBytes 4 0 ++ map ++ cs

/-- A Cellar encode ends: the frame and its Marginalia record are appended (R320, R321); a poisoned word abandons it (R314). -/
def State.cellarEncodeDone (s : State) (e n st slot : Nat) : State :=
  let v := (s.stream st).slot slot
  let (samples, poison, s) := (s.encodeUse e st slot).slotSamples st slot
  let s := s.endJob e
  if poison then
    let s := (s.bump (R.codec_POISONED e)).raise (Flag.codec_POISONED e)
    ((s.missFrame n 5).flushMissed n).showCellar
  else
    let cs := s.codestream st v samples (getBits (s.entrySrc n) 31 24)
    let (map, s) := if v.flags % 2 = 1 then
        let (m, s) := s.memRead 3 (s.slotBase st slot + 512) 512
        (m.map (·.1), s)
      else ([], s)
    let s := s.flushMissed n
    let s := s.appendRecord { s.newRecord n 1 (framePayload v map cs) v.doneFrame with seq := v.seq, slotFlags := v.flags, lineAt := v.doneTotal }
    let s := s.modEntry n fun x => { x with lastSeq := some v.seq }
    let s := if (s.entryCtrl n).getLsbD 27 then
        match (s.stream st).margs.find? fun m => m.seq == v.seq with
        | none => s
        | some m => s.appendRecord { s.newRecord n 3 (leBytes 4 v.seq ++ leBytes 4 0 ++ m.bytes) v.doneFrame with seq := v.seq, lineAt := v.doneTotal }
      else s
    (s.bump (R.codec_JOBS e)).showCellar

/-- R312, R320: an encode not finished 0.9 × T_s after its latch. -/
def execEncodeAbandon (engine : Fin 32) (s : State) : Result :=
  let e := engine.val
  let note (s : State) : State := (s.bump (R.codec_ABANDONED e)).raise (Flag.codec_ABANDONED e)
  match s.engineJob e with
  | some (.cellar n _ _) =>
    let s := s.modCellar fun c => { c with abandons := s.lastSecond c.abandons ++ [s.ruling.lineTotal] }
    .next (((note s).endJob e).missFrame n 1)
  | some (.host _ _ _) => .next (note (s.endJob e))
  | _ => .next s

end Sys2Proof.Machine
end

