-- ==== Sys2Proof/Machine/Cellar.lean ====
section
/-!
DEFINITION. The commands of the Cellar recorder (11_codecs_cellar.md R315 to R340).
-/
namespace Sys2Proof.Machine
open Sys2Proof

/-- R315: `word` 0 is CTRL, 1 SRC, 2 AUDIO. EN = 0 on an entry that records stops it at the next frame boundary. -/
def execCellarEntryWrite (entry : Fin 256) (word : Fin 3) (value : BitVec 32) (s : State) : Result :=
  s.rowWrite (0x1B1000 + 32 * entry.val) fun s =>
  if s.maxEntries ≤ entry.val then .next s
  else
    let n := entry.val
    let mask : BitVec 32 := if word = 0 then 0xFFFFFFF0 else if word = 1 then 0xFF0007FF else 0xF80007FF
    let s := s.wr (Reg.cellar_ENTRY_CTRL n + 4 * word.val) (value &&& mask)
    let s := if word = 0 then s.modEntry n fun e => { e with hostStop := e.mode != 0 && !value.getLsbD 31 } else s
    .next s.retrigger

/-- R316: the heartbeat watch runs from the first write, or with HB_BOOT from the entry to READY instead. -/
def execHeartbeat (s : State) : Result :=
  s.rowWrite Reg.cellar_HEARTBEAT fun s =>
    .next (if s.on R.cellar_CTRL_HB_BOOT = true ∧ s.celMode ≠ .ready then s else s.modCellar fun c => { c with hbSeen := true })

/-- The uplink is lost (R316). -/
def State.loseUplink (s : State) : State :=
  if s.on R.cellar_CFG_PRESENT && !s.on R.cellar_STATE_UPLINK_LOST then
    ((s.put R.cellar_STATE_UPLINK_LOST 1).raise Flag.cellar_UPLINK_LOST).retrigger
  else s

def execHeartbeatLapse (s : State) : Result :=
  .next (if s.cellar.hbSeen then
      (s.modCellar fun c => { c with hbLapsed := true }).loseUplink
    else s)

def execUplinkPinLoss (s : State) : Result :=
  .next (if s.on R.cellar_CTRL_UPLINK_PIN_EN then (s.modCellar fun c => { c with pinLost := true }).loseUplink else s)

/-- R316: both conditions of the return have held. -/
def execUplinkRestored (s : State) : Result :=
  let s := s.modCellar fun c => { c with hbLapsed := false, pinLost := false }
  .next (if s.on R.cellar_STATE_UPLINK_LOST then
      ((s.put R.cellar_STATE_UPLINK_LOST 0).raise Flag.cellar_UPLINK_BACK).retrigger
    else s)

/-- R316, R323: a mark with source HOST in every entry. -/
def execIncidentSet (s : State) : Result :=
  s.rowWrite Reg.cellar_INCIDENT_CMD fun s => .next (s.incident 1 0)

def State.endIncident (s : State) : State := (s.put R.cellar_STATE_INCIDENT 0).retrigger

def execIncidentClear (s : State) : Result :=
  s.rowWrite Reg.cellar_INCIDENT_CMD fun s => .next s.endIncident
def execIncidentHoldExpiry (s : State) : Result := .next s.endIncident

/-- R317: the entry stops at its next segment boundary. -/
def execPostSExpiry (entry : Fin 256) (s : State) : Result :=
  .next (s.modEntry entry fun e => if e.mode = 2 then { e with stopDue := true } else e)

/-- A word of the delay store as the Cellar reads it: its sample and whether it is valid (R321). -/
def State.storeWord (s : State) (i k : Nat) : Int × Bool × State :=
  if s.inCount ≤ i ∨ k + s.ringWords ≤ s.audio.k ∨ (k : Int) < (s.audio.startK : Int) - 72 then (0, false, s)
  else
    let (bs, s) := s.memRead 4 (s.ringAddr i k) 4
    let v := leAt (bs.map (·.1)) 0 4
    if v.testBit 24 && !bs.any (·.2) then (int24 v, true, s) else (0, false, s)

/-- R321: a span of 960 samples of the entry's channels. -/
def execCellarAudioRecord (entry : Fin 256) (s : State) : Result :=
  let n := entry.val
  let a := s.entryAudio n
  let count := min 16 (getBits a 31 27)
  let first := getBits a 10 0
  let e := s.celEntry n
  let m := s.nextSpan n
  if count = 0 ∨ e.suspended = true ∨ (e.ended.isEmpty ∧ (s.entryOn n = false ∨ (e.mode = 0 ∧ s.entryPreroll n = 0)))
      ∨ s.maxEntries ≤ n ∨ s.audioOn = false ∨ s.audio.k < 960 * (m + 1) + 96 then .next s
  else
    let ((data, lost), s) := ((List.range 960).flatMap fun j => (List.range count).map fun c => (960 * m + j, first + c)).foldl
      (fun (x : (List Byte × Nat) × State) p =>
        let (v, ok, s) := x.2.storeWord p.2 p.1
        ((x.1.1 ++ leBytes 3 (twos 24 v), x.1.2 + (if ok then 0 else 1)), s)) (([], 0), s)
    let p := leBytes 8 (960 * m) ++ leBytes 1 count ++ leBytes 1 0 ++ leBytes 2 960 ++ leBytes 2 (min lost 0xFFFF) ++ leBytes 2 0 ++ data
    let s := s.modEntry n fun e => { e with nextSpan := some (m + 1) }
    .next (s.appendRecord (s.newRecord n 2 p (s.spanFrame m))).showCellar

/-- Pending records the drive takes within a budget of bytes, oldest first; a record begun within it is written whole (log entry 138). -/
def takeWrites : Nat → List CelRecord → List CelRecord
  | _, [] => []
  | b, r :: l => if b = 0 then [] else r :: takeWrites (b - r.bytes.length) l

/-- R319: 10 ms have passed; the ring and the drive take what DRIVE_RATE MB/s allows, and footers whose records are written follow
(R334). -/
def execCellarDriveWrite (s : State) : Result :=
  let s := s.modCellar fun c => { c with ringDebt := c.ringDebt - s.tenMs, driveDebt := c.driveDebt - s.tenMs }
  let s := State.drainRing false s.cellar.ringWait s
  if s.celMode = .ready then
    let s := s.settleFresh.writeRecords (takeWrites (s.tenMs - s.cellar.driveDebt) (s.cellar.ring.filter fun r => r.st == 1))
    .next (s.writeFooters s.cellar.closing.length).showCellar
  else .next s

/-- R333: the signature that runs is complete, ORPHANED when the key's chain changed since its load, or ABORTED. -/
def execFooterSignatureDone (aborted : Bool) (s : State) : Result :=
  if s.signing then
    .next (s.settleFooter fun c =>
      if aborted then 5 else if c.gens = s.parentGens c.parent then (if s.testRoot then 1 else 0) else 4).engineNext
  else .next s

/-- R333: the oldest footer whose signature is not complete within 1 s is written unsigned. -/
def execFooterSignTimeout (s : State) : Result := .next (s.settleFooter fun _ => 3).engineNext

/-- The row of the suspension order an entry stands in (R324). -/
def State.shedRank (s : State) (n : Nat) : Nat :=
  let inc : Bool := match (s.celEntry n).seg with | some g => g.flags % 2 == 1 | none => false
  (if inc then 4 else 0) + (3 - s.get (R.stream_CFG_CLASS (s.entryStream n)))

/-- The entry to suspend first: the lowest row, and the highest number within it; or the last of those (`last`). -/
def State.shedPick (s : State) (l : List Nat) (last : Bool) : Option Nat :=
  let before (a b : Nat) : Bool := decide (s.shedRank a < s.shedRank b) || (s.shedRank a == s.shedRank b && decide (b < a))
  l.foldl (fun p n => match p with | none => some n | some m => if (if last then before m n else before n m) then some n else some m) none

/-- R324, every 10 ms: one entry is suspended while overloaded; relieved, the first resumes at once and one more each 100 ms. -/
def execCellarOverloadCheck (s : State) : Result :=
  let latched := (s.lastSecond s.cellar.latches).length
  let abandoned := (s.lastSecond s.cellar.abandons).length
  let size := s.ringSize
  let pend := s.ringPending
  let isOver := decide (size * 90 ≤ pend * 100 ∧ size ≠ 0) || decide (latched * 2 < abandoned * 100)
  let relieved := decide (pend * 100 < size * 70) && (abandoned == 0 || decide (abandoned * 100 < latched))
  let active := s.entryNums.filter fun n => (s.celEntry n).mode != 0
  if isOver then
    let s := s.modCellar fun c => { c with calm := 0 }
    match s.shedPick (active.filter fun n => !(s.celEntry n).suspended) false with
    | none => .next s
    | some n =>
      let s := if (s.celEntry n).job.isSome then s.missFrame n 2 else s
      let s := s.modEntry n fun e => { e with suspended := true, job := none }
      .next ((s.bump R.cellar_SUSPENDS).raise Flag.cellar_SUSPEND).showCellar
  else if relieved then
    let due := s.cellar.calm % 10 == 0
    let s := s.modCellar fun c => { c with calm := c.calm + 1 }
    match s.shedPick (s.entryNums.filter fun n => (s.celEntry n).suspended) true with
    | none => .next (s.modCellar fun c => { c with calm := 0 })
    | some n =>
      if due then .next ((s.modEntry n fun e => { e with suspended := false, nextSpan := none }).flushMissed n).showCellar else .next s
  else .next (s.modCellar fun c => { c with calm := 0 })

/-- R328. -/
def execSuperblockTimer (s : State) : Result :=
  .next (if s.celMode = .ready ∧ s.cellar.dirty = true then s.settleFresh.writeSuperblock else s)

/-- A superblock copy with a good SCRC. -/
def superblockGood (b : List Byte) : Bool :=
  slice b 0 4 == [0x47, 0x57, 0x43, 0x42] && leAt b 4092 4 == (crc32 (slice b 0 4092)).toNat

/-- The drive a superblock describes. -/
def driveOf (b : List Byte) (dsm : Bool) : CelDrive :=
  { lbaShift := leAt b 6 2, sbSeq := leAt b 8 8, uuid := slice b 16 16, owner := slice b 32 16, cbCount := leAt b 48 8,
    dirEntries := leAt b 56 4, extentCb := max 1 (leAt b 60 4), dataStart := leAt b 64 8, head := leAt b 72 8,
    nextGseq := leAt b 88 8, oldest := leAt b 96 8, nextOpenId := leAt b 104 8, protectExt := leAt b 112 4,
    formatOpsec := leAt b 120 4, formatCycles := leAt b 124 4, lastChain := slice b 176 48, dsm := dsm }

/-- The records of a segment up to the end marker or the first bad RCRC: their length, and whether the end was marked (R331,
R337). -/
def goodRecords : Nat → List Byte → List (List Byte) × Bool
  | 0, _ => ([], false)
  | k + 1, bs =>
    let len := leAt bs 4 4
    let all := 16 + (len + 15) / 16 * 16
    if bs.length < 16 then ([], false)
    else if bs.take 16 = List.replicate 16 0 then ([], true)
    else if bs.length < all ∨ leAt bs 8 4 ≠ (crc32 (bs.take 8 ++ slice bs 16 len)).toNat then ([], false)
    else
      let (l, e) := goodRecords k (bs.drop all)
      (bs.take all :: l, e)

/-- An extent examined at recovery: a good header, its records and its footer if that is good (R337). -/
def examine (bytes : List Byte) : Option (List (List Byte) × Option (List Byte)) :=
  if slice bytes 0 4 == [0x47, 0x57, 0x43, 0x48] && leAt bytes 4092 4 == (crc32 (slice bytes 0 4092)).toNat then
    let (rs, marked) := goodRecords bytes.length (bytes.drop 4096)
    let body := rs.foldl (fun n r => n + r.length) 0 + 16
    let f := slice bytes (4096 + (body + 4095) / 4096 * 4096) 4096
    let good := marked && slice f 0 4 == [0x47, 0x57, 0x43, 0x46] && leAt f 4092 4 == (crc32 (slice f 0 4092)).toNat
    some (rs, if good then some f else none)
  else none

/-- The directory entry a footer and its header give (R329). -/
def dirOfFooter (cb : Nat) (rs : List (List Byte)) (f : List Byte) : List Byte :=
  let marks := (rs.filter fun r => leAt r 0 1 == 4).length
  dirBytes (slice f 8 8 ++ leBytes 1 (if (leAt f 7 1).testBit 1 then 2 else 1) ++ slice f 7 1 ++ slice f 6 1 ++ slice f 18 1
    ++ slice f 16 2 ++ leBytes 2 0 ++ leBytes 8 cb ++ slice f 20 4 ++ slice f 24 4 ++ slice f 40 6 ++ leBytes 2 (min marks 0xFFFF)
    ++ slice f 48 4 ++ slice f 52 4 ++ slice f 56 4 ++ slice f 32 4 ++ slice f 36 4 ++ leBytes 4 0 ++ slice f 232 48)

/-- A segment rebuilt from an extent without a good footer, with its gap record of cause POWER (R337). -/
def State.rebuild (s : State) (cb : Nat) (bytes : List Byte) (rs : List (List Byte)) : CelSeg × State :=
  let h := slice bytes 0 4096
  let frames := rs.filter fun r => leAt r 0 1 == 1
  let seqOf (r : List Byte) := leAt r 16 4
  let flagOf (r : List Byte) := leAt r 44 1
  let last := (frames.getLast?.map seqOf).getD 0
  let missed := Config.framesLost s.freeCount
  let gap := recordBytes 5 0 (leBytes 1 7 ++ leBytes 3 0 ++ leBytes 4 last ++ leBytes 4 missed ++ leBytes 6 s.ruling.frame ++ leBytes 2 0)
  let acc := frames.foldl (fun a r => a ||| (if (flagOf r).testBit 1 then 8 else 0) ||| (if (flagOf r).testBit 0 then 16 else 0)
    ||| (if (flagOf r).testBit 4 then 32 else 0)) (0xC0 + (if (leAt h 6 1).testBit 0 then 4 else 0) + (if (leAt h 6 1).testBit 1 then 1 else 0))
  ({ openId := leAt h 8 8, entry := leAt h 7 1, stream := leAt h 16 2, endFrame := 0, bound := 0, startCb := cb, header := h,
     body := rs.flatten ++ gap, frames := frames.length, records := rs.length + 1, firstSeq := (frames.head?.map seqOf).getD 0,
     lastSeq := last, firstDone := (frames.head?.map fun r => leAt r 20 6).getD 0,
     marks := min 0xFFFF (rs.filter fun r => leAt r 0 1 == 4).length,
     gapFrames := missed + (rs.filter fun r => leAt r 0 1 == 5).foldl (fun n r => n + leAt r 24 4) 0,
     flags := acc, opsec := leAt h 32 4 }, s.drawn)

/-- RECOVERING (R337): footers found give missing directory entries, open segments close with RECOVERED; READY follows their footers. -/
def State.recover (s : State) (extents : List (Nat × List Byte)) : State :=
  let s := s.setCelMode .recovering
  let seen := extents.filterMap fun x => (examine x.2).map fun y => (x.1, x.2, y.1, y.2)
  let s := s.each seen fun s x =>
    match x.2.2.2 with
    | none => s
    | some f =>
      let g := leAt f 8 8
      let have_ := s.cellar.dir.any fun d => d.1 == g && dirStart d.2.1 == x.1
      let s := if have_ then s else (s.setDir g (dirOfFooter x.1 x.2.2.1 f) true).writeDir g
      s.modDrive fun d => if d.nextGseq ≤ g then { d with nextGseq := g + 1, lastChain := slice f 232 48 } else d
  let openOnes := seen.filter fun x => x.2.2.2.isNone
  let (segs, s) := openOnes.foldl (fun (a : List CelSeg × State) x =>
    let (g, s) := a.2.rebuild x.1 x.2.1 x.2.2.1
    (g :: a.1, s)) ([], s)
  let ordered := (segs.map fun g => ({ g with entry := 0 }, g.entry)).foldl (fun l x => insertEnded x l) []
  let s := s.each ordered fun s x => s.closeOne { x.1 with entry := x.2 } 5
  let s := s.raiseIf (!segs.isEmpty) Flag.cellar_RECOVERED
  ((s.writeFooters s.cellar.closing.length).engineNext.recovered).showCellar

/-- The admin commands of INIT (R325): Identify, Number of Queues, the write cache where present, four queue pairs. -/
def initCommands (cache : Bool) : List (Nat × Nat) :=
  [(6, 1), (6, 0), (0xA, 7), (9, 7), (0xA, 6)] ++ (if cache then [(9, 6)] else []) ++ ((List.range 4).map fun k => (5, k + 1))
    ++ (List.range 4).map fun k => (1, k + 1)

/-- R325, R326, R337: INIT ends. `link` says that the controller came up; it has a volatile write cache where `cache`, takes transfers of
`transfer` bytes where that is not 0, and deallocates where `dsm`; the namespace has `blocks` blocks of `lbaBytes` bytes, `plain` without
metadata and protection. `copies` are the superblock copies read, `dir` the directory's entries, `extents` what is read of the extents
examined. -/
def execCellarInit (link : Bool) (lbaBytes blocks : Nat) (plain dsm cache : Bool) (transfer : Nat) (copies dir : List (List (BitVec 8)))
    (extents : List (Nat × List (BitVec 8))) (s : State) : Result :=
  let lim := if transfer = 0 then 2 ^ 20 else min transfer (2 ^ 20)
  if s.celMode = .noDrive ∧ link = false then .next s
  else if s.celMode = .noDrive ∨ s.celMode = .init then
    let suitable := link && plain && (lbaBytes == 512 || lbaBytes == 4096) && decide (2 ^ 32 ≤ lbaBytes * blocks)
    let s := s.setCelMode .init
    let s := if link then s.each (initCommands cache) fun s x => s.emit (.driveAdmin x.1 x.2) else s
    if suitable = false then .next (s.setCelMode .noDrive)
    else
      let good := copies.filter superblockGood
      let best := good.foldl (fun b c => match b with | none => some c | some d => if leAt d 8 8 < leAt c 8 8 then some c else some d) none
      let s := s.modCellar fun c => { c with timeouts := 0, nvme := [], closing := [], dir := [], dirty := false, fresh := [] }
      match best with
      | none =>
        let d : CelDrive := { cbCount := lbaBytes * blocks / 4096, lbaShift := if lbaBytes = 512 then 9 else 12, dsm := dsm, transfer := lim }
        .next ((s.modCellar fun c => { c with drive := some { d with dataStart := d.cbCount } }).setCelMode .blank).showCellar
      | some b =>
        let d := { driveOf b dsm with transfer := lim }
        let s := s.modCellar fun c => { c with drive := some d, dirPos := s.get R.cellar_DIR_CURSOR_LO + 2 ^ 32 * s.get R.cellar_DIR_CURSOR_HI }
        let s := s.each dir fun s e =>
          if leAt e 8 1 ≠ 0 ∧ leAt e 124 4 = (crc32 (slice e 0 124)).toNat then s.setDir (leAt e 0 8) (slice e 0 128) true else s
        if d.owner = slice s.uid 0 16 then .next (s.recover extents) else .next ((s.setCelMode .foreign).showCellar)
  else .next s

/-- R326: FAULT is left for a new INIT; NO_DRIVE is left when a link comes up, which CELLAR_INIT says. -/
def execCellarRetryTimer (s : State) : Result :=
  .next (if s.celMode = .fault then s.setCelMode .init else s)

/-- R318, R325, R334, R339: records the drive has completed are free; a written entry appears in the directory port. -/
def execNvmeCompletion (tag : Nat) (s : State) : Result :=
  match s.cellar.nvme.find? fun x => x.1 == tag with
  | none => .next s
  | some (_, t) =>
    let s := s.modCellar fun c => { c with nvme := c.nvme.filter fun x => x.1 != tag }
    match t with
    | .records ids => .next (s.modCellar fun c => { c with ring := c.ring.filter fun r => !ids.contains r.id }).showCellar
    | .other => .next s
    | .dirEntry g => .next (s.modCellar fun c => { c with dir := c.dir.map fun x => if x.1 = g then (x.1, x.2.1, true) else x })

/-- A drive event counts, is raised and recorded (R326). -/
def State.driveError (s : State) : State :=
  ((s.bump R.cellar_DRIVE_ERRORS).raise Flag.cellar_DRIVE_ERROR).blotter 0x0601 0 (leBytes 1 s.celMode.code)

/-- A command of the block completes (R340), with the word that RESULT_INFO takes: 0 where a command has none (00_scope.md R14, log
entry 118). -/
def State.celComplete (s : State) (status : Nat) (info : Nat := 0) : State :=
  ((s.put R.cellar_RESULT_INFO info).complete Reg.cellar_RESULT status).raise Flag.cellar_CMD_DONE

/-- FAULT (R326): recording stops; what is open is left to recovery, the frames missed carry the cause DRIVE (log entry 37). -/
def State.celFault (s : State) : State :=
  let s := s.each s.entryNums fun s n =>
    if (s.celEntry n).mode = 0 then s
    else s.modEntry n fun e => { e with mode := 0, stopDue := false, suspended := false, seg := none, ended := [], cause := 6 }
  let s := s.modCellar fun c => { c with closing := [], nvme := [], drive := none, fresh := [], ring := c.ring.filter fun r => r.st == 0 }
  (s.setCelMode .fault).showCellar.engineNext

/-- R326: one controller reset, then FAULT. -/
def execNvmeTimeout (s : State) : Result :=
  if s.cellar.drive.isNone then .next s
  else
    let s := s.driveError
    if s.cellar.timeouts = 0 then .next ((s.modCellar fun c => { c with timeouts := 1 }).emit (.driveCommand 1 0))
    else .next s.celFault

def execRootPortLinkDown (s : State) : Result :=
  .next (if s.celMode = .off ∨ s.celMode = .noDrive ∨ s.celMode = .fault then s else s.driveError.celFault)

/-- The geometry FORMAT gives a drive (R327): none where FMT_CFG is out of range or the directory is too small. -/
def State.formatDrive (s : State) (d : CelDrive) (uuid : List Byte) : Option CelDrive :=
  let mib := s.get R.cellar_FMT_CFG_EXTENT_MIB
  let ents := s.get R.cellar_FMT_CFG_DIR_4K * 4096
  let start := 2 + ents * 128 / 4096
  let ext := mib * 256
  if mib = 0 ∨ 1024 < mib ∨ ents < (d.cbCount - start) / ext ∨ d.cbCount < start + ext then none
  else some { lbaShift := d.lbaShift, uuid := uuid, owner := slice s.uid 0 16, cbCount := d.cbCount, dirEntries := ents, extentCb := ext,
              dataStart := start, head := start, formatOpsec := s.get R.blotter_OP_S, formatCycles := s.get R.blotter_CYCLES % 2 ^ 24,
              lastChain := genesis uuid (slice s.uid 0 16), dsm := d.dsm, transfer := d.transfer }

/-- R340: FORMAT of a blank drive, or of one an owner command permits (13_strongroom.md R386); not while the entropy source, which gives
DRIVE_UUID, fails (log entry 142). -/
def execCellarFormat (s : State) : Result :=
  .next <| s.offer Reg.cellar_RESULT Flag.cellar_CMD_OVERRUN fun s =>
    let s := s.accept Reg.cellar_RESULT
    let m := s.celMode
    match s.cellar.drive with
    | none => s.celComplete (if m = .fault then 3 else 4)
    | some d =>
      let permitted : Bool := match s.strong.formatPermit with
        | some (u, e) => decide (s.get R.blotter_OP_S < e) && (u == List.replicate 16 0 || u == d.uuid)
        | none => false
      if m = .recovering ∨ m = .init ∨ m = .off ∨ m = .noDrive then s.celComplete 4
      else if m ≠ .blank ∧ permitted = false then s.celComplete 5
      else if s.entropyOk = false then s.celComplete 4
      else
        let (u, s) := s.draw 16
        match s.formatDrive d u with
        | none => s.celComplete 6
        | some d =>
          let s := s.modStrong fun x => { x with formatPermit := none }
          let s := s.each s.entryNums fun s n => s.modEntry n fun e => { e with mode := 0, seg := none, ended := [], lastSeq := none }
          let s := s.modCellar fun c =>
            { c with drive := some d, dir := [], closing := [], nvme := [], fresh := [], dirPos := 0, ring := c.ring.filter fun r => r.st == 0 }
          ((s.writeSuperblock.setCelMode .init).celComplete 0).showCellar.engineNext

/-- R340: `ok` says that the drive read without error, `data` is what it read. Without Bus Master Enable the copy fails
(12_host_control.md R345). -/
def execCellarReadSeg (ok : Bool) (data : List (BitVec 8)) (s : State) : Result :=
  .next <| s.offer Reg.cellar_RESULT Flag.cellar_CMD_OVERRUN fun s =>
    let s := s.accept Reg.cellar_RESULT
    let g := s.get R.cellar_ARG_GSEQ_LO + 2 ^ 32 * s.get R.cellar_ARG_GSEQ_HI
    match s.celMode with
    | .off | .noDrive | .init | .recovering => s.celComplete 4
    | .fault => s.celComplete 3
    | _ =>
      match s.cellar.dir.find? fun x => x.1 == g && (dirState x.2.1 == 1 || dirState x.2.1 == 2) with
      | none => s.celComplete 1
      | some (_, b, _) =>
        let cbs := leAt b 24 4
        if s.get R.cellar_ARG_LEN < cbs then s.celComplete 2
        else if ok = false ∨ s.on R.hostif_LINK_BME = false then s.celComplete 3
        else
          let a := (s.get R.cellar_ARG_ADDR_LO + 2 ^ 32 * s.get R.cellar_ARG_ADDR_HI) / 4096 * 4096
          ((s.unitUse 22 s.fabric.now.single.cellarClass (cbs * 4096)).emit (.hostWrite a (slice data 0 (cbs * 4096)))).celComplete 0 cbs

/-- R326: INIT at once. -/
def execCellarRescan (s : State) : Result :=
  .next <| s.offer Reg.cellar_RESULT Flag.cellar_CMD_OVERRUN fun s =>
    let s := s.accept Reg.cellar_RESULT
    if s.celMode = .off then s.celComplete 4
    else ((if s.celMode = .ready then s.closeAll 6 else s).setCelMode .init).celComplete 0

def execCellarBadCommand (s : State) : Result :=
  .next <| s.offer Reg.cellar_RESULT Flag.cellar_CMD_OVERRUN fun s => (s.accept Reg.cellar_RESULT).celComplete 6

/-- R339: the queue of the directory port starts again from the cursor. -/
def execDirCursorWrite (high : Bool) (value : BitVec 32) (s : State) : Result :=
  s.rowWrite Reg.cellar_DIR_CURSOR_LO fun s =>
  let s := s.wr (if high then Reg.cellar_DIR_CURSOR_HI else Reg.cellar_DIR_CURSOR_LO) value
  .next (s.modCellar fun c => { c with dirPos := s.get R.cellar_DIR_CURSOR_LO + 2 ^ 32 * s.get R.cellar_DIR_CURSOR_HI })

/-- A read of DIR_HDR pops the next entry, in rising GSEQ, once its directory CB has been written (R339). -/
def State.dirPop (s : State) : State :=
  match s.cellar.dir.find? fun x => decide (s.cellar.dirPos ≤ x.1) && dirState x.2.1 != 0 with
  | none | some (_, _, false) => (s.putBytes (Reg.cellar_DIR_DATA 0) (List.replicate 128 0)).put R.cellar_DIR_HDR_VALID 0
  | some (g, b, true) =>
    let s := s.modCellar fun c => { c with dirPos := g + 1 }
    (s.putBytes (Reg.cellar_DIR_DATA 0) (slice b 0 128)).put R.cellar_DIR_HDR_VALID 1

/-- PWRFAIL_N falls: appending stops, pending records of open extents go to the drive, with a Flush (R336). -/
def State.cellarPowerFail (s : State) : State :=
  if s.celMode = .ready then
    (s.writePending.emit (.driveCommand 0 0)).modCellar fun c => { c with powerFail := true }
  else s.modCellar fun c => { c with powerFail := true }

/-- PWRFAIL_N has stayed high (14_power_thermal.md R419): appending resumes with a gap of cause POWER. -/
def State.cellarPowerBack (s : State) : State :=
  let s := s.modCellar fun c => { c with powerFail := false }
  (s.each s.entryNums fun s n =>
    let e := s.celEntry n
    if e.mode ≠ 0 ∧ e.missed ≠ 0 then (s.modEntry n fun e => { e with cause := 7 }).flushMissed n else s).showCellar

/-- ENABLE or the CELLAR record changed (R326). -/
def State.cellarEnable (s : State) : State :=
  if s.on R.cellar_CFG_PRESENT && s.on R.cellar_CTRL_ENABLE then
    if s.celMode = .off then (s.setCelMode .noDrive).showCellar else s
  else if s.celMode = .off then s
  else
    let s := s.closeAll 7
    ((s.modCellar fun c => { c with ring := [], ringWait := [], drive := none, nvme := [], closing := [], fresh := [] }).setCelMode .off).showCellar.engineNext

end Sys2Proof.Machine
end

