-- ==== Sys2Proof/Machine/Debug.lean ====
section
/-!
DEFINITION. The test access port and debug sessions (13_strongroom.md R400 to R404). DBG_ACCESS stands with the
interconnect.
-/
namespace Sys2Proof.Machine
open Sys2Proof

/-- The port answers nothing while only VBAT remains (R405). -/
def State.tapDead (s : State) : Bool := s.power.vbatOnly

/-- STANDBY, its exit and VBAT-only offer no session (R405). -/
def State.noSession (s : State) : Bool := s.get R.power_PWR_STATE_STATE == 2 || s.get R.power_PWR_STATE_STATE == 4

/-- The debug level the port has: a BLANK device opens FULL without a token (R401, R405). -/
def State.debugLevel (s : State) : Nat := if s.lifecycle = .blank then 2 else s.strong.debug

def State.setIr (s : State) (v : BitVec 8) : State := s.modStrong fun u => { u with tapIr := v }

/-- Bits of a byte string, first octet's bit 0 first. -/
def bitsOfBytes (bs : List Byte) : List Bool := bs.flatMap fun b => (List.range 8).map b.getLsbD

/-- R400: the pins are driven from the boundary register, which takes `shift`. -/
def execTapExtest (shift : List Bool) (s : State) : Result :=
  if s.tapDead then .next s
  else
    let s := (s.setIr 0x00).emit (.tap s.strong.boundary)
    .next (s.modStrong fun u => { u with boundary := shift, extest := true })

/-- R400. -/
def execTapIdcode (s : State) : Result :=
  if s.tapDead then .next s
  else .next (((s.setIr 0x01).modStrong fun u => { u with extest := false }).emit (.tap ((List.range 32).map (0x00C9609B#32).getLsbD)))

/-- R400: the pins' levels `pins` are captured and shifted out, `shift` is preloaded. -/
def execTapSamplePreload (pins shift : List Bool) (s : State) : Result :=
  if s.tapDead then .next s
  else .next (((s.setIr 0x02).modStrong fun u => { u with extest := false, boundary := shift }).emit (.tap pins))

/-- R400: BYPASS, and any code with no instruction: one bit of delay, captured as 0. -/
def execTapBypass (shift : List Bool) (s : State) : Result :=
  if s.tapDead then .next s
  else .next (((s.setIr 0xFF).modStrong fun u => { u with extest := false }).emit (.tap (false :: shift.dropLast)))

/-- 17_package_electrical.md R494: TRST_N. The instruction register selects IDCODE, as IEEE 1149.1 has it. -/
def execTapReset (s : State) : Result :=
  if s.tapDead then .next s else .next ((s.setIr 0x01).modStrong fun u => { u with extest := false })

/-- R400: a fresh nonce and DEVICE_UID. -/
def execDbgChallenge (s : State) : Result :=
  if s.tapDead ∨ s.noSession ∨ s.entropyOk = false then .next s
  else
    let (n, s) := (s.setIr 0x20).draw 48
    .next ((s.modStrong fun u => { u with nonce := some (n, u.lifeClock), extest := false }).emit (.tap (bitsOfBytes (n ++ s.uid))))

/-- The keys trusted for tokens (R401). -/
def State.tokenKey (s : State) (k : Nat) : Bool :=
  match s.lifecycle with
  | .vendor => k == 0xFF
  | .returned => k == 0xFF
  | .scrapped => k == 0xFF
  | .owned => s.ownerSlot k
  | .blank => false

/-- The result of a token, as DBG_STATUS codes it (R400, R401). -/
def State.tokenCheck (s : State) (b : List Byte) : Nat :=
  let key := slice b 128 200
  let lv := leAt b 5 1
  let fresh := match s.strong.nonce with
    | none => false
    | some (n, t) => n == slice b 32 48 && decide (s.strong.lifeClock - t < 60)
  if s.noSession ∨ s.tamperActive then 7
  else if b.length ≠ 328 ∨ (lv ≠ 1 ∧ lv ≠ 2) ∨ blockForm b "GWDT" lv 52 = false ∨ leAt b 80 4 = 0 ∨ 86400 < leAt b 80 4 then 2
  else if s.keyMatches key s.tokenKey = false then 3
  else if sigGood key (b.take 128) = false then 4
  else if fresh = false then 5
  else if slice b 12 16 ≠ s.uid then 6
  else if lv = 1 ∧ s.testRoot then 7
  else 1

/-- Entry to VIEW or FULL (R402, R403); the debug trace is cleared (16_startup_faults.md R478). -/
def State.openSession (s : State) (level duration : Nat) : State :=
  let s := s.clearTrace
  let s := if level = 2 then s.abortEngine else s
  let s := s.modStrong fun u =>
    { u with debug := level, sessionEnd := u.lifeClock + duration, testBank := if level = 2 ∧ u.debug != 3 then {} else u.testBank }
  let s := if level = 2 then s.deriveFixed else s
  let s := s.put R.strongroom_DEBUG_REMAIN duration
  let s := (s.event (if level = 2 then 2 else 1) 0).raise Flag.strongroom_DEBUG_CHANGE
  (s.blotter 0x0202 level (leBytes 4 duration)).strongChanged.engineNext

/-- R401 to R403. -/
def execDbgToken (token : List (BitVec 8)) (s : State) : Result :=
  if s.tapDead then .next s
  else
    let s := s.setIr 0x21
    let r := s.tokenCheck token
    let s := s.modStrong fun u => { u with tokenResult := r, nonce := if r = 1 ∨ r = 6 then none else u.nonce, extest := false }
    .next (if r = 1 then s.openSession (leAt token 5 1) (leAt token 80 4) else s)

/-- R400: the level in bits 1:0, the last token result in bits 10:8. -/
def execDbgStatus (s : State) : Result :=
  if s.tapDead ∨ s.noSession then .next s
  else
    let w : BitVec 32 := BitVec.ofNat 32 (s.debugLevel + 256 * s.strong.tokenResult)
    .next (((s.setIr 0x22).modStrong fun u => { u with extest := false }).emit (.tap ((List.range 32).map w.getLsbD)))

/-- A session ends; `burst` says that the debug port holds a path mid-burst (12_host_control.md R358). -/
def State.sessionOver (s : State) (burst : Bool) : State :=
  (if burst && (s.strong.debug == 1 || s.strong.debug == 2) then s.burstRescue else s).endSession

/-- R400, R404. -/
def execDbgRelock (burst : Bool) (s : State) : Result := 
  if s.tapDead then .next s else .next (((s.setIr 0x24).modStrong fun u => { u with extest := false }).sessionOver burst)

/-- R404: DURATION_S seconds of the life clock have passed. -/
def execDebugSessionExpiry (burst : Bool) (s : State) : Result := .next (s.sessionOver burst)

end Sys2Proof.Machine
end

