-- ==== Sys2Proof/Machine/FabricOps.lean ====
section
/-!
DEFINITION. Fabric images: their layout, their records and their verification (02_fabric_image.md R65 to R75, R91, R510).
-/
namespace Sys2Proof.Machine
open Sys2Proof

def State.modFabric (s : State) (f : FabricState → FabricState) : State := { s with fabric := f s.fabric }

/-- Record sizes of the section types 01h to 0Eh (R67). -/
def recordSizes : List Nat := [16, 32, 16, 16, 32, 16, 32, 16, 8, 32, 16, 16, 16, 8]

/-- The least and the greatest record count of each section of a FULL image (R67); the sections with no stated count hold what
fits. -/
def recordCounts : List (Nat × Nat) :=
  [(0, 4194304), (0, 4194304), (1, 16), (0, 4194304), (0, 4194304), (0, 4194304), (4, 4), (1, 1), (0, 4194304), (1, 1), (1, 1),
   (1, 1), (0, 4194304), (0, 65536)]

/-- An entry of the section table (R66). -/
structure SectionEntry where
  offset : Nat
  length : Nat
  crc : Nat
  deriving DecidableEq, Repr

def sectionEntry (bs : List Byte) (i : Nat) : SectionEntry :=
  ⟨leAt bs (132 + 16 * i) 4, leAt bs (136 + 16 * i) 4, leAt bs (140 + 16 * i) 4⟩

/-- The bytes of section `i`, 0 for PORTS. -/
def sectionBytes (bs : List Byte) (i : Nat) : List Byte :=
  let e := sectionEntry bs i
  slice bs e.offset e.length

/-- The records of section `i`. -/
def sectionRecords (bs : List Byte) (i : Nat) : List (List Byte) :=
  let b := sectionBytes bs i
  let n := recordSizes.getD i 8
  (List.range (b.length / n)).map fun k => slice b (n * k) n

def zeroBytes (bs : List Byte) (from' until' : Nat) : Bool := (slice bs from' (until' - from')).all fun b => b == 0

/-- The table rules of R66 and R67 from entry `i` on; `pos` is where the previous section ended. -/
def tableForm (bs : List Byte) (limit : Nat) : Nat → Nat → Nat → Bool
  | 0, _, pos => zeroBytes bs pos limit
  | n + 1, i, pos =>
    let e := sectionEntry bs i
    let size := recordSizes.getD i 8
    leAt bs (128 + 16 * i) 1 == i + 1 && leAt bs (129 + 16 * i) 1 == 0 && leAt bs (130 + 16 * i) 2 == size
      && e.length % size == 0
      && (e.length != 0 || e.crc == 0) && e.offset % 8 == 0 && decide (pos ≤ e.offset) && decide (e.offset + e.length ≤ limit)
      && zeroBytes bs pos e.offset && tableForm bs limit n (i + 1) (e.offset + e.length)

/-- The one bit of CLUSTER_MASK, if it has exactly one, of bits 43:0 (R65). -/
def clusterOf (mask : Nat) : Option Nat :=
  (List.range 44).find? fun i => mask == 2 ^ i

/-- Whether record `r` of section `i` names a unit inside cluster `c` (R67, R510). -/
def inCluster (c i : Nat) (r : List Byte) : Bool :=
  let stream := leAt r 0 2
  if c < 24 then
    if i = 0 then leAt r 0 1 / 4 == c else i == 1 && decide (stream < 1536) && stream / 64 == c
  else if c < 32 then
    if i = 3 then leAt r 0 1 == c - 24 else i == 1 && decide (stream < 1536) && leAt r 2 1 == c - 24
  else if c < 40 then
    if i = 4 ∨ i = 5 then leAt r 0 1 / 8 == c - 32 else i == 1 && decide (1536 ≤ stream) && leAt r 24 2 / 8 == c - 32
  else i == 8 && leAt r 0 1 / 8 == c - 40

def imageKind (bs : List Byte) : Nat := leAt bs 6 1
def imageSvn (bs : List Byte) : Nat := leAt bs 7 1

/-- The form check of R75; `len` is how many bytes were read. A boot image must be FULL (R77). -/
def imageForm (bs : List Byte) (len : Nat) (boot : Bool) : Bool :=
  let mask := leAt bs 16 8
  let n := leAt bs 8 4
  let full := imageKind bs == 1
  decide (552 ≤ bs.length) && slice bs 0 4 == [0x47, 0x57, 0x46, 0x49] && leAt bs 4 2 == 1
    && (full || (imageKind bs == 2 && !boot)) && decide (imageSvn bs ≤ 64)
    && n % 8 == 0 && decide (552 ≤ n ∧ n ≤ 4194304) && n == len && n == bs.length
    && leAt bs 12 2 == 14
    && (if full then mask == 0 else (clusterOf mask).isSome)
    && tableForm bs (n - 200) 14 0 352
    && sigForm (slice bs (n - 200) 200)
    && ((List.range 14).all fun i =>
      let rs := sectionRecords bs i
      if full then
        let (lo, hi) := recordCounts.getD i (0, 0)
        decide (lo ≤ rs.length ∧ rs.length ≤ hi)
      else if i = 13 then decide (rs.length ≤ 65536)
      else rs.all fun r => inCluster ((clusterOf mask).getD 0) i r)

/-- The structure hash of R68. -/
def structHash (bs : List Byte) : List Byte :=
  sha384 ((List.range 13).flatMap fun i =>
    leBytes 1 (i + 1) ++ leBytes 4 (sectionEntry bs i).length ++ sectionBytes bs i)

/-- The first section, in table order, whose CRC differs. -/
def badCrc (bs : List Byte) : Option Nat :=
  (List.range 14).find? fun i =>
    let b := sectionBytes bs i
    b.length != 0 && (crc32 b).toNat != (sectionEntry bs i).crc

/-- Verification in the order of R75: the failing STATUS with RESULT_INFO, or none. -/
def State.imageFault (s : State) (bs : List Byte) (len : Nat) (boot : Bool) : Option (Nat × Nat) :=
  if !imageForm bs len boot then some (2, 0)
  else match badCrc bs with
    | some i => some (3, (i + 1) * 256 + i)
    | none =>
      let sig := slice bs (bs.length - 200) 200
      if !s.keyMatches sig s.imageKey then some (4, 0)
      else if !sigGood sig (bs.take (bs.length - 200)) then some (5, 0)
      else if imageSvn bs < s.svnFuse then some (6, 0)
      else if structHash bs != slice bs 72 48 then some (7, 0)
      else if imageKind bs == 2 && slice bs 24 48 != s.getBytes (Reg.fabric_BASE_HASH 0) 12 then some (8, 0)
      else none

def portRec (r : List Byte) : PortRec :=
  let fl := leAt r 3 1
  ⟨leAt r 0 1, leAt r 1 1, leAt r 2 1, fl.testBit 0, fl.testBit 1, fl.testBit 2, leAt r 4 1, leAt r 8 4⟩

def streamRec (r : List Byte) : StreamRec :=
  let fl := leAt r 7 1
  ⟨leAt r 0 2, leAt r 2 1, leAt r 3 1, leAt r 4 1, leAt r 5 1, leAt r 6 1, fl.testBit 0, fl / 2 % 2, fl.testBit 2, fl.testBit 3,
   fl.testBit 4, fl.testBit 5, leAt r 8 2, leAt r 10 2, leAt r 12 2, leAt r 14 2, leAt r 16 4, leAt r 20 4, leAt r 24 2,
   leAt r 26 2, leAt r 28 1, leAt r 29 1⟩

def regionRec (r : List Byte) : RegionRec :=
  ⟨leAt r 0 1, leAt r 1 1, leAt r 2 2, leAt r 4 4, leAt r 8 4, leAt r 12 2, leAt r 14 1⟩

def folioRec (r : List Byte) : FolioRec :=
  let fl := leAt r 1 1
  ⟨leAt r 0 1, fl.testBit 0, fl.testBit 1, leAt r 2 1, leAt r 3 1, leAt r 4 2, leAt r 6 2, leAt r 8 4, leAt r 12 2, leAt r 14 1,
   leAt r 16 4, leAt r 20 4⟩

def paneRec (r : List Byte) : PaneRec :=
  let fl := leAt r 3 1
  ⟨leAt r 0 1, leAt r 1 1, leAt r 2 1, fl.testBit 0, fl.testBit 1, fl.testBit 2, fl.testBit 3, leAt r 4 4, leAt r 8 1, leAt r 9 1⟩

def classRec (r : List Byte) : ClassRec := ⟨leAt r 0 1, leAt r 1 1, [leAt r 4 4, leAt r 8 4, leAt r 12 4, leAt r 16 4]⟩
def codecRec (r : List Byte) : CodecRec := ⟨leAt r 0 1, leAt r 1 1, leAt r 4 4⟩
def sealRecord (r : List Byte) : SealRec := ⟨leAt r 0 1, leAt r 4 4, leAt r 8 4⟩

/-- The single records (R72). -/
def singleRecs (a c p t : List Byte) : SingleRecs :=
  { audioIn := leAt a 0 2, audioOut := leAt a 2 2, audioBase := leAt a 4 4, audioSize := leAt a 8 4,
    cellarPresent := (leAt c 0 1).testBit 0, cellarContinuous := (leAt c 0 1).testBit 1, cellarClass := leAt c 1 1,
    cellarStreams := leAt c 2 2, cellarRate := leAt c 4 4, prerollBase := leAt c 8 4, prerollSize := leAt c 12 4,
    runMask := BitVec.ofNat 64 (leAt p 0 8), quietMask := BitVec.ofNat 64 (leAt p 8 8),
    warn := leAt t 0 1, throttle := leAt t 1 1, shutdown := leAt t 2 1, maxStep := leAt t 3 1, clkDiv := (leAt t 4 1).testBit 0 }

/-- The structure an image's sections spell. A record that names a unit the device does not have has no unit to act on (R90). -/
def imageStructure (bs : List Byte) : Structure :=
  let one (i : Nat) := (sectionRecords bs i).headD []
  { ports := ((sectionRecords bs 0).map portRec).filter fun r => decide (r.port < 96),
    streams := ((sectionRecords bs 1).map streamRec).filter fun r => decide (r.stream < 1600),
    regions := (sectionRecords bs 2).map regionRec,
    ingest := ((sectionRecords bs 3).map fun r => leAt r 0 1).filter fun c => decide (c < 8),
    folios := ((sectionRecords bs 4).map folioRec).filter fun r => decide (r.folio < 64),
    panes := ((sectionRecords bs 5).map paneRec).filter fun r => decide (r.folio < 64) && decide (r.pane ≤ 8),
    classes := ((sectionRecords bs 6).map classRec).filter fun r => decide (r.cls < 4),
    codecs := ((sectionRecords bs 8).map codecRec).filter fun r => decide (r.engine < 32),
    seals := ((sectionRecords bs 12).map sealRecord).filter fun r => decide (r.folio < 64), single := singleRecs (one 7) (one 9) (one 10) (one 11),
    initWrites := (sectionRecords bs 13).map fun r => (leAt r 0 4, BitVec.ofNat 32 (leAt r 4 4)) }

/-- An image that has passed R75. -/
def loadedImage (bs : List Byte) : LoadedImage :=
  ⟨imageKind bs == 2, (clusterOf (leAt bs 16 8)).getD 0, imageSvn bs, structHash bs, slice bs (bs.length - 196) 97, imageStructure bs⟩

/-- A FABRIC command completes with its code and flag. -/
def State.fabricDone (s : State) (status info : Nat) : State :=
  let s := (s.wr Reg.fabric_RESULT_INFO (BitVec.ofNat 32 info)).complete Reg.fabric_RESULT status
  s.raise (if status = 0 ∨ status = 1 ∨ status = 11 ∨ status = 12 then Flag.fabric_LOAD_DONE else Flag.fabric_LOAD_FAIL)

def State.fabricOffer (s : State) (f : State → State) : State :=
  s.offer Reg.fabric_RESULT Flag.fabric_CMD_OVERRUN fun s => f (s.accept Reg.fabric_RESULT)

/-- V shows in FABRIC.STATE (R91). -/
def State.showSvn (s : State) : State := s.put R.fabric_STATE_SVN_FUSE s.svnFuse

end Sys2Proof.Machine
end

