-- ==== Sys2Proof/Machine/Fabric.lean ====
section
/-!
DEFINITION. The commands of FABRIC.CMD (02_fabric_image.md R75, R79, R92). A verified LOAD waits for its frame boundary in
`FabricState.load`; FULL_LOAD_APPLY and the two halves of a partial load bring it into force.
-/
namespace Sys2Proof.Machine
open Sys2Proof

/-- The loader reads the image by its own DMA and verifies it (R79); its copy is not kept in the management SRAM that the interconnect
reaches (log entry 113); `image` is what the DMA read, none where it
failed, as it does without Bus Master Enable (12_host_control.md R345). `fail`
is what a failure does with its code and RESULT_INFO. -/
def State.loadCommand (s : State) (image : Option (List Byte)) (fail : State → Nat → Nat → State)
    (good : State → List Byte → State) : State :=
  s.fabricOffer fun s => match (if s.on R.hostif_LINK_BME then image else none) with
    | none => fail s 9 0
    | some bs =>
      let n := s.get R.fabric_SRC_LEN_LEN
      match s.imageFault (bs.take n) n false with
      | some (st, info) => fail s st info
      | none => good s (bs.take n)

/-- FABRIC_VERIFY (R75, R79). -/
def execFabricVerify (image : Option (List (BitVec 8))) (s : State) : Result :=
  .next (s.loadCommand image State.fabricDone fun s _ => s.fabricDone 1 0)

/-- FABRIC_LOAD (R79, R80, R82): for a full image the Cellar closes its segments (11_codecs_cellar.md R338); RESULT.DONE stays 0 until the image is in force.
During STANDBY entry no load begins: it ends ABORTED (R86). A host image that fails is recorded
(15_attic_blotter.md R453; log entry 49). -/
def execFabricLoad (image : Option (List (BitVec 8))) (s : State) : Result :=
  .next (s.loadCommand image (fun s st info => (s.fabricDone st info).blotter 0x0301 2 (leBytes 2 st)) fun s bs =>
    let im := loadedImage bs
    if s.get R.power_PWR_STATE_STATE = 3 then s.fabricDone 10 0
    else
      let s := if !im.isPartial && s.celMode == .ready then (s.closeAll 3).emptyPreroll else s
      s.modFabric fun u => { u with load := some (if im.isPartial then .partialPending else .fullPending, im) })

/-- ADVANCE_SVN (R92); refused while the test root is in use (13_strongroom.md R403; log entry 48). With no full image in force there is
nothing to do (log entry 111). -/
def execAdvanceSvn (s : State) : Result :=
  .next (s.fabricOffer fun s =>
    let n := s.get R.fabric_STATE_SVN
    if s.testRoot then s.fabricDone 13 0
    else if s.on R.fabric_STATE_CONFIGURED = false ∨ n ≤ s.svnFuse then s.fabricDone 12 0
    else
      let s := (s.modFuses fun f => { f with svn := f.svn ||| BitVec.ofNat 64 (2 ^ n - 1) }).showSvn
      s.strongChanged.fabricDone 11 0)

/-- FABRIC_BAD_COMMAND. -/
def execFabricBadCommand (s : State) : Result := .next (s.fabricOffer fun s => s.fabricDone 14 0)

end Sys2Proof.Machine
end

