-- ==== Sys2Proof/Machine/SealCmd.lean ====
section
/-!
DEFINITION. The seal commands of the Strongroom (07_folio_commit_seal.md R222 to R225).
-/
namespace Sys2Proof.Machine
open Sys2Proof

def State.sealStore (s : State) (f : Nat) : SealStore := Sparse.get (fun _ => ({} : SealStore)) s.strong.seals f
def State.setSealStore (s : State) (f : Nat) (x : SealStore) : State :=
  s.modStrong fun u => { u with seals := Sparse.set (fun _ => ({} : SealStore)) u.seals f x }

/-- The SEAL record of a Folio (02_fabric_image.md R72). -/
def State.sealRec (s : State) (f : Nat) : Option SealRec := s.fabric.now.seals.find? fun r => r.folio == f

def zeroAt (b : List Byte) (o n : Nat) : Bool := (slice b o n).all fun x => x == 0

/-- The form of a seal command (R223, R224 code 2). -/
def sealForm (b : List Byte) (op : Nat) : Bool :=
  slice b 0 4 == asciiBytes "GWSC" && leAt b 4 1 == 1 && leAt b 5 1 == op && zeroAt b 7 1 && zeroAt b 28 4
    && sigForm (slice b 128 200)
    && (if op = 1 then zeroAt b 66 2 && zeroAt b 76 52 && decide (leAt b 32 1 ≤ 2) && (leAt b 54 1 == 0xFF || decide (leAt b 54 1 ≤ 3))
        else if op = 2 then zeroAt b 45 3 && zeroAt b 60 4 && zeroAt b 112 16 && decide (leAt b 44 1 ≤ 1)
        else zeroAt b 32 96)

/-- The settings of an APPLY in effect, as SEAL_CMD holds them; all zeros while there are none. -/
def State.sealCmd (s : State) (f : Nat) : List Byte := s.getBytes (Reg.folio_SEAL_CMD f 0) 32

/-- The bytes of the surface store a LOAD_SURFACE takes (R224 code 9). -/
def loadExtent (b : List Byte) : Nat :=
  let h := leAt b 36 2
  let rows := if leAt b 33 1 = 2 ∨ leAt b 33 1 = 5 then (3 * h + 1) / 2 else h
  leAt b 40 4 * 256 + max (leAt b 56 4) (leAt b 38 2 * 256 * rows)

/-- A watch that is a stream or none. -/
def watchFits (v : Nat) : Bool := decide (v ≤ 1599) || v == 0xFFFF

/-- The checks of R224 up to IN_USE, in their order. -/
def State.sealCheck (s : State) (b : List Byte) (op : Nat) : Option Nat :=
  let key := slice b 128 200
  let f := leAt b 6 1
  if sealForm b op = false then some 2
  else if s.sealAccept = false then some 3
  else if s.keyMatches key s.imageKey = false then some 4
  else if sigGood key (b.take 128) = false then some 5
  else if s.uidFits b true = false then some 6
  else match s.sealRec f with
    | none => some 7
    | some r =>
      if leAt b 8 4 ≤ (s.sealStore f).seq then some 8
      else if op = 2 then
        if 15 < leAt b 32 1 ∨ r.surfSize * 65536 < loadExtent b then some 9
        else if leAt (s.sealCmd f) 32 1 = 2 ∧ leAt (s.sealCmd f) 34 2 = leAt b 32 1 then some 10 else none
      else if op = 1 then
        if (leAt b 32 1 = 2 ∧ 15 < leAt b 34 2) ∨ (leAt b 32 1 = 1 ∧ 1599 < leAt b 34 2) ∨ watchFits (leAt b 56 2) = false
            ∨ watchFits (leAt b 58 2) = false then some 9 else none
      else none

/-- A seal command ends; a failure of a Folio's command raises SEAL_REFUSED, a success is measured (R397). -/
def State.sealCommand (s : State) (op : Nat) (f : State → List Byte → Nat × State) : State :=
  s.strongCommand fun s =>
    let b := s.cmdBuf 82
    let (c, s) := match s.sealCheck b op with
      | some c => (c, s)
      | none => f s b
    let n := leAt b 6 1
    if c ≤ 1 then (c, [], s.extend 3 (sha384 (b.take 128)))
    else (c, [], s.raiseIf (s.fabric.now.folios.any fun r => r.folio == n) (Flag.folio_SEAL_SEAL_REFUSED n))

/-- An APPLY or CLEAR is stored, with its CMD_SEQ, and waits for the switching point (R225). -/
def State.sealApply (s : State) (b : List Byte) (storeOk : Bool) : Nat × State :=
  if storeOk = false then (21, s)
  else
    let f := leAt b 6 1
    let s := s.setSealStore f { s.sealStore f with seq := leAt b 8 4, apply := b.take 128 }
    (0, s.modFolio f fun x => { x with sealDue := some (if leAt b 5 1 = 3 then List.replicate 128 0 else b.take 128) })

/-- R223 to R225. -/
def execSealApply (storeOk : Bool) (s : State) : Result := .next (s.sealCommand 1 fun s b => s.sealApply b storeOk)

/-- R223 to R225. -/
def execSealClear (storeOk : Bool) (s : State) : Result := .next (s.sealCommand 3 fun s b => s.sealApply b storeOk)

/-- A surface is copied to stream memory, read back and hashed (R390): LOADED, or HASH_MISMATCH with the surface marked not
loaded. -/
def State.loadSurface (s : State) (f : Nat) (r : SealRec) (b data : List Byte) : Bool × State :=
  let a := r.surfBase * 65536 + leAt b 40 4 * 256
  let n := leAt b 56 4
  let s := s.memWrite 7 a (slice data 0 n)
  let (back, s) := s.memRead 7 a n
  let good := !(back.any (·.2)) && sha384 (back.map (·.1)) == slice b 64 48
  let i := leAt b 32 1
  (good, s.put ⟨Reg.folio_SEAL_SURF_LOADED f, i, i⟩ (if good then 1 else 0))

/-- The bytes of boot flash that a LOAD_SURFACE from SOURCE 1 names (R223). -/
def State.flashSource (s : State) (b : List Byte) : List Byte := (List.range (leAt b 56 4)).map fun i => s.flashByte (leAt b 48 8 + i)

/-- R223 to R225, R390: `data` is what host memory gave, none for a failed read, as without Bus Master Enable
(12_host_control.md R345); SOURCE 1 reads the boot flash. -/
def execSealLoadSurface (data : Option (List (BitVec 8))) (storeOk : Bool) (s : State) : Result :=
  .next <| s.sealCommand 2 fun s b =>
    let f := leAt b 6 1
    match (if leAt b 44 1 = 1 then some (s.flashSource b) else if s.on R.hostif_LINK_BME then data else none), s.sealRec f with
    | none, _ => (11, s)
    | _, none => (7, s)
    | some d, some r =>
      let (good, s) := s.loadSurface f r b d
      if good = false then (12, s)
      else if storeOk = false then (21, s)
      else
        let x := s.sealStore f
        (1, s.setSealStore f { x with seq := leAt b 8 4, loads := Sparse.insert (Sparse.erase x.loads (leAt b 32 1)) (leAt b 32 1) (b.take 128) })

/-- What each start does for a Folio (R225): the stored APPLY waits for its switching point again, and every stored LOAD_SURFACE
from boot flash (SOURCE 1) is replayed; each is measured (13_strongroom.md R397). -/
def State.sealStart (s : State) (f : Nat) : State :=
  match s.sealRec f with
  | none => s
  | some r =>
    let x := s.sealStore f
    let s := if leAt x.apply 5 1 = 1 then
        (s.modFolio f fun y => { y with sealDue := some x.apply }).extend 3 (sha384 x.apply)
      else s
    s.each x.loads fun s p =>
      if leAt p.2 44 1 = 1 then
        let (good, s) := s.loadSurface f r p.2 (s.flashSource p.2)
        if good then s.extend 3 (sha384 p.2) else s
      else s

end Sys2Proof.Machine
end

