-- ==== Sys2Proof/Machine/PaneOps.lean ====
section
/-!
DEFINITION. The pixels of a pane: fetched samples, rate conversion, colour conversion and the two scalers (06_panes.md R169,
R180 to R192). A sample that depends on a poisoned word is none (10_stream_memory.md R287).
-/
namespace Sys2Proof.Machine
open Sys2Proof

/-- The row a pane has fetched, if it has. -/
def FolioState.fetched (x : FolioState) (pane slot row : Nat) : Option (List (Byte × Bool)) :=
  (x.rows.find? fun r => r.pane == pane && r.slot == slot && r.row == row).map (·.bytes)

/-- A number clamped to 0 up to `n - 1`. -/
def clampTo (n : Nat) (v : Int) : Nat := min v.toNat (n - 1)

/-- A quotient rounded half up. -/
def roundDiv (a : Int) (d : Nat) : Int := (2 * a + d) / (2 * d)

/-- A rational rounded half up. -/
def roundHalf (r : Rat) : Int := (r + 1 / 2).floor

/-- A value clamped to 16 bits. -/
def clamp16 (v : Int) : Nat := min v.toNat 65535

/-- Samples at 16 bits (R181). -/
def widen (b v : Nat) : Nat := if b = 12 then 16 * v else if b = 10 then 64 * v else 257 * v

/-- The sum of products of taps and coefficients; taps with a coefficient of 0 are not read. -/
def sumTaps (l : List (Int × (Unit → Option Nat))) : Option Int :=
  l.foldl (fun a t =>
    if t.1 = 0 then a
    else match a, t.2 () with | some a, some v => some (a + t.1 * v) | _, _ => none) (some 0)

/-- A pane's access to its picture: component, stored row and column of slot `k`, at the storage depth. -/
abbrev Stored := Nat → Nat → Nat → Nat → Option Nat

/-- The stored samples among the rows fetched. -/
def storedRows (x : FolioState) (t : PaneLatch) : Stored := fun k c r col =>
  match storageFormat t.fmt with
  | none => some 0
  | some (l, b) =>
    let row := (x.fetched t.pane k (if l = .c420 && c != 0 then t.h + r else r)).getD []
    let i := sampleIndex l c col
    let part := (row.drop (i * b / 8)).take ((i * b + b + 7) / 8 - i * b / 8)
    if part.any (·.2) then none else some (unpackSample b ((row.take ((i * b + b + 7) / 8 + 3)).map (·.1)) i)

/-- A component at the fetched level brought to 4:4:4 and 16 bits, edges repeated (R181). -/
def levelSample (g : Stored) (t : PaneLatch) (k c : Nat) (row col : Int) : Option Nat :=
  match storageFormat t.fmt with
  | none => some 0
  | some (l, b) =>
    let r := clampTo t.h row
    let x := clampTo t.w col
    if c = 0 ∨ l = .c444 ∨ l = .rgba then (g k c r x).map (widen b)
    else
      let cw := (t.w + 1) / 2
      let one (i j : Nat) : Option Nat := (g k c i (min j (cw - 1))).map (widen b)
      let hor (i : Nat) : Option Nat :=
        if x % 2 = 0 then one i (x / 2)
        else match one i (x / 2), one i (x / 2 + 1) with | some a, some d => some ((a + d + 1) / 2) | _, _ => none
      if l = .c420 then
        let i := r / 2
        let j := if r % 2 = 0 then i - 1 else min (i + 1) (t.h / 2 - 1)
        match hor i, hor j with | some a, some d => some ((3 * a + d + 2) / 4) | _, _ => none
      else hor r

/-- The vector entry whose block covers a sample of the fetched level (R166, R188). -/
def vectorAt (x : FolioState) (t : PaneLatch) (row col : Int) : BitVec 32 × Bool :=
  let blk (i : Int) (n : Nat) : Nat := min ((2 * i + 1).toNat * 2 ^ t.level / 64) (n - 1)
  let bs := (((x.fetched t.pane 2 (blk row t.vecH)).getD []).drop (4 * blk col t.vecW)).take 4
  (BitVec.ofNat 32 (leNat (bs.map (·.1))), bs.any (·.2))

def signed11 (v : Nat) : Int := if v % 2048 < 1024 then (v % 2048 : Int) else (v % 2048 : Int) - 2048

/-- A position in 1/16 of a sample: a displacement in full-frame pixels times `w` / 256, at level `l` (R188). -/
def sixteenths (q : Int) (w : Int) (d : Int) (l : Nat) : Int := 16 * q + roundDiv (w * d) (16 * 2 ^ l)

/-- A bilinear read at a position in 1/16 of a sample, rounded half up (R188; log entry 51). -/
def bilinearRead (g : Int → Int → Option Nat) (y16 x16 : Int) : Option Nat :=
  let fy := y16 % 16
  let fx := x16 % 16
  let y := y16 / 16
  let x := x16 / 16
  (sumTaps [((16 - fy) * (16 - fx), fun _ => g y x), ((16 - fy) * fx, fun _ => g y (x + 1)),
    (fy * (16 - fx), fun _ => g (y + 1) x), (fy * fx, fun _ => g (y + 1) (x + 1))]).map fun v => ((v + 128) / 256).toNat

/-- The mix of two samples by a weight of 0 to 256 (R187). -/
def mix256 (w : Nat) (a b : Unit → Option Nat) : Option Nat :=
  (sumTaps [((256 - w : Nat), a), ((w : Nat), b)]).map fun v => ((v + 128) / 256).toNat

/-- m of R188. -/
def motionWeight (t : PaneLatch) (e : BitVec 32) : Nat :=
  let conf := getBits e 31 24
  if e.getLsbD 23 then 0
  else if t.set.confLo < t.set.confHi then
    min (roundDiv (((conf : Int) - t.set.confLo) * 256) (t.set.confHi - t.set.confLo)).toNat 256
  else if t.set.confHi ≤ conf then 256 else 0

/-- A component after frame-rate conversion (R186 to R188). -/
def rateSample (x : FolioState) (g : Stored) (t : PaneLatch) (c : Nat) (row col : Int) : Option Nat :=
  let cl (n : Nat) (v : Int) : Int := clampTo n v
  let row := cl t.h row
  let col := cl t.w col
  let at_ (k : Nat) (r q : Int) : Option Nat := levelSample g t k c r q
  let blend : Option Nat := mix256 t.weight (fun _ => at_ 1 row col) fun _ => at_ 0 row col
  if t.mode = 0 then at_ 0 row col
  else if t.mode = 1 then blend
  else
    let (e, bad) := vectorAt x t row col
    if bad then none
    else
      let dx := signed11 (getBits e 10 0)
      let dy := signed11 (getBits e 21 11)
      let w : Int := t.weight
      let mc : Option Nat := mix256 t.weight
        (fun _ => bilinearRead (at_ 1) (sixteenths row w dy t.level) (sixteenths col w dx t.level))
        (fun _ => bilinearRead (at_ 0) (sixteenths row (w - 256) dy t.level) (sixteenths col (w - 256) dx t.level))
      let m := motionWeight t e
      mix256 m (fun _ => blend) fun _ => mc

/-- Kr and Kb of a colour space (R191). -/
def lumaWeights (cs : Nat) : Rat × Rat :=
  match cs with
  | 1 => (299 / 1000, 114 / 1000) | 2 => (2627 / 10000, 593 / 10000) | _ => (2126 / 10000, 722 / 10000)

/-- R', G', B' of the working space from a source's three components (R191, R192). -/
def toWorking (t : PaneLatch) (c0 c1 c2 : Nat) : List Nat :=
  let p := t.set
  if p.custom then
    (List.range 3).map fun i =>
      let ins : List Int := [c0, c1, c2]
      let sum := (List.range 3).foldl (fun a j => a + p.m.getD (3 * i + j) 0 * (ins.getD j 0 - p.offIn.getD j 0)) 0
      clamp16 ((sum + 2048) / 4096 + p.offOut.getD i 0)
  else
    let rgba := t.fmt == 6
    let luma (v : Nat) : Rat :=
      if rgba then (v : Rat) / 65535 else if p.full then (v : Rat) / 16 / 4095 else ((v : Rat) / 16 - 256) / 3504
    let chroma (v : Nat) : Rat := ((v : Rat) / 16 - 2048) / (if p.full then 4095 else 3584)
    let out (v : Rat) : Nat := clamp16 (roundHalf (v * 65535))
    if rgba ∨ p.cs = 3 then [out (luma c2), out (luma c0), out (luma c1)]
    else
      let (kr, kb) := lumaWeights p.cs
      let kg := 1 - kr - kb
      let y := luma c0
      let cb := chroma c1
      let cr := chroma c2
      [out (y + 2 * (1 - kr) * cr), out (y - 2 * kb * (1 - kb) / kg * cb - 2 * kr * (1 - kr) / kg * cr),
       out (y + 2 * (1 - kb) * cb)]

/-- R', G', B' and A of a sample of the fetched level. -/
def colourSample (x : FolioState) (g : Stored) (t : PaneLatch) (row col : Int) : Option (List Nat) :=
  match rateSample x g t 0 row col, rateSample x g t 1 row col, rateSample x g t 2 row col,
    (if t.fmt = 6 then rateSample x g t 3 row col else some 65535) with
  | some a, some b, some c, some d => some (toWorking t a b c ++ [d])
  | _, _, _, _ => none

/-- sin(π x) / (π x). -/
def sinc (x : Rat) : Rat := if x = 0 then 1 else quarterSine (2 * x) / (piRat * x)

/-- k(x) of R183 for SMOOTH and BILINEAR with `n` taps at reduction ratio `r`. -/
def kernel (bilinear : Bool) (n : Nat) (r x : Rat) : Rat :=
  if bilinear then (if absRat x < 1 then 1 - absRat x else 0)
  else
    let a : Rat := if 6 ≤ n then 3 else (n : Rat) / 2
    let s : Rat := if 6 ≤ n then min (max 1 r) ((n : Rat) / 6) else 1
    if absRat x < a * s then sinc (x / s) * sinc (x / (a * s)) else 0

/-- Coefficients of `n` taps in a phase, summing to 1,024: each rounded, the remainder to the tap nearest u (R183). -/
def phaseTaps (bilinear : Bool) (n phase : Nat) (r : Rat) : List Int :=
  let first : Int := 1 - ((n + 1) / 2 : Nat)
  let u : Rat := ((phase : Rat) + 1 / 2) / 64
  let ks := (List.range n).map fun (j : Nat) => kernel bilinear n r (((first + (j : Int) : Int) : Rat) - u)
  let sum := ks.foldl (· + ·) 0
  let cs := ks.map fun k => roundHalf (1024 * k / sum)
  let rest := 1024 - cs.foldl (· + ·) 0
  let near := (if phase < 32 then (0 : Int) else 1) - first
  cs.zipIdx.map fun p => if (p.2 : Int) = near then p.1 + rest else p.1

/-- The taps at a level coordinate in 1/65536 samples: positions with coefficients in 1/1024 (R182 to R184). `table` holds a
TABLE filter's coefficients per phase. -/
def tapsAt (filter n : Nat) (r : Rat) (table : Option (Nat → List Int)) (u : Int) : List (Int × Int) :=
  let base := u / 65536
  let phase := (u % 65536 / 1024).toNat
  let first := base + 1 - ((n + 1) / 2 : Nat)
  if n = 1 ∨ filter = 2 then [((u + 32768) / 65536, 1024)]
  else
    let cs := match filter, table with
      | 3, some f => f phase
      | 1, _ => phaseTaps true n phase r
      | _, _ => phaseTaps false n phase r
    cs.zipIdx.map fun p => (first + p.2, p.1)

/-- Vertical taps T_v (R184). -/
def tapsV (dstW : Nat) : Nat := min 6 (24576 / max 1 dstW)

/-- The step of R182. -/
def stepOf (crop dst level : Nat) : Nat := crop * 65536 / (2 ^ level * max 1 dst)

/-- u of R182 for a column or row counted from the destination's edge. -/
def coordOf (crop0 step level i : Nat) : Int := (crop0 * 65536 / 2 ^ level : Nat) - 32768 + (step / 2 : Nat) + (i * step : Nat)

/-- A signed 1.10 coefficient of a Folio's table (R200). -/
def State.tableCoef (s : State) (f i : Nat) : Int :=
  let w := s.rd (Reg.coef_COEF f (i / 2))
  let v := if i % 2 = 0 then getBits w 15 0 else getBits w 31 16
  if v < 32768 then (v : Int) else (v : Int) - 65536

/-- Horizontal taps of a destination column. -/
def State.columnTaps (s : State) (f : Nat) (t : PaneLatch) (x : Nat) : List (Int × Int) :=
  let filter := if t.pane = 8 ∧ t.set.filterH = 3 then 0 else t.set.filterH
  tapsAt filter 8 ((t.cw : Rat) / (2 ^ t.level * t.set.dstW : Nat))
    (some fun ph => (List.range 8).map fun j => s.tableCoef f (8 * ph + j)) (coordOf t.cx (stepOf t.cw t.set.dstW t.level) t.level x)

/-- Vertical taps of a destination row. -/
def State.rowTaps (s : State) (f : Nat) (t : PaneLatch) (y : Nat) : List (Int × Int) :=
  let n := tapsV t.set.dstW
  let filter := if t.set.filterV = 3 ∧ (t.pane = 8 ∨ n < 6) then 0 else t.set.filterV
  tapsAt filter n ((t.ch : Rat) / (2 ^ t.level * t.set.dstH : Nat))
    (some fun ph => (List.range 6).map fun j => s.tableCoef f (512 + 6 * ph + j)) (coordOf t.cy (stepOf t.ch t.set.dstH t.level) t.level y)

/-- The columns of the level that the destination columns from `x0` up to `x1` need: those whose tap counts, first and last. -/
def State.columnSpanOf (s : State) (f : Nat) (t : PaneLatch) (x0 x1 : Nat) : Nat × Nat :=
  let cols := (List.range (x1 - x0)).flatMap fun i => ((s.columnTaps f t (x0 + i)).filter fun q => q.2 != 0).map fun q => clampTo t.w q.1
  match cols with
  | [] => (0, t.w - 1)
  | c :: l => (l.foldl min c, l.foldl max c)

/-- The bytes of a stored row that hold the level's columns `lo` to `hi`, the chroma samples beside them included: first byte and length
(R154, R176, R181). `chroma` says that the row is one of a 4:2:0 part's chroma rows. -/
def byteSpan (fmt w lo hi : Nat) (chroma : Bool) : Nat × Nat :=
  match storageFormat fmt with
  | none => (0, 0)
  | some (l, b) =>
    let last := min (hi / 2 + hi % 2) ((w + 1) / 2 - 1)
    let side (c : Nat) : List Nat := [sampleIndex l c (lo / 2), sampleIndex l c last]
    let idx := match l with
      | .c420 => if chroma then side 1 ++ side 2 else [sampleIndex l 0 lo, sampleIndex l 0 hi]
      | .c422 => [sampleIndex l 0 lo, sampleIndex l 0 hi] ++ side 1 ++ side 2
      | .c444 => (List.range 3).flatMap fun c => [sampleIndex l c lo, sampleIndex l c hi]
      | .rgba => (List.range 4).flatMap fun c => [sampleIndex l c lo, sampleIndex l c hi]
    let first := idx.foldl min (idx.headD 0) * b / 8
    (first, (idx.foldl max 0 * b + b + 7) / 8 - first)

/-- One scaler pass over four components: the filtered value rounded half up and clamped (R183). -/
def scalePass (taps : List (Int × Int)) (g : Int → Option (List Nat)) : Option (List Nat) :=
  let vs := (taps.filter fun t => t.2 != 0).map fun t => (t.2, g t.1)
  if vs.any fun v => v.2.isNone then none
  else some ((List.range 4).map fun c =>
    clamp16 ((vs.foldl (fun (a : Int) v => a + v.1 * (((v.2.getD []).getD c 0 : Nat) : Int)) 0 + 512) / 1024))

/-- A pane's pixel at a destination column and row: R', G', B', A at 16 bits. -/
def State.panePixel (s : State) (f : Nat) (g : Stored) (t : PaneLatch) (x y : Nat) : Option (List Nat) :=
  let st := s.folio f
  scalePass (s.rowTaps f t y) fun r => scalePass (s.columnTaps f t x) fun c => colourSample st g t r c

/-- A 10-bit colour at 16 bits (R192). -/
def widenColour (w : BitVec 32) : List Nat :=
  let up (v : Nat) : Nat := (roundDiv (v * 65535) 1023).toNat
  [up (getBits w 29 20), up (getBits w 19 10), up (getBits w 9 0)]

/-- Stored rows of the part that a frame row of the fetched level needs, chroma rows of a 4:2:0 part included. -/
def partRowsOf (t : PaneLatch) (r : Int) : List Nat :=
  let r := clampTo t.h r
  if t.fmt = 2 ∨ t.fmt = 5 then
    [r, t.h + r / 2, t.h + (if r % 2 = 0 then r / 2 - 1 else min (r / 2 + 1) (t.h / 2 - 1))]
  else [r]

/-- The rows of the vector field behind rows of the level. -/
def vectorRowsOf (t : PaneLatch) (rows : List Int) : List Nat :=
  (rows.map fun r => min ((2 * (clampTo t.h r) + 1) * 2 ^ t.level / 64) (t.vecH - 1)).eraseDups

/-- The rows of the level that MOTION displaces a row to: of the second slot for `w`, of the newest for `w - 256` (R188). -/
def displacedRows (x : FolioState) (t : PaneLatch) (w : Int) (r : Int) : List Int :=
  let v := min ((2 * (clampTo t.h r) + 1) * 2 ^ t.level / 64) (t.vecH - 1)
  ((List.range t.vecW).map fun b =>
    let bs := (((x.fetched t.pane 2 v).getD []).drop (4 * b)).take 4
    let dy := signed11 (getBits (BitVec.ofNat 32 (leNat (bs.map (·.1)))) 21 11)
    sixteenths (clampTo t.h r) w dy t.level / 16).eraseDups.flatMap fun y => [y, y + 1]

end Sys2Proof.Machine
end

