-- ==== Sys2Proof/Machine/Sdi.lean ====
section
/-!
DEFINITION. SDI inputs (04_sdi_ports.md R125 to R132) and the reference check of SDI outputs (R133, R134).
-/
namespace Sys2Proof.Machine
open Sys2Proof

/-- The states of an SDI port (R127, and STATE 8 to 10 of an output). -/
inductive SdiMode where
  | off | noCarrier | search | detect | locked | mismatch | txOff | txRun | txBlack
  deriving DecidableEq, Repr

def SdiMode.code : SdiMode → Nat
  | .off => 0 | .noCarrier => 1 | .search => 2 | .detect => 3 | .locked => 4 | .mismatch => 5 | .txOff => 8 | .txRun => 9
  | .txBlack => 10

def SdiMode.ofCode : Nat → SdiMode
  | 1 => .noCarrier | 2 => .search | 3 => .detect | 4 => .locked | 5 => .mismatch | 8 => .txOff | 9 => .txRun | 10 => .txBlack
  | _ => .off

def State.sdi (s : State) (n : Nat) : SdiMode := SdiMode.ofCode (s.get (R.port_SDI_STATE_STATE n))
def State.setSdi (s : State) (n : Nat) (m : SdiMode) : State := s.put (R.port_SDI_STATE_STATE n) m.code

/-- The port is an SDI input whose group runs. -/
def State.sdiRuns (s : State) (n : Nat) : Bool := s.sdiIn n && s.clusterUp (n / 4)

/-- The frame in progress is abandoned; one whose last active line has arrived is complete (R130). -/
def State.sdiAbandon (s : State) (n : Nat) : State :=
  let x := 16 * n
  match (s.stream x).writing with
  | some w =>
    if w.ended then s.modStream x fun y => { y with startSeen := none, sdiBuffer := [], nextMarg := none } else s.abandonFrame x
  | none => s.abandonFrame x

/-- Loss, or a structure change: the input goes to `m` (R130). -/
def State.sdiLose (s : State) (n : Nat) (m : SdiMode) : State :=
  let s := ((s.sdiAbandon n).bump (R.port_LOSS_COUNT n)).raise (Flag.port_SDI_SIGNAL_LOSS n)
  (s.modPort n fun p => { p with pidSeen := false, pidHad := false, pidMissed := 0 }).setSdi n m

/-- R127: the signal detect of the equaliser. -/
def execSdiCarrierUp (port : Fin 96) (s : State) : Result :=
  if s.sdiRuns port ∧ s.sdi port = .noCarrier then
    let s := ((s.setSdi port .search).put (R.port_SDI_STATE_NO_LOCK port) 0).modPort port fun p => { p with sdiTry := false }
    .next ((s.put (R.port_SDI_STATE_CARRIER port) 1).raise (Flag.port_SDI_CARRIER_UP port))
  else .next s

/-- R127: SEARCH alternates between the interface's serial rates; ST 259 has one. -/
def execSdiSearchTimer (port : Fin 96) (s : State) : Result :=
  if s.sdiRuns port ∧ s.sdi port = .search ∧ s.get (R.port_PORT_CFG_RATE port) ≠ 0 then
    .next (s.modPort port fun p => { p with sdiTry := !p.sdiTry })
  else .next s

/-- R127. -/
def execSdiCdrLock (port : Fin 96) (s : State) : Result :=
  if s.sdiRuns port ∧ s.sdi port = .search then
    let s := (s.setSdi port .detect).put (R.port_SDI_STATE_FAMILY port) (if (s.port port).sdiTry then 1 else 0)
    .next ((s.put (R.port_SDI_STATE_CDR_LOCK port) 1).put (R.port_SDI_STATE_NO_LOCK port) 0)
  else .next s

/-- R128. -/
def execSdiNoLockTimeout (port : Fin 96) (s : State) : Result :=
  if s.sdiRuns port ∧ s.sdi port = .search then .next (s.put (R.port_SDI_STATE_NO_LOCK port) 1) else .next s

/-- The frame rates of SDI_FMT.RATE as fractions. -/
def sdiRate (code : Nat) : Nat × Nat :=
  match code with
  | 1 => (24000, 1001) | 2 => (24, 1) | 3 => (25, 1) | 4 => (30000, 1001) | 5 => (30, 1) | 6 => (50, 1) | 7 => (60000, 1001)
  | 8 => (60, 1) | _ => (0, 1)

/-- The picture rate code of ST 352 byte 2 for a rate (log entry 34). -/
def pidRate (code : Nat) : Nat :=
  match code with
  | 1 => 2 | 2 => 3 | 3 => 5 | 4 => 6 | 5 => 7 | 6 => 9 | 7 => 10 | 8 => 11 | _ => 0

/-- The active height that a payload identifier (ST 352 byte 1) names, one of them for a standard-definition one; an identifier not
listed names none (log entry 34). -/
def pidHeights (b : Nat) : List Nat :=
  match b with
  | 0x81 => [486, 576] | 0x84 => [720] | 0x88 => [720] | 0x85 => [1080] | 0x87 => [1080] | 0x89 => [1080] | 0x8A => [1080]
  | 0xC0 => [2160] | 0xCE => [2160] | _ => []

/-- Whether a payload ID agrees with a measured structure: the lines of byte 1, transport and rate of byte 2 (R129, log entry 34). -/
def pidAgrees (pid : BitVec 32) (fields : Bool) (height rate : Nat) : Bool :=
  let h := pidHeights (getBits pid 7 0)
  (h.isEmpty || h.contains height) && (pid.getLsbD 15 != fields) && getBits pid 11 8 == pidRate rate

/-- Whether R125 lists a format for a RATE: lines per frame, two-field structure taken as PsF or not, rate code. -/
def sdiListed (code lines : Nat) (fields psf : Bool) (rate : Nat) : Bool :=
  match code with
  | 0 => fields && !psf && ((lines == 525 && rate == 4) || (lines == 625 && rate == 3))
  | 1 =>
    if lines = 750 then !fields && decide (6 ≤ rate)
    else if lines ≠ 1125 then false
    else if fields && !psf then decide (3 ≤ rate ∧ rate ≤ 5)
    else decide (1 ≤ rate ∧ rate ≤ 5)
  | 2 => lines == 1125 && !fields && decide (6 ≤ rate)
  | 3 => lines == 1125 && !fields && decide (6 ≤ rate)
  | 4 => lines == 2250 && !fields && decide (1 ≤ rate ∧ rate ≤ 5)
  | 5 => lines == 2250 && !fields && decide (6 ≤ rate)
  | _ => false

/-- First active line of a format and, for one sent in two fields, of its second field (08_raster_out.md R234). -/
def sdiFirst (height : Nat) (fields : Bool) : Nat × Nat :=
  match height, fields with
  | 486, _ => (21, 283) | 576, _ => (23, 336) | 1080, true => (21, 584) | 720, _ => (26, 0) | 1080, false => (42, 0) | _, _ => (83, 0)

/-- The frame row an SDI line carries (R131; 05_ingest_inkwell.md R144): a line of the second field lies half the frame's lines above its
number, so field 1 is the upper one but in 525 lines (log entry 107). -/
def sdiLineRow (height : Nat) (fields : Bool) (line : Nat) : Option Nat :=
  let (a, b) := sdiFirst height fields
  if fields then
    let upper := if height = 486 then 1 else 0
    if a ≤ line ∧ line < a + height / 2 then some (2 * (line - a) + upper)
    else if b ≤ line ∧ line < b + height / 2 then some (2 * (line - b) + (1 - upper))
    else none
  else if a ≤ line ∧ line < a + height then some (line - a) else none

/-- The last active line of a frame. -/
def sdiLastLine (height : Nat) (fields : Bool) : Nat :=
  let (a, b) := sdiFirst height fields
  if fields then b + height / 2 - 1 else a + height - 1

/-- Whether a two-field signal is PsF (R129): by an agreeing payload ID, else by PSF_DEFAULT for 1125 lines. -/
def State.sdiPsf (s : State) (n : Nat) (fields : Bool) (lines height rate : Nat) (pid : Option (BitVec 32)) : Bool :=
  fields && (match pid with
    | some p => if pidAgrees p fields height rate then p.getLsbD 14 else decide (lines = 1125) && s.on (R.port_SDI_CFG_PSF_DEFAULT n)
    | none => decide (lines = 1125) && s.on (R.port_SDI_CFG_PSF_DEFAULT n))

/-- Whether the port's SDI_FMT shows a signal of two fields, interlaced or PsF. -/
def State.sdiFields (s : State) (n : Nat) : Bool := s.on (R.port_SDI_FMT_INTERLACED n) || s.on (R.port_SDI_FMT_PSF n)

/-- At the end of a frame: a payload ID that disagrees with the measured structure, or is missing from two in a row (R129). -/
def State.pidFrame (s : State) (n : Nat) : State :=
  let p := s.port n
  let s := s.put (R.port_SDI_STATE_PID_PRESENT n) (if p.pidSeen then 1 else 0)
  if p.pidSeen then
    let agrees := pidAgrees (s.rd (Reg.port_PID_RX n)) (s.sdiFields n) (s.get (R.port_SDI_FMT_HEIGHT n)) (s.get (R.port_SDI_FMT_RATE n))
    (s.raiseIf (!agrees) (Flag.port_SDI_PID_MISMATCH n)).modPort n fun p => { p with pidSeen := false, pidHad := true, pidMissed := 0 }
  else if p.pidHad then
    if 1 ≤ p.pidMissed then (s.raise (Flag.port_SDI_PID_LOST n)).modPort n fun p => { p with pidHad := false, pidMissed := 0 }
    else s.modPort n fun p => { p with pidMissed := p.pidMissed + 1 }
  else s

/-- R127 to R129: two measured frames fix the format; in MISMATCH every frame's measurement is compared again. A format that R125 does
not list for the RATE is a mismatch. -/
def execSdiDetectComplete (port : Fin 96) (width height : BitVec 12) (fields : Bool) (lines : Nat) (rate : Fin 9)
    (pid : Option (BitVec 32)) (s : State) : Result :=
  let n := port.val
  let was := s.sdi n
  if s.sdiRuns n ∧ (was = .detect ∨ was = .mismatch) then
    let psf := s.sdiPsf n fields lines height.toNat rate pid
    let inter := fields && !psf
    let s := s.wr (Reg.port_SDI_FMT n) 0
    let s := ((s.put (R.port_SDI_FMT_INTERLACED n) (if inter then 1 else 0)).put (R.port_SDI_FMT_PSF n) (if psf then 1 else 0))
    let s := ((s.put (R.port_SDI_FMT_WIDTH n) width.toNat).put (R.port_SDI_FMT_RATE n) rate).put (R.port_SDI_FMT_HEIGHT n) height.toNat
    let s := match pid with
      | some p => (s.wr (Reg.port_PID_RX n) p).modPort n fun x => { x with pidSeen := true }
      | none => s.modPort n fun x => { x with pidSeen := false }
    let s := s.pidFrame n
    let s := s.raiseIf (was == .detect) (Flag.port_SDI_FORMAT_DETECTED n)
    let x := 16 * n
    let (num, den) := sdiRate rate
    let equal := sdiListed (s.get (R.port_PORT_CFG_RATE n)) lines fields psf rate && decide (width.toNat = s.width x ∧ height.toNat = s.height x
      ∧ num * s.get (R.stream_RATE_DEN x) = s.get (R.stream_RATE_NUM x) * den) && (inter == s.on (R.stream_CFG_INTERLACED x))
    if equal then .next (s.setSdi n .locked)
    else .next ((s.setSdi n .mismatch).raiseIf (was == .detect) (Flag.port_SDI_FORMAT_MISMATCH n))
  else .next s

/-- An ancillary packet of SDI as Marginalia keeps it. -/
def sdiPacket (a : SdiAnc) : AncPacket := ⟨a.line, a.hoff, a.words.map fun w => w.toNat⟩

/-- Samples of one audio channel reach the input channels bound to it (R132; 09_audio_marginalia.md R257, R259). -/
def State.sdiAudioIn (s : State) (n : Nat) (a : SdiAudio) : State :=
  s.each (s.inputsOf (16 * n) a.chan) fun s i =>
    if a.nonPcm then
      (s.raiseIf (s.srcMode i != .nonPcm) Flag.audio_NON_PCM).setSrcMode i .nonPcm
    else
      let s := if s.srcMode i = .nonPcm then s.setSrcMode i .acquire else s
      if a.good then s.samplesIn i 0 (a.samples.map fun v => int24 v.toNat) a.rate.toNat a.dev
      else s.samplesIn i a.samples.length [] a.rate.toNat a.dev

/-- The failed audio packets of a line: of each group one in ST 272, where a packet holds several samples, and one per sample in the
other standards (R132; log entry 109). -/
def failedAudio (rate : Nat) (l : List SdiAudio) : Nat :=
  ((List.range 8).map fun g =>
    let n := ((l.filter fun a => !a.good && a.chan / 4 == g).map fun a => a.samples.length).foldl max 0
    if rate = 0 then min n 1 else n).sum

/-- R130 to R132: a line arrives. `line` is its number by the port's count, which places it; `change` says that the structure has
changed. ST 272 and ST 299-1 carry 16 channels. The EDH packets of ST 259 pass unchecked. -/
def execSdiLineReceived (port : Fin 96) (eav change lnumErr crcY crcC : Bool) (line : Nat)
    (samples : List (BitVec 10)) (anc : List SdiAnc) (audio : List SdiAudio) (s : State) : Result :=
  let n := port.val
  let x := 16 * n
  if s.sdiRuns n = false ∨ s.sdi n ≠ .locked then .next s
  else if change then
    .next (s.sdiLose n .detect)
  else if eav = false then .next s
  else
    let rate := s.get (R.port_PORT_CFG_RATE n)
    let crc := decide (rate ≠ 0)
    let height := s.get (R.port_SDI_FMT_HEIGHT n)
    let fields := s.sdiFields n
    let row := sdiLineRow height fields line
    let first := line == (sdiFirst height fields).1
    let last := line == sdiLastLine height fields
    let s := if crc && crcY then s.bump (R.port_CRC_ERR_Y n) else s
    let s := if crc && crcC then s.bump (R.port_CRC_ERR_C n) else s
    let s := if lnumErr then s.bump (R.port_LNUM_ERR n) else s
    let s := if first && s.ingestRuns x then s.seeStart x none else s
    let s := match row with
      | none => s
      | some r =>
        let g : Segment := ⟨r, 0, samples.length / 2, false, samples.map fun (v : BitVec 10) => v.toNat * 4⟩
        if s.ingestRuns x = false ∨ s.height x ≤ r ∨ s.width x < samples.length / 2 then s
        else
          let bad := !formatPairs 2 (s.storeFmt x)
          s.modStream x fun y =>
            if y.startSeen.isSome then { y with sdiBuffer := y.sdiBuffer ++ [g] }
            else { y with writing := y.writing.map fun (w : Writing) =>
                if w.ended then w else { w with segs := w.segs ++ [g], badFormat := w.badFormat || bad } }
    let s := s.each anc fun s a =>
      let k := sdiPacket a
      let s := if k.good then
          if k.isPid then
            (s.wr (Reg.port_PID_RX n) (BitVec.ofNat 32 (leNat (((k.words.drop 3).take 4).map fun w => BitVec.ofNat 8 w)))).modPort n
              fun p => { p with pidSeen := true }
          else s
        else if k.isEdh && !crc then s
        else s.bump (R.port_ANC_CSUM_ERR n)
      if s.audioOn && s.ingestRuns x then s.bindAnc x k else s
    let audio := if rate ≤ 1 then audio.filter fun a => decide (a.chan < 16) else audio
    let s := s.bumpBy (R.port_ANC_CSUM_ERR n) (failedAudio rate audio)
    let s := s.each audio fun s a =>
      if s.audioOn && s.ingestRuns x then s.sdiAudioIn n a else s
    let s := if last then
        (s.modStream x fun y =>
          if y.startSeen.isSome then y else { y with writing := y.writing.map fun w => { w with ended := true } }).pidFrame n
      else s
    .next s

/-- R127, R130: carrier drops (`carrier` false), clock recovery unlocks, or no valid EAV came on three lines. -/
def execSdiLoss (port : Fin 96) (carrier : Bool) (s : State) : Result :=
  let n := port.val
  let m := s.sdi n
  if s.sdiRuns n = false then .next s
  else
    let clear (s : State) : State :=
      (((s.put (R.port_SDI_STATE_CDR_LOCK n) 0).put (R.port_SDI_STATE_NO_LOCK n) 0).put (R.port_SDI_STATE_CARRIER n)
        (if carrier then 1 else 0)).put (R.port_SDI_STATE_PID_PRESENT n) 0
    let next : SdiMode := if carrier then .search else .noCarrier
    match m with
    | .search => if carrier then .next s else .next (clear (s.sdiLose n next))
    | .detect => .next (clear (s.sdiLose n next))
    | .locked => .next (clear (s.sdiLose n next))
    | .mismatch => .next (clear (s.sdiLose n next))
    | _ => .next s

/-- The serial reference of an output: the synthesizer is the pixel clock's, except for ST 259, which takes synthesizer A; the
output is enabled with the divider of R133 (R134). -/
def State.sdiRefGood (s : State) (n syn : Nat) : Bool :=
  let y := s.get (R.port_SDI_CFG_TX_REF_SYN n)
  let o := s.get (R.port_SDI_CFG_TX_REF_OUT n)
  let slow := s.get (R.port_PORT_CFG_RATE n) == 0
  (if slow then y == 0 else y == syn) && s.on (R.clock_OUT_CTRL_EN y o) && s.get (R.clock_OUT_CTRL_DIV y o) == (if slow then 22 else 20)

end Sys2Proof.Machine
end

