-- ==== Sys2Proof/Machine/FolioOps.lean ====
section
/-!
DEFINITION. A Folio's raster geometry and clock, its commits, its seal state and the stop of its fetching
(07_folio_commit_seal.md R201 to R229, 08_raster_out.md R231 to R241, R251 to R254).
-/
namespace Sys2Proof.Machine
open Sys2Proof

/-- RASTER_STATUS.STATE. -/
inductive RasterMode where
  | off | waitStart | run | changing | hold
  deriving DecidableEq, Repr

def RasterMode.code : RasterMode → Nat | .off => 0 | .waitStart => 1 | .run => 2 | .changing => 3 | .hold => 4
def RasterMode.ofCode : Nat → RasterMode | 1 => .waitStart | 2 => .run | 3 => .changing | 4 => .hold | _ => .off

def State.raster (s : State) (f : Nat) : RasterMode := RasterMode.ofCode (s.get (R.folio_RASTER_STATUS_STATE f))
def State.setRaster (s : State) (f : Nat) (m : RasterMode) : State := s.put (R.folio_RASTER_STATUS_STATE f) m.code
def State.rasterRuns (s : State) (f : Nat) : Bool :=
  match s.raster f with | .run => true | .changing => true | .hold => true | _ => false

/-- Whether the cluster of a present Folio runs (02_fabric_image.md R65). -/
def State.folioUp (s : State) (f : Nat) : Bool := s.folioOn f && s.clusterUp (32 + f / 8)
def State.folioRec (s : State) (f : Nat) : Option FolioRec := s.fabric.now.folios.find? fun r => r.folio == f

/-- A raster's timing (R231 to R235, R242). -/
structure Timing where
  hAct : Nat
  hTotal : Nat
  vAct : Nat
  vTotal : Nat
  first : Nat
  first2 : Nat
  switch : Nat
  num : Nat
  den : Nat
  syn : Nat
  out : Nat
  div2 : Bool
  inter : Bool
  psf : Bool
  deriving DecidableEq, Repr

/-- The timing a reading of the fields gives. -/
def timingOf (g : Fld → Nat) (f : Nat) : Timing :=
  let inter := g (R.folio_TIMING_MODE_INTERLACED f) == 1
  { hAct := g (R.folio_TIMING_H_H_ACTIVE f), hTotal := g (R.folio_TIMING_H_H_TOTAL f), vAct := g (R.folio_TIMING_V_V_ACTIVE f),
    vTotal := g (R.folio_TIMING_V_V_TOTAL f), first := g (R.folio_TIMING_VA_FIRST_ACTIVE f),
    first2 := g (R.folio_TIMING_VA_FIRST_ACTIVE2 f), switch := g (R.folio_TIMING_VS_SWITCH_LINE f),
    num := g (R.folio_TIMING_RATE_NUM f), den := g (R.folio_TIMING_RATE_DEN f), syn := g (R.folio_TIMING_CLK_SYN f),
    out := g (R.folio_TIMING_CLK_OUT f), div2 := g (R.folio_TIMING_CLK_PIX_DIV2 f) == 1, inter := inter,
    psf := inter && g (R.folio_TIMING_MODE_PSF f) == 1 }

/-- The active and the staged value of an RWS field. -/
def State.act (s : State) (x : Fld) : Nat := s.get x.active
def State.timing (s : State) (f : Nat) : Timing := timingOf s.act f
def State.stagedTiming (s : State) (f : Nat) : Timing := timingOf s.get f

/-- A row of the SDI raster table (R234), with the RATE of 04_sdi_ports.md R125 that carries it. -/
structure SdiRaster where
  w : Nat
  h : Nat
  inter : Bool
  num : Nat
  den : Nat
  hTotal : Nat
  vTotal : Nat
  first : Nat
  first2 : Nat
  switch : Nat
  div : Nat
  div2 : Bool
  rate : Nat
  deriving DecidableEq, Repr

def sdiRasters : List SdiRaster :=
  [⟨720, 486, true, 30000, 1001, 858, 525, 21, 283, 10, 220, true, 0⟩, ⟨720, 576, true, 25, 1, 864, 625, 23, 336, 6, 220, true, 0⟩]
  ++ [(50, 1, 1980), (60000, 1001, 1650), (60, 1, 1650)].map (fun r => ⟨1280, 720, false, r.1, r.2.1, r.2.2, 750, 26, 0, 7, 80, false, 1⟩)
  ++ [(25, 1, 2640), (30000, 1001, 2200), (30, 1, 2200)].map (fun r => ⟨1920, 1080, true, r.1, r.2.1, r.2.2, 1125, 21, 584, 7, 80, false, 1⟩)
  ++ [(24000, 1001, 2750), (24, 1, 2750), (25, 1, 2640), (30000, 1001, 2200), (30, 1, 2200)].map
      (fun r => ⟨1920, 1080, false, r.1, r.2.1, r.2.2, 1125, 42, 0, 7, 80, false, 1⟩)
  ++ [(50, 1, 2640), (60000, 1001, 2200), (60, 1, 2200)].map (fun r => ⟨1920, 1080, false, r.1, r.2.1, r.2.2, 1125, 42, 0, 7, 40, false, 2⟩)
  ++ [(24000, 1001, 5500), (24, 1, 5500), (25, 1, 5280), (30000, 1001, 4400), (30, 1, 4400)].map
      (fun r => ⟨3840, 2160, false, r.1, r.2.1, r.2.2, 2250, 83, 0, 13, 20, false, 4⟩)
  ++ [(50, 1, 5280), (60000, 1001, 4400), (60, 1, 4400)].map (fun r => ⟨3840, 2160, false, r.1, r.2.1, r.2.2, 2250, 83, 0, 13, 10, false, 5⟩)

/-- The synthesizer of a row: B for a 1000/1001 rate, but A for ST 259 (R234). -/
def SdiRaster.syn (r : SdiRaster) : Nat := if r.den = 1001 ∧ r.rate ≠ 0 then 1 else 0

/-- The divider of a synthesizer output; a field of 0 selects 1024 (01_ruling.md R35). -/
def State.outDiv (s : State) (y o : Nat) : Nat := let d := s.get (R.clock_OUT_CTRL_DIV y o); if d = 0 then 1024 else d

/-- The row of the table a raster matches on a port of RATE `rate`; PsF is a format of 1125 lines only (04_sdi_ports.md R125). -/
def State.sdiRow (s : State) (t : Timing) (rate : Nat) : Option SdiRaster :=
  let div := s.outDiv t.syn t.out
  sdiRasters.find? fun r =>
    r.rate == rate && r.w == t.hAct && r.h == t.vAct && r.inter == t.inter && r.num * t.den == t.num * r.den && r.hTotal == t.hTotal
      && r.vTotal == t.vTotal && r.first == t.first && (!r.inter || r.first2 == t.first2) && r.div == div && r.div2 == t.div2
      && r.syn == t.syn && (!t.psf || r.vTotal == 1125)

/-- A row of the table as the timing of the format last sent. -/
def SdiRaster.timing (r : SdiRaster) (psf : Bool) : Timing :=
  { hAct := r.w, hTotal := r.hTotal, vAct := r.h, vTotal := r.vTotal, first := r.first, first2 := r.first2, switch := r.switch,
    num := r.num, den := r.den, syn := r.syn, out := 0, div2 := r.div2, inter := r.inter, psf := psf }

def State.sdiPorts (s : State) (f : Nat) : List Nat := (s.folioPorts f).filter s.sdiOut
def State.rasynPorts (s : State) (f : Nat) : List Nat := (s.folioPorts f).filter s.rasynOut

/-- The switching line (R232). -/
def State.switchLine (s : State) (f : Nat) (t : Timing) : Nat :=
  match (s.sdiPorts f).findSome? fun n => s.sdiRow t (s.get (R.port_PORT_CFG_RATE n)) with
  | some r => r.switch
  | none => if 1 ≤ t.switch ∧ t.switch + 4 ≤ t.first then t.switch else 1

/-- The frame fetch start line (06_panes.md R170). -/
def Timing.fetchLine (t : Timing) : Nat := t.first - 3

/-- The frame row a line carries (R231, R242). -/
def Timing.row (t : Timing) (line : Nat) : Option Nat :=
  if t.inter then
    if t.first ≤ line ∧ line < t.first + t.vAct / 2 then some (2 * (line - t.first))
    else if t.first2 ≤ line ∧ line < t.first2 + t.vAct / 2 then some (2 * (line - t.first2) + 1)
    else none
  else if t.first ≤ line ∧ line < t.first + t.vAct then some (line - t.first)
  else none

/-- The line that carries a frame row. -/
def Timing.lineOf (t : Timing) (row : Nat) : Nat :=
  if t.inter then (if row % 2 = 0 then t.first else t.first2) + row / 2 else t.first + row

/-- Field 2 begins at FIRST_ACTIVE2 − FIRST_ACTIVE + 1 (R231). -/
def Timing.inField2 (t : Timing) (line : Nat) : Bool := t.inter && decide (t.first2 - t.first + 1 ≤ line)

/-- The last active line of a frame. -/
def Timing.lastActive (t : Timing) : Nat := if t.inter then t.first2 + t.vAct / 2 - 1 else t.first + t.vAct - 1

/-- The lines at which START_OF_BLANK is raised: the first after the last active line of each field, line 1 after V_TOTAL (R243).
`prev` is the line before, 0 at a raster's start. -/
def Timing.blankStarts (t : Timing) (prev line : Nat) : Bool :=
  let follows (l : Nat) : Bool := line == l || (decide (t.vTotal < l) && line == 1 && prev == t.vTotal)
  if t.inter then follows (t.first + t.vAct / 2) || follows (t.first2 + t.vAct / 2) else follows (t.first + t.vAct)

/-- The nominal line period in ns. -/
def Timing.lineNs (t : Timing) : Rat := (1000000000 * t.den : Nat) / ((t.num * t.vTotal : Nat) : Rat)

/-- The checks of R235. -/
def State.clkGood (s : State) (t : Timing) : Bool :=
  let div := s.outDiv t.syn t.out * (if t.div2 then 2 else 1)
  let rhs := t.num * div * t.hTotal * t.vTotal
  s.on (R.clock_OUT_CTRL_EN t.syn t.out) && !s.on (R.clock_OUT_CTRL_SYNC_PENDING t.syn t.out) && t.den != 0
    && (if t.syn = 0 then decide (5940000000 ≤ 600000000 * div) && 5940000000 * t.den == rhs
        else decide (5940000000000 ≤ 600000000 * 1001 * div) && 5940000000000 * t.den == rhs * 1001)

/-- The limits of R233 that the settings alone show. -/
def State.rasterLegal (s : State) (f : Nat) (t : Timing) : Bool :=
  match s.folioRec f with
  | none => false
  | some r =>
    decide (2 ≤ t.hAct) && decide (t.hAct ≤ r.maxWidth) && t.hAct % 2 == 0 && decide (t.hAct + 32 ≤ t.hTotal)
      && decide (s.act (R.folio_TIMING_HS_H_FP f) + s.act (R.folio_TIMING_HS_H_SW f) ≤ t.hTotal - t.hAct)
      && decide (1 ≤ t.vAct) && decide (t.vAct ≤ r.maxHeight) && (!t.inter || (t.vAct % 2 == 0 && decide (1 ≤ t.first2) && decide (t.first + t.vAct / 2 ≤ t.vTotal + 1))) && decide (t.vAct + 8 ≤ t.vTotal)
      && decide (s.switchLine f t + 4 ≤ t.first) && decide (t.lastActive ≤ t.vTotal)
      && decide (t.hAct * t.vAct * t.num ≤ r.maxPixrate * 1000 * t.den)

/-- p and q of R62. -/
def State.rateRatio (s : State) (t : Timing) : Nat × Nat :=
  let r := s.rulingFormat
  let a := t.num * r.den
  let b := t.den * r.num
  let g := max 1 (Nat.gcd a b)
  (a / g, b / g)

/-- The displacement OFFSET asks for, in pixel clocks (R238). -/
def State.offsetClocks (s : State) (f : Nat) : Int :=
  let t := s.timing f
  ((s.act (R.folio_TIMING_OFFSET_OFFSET_LINES f) % max 1 t.vTotal * t.hTotal + s.act (R.folio_TIMING_OFFSET_OFFSET_PIX f) % max 1 t.hTotal : Nat) : Int)

/-- Whether the instant that R62 and OFFSET give line `line` of output frame `index` after a common point lies in the Ruling line in
progress (01_ruling.md R62, R238; log entry 130). -/
def State.onTarget (s : State) (f : Nat) (t : Timing) (index line : Nat) : Bool :=
  let r := s.rulingFormat
  let (p, q) := s.rateRatio t
  let cycle := q * r.lines
  let clocks : Rat := (s.offsetClocks f + ((line - 1) * t.hTotal : Nat) : Int)
  let lines : Rat := (clocks / (max 1 (t.hTotal * t.vTotal) : Nat) + (index % max 1 p : Nat)) * (cycle : Nat) / (max 1 p : Nat)
  let pos : Nat := s.ruling.frame % max 1 q * r.lines + (s.ruling.line - 1)
  !s.ruling.inserted && lines.floor % (max 1 cycle : Nat) == (pos : Int)

/-- FRAME_NUM, modulo 2^32. -/
def State.frameNum (s : State) (f : Nat) : Nat := s.get (R.folio_FRAME_NUM f)

/-! The seal pane's state (R226, R227, R229). -/

/-- SEAL_STATE.ALARM: the Folio drives SEAL_ALARM_N low. -/
def State.showAlarm (s : State) (f : Nat) : State :=
  let flags := leAt (s.sealCmd f) 65 1
  let st := s.get (R.folio_SEAL_STATE_STATE f)
  s.put (R.folio_SEAL_STATE_ALARM f) (if (flags.testBit 0 && st == 2) || (flags.testBit 1 && flags.testBit 0 && st == 3) then 1 else 0)

/-- A state and its reasons are shown; a change raises its flag and is recorded (R227). -/
def State.setSeal (s : State) (f st reason : Nat) : State :=
  let was := s.get (R.folio_SEAL_STATE_STATE f)
  let s := (s.put (R.folio_SEAL_STATE_STATE f) st).put (R.folio_SEAL_STATE_REASON f) reason
  let s := if was = st then s
    else
      let s := if st = 1 then s.raise (Flag.folio_SEAL_SEAL_FRESH f)
        else if st = 2 then
          ((s.raise (Flag.folio_SEAL_SEAL_STALE f)).put (R.folio_SEAL_STALE_TIME f) (s.get R.blotter_OP_S)).incidentEvent 2 4 f
        else if st = 3 then s.raise (Flag.folio_SEAL_SEAL_STOPPED f)
        else s
      s.blotter 0x0701 f (leBytes 1 st ++ leBytes 2 reason)
  s.showAlarm f

/-- A pane's pins are given back (R160). A seal pane that keeps its last shown picture keeps its pin (R228). -/
def State.unpinLatch (s : State) (f : Nat) (t : PaneLatch) : State :=
  match t.show' with
  | .picture | .cut => if t.pane = 8 ∧ (s.folio f).sealKept.isSome = true then s else s.unpin t.set.index (.pane f t.pane)
  | _ => s

/-- Every pin of a Folio's panes is given back (R160). -/
def State.unpinFolio (s : State) (f : Nat) : State := s.each (s.folio f).latches fun s t => s.unpinLatch f t

/-- The seal pane keeps no picture (R228). -/
def State.dropKept (s : State) (f : Nat) : State :=
  match (s.folio f).sealKept with
  | none => s
  | some t => (s.modFolio f fun x => { x with sealKept := none }).unpinLatch f t

/-- Seal settings take effect (R225, R227). -/
def State.sealTakes (s : State) (f : Nat) : State :=
  match (s.folio f).sealDue with
  | none => s
  | some b =>
    let s := (s.dropKept f).putBytes (Reg.folio_SEAL_CMD f 0) b
    let s := s.modFolio f fun x => { x with sealDue := none, sealRestart := true }
    (s.raise (Flag.folio_SEAL_SEAL_APPLIED f)).showAlarm f

/-! Retiring and the stop of fetching (R215, R160). -/

/-- RETIRE takes the present frame's number. -/
def State.retire (s : State) (f : Nat) : State :=
  let n := s.frameNum f
  if s.get (R.folio_RETIRE f) = n then s
  else
    let s := (s.put (R.folio_RETIRE f) n).raise (Flag.folio_RASTER_FRAME_DONE f)
    s.raiseIf (s.get (R.folio_RETIRE_WAIT f) == n) (Flag.folio_RETIRE_REACHED f)

/-- A writeback frame in progress is abandoned (R220). -/
def State.dropWriteback (s : State) (f : Nat) : State :=
  if (s.folio f).wbOn then
    let s := match s.folioRec f with | some r => s.abandonFrame r.wbStream | none => s
    (s.modFolio f fun x => { x with wbOn := false, wbRows := [], wbUnder := [] }).raise (Flag.folio_WB_DROP f)
  else s

/-- The Folio stops fetching (R160, R206, R215, R227; 04_sdi_ports.md R135). -/
def State.stopFetching (s : State) (f : Nat) : State :=
  let s := ((s.dropKept f).unpinFolio f).dropWriteback f
  let s := if (s.folio f).began then s.retire f else s
  let s := s.modFolio f fun x =>
    { x with latches := [], rows := [], began := false, sealRestart := true, cutSlot := none, cutLate := none,
             genlocked := 0, marginGood := 0, margins := [], anc := [] }
  let s := (s.put (R.folio_DRY_STATUS_VALID f) 0).put (R.folio_LTR_STATUS_TOL f) 0xFFFF
  let s := if s.get (R.folio_SEAL_STATE_STATE f) = 0 then s else s.setSeal f 3 (s.get (R.folio_SEAL_STATE_REASON f))
  s.each (s.sdiPorts f) fun s n => if s.sdi n = .txRun then s.setSdi n .txBlack else s

/-- HOLD to a Folio's displays, 01h hold and 00h release; no answer is awaited. -/
def State.tellHold (s : State) (f v : Nat) : State :=
  s.each (s.rasynPorts f) fun s n => (s.modPort n fun p => { p with holdReply := 0 }).ctrlRequest n false 7 0 (leBytes 1 v)

/-- HOLD 01h to a Folio's displays, whose answers decide (R248). -/
def State.askHold (s : State) (f : Nat) : State :=
  s.each (s.rasynPorts f) fun s n =>
    (s.modPort n fun p => { p with holdReply := 1, holdMsg := s.nextMsg n }).ctrlRequest n false 7 0 (leBytes 1 1)

/-- MODE_CHANGE to a Folio's displays, whose answers are awaited (R252). -/
def State.askMode (s : State) (f : Nat) (data : List Byte) : State :=
  s.each (s.rasynPorts f) fun s n =>
    (s.modPort n fun p => { p with modeReply := 1, modeMsg := s.nextMsg n }).ctrlRequest n false 6 0 data

/-- The format record (R252). -/
def formatRecord (t : Timing) (linkFmt : Nat) (dispTimed : Bool) : List Byte :=
  leBytes 2 t.hAct ++ leBytes 2 t.vAct ++ leBytes 2 t.hTotal ++ leBytes 2 t.vTotal ++ leBytes 2 t.num ++ leBytes 2 t.den
    ++ leBytes 4 ((2 * t.num * t.hTotal * t.vTotal + t.den) / (2 * max 1 t.den)) ++ leBytes 2 t.first
    ++ leBytes 2 (if t.inter then t.first2 else 0) ++ leBytes 1 linkFmt
    ++ leBytes 1 ((if t.inter then 1 else 0) + (if t.psf then 2 else 0) + (if dispTimed then 4 else 0)) ++ leBytes 2 0

/-- A transmitter starts a format; the family is that of the serial clock's synthesizer (04_sdi_ports.md R133). -/
def State.sdiSends (s : State) (n : Nat) (t : Timing) (r : SdiRaster) : State :=
  let s := s.modPort n fun p => { p with sdiSent := some (sdiRasters.idxOf r) }
  let s := ((s.setSdi n .txRun).put (R.port_SDI_STATE_FAMILY n) r.syn).wr (Reg.port_SDI_FMT n) 0
  let s := (s.put (R.port_SDI_FMT_INTERLACED n) (if t.inter && !t.psf then 1 else 0)).put (R.port_SDI_FMT_PSF n)
    (if t.psf then 1 else 0)
  let rate := ((List.range 9).find? fun k => (sdiRate k).1 * r.den == r.num * (sdiRate k).2).getD 0
  ((s.put (R.port_SDI_FMT_WIDTH n) r.w).put (R.port_SDI_FMT_HEIGHT n) r.h).put (R.port_SDI_FMT_RATE n) rate

/-- The reference of a transmitter is wrong (04_sdi_ports.md R134). -/
def State.sdiRefBad (s : State) (n : Nat) : State := (s.setSdi n .txOff).raise (Flag.port_SDI_TX_REF_MISMATCH n)

/-- The SDI ports' checks at a raster start or a timing commit (R234; 04_sdi_ports.md R134). -/
def State.sdiStart (s : State) (f : Nat) (t : Timing) : State :=
  s.each (s.sdiPorts f) fun s n =>
    match s.sdiRow t (s.get (R.port_PORT_CFG_RATE n)) with
    | none => (s.setSdi n .txOff).raise (Flag.folio_RASTER_SDI_FMT_BAD f)
    | some r => if s.sdiRefGood n t.syn then s.sdiSends n t r else s.sdiRefBad n

/-- The reference check at a commit (04_sdi_ports.md R134): with the raster running it is repeated for the transmitters that are off;
otherwise a change of the timing is checked, and a transmitter whose check fails is off. -/
def State.sdiCommit (s : State) (f : Nat) (changed : Bool) : State :=
  let t := s.timing f
  s.each (s.sdiPorts f) fun s n =>
    if s.rasterRuns f then
      match s.sdi n, s.sdiRow t (s.get (R.port_PORT_CFG_RATE n)) with
      | .txOff, some r => if s.sdiRefGood n t.syn then s.sdiSends n t r else s.sdiRefBad n
      | _, _ => s
    else if changed && !s.sdiRefGood n t.syn then s.sdiRefBad n
    else s

/-- Whether a raster runs at all: for a port that is not SDI, or for an SDI port whose table row it matches (R234). -/
def State.rasterServes (s : State) (f : Nat) (t : Timing) : Bool :=
  (s.sdiPorts f).isEmpty || (s.folioPorts f).any fun n =>
    !s.sdiOut n || (s.sdiRow t (s.get (R.port_PORT_CFG_RATE n))).isSome

/-- WAIT_START is entered and the clock checked (R235, R237). -/
def State.rasterWaits (s : State) (f : Nat) : State :=
  let s := s.modFolio f fun x => { x with disp := 0, snap := none, nextLine := none, black := false, waiting := false }
  let s := ((s.setRaster f .waitStart).put (R.folio_LTR_STATUS_TOL f) 0xFFFF).put (R.folio_RASTER_STATUS_LINE f) 0
  s.raiseIf (!s.clkGood (s.timing f)) (Flag.folio_RASTER_CLK_MISMATCH f)

/-- The raster stops (R237). -/
def State.rasterStops (s : State) (f : Nat) : State :=
  let s := (s.stopFetching f).tellHold f 1
  let s := s.modFolio f fun x =>
    { x with taken := none, gap := false, blackLeft := 0, holdAsked := false, waiting := false, nextLine := none, snap := none }
  ((s.setRaster f .off).put (R.folio_RASTER_STATUS_LINE f) 0).put (R.folio_RASTER_STATUS_FIELD2 f) 0

/-! Staged and active values, and the dry set (R205 to R208). -/

def RegRow.addrs (base : Nat) (r : RegRow) : List Nat := (List.range r.count).map fun i => base + r.off + i * r.stride

/-- The staged registers of a pane and of the Folio itself. -/
def paneStaged (f p : Nat) : List Nat :=
  (paneRows.filter fun r => r.staged).flatMap (RegRow.addrs (0x100000 + 0x2000 * f + 0x200 * p))
def folioStaged (f : Nat) : List Nat :=
  (folioRows.filter fun r => r.staged).flatMap (RegRow.addrs (0x100000 + 0x2000 * f))

/-- The panes below the lowest whose active source is STREAM (R205). -/
def State.dryCount (s : State) (f : Nat) : Nat :=
  ((List.range 8).find? fun p => s.act (R.pane_SRC_KIND f p) == 1).getD 8

/-- What the dry cache's validity rests on: the size, BG, the dry set and its members' active registers (R206). -/
def State.dryKey (s : State) (f : Nat) : List Nat :=
  let k := s.dryCount f
  [k, s.act (R.folio_TIMING_H_H_ACTIVE f), s.act (R.folio_TIMING_V_V_ACTIVE f), s.act (whole (Reg.folio_BG f)),
      s.act (R.folio_CTRL_WAIT_EN f) % 2 ^ k]
    ++ (List.range k).flatMap fun p =>
      ([Reg.folio_BORDER f p, Reg.folio_FENCE_WAIT f p] ++ paneStaged f p).map fun a => s.act (whole a)

/-- The values a commit takes, those of unready panes left out (R212). -/
def State.commitValues (s : State) (f : Nat) (unready : List Nat) : List (Nat × BitVec 32) :=
  let ready := (List.range 8).filter fun p => !unready.contains p
  let held := unready.flatMap fun p => [Reg.folio_BORDER f p, Reg.folio_FENCE_WAIT f p]
  let mask := unready.foldl (fun m p => m ||| BitVec.ofNat 32 (2 ^ p)) 0
  (ready.flatMap (paneStaged f) ++ (folioStaged f).filter fun a => !held.contains a).map fun a =>
    (a, if a = Reg.folio_CTRL f then (s.rd a &&& ~~~mask) ||| (s.rd (a + 0x1000) &&& mask) else s.rd a)

/-- The dry cache is no longer valid; a rebuild under way fails (R206). -/
def State.dryInvalid (s : State) (f : Nat) : State :=
  (s.put (R.folio_DRY_STATUS_VALID f) 0).modFolio f fun x => { x with dryBad := true }

/-- Values become active; what rests on the old ones ends (R206; 09_audio_marginalia.md R264). -/
def State.activate (s : State) (f : Nat) (vals : List (Nat × BitVec 32)) : State :=
  let key := s.dryKey f
  let src (s : State) (p : Nat) : BitVec 32 := s.rd (Reg.pane_SRC f p + 0x1000)
  let old := (List.range 8).map (src s)
  let s := s.each vals fun s v => s.wr (v.1 + 0x1000) v.2
  let s := if s.dryKey f = key then s else s.dryInvalid f
  s.each (List.range 8) fun s p =>
    if src s p = old.getD p 0 then s
    else
      let m : BitVec 8 := ~~~(BitVec.ofNat 8 (2 ^ p))
      (s.modFolio f fun x => { x with genlocked := x.genlocked &&& m, marginGood := x.marginGood &&& m }).lipRestart f p

/-! Commits (R209 to R213, R251). -/

/-- Pane `p`'s staged fence (R211). A surface number the spec does not give has no stated fence (R10, log entry 50). -/
def State.fenceSignalled (s : State) (f p : Nat) : Bool :=
  let i := s.get (R.pane_SRC_INDEX f p)
  let fence := if i < 256 then s.rd (Reg.surf_FENCE i) else BitVec.ofNat 32 (Config.undefinedPixel s.freeCount i 0 0)
  decide ((fence - s.rd (Reg.folio_FENCE_WAIT f p)).toNat < 2 ^ 31)

/-- The panes whose fence is awaited and not signalled (R210). -/
def State.unreadyPanes (s : State) (f : Nat) : List Nat :=
  (List.range 8).filter fun p =>
    (s.get (R.folio_CTRL_WAIT_EN f)).testBit p && s.get (R.pane_SRC_KIND f p) == 2 && !s.fenceSignalled f p

/-- A commit has been applied (R210, R212). -/
def State.commitDone (s : State) (f staleMask : Nat) : State :=
  let s := ((s.put (R.folio_COMMIT_STATUS_ARMED f) 0).put (R.folio_COMMIT_STATUS_HELD f) 0).put (R.folio_COMMIT_STATUS_LAST f)
    (if staleMask = 0 then 1 else 2)
  let s := (s.put (R.folio_COMMIT_STATUS_STALE_PANES f) staleMask).put (R.folio_COMMIT_STATUS_COMMIT_SEQ f)
    (s.get (R.folio_COMMIT_STATUS_COMMIT_SEQ f) + 1)
  let s := s.put (R.folio_FROM_FRAME f) (s.frameNum f + 1)
  let s := s.each (List.range 8) fun s p => s.raiseIf (staleMask.testBit p) (Flag.pane_PANE_STALE f p)
  let s := s.modFolio f fun x => { x with moving := true }
  (s.raiseIf (staleMask != 0) (Flag.folio_COMMIT_PARTIAL f)).raise (Flag.folio_COMMIT_DONE f)

/-- RUN as it has become active (R237). -/
def State.followRun (s : State) (f : Nat) : State :=
  let run := s.act (R.folio_TIMING_MODE_RUN f) == 1
  match s.raster f with
  | .off => if run && s.folioUp f then s.rasterWaits f else s
  | .waitStart => if run then s else (s.setRaster f .off)
  | _ => s

/-- Whether the staged set holds a timing change (R251). -/
def State.timingChanges (s : State) (f : Nat) : Bool :=
  [Reg.folio_TIMING_H f, Reg.folio_TIMING_HS f, Reg.folio_TIMING_V f, Reg.folio_TIMING_VA f, Reg.folio_TIMING_VS f,
    Reg.folio_TIMING_RATE f, Reg.folio_TIMING_CLK f].any (fun a => s.rd a != s.rd (a + 0x1000))
  || [R.folio_TIMING_MODE_INTERLACED f, R.folio_TIMING_MODE_PSF f, R.folio_TIMING_MODE_HS_POL f, R.folio_TIMING_MODE_VS_POL f].any
      (fun x => s.get x != s.act x)

/-- A timing change is accepted: the set is taken, and the displays are told (R251, R252). -/
def State.acceptChange (s : State) (f : Nat) (vals : List (Nat × BitVec 32)) (staleMask : Nat) : State :=
  let black := if (s.sdiPorts f).isEmpty then 0 else s.act (R.folio_TIMING_MODE_BLACK_FRAMES f)
  let s := s.askMode f (formatRecord (s.stagedTiming f) (s.get (R.folio_OUT_FMT_LINK_FMT f))
    (s.get (R.folio_TIMING_MODE_DISP_TIMED f) == 1))
  let s := s.modFolio f fun x => { x with taken := some vals, takenStale := staleMask, blackLeft := black + 1, gap := false }
  (s.put (R.folio_COMMIT_STATUS_ARMED f) 0).setRaster f .changing

/-- The commit passes its fence check, unready panes left out (R210, R212, R251). -/
def State.commitApply (s : State) (f : Nat) (unready : List Nat) : State :=
  let vals := s.commitValues f unready
  let mask := unready.foldl (fun m p => m + 2 ^ p) 0
  if s.raster f = .run ∧ s.timingChanges f = true then s.acceptChange f vals mask
  else
    let changed := s.timingChanges f
    (((s.activate f vals).commitDone f mask).followRun f).sdiCommit f changed

/-- One switching point of an armed commit (R209 to R213). -/
def State.commitPoint (s : State) (f : Nat) : State :=
  if s.on (R.folio_COMMIT_STATUS_ARMED f) = false then s
  else if s.on (R.folio_COMMIT_STAGE_HOLD f) then s.put (R.folio_COMMIT_STATUS_HELD f) 1
  else
    let s := s.put (R.folio_COMMIT_STATUS_HELD f) 0
    let u := s.unreadyPanes f
    if u.isEmpty then s.commitApply f []
    else if s.on (R.folio_COMMIT_CFG_POLICY f) ∧ s.get (R.folio_COMMIT_CFG_DEFER_LIMIT f) ≤ s.get (R.folio_COMMIT_STATUS_DEFERS f) then
      s.commitApply f u
    else (s.bump (R.folio_COMMIT_STATUS_DEFERS f)).raise (Flag.folio_COMMIT_DEFER f)

/-- A commit is armed; one whose raster does not run is checked at once (R210, R213). `periods` is the time to the next switching
point, or to the next Ruling frame boundary where the raster does not run (09_audio_marginalia.md R269). -/
def State.commitArm (s : State) (f periods : Nat) : State :=
  if s.on (R.folio_COMMIT_STATUS_ARMED f) then s
  else
    let s := (s.put (R.folio_COMMIT_STATUS_ARMED f) 1).put (R.folio_COMMIT_STATUS_DEFERS f) 0
    let s := s.planTakes f periods
    if s.rasterRuns f then s else s.commitPoint f

/-- An armed commit is removed (R213). -/
def State.commitClear (s : State) (f : Nat) : State :=
  if s.on (R.folio_COMMIT_STATUS_ARMED f) then
    let s := ((s.put (R.folio_COMMIT_STATUS_ARMED f) 0).put (R.folio_COMMIT_STATUS_HELD f) 0).put (R.folio_COMMIT_STATUS_LAST f) 3
    s.raise (Flag.folio_COMMIT_CLEARED f)
  else s

/-- A timing change under way is discarded (R254). -/
def State.discardChange (s : State) (f : Nat) : State :=
  if (s.folio f).taken.isSome then
    let s := s.modFolio f fun x => { x with taken := none, gap := false, blackLeft := 0 }
    (s.put (R.folio_COMMIT_STATUS_LAST f) 3).raise (Flag.folio_COMMIT_CLEARED f)
  else s

/-- A surface a Folio shows changes: its dry cache and its static frames (R206, R248, R249). -/
def State.surfaceTouched (s : State) (i : Nat) : State :=
  s.each (List.range 64) fun s f =>
    if s.folioOn f then
      let hits := (List.range 8).filter fun p => s.act (R.pane_SRC_KIND f p) == 2 && s.act (R.pane_SRC_INDEX f p) == i
      let s := if hits.any fun p => decide (p < s.dryCount f) then s.dryInvalid f else s
      if hits.isEmpty then s else s.modFolio f fun x => { x with moving := true, holdEnd := true }
    else s

end Sys2Proof.Machine
end

