-- ==== Sys2Proof/Machine/Latch.lean ====
section
/-!
DEFINITION. The frame fetch start of a Folio: sources, occlusion, the cut-through route, the fetch budget, the latch of each pane and
the seal pane's checks (06_panes.md R170 to R196, 07_folio_commit_seal.md R204 to R207, R226, R227).
-/
namespace Sys2Proof.Machine
open Sys2Proof

/-- A surface as its descriptor gives it (06_panes.md R173, R200). -/
structure SurfDesc where
  base : Nat
  pitch : Nat
  fmt : Nat
  w : Nat
  h : Nat
  deriving DecidableEq, Repr

/-- Whether a descriptor is defined (R154, R200). -/
def SurfDesc.good (d : SurfDesc) : Bool :=
  decide (1 ≤ d.fmt) && decide (d.fmt ≤ 6) && d.pitch != 0 && decide (1 ≤ d.w) && decide (d.w ≤ 4096) && decide (1 ≤ d.h)
    && decide (d.h ≤ 4096) && ((d.fmt != 2 && d.fmt != 5) || d.h % 2 == 0)

/-- A host surface; none where the number or the descriptor is an undefined encoding (R10). -/
def State.surfDesc (s : State) (i : Nat) : Option SurfDesc :=
  if i < 256 then
    let d : SurfDesc := ⟨s.get (R.surf_BASE i) * 256, s.get (R.surf_FMT_PITCH i) * 256, s.get (R.surf_FMT_FMT i),
      s.get (R.surf_SIZE_WIDTH i), s.get (R.surf_SIZE_HEIGHT i)⟩
    if d.good then some d else none
  else none

/-- Whether seal surface `i` is loaded (R225), and what its LOAD_SURFACE describes. -/
def State.sealLoaded (s : State) (f i : Nat) : Bool := i < 16 && s.on ⟨Reg.folio_SEAL_SURF_LOADED f, i, i⟩
def State.sealDesc (s : State) (f i : Nat) : Option SurfDesc :=
  if s.sealLoaded f i then
    let b := Sparse.get (fun _ => []) (s.sealStore f).loads i
    let d : SurfDesc := ⟨(match s.sealRec f with | some r => r.surfBase * 65536 | none => 0) + leAt b 40 4 * 256, leAt b 38 2 * 256,
      leAt b 33 1, leAt b 34 2, leAt b 36 2⟩
    if d.good then some d else none
  else none

def signed16 (v : Nat) : Int := if v % 65536 < 32768 then (v % 65536 : Int) else (v % 65536 : Int) - 65536

/-- The settings of pane `p` in its active registers (R171, R199, R203). -/
def State.paneSet (s : State) (f p : Nat) : PaneSet :=
  let g (x : Fld) : Nat := s.act x
  let word (a : Nat) : BitVec 32 := s.rd (a + 0x1000)
  let lo (a : Nat) : Int := signed16 (getBits (word a) 15 0)
  let hi (a : Nat) : Int := signed16 (getBits (word a) 31 16)
  let ms := [Reg.pane_CSC_M0 f p, Reg.pane_CSC_M1 f p, Reg.pane_CSC_M2 f p, Reg.pane_CSC_M3 f p, Reg.pane_CSC_M4 f p]
  { kind := g (R.pane_SRC_KIND f p), index := g (R.pane_SRC_INDEX f p), cropX := g (R.pane_CROP_POS_X f p),
    cropY := g (R.pane_CROP_POS_Y f p), cropW := g (R.pane_CROP_SIZE_W f p), cropH := g (R.pane_CROP_SIZE_H f p),
    dstX := s.getInt (R.pane_DST_POS_X f p).active, dstY := s.getInt (R.pane_DST_POS_Y f p).active,
    dstW := g (R.pane_DST_SIZE_W f p), dstH := g (R.pane_DST_SIZE_H f p),
    force := if g (R.pane_SCALE_SKETCH_FORCE f p) = 1 then some (g (R.pane_SCALE_SKETCH_LEVEL f p)) else none,
    filterH := g (R.pane_SCALE_FILTER_H f p), filterV := g (R.pane_SCALE_FILTER_V f p),
    rc := if g (R.pane_RATE_RC_MODE f p) = 3 then 0 else g (R.pane_RATE_RC_MODE f p),
    confLo := g (R.pane_RATE_CONF_LO f p), confHi := g (R.pane_RATE_CONF_HI f p), custom := g (R.pane_COLOUR_CSC_CUSTOM f p) == 1,
    full := g (R.pane_COLOUR_SRC_FULL f p) == 1, cs := g (R.pane_COLOUR_SRC_CS f p), m := (ms.flatMap fun a => [lo a, hi a]).take 9,
    offIn := [lo (Reg.pane_CSC_OFF_IN0 f p), hi (Reg.pane_CSC_OFF_IN0 f p), lo (Reg.pane_CSC_OFF_IN1 f p)],
    offOut := [lo (Reg.pane_CSC_OFF_OUT0 f p), hi (Reg.pane_CSC_OFF_OUT0 f p), lo (Reg.pane_CSC_OFF_OUT1 f p)],
    alpha := g (R.pane_BLEND_GLOBAL_ALPHA f p), mode := g (R.pane_BLEND_MODE f p), fill := word (Reg.pane_FILL f p),
    cutEn := g (R.pane_CTRL_CUT_EN f p) == 1, slate := g (R.pane_CTRL_SLATE_SURF f p),
    policy := g (R.pane_CTRL_LOST_POLICY f p), sides := g (R.folio_BORDER_SIDES f p), borderW := g (R.folio_BORDER_WIDTH f p),
    border := word (Reg.folio_BORDER_CLR f (g (R.folio_BORDER_CLR f p))) }

/-- The settings of the seal pane, from the APPLY in force (R223). -/
def sealSet (b : List Byte) : PaneSet :=
  { kind := leAt b 32 1, index := leAt b 34 2, cropX := leAt b 36 2, cropY := leAt b 38 2, cropW := leAt b 40 2, cropH := leAt b 42 2,
    dstX := signed16 (leAt b 44 2), dstY := signed16 (leAt b 46 2), dstW := leAt b 48 2, dstH := leAt b 50 2,
    force := if leAt b 54 1 = 0xFF then none else some (leAt b 54 1), filterH := leAt b 33 1 % 4, filterV := leAt b 33 1 / 16 % 4,
    full := (leAt b 55 1).testBit 2, cs := leAt b 55 1 % 4, alpha := leAt b 53 1, mode := leAt b 52 1 % 4 }

/-- A rectangle: left, top, and the first column and row beyond. -/
structure Rect where
  x0 : Nat
  y0 : Nat
  x1 : Nat
  y1 : Nat
  deriving DecidableEq, Repr

def Rect.has (r : Rect) (x y : Nat) : Bool := decide (r.x0 ≤ x) && decide (x < r.x1) && decide (r.y0 ≤ y) && decide (y < r.y1)

/-- A destination clipped to the raster; none where nothing is left (R176). -/
def clipDst (p : PaneSet) (t : Timing) : Option Rect :=
  let r : Rect := ⟨p.dstX.toNat, p.dstY.toNat, min t.hAct (p.dstX + p.dstW).toNat, min t.vAct (p.dstY + p.dstH).toNat⟩
  if r.x0 < r.x1 ∧ r.y0 < r.y1 then some r else none

/-- The columns of the fetched level that a latch's destination columns inside the raster need (R176). -/
def State.columnSpan (s : State) (f : Nat) (t : PaneLatch) : Nat × Nat :=
  match clipDst t.set (s.timing f) with
  | none => (0, t.w - 1)
  | some r =>
    if t.w = 0 then (0, 0)
    else s.columnSpanOf f t ((r.x0 : Int) - t.set.dstX).toNat ((r.x1 : Int) - t.set.dstX).toNat

/-- A rectangle wholly within the union of others (R194). -/
def coveredBy (r : Rect) (l : List Rect) : Bool :=
  (List.range (r.x1 - r.x0)).all fun i => (List.range (r.y1 - r.y0)).all fun j => l.any fun q => q.has (r.x0 + i) (r.y0 + j)

/-- The crop clamped to a source of `w` by `h` (R175). -/
def clampCrop (p : PaneSet) (w h : Nat) : Option (Nat × Nat × Nat × Nat) :=
  let side (o n m : Nat) : Nat := min m (o + (if n = 0 then m - o else n)) - o
  let cw := side p.cropX p.cropW w
  let ch := side p.cropY p.cropH h
  if cw = 0 ∨ ch = 0 then none else some (p.cropX, p.cropY, cw, ch)

/-- A pane on its way to the latch. -/
structure PanePlan where
  pane : Nat
  set : PaneSet
  show' : PaneShow
  stream : Option Nat := none
  live : Bool := false
  lost : Bool := false
  desc : Option SurfDesc := none
  unknown : Bool := false
  crop : Nat × Nat × Nat × Nat := (0, 0, 0, 0)
  rect : Option Rect := none
  solid : Bool := false
  occluded : Bool := false
  dry : Bool := false
  cut : Bool := false
  skipped : Bool := false
  level : Nat := 0
  /-- Levels of sketch written in the newest slot. -/
  written : Nat := 0
  /-- The mode requested after steps 1 to 3 of R185, and whether step 3 lowered it. -/
  rc : Nat := 0
  therm : Bool := false
  two : Bool := false
  moved : Bool := false
  lowered : Bool := false
  deriving DecidableEq, Repr

def levelWritten (mask l : Nat) : Bool := l == 0 || mask.testBit (l - 1)

/-- The level of R178 among those written in `mask`. -/
def autoLevel (mask cw ch w h : Nat) : Nat :=
  ([3, 2, 1].find? fun l => levelWritten mask l && decide (w * 2 ^ l ≤ cw) && decide (h * 2 ^ l ≤ ch)).getD 0

/-- The level a forced one falls back to (R179). -/
def forceLevel (mask n : Nat) : Nat := ([3, 2, 1].find? fun l => decide (l ≤ n) && levelWritten mask l).getD 0

/-- The mode requested after steps 1 to 3 of R185, and whether the thermal ceiling lowered it (14_power_thermal.md R428). -/
def State.ceilMode (s : State) (f p rc : Nat) : Nat × Bool :=
  let rc := if rc = 2 ∧ s.on (R.pane_PERMIT_MOTION_OK f p) = false then 1 else rc
  let rc := if rc = 1 ∧ s.on (R.pane_PERMIT_BLEND_OK f p) = false then 0 else rc
  let rc := if s.on (R.pane_PERMIT_EVIDENCE f p) then 0 else rc
  let top := if (s.get R.power_SHED).testBit 3 then 0 else if (s.get R.power_SHED).testBit 0 then 1 else 2
  (min rc top, decide (top < rc))

/-- A pane's source at the frame fetch start (R172, R175, R204). A stream number that R172 does not give is an undefined encoding, whose
picture is a free value (00_scope.md R10, log entry 50). -/
def State.planPane (s : State) (f p : Nat) (t : Timing) : PanePlan :=
  let c := s.paneSet f p
  let base : PanePlan := { pane := p, set := c, show' := .nothing }
  let solidAlpha := (c.mode == 0 || c.mode == 3) && c.alpha == 255
  let surface (i : Nat) (whole lost : Bool) : PanePlan :=
    match s.surfDesc i with
    | none => { base with show' := .surface, unknown := true, lost := lost, rect := clipDst c t }
    | some d =>
      match (if whole then some (0, 0, d.w, d.h) else clampCrop c d.w d.h) with
      | none => { base with lost := lost }
      | some k => { base with show' := .surface, desc := some d, crop := k, lost := lost, rect := clipDst c t,
                              solid := solidAlpha && !lost }
  let fill (lost : Bool) : PanePlan := { base with show' := .colour, lost := lost, rect := clipDst c t, solid := solidAlpha && !lost }
  if c.kind = 0 ∨ c.dstW = 0 ∨ c.dstH = 0 then base
  else if c.kind = 3 then fill false
  else if c.kind = 2 then surface c.index false false
  else if 1600 ≤ c.index then { base with show' := .surface, unknown := true, rect := clipDst c t }
  else
    let n := c.index
    let mode := s.streamMode n
    let x := s.stream n
    let size := x.newest.map fun i => ((x.slot i).width, (x.slot i).height)
    let picture (lost : Bool) : PanePlan :=
      match x.newest, size.bind fun d => clampCrop c d.1 d.2 with
      | some i, some k =>
        let mask := (x.slot i).sketches
        let (rc, th) := if lost then (0, false) else s.ceilMode f p c.rc
        let (_, _, cw, ch) := k
        { base with show' := .picture, stream := some n, live := !lost, lost := lost, crop := k, rect := clipDst c t,
                    solid := solidAlpha && !lost, written := mask, rc := rc, therm := th,
                    two := decide (1 ≤ rc) && s.twoSlots n && x.second.isSome,
                    level := match c.force with | some l => forceLevel mask l | none => autoLevel mask cw ch c.dstW c.dstH }
      | _, _ => { base with lost := lost }
    match mode with
    | .live => picture false
    | _ =>
      if c.policy = 2 then surface c.slate true true
      else if c.policy = 1 ∨ x.newest.isNone = true then fill true
      else picture true

/-- F_p of R195. -/
def PanePlan.count (p : PanePlan) : Nat :=
  if p.occluded || p.dry || p.cut || p.skipped then 0
  else match p.show' with
    | .picture | .surface =>
      let (_, _, cw, ch) := p.crop
      (cw + 2 ^ p.level - 1) / 2 ^ p.level * ((ch + 2 ^ p.level - 1) / 2 ^ p.level) * (if p.two then 2 else 1)
    | _ => 0

/-- Occlusion (R194). -/
def occlude (l : List PanePlan) : List PanePlan :=
  l.map fun p =>
    match p.rect with
    | some r =>
      let above := l.filterMap fun q => if p.pane < q.pane ∧ q.solid = true then q.rect else none
      { p with occluded := p.show' != .nothing && coveredBy r above }
    | none => p

/-- Whether a pane's stream is genlocked now. -/
def State.streamGenlocked (s : State) (n : Nat) : Bool := (s.get (R.port_GL_STAT_GENLOCKED (n / 16))).testBit (n % 16)

/-- The conditions of R196, but for the one on lower panes. -/
def State.cutFits (s : State) (f : Nat) (t : Timing) (p : PanePlan) : Bool :=
  match p.stream with
  | none => false
  | some n =>
    let x := s.folio f
    let (_, _, _, ch) := p.crop
    p.live && p.set.cutEn && s.on (R.pane_PERMIT_CUT_OK f p.pane) && s.on (R.stream_CFG_CUT_OK n) && !s.isWriteback n
      && s.rasynIn (n / 16) && !s.on (R.stream_CFG_XS n) && !s.on (R.stream_CFG_INTERLACED n) && s.streamGenlocked n
      && x.genlocked.getLsbD p.pane && s.get (R.stream_RATE_NUM n) * t.den == t.num * s.get (R.stream_RATE_DEN n) && !t.inter
      && !s.on (R.folio_RASTER_STATUS_DISP_TIMED_ACTIVE f) && p.level == 0 && decide (ch ≤ p.set.dstH)
      && x.marginGood.getLsbD p.pane

/-- One pane at most takes the route: the lowest that fits (R196). -/
def State.chooseCut (s : State) (f : Nat) (t : Timing) (l : List PanePlan) : List PanePlan :=
  match l.find? (s.cutFits f t) with
  | none => l
  | some c => l.map fun p => if p.pane = c.pane then { p with cut := true, occluded := false, level := 0 } else p

/-- The sum R195 compares: panes, seal pane and a dry cache that is read. -/
def budgetSum (l : List PanePlan) (extra : Nat) : Nat := l.foldl (fun n p => n + p.count) extra

/-- The pane with the largest F_p among those that a step may act on, ties to the lower number (R195). -/
def largest (l : List PanePlan) (may : PanePlan → Bool) : Option PanePlan :=
  (l.filter fun p => may p && decide (0 < p.count)).foldl
    (fun b p => match b with | none => some p | some q => if q.count < p.count then some p else some q) none

def replacePlan (l : List PanePlan) (q : PanePlan) : List PanePlan := l.map fun p => if p.pane = q.pane then q else p

/-- The next smaller copy that a pane's newest slot holds. -/
def PanePlan.nextLevel (p : PanePlan) : Option Nat :=
  if p.stream.isSome then [1, 2, 3].find? fun l => decide (p.level < l) && levelWritten p.written l else none

/-- Step 1 of R195, for at most `fuel` moves. -/
def budgetLevels (extra limit2 : Nat) : Nat → List PanePlan → List PanePlan
  | 0, l => l
  | k + 1, l =>
    if 2 * budgetSum l extra ≤ limit2 then l
    else match largest l fun p => p.nextLevel.isSome with
      | none => l
      | some p => budgetLevels extra limit2 k (replacePlan l { p with level := p.nextLevel.getD p.level, moved := true })

/-- Step 2. -/
def budgetModes (extra limit2 : Nat) : Nat → List PanePlan → List PanePlan
  | 0, l => l
  | k + 1, l =>
    if 2 * budgetSum l extra ≤ limit2 then l
    else match largest l fun p => decide (1 ≤ p.rc) && !p.lowered with
      | none => l
      | some p => budgetModes extra limit2 k (replacePlan l { p with two := false, lowered := true })

/-- Step 3. -/
def budgetSkips (extra limit2 : Nat) : Nat → List PanePlan → List PanePlan
  | 0, l => l
  | k + 1, l =>
    if 2 * budgetSum l extra ≤ limit2 then l
    else match l.find? fun p => decide (0 < p.count) with
      | none => l
      | some p => budgetSkips extra limit2 k (replacePlan l { p with skipped := true })

/-- The fetch budget (R195): B_f is 2.5 times the active pixels. -/
def budget (t : Timing) (extra : Nat) (l : List PanePlan) : List PanePlan :=
  let limit2 := 5 * t.hAct * t.vAct
  budgetSkips extra limit2 8 (budgetModes extra limit2 8 (budgetLevels extra limit2 24 l))

/-- The dry cache's bytes (R207). -/
def dryBytes (t : Timing) : Nat := linePitch 3 t.hAct * t.vAct

/-- The dry cache in this frame: 0 not used, 1 read, 2 rebuilt (R205 to R207). -/
def State.dryChoice (s : State) (f : Nat) (t : Timing) (l : List PanePlan) : Nat :=
  match s.folioRec f with
  | none => 0
  | some r =>
    if r.drySize = 0 ∨ s.act (R.folio_CTRL_DRY_EN f) = 0 ∨ r.drySize * 65536 < dryBytes t
        ∨ budgetSum (l.filter fun p => decide (p.pane < s.dryCount f)) 0 ≤ t.hAct * t.vAct then 0
    else if s.on (R.folio_DRY_STATUS_VALID f) then 1 else 2

/-- Mode, weight and fall-backs after the latch (R185 steps 5 to 7, R187): mode used, weight, and whether step 7 acted. -/
def State.settleMode (s : State) (n rc newest : Nat) (second : Option Nat) (frac : Nat) : Nat × Nat × Bool :=
  let x := s.stream n
  let b := x.slot newest
  match second with
  | none => (0, 0, false)
  | some j =>
    let a := x.slot j
    if rc = 0 ∨ (b.seq + 2 ^ 32 - a.seq) % 2 ^ 32 ≠ 1 then (0, 0, false)
    else
      let usable := b.vec % 2 = 1 ∧ b.vec / 2 % 2 = 0 ∧ b.vecRef = a.seq
      let ns : Rat := (((s.ruling.lineTotal : Int) - (b.doneTotal : Int) : Int) + ((frac : Rat) - b.doneFrac) / 65536) * s.rulingFormat.lineNs
      let phi := max 0 (min 1 (ns / s.framePeriodNs n))
      let w := (roundHalf (phi * 256)).toNat
      if rc = 2 ∧ ¬ usable then (1, w, true) else (rc, w, false)

/-- A latch's picture: the level's part in the slots read, of the size and format that the newest slot's header gives (R175). -/
def State.latchSlots (s : State) (t : PaneLatch) (n level : Nat) (slots : List Nat) : PaneLatch :=
  let v := slots.map (s.stream n).slot
  let hd := v.headD {}
  let (w, h) := if level = 0 then (hd.width, hd.height) else sketchDims hd.fmt hd.width hd.height level
  let d := sketchDims hd.fmt hd.width hd.height 2
  let part (k : Nat) : Nat := partAt hd.fmt hd.width hd.height (s.get (R.stream_CFG_SKETCH n)) k
  { t with bases := slots.map fun i => s.slotBase n i + part level, pitch := linePitch hd.fmt w,
           fmt := hd.fmt, w := w, h := h, level := level, vecBase := s.slotBase n (slots.headD 0) + part 4,
           vecW := (d.1 + 7) / 8, vecH := (d.2 + 7) / 8, unverified := v.any fun x => x.flags.testBit 1,
           synth := v.any fun x => x.flags.testBit 4, concealed := v.any fun x => x.concealRows != 0 }

/-- The latch of one pane with its status (R160, R178 to R190, R280). -/
def State.latchPane (s : State) (f frac : Nat) (p : PanePlan) : State :=
  let c := p.set
  let k := p.pane
  let (cx, cy, cw, ch) := p.crop
  let drawn := p.show' != .nothing && !p.occluded && !p.dry && !p.skipped
  let base : PaneLatch := { pane := k, set := c, unknown := p.unknown, cx := cx, cy := cy, cw := cw, ch := ch,
                            evidence := s.on (R.pane_PERMIT_EVIDENCE f k) }
  let was := s.on (R.pane_STATUS_LBUF_DEGRADED f k)
  let rcIn := if p.lowered then 0 else p.rc
  let fetches := match p.show' with | .picture => drawn | .surface => drawn | _ => false
  let taps := if fetches then tapsV c.dstW else 0
  -- the pins, and what they grant
  let (grant, s) := match p.stream with
    | some n => if drawn then s.pin n (.pane f k) (decide (1 ≤ rcIn) && !p.cut) else (none, s)
    | none => (none, s)
  let (t, eff, vecFall, fall, shown, s) : PaneLatch × Nat × Bool × Bool × Option (Nat × Nat) × State :=
    match p.stream, grant with
    | some n, some (i, sec) =>
      let masks : Nat := (match sec with
        | some j => Nat.land ((s.stream n).slot i).sketches ((s.stream n).slot j).sketches
        | none => ((s.stream n).slot i).sketches)
      let want := if p.moved then some p.level else c.force
      let level := if p.cut then 0 else match want with | some l => forceLevel masks l | none => autoLevel masks cw ch c.dstW c.dstH
      let fall := !p.cut && (match want with | some l => level != l | none => false)
      let (eff, w, vf) := if p.cut then (0, 0, false) else s.settleMode n rcIn i sec frac
      let slots := (match sec with | some j => if eff = 0 then [i] else [i, j] | none => [i])
      let v := (s.stream n).slot i
      let sigma : Nat × Nat := if eff = 0 then (v.doneTotal, v.doneFrac) else (s.ruling.lineTotal, frac)
      let t := s.latchSlots { base with show' := if p.cut then .cut else .picture, mode := eff, weight := w,
                                        sigma := if p.lost then none else some sigma } n level slots
      -- a cut-through pane is marked by the frame that it shows (R189)
      let t := if p.cut then { t with unverified := false, synth := false, concealed := false } else t
      let seqA := ((s.stream n).slot (slots.getLastD i)).seq
      (t, if p.cut then 3 else eff, vf, fall, some (v.seq, seqA), s)
    | _, _ =>
      let t := match p.desc with
        | some d => if drawn then { base with show' := .surface, bases := [d.base], pitch := d.pitch, fmt := d.fmt, w := d.w, h := d.h } else base
        | none => if drawn then { base with show' := if p.unknown then .surface else p.show' } else base
      (t, 0, false, false, none, s)
  let b (v : Bool) (i : Nat) : Nat := if v then 2 ^ i else 0
  let lbuf := taps == 1
  let demoted := p.moved || p.lowered
  let therm := p.therm && !p.cut
  let rcFall := therm || p.lowered || (!p.cut && decide (eff < rcIn) && p.stream.isSome && drawn)
  let status := eff * 2 ^ 30 + t.level * 2 ^ 28 + taps * 2 ^ 25 + (if eff = 3 then 0 else t.weight % 257 * (if eff = 0 then 0 else 1)) * 2 ^ 16
    + b lbuf 15 + b p.occluded 14 + b demoted 13 + b p.skipped 12 + b therm 11 + b t.unverified 10 + b t.concealed 9 + b t.synth 8
    + b fall 7 + b vecFall 6 + b (p.lost && drawn) 5 + b shown.isSome 4
  let s := s.wr (Reg.pane_STATUS f k) (BitVec.ofNat 32 status)
  let s := match shown with
    | some (x, y) => (s.put (R.pane_SHOWN_B f k) x).put (R.pane_SHOWN_A f k) y
    | none => s
  let s := s.raiseIf (lbuf && !was) (Flag.pane_LBUF_DEGRADED f k)
  let s := s.raiseIf (demoted || p.skipped) (Flag.pane_BUDGET f k)
  let s := s.raiseIf rcFall (Flag.pane_RC_FALLBACK f k)
  let s := s.raiseIf fall (Flag.pane_SKETCH_FALLBACK f k)
  let s := s.raiseIf t.unverified (Flag.pane_UNVERIFIED f k)
  s.modFolio f fun x => { x with latches := x.latches ++ [{ t with span := s.columnSpan f t }] }

/-- The reasons of R226 but STARTING. -/
def State.sealReasons (s : State) (f frac : Nat) (t : Timing) (c : PaneSet) : Nat :=
  let b := s.sealCmd f
  let watched := ([leAt b 56 2, leAt b 58 2].filter (· != 0xFFFF)) ++ (if c.kind = 1 then [c.index] else [])
  let newest := watched.filterMap fun n => if n < 1600 then (s.stream n).newest.map ((s.stream n).slot) else none
  let age (v : SlotInfo) : Bool :=
    decide (((leAt b 60 2 : Nat) : Rat) < (((s.ruling.lineTotal : Int) - (v.doneTotal : Int) : Int) : Rat) + ((frac : Rat) - v.doneFrac) / 65536)
  let bit (v : Bool) (i : Nat) : Nat := if v then 2 ^ i else 0
  let inside := decide (0 < c.dstW) && decide (0 < c.dstH) && decide (0 ≤ c.dstX) && decide (0 ≤ c.dstY)
    && decide (c.dstX + c.dstW ≤ t.hAct) && decide (c.dstY + c.dstH ≤ t.vAct)
  bit (watched.any fun n => !(decide (n < 1600) && s.streamMode n == .live)) 0
    + bit (leAt b 60 2 != 0 && newest.any age) 1
    + bit (leAt b 62 2 != 0xFFFF && newest.any fun v => decide (leAt b 62 2 < v.repeatCnt)) 2
    + bit (newest.any fun v => v.flags.testBit 1) 3
    + bit (!(leAt b 65 1).testBit 2 && newest.any fun v => v.concealRows != 0) 4
    + bit (!inside) 5
    + bit (c.kind == 2 && !s.sealLoaded f c.index) 7
    + bit (s.folio f).sealHitBefore 8

/-- The level and F of the seal pane before its latch (R195, R178). -/
def State.sealPlan (s : State) (f : Nat) (t : Timing) : PanePlan :=
  let c := sealSet (s.sealCmd f)
  let base : PanePlan := { pane := 8, set := c, show' := .nothing }
  if c.kind = 0 ∨ c.dstW = 0 ∨ c.dstH = 0 then base
  else if c.kind = 2 then
    match s.sealDesc f c.index with
    | none => { base with unknown := s.sealLoaded f c.index, show' := if s.sealLoaded f c.index then .surface else .nothing, rect := clipDst c t }
    | some d => match clampCrop c d.w d.h with
      | none => base
      | some k => { base with show' := .surface, desc := some d, crop := k, rect := clipDst c t }
  else
    let slot := if c.index < 1600 then (s.stream c.index).newest.map (s.stream c.index).slot else none
    match slot, slot.bind fun v => clampCrop c v.width v.height with
    | some v, some k =>
      let mask := v.sketches
      let (_, _, cw, ch) := k
      { base with show' := .picture, stream := some c.index, crop := k, rect := clipDst c t, written := mask,
                  level := match c.force with | some l => forceLevel mask l | none => autoLevel mask cw ch c.dstW c.dstH }
    | _, _ => base

/-- The seal pane's latch: checks, state and picture (R190, R226, R227). -/
def State.latchSeal (s : State) (f frac : Nat) (t : Timing) : State :=
  let b := s.sealCmd f
  let c := sealSet b
  if (s.sealRec f).isNone ∨ c.kind = 0 then
    (s.modFolio f fun x => { x with sealRestart := false, sealBad := 0, sealGood := 0 }).setSeal f 0 0
  else
    let p := s.sealPlan f t
    let r := s.sealReasons f frac t c
    let x := s.folio f
    let st := s.get (R.folio_SEAL_STATE_STATE f)
    let restart := x.sealRestart || st == 0 || st == 3
    let good := if r = 0 then (if restart then 0 else x.sealGood) + 1 else 0
    let bad := if restart ∨ r = 0 then 0 else x.sealBad + 1
    let frames := leAt b 64 1
    let next := if restart then 2
      else if st = 1 then (if max 1 (frames % 16) ≤ bad then 2 else 1)
      else if r = 0 ∧ max 1 (frames / 16) ≤ good then 1 else 2
    let s := s.modFolio f fun x => { x with sealRestart := false, sealGood := min good 15, sealBad := if next = 1 ∧ st ≠ 1 then 0 else min bad 15 }
    let s := s.setSeal f next (if next = 2 ∧ r = 0 then 64 else r)
    let frame := (leAt b 65 1).testBit 3
    if frame = true ∧ next = 2 then
      -- the last shown picture remains within the band (R228)
      let l := (s.folio f).sealKept.getD { pane := 8, set := c }
      s.modFolio f fun x => { x with latches := x.latches ++ [l] }
    else
      let s := s.dropKept f
      let (grant, s) := match p.stream with | some n => s.pin n (.pane f 8) false | none => (none, s)
      let (cx, cy, cw, ch) := p.crop
      let base : PaneLatch := { pane := 8, set := c, show' := p.show', unknown := p.unknown, cx := cx, cy := cy, cw := cw, ch := ch }
      let (l, s) := match p.stream, grant with
        | some n, some (i, _) =>
          let l := s.latchSlots base n p.level [i]
          (l, s.put (R.folio_SEAL_SHOWN_SEQ f) ((s.stream n).slot i).seq)
        | _, _ => match p.desc with
          | some d => ({ base with bases := [d.base], pitch := d.pitch, fmt := d.fmt, w := d.w, h := d.h }, s)
          | none => ({ base with show' := if p.unknown then .surface else .nothing }, s)
      let l := { l with span := s.columnSpan f l }
      s.modFolio f fun x => { x with latches := x.latches ++ [l], sealKept := if frame then some l else none }

/-- The events of the cut-through pane that changes (R195). -/
def State.cutEvents (s : State) (f : Nat) (old new : Option Nat) : State :=
  match old, new with
  | none, some q => s.raise (Flag.pane_CUT_ENTER f q)
  | some q, none => s.raise (Flag.pane_CUT_EXIT f q)
  | some q, some r => if q = r then s else (s.raise (Flag.pane_CUT_EXIT f q)).raise (Flag.pane_CUT_ENTER f r)
  | none, none => s

/-- A PASS_PANE's stream is tracked from the frame's start on (09_audio_marginalia.md R282). -/
def State.trackPass (s : State) (f : Nat) (plans : List PanePlan) : State :=
  if s.on (R.marginalia_OUT_CTRL_PASS_EN f) && s.audioOn then
    match plans.find? fun p => p.pane == s.get (R.marginalia_OUT_CTRL_PASS_PANE f) with
    | some p => match p.stream with
      | some n => if p.occluded || p.skipped || s.isWriteback n then s else s.trackStream n
      | none => s
    | none => s
  else s

/-- R170: the panes of a Folio latch, with the dry cache, occlusion, the cut-through route, the fetch budget and the seal
pane's checks. -/
def State.frameLatch (s : State) (f frac : Nat) : State :=
  let t := s.timing f
  let x := s.folio f
  let s := s.put (R.folio_FRAME_NUM f) (s.frameNum f + 1)
  -- the margins of the frame before (R196)
  let rows (p : Nat) : Nat := ((x.latches.find? fun l => l.pane == p).bind fun l => clipDst l.set t).elim 0 fun r => r.y1 - r.y0
  let good (p : Nat) : Bool := match x.margins.find? fun m => m.1 == p with
    | some (_, lo, hi, k) => decide (16 ≤ lo) && decide (hi ≤ 640) && k == rows p && !(x.cut == some p && x.cutLate.isSome)
    | none => false
  let mask (g : Nat → Bool) : BitVec 8 := BitVec.ofNat 8 (natOfBits ((List.range 8).map g))
  let s := s.modFolio f fun x =>
    { x with latches := [], rows := [], began := true, black := false, underran := false, sealHitBefore := x.sealHit, sealHit := false,
             marginGood := mask good, margins := [], cutSlot := none, cutLate := none, wbOn := false, wbRows := [], wbUnder := [],
             dryBad := false }
  let plans := occlude ((List.range 8).map fun p => s.planPane f p t)
  let k := s.dryCount f
  let dry := s.dryChoice f t plans
  let plans := plans.map fun p => if dry = 1 ∧ p.pane < k then { p with dry := true } else p
  let plans := s.chooseCut f t plans
  let sealPlan := s.sealPlan f t
  let extra := sealPlan.count + (if dry = 1 then t.hAct * t.vAct else 0)
  let plans := budget t extra plans
  -- a member demoted or skipped spoils a rebuild (R206)
  let spoiled := plans.any fun p => decide (p.pane < k) && (p.moved || p.lowered || p.skipped)
  let cutNow := (plans.find? fun p => p.cut).map (·.pane)
  let s := s.cutEvents f x.cut cutNow
  let small := match s.folioRec f with | some r => r.drySize != 0 && decide (r.drySize * 65536 < dryBytes t) | none => false
  let s := ((s.put (R.folio_DRY_STATUS_TOO_SMALL f) (if small then 1 else 0)).put (R.folio_DRY_STATUS_IN_USE f)
    (if dry = 1 then 1 else 0)).put (R.folio_DRY_STATUS_MEMBERS f) (2 ^ k - 1)
  let locked (p : Nat) : Bool := match s.paneStream f p true with
    | some n => decide (n < 1536) && s.streamGenlocked n
    | none => false
  let s := s.modFolio f fun x => { x with dry := dry, dryBad := spoiled, cut := cutNow, genlocked := mask locked,
                                          moving := x.moving || (List.range 8).any fun p => s.act (R.pane_SRC_KIND f p) == 1 }
  let s := s.each plans fun s p => s.latchPane f frac p
  let s := s.latchSeal f frac t
  let s := s.trackPass f plans
  s.put (R.folio_LTR_STATUS_TOL f) 0

end Sys2Proof.Machine
end

