-- ==== Sys2Proof/Machine/Compose.lean ====
section
/-!
DEFINITION. The composition of an output line and its conversion for the ports: pane fetches, cut-through rows, blending, borders, the seal
pane, the dry cache, output conversion and dithering (06_panes.md R174, R193, R198; 07_folio_commit_seal.md R202 to R207, R217,
R218, R228).
-/
namespace Sys2Proof.Machine
open Sys2Proof

/-- A pane's read of a line's bytes, which the firewall allows or refuses whole: the bytes, and whether it was refused (R174;
10_stream_memory.md R290). -/
def State.paneRead (s : State) (addr len : Nat) : List (Byte × Bool) × Bool × State :=
  if s.fwAllows 9 false addr len then
    let (bs, s) := s.memTake 9 addr len
    (bs, false, s)
  else (List.replicate len (0, false), true, s.fwRefuse 9 false addr)

/-- The class of a pane's fetches: the larger-numbered of its CLASS and that of what it reads, 3 for a host surface (02_fabric_image.md
R88). A seal surface has no class of its own (log entry 134). -/
def State.fetchClass (s : State) (f : Nat) (t : PaneLatch) : Nat :=
  let own := match s.fabric.now.panes.find? fun p => p.folio == f && p.pane == t.pane with | some p => p.cls | none => 3
  max own (match t.show' with
    | .surface => if t.pane = 8 then 0 else 3
    | _ => s.get (R.stream_CFG_CLASS t.set.index))

/-- The class of a Folio's dry cache: its lowest-numbered pane CLASS (02_fabric_image.md R87). -/
def State.dryClass (s : State) (f : Nat) : Nat :=
  ((s.fabric.now.panes.filter fun p => p.folio == f).map fun p => p.cls).foldl min 3

/-- A stored row is fetched once in a frame: slot 0 newest, 1 second, 2 the vector field. Of a picture the columns are read that the
destination inside the raster needs (R176); under MOTION, whose vectors reach beyond them, the whole row (log entry 124). FW_VIOL counts
lines of component planes (R174). -/
def State.fetchRow (s : State) (f : Nat) (t : PaneLatch) (slot row : Nat) : State :=
  if ((s.folio f).fetched t.pane slot row).isSome then s
  else
    let (addr, from_, len) : Nat × Nat × Nat := if slot = 2 then (t.vecBase + row * (4 * t.vecW), 0, 4 * t.vecW)
      else
        let (a, k) := if t.mode = 2 then (0, lineBytes t.fmt t.w) else byteSpan t.fmt t.w t.span.1 t.span.2 (decide (t.h ≤ row))
        (t.bases.getD slot 0 + row * t.pitch + a, a, k)
    let (bs, bad, s) := (s.unitUse (10 + f / 8) (s.fetchClass f t) len).paneRead addr len
    let bs := List.replicate from_ ((0 : Byte), false) ++ bs
    let s := if bad && decide (t.pane < 8) && slot != 2 then (s.bump (R.pane_FW_VIOL f t.pane)).raise (Flag.pane_FW_VIOL f t.pane) else s
    s.modFolio f fun x => { x with rows := x.rows ++ [⟨t.pane, slot, row, bs⟩] }

/-- The rows of the level behind a destination row: those whose tap counts (R183). -/
def State.tapRows (s : State) (f : Nat) (t : PaneLatch) (y : Nat) : List Int :=
  ((s.rowTaps f t y).filter fun p => p.2 != 0).map (·.1)

/-- The frame rows of the source a destination row of a cut-through pane needs. -/
def cutRows (t : PaneLatch) (rows : List Int) : List Nat :=
  (rows.flatMap fun r =>
    let r := clampTo t.h r
    if t.fmt = 2 ∨ t.fmt = 5 then
      [r / 2, (if r % 2 = 0 then r / 2 - 1 else min (r / 2 + 1) (t.h / 2 - 1))].flatMap fun i => [2 * i, 2 * i + 1]
    else [r]).eraseDups

/-- Whether a row of the frame being received lacks a pixel. -/
def State.rowHoled (s : State) (n slot row : Nat) : Bool :=
  match (s.stream n).writing with
  | some w => w.slot == slot && (List.range (s.width n)).any fun x => (receivedAt w.segs 0 row x).isNone
  | none => false

/-- Whether a row of the source frame in `slot` has arrived: every pixel of it, or a later row, or the frame's end, so that what it
lacks is lost (R198). -/
def State.rowArrived (s : State) (n slot row : Nat) : Bool :=
  match (s.stream n).writing with
  | some w =>
    if w.slot = slot then w.ended || (w.segs.any fun g => decide (row < g.row)) || !s.rowHoled n slot row
    else ((s.stream n).slot slot).st == 2
  | none => ((s.stream n).slot slot).st == 2

/-- Marks of a frame that a cut-through pane shows: in the latch, in STATUS, and the UNVERIFIED flag (R189). -/
def State.markCut (s : State) (f : Nat) (t : PaneLatch) (unv con syn : Bool) : State :=
  let p := t.pane
  let s := s.raiseIf (unv && !s.on (R.pane_STATUS_UNVERIFIED f p)) (Flag.pane_UNVERIFIED f p)
  let set (s : State) (b : Bool) (x : Fld) : State := if b then s.put x 1 else s
  let s := set (set (set s unv (R.pane_STATUS_UNVERIFIED f p)) con (R.pane_STATUS_CONCEALED f p)) syn (R.pane_STATUS_SYNTH f p)
  s.modFolio f fun x =>
    { x with latches := x.latches.map fun l =>
        if l.pane = p then { l with unverified := l.unverified || unv, concealed := l.concealed || con, synth := l.synth || syn } else l }

/-- A cut-through pane's next destination row: its source frame, a late row, and the rows to fetch from the newest slot
(R196, R198). -/
def State.cutStep (s : State) (f : Nat) (t : PaneLatch) (y : Nat) : State :=
  let n := t.set.index
  let s := match (s.folio f).cutSlot, (s.stream n).writing with
    | none, some w =>
      let s := s.modFolio f fun x => { x with cutSlot := some w.slot }
      let q := ((s.stream n).nextSeq w.frameSeq).1
      ((s.put (R.pane_SHOWN_B f t.pane) q).put (R.pane_SHOWN_A f t.pane) q).markCut f t (w.flags.testBit 1) false false
    | _, _ => s
  let need := cutRows t (s.tapRows f t y)
  let x := s.folio f
  let late := match x.cutSlot with
    | none => need.head?
    | some i => need.find? fun r => !s.rowArrived n i r
  let s := match x.cutLate, late with
    | none, some r => (s.modFolio f fun x => { x with cutLate := some r }).raise (Flag.pane_CUT_LATE f t.pane)
    | _, _ => s
  let x := s.folio f
  let old := (s.tapRows f t y).filter fun r => (cutRows t [r]).any fun q =>
    (match x.cutLate with | some l => decide (l ≤ q) | none => false) || (match x.cutSlot with | some i => s.rowHoled n i q | none => true)
  let s := if old.isEmpty then s
    else match (s.stream n).newest with
      | some i =>
        let v := (s.stream n).slot i
        s.markCut f t (v.flags.testBit 1) (v.concealRows != 0 || x.cutSlot.any fun i => need.any (s.rowHoled n i)) (v.flags.testBit 4)
      | none => s
  s.each old fun s r => s.each (partRowsOf t r) fun s q => s.fetchRow f t 0 q

/-- What a pane reads for a destination row. -/
def State.fetchFor (s : State) (f : Nat) (t : PaneLatch) (y : Nat) : State :=
  match t.show' with
  | .cut => s.cutStep f t y
  | .nothing | .colour => s
  | _ =>
    if t.unknown then s
    else
      let rows := s.tapRows f t y
      let fetch (s : State) (slot : Nat) (rows : List Int) : State := s.each rows fun s r => s.each (partRowsOf t r) fun s q => s.fetchRow f t slot q
      let s := fetch s 0 rows
      if t.mode = 0 then s
      else
        let s := fetch s 1 rows
        if t.mode = 1 then s
        else
          let s := s.each (vectorRowsOf t rows) fun s r => s.fetchRow f t 2 r
          let x := s.folio f
          let s := fetch s 1 (rows.flatMap fun r => displacedRows x t t.weight r).eraseDups
          fetch s 0 (rows.flatMap fun r => displacedRows x t ((t.weight : Int) - 256) r).eraseDups

/-- A sample of a slot as it stands in memory. -/
def State.slotSample (s : State) (n slot c r x : Nat) : Nat :=
  let code := s.storeFmt n
  match storageFormat code with
  | none => 0
  | some (l, b) =>
    let row := if l = .c420 && c != 0 then s.height n + r else r
    let a := s.slotBase n slot + 4096 + row * linePitch code (s.width n)
    let i := sampleIndex l c x
    (leNat ((List.range 3).map fun k => s.memByte (a + i * b / 8 + k)) >>> (i * b % 8)) % 2 ^ b

/-- The stored samples of a cut-through pane: the source frame's, the newest slot's from the late row on and where a packet was lost
(R198). -/
def State.cutStored (s : State) (f : Nat) (t : PaneLatch) : Stored := fun _ c r x =>
  let st := s.folio f
  let n := t.set.index
  let frameRow := if (t.fmt = 2 ∨ t.fmt = 5) ∧ c ≠ 0 then 2 * r + 1 else r
  let old := storedRows st t 0 c r x
  if (match st.cutLate with | some l => decide (l ≤ frameRow) | none => false) then old
  else match st.cutSlot with
    | none => old
    | some i =>
      match (s.stream n).writing with
      | some w =>
        if w.slot = i then
          match convertSample (w.segs.any fun g => g.full) t.fmt t.w (receivedAt w.segs) c r x with
          | some v => some v
          | none => old
        else some (s.slotSample n i c r x)
      | none => some (s.slotSample n i c r x)

/-- R193: the shares of S and D, from the alpha of the pixel (0 to 65535) and GLOBAL_ALPHA. -/
def blendShares (mode alpha a16 : Nat) (premult : Bool) : Rat × Rat :=
  let ag : Rat := (alpha : Rat) / 255
  let ap : Rat := (a16 : Rat) / 65535
  if mode = 1 ∨ (mode = 2 ∧ premult = false) then (ap * ag, 1 - ap * ag)
  else if mode = 2 then (ag, 1 - ap * ag)
  else (ag, 1 - ag)

/-- S over D, rounded once, halves up, to 16 bits. -/
def blendOver (k : Rat × Rat) (src dst : List Nat) : List Nat :=
  (List.range 3).map fun i => clamp16 (roundHalf (k.1 * (src.getD i 0 : Nat) + k.2 * (dst.getD i 0 : Nat)))

/-- Whether a destination-relative pixel lies in a pane's border (R203). -/
def inBorder (c : PaneSet) (dx dy : Nat) : Bool :=
  (c.sides.testBit 0 && decide (dx < c.borderW)) || (c.sides.testBit 1 && decide (c.dstW ≤ dx + c.borderW))
    || (c.sides.testBit 2 && decide (dy < c.borderW)) || (c.sides.testBit 3 && decide (c.dstH ≤ dy + c.borderW))

/-- A pane's pixel laid over what is below it; none where a word it depends on is poisoned (R193, R203, R287). -/
def State.overPane (s : State) (f : Nat) (t : PaneLatch) (x y : Nat) (below : List Nat) : Option (List Nat) :=
  let c := t.set
  let dx := ((x : Int) - c.dstX).toNat
  let dy := ((y : Int) - c.dstY).toNat
  let plain (mode : Nat) (px : List Nat) : Option (List Nat) :=
    some (blendOver (blendShares mode c.alpha (if t.fmt = 6 then px.getD 3 65535 else 65535) (t.fmt == 6 && c.cs == 3 && !c.custom)) px below)
  match t.show' with
  | .nothing => some below
  | _ =>
    if inBorder c dx dy then plain 0 (widenColour c.border)
    else if t.unknown then some ((List.range 3).map fun i => Config.undefinedPixel s.freeCount x y i % 65536)
    else match t.show' with
      | .colour => plain (if c.mode = 3 then 0 else c.mode) (widenColour c.fill)
      | .cut => (s.panePixel f (s.cutStored f t) t dx dy).bind (plain (if c.mode = 3 then 0 else c.mode))
      | _ => (s.panePixel f (storedRows (s.folio f) t) t dx dy).bind (plain (if c.mode = 3 then 0 else c.mode))

/-- The stripe colour of a stale seal pane (R228). -/
def State.stripe (s : State) (f dx dy : Nat) : List Nat :=
  let b := s.sealCmd f
  let a : BitVec 32 := BitVec.ofNat 32 (leAt b 68 4 % 2 ^ 30)
  let z : BitVec 32 := BitVec.ofNat 32 (leAt b 72 4 % 2 ^ 30)
  let (a, z) := if a = z then (BitVec.ofNat 32 (0x3FF * 2 ^ 20), 0) else (a, z)
  widenColour (if (dx + dy + 4 * (s.frameNum f % 8)) / 16 % 2 = 0 then a else z)

/-- The seal pane, blended last; under STALE_MODE FRAME its picture is the last one shown (R202, R227, R228). -/
def State.overSeal (s : State) (f : Nat) (t : PaneLatch) (x y : Nat) (below : List Nat) : Option (List Nat) :=
  let c := t.set
  let dx := ((x : Int) - c.dstX).toNat
  let dy := ((y : Int) - c.dstY).toNat
  let frame := (leAt (s.sealCmd f) 65 1).testBit 3
  let band := decide (dx < 16) || decide (dy < 16) || decide (c.dstW ≤ dx + 16) || decide (c.dstH ≤ dy + 16)
  if s.get (R.folio_SEAL_STATE_STATE f) = 2 ∧ (frame = false ∨ band = true) then some (s.stripe f dx dy)
  else s.overPane f t x y below

/-- A Folio's latches that cover a frame row. -/
def State.rowLatches (s : State) (f y : Nat) : List PaneLatch :=
  let t := s.timing f
  (s.folio f).latches.filter fun l =>
    match clipDst l.set t with
    | some r => decide (r.y0 ≤ y) && decide (y < r.y1)
    | none => false

/-- A pixel of the composite over the latches given, lowest first. -/
def State.pixel (s : State) (f x y : Nat) (start : Option (List Nat)) (ls : List PaneLatch) : Option (List Nat) :=
  let t := s.timing f
  ls.foldl (fun (d : Option (List Nat)) l =>
    match clipDst l.set t with
    | some r => if r.has x y then d.bind (if l.pane = 8 then s.overSeal f l x y else s.overPane f l x y) else d
    | none => d) start

/-- A row of the dry cache as it is read, 16 bits (R207). -/
def State.dryRow (s : State) (f y : Nat) : List (Option (List Nat)) × State :=
  let t := s.timing f
  let base := (match s.folioRec f with | some r => r.dryBase * 65536 | none => 0) + y * linePitch 3 t.hAct
  let (bs, s) := (s.unitUse (10 + f / 8) (s.dryClass f) (lineBytes 3 t.hAct)).memRead 2 base (lineBytes 3 t.hAct)
  let bytes := bs.map (·.1)
  ((List.range t.hAct).map fun x =>
    if ((bs.drop (9 * (x / 2))).take 9).any (·.2) then none
    else
      let v (c : Nat) : Nat := 16 * unpackSample 12 bytes (3 * x + c)
      some [v 2, v 0, v 1], s)

/-- The row of the cache that a rebuild writes (R206, R207): false when the fabric refuses it. -/
def State.dryWrite (s : State) (f y : Nat) (row : List (List Nat)) : Bool × State :=
  let t := s.timing f
  let base := (match s.folioRec f with | some r => r.dryBase * 65536 | none => 0) + y * linePitch 3 t.hAct
  let v (c x : Nat) : Nat := min (((row.getD x []).getD ([1, 2, 0].getD c 0) 0 + 8) / 16) 0xFFF
  let bs := rowBytes 3 t.hAct t.vAct (fun c _ x => v c x) y
  (s.fwAllows 2 true base bs.length, (s.unitUse (10 + f / 8) (s.dryClass f) bs.length).memWrite 2 base bs)

/-- The composite of frame row `y` in the working space; none from a pixel that cannot be known on. -/
def State.composeRow (s : State) (f y : Nat) : List (Option (List Nat)) × State :=
  let t := s.timing f
  let x := s.folio f
  let ls := s.rowLatches f y
  let s := s.each ls fun s l => s.fetchFor f l ((y : Int) - l.set.dstY).toNat
  let s := if ls.any fun l => l.unknown then s.drawn else s
  let bg := widenColour (s.rd (Reg.folio_BG f + 0x1000))
  let k := s.dryCount f
  let (start, s) := if x.dry = 1 then s.dryRow f y else (List.replicate t.hAct (some bg), s)
  let (low, high) := (ls.filter fun l => decide (l.pane < k), ls.filter fun l => decide (k ≤ l.pane))
  let under := start.zipIdx.map fun p => s.pixel f p.2 y p.1 (if x.dry = 1 then [] else low)
  let s := if x.dry = 2 then
      if under.all fun p => p.isSome then
        let (ok, s) := s.dryWrite f y (under.map fun p => p.getD [])
        if ok then s else s.modFolio f fun x => { x with dryBad := true }
      else s.modFolio f fun x => { x with dryBad := true }
    else s
  (under.zipIdx.map fun p => s.pixel f p.2 y p.1 high, s)

/-! Output conversion and dithering (R217, R218). -/

/-- The components of a working-space pixel in the output's space at 16 bits: (Y, Cb, Cr), or (G', B', R'). -/
def outPixel (cs : Nat) (full : Bool) (px : List Nat) : List Nat :=
  let n (i : Nat) : Rat := (px.getD i 0 : Nat) / (65535 : Rat)
  let r := n 0
  let g := n 1
  let b := n 2
  let put (v : Rat) : Nat := clamp16 (roundHalf v)
  if cs = 3 then
    if full then [px.getD 1 0, px.getD 2 0, px.getD 0 0]
    else [put (4096 + 56064 * g), put (4096 + 56064 * b), put (4096 + 56064 * r)]
  else
    let (kr, kb) := lumaWeights cs
    let y := kr * r + (1 - kr - kb) * g + kb * b
    let cb := (b - y) / (2 * (1 - kb))
    let cr := (r - y) / (2 * (1 - kr))
    if full then [put (65520 * y), put (32768 + 65520 * cb), put (32768 + 65520 * cr)]
    else [put (4096 + 56064 * y), put (32768 + 57344 * cb), put (32768 + 57344 * cr)]

/-- The matrix M of R218. -/
def ditherMatrix (y x : Nat) : Nat :=
  ([[0, 8, 2, 10], [12, 4, 14, 6], [3, 11, 1, 9], [15, 7, 13, 5]].getD (y % 4) []).getD (x % 4) 0

/-- A 16-bit component reduced to `d` bits in column `x` of frame row `y`, frame `k` (R218). -/
def dither (mode d k y x v : Nat) : Nat :=
  let sh := 16 - d
  let t := if mode = 2 then (ditherMatrix y x + 5 * (k % 16)) % 16 else ditherMatrix y x
  let off := if mode = 0 ∨ mode = 3 then 2 ^ (sh - 1) else (2 * t + 1) * 2 ^ sh / 32
  min (2 ^ d - 1) ((v + off) / 2 ^ sh)

/-- The codes a port of `bits` carries for component `v` of a line. -/
def State.portCode (s : State) (f bits y x v : Nat) : Nat :=
  let mode := s.act (R.folio_DITHER_MODE f)
  let d := min ([6, 8, 10, 12].getD (s.act (R.folio_DITHER_DEPTH f)) 12) bits
  dither mode d (s.frameNum f) y x v * 2 ^ (bits - d)

/-- Chroma of a 4:2:2 port at an even column: taps [1 2 1] / 4, edges repeated (R217). -/
def chroma422 (line : List (List Nat)) (c x : Nat) : Nat :=
  let g (i : Nat) : Nat := (line.getD (min i (line.length - 1)) []).getD c 0
  (g (x - 1) + 2 * g x + g (x + 1) + 2) / 4

/-- A converted line as the codes of a port: 4:2:2 in the order Cb, Y, Cr, Y, or 4:4:4. -/
def State.lineCodes (s : State) (f bits y : Nat) (full444 : Bool) (line : List (List Nat)) : List Nat :=
  let code (x v : Nat) : Nat := s.portCode f bits y x v
  if full444 then line.zipIdx.flatMap fun p => (List.range 3).map fun c => code p.2 (p.1.getD c 0)
  else (List.range (line.length / 2)).flatMap fun i =>
    let x := 2 * i
    [code x (chroma422 line 1 x), code x ((line.getD x []).getD 0 0), code x (chroma422 line 2 x),
      code (x + 1) ((line.getD (x + 1) []).getD 0 0)]

end Sys2Proof.Machine
end

