-- ==== Sys2Proof/Machine/GpioOps.lean ====
section
/-!
DEFINITION. GPIO outputs (12_host_control.md R365, R366) and the actions of the event queue on them (01_ruling.md R53).
-/
namespace Sys2Proof.Machine
open Sys2Proof

/-- The function of a GPIO: 0 INPUT, 1 SW_OUT, 2 EVENT_OUT, 3 TALLY. -/
def State.gpioFunc (s : State) (g : Nat) : Nat := s.get (R.sysif_GPIO_CFG_FUNC g)

/-- TALLY: the active source of the pane named is the stream named (R365). -/
def State.tally (s : State) (g : Nat) : Bool :=
  let f := s.get (R.sysif_GPIO_CFG_TALLY_FOLIO g)
  let p := s.get (R.sysif_GPIO_CFG_TALLY_PANE g)
  s.get (R.pane_SRC_KIND f p).active == 1 && s.get (R.pane_SRC_INDEX f p).active == s.get (R.sysif_GPIO_CFG_TALLY_STREAM g)

/-- The logical value of an output; none for an input. -/
def State.gpioValue (s : State) (g : Nat) : Option Bool :=
  match s.gpioFunc g with
  | 0 => none
  | 1 => some ((s.rd Reg.sysif_GPIO_OUT).getLsbD g)
  | 2 => some (s.gpio.base.getLsbD g ^^ s.gpio.pulse.getLsbD g)
  | _ => some (s.tally g)

/-- The level a GPIO pin is driven to; none while it is released (R365: POL, OD). -/
def State.gpioDrive (s : State) (g : Nat) : Option Bool :=
  match s.gpioValue g with
  | none => none
  | some v =>
    if s.on (R.sysif_GPIO_CFG_OD g) ∧ v = false then none
    else some (v ^^ s.on (R.sysif_GPIO_CFG_POL g))

/-- The GPIO named by a mask that are EVENT_OUT. -/
def State.eventOuts (s : State) (mask : BitVec 32) : List Nat :=
  (List.range 32).filter fun g => mask.getLsbD g && s.gpioFunc g == 2

def State.setBase (s : State) (mask : BitVec 32) (v : Bool) : State :=
  let m := (s.eventOuts mask).foldl (fun (m : BitVec 32) g => m ||| (1#32 <<< g)) 0
  s.modGpio fun x => { x with base := if v then x.base ||| m else x.base &&& ~~~m }

/-- GPIO_PULSE: the pulse starts, or its width starts again (R366). -/
def State.startPulse (s : State) (mask : BitVec 32) (width : Nat) : State :=
  let gs := s.eventOuts mask
  let m := gs.foldl (fun (m : BitVec 32) g => m ||| (1#32 <<< g)) 0
  s.modGpio fun x =>
    { x with pulse := x.pulse ||| m, widths := gs.foldl (fun w g => Sparse.set (fun _ => 0) w g (max 1 width)) x.widths }

def State.endPulse (s : State) (g : Nat) : State :=
  s.modGpio fun x => { x with pulse := x.pulse &&& ~~~(1#32 <<< g), widths := Sparse.erase x.widths g }

end Sys2Proof.Machine
end

