-- ==== Sys2Proof/Machine/Ruling.lean ====
section
/-!
DEFINITION. The commands of the Ruling, its sources, the synthesizers and the event queue (01_ruling.md). The line start
itself, which reaches other units, is in RulingLine.lean, and OUT_CTRL writes are in Raster.lean.
-/
namespace Sys2Proof.Machine
open Sys2Proof

/-- R25: the whole position is latched at once. -/
def execCapture (frac : BitVec 16) (s : State) : Result :=
  s.rowWrite Reg.ruling_CTRL fun s =>
  let s := s.modRuling fun u => { u with frac := frac.toNat }
  let s := s.put R.ruling_POS_FRAME_LO_FRAME s.ruling.frame
  let s := s.put R.ruling_POS_FRAME_HI_FRAME (s.ruling.frame / 2 ^ 32)
  let s := s.put R.ruling_POS_LINE_FRACTION frac.toNat
  let s := s.put R.ruling_POS_LINE_INSERTED (if s.ruling.inserted then 1 else 0)
  .next (s.put R.ruling_POS_LINE_LINE s.ruling.line)

/-- R26: the seconds written are taken at the next PPS edge. -/
def execEpochArm (s : State) : Result :=
  s.rowWrite Reg.ruling_EPOCH_HI fun s =>
  let sec := s.get R.ruling_EPOCH_HI_SEC * 2 ^ 32 + s.get R.ruling_EPOCH_LO_SEC
  .next (s.modRuling fun u => { u with armed := some sec })

/-- R26, R28, R508, R40: the seconds count, the qualification run, and the phase measurement of a PPS edge. -/
def execPpsEdge (frac : BitVec 16) (tauNs : Nat) (runOk : Bool) (s : State) : Result :=
  let s := s.runInstant 1 runOk 3
  let s :=
    match s.ruling.armed with
    | some sec =>
      (s.modRuling fun u => { u with seconds := sec, secStarted := true, armed := none }).put R.ruling_STATUS_EPOCH_KNOWN 1
    | none =>
      if s.ruling.secStarted then s.modRuling fun u => { u with seconds := (u.seconds + 1) % 2 ^ 48 }
      else if s.qualified 1 then s.modRuling fun u => { u with seconds := 0, secStarted := true } else s
  .next (if s.measures 1 then s.measure s.ppsPos (s.on R.ruling_STATUS_EPOCH_KNOWN) frac.toNat tauNs else s)

/-- Whether REF_TYPE agrees with the reference format: bi-level sync for the 625-line and 525-line formats, tri-level for the others;
automatic agrees with both (REF_CFG; log entry 103). -/
def State.refTypeAgrees (s : State) : Bool :=
  let biLevel := decide (s.rulingFormat.lines < 750)
  match s.get R.ruling_REF_CFG_REF_TYPE with | 1 => biLevel | 2 => !biLevel | _ => true

/-- R28, R508: a line sync edge only keeps the source from being missed; a frame sync is an instant of the run and a
phase measurement (log entry 13). A REF_TYPE that disagrees with REF_FORMAT never qualifies. -/
def execRefSyncEdge (frameSync : Bool) (frac : BitVec 16) (tauNs : Nat) (runOk : Bool) (s : State) : Result :=
  .next (if frameSync then s.frameInstant 0 frac.toNat tauNs (runOk && s.refTypeAgrees) else s)

/-- Whether source `c` is in use, or is to be at the end of an announced adjusted frame. -/
def State.inUse (s : State) (c : Nat) : Bool :=
  s.curSrc == c || (match s.ruling.adjust with | some a => a.after == .acquire c | none => false)

/-- The loss of a source (R28, R508, R31, R51). -/
def State.loseSource (s : State) (c sinceNs : Nat) : State :=
  let s := s.setQualified c false
  let s := s.modRuling fun u => { u with runs := Sparse.set (fun _ => 0) u.runs c 0 }
  let named := if s.manualMode then s.get R.ruling_CTRL_MANUAL_SRC == c else s.listed.contains c
  let s := s.raiseIf named Flag.ruling_SRC_LOST
  if s.inUse c ∧ (s.loop = .acquire ∨ s.loop = .locked ∨ s.loop = .slewing ∨ s.loop = .snapPending) then
    let s := s.coastOrDefer sinceNs
    s.modRuling fun u => { u with lostSrc := some c, switchExpired := false }
  else s

/-- STREAM_SRC names another stream, or none that may be a source: the code is qualified anew, and a source in use is lost (R28, R29;
log entry 104). -/
def State.streamSrcChanged (s : State) (old : Nat) : State :=
  if s.get R.ruling_STREAM_SRC_STREAM = old then s
  else if s.qualified 2 then s.loseSource 2 s.sinceMeasure
  else s.modRuling fun u => { u with runs := Sparse.set (fun _ => 0) u.runs 2 0 }

def execSourceLost (src : Fin 3) (sinceNs : Nat) (s : State) : Result := .next (s.loseSource src sinceNs)

/-- R31: SWITCH_S seconds of COAST have passed. -/
def execSwitchTimeout (s : State) : Result :=
  if s.manualMode then .next s
  else
    let s := s.modRuling fun u => { u with switchExpired := true }
    match s.loop, s.forceCoast, s.bestSource with
    | .coast, false, some b => .next (s.enterAcquire b)
    | _, _, _ => .next s

/-- Whether source `c` ranks above the source in use among the listed ones. -/
def State.outranks (s : State) (c : Nat) : Bool :=
  decide (s.listed.idxOf c < s.listed.idxOf s.curSrc)

/-- R31: reversion to a higher-priority source; REVERT_S 0 disables it. While the Ruling coasts it does not act: there SWITCH_S decides
(log entry 105). -/
def execRevertTimeout (src : Fin 3) (s : State) : Result :=
  if s.manualMode ∨ s.forceCoast ∨ s.get R.ruling_SRC_TIMING_REVERT_S = 0 ∨ s.qualified src = false
      ∨ s.outranks src = false ∨ s.loop = .free ∨ s.loop = .coast then .next s
  else .next (s.moveToSource src)

/-- FREE in AUTO mode with FORCE_COAST 0 (R30): the best source is acquired; with none the Ruling coasts once a listed source has been
acquired since reset, and stays in FREE before that. -/
def State.autoFromFree (s : State) : State :=
  match s.bestSource with
  | some b => s.enterAcquire b
  | none => if s.ruling.acquired then s.enterCoast s.ruling.corr else s

/-- The AUTO rules at a write that changes which sources are listed (R30, R509). -/
def State.reselectAuto (s : State) (sinceNs : Nat) : State :=
  if s.loop = .free then (if s.forceCoast then s else s.autoFromFree)
  else if s.listed.contains s.curSrc then s
  else if s.forceCoast then s.coastOrDefer sinceNs
  else match s.bestSource with
    | some b => s.moveToSource b
    | none => s.coastOrDefer sinceNs

def execSrcPrioWrite (value : BitVec 12) (sinceNs : Nat) (s : State) : Result :=
  s.rowWrite Reg.ruling_SRC_PRIO fun s =>
  let s := s.put ⟨Reg.ruling_SRC_PRIO, 11, 0⟩ value.toNat
  .next (if s.manualMode then s else s.reselectAuto sinceNs)

/-- R32: the manual source, XO moving the Ruling to FREE, from SNAP_PENDING at the end of the adjusted frame; a write back to AUTO
follows R30 (log entry 12). -/
def execManualSrcWrite (manual : Bool) (src : Fin 4) (sinceNs : Nat) (s : State) : Result :=
  s.rowWrite Reg.ruling_CTRL fun s =>
  let s := (s.put R.ruling_CTRL_SRC_MODE (if manual then 1 else 0)).put R.ruling_CTRL_MANUAL_SRC src
  if manual = false then .next (s.reselectAuto sinceNs)
  else if src = 3 then
    let s := s.raiseIf (s.curSrc != 3) Flag.ruling_SRC_SWITCH
    match s.loop, s.ruling.adjust with
    | .snapPending, some _ => .next (s.put R.ruling_STATUS_CUR_SRC 3)
    | _, _ => .next s.enterFree
  else if s.forceCoast then .next (if s.curSrc = src then s else s.coastOrDefer sinceNs)
  else if s.qualified src then
    if s.curSrc = src ∧ s.loop ≠ .free ∧ s.loop ≠ .coast then .next s else .next (s.moveToSource src)
  else if s.curSrc = src then .next s
  else .next (s.coastOrDefer sinceNs)

/-- R41, R51: FORCE_COAST holds the loop in COAST; a release takes the source again when it may. -/
def execForceCoastWrite (on : Bool) (sinceNs : Nat) (s : State) : Result :=
  s.rowWrite Reg.ruling_CTRL fun s =>
  let s := s.put R.ruling_CTRL_FORCE_COAST (if on then 1 else 0)
  if on then .next (s.coastOrDefer sinceNs)
  else match s.loop with
    | .free => .next (if s.manualMode then s.leaveCoast else s.autoFromFree)
    | .coast => .next s.leaveCoast
    | _ => .next s

/-- R46: the residual reaches 0. -/
def execSlewDone (s : State) : Result :=
  if s.loop = .slewing then
    let s := s.modRuling fun u => { u with absorbed := u.absorbed + u.residual, slewFrom := none }
    .next ((s.setResidual 0).raise Flag.ruling_SLEW_DONE).enterLocked
  else .next s

/-- An output of a synthesizer. -/
def State.synOut (s : State) (n o : Nat) : SynOut := Sparse.get (fun _ => {}) s.synOuts (8 * n + o)
def State.setSynOut (s : State) (n o : Nat) (x : SynOut) : State :=
  { s with synOuts := Sparse.set (fun _ => {}) s.synOuts (8 * n + o) x }

/-- R39: the divider written takes effect. -/
def execDivChangeApply (syn : Fin 2) (out : Fin 8) (s : State) : Result :=
  .next (s.setSynOut syn out { s.synOut syn out with div := s.get (R.clock_OUT_CTRL_DIV syn out) })

/-- R38: a new target; the move goes on from CUR_DELAY. -/
def execOutDelayWrite (syn : Fin 2) (out : Fin 8) (delay : BitVec 16) (s : State) : Result :=
  s.rowWrite (Reg.clock_OUT_CTRL syn out) fun s =>
  .next (s.put (R.clock_OUT_DELAY_DELAY syn out) delay.toNat)

/-- R38: one produced period moves CUR_DELAY one fine step; it holds while the output or the synthesizer is off. -/
def execOutDelayStep (syn : Fin 2) (out : Fin 8) (s : State) : Result :=
  if s.on (R.clock_OUT_CTRL_EN syn out) ∧ s.on (R.clock_CTRL_EN syn) ∧ (s.synOut syn out).running then
    let cur := s.get (R.clock_OUT_DELAY_CUR_DELAY syn out)
    let tgt := s.get (R.clock_OUT_DELAY_DELAY syn out)
    .next (s.put (R.clock_OUT_DELAY_CUR_DELAY syn out) (if cur < tgt then cur + 1 else if tgt < cur then cur - 1 else cur))
  else .next s

/-- R34: the analogue loop loses lock. -/
def execSynUnlock (syn : Fin 2) (s : State) : Result :=
  .next (((s.put (R.clock_STATUS_VCO_LOCK syn) 0).bump (R.clock_STATUS_UNLOCK_CNT syn)).raise Flag.ruling_SYN_UNLOCK)

/-- R34: the analogue loop regains lock. -/
def execVcoLockRegained (syn : Fin 2) (s : State) : Result := .next (s.put (R.clock_STATUS_VCO_LOCK syn) 1)

/-- The result of an event queue command (R56). -/
def State.evqResult (s : State) (status handle : Nat) : State :=
  (s.put R.ruling_EVQ_HANDLE handle).complete Reg.ruling_EVQ_RESULT status

/-- The lowest-numbered free entry index (R57). -/
def EvqState.freeIndex (q : EvqState) : Option Nat :=
  (List.range 512).find? fun i => !(q.entries.any fun e => e.index == i)

/-- A PUSH (R52, R53, R55 to R58), judged in the order of R58. DESIGN CHOICE (log entry 136): a push by the debug port, which R55 does not
name, counts against the 480 entries but not in EVQ_LEVEL.HOST. -/
def execEvqPush (master : Master) (s : State) : Result :=
  .next <| s.offer Reg.ruling_EVQ_RESULT Flag.ruling_CMD_OVERRUN fun s =>
    let w0 := s.rd (Reg.ruling_EVQ_W 0)
    let w1 := s.rd (Reg.ruling_EVQ_W 1)
    let w2 := s.rd (Reg.ruling_EVQ_W 2)
    let w3 := s.rd (Reg.ruling_EVQ_W 3)
    let action := getBits w1 31 28
    let line := getBits w1 27 16
    let frame := getBits w1 15 0 * 2 ^ 32 + w0.toNat
    let lateRun := w3.getLsbD 31
    if action = 0 ∨ 9 ≤ action ∨ line = 0 ∨ s.rulingFormat.lines < line then s.evqResult 4 0
    else
      let late := decide (frame < s.ruling.frame) || (frame == s.ruling.frame && decide (line ≤ s.ruling.line))
      let s := s.raiseIf late Flag.ruling_EVQ_LATE
      if late ∧ lateRun = false then s.evqResult 2 0
      else
        let hostFull := master != .core && decide (480 ≤ (s.evq.entries.filter fun e => e.master != .core).length)
        match s.evq.freeIndex with
        | none => (s.raise Flag.ruling_EVQ_FULL).evqResult 1 0
        | some i =>
          if hostFull then (s.raise Flag.ruling_EVQ_FULL).evqResult 1 0
          else
            let gen := Sparse.get (fun _ => 0) s.evq.gens i
            let e : EvqEntry := ⟨i, gen, s.evq.order, master, frame, line, action, w2, lateRun, w3.extractLsb' 0 31,
              if late then .nextLine else .onTime⟩
            let s := s.setEvq ⟨s.evq.entries ++ [e], Sparse.set (fun _ => 0) s.evq.gens i ((gen + 1) % 128), s.evq.order + 1⟩
            s.evqResult (if late then 3 else 0) (gen * 512 + i)

/-- A CANCEL (R57): the handle is in EVQ_W0[15:0]. -/
def execEvqCancel (_master : Master) (s : State) : Result :=
  .next <| s.offer Reg.ruling_EVQ_RESULT Flag.ruling_CMD_OVERRUN fun s =>
    let h := getBits (s.rd (Reg.ruling_EVQ_W 0)) 15 0
    let hit (e : EvqEntry) : Bool := e.index == h % 512 && e.gen == h / 512
    if s.evq.entries.any hit then
      (s.setEvq { s.evq with entries := s.evq.entries.filter fun e => !hit e }).evqResult 5 h
    else s.evqResult 6 h

/-- A FLUSH (R56): every entry of the same master. -/
def execEvqFlush (master : Master) (s : State) : Result :=
  .next <| s.offer Reg.ruling_EVQ_RESULT Flag.ruling_CMD_OVERRUN fun s =>
    let n := (s.evq.entries.filter fun e => e.master == master).length
    (s.setEvq { s.evq with entries := s.evq.entries.filter fun e => e.master != master }).evqResult 7 n

/-- An undefined OP (R56): BAD_COMMAND, nothing else changes. A defined OP is no case of this command (log entry 6). -/
def execEvqBadCommand (_master : Master) (op : BitVec 4) (s : State) : Result :=
  if 1 ≤ op.toNat ∧ op.toNat ≤ 3 then .next s
  else .next <| s.offer Reg.ruling_EVQ_RESULT Flag.ruling_CMD_OVERRUN fun s => s.evqResult 8 0

/-- R366: the width of a pulse ends. -/
def execGpioPulseEnd (gpio : Fin 32) (s : State) : Result := .next (s.endPulse gpio)

end Sys2Proof.Machine
end

