-- ==== Sys2Proof/Machine/Ingest.lean ====
section
/-!
DEFINITION. The commands of ingest and the Inkwell: video packets, frames, codestreams, motion fields
(05_ingest_inkwell.md R138 to R168, 11_codecs_cellar.md R310, R311).
-/
namespace Sys2Proof.Machine
open Sys2Proof

/-- A VIDEO_LINE packet of stream `n` (R141, R144, R145): it starts a frame, belongs to the one being written, completes it, or
waits behind the completion. -/
def State.videoPacket (s : State) (n : Nat) (k : Packet) : State :=
  let q := leAt k.payload 0 2
  let push (s : State) : State := s.modStream n fun x => { x with buffer := x.buffer ++ [k] }
  let start (s : State) : State := if k.sof then push (s.seeStart n (some q)) else s
  let x := s.stream n
  if x.startSeen.isSome then push s
  else match x.writing with
    | none => start s
    | some w =>
      if w.ended then start s
      else if w.frameSeq = some q then
        let s := s.placeSegment n k
        if k.eof then s.modStream n fun x => { x with writing := x.writing.map fun w => { w with ended := true } } else s
      else start (s.modStream n fun x => { x with writing := x.writing.map fun w => { w with ended := true } })

/-- R144, R152: `overflow` says that the cluster's input buffers are full and the segment is discarded; its header still tells where a
frame starts and ends (log entry 106). -/
def execVideoLinePacket (port : Fin 96) (overflow : Bool) (s : State) : Result :=
  match s.takePacket port fun k => k.typ == 1 with
  | none => .next s
  | some (k, s) =>
    let n := 16 * port + k.vc
    if s.ingestRuns n = false ∨ s.on (R.stream_CFG_XS n) = true ∨ k.payload.length < 8 then .next s
    else if overflow then
      let c := s.get (R.stream_CFG_INGEST n)
      let s := (s.bump (R.ingest_OVERFLOW c)).raise (Flag.ingest_OVERFLOW c)
      .next ((s.bump (R.port_VIDEO_SEG_LOST port)).videoPacket n { k with typ := 0 })
    else .next ((s.addLoad (s.get (R.stream_CFG_INGEST n)) (leAt k.payload 4 2)).videoPacket n k)

/-- The region of the codestream buffers: the lowest-numbered of KIND 06h that ingest writes and codecs read (11 R311). -/
def State.xsRegion (s : State) : Option RegionRec :=
  (s.fabric.now.regions.filter fun r => r.kind == 6 && r.writers.testBit 0 && r.readers.testBit 3).foldl
    (fun b r => match b with | none => some r | some q => if r.region < q.region then some r else some q) none

/-- B_s, and where buffer `b` of stream `n` begins (11 R311). -/
def State.xsBufferSize (s : State) (n : Nat) : Nat := (3 * s.width n * s.height n + 131071) / 131072 * 65536
def State.xsBufferBase (s : State) (r : RegionRec) (n b : Nat) : Nat :=
  let before := (s.fabric.now.streams.filter fun x => x.xs && decide (x.stream < n)).foldl (fun t x => t + 2 * s.xsBufferSize x.stream) 0
  r.base * 65536 + before + b * s.xsBufferSize n

/-- A codestream is handed to the engines, or dropped where there is no buffer region; a waiting one of the same stream is
overtaken (R148, 11 R311). -/
def State.handOver (s : State) (n : Nat) : State :=
  match (s.stream n).gathering with
  | none => s
  | some g =>
    let g := { g with marg := ((s.stream n).openMarg).getD { frameSeq := g.frameSeq } }
    let s := s.modStream n fun x => { x with gathering := none, openMarg := none, lastDone := true }
    if s.xsRegion.isNone then s.dropFrame n 3
    else
      let late := s.xsWaiting.any fun p => p.1 == n
      let s := s.setWaiting ((s.xsWaiting.filter fun p => p.1 != n) ++ [(n, g)])
      if late then s.dropFrame n 3 else s

/-- R148: codestream bytes are gathered by BYTE_OFFSET. -/
def execVideoXsPacket (port : Fin 96) (s : State) : Result :=
  match s.takePacket port fun k => k.typ == 2 with
  | none => .next s
  | some (k, s) =>
    let n := 16 * port + k.vc
    if s.ingestRuns n = false ∨ s.on (R.stream_CFG_XS n) = false ∨ k.payload.length < 8 then .next s
    else
      let q := leAt k.payload 0 2
      let o := leAt k.payload 4 4
      let data := k.payload.drop 8
      let s := match (s.stream n).gathering with
        | some g => if g.frameSeq = q then s else s.handOver n
        | none => s
      let s := match (s.stream n).gathering with
        | some _ => s
        | none =>
          if o = 0 then
            let c := s.get (R.stream_CFG_INGEST n)
            let g : Codestream :=
              { frameSeq := q, buffer := (s.stream n).nextBuffer, startFrame := s.ruling.frame, startLine := s.ruling.line,
                flags := s.startFlags n, noSketch := s.on (R.ingest_SHED_SKETCH_STOP c), noMotion := s.on (R.ingest_SHED_MOTION_STOP c)
                  || s.on (R.mot_STATUS_STOPPED (s.get (R.stream_CFG_MOTION_UNIT n))) }
            (s.seeStart n (some q)).modStream n fun x => { x with gathering := some g, nextBuffer := 1 - x.nextBuffer }
          else s
      match (s.stream n).gathering with
      | none => .next s
      | some g =>
        let fit := data.take (s.xsBufferSize n - o)
        let s := match s.xsRegion with
          | none => s
          | some r => ((s.unitUse (s.get (R.stream_CFG_INGEST n)) (s.get (R.stream_CFG_CLASS n)) fit.length).memWrite 0
            (s.xsBufferBase r n g.buffer + o) fit).addLoad (8 + s.get (R.stream_CFG_INGEST n)) (8 * fit.length)
        let g := { g with length := max g.length (o + data.length), got := if fit.isEmpty then g.got else (o, fit.length) :: g.got }
        let s := s.modStream n fun x => { x with gathering := some g }
        .next (if k.eof then s.handOver n else s)

/-- Packets that waited in the input buffer are taken in turn. -/
def State.drainBuffer (s : State) (n : Nat) : State :=
  let b := (s.stream n).buffer
  let s := s.modStream n fun x => { x with buffer := [] }
  match b with
  | [] => s
  | k :: l => (k :: l).zipIdx.foldl (fun s p => s.videoPacket n (if p.2 = 0 then { p.1 with sof := false } else p.1)) s

/-- What the Ruling's stream source needs of a frame start besides its interval (01_ruling.md R28, R29): an input stream of the Ruling's
frame rate, whose frame before is complete. -/
def State.sourceFrameOk (s : State) (n : Nat) : Bool :=
  let f := s.rulingFormat
  decide (n < 1536) && s.get (R.stream_RATE_DEN n) != 0
    && s.get (R.stream_RATE_NUM n) * f.den == f.num * s.get (R.stream_RATE_DEN n) && (s.stream n).lastDone

/-- R163, R141, R147: the frame whose start was seen takes its slot. `frac` is the instant in the Ruling line in 1/65,536;
`tauNs` and `runOk` are the interval and its check against the Ruling's frame period for the Ruling's stream source (01_ruling.md R28). -/
def execFrameStart (stream : Fin 1600) (frac : BitVec 16) (tauNs : Nat) (runOk : Bool) (s : State) : Result :=
  let n := stream.val
  let x := s.stream n
  match x.startSeen with
  | none => .next s
  | some (q, f, l) =>
    if x.writing.isSome ∧ s.on (R.stream_CFG_XS n) = false then .next s
    else
      let s := (s.modStream n fun x => { x with startSeen := none }).beginMarg n q
      let s := s.genlockStep n frac.toNat
      let s := if s.get R.ruling_STREAM_SRC_STREAM = n then s.frameInstant 2 frac.toNat tauNs (runOk && s.sourceFrameOk n) else s
      let s := s.modStream n fun x => { x with lastDone := false }
      if s.on (R.stream_CFG_XS n) then .next s
      else
        let c := s.get (R.stream_CFG_INGEST n)
        let s := s.takeSlot n
          { slot := 0, frameSeq := q, startFrame := f, startLine := l, flags := s.startFlags n,
            noSketch := s.on (R.ingest_SHED_SKETCH_STOP c),
            noMotion := s.on (R.ingest_SHED_MOTION_STOP c) || s.on (R.mot_STATUS_STOPPED (s.get (R.stream_CFG_MOTION_UNIT n))) }
        let sdi := (s.stream n).sdiBuffer
        let s := s.modStream n fun x =>
          { x with sdiBuffer := [], writing := x.writing.map fun w => { w with segs := w.segs ++ sdi } }
        .next (s.drainBuffer n)

/-- What follows a frame that became newest: its Marginalia record, zone watches, Cellar jobs (09 R278, R283, 11 R320). -/
def State.afterFrame (s : State) (n : Nat) (record : Option MargRec) : State :=
  match (s.stream n).newest with
  | none => s
  | some i =>
    let seq := ((s.stream n).slot i).seq
    let s := s.closeMarg n seq record
    let s := s.each (s.zoneWatches n seq) fun s w =>
      ((s.put (R.marginalia_WATCH_HIT_SEQ w) seq).raise (Flag.marginalia_ZONE_HIT w)).incidentEvent 3 5 w
    s.queueCellarJobs n

/-- R145, R146, R130: a received frame that has ended completes. `frac` is the instant of completion in its Ruling line; `refused` says that its writes were refused for longer
than the write buffer holds (R163 MEMORY). -/
def execFrameComplete (stream : Fin 1600) (frac : BitVec 16) (refused : Bool) (s : State) : Result :=
  let n := stream.val
  match (s.stream n).writing with
  | none => .next s
  | some w =>
    if s.on (R.stream_CFG_XS n) = true ∨ s.isWriteback n = true ∨ w.ended = false then .next s
    else
      let record := (s.stream n).openMarg
      let s := s.completeReceived n frac.toNat refused
      .next (if (s.stream n).newest = some w.slot ∧ (s.stream n).writing = none then
          (s.modStream n fun x => { x with openMarg := none, lastDone := true }).afterFrame n record
        else s)

/-- The newest complete frame's age in Ruling lines, at the start of a line (R140). -/
def State.exactAge (s : State) (n : Nat) : Rat :=
  match (s.stream n).newest with
  | none => 0
  | some i =>
    let v := (s.stream n).slot i
    (s.ruling.lineTotal - v.doneTotal : Nat) - (v.doneFrac : Rat) / 65536

/-- A stream becomes LOST, and with it the Ruling's source that it is (R139, R140; 01_ruling.md R28). -/
def State.streamLost (s : State) (n : Nat) : State :=
  let s := (s.put (R.stream_STATE_STATE n) 3).raise (Flag.stream_LOST n)
  if s.get R.ruling_STREAM_SRC_STREAM ≠ n then s
  else if s.qualified 2 then s.loseSource 2 s.sinceMeasure
  else s.modRuling fun u => { u with runs := Sparse.set (fun _ => 0) u.runs 2 0 }

/-- R140: at a Ruling line, the age of the newest frame against the timeout. -/
def execLostTimeout (stream : Fin 1600) (s : State) : Result :=
  let n := stream.val
  let t := max 1 (s.get (R.stream_CTRL_LOST_FRAMES n))
  if s.streamMode n = .live ∧ s.get (R.stream_RATE_NUM n) ≠ 0 ∧ (t : Rat) * s.framePeriodNs n ≤ s.exactAge n * s.rulingFormat.lineNs then
    .next (s.streamLost n)
  else .next s

/-- The bytes of a codestream that never arrived, as (offset, length) (R148). -/
def missingRanges (got : List (Nat × Nat)) (limit length : Nat) : List (Nat × Nat) :=
  let have_ (i : Nat) : Bool := decide (i < limit) && got.any fun g => decide (g.1 ≤ i) && decide (i < g.1 + g.2)
  ((List.range length).filter fun i => !have_ i).map fun i => (i, 1)

/-- A codestream as the engine reads it, with the bytes that are missing or poisoned, and whether any was poisoned. -/
def State.readCodestream (s : State) (n : Nat) (c : Codestream) : List Byte × List (Nat × Nat) × Bool × State :=
  match s.xsRegion with
  | none => ([], [(0, 1)], false, s)
  | some r =>
    let size := s.xsBufferSize n
    let len := min c.length size
    let (bs, s) := s.memRead 3 (s.xsBufferBase r n c.buffer) len
    let bad := (bs.zipIdx.filter fun p => p.1.2).map fun p => (p.2, 1)
    (bs.map (·.1), missingRanges c.got size c.length ++ bad, !bad.isEmpty, s)

/-- Whether a decoded sampling can be stored in a format, as R143 converts link samples. -/
def xsPairs (sampling code : Nat) : Bool :=
  match storageFormat code with
  | some (.c420, _) => sampling == 0 || sampling == 1
  | some (.c422, _) => sampling == 0
  | some (.c444, _) => sampling == 2
  | some (.rgba, _) => sampling == 2
  | none => false

/-- R310: the oldest waiting codestream whose stream is not being decoded goes to the lowest-numbered free engine. A header that
does not fit the record drops it. -/
def execXsDecodeStart (s : State) : Result :=
  match s.xsWaiting.find? fun p => (s.stream p.1).writing.isNone, s.freeEngine 1 with
  | some (n, c), some e =>
    let s := s.setWaiting (s.xsWaiting.filter fun p => p.1 != n)
    let (bs, _, _, s) := s.readCodestream n c
    match Config.xsHeader bs with
    | some (w, h, sampling, comps) =>
      if w = s.width n ∧ h = s.height n ∧ comps = 3 ∧ xsPairs sampling (s.storeFmt n) = true then
        let s := s.takeSlot n
          { slot := 0, frameSeq := some c.frameSeq, startFrame := c.startFrame, startLine := c.startLine, flags := c.flags,
            noSketch := c.noSketch, noMotion := c.noMotion, ended := true }
        .next (if (s.stream n).writing.isSome then s.startJob e 1 n (.decode n c) else s)
      else .next (s.dropFrame n 3)
    | none => .next (s.dropFrame n 3)
  | _, _ => .next s

/-- R148: a codestream has waited one T_s. -/
def execXsDecodeWaitTimeout (stream : Fin 1600) (s : State) : Result :=
  if s.xsWaiting.any fun p => p.1 == stream.val then
    .next ((s.setWaiting (s.xsWaiting.filter fun p => p.1 != stream.val)).dropFrame stream 3)
  else .next s

/-- A decode ends: de-interlacing, conversion, concealed slices, and the slot completes (R143, R146, R148, R149, 11 R310, R314). -/
def State.decodeDone (s : State) (e n : Nat) (c : Codestream) (frac : Nat) : State :=
  let (bs, missing, poison, s) := s.readCodestream n c
  let s := (s.unitUse (18 + e / 8) (s.get (R.stream_CFG_CLASS n)) bs.length).endJob e
  match (s.stream n).writing with
  | none => s
  | some w =>
    let (code, wd, ht) := (s.storeFmt n, s.width n, s.height n)
    match storageFormat code with
    | none => s.failFrame n 3
    | some (l, b) =>
      let hit (slice : Nat) : Bool := Config.xsSliceHit bs missing slice
      let slices := ((List.range ((ht + 15) / 16)).filter hit).length
      let s := s.bumpBy (R.codec_CONCEALED_SLICES e) slices
      let s := if poison then (s.bump (R.codec_POISONED e)).raise (Flag.codec_POISONED e) else s
      let s := (s.bump (R.codec_JOBS e)).addLoad (32 + e) (wd * ht)
      let rows := ((List.range ht).filter fun r => hit (r / 16)).length
      let lim := s.get (R.stream_CTRL_CONCEAL_MAX n)
      if lim ≠ 0xFF ∧ lim * ht < rows * 256 then s.failFrame n 2
      else
        let (old, s) := s.newestPicture n
        let sampling := match Config.xsHeader bs with | some (_, _, m, _) => m | none => 0
        let hole (r _ : Nat) : Bool := hit (r / 16)
        let sent : Holed := fun c r x => if hit (r / 16) then none else some (Config.xsDecode bs c r x)
        let first := s.firstField n
        let th := s.get (R.stream_CTRL_DEINT_THRESH n)
        let oldY (r x : Nat) : Nat := old 0 r x * 2 ^ (12 - b)
        let src : Holed := if s.adaptive n then deinterlace first ht th oldY sent (sampling == 2) else sent
        let g : Picture := fun c r x =>
          if chromaConcealed l hole c r x then old c r x
          else if sampling = 1 ∧ c ≠ 0 then roundTo b (Config.xsDecode bs c r x) 1
          else (convertSample (sampling == 2) code wd src c r x).getD (old c r x)
        let synth := s.adaptive n && anyMoved first ht wd th oldY sent
        (s.finishFrame n w g hole synth true frac).afterFrame n (some c.marg)

/-- R309: an engine's frame is done. -/
def execCodecJobDone (engine : Fin 32) (frac : BitVec 16) (s : State) : Result :=
  let e := engine.val
  match s.engineJob e with
  | some (.decode n c) => .next (s.decodeDone e n c frac.toNat)
  | some (.host n _ f) => .next ((s.addLoad (32 + e) (s.width n * s.height n)).hostEncodeDone e f)
  | some (.cellar entry n slot) => .next ((s.addLoad (32 + e) (s.width n * s.height n)).cellarEncodeDone e entry n slot)
  | none => .next s

/-- R165, R167: the unit takes its next queued field and pins the reference; a reference that was retaken gives no field. -/
def execMotionFieldStart (unit : Fin 2) (s : State) : Result :=
  let u := unit.val
  let m := s.mot u
  match m.running, m.queue with
  | none, (n, slot, seq, ref, refSeq) :: rest =>
    let s := s.modMot u fun m => { m with queue := rest }
    let x := s.stream n
    let usable := (x.slot ref).st == 2 && (x.slot ref).seq == refSeq && (x.slot ref).sketches.testBit 1
      && (x.slot slot).st == 2 && (x.slot slot).seq == seq && (x.slot slot).sketches.testBit 1
    if usable && s.on (R.mot_STATUS_ACTIVE u) then
      let gap := (refSeq + 1) % 2 ^ 32 != seq
      let vec := (x.slot slot).vec ||| (if gap then 2 else 0)
      let s := s.modStream n fun x =>
        let x := x.setSlot slot { x.slot slot with vec := vec, vecRef := refSeq }
        x.setSlot ref { x.slot ref with pins := (x.slot ref).pins ++ [.motion u] }
      let s := s.memWrite 8 (s.slotBase n slot + 46) (leBytes 1 vec)
      let s := s.memWrite 8 (s.slotBase n slot + 48) (leBytes 4 refSeq)
      .next ((s.modMot u fun m => { m with running := some (n, slot, seq, ref, refSeq) }).showStream n)
    else .next (s.bump (R.mot_SKIPPED u))
  | _, _ => .next s

/-- Component 0 of a slot's 1/4 sketch at 12 bits, and whether a word of it was poisoned. -/
def State.quarterSketch (s : State) (n slot : Nat) : (Nat → Nat → Nat) × Bool × State :=
  let code := s.storeFmt n
  let d := sketchDims code (s.width n) (s.height n) 2
  let (rows, s) := s.readPart 8 (s.slotBase n slot + s.partOffset n 2) code d.1 d.2
  let g := pictureOf code d.2 fun r => (rows.getD r []).map (·.1)
  let b := match storageFormat code with | some (_, b) => b | none => 12
  (fun r x => g 0 r x * 2 ^ (12 - b), rows.any fun l => l.any (·.2), s)

/-- R165 to R167: the whole field is written and VALID set; a field whose sketches hold a poisoned word is abandoned
(10_stream_memory.md R287). -/
def execMotionFieldDone (unit : Fin 2) (s : State) : Result :=
  let u := unit.val
  match (s.mot u).running with
  | none => .next s
  | some (n, slot, _, ref, _) =>
    let d := sketchDims (s.storeFmt n) (s.width n) (s.height n) 2
    let (cur, bad, s) := s.quarterSketch n slot
    let (old, bad', s) := s.quarterSketch n ref
    if bad || bad' then .next (s.abandonField n)
    else
    let (bw, bh) := ((d.1 + 7) / 8, (d.2 + 7) / 8)
    let field := (List.range bh).flatMap fun y => (List.range bw).flatMap fun x =>
      let (m, edge) := searchBlock d.1 d.2 cur old y x
      wordBytes (vectorEntry m edge)
    let s := s.unitUse (8 + u) (s.get (R.stream_CFG_CLASS n)) (2 * partBytes (s.storeFmt n) d.1 d.2 + field.length)
    let s := s.memWrite 8 (s.slotBase n slot + s.partOffset n 4) field
    let vec := ((s.stream n).slot slot).vec ||| 1
    let s := s.modStream n fun x => x.setSlot slot { x.slot slot with vec := vec }
    let s := s.memWrite 8 (s.slotBase n slot + 46) (leBytes 1 vec)
    let s := (s.modMot u fun m => { m with running := none }).addLoad (16 + u) (d.1 * d.2)
    .next ((s.bump (R.mot_FIELDS u)).unpin n (.motion u))

/-- R506: bit i of `hits` says that counter i is incremented in the same cycle. -/
def execStreamClrCnt (stream : Fin 1600) (hits : BitVec 32) (s : State) : Result :=
  s.rowWrite (Reg.stream_CTRL stream) fun s =>
  if s.present stream then
    .next (s.clearCounters [R.stream_FRAMES stream, R.stream_DROPS_PIN stream, R.stream_DROPS_OTHER stream, R.stream_CONCEAL_ROWS stream] hits)
  else .next s

def execIngestClrCnt (cluster : Fin 8) (hits : BitVec 32) (s : State) : Result :=
  s.rowWrite (Reg.ingest_CTRL cluster) fun s =>
  .next (s.clearCounters [R.ingest_OVERFLOW cluster, R.ingest_DECODE_DROP cluster, R.ingest_MEM_DROP cluster] hits)

end Sys2Proof.Machine
end

