-- ==== Sys2Proof/Machine/RasterOps.lean ====
section
/-!
DEFINITION. What a raster does line by line: frame starts and ends, jumps, hold, output on the ports, ancillary data, writeback and
latency reports (04_sdi_ports.md R135 to R137; 07_folio_commit_seal.md R220, R221; 08_raster_out.md R237 to R254;
09_audio_marginalia.md R264, R273 to R275, R281, R282).
-/
namespace Sys2Proof.Machine
open Sys2Proof

/-- The Folio fetches frames: it runs, no gap of a timing change, no hold, and its frame is not black. -/
def State.composing (s : State) (f : Nat) : Bool :=
  let x := s.folio f
  (match s.raster f with | .run => true | .changing => true | _ => false) && !x.gap && !x.black

/-! Timecode and ancillary packets. -/

/-- An ancillary word of 8 bits with its parity bits (log entry 34). -/
def ancWord (b : Nat) : Nat :=
  let p := (List.range 8).foldl (fun n i => if b.testBit i then (n + 1) % 2 else n) 0
  b % 256 + 256 * p + 512 * (1 - p)

/-- A type 2 packet's words from DID to checksum. -/
def ancPacketWords (did sdid : Nat) (data : List Nat) : List Nat :=
  let ws := ancWord did :: ancWord sdid :: ancWord data.length :: data
  ws ++ [ancSum ws]

/-- The ATC packet that carries 8 bytes of time address and binary groups (log entry 34). -/
def atcWords (tc : List Byte) : List Nat :=
  ancPacketWords 0x60 0x60 ((List.range 16).map fun i =>
    let b := (tc.getD (i / 2) 0).toNat
    ancWord (16 * (if i % 2 = 0 then b % 16 else b / 16)))

/-- A frame count as drop-frame labels count it: `n` of `base` frames a second (log entry 34). -/
def dropLabel (base n : Nat) : Nat :=
  let k := base / 30
  let d := n / (17982 * k)
  let m := n % (17982 * k)
  n + 18 * k * d + (if m < 2 * k then 0 else 2 * k * ((m - 2 * k) / (1798 * k)))

/-- The time address of frame label `n` at `base` frames a second; above 30 a pair shares a label (R281, log entry 34). -/
def timeAddress (base n : Nat) (drop : Bool) : List Byte :=
  let pair := decide (30 < base)
  let fps := if pair then base / 2 else base
  let label := (if pair then n / 2 else n) % (86400 * fps)
  let ff := label % fps
  let t := label / fps
  let bcd (v : Nat) : Nat × Nat := (v % 10, v / 10)
  let (fu, ft) := bcd ff
  let (su, st) := bcd (t % 60)
  let (mu, mt) := bcd (t / 60 % 60)
  let (hu, ht) := bcd (t / 3600 % 24)
  let mark := pair && n % 2 == 1
  let b27 := if mark && fps != 25 then 8 else 0
  let b59 := if mark && fps == 25 then 8 else 0
  [fu, ft + (if drop then 4 else 0), su, st + b27, mu, mt, hu, ht + b59].map fun v => BitVec.ofNat 8 v

/-- RULING timecode of the frame that starts at the present frame start (R281, R62). -/
def State.rulingTimecode (s : State) (f : Nat) (t : Timing) : List Byte :=
  let x := s.folio f
  let (p, q) := s.rateRatio t
  let n := x.startAt.1 / max 1 q * p + x.tie
  let base := (t.num + t.den - 1) / max 1 t.den
  let drop := t.den == 1001 && (base == 30 || base == 60) && s.on (R.marginalia_OUT_CTRL_DF f)
  let real := s.curSrc == 1 && s.on R.ruling_STATUS_EPOCH_KNOWN
  let off := if real then s.getInt (R.marginalia_OUT_TC_OFFSET f) else 0
  let day := if drop then 2589408 * (base / 30) else 86400 * base
  let n := if real then
      -- frames since midnight of the epoch seconds (log entry 132)
      (((n * t.den : Nat) : Rat) / (t.num : Nat) + off - 86400 * ((((n * t.den : Nat) : Rat) / (t.num : Nat) + off) / 86400).floor)
        * (t.num : Nat) / (t.den : Nat) |>.floor.toNat
    else n
  let n := n % day
  timeAddress base (if drop then dropLabel base n else n) drop

/-- The record of the frame a pane shows (R280 to R282). -/
def State.shownRecord (s : State) (f p : Nat) : Option MargRec :=
  if s.on (R.pane_STATUS_SHOWN_NEW f p) then
    match (s.folio f).latches.find? fun l => l.pane == p with
    | some l => (s.stream l.set.index).margs.find? fun m => m.seq == s.get (R.pane_SHOWN_B f p)
    | none => none
  else none

/-- The packets a frame carries, queued for every port at its fetch start (R281, R282). -/
def State.queueAnc (s : State) (f : Nat) : State :=
  if s.audioOn then
    let t := s.timing f
    let mode := s.get (R.marginalia_OUT_CTRL_TC_MODE f)
    let pane := s.get (R.marginalia_OUT_CTRL_TC_PANE f)
    let tc : Option (List Byte) := if mode = 1 then some (s.rulingTimecode f t)
      else if mode = 2 then (s.shownRecord f pane).bind fun m => m.tc.map (·.1) else none
    let s := s.raiseIf (mode == 2 && tc.isNone && s.on (R.pane_STATUS_SHOWN_NEW f pane)) Flag.marginalia_TC_MISSING
    let pairs : List Nat := [R.marginalia_OUT_FILTER0 f, R.marginalia_OUT_FILTER1 f].flatMap fun r => [s.get r % 65536, s.get r / 65536]
    let passes (a : AncPacket) : Bool :=
      !s.on (R.marginalia_OUT_CTRL_FILTER_EN f)
        || pairs.any fun w => w != 0 && w == 256 * a.did + a.sdid
    let kept := if s.on (R.marginalia_OUT_CTRL_PASS_EN f) then
        (match s.shownRecord f (s.get (R.marginalia_OUT_CTRL_PASS_PANE f)) with
        | some m => m.kept.filter passes
        | none => [])
      else []
    let all := (match tc with | some b => [(⟨t.fetchLine + 1, 0, atcWords b⟩ : AncPacket)] | none => []) ++ kept
    s.modFolio f fun x => { x with anc := (s.folioPorts f).flatMap fun n => all.map fun a => (n, a) }
  else s

/-- Words a packet takes on a line: its ADF, then DID to checksum (log entry 34). -/
def AncPacket.cost (a : AncPacket) : Nat := 3 + a.words.length

/-- Packets due on a line of a port: those whose line has come, timecode first; a line beyond the raster counts as come. -/
def State.ancDue (s : State) (f n line : Nat) : List AncPacket :=
  let vt := (s.timing f).vTotal
  let due := ((s.folio f).anc.filter fun q => q.1 == n && (decide (q.2.line ≤ line) || decide (vt < q.2.line))).map (·.2)
  due.filter AncPacket.isAtc ++ due.filter fun a => !a.isAtc

/-- Those of a list that fit in `room` words, in order. -/
def fitAnc : Nat → List AncPacket → List AncPacket
  | _, [] => []
  | room, a :: l => if a.cost ≤ room then a :: fitAnc (room - a.cost) l else fitAnc room l

def State.takeAnc (s : State) (f n : Nat) (sent : List AncPacket) : State :=
  s.modFolio f fun x => { x with anc := sent.foldl (fun q a => q.erase (n, a)) x.anc }

/-- The output channels at a position of a Folio (R266). -/
def State.outsAt (s : State) (f pos : Nat) : List Nat := (s.outsOf f).filter fun o => s.get (R.audio_OUT_MAP_POS o) == pos

/-- The groups of four positions that hold a mapped one, up to the last that the port's standard sends (R273). -/
def State.audioGroups (s : State) (f n : Nat) : List Nat :=
  (List.range (if s.get (R.port_PORT_CFG_RATE n) ≤ 1 then 4 else 8)).filter fun g =>
    (List.range 4).any fun i => !(s.outsAt f (4 * g + i)).isEmpty

/-- Packets that carry `m` samples of `groups` groups, and their words: one sample a packet, but up to 21 under ST 272 (RATE 0; log
entry 34). -/
def audioPackets (rate groups m : Nat) : Nat := groups * (if rate = 0 then (m + 20) / 21 else m)
def audioWords (rate groups m : Nat) : Nat :=
  if rate = 0 then audioPackets 0 groups m * 7 + 12 * groups * m else 31 * audioPackets rate groups m

/-- At a field's end the packets that found no room are dropped and counted, audio packets too (04_sdi_ports.md R137). -/
def State.dropAnc (s : State) (f line : Nat) : State :=
  let late := (s.folio f).anc.filter fun q => decide (q.2.line < line)
  let s := s.each late fun s q => if s.sdiOut q.1 then s.bump (R.port_ANC_DROP q.1) else s
  let s := s.each (s.sdiPorts f) fun s n =>
    let due := Sparse.get (fun _ => 0) s.audio.portDue n
    let left := due - Sparse.get (fun _ => 0) s.audio.portNext n
    if left = 0 then s
    else
      let s := s.bumpBy (R.port_ANC_DROP n) (audioPackets (s.get (R.port_PORT_CFG_RATE n)) (s.audioGroups f n).length left)
      s.modAudio fun a => { a with portNext := Sparse.set (fun _ => 0) a.portNext n due }
  s.modFolio f fun x => { x with anc := x.anc.filter fun q => decide (line ≤ q.2.line) }

/-! Ports. -/

/-- The payload ID of a running SDI format (04_sdi_ports.md R136, log entry 34). -/
def State.sdiPid (s : State) (n : Nat) : List Nat :=
  if s.on (R.port_SDI_CFG_PID_OVR_EN n) then (wordBytes (s.rd (Reg.port_PID_TX_OVR n))).map (·.toNat)
  else
    let rate := s.get (R.port_SDI_FMT_RATE n)
    let inter := s.on (R.port_SDI_FMT_INTERLACED n)
    let psf := s.on (R.port_SDI_FMT_PSF n)
    let one := match s.get (R.port_PORT_CFG_RATE n) with
      | 0 => 0x81
      | 1 => if s.get (R.port_SDI_FMT_HEIGHT n) = 720 then 0x84 else 0x85
      | 2 => 0x89 | 4 => 0xC0 | _ => 0xCE
    [one, (if inter || psf then 0 else 128) + (if inter then 0 else 64) + pidRate rate, 0, 1]

/-- The raster lines of the payload ID (R136). A 2160p raster carries serial line l on raster line 2 l − 1. -/
def pidLines (t : Timing) : List Nat :=
  if t.vTotal = 525 then [13, 276] else if t.vTotal = 625 then [9, 322] else if t.vTotal = 2250 then [19]
  else if t.inter && !t.psf then [10, 572] else [10]

/-- Black in 4:2:2 (R135). -/
def blackCodes (w : Nat) : List Nat := (List.range (w / 2)).flatMap fun _ => [0x200, 0x040, 0x200, 0x040]

/-- The samples K to K + n − 1 of an output channel. -/
def State.outSamples (s : State) (o first n : Nat) : List Int :=
  (List.range n).map fun i => (s.outChan o).recent.getD (s.audio.k - 1 - (first + i)) 0

/-- The K of the next sample a port sends, never older than the samples at hand. -/
def State.nextSample (s : State) (n : Nat) : Nat := max (Sparse.get (fun _ => 0) s.audio.portNext n) (s.audio.k - 128)
def State.setNextSample (s : State) (n k : Nat) : State :=
  s.modAudio fun a => { a with portNext := Sparse.set (fun _ => 0) a.portNext n k }

/-- Whether two enabled channels share a position of a Folio, an undefined encoding (R266): what is sent there is a free value, as are
none of the other positions (00_scope.md R10, log entry 50). -/
def State.doubled (s : State) (f : Nat) : Bool := (s.outsOf f).any fun o => decide (1 < (s.outsAt f (s.get (R.audio_OUT_MAP_POS o))).length)

/-- The samples K to K + n − 1 at a position of a Folio; zeros where none is mapped (R273, R274). -/
def State.columnAt (s : State) (f pos first n : Nat) : List Int :=
  match s.outsAt f pos with
  | [] => List.replicate n 0
  | [o] => s.outSamples o first n
  | _ => (List.range n).map fun i => int24 (Config.undefinedPixel s.freeCount f pos (first + i))

/-- The channel status block of R273 under AES3: professional, linear PCM, 48 kHz, 24-bit words, and its CRC (log entry 34). -/
def channelStatus : List Byte :=
  let body : List Byte := [0x81, 0x00, 0x2C] ++ List.replicate 20 0
  let crc := body.foldl (fun (c : BitVec 8) b =>
    (List.range 8).foldl (fun (c : BitVec 8) _ => if c.getLsbD 0 then (c >>> 1) ^^^ 0xB8#8 else c >>> 1) (c ^^^ b)) 0xFF#8
  body ++ [crc]

/-- The lines that carry audio control packets: the second after the switching line of each field (log entry 34). -/
def controlLines (t : Timing) : List Nat :=
  if t.vTotal = 525 then [12, 275] else if t.vTotal = 625 then [8, 321] else if t.vTotal = 2250 then [17]
  else if t.inter then [9, 571] else [9]

/-- The frame sequence number of the audio control packets: at a 1000/1001 rate frames are counted from the common points in
sequences of whole samples, from 1; 0 at an integer rate (R273; 01_ruling.md R36). -/
def State.audioSequence (s : State) (f : Nat) (t : Timing) : Nat :=
  if t.den = 1001 then
    let x := s.folio f
    let (p, q) := s.rateRatio t
    (x.startAt.1 / max 1 q * p + x.tie) % max 1 (t.num / max 1 (Nat.gcd t.num (48000 * t.den))) + 1
  else 0

/-- Embedded audio of a line with `room` words: the samples due since the last line, as many as fit, for every group that holds a mapped
position; the rest waits for the next line (R273; 04_sdi_ports.md R137). Also the words left. -/
def State.embedded (s : State) (f n line room : Nat) (t : Timing) : SdiAudioOut × Nat × State :=
  let k0 := s.nextSample n
  let groups := s.audioGroups f n
  let g := groups.length
  let rate := s.get (R.port_PORT_CFG_RATE n)
  let control := (controlLines t).contains line && decide (0 < g)
  let room := if control then room - g * (if rate = 0 then 25 else 18) else room
  let m := ((List.range (s.audio.k - k0 + 1)).filter fun m => decide (audioWords rate g m ≤ room)).getLastD 0
  let m := if g = 0 then s.audio.k - k0 else m
  let cols := (List.range 32).map fun pos => if groups.contains (pos / 4) then s.columnAt f pos k0 m else []
  let s := if s.doubled f then s.drawn else s
  ({ samples := cols, first := k0, status := if g = 0 then [] else channelStatus,
     control := if control then some (s.audioSequence f t) else none }, room - audioWords rate g m,
    (s.setNextSample n (k0 + m)).modAudio fun a => { a with portDue := Sparse.set (fun _ => 0) a.portDue n a.k })

/-- No sample is due on a port that sends none (R275). -/
def State.skipSamples (s : State) (n : Nat) : State :=
  (s.setNextSample n s.audio.k).modAudio fun a => { a with portDue := Sparse.set (fun _ => 0) a.portDue n a.k }

/-- A line on an SDI port: `codes` when a composed line is sent, black otherwise; `room` is the ancillary space left after the payload
ID, in words (R135 to R137). -/
def State.sendSdi (s : State) (f n line room : Nat) (t : Timing) (codes : Option (List Nat)) : State :=
  match s.sdi n with
  | .txRun | .txBlack =>
    let s := s.modPort n fun p => { p with sdiLine := line }
    let pid := if (pidLines t).contains line then [ancPacketWords 0x41 0x01 ((s.sdiPid n).map ancWord)] else []
    let active := (t.row line).isSome
    let body := if active then codes.getD (blackCodes t.hAct) else []
    if s.composing f && s.sdi n == .txRun then
      let (audio, room, s) := if s.audioOn then s.embedded f n line room t else ({}, room, s)
      let sent := fitAnc room (s.ancDue f n line)
      (s.takeAnc f n sent).emit (.sdi n line body (pid ++ sent.map (·.words)) audio)
    else (s.skipSamples n).emit (.sdi n line body pid {})
  | _ => s.skipSamples n

/-- The next line of a transmitter that sends black while no raster drives it: the format last sent, with its payload ID (R135;
02_fabric_image.md R83; 08_raster_out.md R237). -/
def State.sdiBlack (s : State) (f n : Nat) : State :=
  match s.sdi n, (s.port n).sdiSent.bind fun i => sdiRasters[i]? with
  | .txBlack, some r =>
    let line := (s.port n).sdiLine
    s.sendSdi f n (if r.vTotal ≤ line then 1 else line + 1) 0 (r.timing (s.on (R.port_SDI_FMT_PSF n))) none
  | _, _ => s

/-- The VIDEO_LINE packets of a line (03_rasyn_link.md R99 to R103). DESIGN CHOICE (log entry 131): under an OUT_FMT.LINK_FMT that
R101 does not define (00_scope.md R10) the port sends no video. -/
def State.sendRasyn (s : State) (f n y : Nat) (t : Timing) (line : List (List Nat)) : State :=
  let fmt := s.act (R.folio_OUT_FMT_LINK_FMT f)
  match linkFormat fmt with
  | none => s
  | some (bits, per, full) =>
    let codes := s.lineCodes f bits y full line
    let most := 496 / per * 2
    let unit := if full then 3 else 2
    let count := (t.hAct + most - 1) / most
    let tag := if t.inter then y / 2 else y
    s.each (List.range count) fun s i =>
      let n0 := i * most
      let m := min most (t.hAct - n0)
      let flags := (if y = 0 ∧ i = 0 then 1 else 0) + (if y + 1 = t.vAct ∧ i + 1 = count then 2 else 0) + (if i + 1 = count then 4 else 0)
        + (if t.inter && y % 2 == 1 then 8 else 0)
      let payload := leBytes 2 (s.frameNum f) ++ leBytes 2 n0 ++ leBytes 2 m ++ leBytes 1 fmt ++ leBytes 1 0
        ++ packSamples bits ((codes.drop (n0 * unit)).take (m * unit))
      s.emit (.packet n (packetBytes 1 0 flags tag payload))

/-- Ancillary packets of a line on a Rasyn port, on VC 0 (R281, R282). -/
def State.sendAnc (s : State) (f n line : Nat) : State :=
  let sent := s.ancDue f n line
  (s.takeAnc f n sent).each sent fun s a =>
    s.sendPacket n 4 0 (leBytes 2 a.line ++ leBytes 2 a.hoff ++ a.words.flatMap (leBytes 2))

/-! Writeback (R220, R221). -/

/-- The writer takes a slot at the frame's first active line. -/
def State.beginWriteback (s : State) (f : Nat) (t : Timing) : State :=
  match s.folioRec f with
  | none => s
  | some r =>
    if s.on (R.folio_CFG_WB f) then
      let n := r.wbStream
      let s := (s.put (R.folio_WB_STATUS_ACTIVE f) 0).put (R.folio_WB_STATUS_SIZE_MISMATCH f) 0
      if t.hAct ≠ s.width n ∨ t.vAct ≠ s.height n then
        ((s.put (R.folio_WB_STATUS_SIZE_MISMATCH f) 1).dropFrame n 6).raise (Flag.folio_WB_DROP f)
      else
        let s := s.takeSlot n
          { slot := 0, frameSeq := none, startFrame := s.ruling.frame, startLine := s.ruling.line,
            noMotion := s.on (R.mot_STATUS_STOPPED (s.get (R.stream_CFG_MOTION_UNIT n))) }
        if (s.stream n).writing.isSome then
          (s.put (R.folio_WB_STATUS_ACTIVE f) 1).modFolio f fun x => { x with wbOn := true, wbRows := [], wbUnder := [] }
        else s.raise (Flag.folio_WB_DROP f)
    else s

/-- A 16-bit sum over `d` rounded once, halves up, to `b` bits. -/
def round16 (b sum d : Nat) : Nat :=
  let k := d * 2 ^ (16 - b)
  min ((2 * sum + k) / (2 * k)) (2 ^ b - 1)

/-- The writeback's picture from the rows kept. -/
def wbPicture (code : Nat) (rows : List (Nat × List Nat)) (w : Nat) : Picture := fun c r x =>
  let v (c r x : Nat) : Nat := (Sparse.get (fun _ => []) rows r).getD (3 * min x (w - 1) + c) 0
  let taps (r : Nat) : Nat := v c r (2 * x - 1) + 2 * v c r (2 * x) + v c r (2 * x + 1)
  match storageFormat code with
  | none => 0
  | some (l, b) =>
    if c = 3 then 0xFF
    else if c = 0 ∨ l = .c444 ∨ l = .rgba then round16 b (v c r x) 1
    else if l = .c420 then round16 b (taps (2 * r) + taps (2 * r + 1)) 8
    else round16 b (taps r) 4

/-- The slot completes after the last active line. -/
def State.endWriteback (s : State) (f frac : Nat) : State :=
  let x := s.folio f
  match s.folioRec f with
  | none => s
  | some r =>
    match (s.stream r.wbStream).writing with
    | none => s
    | some w =>
      if x.wbOn then
        let sealSt := s.get (R.folio_SEAL_STATE_STATE f)
        let sealShows := sealSt == 1 || (sealSt == 2 && (leAt (s.sealCmd f) 65 1).testBit 3)
        let shown := x.latches.filter fun l =>
          (match l.show' with | .picture => true | .cut => true | _ => false) && (decide (l.pane < 8) || sealShows)
        let unv := shown.any fun l => l.unverified
        let syn := shown.any fun l => l.synth || decide (1 ≤ l.mode)
        let con := shown.any fun l => l.concealed
        let under := !x.wbUnder.isEmpty
        let ev := !unv && !syn && !con && !under && shown.all fun l => l.pane == 8 || l.evidence
        let flags := (if unv then 2 else 0) + (if ev then 4 else 0) + (if con && !under then 1 else 0)
        let hole (r c : Nat) : Bool := x.wbUnder.any fun u => u.1 == r && decide (u.2 ≤ c)
        let n := r.wbStream
        let s := s.finishFrame n { w with flags := flags } (wbPicture (s.storeFmt n) x.wbRows (s.width n)) hole syn false frac
        let s := s.afterFrame n none
        (s.modFolio f fun x => { x with wbOn := false, wbRows := [], wbUnder := [] }).bump (R.folio_WB_FRAMES f)
      else s

/-! Frames and jumps. -/

/-- Line 1 of a frame (R238, R62). -/
def State.startFrame (s : State) (f : Nat) : State :=
  let x := s.folio f
  let p := (s.rateRatio (s.timing f)).1
  let tie := (x.tie + 1) % max 1 p
  let s := s.modFolio f fun x =>
    { x with tie := tie, startAt := (s.ruling.frame, s.ruling.line), black := false, moving := false, waiting := false, report := false,
             nextLine := none }
  if tie = 0 then
    s.put (R.folio_RASTER_PHASE f) (twos 32 (if s.on (R.folio_RASTER_STATUS_DISP_TIMED_ACTIVE f) then 0 else x.disp))
  else s

/-- Whether a display may hold: a Rasyn output in ACTIVE or QUARANTINE whose descriptor has the CAPS bit. -/
def State.displayCan (s : State) (n cap : Nat) : Bool :=
  s.rasynOut n && s.isUp n && (s.rd (Reg.port_DESC n 7)).getLsbD (16 + cap)

/-- The conditions of R248 on the ports, the seal pane, writeback and commits. -/
def State.holdFits (s : State) (f : Nat) : Bool :=
  (s.folioPorts f).all (fun n => s.displayCan n 1) && s.get (R.folio_SEAL_STATE_STATE f) == 0 && !s.on (R.folio_CFG_WB f)
    && !s.on (R.folio_COMMIT_STATUS_ARMED f)

/-- Whether the frame in progress is static so far: no commit applied, no shown surface written, and no pane with an active STREAM
source (R248). -/
def State.frameStatic (s : State) (f : Nat) : Bool := !(s.folio f).moving && s.dryCount f == 8

/-- Enough frames in a row were static (R248). -/
def State.longStatic (s : State) (f : Nat) : Bool := decide (max 1 (s.get (R.folio_HOLD_CTRL_HOLD_FRAMES f)) ≤ (s.folio f).still)

/-- The end of a frame: static frames are counted and hold is asked for (R248). -/
def State.holdStep (s : State) (f : Nat) : State :=
  let still := if s.frameStatic f then min ((s.folio f).still + 1) 255 else 0
  let s := s.modFolio f fun x => { x with still := still, holdWait := x.holdWait - 1 }
  let want := s.on (R.folio_HOLD_CTRL_REQ f) || (s.on (R.folio_HOLD_CTRL_AUTO f) && s.longStatic f)
  if s.raster f = .run ∧ (s.folio f).holdAsked = false ∧ (s.folio f).holdWait = 0 ∧ want = true ∧ s.holdFits f = true then
    (s.modFolio f fun x => { x with holdAsked := true, holdEnd := false }).askHold f
  else s

/-- A jump of N pixel clocks at the switching line (R239 to R241); `exact` leaves no displacement. -/
def State.jump (s : State) (f : Nat) (n : Int) (exact : Bool) : State :=
  let t := s.timing f
  let h : Int := t.hTotal
  let total : Int := t.hTotal * t.vTotal
  let n := n % total
  let n := if total < 2 * n then n - total else n
  let sdi := !(s.sdiPorts f).isEmpty
  let away : Int := if 0 ≤ n then (2 * n + h) / (2 * h) else -((-2 * n + h) / (2 * h))
  let zero : Int := if 0 ≤ n then n / h else -(-n / h)
  let j := if sdi && !exact then away else zero
  let line : Int := (s.get (R.folio_RASTER_STATUS_LINE f) : Int) + 1 + j
  let s := s.modFolio f fun x => { x with disp := if exact then 0 else if sdi then x.disp + n - j * h else x.disp }
  let p := max 1 (s.rateRatio t).1
  if line < 1 then
    s.modFolio f fun x => { x with nextLine := some (line + t.vTotal).toNat, black := true, tie := (x.tie + p - 1) % p }
  else if (t.vTotal : Int) < line then s.modFolio f fun x => { x with nextLine := some 1, black := true }
  else s.modFolio f fun x => { x with nextLine := some line.toNat, black := x.black || decide ((t.fetchLine : Int) ≤ line) }

/-- The report of R250. -/
def State.reportLtr (s : State) (f line : Nat) : State :=
  let t := s.timing f
  let x := s.folio f
  let out := match s.raster f with | .run => x.gap | .changing => x.gap | _ => true
  let tol := if out then 0xFFFF
    else if x.began then 0
    else
      let lines := if line ≤ t.fetchLine then t.fetchLine - line else t.vTotal - line + t.fetchLine
      let us : Rat := (lines : Rat) * t.lineNs / 1000 - s.get (R.folio_LTR_CFG_GUARD f)
      min us.floor.toNat 0xFFFE
  s.put (R.folio_LTR_STATUS_TOL f) tol

/-- Events at position 0 of a line (R243). -/
def State.lineEvents (s : State) (f line : Nat) : State :=
  let t := s.timing f
  let prev := s.get (R.folio_RASTER_STATUS_LINE f)
  let s := (s.put (R.folio_RASTER_STATUS_LINE f) line).put (R.folio_RASTER_STATUS_FIELD2 f) (if t.inField2 line then 1 else 0)
  let s := s.raiseIf (t.blankStarts prev line) (Flag.folio_RASTER_START_OF_BLANK f)
  s.raiseIf (s.get (R.folio_LINE_MATCH_LINE f) == line) (Flag.folio_RASTER_LINE_MATCH f)

/-- The Folio is in a black frame, or in the part of one that a jump leaves black (R239). -/
def State.blackFrame (s : State) (f : Nat) : Bool :=
  let x := s.folio f
  (match s.raster f with | .run => true | .changing => true | _ => false) && !x.gap && x.black

/-- A line with no composed pixels on the ports; in a black frame its active lines are black on Rasyn ports too (R239). -/
def State.plainLine (s : State) (f line room : Nat) : State :=
  let t := s.timing f
  let s := s.each (s.sdiPorts f) fun s n => s.sendSdi f n line room t none
  let black := List.replicate t.hAct (outPixel (s.act (R.folio_OUT_FMT_OUT_CS f)) (s.act (R.folio_OUT_FMT_OUT_FULL f) == 1) [0, 0, 0])
  s.each (s.rasynPorts f) fun s n =>
    if s.isUp n = false then s
    else if s.composing f then s.sendAnc f n line
    else match s.blackFrame f, t.row line with
      | true, some y => s.sendRasyn f n y t black
      | _, _ => s

/-- L_v of the panes whose first destination row this is (09_audio_marginalia.md R264). -/
def State.lipLine (s : State) (f y frac : Nat) (margins : List (Nat × Int)) : State :=
  let t := s.timing f
  s.each (s.folio f).latches fun s l =>
    match l.sigma, clipDst l.set t with
    | some (lines, fr), some r =>
      if l.pane < 8 ∧ r.y0 = y then
        let ts := s.framePeriodNs l.set.index
        match l.show' with
        | .picture =>
          let ns : Rat := ((((s.ruling.lineTotal : Int) - (lines : Int) : Int) : Rat) + ((frac : Rat) - (fr : Nat)) / 65536) * s.rulingFormat.lineNs
          s.lipMeasure f l.pane (ns + ts / 2 + (if l.mode = 0 then 0 else ts))
        | .cut =>
          match margins.find? fun m => m.1 == l.pane with
          | some (_, m) => s.lipMeasure f l.pane ((m : Rat) / 16 * t.lineNs + ts / 2)
          | none => s
        | _ => s
      else s
    | _, _ => s

/-- Margins measured on a line, in 1/16 lines (06_panes.md R196). -/
def State.noteMargins (s : State) (f : Nat) (margins : List (Nat × Int)) : State :=
  s.each margins fun s m =>
    if m.1 < 8 ∧ s.on (R.pane_PERMIT_CUT_OK f m.1) = true ∧ s.act (R.pane_CTRL_CUT_EN f m.1) = 1 ∧ s.act (R.pane_SRC_KIND f m.1) = 1 then
      s.modFolio f fun x =>
        match x.margins.find? fun q => q.1 == m.1 with
        | none => { x with margins := x.margins ++ [(m.1, m.2, m.2, 1)] }
        | some (_, lo, hi, k) => { x with margins := (x.margins.filter fun q => q.1 != m.1) ++ [(m.1, min lo m.2, max hi m.2, k + 1)] }
    else s

/-- Panes whose last row inside the raster a line carries have fetched their last, and give their pins back (R160). -/
def State.unpinDone (s : State) (f line : Nat) : State :=
  let t := s.timing f
  s.each (s.folio f).latches fun s l =>
    match clipDst l.set t with
    | none => s
    | some r =>
      let ends := (List.range (min 2 (r.y1 - r.y0))).map fun i => t.lineOf (r.y1 - 1 - i)
      if line = ends.foldl max 0 then s.unpinLatch f l else s

/-- Whether the seal pane draws on a pixel (R222). -/
def State.sealAt (s : State) (f x y : Nat) : Bool :=
  (s.folio f).latches.any fun l => l.pane == 8 && (match clipDst l.set (s.timing f) with | some r => r.has x y | none => false)

/-- The lesser of two first pixels. -/
def earlierOf (a b : Option Nat) : Option Nat :=
  match a, b with | some a, some b => some (min a b) | some a, none => some a | none, b => b

/-- The marks of a row's pixels that cannot be known under an illegal raster; the seal pane keeps its own (R233; 00_scope.md R10). -/
def State.rowUnknown (s : State) (f y : Nat) (t : Timing) : List Bool :=
  let legal := s.rasterLegal f t
  (List.range t.hAct).map fun x => !legal && !s.sealAt f x y

/-- An active line of a composed frame: composition, underrun, the ports and the writeback. `late` and `lateB` are the first pixels not
ready when due at PORT_A and at PORT_B (R202, R217, R219, R220, R244). -/
def State.activeLine (s : State) (f line y frac : Nat) (late lateB : Option Nat) (margins : List (Nat × Int)) (room : Nat) : State :=
  let t := s.timing f
  let s := if line = t.first then s.beginWriteback f t else s
  let s := s.noteMargins f margins
  let (row, s) := s.composeRow f y
  let legal := s.rasterLegal f t
  let hole := row.findIdx? fun p => p.isNone
  let from_ (a : Option Nat) : Option Nat := earlierOf (a.filter fun x => decide (x < t.hAct)) hole
  let under := earlierOf (from_ late) (from_ lateB)
  let ur := widenColour (s.rd (Reg.folio_UR_COLOUR f + 0x1000))
  let unknown := s.rowUnknown f y t
  let count := s.freeCount
  let pixels (from_ : Option Nat) : List (List Nat) := row.zipIdx.map fun p =>
    if unknown.getD p.2 false then (List.range 3).map fun i => Config.undefinedPixel count p.2 y i % 65536
    else if (match from_ with | some u => decide (u ≤ p.2) | none => false) then ur else p.1.getD ur
  let s := if legal then s else s.drawn
  let s := match under with
    | none => s
    | some u =>
      let first := !(s.folio f).underran
      let s := (s.bump (R.folio_UNDERRUN_LINES f)).raise (Flag.folio_RASTER_UNDERRUN f)
      let s := if first then s.bump (R.folio_UNDERRUN_FRAMES f) else s
      let hit := match clipDst (sealSet (s.sealCmd f)) t with | some r => decide (r.y0 ≤ y) && decide (y < r.y1) | none => false
      s.modFolio f fun x => { x with underran := true, dryBad := true, sealHit := x.sealHit || hit,
                                     wbUnder := if x.wbOn then x.wbUnder ++ [(y, u)] else x.wbUnder }
  let cs := s.act (R.folio_OUT_FMT_OUT_CS f)
  let conv (from_ : Option Nat) : List (List Nat) := (pixels from_).map (outPixel cs (s.act (R.folio_OUT_FMT_OUT_FULL f) == 1))
  let portLine (n : Nat) : List (List Nat) := conv (from_ (if s.get (R.folio_CFG_PORT_A f) = n then late else lateB))
  let s := s.modFolio f fun x =>
    if x.wbOn then { x with wbRows := Sparse.set (fun _ => []) x.wbRows y (conv under).flatten } else x
  let s := s.each (s.sdiPorts f) fun s n =>
    let codes := (s.lineCodes f 10 y false (portLine n)).map fun v => max 4 (min v 0x3FB)
    if cs = 3 then
      (s.sendSdi f n line room t (some (codes.zipIdx.map fun p =>
        if s.sealAt f (2 * (p.2 / 4) + p.2 % 4 / 3) y then p.1 else Config.undefinedPixel s.freeCount p.2 line n % 1024))).drawn
    else s.sendSdi f n line room t (some codes)
  let s := s.each (s.rasynPorts f) fun s n => if s.isUp n then (s.sendRasyn f n y t (portLine n)).sendAnc f n line else s
  let s := (s.lipLine f y frac margins).unpinDone f line
  if line = t.lastActive then s.endWriteback f frac else s

/-- A line begins (R231, R243, R250). -/
def State.beginLine (s : State) (f line frac : Nat) (late lateB : Option Nat) (margins : List (Nat × Int)) (room : Nat) : State :=
  let t := s.timing f
  let s := if t.inter && line == t.first2 - t.first + 1 then s.dropAnc f line else s
  let s := (s.modFolio f fun x => { x with nextLine := none }).lineEvents f line
  let s := match t.row line with
    | some y => if s.composing f && (s.folio f).began then s.activeLine f line y frac late lateB margins room else s.plainLine f line room
    | none => s.plainLine f line room
  s.reportLtr f line

/-- The end of line V_TOTAL: what a frame's end brings, and line 1 unless the raster stops or waits for its display
(R237, R246, R248, R251 to R253). -/
def State.endFrame (s : State) (f frac room : Nat) : State :=
  let s := (s.dropAnc f 65536).holdStep f
  if s.raster f = .run ∧ s.act (R.folio_TIMING_MODE_RUN f) = 0 then s.rasterStops f
  else
    let s := if s.raster f = .changing then
        let s := if (s.folio f).gap then s else (s.stopFetching f).modFolio f fun x => { x with gap := true }
        s.modFolio f fun x => { x with blackLeft := x.blackLeft - 1 }
      else s
    if s.on (R.folio_RASTER_STATUS_DISP_TIMED_ACTIVE f) && !(s.folio f).teLost then
      s.modFolio f fun x => { x with waiting := true, nextLine := none }
    else (s.startFrame f).beginLine f 1 frac none none [] room

end Sys2Proof.Machine
end

