-- ==== Sys2Proof/Machine/Folio.lean ====
section
/-!
DEFINITION. The commands of the panes and Folios (06_panes.md R170, R200; 07_folio_commit_seal.md R208 to R215).
-/
namespace Sys2Proof.Machine
open Sys2Proof

/-- A write to a register of a present Folio's block (R84, R201). -/
def State.folioWrite (s : State) (f : Nat) (g : State → State) : State := s.hostWrite (Reg.folio_COMMIT f) g

/-- R170: at the frame fetch start line of a frame that is composed. -/
def execFrameFetchStart (folio : Fin 64) (frac : BitVec 16) (s : State) : Result :=
  let f := folio.val
  let x := s.folio f
  let holds := x.holdAsked && (s.folioPorts f).all fun n => (s.port n).holdReply == 2
  if s.folioUp f ∧ s.composing f = true ∧ x.waiting = false ∧ x.began = false ∧ holds = false
      ∧ s.get (R.folio_RASTER_STATUS_LINE f) = (s.timing f).fetchLine then
    let s := (s.frameLatch f frac.toNat).queueAnc f
    .next (s.each (s.sdiPorts f) fun s n => if s.sdi n = .txBlack then s.setSdi n .txRun else s)
  else .next s

/-- R200, R206: a word of a surface's descriptor. -/
def execSurfDescriptorWrite (surface : Fin 256) (word : Fin 3) (value : BitVec 32) (s : State) : Result :=
  s.rowWrite (0x300000 + 16 * surface.val) fun s =>
  let v := if word.val = 1 then value &&& 0xFF00FFFF else value
  .next ((s.wr (Reg.surf_BASE surface + 4 * word.val) v).surfaceTouched surface)

/-- R206, R211: a surface's fence count. -/
def execFenceWrite (surface : Fin 256) (value : BitVec 32) (s : State) : Result :=
  s.rowWrite (Reg.surf_FENCE surface) fun s =>
  .next ((s.wr (Reg.surf_FENCE surface) value).surfaceTouched surface)

/-- R200, R206: a word of a Folio's coefficient table. -/
def execCoeffTableWrite (folio : Fin 64) (word : Fin 448) (value : BitVec 32) (s : State) : Result :=
  s.rowWrite (0x310000 + 0x800 * folio.val) fun s =>
  let f := folio.val
  let s := s.wr (Reg.coef_COEF f word) value
  let table := (List.range (s.dryCount f)).any fun p =>
    s.act (R.pane_SCALE_FILTER_H f p) == 3 || s.act (R.pane_SCALE_FILTER_V f p) == 3
  .next (if s.folioOn f && table then s.dryInvalid f else s)

/-- R210, R213: `periods` is the time to the next switching point in audio sample periods. -/
def execCommitArm (folio : Fin 64) (periods : Nat) (s : State) : Result :=
  .next (s.folioWrite folio fun s => s.commitArm folio periods)

/-- R213. -/
def execCommitDisarm (folio : Fin 64) (s : State) : Result := .next (s.folioWrite folio fun s => s.commitClear folio)

/-- R209. -/
def execCommitRevert (folio : Fin 64) (s : State) : Result :=
  .next (s.folioWrite folio fun s =>
    s.each ((List.range 8).flatMap (paneStaged folio) ++ folioStaged folio) fun s a => s.wr a (s.rd (a + 0x1000)))

/-- R209. -/
def execStageHoldWrite (folio : Fin 64) (hold : Bool) (s : State) : Result :=
  .next (s.folioWrite folio fun s => s.put (R.folio_COMMIT_STAGE_HOLD folio) (if hold then 1 else 0))

/-- Hold ends (R249). -/
def State.holdExit (s : State) (f : Nat) : State :=
  let x := s.folio f
  let lapsed := !s.on (R.folio_HOLD_CTRL_REQ f) && !(s.on (R.folio_HOLD_CTRL_AUTO f) && s.longStatic f && s.frameStatic f)
  let ends := lapsed || s.on (R.folio_COMMIT_STATUS_ARMED f) || x.holdEnd || x.sealDue.isSome
    || !(s.folioPorts f).all fun n => s.rasynOut n && s.isUp n
  if s.raster f = .hold ∧ ends = true then
    let s := (s.setRaster f .run).modFolio f fun x => { x with holdAsked := false, holdEnd := false, still := 0 }
    (s.tellHold f 0).raise (Flag.folio_RASTER_HOLD_EXIT f)
  else s

/-- Display-timed mode at a switching point: whether it is asked for and possible (R245). -/
def State.dispTimedFits (s : State) (f : Nat) : Bool :=
  let b := s.get (R.folio_CFG_PORT_B f)
  s.on (R.folio_CFG_DISP_TIMED_OK f) && s.displayCan (s.get (R.folio_CFG_PORT_A f)) 2 && (b == 0xFF || s.rasynOut b)

/-- Display-timed mode is entered, left or refused; leaving asks for a jump of `realign` pixel clocks (R241, R245). A refusal is raised
once for each time that the mode is asked for. -/
def State.dispTimedStep (s : State) (f : Nat) (applied : Bool) (realign : Int) : Option Int × State :=
  let asked := s.act (R.folio_TIMING_MODE_DISP_TIMED f) == 1
  let was := s.on (R.folio_RASTER_STATUS_DISP_TIMED_ACTIVE f)
  let fits := s.dispTimedFits f
  let judged := (s.folio f).dtJudged
  let s := s.modFolio f fun x => { x with dtJudged := asked }
  let set (v : Nat) (s : State) : State := s.put (R.folio_RASTER_STATUS_DISP_TIMED_ACTIVE f) v
  if asked && fits then
    if was then (none, s)
    else (none, ((set 1 s).put (R.folio_RASTER_PHASE f) 0).modFolio f fun x => { x with disp := 0, misses := 0, report := false, teLost := false })
  else
    let s := s.raiseIf (asked && (was || applied || !judged)) (Flag.folio_RASTER_DT_REFUSED f)
    if was then (some realign, set 0 s) else (none, s)

/-- R210, R225, R239, R241, R245, R249: the switching point of a running raster. `nextPeriods` is the time to the next one in audio
sample periods, `realign` the raster's distance ahead of its R62 target, used when display-timed mode ends. -/
def execSwitchingPoint (folio : Fin 64) (nextPeriods : Nat) (realign : Int) (s : State) : Result :=
  let f := folio.val
  let t := s.timing f
  if s.folioUp f ∧ s.rasterRuns f = true ∧ (s.folio f).waiting = false
      ∧ s.get (R.folio_RASTER_STATUS_LINE f) = s.switchLine f t then
    let s := (s.holdExit f).sealTakes f
    let off := s.offsetClocks f
    let seq := s.get (R.folio_COMMIT_STATUS_COMMIT_SEQ f)
    let s := if s.raster f = .run then s.commitPoint f else s
    let applied := s.get (R.folio_COMMIT_STATUS_COMMIT_SEQ f) != seq
    let moved : Option Int := if applied && s.offsetClocks f != off then some ((s.folio f).disp - (s.offsetClocks f - off)) else none
    let (left, s) := if s.raster f = .run then s.dispTimedStep f applied realign else (none, s)
    let dt := s.on (R.folio_RASTER_STATUS_DISP_TIMED_ACTIVE f)
    let t := s.timing f
    let r := s.rulingFormat
    let snap : Option Int := if dt then none
      else (s.folio f).snap.map fun k =>
        roundHalf ((k : Rat) * ((t.num * t.hTotal * t.vTotal * r.den : Nat) : Rat) / ((t.den * r.num * r.lines : Nat) : Rat))
    let s := s.modFolio f fun x => { x with snap := none }
    let exact := (if dt then none else moved).orElse fun _ => left
    let s := match exact, snap with
      | some a, some b => s.jump f (a + b) true
      | some a, none => s.jump f a true
      | none, some b => s.jump f b false
      | none, none => s
    let s := s.raiseIf snap.isSome (Flag.folio_RASTER_SNAP_ADJUST f)
    let s := (s.settleTakes f).setSpPeriods f nextPeriods
    .next (if s.on (R.folio_COMMIT_STATUS_ARMED f) then s.planTakes f nextPeriods else s)
  else .next s

/-- R206, R215: the frame has left the Folio. -/
def execRetireAdvance (folio : Fin 64) (s : State) : Result :=
  let f := folio.val
  let t := s.timing f
  let x := s.folio f
  let line := s.get (R.folio_RASTER_STATUS_LINE f)
  if s.folioUp f ∧ x.began = true ∧ (t.lastActive ≤ line ∨ line < t.fetchLine) then
    let s := s.unpinFolio f
    let s := s.each x.margins fun s m =>
      let v (i : Int) : Nat := min i.toNat 0xFFFF
      (s.put (R.pane_CUT_MARGIN_MIN f m.1) (v m.2.1)).put (R.pane_CUT_MARGIN_MAX f m.1) (v m.2.2.1)
    let s := if x.dry = 2 then
        if x.dryBad || x.underran then s.raise (Flag.folio_DRY_INVALID f)
        else ((s.put (R.folio_DRY_STATUS_VALID f) 1).bump (R.folio_DRY_REBUILDS f)).raise (Flag.folio_DRY_REBUILT f)
      else s
    let s := s.retire f
    let s := s.modFolio f fun x => { x with began := false, rows := [] }
    if s.raster f = .changing then
      .next ((s.stopFetching f).modFolio f fun x => { x with gap := true })
    else .next s
  else .next s

end Sys2Proof.Machine
end

