-- ==== Sys2Proof/Machine/Line.lean ====
section
/-!
DEFINITION. The Ruling's lines and frame boundaries, the event queue's dispatch, TIME markers and the synthesizer outputs
(01_ruling.md R37 to R64).
-/
namespace Sys2Proof.Machine
open Sys2Proof

/-! ### Synthesizer outputs -/

/-- What a change of the divider or the enable of an output means to its consumers: a running raster goes back to WAIT_START
(08_raster_out.md R236), a transmitter turns off (04_sdi_ports.md R134). -/
def State.clockChanged (s : State) (y o : Nat) : State :=
  let ports := (List.range 96).filter fun n =>
    s.sdiOut n && (s.sdi n == .txRun || s.sdi n == .txBlack) && s.get (R.port_SDI_CFG_TX_REF_SYN n) == y
      && s.get (R.port_SDI_CFG_TX_REF_OUT n) == o
  let folios := (List.range 64).filter fun f => s.folioUp f && s.rasterRuns f && (s.timing f).syn == y && (s.timing f).out == o
  let s := s.each folios fun s f => ((s.discardChange f).stopFetching f).rasterWaits f
  s.each ports fun s n => (s.setSdi n .txOff).raise (Flag.port_SDI_TX_REF_MISMATCH n)

/-- R37, R39: a write that leaves EN and DIV as they are has no effect; a new divider takes effect by DIV_CHANGE_APPLY, at once where
the output does not run (log entry 67). -/
def execSynOutCtrlWrite (syn : Fin 2) (out : Fin 8) (en : Bool) (div : BitVec 10) (s : State) : Result :=
  s.rowWrite (Reg.clock_OUT_CTRL syn out) fun s =>
  let y := syn.val
  let o := out.val
  let was := s.on (R.clock_OUT_CTRL_EN y o)
  let same := s.get (R.clock_OUT_CTRL_DIV y o) == div.toNat
  if (was == en) && same then .next s
  else
    let s := (s.put (R.clock_OUT_CTRL_EN y o) (if en then 1 else 0)).put (R.clock_OUT_CTRL_DIV y o) div.toNat
    let s := s.put (R.clock_OUT_CTRL_SYNC_PENDING y o) (if en then 1 else 0)
    let x := s.synOut y o
    let s := s.setSynOut y o (if was && en then x else ⟨false, div.toNat⟩)
    .next (s.clockChanged y o)

/-- At a frame boundary outputs start, and phases are settled again (R37, R39). -/
def State.clocksBoundary (s : State) : State :=
  s.each (List.range 16) fun s k =>
    let y := k / 8
    let o := k % 8
    if s.on (R.clock_CTRL_EN y) && s.on (R.clock_OUT_CTRL_EN y o) && s.on (R.clock_OUT_CTRL_SYNC_PENDING y o) then
      (s.put (R.clock_OUT_CTRL_SYNC_PENDING y o) 0).setSynOut y o { s.synOut y o with running := true }
    else s

/-! ### Dispatch (R53, R54) -/

/-- A COMMIT of one Folio: armed, or cleared at once in a quiesced cluster (02_fabric_image.md R84). -/
def State.dispatchCommit (s : State) (periods : List Nat) (f : Nat) : State :=
  if s.quiesced (32 + f / 8) && s.folioOn f then (s.put (R.folio_COMMIT_STATUS_ARMED f) 1).commitClear f
  else if s.folioUp f then s.commitArm f (periods.getD f 0)
  else s

/-- The Folios of a salvo group. -/
def State.salvo (s : State) (g : Nat) : List Nat :=
  (List.range 64).filter fun f =>
    if f < 32 then (s.rd (Reg.ruling_SALVO_GRP_LO g)).getLsbD f else (s.rd (Reg.ruling_SALVO_GRP_HI g)).getLsbD (f - 32)

/-- The effect of an entry at its dispatch (R53). -/
def State.dispatch (s : State) (periods : List Nat) (e : EvqEntry) : State :=
  match e.action with
  | 1 => s.dispatchCommit periods (getBits e.target 5 0)
  | 2 => s.each ((s.salvo (getBits e.target 3 0)).filter fun f => !s.quiesced (32 + f / 8)) fun s f => s.dispatchCommit periods f
  | 3 => s.armBank
  | 4 => s.setBase e.target true
  | 5 => s.setBase e.target false
  | 6 => s.startPulse e.target (e.param.toNat % 65536)
  | 7 => s.cellarMark (getBits e.target 7 0) (e.param.toNat % 65536)
  | 8 => (s.wr Reg.ruling_EVQ_USER_TAG (BitVec.ofNat 32 (getBits e.target 7 0))).raise Flag.ruling_EVQ_USER
  | _ => s

/-- Whether an entry is dispatched at the line that begins (R54, R58, R59). -/
def EvqEntry.due (e : EvqEntry) (frame line : Nat) : Bool :=
  match e.late with
  | .onTime => decide (e.frame < frame) || (e.frame == frame && decide (e.line ≤ line))
  | .nextLine => true
  | .nextFrame => line == 1

/-- The dispatch order: target frame, target line, order of acceptance (R54). -/
def EvqEntry.before (a b : EvqEntry) : Bool :=
  if a.frame ≠ b.frame then decide (a.frame < b.frame)
  else if a.line ≠ b.line then decide (a.line < b.line)
  else decide (a.order < b.order)

/-- An entry placed into a list in dispatch order. -/
def insertEntry (e : EvqEntry) : List EvqEntry → List EvqEntry
  | [] => [e]
  | x :: l => if e.before x then e :: x :: l else x :: insertEntry e l

/-- The dispatch of a line that is not inserted. -/
def State.dispatchLine (s : State) (periods : List Nat) : State :=
  let due (e : EvqEntry) : Bool := e.due s.ruling.frame s.ruling.line
  let now := ((s.evq.entries.filter due).foldl (fun l e => insertEntry e l) [])
  if now.isEmpty then s
  else
    let s := s.setEvq { s.evq with entries := s.evq.entries.filter fun e => !due e }
    s.each now fun s e => s.dispatch periods e

/-! ### Frame boundaries -/

/-- The TIME marker of a port at line 1 (R49, R63; 03_rasyn_link.md R109, R110). -/
def State.timeMarker (s : State) (n : Nat) : State :=
  if s.rasynIn n && s.clusterUp (n / 4) && s.on (R.port_PORT_CFG_GENLOCK_OK n) && s.on (R.port_GENLOCK_CTRL_EN n) && s.bcUp n then
    let f := s.rulingFormat
    let k : Int := match s.ruling.adjust with | some a => if a.running then a.lines else 0 | none => 0
    let flags := (if k = 0 then 0 else 1) + (if s.ruling.stepInFrame = 0 then 0 else 2) + 4
    let seen := !(s.port n).echoes.isEmpty
    let ns : Rat := ((s.get (R.port_GENLOCK_CTRL_TARGET_LINE n) : Rat) - 1) * f.lineNs
    let field (r : Rat) : Nat := twos 32 (fieldInt 32 false r)
    (s.sendPacket n 7 0 (leBytes 1 0 ++ leBytes 1 flags ++ leBytes 2 (twos 16 (-k)) ++ leBytes 4 s.ruling.frame
      ++ leBytes 2 (Config.markerPhase s.freeCount % 65) ++ leBytes 2 (if seen then s.get (R.port_DELAYS_DELAY_B n) else 0)
      ++ leBytes 2 (if seen then s.get (R.port_DELAYS_DELAY_F n) else 0) ++ leBytes 2 0 ++ leBytes 4 (field ns)
      ++ leBytes 4 (field (f.lineNs * 1000)))).drawn
  else s

/-- MANUAL_SRC names XO and is used (R32). -/
def State.manualXo (s : State) : Bool := s.manualMode && s.get R.ruling_CTRL_MANUAL_SRC == 3

/-- The end of an adjusted frame (R32, R47, R51, R59, R64); `old` is its frame count. -/
def State.adjustEnds (s : State) (old : Nat) (a : Adjust) : State :=
  let s := if 0 < a.lines then s.lateUpTo old s.rulingFormat.lines .nextFrame else s
  let s := (s.raise Flag.ruling_SNAP).modRuling fun u => { u with adjust := none }
  let s := match a.after with
    | .coast y => if s.manualXo then s.enterFree else (s.enterCoast y).leaveCoast
    | .acquire c => if s.manualXo then s.enterFree else s.enterAcquire c
    | .resume =>
      if s.manualXo then s.enterFree
      else (s.startSlew a.residual a.rate).modRuling fun u => { u with slewFrom := some u.lineTotal }
  s.genlockReset

/-- A declared adjustment begins with this frame: every running raster absorbs it (R47, R48). -/
def State.adjustBegins (s : State) (a : Adjust) : State :=
  let s := s.modRuling fun u => { u with adjust := some { a with running := true } }
  s.each ((List.range 64).filter fun f => s.folioUp f && s.rasterRuns f) fun s f => s.modFolio f fun x => { x with snap := some a.lines }

/-- A count step at a frame boundary (R45, R59, R64). -/
def State.countStep (s : State) (n : Int) : State :=
  let frame := (((s.ruling.frame : Int) + n) % (2 ^ 48 : Int)).toNat
  let s := (s.modRuling fun u => { u with frame := frame, countStep := none, stepInFrame := n }).raise Flag.ruling_COUNT_STEP
  let s := if 0 < n then s.lateUpTo (frame - 1) s.rulingFormat.lines .nextFrame else s
  s.genlockReset

/-- Audio periods from the present Ruling frame boundary to the next (R36). -/
def State.frameSamples (s : State) : Nat :=
  let r := s.rulingFormat
  let at' (n : Nat) : Nat := n * 48000 * r.den / r.num
  at' (s.ruling.frame + 1) - at' s.ruling.frame

/-- What the rest of the device does at a frame boundary: links, recorder, clocks, and the Folios whose raster does not run
(R37, R213, R235; 09_audio_marginalia.md R269, R270). -/
def State.unitsBoundary (s : State) : State :=
  let s := s.clocksBoundary.portsBoundary.cellarBoundary
  s.each ((List.range 64).filter fun f => s.folioUp f && !s.rasterRuns f) fun s f =>
    let s := s.raiseIf (s.raster f == .waitStart && s.act (R.folio_TIMING_MODE_RUN f) == 1 && !s.clkGood (s.timing f))
      (Flag.folio_RASTER_CLK_MISMATCH f)
    let s := ((s.commitPoint f).settleTakes f).setSpPeriods f s.frameSamples
    if s.on (R.folio_COMMIT_STATUS_ARMED f) then s.planTakes f s.frameSamples else s

/-- Whether the rest of the device is powered: in STANDBY, and until its resume, only the position goes on (R61). -/
def State.unitsRun (s : State) : Bool := let st := s.get R.power_PWR_STATE_STATE; st != 2 && st != 4

/-- Line 1 of the next frame. -/
def State.frameBoundary (s : State) : State :=
  let old := s.ruling.frame
  let s := s.modRuling fun u =>
    { u with frame := (u.frame + 1) % 2 ^ 48, line := 1, inserted := false, insertedLeft := 0, stepInFrame := 0 }
  let s := match s.ruling.adjust with
    | some a => if a.running then s.adjustEnds old a else s.adjustBegins a
    | none => s
  let s := match s.ruling.countStep with
    | some n => s.countStep n
    | none => s
  if s.unitsRun then s.unitsBoundary.each (List.range 96) fun s n => s.timeMarker n else s

/-- The position moves to the next line: after the last line number of the frame come its inserted lines, then the next frame
(R47). The result says whether the line is an inserted one. -/
def State.nextRulingLine (s : State) : State :=
  let u := s.ruling
  let lines := s.rulingFormat.lines
  let k : Int := match u.adjust with | some a => if a.running then a.lines else 0 | none => 0
  let last := lines - k.toNat
  let s := s.modRuling fun u => { u with lineTotal := u.lineTotal + 1, frac := 0 }
  if u.inserted then
    if u.insertedLeft = 0 then s.frameBoundary else s.modRuling fun u => { u with insertedLeft := u.insertedLeft - 1 }
  else if last ≤ u.line then
    if k < 0 then s.modRuling fun u => { u with inserted := true, insertedLeft := (-k).toNat - 1 } else s.frameBoundary
  else s.modRuling fun u => { u with line := u.line + 1 }

/-- R54: a Ruling line begins; `periods` gives per Folio the audio sample periods to its next switching point, for the commits it
arms. The position goes on while D05 is powered, in STANDBY, and on the way out of it (R61; 14_power_thermal.md R414). -/
def execRulingLineStart (periods : List Nat) (s : State) : Result :=
  let st := s.get R.power_PWR_STATE_STATE
  if s.domainOn 5 = false ∧ st ≠ 2 ∧ st ≠ 4 then .next s
  else
  let s := s.nextRulingLine
  let s := if s.loop = .coast then s.put R.ruling_STATUS_COAST_S (min 0xFFFF s.coastSeconds) else s
  .next (if s.ruling.inserted || !s.unitsRun then s else s.dispatchLine periods)

end Sys2Proof.Machine
end

