-- ==== Sys2Proof/Machine/Memory.lean ====
section
/-!
DEFINITION. The commands of the stream memory fabric (10_stream_memory.md R285 to R306). The end of training, which releases
units, is in Boot.lean.
-/
namespace Sys2Proof.Machine
open Sys2Proof

/-- R285 to R294, R303: one access of a requester port (22 for one that is not metered). `slots` is the number of slots that have passed
since the last access, `ns` a class-0 request's latency or the time another one takes for row changes and turnaround, and `upsets`
what struck the words since. -/
def execMemoryAccess (kind : Fin 10) (write : Bool) (cls : Fin 4) (addr : BitVec 35) (len : Nat) (data : List Byte)
    (upsets : List (Nat × Bool)) (ns : Nat) (port : Fin 23) (slots : Nat) (s : State) : Result :=
  let s := (s.strike upsets).passSlots slots
  let s := if cls = 0 then
      (s.put R.memory_CL0_LAT_MAX (max (s.get R.memory_CL0_LAT_MAX) (min ns (2 ^ 32 - 1)))).modMem fun m => { m with latSecond := max m.latSecond ns }
    else s
  .next (s.memAccess { kind := kind, write := write, cls := cls, addr := addr.toNat, len := len, data := data, port := port,
                       ns := if cls = 0 then 0 else ns })

/-- R289, R344: a host access through BAR2, class 3. -/
def execBar2Access (write : Bool) (offset : Nat) (len : Nat) (data : List Byte) (upsets : List (Nat × Bool)) (s : State) : Result :=
  let s := s.strike upsets
  let a := (s.get R.memory_BAR2_WIN_BASE * 65536 + offset) % memSize
  .next (s.memAccess { kind := 6, write := write, cls := 3, addr := a, len := len, data := data, ns := Config.rowTime a len })

/-- R293, R296, R297: the end of a 10 µs window: a class whose requests still wait is shed; the next window has the present band's
entitlements. -/
def execClassWindowEnd (s : State) : Result :=
  let rest := s.windowRest
  let shed (c : Nat) : Bool := rest.any fun q => q.1 == c && decide (0 < q.2.2)
  let any := shed 1 || shed 2 || shed 3
  let zero := s.demand 0 - min windowTime (s.demand 0)
  let s := s.each [1, 2, 3] fun s c =>
    let s := s.put (R.memory_CLASS_CFG_SHED c) (if shed c then 1 else 0)
    if shed c then s.bumpBy (R.memory_CLASS_SHED_US c) 10 else s
  let s := s.raiseIf (any && !s.mem.shedBefore) Flag.memory_SHED
  let s := s.modMem fun m =>
    { m with shedBefore := any, charge := [], windows := m.windows + 1, windowBand := s.get R.memory_STATUS_BAND,
             backlog := ((0, 0, zero) :: rest).foldl (fun l q => Sparse.set (fun _ => (0 : Rat)) l q.1 q.2.2) [] }
  if s.mem.windows < 100 then .next s
  else
    let s := s.each [0, 1, 2, 3] fun s c =>
      s.put (R.memory_CLASS_USE c) (Sparse.get (fun _ => 0) s.mem.served c * 8 / 1000)
    .next (s.modMem fun m => { m with windows := 0, served := [] })

/-- R294: the end of a requester port's 1 ms window: ports 0 to 7 ingest, 8 and 9 motion, 10 to 17 Folio clusters, 18 to 21 codec
clusters. -/
def execCl0MeterWindow (port : Fin 22) (s : State) : Result :=
  let moved := Sparse.get (fun _ => 0) s.mem.metered port.val
  let s := s.modMem fun m => { m with metered := Sparse.erase m.metered port.val }
  if Sparse.get (fun _ => 0) s.mem.admitted port.val + 65536 < moved then
    .next ((s.bump R.memory_CL0_EXCESS).raise Flag.memory_CL0_EXCESS)
  else .next s

/-- The class of a scrub access (R288): class 0 in regions of KIND 01h, 03h and 04h, else 3. -/
def State.scrubClass (s : State) (w : Nat) : Nat :=
  if s.fabric.now.regions.any fun r => [1, 3, 4].contains r.kind && decide (r.base * 65536 ≤ 32 * w)
      && decide (32 * w < (r.base + r.size) * 65536) then 0 else 3

/-- R288: the next word in address order; a corrected one is written back, an uncorrectable one is logged. A class-0 access takes a
credit of its channel (R292). -/
def execScrubStep (upsets : List (Nat × Bool)) (s : State) : Result :=
  let s := s.strike upsets
  if s.on R.memory_SCRUB_CFG_EN && s.memUp then
    let w := s.mem.scrubWord
    let cls := s.scrubClass w
    let s := if cls = 0 then (s.enqueue0 (channelOf (32 * w))).2 else s
    let s := s.useMem 22 cls 32 (reqTime 32 0)
    let (poison, s) := s.eccRead w 1
    let s := if poison then s else s.setWordEcc w .good
    let n := (w + 1) % 2 ^ 30
    let s := (s.modMem fun m => { m with scrubWord := n }).put R.memory_SCRUB_POS_POS (n * 32 / 65536)
    .next (if n = 0 then (s.bump R.memory_SCRUB_PASSES).raise Flag.memory_SCRUB_DONE else s)
  else .next s

/-- A drift-tracking sample of every channel is taken, each with a class-0 credit (R292, R299). -/
def State.sampleChannels (s : State) : State :=
  let s := s.each (List.range 32) fun s c => (s.enqueue0 c).2
  s.modMem fun m =>
    { m with samples := (List.range 32).foldl (fun l c => Sparse.set (fun _ => 0) l c (Sparse.get (fun _ => 0) l c + 1)) m.samples }

/-- R299: one sample per channel; `windows` gives each channel's measured window in 1/64 unit interval. -/
def execDriftSample (windows : List (BitVec 8)) (s : State) : Result :=
  if s.on R.memory_STATUS_TRAINED && s.get R.memory_STATUS_PD_STATE == 0 then
    let least := s.get R.memory_DRIFT_CFG_MIN_WIN
    let low (c : Nat) : Bool := decide ((windows.getD c 255).toNat < least)
    let mask := (List.range 32).foldl (fun n c => if low c then n + 2 ^ c else n) 0
    let s := s.put R.memory_DRIFT_STATUS_LOW mask
    let s := s.raiseIf (mask != 0) Flag.memory_DRIFT_MARGIN
    let s := s.sampleChannels
    let full := (List.range 32).all fun c => decide (8 ≤ Sparse.get (fun _ => 0) s.mem.samples c)
    .next (s.put R.memory_STATUS_DRIFT_FULL (if full then 1 else 0))
  else .next s

/-- R300. -/
def execWarmupEnd (s : State) : Result :=
  .next (if s.on R.memory_STATUS_WARMUP then (s.put R.memory_STATUS_WARMUP 0).raise Flag.memory_WARMUP_END else s)

/-- Whether a motion unit, a codec engine or the Cellar has work that needs memory. -/
def State.unitsBusy (s : State) : Bool :=
  s.mots.any (fun m => m.2.running.isSome || !m.2.queue.isEmpty) || !s.cellar.engines.isEmpty || s.cellar.ring.any fun r => r.st == 1

/-- T_min in µs, none without a need: 0 while a unit has work, else the smallest of the Folios' reports (08_raster_out.md R250) and of
the other units' `others` (R301). -/
def State.tMin (s : State) (others : Option Nat) : Option Nat :=
  if s.unitsBusy then some 0
  else
    ((List.range 64).filter s.folioOn).foldl (fun t f =>
      let v := s.get (R.folio_LTR_STATUS_TOL f)
      if v = 0xFFFF then t else some (match t with | none => v | some m => min m v)) others

/-- R301: `others` is the smallest report in µs of the ingest clusters and the audio engine (none: no need), and `idle` says that no access
was made for 1 µs. DEEP can follow LIGHT. -/
def execPdEnter (others : Option Nat) (idle : Bool) (s : State) : Result :=
  let tMinUs := s.tMin others
  let s := s.put R.memory_PD_STATUS_T_MIN (match tMinUs with | none => 0xFFFF | some t => min t 0xFFFE)
  let light := s.get R.memory_STATUS_PD_STATE == 1
  if s.memUp || (s.on R.memory_STATUS_TRAINED && light) then
    let guard := s.get R.memory_PD_CFG_GUARD_US
    let room (k : Nat) : Bool := match tMinUs with | none => true | some t => decide (k + guard ≤ t)
    if s.on R.memory_PD_CFG_DEEP_EN && room 60 then
      .next ((s.put R.memory_STATUS_PD_STATE 2).bump R.memory_PD_DEEP)
    else if !light && s.on R.memory_PD_CFG_LIGHT_EN && room 2 && idle then
      .next ((s.put R.memory_STATUS_PD_STATE 1).bump R.memory_PD_LIGHT)
    else .next s
  else .next s

/-- R301, R302: the memory is up again and serves what waited; the exit from DEEP includes a drift sample (R299). -/
def execPdExit (s : State) : Result :=
  let st := s.get R.memory_STATUS_PD_STATE
  if st = 0 then .next s
  else
    let s := s.put R.memory_STATUS_PD_STATE 0
    let s := if st = 2 then s.sampleChannels else s
    let h := s.mem.held
    .next ((s.modMem fun m => { m with held := [] }).each h State.memServe)

/-- R506 and CTRL.CLR_CNT: 080h to 0C8h and the VALID bits are zeroed; bit i of `hits` keeps counter i at 1, and a record made
in that cycle is kept. -/
def execMemoryClrCnt (hits : BitVec 32) (keepUe keepFw : Bool) (s : State) : Result :=
  s.rowWrite Reg.memory_CTRL fun s =>
  let fs := [R.memory_CL0_LAT_MAX, R.memory_CL0_QFULL, R.memory_CL0_EXCESS, R.memory_ECC_CORR, R.memory_ECC_UNCORR]
    ++ (List.range 10).map R.memory_FW_VIOL
  let s := s.each fs.zipIdx fun s p => s.put p.1 (if hits.getLsbD p.2 then 1 else 0)
  let s := if keepUe then s else (s.wr Reg.memory_UE_ADDR_LO 0).wr Reg.memory_UE_ADDR_HI 0
  .next (if keepFw then s else s.wr Reg.memory_FW_LAST 0)

end Sys2Proof.Machine
end

