-- ==== Sys2Proof/Machine/RegAccess.lean ====
section
/-!
DEFINITION. Access to the register map from a bus: what a read returns, and what a write of a field does by its access type (00_scope.md R7 to R12).
-/
namespace Sys2Proof.Machine
open Sys2Proof

/-! ### Interrupt levels (R346) -/

def State.pendOf (s : State) (status enable : Nat) : Bool := s.rd status &&& s.rd enable != 0

/-- The level of interrupt source `k` (R346); a powered-down domain holds it inactive (14_power_thermal.md R407). -/
def State.irqLevel (s : State) (k : Nat) : Bool :=
  let p (st en : Nat) : Bool := s.domainOn (s.domainOfAddr st) && s.pendOf st en
  if k = 0 then p Reg.ruling_INT_STATUS Reg.ruling_INT_EN
  else if k = 1 then p Reg.fabric_INT_STATUS Reg.fabric_INT_EN
  else if k = 2 then p Reg.memory_INT_STATUS Reg.memory_INT_EN
  else if k = 3 then p Reg.audio_INT_STATUS Reg.audio_INT_EN
  else if k = 4 then p Reg.marginalia_INT_STATUS Reg.marginalia_INT_EN
  else if k = 5 then p Reg.marginalia_ZONE_STATUS_LO Reg.marginalia_ZONE_EN_LO || p Reg.marginalia_ZONE_STATUS_HI Reg.marginalia_ZONE_EN_HI
  else if k = 6 then p Reg.cellar_INT_STATUS Reg.cellar_INT_EN
  else if k = 7 then p Reg.strongroom_INT_STATUS Reg.strongroom_INT_EN
  else if k = 8 then p Reg.power_INT_STATUS Reg.power_INT_EN
  else if k = 9 then p Reg.blotter_INT_STATUS Reg.blotter_INT_EN || p Reg.blotter_ATTIC_INT_STATUS Reg.blotter_ATTIC_INT_EN
  else if k = 10 then p Reg.hostif_INT_STATUS Reg.hostif_INT_EN
  else if k = 11 then p Reg.sysif_INT_STATUS Reg.sysif_INT_EN
  else if k = 12 ∨ k = 13 then p (Reg.mot_INT_STATUS (k - 12)) (Reg.mot_INT_EN (k - 12))
  else if 16 ≤ k ∧ k ≤ 23 then p (Reg.ingest_INT_STATUS (k - 16)) (Reg.ingest_INT_EN (k - 16))
  else if 32 ≤ k ∧ k ≤ 63 then p (Reg.codec_INT_STATUS (k - 32)) (Reg.codec_INT_EN (k - 32))
  else if 64 ≤ k ∧ k ≤ 159 then
    p (Reg.port_INT_STATUS (k - 64)) (Reg.port_INT_EN (k - 64)) || p (Reg.port_SDI_INT_STATUS (k - 64)) (Reg.port_SDI_INT_EN (k - 64))
  else if 160 ≤ k ∧ k ≤ 223 then
    let f := k - 160
    p (Reg.folio_INT_STATUS f) (Reg.folio_INT_EN f) || p (Reg.folio_RASTER_INT_STATUS f) (Reg.folio_RASTER_INT_EN f)
      || p (Reg.folio_SEAL_INT_STATUS f) (Reg.folio_SEAL_INT_EN f)
      || (List.range 8).any fun i => p (Reg.pane_INT_STATUS f i) (Reg.pane_INT_EN f i)
  else if 256 ≤ k ∧ k ≤ 355 then (List.range 16).any fun i => p (Reg.stream_INT_STATUS (16 * (k - 256) + i)) (Reg.stream_INT_EN (16 * (k - 256) + i))
  else false

/-- The condition of vector `v` (R347). -/
def State.vectorCond (s : State) (v : Nat) : Bool :=
  (List.range 512).any fun k => s.on (R.hostif_IRQ_ROUTE_EN k) && s.get (R.hostif_IRQ_ROUTE_VECTOR k) == v && s.irqLevel k

/-- AUTO_REARM: a vector whose condition is 0 is armed again (R347). -/
def State.rearm (s : State) : State :=
  s.each (List.range 256) fun s v =>
    if s.on (R.hostif_VEC_CFG_AUTO_REARM v) && !s.on (R.hostif_VEC_CFG_ARMED v) && !s.vectorCond v then s.put (R.hostif_VEC_CFG_ARMED v) 1
    else s

/-! ### Reads -/

/-- A GPIO's logical value at its pin: 1 is the active level (R365). -/
def State.gpioLogical (s : State) (g : Nat) : Bool := s.gpio.pins.getLsbD g ^^ s.on (R.sysif_GPIO_CFG_POL g)

def bitsToWord (n : Nat) (f : Nat → Bool) : BitVec 32 :=
  (List.range n).foldl (fun (w : BitVec 32) i => if f i then w ||| (1#32 <<< i) else w) 0

/-- Registers whose value follows from other state. -/
def State.derivedWord (s : State) (a : Nat) : Option (BitVec 32) :=
  let h := s.hist (s.get R.blotter_HIST_SEL)
  let part := Sparse.get (fun _ => ([] : List Byte)) s.fabric.partials (s.get R.fabric_PART_SEL)
  if a = Reg.ruling_STATUS then some (setBits (s.rd a) 21 21 (if s.rastersActive then 1 else 0))
  else if a = Reg.global_FAULT_SRC then some (s.faultSrc.zeroExtend 32)
  else if a = Reg.sysif_GPIO_IN then some (bitsToWord 32 s.gpioLogical)
  else if a = Reg.blotter_CAL_NOW then some s.calNow
  else if 0x1F0240 ≤ a ∧ a < 0x1F0280 then some (BitVec.ofNat 32 (h.bins.getD ((a - 0x1F0240) / 4) 0))
  else if a = Reg.blotter_HIST_MIN then some (BitVec.ofInt 32 (h.min.getD 0))
  else if a = Reg.blotter_HIST_MAX then some (BitVec.ofInt 32 (h.max.getD 0))
  else if a = Reg.blotter_HIST_MAX_AT then some (BitVec.ofNat 32 h.maxAt)
  else if 0x2200A0 ≤ a ∧ a < 0x2200D0 then some (BitVec.ofNat 32 (leAt part (a - 0x2200A0) 4))
  else if 0x201800 ≤ a ∧ a < 0x201840 then some (bitsToWord 32 fun i => s.irqLevel (8 * (a - 0x201800) + i))
  else if 0x203000 ≤ a ∧ a < 0x203190 then
    some (bitsToWord 16 fun i =>
      let n := 4 * (a - 0x203000) + i
      s.pendOf (Reg.stream_INT_STATUS n) (Reg.stream_INT_EN n))
  else match blockAt a with
    | .stream n => if a = Reg.stream_AGE n then some (BitVec.ofNat 32 (s.streamAge n)) else none
    | .folio f =>
      let b := if (a - 0x100000) % 0x2000 < 0x1000 then a else a - 0x1000
      if b = Reg.folio_FENCE_READY f then
        some (bitsToWord 8 fun p =>
          !((s.get (R.folio_CTRL_WAIT_EN f)).testBit p && s.get (R.pane_SRC_KIND f p) == 2) || s.fenceSignalled f p)
      else if b = Reg.folio_SEAL_STATE f then some (setBits (s.rd b) 27 27 (if s.sealAccept then 1 else 0))
      else none
    | _ => none

/-- What a read of a register returns, without side effect; an address with no register reads 0 (R9). -/
def State.peek (s : State) (a : Nat) : BitVec 32 :=
  if s.regLive a then
    match regLookup a with
    | none => 0
    | some h => (s.derivedWord h.addr).getD (s.rd h.addr)
  else 0

/-- An entry of a port's receive mailbox is popped (R18, R19; 03_rasyn_link.md R108). -/
def State.rxPop (s : State) (n : Nat) : State :=
  match (s.port n).mailbox with
  | [] => (s.wr (Reg.port_RX_HDR n) 0).putBytes (Reg.port_RX_DATA n 0) (List.replicate 64 0)
  | e :: rest =>
    let s := s.modPort n fun p => { p with mailbox := rest }
    let w := setBits (setBits (setBits (setBits (setBits 0 31 31 1) 23 16 e.opcode) 15 12 e.vc) 11 8 e.kind) 6 0 e.data.length
    (s.wr (Reg.port_RX_HDR n) w).putBytes (Reg.port_RX_DATA n 0) (slice e.data 0 64)

/-- A read of the first word of a read-pop port takes its next entry (18_register_map.md, R18). -/
def State.popAt (s : State) (a : Nat) : State :=
  if s.regLive a then
    if a = Reg.cellar_DIR_HDR then s.dirPop
    else if a = Reg.blotter_RD_HDR then s.blotPop
    else match blockAt a with
      | .port n => if a = Reg.port_RX_HDR n then s.rxPop n else s
      | _ => s
  else s

/-- A read by the host or the management core: the value and the state after it. -/
def State.busRead (s : State) (a : Nat) : BitVec 32 × State := let s := s.popAt a; (s.peek a, s)

/-! ### Writes -/

/-- The bits of a word that a byte-enable mask writes (R7). -/
def byteMask (be : BitVec 4) : BitVec 32 :=
  (if be.getLsbD 3 then 0xFF#8 else 0) ++ (if be.getLsbD 2 then 0xFF#8 else 0) ++ (if be.getLsbD 1 then 0xFF#8 else 0)
    ++ (if be.getLsbD 0 then 0xFF#8 else 0)

/-- What a write of `v` to the enabled bits `m` does to a field of a word that held `w` (R8, R12); `mirror` says that the access came
through the active mirror. A write of one byte of an event counter lowers that byte alone, not below 0 (log entry 100). -/
def FieldRow.write (f : FieldRow) (mirror : Bool) (v m w : BitVec 32) : BitVec 32 :=
  let b := maskBits f.hi f.lo &&& m
  match f.acc with
  | .rw => (w &&& ~~~b) ||| (v &&& b)
  | .own => (w &&& ~~~b) ||| (v &&& b)
  | .rws => if mirror then w else (w &&& ~~~b) ||| (v &&& b)
  | .w1c => w &&& ~~~(v &&& b)
  | .w1s => w ||| (v &&& b)
  | .cnt => setBits w f.hi f.lo (getBits (w &&& ~~~m) f.hi f.lo + (getBits (w &&& m) f.hi f.lo - getBits (v &&& m) f.hi f.lo))
  | _ => w

/-- A register after a write of the fields whose access type `takes` admits. -/
def RegRow.write (r : RegRow) (takes : Access → Bool) (mirror : Bool) (v m w : BitVec 32) : BitVec 32 :=
  r.fields.foldl (fun w f => if takes f.acc then f.write mirror v m w else w) w

/-- A DMA channel's STATE as its registers have it (R349, R351). -/
def State.dmaShow (s : State) (c : Nat) : State :=
  if s.get (R.hostif_DMA_STATUS_STATE c) = 2 then s
  else s.put (R.hostif_DMA_STATUS_STATE c)
    (if s.on (R.hostif_DMA_CTRL_ENABLE c) && s.get (R.hostif_DMA_HEAD c) != s.get (R.hostif_DMA_TAIL c) then 1 else 0)

/-- What follows a write of a register besides the value it holds: LEVEL is not lowered while LOCK is 1 (15_attic_blotter.md R446),
CELLAR.CTRL.ENABLE acts, the Ruling's stream source is another, a channel runs, a vector is armed again. -/
def State.afterWrite (s : State) (a : Nat) (old : BitVec 32) : State :=
  let s := if a = Reg.blotter_ATTIC_BP ∧ old.getLsbD 31 = true ∧ s.get R.blotter_ATTIC_BP_LEVEL < getBits old 1 0 then
      s.put R.blotter_ATTIC_BP_LEVEL (getBits old 1 0)
    else if a = Reg.cellar_CTRL then s.cellarEnable
    else if a = Reg.ruling_STREAM_SRC then s.streamSrcChanged (getBits old 10 0)
    else s
  s.each (List.range 4) fun s c => if a = Reg.hostif_DMA_CTRL c then s.dmaShow c else s

/-- A write to a register whose block answers. -/
def State.writeWord (s : State) (takes : Access → Bool) (a : Nat) (v m : BitVec 32) : State :=
  match regLookup a with
  | none => s
  | some h =>
    let old := s.rd h.addr
    ((s.wr h.addr (h.row.write takes h.mirror v m old)).afterWrite h.addr old).rearm

/-- A write from the host, the management core or the debug port: dropped and counted in a quiesced cluster (02_fabric_image.md R84),
ignored by a block that does not answer (R357). -/
def State.regWrite (s : State) (takes : Access → Bool) (a : Nat) (v m : BitVec 32) : State :=
  if (s.clusterOfAddr a).any s.quiesced then s.bump R.fabric_WINDOW_DROP
  else if s.regLive a then s.writeWord takes a v m
  else s

/-- The fields a plain write acts on: those that no row of their own sets. -/
def plainAccess (k : Access) : Bool :=
  match k with | .rw => true | .rws => true | .w1c => true | .w1s => true | _ => false

end Sys2Proof.Machine
end

