-- ==== Sys2Proof/Machine/HostIf.lean ====
section
/-!
DEFINITION. The host endpoint: configuration, MSI-X vectors, DMA channels and function resets (12_host_control.md R341 to R352).
-/
namespace Sys2Proof.Machine
open Sys2Proof

/-- HOSTIF.ICX_ERR_CNT. -/
def icxErrCnt : Fld := ⟨0x2000CC, 31, 0⟩

/-! ### Interrupts -/

def pbaFld (v : Nat) : Fld := ⟨Reg.hostif_MSIX_PBA (v / 32), v % 32, v % 32⟩

/-- Whether a vector's messages wait in the PBA: masked, under the Function Mask, or no memory request is issued (R345, R347;
log entry 55 for MSI-X disabled). -/
def State.vectorMasked (s : State) (v : Nat) : Bool :=
  s.on (R.hostif_MSIX_VCTRL_MASK v) || s.host.functionMask || !s.on R.hostif_LINK_BME || !s.on R.hostif_LINK_MSIX_EN

/-- The vector's message goes out. -/
def State.sendMessage (s : State) (v : Nat) : State :=
  s.emit (.msix ((s.rd (Reg.hostif_MSIX_ADDR_LO v)).toNat + 2 ^ 32 * (s.rd (Reg.hostif_MSIX_ADDR_HI v)).toNat) (s.rd (Reg.hostif_MSIX_DATA v)))

/-- Messages that waited in the PBA go out once nothing masks them (R347). -/
def State.releasePba (s : State) : State :=
  s.each (List.range 256) fun s v =>
    if s.on (pbaFld v) && !s.vectorMasked v then (s.put (pbaFld v) 0).sendMessage v else s

/-- R347: an armed vector with its condition 1 and its holdoff run out signals. -/
def execMsixSignal (vector : Fin 256) (s : State) : Result :=
  let v := vector.val
  if s.vectorCond v && s.on (R.hostif_VEC_CFG_ARMED v) && !s.host.holdoff.contains v then
    let s := s.put (R.hostif_VEC_CFG_ARMED v) 0
    let s := if s.get (R.hostif_VEC_CFG_HOLDOFF_US v) = 0 then s else s.modHost fun h => { h with holdoff := v :: h.holdoff }
    .next (if s.vectorMasked v then s.put (pbaFld v) 1 else s.sendMessage v)
  else .next s

def execVectorHoldoffEnd (vector : Fin 256) (s : State) : Result :=
  .next (s.modHost fun h => { h with holdoff := h.holdoff.filter fun v => v != vector.val })

/-- R347, R348: the vector written is armed. -/
def execVecEoiWrite (vector : BitVec 8) (s : State) : Result :=
  .next (s.hostWrite Reg.hostif_VEC_EOI fun s => s.put (R.hostif_VEC_CFG_ARMED vector.toNat) 1)

/-- R347: a mask bit of the MSI-X table. -/
def execMsixVectorMaskWrite (vector : Fin 256) (mask : Bool) (s : State) : Result :=
  .next (s.hostWrite (Reg.hostif_MSIX_VCTRL vector) fun s =>
    (s.put (R.hostif_MSIX_VCTRL_MASK vector) (if mask then 1 else 0)).releasePba)

/-! ### Configuration and the link -/

/-- A BAR2 size takes effect once Memory Space Enable is 0 (R342). -/
def State.settleBar (s : State) : State :=
  match s.host.barPend with
  | none => s
  | some n => if s.host.memorySpace then s else (s.put R.hostif_BAR2_LOG2 n).modHost fun h => { h with barPend := none }

/-- R342, R347: 64 MiB to 32 GiB are sizes 2^26 to 2^35. -/
def execConfigurationRequest (what : ConfigWrite) (s : State) : Result :=
  match what with
  | .busMaster b => .next (s.put R.hostif_LINK_BME (if b then 1 else 0)).releasePba
  | .memorySpace b => .next (s.modHost fun h => { h with memorySpace := b }).settleBar
  | .barSize n => .next (s.modHost fun h => { h with barPend := some (26 + n) }).settleBar
  | .functionMask b => .next (s.modHost fun h => { h with functionMask := b }).releasePba
  | .msixEnable b => .next (s.put R.hostif_LINK_MSIX_EN (if b then 1 else 0)).releasePba

/-- R341: generation 1 to 5, 1 to 8 lanes; WAKE_N is released (17_package_electrical.md, pin table). -/
def execEndpointLinkUp (gen : Fin 5) (widthLog2 : Fin 4) (s : State) : Result :=
  let s := (s.put R.hostif_LINK_GEN (gen + 1)).put R.hostif_LINK_WIDTH (2 ^ widthLog2.val)
  .next (s.modPower fun p => { p with wakeN := false })

/-! ### DMA channels (R349 to R351) -/

/-- The ring's entry count: 2^4 to 2^12, other values act as 4. -/
def State.ringEntries (s : State) (c : Nat) : Nat :=
  let n := s.get (R.hostif_DMA_CTRL_RING_LOG2 c)
  2 ^ (if 4 ≤ n ∧ n ≤ 12 then n else 4)

/-- Where the STATUS of the descriptor at HEAD lies in host memory. -/
def State.descStatus (s : State) (c : Nat) : Nat :=
  (s.rd (Reg.hostif_DMA_RING_LO c)).toNat + 2 ^ 32 * (s.rd (Reg.hostif_DMA_RING_HI c)).toNat + 32 * s.get (R.hostif_DMA_HEAD c) + 28

/-- The channel has a descriptor to execute and its block answers. -/
def State.dmaRuns (s : State) (c : Nat) : Bool :=
  s.regLive (Reg.hostif_DMA_CTRL c) && s.get (R.hostif_DMA_STATUS_STATE c) == 1

/-- The descriptor completes with its STATUS written back (R349, R350). -/
def State.descDone (s : State) (c : Nat) (flags : BitVec 8) (status : Nat) : State :=
  let s := s.emit (.hostWrite (s.descStatus c) (leBytes 1 status))
  let s := (s.put (R.hostif_DMA_HEAD c) ((s.get (R.hostif_DMA_HEAD c) + 1) % s.ringEntries c)).bump (R.hostif_DMA_DESCS c)
  (s.raiseIf (flags.getLsbD 0) (Flag.hostif_DESC_DONE c)).dmaShow c

/-- HOST_ERROR (2) and BAD_DESC (5) stop the channel (R351); the STATUS is written back where requests are issued at all. -/
def State.descFails (s : State) (c status : Nat) : State :=
  let s := if s.on R.hostif_LINK_BME then s.emit (.hostWrite (s.descStatus c) (leBytes 1 status)) else s
  ((s.put (R.hostif_DMA_STATUS_STATE c) 2).put (R.hostif_DMA_STATUS_ERR c) status).raise (Flag.hostif_DMA_ERROR c)

/-- The next descriptor of a running channel; without Bus Master Enable its fetch fails at once (R345). -/
def State.descriptor (s : State) (c : Nat) (ok : Bool) (f : State → State) : State :=
  if s.dmaRuns c then
    if s.on R.hostif_LINK_BME && ok then f s else s.descFails c 2
  else s

/-- Whether a descriptor's stream memory range and length are such as R349 allows. -/
def descRange (addr len : Nat) : Bool := decide (1 ≤ len) && decide (len ≤ 16777216) && decide (addr + len ≤ memSize)

/-- Whether a firewall refuses some of an access of the host (R291). -/
def State.someRefused (s : State) (write : Bool) (addr len : Nat) : Bool :=
  (accessPieces 6 addr len).any fun p => !s.fwAllows 6 write p.1 p.2

def execDmaTailWrite (chan : Fin 4) (tail : BitVec 13) (s : State) : Result :=
  .next (s.hostWrite (Reg.hostif_DMA_TAIL chan) fun s => (s.put (R.hostif_DMA_TAIL chan) tail.toNat).dmaShow chan)

def execDmaNop (chan : Fin 4) (flags : BitVec 8) (ok : Bool) (s : State) : Result :=
  .next (s.descriptor chan ok fun s => s.descDone chan flags 1)

/-- H2S; an access waits while stream memory is down (10_stream_memory.md R302). -/
def execDmaH2s (chan : Fin 4) (dst : BitVec 64) (len : BitVec 32) (flags : BitVec 8) (data : Option (List (BitVec 8)))
    (s : State) : Result :=
  .next (s.descriptor chan true fun s =>
    if !descRange dst.toNat len.toNat then s.descFails chan 5
    else match data with
      | none => s.descFails chan 2
      | some bs =>
        if !s.memUp then s
        else
          let bs := slice bs 0 len.toNat
          let refused := s.someRefused true dst.toNat bs.length
          let s := (s.useMem 22 3 bs.length (reqTime bs.length (Config.rowTime dst.toNat bs.length))).memWrite 6 dst.toNat bs
          s.descDone chan flags (if refused then 3 else 1))

/-- S2H: poisoned words go to the host as zeros (R351). -/
def execDmaS2h (chan : Fin 4) (src dst : BitVec 64) (len : BitVec 32) (flags : BitVec 8) (ok : Bool) (s : State) : Result :=
  .next (s.descriptor chan true fun s =>
    if !descRange src.toNat len.toNat then s.descFails chan 5
    else if !ok then s.descFails chan 2
    else if !s.memUp then s
    else
      let refused := s.someRefused false src.toNat len.toNat
      let (bs, s) := (s.useMem 22 3 len.toNat (reqTime len.toNat (Config.rowTime src.toNat len.toNat))).memRead 6 src.toNat len.toNat
      let s := s.emit (.hostWrite dst.toNat (bs.map (·.1)))
      s.descDone chan flags (if refused then 3 else if bs.any (·.2) then 4 else 1))

/-- A channel is reset (R351). -/
def State.dmaReset (s : State) (c : Nat) : State :=
  ((s.put (R.hostif_DMA_HEAD c) 0).put (R.hostif_DMA_TAIL c) 0).put (R.hostif_DMA_STATUS_STATE c) 0

def execDmaReset (chan : Fin 4) (s : State) : Result :=
  .next (s.hostWrite (Reg.hostif_DMA_CTRL chan) fun s => s.dmaReset chan)

/-! ### Function resets and the interconnect's errors -/

/-- Registers in [lo, hi) take their reset values. -/
def State.resetRange (s : State) (lo hi : Nat) : State := { s with regs := s.regs.filter fun p => p.1 < lo || hi ≤ p.1 }

/-- R352: kinds 0 FLR, 1 hot reset, 2 link-down, 3 PERST_N; `burst` says that the bridge held a path mid-burst. An FLR leaves the
link as it is (log entry 56). -/
def execFunctionReset (kind : Fin 4) (burst : Bool) (s : State) : Result :=
  let resets := s.rd Reg.hostif_RESETS
  let link := s.rd Reg.hostif_LINK
  let s := (s.resetRange 0x200000 0x210000).wr Reg.hostif_RESETS resets
  let s := if kind.val = 0 then s.wr Reg.hostif_LINK (link &&& 0xFF000000) else s
  let s := s.modHost fun _ => {}
  let s := s.bump (if kind.val = 0 then R.hostif_RESETS_FLR else R.hostif_RESETS_HOT)
  let s := if burst then s.burstRescue else s
  .next (s.blotter 0x0801 kind (wordBytes (s.rd Reg.hostif_RESETS)))

def Master.code : Master → Nat | .core => 0 | .host => 1 | .strongroom => 2 | .blotter => 3 | .debug => 4

/-- The first timeout or decode error is recorded, each is counted (R356). -/
def State.icxError (s : State) (m : Master) (timeout write : Bool) (addr : Nat) : State :=
  let s := (s.bump icxErrCnt).raise Flag.hostif_ICX_ERR
  if s.on R.hostif_ICX_ERR_VALID then s
  else
    let w := setBits (setBits (setBits (setBits 0 31 31 1) 30 30 (if timeout then 1 else 0)) 29 27 (Master.code m)) 26 26
      (if write then 1 else 0)
    (s.wr Reg.hostif_ICX_ERR w).wr Reg.hostif_ICX_ERR_ADDR (BitVec.ofNat 32 addr)

/-- What the master sees of a transaction that ends in error: M1 answers a read with Completer Abort and drops a write, the others
see an error response with data 0 (R356). -/
def State.icxAnswerError (s : State) (m : Master) (write : Bool) (words : Nat) : State :=
  match m with
  | .host => if write then s else s.emit (.completion 4 [])
  | _ => s.emit (.icx m true (if write then [] else List.replicate words 0))

def execIcxTimeout (master : Master) (write : Bool) (addr : BitVec 32) (s : State) : Result :=
  .next ((s.icxError master true write addr.toNat).icxAnswerError master write 1)

/-- R506: 0C4h to 0D0h are zeroed; bit 0 of `hits` keeps an error count of that cycle, bit 1 a rescue, `keepErr` its record. -/
def execHostifClrCnt (hits : BitVec 2) (keepErr : Bool) (s : State) : Result :=
  .next (s.hostWrite Reg.hostif_CTRL fun s =>
    let s := (s.put icxErrCnt (if hits.getLsbD 0 then 1 else 0)).put R.hostif_BURST_RESCUES (if hits.getLsbD 1 then 1 else 0)
    if keepErr then s else (s.wr Reg.hostif_ICX_ERR 0).wr Reg.hostif_ICX_ERR_ADDR 0)

end Sys2Proof.Machine
end

