-- ==== Sys2Proof/Machine/Raster.lean ====
section
/-!
DEFINITION. The commands of the output rasters (08_raster_out.md R231, R237, R246 to R248, R251) and the audio packets of Rasyn outputs
(09_audio_marginalia.md R274).
-/
namespace Sys2Proof.Machine
open Sys2Proof

/-- R219, R231, R244: the next line of a running raster begins. `late` and `lateB` are the first pixels that are not ready when due at
PORT_A and PORT_B, `margins` the cut-through margins measured, `room` the ancillary words left after the payload ID. While the raster does
not run, its SDI ports that have sent a format send black (04_sdi_ports.md R135). -/
def execOutputLine (folio : Fin 64) (frac : BitVec 16) (late lateB : Option Nat) (margins : List (Nat × Int)) (room : Nat) (s : State) :
    Result :=
  let f := folio.val
  let x := s.folio f
  if s.folioUp f ∧ s.rasterRuns f = true ∧ x.waiting = false then
    let line := s.get (R.folio_RASTER_STATUS_LINE f)
    match x.nextLine with
    | some 1 => .next (s.endFrame f frac.toNat room)
    | some l => .next (s.beginLine f l frac.toNat late lateB margins room)
    | none =>
      if (s.timing f).vTotal ≤ line then .next (s.endFrame f frac.toNat room)
      else .next (s.beginLine f (line + 1) frac.toNat late lateB margins room)
  else .next (s.each (s.sdiPorts f) fun s n => s.sdiBlack f n)

/-- The lines of an adjusted Ruling frame that a raster which starts in it still has to absorb (R239). -/
def State.pendingSnap (s : State) : Option Int :=
  match s.ruling.adjust with
  | some a => if a.running then some a.lines else none
  | none => none

/-- R62, R134, R234, R235, R237, R252: the raster starts at a frame start that R62 and OFFSET place, the `index`-th of the p between two
common points, and the first of them after a partial release (02_fabric_image.md R83). It does not start where no port can carry it. -/
def execRasterStart (folio : Fin 64) (periods index : Nat) (s : State) : Result :=
  let f := folio.val
  let t := s.timing f
  if s.folioUp f ∧ s.raster f = .waitStart then
    if s.clkGood t = false then .next (s.raise (Flag.folio_RASTER_CLK_MISMATCH f))
    else if s.rasterServes f t = false then .next (s.sdiStart f t)
    else if s.onTarget f t index 1 = true ∧ ((s.folio f).common = true → index % max 1 (s.rateRatio t).1 = 0) then
      let s := s.modFolio f fun x =>
        { x with disp := 0, snap := s.pendingSnap, nextLine := none, black := false, gap := false, waiting := false, moving := true,
                 began := false, still := 0, holdAsked := false, holdEnd := false, holdWait := 0, misses := 0, report := false,
                 teLost := false, dtJudged := false, common := false, anc := [],
                 tie := index % max 1 (s.rateRatio t).1, startAt := (s.ruling.frame, s.ruling.line) }
      let s := ((s.setRaster f .run).put (R.folio_RASTER_PHASE f) 0).put (R.folio_RASTER_STATUS_DISP_TIMED_ACTIVE f) 0
      let s := (s.sdiStart f t).askMode f (formatRecord t (s.act (R.folio_OUT_FMT_LINK_FMT f)) false)
      let s := (s.raise (Flag.folio_RASTER_RASTER_START f)).setSpPeriods f periods
      .next (s.beginLine f 1 0 none none [] 0)
    else .next s
  else .next s

/-- R251 to R254: the taken set becomes active at a switching point of the new raster, which R62 and OFFSET place. -/
def execTimingCut (folio : Fin 64) (periods index : Nat) (s : State) : Result :=
  let f := folio.val
  let x := s.folio f
  match x.taken with
  | none => .next s
  | some vals =>
    if s.folioUp f ∧ s.raster f = .changing ∧ x.gap = true ∧ x.blackLeft = 0
        ∧ ((s.rasynPorts f).all fun n => (s.port n).modeReply != 1) = true then
      let old := s
      let armed := s.get (R.folio_COMMIT_STATUS_ARMED f)
      let s := (s.activate f vals).commitDone f x.takenStale
      let s := (s.put (R.folio_COMMIT_STATUS_ARMED f) armed).raise (Flag.folio_RASTER_TIMING_CHANGED f)
      let s := s.modFolio f fun x =>
        { x with taken := none, gap := false, disp := 0, snap := s.pendingSnap, nextLine := none, black := false, waiting := false,
                 dtJudged := false, tie := index % max 1 (s.rateRatio (s.timing f)).1, startAt := (s.ruling.frame, s.ruling.line) }
      let t := s.timing f
      if s.onTarget f t index (s.switchLine f t) = false then .next old
      else if s.clkGood t && s.rasterServes f t then
        let s := ((s.setRaster f .run).sdiStart f t).settleTakes f
        .next ((s.setSpPeriods f periods).beginLine f (s.switchLine f t) 0 none none [] 0)
      else if s.act (R.folio_TIMING_MODE_RUN f) = 1 then .next ((if s.clkGood t then s.sdiStart f t else s).rasterWaits f)
      else .next (s.setRaster f .off)
    else .next s

/-- R246: a TE_REPORT on an output port's back channel, its first byte at `ns`. -/
def execTeReport (port : Fin 96) (ns : Int) (s : State) : Result :=
  match s.takePacket port fun k => k.typ == 7 && leAt k.payload 0 1 == 2 with
  | none => .next s
  | some (k, s) =>
    match s.folioOfPort port with
    | none => .next s
    | some f =>
      if s.get (R.folio_CFG_PORT_A f) = port ∧ s.rasynOut port = true ∧ k.payload.length = 24 then
        let e := ns - leAt k.payload 16 4 - s.get (R.folio_TE_CFG_CABLE_NS f)
        .next ((s.put (R.folio_TE_FRAME f) (leAt k.payload 4 4)).modFolio f fun x => { x with report := true, teLost := false, teAt := e })
      else .next s

/-- R246: the waiting raster begins line 1; `readyNs` is the instant from which it could, the later of the end of line V_TOTAL and the
report's arrival. -/
def execTeLine1Start (folio : Fin 64) (readyNs : Int) (s : State) : Result :=
  let f := folio.val
  let x := s.folio f
  if s.folioUp f ∧ x.waiting = true ∧ x.report = true then
    let at_ : Rat := (x.teAt : Rat) + (s.get (R.folio_TE_CFG_DELAY_LINES f) : Rat) * (s.timing f).lineNs
    let s := if at_ < (readyNs : Rat) then s.bump (R.folio_TE_COUNT_LATE f) else s
    let s := (s.modFolio f fun x => { x with misses := 0 }).startFrame f
    .next (s.beginLine f 1 0 none none [] 0)
  else .next s

/-- R247: no report came within a nominal frame period; after TE_LOST the raster runs by itself until reports resume. -/
def execTeMiss (folio : Fin 64) (s : State) : Result :=
  let f := folio.val
  let x := s.folio f
  if s.folioUp f ∧ x.waiting = true ∧ x.report = false then
    let s := (s.bump (R.folio_TE_COUNT_MISS f)).modFolio f fun x => { x with misses := x.misses + 1 }
    let lost := decide (max 1 (s.get (R.folio_TE_CFG_TIMEOUT f)) ≤ x.misses + 1)
    let s := (s.raiseIf lost (Flag.folio_RASTER_TE_LOST f)).modFolio f fun x => { x with teLost := lost }
    .next ((s.startFrame f).beginLine f 1 0 none none [] 0)
  else .next s

/-- R248: every port has acknowledged, and the frame fetch start comes. -/
def execHoldEnter (folio : Fin 64) (s : State) : Result :=
  let f := folio.val
  let x := s.folio f
  if s.folioUp f ∧ s.raster f = .run ∧ x.holdAsked = true ∧ x.began = false
      ∧ ((s.folioPorts f).all fun n => (s.port n).holdReply == 2) = true
      ∧ s.get (R.folio_RASTER_STATUS_LINE f) = (s.timing f).fetchLine then
    let s := (s.setRaster f .hold).stopFetching f
    let s := s.modFolio f fun x => { x with holdAsked := false }
    .next ((s.bump (R.folio_HOLD_COUNT f)).raise (Flag.folio_RASTER_HOLD_ENTER f))
  else .next s

/-- R274, R275: an AUDIO packet of a Rasyn output. -/
def execAudioOutPacket (port : Fin 96) (s : State) : Result :=
  let n := port.val
  match s.folioOfPort n with
  | none => .next s
  | some f =>
    if s.rasynOut n ∧ s.isUp n = true ∧ s.audioOn = true then
      if s.folioUp f && s.composing f then
        let chans := min 16 ((s.outsOf f).foldl (fun m o => max m (s.get (R.audio_OUT_MAP_POS o) + 1)) 0)
        let count := min 63 (496 / (3 * max 1 chans))
        let first := s.nextSample n
        if chans = 0 ∨ s.audio.k < first + count then .next s
        else
          let cols := (List.range chans).map fun pos => s.columnAt f pos first count
          let s := if s.doubled f then s.drawn else s
          let body := (List.range count).flatMap fun i => cols.flatMap fun c => leBytes 3 (twos 24 (c.getD i 0))
          let s := s.sendPacket n 3 0 (leBytes 1 chans ++ leBytes 1 count ++ leBytes 2 0 ++ leBytes 4 first ++ body)
          .next (s.setNextSample n (first + count))
      else .next (s.setNextSample n s.audio.k)
    else .next s

end Sys2Proof.Machine
end

