-- ==== Sys2Proof/Machine/ClusterOps.lean ====
section
/-!
DEFINITION. Power domains and clusters: which are powered, how the units of one stop and start, and how the records of an image
show in the registers (14_power_thermal.md R406, R410; 02_fabric_image.md R69 to R72, R83).
-/
namespace Sys2Proof.Machine
open Sys2Proof

/-! ### Domains -/

/-- DOM_ON shows the domains that `on` names; a motion unit runs while its domain does. -/
def State.setDomains (s : State) (on : Nat → Bool) : State :=
  let s := (s.wr Reg.power_DOM_ON_LO (bitsToWord 32 on)).wr Reg.power_DOM_ON_HI (bitsToWord 30 fun i => on (32 + i))
  s.each [0, 1] fun s u => s.put (R.mot_STATUS_ACTIVE u) (if on (42 + u) then 1 else 0)

/-- The domains of R78: those powered while no image is in force. -/
def bareDomain (d : Nat) : Bool := decide (d < 8) || d == 61

/-- Whether domain `d` is powered in RUN (target 0) or QUIET (1): the fixed set and the image's mask (R406). -/
def State.maskOn (s : State) (target d : Nat) : Bool :=
  let m := if target = 0 then s.fabric.now.single.runMask else s.fabric.now.single.quietMask
  bareDomain d || decide (57 ≤ d ∧ d ≤ 61) || (decide (8 ≤ d ∧ d ≤ 56) && m.getLsbD d)

/-! ### Units that stop and start -/

/-- A port's transmitter goes off and its receiver is terminated (02_fabric_image.md R83). -/
def State.portStops (s : State) (n : Nat) : State :=
  if s.rasyn n then (if s.link n = .off then s else s.enterOff n)
  else if s.sdiIn n then
    let s := if s.sdi n = .noCarrier ∨ s.sdi n = .off then s else s.sdiLose n .noCarrier
    s.each [R.port_SDI_STATE_CARRIER n, R.port_SDI_STATE_CDR_LOCK n, R.port_SDI_STATE_NO_LOCK n, R.port_SDI_STATE_PID_PRESENT n] fun s f =>
      s.put f 0
  else if s.sdiOut n then s.setSdi n .txOff
  else s

/-- A port starts as after a release (R83): links train from the start; an SDI output waits for its raster
(04_sdi_ports.md R135). -/
def State.portStarts (s : State) (n : Nat) : State :=
  if s.linkAllowed n then s.enterDetect n
  else if s.sdiIn n then s.setSdi n .noCarrier
  else if s.sdiOut n then s.setSdi n .txOff
  else s

/-- The input streams of an ingest cluster. -/
def State.ingestStreams (s : State) (c : Nat) : List Nat :=
  (s.fabric.now.streams.filter fun r => decide (r.stream < 1536) && r.ingest == c).map fun r => r.stream

/-- An ingest cluster stops: its frames in progress are abandoned (05_ingest_inkwell.md R142). -/
def State.ingestStops (s : State) (c : Nat) : State :=
  s.each (s.ingestStreams c) State.abandonStream

/-- A motion unit stops: its field and its queue are dropped, its pin given back. -/
def State.motionStops (s : State) (u : Nat) : State :=
  let s := match (s.mot u).running with | some (n, _) => s.unpin n (.motion u) | none => s
  s.modMot u fun _ => {}

/-- An engine drops its job (11_codecs_cellar.md R314): a decode's frame is dropped, a Cellar entry misses the frame with cause
CODEC_QUIESCE. -/
def State.engineStops (s : State) (e : Nat) : State :=
  match s.engineJob e with
  | some (.decode n _) => (s.endJob e).emptyWriting n
  | some (.host _ _ _) => s.endJob e
  | some (.cellar n _ _) => (s.endJob e).missFrame n 3
  | none => s

/-- The Cellar's queued jobs are dropped where no engine outside a codec cluster that quiesces can take them (11_codecs_cellar.md
R314; log entry 114). -/
def State.dropQueued (s : State) (c : Nat) : State :=
  if (List.range 32).any fun e => e / 8 + 40 != c && s.engineRole e == 3 then s
  else s.each (s.entryNums.filter fun n => (s.celEntry n).job.isSome) fun s n => (s.modEntry n fun x => { x with job := none }).missFrame n 3

/-- The Folios of a Folio cluster that the image has. -/
def State.clusterFolios (s : State) (c : Nat) : List Nat := (((List.range 8).map fun i => 8 * c + i)).filter s.folioOn

/-- The units of domain `d` stop (R410). -/
def State.domainStops (s : State) (d : Nat) : State :=
  if d = 9 then
    if s.celMode = .off then s
    else ((s.modCellar fun c =>
      { c with ring := [], ringWait := [], drive := none, nvme := [], closing := [], fresh := [], entries := [] }).setCelMode .off).showCellar.engineNext
  else if 10 ≤ d ∧ d < 34 then s.each ((List.range 4).map fun i => 4 * (d - 10) + i) State.portStops
  else if 34 ≤ d ∧ d < 42 then s.ingestStops (d - 34)
  else if d = 42 ∨ d = 43 then s.motionStops (d - 42)
  else if 44 ≤ d ∧ d < 52 then
    s.each (s.clusterFolios (d - 44)) fun s f => if s.raster f = .off then s else s.rasterStops f
  else if 52 ≤ d ∧ d < 56 then s.each ((List.range 8).map fun i => 8 * (d - 52) + i) State.engineStops
  else s

/-- The units of domain `d` are released (R410; 02_fabric_image.md R83). -/
def State.domainStarts (s : State) (d : Nat) : State :=
  if d = 9 then s.cellarEnable
  else if 10 ≤ d ∧ d < 34 then s.each ((List.range 4).map fun i => 4 * (d - 10) + i) State.portStarts
  else if 44 ≤ d ∧ d < 52 then s.each (s.clusterFolios (d - 44)) State.followRun
  else if d = 56 then s.restartAudio
  else s

/-! ### Records in the registers -/

/-- The fields of a PORTS record; FEC is forced at 12.5 Gbit/s (02_fabric_image.md R69). -/
def PortRec.fields (r : PortRec) : List (Fld × Nat) :=
  let n := r.port
  let rasyn := r.mode == 1 || r.mode == 2 || r.mode == 5 || r.mode == 6 || r.mode == 7
  if r.mode = 0 ∨ 7 < r.mode then []
  else
    [(R.port_PORT_CFG_VSTREAMS n, r.vstreams), (R.port_PORT_CFG_PPB n, if r.ppb then 1 else 0),
     (R.port_PORT_CFG_GENLOCK_OK n, if r.genlock then 1 else 0),
     (R.port_PORT_CFG_FEC n, if r.fec || (rasyn && r.rate == 0) then 1 else 0), (R.port_PORT_CFG_RATE n, r.rate),
     (R.port_PORT_CFG_MODE n, r.mode)]

def StreamRec.fields (r : StreamRec) : List (Fld × Nat) :=
  let n := r.stream
  let b (x : Bool) : Nat := if x then 1 else 0
  let wb := decide (1536 ≤ n)
  [(R.stream_CFG_CLASS n, r.cls), (R.stream_CFG_INGEST n, if wb then 0 else r.ingest), (R.stream_CFG_CUT_OK n, b r.cutThrough),
   (R.stream_CFG_EVIDENCE n, b r.evidence), (R.stream_CFG_INTERLACED n, b r.interlaced), (R.stream_CFG_XS n, b r.xs),
   (R.stream_CFG_MOTION_UNIT n, r.motionUnit), (R.stream_CFG_MOTION n, b r.motion), (R.stream_CFG_SKETCH n, r.sketch),
   (R.stream_CFG_TWO_SLOT n, r.readers % 2), (R.stream_CFG_STORE_FMT n, r.storeFmt), (R.stream_CFG_SLOTS n, r.slots),
   (R.stream_CFG_PRESENT n, 1), (R.stream_GEOM_WIDTH n, r.width), (R.stream_GEOM_HEIGHT n, r.height),
   (R.stream_RATE_NUM n, r.rateNum), (R.stream_RATE_DEN n, r.rateDen), (R.stream_RING_BASE_BASE n, r.ringBase),
   (R.stream_SLOT_STRIDE_WB n, b wb), (R.stream_SLOT_STRIDE_WB_FOLIO n, if wb then r.wbFolio else 0),
   (R.stream_SLOT_STRIDE_STRIDE n, r.slotStride)]

def FolioRec.fields (r : FolioRec) (hasSeal : Bool) : List (Fld × Nat) :=
  let f := r.folio
  let b (x : Bool) : Nat := if x then 1 else 0
  [(R.folio_CFG_PRESENT f, 1), (R.folio_CFG_WB f, b r.writeback), (R.folio_CFG_DISP_TIMED_OK f, b r.displayTimed),
   (R.folio_CFG_SEAL f, b hasSeal), (R.folio_CFG_DRY f, b (r.drySize != 0)), (R.folio_CFG_PORT_B f, r.portB), (R.folio_CFG_PORT_A f, r.portA)]

/-- The seal pane's PERMIT is kept in no register. -/
def PaneRec.fields (r : PaneRec) : List (Fld × Nat) :=
  let b (x : Bool) : Nat := if x then 1 else 0
  if 8 ≤ r.pane then []
  else
    [(R.pane_PERMIT_CLASS r.folio r.pane, r.cls), (R.pane_PERMIT_CUT_OK r.folio r.pane, b r.cutThrough),
     (R.pane_PERMIT_EVIDENCE r.folio r.pane, b r.evidence), (R.pane_PERMIT_MOTION_OK r.folio r.pane, b r.motion),
     (R.pane_PERMIT_BLEND_OK r.folio r.pane, b r.blend)]

def CodecRec.fields (r : CodecRec) : List (Fld × Nat) := [(R.codec_CFG_PRESENT r.engine, 1), (R.codec_CFG_ROLE r.engine, r.role)]

def SingleRecs.fields (r : SingleRecs) : List (Fld × Nat) :=
  let b (x : Bool) : Nat := if x then 1 else 0
  [(R.audio_CFG_IN_CH, r.audioIn), (R.audio_CFG_OUT_CH, r.audioOut), (R.cellar_CFG_PRESENT, b r.cellarPresent),
   (R.cellar_CFG_CONT_OK, b r.cellarContinuous), (R.cellar_CFG_CLASS, r.cellarClass), (R.cellar_CFG_MAX_STREAMS, r.cellarStreams),
   (R.power_RUN_MASK_LO, r.runMask.toNat % 2 ^ 32), (R.power_RUN_MASK_HI, r.runMask.toNat / 2 ^ 32 % 2 ^ 30),
   (R.power_QUIET_MASK_LO, r.quietMask.toNat % 2 ^ 32), (R.power_QUIET_MASK_HI, r.quietMask.toNat / 2 ^ 32 % 2 ^ 30),
   (R.power_TH_CFG_WARN, r.warn), (R.power_TH_CFG_THROTTLE, r.throttle), (R.power_TH_CFG_SHUTDOWN, r.shutdown),
   (R.power_TH_CFG_MAX_STEP, r.maxStep), (R.power_TH_CFG_CLKDIV, b r.clkDiv)]

def State.setFields (s : State) (l : List (Fld × Nat)) : State := s.each l fun s p => s.put p.1 p.2

/-- Streams of an image: placed as before, a ring is kept, else it starts empty (02_fabric_image.md R83; 05_ingest_inkwell.md R139). -/
def State.placeStreams (s : State) (old new : List StreamRec) : State :=
  let s := s.each (old.filter fun r => !(new.any fun q => q.stream == r.stream)) fun s r =>
    (s.resetRange (0x80000 + 0x40 * r.stream) (0x80040 + 0x40 * r.stream)).setStream r.stream {}
  s.each new fun s r =>
    let s := s.setFields r.fields
    if old.any fun q => q.stream == r.stream && q.ringBase == r.ringBase && q.slots == r.slots && q.slotStride == r.slotStride then s
    else s.emptyRing r.stream

/-- Every record of the structure in force but STREAMS shows in its registers. -/
def State.showStructure (s : State) : State :=
  let st := s.fabric.now
  let s := s.setFields (st.ports.flatMap PortRec.fields)
  let s := s.each st.ingest fun s c => s.put (R.ingest_CFG_PRESENT c) 1
  let s := s.setFields (st.folios.flatMap fun r => r.fields (st.seals.any fun q => q.folio == r.folio))
  let s := s.setFields (st.panes.flatMap PaneRec.fields)
  ((s.setFields (st.codecs.flatMap CodecRec.fields)).setFields st.single.fields).showClasses

/-! ### Sketch and motion stops (05_ingest_inkwell.md R168) -/

/-- Ingest clusters in the order of shed actions 6 to 13: those holding no class-0 stream first, highest-numbered first (R428). -/
def State.shedOrder (s : State) : List Nat :=
  let zero (c : Nat) : Bool := s.fabric.now.streams.any fun r => decide (r.stream < 1536) && r.ingest == c && r.cls == 0
  let l := [7, 6, 5, 4, 3, 2, 1, 0]
  l.filter (fun c => !zero c) ++ l.filter zero

/-- The stops in force show: those of QUIET in every powered cluster (R410) and those of the shed actions (R428). -/
def State.showStops (s : State) (quiet : Bool) : State :=
  let shed := s.get R.power_SHED
  let s := s.each (s.shedOrder.zipIdx) fun s p =>
    let c := p.1
    let up := s.domainOn (34 + c)
    let sk := up && (quiet || shed.testBit (6 + p.2))
    let mo := up && quiet
    if s.on (R.ingest_SHED_SKETCH_STOP c) = sk ∧ s.on (R.ingest_SHED_MOTION_STOP c) = mo then s
    else ((s.put (R.ingest_SHED_SKETCH_STOP c) (if sk then 1 else 0)).put (R.ingest_SHED_MOTION_STOP c) (if mo then 1 else 0)).raise
      (Flag.ingest_SHED_CHANGE c)
  s.each [0, 1] fun s u =>
    let v := s.domainOn (42 + u) && (quiet || shed.testBit (2 - u))
    if s.on (R.mot_STATUS_STOPPED u) = v then s
    else (s.put (R.mot_STATUS_STOPPED u) (if v then 1 else 0)).raise (Flag.mot_STOP_CHANGE u)

end Sys2Proof.Machine
end

