-- ==== Sys2Proof/Machine/PowerOps.lean ====
section
/-!
DEFINITION. Power requests and transitions (14_power_thermal.md R409 to R415), and the alarm pins (R426; 16_startup_faults.md R475).
-/
namespace Sys2Proof.Machine
open Sys2Proof

/-- A field takes a quantity in its own units. -/
def State.putRat (s : State) (f : Fld) (signed : Bool) (r : Rat) : State :=
  s.put f (twos (f.hi + 1 - f.lo) (fieldInt (f.hi + 1 - f.lo) signed r))

/-! ### Alarm pins -/

/-- FAULT_N is driven low (16_startup_faults.md R474, R475). -/
def State.faultLow (s : State) : Bool := s.power.shutdown || (!s.inReset && !s.power.vbatOnly && s.faultSrc != 0)

/-- THERM_N is driven low (R426), also while D00 holds the device for temperature (R435). -/
def State.thermLow (s : State) : Bool :=
  s.power.shutdown || (s.inReset && s.boot.causes.getLsbD 0) || (!s.power.vbatOnly &&
    (s.get R.power_TH_STATUS_LEVEL == 2 || (s.get R.power_TH_STATUS_LEVEL == 1 && s.on R.power_TH_CFG_PIN_AT_WARN)
      || s.on R.power_TH_STATUS_ADJ_FAIL))

/-- SEAL_ALARM_N is driven low: by a thermal shutdown, or by a seal pane while the device is powered and out of reset
(07_folio_commit_seal.md R229). -/
def State.sealAlarmLow (s : State) : Bool :=
  s.power.shutdown || (!s.inReset && !s.power.vbatOnly && (List.range 64).any fun f => s.on (R.folio_SEAL_STATE_ALARM f))

/-! ### Transitions -/

/-- PWR_STATE.STATE changes. -/
def State.setPower (s : State) (st : Nat) : State :=
  if s.get R.power_PWR_STATE_STATE = st then s else (s.put R.power_PWR_STATE_STATE st).raise Flag.power_STATE_CHANGE

/-- A port power command to each of some ports; two replies are taken for each (03_rasyn_link.md R122, R124). -/
def State.ppbEach (s : State) (ports : List Nat) (op : Nat) (replies : List (BitVec 17)) : State :=
  s.each ports.zipIdx fun s p => s.ppbSend p.1 op 0 ((replies.drop (2 * p.2)).take 2)

/-- Ports under the device's power control with a bit of PWR_CTRL set. -/
def State.ppbPorts (s : State) (bit : Nat → Fld) : List Nat := (List.range 96).filter fun n => s.ppbOwned n && s.on (bit n)

/-- Of some ports those that may be powered: LOCKOUT waits for a write of ON or CYCLE (03_rasyn_link.md R123). -/
def State.poweredOn (s : State) (ports : List Nat) : List Nat := ports.filter fun n => !s.on (R.port_PWR_STAT_LOCKOUT n)

/-- The event queue is emptied; the count shows at the resume (01_ruling.md R61). -/
def State.emptyEvq (s : State) : State :=
  let n := s.evq.entries.length
  (s.setEvq { s.evq with entries := [] }).modPower fun p => { p with flushed := min n 511 }

/-- A load that has not quiesced its cluster ends with ABORTED (02_fabric_image.md R86). -/
def State.abortLoad (s : State) : State :=
  match s.fabric.load with
  | some (.quiesced, _) => s
  | some _ => (s.modFabric fun u => { u with load := none }).fabricDone 10 0
  | none => s

/-- The Cellar closes its segments (11_codecs_cellar.md R338). -/
def State.cellarRests (s : State) : State := if s.celMode = .ready then s.closeAll 4 else s

/-- STANDBY entry at t0 (R412; 07_folio_commit_seal.md R213; 09_audio_marginalia.md R272; 13_strongroom.md R404;
03_rasyn_link.md R124; 15_attic_blotter.md R447); leaving QUIET for it powers QUIET_OFF ports first. -/
def State.standbyBegins (s : State) (fromQuiet : Bool) (replies : List (BitVec 17)) : State :=
  let on := if fromQuiet then
      (s.poweredOn (s.ppbPorts R.port_PWR_CTRL_QUIET_OFF)).filter fun n => !s.on (R.port_PWR_CTRL_STANDBY_OFF n)
    else []
  let s := s.emptyEvq
  let s := s.each (List.range 64) fun s f => (s.commitClear f).discardChange f
  let s := s.clearBank.endSession
  let s := s.ppbEach on 1 replies
  let s := s.ppbEach (s.ppbPorts R.port_PWR_CTRL_STANDBY_OFF) 2 (replies.drop (2 * on.length))
  s.abortLoad.cellarRests.saveSet 2 2 []

/-- A request is acted on in RUN, QUIET or STANDBY (R409): 0 RUN, 1 QUIET, 2 STANDBY. `host` says that PWR_RESULT waits for it. -/
def State.startPower (s : State) (target : Nat) (host : Bool) (replies : List (BitVec 17)) : State :=
  let st := s.get R.power_PWR_STATE_STATE
  if st = target then (if host then s.complete Reg.power_PWR_RESULT 1 else s)
  else
    let s := s.modPower fun p => { p with target := target, owned := host, wakeN := p.wakeN || st == 2 }
    if st = 2 then s.setPower 4
    else if target = 0 then s.setPower 6
    else if target = 1 then s.setPower 5
    else (s.setPower 3).standbyBegins (st == 1) replies

/-- A request (R409): during a transition it waits for the end, and replaces one that waits (R415). -/
def State.requestPower (s : State) (target : Nat) (host : Bool) (replies : List (BitVec 17)) : State :=
  if s.get R.power_PWR_STATE_STATE ≤ 2 then s.startPower target host replies
  else
    let s := match s.power.next with
      | some (_, true) => s.complete Reg.power_PWR_RESULT 4
      | _ => s
    s.modPower fun p => { p with next := some (target, host) }

/-- A transition ends in state `st`; the request that waited is acted on. -/
def State.endPower (s : State) (st : Nat) (replies : List (BitVec 17)) : State :=
  let s := s.setPower st
  let s := if s.power.owned then s.complete Reg.power_PWR_RESULT 0 else s
  let next := s.power.next
  let s := s.modPower fun p => { p with owned := false, next := none }
  match next with
  | none => s
  | some (t, h) => s.startPower t h replies

/-- A wake event, in STANDBY or during its entry (R409, R415). -/
def State.wake (s : State) : State :=
  let st := s.get R.power_PWR_STATE_STATE
  if st = 2 ∨ st = 3 then s.requestPower (s.get R.power_WAKE_CFG_TARGET) false [] else s

end Sys2Proof.Machine
end

