-- ==== Sys2Proof/Machine/Power.lean ====
section
/-!
DEFINITION. Power commands, QUIET, STANDBY, resume and power failure (14_power_thermal.md R406 to R419).
-/
namespace Sys2Proof.Machine
open Sys2Proof

/-! ### Commands and wake events (R409) -/

/-- PWR_CMD with a target. -/
def State.powerCommand (s : State) (target : Nat) (replies : List (BitVec 17)) : State :=
  s.hostWrite Reg.power_PWR_CMD fun s => s.offer Reg.power_PWR_RESULT Flag.power_CMD_OVERRUN fun s =>
    (s.accept Reg.power_PWR_RESULT).requestPower target true replies

def execPwrCmdRun (s : State) : Result := .next (s.powerCommand 0 [])
def execPwrCmdQuiet (s : State) : Result := .next (s.powerCommand 1 [])

/-- R412: `replies` are those of the STANDBY_OFF port power commands. -/
def execPwrCmdStandby (replies : List (BitVec 17)) (s : State) : Result := .next (s.powerCommand 2 replies)

/-- A defined OP is no case of this command (log entry 6). -/
def execPwrBadCommand (op : BitVec 4) (s : State) : Result :=
  if 1 ≤ op.toNat ∧ op.toNat ≤ 3 then .next s
  else .next (s.hostWrite Reg.power_PWR_CMD fun s => s.offer Reg.power_PWR_RESULT Flag.power_CMD_OVERRUN fun s =>
    (s.accept Reg.power_PWR_RESULT).complete Reg.power_PWR_RESULT 3)

/-- The life clock reaches WAKE_TIMER. -/
def execWakeTimer (s : State) : Result := .next (if s.on R.power_WAKE_CFG_TIMER_EN then s.wake else s)

/-! ### QUIET (R410) -/

/-- The domains a target state powers; R78's set before a full image is in force and after MEMORY_FAIL (R406; 16_startup_faults.md
R472). -/
def State.powered (s : State) (target d : Nat) : Bool :=
  if s.on R.fabric_STATE_CONFIGURED && s.get R.global_BOOT_STATUS_STAGE != 5 then s.maskOn target d else bareDomain d

def allDomains : List Nat := List.range 62

/-- The Ruling frame boundary after a QUIET request, and 1 ms on: units of dropped domains stop and their domains go off; `replies`
are those of the QUIET_OFF port power commands. -/
def execQuietEntry (replies : List (BitVec 17)) (s : State) : Result :=
  if s.get R.power_PWR_STATE_STATE = 5 then
    let s := s.each (allDomains.filter fun d => s.domainOn d && !s.powered 1 d) State.domainStops
    let s := s.ppbEach (s.ppbPorts R.port_PWR_CTRL_QUIET_OFF) 2 replies
    let s := (s.setDomains (s.powered 1)).showStops true
    .next (s.endPower 1 replies).showStrong
  else .next s

/-- On return to RUN: domains come up and their clusters are released at the next frame boundary. -/
def execQuietExit (replies : List (BitVec 17)) (s : State) : Result :=
  if s.get R.power_PWR_STATE_STATE = 6 then
    let fresh := allDomains.filter fun d => s.powered 0 d && !s.domainOn d
    let s := s.setDomains (s.powered 0)
    let s := (s.each fresh State.domainStarts).showStops false
    let s := s.ppbEach (s.poweredOn (s.ppbPorts R.port_PWR_CTRL_QUIET_OFF)) 1 replies
    .next (s.endPower 0 replies).showStrong
  else .next s

/-! ### STANDBY (R412, R413) -/

/-- The domains that stay in STANDBY (R406). -/
def standbyDomain (d : Nat) : Bool := d == 0 || d == 1 || d == 2 || d == 7 || d == 61

/-- A word with the fields R413 keeps; every other field reads as after reset. -/
def RegRow.saved (r : RegRow) (w : BitVec 32) : BitVec 32 :=
  r.fields.foldl (fun v f => match f.acc with
    | .rw | .rws | .rwi | .sec | .own => setBits v f.hi f.lo (getBits w f.hi f.lo)
    | _ => v) r.resetValue

/-- Registers of switched-off domains that another domain carries on: measurements (13_strongroom.md R397), operating time, CYCLES and
the Blotter's counts, held in D00 and the Attic (15_attic_blotter.md R448, R463), and the seal panes' states and settings, which
SEAL_ALARM_N goes on showing (07_folio_commit_seal.md R229). -/
def keptInStandby (a : Nat) : Bool :=
  ((List.range 64).any fun f => a == Reg.folio_SEAL_STATE f || (decide (Reg.folio_SEAL_CMD f 0 ≤ a) && decide (a ≤ Reg.folio_SEAL_CMD f 31)))
    || (decide (Reg.strongroom_MEAS 0 ≤ a) && decide (a ≤ Reg.strongroom_MEAS 95))
    || [Reg.blotter_OP_S, Reg.blotter_OP_FRAC, Reg.blotter_CYCLES, Reg.blotter_PERSIST_FAIL, Reg.blotter_LOG_FLOOR,
        Reg.blotter_NEWEST_SEQ].contains a

/-- Every register of a domain that STANDBY turns off keeps what R413 saves. -/
def State.saveRegisters (s : State) : State :=
  let keep (p : Nat × BitVec 32) : State → State := fun t =>
    if standbyDomain (s.domainOfAddr p.1) || keptInStandby p.1 then t
    else match regLookup p.1 with
      | some h => t.wr p.1 (h.row.saved p.2)
      | none => t.wr p.1 (regReset p.1)
  s.each s.regs fun t p => keep p t

/-- A stream's ring as the stacks keep it in self-refresh: pins released, nothing being written (05_ingest_inkwell.md R142). -/
def StreamState.resting (x : StreamState) : StreamState :=
  { slots := x.slots.map fun v => { v with st := if v.st = 1 then 0 else v.st, pins := [] },
    newest := x.newest, second := x.second, lastFrameSeq := x.lastFrameSeq, lastSeq := x.lastSeq }

/-- What a port keeps of its power control while the bus is released: a cycle that runs, and whether AUTO_CYCLE has acted (R124, log
entry 117). -/
def PortState.resting (x : PortState) : PortState := { cycling := x.cycling, autoCycled := x.autoCycled }

/-- The hidden state of the domains that go off. -/
def State.unitsOff (s : State) : State :=
  { s with
    ruling := { frame := s.ruling.frame, line := s.ruling.line, frac := s.ruling.frac, lineTotal := s.ruling.lineTotal,
                acquired := s.ruling.acquired }
    synOuts := [], evq := {}, mots := [], xsWaiting := [], audio := {}, cellar := {}, loads := []
    ports := (s.ports.map fun p => (p.1, p.2.resting)).filter fun p => p.2 != ({} : PortState)
    streams := (s.streams.map fun p => (p.1, p.2.resting)).filter fun p => p.2 != ({} : StreamState)
    folios := (s.folios.filter fun p => p.2.sealDue.isSome).map fun p => (p.1, { sealDue := p.2.sealDue })
    mem := { bytes := s.mem.bytes, ecc := s.mem.ecc, admitted := s.mem.admitted, scrubWord := s.mem.scrubWord, bandRun := s.mem.bandRun } }

/-- Whether STANDBY entry has nothing left to wait for: no cluster quiesced (02_fabric_image.md R86), the save set written, the Cellar's
segments closed (R412). -/
def State.standbyReady (s : State) : Bool :=
  s.fabric.load.isNone && s.cellar.closing.isEmpty && !((s.attic.running ++ s.attic.waiting).any fun w => w.src == .saveSet)

/-- The Ruling frame boundary of R412 and what follows: rasters stop, frames are abandoned, displays are asked to hold, transmitters go
off, the superblock is written CLEAN and the drive rests (11_codecs_cellar.md R338), registers are saved and domains switched off. -/
def execStandbyEntryComplete (s : State) : Result :=
  if s.get R.power_PWR_STATE_STATE = 3 ∧ s.standbyReady = true then
    let s := s.each (List.range 64) fun s f => if s.folioUp f && s.raster f != .off then s.rasterStops f else s
    let s := s.each (s.streams.map (·.1)) State.abandonStream
    let s := s.each (List.range 96) State.portStops
    let s := if s.celMode = .ready then s.writeSuperblock.emit (.driveAdmin 9 2) else s
    let s := ((s.saveRegisters.unitsOff).setDomains standbyDomain).put R.memory_STATUS_TRAINED 0
    .next (s.endPower 2 [])
  else .next s

/-! ### Resume (R414) -/

/-- RULING.EVQ_FLUSH_CNT. -/
def evqFlushCnt : Fld := ⟨0x10124, 8, 0⟩

/-- Channels that failed training are reported (10_stream_memory.md R298). -/
def State.trainFails (s : State) (channels : List (Fin 32)) : State :=
  s.each channels fun s c => (s.raise Flag.memory_TRAIN_FAIL).blotter 0x0402 c.val []

/-- Training has failed for good: no unit is released (16_startup_faults.md R472). -/
def State.memoryFails (s : State) (channels : List (Fin 32)) : State :=
  let s := s.trainFails channels
  ((s.put R.memory_STATUS_TRAINED 0).put R.global_BOOT_STATUS_STAGE 5).setFault 2 true

/-- Training is complete and the warm-up begins (10_stream_memory.md R298, R300). -/
def State.memoryTrained (s : State) : State :=
  let s := s.modMem fun m =>
    { bytes := m.bytes, ecc := m.ecc, admitted := m.admitted, scrubWord := m.scrubWord, bandRun := m.bandRun,
      windowBand := s.get R.memory_STATUS_BAND, trainTries := m.trainTries }
  ((s.put R.memory_STATUS_TRAINED 1).put R.memory_STATUS_WARMUP 1).put R.memory_STATUS_DRIFT_FULL 0

/-- Both synthesizers lock to the crystal, and every enabled output produces its divider (01_ruling.md R24, R34, R37). -/
def State.synthStarts (s : State) : State :=
  let s := (s.put (R.clock_STATUS_VCO_LOCK 0) 1).put (R.clock_STATUS_VCO_LOCK 1) 1
  let s := s.each [0, 1] fun s y => s.each (List.range 8) fun s o =>
    if s.on (R.clock_OUT_CTRL_EN y o) then s.setSynOut y o ⟨true, s.get (R.clock_OUT_CTRL_DIV y o)⟩ else s
  s.applyFreq

/-- A stream's state after a resume: LOST with a kept ring, else WAITING (05_ingest_inkwell.md R142). -/
def State.streamResumes (s : State) (n : Nat) : State :=
  if s.present n then
    (if (s.stream n).newest.isSome then s.streamLost n else s.put (R.stream_STATE_STATE n) 1).showStream n
  else s

/-- The seal pane of a Folio with a source stands STOPPED until its Folio fetches (07_folio_commit_seal.md R227). -/
def State.sealResumes (s : State) (f : Nat) : State :=
  if (sealSet (s.sealCmd f)).kind ≠ 0 then (s.put (R.folio_SEAL_STATE_STATE f) 3).showAlarm f else s

/-- A tamper latched while nothing ran: the generations it changed are saved (13_strongroom.md R375), its records are copied, FAULT_N follows the input's FAULT bit (13_strongroom.md R393, R394). -/
def State.readTamper (s : State) : State :=
  let fault := s.strong.tamperLog.any fun e => !e.copied && s.tamperFault e.source
  let s := if s.strong.tamperLog.any (fun e => !e.copied) then s.saveGens.raise Flag.strongroom_ROOT_CHANGE else s
  let s := s.copyTamperLog
  (if fault then s.setFault 3 true else s).strongChanged

/-- R414: `failed` lists the channels that failed training, `entropyOk` is the outcome of the DRBG's tests, `replies` are those of the
STANDBY_OFF and QUIET_OFF port power commands. -/
def execResume (failed : List (Fin 32)) (entropyOk : Bool) (replies : List (BitVec 17)) (s : State) : Result :=
  if s.get R.power_PWR_STATE_STATE = 4 then
    let target := s.power.target
    let s := s.setDomains (s.powered target)
    let s := s.synthStarts
    let s := (s.put evqFlushCnt s.power.flushed).raise Flag.ruling_EVQ_FLUSH
    let s := ((s.showStructure).showBlot).showBanks
    let s := (s.put R.strongroom_DRBG_STATUS_OK (if entropyOk then 1 else 0)).setFault 9 (!entropyOk)
    let s := (s.raiseIf (!entropyOk) Flag.strongroom_ENTROPY_FAIL).readTamper
    let s := if failed.isEmpty then
        let s := s.memoryTrained
        let s := s.each (s.fabric.now.streams.map fun r => r.stream) State.streamResumes
        let s := s.each (List.range 64) fun s f => if s.folioOn f then s.sealResumes f else s
        let s := s.each (List.range 64) State.sealStart
        s.each (allDomains.filter (s.powered target)) State.domainStarts
      else (s.memoryFails failed).setDomains bareDomain
    let on := (s.poweredOn (s.ppbPorts R.port_PWR_CTRL_STANDBY_OFF)).filter fun n => target == 0 || !s.on (R.port_PWR_CTRL_QUIET_OFF n)
    let s := s.ppbEach on 1 replies
    let s := if target = 1 then s.ppbEach (s.ppbPorts R.port_PWR_CTRL_QUIET_OFF) 2 (replies.drop (2 * on.length)) else s
    let s := s.showStops (target == 1)
    .next (((s.raise Flag.power_WAKE).endPower target replies).showStrong)
  else .next s

/-! ### Power failure (R411, R418, R419) -/

/-- Main rails fall: only D01 lives. `left` is what interrupted Attic writes leave (15_attic_blotter.md R440). -/
def execMainPowerLoss (left : List (Nat × BitVec 8 × Bool)) (s : State) : Result :=
  let s := (s.interruptWrites left true).setDomains fun d => d == 1
  .next (s.modPower fun p => { p with vbatOnly := true, shutdown := false, wakeN := false })

/-- R418; ignored in STANDBY, VBAT-only and until the BOOT record has been made (16_startup_faults.md R473). A save set under way is
written once (R415). -/
def execPwrfail (left : List (Nat × BitVec 8 × Bool)) (s : State) : Result :=
  let st := s.get R.power_PWR_STATE_STATE
  if st = 2 ∨ s.power.vbatOnly = true ∨ s.power.shutdown = true ∨ s.boot.recorded = false then .next s
  else
    let s := ((s.raise Flag.power_PWRFAIL).put R.power_PWR_STATE_PF_ACTIVE 1).bump R.power_PF_STATUS_COUNT
    let s := s.interruptWrites left false
    let s := if (s.attic.running ++ s.attic.waiting).any fun w => w.src == .saveSet then s
      else s.saveSet 1 0 (leBytes 2 (s.get R.power_TH_STATUS_T_MAX))
    .next s.cellarPowerFail

/-- R419. -/
def execPfRecover (s : State) : Result :=
  .next (if s.on R.power_PWR_STATE_PF_ACTIVE then
      ((s.put R.power_PWR_STATE_PF_ACTIVE 0).raise Flag.power_PF_RECOVER).cellarPowerBack
    else s)

end Sys2Proof.Machine
end

