-- ==== Sys2Proof/Machine/Sysif.lean ====
section
/-!
DEFINITION. Boot flash, SMBus target, PMBus master and GPIO inputs (12_host_control.md R360 to R365).
-/
namespace Sys2Proof.Machine
open Sys2Proof

def State.modSysif (s : State) (f : SysifState → SysifState) : State := { s with sysif := f s.sysif }

/-! ### Flash (R361) -/

/-- The bytes of an operation under way: those programmed, or the 4 KiB sector erased. -/
def flashRange (op a len : Nat) : List Nat :=
  if op = 3 then (List.range 4096).map fun i => a / 4096 * 4096 + i else (List.range len).map fun i => a + i

/-- A flash command ends (log entry 60). -/
def State.flashEnds (s : State) (status : Nat) : State :=
  (s.complete Reg.sysif_FLASH_RESULT status).raise Flag.sysif_FLASH_DONE

/-- FLASH_CMD with OP 1 READ, 2 PROGRAM or 3 ERASE_4K; another OP, a length outside 1 to 256 and a PROGRAM beyond its page are
BAD_COMMAND. -/
def State.flashCommand (s : State) (op a : Nat) : State :=
  s.hostWrite Reg.sysif_FLASH_CMD fun s => s.offer Reg.sysif_FLASH_RESULT Flag.sysif_CMD_OVERRUN fun s =>
    let s := s.accept Reg.sysif_FLASH_RESULT
    let len := s.get R.sysif_FLASH_LEN
    let range := decide (1 ≤ len ∧ len ≤ 256)
    if op = 0 ∨ (op ≠ 3 ∧ range = false) ∨ (op = 2 ∧ 256 < a % 256 + len) then s.flashEnds 3
    else if op ≠ 1 ∧ s.on R.sysif_FLASH_CFG_WP_64K = true ∧ a < 131072 then s.flashEnds 1
    else s.modSysif fun f => { f with flashOp := some (op, a, len, slice (s.getBytes (Reg.sysif_FLASH_BUF 0) 64) 0 len) }

def execFlashRead (addr : BitVec 28) (s : State) : Result := .next (s.flashCommand 1 addr.toNat)
def execFlashProgram (addr : BitVec 28) (s : State) : Result := .next (s.flashCommand 2 addr.toNat)
def execFlashErase4k (addr : BitVec 28) (s : State) : Result := .next (s.flashCommand 3 addr.toNat)

/-- A PROGRAM clears bits only, as NOR flash does (log entry 61). -/
def execFlashOpComplete (s : State) : Result :=
  match s.sysif.flashOp with
  | none => .next s
  | some (op, a, len, data) =>
    let s := s.modSysif fun f => { f with flashOp := none }
    let s := if op = 1 then
        s.putBytes (Reg.sysif_FLASH_BUF 0) ((flashRange 1 a len).map s.flashByte ++ (s.getBytes (Reg.sysif_FLASH_BUF 0) 64).drop len)
      else if op = 2 then s.each data.zipIdx fun s p => s.setFlash (a + p.2) (s.flashByte (a + p.2) &&& p.1)
      else s.each (flashRange 3 a len) fun s i => s.setFlash i 0xFF
    .next (s.flashEnds 0)

/-- What a PROGRAM or ERASE_4K that did not complete leaves in its bytes is open (log entry 59). -/
def State.flashTorn (s : State) : State :=
  match s.sysif.flashOp with
  | none => s
  | some (op, a, len, _) =>
    let s := s.modSysif fun f => { f with flashOp := none }
    if op = 1 then s
    else (s.each (flashRange op a len) fun s i => s.setFlash i (Config.tornFlash s.freeCount i)).drawn

def execFlashTimeout (s : State) : Result := .next (if s.sysif.flashOp.isSome then s.flashTorn.flashEnds 2 else s)

/-! ### SMBus (R362) -/

/-- The target answers in every power state but VBAT-only, while D61 is powered. -/
def State.smbAnswer (s : State) (a : Option (List Byte)) : Result :=
  .next (if s.power.vbatOnly || !s.domainOn 61 then s else s.emit (.smbus a))

def execSmbState (s : State) : Result := s.smbAnswer (some (leBytes 2 (s.get R.power_PWR_STATE_STATE)))

/-- The hottest sensor that has not failed, in whole °C. -/
def execSmbMaxTemp (s : State) : Result :=
  let ts := ((List.range 28).filter fun k => !s.on (R.power_TS_FAILED k)).map fun k => s.getInt (R.power_TS_TEMP k)
  let t : Rat := match ts with | [] => 0 | t :: l => (l.foldl max t : Int) / 10
  s.smbAnswer (some (leBytes 1 (twos 8 (fieldInt 8 true t))))

/-- `uplinkOk` is the level of UPLINK_OK. -/
def execSmbAlarms (uplinkOk : Bool) (s : State) : Result :=
  let b (x : Bool) (v : Nat) : Nat := if x then v else 0
  s.smbAnswer (some (leBytes 1 (b s.faultLow 1 + b s.thermLow 2 + b s.sealAlarmLow 4 + b uplinkOk 8)))

def execSmbPower (s : State) : Result := s.smbAnswer (some (leBytes 2 (s.get R.power_EST_POWER_ESTIMATE)))
def execSmbId (s : State) : Result := s.smbAnswer (some s.uid)
def execSmbUnknownCommand (s : State) : Result := s.smbAnswer none

/-! ### PMBus (R363) -/

/-- Two to a whole power. -/
def twoTo (e : Int) : Rat := if 0 ≤ e then (2 ^ e.toNat : Nat) else 1 / ((2 ^ (-e).toNat : Nat) : Rat)

/-- LINEAR11: a 5-bit exponent and an 11-bit mantissa, both signed. -/
def linear11 (w : BitVec 16) : Rat := ((w.extractLsb' 0 11).toInt : Rat) * twoTo (w.extractLsb' 11 5).toInt

/-- One poll of a regulator: VOUT_MODE's exponent, READ_VOUT, READ_IOUT and READ_TEMPERATURE_1, none where it failed. -/
def execPmbusPoll (dev : Fin 8) (reply : Option (BitVec 5 × BitVec 16 × BitVec 16 × BitVec 16)) (s : State) : Result :=
  let k := dev.val
  if s.domainOn 61 && s.on (R.sysif_PMB_DEV_EN k) then
    match reply with
    | none =>
      let n := Sparse.get (fun _ => 0) s.sysif.pmbFails k + 1
      let s := s.modSysif fun f => { f with pmbFails := Sparse.set (fun _ => 0) f.pmbFails k (min n 3) }
      .next (if 3 ≤ n ∧ s.on (R.sysif_PMB_DEV_ABSENT k) = false then
          (s.put (R.sysif_PMB_DEV_ABSENT k) 1).raise Flag.sysif_PMB_ABSENT
        else s)
    | some (e, vout, iout, temp) =>
      let s := s.modSysif fun f => { f with pmbFails := Sparse.erase f.pmbFails k }
      let s := s.put (R.sysif_PMB_DEV_ABSENT k) 0
      let s := s.putRat (R.sysif_PMB_VAL_VOUT k) false ((vout.toNat : Rat) * twoTo e.toInt * 1000)
      let s := s.putRat (R.sysif_PMB_VAL_IOUT k) false (linear11 iout * 100)
      let s := s.putRat (R.sysif_PMB_TEMP k) true (linear11 temp * 10)
      let v := s.get (R.sysif_PMB_VAL_VOUT k)
      let w := v * s.get (R.sysif_PMB_VAL_IOUT k)
      let s := s.modSysif fun f =>
        { f with polls := Sparse.set (fun _ => []) f.polls k (w :: (Sparse.get (fun _ => []) f.polls k).take 9) }
      .next (s.modPower fun p =>
        let (sum, n) := Sparse.get (fun _ => ((0, 0) : Nat × Nat)) p.vouts k
        { p with vouts := Sparse.set (fun _ => ((0, 0) : Nat × Nat)) p.vouts k (sum + v, n + 1) })
  else .next s

/-! ### GPIO (R365) -/

/-- A debounced pin changes: an INPUT raises GPIO_EDGE; INC_GPIO, QUIET_CFG and WAKE_CFG take the logical value
(11_codecs_cellar.md R316; 14_power_thermal.md R409). -/
def execGpioInputChange (gpio : Fin 32) (level : Bool) (s : State) : Result :=
  let g := gpio.val
  if s.domainOn 61 = false ∨ s.gpio.pins.getLsbD g = level then .next s
  else
    let bit : BitVec 32 := 1#32 <<< g
    let s := s.modGpio fun x => { x with pins := if level then x.pins ||| bit else x.pins &&& ~~~bit }
    let v := s.gpioLogical g
    let s := s.raiseIf (s.gpioFunc g == 0) Flag.sysif_GPIO_EDGE
    let s := if v && (s.rd Reg.cellar_INC_GPIO).getLsbD g && s.domainOn 9 then s.incident 2 g else s
    let st := s.get R.power_PWR_STATE_STATE
    let s := if s.on R.power_QUIET_CFG_EN && s.get R.power_QUIET_CFG_GPIO == g && st != 2 && st != 3 then
        s.requestPower (if v then 1 else 0) false []
      else s
    .next (if v && s.on R.power_WAKE_CFG_GPIO_EN && s.get R.power_WAKE_CFG_GPIO == g then s.wake else s)

end Sys2Proof.Machine
end

