-- ==== Sys2Proof/Machine/Reset.lean ====
section
/-!
DEFINITION. Resets of the device: their causes, the drain and what each keeps (16_startup_faults.md R464 to R468), and the
acknowledgement of the ECC fault (R476). The boot that follows is in Boot.lean.
-/
namespace Sys2Proof.Machine
open Sys2Proof

/-- The kinds as RESET_CAUSE numbers them. -/
def causePowerOn : BitVec 5 := 0b00010
def causePin : BitVec 5 := 0b00100
def causeWatchdog : BitVec 5 := 0b01000
def causeSoft : BitVec 5 := 0b10000

/-- What of the Strongroom a reset keeps: fuses, D01 and the store in the Attic, and the pins' levels; a debug session ends, and the
real root is in use again (R465; 13_strongroom.md R404). -/
def StrongState.atReset (u : StrongState) : StrongState :=
  { u with testBank := {}, debug := 0, nonce := none, tokenResult := 0, sessionEnd := 0, engine := none, waiting := none, formatPermit := none,
           zaluVersion := 0, dbgReg := 0 }

/-- D01 loses its contents: the check word fails (13_strongroom.md R375). -/
def StrongState.vbatGone (u : StrongState) : StrongState :=
  { u with root := [], rootCheck := false, zeroCause := 2, rootGen := 0, bank := {}, tampered := false, tamperCount := 0,
           tamperLog := [], tamperCfg := 0x0808, lifeClock := 0, tapIr := 1, boundary := [], extest := false }

/-- The state right after a reset: every register at its reset value, every ring and queue empty; fuses, Attic, flash, D01 and the
levels at the pins stay. `left` is what interrupted Attic writes leave (15_attic_blotter.md R440). -/
def State.afterReset (s : State) (left : List (Nat × BitVec 8 × Bool)) : State :=
  let fail := s.get R.blotter_PERSIST_FAIL
  let s := (s.interruptWrites left true).flashTorn
  let t : State :=
    { pending := s.pending, out := s.out, freeCount := s.freeCount, flash := s.flash, sram := s.sram, strong := s.strong.atReset,
      gpio := { pins := s.gpio.pins }, attic := { s.attic with running := [], waiting := [], failRun := 0, faultSeen := false },
      power := { shutdown := s.power.shutdown, note := s.power.note }, boot := s.boot }
  (t.put R.blotter_PERSIST_FAIL fail).setDomains fun d => d == 0 || d == 1

/-- A PIN, WATCHDOG or SOFT reset acts, with every kind that a drain under way had shown (R465 to R468): D00 keeps the shutdown latch,
operating time, RESET_COUNT and the count of pending records. -/
def State.warmReset (s : State) (cause : BitVec 5) (left : List (Nat × BitVec 8 × Bool)) : State :=
  let b := s.boot
  let now := if s.inReset then cause else b.causes ||| cause
  let kept := s.interruptWrites left true
  let lost := if s.inReset then b.lost else (s.blot.ring.filter fun r => r.pending && !kept.savedOf r).length
  let dog := now &&& causeWatchdog != 0
  let run := if s.inReset then b.dogRun else if dog && b.sinceRelease.any fun t => t < 60 then b.dogRun + 1 else 0
  let counts := s.rd Reg.global_RESET_COUNT
  let s := (s.afterReset left).wr Reg.global_RESET_COUNT counts
  let s := s.modBoot fun b =>
    { b with causes := b.causes ||| cause, drain := false, held := true, recorded := false, lost := lost, dogRun := run,
             sinceRelease := none, waiting := false }
  let s := if dog then s.bump R.global_RESET_COUNT_WATCHDOG else s
  if now &&& causeSoft != 0 then s.bump R.global_RESET_COUNT_SOFT else s

/-- R464, R465: `vbatLost` says that D01 has lost VBAT as well; `lifeS` is what the life clock counted while only VBAT was there. -/
def execPowerOnReset (vbatLost : Bool) (lifeS : Nat) (left : List (Nat × BitVec 8 × Bool)) (s : State) : Result :=
  let s := (s.afterReset left).clearSram
  let s := s.modBoot fun _ => { causes := causePowerOn }
  let s := (s.modPower fun p => { note := p.note }).modStrong fun u => { u with dbgReg := 0 }
  if vbatLost then
    let s := (s.modStrong StrongState.vbatGone).modPower fun _ => {}
    .next (s.put R.blotter_PERSIST_FAIL 0)
  else .next (s.modStrong fun u =>
    { u with lifeClock := (u.lifeClock + lifeS) % 2 ^ 32, tapIr := 1, boundary := [], extest := false })

/-- R464: no drain; nothing happens while only VBAT is there. -/
def execPinReset (left : List (Nat × BitVec 8 × Bool)) (s : State) : Result :=
  .next (if s.power.vbatOnly then s else s.warmReset causePin left)

/-- The management core runs its firmware. -/
def State.coreRuns (s : State) : Bool :=
  s.domainOn 2 && !s.inReset && s.get R.power_PWR_STATE_STATE != 2 && s.get R.global_BOOT_STATUS_STAGE != 0
    && s.get R.global_BOOT_STATUS_STAGE != 6

/-- A drain begins (R466). -/
def State.drainFor (s : State) (cause : BitVec 5) : State := s.modBoot fun b => { b with drain := true, causes := b.causes ||| cause }

/-- R464, R466, R468: during a drain the reset acts at once; `burst` says that M0 held a path mid-burst (12_host_control.md R358). -/
def execWatchdogExpiry (burst : Bool) (left : List (Nat × BitVec 8 × Bool)) (s : State) : Result :=
  if s.coreRuns then
    let s := if burst then s.burstRescue else s
    .next (if s.boot.drain then s.warmReset causeWatchdog left else s.drainFor causeWatchdog)
  else .next s

/-- R464, R466, R468: a write of RESET_CMD; any other KEY is ignored, and so is a write during a drain. -/
def execSoftResetRequest (key : BitVec 16) (soft : Bool) (s : State) : Result :=
  .next (s.hostWrite Reg.global_RESET_CMD fun s => if key = 0xC96D ∧ soft ∧ s.boot.drain = false then s.drainFor causeSoft else s)

/-- R466: after 50 ms, or once no record is pending, the reset acts. -/
def execResetDrainEnd (left : List (Nat × BitVec 8 × Bool)) (s : State) : Result :=
  .next (if s.boot.drain then s.warmReset 0 left else s)

/-- R476. -/
def execFaultAckEcc (s : State) : Result := .next (s.hostWrite Reg.global_FAULT_ACK fun s => s.setFault 6 false)

end Sys2Proof.Machine
end

