-- ==== Sys2Proof/Machine/Bus.lean ====
section
/-!
DEFINITION. A write to a register over a bus: what the value does by the access types, and the commands that its WO fields and the
fields with rows of their own set off (00_scope.md R7, R8; 12_host_control.md R343, R350 to R357; 18_register_map.md R499, R505).
-/
namespace Sys2Proof.Machine
open Sys2Proof

/-- A write under way: the master, the moment's data, the address the value is kept at, the value, the bits its byte enables write,
and the word merged with what the register held. -/
structure BusWrite where
  who : Master
  mo : Moment
  a : Nat
  v : BitVec 32
  m : BitVec 32
  word : BitVec 32

/-- Whether the write touches bits [hi:lo]; bit `b` written 1; the value written to a WO field. -/
def BusWrite.hit (w : BusWrite) (hi lo : Nat) : Bool := w.m &&& maskBits hi lo != 0
def BusWrite.one (w : BusWrite) (b : Nat) : Bool := (w.v &&& w.m).getLsbD b
def BusWrite.num (w : BusWrite) (hi lo : Nat) : Nat := getBits (w.v &&& w.m) hi lo

/-- The state after a command; one that stops changes nothing. -/
def State.after (s : State) (f : State → Result) : State := match f s with | .next t => t | .fault _ => s | .refused _ => s

/-- `f` follows when `b` holds. -/
def State.sets (s : State) (b : Bool) (f : State → Result) : State := if b then s.after f else s

/-! ### Blocks with commands of their own -/

/-- RULING and CLOCK (01_ruling.md). A value that stays as it is sets nothing off. -/
def BusWrite.ruling (w : BusWrite) (s : State) : State :=
  if w.a = Reg.ruling_CTRL then
    let s := s.sets (w.one 31) (execCapture w.mo.frac)
    let coast := w.word.getLsbD 28
    let s := s.sets (w.hit 28 28 && coast != s.on R.ruling_CTRL_FORCE_COAST) (execForceCoastWrite coast w.mo.sinceNs)
    let src := getBits w.word 23 22
    let manual := w.word.getLsbD 24
    s.sets (w.hit 24 22 && (manual != s.on R.ruling_CTRL_SRC_MODE || src != s.get R.ruling_CTRL_MANUAL_SRC))
      (execManualSrcWrite manual (Fin.ofNat 4 src) w.mo.sinceNs)
  else if w.a = Reg.ruling_SRC_PRIO then
    let v := getBits w.word 11 0
    s.sets (w.hit 11 0 && v != s.get ⟨Reg.ruling_SRC_PRIO, 11, 0⟩) (execSrcPrioWrite (BitVec.ofNat 12 v) w.mo.sinceNs)
  else if w.a = Reg.ruling_EPOCH_HI then s.sets (w.one 31) execEpochArm
  else if w.a = Reg.ruling_EVQ_CMD then
    match w.num 3 0 with
    | 1 => s.after (execEvqPush w.who)
    | 2 => s.after (execEvqCancel w.who)
    | 3 => s.after (execEvqFlush w.who)
    | op => s.sets (w.hit 3 0) (execEvqBadCommand w.who (BitVec.ofNat 4 op))
  else if 0x20000 ≤ w.a then
    let y := (w.a - 0x20000) / 0x100
    let q := (w.a - 0x20000) % 0x100
    let o := (q - 0x40) / 8
    if q < 0x40 then s
    else if q % 8 = 0 then
      s.sets (w.hit 31 31 || w.hit 9 0)
        (execSynOutCtrlWrite (Fin.ofNat 2 y) (Fin.ofNat 8 o) (w.word.getLsbD 31) (w.word.extractLsb' 0 10))
    else s.sets (w.hit 15 0) (execOutDelayWrite (Fin.ofNat 2 y) (Fin.ofNat 8 o) (w.word.extractLsb' 0 16))
  else s

/-- PORT. A write of PWR_CTRL sends SET_LIMIT and then POWER_ON or POWER_OFF, each with two replies (03_rasyn_link.md R122, R124; log
entry 70). -/
def BusWrite.port (w : BusWrite) (n : Nat) (s : State) : State :=
  let p := Fin.ofNat 96 n
  let r (k : Nat) : List (BitVec 17) := (w.mo.replies.drop (2 * k)).take 2
  if w.a = Reg.port_LINK_CTRL n then
    let policy := w.word.extractLsb' 10 2
    let en := w.word.getLsbD 8
    let s := s.sets (w.hit 11 10 && policy.toNat != s.get (R.port_LINK_CTRL_QUAR_POLICY n)) (execQuarPolicyWrite p policy)
    let s := s.sets (w.hit 8 8 && en != s.on (R.port_LINK_CTRL_ENABLE n)) (execLinkEnableWrite p en)
    let s := s.sets (w.one 31) (execLinkRestart p)
    let s := s.sets (w.one 30) (execLinkRetrainRequest p)
    s.sets (w.one 29) (execPortClrCnt p 0)
  else if w.a = Reg.port_CTRL_TX_CMD n then s.sets (w.one 0) (execHostCtrlSend p)
  else if w.a = Reg.port_PWR_CTRL n then
    let s := s.sets (w.hit 15 8) (execPwrLimitWrite p (w.word.extractLsb' 8 8) (r 0))
    let s := s.sets (w.hit 0 0) (execPwrOnWrite p (w.word.getLsbD 0) (r 1))
    let s := s.sets (w.one 30) (execClearLockout p (r 2))
    s.sets (w.one 31) (execPwrCycle p (r 3))
  else s

/-- FOLIO.COMMIT: the hold, then REVERT, DISARM and ARM. -/
def BusWrite.folio (w : BusWrite) (f : Nat) (s : State) : State :=
  let x := Fin.ofNat 64 f
  if w.a = Reg.folio_COMMIT f then
    let s := s.sets (w.hit 0 0) (execStageHoldWrite x (w.word.getLsbD 0))
    let s := s.sets (w.one 29) (execCommitRevert x)
    let s := s.sets (w.one 30) (execCommitDisarm x)
    s.sets (w.one 31) (execCommitArm x w.mo.periods)
  else s

/-- AUDIO and MARGINALIA. -/
def BusWrite.audio (w : BusWrite) (s : State) : State :=
  if w.a = Reg.audio_BANK_CMD then s.sets (w.one 0) execBankCommit
  else if w.a = Reg.marginalia_QUERY_CMD then (s.sets (w.hit 0 0 && !w.one 0) queryBadCommand).sets (w.one 0) execQueryFetch
  else if 0x181000 ≤ w.a ∧ w.a < 0x182000 then s.after (execOutMapWrite (Fin.ofNat 1024 ((w.a - 0x181000) / 4)) w.word)
  else if 0x182000 ≤ w.a ∧ w.a < 0x184000 then s.after (execInMapWrite (Fin.ofNat 2048 ((w.a - 0x182000) / 4)) w.word)
  else s

/-- CELLAR. -/
def BusWrite.cellar (w : BusWrite) (s : State) : State :=
  if w.a = Reg.cellar_HEARTBEAT then s.after execHeartbeat
  else if w.a = Reg.cellar_INCIDENT_CMD then (s.sets (w.one 31) execIncidentSet).sets (w.one 30) execIncidentClear
  else if w.a = Reg.cellar_CMD then
    match w.num 3 0 with
    | 1 => s.after execCellarFormat
    | 2 => s.after (execCellarReadSeg w.mo.data.isSome (w.mo.data.getD []))
    | 3 => s.after execCellarRescan
    | _ => s.sets (w.hit 3 0) execCellarBadCommand
  else if w.a = Reg.cellar_DIR_CURSOR_LO ∨ w.a = Reg.cellar_DIR_CURSOR_HI then
    s.after (execDirCursorWrite (w.a == Reg.cellar_DIR_CURSOR_HI) w.word)
  else if 0x1B1000 ≤ w.a ∧ w.a < 0x1B3000 ∧ (w.a - 0x1B1000) % 32 < 12 then
    s.after (execCellarEntryWrite (Fin.ofNat 256 ((w.a - 0x1B1000) / 32)) (Fin.ofNat 3 ((w.a - 0x1B1000) % 32 / 4)) w.word)
  else s

/-- The seal command in CMD_BUF, by its OP (07_folio_commit_seal.md R223); another OP fails its form check. -/
def BusWrite.sealOp (w : BusWrite) (op : Nat) : State → Result :=
  match op with
  | 2 => execSealLoadSurface w.mo.data w.mo.storeOk
  | 3 => execSealClear w.mo.storeOk
  | _ => execSealApply w.mo.storeOk

/-- The owner command in CMD_BUF, by its SUBOP (13_strongroom.md R386); another SUBOP fails its form check. -/
def BusWrite.ownerOp (w : BusWrite) (sub : Nat) : State → Result :=
  let ok := w.mo.storeOk
  match sub with
  | 2 => execPairRevoke ok
  | 3 => execPairRemove ok
  | 4 => execPairRekey ok
  | 5 => execPairClear ok
  | 6 => execUnprotect ok
  | 7 => execCellarFormatPermit ok
  | 8 => execReroot ok w.mo.inputs
  | 9 => execRotateRec ok
  | 10 => execAddOwnerKey ok w.mo.fuseOk
  | 11 => execRevokeOwnerKey ok
  | 12 => execTamperCfg ok
  | 13 => execTakeOwnership ok w.mo.fuseOk
  | 14 => execReturnPart ok
  | 15 => execScrap ok
  | _ => execPairAdd ok

/-- STRONGROOM.CMD (13_strongroom.md R382). -/
def BusWrite.strong (w : BusWrite) (s : State) : State :=
  if w.a = Reg.strongroom_CMD ∧ w.hit 7 0 = true then
    match w.num 7 0 with
    | 1 => s.after (w.sealOp (leAt (s.cmdBuf 2) 5 1))
    | 2 => s.after (w.ownerOp (leAt (s.cmdBuf 2) 5 1))
    | 3 => s.after execAttest
    | 4 => s.after execExtend
    | 5 => s.after execRandom
    | 6 => s.after execDerive
    | 7 => s.after execGenerate
    | 8 => s.after execInvalidate
    | 9 => s.after execSign
    | 10 => s.after execHmac
    | 11 => s.after execPubkey
    | _ => s.after execStrongroomBadCommand
  else s

/-- BLOTTER and ATTIC. -/
def BusWrite.blotter (w : BusWrite) (s : State) : State :=
  if w.a = Reg.blotter_ATTIC_CMD then
    let page := BitVec.ofNat 14 (w.num 13 0)
    match w.num 31 28 with
    | 1 => s.after (execAtticRead page)
    | 2 => s.after (execAtticWrite page)
    | 3 => s.after (execAtticWriteSealed page)
    | 4 => s.after (execAtticMarginRead page)
    | 5 => s.after execAtticBufClear
    | _ => s.sets (w.hit 31 28) execAtticBadCommand
  else if 0x1F0040 ≤ w.a ∧ w.a < 0x1F0080 then
    let en (i : Nat) : Bool := w.m.getLsbD (8 * i)
    let be : BitVec 4 := BitVec.ofNat 4 ((if en 0 then 1 else 0) + (if en 1 then 2 else 0) + (if en 2 then 4 else 0) + (if en 3 then 8 else 0))
    s.after (execAtticBufWrite (Fin.ofNat 16 ((w.a - 0x1F0040) / 4)) w.v be)
  else if w.a = Reg.blotter_CAL_SET then s.after (execCalSetWrite (w.v &&& w.m))
  else if w.a = Reg.blotter_SNAP_CMD then s.sets (w.one 0) execSnapStart
  else if w.a = Reg.blotter_CLEAR_CMD then s.sets (w.one 0) (execClearSubmit w.mo.storeOk)
  else s

/-- HOSTIF. -/
def BusWrite.hostif (w : BusWrite) (s : State) : State :=
  if w.a = Reg.hostif_CTRL then s.sets (w.one 0) (execHostifClrCnt 0 false)
  else if w.a = Reg.hostif_VEC_EOI then s.sets (w.hit 7 0) (execVecEoiWrite (BitVec.ofNat 8 (w.num 7 0)))
  else if 0x208000 ≤ w.a ∧ w.a < 0x209000 then
    s.sets (w.a % 16 == 12 && w.hit 0 0) (execMsixVectorMaskWrite (Fin.ofNat 256 ((w.a - 0x208000) / 16)) (w.word.getLsbD 0))
  else if 0x200100 ≤ w.a ∧ w.a < 0x200200 then
    let c := Fin.ofNat 4 ((w.a - 0x200100) / 64)
    if w.a = Reg.hostif_DMA_CTRL c then s.sets (w.one 30) (execDmaReset c)
    else if w.a = Reg.hostif_DMA_TAIL c then s.sets (w.hit 12 0) (execDmaTailWrite c (w.word.extractLsb' 0 13))
    else s
  else s

/-- GLOBAL, FABRIC, POWER, SYSIF and MEMORY. -/
def BusWrite.system (w : BusWrite) (s : State) : State :=
  if w.a = Reg.global_RESET_CMD then s.after (execSoftResetRequest (BitVec.ofNat 16 (w.num 31 16)) (w.one 0))
  else if w.a = Reg.global_FAULT_ACK then s.sets (w.one 6) execFaultAckEcc
  else if w.a = Reg.fabric_CMD then
    match w.num 3 0 with
    | 1 => s.after (execFabricVerify w.mo.data)
    | 2 => s.after (execFabricLoad w.mo.data)
    | 3 => s.after execAdvanceSvn
    | _ => s.sets (w.hit 3 0) execFabricBadCommand
  else if w.a = Reg.power_PWR_CMD then
    match w.num 3 0 with
    | 1 => s.after execPwrCmdRun
    | 2 => s.after execPwrCmdQuiet
    | 3 => s.after (execPwrCmdStandby w.mo.replies)
    | op => s.sets (w.hit 3 0) (execPwrBadCommand (BitVec.ofNat 4 op))
  else if w.a = Reg.sysif_FLASH_CMD then
    let addr := BitVec.ofNat 28 (w.num 27 0)
    s.sets (w.hit 31 30) fun s => .next (s.flashCommand (w.num 31 30) addr.toNat)
  else if w.a = Reg.memory_CTRL then s.sets (w.one 0) (execMemoryClrCnt 0 false false)
  else s

/-- TABLES (18_register_map.md R503). -/
def BusWrite.tables (w : BusWrite) (s : State) : State :=
  if w.a < 0x310000 then
    let i := Fin.ofNat 256 ((w.a - 0x300000) / 16)
    let k := (w.a - 0x300000) % 16 / 4
    if k = 3 then s.after (execFenceWrite i w.word) else s.after (execSurfDescriptorWrite i (Fin.ofNat 3 k) w.word)
  else s.after (execCoeffTableWrite (Fin.ofNat 64 ((w.a - 0x310000) / 0x800)) (Fin.ofNat 448 ((w.a - 0x310000) % 0x800 / 4)) w.word)

/-- The commands a write sets off, by its block. -/
def BusWrite.commands (w : BusWrite) (s : State) : State :=
  match blockAt w.a with
  | .port n => w.port n s
  | .stream n => s.sets (w.a == Reg.stream_CTRL n && w.one 31) (execStreamClrCnt (Fin.ofNat 1600 n) 0)
  | .ingest c => s.sets (w.a == Reg.ingest_CTRL c && w.one 0) (execIngestClrCnt (Fin.ofNat 8 c) 0)
  | .folio f => w.folio f s
  | .motion _ => s
  | .codec _ => s
  | .coef _ => w.tables s
  | .domain d =>
    if d = 5 then w.ruling s
    else if d = 56 then w.audio s
    else if d = 9 then w.cellar s
    else if d = 3 then w.strong s
    else if d = 4 then w.blotter s
    else if d = 7 then w.hostif s
    else if 0x300000 ≤ w.a then w.tables s
    else w.system s

/-- The write of a word by a master whose target answers: plain fields first, then what the others set off (log entry 70). -/
def State.busAct (s : State) (who : Master) (mo : Moment) (a : Nat) (v m : BitVec 32) : State :=
  match regLookup a with
  | none => s
  | some h =>
    let old := s.rd h.addr
    let s := s.writeWord (fun k => plainAccess k || k == .cnt) a v m
    BusWrite.commands ⟨who, mo, h.addr, v, m, (old &&& ~~~m) ||| (v &&& m)⟩ s

/-- A write over the interconnect: dropped in a quiesced cluster, counted where the host or the core made it, ignored where no unit
answers (R357; 02_fabric_image.md R84), but for LINK_CTRL.CLR_CNT of an SDI port (04_sdi_ports.md R126). -/
def State.busWrite (s : State) (who : Master) (mo : Moment) (a : Nat) (v m : BitVec 32) : State :=
  if (s.clusterOfAddr a).any s.quiesced then (if who = .debug then s else s.bump R.fabric_WINDOW_DROP)
  else if s.regLive a then s.busAct who mo a v m
  else match blockAt a with
    | .port n =>
      s.sets (a == Reg.port_LINK_CTRL n && (s.sdiIn n || s.sdiOut n) && (v &&& m).getLsbD 29) (execPortClrCnt (Fin.ofNat 96 n) 0)
    | _ => s

/-! ### Rows that write or read one register -/

/-- R8: fields with no row of their own. -/
def execRegisterWrite (addr : BitVec 22) (value : BitVec 32) (be : BitVec 4) (s : State) : Result :=
  .next (s.regWrite plainAccess addr.toNat value (byteMask be))

/-- R12: lowered, not below 0. -/
def execEventCounterWrite (addr : BitVec 22) (value : BitVec 32) (be : BitVec 4) (s : State) : Result :=
  .next (s.regWrite (fun k => k == .cnt) addr.toNat value (byteMask be))

/-- R18, R19. -/
def execReadPop (addr : BitVec 22) (s : State) : Result :=
  let (v, s) := s.busRead addr.toNat
  .next (s.emit (.readData v))

/-! ### The interconnect (R353 to R357) -/

/-- A transaction enters the debug trace (16_startup_faults.md R478). -/
def State.traced (s : State) (t : TraceEntry) : State :=
  if s.domainOn 60 then
    let s := if s.trace.length < 4096 then s else s.bump R.global_TRACE_LOST
    s.pushTrace t
  else s

/-- The byte enables of the word at `w` for a request of bytes [a, a + len). -/
def lanesOf (a len w : Nat) : BitVec 4 :=
  BitVec.ofNat 4 ((List.range 4).foldl (fun n i => if a ≤ w + i ∧ w + i < a + len then n + 2 ^ i else n) 0)

/-- The words a request of bytes [a, a + len) touches, the lower first; one of no bytes touches none (log entry 96). -/
def reqWords (a len : Nat) : List Nat := (List.range 2).map (fun i => a / 4 * 4 + 4 * i) |>.filter fun w => len != 0 && w < a + len

/-- R343, R355: a request is rejected with Unsupported Request (completion status 1), or acts word by word. -/
def execBar0Request (write : Bool) (addr : BitVec 22) (len : Nat) (data : List (BitVec 8)) (at' : Moment) (s : State) : Result :=
  let a := addr.toNat
  if s.domainOn 7 = false then .next s
  else if !bar0Decodes a || 8 < len || (len != 0 && a / 8 != (a + len - 1) / 8) then
    .next (if write then s else s.emit (.completion 1 []))
  else
    let ws := reqWords a len
    let s := s.traced ⟨.host, write, 0x40000000 + a, ws.length, false⟩
    if write then
      .next (s.each ws fun s w =>
        let bytes := (List.range 4).map fun i => if a ≤ w + i then data.getD (w + i - a) 0 else 0
        s.busWrite .host at' w (BitVec.ofNat 32 (leNat bytes)) (byteMask (lanesOf a len w)))
    else
      let (bs, s) := ws.foldl (fun (x : List Byte × State) w => let (v, s) := x.2.busRead w; (x.1 ++ wordBytes v, s)) ([], s)
      .next (s.emit (.completion 0 (slice bs (a % 4) len)))

/-- R350. -/
def execDmaRegWrite (chan : Fin 4) (dst : BitVec 64) (value : BitVec 32) (flags : BitVec 8) (ok : Bool) (at' : Moment) (s : State) : Result :=
  .next (s.descriptor chan ok fun s =>
    let a := dst.toNat
    if a % 4 ≠ 0 ∨ bar0Decodes a = false then s.descFails chan 5
    else
      let s := s.traced ⟨.host, true, 0x40000000 + a, 1, false⟩
      (s.busWrite .host at' a value (BitVec.allOnes 32)).descDone chan flags 1)

/-- The targets of R505. -/
inductive IcxTarget where
  | rom | sram | attic | flash | registers
  deriving DecidableEq, Repr

/-- The target that decodes an address, and the offset in it. -/
def icxTarget (a : Nat) : Option (IcxTarget × Nat) :=
  if a < 0x20000 then some (.rom, a)
  else if 0x10000000 ≤ a ∧ a < 0x10800000 then some (.sram, a - 0x10000000)
  else if 0x20000000 ≤ a ∧ a < 0x20100000 then some (.attic, a - 0x20000000)
  else if 0x30000000 ≤ a ∧ a < 0x40000000 then some (.flash, a - 0x30000000)
  else if 0x40000000 ≤ a ∧ a < 0x40400000 ∧ bar0Decodes (a - 0x40000000) = true then some (.registers, a - 0x40000000)
  else none

/-- What the debug port reaches at a debug level (13_strongroom.md R405). -/
def debugReaches (level : Nat) (write : Bool) (t : IcxTarget) (o : Nat) : Bool :=
  if level = 2 then true
  else if level = 1 then
    !write && (match t with
      | .registers => decide (o < 0x1D0000) || decide (0x1E0000 ≤ o)
      | .attic => true
      | .sram => true
      | _ => false)
  else false

/-- The paths of R353. -/
def State.icxPath (s : State) (m : Master) (write : Bool) (t : IcxTarget) (o : Nat) : Bool :=
  match m with
  | .core => true
  | .host => t == .registers
  | .strongroom => t == .attic || t == .sram || t == .flash
  | .blotter => t == .attic
  | .debug => debugReaches s.debugLevel write t o

/-- A word read from a target; the debug port never pops (R20). -/
def State.icxRead (s : State) (m : Master) (t : IcxTarget) (o : Nat) : BitVec 32 × State :=
  let word (f : Nat → Byte) : BitVec 32 := BitVec.ofNat 32 (leNat ((List.range 4).map fun i => f (o + i)))
  match t with
  | .rom => (word Config.romByte, s)
  | .sram => (word fun i => Sparse.get (fun _ => 0) s.sram i, s)
  | .attic => (if s.domainOn 4 then word fun i => (s.atticAt i).val else 0, s)
  | .flash => (word s.flashByte, s)
  | .registers => if m = .debug then (s.peek o, s) else s.busRead o

/-- A word written to a target. The ROM and the flash window take no write; the Attic is written by page write commands only, whose
command ports the spec does not lay out (15_attic_blotter.md R438; log entry 68). -/
def State.icxWrite (s : State) (m : Master) (mo : Moment) (t : IcxTarget) (o : Nat) (v : BitVec 32) : State :=
  match t with
  | .sram => s.each (wordBytes v).zipIdx fun s p => s.setSram (o + p.2) p.1
  | .registers => s.busWrite m mo o v (BitVec.allOnes 32)
  | _ => s

/-- The beats of a burst, at consecutive addresses. -/
def State.icxBeats (s : State) (m : Master) (write : Bool) (t : IcxTarget) (o beats : Nat) (data : List (BitVec 32)) (mo : Moment) :
    List (BitVec 32) × State :=
  (List.range beats).foldl (fun (x : List (BitVec 32) × State) i =>
    if write then (x.1, x.2.icxWrite m mo t (o + 4 * i) (data.getD i 0))
    else
      let (v, s) := x.2.icxRead m t (o + 4 * i)
      (x.1 ++ [v], s)) ([], s)

/-- Whether a master may carry out a burst: a target that all of it decodes to, on a path that exists. -/
def State.icxGrant (s : State) (m : Master) (write : Bool) (a beats : Nat) : Option (IcxTarget × Nat) :=
  match icxTarget a, icxTarget (a + 4 * (beats - 1)) with
  | some (t, o), some (u, _) => if t = u ∧ s.icxPath m write t o = true then some (t, o) else none
  | _, _ => none

/-- R353 to R357: a granted transaction; one without path or target ends at once with a decode error (R356). -/
def execIcxTransaction (master : Master) (write : Bool) (addr : BitVec 32) (beats : Fin 17) (data : List (BitVec 32)) (at' : Moment)
    (s : State) : Result :=
  let a := addr.toNat / 4 * 4
  let n := beats.val
  if n = 0 ∨ s.domainOn 2 = false then .next s
  else match s.icxGrant master write a n with
    | none =>
      let s := s.traced ⟨master, write, a, n, true⟩
      .next ((s.icxError master false write addr.toNat).icxAnswerError master write n)
    | some (t, o) =>
      let (ws, s) := (s.traced ⟨master, write, a, n, false⟩).icxBeats master write t o n data at'
      .next (match master with
        | .host => if write then s else s.emit (.completion 0 (ws.flatMap wordBytes))
        | _ => s.emit (.icx master false ws))

/-! ### DBG_ACCESS (13_strongroom.md R400, R405) -/

/-- DATA and the status of an access that has ended: 0 OK, 1 refused by level, 2 interconnect error. -/
def dbgResult (r : BitVec 68) (data : BitVec 32) (status : BitVec 2) : BitVec 68 := status ++ r.extractLsb' 64 2 ++ r.extractLsb' 32 32 ++ data

/-- The access that GO asks for. -/
def State.dbgGo (s : State) (r : BitVec 68) (mo : Moment) : State :=
  let data : BitVec 32 := r.extractLsb' 0 32
  let a := (r.extractLsb' 32 32).toNat / 4 * 4
  let write := r.getLsbD 64
  let set (s : State) (d : BitVec 32) (st : BitVec 2) : State := s.modStrong fun u => { u with dbgReg := dbgResult r d st }
  if s.debugLevel ≠ 1 ∧ s.debugLevel ≠ 2 then set s data 1
  else match icxTarget a with
    | none => set ((s.traced ⟨.debug, write, a, 1, true⟩).icxError .debug false write a) (if write then data else 0) 2
    | some (t, o) =>
      if debugReaches s.debugLevel write t o = false then set s data 1
      else
        let s := s.traced ⟨.debug, write, a, 1, false⟩
        if write then set (s.icxWrite .debug mo t o data) data 0
        else
          let (v, s) := s.icxRead .debug t o
          set s v 0

/-- `shift` is the register as shifted in, while the one captured before it shifts out; without GO no access is made. -/
def execDbgAccess (shift : BitVec 68) (at' : Moment) (s : State) : Result :=
  if s.tapDead ∨ s.noSession then .next s
  else
    let old := s.strong.dbgReg
    let s := ((s.setIr 0x23).modStrong fun u => { u with extest := false }).emit (.tap ((List.range 68).map old.getLsbD))
    .next (if shift.getLsbD 65 then s.dbgGo shift at'
      else s.modStrong fun u => { u with dbgReg := dbgResult shift (shift.extractLsb' 0 32) (old.extractLsb' 66 2) })

end Sys2Proof.Machine
end

