-- ==== Sys2Proof/Machine/Load.lean ====
section
/-!
DEFINITION. Bringing an image into force: INIT_WRITES, a full load at run time, and the quiesce and release of one cluster
(02_fabric_image.md R78 to R86; 10_stream_memory.md R294).
-/
namespace Sys2Proof.Machine
open Sys2Proof

/-! ### The admitted class-0 loads (R87; 10_stream_memory.md R294) -/

/-- Bits per pixel of a storage format (R70). -/
def formatBits (code : Nat) : Nat :=
  match code with | 1 => 24 | 2 => 18 | 3 => 36 | 4 => 20 | 5 => 15 | 6 => 32 | _ => 0

def sumRat (l : List Rat) : Rat := l.foldl (fun a b => a + b) 0

/-- P_s, k_s and the loads of a stream. -/
def StreamRec.pixels (r : StreamRec) : Rat := (r.width * r.height * r.rateNum : Nat) / (r.rateDen : Rat)
def StreamRec.sketchShare (r : StreamRec) : Rat :=
  let bit (i : Nat) (v : Rat) : Rat := if r.sketch.testBit i then v else 0
  bit 0 (1 / 4) + bit 1 (1 / 16) + bit 2 (1 / 64)
def StreamRec.writeLoad (r : StreamRec) : Rat := r.pixels * (formatBits r.storeFmt : Rat) * (1 + r.sketchShare)
def StreamRec.motionLoad (r : StreamRec) : Rat := r.pixels * ((formatBits r.storeFmt : Rat) / 8 + 1 / 32)
def StreamRec.encodeLoad (r : StreamRec) : Rat := r.pixels * (formatBits r.storeFmt : Rat) * (r.recEntries + r.readers / 2 % 2 : Nat)

/-- The load of a pane. -/
def PaneRec.load (p : PaneRec) : Rat :=
  (p.declFetch * 1000 * formatBits p.fetchFmt : Nat) + (if p.motion then ((p.declFetch * 1000 : Nat) : Rat) / 32 else (0 : Rat))

/-- The class-0 loads of a Folio: its panes, its writeback, its dry cache. -/
def Structure.folioLoad (st : Structure) (r : FolioRec) : Rat :=
  let panes := st.panes.filter fun p => p.folio == r.folio
  let x : Rat := (r.maxPixrate * 1000 : Nat)
  let wb := r.writeback && st.streams.any fun q => q.stream == r.wbStream && q.cls == 0
  let dry := r.drySize != 0 && panes.any fun p => p.cls == 0
  sumRat ((panes.filter fun p => max p.cls p.srcClass == 0).map PaneRec.load)
    + (if wb then x * (formatBits r.wbFmt : Rat) else (0 : Rat)) + (if dry then x * 36 else (0 : Rat))

/-- The class-0 load in bit/s of requester port `p`: ingest clusters 0 to 7, motion units 8 and 9, Folio clusters 10 to 17, codec
clusters 18 to 21 (log entry 71 for the last). -/
def Structure.portLoad (st : Structure) (p : Nat) : Rat :=
  let zero := st.streams.filter fun r => r.cls == 0
  if p < 8 then sumRat ((zero.filter fun r => decide (r.stream < 1536) && r.ingest == p).map StreamRec.writeLoad)
  else if p < 10 then sumRat ((zero.filter fun r => r.motion && r.motionUnit == p - 8).map StreamRec.motionLoad)
  else if p < 18 then sumRat ((st.folios.filter fun r => r.folio / 8 == p - 10).map st.folioLoad)
  else
    let total := sumRat (zero.map StreamRec.encodeLoad)
    if total = 0 then 0 else Config.codecAdmitted (p - 18) total

/-- The admitted load of a port in whole bytes per 1 ms window. -/
def State.admitPort (s : State) (p : Nat) : State :=
  s.modMem fun m => { m with admitted := Sparse.set (fun _ => 0) m.admitted p (s.fabric.now.portLoad p / 8000).floor.toNat }

/-! ### INIT_WRITES (R81) -/

/-- The write of one record to a register. The synthesizers' control and the Ruling's format take it as no bus write does; a port's
LINK_CTRL and CELLAR.CTRL only take their values, since no unit of the scope starts before its release. -/
def State.initAct (s : State) (mo : Moment) (a : Nat) (v : BitVec 32) : State :=
  match regLookup a with
  | none => s
  | some h =>
    let isLink := match blockAt a with | .port n => h.addr == Reg.port_LINK_CTRL n | _ => false
    if h.addr = Reg.ruling_REF_FORMAT ∨ h.addr = Reg.clock_CTRL 0 ∨ h.addr = Reg.clock_CTRL 1 then
      let w := h.row.fields.foldl (fun w f => if f.acc == .rwi then setBits w f.hi f.lo (getBits v f.hi f.lo) else w) (s.rd h.addr)
      (s.wr h.addr w).applyFreq
    else if isLink || h.addr == Reg.cellar_CTRL then
      s.wr h.addr (h.row.write (fun k => plainAccess k || k == .own) h.mirror v (BitVec.allOnes 32) (s.rd h.addr))
    else s.busAct .core mo a v (BitVec.allOnes 32)

/-- One record, for the whole device or for the blocks of cluster `scope`; `replies` are per port those of its power bus. -/
def State.initWrite (s : State) (scope : Option Nat) (replies : List (Nat × List (BitVec 17))) (a : Nat) (v : BitVec 32) : State :=
  if bar0Decodes a = false ∨ (scope.isSome = true ∧ s.clusterOfAddr a ≠ scope) then s.bump R.fabric_INIT_SKIPPED
  else if s.regLive a then
    let rs := match blockAt a with
      | .port n => ((replies.find? fun p => p.1 == n).map (·.2)).getD []
      | _ => []
    s.initAct ⟨0, 0, 0, rs, none, true, true, 0⟩ a v
  else s

/-- All records in order; writes to a cluster that is being loaded are not dropped. -/
def State.initWrites (s : State) (scope : Option Nat) (im : LoadedImage) (replies : List (Nat × List (BitVec 17))) : State :=
  let load := s.fabric.load
  let s := (s.modFabric fun u => { u with load := none }).wr Reg.fabric_INIT_SKIPPED 0
  let s := s.each im.body.initWrites fun s p => s.initWrite scope replies p.1 p.2
  s.modFabric fun u => { u with load := load }

/-! ### Release -/

/-- The staged page of a Folio becomes its active page, with no commit event (R81). -/
def State.stagedActive (s : State) (f : Nat) : State := s.activate f (s.commitValues f [])

/-- The staged mixer bank becomes the active one with the release (R81; log entry 73). -/
def State.mixActive (s : State) : State :=
  s.each (s.regs.filter fun p => decide (0x188000 ≤ p.1) && decide (p.1 < 0x18C000)) fun s p => s.wr (p.1 + 0x4000) p.2

/-- Every unit of the image is released (16_startup_faults.md R469): stored seal commands act first (07_folio_commit_seal.md R225). -/
def State.releaseUnits (s : State) (target : Nat) : State :=
  let folios := s.fabric.now.folios.map fun r => r.folio
  let s := s.each (List.range 64) State.sealStart
  let s := (s.each folios State.stagedActive).mixActive
  let s := s.each (allDomains.filter (s.powered target)) State.domainStarts
  s.showStops (target == 1)

/-! ### Full loads (R80) -/

/-- Every unit outside D00 to D07 and D61 is reset. The stream memory stays trained, and what it holds stays; so do the Ruling's format
and the synthesizers' control, which lie in D05, until a record of the new image writes them (log entry 112). -/
def State.unitsReset (s : State) : State :=
  let keep (a : Nat) : Bool := bareDomain (s.domainOfAddr a) || a == Reg.memory_STATUS
  let bank := s.on R.audio_BANK_STATUS_PENDING
  let t : State :=
    { s with
      regs := s.regs.filter fun p => keep p.1
      ports := [], streams := [], mots := [], xsWaiting := [], audio := {}, cellar := {}, folios := [], loads := []
      mem := { bytes := s.mem.bytes, ecc := s.mem.ecc, samples := s.mem.samples, bandRun := s.mem.bandRun, windowBand := s.mem.windowBand,
               class0 := s.mem.class0, slotPhase := s.mem.slotPhase } }
  t.raiseIf bank Flag.audio_BANK_CLEARED

/-- A full image is in force (R80): `source` is 1 flash primary, 2 flash secondary, 3 host. Measured and recorded (13_strongroom.md
R397; 15_attic_blotter.md R453). -/
def State.takeFull (s : State) (im : LoadedImage) (source : Nat) : State :=
  let s := s.modFabric fun u => { u with now := im.body, partials := [] }
  let s := ((s.put R.fabric_STATE_CONFIGURED 1).put R.fabric_STATE_SOURCE source).put R.fabric_STATE_SVN im.svn
  let s := ((s.putBytes (Reg.fabric_BASE_HASH 0) im.structHash).wr Reg.fabric_PARTIAL_MASK_LO 0).wr Reg.fabric_PARTIAL_MASK_HI 0
  let s := (s.placeStreams [] im.body.streams).showStructure
  let s := s.each (List.range 22) State.admitPort
  let s := (s.extend 1 im.structHash).extend 1 (sha384 im.pubkey)
  (s.blotter 0x0302 1 (leBytes 1 im.svn ++ leBytes 1 0)).setFault 0 false

/-- A load may act: the Ruling's frame boundaries reach the units in RUN and QUIET, and no transition is under way. -/
def State.loadTarget (s : State) : Option Nat :=
  let st := s.get R.power_PWR_STATE_STATE
  if st ≤ 1 ∧ s.inReset = false then some st else none

/-- R80: at the frame boundary after the Cellar has closed its segments. `replies` are those of the port power bus, by port, for the
PWR_CTRL records of INIT_WRITES (03_rasyn_link.md R124). Where the stream memory has not been trained yet, the units wait for it;
after MEMORY_FAIL they are not released (16_startup_faults.md R472). -/
def execFullLoadApply (replies : List (Nat × List (BitVec 17))) (s : State) : Result :=
  match s.fabric.load, s.loadTarget with
  | some (.fullPending, im), some target =>
    if s.celMode = .ready ∧ s.cellar.closing ≠ [] then .next s
    else
      let s := (s.modFabric fun u => { u with load := none }).unitsReset
      let s := s.takeFull im 3
      let s := (s.setDomains (s.powered target)).initWrites none im replies
      let s := s.fabricDone 0 0
      if s.get R.global_BOOT_STATUS_STAGE = 5 then .next s
      else if s.on R.memory_STATUS_TRAINED then .next (s.releaseUnits target)
      else .next ((s.put R.global_BOOT_STATUS_STAGE 2).modBoot fun b => { b with waiting := true })
  | _, _ => .next s

/-! ### Partial loads (R82 to R85, R510) -/

/-- The structure with the records of one cluster replaced. -/
def Structure.amend (old new : Structure) (c : Nat) : Structure :=
  let named (r : StreamRec) : Bool := new.streams.any fun q => q.stream == r.stream
  let streams (out : StreamRec → Bool) : List StreamRec := (old.streams.filter fun r => !out r && !named r) ++ new.streams
  if c < 24 then
    { old with ports := (old.ports.filter fun r => r.port / 4 != c) ++ new.ports,
               streams := streams fun r => decide (r.stream < 1536) && r.stream / 64 == c }
  else if c < 32 then
    { old with ingest := (old.ingest.filter fun i => i != c - 24) ++ new.ingest,
               streams := streams fun r => decide (r.stream < 1536) && r.ingest == c - 24 }
  else if c < 40 then
    { old with folios := (old.folios.filter fun r => r.folio / 8 != c - 32) ++ new.folios,
               panes := (old.panes.filter fun r => r.folio / 8 != c - 32) ++ new.panes,
               streams := streams fun r => decide (1536 ≤ r.stream) && r.wbFolio / 8 == c - 32 }
  else { old with codecs := (old.codecs.filter fun r => r.engine / 8 != c - 40) ++ new.codecs }

/-- The units of a cluster stop (R83; 07_folio_commit_seal.md R213; 08_raster_out.md R254; 09_audio_marginalia.md R272; 11_codecs_cellar.md R314). -/
def State.quiesceUnits (s : State) (c : Nat) : State :=
  if c < 24 then s.each ((List.range 4).map fun i => 4 * c + i) State.portStops
  else if c < 32 then s.ingestStops (c - 24)
  else if c < 40 then
    s.each (s.clusterFolios (c - 32)) fun s f =>
      let s := ((s.commitClear f).discardChange f).quiesceAudio f
      if s.raster f = .off then s else s.rasterStops f
  else (s.each ((List.range 8).map fun i => 8 * (c - 40) + i) State.engineStops).dropQueued c

/-- A register of a cluster being re-structured: what software and the image write takes its reset value, status, flags, counters and
the seal commands stay (R84; log entry 74). -/
def RegRow.restructured (r : RegRow) (w : BitVec 32) : BitVec 32 :=
  r.fields.foldl (fun w f => match f.acc with
    | .rw | .rws | .rwi | .own => setBits w f.hi f.lo f.reset
    | _ => w) w

def State.resetCluster (s : State) (c : Nat) : State :=
  let regs := s.regs.filter fun p => s.clusterOfAddr p.1 == some c
  s.each regs fun s p => match regLookup p.1 with | none => s | some h => s.wr p.1 (h.row.restructured p.2)

/-- The requester port of a cluster, where it is one (10_stream_memory.md R294). -/
def clusterPort (c : Nat) : Option Nat :=
  if c < 24 then none else if c < 32 then some (c - 24) else if c < 40 then some (10 + (c - 32)) else some (18 + (c - 40))

/-- Whether a cluster has units present. -/
def Structure.populated (st : Structure) (c : Nat) : Bool :=
  if c < 24 then st.ports.any fun r => r.port / 4 == c
  else if c < 32 then st.ingest.contains (c - 24)
  else if c < 40 then st.folios.any fun r => r.folio / 8 == c - 32
  else st.codecs.any fun r => r.engine / 8 == c - 40

/-- R82: at the frame boundary after verification the cluster is quiesced, its records and INIT_WRITES are applied. `replies` as for
a full load. -/
def execPartialQuiesce (replies : List (Nat × List (BitVec 17))) (s : State) : Result :=
  match s.fabric.load, s.loadTarget with
  | some (.partialPending, im), some _ =>
    let c := im.cluster
    let s := ((s.raise Flag.fabric_PARTIAL_START).put R.fabric_STATE_PARTIAL_BUSY 1).quiesceUnits c
    let old := s.fabric.now
    let now := old.amend im.body c
    let s := (s.resetCluster c).modFabric fun u => { u with load := some (.quiesced, im), now := now }
    let s := (s.placeStreams old.streams now.streams).showStructure
    let s := match clusterPort c with | none => s | some p => s.admitPort p
    let up := now.populated c
    let was := s
    let s := s.setDomains fun d => was.domainOn d || (d == clusterDomain c && up)
    .next (s.initWrites (some c) im replies)
  | _, _ => .next s

/-- R82: at the frame boundary after applying, the cluster is released. -/
def execPartialRelease (s : State) : Result :=
  match s.fabric.load with
  | some (.quiesced, im) =>
    let c := im.cluster
    let s := s.modFabric fun u =>
      { u with load := none, partials := Sparse.set (fun _ => ([] : List Byte)) u.partials c im.structHash }
    let s := (s.put R.fabric_STATE_PARTIAL_BUSY 0).put
      (if c < 32 then ⟨Reg.fabric_PARTIAL_MASK_LO, c, c⟩ else ⟨Reg.fabric_PARTIAL_MASK_HI, c - 32, c - 32⟩) 1
    let s := s.extend 2 im.structHash
    let s := (s.blotter 0x0302 2 (leBytes 1 im.svn ++ leBytes 1 c)).raise Flag.fabric_PARTIAL_END
    let s := if 32 ≤ c ∧ c < 40 then
        s.each (s.clusterFolios (c - 32)) fun s f => (s.stagedActive f).modFolio f fun x => { x with common := true }
      else s
    let s := if s.domainOn (clusterDomain c) then s.domainStarts (clusterDomain c) else s
    .next (s.fabricDone 0 0)
  | _ => .next s

end Sys2Proof.Machine
end

