-- ==== Sys2Proof/Machine/Boot.lean ====
section
/-!
DEFINITION. The cold boot: fuses, firmware, Attic and fabric image, then training and release (16_startup_faults.md R467 to R473;
13_strongroom.md R368 to R375; 12_host_control.md R360; 02_fabric_image.md R77, R78).
-/
namespace Sys2Proof.Machine
open Sys2Proof

/-! ### Boot flash (12_host_control.md R360) -/

def State.flashBytes (s : State) (a n : Nat) : List Byte := (List.range n).map fun i => s.flashByte (a + i)

/-- A directory copy whose DCRC is good. -/
def State.dirCopy (s : State) (a : Nat) : Option (List Byte) :=
  let b := s.flashBytes a 580
  if (crc32 (b.take 576)).toNat = leAt b 576 4 then some b else none

/-- The directory in use: the copy with the higher DIR_SEQ. -/
def State.flashDir (s : State) : Option (List Byte) :=
  match s.dirCopy 0, s.dirCopy 0x10000 with
  | some a, some b => some (if leAt a 8 4 < leAt b 8 4 then b else a)
  | some a, none => some a
  | none, b => b

/-- The first used entry of a type. -/
def dirEntry (dir : List Byte) (type : Nat) : Option Nat :=
  ((List.range (min 16 (leAt dir 6 2))).map fun e => 64 + 32 * e).find? fun o => leAt dir o 1 == type

/-- The bytes an entry names. -/
def State.entryBytes (s : State) (dir : List Byte) (o : Nat) : List Byte := s.flashBytes (leAt dir (o + 4) 4) (leAt dir (o + 8) 4)

/-! ### Fuses (13_strongroom.md R368, R369, R372) -/

/-- Thermometers are completed, then an interrupted transition of the lifecycle. -/
def State.completeFuses (s : State) : State :=
  let f := s.strong.fuses
  let (l, lw) := thermoFill f.lifecycle f.lifecycleWeak
  let (v, vw) := thermoFill f.svn f.svnWeak
  let done := l != f.lifecycle || lw != f.lifecycleWeak || v != f.svn || vw != f.svnWeak
  let s := s.modFuses fun f => { f with lifecycle := l, lifecycleWeak := lw, svn := v, svnWeak := vw }
  let s := if done then s.put R.global_BOOT_STATUS_FUSE_COMPLETED 1 else s
  let owners := [0, 1, 2, 3].filter f.ownerProg.getLsbD
  let live := owners.filter fun i => !f.ownerRevoked.getLsbD i
  match s.lifecycle with
  | .vendor => if live.isEmpty then s else s.nextLifecycle
  | .returned => if live.isEmpty then s else s.nextLifecycle
  | .owned => if !owners.isEmpty && live.isEmpty then s.nextLifecycle else s
  | _ => s

/-- A field with no bit blown has nothing to check (log entry 76). -/
def CrcField.blank (f : CrcField) : Bool := f.crc == 0 && f.octets.all fun b => b == 0

/-- The fields whose CRC fails, numbered 0 DEVICE_UID, 1 DEVICE_SECRET, 2 VENDOR_KEY_HASH, 3 to 6 OWNER_KEY_HASH of programmed slots,
7 ENDORSEMENT (log entry 76). -/
def Fuses.failures (f : Fuses) : List Nat :=
  let bad (x : CrcField) (n : Nat) : Bool := !x.blank && !x.good n
  let owner (i : Nat) : Bool := f.ownerProg.getLsbD i && bad (Sparse.get (fun _ => ({} : CrcField)) f.ownerHash i) 48
  [bad f.uid 16, bad f.secret 48, bad f.vendorHash 48, owner 0, owner 1, owner 2, owner 3, bad f.endorsement 96].zipIdx.filterMap
    fun p => if p.1 then some p.2 else none

/-! ### The battery-backed domain (13_strongroom.md R375) -/

/-- The check word fails after a loss of D01: generations resume one above their saved values, the life clock at its saved value, and
the loss is a tamper of source 4 during start-up. -/
def State.vbatRecovered (s : State) : State :=
  if s.strong.rootCheck then s
  else
    (s.modStrong fun u =>
      let gen (n : Nat) : Nat := (((u.savedSlotGens.find? fun p => p.1 == n).map (·.2)).getD 0 + 1) % 2 ^ 16
      let halves := (List.range 32).foldl (fun m n =>
        Sparse.set (fun _ => ({} : KeySlot)) m (2 * n) ({ gen := gen n } : KeySlot)) []
      { u with root := [], rootCheck := true, zeroCause := 2, rootGen := (u.savedRootGen + 1) % 2 ^ 32, bank := ⟨halves, 0⟩,
               lifeClock := u.savedLife, tampered := true, tamperCount := 1, tamperLog := [⟨u.savedLife, 4, 4, false⟩] }).saveGens

/-- A pending change of the pairing list one above the tag in force is completed (R388). -/
def State.completeList (s : State) : State :=
  match s.strong.pendEntry with
  | none => s
  | some (t, i, e) =>
    let now := match s.listTag with | none => 0 | some t => t.seq
    let s := s.modStrong fun u => { u with pendEntry := none }
    if t.seq = now + 1 then (s.storePage (4608 + i) e).writeTag t else s

/-! ### Firmware (R468) -/

/-- The content of a Zalu copy (type 1 A, 2 B) that can be used, with the key hash that verifies it. -/
def State.zalu (s : State) (type : Nat) : Option (List Byte × List Byte) :=
  match s.flashDir, s.fusedHash 0xFF with
  | some dir, some h =>
    match dirEntry dir type with
    | none => none
    | some o =>
      let b := s.entryBytes dir o
      if (crc32 b).toNat = leAt dir (o + 12) 4 ∧ Config.zaluVerifies b h = true then some (b, h) else none
  | _, _ => none

/-- The copy loaded: A first, or the other one than last time after an early WATCHDOG reset; none after four of them. -/
def State.chooseZalu (s : State) : Option (Bool × List Byte × List Byte) :=
  if 4 ≤ s.boot.dogRun then none
  else
    let first := if s.boot.dogRun = 0 then false else !s.boot.copyB
    let take (b : Bool) : Option (Bool × List Byte × List Byte) := (s.zalu (if b then 2 else 1)).map fun p => (b, p.1, p.2)
    match take first with
    | some x => some x
    | none => take (!first)

/-- FIRMWARE_FAIL. -/
def State.firmwareFails (s : State) : State :=
  ((s.setDomains fun d => decide (d ≤ 2) || d == 7 || d == 61).put R.global_BOOT_STATUS_STAGE 6).setFault 1 true

/-- Zalu starts: measured (13_strongroom.md R397) and shown. -/
def State.zaluStarts (s : State) (copyB : Bool) (image hash : List Byte) : State :=
  let s := (s.extend 0 (sha384 image)).extend 0 hash
  let s := (s.put R.global_BOOT_STATUS_STAGE 1).put R.global_BOOT_STATUS_ZALU_COPY (if copyB then 1 else 0)
  (s.modBoot fun b => { b with copyB := copyB }).modStrong fun u => { u with zaluVersion := Config.zaluVersion image }

/-! ### What Zalu does (R466, R467, R435; 15_attic_blotter.md R448, R452) -/

/-- Records pending at the reset that were lost are counted (R466). -/
def State.countLostRecords (s : State) : State :=
  let n := s.boot.lost
  let s := s.modBoot fun b => { b with lost := 0 }
  if n = 0 then s else (s.bumpBy R.blotter_PERSIST_FAIL n).blotter 0x0006 0 (leBytes 4 0 ++ leBytes 4 n)

/-- The shutdown note of the last thermal shutdown is copied (14_power_thermal.md R435). -/
def State.copyNote (s : State) : State :=
  match s.power.note with
  | none => s
  | some (sensor, temp, life) =>
    let s := ((s.put R.power_SD_NOTE_VALID 1).put R.power_SD_NOTE_SENSOR sensor).putInt R.power_SD_NOTE_TEMP temp
    let s := (s.put R.power_SD_LIFE_S life).blotter 0x000A sensor (leBytes 4 life ++ leBytes 2 (twos 16 temp))
    (s.raise Flag.power_SHUTDOWN_SEEN).modPower fun p => { p with note := none }

/-- Fuse fields whose CRC fails are recorded and show as a fault (13_strongroom.md R369; R476). -/
def State.reportFuses (s : State) : State :=
  let l := s.strong.fuses.failures
  let s := s.each l fun s i => s.blotter 0x0204 i []
  if l.isEmpty then s else s.setFault 5 true

/-- The Attic, the Blotter and the Strongroom start; `floor` as for bootAttic. -/
def State.zaluBoots (s : State) (floor : Option (Nat × Nat)) (entropyOk : Bool) : State :=
  let s := (s.put R.strongroom_DRBG_STATUS_OK (if entropyOk then 1 else 0)).setFault 9 (!entropyOk)
  let s := s.raiseIf (!entropyOk) Flag.strongroom_ENTROPY_FAIL
  let s := (s.bootAttic floor).countLostRecords
  let s := s.modBoot fun b => { b with recorded := true, opS := s.get R.blotter_OP_S, opFrac := s.get R.blotter_OP_FRAC }
  let s := s.modStrong fun u => { u with savedLife := u.lifeClock }
  s.completeList.readTamper.reportFuses.copyNote

/-! ### The boot image (R469; 02_fabric_image.md R77, R78) -/

/-- What a boot image entry (type 3 primary, 4 secondary) holds: the bytes of an image that passes R75, or the STATUS code of its
failure; no entry is BAD_FORM (log entry 77). -/
def State.bootImage (s : State) (type : Nat) : Except Nat (List Byte) :=
  match s.flashDir with
  | none => .error 2
  | some dir =>
    match dirEntry dir type with
    | none => .error 2
    | some o =>
      let b := s.entryBytes dir o
      match s.imageFault b (leAt dir (o + 8) 4) true with
      | some (st, _) => .error st
      | none => .ok b

/-- An image copy has failed. -/
def State.imageFails (s : State) (copy st : Nat) : State := s.blotter 0x0301 copy (leBytes 2 st)

/-- A boot image is applied, and its units wait for training and release. -/
def State.bootWith (s : State) (bs : List Byte) (source : Nat) (replies : List (Nat × List (BitVec 17))) : State :=
  let im := loadedImage bs
  let s := s.takeFull im source
  let s := (s.setDomains (s.powered 0)).initWrites none im replies
  (s.put R.global_BOOT_STATUS_STAGE 2).modBoot fun b => { b with waiting := true }

/-- The secondary image, else none: the device stays unconfigured. -/
def State.loadSecondary (s : State) (replies : List (Nat × List (BitVec 17))) : State :=
  match s.bootImage 4 with
  | .ok bs => s.bootWith bs 2 replies
  | .error st => ((s.imageFails 1 st).put R.global_BOOT_STATUS_STAGE 4).setFault 0 true

/-- The primary image, else the secondary. -/
def State.loadBootImage (s : State) (replies : List (Nat × List (BitVec 17))) : State :=
  match s.bootImage 3 with
  | .ok bs => s.bootWith bs 1 replies
  | .error st => ((s.imageFails 0 st).raise Flag.fabric_BOOT_FALLBACK).loadSecondary replies

/-! ### The rows -/

/-- Whether D00 holds the device in reset for its temperature (14_power_thermal.md R435). -/
def State.tooHot (s : State) : Bool :=
  decide (10 * (s.get R.power_TH_CFG_SHUTDOWN : Int) - 50 ≤ s.getInt R.power_TH_STATUS_T_MAX)

/-- R469: `entropyOk` is the outcome of the entropy source's tests, `replies` as for a full load. -/
def execColdBoot (entropyOk : Bool) (replies : List (Nat × List (BitVec 17))) (s : State) : Result :=
  if s.boot.held = false ∨ s.power.vbatOnly = true ∨ s.power.shutdown = true then .next s
  else if s.tooHot then .next (s.modBoot fun b => { b with causes := b.causes ||| 1 })
  else
    let causes := s.boot.causes
    let floor := if causes &&& causePowerOn = 0 then some (s.boot.opS, s.boot.opFrac) else none
    let s := (s.wr Reg.global_RESET_CAUSE (causes.zeroExtend 32)).modBoot fun b => { b with held := false, causes := 0, drain := false }
    let s := s.clearTrace
    let s := ((s.setDomains bareDomain).vbatRecovered).completeFuses.synthStarts
    match s.chooseZalu with
    | none => .next s.firmwareFails
    | some (b, image, hash) => .next (((s.zaluStarts b image hash).zaluBoots floor entropyOk).loadBootImage replies)

/-- R472: `failed` lists the channels that did not train; the others are trained, and a failed one up to three times more. -/
def execMemoryTrainingDone (failed : List (Fin 32)) (s : State) : Result :=
  if s.boot.waiting = false ∨ s.on R.memory_STATUS_TRAINED = true then .next s
  else if failed.isEmpty then .next (s.memoryTrained.modMem fun m => { m with trainTries := 0 })
  else if s.mem.trainTries < 3 then
    .next ((s.trainFails failed).modMem fun m => { m with trainTries := m.trainTries + 1 })
  else
    let s := ((s.memoryFails failed).setDomains bareDomain).modMem fun m => { m with trainTries := 0 }
    .next (s.modBoot fun b => { b with waiting := false })

/-- R469: the first frame boundary after the image is applied and the memory trained; `ms` is the time since PORESET_N rose. -/
def execBootRelease (ms : Nat) (s : State) : Result :=
  match s.loadTarget with
  | some target =>
    if s.boot.waiting && s.on R.memory_STATUS_TRAINED then
      let s := (s.put R.global_BOOT_STATUS_STAGE 3).put R.global_BOOT_STATUS_RELEASE_MS (min ms 0xFFFF)
      let s := s.modBoot fun b => { b with waiting := false, sinceRelease := some 0 }
      .next (s.releaseUnits target)
    else .next s
  | none => .next s

end Sys2Proof.Machine
end

