-- ==== Sys2Proof/Machine/Packet.lean ====
section
/-!
DEFINITION. Packets taken from a lane or a back channel, and the control packets (03_rasyn_link.md R99 to R101, R107, R108,
R117, R120).
-/
namespace Sys2Proof.Machine
open Sys2Proof

/-- A packet header whose HCRC is good and whose LENGTH is legal (R99, R101): the packet's length in all, the header as a
packet without payload, and LENGTH. -/
def headerAt (limit : Nat) (bs : List Byte) : Option (Nat × Packet × Nat) :=
  let h := bs.take 8
  let len := leAt h 2 2
  if h.length = 8 ∧ leAt h 6 2 = (crc16 (h.take 6)).toNat ∧ len ≤ limit then
    let fl := leAt h 1 1
    some (if len = 0 then 8 else 12 + len,
      { typ := leAt h 0 1 / 16, vc := leAt h 0 1 % 16, field2 := fl.testBit 3, last := fl.testBit 2, eof := fl.testBit 1,
        sof := fl.testBit 0, tag := leAt h 4 2, payload := [] }, len)
  else none

/-- The position at which lock is regained: a good header whose computed next header is also good (R101); `none` where the
bytes at hand do not show one. -/
def relockAt (limit : Nat) : Nat → List Byte → Option Nat
  | 0, _ => none
  | n + 1, bs =>
    match headerAt limit bs with
    | some (step, _, _) =>
      match headerAt limit (bs.drop step) with
      | some _ => some 0
      | none => (relockAt limit n (bs.drop 1)).map (· + 1)
    | none => (relockAt limit n (bs.drop 1)).map (· + 1)

/-- Video headers among discarded bytes: the segments that were lost (R101, log entry 32). -/
def lostSegments (limit : Nat) : List Byte → Nat
  | [] => 0
  | b :: bs =>
    (match headerAt limit (b :: bs) with
      | some (_, k, _) => if k.typ = 1 ∨ k.typ = 2 then 1 else 0
      | none => 0) + lostSegments limit bs

/-- Whether a packet of this type, and for TIME and IDENT of this kind, travels towards the device on the port (R100). -/
def State.carriesType (s : State) (n : Nat) (k : Packet) : Bool :=
  let kind := leAt k.payload 0 1
  if k.typ = 6 then true
  else if k.typ = 8 then kind == 2 || kind == 3
  else if s.rasynIn n then (decide (1 ≤ k.typ) && decide (k.typ ≤ 5)) || (k.typ == 7 && kind == 1)
  else k.typ == 7 && kind == 2

/-- A packet waits for its unit. -/
def State.queuePacket (s : State) (n : Nat) (k : Packet) : State := s.modPort n fun p => { p with rx := p.rx ++ [k] }

/-- A whole packet is routed by its type (R100), or discarded (R117, R120): a discarded AUDIO packet still tells the audio engine
which samples are lost. -/
def State.routePacket (s : State) (n : Nat) (k : Packet) (discard : Bool) : State :=
  let s := if 9 ≤ k.typ then s.bump (R.port_PKT_TYPE_UNK n) else s
  let s := if discard then s.bump (R.port_PCRC_ERR n) else s
  if s.carriesType n k = false then s
  else if discard then
    if k.typ = 1 ∨ k.typ = 2 then s.bump (R.port_VIDEO_SEG_LOST n)
    else if k.typ = 3 ∧ s.delivers n = true then s.queuePacket n { k with lost := true }
    else s
  else if k.typ ≤ 5 then
    let (b, s) := s.deliversPacket n k
    if b then s.queuePacket n k else s
  else s.queuePacket n k

/-- A bad header is counted; HCRC_LIMIT of them in a second retrain the link (R112). -/
def State.badHeader (s : State) (n : Nat) : State :=
  let s := (s.bump (R.port_HCRC_ERR n)).modPort n fun p => { p with hcrcSecond := p.hcrcSecond + 1 }
  if limitReached (s.port n).hcrcSecond (s.get (R.port_RETRAIN_CFG_HCRC_LIMIT n)) then s.startRetrain n else s

/-- The packet at `bs` whole, with whether it is discarded: damaged, or its PCRC is bad (R120). -/
def wholePacket (bs : List (Byte × Bool)) (step len : Nat) (k : Packet) : Packet × Bool :=
  let all := bs.take step
  let pay := ((all.drop 8).take len).map (·.1)
  let damaged := all.any (·.2)
  ({ k with payload := pay },
    damaged || (len != 0 && leAt ((all.drop (8 + len)).map (·.1)) 0 4 != (crc32 pay).toNat))

/-- R101: the forward lane of an input port gives its next packet, or the receiver searches for lock. On an output port
`back` is the packet between K27.7 and K29.7 of the back channel. -/
def execPacketReceived (port : Fin 96) (back : List (BitVec 8)) (s : State) : Result :=
  if s.link port = .off ∨ s.link port = .detect ∨ s.link port = .fault then .next s
  else if s.rasynOut port then
    if s.bcUp port then
      match headerAt 128 back with
      | none => .next (s.badHeader port)
      | some (step, k, len) =>
        if step ≤ back.length then
          let (k, bad) := wholePacket (back.map fun b => (b, false)) step len k
          .next (s.routePacket port k bad)
        else .next s
    else .next s
  else if s.rasynIn port then
    let p := s.port port
    let bytes := p.lane.map (·.1)
    if p.packetLock then
      if bytes.length < 8 then .next s
      else match headerAt 504 bytes with
        | none => .next ((s.modPort port fun p => { p with packetLock := false }).badHeader port)
        | some (step, k, len) =>
          if bytes.length < step then .next s
          else
            let (k, bad) := wholePacket p.lane step len k
            .next ((s.modPort port fun p => { p with lane := p.lane.drop step }).routePacket port k bad)
    else if p.frameLock then
      match relockAt 504 bytes.length bytes with
      | none => .next s
      | some i =>
        let s := s.bumpBy (R.port_VIDEO_SEG_LOST port) (lostSegments 504 (bytes.take i))
        .next ((s.modPort port fun p => { p with lane := p.lane.drop i, packetLock := true }).alignDone port)
    else .next s
  else .next s

/-- An entry for the receive mailbox of 16 (R108). -/
def State.rxMailbox (s : State) (n : Nat) (e : RxEntry) : State :=
  if 16 ≤ (s.port n).mailbox.length then (s.bump (R.port_RX_DROP n)).raise (Flag.port_RX_OVERFLOW n)
  else (s.modPort n fun p => { p with mailbox := p.mailbox ++ [e] }).raise (Flag.port_RX_AVAIL n)

/-- The acknowledgement of a request of the device (R107): the host's completes, a part of the descriptor is kept, and on an
output port the accepted preset ends ALIGN (log entry 24). -/
def State.ctrlAnswered (s : State) (n : Nat) (r : CtrlReq) (nak : Bool) (reason : Nat) (data : List Byte) : State :=
  let s := s.endRequest n r
  let s := s.displayReply n r.msgId (if nak then 3 else 2)
  if r.byHost then
    let s := ((s.put (R.port_CTRL_RESP_HDR_OPCODE n) r.opcode).put (R.port_CTRL_RESP_HDR_REASON n) (if nak then reason else 0)).put
      (R.port_CTRL_RESP_HDR_LENGTH n) data.length
    let s := s.putBytes (Reg.port_CTRL_RESP_DATA n 0) (data ++ List.replicate (64 - data.length) 0)
    let s := if nak then s.rxMailbox n ⟨r.opcode, r.vc, 2, data⟩ else s
    s.ctrlComplete n (if nak then 1 else 0)
  else if nak then s
  else if r.opcode = 1 then
    s.modPort n fun p => { p with descParts := Sparse.set (fun _ => []) p.descParts (leAt r.data 0 1) data }
  else if r.opcode = 0x12 ∧ s.rasynOut n = true ∧ s.link n = .align then s.linkUp n
  else s

/-- What a request or notification of the endpoint does, and the NAK reason if it is refused (R107, R108). TRAIN_RESULT in
TRAIN has its own row and waits for it; a later one on an output port is acknowledged only. -/
def State.ctrlRun (s : State) (n : Nat) (opcode kind vc : Nat) (data : List Byte) : Nat × State :=
  if opcode = 0x20 ∨ opcode = 0x21 ∨ opcode = 5 then (0, s.rxMailbox n ⟨opcode, vc, kind, data⟩)
  else if opcode = 0x11 ∧ s.rasynOut n = true then (0, s)
  else (1, s)

/-- R107, R108: acknowledged, executed unless a duplicate, matched to an outstanding request or placed in the mailbox. -/
def execCtrlPacket (port : Fin 96) (s : State) : Result :=
  match s.takePacket port fun k => k.typ == 6 && !(leAt k.payload 2 1 == 0x11 && s.link port == .train) with
  | none => .next s
  | some (k, s) =>
    let id := leAt k.payload 0 1
    let kind := leAt k.payload 1 1
    let opcode := leAt k.payload 2 1
    let data := (k.payload.drop 4).take 64
    if k.payload.length < 4 then .next s
    else if kind = 1 ∨ kind = 2 then
      match (s.port port).reqs.find? fun r => r.msgId == id && r.opcode == opcode && r.tries != 0 with
      | none => .next s
      | some r => .next (s.ctrlAnswered port r (kind == 2) (leAt k.payload 3 1) data)
    else if kind = 0 ∨ kind = 3 then
      let known := opcode = 0x20 ∨ opcode = 0x21 ∨ opcode = 5 ∨ (opcode = 0x11 ∧ s.rasynOut port = true)
      if (s.port port).seenIds.contains id then
        .next (s.sendPacket port 6 k.vc (ctrlPayload id (if known then 1 else 2) opcode (if known then 0 else 1) []))
      else
        let s := s.modPort port fun p => { p with seenIds := (id :: p.seenIds).take 32 }
        let (reason, s) := s.ctrlRun port opcode kind k.vc data
        .next (s.sendPacket port 6 k.vc (ctrlPayload id (if reason = 0 then 1 else 2) opcode reason []))
    else .next s

end Sys2Proof.Machine
end

