-- ==== Sys2Proof/Machine/Second.lean ====
section
/-!
DEFINITION. The end of a second of operating time: the Blotter's 35 quantities (15_attic_blotter.md R452, R455, R459) and the
counts that other units keep per second.
-/
namespace Sys2Proof.Machine
open Sys2Proof

/-- The bin of a value: the highest whose lower edge it reaches; the first bin has none. -/
def binOf (edges : List Int) (v : Int) : Nat := (edges.filter fun e => decide (e ≤ v)).length

/-- The lower edges of bins 1 to 15 of a quantity (R459): 0.1 °C, 0.1 %, band, ns, symbols. -/
def histEdges (q : Nat) : List Int :=
  if q = 0 then [-200, 0, 200, 400, 600, 800, 900, 1000, 1100, 1200, 1250, 1300, 1350, 1420, 1500]
  else if q ≤ 8 then (List.range 15).map fun (i : Nat) => 10 * ((i : Int) - 7)
  else if q = 9 then [2, 3, 4]
  else if q = 10 then (List.range 15).map fun (i : Nat) => 100 * ((i : Int) + 1)
  else (List.range 15).map fun (i : Nat) => (4 : Int) ^ i

/-- A sample of a quantity (R459). -/
def State.histSample (s : State) (q : Nat) (v : Int) : State :=
  let h := s.hist q
  let b := binOf (histEdges q) v
  let top := match h.max with | none => true | some m => decide (m < v)
  s.setHist q
    { h with bins := h.bins.set b (min (h.bins.getD b 0 + 1) (2 ^ 32 - 1)),
             min := some (match h.min with | none => v | some m => if v < m then v else m),
             max := if top then some v else h.max,
             maxAt := if top then s.get R.blotter_OP_S else h.maxAt }

/-- The mean of a regulator's readings against HIST_VREF, in 0.1 % (R459). -/
def State.railSample (s : State) (k : Nat) : Option Int :=
  let (sum, n) := Sparse.get (fun _ => ((0, 0) : Nat × Nat)) s.power.vouts k
  let vref := s.get (R.blotter_HIST_VREF k)
  if vref = 0 ∨ n = 0 then none
  else some (fieldInt 32 true (1000 * ((sum : Rat) / n - vref) / vref))

def State.load (s : State) (key : Nat) : Nat := Sparse.get (fun _ => 0) s.loads key

/-- The sample of a quantity at the end of a second, if there is one. -/
def State.quantity (s : State) (q : Nat) : Option Int :=
  if q = 0 then s.power.secMax
  else if q ≤ 8 then s.railSample (q - 1)
  else if q = 9 then some (s.get R.memory_STATUS_BAND + 1)
  else if q = 10 then some s.mem.latSecond
  else some (s.load (89 + q))

/-- The per-second load registers of ingest, motion and codec units. -/
def State.loadRegs (s : State) : State :=
  let m (key : Nat) (per : Rat) : Nat := twos 16 (fieldInt 16 false ((s.load key : Rat) / per))
  let s := s.each (List.range 8) fun s c =>
    let v := m c 1000000
    let s := (s.put (R.ingest_LOAD_LAST c) v).put (R.ingest_LOAD_PEAK c) (max v (s.get (R.ingest_LOAD_PEAK c)))
    s.put (R.ingest_WRITE_LOAD_LAST c) (m (8 + c) 100000000)
  let s := s.each [0, 1] fun s u => s.put (R.mot_STATUS_LOAD u) (m (16 + u) 1000000)
  let s := s.each (List.range 32) fun s e => s.put (R.codec_LOAD e) (m (32 + e) 1000000)
  s.clearLoads

/-- The life clock moves on, and a crystal that had stopped runs when it counts; DEBUG_REMAIN follows it (13_strongroom.md R375, R391,
R404). -/
def State.lifeTicks (s : State) (n : Nat) : State :=
  let s := s.modStrong fun u => { u with lifeClock := (u.lifeClock + n) % 2 ^ 32, lxoStopped := u.lxoStopped && n == 0 }
  let s := s.put R.strongroom_TAMPER_STATUS_LXO_RUN (if s.strong.lxoStopped then 0 else 1)
  let s := s.put R.strongroom_LIFE_CLOCK s.strong.lifeClock
  if s.strong.debug = 1 ∨ s.strong.debug = 2 then s.put R.strongroom_DEBUG_REMAIN (s.strong.sessionEnd - s.strong.lifeClock) else s

/-- The ports' counts of the second just ended (03_rasyn_link.md R112). -/
def State.portSeconds (s : State) : State :=
  { s with ports := (s.ports.map fun x => (x.1, { x.2 with hcrcSecond := 0, uncorrSecond := 0 })).filter fun x => x.2 != ({} : PortState) }

/-- The counts per second of the ports and the Blotter's rates begin again (03_rasyn_link.md R112; R455). -/
def State.newSecond (s : State) : State :=
  let s := (s.modPower fun p => { p with secMax := none, vouts := [] }).modMem fun m => { m with latSecond := 0 }
  let s := s.modBlot fun b => { b with used := (b.used.map fun x => (x.1, x.2 - s.get (R.blotter_RATE_RATE x.1))).filter fun x => x.2 != 0 }
  s.portSeconds

/-- R452, R459: a second of operating time ends. `lifeTicks` is the number of seconds that the life clock counted meanwhile. In STANDBY the units that sample are off; in reset only the
counter in D00 goes on (16_startup_faults.md R465). -/
def execHistogramSample (lifeTicks : Nat) (s : State) : Result :=
  if s.domainOn 0 = false then .next s
  else if s.inReset then .next ((s.modBoot fun b => { b with opS := b.opS + 1 }).lifeTicks lifeTicks)
  else
    let s := (s.put R.blotter_OP_S (s.get R.blotter_OP_S + 1)).put R.blotter_OP_FRAC 0
    let s := s.modBoot fun b => { b with opS := s.get R.blotter_OP_S, opFrac := 0, sinceRelease := b.sinceRelease.map (· + 1) }
    let s := s.lifeTicks lifeTicks
    if s.domainOn 4 then
      let s := s.each (List.range 35) fun s q =>
        match s.quantity q with
        | none => s
        | some v => s.histSample q v
      .next s.loadRegs.newSecond
    else .next (s.modPower fun p => { p with secMax := none })

end Sys2Proof.Machine
end

