-- ==== Sys2Proof/Machine/Thermal.lean ====
section
/-!
DEFINITION. Temperature sensors, thermal levels, throttling, power estimation and thermal shutdown (14_power_thermal.md R420 to R434;
10_stream_memory.md R295, R296).
-/
namespace Sys2Proof.Machine
open Sys2Proof

/-! ### Sensors (R420 to R424) -/

/-- The pairs of neighbours beyond the grid (R420). -/
def extraPairs : List (Nat × Nat) := [(24, 25), (26, 27), (24, 6), (25, 12), (26, 11), (27, 17)]

/-- Whether two sensors are neighbours (R420). -/
def adjacent (a b : Nat) : Bool :=
  (decide (a < 24) && decide (b < 24)
    && ((a / 6 == b / 6 && (a % 6 == b % 6 + 1 || b % 6 == a % 6 + 1)) || (a % 6 == b % 6 && (a / 6 == b / 6 + 1 || b / 6 == a / 6 + 1))))
  || extraPairs.contains (a, b) || extraPairs.contains (b, a)

def neighbours (k : Nat) : List Nat := (List.range 28).filter (adjacent k)

def State.sensor (s : State) (k : Nat) : SensorState := Sparse.get (fun _ => ({} : SensorState)) s.power.sensors k
def State.modSensor (s : State) (k : Nat) (f : SensorState → SensorState) : State :=
  s.modPower fun p => { p with sensors := Sparse.set (fun _ => ({} : SensorState)) p.sensors k (f (s.sensor k)) }

def State.sensorFailed (s : State) (k : Nat) : Bool := s.on (R.power_TS_FAILED k)
def State.effective (s : State) (k : Nat) : Int := s.getInt (R.power_TS_TEMP k)

/-- The mean of some values; none of an empty list. -/
def meanOf (l : List Int) : Option Rat := if l.isEmpty then none else some ((l.foldl (· + ·) 0 : Int) / (l.length : Rat))

/-- The mean of the effective values of a sensor's neighbours that have not failed. -/
def State.neighbourMean (s : State) (k : Nat) : Option Rat :=
  meanOf (((neighbours k).filter fun j => !s.sensorFailed j).map s.effective)

/-- Whether a sample in 0.1 °C is plausible (R422). Until the gradients are learned, and where every neighbour has failed, range and
conversion alone are judged (log entry 62). -/
def State.plausible (s : State) (k : Nat) (raw : Option Int) : Bool :=
  match raw with
  | none => false
  | some t =>
    decide (-550 ≤ t ∧ t ≤ 1750) &&
      (match s.neighbourMean k with
        | none => true
        | some m =>
          let d := (t : Rat) - (m + (s.sensor k).gradient)
          decide (s.power.rounds < 64) || decide (-120 ≤ d ∧ d ≤ 120))

/-- A sensor fails (R423): HOLD starts. -/
def State.sensorFails (s : State) (k : Nat) : State :=
  let s := (s.put (R.power_TS_FAILED k) 1).modSensor k fun x => { x with bad := 0, goodNs := none }
  (s.put R.power_TH_STATUS_HOLD 1).raise Flag.power_SENSOR_FAIL

/-- A failed sensor returns (R423). -/
def State.sensorReturns (s : State) (k : Nat) : State :=
  let s := (s.put (R.power_TS_FAILED k) 0).modSensor k fun x => { x with goodNs := none }
  (s.raise Flag.power_SENSOR_OK).blotter 0x0103 k (leBytes 2 (s.get (R.power_TS_RAW_RAW k)))

/-- A sample's place in the counts of R423. -/
def State.judgeSample (s : State) (k : Nat) (good : Bool) (elapsedNs : Nat) : State :=
  if s.sensorFailed k then
    if good then
      let n := match (s.sensor k).goodNs with | none => 0 | some n => n + elapsedNs
      if 1000000000 ≤ n then s.sensorReturns k else s.modSensor k fun x => { x with goodNs := some n }
    else s.modSensor k fun x => { x with goodNs := none }
  else if good then s.modSensor k fun x => { x with bad := 0 }
  else if 4 ≤ (s.sensor k).bad + 1 then s.sensorFails k
  else s.modSensor k fun x => { x with bad := x.bad + 1 }

/-- The effective value of a failed sensor (R423). -/
def State.substitute (s : State) (k : Nat) : Int :=
  let good (l : List Nat) : List Int := (l.filter fun j => !s.sensorFailed j).map s.effective
  match good (neighbours k), good (List.range 28) with
  | t :: l, _ => l.foldl max t + 80
  | [], t :: l => l.foldl max t + 80
  | [], [] => s.effective k

/-- The learned gradient takes a difference (R422). -/
def State.learn (s : State) (k : Nat) (t : Int) (elapsedNs : Nat) : State :=
  let valid := !s.sensorFailed k && (neighbours k).all fun j => !s.sensorFailed j
  match s.neighbourMean k with
  | none => s
  | some m =>
    if !valid then s
    else
      let d := (t : Rat) - m
      let n := s.power.rounds
      let s := s.modSensor k fun x =>
        if n < 63 then { x with sum := x.sum + d, count := x.count + 1 }
        else if n = 63 then { x with sum := 0, count := 0, gradient := (x.sum + d) / ((x.count + 1 : Nat) : Rat) }
        else { x with gradient := x.gradient + Config.gradientGain elapsedNs * (d - x.gradient) }
      s.putRat (R.power_TS_RAW_GRADIENT k) true (s.sensor k).gradient

def pairFailed (s : State) (a b : Nat) : Bool := s.sensorFailed a && s.sensorFailed b

/-- Whether two adjacent sensors have both failed (R424). -/
def State.adjFail (s : State) : Bool :=
  (List.range 28).any fun a => (List.range 28).any fun b => adjacent a b && pairFailed s a b

/-! ### Throttle step (R427) -/

/-- The step changes. -/
def State.setStep (s : State) (v : Nat) : State :=
  if s.get R.power_TH_STATUS_STEP = v then s
  else
    let s := ((s.put R.power_TH_STATUS_STEP v).bump R.power_STEP_STAT_CHANGES).raise Flag.power_STEP_CHANGE
    let s := s.put R.power_STEP_STAT_MAX_SEEN (max v (s.get R.power_STEP_STAT_MAX_SEEN))
    s.modPower fun p => { p with stepNs := 0 }

def State.maxStep (s : State) : Nat := s.get R.power_TH_CFG_MAX_STEP

/-! ### Levels (R425) -/

/-- LEVEL shows the highest level in force; a change is recorded. -/
def State.setLevel (s : State) (v : Nat) : State :=
  if s.get R.power_TH_STATUS_LEVEL = v then s
  else
    let s := s.put R.power_TH_STATUS_LEVEL v
    s.blotter 0x0101 v (leBytes 2 (s.get R.power_TH_STATUS_T_MAX) ++ leBytes 1 (s.get R.power_TH_STATUS_STEP))

/-- THROTTLE is entered: P_entry is latched, the step becomes 1 (R427, R428); it does not fall while HOLD is 1, nor where R424 holds
it (log entry 63). -/
def State.enterThrottle (s : State) : State :=
  let s := (s.modPower fun p => { p with pEntry := p.est, thrOut := 0 }).raise Flag.power_THROTTLE_ON
  let keep := s.on R.power_TH_STATUS_HOLD || s.on R.power_TH_STATUS_ADJ_FAIL
  let s := if s.maxStep = 0 ∨ (keep ∧ 1 < s.get R.power_TH_STATUS_STEP) then s else s.setStep 1
  s.setLevel 2

/-- Thermal shutdown (R434): the note, every domain off but D00 and D01, a transition ended (R415). -/
def State.thermalShutdown (s : State) : State :=
  let hot := s.get R.power_TH_STATUS_HOT
  let t := s.getInt R.power_TH_STATUS_T_MAX
  let s := s.modPower fun p =>
    { p with shutdown := true, note := some (hot, t, s.strong.lifeClock), owned := false, next := none, wakeN := false }
  s.setDomains fun d => d == 0 || d == 1

/-- One sample of T_max against the thresholds (R425). -/
def State.levels (s : State) : State :=
  let t := s.getInt R.power_TH_STATUS_T_MAX
  let at' (f : Fld) : Int := 10 * (s.get f : Int)
  let step (b : Bool) (n : Nat) : Nat := if b then min 8 (n + 1) else 0
  let w := at' R.power_TH_CFG_WARN
  let h := at' R.power_TH_CFG_THROTTLE
  let s := s.modPower fun p =>
    { p with warnIn := step (decide (w ≤ t)) p.warnIn, warnOut := step (decide (t < w - 30)) p.warnOut,
             thrIn := step (decide (h ≤ t)) p.thrIn, thrOut := step (decide (t < h - 30)) p.thrOut,
             shutIn := step (decide (at' R.power_TH_CFG_SHUTDOWN ≤ t)) p.shutIn }
  if s.power.shutIn = 8 then s.thermalShutdown
  else
    let s := if s.power.warn = false ∧ s.power.warnIn = 8 then (s.modPower fun p => { p with warn := true }).raise Flag.power_WARN
      else if s.power.warn = true ∧ s.power.warnOut = 8 then s.modPower fun p => { p with warn := false }
      else s
    let low := if s.power.warn then 1 else 0
    if s.get R.power_TH_STATUS_LEVEL = 2 then
      (if s.power.thrOut = 8 then (s.raise Flag.power_THROTTLE_OFF).setLevel low else s)
    else if s.power.thrIn = 8 then s.enterThrottle
    else s.setLevel low

/-! ### Refresh bands (10_stream_memory.md R295, R296) -/

/-- The samples in a row at or above band `b` + 2's lower boundary less 3 °C, and below it less 6 °C, with one more, up to 8 (R295).
Bands are numbered from 0 here. -/
def bandCount (t : Int) (b : Nat) (x : Nat × Nat) : Nat × Nat :=
  (if ([820, 1020, 1220] : List Int).getD b 0 ≤ t then min 8 (x.1 + 1) else 0,
   if t < ([790, 990, 1190] : List Int).getD b 0 then min 8 (x.2 + 1) else 0)

/-- The band after a sample: the highest one that 8 samples have entered, else the lowest boundary that 8 have left. -/
def bandStep (band : Nat) (counts : List (Nat × Nat)) : Nat :=
  let up := ((List.range 3).filter fun b => (counts.getD b (0, 0)).1 == 8).getLast?
  let down := ((List.range band).filter fun b => (counts.getD b (0, 0)).2 == 8).head?
  match up, down with
  | some b, _ => max band (b + 1)
  | none, some b => b
  | none, none => band

def State.bandRun (s : State) (stack b : Nat) : Nat × Nat := Sparse.get (fun _ => ((0, 0) : Nat × Nat)) s.mem.bandRun (3 * stack + b)
def State.setBandRun (s : State) (stack b : Nat) (x : Nat × Nat) : State :=
  s.modMem fun m => { m with bandRun := Sparse.set (fun _ => ((0, 0) : Nat × Nat)) m.bandRun (3 * stack + b) x }

/-- One sample of a stack's sensors; both failed hold it in band 4 (R424). -/
def State.stackBand (s : State) (stack : Nat) : State :=
  let a := 24 + 2 * stack
  let f := if stack = 0 then R.memory_STATUS_BAND_S0 else R.memory_STATUS_BAND_S1
  if pairFailed s a (a + 1) then (s.put f 3).each [0, 1, 2] fun s b => s.setBandRun stack b (0, 0)
  else
    let t := max (s.effective a) (s.effective (a + 1))
    let s := s.each [0, 1, 2] fun s b => s.setBandRun stack b (bandCount t b (s.bandRun stack b))
    s.put f (bandStep (s.get f) ((List.range 3).map fun b => s.bandRun stack b))

/-- BAND is the higher of the two; a change applies the entitlements of the new band and is recorded. -/
def State.bands (s : State) : State :=
  if s.domainOn 57 then
    let s := (s.stackBand 0).stackBand 1
    let a := s.get R.memory_STATUS_BAND_S0
    let b := s.get R.memory_STATUS_BAND_S1
    if s.get R.memory_STATUS_BAND = max a b then s
    else
      let s := ((s.put R.memory_STATUS_BAND (max a b)).raise Flag.memory_BAND_CHANGE).showClasses
      s.blotter 0x0401 (max a b + 1) (leBytes 1 (a + 1) ++ leBytes 1 (b + 1))
  else s

/-- The adjacent pair's consequences show (R424). -/
def State.showAdj (s : State) : State :=
  let v := s.adjFail
  let was := s.on R.power_TH_STATUS_ADJ_FAIL
  let s := (s.put R.power_TH_STATUS_ADJ_FAIL (if v then 1 else 0)).setFault 8 v
  let s := s.raiseIf (v && !was) Flag.power_ADJ_FAIL
  if v then s.setStep s.maxStep else s

/-- T_max, its sensor and FAST (R421). -/
def State.showMax (s : State) : State :=
  let hot := (List.range 28).foldl (fun b k => if s.effective b < s.effective k then k else b) 0
  let t := s.effective hot
  let s := (s.put R.power_TH_STATUS_HOT hot).putInt R.power_TH_STATUS_T_MAX t
  let s := s.modPower fun p => { p with secMax := some (match p.secMax with | none => t | some m => max m t) }
  s.put R.power_TH_STATUS_FAST (if decide (10 * (s.get R.power_TH_CFG_THROTTLE : Int) - 50 ≤ t) then 1 else 0)

/-- A round of samples, one for each sensor in 0.1 °C (none: its conversion did not complete), and ns since the round before (R421 to
R425). The predictions use the effective values of the round before (log entry 62). -/
def execSensorSample (raws : List (Option (BitVec 16))) (elapsedNs : Nat) (s : State) : Result :=
  if s.power.vbatOnly || s.power.shutdown then .next s
  else
    let raw (k : Nat) : Option Int := (raws.getD k none).map BitVec.toInt
    let good := (List.range 28).map fun k => s.plausible k (raw k)
    let before := (List.range 28).filter s.sensorFailed
    let s := s.each (List.range 28) fun s k =>
      let g := good.getD k false
      let s := s.put (R.power_TS_IMPLAUSIBLE k) (if g then 0 else 1)
      let s := match raw k with | some t => s.putInt (R.power_TS_RAW_RAW k) t | none => s
      s.judgeSample k g elapsedNs
    let s := s.each (List.range 28) fun s k =>
      match raw k with
      | some t => if good.getD k false && !s.sensorFailed k then s.putInt (R.power_TS_TEMP k) t else s
      | none => s
    let subs := ((List.range 28).filter s.sensorFailed).map fun k => (k, s.substitute k)
    let s := s.each subs fun s p =>
      let s := s.putInt (R.power_TS_TEMP p.1) p.2
      if before.contains p.1 then s
      else s.blotter 0x0102 p.1 (leBytes 2 (s.get (R.power_TS_RAW_RAW p.1)) ++ leBytes 2 (s.get (R.power_TS_TEMP p.1)))
    let s := s.each (List.range 28) fun s k =>
      match raw k with | some t => if good.getD k false then s.learn k t elapsedNs else s | none => s
    let s := s.modPower fun p => { p with rounds := min 64 (p.rounds + 1), stepNs := min 10000000 (p.stepNs + elapsedNs) }
    .next ((s.showMax.showAdj).bands).levels

/-- R423: 1 s has passed since the last failure. -/
def execStepHoldEnd (s : State) : Result := .next (s.put R.power_TH_STATUS_HOLD 0)

/-! ### Throttling and shedding (R427 to R429, R433) -/

/-- The throttle step rises, holds or falls (R427); never twice within 10 ms, never down while HOLD is 1. -/
def State.moveStep (s : State) : State :=
  let st := s.get R.power_TH_STATUS_STEP
  let t := s.getInt R.power_TH_STATUS_T_MAX
  if s.power.stepNs < 10000000 ∨ s.maxStep = 0 ∨ s.on R.power_TH_STATUS_ADJ_FAIL = true then s
  else if s.get R.power_TH_STATUS_LEVEL = 2 then
    (if decide (10 * (s.get R.power_TH_CFG_THROTTLE : Int) ≤ t) then s.setStep (min s.maxStep (st + 1)) else s)
  else if s.on R.power_TH_STATUS_HOLD then s
  else s.setStep (st - 1)

/-- The limit in force in mW, the lower of P_lim and POWER_CAP (R428, R433). -/
def State.powerLimit (s : State) : Option Rat :=
  let st := s.get R.power_TH_STATUS_STEP
  let cap := s.get R.power_EST_CFG_POWER_CAP
  let lim : Option Rat := if st = 0 then none else some (s.power.pEntry * (1 - (st : Rat) / 20))
  if cap = 0 then lim
  else match lim with
    | none => some ((100 * cap : Nat) : Rat)
    | some l => some (min l ((100 * cap : Nat) : Rat))

/-- How many shed actions are in force; they are applied in order (R428). -/
def State.shedCount (s : State) : Nat := ((List.range 14).filter (s.get R.power_SHED).testBit).length

def State.setShed (s : State) (n : Nat) : State := (s.put R.power_SHED (2 ^ n - 1)).showStops s.quiet

/-- FLOOR shows; it is raised when it begins (log entry 64). -/
def State.setFloor (s : State) (v : Bool) : State :=
  let was := s.on R.power_TH_STATUS_FLOOR
  (s.put R.power_TH_STATUS_FLOOR (if v then 1 else 0)).raiseIf (v && !was) Flag.power_FLOOR

/-- One evaluation against the limit (R428, R429). -/
def State.shedEvaluation (s : State) : State :=
  let n := s.shedCount
  match s.powerLimit with
  | none => ((s.put R.power_EST_POWER_LIMIT 0).setShed (n - 1)).setFloor false
  | some l =>
    let s := s.putRat R.power_EST_POWER_LIMIT false (l / 100)
    if l < s.power.est then (if n < 14 then (s.setShed (n + 1)).setFloor false else s.setFloor true)
    else if s.power.est ≤ l * 9 / 10 then (s.setShed (n - 1)).setFloor false
    else s.setFloor false

/-- The exempt instances of the clock-division form, by power domain, fixed from the image's records (R430). -/
def Structure.clockExempt (r : Structure) (d : Nat) : Bool :=
  let zero := r.streams.filter fun x => x.cls == 0
  let seen (f : Nat) : Bool := r.panes.any fun p => p.folio == f && (p.cls == 0 || p.pane == 8)
  let any (role : Nat → Bool) (c : Nat) : Bool := r.codecs.any fun e => e.engine / 8 == c && role e.role
  if d < 8 ∨ (57 ≤ d ∧ d ≤ 59) then true
  else if 10 ≤ d ∧ d < 34 then
    zero.any (fun x => decide (x.stream < 1536) && x.stream / 64 == d - 10)
      || r.folios.any fun f => seen f.folio && [f.portA, f.portB].any fun p => decide (p < 96) && p / 4 == d - 10
  else if 34 ≤ d ∧ d < 42 then zero.any fun x => decide (x.stream < 1536) && x.ingest == d - 34
  else if 42 ≤ d ∧ d < 44 then zero.any fun x => x.motion && x.motionUnit == d - 42
  else if 44 ≤ d ∧ d < 52 then r.folios.any fun f => f.folio / 8 == d - 44 && seen f.folio
  else if 52 ≤ d ∧ d < 56 then
    (any (· == 1) (d - 52) && zero.any fun x => x.xs)
      || (any (fun role => role == 2 || role == 3) (d - 52) && zero.any fun x => x.readers.testBit 1 || x.recEntries != 0)
  else false

/-- Of every 16 clock cycles those that run in a domain: 16 - STEP of them in the clock-division form, but for the exempt instances
(R430). -/
def State.clockCycles (s : State) (d : Nat) : Nat :=
  if s.on R.power_TH_CFG_CLKDIV && !s.fabric.now.clockExempt d then 16 - s.get R.power_TH_STATUS_STEP else 16

/-- Every 10 ms; the clock-division form sheds nothing (R430). -/
def execThrottleStep (s : State) : Result :=
  if s.power.vbatOnly || s.power.shutdown then .next s
  else
    let s := s.moveStep
    .next (if s.on R.power_TH_CFG_CLKDIV then s else s.shedEvaluation)

/-! ### Power estimation (R431, R432) -/

/-- Whether a present regulator telemeters group `g` (R432). -/
def State.groupPolled (s : State) (g : Nat) : List Nat :=
  (List.range 8).filter fun k =>
    s.get (R.power_PMB_RAIL_GROUP k) == g && s.on (R.sysif_PMB_DEV_EN k) && !s.on (R.sysif_PMB_DEV_ABSENT k)

def State.groupScale (s : State) (g : Nat) : Rat := Sparse.get (fun _ => (1 : Rat)) s.power.scales g

/-- E_g in mW, its factor S_g in it. -/
def State.groupEst (s : State) (g : Nat) : Rat := s.groupScale g * (Sparse.get (fun _ => 0) s.power.groups g : Nat)

/-- E is formed from the groups; one that no present regulator telemeters enters with 1.15, and with none telemetered the whole does. -/
def State.formEstimate (s : State) : State :=
  let gs := (List.range 10).map (· + 1)
  let e := gs.foldl (fun (t : Rat) g => t + (if (s.groupPolled g).isEmpty then s.groupEst g * 115 / 100 else s.groupEst g)) 0
  let s := s.put R.power_EST_CFG_GUARD_ALL (if gs.all fun g => (s.groupPolled g).isEmpty then 1 else 0)
  (s.modPower fun p => { p with est := e }).putRat R.power_EST_POWER_ESTIMATE false (e / 100)

/-- Every 1 ms: `mw` gives activity and leakage of groups 1 to 10 in mW, whose coefficients and tables the spec does not give. -/
def execEstimateUpdate (mw : List Nat) (s : State) : Result :=
  if s.power.vbatOnly || s.power.shutdown then .next s
  else .next ((s.modPower fun p =>
    { p with groups := ((List.range 10).map fun i => (i + 1, mw.getD i 0)).filter fun q => q.2 != 0 }).formEstimate)

/-- M_g in mW: the mean of the sum of VOUT × IOUT over the last 10 polls. -/
def State.measured (s : State) (g : Nat) : Rat :=
  (s.groupPolled g).foldl (fun (t : Rat) k =>
    let l := Sparse.get (fun _ => ([] : List Nat)) s.sysif.polls k
    t + (if l.isEmpty then 0 else (l.foldl (· + ·) 0 : Nat) / (100 * l.length : Nat))) 0

/-- One group compared with its measurement (R432). -/
def State.rescale (s : State) (g : Nat) : State :=
  let i := g - 1
  if (s.groupPolled g).isEmpty then s.put (R.power_EST_GROUP_MEASURED i) 0
  else
    let m := s.measured g
    let e := s.groupEst g
    let s := s.putRat (R.power_EST_GROUP_MEASURED i) false (m / 100)
    let d := if m ≤ e then e - m else m - e
    if d ≤ m / 10 then s
    else
      let old := s.get (R.power_EST_GROUP_SCALE i)
      let x := if e = 0 then 2 else s.groupScale g * m / e
      let y := max (1 / 2) (min 2 x)
      let s := s.modPower fun p => { p with scales := Sparse.set (fun _ => (1 : Rat)) p.scales g y }
      let s := (s.putRat (R.power_EST_GROUP_SCALE i) false (y * 4096)).raise Flag.power_EST_RESCALE
      let s := s.raiseIf (x != y) Flag.power_EST_CLAMP
      s.blotter 0x0104 g (leBytes 2 old ++ leBytes 2 (s.get (R.power_EST_GROUP_SCALE i)) ++ leBytes 2 (s.get (R.power_EST_GROUP_MEASURED i)))

/-- Each second. A group whose estimate is 0 takes the greatest factor (log entry 65). -/
def execEstimateRescale (s : State) : Result :=
  if s.power.vbatOnly || s.power.shutdown then .next s
  else .next ((s.each ((List.range 10).map (· + 1)) State.rescale).formEstimate)

end Sys2Proof.Machine
end

