-- ==== Sys2Proof/Machine/Dispatch.lean ====
section
/-!
DEFINITION. One arm per command: the direct call of its meaning, which is the command's effect on everything but the
queue of waiting commands.
-/
namespace Sys2Proof.Machine
open Sys2Proof

def exec (i : Instr) (s : State) : Host.Outcome State Fault Refusal :=
  match i with
  | .registerWrite addr value be => Sys2Proof.Machine.execRegisterWrite addr value be s
  | .eventCounterWrite addr value be => Sys2Proof.Machine.execEventCounterWrite addr value be s
  | .readPop addr => Sys2Proof.Machine.execReadPop addr s
  | .capture frac => Sys2Proof.Machine.execCapture frac s
  | .epochArm => Sys2Proof.Machine.execEpochArm s
  | .ppsEdge frac tauNs runOk => Sys2Proof.Machine.execPpsEdge frac tauNs runOk s
  | .refSyncEdge frameSync frac tauNs runOk => Sys2Proof.Machine.execRefSyncEdge frameSync frac tauNs runOk s
  | .sourceLost src sinceNs => Sys2Proof.Machine.execSourceLost src sinceNs s
  | .switchTimeout => Sys2Proof.Machine.execSwitchTimeout s
  | .revertTimeout src => Sys2Proof.Machine.execRevertTimeout src s
  | .srcPrioWrite value sinceNs => Sys2Proof.Machine.execSrcPrioWrite value sinceNs s
  | .manualSrcWrite manual src sinceNs => Sys2Proof.Machine.execManualSrcWrite manual src sinceNs s
  | .forceCoastWrite on sinceNs => Sys2Proof.Machine.execForceCoastWrite on sinceNs s
  | .rulingLineStart periods => Sys2Proof.Machine.execRulingLineStart periods s
  | .slewDone => Sys2Proof.Machine.execSlewDone s
  | .synOutCtrlWrite syn out en div => Sys2Proof.Machine.execSynOutCtrlWrite syn out en div s
  | .divChangeApply syn out => Sys2Proof.Machine.execDivChangeApply syn out s
  | .outDelayWrite syn out delay => Sys2Proof.Machine.execOutDelayWrite syn out delay s
  | .outDelayStep syn out => Sys2Proof.Machine.execOutDelayStep syn out s
  | .synUnlock syn => Sys2Proof.Machine.execSynUnlock syn s
  | .evqPush master => Sys2Proof.Machine.execEvqPush master s
  | .evqCancel master => Sys2Proof.Machine.execEvqCancel master s
  | .evqFlush master => Sys2Proof.Machine.execEvqFlush master s
  | .evqBadCommand master op => Sys2Proof.Machine.execEvqBadCommand master op s
  | .gpioPulseEnd gpio => Sys2Proof.Machine.execGpioPulseEnd gpio s
  | .fabricVerify image => Sys2Proof.Machine.execFabricVerify image s
  | .fabricLoad image => Sys2Proof.Machine.execFabricLoad image s
  | .advanceSvn => Sys2Proof.Machine.execAdvanceSvn s
  | .fabricBadCommand => Sys2Proof.Machine.execFabricBadCommand s
  | .fullLoadApply replies => Sys2Proof.Machine.execFullLoadApply replies s
  | .partialQuiesce replies => Sys2Proof.Machine.execPartialQuiesce replies s
  | .partialRelease => Sys2Proof.Machine.execPartialRelease s
  | .linkEnableWrite port en => Sys2Proof.Machine.execLinkEnableWrite port en s
  | .linkRestart port => Sys2Proof.Machine.execLinkRestart port s
  | .linkRetrainRequest port => Sys2Proof.Machine.execLinkRetrainRequest port s
  | .portClrCnt port hits => Sys2Proof.Machine.execPortClrCnt port hits s
  | .quarPolicyWrite port policy => Sys2Proof.Machine.execQuarPolicyWrite port policy s
  | .linkSignalDetect port => Sys2Proof.Machine.execLinkSignalDetect port s
  | .detectReinit port => Sys2Proof.Machine.execDetectReinit port s
  | .backChannelUp port => Sys2Proof.Machine.execBackChannelUp port s
  | .backChannelLost port codeErrors => Sys2Proof.Machine.execBackChannelLost port codeErrors s
  | .backChannelLossTimeout port => Sys2Proof.Machine.execBackChannelLossTimeout port s
  | .discoverComplete port => Sys2Proof.Machine.execDiscoverComplete port s
  | .identResponse port => Sys2Proof.Machine.execIdentResponse port s
  | .identNoKey port => Sys2Proof.Machine.execIdentNoKey port s
  | .authTimeout port => Sys2Proof.Machine.execAuthTimeout port s
  | .trainResult port counts => Sys2Proof.Machine.execTrainResult port counts s
  | .linkStateTimeout port replies => Sys2Proof.Machine.execLinkStateTimeout port replies s
  | .faultHoldExpiry port => Sys2Proof.Machine.execFaultHoldExpiry port s
  | .fecFrameReceived port blocks => Sys2Proof.Machine.execFecFrameReceived port blocks s
  | .packetReceived port back => Sys2Proof.Machine.execPacketReceived port back s
  | .videoLinePacket port overflow => Sys2Proof.Machine.execVideoLinePacket port overflow s
  | .videoXsPacket port => Sys2Proof.Machine.execVideoXsPacket port s
  | .audioPacket port dev => Sys2Proof.Machine.execAudioPacket port dev s
  | .ancPacket port => Sys2Proof.Machine.execAncPacket port s
  | .metaPacket port => Sys2Proof.Machine.execMetaPacket port s
  | .ctrlPacket port => Sys2Proof.Machine.execCtrlPacket port s
  | .timeEcho port rttNs => Sys2Proof.Machine.execTimeEcho port rttNs s
  | .hostCtrlSend port => Sys2Proof.Machine.execHostCtrlSend port s
  | .ctrlRetryTimeout port msgId => Sys2Proof.Machine.execCtrlRetryTimeout port msgId s
  | .reauthTimer port => Sys2Proof.Machine.execReauthTimer port s
  | .ppbPoll port status current voltage => Sys2Proof.Machine.execPpbPoll port status current voltage s
  | .ppbInt bus statuses => Sys2Proof.Machine.execPpbInt bus statuses s
  | .pwrOnWrite port on replies => Sys2Proof.Machine.execPwrOnWrite port on replies s
  | .pwrCycle port replies => Sys2Proof.Machine.execPwrCycle port replies s
  | .pwrOffTimeExpiry port replies => Sys2Proof.Machine.execPwrOffTimeExpiry port replies s
  | .clearLockout port replies => Sys2Proof.Machine.execClearLockout port replies s
  | .pwrLimitWrite port limit replies => Sys2Proof.Machine.execPwrLimitWrite port limit replies s
  | .sdiCarrierUp port => Sys2Proof.Machine.execSdiCarrierUp port s
  | .sdiSearchTimer port => Sys2Proof.Machine.execSdiSearchTimer port s
  | .sdiCdrLock port => Sys2Proof.Machine.execSdiCdrLock port s
  | .sdiNoLockTimeout port => Sys2Proof.Machine.execSdiNoLockTimeout port s
  | .sdiDetectComplete port width height fields lines rate pid => Sys2Proof.Machine.execSdiDetectComplete port width height fields lines rate pid s
  | .sdiLineReceived port eav change lnumErr crcY crcC line samples anc audio => Sys2Proof.Machine.execSdiLineReceived port eav change lnumErr crcY crcC line samples anc audio s
  | .sdiLoss port carrier => Sys2Proof.Machine.execSdiLoss port carrier s
  | .frameStart stream frac tauNs runOk => Sys2Proof.Machine.execFrameStart stream frac tauNs runOk s
  | .frameComplete stream frac refused => Sys2Proof.Machine.execFrameComplete stream frac refused s
  | .lostTimeout stream => Sys2Proof.Machine.execLostTimeout stream s
  | .xsDecodeStart => Sys2Proof.Machine.execXsDecodeStart s
  | .xsDecodeWaitTimeout stream => Sys2Proof.Machine.execXsDecodeWaitTimeout stream s
  | .codecJobDone engine frac => Sys2Proof.Machine.execCodecJobDone engine frac s
  | .motionFieldStart unit => Sys2Proof.Machine.execMotionFieldStart unit s
  | .motionFieldDone unit => Sys2Proof.Machine.execMotionFieldDone unit s
  | .streamClrCnt stream hits => Sys2Proof.Machine.execStreamClrCnt stream hits s
  | .ingestClrCnt cluster hits => Sys2Proof.Machine.execIngestClrCnt cluster hits s
  | .frameFetchStart folio frac => Sys2Proof.Machine.execFrameFetchStart folio frac s
  | .surfDescriptorWrite surface word value => Sys2Proof.Machine.execSurfDescriptorWrite surface word value s
  | .fenceWrite surface value => Sys2Proof.Machine.execFenceWrite surface value s
  | .coeffTableWrite folio word value => Sys2Proof.Machine.execCoeffTableWrite folio word value s
  | .commitArm folio periods => Sys2Proof.Machine.execCommitArm folio periods s
  | .commitDisarm folio => Sys2Proof.Machine.execCommitDisarm folio s
  | .commitRevert folio => Sys2Proof.Machine.execCommitRevert folio s
  | .stageHoldWrite folio hold => Sys2Proof.Machine.execStageHoldWrite folio hold s
  | .switchingPoint folio nextPeriods realign => Sys2Proof.Machine.execSwitchingPoint folio nextPeriods realign s
  | .retireAdvance folio => Sys2Proof.Machine.execRetireAdvance folio s
  | .outputLine folio frac late lateB margins room => Sys2Proof.Machine.execOutputLine folio frac late lateB margins room s
  | .rasterStart folio periods index => Sys2Proof.Machine.execRasterStart folio periods index s
  | .timingCut folio periods index => Sys2Proof.Machine.execTimingCut folio periods index s
  | .teReport port ns => Sys2Proof.Machine.execTeReport port ns s
  | .teLine1Start folio readyNs => Sys2Proof.Machine.execTeLine1Start folio readyNs s
  | .teMiss folio => Sys2Proof.Machine.execTeMiss folio s
  | .holdEnter folio => Sys2Proof.Machine.execHoldEnter folio s
  | .inMapWrite ch value => Sys2Proof.Machine.execInMapWrite ch value s
  | .outMapWrite ch value => Sys2Proof.Machine.execOutMapWrite ch value s
  | .audioMapApply => Sys2Proof.Machine.execAudioMapApply s
  | .srcStateTimeout ch idle => Sys2Proof.Machine.execSrcStateTimeout ch idle s
  | .bankCommit => Sys2Proof.Machine.execBankCommit s
  | .audioOutPacket port => Sys2Proof.Machine.execAudioOutPacket port s
  | .meterUpdate => Sys2Proof.Machine.execMeterUpdate s
  | .queryFetch => Sys2Proof.Machine.execQueryFetch s
  | .memoryAccess kind write cls addr len data upsets ns port slots => Sys2Proof.Machine.execMemoryAccess kind write cls addr len data upsets ns port slots s
  | .classWindowEnd => Sys2Proof.Machine.execClassWindowEnd s
  | .cl0MeterWindow port => Sys2Proof.Machine.execCl0MeterWindow port s
  | .scrubStep upsets => Sys2Proof.Machine.execScrubStep upsets s
  | .memoryTrainingDone failed => Sys2Proof.Machine.execMemoryTrainingDone failed s
  | .driftSample windows => Sys2Proof.Machine.execDriftSample windows s
  | .warmupEnd => Sys2Proof.Machine.execWarmupEnd s
  | .pdEnter others idle => Sys2Proof.Machine.execPdEnter others idle s
  | .pdExit => Sys2Proof.Machine.execPdExit s
  | .memoryClrCnt hits keepUe keepFw => Sys2Proof.Machine.execMemoryClrCnt hits keepUe keepFw s
  | .bar2Access write offset len data upsets => Sys2Proof.Machine.execBar2Access write offset len data upsets s
  | .cellarEncodeStart => Sys2Proof.Machine.execCellarEncodeStart s
  | .encodeAbandon engine => Sys2Proof.Machine.execEncodeAbandon engine s
  | .hostEncodeStart engine => Sys2Proof.Machine.execHostEncodeStart engine s
  | .cellarEntryWrite entry word value => Sys2Proof.Machine.execCellarEntryWrite entry word value s
  | .heartbeat => Sys2Proof.Machine.execHeartbeat s
  | .heartbeatLapse => Sys2Proof.Machine.execHeartbeatLapse s
  | .uplinkPinLoss => Sys2Proof.Machine.execUplinkPinLoss s
  | .uplinkRestored => Sys2Proof.Machine.execUplinkRestored s
  | .incidentSet => Sys2Proof.Machine.execIncidentSet s
  | .incidentClear => Sys2Proof.Machine.execIncidentClear s
  | .incidentHoldExpiry => Sys2Proof.Machine.execIncidentHoldExpiry s
  | .postSExpiry entry => Sys2Proof.Machine.execPostSExpiry entry s
  | .cellarAudioRecord entry => Sys2Proof.Machine.execCellarAudioRecord entry s
  | .cellarDriveWrite => Sys2Proof.Machine.execCellarDriveWrite s
  | .footerSignatureDone aborted => Sys2Proof.Machine.execFooterSignatureDone aborted s
  | .footerSignTimeout => Sys2Proof.Machine.execFooterSignTimeout s
  | .cellarOverloadCheck => Sys2Proof.Machine.execCellarOverloadCheck s
  | .superblockTimer => Sys2Proof.Machine.execSuperblockTimer s
  | .cellarInit link lbaBytes blocks plain dsm cache transfer copies dir extents => Sys2Proof.Machine.execCellarInit link lbaBytes blocks plain dsm cache transfer copies dir extents s
  | .cellarRetryTimer => Sys2Proof.Machine.execCellarRetryTimer s
  | .nvmeCompletion tag => Sys2Proof.Machine.execNvmeCompletion tag s
  | .nvmeTimeout => Sys2Proof.Machine.execNvmeTimeout s
  | .rootPortLinkDown => Sys2Proof.Machine.execRootPortLinkDown s
  | .cellarFormat => Sys2Proof.Machine.execCellarFormat s
  | .cellarReadSeg ok data => Sys2Proof.Machine.execCellarReadSeg ok data s
  | .cellarRescan => Sys2Proof.Machine.execCellarRescan s
  | .cellarBadCommand => Sys2Proof.Machine.execCellarBadCommand s
  | .dirCursorWrite high value => Sys2Proof.Machine.execDirCursorWrite high value s
  | .bar0Request write addr len data at' => Sys2Proof.Machine.execBar0Request write addr len data at' s
  | .msixSignal vector => Sys2Proof.Machine.execMsixSignal vector s
  | .vectorHoldoffEnd vector => Sys2Proof.Machine.execVectorHoldoffEnd vector s
  | .vecEoiWrite vector => Sys2Proof.Machine.execVecEoiWrite vector s
  | .dmaTailWrite chan tail => Sys2Proof.Machine.execDmaTailWrite chan tail s
  | .dmaNop chan flags ok => Sys2Proof.Machine.execDmaNop chan flags ok s
  | .dmaH2s chan dst len flags data => Sys2Proof.Machine.execDmaH2s chan dst len flags data s
  | .dmaS2h chan src dst len flags ok => Sys2Proof.Machine.execDmaS2h chan src dst len flags ok s
  | .dmaRegWrite chan dst value flags ok at' => Sys2Proof.Machine.execDmaRegWrite chan dst value flags ok at' s
  | .dmaReset chan => Sys2Proof.Machine.execDmaReset chan s
  | .functionReset kind burst => Sys2Proof.Machine.execFunctionReset kind burst s
  | .icxTransaction master write addr beats data at' => Sys2Proof.Machine.execIcxTransaction master write addr beats data at' s
  | .icxTimeout master write addr => Sys2Proof.Machine.execIcxTimeout master write addr s
  | .hostifClrCnt hits keepErr => Sys2Proof.Machine.execHostifClrCnt hits keepErr s
  | .flashRead addr => Sys2Proof.Machine.execFlashRead addr s
  | .flashProgram addr => Sys2Proof.Machine.execFlashProgram addr s
  | .flashErase4k addr => Sys2Proof.Machine.execFlashErase4k addr s
  | .flashOpComplete => Sys2Proof.Machine.execFlashOpComplete s
  | .flashTimeout => Sys2Proof.Machine.execFlashTimeout s
  | .smbState => Sys2Proof.Machine.execSmbState s
  | .smbMaxTemp => Sys2Proof.Machine.execSmbMaxTemp s
  | .smbAlarms uplinkOk => Sys2Proof.Machine.execSmbAlarms uplinkOk s
  | .smbPower => Sys2Proof.Machine.execSmbPower s
  | .smbId => Sys2Proof.Machine.execSmbId s
  | .smbUnknownCommand => Sys2Proof.Machine.execSmbUnknownCommand s
  | .pmbusPoll dev reply => Sys2Proof.Machine.execPmbusPoll dev reply s
  | .gpioInputChange gpio level => Sys2Proof.Machine.execGpioInputChange gpio level s
  | .sealApply storeOk => Sys2Proof.Machine.execSealApply storeOk s
  | .sealLoadSurface data storeOk => Sys2Proof.Machine.execSealLoadSurface data storeOk s
  | .sealClear storeOk => Sys2Proof.Machine.execSealClear storeOk s
  | .pairAdd storeOk => Sys2Proof.Machine.execPairAdd storeOk s
  | .pairRevoke storeOk => Sys2Proof.Machine.execPairRevoke storeOk s
  | .pairRemove storeOk => Sys2Proof.Machine.execPairRemove storeOk s
  | .pairRekey storeOk => Sys2Proof.Machine.execPairRekey storeOk s
  | .pairClear storeOk => Sys2Proof.Machine.execPairClear storeOk s
  | .unprotect storeOk => Sys2Proof.Machine.execUnprotect storeOk s
  | .cellarFormatPermit storeOk => Sys2Proof.Machine.execCellarFormatPermit storeOk s
  | .reroot storeOk inputs => Sys2Proof.Machine.execReroot storeOk inputs s
  | .rotateRec storeOk => Sys2Proof.Machine.execRotateRec storeOk s
  | .addOwnerKey storeOk fuseOk => Sys2Proof.Machine.execAddOwnerKey storeOk fuseOk s
  | .revokeOwnerKey storeOk => Sys2Proof.Machine.execRevokeOwnerKey storeOk s
  | .tamperCfg storeOk => Sys2Proof.Machine.execTamperCfg storeOk s
  | .takeOwnership storeOk fuseOk => Sys2Proof.Machine.execTakeOwnership storeOk fuseOk s
  | .returnPart storeOk => Sys2Proof.Machine.execReturnPart storeOk s
  | .scrap storeOk => Sys2Proof.Machine.execScrap storeOk s
  | .attest => Sys2Proof.Machine.execAttest s
  | .extend => Sys2Proof.Machine.execExtend s
  | .random => Sys2Proof.Machine.execRandom s
  | .derive => Sys2Proof.Machine.execDerive s
  | .generate => Sys2Proof.Machine.execGenerate s
  | .invalidate => Sys2Proof.Machine.execInvalidate s
  | .sign => Sys2Proof.Machine.execSign s
  | .hmac => Sys2Proof.Machine.execHmac s
  | .pubkey => Sys2Proof.Machine.execPubkey s
  | .strongroomBadCommand => Sys2Proof.Machine.execStrongroomBadCommand s
  | .strongroomOpComplete => Sys2Proof.Machine.execStrongroomOpComplete s
  | .tamperDetect source bursts => Sys2Proof.Machine.execTamperDetect source bursts s
  | .drbgHealthRetest pass => Sys2Proof.Machine.execDrbgHealthRetest pass s
  | .tapExtest shift => Sys2Proof.Machine.execTapExtest shift s
  | .tapIdcode => Sys2Proof.Machine.execTapIdcode s
  | .tapSamplePreload pins shift => Sys2Proof.Machine.execTapSamplePreload pins shift s
  | .tapBypass shift => Sys2Proof.Machine.execTapBypass shift s
  | .dbgChallenge => Sys2Proof.Machine.execDbgChallenge s
  | .dbgToken token => Sys2Proof.Machine.execDbgToken token s
  | .dbgStatus => Sys2Proof.Machine.execDbgStatus s
  | .dbgAccess shift at' => Sys2Proof.Machine.execDbgAccess shift at' s
  | .dbgRelock burst => Sys2Proof.Machine.execDbgRelock burst s
  | .tapReset => Sys2Proof.Machine.execTapReset s
  | .debugSessionExpiry burst => Sys2Proof.Machine.execDebugSessionExpiry burst s
  | .pwrCmdRun => Sys2Proof.Machine.execPwrCmdRun s
  | .pwrCmdQuiet => Sys2Proof.Machine.execPwrCmdQuiet s
  | .pwrCmdStandby replies => Sys2Proof.Machine.execPwrCmdStandby replies s
  | .pwrBadCommand op => Sys2Proof.Machine.execPwrBadCommand op s
  | .wakeTimer => Sys2Proof.Machine.execWakeTimer s
  | .quietEntry replies => Sys2Proof.Machine.execQuietEntry replies s
  | .quietExit replies => Sys2Proof.Machine.execQuietExit replies s
  | .standbyEntryComplete => Sys2Proof.Machine.execStandbyEntryComplete s
  | .resume failed entropyOk replies => Sys2Proof.Machine.execResume failed entropyOk replies s
  | .mainPowerLoss left => Sys2Proof.Machine.execMainPowerLoss left s
  | .pwrfail left => Sys2Proof.Machine.execPwrfail left s
  | .pfRecover => Sys2Proof.Machine.execPfRecover s
  | .sensorSample raws elapsedNs => Sys2Proof.Machine.execSensorSample raws elapsedNs s
  | .stepHoldEnd => Sys2Proof.Machine.execStepHoldEnd s
  | .throttleStep => Sys2Proof.Machine.execThrottleStep s
  | .estimateUpdate mw => Sys2Proof.Machine.execEstimateUpdate mw s
  | .estimateRescale => Sys2Proof.Machine.execEstimateRescale s
  | .atticRead page => Sys2Proof.Machine.execAtticRead page s
  | .atticWrite page => Sys2Proof.Machine.execAtticWrite page s
  | .atticWriteSealed page => Sys2Proof.Machine.execAtticWriteSealed page s
  | .atticMarginRead page => Sys2Proof.Machine.execAtticMarginRead page s
  | .atticBufClear => Sys2Proof.Machine.execAtticBufClear s
  | .atticBadCommand => Sys2Proof.Machine.execAtticBadCommand s
  | .atticBufWrite word value be => Sys2Proof.Machine.execAtticBufWrite word value be s
  | .atticBpLock => Sys2Proof.Machine.execAtticBpLock s
  | .atticPageWriteDone bank bad saveUs => Sys2Proof.Machine.execAtticPageWriteDone bank bad saveUs s
  | .refreshPass page => Sys2Proof.Machine.execRefreshPass page s
  | .foldWindowExpiry code inst => Sys2Proof.Machine.execFoldWindowExpiry code inst s
  | .blotterPersist => Sys2Proof.Machine.execBlotterPersist s
  | .histogramSample lifeTicks => Sys2Proof.Machine.execHistogramSample lifeTicks s
  | .histogramCopy => Sys2Proof.Machine.execHistogramCopy s
  | .opReserveAdvance => Sys2Proof.Machine.execOpReserveAdvance s
  | .snapStart => Sys2Proof.Machine.execSnapStart s
  | .calSetWrite value => Sys2Proof.Machine.execCalSetWrite value s
  | .clearSubmit storeOk => Sys2Proof.Machine.execClearSubmit storeOk s
  | .powerOnReset vbatLost lifeS left => Sys2Proof.Machine.execPowerOnReset vbatLost lifeS left s
  | .pinReset left => Sys2Proof.Machine.execPinReset left s
  | .watchdogExpiry burst left => Sys2Proof.Machine.execWatchdogExpiry burst left s
  | .softResetRequest key soft => Sys2Proof.Machine.execSoftResetRequest key soft s
  | .resetDrainEnd left => Sys2Proof.Machine.execResetDrainEnd left s
  | .coldBoot entropyOk replies => Sys2Proof.Machine.execColdBoot entropyOk replies s
  | .bootRelease ms => Sys2Proof.Machine.execBootRelease ms s
  | .faultAckEcc => Sys2Proof.Machine.execFaultAckEcc s
  | .audioSample => Sys2Proof.Machine.execAudioSample s
  | .presetDwellExpiry port => Sys2Proof.Machine.execPresetDwellExpiry port s
  | .vcoLockRegained syn => Sys2Proof.Machine.execVcoLockRegained syn s
  | .lifeClockSave => Sys2Proof.Machine.execLifeClockSave s
  | .configurationRequest what => Sys2Proof.Machine.execConfigurationRequest what s
  | .msixVectorMaskWrite vector mask => Sys2Proof.Machine.execMsixVectorMaskWrite vector mask s
  | .endpointLinkUp gen widthLog2 => Sys2Proof.Machine.execEndpointLinkUp gen widthLog2 s

end Sys2Proof.Machine
end

