-- ==== Sys2Proof/Safety.lean ====
section
/-!
DEFINITION. What counts as a well-kept state and a safe step, and the words the statements are written in: when a register
answers, and which parts of the state a command leaves alone.
-/
namespace Sys2Proof.Safety
open Sys2Proof Sys2Proof.Machine

/-- Every sparse map of the state is in canonical form, so that equal contents are equal data, and the debug trace holds at
most its 4,096 entries (16_startup_faults.md R478). -/
structure Inv (s : State) : Prop where
  regs : Sparse.wf regReset s.regs = true
  mem : Memory.wf s.mem.bytes = true
  flash : Sparse.wf (fun _ => 0xFF#8) s.flash = true
  sram : Sparse.wf (fun _ => 0#8) s.sram = true
  ports : Sparse.wf (fun _ => ({} : PortState)) s.ports = true
  streams : Sparse.wf (fun _ => ({} : StreamState)) s.streams = true
  folios : Sparse.wf (fun _ => ({} : FolioState)) s.folios = true
  trace : s.trace.length ≤ 4096

/-- No fuse bit of `a` reads unblown in `b` (13_strongroom.md R368): bits only blow. -/
structure FusesGrow (a b : Fuses) : Prop where
  lifecycle : a.lifecycle &&& b.lifecycle = a.lifecycle
  svn : a.svn &&& b.svn = a.svn
  ownerProg : a.ownerProg &&& b.ownerProg = a.ownerProg
  ownerRevoked : a.ownerRevoked &&& b.ownerRevoked = a.ownerRevoked

/-- What holds between a state and a state any command reaches from it. -/
structure Kept (z s : State) : Prop where
  pending : s.pending = z.pending
  inv : Inv z → Inv s
  fuses : FusesGrow z.strong.fuses s.strong.fuses

/-- What holds of every next state a command answers. -/
def KeptR (z : State) (r : Result) : Prop := ∀ t, r = .next t → Kept z t

/-- The register at `a` answers a write: its block is powered, present and not quiesced (02_fabric_image.md R84;
12_host_control.md R357). -/
structure Answers (s : State) (a : Nat) : Prop where
  running : (s.clusterOfAddr a).any s.quiesced = false
  live : s.regLive a = true

/-- Every register but those listed reads as before. -/
def OnlyRegs (s t : State) (changed : List Nat) : Prop := ∀ a, a ∉ changed → t.rd a = s.rd a

end Sys2Proof.Safety
end

