-- ==== Sys2Proof/Certificates/Slice0/Obligations.lean ====
section
/-!
DEFINITION. The statements for the provers.
-/
open Sys2Proof Sys2Proof.Machine Safety


/-- A step with a command at the front of the queue is that command's effect on the state with the queue's rest; with nothing
waiting the block idles (the model's choice, log entry 1). -/
def Obligations.StepRunsFront : Prop :=
  (∀ (s : State) (c : Instr) (cs : List Instr), s.pending = c :: cs → step s = exec c { s with pending := cs }) ∧
  (∀ s : State, s.pending = [] → step s = .next s)

/-- The state after reset keeps the canonical forms. -/
def Obligations.ResetInv : Prop := Inv State.reset

/-- Every step keeps the canonical forms of the registers, of the stream memory, of the flash, of the SRAM and of the units'
states, and the debug trace within its 4,096 entries (16_startup_faults.md R478). -/
def Obligations.StepKeepsInv : Prop := ∀ s t : State, Inv s → step s = .next t → Inv t

/-- Every command completes in every state, leaves the commands that wait as they are, and never makes a blown fuse bit read
unblown (13_strongroom.md R368). It rests in part on the model's own choices (log entry 6). -/
def Obligations.CommandsComplete : Prop :=
  ∀ (c : Instr) (s : State), ∃ t, exec c s = .next t ∧ t.pending = s.pending ∧ FusesGrow s.strong.fuses t.strong.fuses

/-- SEQ of every result block (00_scope.md R15): it is 0 after reset, so the first result takes 1; each later one takes the next
number, and FFFFh is followed by 1. -/
def Obligations.ResultSequence : Prop :=
  (∀ (s : State) (a status : Nat), (s.complete a status).get ⟨a, 15, 0⟩ =
    if s.get ⟨a, 15, 0⟩ = 0xFFFF then 1 else s.get ⟨a, 15, 0⟩ + 1) ∧
  (∀ a ∈ [Reg.ruling_EVQ_RESULT, Reg.fabric_RESULT, Reg.marginalia_QUERY_RESULT, Reg.cellar_RESULT, Reg.sysif_FLASH_RESULT,
      Reg.strongroom_RESULT, Reg.power_PWR_RESULT, Reg.blotter_ATTIC_RESULT, Reg.blotter_CLEAR_RESULT] ++
      (List.range 96).map Reg.port_CTRL_RESULT, State.reset.get ⟨a, 15, 0⟩ = 0) ∧
  (∀ (s : State) (a status : Nat), s.get ⟨a, 15, 0⟩ = 0 → (s.complete a status).get ⟨a, 15, 0⟩ = 1)

/-- Reads of a result block (00_scope.md R16): a read of any register but the first word of a read-pop port, and so of every word
of a result block, answers the register and changes nothing; a second read answers the same. -/
def Obligations.ResultReads : Prop :=
  (∀ (s : State) (a : BitVec 22), a.toNat ≠ Reg.cellar_DIR_HDR → a.toNat ≠ Reg.blotter_RD_HDR →
    (∀ n, n < 96 → a.toNat ≠ Reg.port_RX_HDR n) →
    exec (.readPop a) s = .next (s.emit (.readData (s.peek a.toNat))) ∧
    (s.emit (.readData (s.peek a.toNat))).peek a.toNat = s.peek a.toNat) ∧
  (∀ a ∈ [Reg.ruling_EVQ_RESULT, Reg.ruling_EVQ_HANDLE, Reg.fabric_RESULT, Reg.fabric_RESULT_INFO, Reg.marginalia_QUERY_RESULT,
      Reg.cellar_RESULT, Reg.cellar_RESULT_INFO, Reg.sysif_FLASH_RESULT, Reg.strongroom_RESULT, Reg.strongroom_RESULT_INFO,
      Reg.power_PWR_RESULT, Reg.blotter_ATTIC_RESULT, Reg.blotter_CLEAR_RESULT] ++ (List.range 208).map Reg.strongroom_RESULT_DATA ++
      (List.range 96).map Reg.port_CTRL_RESULT,
    a ≠ Reg.cellar_DIR_HDR ∧ a ≠ Reg.blotter_RD_HDR ∧ ∀ n, n < 96 → a ≠ Reg.port_RX_HDR n)

/-- CAPTURE latches the whole position into the POS registers and writes nothing else (R25); EPOCH_ARM holds the written seconds
for the next PPS edge and changes nothing else (R26). At a PPS edge that is not the source in use: an armed epoch is taken as the
current second and EPOCH_KNOWN is set; a second already counted goes up by 1 (R26). A line start moves the position to the next
line; with nothing queued it changes nothing else but the whole seconds of a coast (R43). At the last line it begins line 1 of the
next frame, in STANDBY and on the way out of it too (R61). A user event that is due leaves the queue and shows its tag (R21, R53,
R54). It rests in part on the model's own choices (log entry 7). -/
def Obligations.RulingPosition : Prop :=
  ((∀ (s : State) (frac : BitVec 16), Answers s Reg.ruling_CTRL →
     ∃ t, exec (.capture frac) s = .next t ∧
       t.get R.ruling_POS_FRAME_LO_FRAME = s.ruling.frame % 2 ^ 32 ∧
       t.get R.ruling_POS_FRAME_HI_FRAME = s.ruling.frame / 2 ^ 32 % 2 ^ 16 ∧
       t.get R.ruling_POS_LINE_LINE = s.ruling.line % 2 ^ 12 ∧
       t.get R.ruling_POS_LINE_INSERTED = (if s.ruling.inserted then 1 else 0) ∧
       t.get R.ruling_POS_LINE_FRACTION = frac.toNat ∧
       OnlyRegs s t [Reg.ruling_POS_FRAME_LO, Reg.ruling_POS_FRAME_HI, Reg.ruling_POS_LINE] ∧
       t = { s with regs := t.regs, ruling := { s.ruling with frac := frac.toNat } }) ∧
   (∀ s : State, Answers s Reg.ruling_EPOCH_HI →
     exec .epochArm s = .next { s with ruling :=
       { s.ruling with armed := some (s.get R.ruling_EPOCH_HI_SEC * 2 ^ 32 + s.get R.ruling_EPOCH_LO_SEC) } })) ∧
  (∀ (s : State) (frac : BitVec 16) (tauNs : Nat) (ok : Bool), s.qualified 1 = true → s.curSrc ≠ 1 →
     (∀ sec, s.ruling.armed = some sec →
       ∃ t, exec (.ppsEdge frac tauNs ok) s = .next t ∧ t.ruling.seconds = sec ∧ t.ruling.armed = none ∧
         t.get R.ruling_STATUS_EPOCH_KNOWN = 1) ∧
     (s.ruling.armed = none → s.ruling.secStarted = true →
       ∃ t, exec (.ppsEdge frac tauNs ok) s = .next t ∧ t.ruling.seconds = (s.ruling.seconds + 1) % 2 ^ 48 ∧
         t.regs = s.regs)) ∧
  ((∀ (s : State) (ps : List Nat), s.domainOn 5 = true → s.ruling.adjust = none → s.ruling.inserted = false →
     s.ruling.line < s.rulingFormat.lines → s.evq.entries = [] →
     (s.loop ≠ .coast → exec (.rulingLineStart ps) s = .next { s with ruling :=
       { s.ruling with line := s.ruling.line + 1, lineTotal := s.ruling.lineTotal + 1, frac := 0 } }) ∧
     (s.loop = .coast → ∃ t, exec (.rulingLineStart ps) s = .next t ∧ t.ruling.line = s.ruling.line + 1 ∧
       t.get R.ruling_STATUS_COAST_S = min 0xFFFF t.coastSeconds ∧ OnlyRegs s t [R.ruling_STATUS_COAST_S.addr] ∧
       t = { s with regs := t.regs, ruling := t.ruling })) ∧
   (∀ (s : State) (ps : List Nat), s.get R.power_PWR_STATE_STATE = 2 ∨ s.get R.power_PWR_STATE_STATE = 4 → s.loop ≠ .coast →
     s.ruling.adjust = none → s.ruling.countStep = none →
     s.ruling.inserted = false → s.rulingFormat.lines ≤ s.ruling.line →
     ∃ t, exec (.rulingLineStart ps) s = .next t ∧ t.ruling.line = 1 ∧ t.ruling.frame = (s.ruling.frame + 1) % 2 ^ 48 ∧
       t = { s with ruling := t.ruling }) ∧
   (∀ (s : State) (ps : List Nat) (e : EvqEntry), s.domainOn 5 = true → s.get R.power_PWR_STATE_STATE = 0 →
     s.ruling.adjust = none → s.ruling.inserted = false → s.ruling.line < s.rulingFormat.lines → s.evq.entries = [e] →
     e.action = 8 → e.late = .onTime → e.frame = s.ruling.frame → e.line ≤ s.ruling.line + 1 →
     ∃ t, exec (.rulingLineStart ps) s = .next t ∧ t.ruling.line = s.ruling.line + 1 ∧ t.evq.entries = [] ∧
       (t.rd Reg.ruling_EVQ_USER_TAG).toNat = getBits e.target 7 0 ∧ t.get Flag.ruling_EVQ_USER.fld = 1))

/-- How the sources of the Ruling are qualified and lost, and when it moves (R28, R30, R31, R32, R508): a line sync of REF does
nothing, the eighth good frame sync of a REF whose type agrees with the format qualifies it, a loss of the tracked source enters
COAST, and the timeouts move to the best qualified source. The writes that choose a source (R30, R32, R41, R51): what the register
then reads, and that MANUAL_SRC = XO enters FREE and FORCE_COAST enters COAST. The residual of a slew reaches 0: SLEW_DONE is
raised, the loop is LOCKED (R41, R46). It rests in part on the model's own choices (log entries 12, 13, 14, 52). -/
def Obligations.RulingSources : Prop :=
  ((∀ (s : State) (frac : BitVec 16) (tauNs : Nat) (ok : Bool), exec (.refSyncEdge false frac tauNs ok) s = .next s) ∧
   (∀ (s : State) (frac : BitVec 16) (tauNs : Nat), s.qualified 0 = false → s.forceCoast = true → s.loop = .coast →
     s.refTypeAgrees = true → Sparse.get (fun _ => 0) s.ruling.runs 0 = 7 →
     ∃ t, exec (.refSyncEdge true frac tauNs true) s = .next t ∧ t.qualified 0 = true ∧ t.loop = .coast) ∧
   (∀ (s : State) (c : Fin 3) (n : Nat), s.curSrc = c.val → s.loop = .locked →
     ∃ t, exec (.sourceLost c n) s = .next t ∧ t.qualified c = false ∧ t.loop = .coast ∧
       t.get R.ruling_STATUS_COAST_S = 0 ∧ t.get R.ruling_RESIDUAL = 0 ∧ t.ruling.lostSrc = some c.val) ∧
   (∀ (s : State) (b : Nat), s.manualMode = false → s.loop = .coast → s.forceCoast = false → s.bestSource = some b →
     ∃ t, exec .switchTimeout s = .next t ∧ t.loop = .acquire ∧ t.curSrc = b) ∧
   (∀ (s : State) (c : Fin 3), s.manualMode = false → s.forceCoast = false → s.get R.ruling_SRC_TIMING_REVERT_S ≠ 0 →
     s.qualified c = true → s.outranks c = true → s.loop = .locked → s.ruling.adjust = none →
     ∃ t, exec (.revertTimeout c) s = .next t ∧ t.loop = .acquire ∧ t.curSrc = c.val)) ∧
  ((∀ (s : State) (v : BitVec 12) (n : Nat), Answers s Reg.ruling_SRC_PRIO → s.manualMode = true →
     ∃ t, exec (.srcPrioWrite v n) s = .next t ∧ t.get ⟨Reg.ruling_SRC_PRIO, 11, 0⟩ = v.toNat ∧
       OnlyRegs s t [Reg.ruling_SRC_PRIO] ∧ t = { s with regs := t.regs }) ∧
   (∀ (s : State) (n : Nat), Answers s Reg.ruling_CTRL → s.loop = .locked →
     ∃ t, exec (.manualSrcWrite true 3 n) s = .next t ∧ t.loop = .free ∧ t.curSrc = 3 ∧
       t.get R.ruling_RESIDUAL = 0 ∧ t.ruling.corr = 0) ∧
   (∀ (s : State) (n : Nat), Answers s Reg.ruling_CTRL → s.loop = .locked →
     ∃ t, exec (.forceCoastWrite true n) s = .next t ∧ t.forceCoast = true ∧ t.loop = .coast)) ∧
  (∀ s : State, s.loop = .slewing →
     ∃ t, exec .slewDone s = .next t ∧ t.loop = .locked ∧ t.get R.ruling_RESIDUAL = 0 ∧ t.ruling.residual = 0 ∧
       t.get Flag.ruling_SLEW_DONE.fld = 1 ∧
       t.get Flag.ruling_SLEW_DONE.counter = min (s.get Flag.ruling_SLEW_DONE.counter + 1) 0xFFFF)

/-- The synthesizers (R34, R38, R39): what each of their commands leaves, and that it writes no other register and no other part
of the state. A write of OUT_CTRL that changes the output, where nothing takes its clock: EN and DIV read as written, SYNC_PENDING
is set until the next frame boundary, and no other register changes; a write of the present values does nothing at all (R37). It
rests in part on the model's own choices (log entries 10, 67). -/
def Obligations.Synthesizers : Prop :=
  ((∀ (s : State) (n : Fin 2), ∃ t, exec (.synUnlock n) s = .next t ∧ t.get (R.clock_STATUS_VCO_LOCK n) = 0 ∧
       t.get (R.clock_STATUS_UNLOCK_CNT n) = min (s.get (R.clock_STATUS_UNLOCK_CNT n) + 1) 0xFFFF ∧
       t.get Flag.ruling_SYN_UNLOCK.fld = 1 ∧
       OnlyRegs s t [Reg.clock_STATUS n, Flag.ruling_SYN_UNLOCK.addr, Flag.ruling_SYN_UNLOCK.counter.addr] ∧
       t = { s with regs := t.regs }) ∧
   (∀ (s : State) (n : Fin 2), ∃ t, exec (.vcoLockRegained n) s = .next t ∧ t.get (R.clock_STATUS_VCO_LOCK n) = 1 ∧
       OnlyRegs s t [Reg.clock_STATUS n] ∧ t = { s with regs := t.regs }) ∧
   (∀ (s : State) (n : Fin 2) (o : Fin 8) (d : BitVec 16), Answers s (Reg.clock_OUT_CTRL n o) →
     ∃ t, exec (.outDelayWrite n o d) s = .next t ∧ t.get (R.clock_OUT_DELAY_DELAY n o) = d.toNat ∧
       t.get (R.clock_OUT_DELAY_CUR_DELAY n o) = s.get (R.clock_OUT_DELAY_CUR_DELAY n o) ∧
       OnlyRegs s t [Reg.clock_OUT_DELAY n o] ∧ t = { s with regs := t.regs }) ∧
   (∀ (s : State) (n : Fin 2) (o : Fin 8), s.on (R.clock_OUT_CTRL_EN n o) = true → s.on (R.clock_CTRL_EN n) = true →
     (s.synOut n o).running = true → s.get (R.clock_OUT_DELAY_CUR_DELAY n o) < s.get (R.clock_OUT_DELAY_DELAY n o) →
     ∃ t, exec (.outDelayStep n o) s = .next t ∧
       t.get (R.clock_OUT_DELAY_CUR_DELAY n o) = s.get (R.clock_OUT_DELAY_CUR_DELAY n o) + 1 ∧
       OnlyRegs s t [Reg.clock_OUT_DELAY n o] ∧ t = { s with regs := t.regs }) ∧
   (∀ (s : State) (n : Fin 2) (o : Fin 8), ∃ t, exec (.divChangeApply n o) s = .next t ∧
       (t.synOut n o).div = s.get (R.clock_OUT_CTRL_DIV n o) ∧ t = { s with synOuts := t.synOuts } ∧
       ∀ m p, 8 * m + p ≠ 8 * n.val + o.val → t.synOut m p = s.synOut m p)) ∧
  (∀ (s : State) (n : Fin 2) (o : Fin 8) (d : BitVec 10), Answers s (Reg.clock_OUT_CTRL n o) →
     (s.on (R.clock_OUT_CTRL_EN n o) = false → (∀ f, f < 64 → s.folioOn f = false) → (∀ p, p < 96 → s.sdiOut p = false) →
       ∃ t, exec (.synOutCtrlWrite n o true d) s = .next t ∧ t.get (R.clock_OUT_CTRL_EN n o) = 1 ∧
         t.get (R.clock_OUT_CTRL_DIV n o) = d.toNat ∧ t.get (R.clock_OUT_CTRL_SYNC_PENDING n o) = 1 ∧
         OnlyRegs s t [Reg.clock_OUT_CTRL n o] ∧ t = { s with regs := t.regs, synOuts := t.synOuts }) ∧
     (∀ en, s.on (R.clock_OUT_CTRL_EN n o) = en → s.get (R.clock_OUT_CTRL_DIV n o) = d.toNat →
       exec (.synOutCtrlWrite n o en d) s = .next s))

/-- A PUSH of a sound entry for a later line takes the lowest free index, with the index's generation in the handle (R52, R55 to
R58). -/
def Obligations.PushTakesTheLowestIndex : Prop :=
  ∀ (s : State) (m : Master) (i : Nat), Answers s Reg.ruling_EVQ_RESULT → s.done Reg.ruling_EVQ_RESULT = true →
    let w1 := s.rd (Reg.ruling_EVQ_W 1)
    let frame := getBits w1 15 0 * 2 ^ 32 + (s.rd (Reg.ruling_EVQ_W 0)).toNat
    let gen := Sparse.get (fun _ => 0) s.evq.gens i
    1 ≤ getBits w1 31 28 → getBits w1 31 28 ≤ 8 → 1 ≤ getBits w1 27 16 → getBits w1 27 16 ≤ s.rulingFormat.lines →
    s.ruling.frame < frame → s.evq.freeIndex = some i → i < 512 → gen < 128 →
    (m = .core ∨ (s.evq.entries.filter fun e => e.master != .core).length < 480) →
    ∃ t, exec (.evqPush m) s = .next t ∧
      t.get ⟨Reg.ruling_EVQ_RESULT, 31, 31⟩ = 1 ∧ t.get ⟨Reg.ruling_EVQ_RESULT, 30, 16⟩ = 0 ∧
      t.get ⟨Reg.ruling_EVQ_RESULT, 15, 0⟩ = nextSeq (s.get ⟨Reg.ruling_EVQ_RESULT, 15, 0⟩) ∧
      t.get R.ruling_EVQ_HANDLE = gen * 512 + i ∧
      t.evq.entries = s.evq.entries ++ [⟨i, gen, s.evq.order, m, frame, getBits w1 27 16, getBits w1 31 28,
        s.rd (Reg.ruling_EVQ_W 2), (s.rd (Reg.ruling_EVQ_W 3)).getLsbD 31, (s.rd (Reg.ruling_EVQ_W 3)).extractLsb' 0 31, .onTime⟩] ∧
      Sparse.get (fun _ => 0) t.evq.gens i = (gen + 1) % 128 ∧ t = { s with regs := t.regs, evq := t.evq }

/-- A command offered to the event queue while its DONE is 0 is ignored and sets CMD_OVERRUN: the queue, the result block and
every other part of the state stay (R17). CANCEL of a held handle takes its entry out, of any other finds none; FLUSH takes out
every entry of its master and counts them; an undefined OP changes nothing but the result (R56, R57). The end of a pulse's width:
the pulse is over and no other output and no other part of the state changes (R366). It rests in part on the model's own choices
(log entry 6). -/
def Obligations.EventQueueCommands : Prop :=
  (∀ (s : State) (c : Instr), Answers s Reg.ruling_EVQ_RESULT → s.done Reg.ruling_EVQ_RESULT = false →
     (∃ m, c = .evqPush m ∨ c = .evqCancel m ∨ c = .evqFlush m ∨ c = .evqBadCommand m 0) →
     ∃ t, exec c s = .next t ∧ t.get Flag.ruling_CMD_OVERRUN.fld = 1 ∧
       t.get Flag.ruling_CMD_OVERRUN.counter = min (s.get Flag.ruling_CMD_OVERRUN.counter + 1) 0xFFFF ∧
       OnlyRegs s t [Flag.ruling_CMD_OVERRUN.addr, Flag.ruling_CMD_OVERRUN.counter.addr] ∧ t = { s with regs := t.regs }) ∧
  (∀ (s : State) (m : Master), Answers s Reg.ruling_EVQ_RESULT → s.done Reg.ruling_EVQ_RESULT = true →
     let h := getBits (s.rd (Reg.ruling_EVQ_W 0)) 15 0
     ((s.evq.entries.any fun e => e.index == h % 512 && e.gen == h / 512) = true →
       ∃ t, exec (.evqCancel m) s = .next t ∧ t.get ⟨Reg.ruling_EVQ_RESULT, 30, 16⟩ = 5 ∧ t.get R.ruling_EVQ_HANDLE = h ∧
         (∀ e, e ∈ t.evq.entries ↔ e ∈ s.evq.entries ∧ ¬(e.index = h % 512 ∧ e.gen = h / 512)) ∧
         t = { s with regs := t.regs, evq := t.evq }) ∧
     ((s.evq.entries.any fun e => e.index == h % 512 && e.gen == h / 512) = false →
       ∃ t, exec (.evqCancel m) s = .next t ∧ t.get ⟨Reg.ruling_EVQ_RESULT, 30, 16⟩ = 6 ∧
         t = { s with regs := t.regs }) ∧
     (∃ t, exec (.evqFlush m) s = .next t ∧ t.get ⟨Reg.ruling_EVQ_RESULT, 30, 16⟩ = 7 ∧
       t.get R.ruling_EVQ_HANDLE = (s.evq.entries.filter fun e => e.master == m).length % 2 ^ 16 ∧
       (∀ e, e ∈ t.evq.entries ↔ e ∈ s.evq.entries ∧ e.master ≠ m) ∧ t = { s with regs := t.regs, evq := t.evq }) ∧
     (∀ op : BitVec 4, op = 0 ∨ 4 ≤ op.toNat →
       ∃ t, exec (.evqBadCommand m op) s = .next t ∧ t.get ⟨Reg.ruling_EVQ_RESULT, 30, 16⟩ = 8 ∧ t = { s with regs := t.regs })) ∧
  (∀ (s : State) (g : Fin 32), ∃ t, exec (.gpioPulseEnd g) s = .next t ∧ t.gpio.pulse.getLsbD g = false ∧
     (∀ k, k ≠ g.val → t.gpio.pulse.getLsbD k = s.gpio.pulse.getLsbD k) ∧ t.gpio.base = s.gpio.base ∧ t.gpio.pins = s.gpio.pins ∧
     t = { s with gpio := t.gpio })

/-- The loader's commands: what RESULT, its event flag and the load in progress hold after each. `t.fabric = s.fabric` says that
nothing is loaded (R75, R79, R82, R86, R92). The loader's DMA needs Bus Master Enable (12_host_control.md R345): without it, as
where the read fails, the result is 9. It rests in part on the model's own choices (log entries 48, 49, 75, 77). -/
def Obligations.LoaderCommands : Prop :=
  ∀ s : State, Answers s Reg.fabric_RESULT → s.done Reg.fabric_RESULT = true → s.on R.hostif_LINK_BME = true →
    let n := s.get R.fabric_SRC_LEN_LEN
    let u := s.accept Reg.fabric_RESULT
    (∀ bs, u.imageFault (bs.take n) n false = none →
      (∃ t, exec (.fabricVerify (some bs)) s = .next t ∧ t.get R.fabric_RESULT_STATUS = 1 ∧ t.get R.fabric_RESULT_DONE = 1 ∧
        t.get Flag.fabric_LOAD_DONE.fld = 1 ∧ t = { s with regs := t.regs }) ∧
      ((loadedImage (bs.take n)).isPartial = true → s.get R.power_PWR_STATE_STATE ≠ 3 →
        ∃ t, exec (.fabricLoad (some bs)) s = .next t ∧ t.fabric.load = some (.partialPending, loadedImage (bs.take n)) ∧
          t.get R.fabric_RESULT_DONE = 0 ∧ OnlyRegs s t [Reg.fabric_RESULT] ∧ t = { s with regs := t.regs, fabric := t.fabric }) ∧
      ((loadedImage (bs.take n)).isPartial = false → s.get R.power_PWR_STATE_STATE ≠ 3 → u.celMode ≠ .ready →
        ∃ t, exec (.fabricLoad (some bs)) s = .next t ∧ t.fabric.load = some (.fullPending, loadedImage (bs.take n)) ∧
          t.get R.fabric_RESULT_DONE = 0 ∧ t = { s with regs := t.regs, fabric := t.fabric })) ∧
    (∀ bs st info, u.imageFault (bs.take n) n false = some (st, info) → 2 ≤ st → st ≤ 10 →
      ∃ t, exec (.fabricVerify (some bs)) s = .next t ∧ t.get R.fabric_RESULT_STATUS = st ∧
        (t.rd Reg.fabric_RESULT_INFO).toNat = info % 2 ^ 32 ∧ t.get Flag.fabric_LOAD_FAIL.fld = 1 ∧ t = { s with regs := t.regs }) ∧
    (∀ image, ∃ t, exec (.fabricVerify image) (s.put R.hostif_LINK_BME 0) = .next t ∧ t.get R.fabric_RESULT_STATUS = 9) ∧
    (∃ t, exec (.fabricVerify none) s = .next t ∧ t.get R.fabric_RESULT_STATUS = 9 ∧ t = { s with regs := t.regs }) ∧
    (∃ t, exec .fabricBadCommand s = .next t ∧ t.get R.fabric_RESULT_STATUS = 14 ∧ t.get Flag.fabric_LOAD_FAIL.fld = 1 ∧
      t = { s with regs := t.regs }) ∧
    (u.testRoot = false → u.on R.fabric_STATE_CONFIGURED = true → u.svnFuse < u.get R.fabric_STATE_SVN →
      ∃ t, exec .advanceSvn s = .next t ∧ t.get R.fabric_RESULT_STATUS = 11 ∧ t.get R.fabric_RESULT_DONE = 1 ∧
        t.strong.fuses.svn = s.strong.fuses.svn ||| BitVec.ofNat 64 (2 ^ u.get R.fabric_STATE_SVN - 1))

/-- How a verified image comes into force (R80, R82): a full image resets the units, is taken, switches its domains, applies its
writes, answers LOADED and releases the units; a partial image quiesces its cluster, replaces its records and applies its writes,
and its release answers LOADED. It rests in part on the model's own choices (log entries 72, 73, 74, 75). -/
def Obligations.LoadsTakeEffect : Prop :=
  (∀ (s : State) (im : LoadedImage) (target : Nat) (rs : List (Nat × List (BitVec 17))),
    s.fabric.load = some (.fullPending, im) → s.loadTarget = some target → s.celMode ≠ .ready →
    let a := (s.modFabric fun u => { u with load := none }).unitsReset.takeFull im 3
    let b := ((a.setDomains (a.powered target)).initWrites none im rs).fabricDone 0 0
    b.get R.global_BOOT_STATUS_STAGE ≠ 5 → b.on R.memory_STATUS_TRAINED = true →
    exec (.fullLoadApply rs) s = .next (b.releaseUnits target)) ∧
  (∀ (s : State) (im : LoadedImage) (target : Nat) (rs : List (Nat × List (BitVec 17))),
    s.fabric.load = some (.partialPending, im) → s.loadTarget = some target →
    let a := (((s.raise Flag.fabric_PARTIAL_START).put R.fabric_STATE_PARTIAL_BUSY 1).quiesceUnits im.cluster)
    let now := a.fabric.now.amend im.body im.cluster
    let b := ((a.resetCluster im.cluster).modFabric fun u => { u with load := some (.quiesced, im), now := now })
    let c := (b.placeStreams a.fabric.now.streams now.streams).showStructure
    let d := match clusterPort im.cluster with | none => c | some p => c.admitPort p
    exec (.partialQuiesce rs) s = .next ((d.setDomains fun k =>
      d.domainOn k || (k == clusterDomain im.cluster && now.populated im.cluster)).initWrites (some im.cluster) im rs)) ∧
  (∀ (s : State) (im : LoadedImage), s.fabric.load = some (.quiesced, im) →
    ∃ t, exec .partialRelease s = .next t ∧ t.get R.fabric_RESULT_STATUS = 0 ∧ t.get R.fabric_RESULT_DONE = 1 ∧
      t.get Flag.fabric_LOAD_DONE.fld = 1)

/-- The LINK_CTRL commands of a Rasyn port (R111, R112, R117) and its CLR_CNT (R121): ENABLE starts an OFF link and stops a
running one, RESTART enters DETECT, RETRAIN retrains a link that is up, a written QUAR_POLICY waits with the one in force
unchanged, and every counter of the port reads 0, or 1 where it was incremented in that same cycle. Entering DETECT discards the
endpoint: the state reads DETECT, every lock, BC_UP and AUTH_RESULT read 0, DESC and KEY_HASH read zeros, and no challenge or
retrain is left (R111, R112). A retrain of a link that is up abandons the frames being written (05_ingest_inkwell.md R142), goes
to TRAIN without its locks, raises RETRAIN, counts in RETRAINS and keeps the descriptor, the identity result and BC_UP (R112); the
lock bits of a bonded pair's odd lane go too (R95). It rests in part on the model's own choices (log entries 25, 70). -/
def Obligations.LinkControl : Prop :=
  (∀ (s : State) (n : Fin 96), Answers s (Reg.port_LINK_CTRL n) → s.rasyn n = true →
     (s.link n = .off → exec (.linkEnableWrite n true) s = .next ((s.put (R.port_LINK_CTRL_ENABLE n) 1).enterDetect n)) ∧
     (s.link n ≠ .off → exec (.linkEnableWrite n true) s = .next (s.put (R.port_LINK_CTRL_ENABLE n) 1)) ∧
     exec (.linkEnableWrite n false) s = .next ((s.put (R.port_LINK_CTRL_ENABLE n) 0).enterOff n) ∧
     (s.on (R.port_LINK_CTRL_ENABLE n) = true → exec (.linkRestart n) s = .next (s.enterDetect n)) ∧
     exec (.linkRetrainRequest n) s = .next (s.startRetrain n) ∧
     (∀ policy : BitVec 2, ∃ t, exec (.quarPolicyWrite n policy) s = .next t ∧
       t.get (R.port_LINK_CTRL_QUAR_POLICY n) = policy.toNat ∧ t.quarPolicy n = s.quarPolicy n ∧ (t.port n).pendPolicy = true ∧
       OnlyRegs s t [Reg.port_LINK_CTRL n] ∧ t = { s with regs := t.regs, ports := t.ports }) ∧
     (Answers s (Reg.port_PORT_CFG n) → ∀ hits : BitVec 32, ∃ t, exec (.portClrCnt n hits) s = .next t ∧
       (∀ i f, (s.portCounters n)[i]? = some f → t.get f = if hits.getLsbD i then 1 else 0) ∧
       OnlyRegs s t ((s.portCounters n).map Fld.addr) ∧ t = { s with regs := t.regs })) ∧
  ((∀ (s : State) (n : Fin 96), let t := s.enterDetect n
     t.link n = .detect ∧ t.get (R.port_LINK_STATE_QUARANTINED n) = 0 ∧ t.get (R.port_LINK_STATE_AUTH_RESULT n) = 0 ∧
     t.get (R.port_LINK_STATE_BC_UP n) = 0 ∧ t.get (R.port_LINK_STATE_FEC_LOCK n) = 0 ∧ t.get (R.port_LINK_STATE_BLOCK_LOCK n) = 0 ∧
     (∀ i, i < 64 → t.rd (Reg.port_DESC n i) = 0) ∧ (∀ i, i < 12 → t.rd (Reg.port_KEY_HASH n i) = 0) ∧
     (t.port n).nonce = none ∧ (t.port n).retraining = false ∧ (t.port n).packetLock = false ∧ (t.port n).lane = []) ∧
   (∀ (s : State) (n : Fin 96), s.isUp n = true → let u := s.abandonPort n; let t := s.startRetrain n
     t.link n = .train ∧ t.get (Flag.port_RETRAIN n).fld = 1 ∧
     t.get (R.port_RETRAINS n) = min (u.get (R.port_RETRAINS n) + 1) (2 ^ 32 - 1) ∧
     t.get (R.port_LINK_STATE_AUTH_RESULT n) = u.get (R.port_LINK_STATE_AUTH_RESULT n) ∧
     t.get (R.port_LINK_STATE_BC_UP n) = u.get (R.port_LINK_STATE_BC_UP n) ∧
     t.get (R.port_LINK_STATE_BLOCK_LOCK n) = 0 ∧ t.get (R.port_LINK_STATE_FEC_LOCK n) = 0 ∧ (t.port n).packetLock = false ∧
     (t.port n).uncorrSecond = 0 ∧ (t.port n).hcrcSecond = 0 ∧
     OnlyRegs u t [Reg.port_LINK_STATE n, Reg.port_LINK_STATE (n + 1), (R.port_RETRAINS n).addr, (Flag.port_RETRAIN n).addr,
       (Flag.port_RETRAIN n).counter.addr] ∧
     t = { u with regs := t.regs, ports := t.ports, out := t.out }) ∧
   (∀ (s : State) (n : Fin 96), s.isUp n = false → s.startRetrain n = s))

/-- The bring-up from DETECT to ALIGN (R105, R107, R111, R114): each event moves the link to its next state, and what it leaves in
every other part of the state. It rests in part on the model's own choices (log entries 21, 24). -/
def Obligations.LinkBringUp : Prop :=
  (∀ (s : State) (n : Fin 96), s.link n = .detect → ∃ t, exec (.linkSignalDetect n) s = .next t ∧ t.link n = .back ∧
    OnlyRegs s t [Reg.port_LINK_STATE n] ∧ t = { s with regs := t.regs }) ∧
  (∀ (s : State) (n : Fin 96), s.link n = .detect → ∃ t, exec (.detectReinit n) s = .next t ∧
    t.link n = .detect ∧ t.get (R.port_LINK_STATE_BLOCK_LOCK n) = 0 ∧ t.get (R.port_LINK_STATE_FEC_LOCK n) = 0 ∧
    (t.port n).frameLock = false ∧ (t.port n).packetLock = false ∧ (t.port n).lane = [] ∧ (t.port n).headerRun = 0 ∧
    OnlyRegs s t [Reg.port_LINK_STATE n, Reg.port_LINK_STATE (n + 1)] ∧ t = { s with regs := t.regs, ports := t.ports }) ∧
  (∀ (s : State) (n : Fin 96), s.link n = .back → ∃ t, exec (.backChannelUp n) s = .next t ∧ t.link n = .discover ∧
    t.get (R.port_LINK_STATE_BC_UP n) = 1 ∧
    (t.port n).reqs.map (fun r => (r.opcode, r.data)) =
      (s.port n).reqs.map (fun r => (r.opcode, r.data)) ++ [(1, [0, 0]), (1, [64, 0]), (1, [128, 0]), (1, [192, 0])] ∧
    OnlyRegs s t [Reg.port_LINK_STATE n] ∧ t = { s with regs := t.regs, ports := t.ports, out := t.out }) ∧
  (∀ (s : State) (n : Fin 96) (e : Nat), ∃ t, exec (.backChannelLost n e) s = .next t ∧ t.get (R.port_LINK_STATE_BC_UP n) = 0 ∧
    t.get (R.port_BC_CODE_ERR n) = min (s.get (R.port_BC_CODE_ERR n) + e) (2 ^ 32 - 1) ∧ t.link n = s.link n ∧
    OnlyRegs s t [Reg.port_LINK_STATE n, (R.port_BC_CODE_ERR n).addr] ∧ t = { s with regs := t.regs }) ∧
  (∀ (s : State) (n : Fin 96), s.bcUp n = false → s.isUp n = true →
    exec (.backChannelLossTimeout n) s = .next (s.enterDetect n)) ∧
  (∀ (s : State) (n : Fin 96) (counts : List (BitVec 32)), s.link n = .train → s.rasynIn n = true →
    ∃ t, exec (.trainResult n counts) s = .next t ∧ t.link n = .align ∧
      t.get (R.port_LINK_STATE_PRESET n) = bestPreset ((List.range 8).map fun i => (counts.getD i 0).toNat) ∧
      (t.port n).reqs.map (fun r => r.opcode) = (s.port n).reqs.map (fun r => r.opcode) ++ [0x11, 0x12] ∧
      OnlyRegs s t [Reg.port_LINK_STATE n, Reg.port_LINK_STATE (n + 1)] ∧ t = { s with regs := t.regs, ports := t.ports, out := t.out }) ∧
  (∀ (s : State) (n : Fin 96), s.link n = .train → ∃ t, exec (.presetDwellExpiry n) s = .next t ∧
    (t.port n).trainPreset = min 7 ((s.port n).trainPreset + 1) ∧ t = { s with ports := t.ports }) ∧
  (∀ (s : State) (n : Fin 96), s.link n = .fault → exec (.faultHoldExpiry n) s = .next (s.enterDetect n)) ∧
  (∀ (s : State) (n : Fin 96) (replies : List (BitVec 17)),
    (s.link n = .back → exec (.linkStateTimeout n replies) s = .next (s.enterFault n 1 replies)) ∧
    (s.link n = .discover → exec (.linkStateTimeout n replies) s = .next (s.enterFault n 3)) ∧
    (s.link n = .train → exec (.linkStateTimeout n replies) s = .next (s.enterFault n 5)) ∧
    (s.link n = .align → (s.port n).alignFails < 2 → exec (.linkStateTimeout n replies) s =
      .next ((s.modPort n fun p => { p with alignFails := (s.port n).alignFails + 1 }).enterTrain n)) ∧
    (s.link n = .align → 2 ≤ (s.port n).alignFails → exec (.linkStateTimeout n replies) s = .next (s.enterFault n 6)))

/-- The identity check (R114 to R116, R119): a sound descriptor is stored, DESC_READY is raised and the link goes to AUTH with a
challenge; the endpoint's answer, its lack of a key, its silence and the re-authentication timer each give the result of R116. -/
def Obligations.LinkIdentity : Prop :=
  (∀ (s : State) (n : Fin 96), let d := (s.port n).descriptor
    s.link n = .discover → d.length = 256 → slice d 0 4 = [0x52, 0x53, 0x59, 0x44] → leAt d 252 4 = (crc32 (slice d 0 252)).toNat →
    leAt d 5 1 = 3 → (leAt d 28 1).testBit (s.get (R.port_PORT_CFG_RATE n)) = true →
    exec (.discoverComplete n) s =
      .next ((((s.putBytes (Reg.port_DESC n 0) d).raise (Flag.port_DESC_READY n)).setLink n .auth).challenge n false)) ∧
  (∀ (s : State) (n : Fin 96), let d := (s.port n).descriptor
    s.link n = .discover → d.length = 256 → slice d 0 4 ≠ [0x52, 0x53, 0x59, 0x44] →
    exec (.discoverComplete n) s = .next (((s.putBytes (Reg.port_DESC n 0) d).raise (Flag.port_DESC_READY n)).enterFault n 2)) ∧
  (∀ (s u : State) (n : Fin 96) (k : Packet) (nonce : List Byte),
    s.takePacket n (fun k => k.typ == 8 && leAt k.payload 0 1 == 2) = some (k, u) → (u.port n).nonce = some nonce →
    let d := u.getBytes (Reg.port_DESC n 0) 64
    let h := sha384 (slice d 136 97)
    let v := u.putBytes (Reg.port_KEY_HASH n 0) h
    exec (.identResponse n) s = .next (v.authOutcome n
      (if ecdsaVerify (slice d 136 97) (identMessage nonce n d) (slice k.payload 4 96) then v.pairResult n h else 4))) ∧
  (∀ (s u : State) (n : Fin 96) (k : Packet),
    s.takePacket n (fun k => k.typ == 8 && leAt k.payload 0 1 == 3) = some (k, u) → (u.port n).nonce.isSome = true →
    exec (.identNoKey n) s = .next (u.authOutcome n 5)) ∧
  (∀ (s : State) (n : Fin 96), s.link n = .auth → exec (.authTimeout n) s = .next (s.authOutcome n 6)) ∧
  (∀ (s : State) (n : Fin 96), s.get (R.port_LINK_CTRL_REAUTH_MIN n) ≠ 0 → s.isUp n = true →
    exec (.reauthTimer n) s = .next (s.challenge n true)) ∧
  (∀ (s : State) (n : Fin 96) (r : Nat), r < 8 → s.link n = .auth →
    (s.authOutcome n r).link n = .train ∧ (s.authOutcome n r).get (R.port_LINK_STATE_AUTH_RESULT n) = r ∧
    (s.authOutcome n r).get (Flag.port_AUTH_DONE n).fld = 1)

/-- A forward frame of good sync headers that gives block lock but no frame lock sets BLOCK_LOCK, delivers no byte and changes no
other register (R98); a frame of a link in OFF does nothing. A whole sound packet on a lane in packet lock leaves the lane and is
routed by its type (R99 to R101): video of a link that delivers waits for ingest, a frame ending as it began (R117, R151); IDLE is
dropped, and so is a packet that does not travel towards the device (R100); an unknown type is counted. A damaged packet is
counted and discarded, an AUDIO packet telling which samples are lost (R120). A control request of a new MSG_ID with an OPCODE the
device knows is acknowledged and placed in the mailbox (R107, R108). -/
def Obligations.LinkPackets : Prop :=
  ((∀ (s : State) (n : Fin 96) (blocks : List (BitVec 66)), s.portMode n = 1 → s.link n ≠ .off → s.link n ≠ .fault →
     s.on (R.port_LINK_STATE_BLOCK_LOCK n) = false → (s.port n).frameLock = false → (s.port n).frameRun < 3 →
     (s.port n).headerBad = 0 →
     (∀ b ∈ blocks, b.extractLsb' 0 2 = 1 ∨ b.extractLsb' 0 2 = 2) → 64 ≤ (s.port n).headerRun + blocks.length →
     ∃ t, exec (.fecFrameReceived n blocks) s = .next t ∧ t.get (R.port_LINK_STATE_BLOCK_LOCK n) = 1 ∧
       t.get (R.port_LINK_STATE_FEC_LOCK n) = 0 ∧ (t.port n).lane = (s.port n).lane ∧
       (t.port n).headerRun = (s.port n).headerRun + blocks.length ∧
       OnlyRegs s t [Reg.port_LINK_STATE n] ∧ t = { s with regs := t.regs, ports := t.ports }) ∧
   (∀ (s : State) (n : Fin 96) (blocks : List (BitVec 66)), s.portMode n = 1 → s.link n = .off →
     exec (.fecFrameReceived n blocks) s = .next s)) ∧
  ((∀ (s : State) (n : Fin 96) (back : List (BitVec 8)) (step len : Nat) (k : Packet),
     s.link n ≠ .off → s.link n ≠ .detect → s.link n ≠ .fault → s.portMode n = 1 → (s.port n).packetLock = true →
     headerAt 504 ((s.port n).lane.map (·.1)) = some (step, k, len) → step ≤ (s.port n).lane.length → 8 ≤ (s.port n).lane.length →
     (wholePacket (s.port n).lane step len k).2 = false →
     let u := s.modPort n fun p => { p with lane := p.lane.drop step }
     let k' := (wholePacket (s.port n).lane step len k).1
     (k'.typ = 0 → exec (.packetReceived n back) s = .next u) ∧
     (9 ≤ k'.typ → exec (.packetReceived n back) s = .next (u.bump (R.port_PKT_TYPE_UNK n))) ∧
     (k'.typ = 1 ∨ k'.typ = 2 → k'.sof = true → ∃ t, exec (.packetReceived n back) s = .next t ∧
       (t.port n).rx = (if s.delivers n then (s.port n).rx ++ [k'] else (s.port n).rx) ∧
       Sparse.get (fun _ => (65536, false)) (t.port n).vcFrames k'.vc = (leAt k'.payload 0 2, s.delivers n) ∧
       (t.port n).lane = (s.port n).lane.drop step ∧ t = { s with ports := t.ports }) ∧
     (k'.typ = 1 ∨ k'.typ = 2 → k'.sof = false → ∀ b,
       Sparse.get (fun _ => (65536, false)) (s.port n).vcFrames k'.vc = (leAt k'.payload 0 2, b) →
       ∃ t, exec (.packetReceived n back) s = .next t ∧ (t.port n).rx = (if b then (s.port n).rx ++ [k'] else (s.port n).rx) ∧
         t = { s with ports := t.ports }) ∧
     (3 ≤ k'.typ → k'.typ ≤ 5 → exec (.packetReceived n back) s =
       .next (if s.delivers n then u.modPort n fun p => { p with rx := p.rx ++ [k'] } else u)) ∧
     (6 ≤ k'.typ → k'.typ ≤ 8 → exec (.packetReceived n back) s =
       .next (if s.carriesType n k' then u.modPort n fun p => { p with rx := p.rx ++ [k'] } else u))) ∧
   (∀ (s : State) (n : Fin 96) (back : List (BitVec 8)) (step len : Nat) (k : Packet),
     s.link n ≠ .off → s.link n ≠ .detect → s.link n ≠ .fault → s.portMode n = 1 → (s.port n).packetLock = true →
     headerAt 504 ((s.port n).lane.map (·.1)) = some (step, k, len) → step ≤ (s.port n).lane.length → 8 ≤ (s.port n).lane.length →
     (wholePacket (s.port n).lane step len k).2 = true →
     ∃ t, exec (.packetReceived n back) s = .next t ∧
       t.get (R.port_PCRC_ERR n) = min (s.get (R.port_PCRC_ERR n) + 1) (2 ^ 32 - 1) ∧
       (t.port n).rx = (if k.typ = 3 ∧ s.delivers n = true then
         (s.port n).rx ++ [{ (wholePacket (s.port n).lane step len k).1 with lost := true }] else (s.port n).rx) ∧
       OnlyRegs s t [(R.port_PCRC_ERR n).addr, (R.port_VIDEO_SEG_LOST n).addr, (R.port_PKT_TYPE_UNK n).addr] ∧ t = { s with regs := t.regs, ports := t.ports }) ∧
   (∀ (s u : State) (n : Fin 96) (k : Packet),
     s.takePacket n (fun k => k.typ == 6 && !(leAt k.payload 2 1 == 0x11 && s.link n == .train)) = some (k, u) →
     4 ≤ k.payload.length → leAt k.payload 1 1 = 0 → leAt k.payload 2 1 = 0x20 ∨ leAt k.payload 2 1 = 0x21 ∨ leAt k.payload 2 1 = 5 →
     (u.port n).seenIds.contains (leAt k.payload 0 1) = false →
     let v := (u.modPort n fun p => { p with seenIds := (leAt k.payload 0 1 :: p.seenIds).take 32 }).rxMailbox n
       ⟨leAt k.payload 2 1, k.vc, 0, (k.payload.drop 4).take 64⟩
     exec (.ctrlPacket n) s =
       .next (v.sendPacket n 6 k.vc (ctrlPayload (leAt k.payload 0 1) 1 (leAt k.payload 2 1) 0 []))))

/-- The host's control request (R107): taken, DONE reads 0 and the request waits for its answer; over 64 bytes it ends
BAD_REQUEST, on a link that is down LINK_DOWN, with result words of zeros (the model's choice, log entry 118). A retry counts in
CTRL_RETRY and sends it again; after the eighth try it ends TIMEOUT and counts in CTRL_FAIL. The delays of the time echoes (R109):
the mean of the last 16 of half the round trip without the endpoint's turn, moved by the asymmetry towards either direction. It
rests in part on the model's own choices (log entries 22, 24). -/
def Obligations.LinkControlChannel : Prop :=
  ((∀ (s : State) (n : Fin 96), Answers s (Reg.port_CTRL_RESULT n) → s.done (Reg.port_CTRL_RESULT n) = true →
     let len := s.get (R.port_CTRL_TX_HDR_LENGTH n)
     (len ≤ 64 → s.linkWasUp n = true → (s.port n).nextHostId < 128 → (s.port n).outstanding true < 4 →
       (∀ r ∈ (s.port n).reqs, r.tries ≠ 0 ∧ r.msgId ≠ (s.port n).nextHostId) → ∃ t, exec (.hostCtrlSend n) s = .next t ∧ t.done (Reg.port_CTRL_RESULT n) = false ∧
       (t.port n).reqs = (s.port n).reqs ++ [⟨(s.port n).nextHostId, s.get (R.port_CTRL_TX_HDR_OPCODE n),
         s.get (R.port_CTRL_TX_HDR_VC n), (s.getBytes (Reg.port_CTRL_TX_DATA n 0) 16).take len, 1⟩] ∧
       OnlyRegs s t [Reg.port_CTRL_RESULT n] ∧ t = { s with regs := t.regs, ports := t.ports, out := t.out }) ∧
     (64 < len ∨ s.linkWasUp n = false → ∃ t, exec (.hostCtrlSend n) s = .next t ∧ t.done (Reg.port_CTRL_RESULT n) = true ∧
       t.get ⟨Reg.port_CTRL_RESULT n, 30, 16⟩ = (if 64 < len then 4 else 3) ∧ t.get (Flag.port_CTRL_DONE n).fld = 1 ∧
       (∀ i, i < 16 → t.rd (Reg.port_CTRL_RESP_DATA n i) = 0) ∧ t.get (R.port_CTRL_RESP_HDR_LENGTH n) = 0 ∧
       OnlyRegs s t ([Reg.port_CTRL_RESULT n, (Flag.port_CTRL_DONE n).addr, (Flag.port_CTRL_DONE n).counter.addr, Reg.port_CTRL_RESP_HDR n] ++
         (List.range 16).map (Reg.port_CTRL_RESP_DATA n)) ∧
       t = { s with regs := t.regs })) ∧
   (∀ (s : State) (n : Fin 96) (id : BitVec 8) (r : CtrlReq),
     (s.port n).reqs.find? (fun r => r.msgId == id.toNat && r.tries != 0) = some r →
     (r.tries < 8 → ∃ t, exec (.ctrlRetryTimeout n id) s = .next t ∧
       t.get (R.port_CTRL_RETRY n) = min (s.get (R.port_CTRL_RETRY n) + 1) (2 ^ 32 - 1) ∧
       (t.port n).reqs = (s.port n).reqs.map (fun x => if x.msgId = r.msgId then { x with tries := x.tries + 1 } else x) ∧
       OnlyRegs s t [(R.port_CTRL_RETRY n).addr] ∧ t = { s with regs := t.regs, ports := t.ports, out := t.out }) ∧
     (8 ≤ r.tries → r.msgId < 128 → (s.port n).modeMsg ≠ r.msgId → (s.port n).holdMsg ≠ r.msgId →
       (∀ x ∈ (s.port n).reqs, x.tries ≠ 0) → ∃ t, exec (.ctrlRetryTimeout n id) s = .next t ∧
       t.get (R.port_CTRL_FAIL n) = min (s.get (R.port_CTRL_FAIL n) + 1) (2 ^ 32 - 1) ∧
       (t.port n).reqs = (s.port n).reqs.filter (fun x => x.msgId != r.msgId) ∧
       t.get ⟨Reg.port_CTRL_RESULT n, 30, 16⟩ = 2 ∧ t.done (Reg.port_CTRL_RESULT n) = true ∧
       t = { s with regs := t.regs, ports := t.ports }))) ∧
  (∀ (s u : State) (n : Fin 96) (rtt : Nat) (k : Packet),
     s.takePacket n (fun k => k.typ == 7 && leAt k.payload 0 1 == 1) = some (k, u) →
     let d : Int := rtt - leAt k.payload 16 4
     let a := s.getInt (R.port_ASYM_ASYM n)
     let es := (((d - a) / 2, (d + a) / 2) :: (s.port n).echoes).take 16
     ∃ t, exec (.timeEcho n rtt) s = .next t ∧ (t.port n).echoes = es ∧
       t.get (R.port_GL_STAT_TURN_NS n) = min (leAt k.payload 16 4) 0xFFFF ∧
       t.get (R.port_DELAYS_DELAY_B n) = twos 16 (meanInt (es.map (·.1))) ∧
       t.get (R.port_DELAYS_DELAY_F n) = twos 16 (meanInt (es.map (·.2))) ∧
       OnlyRegs s t [Reg.port_GL_STAT n, Reg.port_DELAYS n] ∧ t = { s with regs := t.regs, ports := t.ports })

/-- A transaction of a port power bus (R122): a good reply clears CTRL_ABSENT, a bad one is retried once with the same word, and
two bad ones set CTRL_ABSENT; nothing else is written. The port power commands (R123, R124) on a port whose bus the device drives:
ON, CYCLE, the end of a cycle's wait, CLEAR_LOCKOUT, LIMIT, one polling round and the bus's interrupt. ON = 1 is ignored in
lockout; a fault found by a status read locks the port out, raises PPB_FAULT and switches it off. It rests in part on the model's
own choices (log entry 70). -/
def Obligations.PortPower : Prop :=
  (∀ (s : State) (n : Fin 96) (op arg : Nat) (replies : List (BitVec 17)), let t := (s.ppb n op arg replies).2
     (∀ r d, replies.head? = some r → ppbReply r = some d →
       (s.ppb n op arg replies).1 = some d ∧ t.get (R.port_PWR_STAT_CTRL_ABSENT n) = 0 ∧
       t.out = s.out ++ [.ppb (n / 16) (ppbWord op n arg)]) ∧
     ((∀ r ∈ replies, ppbReply r = none) → (s.ppb n op arg replies).1 = none ∧ t.get (R.port_PWR_STAT_CTRL_ABSENT n) = 1 ∧
       t.out = s.out ++ [.ppb (n / 16) (ppbWord op n arg), .ppb (n / 16) (ppbWord op n arg)]) ∧
     OnlyRegs s t [Reg.port_PWR_STAT n] ∧ t = { s with regs := t.regs, out := t.out }) ∧
  ((∀ (s : State) (n : Fin 96) (replies : List (BitVec 17)), Answers s (Reg.port_PWR_CTRL n) → s.ppbOwned n = true →
     (s.on (R.port_PWR_STAT_LOCKOUT n) = true → exec (.pwrOnWrite n true replies) s = .next s) ∧
     (s.on (R.port_PWR_STAT_LOCKOUT n) = false →
       exec (.pwrOnWrite n true replies) s = .next ((s.put (R.port_PWR_CTRL_ON n) 1).ppbSend n 1 0 replies)) ∧
     exec (.pwrOnWrite n false replies) s =
       .next (((s.put (R.port_PWR_CTRL_ON n) 0).modPort n fun p => { p with cycling := false }).ppbSend n 2 0 replies) ∧
     ((s.port n).cycling = true → exec (.pwrCycle n replies) s = .next s) ∧
     (s.on (R.port_PWR_STAT_LOCKOUT n) = false → (s.port n).cycling = false →
       ∃ t, exec (.pwrCycle n replies) s = .next t ∧ (t.port n).cycling = true ∧
       t.get (R.port_PWR_CYCLES_COUNT n) = min (s.get (R.port_PWR_CYCLES_COUNT n) + 1) 0xFFFF ∧
       OnlyRegs s t [Reg.port_PWR_STAT n, (R.port_PWR_CYCLES_COUNT n).addr] ∧
       t = { s with regs := t.regs, ports := t.ports, out := t.out }) ∧
     exec (.clearLockout n replies) s = .next ((s.ppbSend n 7 0 replies).put (R.port_PWR_STAT_LOCKOUT n) 0) ∧
     (∀ limit, exec (.pwrLimitWrite n limit replies) s =
       .next ((s.put (R.port_PWR_CTRL_LIMIT n) limit.toNat).ppbSend n 6 limit.toNat replies))) ∧
   (∀ (s : State) (n : Fin 96) (replies : List (BitVec 17)), (s.port n).cycling = true → s.ppbOwned n = true →
     s.on (R.port_PWR_STAT_LOCKOUT n) = false → exec (.pwrOffTimeExpiry n replies) s =
       .next ((s.modPort n fun p => { p with cycling := false }).ppbSend n 1 0 replies)) ∧
   (∀ (s : State) (n : Fin 96) (st c v : BitVec 17) (d i u : BitVec 12), s.ppbOwned n = true →
     ppbReply st = some d → ppbReply c = some i → ppbReply v = some u →
     (d.getLsbD 1 = false → ∃ t, exec (.ppbPoll n [st] [c] [v]) s = .next t ∧
       t.get (R.port_PWR_STAT_POWERED n) = (if d.getLsbD 0 then 1 else 0) ∧ t.get (R.port_PWR_STAT_FAULT n) = 0 ∧
       t.get (R.port_PWR_STAT_CURRENT n) = i.toNat ∧
       t.get (R.port_PWR_STAT_VOLTAGE n) = u.toNat ∧
       OnlyRegs s t [Reg.port_PWR_STAT n] ∧ t = { s with regs := t.regs, out := t.out }) ∧
     (d.getLsbD 1 = true → s.on (R.port_PWR_STAT_LOCKOUT n) = false → ∃ t, exec (.ppbPoll n [st] [c] [v]) s = .next t ∧
       t.get (R.port_PWR_STAT_LOCKOUT n) = 1 ∧ t.get (Flag.port_PPB_FAULT n).fld = 1 ∧ (t.port n).cycling = false ∧
       .ppb (n / 16) (ppbWord 2 n 0) ∈ t.out)) ∧
   (∀ (s : State) (bus : Fin 6) (k : Fin 16) (statuses : List (List (BitVec 17))),
     s.ppbOwned (16 * bus + k) = true → (∀ i, i < 16 → i ≠ k.val → s.ppbOwned (16 * bus + i) = false) →
     exec (.ppbInt bus statuses) s = .next (s.ppbStatus (16 * bus + k) (statuses.getD k []))))

/-- The way of an SDI input from carrier to lock (R127, R128): each event's next state, the registers it writes and nothing else.
A format measured in DETECT (R127 to R129): SDI_FMT shows it, and a progressive picture without payload ID locks when R125 lists
it for the port's RATE and it equals the stream's record in size and rate, else it is a mismatch with its event; a locked input
that loses its signal counts a loss, raises SIGNAL_LOSS and searches again, or waits for a carrier (R130). A line of a locked
input with neither ancillary data nor sound (R130 to R132): each CRC error counts on an interface that has CRCs, and so does a
line number error; a line that carries an active row waits in its frame; a structure change goes back to DETECT. It rests in part
on the model's own choices (log entries 34, 98). -/
def Obligations.SdiInputs : Prop :=
  (∀ (s : State) (n : Fin 96), s.sdiRuns n = true →
     (s.sdi n = .noCarrier → ∃ t, exec (.sdiCarrierUp n) s = .next t ∧ t.sdi n = .search ∧ (t.port n).sdiTry = false ∧
       t.get (R.port_SDI_STATE_CARRIER n) = 1 ∧ t.get (Flag.port_SDI_CARRIER_UP n).fld = 1 ∧
       OnlyRegs s t [Reg.port_SDI_STATE n, (Flag.port_SDI_CARRIER_UP n).addr, (Flag.port_SDI_CARRIER_UP n).counter.addr] ∧
       t = { s with regs := t.regs, ports := t.ports }) ∧
     (s.sdi n = .search → s.get (R.port_PORT_CFG_RATE n) ≠ 0 → ∃ t, exec (.sdiSearchTimer n) s = .next t ∧
       (t.port n).sdiTry = !(s.port n).sdiTry ∧ t = { s with ports := t.ports }) ∧
     (s.sdi n = .search → ∃ t, exec (.sdiCdrLock n) s = .next t ∧ t.sdi n = .detect ∧
       t.get (R.port_SDI_STATE_FAMILY n) = (if (s.port n).sdiTry then 1 else 0) ∧ t.get (R.port_SDI_STATE_CDR_LOCK n) = 1 ∧
       t.get (R.port_SDI_STATE_NO_LOCK n) = 0 ∧ OnlyRegs s t [Reg.port_SDI_STATE n] ∧ t = { s with regs := t.regs }) ∧
     (s.sdi n = .search → ∃ t, exec (.sdiNoLockTimeout n) s = .next t ∧ t.get (R.port_SDI_STATE_NO_LOCK n) = 1 ∧
       t.sdi n = .search ∧ OnlyRegs s t [Reg.port_SDI_STATE n] ∧ t = { s with regs := t.regs })) ∧
  ((∀ (s : State) (n : Fin 96) (w h : BitVec 12) (lines : Nat) (rate : Fin 9), s.sdiRuns n = true → s.sdi n = .detect →
     let same := sdiListed (s.get (R.port_PORT_CFG_RATE n)) lines false false rate = true ∧ w.toNat = s.width (16 * n) ∧ h.toNat = s.height (16 * n) ∧ s.on (R.stream_CFG_INTERLACED (16 * n)) = false ∧
       (sdiRate rate).1 * s.get (R.stream_RATE_DEN (16 * n)) = s.get (R.stream_RATE_NUM (16 * n)) * (sdiRate rate).2
     ∃ t, exec (.sdiDetectComplete n w h false lines rate none) s = .next t ∧
       t.get (R.port_SDI_FMT_WIDTH n) = w.toNat ∧ t.get (R.port_SDI_FMT_HEIGHT n) = h.toNat ∧
       t.get (R.port_SDI_FMT_RATE n) = rate.val ∧ t.get (R.port_SDI_FMT_INTERLACED n) = 0 ∧ t.get (R.port_SDI_FMT_PSF n) = 0 ∧
       t.get (Flag.port_SDI_FORMAT_DETECTED n).fld = 1 ∧ (same → t.sdi n = .locked) ∧
       (¬same → t.sdi n = .mismatch ∧ t.get (Flag.port_SDI_FORMAT_MISMATCH n).fld = 1) ∧
       t = { s with regs := t.regs, ports := t.ports }) ∧
   (∀ (s : State) (n : Fin 96) (carrier : Bool), s.sdiRuns n = true → s.sdi n = .locked →
     ∃ t, exec (.sdiLoss n carrier) s = .next t ∧ t.sdi n = (if carrier then .search else .noCarrier) ∧
       t.get (R.port_LOSS_COUNT n) = min (s.get (R.port_LOSS_COUNT n) + 1) (2 ^ 32 - 1) ∧
       t.get (Flag.port_SDI_SIGNAL_LOSS n).fld = 1 ∧ t.get (R.port_SDI_STATE_CDR_LOCK n) = 0 ∧
       t.get (R.port_SDI_STATE_CARRIER n) = (if carrier then 1 else 0))) ∧
  ((∀ (s : State) (n : Fin 96) (line : Nat) (crcY crcC lnum : Bool), s.sdiRuns n = true → s.sdi n = .locked →
     s.get (R.port_PORT_CFG_RATE n) ≠ 0 → let h := s.get (R.port_SDI_FMT_HEIGHT n)
     sdiLineRow h (s.sdiFields n) line = none → line ≠ (sdiFirst h (s.sdiFields n)).1 → line ≠ sdiLastLine h (s.sdiFields n) →
     ∃ t, exec (.sdiLineReceived n true false lnum crcY crcC line [] [] []) s = .next t ∧
       t.get (R.port_CRC_ERR_Y n) = (if crcY then min (s.get (R.port_CRC_ERR_Y n) + 1) (2 ^ 32 - 1) else s.get (R.port_CRC_ERR_Y n)) ∧
       t.get (R.port_CRC_ERR_C n) = (if crcC then min (s.get (R.port_CRC_ERR_C n) + 1) (2 ^ 32 - 1) else s.get (R.port_CRC_ERR_C n)) ∧
       t.get (R.port_LNUM_ERR n) = (if lnum then min (s.get (R.port_LNUM_ERR n) + 1) (2 ^ 32 - 1) else s.get (R.port_LNUM_ERR n)) ∧
       OnlyRegs s t [(R.port_CRC_ERR_Y n).addr, (R.port_CRC_ERR_C n).addr, (R.port_LNUM_ERR n).addr] ∧ t = { s with regs := t.regs }) ∧
   (∀ (s : State) (n : Fin 96) (line row : Nat) (samples : List (BitVec 10)) (w : Writing), s.sdiRuns n = true → s.sdi n = .locked →
     let h := s.get (R.port_SDI_FMT_HEIGHT n)
     sdiLineRow h (s.sdiFields n) line = some row → line ≠ (sdiFirst h (s.sdiFields n)).1 → line ≠ sdiLastLine h (s.sdiFields n) →
     s.ingestRuns (16 * n) = true → row < s.height (16 * n) → samples.length / 2 ≤ s.width (16 * n) →
     (s.stream (16 * n)).startSeen = none → (s.stream (16 * n)).writing = some w → w.ended = false →
     ∃ t, exec (.sdiLineReceived n true false false false false line samples [] []) s = .next t ∧
       ((t.stream (16 * n)).writing.map fun w => w.segs) =
         some (w.segs ++ [⟨row, 0, samples.length / 2, false, samples.map fun (v : BitVec 10) => v.toNat * 4⟩]) ∧
       OnlyRegs s t [] ∧ t = { s with regs := t.regs, streams := t.streams }) ∧
   (∀ (s : State) (n : Fin 96) (line : Nat) (samples : List (BitVec 10)) (anc : List SdiAnc) (audio : List SdiAudio),
     s.sdiRuns n = true → s.sdi n = .locked →
     exec (.sdiLineReceived n true true false false false line samples anc audio) s = .next (s.sdiLose n .detect)))

/-- Which slot the writer takes (R163): never one that is pinned, being written or the newest, nor with four slots the second
newest, and among usable ones an EMPTY slot first; with none usable the frame is dropped with cause PIN, counted, and nothing is
pinned or written. A VIDEO_LINE packet of a frame being written is taken from its port and placed (R144); one of a cluster whose
buffers are full is discarded and counted (R152). A stream packet that starts a frame waits for FRAME_START with its FRAME_SEQ and
position (R141). Frames (R139 to R141, R145, R148, R163): FRAME_START takes a slot for the frame that was seen and lets its
waiting packets in; FRAME_COMPLETE completes it once its end has come, or drops it with cause FORMAT where a segment had a wrong
format; with no frame in progress neither does anything; a LIVE stream whose newest frame is too old goes to LOST and raises its
event. It rests in part on the model's own choices (log entries 29, 30). -/
def Obligations.IngestFrames : Prop :=
  (∀ (s : State) (n : Fin 1600) (w : Writing),
     (∀ i, s.chooseSlot n = some i → i < s.slotCount n ∧ (((s.stream n).slot i).st = 0 ∨
       ((s.stream n).slot i).st = 2 ∧ ((s.stream n).slot i).pins = [] ∧ (s.stream n).newest ≠ some i ∧
       (4 ≤ s.slotCount n → (s.stream n).second ≠ some i) ∧
       ∀ j, j < s.slotCount n → ((s.stream n).slot j).st ≠ 0)) ∧
     (s.chooseSlot n = none → let t := s.takeSlot n w
       t.get (R.stream_DROPS_PIN n) = min (s.get (R.stream_DROPS_PIN n) + 1) 0xFFFF ∧
       t.get (R.stream_STATE_LAST_DROP n) = 1 ∧ t.get (Flag.stream_FRAME_DROP n).fld = 1 ∧ (t.stream n).slots = (s.stream n).slots ∧
       OnlyRegs s t [(R.stream_DROPS_PIN n).addr, Reg.stream_STATE n, (Flag.stream_FRAME_DROP n).addr,
         (Flag.stream_FRAME_DROP n).counter.addr] ∧ t = { s with regs := t.regs, streams := t.streams })) ∧
  ((∀ (s u : State) (p : Fin 96) (k : Packet), s.takePacket p (fun k => k.typ == 1) = some (k, u) → let n := 16 * p.val + k.vc
     u.ingestRuns n = true → u.on (R.stream_CFG_XS n) = false → 8 ≤ k.payload.length →
     exec (.videoLinePacket p false) s =
       .next ((u.addLoad (u.get (R.stream_CFG_INGEST n)) (leAt k.payload 4 2)).videoPacket n k)) ∧
   (∀ (s u : State) (p : Fin 96) (k : Packet), s.takePacket p (fun k => k.typ == 1) = some (k, u) → let n := 16 * p.val + k.vc
     k.vc < 16 → u.ingestRuns n = true → u.on (R.stream_CFG_XS n) = false → 8 ≤ k.payload.length →
     let c := s.get (R.stream_CFG_INGEST n)
     ∃ t, exec (.videoLinePacket p true) s = .next t ∧ t.get (R.ingest_OVERFLOW c) = min (s.get (R.ingest_OVERFLOW c) + 1) (2 ^ 32 - 1) ∧
       t.get (Flag.ingest_OVERFLOW c).fld = 1 ∧
       t.get (R.port_VIDEO_SEG_LOST p) = min (s.get (R.port_VIDEO_SEG_LOST p) + 1) (2 ^ 32 - 1) ∧
       OnlyRegs s t [(R.ingest_OVERFLOW c).addr, (Flag.ingest_OVERFLOW c).addr, (Flag.ingest_OVERFLOW c).counter.addr,
         (R.port_VIDEO_SEG_LOST p).addr] ∧
       t = { s with regs := t.regs, ports := t.ports, streams := t.streams }) ∧
   (∀ (s : State) (n : Fin 1536) (k : Packet), (s.stream n).startSeen = none → (s.stream n).writing = none → k.sof = true →
     ∃ t, s.videoPacket n k = t ∧ (t.stream n).startSeen = some (some (leAt k.payload 0 2), s.ruling.frame, s.ruling.line) ∧
       (t.stream n).buffer = (s.stream n).buffer ++ [k] ∧ t = { s with streams := t.streams })) ∧
  ((∀ (s : State) (n : Fin 1600) (frac : BitVec 16) (tau : Nat) (ok : Bool) (q : Option Nat) (f l : Nat),
     (s.stream n).startSeen = some (q, f, l) → (s.stream n).writing = none →
     let a := (((s.modStream n fun x => { x with startSeen := none }).beginMarg n q).genlockStep n frac.toNat).modStream n fun x =>
       { x with lastDone := false }
     a.get R.ruling_STREAM_SRC_STREAM ≠ n → a.on (R.stream_CFG_XS n) = false →
     let c := a.get (R.stream_CFG_INGEST n)
     let b := a.takeSlot n
       { slot := 0, frameSeq := q, startFrame := f, startLine := l, flags := a.startFlags n,
         noSketch := a.on (R.ingest_SHED_SKETCH_STOP c),
         noMotion := a.on (R.ingest_SHED_MOTION_STOP c) || a.on (R.mot_STATUS_STOPPED (a.get (R.stream_CFG_MOTION_UNIT n))) }
     exec (.frameStart n frac tau ok) s = .next (State.drainBuffer (b.modStream n fun x =>
       { x with sdiBuffer := [], writing := x.writing.map fun w => { w with segs := w.segs ++ (b.stream n).sdiBuffer } }) n)) ∧
   (∀ (s : State) (n : Fin 1600) (frac : BitVec 16) (refused : Bool) (w : Writing), (s.stream n).writing = some w →
     s.on (R.stream_CFG_XS n) = false → s.isWriteback n = false →
     (w.ended = false → exec (.frameComplete n frac refused) s = .next s) ∧
     (w.ended = true → w.badFormat = true → (s.stream n).newest ≠ some w.slot →
       exec (.frameComplete n frac refused) s = .next (s.failFrame n 6)) ∧
     (let a := s.completeReceived n frac.toNat refused
      w.ended = true → (a.stream n).newest = some w.slot → (a.stream n).writing = none →
       exec (.frameComplete n frac refused) s =
         .next ((a.modStream n fun x => { x with openMarg := none, lastDone := true }).afterFrame n (s.stream n).openMarg))) ∧
   (∀ (s : State) (n : Fin 1600) (frac : BitVec 16) (refused : Bool), (s.stream n).writing = none →
     exec (.frameComplete n frac refused) s = .next s) ∧
   (∀ (s : State) (n : Fin 1600), s.streamMode n = .live → s.get (R.stream_RATE_NUM n) ≠ 0 →
     ((max 1 (s.get (R.stream_CTRL_LOST_FRAMES n)) : Nat) : Rat) * s.framePeriodNs n ≤ s.exactAge n * s.rulingFormat.lineNs →
     exec (.lostTimeout n) s = .next (s.streamLost n) ∧
     (s.get R.ruling_STREAM_SRC_STREAM ≠ n → ∃ t, exec (.lostTimeout n) s = .next t ∧ t.streamMode n = .lost ∧ t.get (Flag.stream_LOST n).fld = 1 ∧
       OnlyRegs s t [Reg.stream_STATE n, (Flag.stream_LOST n).addr, (Flag.stream_LOST n).counter.addr] ∧ t = { s with regs := t.regs })))

/-- Codestreams (R148; 11_codecs_cellar.md R310, R311): the first packet of a frame begins its gathering in the stream's next
buffer; an end of frame hands it to the engines; a waiting one takes its slot and a free decoder when its header fits its record,
else it is dropped with cause DECODE, as it is after waiting one frame period. The engines' ends (11_codecs_cellar.md R309, R312,
R313, R320): each kind of job ends in its own way, a job that is not finished in time is counted as abandoned, the top Cellar job
starts on the newest frame, pinned, with the engine busy, unless that frame is recorded already or comes before FRAME_DIV, and so
does a host encode whose frame fits the empty ring; in QUIET it is skipped (14_power_thermal.md R410). It rests in part on the
model's own choices (log entries 30, 38). -/
def Obligations.CodestreamsAndEngines : Prop :=
  ((∀ (s u : State) (p : Fin 96) (k : Packet), s.takePacket p (fun k => k.typ == 2) = some (k, u) → let n := 16 * p.val + k.vc
     u.ingestRuns n = true → u.on (R.stream_CFG_XS n) = true → 8 ≤ k.payload.length → (u.stream n).gathering = none →
     leAt k.payload 4 4 = 0 → k.eof = false → u.xsRegion = none →
     ∃ t, exec (.videoXsPacket p) s = .next t ∧
       ((t.stream n).gathering.map fun g => (g.frameSeq, g.buffer, g.length)) =
         some (leAt k.payload 0 2, (u.stream n).nextBuffer, (k.payload.drop 8).length) ∧
       (t.stream n).nextBuffer = 1 - (u.stream n).nextBuffer ∧ t = { u with streams := t.streams }) ∧
   (∀ (s : State) (n e : Nat) (c : Codestream),
     s.xsWaiting.find? (fun p => (s.stream p.1).writing.isNone) = some (n, c) → s.freeEngine 1 = some e →
     let r := (s.setWaiting (s.xsWaiting.filter fun p => p.1 != n)).readCodestream n c
     let u := r.2.2.2
     let fits : Prop := ∃ w h m, Config.xsHeader r.1 = some (w, h, m, 3) ∧ w = u.width n ∧ h = u.height n ∧
       xsPairs m (u.storeFmt n) = true
     let t := u.takeSlot n
       { slot := 0, frameSeq := some c.frameSeq, startFrame := c.startFrame, startLine := c.startLine, flags := c.flags,
         noSketch := c.noSketch, noMotion := c.noMotion, ended := true }
     ∃ v, exec .xsDecodeStart s = .next v ∧ v.xsWaiting = s.xsWaiting.filter (fun p => p.1 != n) ∧
       (fits → (t.stream n).writing.isSome = true → v = t.startJob e 1 n (.decode n c)) ∧
       (fits → (t.stream n).writing = none → v = t) ∧
       (¬ fits → v = u.dropFrame n 3)) ∧
   (∀ (s : State) (n : Fin 1600), (s.xsWaiting.any fun p => p.1 == n.val) = true →
     exec (.xsDecodeWaitTimeout n) s = .next ((s.setWaiting (s.xsWaiting.filter fun p => p.1 != n.val)).dropFrame n 3))) ∧
  ((∀ (s : State) (e : Fin 32) (frac : BitVec 16),
     (∀ n c, s.engineJob e = some (.decode n c) → exec (.codecJobDone e frac) s = .next (s.decodeDone e n c frac.toNat)) ∧
     (∀ n i f, s.engineJob e = some (.host n i f) →
       exec (.codecJobDone e frac) s = .next ((s.addLoad (32 + e) (s.width n * s.height n)).hostEncodeDone e f)) ∧
     (∀ k n i, s.engineJob e = some (.cellar k n i) →
       exec (.codecJobDone e frac) s = .next ((s.addLoad (32 + e) (s.width n * s.height n)).cellarEncodeDone e k n i)) ∧
     (∀ k n i, s.engineJob e = some (.cellar k n i) → exec (.encodeAbandon e) s =
       .next (((((s.modCellar fun c => { c with abandons := s.lastSecond c.abandons ++ [s.ruling.lineTotal] }).bump
         (R.codec_ABANDONED e)).raise (Flag.codec_ABANDONED e)).endJob e).missFrame k 1)) ∧
     (∀ n i f, s.engineJob e = some (.host n i f) → exec (.encodeAbandon e) s =
       .next (((s.endJob e).bump (R.codec_ABANDONED e)).raise (Flag.codec_ABANDONED e)))) ∧
   (∀ (s : State) (n e i : Nat), s.topJob = some n → s.freeEngine 3 = some e →
     let u := s.modEntry n fun x => { x with job := none }
     let st := u.entryStream n
     let seq := ((u.stream st).slot i).seq
     (u.stream st).newest = some i →
     ((u.celEntry n).lastSeq = none → exec .cellarEncodeStart s = .next (u.latchEncode e n st i)) ∧
     ((u.celEntry n).lastSeq = some seq → exec .cellarEncodeStart s = .next u) ∧
     (∀ l, (u.celEntry n).lastSeq = some l → seq ≠ l → seqBefore seq (l + u.entryDiv n) = true →
       exec .cellarEncodeStart s = .next (u.missFrame n 1)) ∧
     (∀ l, (u.celEntry n).lastSeq = some l → seq ≠ l → seqBefore seq (l + u.entryDiv n) = false →
       exec .cellarEncodeStart s = .next (u.latchEncode e n st i)) ∧
     (let v := u.latchEncode e n st i
      v.engineJob e = some (.cellar n st i) ∧ v.get (R.codec_STATUS_JOB e) = 3)) ∧
   (∀ (s : State) (e : Fin 32) (i : Nat), let n := s.get (R.codec_HENC_CFG_STREAM e)
     s.engineRole e = 2 → s.on (R.codec_HENC_CFG_EN e) = true → s.quiet = false → (s.get R.power_SHED).testBit 4 = false →
     (s.stream n).newest = some i →
     (s.engineFree e = false → exec (.hostEncodeStart e) s = .next (s.hencSkip e)) ∧
     (∀ samples u, s.engineFree e = true → (s.encodeUse e n i).slotSamples n i = (samples, false, u) →
       let size := s.get (R.codec_HENC_RING_SIZE e) * 65536
       let v := (s.stream n).slot i
       let bpp := s.get (R.codec_HENC_CFG_BPP e)
       let wr := s.get (R.codec_HENC_WR e) % size
       s.get (R.codec_HENC_RD e) % size = wr → wr + codeBudget v.width v.height bpp + 288 ≤ size →
       exec (.hostEncodeStart e) s =
         .next (((u.pin n (.engine e) false).2).startJob e 2 n (.host n i (hostFrame v (u.codestream n v samples bpp) 0))))) ∧
   (∀ (s : State) (e : Fin 32), s.engineRole e = 2 → s.on (R.codec_HENC_CFG_EN e) = true → s.quiet = true →
     exec (.hostEncodeStart e) s = .next (s.hencSkip e)))

/-- The motion units (R165 to R168): the next queued field starts when both frames are still there, with the reference pinned and
its SEQ in the slot's header; a field whose reference was retaken counts as skipped; a finished one is written, counted and
unpinned, or abandoned where a word of a sketch it read is poisoned (10_stream_memory.md R287). CLR_CNT of a stream or an ingest
cluster (18_register_map.md R506): each counter reads 0, or 1 where it was incremented in that same cycle, and nothing else
changes. It rests in part on the model's own choices (log entry 31). -/
def Obligations.MotionFieldsAndCounters : Prop :=
  ((∀ (s : State) (u : Fin 2) (n slot seq ref refSeq : Nat) (rest : List (Nat × Nat × Nat × Nat × Nat)),
     n < 1600 → (s.mot u).running = none → (s.mot u).queue = (n, slot, seq, ref, refSeq) :: rest →
     (((s.stream n).slot ref).st ≠ 2 ∨ ((s.stream n).slot ref).seq ≠ refSeq →
       exec (.motionFieldStart u) s = .next ((s.modMot u fun m => { m with queue := rest }).bump (R.mot_SKIPPED u))) ∧
     (((s.stream n).slot ref).st = 2 → ((s.stream n).slot ref).seq = refSeq → ((s.stream n).slot ref).sketches.testBit 1 = true →
       ((s.stream n).slot slot).st = 2 → ((s.stream n).slot slot).seq = seq → ((s.stream n).slot slot).sketches.testBit 1 = true →
       s.on (R.mot_STATUS_ACTIVE u) = true →
       ∃ t, exec (.motionFieldStart u) s = .next t ∧ (t.mot u).running = some (n, slot, seq, ref, refSeq) ∧
         (t.mot u).queue = rest ∧ ((t.stream n).slot slot).vecRef = refSeq)) ∧
   (∀ (s : State) (u : Fin 2) (n slot seq ref refSeq : Nat), n < 1600 → (s.mot u).running = some (n, slot, seq, ref, refSeq) →
     let a := s.quarterSketch n slot
     let b := a.2.2.quarterSketch n ref
     (a.2.1 || b.2.1 → exec (.motionFieldDone u) s = .next (b.2.2.abandonField n)) ∧
     ((a.2.1 || b.2.1) = false → ∃ t, exec (.motionFieldDone u) s = .next t ∧ (t.mot u).running = none ∧ (t.mot u).queue = (s.mot u).queue ∧
       (∀ v ∈ (t.stream n).slots, Reader.motion u ∉ v.pins) ∧
       t.get (R.mot_FIELDS u) = min (s.get (R.mot_FIELDS u) + 1) (2 ^ 32 - 1)))) ∧
  ((∀ (s : State) (n : Fin 1600) (hits : BitVec 32), Answers s (Reg.stream_CTRL n) → s.present n = true →
     ∃ t, exec (.streamClrCnt n hits) s = .next t ∧
       t.get (R.stream_FRAMES n) = (if hits.getLsbD 0 then 1 else 0) ∧ t.get (R.stream_DROPS_PIN n) = (if hits.getLsbD 1 then 1 else 0) ∧
       t.get (R.stream_DROPS_OTHER n) = (if hits.getLsbD 2 then 1 else 0) ∧
       t.get (R.stream_CONCEAL_ROWS n) = (if hits.getLsbD 3 then 1 else 0) ∧
       OnlyRegs s t [(R.stream_FRAMES n).addr, (R.stream_DROPS_PIN n).addr, (R.stream_DROPS_OTHER n).addr,
         (R.stream_CONCEAL_ROWS n).addr] ∧ t = { s with regs := t.regs }) ∧
   (∀ (s : State) (c : Fin 8) (hits : BitVec 32), Answers s (Reg.ingest_CTRL c) →
     ∃ t, exec (.ingestClrCnt c hits) s = .next t ∧
       t.get (R.ingest_OVERFLOW c) = (if hits.getLsbD 0 then 1 else 0) ∧
       t.get (R.ingest_DECODE_DROP c) = (if hits.getLsbD 1 then 1 else 0) ∧
       t.get (R.ingest_MEM_DROP c) = (if hits.getLsbD 2 then 1 else 0) ∧
       OnlyRegs s t [(R.ingest_OVERFLOW c).addr, (R.ingest_DECODE_DROP c).addr, (R.ingest_MEM_DROP c).addr] ∧
       t = { s with regs := t.regs }))

/-- The channel maps (R255, R256, R266): a write of IN_MAP or OUT_MAP waits, with the register unchanged; the 1 ms boundary
applies every waiting write, restarts the inputs written and leaves nothing waiting. The converters' states (R260): a channel that
is idle in ACQUIRE, OUT_OF_RANGE or NON_PCM goes to NO_INPUT, an acquired one locks when its rate lies in range and is else
OUT_OF_RANGE with SRC_RANGE, an idle locked one holds with SRC_UNLOCK and ramps down, and HOLD ends in NO_INPUT. An AUDIO packet
of a legal shape reaches each input bound to one of its channels, in order (R258), and of a discarded one the samples are lost
(03_rasyn_link.md R120); where none is bound it is taken and does nothing. It rests in part on the model's own choices (log
entries 32, 38). -/
def Obligations.AudioInputs : Prop :=
  ((∀ (s : State) (ch : Fin 2048) (v : BitVec 32), Answers s (Reg.audio_IN_MAP ch) → ch.val < s.inCount → s.audioOn = true →
     ∃ t, exec (.inMapWrite ch v) s = .next t ∧
       Sparse.get (fun _ => 0) t.audio.inPend ch = v &&& 0xFFF07C00#32 ∧ t = { s with audio := { s.audio with inPend := t.audio.inPend } }) ∧
   (∀ (s : State) (ch : Fin 1024) (v : BitVec 32), Answers s (Reg.audio_OUT_MAP ch) → ch.val < s.outCount → s.audioOn = true →
     ∃ t, exec (.outMapWrite ch v) s = .next t ∧
       Sparse.get (fun _ => 0) t.audio.outPend ch = v ∧ t = { s with audio := { s.audio with outPend := t.audio.outPend } }) ∧
   (∀ (s : State) (ch : Fin 1024) (v : BitVec 32), s.audio.inPend = [] → s.audio.outPend = [(ch.val, v)] →
     ∃ t, exec .audioMapApply s = .next t ∧ t.rd (Reg.audio_OUT_MAP ch) = v ∧ OnlyRegs s t [Reg.audio_OUT_MAP ch] ∧
       t = { s with regs := t.regs, audio := { s.audio with inPend := [], outPend := [] } }) ∧
   (∀ (s : State) (ch : Fin 2048) (v : BitVec 32), s.audio.inPend = [(ch.val, v)] → s.audio.outPend = [] →
     ∃ t, exec .audioMapApply s = .next t ∧ t.rd (Reg.audio_IN_MAP ch) = v ∧ (t.src ch).samples = [] ∧ (t.src ch).expected = none ∧
       t.srcMode ch = (if t.inBound ch then .acquire else .noInput) ∧ t.audio.inPend = [] ∧ t.audio.outPend = [])) ∧
  (∀ (s : State) (ch : Fin 2048), s.audioOn = true → ch.val < s.inCount →
     let dev := (s.getInt (R.audio_IN_STAT_RATIO ch)).natAbs
     ((s.srcMode ch = .acquire ∨ s.srcMode ch = .outOfRange ∨ s.srcMode ch = .nonPcm) →
       ∃ t, exec (.srcStateTimeout ch true) s = .next t ∧ t.srcMode ch = .noInput ∧ OnlyRegs s t [Reg.audio_IN_STAT ch] ∧
         t = { s with regs := t.regs }) ∧
     (s.srcMode ch = .acquire → dev ≤ 10000 → ∃ t, exec (.srcStateTimeout ch false) s = .next t ∧ t.srcMode ch = .locked ∧
       (t.src ch).fadeIn = 0 ∧ OnlyRegs s t [Reg.audio_IN_STAT ch] ∧ t = { s with regs := t.regs, audio := t.audio }) ∧
     (s.srcMode ch = .acquire → 10000 < dev → ∃ t, exec (.srcStateTimeout ch false) s = .next t ∧ t.srcMode ch = .outOfRange ∧
       t.get Flag.audio_SRC_RANGE.fld = 1 ∧ t = { s with regs := t.regs }) ∧
     (s.srcMode ch = .locked → ∃ t, exec (.srcStateTimeout ch true) s = .next t ∧ t.srcMode ch = .hold ∧ (t.src ch).rampLeft = 48 ∧
       t.get Flag.audio_SRC_UNLOCK.fld = 1 ∧ t = { s with regs := t.regs, audio := t.audio }) ∧
     (∀ idle, s.srcMode ch = .hold → ∃ t, exec (.srcStateTimeout ch idle) s = .next t ∧ t.srcMode ch = .noInput ∧
       OnlyRegs s t [Reg.audio_IN_STAT ch] ∧ t = { s with regs := t.regs })) ∧
  (∀ (s u : State) (p : Fin 96) (dev : Int) (k : Packet), s.takePacket p (fun k => k.typ == 3) = some (k, u) → u.audioOn = true →
     let chans := leAt k.payload 0 1
     let rs := leAt k.payload 1 1
     1 ≤ chans → chans ≤ 16 → rs % 64 ≠ 0 →
     let ins := (List.range chans).flatMap fun c => (u.inputsOf (16 * p + k.vc) c).map fun i => (i, c)
     (k.lost = false → k.payload.length = 8 + 3 * chans * (rs % 64) → exec (.audioPacket p dev) s = .next (u.each ins fun s q =>
       s.audioTake q.1 (leAt k.payload 4 4) (rs / 64) (audioChannel k.payload chans (rs % 64) q.2) dev)) ∧
     (k.lost = true → exec (.audioPacket p dev) s = .next (u.each ins fun s q => s.audioLose q.1 (leAt k.payload 4 4) (rs % 64))) ∧
     (k.lost = false → k.payload.length = 8 + 3 * chans * (rs % 64) → (∀ c, c < chans → u.inputsOf (16 * p + k.vc) c = []) →
       exec (.audioPacket p dev) s = .next u))

/-- The periods of the audio master (R260 to R271, R276): with no channel present a period counts, and a meter round changes
nothing; a muted engine moves no channel. A period runs each present channel's converter, then each output's bank switch, delay,
mix and fade. A bank command (R270): with nothing staged it is done at once, with BANK_DONE; while a switch is pending it is
refused with BANK_OVERRUN and nothing else changes. The audio packets of a Rasyn output (09_audio_marginalia.md R274): with enough
samples ready one packet of them goes out and the next sample to send moves on; too few samples send nothing, and a Folio that
does not compose passes over them. It rests in part on the model's own choices (log entry 33). -/
def Obligations.AudioOutputs : Prop :=
  ((∀ s : State, s.audioOn = false → ∃ t, exec .audioSample s = .next t ∧ t.audio.k = s.audio.k + 1 ∧ t.audio.srcs = s.audio.srcs ∧
     t.audio.outs = s.audio.outs ∧ t = { s with audio := t.audio }) ∧
   (∀ s : State, s.audioOn = true →
     let a := (s.put R.audio_DELAY_MAX s.delayMax).each (List.range s.inCount) State.convertOne
     let b := a.each (List.range a.outCount) fun s o => (((s.bankStep o).trackDelay o).mixOne o).advanceFade o
     ∃ t, exec .audioSample s = .next t ∧ t.audio.k = b.audio.k + 1 ∧ t = { b with audio := t.audio } ∧
       t.audio.srcs = b.audio.srcs ∧ t.audio.outs = b.audio.outs) ∧
   (∀ s : State, s.audioOn = true → s.inCount = 1 → s.outCount = 0 →
     let l := ((s.src 0).block :: (s.src 0).blocks).take 30
     ∃ t, exec .meterUpdate s = .next t ∧ t.get (meterFld (Reg.audio_IN_METER 0) 0) = meterWord l % 65536 ∧
       (t.src 0).blocks = l ∧ (t.src 0).block = (0, 0, 0) ∧ OnlyRegs s t [Reg.audio_IN_METER 0] ∧
       t = { s with regs := t.regs, audio := t.audio })) ∧
  (∀ s : State, Answers s Reg.audio_BANK_CMD → s.audioOn = true →
     (s.on R.audio_BANK_STATUS_PENDING = true → ∃ t, exec .bankCommit s = .next t ∧ t.get Flag.audio_BANK_OVERRUN.fld = 1 ∧
       t.get Flag.audio_BANK_OVERRUN.counter = min (s.get Flag.audio_BANK_OVERRUN.counter + 1) 0xFFFF ∧
       OnlyRegs s t [Flag.audio_BANK_OVERRUN.addr, Flag.audio_BANK_OVERRUN.counter.addr] ∧ t = { s with regs := t.regs }) ∧
     (s.on R.audio_BANK_STATUS_PENDING = false → (∀ o, o < s.outCount → s.mixWords o false = s.mixWords o true) →
       ∃ t, exec .bankCommit s = .next t ∧ t.get Flag.audio_BANK_DONE.fld = 1 ∧
         OnlyRegs s t [Flag.audio_BANK_DONE.addr, Flag.audio_BANK_DONE.counter.addr] ∧ t = { s with regs := t.regs }) ∧
     (∀ o, o < 1024 → s.on R.audio_BANK_STATUS_PENDING = false → o < s.outCount → s.mixWords o false ≠ s.mixWords o true →
       ∃ t, exec .bankCommit s = .next t ∧ t.on R.audio_BANK_STATUS_PENDING = true ∧ (t.outChan o).bank = some (s.mixWords o false) ∧
         t.mixWords o true = s.mixWords o true ∧ OnlyRegs s t [Reg.audio_BANK_STATUS] ∧ t = { s with regs := t.regs, audio := t.audio })) ∧
  (∀ (s : State) (n : Fin 96) (f : Nat), s.folioOfPort n = some f → s.rasynOut n = true → s.isUp n = true → s.audioOn = true →
     ((s.folioUp f && s.composing f) = false → exec (.audioOutPacket n) s = .next (s.setNextSample n s.audio.k)) ∧
     ((s.folioUp f && s.composing f) = true →
       let chans := min 16 ((s.outsOf f).foldl (fun m o => max m (s.get (R.audio_OUT_MAP_POS o) + 1)) 0)
       let count := min 63 (496 / (3 * max 1 chans))
       let first := s.nextSample n
       (chans = 0 ∨ s.audio.k < first + count → exec (.audioOutPacket n) s = .next s) ∧
       (chans ≠ 0 → first + count ≤ s.audio.k → ∃ body t, body.length = 3 * chans * count ∧
         exec (.audioOutPacket n) s = .next t ∧ t.nextSample n = first + count ∧
         t.out = s.out ++ [.packet n (packetBytes 3 0 0 (Sparse.get (fun _ => 0) (s.port n).txTags 48)
           (leBytes 1 chans ++ leBytes 1 count ++ leBytes 2 0 ++ leBytes 4 first ++ body))])))

/-- Marginalia (R278 to R280): an ANC or META packet of a present stream binds to it, and a query answers the record with the
asked SEQ, NOT_HELD where there is none and NO_STREAM where the stream is absent, these with data words of zeros (the model's
choice, log entry 118). It rests in part on the model's own choices (log entry 34). -/
def Obligations.MarginaliaCommands : Prop :=
  (∀ (s u : State) (p : Fin 96) (k : Packet), s.takePacket p (fun k => k.typ == 4) = some (k, u) → u.audioOn = true →
    u.present (16 * p + k.vc) = true → exec (.ancPacket p) s = .next (u.bindAnc (16 * p + k.vc)
      ⟨leAt k.payload 0 2, leAt k.payload 2 2,
        (List.range ((k.payload.length - 4) / 2)).map fun i => leAt k.payload (4 + 2 * i) 2 % 1024⟩)) ∧
  (∀ (s u : State) (p : Fin 96) (k : Packet), s.takePacket p (fun k => k.typ == 5) = some (k, u) → u.audioOn = true →
    u.present (16 * p + k.vc) = true → exec (.metaPacket p) s = .next (u.bindMeta (16 * p + k.vc) k.payload)) ∧
  (∀ s : State, s.audioOn = true → Answers s Reg.marginalia_QUERY_RESULT → s.done Reg.marginalia_QUERY_RESULT = true →
    let n := s.get R.marginalia_QUERY_STREAM
    (s.present n = false → ∃ t, exec .queryFetch s = .next t ∧ t.get ⟨Reg.marginalia_QUERY_RESULT, 30, 16⟩ = 2 ∧
      t.done Reg.marginalia_QUERY_RESULT = true ∧ (∀ i, i < 32 → t.rd (Reg.marginalia_QUERY_DATA i) = 0) ∧
      OnlyRegs s t (Reg.marginalia_QUERY_RESULT :: (List.range 32).map Reg.marginalia_QUERY_DATA) ∧ t = { s with regs := t.regs }) ∧
    (s.present n = true → s.isWriteback n = false →
      (s.stream n).margs.find? (fun m => m.seq == s.get R.marginalia_QUERY_SEQ) = none →
      ∃ t, exec .queryFetch s = .next t ∧ t.get ⟨Reg.marginalia_QUERY_RESULT, 30, 16⟩ = 1 ∧
        t.done Reg.marginalia_QUERY_RESULT = true ∧ (∀ i, i < 32 → t.rd (Reg.marginalia_QUERY_DATA i) = 0) ∧
        OnlyRegs s t (Reg.marginalia_QUERY_RESULT :: (List.range 32).map Reg.marginalia_QUERY_DATA) ∧ t = { s with regs := t.regs }) ∧
    (∀ m, s.present n = true → s.isWriteback n = false →
      (s.stream n).margs.find? (fun m => m.seq == s.get R.marginalia_QUERY_SEQ) = some m →
      exec .queryFetch s = .next (((s.accept Reg.marginalia_QUERY_RESULT).putBytes (Reg.marginalia_QUERY_DATA 0) m.bytes).complete
        Reg.marginalia_QUERY_RESULT 0)))

/-- A unit's permitted write of good words stores its bytes and no others (R285, R290): each byte reads back, every other byte of
memory is unchanged, and the only registers written are those of class 0. A permitted read of good words answers the bytes and
leaves memory as it is. An access of classes 1 to 3 charges its class with its bytes, its slots and the time it takes beside them
(R293). The firewall (R290, R291): an access that no region permits changes no byte of memory, counts for its kind, raises
FW_VIOL, and is recorded in FW_LAST unless a record stands there already; a read answers zeros. It rests in part on the model's
own choices (log entries 26, 27, 92). -/
def Obligations.MemoryAccesses : Prop :=
  (∀ (s : State) (kind : Fin 10) (cls : Fin 4) (addr : BitVec 35) (data : List Byte) (ns : Nat) (port : Fin 23) (slots : Nat),
     let zero := [Reg.memory_CL0_LAT_MAX, R.memory_CL0_QFULL.addr, Flag.memory_CL0_QFULL.addr, Flag.memory_CL0_QFULL.counter.addr]
     kind.val ≠ 6 → kind.val ≠ 7 → s.memUp = true → (∀ w ∈ wordsOf addr.toNat data.length, s.wordEcc w = .good) →
     (s.fwAllows kind true addr.toNat data.length = true →
       ∃ t, exec (.memoryAccess kind true cls addr data.length data [] ns port slots) s = .next t ∧
         (∀ i b, data[i]? = some b → t.memByte (addr.toNat + i) = b) ∧
         (∀ a, a < addr.toNat ∨ addr.toNat + data.length ≤ a → t.memByte a = s.memByte a) ∧
         (∀ w, t.wordEcc w = s.wordEcc w) ∧
         (cls.val ≠ 0 →
           Sparse.get (fun _ => 0) t.mem.served cls = Sparse.get (fun _ => 0) s.mem.served cls + data.length ∧
           Sparse.get (fun _ => 0) t.mem.charge cls = Sparse.get (fun _ => 0) s.mem.charge cls + reqTime data.length ns) ∧
         OnlyRegs s t (if cls.val = 0 then zero else []) ∧ t = { s with regs := t.regs, mem := t.mem }) ∧
     (s.fwAllows kind false addr.toNat data.length = true →
       ∃ t, exec (.memoryAccess kind false cls addr data.length [] [] ns port slots) s = .next t ∧
         t.out = s.out ++ [.memory ((List.range data.length).map fun i => s.memByte (addr.toNat + i)) (List.replicate data.length false)] ∧
         t.mem.bytes = s.mem.bytes ∧ (∀ w, t.wordEcc w = s.wordEcc w) ∧
         OnlyRegs s t (if cls.val = 0 then zero else []) ∧
         t = { s with regs := t.regs, mem := t.mem, out := t.out })) ∧
  (∀ (s : State) (kind : Fin 10) (cls : Fin 4) (addr : BitVec 35) (data : List Byte) (ns : Nat) (write : Bool) (port : Fin 23)
     (slots : Nat),
     kind.val ≠ 6 → kind.val ≠ 7 → s.memUp = true → cls.val ≠ 0 → s.fwAllows kind write addr.toNat data.length = false →
     ∃ t, exec (.memoryAccess kind write cls addr data.length data [] ns port slots) s = .next t ∧
       t.mem.bytes = s.mem.bytes ∧ t.mem.ecc = s.mem.ecc ∧
       t.get (R.memory_FW_VIOL kind) = min (s.get (R.memory_FW_VIOL kind) + 1) (2 ^ 32 - 1) ∧ t.get Flag.memory_FW_VIOL.fld = 1 ∧
       (s.on R.memory_FW_LAST_VALID = true → t.rd Reg.memory_FW_LAST = s.rd Reg.memory_FW_LAST) ∧
       (s.on R.memory_FW_LAST_VALID = false → t.on R.memory_FW_LAST_VALID = true ∧
         getBits (t.rd Reg.memory_FW_LAST) 29 26 = kind.val ∧ getBits (t.rd Reg.memory_FW_LAST) 18 0 = addr.toNat / 65536) ∧
       t.out = s.out ++ (if write then [] else [.memory (List.replicate data.length 0) (List.replicate data.length false)]))

/-- The host's window (R289, R290): BAR2 reaches the memory at BAR2_WIN.BASE as class 3; an access held back by a memory that is
down waits and is served at the exit of power-down, in order (R302). Scrubbing and ECC (R286 to R288): a word with one erroneous
symbol is corrected, counted and written back; the position moves to the next word, and after the last to the first with
SCRUB_DONE. It rests in part on the model's own choices (log entry 27). -/
def Obligations.MemoryScrubbing : Prop :=
  ((∀ (s : State) (write : Bool) (offset len : Nat) (data : List Byte), s.memUp = true →
     exec (.bar2Access write offset len data []) s =
       .next (s.memServe ⟨6, write, 3, (s.get R.memory_BAR2_WIN_BASE * 65536 + offset) % memSize, len, data, 22,
         Config.rowTime ((s.get R.memory_BAR2_WIN_BASE * 65536 + offset) % memSize) len⟩)) ∧
   (∀ (s : State) (write : Bool) (offset len : Nat) (data : List Byte), s.memUp = false →
     ∃ t, exec (.bar2Access write offset len data []) s = .next t ∧
       t.mem.held.map (fun r => (r.kind, r.write, r.cls, r.addr, r.len, r.data)) =
         s.mem.held.map (fun r => (r.kind, r.write, r.cls, r.addr, r.len, r.data)) ++
           [(6, write, 3, (s.get R.memory_BAR2_WIN_BASE * 65536 + offset) % memSize, len, data)] ∧
       t = { s with mem := { s.mem with held := t.mem.held } })) ∧
  (∀ s : State, s.on R.memory_SCRUB_CFG_EN = true → s.memUp = true → s.mem.scrubWord < 2 ^ 30 →
     (s.mem.scrubWord + 1 < 2 ^ 30 → s.wordEcc s.mem.scrubWord = .oneSymbol →
       ∃ t, exec (.scrubStep []) s = .next t ∧ t.wordEcc s.mem.scrubWord = .good ∧
         (∀ w, w ≠ s.mem.scrubWord → t.wordEcc w = s.wordEcc w) ∧ t.mem.scrubWord = s.mem.scrubWord + 1 ∧
         t.get R.memory_ECC_CORR = min (s.get R.memory_ECC_CORR + 1) (2 ^ 32 - 1) ∧ t.get Flag.memory_ECC_CORR.fld = 1 ∧
         t.get R.memory_SCRUB_POS_POS = (s.mem.scrubWord + 1) * 32 / 65536 ∧ t.mem.bytes = s.mem.bytes) ∧
     (s.mem.scrubWord + 1 = 2 ^ 30 → s.wordEcc s.mem.scrubWord = .good →
       ∃ t, exec (.scrubStep []) s = .next t ∧ t.mem.scrubWord = 0 ∧ t.get R.memory_SCRUB_POS_POS = 0 ∧
         t.get R.memory_SCRUB_PASSES = min (s.get R.memory_SCRUB_PASSES + 1) (2 ^ 32 - 1) ∧ t.get Flag.memory_SCRUB_DONE.fld = 1))

/-- The classes' windows (R293 to R297): each class of which work is left at a window's end shows SHED and counts 10 µs, and the
work waits for the next window, which has the present band's entitlements; no class within its entitlement is shed while all fits
the window; a requester port beyond its admitted class 0 load in its millisecond counts in CL0_EXCESS. The memory's upkeep (R299
to R302): drift samples, each with a class 0 access of its channel (R292), the end of warm-up, entry to DEEP or LIGHT power-down,
which work of a motion unit, a codec or the Cellar prevents, the exit, which from DEEP takes a drift sample, and CLR_CNT, which
zeroes every counter and record but those made in its own cycle. It rests in part on the model's own choices (log entry 28). -/
def Obligations.MemoryUpkeep : Prop :=
  ((∀ s : State, s.mem.windows + 1 < 100 → s.mem.shedBefore = true →
     let shed (c : Nat) : Bool := s.windowRest.any fun q => q.1 == c && decide (0 < q.2.2)
     ∃ t, exec .classWindowEnd s = .next t ∧
       (∀ c, 1 ≤ c → c ≤ 3 → t.on (R.memory_CLASS_CFG_SHED c) = shed c ∧
         t.get (R.memory_CLASS_SHED_US c) =
           (if shed c then min (s.get (R.memory_CLASS_SHED_US c) + 10) (2 ^ 32 - 1) else s.get (R.memory_CLASS_SHED_US c))) ∧
       (∀ q ∈ s.windowRest, Sparse.get (fun _ => 0) t.mem.backlog q.1 = q.2.2) ∧ t.mem.windowBand = s.get R.memory_STATUS_BAND ∧
       t.mem.windows = s.mem.windows + 1 ∧ t.mem.charge = [] ∧ t.mem.bytes = s.mem.bytes ∧
       t = { s with regs := t.regs, mem := t.mem }) ∧
   (∀ s : State, s.mem.windows + 1 < 100 → (∀ c, c ≤ 3 → 0 ≤ s.demand c) → (∀ c, 1 ≤ c → c ≤ 3 → s.demand c ≤ s.entitlement c) →
     s.demand 0 + s.demand 1 + s.demand 2 + s.demand 3 ≤ windowTime →
     ∃ t, exec .classWindowEnd s = .next t ∧ (∀ c, 1 ≤ c → c ≤ 3 → t.get (R.memory_CLASS_CFG_SHED c) = 0 ∧
       t.get (R.memory_CLASS_SHED_US c) = s.get (R.memory_CLASS_SHED_US c)) ∧ t.mem.shedBefore = false) ∧
   (∀ s : State, s.mem.windows + 1 = 100 → ∃ t, exec .classWindowEnd s = .next t ∧ t.mem.windows = 0 ∧ t.mem.served = [] ∧
     (∀ c, c < 4 → Sparse.get (fun _ => 0) s.mem.served c * 8 / 1000 < 2 ^ 32 →
       t.get (R.memory_CLASS_USE c) = Sparse.get (fun _ => 0) s.mem.served c * 8 / 1000)) ∧
   (∀ (s : State) (p : Fin 22), let most := Sparse.get (fun _ => 0) s.mem.admitted p.val + 65536
     let moved := Sparse.get (fun _ => 0) s.mem.metered p.val
     (moved ≤ most → exec (.cl0MeterWindow p) s = .next { s with mem := { s.mem with metered := Sparse.erase s.mem.metered p.val } }) ∧
     (most < moved → ∃ t, exec (.cl0MeterWindow p) s = .next t ∧ Sparse.get (fun _ => 0) t.mem.metered p.val = 0 ∧
       t.get R.memory_CL0_EXCESS = min (s.get R.memory_CL0_EXCESS + 1) (2 ^ 32 - 1) ∧ t.get Flag.memory_CL0_EXCESS.fld = 1 ∧
       OnlyRegs s t [R.memory_CL0_EXCESS.addr, Flag.memory_CL0_EXCESS.addr, Flag.memory_CL0_EXCESS.counter.addr] ∧
       t = { s with regs := t.regs, mem := { s.mem with metered := t.mem.metered } }))) ∧
  ((∀ (s : State) (windows : List (BitVec 8)), s.memUp = true → (∀ c, c < 32 → s.get R.memory_DRIFT_CFG_MIN_WIN ≤ (windows.getD c 255).toNat) →
     ∃ t, exec (.driftSample windows) s = .next t ∧ t.get R.memory_DRIFT_STATUS_LOW = 0 ∧
       (∀ c, c < 32 → Sparse.get (fun _ => 0) t.mem.samples c = Sparse.get (fun _ => 0) s.mem.samples c + 1) ∧
       (∀ c, c < 32 → t.channel0 c = ((s.channel0 c).1, (s.channel0 c).2 + 1)) ∧
       OnlyRegs s t [R.memory_DRIFT_STATUS_LOW.addr, Reg.memory_STATUS] ∧ t = { s with regs := t.regs, mem := t.mem }) ∧
   (∀ s : State, s.on R.memory_STATUS_WARMUP = true → ∃ t, exec .warmupEnd s = .next t ∧ t.get R.memory_STATUS_WARMUP = 0 ∧
     t.get Flag.memory_WARMUP_END.fld = 1 ∧
     OnlyRegs s t [Reg.memory_STATUS, Flag.memory_WARMUP_END.addr, Flag.memory_WARMUP_END.counter.addr] ∧ t = { s with regs := t.regs }) ∧
   (∀ (s : State) (others : Option Nat) (idle : Bool), s.on R.memory_STATUS_TRAINED = true → s.get R.memory_STATUS_PD_STATE ≤ 1 →
     s.on R.memory_PD_CFG_DEEP_EN = true → s.tMin others = none → ∃ t, exec (.pdEnter others idle) s = .next t ∧
     t.get R.memory_STATUS_PD_STATE = 2 ∧ t.get R.memory_PD_STATUS_T_MIN = 0xFFFF ∧
     t.get R.memory_PD_DEEP = min (s.get R.memory_PD_DEEP + 1) (2 ^ 32 - 1) ∧ t = { s with regs := t.regs }) ∧
   (∀ (s : State) (others : Option Nat) (t0 : Nat), s.memUp = true → s.on R.memory_PD_CFG_LIGHT_EN = true → s.tMin others = some t0 →
     t0 < 60 + s.get R.memory_PD_CFG_GUARD_US → 2 + s.get R.memory_PD_CFG_GUARD_US ≤ t0 → ∃ t, exec (.pdEnter others true) s = .next t ∧
     t.get R.memory_STATUS_PD_STATE = 1 ∧ t.get R.memory_PD_STATUS_T_MIN = min t0 0xFFFE ∧ t.get R.memory_PD_LIGHT = min (s.get R.memory_PD_LIGHT + 1) (2 ^ 32 - 1) ∧
     t = { s with regs := t.regs }) ∧
   (∀ (s : State) (others : Option Nat) (idle : Bool), s.unitsBusy = true →
     exec (.pdEnter others idle) s = .next (s.put R.memory_PD_STATUS_T_MIN 0)) ∧
   (∀ s : State, s.get R.memory_STATUS_PD_STATE = 2 → exec .pdExit s =
     .next (((s.put R.memory_STATUS_PD_STATE 0).sampleChannels.modMem fun m => { m with held := [] }).each s.mem.held State.memServe)) ∧
   (∀ s : State, s.get R.memory_STATUS_PD_STATE = 1 → exec .pdExit s =
     .next (((s.put R.memory_STATUS_PD_STATE 0).modMem fun m => { m with held := [] }).each s.mem.held State.memServe)) ∧
   (∀ (s : State) (hits : BitVec 32) (ue fw : Bool), Answers s Reg.memory_CTRL → ∃ t, exec (.memoryClrCnt hits ue fw) s = .next t ∧
     t.get R.memory_CL0_LAT_MAX = (if hits.getLsbD 0 then 1 else 0) ∧ t.get R.memory_ECC_CORR = (if hits.getLsbD 3 then 1 else 0) ∧
     (∀ k, k < 10 → t.get (R.memory_FW_VIOL k) = if hits.getLsbD (5 + k) then 1 else 0) ∧
     (t.on R.memory_UE_ADDR_HI_VALID = (ue && s.on R.memory_UE_ADDR_HI_VALID)) ∧
     (t.on R.memory_FW_LAST_VALID = (fw && s.on R.memory_FW_LAST_VALID)) ∧ t = { s with regs := t.regs }))

/-- The commands of COMMIT (R209, R210, R213): ARM sets ARMED with DEFERS 0, plans the audio fades that follow its panes
(09_audio_marginalia.md R269) and applies at once where no raster runs; an armed commit is not armed again; DISARM removes it with
COMMIT_CLEARED; STAGE_HOLD reads as written. REVERT copies every active value of the Folio over its staged one and writes nothing
else (R209): each staged register of a pane or of the Folio reads as its mirror did. What an armed commit does at a switching
point (R209 to R212): STAGE_HOLD holds it, unready panes defer it under policy 0, and with every pane ready it is applied; a
commit that is not armed changes nothing. Words outside the pages (R200, R206, R211): a surface's descriptor and fence and a
coefficient word read as written, but the bits that word 1 of a descriptor has no field for; where no Folio is present nothing
else changes. It rests in part on the model's own choices (log entries 70, 81, 87). -/
def Obligations.FolioCommits : Prop :=
  (∀ (s : State) (f : Fin 64) (periods : Nat), Answers s (Reg.folio_COMMIT f) →
     (s.on (R.folio_COMMIT_STATUS_ARMED f) = true → exec (.commitArm f periods) s = .next s) ∧
     (s.on (R.folio_COMMIT_STATUS_ARMED f) = false → s.rasterRuns f = true → exec (.commitArm f periods) s =
       .next (((s.put (R.folio_COMMIT_STATUS_ARMED f) 1).put (R.folio_COMMIT_STATUS_DEFERS f) 0).planTakes f periods)) ∧
     (s.on (R.folio_COMMIT_STATUS_ARMED f) = false → s.rasterRuns f = false → exec (.commitArm f periods) s =
       .next ((((s.put (R.folio_COMMIT_STATUS_ARMED f) 1).put (R.folio_COMMIT_STATUS_DEFERS f) 0).planTakes f periods).commitPoint f)) ∧
     (s.on (R.folio_COMMIT_STATUS_ARMED f) = true → ∃ t, exec (.commitDisarm f) s = .next t ∧
       t.get (R.folio_COMMIT_STATUS_ARMED f) = 0 ∧ t.get (R.folio_COMMIT_STATUS_HELD f) = 0 ∧ t.get (R.folio_COMMIT_STATUS_LAST f) = 3 ∧
       t.get (Flag.folio_COMMIT_CLEARED f).fld = 1 ∧
       OnlyRegs s t [Reg.folio_COMMIT_STATUS f, (Flag.folio_COMMIT_CLEARED f).addr, (Flag.folio_COMMIT_CLEARED f).counter.addr] ∧
       t = { s with regs := t.regs }) ∧
     (s.on (R.folio_COMMIT_STATUS_ARMED f) = false → exec (.commitDisarm f) s = .next s) ∧
     (∀ hold, ∃ t, exec (.stageHoldWrite f hold) s = .next t ∧ t.on (R.folio_COMMIT_STAGE_HOLD f) = hold ∧
       OnlyRegs s t [Reg.folio_COMMIT f] ∧ t = { s with regs := t.regs })) ∧
  (∀ (s : State) (f : Fin 64), Answers s (Reg.folio_COMMIT f) →
     let l := (List.range 8).flatMap (paneStaged f) ++ folioStaged f
     ∃ t, exec (.commitRevert f) s = .next t ∧ (∀ a ∈ l, t.rd a = s.rd (a + 0x1000)) ∧ OnlyRegs s t l ∧ t = { s with regs := t.regs }) ∧
  (∀ (s : State) (f : Fin 64),
     (s.on (R.folio_COMMIT_STATUS_ARMED f) = false → s.commitPoint f = s) ∧
     (s.on (R.folio_COMMIT_STATUS_ARMED f) = true → s.on (R.folio_COMMIT_STAGE_HOLD f) = true →
       (s.commitPoint f).get (R.folio_COMMIT_STATUS_HELD f) = 1 ∧ (s.commitPoint f).on (R.folio_COMMIT_STATUS_ARMED f) = true ∧
       OnlyRegs s (s.commitPoint f) [Reg.folio_COMMIT_STATUS f]) ∧
     (s.on (R.folio_COMMIT_STATUS_ARMED f) = true → s.on (R.folio_COMMIT_STAGE_HOLD f) = false →
       let u := s.put (R.folio_COMMIT_STATUS_HELD f) 0
       (u.unreadyPanes f = [] → s.commitPoint f = u.commitApply f []) ∧
       (u.unreadyPanes f ≠ [] → s.on (R.folio_COMMIT_CFG_POLICY f) = false →
         (s.commitPoint f).on (R.folio_COMMIT_STATUS_ARMED f) = true ∧ (s.commitPoint f).get (Flag.folio_COMMIT_DEFER f).fld = 1 ∧
         (s.commitPoint f).rd (Reg.folio_FRAME_NUM f) = s.rd (Reg.folio_FRAME_NUM f)))) ∧
  (∀ s : State, (∀ f, f < 64 → s.folioOn f = false) →
     (∀ (i : Fin 256) (w : Fin 3) (v : BitVec 32), Answers s (0x300000 + 16 * i) →
       ∃ t, exec (.surfDescriptorWrite i w v) s = .next t ∧
         t.rd (Reg.surf_BASE i + 4 * w) = (if w.val = 1 then v &&& 0xFF00FFFF else v) ∧
         OnlyRegs s t [Reg.surf_BASE i + 4 * w] ∧ t = { s with regs := t.regs }) ∧
     (∀ (i : Fin 256) (v : BitVec 32), Answers s (Reg.surf_FENCE i) → ∃ t, exec (.fenceWrite i v) s = .next t ∧
       t.rd (Reg.surf_FENCE i) = v ∧ OnlyRegs s t [Reg.surf_FENCE i] ∧ t = { s with regs := t.regs }) ∧
     (∀ (f : Fin 64) (w : Fin 448) (v : BitVec 32), Answers s (0x310000 + 0x800 * f) → ∃ t, exec (.coeffTableWrite f w v) s = .next t ∧
       t.rd (Reg.coef_COEF f w) = v ∧ OnlyRegs s t [Reg.coef_COEF f w] ∧ t = { s with regs := t.regs }))

/-- The frame fetch start (R170): at the fetch line of a composed frame that is not held the panes latch, the passed ancillary
packets are queued and the Folio's black SDI outputs show its pictures; at any other line nothing happens. A switching point of a
running raster with no commit armed, no seal setting due and no realignment (R210, R225, R239): only the audio engine's plan for
the Folio goes on. At any other line nothing happens (R232). A frame leaves a Folio that runs (R206, R215): its pins are given
back and RETIRE takes its number with FRAME_DONE. It rests in part on the model's own choices (log entries 84, 85, 86). -/
def Obligations.FolioFrames : Prop :=
  (∀ (s : State) (f : Fin 64) (frac : BitVec 16),
     (s.folioUp f = true → s.composing f = true → (s.folio f).waiting = false → (s.folio f).began = false →
       (s.folio f).holdAsked = false → s.get (R.folio_RASTER_STATUS_LINE f) = (s.timing f).fetchLine →
       let t := (s.frameLatch f frac.toNat).queueAnc f
       exec (.frameFetchStart f frac) s =
         .next (t.each (t.sdiPorts f) fun s n => if s.sdi n = .txBlack then s.setSdi n .txRun else s)) ∧
     (s.get (R.folio_RASTER_STATUS_LINE f) ≠ (s.timing f).fetchLine → exec (.frameFetchStart f frac) s = .next s)) ∧
  ((∀ (s : State) (f : Fin 64) (next : Nat) (realign : Int), s.folioUp f = true → s.raster f = .run →
     (s.folio f).waiting = false → s.get (R.folio_RASTER_STATUS_LINE f) = s.switchLine f (s.timing f) →
     (s.folio f).sealDue = none → (s.folio f).snap = none → s.on (R.folio_COMMIT_STATUS_ARMED f) = false →
     s.act (R.folio_TIMING_MODE_DISP_TIMED f) = 0 → s.on (R.folio_RASTER_STATUS_DISP_TIMED_ACTIVE f) = false →
     exec (.switchingPoint f next realign) s =
       .next ((((s.modFolio f fun x => { x with dtJudged := false }).modFolio f fun x => { x with snap := none }).settleTakes f).setSpPeriods
         f next)) ∧
   (∀ (s : State) (f : Fin 64) (next : Nat) (realign : Int),
     s.get (R.folio_RASTER_STATUS_LINE f) ≠ s.switchLine f (s.timing f) → exec (.switchingPoint f next realign) s = .next s)) ∧
  (∀ (s : State) (f : Fin 64), s.folioUp f = true → (s.folio f).began = true → s.raster f = .run →
     (s.timing f).lastActive ≤ s.get (R.folio_RASTER_STATUS_LINE f) → (s.folio f).latches = [] → (s.folio f).margins = [] →
     (s.folio f).dry ≠ 2 → s.get (R.folio_RETIRE f) ≠ s.frameNum f → s.get (R.folio_RETIRE_WAIT f) ≠ s.frameNum f →
     ∃ t, exec (.retireAdvance f) s = .next t ∧ t.get (R.folio_RETIRE f) = s.frameNum f ∧
       t.get (Flag.folio_RASTER_FRAME_DONE f).fld = 1 ∧ (t.folio f).began = false ∧ (t.folio f).rows = [] ∧
       OnlyRegs s t [(R.folio_RETIRE f).addr, (Flag.folio_RASTER_FRAME_DONE f).addr, (Flag.folio_RASTER_FRAME_DONE f).counter.addr] ∧
       t = { s with regs := t.regs, folios := t.folios })

/-- Lines (R231, R237, R243): while a raster runs each OUTPUT_LINE begins the next line, line V_TOTAL is followed by what a
frame's end brings; while it does not run, an SDI port that has sent a format sends the next line of it black with its payload ID
(04_sdi_ports.md R135, R136) and nothing else happens. A vertical-blanking line of a Folio whose ports are idle shows in
RASTER_STATUS. It rests in part on the model's own choices (log entries 34, 88). -/
def Obligations.OutputLines : Prop :=
  (∀ (s : State) (f : Fin 64) (frac : BitVec 16) (late lateB : Option Nat) (margins : List (Nat × Int)) (room : Nat),
    s.folioUp f = true → s.rasterRuns f = true → (s.folio f).waiting = false → (s.folio f).nextLine = none →
    let line := s.get (R.folio_RASTER_STATUS_LINE f)
    (line < (s.timing f).vTotal →
      exec (.outputLine f frac late lateB margins room) s = .next (s.beginLine f (line + 1) frac.toNat late lateB margins room)) ∧
    ((s.timing f).vTotal ≤ line → exec (.outputLine f frac late lateB margins room) s = .next (s.endFrame f frac.toNat room))) ∧
  (∀ (s : State) (f : Fin 64) (frac : BitVec 16) (late lateB : Option Nat) (margins : List (Nat × Int)) (room : Nat),
    s.rasterRuns f = false →
    (s.sdiPorts f = [] → exec (.outputLine f frac late lateB margins room) s = .next s) ∧
    (∀ n i r, s.sdiPorts f = [n] → s.sdi n = .txBlack → (s.port n).sdiSent = some i → sdiRasters[i]? = some r →
      let t := r.timing (s.on (R.port_SDI_FMT_PSF n))
      let line := if r.vTotal ≤ (s.port n).sdiLine then 1 else (s.port n).sdiLine + 1
      let pid := if (pidLines t).contains line then [ancPacketWords 0x41 0x01 ((s.sdiPid n).map ancWord)] else []
      ∃ u, exec (.outputLine f frac late lateB margins room) s = .next u ∧ (u.port n).sdiLine = line ∧
        u.out = s.out ++ [.sdi n line (if (t.row line).isSome then blackCodes r.w else []) pid {}] ∧
        u = { s with ports := u.ports, audio := u.audio, out := u.out })) ∧
  (∀ (s : State) (f : Fin 64) (frac : BitVec 16), s.folioUp f = true → s.rasterRuns f = true → (s.folio f).waiting = false →
    (s.folio f).nextLine = none → s.sdiPorts f = [] → s.rasynPorts f = [] → (s.timing f).inter = false →
    let line := s.get (R.folio_RASTER_STATUS_LINE f) + 1
    line ≤ (s.timing f).vTotal → line < (s.timing f).first → s.get (R.folio_LINE_MATCH_LINE f) ≠ line → line < 2 ^ 12 →
    ∃ t, exec (.outputLine f frac none none [] 0) s = .next t ∧ t.get (R.folio_RASTER_STATUS_LINE f) = line ∧
      t.get (R.folio_RASTER_STATUS_FIELD2 f) = 0 ∧ t.raster f = s.raster f ∧
      OnlyRegs s t [Reg.folio_RASTER_STATUS f, (R.folio_LTR_STATUS_TOL f).addr] ∧ t = { s with regs := t.regs, folios := t.folios })

/-- The start of a raster (R134, R235, R237, R252): with its clock good and a port it serves (R234), at an instant that R62 and
OFFSET give (01_ruling.md R62, R238), the raster runs with phase 0, its displays are told the new mode, RASTER_START is raised and
line 1 begins; at any other instant it waits on, and with a wrong clock it does so with CLK_MISMATCH raised. A timing change's end
(R251 to R254): with the black frames shown and no display still asked, at an instant that R62 and OFFSET give the new raster's
switching line (01_ruling.md R62), the taken set becomes active, the commit is done, TIMING_CHANGED is raised and the raster runs
at that line, or waits where its clock is wrong or no port can carry it; until then nothing happens. It rests in part on the
model's own choices (log entry 87). -/
def Obligations.RasterStarts : Prop :=
  (∀ (s : State) (f : Fin 64) (periods index : Nat), s.folioUp f = true → s.raster f = .waitStart →
     (s.clkGood (s.timing f) = false → ∃ t, exec (.rasterStart f periods index) s = .next t ∧
       t.get (Flag.folio_RASTER_CLK_MISMATCH f).fld = 1 ∧
       t.get (Flag.folio_RASTER_CLK_MISMATCH f).counter = min (s.get (Flag.folio_RASTER_CLK_MISMATCH f).counter + 1) 0xFFFF ∧
       OnlyRegs s t [(Flag.folio_RASTER_CLK_MISMATCH f).addr, (Flag.folio_RASTER_CLK_MISMATCH f).counter.addr] ∧
       t = { s with regs := t.regs }) ∧
     (s.clkGood (s.timing f) = true → s.rasterServes f (s.timing f) = false →
       exec (.rasterStart f periods index) s = .next (s.sdiStart f (s.timing f))) ∧
     (s.clkGood (s.timing f) = true → s.rasterServes f (s.timing f) = true → s.onTarget f (s.timing f) index 1 = false →
       exec (.rasterStart f periods index) s = .next s) ∧
     (s.clkGood (s.timing f) = true → s.rasterServes f (s.timing f) = true → (s.folio f).common = true →
       index % max 1 (s.rateRatio (s.timing f)).1 ≠ 0 → exec (.rasterStart f periods index) s = .next s) ∧
     (s.clkGood (s.timing f) = true → s.rasterServes f (s.timing f) = true → s.onTarget f (s.timing f) index 1 = true →
       (s.folio f).common = false →
       let a := s.modFolio f fun x =>
         { x with disp := 0, snap := s.pendingSnap, nextLine := none, black := false, gap := false, waiting := false, moving := true,
                  began := false, still := 0, holdAsked := false, holdEnd := false, holdWait := 0, misses := 0, report := false,
                  teLost := false, dtJudged := false, common := false, anc := [],
                  tie := index % max 1 (s.rateRatio (s.timing f)).1, startAt := (s.ruling.frame, s.ruling.line) }
       let b := (((a.setRaster f .run).put (R.folio_RASTER_PHASE f) 0).put (R.folio_RASTER_STATUS_DISP_TIMED_ACTIVE f) 0).sdiStart f
         (s.timing f)
       let c := b.askMode f (formatRecord (s.timing f) (b.act (R.folio_OUT_FMT_LINK_FMT f)) false)
       exec (.rasterStart f periods index) s = .next
         (((c.raise (Flag.folio_RASTER_RASTER_START f)).setSpPeriods f periods).beginLine f 1 0 none none [] 0)) ∧
     (s.clkGood (s.timing f) = true → s.onTarget f (s.timing f) index 1 = true →
       ((s.folio f).common = true → index % max 1 (s.rateRatio (s.timing f)).1 = 0) →
       s.sdiPorts f = [] → s.rasynPorts f = [] → (s.timing f).inter = false → 1 < (s.timing f).first →
       ∃ t, exec (.rasterStart f periods index) s = .next t ∧ t.raster f = .run ∧ t.get (R.folio_RASTER_PHASE f) = 0 ∧
         t.get (R.folio_RASTER_STATUS_LINE f) = 1 ∧ t.get (R.folio_RASTER_STATUS_DISP_TIMED_ACTIVE f) = 0 ∧
         t.get (Flag.folio_RASTER_RASTER_START f).fld = 1 ∧ (t.folio f).began = false ∧ (t.folio f).common = false ∧
         (t.folio f).tie = index % max 1 (s.rateRatio (s.timing f)).1 ∧ (t.folio f).startAt = (s.ruling.frame, s.ruling.line) ∧ t.spPeriods f = some periods)) ∧
  (∀ (s : State) (f : Fin 64) (periods index : Nat),
     (∀ vals, (s.folio f).taken = some vals → s.folioUp f = true → s.raster f = .changing → (s.folio f).gap = true →
       (s.folio f).blackLeft = 0 → ((s.rasynPorts f).all fun n => (s.port n).modeReply != 1) = true →
       let a := (s.activate f vals).commitDone f (s.folio f).takenStale
       let b := (a.put (R.folio_COMMIT_STATUS_ARMED f) (s.get (R.folio_COMMIT_STATUS_ARMED f))).raise (Flag.folio_RASTER_TIMING_CHANGED f)
       let c := b.modFolio f fun x =>
         { x with taken := none, gap := false, disp := 0, snap := b.pendingSnap, nextLine := none, black := false, waiting := false,
                  dtJudged := false, tie := index % max 1 (b.rateRatio (b.timing f)).1, startAt := (b.ruling.frame, b.ruling.line) }
       let t := c.timing f
       (c.onTarget f t index (c.switchLine f t) = false → exec (.timingCut f periods index) s = .next s) ∧
       (c.onTarget f t index (c.switchLine f t) = true → c.clkGood t = true → c.rasterServes f t = true →
         exec (.timingCut f periods index) s = .next (((((c.setRaster f .run).sdiStart f t).settleTakes f).setSpPeriods f periods).beginLine f
           ((((c.setRaster f .run).sdiStart f t).settleTakes f).switchLine f t) 0 none none [] 0)) ∧
       (c.onTarget f t index (c.switchLine f t) = true → c.clkGood t = false → c.act (R.folio_TIMING_MODE_RUN f) = 1 →
         exec (.timingCut f periods index) s = .next (c.rasterWaits f)) ∧
       (c.onTarget f t index (c.switchLine f t) = true → c.clkGood t = true → c.rasterServes f t = false →
         c.act (R.folio_TIMING_MODE_RUN f) = 1 → exec (.timingCut f periods index) s = .next ((c.sdiStart f t).rasterWaits f))) ∧
     ((s.folio f).taken = none → exec (.timingCut f periods index) s = .next s))

/-- Display-timed output (R245 to R247): a report of the Folio's first port shows in TE_FRAME and is kept; the waiting raster then
begins line 1; with no report it counts a miss, and from the last of TIMEOUT in a row on raises TE_LOST and runs by itself. Hold
(R248): when every port has acknowledged, at the frame fetch start, the raster holds and stops fetching, HOLD_COUNT goes up and
HOLD_ENTER is raised. It rests in part on the model's own choices (log entry 87). -/
def Obligations.DisplayTiming : Prop :=
  ((∀ (s u : State) (p : Fin 96) (f : Fin 64) (ns : Int) (k : Packet),
     s.takePacket p (fun k => k.typ == 7 && leAt k.payload 0 1 == 2) = some (k, u) → u.folioOfPort p = some f.val →
     u.get (R.folio_CFG_PORT_A f) = p → u.rasynOut p = true → k.payload.length = 24 →
     ∃ t, exec (.teReport p ns) s = .next t ∧ t.get (R.folio_TE_FRAME f) = leAt k.payload 4 4 ∧ (t.folio f).report = true ∧
       (t.folio f).teAt = ns - leAt k.payload 16 4 - s.get (R.folio_TE_CFG_CABLE_NS f) ∧
       OnlyRegs s t [(R.folio_TE_FRAME f).addr] ∧ t = { s with regs := t.regs, ports := t.ports, folios := t.folios }) ∧
   (∀ (s : State) (f : Fin 64) (ready : Int), s.folioUp f = true → (s.folio f).waiting = true → (s.folio f).report = true →
     (ready : Rat) ≤ ((s.folio f).teAt : Rat) + (s.get (R.folio_TE_CFG_DELAY_LINES f) : Rat) * (s.timing f).lineNs →
     exec (.teLine1Start f ready) s =
       .next (((s.modFolio f fun x => { x with misses := 0 }).startFrame f).beginLine f 1 0 none none [] 0)) ∧
   (∀ (s : State) (f : Fin 64), s.folioUp f = true → (s.folio f).waiting = true → (s.folio f).report = false →
     let a := (s.bump (R.folio_TE_COUNT_MISS f)).modFolio f fun x => { x with misses := x.misses + 1 }
     let last := decide (max 1 (a.get (R.folio_TE_CFG_TIMEOUT f)) ≤ (s.folio f).misses + 1)
     exec (.teMiss f) s = .next ((((a.raiseIf last (Flag.folio_RASTER_TE_LOST f)).modFolio f fun x => { x with teLost := last }).startFrame
       f).beginLine f 1 0 none none [] 0))) ∧
  (∀ (s : State) (f : Fin 64), s.folioUp f = true → s.raster f = .run → (s.folio f).holdAsked = true → (s.folio f).began = false →
     (s.folio f).latches = [] → (s.folio f).wbOn = false → ((s.folioPorts f).all fun n => (s.port n).holdReply == 2) = true →
     s.get (R.folio_RASTER_STATUS_LINE f) = (s.timing f).fetchLine →
     ∃ t, exec (.holdEnter f) s = .next t ∧ t.get (Flag.folio_RASTER_HOLD_ENTER f).fld = 1 ∧ (t.folio f).holdAsked = false ∧
       (t.folio f).began = false ∧ (t.folio f).latches = [] ∧ t.raster f = .hold)

/-- What sets the triggers (R315 to R317, R323): an entry word, a heartbeat, which with HB_BOOT counts in READY only, a lost
uplink and its return, an incident and its end, and the end of POST_S. A lost uplink sets UPLINK_LOST once, with its event; its
return clears it; entries are looked at again each time. Overload (R324): while the ring fills or more encodes are abandoned than
half a percent, the entry first in the suspension order is suspended, counted and raised; once relieved, one entry is taken up
again, and one more every tenth check. It rests in part on the model's own choices (log entry 36). -/
def Obligations.CellarTriggers : Prop :=
  ((∀ (s : State) (n : Fin 256) (v : BitVec 32), Answers s (0x1B1000 + 32 * n) → n.val < s.maxEntries →
     exec (.cellarEntryWrite n 1 v) s = .next (s.wr (Reg.cellar_ENTRY_CTRL n + 4) (v &&& 0xFF0007FF)).retrigger ∧
     exec (.cellarEntryWrite n 2 v) s = .next (s.wr (Reg.cellar_ENTRY_CTRL n + 8) (v &&& 0xF80007FF)).retrigger ∧
     exec (.cellarEntryWrite n 0 v) s = .next (((s.wr (Reg.cellar_ENTRY_CTRL n) (v &&& 0xFFFFFFF0)).modEntry n
       fun e => { e with hostStop := e.mode != 0 && !v.getLsbD 31 }).retrigger)) ∧
   (∀ s : State, Answers s Reg.cellar_HEARTBEAT →
     (s.on R.cellar_CTRL_HB_BOOT = false ∨ s.celMode = .ready →
       exec .heartbeat s = .next { s with cellar := { s.cellar with hbSeen := true } }) ∧
     (s.on R.cellar_CTRL_HB_BOOT = true → s.celMode ≠ .ready → exec .heartbeat s = .next s)) ∧
   (∀ s : State, s.on R.cellar_CFG_PRESENT = true → s.on R.cellar_STATE_UPLINK_LOST = false →
     let lost (s : State) := ((s.put R.cellar_STATE_UPLINK_LOST 1).raise Flag.cellar_UPLINK_LOST).retrigger
     (s.cellar.hbSeen = true → exec .heartbeatLapse s = .next (lost (s.modCellar fun c => { c with hbLapsed := true }))) ∧
     (s.on R.cellar_CTRL_UPLINK_PIN_EN = true → exec .uplinkPinLoss s = .next (lost (s.modCellar fun c => { c with pinLost := true })))) ∧
   (∀ s : State, s.on R.cellar_STATE_UPLINK_LOST = true → exec .uplinkRestored s =
     .next ((((s.modCellar fun c => { c with hbLapsed := false, pinLost := false }).put R.cellar_STATE_UPLINK_LOST 0).raise
       Flag.cellar_UPLINK_BACK).retrigger)) ∧
   (∀ s : State, Answers s Reg.cellar_INCIDENT_CMD →
     exec .incidentSet s = .next (s.incident 1 0) ∧ exec .incidentClear s = .next ((s.put R.cellar_STATE_INCIDENT 0).retrigger)) ∧
   (∀ s : State, exec .incidentHoldExpiry s = .next ((s.put R.cellar_STATE_INCIDENT 0).retrigger)) ∧
   (∀ (s : State) (n : Fin 256), (s.celEntry n).mode = 2 → ∃ t, exec (.postSExpiry n) s = .next t ∧ (t.celEntry n).stopDue = true ∧
     (t.celEntry n).mode = 2 ∧ t = { s with cellar := { s.cellar with entries := t.cellar.entries } })) ∧
  (∀ (s : State) (n : Nat),
     (s.shedPick ((s.entryNums.filter fun n => (s.celEntry n).mode != 0).filter fun n => !(s.celEntry n).suspended) false = some n →
       (s.ringSize * 90 ≤ s.ringPending * 100 ∧ s.ringSize ≠ 0 ∨
         (s.lastSecond s.cellar.latches).length * 2 < (s.lastSecond s.cellar.abandons).length * 100) →
       let a := s.modCellar fun c => { c with calm := 0 }
       let b := if (a.celEntry n).job.isSome then a.missFrame n 2 else a
       exec .cellarOverloadCheck s =
         .next ((((b.modEntry n fun e => { e with suspended := true, job := none }).bump R.cellar_SUSPENDS).raise
           Flag.cellar_SUSPEND).showCellar)) ∧
     (s.shedPick (s.entryNums.filter fun n => (s.celEntry n).suspended) true = some n → s.ringPending * 100 < s.ringSize * 70 →
       s.lastSecond s.cellar.abandons = [] →
       let a := s.modCellar fun c => { c with calm := c.calm + 1 }
       (s.cellar.calm % 10 = 0 → exec .cellarOverloadCheck s =
         .next ((a.modEntry n fun e => { e with suspended := false, nextSpan := none }).flushMissed n).showCellar) ∧
       (s.cellar.calm % 10 ≠ 0 → exec .cellarOverloadCheck s = .next a)) ∧
     (s.ringPending = 0 → s.lastSecond s.cellar.abandons = [] → (∀ n ∈ s.entryNums, (s.celEntry n).suspended = false) →
       exec .cellarOverloadCheck s = .next (s.modCellar fun c => { c with calm := 0 })))

/-- The drive's side (R319, R325, R328, R333, R334): records that waited go to the ring and the ready Cellar writes its oldest
pending records within the drive's rate, then the footers that can follow; a completed write frees its records, a completed
directory write shows its entry, and a footer takes its mode from how its signature ended. The states of the drive (R325, R326,
R337): INIT sends its admin commands and ends in NO_DRIVE without a suitable drive, in BLANK without a good superblock, in FOREIGN
with another device's, and goes to recovery with this device's; NO_DRIVE waits for a link; a retry from FAULT goes to INIT; a
timeout resets the controller once and then, like a lost root port link, enters FAULT. It rests in part on the model's own choices
(log entries 35, 37). -/
def Obligations.CellarDrive : Prop :=
  ((∀ s : State, let a := s.modCellar fun c => { c with ringDebt := c.ringDebt - s.tenMs, driveDebt := c.driveDebt - s.tenMs }
     let b := State.drainRing false a.cellar.ringWait a
     let c := b.settleFresh.writeRecords (takeWrites (b.tenMs - b.cellar.driveDebt) (b.cellar.ring.filter fun r => r.st == 1))
     (b.celMode = .ready → exec .cellarDriveWrite s = .next (c.writeFooters c.cellar.closing.length).showCellar) ∧
     (b.celMode ≠ .ready → exec .cellarDriveWrite s = .next b)) ∧
   (∀ (s : State) (r : CelRecord) (d : CelDrive), s.celMode = .ready → s.cellar.ringWait = [] → s.cellar.fresh = [] →
     s.cellar.closing = [] → s.cellar.drive = some d → s.cellar.ring = [r] → r.st = 1 → s.cellar.driveDebt = 0 → 0 < s.tenMs →
     1 ≤ r.bytes.length → r.bytes.length ≤ d.transfer →
     ∃ t, exec .cellarDriveWrite s = .next t ∧ t.out = s.out ++ [.driveWrite r.place.1 r.place.2 r.bytes] ∧
       t.cellar.ring = [{ r with st := 2 }] ∧ t.cellar.nvme = s.cellar.nvme ++ [(s.cellar.nextTag, .records [r.id])] ∧
       t = { s with regs := t.regs, cellar := t.cellar, out := t.out }) ∧
   (∀ (s : State) (tag : Nat) (t : CelTag), s.cellar.nvme.find? (fun x => x.1 == tag) = some (tag, t) →
     let u := s.modCellar fun c => { c with nvme := c.nvme.filter fun x => x.1 != tag }
     (∀ ids, t = .records ids → exec (.nvmeCompletion tag) s =
       .next (u.modCellar fun c => { c with ring := c.ring.filter fun r => !ids.contains r.id }).showCellar) ∧
     (t = .other → exec (.nvmeCompletion tag) s = .next u) ∧
     (∀ g, t = .dirEntry g → exec (.nvmeCompletion tag) s =
       .next (u.modCellar fun c => { c with dir := c.dir.map fun x => if x.1 = g then (x.1, x.2.1, true) else x }))) ∧
   (∀ s : State, exec .footerSignTimeout s = .next (s.settleFooter fun _ => 3).engineNext ∧
     (s.signing = true → exec (.footerSignatureDone true) s = .next (s.settleFooter fun _ => 5).engineNext) ∧
     (s.signing = true → s.testRoot = false → exec (.footerSignatureDone false) s =
       .next (s.settleFooter fun c => if c.gens = s.parentGens c.parent then 0 else 4).engineNext) ∧
     (∀ aborted, s.signing = false → exec (.footerSignatureDone aborted) s = .next s)) ∧
   (∀ s : State, (s.celMode = .ready → s.cellar.dirty = true → exec .superblockTimer s = .next s.settleFresh.writeSuperblock) ∧
     (s.cellar.dirty = false → exec .superblockTimer s = .next s))) ∧
  ((∀ (s : State) (lba blocks transfer : Nat) (plain dsm cache : Bool) (copies dir : List (List (BitVec 8)))
     (ext : List (Nat × List (BitVec 8))),
     (s.celMode = .init → ∃ t, exec (.cellarInit false lba blocks plain dsm cache transfer copies dir ext) s = .next t ∧
       t.celMode = .noDrive ∧ t.get Flag.cellar_STATE_CHANGE.fld = 1 ∧ t = { s with regs := t.regs, faults := t.faults }) ∧
     (s.celMode = .noDrive → exec (.cellarInit false lba blocks plain dsm cache transfer copies dir ext) s = .next s)) ∧
   (∀ (s : State) (dsm cache : Bool) (transfer : Nat) (dir : List (List (BitVec 8))) (ext : List (Nat × List (BitVec 8))),
     s.celMode = .init ∨ s.celMode = .noDrive →
     ∃ t, exec (.cellarInit true 4096 (2 ^ 24) true dsm cache transfer [] dir ext) s = .next t ∧ t.celMode = .blank ∧
       t.out = s.out ++ (initCommands cache).map (fun x => .driveAdmin x.1 x.2) ∧
       (t.cellar.drive.map fun d => (d.cbCount, d.dsm, d.transfer)) =
         some (2 ^ 24, dsm, if transfer = 0 then 2 ^ 20 else min transfer (2 ^ 20))) ∧
   (∀ (s : State) (dsm cache : Bool) (b : List (BitVec 8)) (ext : List (Nat × List (BitVec 8))), s.celMode = .init →
     superblockGood b = true →
     let u := (s.each (initCommands cache) fun s x => s.emit (.driveAdmin x.1 x.2)).modCellar fun c =>
       { c with timeouts := 0, nvme := [], closing := [], dir := [], dirty := false, fresh := [] }
     let v := u.modCellar fun c =>
       { c with drive := some { driveOf b dsm with transfer := 2 ^ 20 },
                dirPos := u.get R.cellar_DIR_CURSOR_LO + 2 ^ 32 * u.get R.cellar_DIR_CURSOR_HI }
     (slice b 32 16 ≠ slice s.uid 0 16 →
       exec (.cellarInit true 4096 (2 ^ 24) true dsm cache 0 [b] [] ext) s = .next ((v.setCelMode .foreign).showCellar)) ∧
     (slice b 32 16 = slice s.uid 0 16 →
       exec (.cellarInit true 4096 (2 ^ 24) true dsm cache 0 [b] [] ext) s = .next (v.recover ext))) ∧
   (∀ s : State, s.celMode = .noDrive → exec .cellarRetryTimer s = .next s) ∧
   (∀ s : State, s.celMode = .fault → ∃ t, exec .cellarRetryTimer s = .next t ∧ t.celMode = .init ∧
     t.get Flag.cellar_STATE_CHANGE.fld = 1 ∧ t = { s with regs := t.regs, faults := t.faults }) ∧
   (∀ s : State, s.cellar.drive.isSome = true →
     (s.driveError.cellar.timeouts = 0 → exec .nvmeTimeout s =
       .next ((s.driveError.modCellar fun c => { c with timeouts := 1 }).emit (.driveCommand 1 0))) ∧
     (s.driveError.cellar.timeouts ≠ 0 → exec .nvmeTimeout s = .next s.driveError.celFault)) ∧
   (∀ s : State, s.celMode = .ready → exec .rootPortLinkDown s = .next s.driveError.celFault))

/-- The result block of CELLAR (R340): FORMAT without a drive and an undefined command end with their STATUS and CMD_DONE; FORMAT
of a drive that needs a permission it lacks is refused; a READ_SEG of a segment held answers its bytes to the host, but not
without Bus Master Enable (12_host_control.md R345); RESCAN goes to INIT. RESULT_INFO reads 0 where a command has none (the
model's choice, log entry 118). An audio record (R321) and the directory cursor (R339): a span whose samples are in the delay
store is appended; a written cursor is where the directory port goes on. It rests in part on the model's own choices (log entry
37). -/
def Obligations.CellarCommands : Prop :=
  (∀ s : State, Answers s Reg.cellar_RESULT → s.done Reg.cellar_RESULT = true → let u := s.accept Reg.cellar_RESULT
     (∃ t, exec .cellarBadCommand s = .next t ∧ t.get R.cellar_RESULT_STATUS = 6 ∧ t.done Reg.cellar_RESULT = true ∧
       t.get R.cellar_RESULT_INFO = 0 ∧ t.get Flag.cellar_CMD_DONE.fld = 1 ∧
       OnlyRegs s t [Reg.cellar_RESULT, R.cellar_RESULT_INFO.addr, Flag.cellar_CMD_DONE.addr, Flag.cellar_CMD_DONE.counter.addr] ∧ t = { s with regs := t.regs }) ∧
     (∀ d, s.cellar.drive = some d → s.celMode = .foreign → s.strong.formatPermit = none →
       exec .cellarFormat s = .next (u.celComplete 5)) ∧
     (∀ d uuid d' v, u.cellar.drive = some d → u.celMode = .blank → u.entropyOk = true → u.draw 16 = (uuid, v) → v.formatDrive d uuid = some d' →
       let a := v.modStrong fun x => { x with formatPermit := none }
       let b := a.each a.entryNums fun s n => s.modEntry n fun e => { e with mode := 0, seg := none, ended := [], lastSeq := none }
       let c := b.modCellar fun c =>
         { c with drive := some d', dir := [], closing := [], nvme := [], fresh := [], dirPos := 0,
                  ring := c.ring.filter fun r => r.st == 0 }
       exec .cellarFormat s = .next (((c.writeSuperblock.setCelMode .init).celComplete 0).showCellar).engineNext) ∧
     (∀ g b w data, u.celMode = .ready → u.on R.hostif_LINK_BME = true →
       u.cellar.dir.find? (fun x => x.1 == u.get R.cellar_ARG_GSEQ_LO + 2 ^ 32 * u.get R.cellar_ARG_GSEQ_HI &&
         (dirState x.2.1 == 1 || dirState x.2.1 == 2)) = some (g, b, w) → leAt b 24 4 ≤ u.get R.cellar_ARG_LEN →
       let a := (u.get R.cellar_ARG_ADDR_LO + 2 ^ 32 * u.get R.cellar_ARG_ADDR_HI) / 4096 * 4096
       exec (.cellarReadSeg true data) s =
         .next (((u.unitUse 22 u.fabric.now.single.cellarClass (leAt b 24 4 * 4096)).emit
           (.hostWrite a (slice data 0 (leAt b 24 4 * 4096)))).celComplete 0 (leAt b 24 4))) ∧
     (∀ g b w ok data, u.celMode = .ready → u.on R.hostif_LINK_BME = false →
       u.cellar.dir.find? (fun x => x.1 == u.get R.cellar_ARG_GSEQ_LO + 2 ^ 32 * u.get R.cellar_ARG_GSEQ_HI &&
         (dirState x.2.1 == 1 || dirState x.2.1 == 2)) = some (g, b, w) → leAt b 24 4 ≤ u.get R.cellar_ARG_LEN →
       exec (.cellarReadSeg ok data) s = .next (u.celComplete 3)) ∧
     (s.celMode = .blank → ∃ t, exec .cellarRescan s = .next t ∧ t.celMode = .init ∧ t.get R.cellar_RESULT_STATUS = 0 ∧
       t.get Flag.cellar_STATE_CHANGE.fld = 1)) ∧
  ((∀ (s : State) (n : Fin 256), s.entryOn n = false → (s.celEntry n).ended = [] → exec (.cellarAudioRecord n) s = .next s) ∧
   (∀ (s : State) (n : Fin 256), let e := s.celEntry n
     let m := s.nextSpan n
     getBits (s.entryAudio n) 31 27 ≠ 0 → s.entryOn n = true → e.suspended = false → e.mode ≠ 0 → n.val < s.maxEntries →
     s.audioOn = true → 960 * (m + 1) + 96 ≤ s.audio.k → s.inCount = 0 →
     let count := min 16 (getBits (s.entryAudio n) 31 27)
     let p := leBytes 8 (960 * m) ++ leBytes 1 count ++ leBytes 1 0 ++ leBytes 2 960 ++ leBytes 2 (min (960 * count) 0xFFFF) ++ leBytes 2 0
       ++ List.replicate (3 * 960 * count) 0
     let u := s.modEntry n fun e => { e with nextSpan := some (m + 1) }
     exec (.cellarAudioRecord n) s =
       .next (u.appendRecord (u.newRecord n 2 p (u.spanFrame m))).showCellar) ∧
   (∀ (s : State) (v : BitVec 32), Answers s Reg.cellar_DIR_CURSOR_LO →
     (∃ t, exec (.dirCursorWrite false v) s = .next t ∧ t.rd Reg.cellar_DIR_CURSOR_LO = v ∧
       t.cellar.dirPos = v.toNat + 2 ^ 32 * s.get R.cellar_DIR_CURSOR_HI ∧ OnlyRegs s t [Reg.cellar_DIR_CURSOR_LO] ∧
       t = { s with regs := t.regs, cellar := { s.cellar with dirPos := t.cellar.dirPos } }) ∧
     (∃ t, exec (.dirCursorWrite true v) s = .next t ∧ t.rd Reg.cellar_DIR_CURSOR_HI = v ∧
       t.cellar.dirPos = s.get R.cellar_DIR_CURSOR_LO + 2 ^ 32 * v.toNat ∧ OnlyRegs s t [Reg.cellar_DIR_CURSOR_HI] ∧
       t = { s with regs := t.regs, cellar := { s.cellar with dirPos := t.cellar.dirPos } })))

/-- A write of one register by its fields' access types (R7, R8, R12): with no vector to arm again, INT_EN of RULING takes the
enabled bits, INT_STATUS loses the bits written 1, STATUS keeps its value, and an event counter is lowered by what is written, not
below 0, and of bytes that are not enabled none changes; no other register changes. A write of a register with fields of other
kinds is the word its row makes of it. Writes that no register takes (02_fabric_image.md R84; R357): a block that does not answer
ignores them; one in a quiesced cluster drops them and counts each in WINDOW_DROP. It rests in part on the model's own choices
(log entries 9, 70). -/
def Obligations.RegisterWrites : Prop :=
  ((∀ (s : State) (a : BitVec 22) (v : BitVec 32) (be : BitVec 4) (h : RegHit), Answers s a.toNat → regLookup a.toNat = some h →
     exec (.registerWrite a v be) s =
       .next ((s.wr h.addr (h.row.write plainAccess h.mirror v (byteMask be) (s.rd h.addr))).afterWrite h.addr (s.rd h.addr)).rearm) ∧
   (∀ (s : State) (v : BitVec 32) (be : BitVec 4), (∀ i, i < 256 → s.on (R.hostif_VEC_CFG_AUTO_REARM i) = false) →
     (Answers s Reg.ruling_INT_EN → ∃ t, exec (.registerWrite 0x10054 v be) s = .next t ∧
       t.rd Reg.ruling_INT_EN = (s.rd Reg.ruling_INT_EN &&& ~~~(byteMask be &&& 0x7FFF)) ||| (v &&& byteMask be &&& 0x7FFF) ∧
       OnlyRegs s t [Reg.ruling_INT_EN] ∧ t = { s with regs := t.regs }) ∧
     (Answers s Reg.ruling_INT_STATUS → ∃ t, exec (.registerWrite 0x10050 v be) s = .next t ∧
       t.rd Reg.ruling_INT_STATUS = s.rd Reg.ruling_INT_STATUS &&& ~~~(v &&& byteMask be &&& 0x7FFF) ∧
       OnlyRegs s t [Reg.ruling_INT_STATUS] ∧ t = { s with regs := t.regs }) ∧
     (Answers s Reg.ruling_STATUS → ∃ t, exec (.registerWrite 0x10030 v be) s = .next t ∧ OnlyRegs s t [] ∧ t = { s with regs := t.regs }) ∧
     (Answers s 0x10058 → ∃ t, exec (.eventCounterWrite 0x10058 v be) s = .next t ∧
       (be = 15 → t.get ⟨0x10058, 15, 0⟩ = s.get ⟨0x10058, 15, 0⟩ - getBits v 15 0 ∧
         t.get ⟨0x10058, 31, 16⟩ = s.get ⟨0x10058, 31, 16⟩ - getBits v 31 16) ∧
       t.rd 0x10058 &&& ~~~byteMask be = s.rd 0x10058 &&& ~~~byteMask be ∧
       OnlyRegs s t [0x10058] ∧ t = { s with regs := t.regs }))) ∧
  (∀ (s : State) (a : BitVec 22) (v : BitVec 32) (be : BitVec 4),
     ((s.clusterOfAddr a.toNat).any s.quiesced = false → s.regLive a.toNat = false →
       exec (.registerWrite a v be) s = .next s ∧ exec (.eventCounterWrite a v be) s = .next s) ∧
     ((s.clusterOfAddr a.toNat).any s.quiesced = true →
       exec (.registerWrite a v be) s = .next (s.bump R.fabric_WINDOW_DROP) ∧
       exec (.eventCounterWrite a v be) s = .next (s.bump R.fabric_WINDOW_DROP)))

/-- Read-pop ports (R18, R19): a read of a port's RX_HDR takes the oldest entry of the mailbox, shows its OPCODE, VC, KIND and
LENGTH with VALID 1 and returns that word; on an empty mailbox it returns VALID 0. Requests of the host to BAR0 (R343, R355): an
address no block decodes ends in Unsupported Request, read or dropped; an aligned word reads and writes one register, traced. The
interconnect (R353 to R357, R505): the management core writes and reads its SRAM word by word; a transaction that no target
decodes, like one that times out, is counted, raises ICX_ERR, is recorded if no record stands, and answers an error. It rests in
part on the model's own choices (log entries 47, 68, 96). -/
def Obligations.BusAccesses : Prop :=
  (∀ (s : State) (n : Fin 96), s.regLive (Reg.port_RX_HDR n) = true →
     ((s.port n).mailbox = [] → ∃ t, exec (.readPop (BitVec.ofNat 22 (Reg.port_RX_HDR n))) s = .next t ∧ t.out = s.out ++ [.readData 0] ∧
       t.rd (Reg.port_RX_HDR n) = 0 ∧ t = { s with regs := t.regs, out := t.out }) ∧
     (∀ e rest, (s.port n).mailbox = e :: rest → e.data.length ≤ 64 →
       ∃ t w, exec (.readPop (BitVec.ofNat 22 (Reg.port_RX_HDR n))) s = .next t ∧ t.out = s.out ++ [.readData w] ∧
         (t.port n).mailbox = rest ∧ getBits w 31 31 = 1 ∧ getBits w 23 16 = e.opcode % 256 ∧ getBits w 15 12 = e.vc % 16 ∧
         getBits w 11 8 = e.kind % 16 ∧ getBits w 6 0 = e.data.length ∧ t.rd (Reg.port_RX_HDR n) = w ∧
         t = { s with regs := t.regs, ports := t.ports, out := t.out })) ∧
  (∀ (s : State) (a : BitVec 22) (mo : Moment), s.domainOn 7 = true →
     (bar0Decodes a.toNat = false → ∀ len data, exec (.bar0Request false a len data mo) s = .next (s.emit (.completion 1 [])) ∧
       exec (.bar0Request true a len data mo) s = .next s) ∧
     (bar0Decodes a.toNat = true → a.toNat % 4 = 0 →
       (let u := s.traced ⟨.host, false, 0x40000000 + a.toNat, 1, false⟩
        exec (.bar0Request false a 4 [] mo) s =
         .next ((u.busRead a.toNat).2.emit (.completion 0 (wordBytes (u.busRead a.toNat).1)))) ∧
       (∀ b0 b1 b2 b3, let u := s.traced ⟨.host, true, 0x40000000 + a.toNat, 1, false⟩
        exec (.bar0Request true a 4 [b0, b1, b2, b3] mo) s = .next (u.busWrite .host mo a.toNat (b3 ++ b2 ++ b1 ++ b0) (BitVec.allOnes 32))))) ∧
  ((∀ (s : State) (o : Nat) (v : BitVec 32) (mo : Moment), s.domainOn 2 = true → s.domainOn 60 = false → o < 0x800000 → o % 4 = 0 →
     (∃ t, exec (.icxTransaction .core true (BitVec.ofNat 32 (0x10000000 + o)) 1 [v] mo) s = .next t ∧
       (∀ i, i < 4 → Sparse.get (fun _ => 0#8) t.sram (o + i) = v.extractLsb' (8 * i) 8) ∧
       (∀ a, a < o ∨ o + 4 ≤ a → Sparse.get (fun _ => 0#8) t.sram a = Sparse.get (fun _ => 0#8) s.sram a) ∧
       t.out = s.out ++ [.icx .core false []] ∧ t = { s with sram := t.sram, out := t.out }) ∧
     (∃ t w, exec (.icxTransaction .core false (BitVec.ofNat 32 (0x10000000 + o)) 1 [] mo) s = .next t ∧
       t.out = s.out ++ [.icx .core false [w]] ∧
       (∀ i, i < 4 → w.extractLsb' (8 * i) 8 = Sparse.get (fun _ => 0#8) s.sram (o + i)) ∧ t = { s with out := t.out })) ∧
   (∀ (s : State) (m : Master) (a : BitVec 32) (mo : Moment), s.domainOn 2 = true → s.domainOn 60 = false →
     icxTarget (a.toNat / 4 * 4) = none →
     exec (.icxTransaction m false a 1 [] mo) s = .next ((s.icxError m false false a.toNat).icxAnswerError m false 1)) ∧
   (∀ (s : State) (m : Master) (write : Bool) (a : BitVec 32), ∃ t, exec (.icxTimeout m write a) s = .next t ∧
     t.get Flag.hostif_ICX_ERR.fld = 1 ∧ t.get icxErrCnt = min (s.get icxErrCnt + 1) (2 ^ 32 - 1) ∧
     t.get R.hostif_ICX_ERR_VALID = 1 ∧
     (s.on R.hostif_ICX_ERR_VALID = false → t.get R.hostif_ICX_ERR_TIMEOUT = 1 ∧ t.get R.hostif_ICX_ERR_MASTER = Master.code m ∧
       t.get R.hostif_ICX_ERR_WRITE = (if write then 1 else 0) ∧ t.rd Reg.hostif_ICX_ERR_ADDR = a) ∧
     (s.on R.hostif_ICX_ERR_VALID = true → t.rd Reg.hostif_ICX_ERR = s.rd Reg.hostif_ICX_ERR) ∧
     t.out = s.out ++ (match m with
       | .host => if write then [] else [.completion 4 []]
       | _ => [.icx m true (if write then [] else [0])]) ∧ t = { s with regs := t.regs, out := t.out }))

/-- MSI-X vectors (R345 to R348): an armed vector whose condition holds is disarmed and signals, by its message or in the PBA
where it is masked; an EOI and a mask write set one bit; a holdoff ends. The endpoint (R341, R342, R347, R352, R506):
configuration writes and a link that comes up show in LINK; a BAR2 size waits while Memory Space Enable is 1; a function reset
keeps RESETS, counts in it, returns the rest of HOSTIF to reset and forgets its holdoffs; CLR_CNT zeroes the interconnect's
counts. It rests in part on the model's own choices (log entries 55, 56). -/
def Obligations.HostEndpoint : Prop :=
  ((∀ (s : State) (v : Fin 256), s.vectorCond v = true → s.on (R.hostif_VEC_CFG_ARMED v) = true → s.host.holdoff.contains v.val = false →
     s.get (R.hostif_VEC_CFG_HOLDOFF_US v) = 0 →
     (s.vectorMasked v = true → ∃ t, exec (.msixSignal v) s = .next t ∧ t.on (R.hostif_VEC_CFG_ARMED v) = false ∧ t.on (pbaFld v) = true ∧
       t.out = s.out ∧ OnlyRegs s t [Reg.hostif_VEC_CFG v, Reg.hostif_MSIX_PBA (v / 32)] ∧ t = { s with regs := t.regs }) ∧
     (s.vectorMasked v = false → ∃ t, exec (.msixSignal v) s = .next t ∧ t.on (R.hostif_VEC_CFG_ARMED v) = false ∧
       t.out = s.out ++ [.msix ((s.rd (Reg.hostif_MSIX_ADDR_LO v)).toNat + 2 ^ 32 * (s.rd (Reg.hostif_MSIX_ADDR_HI v)).toNat)
         (s.rd (Reg.hostif_MSIX_DATA v))] ∧
       OnlyRegs s t [Reg.hostif_VEC_CFG v] ∧ t = { s with regs := t.regs, out := t.out })) ∧
   (∀ (s : State) (v : Fin 256), ∃ t, exec (.vectorHoldoffEnd v) s = .next t ∧ t.host.holdoff.contains v.val = false ∧
     (∀ u, u ≠ v.val → (t.host.holdoff.contains u = s.host.holdoff.contains u)) ∧
     t = { s with host := { s.host with holdoff := t.host.holdoff } }) ∧
   (∀ (s : State) (v : BitVec 8), Answers s Reg.hostif_VEC_EOI → ∃ t, exec (.vecEoiWrite v) s = .next t ∧
     t.on (R.hostif_VEC_CFG_ARMED v.toNat) = true ∧ OnlyRegs s t [Reg.hostif_VEC_CFG v.toNat] ∧ t = { s with regs := t.regs }) ∧
   (∀ (s : State) (v : Fin 256), Answers s (Reg.hostif_MSIX_VCTRL v) → (∀ u, u < 256 → s.on (pbaFld u) = false) →
     ∀ mask, ∃ t, exec (.msixVectorMaskWrite v mask) s = .next t ∧ t.on (R.hostif_MSIX_VCTRL_MASK v) = mask ∧
       OnlyRegs s t [Reg.hostif_MSIX_VCTRL v] ∧ t = { s with regs := t.regs })) ∧
  ((∀ s : State, (∀ u, u < 256 → s.on (pbaFld u) = false) →
     (∀ b, ∃ t, exec (.configurationRequest (.busMaster b)) s = .next t ∧ t.on R.hostif_LINK_BME = b ∧
       OnlyRegs s t [Reg.hostif_LINK] ∧ t = { s with regs := t.regs }) ∧
     (∀ b, ∃ t, exec (.configurationRequest (.msixEnable b)) s = .next t ∧ t.on R.hostif_LINK_MSIX_EN = b ∧
       OnlyRegs s t [Reg.hostif_LINK] ∧ t = { s with regs := t.regs }) ∧
     (∀ b, exec (.configurationRequest (.functionMask b)) s = .next { s with host := { s.host with functionMask := b } }) ∧
     (∀ n, s.host.memorySpace = false → ∃ t, exec (.configurationRequest (.barSize n)) s = .next t ∧
       t.get R.hostif_BAR2_LOG2 = 26 + n.val ∧ OnlyRegs s t [Reg.hostif_BAR2_LOG2]) ∧
     (∀ n, s.host.memorySpace = true → exec (.configurationRequest (.barSize n)) s =
       .next { s with host := { s.host with barPend := some (26 + n.val) } })) ∧
   (∀ (s : State) (g : Fin 5) (w : Fin 4), ∃ t, exec (.endpointLinkUp g w) s = .next t ∧ t.get R.hostif_LINK_GEN = g.val + 1 ∧
     t.get R.hostif_LINK_WIDTH = 2 ^ w.val ∧ t.power.wakeN = false ∧ OnlyRegs s t [Reg.hostif_LINK] ∧
     t = { s with regs := t.regs, power := { s.power with wakeN := false } }) ∧
   (∀ (s : State) (k : Fin 4), ∃ t, exec (.functionReset k false) s = .next t ∧ t.host = {} ∧
     t.get R.hostif_RESETS_FLR = (if k.val = 0 then min (s.get R.hostif_RESETS_FLR + 1) 0xFFFF else s.get R.hostif_RESETS_FLR) ∧
     t.get R.hostif_RESETS_HOT = (if k.val = 0 then s.get R.hostif_RESETS_HOT else min (s.get R.hostif_RESETS_HOT + 1) 0xFFFF) ∧
     (∀ c, c < 4 → t.get (R.hostif_DMA_STATUS_STATE c) = 0 ∧ t.get (R.hostif_DMA_HEAD c) = 0)) ∧
   (∀ (s : State) (hits : BitVec 2), Answers s Reg.hostif_CTRL → ∃ t, exec (.hostifClrCnt hits false) s = .next t ∧
     t.get icxErrCnt = (if hits.getLsbD 0 then 1 else 0) ∧ t.get R.hostif_BURST_RESCUES = (if hits.getLsbD 1 then 1 else 0) ∧
     t.rd Reg.hostif_ICX_ERR = 0 ∧ t.rd Reg.hostif_ICX_ERR_ADDR = 0 ∧
     OnlyRegs s t [icxErrCnt.addr, R.hostif_BURST_RESCUES.addr, Reg.hostif_ICX_ERR, Reg.hostif_ICX_ERR_ADDR] ∧
     t = { s with regs := t.regs }))

/-- The DMA channels (R349 to R351): a running channel executes a descriptor, whose completion writes its STATUS to the ring,
moves HEAD on and counts; a bad stream range ends in BAD_DESC and an address that is not a register in BAD_DESC too; a written
TAIL shows, and a reset stops the channel with HEAD and TAIL 0. It rests in part on the model's own choices (log entry 92). -/
def Obligations.DmaChannels : Prop :=
  (∀ (s : State) (c : Fin 4) (flags : BitVec 8) (status : Nat), let t := s.descDone c flags status
    t.get (R.hostif_DMA_HEAD c) = (s.get (R.hostif_DMA_HEAD c) + 1) % s.ringEntries c ∧
    t.get (R.hostif_DMA_DESCS c) = min (s.get (R.hostif_DMA_DESCS c) + 1) (2 ^ 32 - 1) ∧
    t.out = s.out ++ [.hostWrite (s.descStatus c) (leBytes 1 status)] ∧
    (flags.getLsbD 0 = true → t.get (Flag.hostif_DESC_DONE c).fld = 1)) ∧
  (∀ (s : State) (c : Fin 4) (flags : BitVec 8), s.dmaRuns c = true → s.on R.hostif_LINK_BME = true →
    exec (.dmaNop c flags true) s = .next (s.descDone c flags 1) ∧ exec (.dmaNop c flags false) s = .next (s.descFails c 2) ∧
    (∀ dst len data, descRange dst.toNat len.toNat = false → exec (.dmaH2s c dst len flags data) s = .next (s.descFails c 5)) ∧
    (∀ dst len bs, descRange dst.toNat len.toNat = true → s.memUp = true → s.someRefused true dst.toNat len.toNat = false →
      bs.length = len.toNat → exec (.dmaH2s c dst len flags (some bs)) s =
        .next (((s.useMem 22 3 len.toNat (reqTime len.toNat (Config.rowTime dst.toNat len.toNat))).memWrite 6 dst.toNat bs).descDone
          c flags 1)) ∧
    (∀ src dst len, descRange src.toNat len.toNat = true → s.memUp = true → s.someRefused false src.toNat len.toNat = false →
      let r := (s.useMem 22 3 len.toNat (reqTime len.toNat (Config.rowTime src.toNat len.toNat))).memRead 6 src.toNat len.toNat
      exec (.dmaS2h c src dst len flags true) s =
        .next ((r.2.emit (.hostWrite dst.toNat (r.1.map (·.1)))).descDone c flags (if r.1.any (·.2) then 4 else 1))) ∧
    (∀ dst value mo, dst.toNat % 4 ≠ 0 → exec (.dmaRegWrite c dst value flags true mo) s = .next (s.descFails c 5)) ∧
    (∀ dst value mo, dst.toNat % 4 = 0 → bar0Decodes dst.toNat = true → exec (.dmaRegWrite c dst value flags true mo) s =
      .next (((s.traced ⟨.host, true, 0x40000000 + dst.toNat, 1, false⟩).busWrite .host mo dst.toNat value (BitVec.allOnes 32)).descDone
        c flags 1))) ∧
  (∀ (s : State) (c : Fin 4) (tail : BitVec 13), Answers s (Reg.hostif_DMA_TAIL c) → ∃ t, exec (.dmaTailWrite c tail) s = .next t ∧
    t.get (R.hostif_DMA_TAIL c) = tail.toNat ∧ t.get (R.hostif_DMA_HEAD c) = s.get (R.hostif_DMA_HEAD c) ∧
    OnlyRegs s t [Reg.hostif_DMA_TAIL c, Reg.hostif_DMA_STATUS c] ∧ t = { s with regs := t.regs }) ∧
  (∀ (s : State) (c : Fin 4), Answers s (Reg.hostif_DMA_CTRL c) → ∃ t, exec (.dmaReset c) s = .next t ∧
    t.get (R.hostif_DMA_HEAD c) = 0 ∧ t.get (R.hostif_DMA_TAIL c) = 0 ∧ t.get (R.hostif_DMA_STATUS_STATE c) = 0 ∧
    OnlyRegs s t [Reg.hostif_DMA_HEAD c, Reg.hostif_DMA_TAIL c, Reg.hostif_DMA_STATUS c] ∧ t = { s with regs := t.regs })

/-- The test access port (R400, R404, R405): while only VBAT is there it answers nothing; else each instruction is selected and
captures what its table row says. IDCODE reads 00C9609Bh. A relock and an expiry end the session, a burst that the debug port held
being completed and counted (12_host_control.md R358); TRST_N selects IDCODE (IEEE 1149.1, the model's choice). It rests in part
on the model's own choices (log entries 46, 95). -/
def Obligations.TestAccessPort : Prop :=
  ∀ s : State,
    (s.tapDead = true → ∀ x y b, ∀ c ∈ [Instr.tapExtest x, .tapIdcode, .tapSamplePreload x y, .tapBypass x, .tapReset, .dbgChallenge,
      .dbgStatus, .dbgRelock b], exec c s = .next s) ∧
    (s.tapDead = false →
      let ir (v : BitVec 8) (extest : Bool) := { s.strong with tapIr := v, extest := extest }
      exec .tapIdcode s = .next { s with strong := ir 1 false, out := s.out ++ [.tap ((List.range 32).map (0x00C9609B#32).getLsbD)] } ∧
      exec .tapReset s = .next { s with strong := ir 1 false } ∧
      (∀ x, exec (.tapBypass x) s = .next { s with strong := ir 0xFF false, out := s.out ++ [.tap (false :: x.dropLast)] } ∧
        exec (.tapExtest x) s =
          .next { s with strong := { ir 0 true with boundary := x }, out := s.out ++ [.tap s.strong.boundary] } ∧
        ∀ pins, exec (.tapSamplePreload pins x) s =
          .next { s with strong := { ir 2 false with boundary := x }, out := s.out ++ [.tap pins] }) ∧
      (s.noSession = false → s.debugLevel < 4 → s.strong.tokenResult < 8 → ∃ bits, exec .dbgStatus s =
        .next { s with strong := ir 0x22 false, out := s.out ++ [.tap bits] } ∧ bits.length = 32 ∧
        (∀ i, i < 2 → bits.getD i false = s.debugLevel.testBit i) ∧
        (∀ i, i < 3 → bits.getD (8 + i) false = s.strong.tokenResult.testBit i)) ∧
      (s.noSession = false → s.entropyOk = true →
        let n := (List.range 48).map (Config.entropy s.freeCount)
        exec .dbgChallenge s = .next { s with
          freeCount := s.freeCount + 1
          strong := { ir 0x20 false with nonce := some (n, s.strong.lifeClock) }
          out := s.out ++ [.tap (bitsOfBytes (n ++ s.uid))] }) ∧
      (∀ burst, (s.strong.debug = 1 ∨ s.strong.debug = 2) → exec (.dbgRelock burst) s = .next
        (if burst then State.burstRescue { s with strong := ir 0x24 false } else { s with strong := ir 0x24 false }).endSession) ∧
      (∀ burst, s.strong.debug ≠ 1 → s.strong.debug ≠ 2 →
        exec (.dbgRelock burst) s = .next { s with strong := ir 0x24 false })) ∧
    (∀ burst, (s.strong.debug = 1 ∨ s.strong.debug = 2) →
      exec (.debugSessionExpiry burst) s = .next (if burst then s.burstRescue else s).endSession) ∧
    (∀ burst, s.strong.debug ≠ 1 → s.strong.debug ≠ 2 → exec (.debugSessionExpiry burst) s = .next s)

/-- Debug sessions (R401 to R404): a token that passes its checks opens its level, with the trace cleared; one that fails opens
nothing and only its result and the nonce change; the end of VIEW is CLOSED and that of FULL is FULL_ENDED, and with no session
there is nothing to end. DBG_ACCESS (13_strongroom.md R400, R405; R20): outside VIEW and FULL an access is refused by level with
nothing read or written; in VIEW a register outside the Strongroom's is read without popping anything, and no write is made; a
dead port answers nothing. It rests in part on the model's own choices (log entries 43, 45, 95). -/
def Obligations.DebugSessions : Prop :=
  ((∀ (s : State) (token : List (BitVec 8)), s.tapDead = false →
     let u := s.setIr 0x21
     (∀ c, u.tokenCheck token = c → c ≠ 1 → exec (.dbgToken token) s =
       .next (u.modStrong fun x => { x with tokenResult := c, nonce := if c = 6 then none else x.nonce, extest := false })) ∧
     (u.tokenCheck token = 1 → ∃ t, exec (.dbgToken token) s = .next t ∧ t.strong.debug = leAt token 5 1 ∧ t.trace = [] ∧
       t.strong.sessionEnd = s.strong.lifeClock + leAt token 80 4 ∧ t.strong.tokenResult = 1 ∧ t.strong.nonce = none ∧
       (t.rd R.strongroom_DEBUG_REMAIN.addr).toNat = leAt token 80 4 ∧ t.get Flag.strongroom_DEBUG_CHANGE.fld = 1 ∧
       t.strong.root = s.strong.root ∧ t.strong.bank = s.strong.bank ∧ t.strong.fuses = s.strong.fuses)) ∧
   (∀ s : State, (s.strong.debug = 1 → ∃ t, s.endSession = t ∧ t.strong.debug = 0 ∧ (t.rd R.strongroom_DEBUG_REMAIN.addr).toNat = 0 ∧
       t.get Flag.strongroom_DEBUG_CHANGE.fld = 1 ∧ t.strong.fuses = s.strong.fuses) ∧
     (s.strong.debug = 2 → s.endSession.strong.debug = 3 ∧ s.endSession.testRoot = true) ∧
     (s.strong.debug ≠ 1 → s.strong.debug ≠ 2 → s.endSession = s))) ∧
  (∀ (s : State) (shift : BitVec 68) (mo : Moment),
     (s.tapDead = true → exec (.dbgAccess shift mo) s = .next s) ∧
     (s.tapDead = false → s.noSession = false → shift.getLsbD 65 = true → s.debugLevel ≠ 1 → s.debugLevel ≠ 2 →
       ∃ t, exec (.dbgAccess shift mo) s = .next t ∧ t.strong.dbgReg = dbgResult shift (shift.extractLsb' 0 32) 1 ∧
         t.strong.tapIr = 0x23 ∧ t.regs = s.regs ∧ t.mem = s.mem ∧ t.sram = s.sram ∧
         t.out = s.out ++ [.tap ((List.range 68).map s.strong.dbgReg.getLsbD)] ∧
         t = { s with strong := t.strong, out := t.out }) ∧
     (s.tapDead = false → s.noSession = false → shift.getLsbD 65 = true → s.debugLevel = 1 → s.domainOn 60 = false →
       shift.getLsbD 64 = false → ∀ o, o < 0x1D0000 → bar0Decodes o = true → o % 4 = 0 →
       (shift.extractLsb' 32 32).toNat = 0x40000000 + o →
       ∃ t, exec (.dbgAccess shift mo) s = .next t ∧ t.strong.dbgReg = dbgResult shift (s.peek o) 0 ∧ t.regs = s.regs ∧
         t = { s with strong := t.strong, out := t.out }) ∧
     (s.tapDead = false → s.noSession = false → shift.getLsbD 65 = true → s.debugLevel = 1 → shift.getLsbD 64 = true →
       ∀ t o, icxTarget ((shift.extractLsb' 32 32).toNat / 4 * 4) = some (t, o) →
       ∃ r, exec (.dbgAccess shift mo) s = .next r ∧ r.strong.dbgReg = dbgResult shift (shift.extractLsb' 0 32) 1 ∧
         r = { s with strong := r.strong, out := r.out }))

/-- Reads of a read-pop port made through the debug port (00_scope.md R20): at a level that reaches the registers, a read of any
word of the Blotter read port, the Cellar directory port or a port's receive mailbox answers that word of the holding window, and
no entry leaves its queue; with the trace off no register changes at all. -/
def Obligations.DebugReadsOfPorts : Prop :=
  ∀ (s : State) (shift : BitVec 68) (mo : Moment) (o : Nat), s.tapDead = false → s.noSession = false → shift.getLsbD 65 = true →
    shift.getLsbD 64 = false → debugReaches s.debugLevel false .registers o = true → s.regLive o = true →
    (shift.extractLsb' 32 32).toNat = 0x40000000 + o →
    (o = Reg.blotter_RD_HDR ∨ (∃ i, i < 8 ∧ o = Reg.blotter_RD_DATA i) ∨ o = Reg.cellar_DIR_HDR ∨ (∃ i, i < 32 ∧ o = Reg.cellar_DIR_DATA i) ∨
      (∃ n, n < 96 ∧ (o = Reg.port_RX_HDR n ∨ ∃ i, i < 16 ∧ o = Reg.port_RX_DATA n i))) →
    ∃ t, exec (.dbgAccess shift mo) s = .next t ∧ t.strong.dbgReg = dbgResult shift (s.rd o) 0 ∧
      t.ports = s.ports ∧ t.cellar = s.cellar ∧ t.blot = s.blot ∧ OnlyRegs s t [Reg.global_TRACE_LOST] ∧
      (s.domainOn 60 = false → t.regs = s.regs) ∧
      t = { s with regs := t.regs, strong := t.strong, out := t.out, trace := t.trace }

/-- How a command of the Strongroom ends (R382; 00_scope.md R14, R15): STATUS, DONE and the next SEQ, the data in RESULT_DATA with
their length in RESULT_INFO, CMD_DONE set; nothing but these registers changes. While DONE is 0 a command is ignored with
CMD_OVERRUN (R17), and one with no meaning ends in BAD_COMMAND. Host commands on keys and measurements (R377 to R382, R389, R397,
R399): EXTEND, RANDOM, DERIVE, GENERATE and INVALIDATE end at once; SIGN, HMAC, PUBKEY and ATTEST that are not refused wait for
engine 0. Engine 0's order (R380, R384): the running operation and a running footer signature keep it; a segment footer that
awaits its signature takes it before the host's operation; the host's operation then loads its slot, fails with the load's code,
or runs. The end of an operation on engine 0 (R381, R384, R399): its result, ORPHANED with its event where the slot's parent, an
ancestor or the root changed meanwhile, an attestation made and signed at that instant, and the engine's next work; and the
entropy source's retest (R389). It rests in part on the model's own choices (log entries 18, 44). -/
def Obligations.StrongroomCommands : Prop :=
  ((∀ (s : State) (st : Nat) (data : List Byte), st < 2 ^ 15 → data.length ≤ 832 →
     let t := s.strongDone st data
     t.get R.strongroom_RESULT_STATUS = st ∧ t.get R.strongroom_RESULT_DONE = 1 ∧
     t.get R.strongroom_RESULT_SEQ = (if s.get R.strongroom_RESULT_SEQ = 0xFFFF then 1 else s.get R.strongroom_RESULT_SEQ + 1) ∧
     t.get R.strongroom_RESULT_INFO = data.length ∧
     (t.getBytes (Reg.strongroom_RESULT_DATA 0) 208).take data.length = data ∧
     t.get Flag.strongroom_CMD_DONE.fld = 1 ∧ t = { s with regs := t.regs } ∧
     ∀ a, (a < Reg.strongroom_RESULT_DATA 0 ∨ Reg.strongroom_RESULT_DATA 207 < a) →
       a ∉ [Reg.strongroom_RESULT, Reg.strongroom_RESULT_INFO, Flag.strongroom_CMD_DONE.addr, Flag.strongroom_CMD_DONE.counter.addr] →
       t.rd a = s.rd a) ∧
   (∀ s : State, Answers s Reg.strongroom_RESULT →
     (s.done Reg.strongroom_RESULT = true →
       exec .strongroomBadCommand s = .next ((s.accept Reg.strongroom_RESULT).strongDone 20 [])) ∧
     (s.done Reg.strongroom_RESULT = false →
       ∀ c ∈ [Instr.strongroomBadCommand, .attest, .extend, .random, .derive, .generate, .invalidate, .sign, .hmac, .pubkey,
         .pairAdd true, .sealApply true], exec c s = .next (s.raise Flag.strongroom_CMD_OVERRUN)))) ∧
  (∀ s : State, Answers s Reg.strongroom_RESULT → s.done Reg.strongroom_RESULT = true →
     let u := s.accept Reg.strongroom_RESULT
     let n := u.argSlot
     let k := u.get R.strongroom_CMD_ARG_KIND
     let len := u.get R.strongroom_CMD_ARG_LEN
     let g := ((u.slot n).gen + 1) % 65536
     let fill (w : State) (x : KeySlot) : Result := .next ((w.fillSlot n x).saveGens.strongChanged.strongDone 0 [])
     let waits (w : EngineWait) : Result := .next (u.modStrong fun x => { x with waiting := some w }).engineNext
     (∀ i, 5 ≤ i → i ≤ 7 → u.get R.strongroom_CMD_ARG_MEAS = i → exec .extend s = .next ((u.extend i (u.cmdBuf 12)).strongDone 0 [])) ∧
     (1 ≤ len → len ≤ 768 → u.entropyOk = true → exec .random s =
       .next (u.drawn.strongDone 0 ((List.range len).map (Config.entropy u.freeCount)))) ∧
     (8 ≤ n → u.hostSlots = true → u.rootState ≠ 1 →
       (k ≠ 0 → u.get R.strongroom_CMD_ARG_PARENT = 63 → exec .derive s = fill u
         { valid := true, kind := k, parent := 63, parentGen := u.strong.rootGen, gen := g, label := u.cmdBuf 4,
           key := u.derivedKey u.rootBytes u.strong.rootGen k (u.cmdBuf 4) g n }) ∧
       (∀ p, k ≠ 0 → u.get R.strongroom_CMD_ARG_PARENT = p → 8 ≤ p → p ≤ 31 → u.loadFailure p = none → (u.slot p).kind = 3 →
         exec .derive s = fill u
           { valid := true, kind := k, parent := p, parentGen := (u.slot p).gen, gen := g, label := u.cmdBuf 4,
             key := u.derivedKey (slice (u.slot p).key 0 48) (u.slot p).gen k (u.cmdBuf 4) g n }) ∧
       (k = 2 → u.entropyOk = true → exec .generate s = fill u.drawn
         { valid := true, kind := 2, parent := 63, parentGen := u.strong.rootGen, gen := g, label := List.replicate 16 0,
           key := (List.range 48).map (Config.entropy u.freeCount) }) ∧
       exec .invalidate s = .next ((u.setBank (u.slotBank.replace n { gen := g })).saveGens.strongChanged.strongDone 0 []) ∧
       exec .sign s = waits ⟨.sign, n, u.cmdBuf 12⟩ ∧
       (len ≤ 768 → exec .hmac s = waits ⟨.hmac, n, (u.cmdBuf 192).take len⟩) ∧
       exec .pubkey s = waits ⟨.pubkey, n, []⟩) ∧
     (n = 0 → u.lifecycle ≠ .blank → u.lifecycle ≠ .scrapped → u.rootState ≠ 1 → exec .pubkey s = waits ⟨.pubkey, 0, []⟩) ∧
     (∀ c ∈ [Instr.derive, .generate, .invalidate, .sign, .hmac, .pubkey], 1 ≤ n → n < 8 → exec c s = .next (u.strongDone 20 [])) ∧
     (∀ c ∈ [Instr.invalidate, .sign, .pubkey], 8 ≤ n → (u.hostSlots = false ∨ u.rootState = 1) → exec c s = .next (u.strongDone 4 [])) ∧
     exec .attest s = if u.attestOk then waits ⟨.attest, 0, u.cmdBuf 12⟩ else .next (u.strongDone 4 [])) ∧
  (∀ v : State,
     ((v.strong.engine.isSome = true ∨ v.signing = true) → v.engineNext = v) ∧
     (v.strong.engine = none → v.signing = false → (∃ c ∈ v.cellar.closing, c.mode = none) → v.entropyOk = true → v.footerMode ≤ 1 →
       v.engineNext = v.loadFooter ∧ v.loadFooter.signing = true ∧ v.loadFooter.strong = v.strong) ∧
     (∀ w, v.strong.engine = none → v.cellar.closing = [] → v.strong.waiting = some w →
       let t := v.modStrong fun x => { x with waiting := none }
       let k := t.slot w.slot
       let runs (t : State) (r : List Byte) : State :=
         t.modStrong fun x => { x with engine := some ⟨w.kind, k.parent, t.parentGens k.parent, r⟩ }
       (∀ c, w.kind ≠ .attest → t.loadFailure w.slot = some c → v.engineNext = t.strongDone c []) ∧
       (w.kind ≠ .attest → t.loadFailure w.slot = none → k.kind ≠ (if w.kind = .hmac then 2 else 1) → v.engineNext = t.strongDone 20 []) ∧
       (w.kind = .sign → t.loadFailure w.slot = none → k.kind = 1 → t.entropyOk = true →
         v.engineNext = runs t.drawn (ecdsaSignHash (beNat k.key) t.drawScalar.1 w.input)) ∧
       (w.kind = .hmac → t.loadFailure w.slot = none → k.kind = 2 → v.engineNext = runs t (hmac384 (slice k.key 0 48) w.input)) ∧
       (w.kind = .pubkey → t.loadFailure w.slot = none → k.kind = 1 → v.engineNext = runs t (ecPubBytes (beNat k.key))) ∧
       (w.kind = .attest → t.identityOk = true → t.entropyOk = true → v.engineNext =
         t.modStrong fun x => { x with engine := some ⟨.attest, (t.slot w.slot).parent, t.parentGens (t.slot w.slot).parent, w.input⟩ }))) ∧
  ((∀ (s : State) (e : EngineOp), s.strong.engine = some e →
     let u := s.modStrong fun x => { x with engine := none }
     (e.kind ≠ .attest → u.parentGens e.parent = e.chain → u.rootState ≠ 1 →
       exec .strongroomOpComplete s = .next (u.strongDone 0 e.result).engineNext) ∧
     (e.kind ≠ .attest → (u.parentGens e.parent ≠ e.chain ∨ u.rootState = 1) →
       exec .strongroomOpComplete s = .next ((u.strongDone 1 e.result).raise Flag.strongroom_ORPHANED).engineNext) ∧
     (e.kind = .attest → exec .strongroomOpComplete s =
       let m := u.statement e.result
       .next (u.drawn.strongDone 0 (m ++ ecdsaSign u.drawn.identityKey u.drawScalar.1 m)).engineNext)) ∧
   (∀ s : State, s.strong.engine = none → exec .strongroomOpComplete s = .next s) ∧
   (∀ s : State, (∃ t, exec (.drbgHealthRetest true) s = .next t ∧ t.entropyOk = true ∧ t.faults.getLsbD 9 = false ∧
       OnlyRegs s t [R.strongroom_DRBG_STATUS_OK.addr] ∧ t = { s with regs := t.regs, faults := t.faults }) ∧
     (∃ t, exec (.drbgHealthRetest false) s = .next t ∧ t.entropyOk = false ∧ t.faults.getLsbD 9 = true ∧
       t.get Flag.strongroom_ENTROPY_FAIL.fld = 1 ∧ t = { s with regs := t.regs, faults := t.faults })))

/-- An owner command (R385 to R387) whose checks pass writes OWNER_SEQ and has its effect: the pairing list's five commands. An
entry's bytes and place are those of 03_rasyn_link.md R118, and the list takes a new tag (R388). The other owner commands (R370,
R371, R374, R386, R391, R395; 11_codecs_cellar.md R335) whose checks pass: protection is lifted, a format permit stands for 60 s,
a new root is made, the recording key rotates, an owner slot is programmed or revoked, TAMPER_CFG is set, and the lifecycle moves
on. An owner command turned away (R385 to R387, R390): the code of the first check that fails ends it, and so does STORE_FAIL
where the Attic store fails, with nothing else of its effect. It rests in part on the model's own choices (log entries 17, 39, 40,
41). -/
def Obligations.OwnerCommands : Prop :=
  (∀ s : State, Answers s Reg.strongroom_RESULT → s.done Reg.strongroom_RESULT = true →
     let u := s.accept Reg.strongroom_RESULT
     let b := u.cmdBuf 82
     let h := slice b 32 48
     let v := u.modStrong fun x => { x with ownerSeq := leAt b 8 4 }
     let done (w : State) : Result := .next (w.strongChanged.strongDone 0 [])
     (u.ownerCheck b 1 = none → u.listGood = true →
       (∀ i, u.pairFind h = some i → exec (.pairAdd true) s =
         done (v.setPair i (pairBytesOf h (leAt b 80 1) (leAt b 81 1) 1 (leAt (v.pairEntry i) 52 4)))) ∧
       (∀ i, u.pairFind h = none → (List.range 2048).find? (fun i => !pairValid (u.pairEntry i)) = some i → exec (.pairAdd true) s =
         done (v.setPair i (pairBytesOf h (leAt b 80 1) (leAt b 81 1) 1 (v.get R.blotter_OP_S))))) ∧
     (∀ i, u.ownerCheck b 2 = none → u.listGood = true → u.pairFind h = some i →
       exec (.pairRevoke true) s =
         done (v.setPair i ((v.pairEntry i).take 50 ++ [((v.pairEntry i).getD 50 0) ||| 2#8] ++ (v.pairEntry i).drop 51))) ∧
     (∀ i, u.ownerCheck b 3 = none → u.listGood = true → u.pairFind h = some i →
       exec (.pairRemove true) s = done (v.setPair i (List.replicate 64 0))) ∧
     (u.ownerCheck b 4 = none → u.loadFailure 1 = none → exec (.pairRekey true) s =
       if sha384 u.pairBytes = slice b 32 48 then done v.retag else .next (u.strongDone 15 [])) ∧
     (u.ownerCheck b 5 = none → u.loadFailure 1 = none → exec (.pairClear true) s =
       done ((v.each (List.range 2048) fun s i => s.storePage (4608 + i) (List.replicate 64 0)).retag))) ∧
  (∀ s : State, Answers s Reg.strongroom_RESULT → s.done Reg.strongroom_RESULT = true →
     let u := s.accept Reg.strongroom_RESULT
     let b := u.cmdBuf 82
     let key := hashField (slice b 32 48)
     let v := u.modStrong fun x => { x with ownerSeq := leAt b 8 4 }
     let done (w : State) : Result := .next (w.strongChanged.strongDone 0 [])
     (u.ownerCheck b 6 = none → exec (.unprotect true) s = done (v.unprotect (leAt b 32 8) (leAt b 40 8))) ∧
     (u.ownerCheck b 7 = none → exec (.cellarFormatPermit true) s =
       done (v.modStrong fun x => { x with formatPermit := some (slice b 32 16, v.get R.blotter_OP_S + 60) })) ∧
     (∀ pins : BitVec 2, (let u := u.modStrong fun x => { x with tamperPins := pins }
       u.ownerCheck b 8 = none → u.tamperActive = false → u.entropyOk = true → exec (.reroot true pins) s =
         done ((((((u.modStrong fun x => { x with ownerSeq := leAt b 8 4 }).newRoot).modStrong
           fun x => { x with tampered := false, zeroCause := 0 }).setFault 3 false).event 5 0)))) ∧
     (u.ownerCheck b 9 = none → u.rootState = 0 → exec (.rotateRec true) s =
       done (((v.deriveFromRoot 0 1 (asciiBytes "CELLAR-REC")).saveGens).event 0x0B 0)) ∧
     (∀ i, u.ownerCheck b 0x0A = none → u.ownerTarget key = some i → exec (.addOwnerKey true true) s =
       done (((v.programOwner key i).event 9 0).lifecycleChanged false)) ∧
     (u.ownerCheck b 0x0B = none → leAt b 32 1 ≤ 3 → [0, 1, 2, 3].filter u.ownerSlot ≠ [leAt b 32 1] →
       exec (.revokeOwnerKey true) s = done (((v.modFuses fun f =>
         { f with ownerRevoked := f.ownerRevoked ||| BitVec.ofNat 4 (2 ^ leAt b 32 1) }).event 0x0A (leAt b 32 1)).lifecycleChanged false)) ∧
     (u.ownerCheck b 0x0C = none → exec (.tamperCfg true) s =
       done ((v.modStrong fun x => { x with tamperCfg := BitVec.ofNat 32 (leAt b 32 4) &&& 0x1FCFC#32 }).event 0x0C 0)) ∧
     (∀ i, u.ownerCheck b 0x0D = none → u.entropyOk = true → u.ownerTarget key = some i →
       exec (.takeOwnership true true) s = done (((((((v.onReal State.newRoot).programOwner key i).nextLifecycle).modStrong
         fun x => { x with ownerSeq := 0 }).event 6 0).lifecycleChanged true))) ∧
     (u.ownerCheck b 0x0E = none → exec (.returnPart true) s =
       done ((((((v.zeroRoot 3).saveGens).raise Flag.strongroom_ROOT_CHANGE).modFuses
         fun f => { f with ownerRevoked := f.ownerRevoked ||| f.ownerProg }).nextLifecycle.event 7 0).lifecycleChanged true)) ∧
     (u.ownerCheck b 0x0F = none → exec (.scrap true) s =
       done (((((v.zeroRoot 4).saveGens).raise Flag.strongroom_ROOT_CHANGE).modFuses
         fun f => { f with lifecycle := BitVec.allOnes 16 }).event 8 0 |>.lifecycleChanged true))) ∧
  (∀ s : State, Answers s Reg.strongroom_RESULT → s.done Reg.strongroom_RESULT = true →
     let u := s.accept Reg.strongroom_RESULT
     let b := u.cmdBuf 82
     (∀ c ok, ∀ p ∈ [(Instr.pairAdd ok, 1), (.pairRevoke ok, 2), (.pairRemove ok, 3), (.pairRekey ok, 4), (.pairClear ok, 5),
         (.unprotect ok, 6), (.cellarFormatPermit ok, 7), (.rotateRec ok, 9), (.addOwnerKey ok true, 0x0A), (.revokeOwnerKey ok, 0x0B),
         (.tamperCfg ok, 0x0C), (.takeOwnership ok true, 0x0D), (.returnPart ok, 0x0E), (.scrap ok, 0x0F)],
       u.ownerCheck b p.2 = some c → exec p.1 s = .next (u.strongDone c [])) ∧
     (∀ p ∈ [(Instr.unprotect false, 6), (.cellarFormatPermit false, 7), (.tamperCfg false, 0x0C), (.returnPart false, 0x0E), (.scrap false, 0x0F)],
       u.ownerCheck b p.2 = none → exec p.1 s = .next (u.strongDone 21 [])))

/-- A tamper detection (R391 to R394): whatever the power state, the root and every slot of the battery-backed domain are zeroed,
the generations rise, TAMPERED is set and the detection is logged, the newest four kept; in RUN and QUIET TAMPER and ROOT_CHANGE
are raised and a debug session ends. A source that is not enabled does none of it; the stop of the life-clock crystal shows in
TAMPER_STATUS either way. -/
def Obligations.TamperDetections : Prop :=
  ∀ (s : State) (n : Fin 4) (bursts : BitVec 2),
    let c := s.strong.tamperCfg
    let u := if n.val = 3 then s.modStrong fun x => { x with lxoStopped := true } else s
    let on := (n.val = 1 ∧ c.getLsbD 7 = true) ∨ (n.val = 2 ∧ c.getLsbD 15 = true) ∨ (n.val = 3 ∧ c.getLsbD 16 = true)
    (¬ on → exec (.tamperDetect n bursts) s = .next u.showStrong) ∧
    (on → ∃ t, exec (.tamperDetect n bursts) s = .next t ∧ t.strong.lxoStopped = u.strong.lxoStopped ∧
      (s.tamperPower < 2 → t.get Flag.strongroom_TAMPER.fld = 1 ∧ t.get Flag.strongroom_ROOT_CHANGE.fld = 1 ∧
        t.strong.debug ≠ 1 ∧ t.strong.debug ≠ 2) ∧ t.strong.root = [] ∧ t.strong.zeroCause = 1 ∧ t.strong.tampered = true ∧
      t.strong.rootGen = (s.strong.rootGen + 1) % 2 ^ 32 ∧ t.strong.tamperCount = min 255 (s.strong.tamperCount + 1) ∧
      t.strong.bank = s.strong.bank.zeroed ∧
      (t.strong.tamperLog.map fun e => (e.lifeS, e.source)) = ((s.strong.lifeClock, n.val) ::
        s.strong.tamperLog.map fun e => (e.lifeS, e.source)).take 4 ∧ t.strong.fuses = s.strong.fuses)

/-- Seal commands (07_folio_commit_seal.md R222 to R225): one that passes its checks is stored with its CMD_SEQ, waits for the
Folio's switching point and is measured; one that fails a check ends with its code and SEAL_REFUSED for its Folio; a surface is
copied from host memory, under Bus Master Enable, or from the boot flash, read back and compared. It rests in part on the model's
own choices (log entries 18, 42). -/
def Obligations.SealCommands : Prop :=
  ∀ s : State, Answers s Reg.strongroom_RESULT → s.done Reg.strongroom_RESULT = true →
    let u := s.accept Reg.strongroom_RESULT
    let b := u.cmdBuf 82
    let f := leAt b 6 1
    let refused (c : Nat) (w : State) : Result :=
      .next ((w.raiseIf (w.fabric.now.folios.any fun r => r.folio == f) (Flag.folio_SEAL_SEAL_REFUSED f)).strongDone c [])
    let stored := u.setSealStore f { u.sealStore f with seq := leAt b 8 4, apply := b.take 128 }
    (u.sealCheck b 1 = none → leAt b 5 1 = 1 → exec (.sealApply true) s =
      .next (((stored.modFolio f fun x => { x with sealDue := some (b.take 128) }).extend 3 (sha384 (b.take 128))).strongDone 0 [])) ∧
    (u.sealCheck b 3 = none → leAt b 5 1 = 3 → exec (.sealClear true) s =
      .next (((stored.modFolio f fun x => { x with sealDue := some (List.replicate 128 0) }).extend 3 (sha384 (b.take 128))).strongDone 0 [])) ∧
    (∀ c ok, ∀ p ∈ [(Instr.sealApply ok, 1), (.sealLoadSurface none ok, 2), (.sealLoadSurface (some []) ok, 2), (.sealClear ok, 3)],
      u.sealCheck b p.2 = some c → exec p.1 s = refused c u) ∧
    (u.sealCheck b 1 = none → exec (.sealApply false) s = refused 21 u) ∧
    (∀ data, u.sealCheck b 2 = none → leAt b 44 1 ≠ 1 → (data = none ∨ u.on R.hostif_LINK_BME = false) →
      exec (.sealLoadSurface data true) s = refused 11 u) ∧
    (∀ r d data, u.sealCheck b 2 = none → u.sealRec f = some r →
      (leAt b 44 1 = 1 ∧ d = (List.range (leAt b 56 4)).map (fun i => u.flashByte (leAt b 48 8 + i)) ∨
        leAt b 44 1 ≠ 1 ∧ u.on R.hostif_LINK_BME = true ∧ data = some d) →
      let w := (u.loadSurface f r b d).2
      let x := w.sealStore f
      ((u.loadSurface f r b d).1 = true → exec (.sealLoadSurface data true) s =
        let loads := Sparse.insert (Sparse.erase x.loads (leAt b 32 1)) (leAt b 32 1) (b.take 128)
        .next (((w.setSealStore f { x with seq := leAt b 8 4, loads := loads }).extend 3 (sha384 (b.take 128))).strongDone 1 [])) ∧
      ((u.loadSurface f r b d).1 = false → exec (.sealLoadSurface data true) s = refused 12 w))

/-- The boot flash (R361): a command within its limits starts; one outside them or on protected blocks ends at once; a READ fills
the buffer, a PROGRAM clears bits (NOR flash, the model's choice, log entry 61), an ERASE_4K sets its aligned block to FFh. It
rests in part on the model's own choices (log entries 54, 59, 60, 61). -/
def Obligations.FlashCommands : Prop :=
  (∀ (s : State) (a : BitVec 28), Answers s Reg.sysif_FLASH_CMD → Answers s Reg.sysif_FLASH_RESULT → s.done Reg.sysif_FLASH_RESULT = true →
    let n := s.get R.sysif_FLASH_LEN
    let buf := slice (s.getBytes (Reg.sysif_FLASH_BUF 0) 64) 0 n
    let starts (op : Nat) (r : Result) : Prop := ∃ t, r = .next t ∧ t.get R.sysif_FLASH_RESULT_DONE = 0 ∧
      t.sysif.flashOp = some (op, a.toNat, n, buf) ∧ OnlyRegs s t [Reg.sysif_FLASH_RESULT] ∧ t = { s with regs := t.regs, sysif := t.sysif }
    let ends (st : Nat) (r : Result) : Prop := ∃ t, r = .next t ∧ t.get R.sysif_FLASH_RESULT_STATUS = st ∧
      t.get R.sysif_FLASH_RESULT_DONE = 1 ∧ t.get Flag.sysif_FLASH_DONE.fld = 1 ∧ t = { s with regs := t.regs }
    let free := s.on R.sysif_FLASH_CFG_WP_64K = false ∨ 131072 ≤ a.toNat
    (1 ≤ n → n ≤ 256 → starts 1 (exec (.flashRead a) s)) ∧
    (1 ≤ n → a.toNat % 256 + n ≤ 256 → free → starts 2 (exec (.flashProgram a) s)) ∧
    (free → starts 3 (exec (.flashErase4k a) s)) ∧
    (n = 0 ∨ 256 < n → ends 3 (exec (.flashRead a) s)) ∧
    (n = 0 ∨ 256 < a.toNat % 256 + n → ends 3 (exec (.flashProgram a) s)) ∧
    (1 ≤ n → a.toNat % 256 + n ≤ 256 → ¬ free → ends 1 (exec (.flashProgram a) s)) ∧
    (¬ free → ends 1 (exec (.flashErase4k a) s))) ∧
  (∀ (s : State) (op a n : Nat) (data : List Byte), s.sysif.flashOp = some (op, a, n, data) →
    let ended (t : State) : Prop := t.get R.sysif_FLASH_RESULT_STATUS = 0 ∧ t.get R.sysif_FLASH_RESULT_DONE = 1 ∧
      t.get Flag.sysif_FLASH_DONE.fld = 1 ∧ t.sysif = { s.sysif with flashOp := none } ∧
      t = { s with regs := t.regs, flash := t.flash, sysif := t.sysif }
    (op = 1 → n ≤ 256 → ∃ t, exec .flashOpComplete s = .next t ∧ ended t ∧ t.flash = s.flash ∧
      slice (t.getBytes (Reg.sysif_FLASH_BUF 0) 64) 0 n = (List.range n).map fun i => s.flashByte (a + i)) ∧
    (op = 2 → ∃ t, exec .flashOpComplete s = .next t ∧ ended t ∧
      (∀ i (h : i < data.length), t.flashByte (a + i) = s.flashByte (a + i) &&& data[i]) ∧
      (∀ x, x < a ∨ a + data.length ≤ x → t.flashByte x = s.flashByte x)) ∧
    (op = 3 → ∃ t, exec .flashOpComplete s = .next t ∧ ended t ∧
      ∀ x, t.flashByte x = if x / 4096 = a / 4096 then 0xFF else s.flashByte x) ∧
    ∃ t, exec .flashTimeout s = .next t ∧ t.get R.sysif_FLASH_RESULT_STATUS = 2 ∧ t.sysif.flashOp = none ∧
      t.get Flag.sysif_FLASH_DONE.fld = 1 ∧ (op = 1 → t.flash = s.flash) ∧
      (op = 2 → ∀ x, x < a ∨ a + n ≤ x → t.flashByte x = s.flashByte x))

/-- The SMBus target (R362): the answers of its commands while main rails are there; an unknown command is not acknowledged. A
poll of an enabled regulator (R363): its values show in mV, 10 mA and 0.1 °C and it is not absent; the third failure in a row sets
ABSENT with its event, an earlier one is only counted. A debounced GPIO input (R365): it reads as the pin and raises GPIO_EDGE
where it is an INPUT that nothing else takes; the wake GPIO starts the exit from STANDBY (14_power_thermal.md R409). It rests in
part on the model's own choices (log entries 92, 93). -/
def Obligations.BoardBuses : Prop :=
  (∀ s : State, s.power.vbatOnly = false → s.domainOn 61 = true →
     exec .smbState s = .next (s.emit (.smbus (some (leBytes 2 (s.get R.power_PWR_STATE_STATE))))) ∧
     (∀ n : Int, -128 ≤ n → n ≤ 127 → (∀ k, k < 28 → s.on (R.power_TS_FAILED k) = false → s.getInt (R.power_TS_TEMP k) ≤ 10 * n) →
       (∃ k, k < 28 ∧ s.on (R.power_TS_FAILED k) = false ∧ s.getInt (R.power_TS_TEMP k) = 10 * n) →
       exec .smbMaxTemp s = .next (s.emit (.smbus (some [BitVec.ofInt 8 n])))) ∧
     (∃ b : Byte, exec .smbMaxTemp s = .next (s.emit (.smbus (some [b])))) ∧
     (∀ up, ∃ b : Byte, exec (.smbAlarms up) s = .next (s.emit (.smbus (some [b]))) ∧ b.getLsbD 0 = s.faultLow ∧
       b.getLsbD 1 = s.thermLow ∧ b.getLsbD 2 = s.sealAlarmLow ∧ b.getLsbD 3 = up ∧ b.toNat < 16) ∧
     exec .smbPower s = .next (s.emit (.smbus (some (leBytes 2 (s.get R.power_EST_POWER_ESTIMATE))))) ∧
     exec .smbId s = .next (s.emit (.smbus (some s.uid))) ∧
     exec .smbUnknownCommand s = .next (s.emit (.smbus none))) ∧
  (∀ (s : State) (d : Fin 8), s.domainOn 61 = true → s.on (R.sysif_PMB_DEV_EN d) = true →
     (∀ (e : BitVec 5) (vout iout temp : BitVec 16) (v i : Nat) (t10 : Int), (vout.toNat : Rat) * twoTo e.toInt * 1000 = (v : Rat) →
       v < 2 ^ 16 → linear11 iout * 100 = (i : Rat) → i < 2 ^ 16 → linear11 temp * 10 = (t10 : Rat) → -(2 ^ 15) ≤ t10 → t10 < 2 ^ 15 →
       ∃ t, exec (.pmbusPoll d (some (e, vout, iout, temp))) s = .next t ∧ t.get (R.sysif_PMB_VAL_VOUT d) = v ∧
         t.get (R.sysif_PMB_VAL_IOUT d) = i ∧ t.getInt (R.sysif_PMB_TEMP d) = t10 ∧ t.get (R.sysif_PMB_DEV_ABSENT d) = 0 ∧
         Sparse.get (fun _ => 0) t.sysif.pmbFails d = 0 ∧
         OnlyRegs s t [(R.sysif_PMB_VAL_VOUT d).addr, (R.sysif_PMB_TEMP d).addr, (R.sysif_PMB_DEV_ABSENT d).addr] ∧
         t = { s with regs := t.regs, sysif := t.sysif, power := { s.power with vouts := t.power.vouts } }) ∧
     (∀ n, Sparse.get (fun _ => 0) s.sysif.pmbFails d = n → n < 2 → ∃ t, exec (.pmbusPoll d none) s = .next t ∧
       Sparse.get (fun _ => 0) t.sysif.pmbFails d = n + 1 ∧ t = { s with sysif := { s.sysif with pmbFails := t.sysif.pmbFails } }) ∧
     (2 ≤ Sparse.get (fun _ => 0) s.sysif.pmbFails d → s.on (R.sysif_PMB_DEV_ABSENT d) = false →
       ∃ t, exec (.pmbusPoll d none) s = .next t ∧ t.get (R.sysif_PMB_DEV_ABSENT d) = 1 ∧ t.get Flag.sysif_PMB_ABSENT.fld = 1)) ∧
  (∀ (s : State) (g : Fin 32) (level : Bool), s.domainOn 61 = true → s.gpio.pins.getLsbD g = !level →
     s.get (R.sysif_GPIO_CFG_FUNC g) = 0 →
     ((s.rd Reg.cellar_INC_GPIO).getLsbD g = false → s.on R.power_QUIET_CFG_EN = false → s.on R.power_WAKE_CFG_GPIO_EN = false →
       ∃ t, exec (.gpioInputChange g level) s = .next t ∧ t.gpio.pins.getLsbD g = level ∧
         (∀ h, h ≠ g.val → t.gpio.pins.getLsbD h = s.gpio.pins.getLsbD h) ∧ t.get Flag.sysif_GPIO_EDGE.fld = 1 ∧
         OnlyRegs s t [Flag.sysif_GPIO_EDGE.addr, Flag.sysif_GPIO_EDGE.counter.addr] ∧
         t = { s with regs := t.regs, gpio := { s.gpio with pins := t.gpio.pins } }) ∧
     (s.on R.power_WAKE_CFG_GPIO_EN = true → s.get R.power_WAKE_CFG_GPIO = g.val → s.get R.power_WAKE_CFG_TARGET ≤ 1 →
       s.get R.power_PWR_STATE_STATE = 2 → s.domainOn 9 = false → (level ^^ s.on (R.sysif_GPIO_CFG_POL g)) = true →
       ∃ t, exec (.gpioInputChange g level) s = .next t ∧ t.get R.power_PWR_STATE_STATE = 4 ∧
         t.power.target = s.get R.power_WAKE_CFG_TARGET ∧ t.power.wakeN = true))

/-- PWR_CMD and the wake timer (R409, R415): a request for the present state ends ALREADY; RUN and QUIET go to each other, STANDBY
goes to its exit, through a transition whose end completes the command; STANDBY entry begins at once; during a transition the
request waits; an undefined OP is BAD_COMMAND. Transitions between QUIET and RUN (R406, R410): the domains of the new state are on
and the others off, the command that asked for it completes OK; in any other state their commands change nothing. The units of
dropped domains stop first, and those of new ones start. It rests in part on the model's own choices (log entry 83). -/
def Obligations.PowerCommands : Prop :=
  ((∀ s : State, Answers s Reg.power_PWR_CMD → Answers s Reg.power_PWR_RESULT → s.done Reg.power_PWR_RESULT = true →
     let st := s.get R.power_PWR_STATE_STATE
     let u := s.accept Reg.power_PWR_RESULT
     let begins (target state : Nat) (r : Result) : Prop := ∃ t, r = .next t ∧ t.get R.power_PWR_STATE_STATE = state ∧
       t.get R.power_PWR_RESULT_DONE = 0 ∧ t.power.target = target ∧ t.power.owned = true ∧ t.get Flag.power_STATE_CHANGE.fld = 1 ∧
       OnlyRegs s t [Reg.power_PWR_RESULT, Reg.power_PWR_STATE, Flag.power_STATE_CHANGE.addr, Flag.power_STATE_CHANGE.counter.addr] ∧
       t = { s with regs := t.regs, power := t.power }
     let ends (status : Nat) (r : Result) : Prop := ∃ t, r = .next t ∧ t.get R.power_PWR_RESULT_STATUS = status ∧
       t.get R.power_PWR_RESULT_DONE = 1 ∧ OnlyRegs s t [Reg.power_PWR_RESULT] ∧ t = { s with regs := t.regs }
     (st = 0 → ends 1 (exec .pwrCmdRun s) ∧ begins 1 5 (exec .pwrCmdQuiet s)) ∧
     (st = 1 → ends 1 (exec .pwrCmdQuiet s) ∧ begins 0 6 (exec .pwrCmdRun s)) ∧
     (st = 2 → ends 1 (exec (.pwrCmdStandby []) s) ∧ begins 0 4 (exec .pwrCmdRun s) ∧ begins 1 4 (exec .pwrCmdQuiet s)) ∧
     (st ≤ 1 → ∀ rs, exec (.pwrCmdStandby rs) s =
       .next (((u.modPower fun p => { p with target := 2, owned := true }).setPower 3).standbyBegins (st == 1) rs)) ∧
     (3 ≤ st → s.power.next = none → ∀ p ∈ [(Instr.pwrCmdRun, 0), (.pwrCmdQuiet, 1), (.pwrCmdStandby [], 2)],
       exec p.1 s = .next (u.modPower fun x => { x with next := some (p.2, true) })) ∧
     (∀ op : BitVec 4, op = 0 ∨ 4 ≤ op.toNat → ends 3 (exec (.pwrBadCommand op) s))) ∧
   (∀ s : State, (s.on R.power_WAKE_CFG_TIMER_EN = false → exec .wakeTimer s = .next s) ∧
     (s.on R.power_WAKE_CFG_TIMER_EN = true → s.get R.power_PWR_STATE_STATE ≤ 1 → exec .wakeTimer s = .next s) ∧
     (s.on R.power_WAKE_CFG_TIMER_EN = true → s.get R.power_PWR_STATE_STATE = 2 → s.get R.power_WAKE_CFG_TARGET ≤ 1 →
       ∃ t, exec .wakeTimer s = .next t ∧ t.get R.power_PWR_STATE_STATE = 4 ∧ t.power.target = s.get R.power_WAKE_CFG_TARGET ∧
         t.power.wakeN = true ∧ t = { s with regs := t.regs, power := t.power }))) ∧
  ((∀ (s : State) (on : Nat → Bool) (d : Nat), d < 62 → (s.setDomains on).domainOn d = on d) ∧
   (∀ (s : State) (rs : List (BitVec 17)),
     (s.get R.power_PWR_STATE_STATE ≠ 5 → exec (.quietEntry rs) s = .next s) ∧
     (s.get R.power_PWR_STATE_STATE ≠ 6 → exec (.quietExit rs) s = .next s) ∧
     (s.get R.power_PWR_STATE_STATE = 5 →
       let a := s.each (allDomains.filter fun d => s.domainOn d && !s.powered 1 d) State.domainStops
       let b := a.ppbEach (a.ppbPorts R.port_PWR_CTRL_QUIET_OFF) 2 rs
       exec (.quietEntry rs) s = .next ((((b.setDomains (b.powered 1)).showStops true).endPower 1 rs).showStrong)) ∧
     (s.get R.power_PWR_STATE_STATE = 6 →
       let a := s.setDomains (s.powered 0)
       let b := (a.each (allDomains.filter fun d => s.powered 0 d && !s.domainOn d) State.domainStarts).showStops false
       exec (.quietExit rs) s =
         .next ((b.ppbEach (b.poweredOn (b.ppbPorts R.port_PWR_CTRL_QUIET_OFF)) 1 rs).endPower 0 rs).showStrong)) ∧
   (∀ s : State, s.get R.power_PWR_STATE_STATE = 5 → s.power.next = none → s.power.owned = true →
     s.on R.fabric_STATE_CONFIGURED = false → (∀ d, d < 62 → s.domainOn d = bareDomain d) →
     (∀ n, n < 96 → s.on (R.port_PWR_CTRL_QUIET_OFF n) = false) →
     ∃ t, exec (.quietEntry []) s = .next t ∧ t.get R.power_PWR_STATE_STATE = 1 ∧ t.get R.power_PWR_RESULT_STATUS = 0 ∧
       t.get R.power_PWR_RESULT_DONE = 1 ∧ (∀ d, d < 62 → t.domainOn d = bareDomain d) ∧ t.power.owned = false ∧ t.mem = s.mem ∧
       t.strong = s.strong))

/-- STANDBY and its exit (R412 to R414): the boundary is taken only once nothing is left to wait for, and then only D00, D01, D02,
D07 and D61 stay on, with STATUS.TRAINED 0; without an image, a resume to RUN powers R78's domains, trains the stream memory,
shows the flushed count and raises WAKE. Power failure (R411, R418, R419): PWRFAIL_N in RUN or QUIET shows and is counted, writes
a save set unless one is under way and flushes the Cellar, and is ignored in STANDBY, without main rails and before the BOOT
record; without main rails only D01 lives and keeps the Strongroom's state; a recovery clears PF_ACTIVE with its event. It rests
in part on the model's own choices (log entry 82). -/
def Obligations.StandbyAndPowerFailure : Prop :=
  ((∀ s : State, (s.get R.power_PWR_STATE_STATE ≠ 3 ∨ s.standbyReady = false → exec .standbyEntryComplete s = .next s) ∧
     (s.get R.power_PWR_STATE_STATE = 3 → s.standbyReady = true →
       let a := s.each (List.range 64) fun s f => if s.folioUp f && s.raster f != .off then s.rasterStops f else s
       let b := (a.each (a.streams.map (·.1)) State.abandonStream).each (List.range 96) State.portStops
       let c := if b.celMode = .ready then b.writeSuperblock.emit (.driveAdmin 9 2) else b
       exec .standbyEntryComplete s =
         .next ((((c.saveRegisters.unitsOff).setDomains standbyDomain).put R.memory_STATUS_TRAINED 0).endPower 2 [])) ∧
     ∀ d, standbyDomain d = true ↔ d = 0 ∨ d = 1 ∨ d = 2 ∨ d = 7 ∨ d = 61) ∧
   (∀ (s : State) (failed : List (Fin 32)) (ok : Bool) (rs : List (BitVec 17)), s.get R.power_PWR_STATE_STATE ≠ 4 →
     exec (.resume failed ok rs) s = .next s) ∧
   (∀ s : State, s.get R.power_PWR_STATE_STATE = 4 → s.power.target = 0 → s.power.next = none → s.fabric.now = {} →
     s.on R.fabric_STATE_CONFIGURED = false → s.get R.power_SHED = 0 → s.strong.tamperLog = [] → s.power.flushed < 512 →
     (∀ n, n < 96 → s.on (R.port_PWR_CTRL_STANDBY_OFF n) = false) → (∀ f, f < 64 → s.folioOn f = false) →
     ∃ t, exec (.resume [] true []) s = .next t ∧ t.get R.power_PWR_STATE_STATE = 0 ∧ (∀ d, d < 62 → t.domainOn d = bareDomain d) ∧
       t.on R.memory_STATUS_TRAINED = true ∧ t.get evqFlushCnt = s.power.flushed ∧ t.get Flag.power_WAKE.fld = 1 ∧
       t.get Flag.ruling_EVQ_FLUSH.fld = 1 ∧ t.entropyOk = true ∧ t.strong.fuses = s.strong.fuses)) ∧
  ((∀ (s : State) (left : List (Nat × BitVec 8 × Bool)),
     (s.get R.power_PWR_STATE_STATE = 2 ∨ s.power.vbatOnly = true ∨ s.power.shutdown = true ∨ s.boot.recorded = false →
       exec (.pwrfail left) s = .next s) ∧
     (s.get R.power_PWR_STATE_STATE ≠ 2 → s.power.vbatOnly = false → s.power.shutdown = false → s.boot.recorded = true →
       let a := ((s.raise Flag.power_PWRFAIL).put R.power_PWR_STATE_PF_ACTIVE 1).bump R.power_PF_STATUS_COUNT
       let b := a.interruptWrites left false
       let saving := (b.attic.running ++ b.attic.waiting).any fun w => w.src == .saveSet
       exec (.pwrfail left) s =
         .next (if saving then b else b.saveSet 1 0 (leBytes 2 (b.get R.power_TH_STATUS_T_MAX))).cellarPowerFail)) ∧
   (∀ (s : State) (left : List (Nat × BitVec 8 × Bool)), ∃ t, exec (.mainPowerLoss left) s = .next t ∧ t.power.vbatOnly = true ∧
     t.power.wakeN = false ∧ (∀ d, d < 62 → t.domainOn d = (d == 1)) ∧ t.strong = s.strong ∧ t.flash = s.flash) ∧
   (∀ s : State, (s.on R.power_PWR_STATE_PF_ACTIVE = false → exec .pfRecover s = .next s) ∧
     (s.on R.power_PWR_STATE_PF_ACTIVE = true → exec .pfRecover s =
       .next ((s.put R.power_PWR_STATE_PF_ACTIVE 0).raise Flag.power_PF_RECOVER).cellarPowerBack) ∧
     (s.on R.power_PWR_STATE_PF_ACTIVE = true → s.cellar.entries = [] → s.cellar.closing = [] →
       ∃ t, exec .pfRecover s = .next t ∧ t.get R.power_PWR_STATE_PF_ACTIVE = 0 ∧ t.get Flag.power_PF_RECOVER.fld = 1 ∧
         t.cellar.powerFail = false)))

/-- A round of samples (R421, R423): it counts, moves the sensors and then T_max, the adjacent pairs, the refresh bands and the
levels; T_MAX is the largest effective value and HOT a sensor that has it. The fourth implausible sample in a row fails a sensor
and sets HOLD, a good one ends the row, and 1 s of good samples returns a failed sensor. Without power nothing is sampled. Eight
samples in a row at or above a band's boundary enter it from any lower band, and eight below a boundary less its hysteresis leave
to the band below it (R295). The levels (R425, R427, R428, R434): the eighth sample in a row at or above a threshold enters it,
and the eighth more than 3 °C below leaves it; SHUTDOWN latches and leaves D00 and D01 alone; THROTTLE takes P_entry and step 1
(where nothing holds the step). It rests in part on the model's own choices (log entries 62, 63). -/
def Obligations.ThermalLevels : Prop :=
  ((∀ (s : State) (raws : List (Option (BitVec 16))) (ns : Nat),
     (s.power.vbatOnly = true ∨ s.power.shutdown = true → exec (.sensorSample raws ns) s = .next s) ∧
     (s.power.vbatOnly = false → s.power.shutdown = false →
       ∃ w : State, exec (.sensorSample raws ns) s = .next ((w.showMax.showAdj).bands).levels ∧ w.power.rounds = min 64 (s.power.rounds + 1) ∧
         w.power.stepNs = min 10000000 (s.power.stepNs + ns) ∧ w.power.est = s.power.est)) ∧
   (∀ (s : State) (k : Fin 2), let a := 24 + 2 * k.val
     pairFailed s a (a + 1) = false →
     let t := max (s.effective a) (s.effective (a + 1))
     let f : Fld := if k.val = 0 then R.memory_STATUS_BAND_S0 else R.memory_STATUS_BAND_S1
     (∀ b, b < 3 → ([820, 1020, 1220] : List Int).getD b 0 ≤ t → 7 ≤ (s.bandRun k b).1 → b + 1 ≤ (s.stackBand k).get f) ∧
     (t < 820 → ∀ b, b < s.get f → t < ([790, 990, 1190] : List Int).getD b 0 → 7 ≤ (s.bandRun k b).2 → (s.stackBand k).get f ≤ b) ∧
     ((∀ b, b < 3 → t < ([820, 1020, 1220] : List Int).getD b 0 ∨ (s.bandRun k b).1 < 7) →
       (∀ b, b < s.get f → ([790, 990, 1190] : List Int).getD b 0 ≤ t ∨ (s.bandRun k b).2 < 7) → (s.stackBand k).get f = s.get f)) ∧
   (∀ s : State, let t := s.showMax
     (∀ k, k < 28 → s.effective k ≤ t.getInt R.power_TH_STATUS_T_MAX) ∧
     s.effective (t.get R.power_TH_STATUS_HOT) = t.getInt R.power_TH_STATUS_T_MAX ∧ t.get R.power_TH_STATUS_HOT < 28) ∧
   (∀ (s : State) (k : Fin 28) (ns : Nat),
     (s.sensorFailed k = false →
       (s.judgeSample k true ns).sensorFailed k = false ∧ ((s.judgeSample k true ns).sensor k).bad = 0 ∧
       ((s.sensor k).bad < 3 → (s.judgeSample k false ns).sensorFailed k = false ∧
         ((s.judgeSample k false ns).sensor k).bad = (s.sensor k).bad + 1) ∧
       (3 ≤ (s.sensor k).bad → (s.judgeSample k false ns).sensorFailed k = true ∧
         (s.judgeSample k false ns).on R.power_TH_STATUS_HOLD = true ∧
         (s.judgeSample k false ns).get Flag.power_SENSOR_FAIL.fld = 1)) ∧
     (s.sensorFailed k = true → ∀ n, (s.sensor k).goodNs = some n →
       (1000000000 ≤ n + ns → (s.judgeSample k true ns).sensorFailed k = false ∧
         (s.judgeSample k true ns).get Flag.power_SENSOR_OK.fld = 1) ∧
       (n + ns < 1000000000 → (s.judgeSample k true ns).sensorFailed k = true))) ∧
   (∀ s : State, ∃ t, exec .stepHoldEnd s = .next t ∧ t.get R.power_TH_STATUS_HOLD = 0 ∧ OnlyRegs s t [R.power_TH_STATUS_HOLD.addr] ∧
     t = { s with regs := t.regs })) ∧
  (∀ s : State, let t := s.getInt R.power_TH_STATUS_T_MAX
     let at' (f : Fld) : Int := 10 * (s.get f : Int)
     (at' R.power_TH_CFG_SHUTDOWN ≤ t → 7 ≤ s.power.shutIn → s.levels.power.shutdown = true ∧
       (∀ d, d < 62 → s.levels.domainOn d = decide (d ≤ 1)) ∧
       s.levels.power.note = some (s.get R.power_TH_STATUS_HOT, t, s.strong.lifeClock)) ∧
     (t < at' R.power_TH_CFG_SHUTDOWN →
       s.levels.power.shutdown = s.power.shutdown ∧ s.levels.power.shutIn = 0 ∧
       (s.get R.power_TH_STATUS_LEVEL ≤ 1 → at' R.power_TH_CFG_THROTTLE ≤ t → 7 ≤ s.power.thrIn →
         s.levels.get R.power_TH_STATUS_LEVEL = 2 ∧ s.levels.power.pEntry = s.power.est ∧ s.levels.get Flag.power_THROTTLE_ON.fld = 1 ∧
         (s.maxStep ≠ 0 → s.on R.power_TH_STATUS_HOLD = false → s.on R.power_TH_STATUS_ADJ_FAIL = false →
           s.levels.get R.power_TH_STATUS_STEP = 1)) ∧
       (s.get R.power_TH_STATUS_LEVEL = 2 → s.power.warn = true → at' R.power_TH_CFG_WARN ≤ t → t < at' R.power_TH_CFG_THROTTLE - 30 →
         7 ≤ s.power.thrOut → s.levels.get R.power_TH_STATUS_LEVEL = 1 ∧ s.levels.get Flag.power_THROTTLE_OFF.fld = 1) ∧
       (s.get R.power_TH_STATUS_LEVEL = 0 → s.power.warn = false → at' R.power_TH_CFG_WARN ≤ t → t < at' R.power_TH_CFG_THROTTLE →
         7 ≤ s.power.warnIn → s.levels.get R.power_TH_STATUS_LEVEL = 1 ∧ s.levels.get Flag.power_WARN.fld = 1) ∧
       (s.get R.power_TH_STATUS_LEVEL = 1 → s.power.warn = true → t < at' R.power_TH_CFG_WARN - 30 →
         at' R.power_TH_CFG_WARN ≤ at' R.power_TH_CFG_THROTTLE → 7 ≤ s.power.warnOut → s.levels.get R.power_TH_STATUS_LEVEL = 0)))

/-- The throttle step and shedding (R427 to R430, R433): at or above THROTTLE the step rises by 1 up to MAX_STEP, not twice within
10 ms; below it, with no HOLD, it falls; with the clock-division form nothing is shed, and of every 16 clock cycles 16 - STEP run
in a domain that is not exempt; an estimate above the limit sheds one more of the 14 actions, one at or below nine tenths of it,
or no limit, restores one. The estimate (R431, R432): with no regulator telemetered it is 1.15 times the scaled groups and
GUARD_ALL shows; each second a group whose estimate is off its measurement by more than a tenth takes the factor that makes them
equal, within 0.5 and 2. It rests in part on the model's own choices (log entries 64, 65, 94). -/
def Obligations.ThrottleAndEstimate : Prop :=
  ((∀ (s : State) (d : Nat),
     ((s.on R.power_TH_CFG_CLKDIV = false ∨ s.fabric.now.clockExempt d = true) → s.clockCycles d = 16) ∧
     (s.on R.power_TH_CFG_CLKDIV = true → s.fabric.now.clockExempt d = false → s.clockCycles d = 16 - s.get R.power_TH_STATUS_STEP) ∧
     ((d < 8 ∨ 57 ≤ d ∧ d ≤ 59) → s.fabric.now.clockExempt d = true)) ∧
   ∀ s : State, s.power.vbatOnly = false → s.power.shutdown = false →
     (s.on R.power_TH_CFG_CLKDIV = true → s.on R.power_TH_STATUS_ADJ_FAIL = false → s.maxStep ≠ 0 → 10000000 ≤ s.power.stepNs →
       (s.get R.power_TH_STATUS_LEVEL = 2 → 10 * (s.get R.power_TH_CFG_THROTTLE : Int) ≤ s.getInt R.power_TH_STATUS_T_MAX →
         ∃ t, exec .throttleStep s = .next t ∧ t.get R.power_TH_STATUS_STEP = min s.maxStep (s.get R.power_TH_STATUS_STEP + 1) ∧
           t.get R.power_SHED = s.get R.power_SHED) ∧
       (s.get R.power_TH_STATUS_LEVEL ≠ 2 → s.on R.power_TH_STATUS_HOLD = false →
         ∃ t, exec .throttleStep s = .next t ∧ t.get R.power_TH_STATUS_STEP = s.get R.power_TH_STATUS_STEP - 1 ∧
           t.get R.power_SHED = s.get R.power_SHED) ∧
       (s.get R.power_TH_STATUS_LEVEL ≠ 2 → s.on R.power_TH_STATUS_HOLD = true → exec .throttleStep s = .next s)) ∧
     (s.power.stepNs < 10000000 → s.on R.power_TH_CFG_CLKDIV = false → ∀ n, s.get R.power_SHED = 2 ^ n - 1 → n ≤ 14 →
       (∀ l, s.powerLimit = some l → l < s.power.est → n < 14 → ∃ t, exec .throttleStep s = .next t ∧
         t.get R.power_SHED = 2 ^ (n + 1) - 1 ∧ t.on R.power_TH_STATUS_FLOOR = false) ∧
       (∀ l, s.powerLimit = some l → l < s.power.est → n = 14 → ∃ t, exec .throttleStep s = .next t ∧
         t.get R.power_SHED = 2 ^ 14 - 1 ∧ t.on R.power_TH_STATUS_FLOOR = true) ∧
       (∀ l, s.powerLimit = some l → s.power.est ≤ l → s.power.est ≤ l * 9 / 10 → ∃ t, exec .throttleStep s = .next t ∧
         t.get R.power_SHED = 2 ^ (n - 1) - 1 ∧ t.on R.power_TH_STATUS_FLOOR = false) ∧
       (s.powerLimit = none → ∃ t, exec .throttleStep s = .next t ∧ t.get R.power_SHED = 2 ^ (n - 1) - 1 ∧
         t.get R.power_EST_POWER_LIMIT = 0))) ∧
  ((∀ (s : State) (mw : List Nat), s.power.vbatOnly = false → s.power.shutdown = false → (∀ g, s.groupPolled g = []) →
     ∃ t, exec (.estimateUpdate mw) s = .next t ∧
       t.power.est = ((List.range 10).map fun i => s.groupScale (i + 1) * (mw.getD i 0 : Nat)).sum * 115 / 100 ∧
       t.on R.power_EST_CFG_GUARD_ALL = true ∧ OnlyRegs s t [R.power_EST_CFG_GUARD_ALL.addr, R.power_EST_POWER_ESTIMATE.addr] ∧
       t = { s with regs := t.regs, power := { s.power with groups := t.power.groups, est := t.power.est } }) ∧
   (∀ s : State, s.power.vbatOnly = false → s.power.shutdown = false →
     exec .estimateRescale s = .next ((s.each ((List.range 10).map (· + 1)) State.rescale).formEstimate)) ∧
   (∀ (s : State) (g : Fin 10), s.groupPolled (g + 1) ≠ [] → let m := s.measured (g + 1); let e := s.groupEst (g + 1)
     (e - m ≤ m / 10 → m - e ≤ m / 10 → (s.rescale (g + 1)).groupScale (g + 1) = s.groupScale (g + 1)) ∧
     (0 < e → (m / 10 < e - m ∨ m / 10 < m - e) → 1 / 2 ≤ s.groupScale (g + 1) * m / e → s.groupScale (g + 1) * m / e ≤ 2 →
       (s.rescale (g + 1)).groupEst (g + 1) = m ∧ (s.rescale (g + 1)).get Flag.power_EST_RESCALE.fld = 1)))

/-- Host commands of the Attic (R436, R438, R439, R441, R445, R446): READ fills the buffer and clears its mask, but pages 6656 to
8191 are refused; MARGIN_READ leaves the buffer; a WRITE takes and clears the mask, is refused outside the host area and where
protected, and else is issued; the buffer takes the bytes written, with their mask bits; LOCK sets. Page writes (R437, R438,
R449): the end of a host's write that verifies sets its bytes and no others, completes the command and frees the bank; one that
does not is written once more first; the end of a sealed group's write issues the group's next (R442); a bank with no write has no
end; a page without WEAK or BAD bytes passes the margin pass. What an interrupted write leaves in its page (R440): nothing outside
its loaded bytes changes. It rests in part on the model's own choices (log entries 16, 91). -/
def Obligations.AtticCommands : Prop :=
  ((∀ s : State, Answers s Reg.blotter_ATTIC_RESULT → s.done Reg.blotter_ATTIC_RESULT = true →
     let u := s.accept Reg.blotter_ATTIC_RESULT
     let ends (status : Nat) (r : Result) : Prop := ∃ t, r = .next t ∧ t.get R.blotter_ATTIC_RESULT_STATUS = status ∧
       t.get R.blotter_ATTIC_RESULT_DONE = 1 ∧ t.get Flag.blotter_ATTIC_CMD_DONE.fld = 1 ∧ t = { s with regs := t.regs } ∧
       (status ≠ 0 → ∀ w, w < 16 → t.rd (Reg.blotter_ATTIC_BUF w) = s.rd (Reg.blotter_ATTIC_BUF w))
     (∀ p : BitVec 14, p.toNat < 6656 ∨ 8192 ≤ p.toNat → ends 0 (exec (.atticRead p) s) ∧
       ∀ t, exec (.atticRead p) s = .next t → t.getBytes (Reg.blotter_ATTIC_BUF 0) 16 = s.atticPage p.toNat ∧
         t.rd Reg.blotter_BUF_MASK_LO = 0 ∧ t.rd Reg.blotter_BUF_MASK_HI = 0) ∧
     (∀ p : BitVec 14, 6656 ≤ p.toNat → p.toNat < 8192 → ends 2 (exec (.atticRead p) s)) ∧
     (∀ p : BitVec 14, ends 0 (exec (.atticMarginRead p) s) ∧ ∀ t, exec (.atticMarginRead p) s = .next t →
       t.getBytes (Reg.blotter_ATTIC_BUF 0) 16 = s.getBytes (Reg.blotter_ATTIC_BUF 0) 16) ∧
     (∀ p : BitVec 14, p.toNat < 8192 ∨ s.atticProtected p.toNat = true →
       ends 1 (exec (.atticWrite p) s) ∧ ends 1 (exec (.atticWriteSealed p) s)) ∧
     (∀ p : BitVec 14, 8192 ≤ p.toNat → s.atticProtected p.toNat = false →
       exec (.atticWrite p) s = .next (u.clearMask.atticIssue ⟨.host, p.toNat, u.loadedBytes, false, .hostCmd, false⟩) ∧
       exec (.atticWriteSealed p) s = .next (u.clearMask.atticIssue
         ⟨.host, p.toNat, (u.loadedBytes.filter fun x => x.1 != 63) ++ [(63, 0x5A#8)], true, .hostCmd, false⟩)) ∧
     (ends 0 (exec .atticBufClear s) ∧ ∀ t, exec .atticBufClear s = .next t →
       t.rd Reg.blotter_BUF_MASK_LO = 0 ∧ t.rd Reg.blotter_BUF_MASK_HI = 0) ∧
     ends 5 (exec .atticBadCommand s)) ∧
   (∀ (s : State) (w : Fin 16) (v : BitVec 32) (be : BitVec 4), Answers s (Reg.blotter_ATTIC_BUF w) →
     ∃ t, exec (.atticBufWrite w v be) s = .next t ∧
       t.rd (Reg.blotter_ATTIC_BUF w) = (s.rd (Reg.blotter_ATTIC_BUF w) &&& ~~~byteMask be) ||| (v &&& byteMask be) ∧
       (∀ j, j < 4 → be.getLsbD j = true → w.val < 8 → (t.rd Reg.blotter_BUF_MASK_LO).getLsbD (4 * w + j) = true) ∧
       (∀ j, j < 4 → be.getLsbD j = true → 8 ≤ w.val → (t.rd Reg.blotter_BUF_MASK_HI).getLsbD (4 * w + j - 32) = true) ∧
       OnlyRegs s t [Reg.blotter_ATTIC_BUF w, Reg.blotter_BUF_MASK_LO, Reg.blotter_BUF_MASK_HI] ∧ t = { s with regs := t.regs }) ∧
   (∀ s : State, Answers s Reg.blotter_ATTIC_BP → ∃ t, exec .atticBpLock s = .next t ∧ t.get R.blotter_ATTIC_BP_LOCK = 1 ∧
     t.get R.blotter_ATTIC_BP_LEVEL = s.get R.blotter_ATTIC_BP_LEVEL ∧ OnlyRegs s t [Reg.blotter_ATTIC_BP] ∧ t = { s with regs := t.regs })) ∧
  ((∀ (s : State) (bank : Fin 8) (us : BitVec 16), (∀ w ∈ s.attic.running, w.page % 8 ≠ bank.val) →
     ∀ bad, exec (.atticPageWriteDone bank bad us) s = .next s) ∧
   (∀ (s : State) (bank : Fin 8) (us : BitVec 16) (page : Nat) (i : Fin 64) (b : Byte) (commit again : Bool), page % 8 = bank.val →
     s.attic.running = [⟨.host, page, [(i.val, b)], commit, .hostCmd, again⟩] → s.attic.waiting = [] →
     (Sparse.get (fun _ => 0) s.attic.wear bank + 1) % 1024 ≠ 0 →
     (∃ t, exec (.atticPageWriteDone bank [] us) s = .next t ∧ t.atticAt (64 * page + i) = ⟨b, .good, false⟩ ∧
       (∀ a, a ≠ 64 * page + i.val → t.atticAt a = s.atticAt a) ∧ t.attic.running = [] ∧
       t.get R.blotter_ATTIC_RESULT_STATUS = 0 ∧ t.get R.blotter_ATTIC_RESULT_DONE = 1) ∧
     (again = false → ∃ t, exec (.atticPageWriteDone bank [i] us) s = .next t ∧ (∀ a, t.atticAt a = s.atticAt a) ∧
       t.attic.running = [⟨.host, page, [(i.val, b)], commit, .hostCmd, true⟩]) ∧
     (again = true → ∃ t, exec (.atticPageWriteDone bank [i] us) s = .next t ∧ t.atticAt (64 * page + i) = ⟨b, .good, true⟩ ∧
       t.get R.blotter_ATTIC_RESULT_STATUS = 3 ∧ t.get R.blotter_ATTIC_RESULT_DONE = 1 ∧
       t.get Flag.blotter_ATTIC_VERIFY_FAIL.fld = 1)) ∧
   (∀ (s : State) (bank : Fin 8) (us : BitVec 16) (page : Nat) (l : List (Nat × Byte)) (c again : Bool)
     (rest : List (Nat × List (Nat × Byte) × Bool)), page % 8 = bank.val →
     s.attic.running = [⟨.m3, page, l, c, .group rest, again⟩] → s.attic.waiting = [] →
     (Sparse.get (fun _ => 0) s.attic.wear bank + 1) % 1024 ≠ 0 →
     ∃ t, exec (.atticPageWriteDone bank [] us) s = .next t ∧ t.attic.waiting = [] ∧
       (rest = [] → t.attic.running = []) ∧
       (∀ p x d more, rest = (p, x, d) :: more → t.attic.running = [⟨.m3, p, x, d, .group more, false⟩])) ∧
   (∀ (s : State) (left : List (Nat × BitVec 8 × Bool)) (w : AtticWrite) (a : Nat),
     (∀ x ∈ w.loaded, a ≠ 64 * w.page + x.1) → (s.interruptWrite left w).atticAt a = s.atticAt a) ∧
   (∀ (s : State) (w : AtticWrite) (i : Nat) (old new v : Byte) (weak : Bool), w.loaded = [(i, new)] → w.lastPhase i = false →
     s.atticAt (64 * w.page + i) = ⟨old, .good, false⟩ → v ≠ old → v ≠ new → v ≠ 0xFF →
     (weak = false → (s.interruptWrite [(64 * w.page + i, v, weak)] w).atticAt (64 * w.page + i) = ⟨old, .good, false⟩) ∧
     (weak = true → between 0xFF new v = true →
       (s.interruptWrite [(64 * w.page + i, v, weak)] w).atticAt (64 * w.page + i) = ⟨v, .good, true⟩)) ∧
   (∀ (s : State) (p : BitVec 14),
     ((∀ i, i < 64 → (s.atticAt (64 * p.toNat + i)).weak = false ∧ (s.atticAt (64 * p.toNat + i)).cond ≠ .bad) →
       exec (.refreshPass p) s = .next s) ∧
     ((∃ i, i < 64 ∧ (s.atticAt (64 * p.toNat + i)).cond = .bad) → ∃ t, exec (.refreshPass p) s = .next t ∧
       t.get Flag.blotter_ATTIC_WEAK.fld = 1 ∧ ∀ a, t.atticAt a = s.atticAt a)))

/-- Records (R450, R454, R457): a fold window's end closes the open record of its code and instance; a closed one of at least
PERSIST_MIN becomes pending; a pending one whose bank is free takes its ring slot, unless the Attic is FAILED. A copy of a
histogram clears the commit byte of its copy, writes the bins and then the sealed page (R460). Reading, calendar and clearing
(R452, R461 to R463): SNAP_START takes SNAP_END and the read position; a written calendar shows at once; a clear that passes its
checks has its effect and raises CLEARED, one that fails ends with its code. It rests in part on the model's own choices (log
entries 16, 90). -/
def Obligations.BlotterCommands : Prop :=
  ((∀ (s : State) (code inst : BitVec 16),
     let open? := s.blot.ring.find? fun r => r.isOpen && r.code == code.toNat && r.inst == inst.toNat
     (open? = none → exec (.foldWindowExpiry code inst) s = .next s) ∧
     (∀ r, open? = some r → exec (.foldWindowExpiry code inst) s = .next (s.closeRecord r.seq))) ∧
   (∀ (s : State) (r : BlotRecord), s.blot.ring = [r] → r.notPersisted = false → s.on R.blotter_ATTIC_STATUS_FAILED = false →
     (s.closeRecord r.seq).blot.ring =
       [{ r with isOpen := false, pending := decide (s.get R.blotter_BL_CTRL_PERSIST_MIN ≤ r.sev), notPersisted := false }]) ∧
   (∀ s : State, s.on R.blotter_ATTIC_STATUS_FAILED = true → exec .blotterPersist s = .next s) ∧
   (∀ (s : State) (r : BlotRecord), s.on R.blotter_ATTIC_STATUS_FAILED = false → s.attic.running = [] → s.attic.waiting = [] →
     s.blot.ring = [r] → r.pending = true → r.issued = false → s.atticProtected (r.seq % 8192 / 2) = false →
     ∃ t, exec .blotterPersist s = .next t ∧ t.blot.ring = [{ r with issued := true }] ∧
       t.attic.running =
         [⟨.m3, r.seq % 8192 / 2, loadFrom (32 * (r.seq % 8192 % 2)) r.bytes, false, .record r.seq, false⟩]) ∧
   (∀ (s : State) (q : Nat), q < 35 → s.attic.running = [] → s.attic.waiting = [] →
     let p := 4096 + 8 * q + 2 * ((s.hist q).nextCopy % 4)
     (s.atticProtected p = true → (s.copyHist q).attic = s.attic) ∧
     (s.atticProtected p = false → ∃ one two : List Byte, one.length = 64 ∧ two.length = 64 ∧ two.getLast? = some 0x5A ∧
       (∀ i, i < 16 → leAt one (4 * i) 4 = (s.hist q).bins.getD i 0 % 2 ^ 32) ∧
       (s.copyHist q).attic.running =
         [⟨.m3, p + 1, [(63, 0)], false, .group [(p, loadFrom 0 one, false), (p + 1, loadFrom 0 two, true)], false⟩])) ∧
   (∀ s : State, exec .histogramCopy s = .next (s.each (List.range 35) fun s q => s.copyHist q)) ∧
   (∀ s : State, (s.get R.blotter_OP_S < s.attic.opReserve * 1024 → exec .opReserveAdvance s = .next s) ∧
     (s.attic.opReserve * 1024 ≤ s.get R.blotter_OP_S → ∃ t, exec .opReserveAdvance s = .next t ∧
       t.attic.opReserve = min (s.attic.opReserve + 1) 0x0FFFFFFF ∧ t.blot = s.blot ∧ t.strong = s.strong)) ∧
   (∀ s : State, exec .lifeClockSave s = .next { s with strong := { s.strong with savedLife := s.strong.lifeClock } })) ∧
  ((∀ s : State, Answers s Reg.blotter_SNAP_CMD → ∃ t, exec .snapStart s = .next t ∧
     t.get R.blotter_SNAP_END = s.get R.blotter_NEWEST_SEQ ∧ t.blot = { s.blot with readPos := s.get R.blotter_SNAP_FROM, reading := true } ∧
     OnlyRegs s t [R.blotter_SNAP_END.addr] ∧ t = { s with regs := t.regs, blot := t.blot }) ∧
   (∀ (s : State) (v : BitVec 32), Answers s Reg.blotter_CAL_SET → ∃ t, exec (.calSetWrite v) s = .next t ∧ t.calNow = v ∧
     t.strong = s.strong ∧ t.mem = s.mem) ∧
   (∀ s : State, Answers s Reg.blotter_CLEAR_RESULT → s.done Reg.blotter_CLEAR_RESULT = true →
     let u := s.accept Reg.blotter_CLEAR_RESULT
     let b := u.getBytes (Reg.blotter_CLEAR_BUF 0) 82
     (∀ c ok, u.clearCheck b = c → c ≠ 0 → exec (.clearSubmit ok) s = .next (u.complete Reg.blotter_CLEAR_RESULT c)) ∧
     (u.clearCheck b = 0 → exec (.clearSubmit false) s = .next (u.complete Reg.blotter_CLEAR_RESULT 21) ∧
       exec (.clearSubmit true) s = .next (((u.clearBlotter (leAt b 5 1) (leAt b 8 4) (leAt b 32 4)).complete
         Reg.blotter_CLEAR_RESULT 0).raise Flag.blotter_CLEARED))))

/-- The end of a second of operating time (R452, R459; 16_startup_faults.md R465): OP_S counts and the life clock goes on; with
the Blotter's domain on its quantities are sampled and the per-second counts begin again; in STANDBY nothing is sampled; in reset
D00 counts alone. It rests in part on the model's own choices (log entries 7, 80). -/
def Obligations.OperatingSeconds : Prop :=
  (∀ (s : State) (n : Nat), s.domainOn 0 = true → s.inReset = false →
    let t := ((s.put R.blotter_OP_S (s.get R.blotter_OP_S + 1)).put R.blotter_OP_FRAC 0)
    let u := (t.modBoot fun b => { b with opS := t.get R.blotter_OP_S, opFrac := 0, sinceRelease := b.sinceRelease.map (· + 1) }).lifeTicks n
    (s.domainOn 4 = false → exec (.histogramSample n) s = .next (u.modPower fun p => { p with secMax := none })) ∧
    (s.domainOn 4 = true → exec (.histogramSample n) s = .next ((u.each (List.range 35) fun s q =>
      match s.quantity q with | none => s | some v => s.histSample q v).loadRegs.newSecond)) ∧
    u.get R.blotter_OP_S = (s.get R.blotter_OP_S + 1) % 2 ^ 32 ∧ u.strong.lifeClock = (s.strong.lifeClock + n) % 2 ^ 32) ∧
  (∀ (s : State) (n : Nat), s.domainOn 0 = true → s.inReset = true →
    ∃ t, exec (.histogramSample n) s = .next t ∧ t.boot = { s.boot with opS := s.boot.opS + 1 } ∧
      t.get R.blotter_OP_S = s.get R.blotter_OP_S) ∧
  (∀ (s : State) (q v : Nat), q < 35 → let h := (s.histSample q v).hist q
    let b := binOf (histEdges q) v
    (b < (s.hist q).bins.length → h.bins.getD b 0 = min ((s.hist q).bins.getD b 0 + 1) (2 ^ 32 - 1)) ∧
    (∀ i, i ≠ b → h.bins.getD i 0 = (s.hist q).bins.getD i 0) ∧ (∀ r, r ≠ q → (s.histSample q v).hist r = s.hist r))

/-- Resets (R464 to R468): a PIN reset acts at once and a SOFT or WATCHDOG one after its drain; whatever the cause every register
but RESET_COUNT, PERSIST_FAIL and DOM_ON returns to its reset value, rings, links and stream memory are forgotten, D00 and D01
alone stay on, and fuses stay; the records that were pending, but for those of the save set in force, are counted. Without main
rails, and where the management core does not run, nothing happens. Power-on (R465; 13_strongroom.md R375): every register but
DOM_ON and, while D01 lives, PERSIST_FAIL is at its reset value, the cause is POWER_ON, the life clock has gone on; with D01 lost
too its root, slots and tamper record are gone and the check word fails. Fuses stay. It rests in part on the model's own choices
(log entries 4, 54, 97). -/
def Obligations.Resets : Prop :=
  (let warm (s t : State) (cause : BitVec 5) (left : List (Nat × BitVec 8 × Bool)) : Prop :=
     (s.inReset = false →
       t.boot.lost = (s.blot.ring.filter fun r => r.pending && !(s.interruptWrites left true).savedOf r).length) ∧
     t.boot.held = true ∧ t.boot.drain = false ∧ t.boot.causes = s.boot.causes ||| cause ∧ t.boot.recorded = false ∧
     (∀ a, a ∉ [Reg.global_RESET_COUNT, Reg.blotter_PERSIST_FAIL, Reg.power_DOM_ON_LO, Reg.power_DOM_ON_HI] → t.rd a = regReset a) ∧
     t.get R.blotter_PERSIST_FAIL = s.get R.blotter_PERSIST_FAIL ∧ (∀ d, d < 62 → t.domainOn d = decide (d ≤ 1)) ∧
     t.blot = {} ∧ t.ports = [] ∧ t.streams = [] ∧ t.mem = {} ∧ t.evq = {} ∧ t.strong.fuses = s.strong.fuses ∧
     t.strong.root = s.strong.root ∧ t.strong.debug = 0 ∧ t.sram = s.sram
   (∀ (s : State) (left : List (Nat × BitVec 8 × Bool)), s.power.vbatOnly = false → ∃ t, exec (.pinReset left) s = .next t ∧ warm s t 4 left) ∧
   (∀ (s : State) (left : List (Nat × BitVec 8 × Bool)), s.power.vbatOnly = true → exec (.pinReset left) s = .next s) ∧
   (∀ (s : State) (left : List (Nat × BitVec 8 × Bool)), (s.boot.drain = false → exec (.resetDrainEnd left) s = .next s) ∧
     (s.boot.drain = true → ∃ t, exec (.resetDrainEnd left) s = .next t ∧ warm s t 0 left)) ∧
   (∀ (s : State) (left : List (Nat × BitVec 8 × Bool)), (s.coreRuns = false → ∀ b, exec (.watchdogExpiry b left) s = .next s) ∧
     (s.coreRuns = true → s.boot.drain = false → exec (.watchdogExpiry false left) s =
       .next { s with boot := { s.boot with drain := true, causes := s.boot.causes ||| 8 } }) ∧
     (s.coreRuns = true → s.boot.drain = true → ∃ t, exec (.watchdogExpiry false left) s = .next t ∧ warm s t 8 left)) ∧
   (∀ s : State, Answers s Reg.global_RESET_CMD →
     (∀ (key : BitVec 16) (soft : Bool), key ≠ 0xC96D ∨ soft = false ∨ s.boot.drain = true →
       exec (.softResetRequest key soft) s = .next s) ∧
     (s.boot.drain = false → exec (.softResetRequest 0xC96D true) s =
       .next { s with boot := { s.boot with drain := true, causes := s.boot.causes ||| 16 } }))) ∧
  (∀ (s : State) (lifeS : Nat) (left : List (Nat × BitVec 8 × Bool)) (vbatLost : Bool),
     ∃ t, exec (.powerOnReset vbatLost lifeS left) s = .next t ∧ t.boot = { causes := 2 } ∧ t.sram = [] ∧ t.power.vbatOnly = false ∧
       t.power.shutdown = false ∧ t.mem = {} ∧ t.blot = {} ∧ t.strong.fuses = s.strong.fuses ∧
       (∀ a, a ∉ [Reg.blotter_PERSIST_FAIL, Reg.power_DOM_ON_LO, Reg.power_DOM_ON_HI] → t.rd a = regReset a) ∧
       t.get R.blotter_PERSIST_FAIL = (if vbatLost then 0 else s.get R.blotter_PERSIST_FAIL) ∧
       (∀ d, d < 62 → t.domainOn d = decide (d ≤ 1)) ∧
       (vbatLost = false → t.strong.root = s.strong.root ∧ t.strong.bank = s.strong.bank ∧ t.strong.tamperLog = s.strong.tamperLog ∧
         t.strong.lifeClock = (s.strong.lifeClock + lifeS) % 2 ^ 32 ∧ t.power.note = s.power.note) ∧
       (vbatLost = true → t.strong.root = [] ∧ t.strong.rootCheck = false ∧ t.strong.tamperLog = [] ∧ t.strong.lifeClock = 0))

/-- The cold boot (R469, R472; 14_power_thermal.md R435): it runs from a reset alone, is held while the device is too hot, and
without a firmware copy that verifies ends in FIRMWARE_FAIL with GLOBAL, the flash and the debug port left; training and release
follow. The ECC fault ends at its acknowledgement (R476). It rests in part on the model's own choices (log entries 75, 76, 77, 78,
79). -/
def Obligations.StartUp : Prop :=
  (∀ (s : State) (ok : Bool) (rs : List (Nat × List (BitVec 17))),
    (s.boot.held = false ∨ s.power.vbatOnly = true ∨ s.power.shutdown = true → exec (.coldBoot ok rs) s = .next s) ∧
    (s.boot.held = true → s.power.vbatOnly = false → s.power.shutdown = false → s.tooHot = true →
      exec (.coldBoot ok rs) s = .next { s with boot := { s.boot with causes := s.boot.causes ||| 1 } }) ∧
    (s.boot.held = true → s.power.vbatOnly = false → s.power.shutdown = false → s.tooHot = false →
      let a := ((s.wr Reg.global_RESET_CAUSE (s.boot.causes.zeroExtend 32)).modBoot
        fun b => { b with held := false, causes := 0, drain := false }).clearTrace
      let b := (((a.setDomains bareDomain).vbatRecovered).completeFuses).synthStarts
      let floor := if s.boot.causes &&& 2 = 0 then some (s.boot.opS, s.boot.opFrac) else none
      exec (.coldBoot ok rs) s = .next (match b.chooseZalu with
        | none => b.firmwareFails
        | some (copyB, im, key) => ((b.zaluStarts copyB im key).zaluBoots floor ok).loadBootImage rs))) ∧
  (∀ b : State, b.firmwareFails.get R.global_BOOT_STATUS_STAGE = 6 ∧
    (∀ d, d < 62 → b.firmwareFails.domainOn d = (decide (d ≤ 2) || d == 7 || d == 61)) ∧ b.firmwareFails.faults.getLsbD 1 = true) ∧
  (∀ (s : State) (failed : List (Fin 32)),
    (s.boot.waiting = false ∨ s.on R.memory_STATUS_TRAINED = true → exec (.memoryTrainingDone failed) s = .next s) ∧
    (s.boot.waiting = true → s.on R.memory_STATUS_TRAINED = false →
      (∃ t, exec (.memoryTrainingDone []) s = .next t ∧ t.on R.memory_STATUS_TRAINED = true ∧ t.on R.memory_STATUS_WARMUP = true ∧
        OnlyRegs s t [Reg.memory_STATUS] ∧ t = { s with regs := t.regs, mem := t.mem }) ∧
      (failed ≠ [] → 3 ≤ s.mem.trainTries → ∃ t, exec (.memoryTrainingDone failed) s = .next t ∧
        t.get R.global_BOOT_STATUS_STAGE = 5 ∧ t.boot.waiting = false ∧ (∀ d, d < 62 → t.domainOn d = bareDomain d) ∧
        t.get Flag.memory_TRAIN_FAIL.fld = 1 ∧ t.faults.getLsbD 2 = true) ∧
      (failed ≠ [] → s.mem.trainTries < 3 → ∃ t, exec (.memoryTrainingDone failed) s = .next t ∧ t.boot = s.boot ∧
        t.mem.trainTries = s.mem.trainTries + 1 ∧ t.on R.memory_STATUS_TRAINED = false))) ∧
  (∀ (s : State) (ms : Nat), (s.boot.waiting = false → exec (.bootRelease ms) s = .next s) ∧
    (∀ target, s.loadTarget = some target → s.boot.waiting = true → s.on R.memory_STATUS_TRAINED = true →
      let a := ((s.put R.global_BOOT_STATUS_STAGE 3).put R.global_BOOT_STATUS_RELEASE_MS (min ms 0xFFFF)).modBoot
        fun b => { b with waiting := false, sinceRelease := some 0 }
      exec (.bootRelease ms) s = .next (a.releaseUnits target) ∧ a.get R.global_BOOT_STATUS_STAGE = 3 ∧
        a.get R.global_BOOT_STATUS_RELEASE_MS = min ms 0xFFFF)) ∧
  (∀ s : State, Answers s Reg.global_FAULT_ACK →
    exec .faultAckEcc s = .next { s with faults := s.faults &&& ~~~0x040#10 })
end

