-- ==== Sys2Proof/Laws/Sparse.lean ====
section
/-!
SUPPORT. Laws of sparse maps: reading back a write, other keys unchanged, and the canonical form kept.
-/
namespace Sys2Proof.Machine
variable {α : Type}

theorem Sparse.get_erase_self (d : Nat → α) (m : List (Nat × α)) (a : Nat) :
    Sparse.get d (Sparse.erase m a) a = d a := by
  induction m with
  | nil => rfl
  | cons e m ih =>
    obtain ⟨k, v⟩ := e
    by_cases h : k = a <;> simp [Sparse.erase, Sparse.get, h, ih]

theorem Sparse.get_erase_ne (d : Nat → α) (m : List (Nat × α)) {a b : Nat} (h : b ≠ a) :
    Sparse.get d (Sparse.erase m a) b = Sparse.get d m b := by
  induction m with
  | nil => rfl
  | cons e m ih =>
    obtain ⟨k, v⟩ := e
    by_cases hk : k = a
    · subst hk
      simp [Sparse.erase, Sparse.get, ih, Ne.symm h]
    · by_cases hb : k = b
      · subst hb
        simp [Sparse.erase, Sparse.get, hk]
      · simp [Sparse.erase, Sparse.get, hk, hb, ih]

theorem Sparse.get_insert_ne (d : Nat → α) (m : List (Nat × α)) (v : α) {a b : Nat} (h : b ≠ a) :
    Sparse.get d (Sparse.insert m a v) b = Sparse.get d m b := by
  induction m with
  | nil => simp [Sparse.insert, Sparse.get, Ne.symm h]
  | cons e m ih =>
    obtain ⟨k, w⟩ := e
    by_cases hk : a < k
    · simp [Sparse.insert, Sparse.get, hk, Ne.symm h]
    · by_cases hb : k = b
      · subst hb
        simp [Sparse.insert, Sparse.get, hk]
      · simp [Sparse.insert, Sparse.get, hk, hb, ih]

theorem Sparse.get_insert_erase (d : Nat → α) (m : List (Nat × α)) (a : Nat) (v : α) :
    Sparse.get d (Sparse.insert (Sparse.erase m a) a v) a = v := by
  induction m with
  | nil => simp [Sparse.erase, Sparse.insert, Sparse.get]
  | cons e m ih =>
    obtain ⟨k, w⟩ := e
    by_cases hk : k = a
    · simpa [Sparse.erase, hk] using ih
    · by_cases hl : a < k <;> simp [Sparse.erase, Sparse.insert, Sparse.get, hk, hl, ih]

/-- A read of a key just written gives the value written. -/
@[simp] theorem Sparse.get_set_self [DecidableEq α] (d : Nat → α) (m : List (Nat × α)) (a : Nat) (v : α) :
    Sparse.get d (Sparse.set d m a v) a = v := by
  by_cases h : v = d a
  · simp [Sparse.set, h, Sparse.get_erase_self]
  · simp [Sparse.set, h, Sparse.get_insert_erase]

/-- A write leaves every other key alone. -/
theorem Sparse.get_set_ne [DecidableEq α] (d : Nat → α) (m : List (Nat × α)) (v : α) {a b : Nat} (h : b ≠ a) :
    Sparse.get d (Sparse.set d m a v) b = Sparse.get d m b := by
  by_cases hv : v = d a
  · simp [Sparse.set, hv, Sparse.get_erase_ne d m h]
  · simp [Sparse.set, hv, Sparse.get_insert_ne d _ v h, Sparse.get_erase_ne d m h]

theorem Sparse.wfAbove_weaken [DecidableEq α] (d : Nat → α) {m : List (Nat × α)} {b c : Nat} (hbc : c ≤ b)
    (h : Sparse.wfAbove d (some b) m = true) : Sparse.wfAbove d (some c) m = true := by
  cases m with
  | nil => rfl
  | cons e m =>
    obtain ⟨k, v⟩ := e
    simp only [Sparse.wfAbove, Bool.and_eq_true, decide_eq_true_eq] at h ⊢
    exact ⟨⟨by omega, h.1.2⟩, h.2⟩

theorem Sparse.wfAbove_none [DecidableEq α] (d : Nat → α) {m : List (Nat × α)} {b : Nat}
    (h : Sparse.wfAbove d (some b) m = true) : Sparse.wfAbove d none m = true := by
  cases m with
  | nil => rfl
  | cons e m =>
    obtain ⟨k, v⟩ := e
    simp only [Sparse.wfAbove, Bool.and_eq_true, decide_eq_true_eq] at h ⊢
    exact ⟨⟨trivial, h.1.2⟩, h.2⟩

theorem Sparse.wfAbove_erase [DecidableEq α] (d : Nat → α) (a : Nat) (m : List (Nat × α)) :
    ∀ b, Sparse.wfAbove d b m = true → Sparse.wfAbove d b (Sparse.erase m a) = true := by
  induction m with
  | nil => intro b h; exact h
  | cons e m ih =>
    obtain ⟨k, v⟩ := e
    intro b h
    simp only [Sparse.wfAbove, Bool.and_eq_true] at h
    by_cases hk : k = a
    · simp only [Sparse.erase, hk, if_true]
      have h2 := ih _ h.2
      cases b with
      | none => exact Sparse.wfAbove_none d h2
      | some n =>
        have hn : n < k := by simpa using h.1.1
        exact Sparse.wfAbove_weaken d (Nat.le_of_lt hn) h2
    · simp only [Sparse.erase, hk, if_false, Sparse.wfAbove, Bool.and_eq_true]
      exact ⟨h.1, ih _ h.2⟩

/-- No entry of a canonical map has key `a`. -/
def Sparse.absent (m : List (Nat × α)) (a : Nat) : Prop := ∀ e ∈ m, e.1 ≠ a

theorem Sparse.absent_erase (m : List (Nat × α)) (a : Nat) : Sparse.absent (Sparse.erase m a) a := by
  induction m with
  | nil => intro e he; simp [Sparse.erase] at he
  | cons e m ih =>
    obtain ⟨k, v⟩ := e
    by_cases hk : k = a
    · simpa [Sparse.erase, hk] using ih
    · intro x hx
      simp only [Sparse.erase, hk, if_false, List.mem_cons] at hx
      rcases hx with rfl | hx
      · exact hk
      · exact ih x hx

theorem Sparse.wfAbove_insert [DecidableEq α] (d : Nat → α) (a : Nat) (v : α) (hv : v ≠ d a) (m : List (Nat × α)) :
    ∀ b, (∀ n, b = some n → n < a) → Sparse.absent m a → Sparse.wfAbove d b m = true →
      Sparse.wfAbove d b (Sparse.insert m a v) = true := by
  induction m with
  | nil =>
    intro b hb _ _
    cases b with
    | none => simp [Sparse.insert, Sparse.wfAbove, hv]
    | some n => simp [Sparse.insert, Sparse.wfAbove, hv, hb n rfl]
  | cons e m ih =>
    obtain ⟨k, w⟩ := e
    intro b hb ha h
    simp only [Sparse.wfAbove, Bool.and_eq_true] at h
    have hk : k ≠ a := ha (k, w) (by simp)
    by_cases hl : a < k
    · simp only [Sparse.insert, hl, if_true, Sparse.wfAbove, Bool.and_eq_true]
      refine ⟨⟨?_, by simp [hv]⟩, ⟨by simp [hl], h.1.2⟩, h.2⟩
      cases b with
      | none => rfl
      | some n => simpa using hb n rfl
    · simp only [Sparse.insert, hl, if_false, Sparse.wfAbove, Bool.and_eq_true]
      refine ⟨h.1, ih _ ?_ ?_ h.2⟩
      · intro n hn
        injection hn with hn
        omega
      · intro x hx
        exact ha x (by simp [hx])

/-- A write keeps the canonical form. -/
theorem Sparse.wf_set [DecidableEq α] (d : Nat → α) (m : List (Nat × α)) (a : Nat) (v : α)
    (h : Sparse.wf d m = true) : Sparse.wf d (Sparse.set d m a v) = true := by
  by_cases hv : v = d a
  · simpa [Sparse.set, hv, Sparse.wf] using Sparse.wfAbove_erase d a m none h
  · simp only [Sparse.set, hv, if_false, Sparse.wf]
    exact Sparse.wfAbove_insert d a v hv _ none (by simp) (Sparse.absent_erase m a)
      (Sparse.wfAbove_erase d a m none h)

/-- Taking entries out keeps the canonical form. -/
theorem Sparse.wfAbove_filter [DecidableEq α] (d : Nat → α) (p : Nat × α → Bool) (m : List (Nat × α)) :
    ∀ b, Sparse.wfAbove d b m = true → Sparse.wfAbove d b (m.filter p) = true := by
  induction m with
  | nil => intro b h; exact h
  | cons e m ih =>
    obtain ⟨k, v⟩ := e
    intro b h
    simp only [Sparse.wfAbove, Bool.and_eq_true] at h
    by_cases hp : p (k, v) = true
    · simp only [List.filter_cons, hp, if_true, Sparse.wfAbove, Bool.and_eq_true]
      exact ⟨h.1, ih _ h.2⟩
    · simp only [List.filter_cons, hp]
      have h2 := ih _ h.2
      cases b with
      | none => exact Sparse.wfAbove_none d h2
      | some n =>
        have hn : n < k := by simpa using h.1.1
        exact Sparse.wfAbove_weaken d (Nat.le_of_lt hn) h2

theorem Sparse.wf_filter [DecidableEq α] (d : Nat → α) (p : Nat × α → Bool) (m : List (Nat × α))
    (h : Sparse.wf d m = true) : Sparse.wf d (m.filter p) = true := Sparse.wfAbove_filter d p m none h

theorem Sparse.wf_erase [DecidableEq α] (d : Nat → α) (m : List (Nat × α)) (a : Nat)
    (h : Sparse.wf d m = true) : Sparse.wf d (Sparse.erase m a) = true := Sparse.wfAbove_erase d a m none h

/-- Changing every value and taking out those that come to the unlisted one keeps the canonical form. -/
theorem Sparse.wfAbove_map [DecidableEq α] (d : Nat → α) (f : Nat × α → α) (q : Nat × α → Bool)
    (hq : ∀ k v, q (k, v) = true → v ≠ d k) (m : List (Nat × α)) :
    ∀ b, Sparse.wfAbove d b m = true → Sparse.wfAbove d b ((m.map fun p => (p.1, f p)).filter q) = true := by
  induction m with
  | nil => intro b h; exact h
  | cons e m ih =>
    obtain ⟨k, v⟩ := e
    intro b h
    simp only [Sparse.wfAbove, Bool.and_eq_true] at h
    by_cases hp : q (k, f (k, v)) = true
    · simp only [List.map_cons, List.filter_cons, hp, if_true, Sparse.wfAbove, Bool.and_eq_true]
      exact ⟨⟨h.1.1, by simpa using hq _ _ hp⟩, ih _ h.2⟩
    · simp only [List.map_cons, List.filter_cons, hp]
      have h2 := ih _ h.2
      cases b with
      | none => exact Sparse.wfAbove_none d h2
      | some n =>
        have hn : n < k := by simpa using h.1.1
        exact Sparse.wfAbove_weaken d (Nat.le_of_lt hn) h2

theorem Sparse.wf_map [DecidableEq α] (d : Nat → α) (f : Nat × α → α) (q : Nat × α → Bool)
    (hq : ∀ k v, q (k, v) = true → v ≠ d k) (m : List (Nat × α)) (h : Sparse.wf d m = true) :
    Sparse.wf d ((m.map fun p => (p.1, f p)).filter q) = true := Sparse.wfAbove_map d f q hq m none h

/-- The same where entries are taken out first. -/
theorem Sparse.wfAbove_filter_map [DecidableEq α] (d : Nat → α) (q : Nat × α → Bool) (f : Nat × α → α)
    (hq : ∀ p, q p = true → f p ≠ d p.1) (m : List (Nat × α)) :
    ∀ b, Sparse.wfAbove d b m = true → Sparse.wfAbove d b ((m.filter q).map fun p => (p.1, f p)) = true := by
  induction m with
  | nil => intro b h; exact h
  | cons e m ih =>
    obtain ⟨k, v⟩ := e
    intro b h
    simp only [Sparse.wfAbove, Bool.and_eq_true] at h
    by_cases hp : q (k, v) = true
    · simp only [List.filter_cons, hp, if_true, List.map_cons, Sparse.wfAbove, Bool.and_eq_true]
      exact ⟨⟨h.1.1, by simpa using hq _ hp⟩, ih _ h.2⟩
    · simp only [List.filter_cons, hp]
      have h2 := ih _ h.2
      cases b with
      | none => exact Sparse.wfAbove_none d h2
      | some n =>
        have hn : n < k := by simpa using h.1.1
        exact Sparse.wfAbove_weaken d (Nat.le_of_lt hn) h2

theorem Sparse.wf_filter_map [DecidableEq α] (d : Nat → α) (q : Nat × α → Bool) (f : Nat × α → α)
    (hq : ∀ p, q p = true → f p ≠ d p.1) (m : List (Nat × α)) (h : Sparse.wf d m = true) :
    Sparse.wf d ((m.filter q).map fun p => (p.1, f p)) = true := Sparse.wfAbove_filter_map d q f hq m none h

end Sys2Proof.Machine
end

