-- ==== Sys2Proof/Laws/State.lean ====
section
/-!
SUPPORT. What each shared update of the state leaves alone, one lemma per field, true by unfolding.
-/
namespace Sys2Proof.Machine
open Sys2Proof

@[simp] theorem State.wr_pending (s : State) (a : Nat) (v : BitVec 32) : (s.wr a v).pending = s.pending := rfl
@[simp] theorem State.wr_regs (s : State) (a : Nat) (v : BitVec 32) : (s.wr a v).regs = Sparse.set regReset s.regs a v := rfl
@[simp] theorem State.wr_ruling (s : State) (a : Nat) (v : BitVec 32) : (s.wr a v).ruling = s.ruling := rfl
@[simp] theorem State.wr_synOuts (s : State) (a : Nat) (v : BitVec 32) : (s.wr a v).synOuts = s.synOuts := rfl
@[simp] theorem State.wr_evq (s : State) (a : Nat) (v : BitVec 32) : (s.wr a v).evq = s.evq := rfl
@[simp] theorem State.wr_gpio (s : State) (a : Nat) (v : BitVec 32) : (s.wr a v).gpio = s.gpio := rfl
@[simp] theorem State.wr_attic (s : State) (a : Nat) (v : BitVec 32) : (s.wr a v).attic = s.attic := rfl
@[simp] theorem State.wr_blot (s : State) (a : Nat) (v : BitVec 32) : (s.wr a v).blot = s.blot := rfl
@[simp] theorem State.wr_fabric (s : State) (a : Nat) (v : BitVec 32) : (s.wr a v).fabric = s.fabric := rfl
@[simp] theorem State.wr_strong (s : State) (a : Nat) (v : BitVec 32) : (s.wr a v).strong = s.strong := rfl
@[simp] theorem State.wr_ports (s : State) (a : Nat) (v : BitVec 32) : (s.wr a v).ports = s.ports := rfl
@[simp] theorem State.wr_mem (s : State) (a : Nat) (v : BitVec 32) : (s.wr a v).mem = s.mem := rfl
@[simp] theorem State.wr_streams (s : State) (a : Nat) (v : BitVec 32) : (s.wr a v).streams = s.streams := rfl
@[simp] theorem State.wr_mots (s : State) (a : Nat) (v : BitVec 32) : (s.wr a v).mots = s.mots := rfl
@[simp] theorem State.wr_xsWaiting (s : State) (a : Nat) (v : BitVec 32) : (s.wr a v).xsWaiting = s.xsWaiting := rfl
@[simp] theorem State.wr_audio (s : State) (a : Nat) (v : BitVec 32) : (s.wr a v).audio = s.audio := rfl
@[simp] theorem State.wr_cellar (s : State) (a : Nat) (v : BitVec 32) : (s.wr a v).cellar = s.cellar := rfl
@[simp] theorem State.wr_folios (s : State) (a : Nat) (v : BitVec 32) : (s.wr a v).folios = s.folios := rfl
@[simp] theorem State.wr_power (s : State) (a : Nat) (v : BitVec 32) : (s.wr a v).power = s.power := rfl
@[simp] theorem State.wr_boot (s : State) (a : Nat) (v : BitVec 32) : (s.wr a v).boot = s.boot := rfl
@[simp] theorem State.wr_host (s : State) (a : Nat) (v : BitVec 32) : (s.wr a v).host = s.host := rfl
@[simp] theorem State.wr_sysif (s : State) (a : Nat) (v : BitVec 32) : (s.wr a v).sysif = s.sysif := rfl
@[simp] theorem State.wr_flash (s : State) (a : Nat) (v : BitVec 32) : (s.wr a v).flash = s.flash := rfl
@[simp] theorem State.wr_sram (s : State) (a : Nat) (v : BitVec 32) : (s.wr a v).sram = s.sram := rfl
@[simp] theorem State.wr_trace (s : State) (a : Nat) (v : BitVec 32) : (s.wr a v).trace = s.trace := rfl
@[simp] theorem State.wr_faults (s : State) (a : Nat) (v : BitVec 32) : (s.wr a v).faults = s.faults := rfl
@[simp] theorem State.wr_loads (s : State) (a : Nat) (v : BitVec 32) : (s.wr a v).loads = s.loads := rfl
@[simp] theorem State.wr_out (s : State) (a : Nat) (v : BitVec 32) : (s.wr a v).out = s.out := rfl
@[simp] theorem State.wr_freeCount (s : State) (a : Nat) (v : BitVec 32) : (s.wr a v).freeCount = s.freeCount := rfl

@[simp] theorem State.put_pending (s : State) (f : Fld) (v : Nat) : (s.put f v).pending = s.pending := rfl
@[simp] theorem State.put_ruling (s : State) (f : Fld) (v : Nat) : (s.put f v).ruling = s.ruling := rfl
@[simp] theorem State.put_synOuts (s : State) (f : Fld) (v : Nat) : (s.put f v).synOuts = s.synOuts := rfl
@[simp] theorem State.put_evq (s : State) (f : Fld) (v : Nat) : (s.put f v).evq = s.evq := rfl
@[simp] theorem State.put_gpio (s : State) (f : Fld) (v : Nat) : (s.put f v).gpio = s.gpio := rfl
@[simp] theorem State.put_attic (s : State) (f : Fld) (v : Nat) : (s.put f v).attic = s.attic := rfl
@[simp] theorem State.put_blot (s : State) (f : Fld) (v : Nat) : (s.put f v).blot = s.blot := rfl
@[simp] theorem State.put_fabric (s : State) (f : Fld) (v : Nat) : (s.put f v).fabric = s.fabric := rfl
@[simp] theorem State.put_strong (s : State) (f : Fld) (v : Nat) : (s.put f v).strong = s.strong := rfl
@[simp] theorem State.put_ports (s : State) (f : Fld) (v : Nat) : (s.put f v).ports = s.ports := rfl
@[simp] theorem State.put_mem (s : State) (f : Fld) (v : Nat) : (s.put f v).mem = s.mem := rfl
@[simp] theorem State.put_streams (s : State) (f : Fld) (v : Nat) : (s.put f v).streams = s.streams := rfl
@[simp] theorem State.put_mots (s : State) (f : Fld) (v : Nat) : (s.put f v).mots = s.mots := rfl
@[simp] theorem State.put_xsWaiting (s : State) (f : Fld) (v : Nat) : (s.put f v).xsWaiting = s.xsWaiting := rfl
@[simp] theorem State.put_audio (s : State) (f : Fld) (v : Nat) : (s.put f v).audio = s.audio := rfl
@[simp] theorem State.put_cellar (s : State) (f : Fld) (v : Nat) : (s.put f v).cellar = s.cellar := rfl
@[simp] theorem State.put_folios (s : State) (f : Fld) (v : Nat) : (s.put f v).folios = s.folios := rfl
@[simp] theorem State.put_power (s : State) (f : Fld) (v : Nat) : (s.put f v).power = s.power := rfl
@[simp] theorem State.put_boot (s : State) (f : Fld) (v : Nat) : (s.put f v).boot = s.boot := rfl
@[simp] theorem State.put_host (s : State) (f : Fld) (v : Nat) : (s.put f v).host = s.host := rfl
@[simp] theorem State.put_sysif (s : State) (f : Fld) (v : Nat) : (s.put f v).sysif = s.sysif := rfl
@[simp] theorem State.put_flash (s : State) (f : Fld) (v : Nat) : (s.put f v).flash = s.flash := rfl
@[simp] theorem State.put_sram (s : State) (f : Fld) (v : Nat) : (s.put f v).sram = s.sram := rfl
@[simp] theorem State.put_trace (s : State) (f : Fld) (v : Nat) : (s.put f v).trace = s.trace := rfl
@[simp] theorem State.put_faults (s : State) (f : Fld) (v : Nat) : (s.put f v).faults = s.faults := rfl
@[simp] theorem State.put_loads (s : State) (f : Fld) (v : Nat) : (s.put f v).loads = s.loads := rfl
@[simp] theorem State.put_out (s : State) (f : Fld) (v : Nat) : (s.put f v).out = s.out := rfl
@[simp] theorem State.put_freeCount (s : State) (f : Fld) (v : Nat) : (s.put f v).freeCount = s.freeCount := rfl

@[simp] theorem State.putInt_pending (s : State) (f : Fld) (v : Int) : (s.putInt f v).pending = s.pending := rfl
@[simp] theorem State.putInt_ruling (s : State) (f : Fld) (v : Int) : (s.putInt f v).ruling = s.ruling := rfl
@[simp] theorem State.putInt_synOuts (s : State) (f : Fld) (v : Int) : (s.putInt f v).synOuts = s.synOuts := rfl
@[simp] theorem State.putInt_evq (s : State) (f : Fld) (v : Int) : (s.putInt f v).evq = s.evq := rfl
@[simp] theorem State.putInt_gpio (s : State) (f : Fld) (v : Int) : (s.putInt f v).gpio = s.gpio := rfl
@[simp] theorem State.putInt_attic (s : State) (f : Fld) (v : Int) : (s.putInt f v).attic = s.attic := rfl
@[simp] theorem State.putInt_blot (s : State) (f : Fld) (v : Int) : (s.putInt f v).blot = s.blot := rfl
@[simp] theorem State.putInt_fabric (s : State) (f : Fld) (v : Int) : (s.putInt f v).fabric = s.fabric := rfl
@[simp] theorem State.putInt_strong (s : State) (f : Fld) (v : Int) : (s.putInt f v).strong = s.strong := rfl
@[simp] theorem State.putInt_ports (s : State) (f : Fld) (v : Int) : (s.putInt f v).ports = s.ports := rfl
@[simp] theorem State.putInt_mem (s : State) (f : Fld) (v : Int) : (s.putInt f v).mem = s.mem := rfl
@[simp] theorem State.putInt_streams (s : State) (f : Fld) (v : Int) : (s.putInt f v).streams = s.streams := rfl
@[simp] theorem State.putInt_mots (s : State) (f : Fld) (v : Int) : (s.putInt f v).mots = s.mots := rfl
@[simp] theorem State.putInt_xsWaiting (s : State) (f : Fld) (v : Int) : (s.putInt f v).xsWaiting = s.xsWaiting := rfl
@[simp] theorem State.putInt_audio (s : State) (f : Fld) (v : Int) : (s.putInt f v).audio = s.audio := rfl
@[simp] theorem State.putInt_cellar (s : State) (f : Fld) (v : Int) : (s.putInt f v).cellar = s.cellar := rfl
@[simp] theorem State.putInt_folios (s : State) (f : Fld) (v : Int) : (s.putInt f v).folios = s.folios := rfl
@[simp] theorem State.putInt_power (s : State) (f : Fld) (v : Int) : (s.putInt f v).power = s.power := rfl
@[simp] theorem State.putInt_boot (s : State) (f : Fld) (v : Int) : (s.putInt f v).boot = s.boot := rfl
@[simp] theorem State.putInt_host (s : State) (f : Fld) (v : Int) : (s.putInt f v).host = s.host := rfl
@[simp] theorem State.putInt_sysif (s : State) (f : Fld) (v : Int) : (s.putInt f v).sysif = s.sysif := rfl
@[simp] theorem State.putInt_flash (s : State) (f : Fld) (v : Int) : (s.putInt f v).flash = s.flash := rfl
@[simp] theorem State.putInt_sram (s : State) (f : Fld) (v : Int) : (s.putInt f v).sram = s.sram := rfl
@[simp] theorem State.putInt_trace (s : State) (f : Fld) (v : Int) : (s.putInt f v).trace = s.trace := rfl
@[simp] theorem State.putInt_faults (s : State) (f : Fld) (v : Int) : (s.putInt f v).faults = s.faults := rfl
@[simp] theorem State.putInt_loads (s : State) (f : Fld) (v : Int) : (s.putInt f v).loads = s.loads := rfl
@[simp] theorem State.putInt_out (s : State) (f : Fld) (v : Int) : (s.putInt f v).out = s.out := rfl
@[simp] theorem State.putInt_freeCount (s : State) (f : Fld) (v : Int) : (s.putInt f v).freeCount = s.freeCount := rfl

@[simp] theorem State.bumpBy_pending (s : State) (f : Fld) (n : Nat) : (s.bumpBy f n).pending = s.pending := rfl
@[simp] theorem State.bumpBy_ruling (s : State) (f : Fld) (n : Nat) : (s.bumpBy f n).ruling = s.ruling := rfl
@[simp] theorem State.bumpBy_synOuts (s : State) (f : Fld) (n : Nat) : (s.bumpBy f n).synOuts = s.synOuts := rfl
@[simp] theorem State.bumpBy_evq (s : State) (f : Fld) (n : Nat) : (s.bumpBy f n).evq = s.evq := rfl
@[simp] theorem State.bumpBy_gpio (s : State) (f : Fld) (n : Nat) : (s.bumpBy f n).gpio = s.gpio := rfl
@[simp] theorem State.bumpBy_attic (s : State) (f : Fld) (n : Nat) : (s.bumpBy f n).attic = s.attic := rfl
@[simp] theorem State.bumpBy_blot (s : State) (f : Fld) (n : Nat) : (s.bumpBy f n).blot = s.blot := rfl
@[simp] theorem State.bumpBy_fabric (s : State) (f : Fld) (n : Nat) : (s.bumpBy f n).fabric = s.fabric := rfl
@[simp] theorem State.bumpBy_strong (s : State) (f : Fld) (n : Nat) : (s.bumpBy f n).strong = s.strong := rfl
@[simp] theorem State.bumpBy_ports (s : State) (f : Fld) (n : Nat) : (s.bumpBy f n).ports = s.ports := rfl
@[simp] theorem State.bumpBy_mem (s : State) (f : Fld) (n : Nat) : (s.bumpBy f n).mem = s.mem := rfl
@[simp] theorem State.bumpBy_streams (s : State) (f : Fld) (n : Nat) : (s.bumpBy f n).streams = s.streams := rfl
@[simp] theorem State.bumpBy_mots (s : State) (f : Fld) (n : Nat) : (s.bumpBy f n).mots = s.mots := rfl
@[simp] theorem State.bumpBy_xsWaiting (s : State) (f : Fld) (n : Nat) : (s.bumpBy f n).xsWaiting = s.xsWaiting := rfl
@[simp] theorem State.bumpBy_audio (s : State) (f : Fld) (n : Nat) : (s.bumpBy f n).audio = s.audio := rfl
@[simp] theorem State.bumpBy_cellar (s : State) (f : Fld) (n : Nat) : (s.bumpBy f n).cellar = s.cellar := rfl
@[simp] theorem State.bumpBy_folios (s : State) (f : Fld) (n : Nat) : (s.bumpBy f n).folios = s.folios := rfl
@[simp] theorem State.bumpBy_power (s : State) (f : Fld) (n : Nat) : (s.bumpBy f n).power = s.power := rfl
@[simp] theorem State.bumpBy_boot (s : State) (f : Fld) (n : Nat) : (s.bumpBy f n).boot = s.boot := rfl
@[simp] theorem State.bumpBy_host (s : State) (f : Fld) (n : Nat) : (s.bumpBy f n).host = s.host := rfl
@[simp] theorem State.bumpBy_sysif (s : State) (f : Fld) (n : Nat) : (s.bumpBy f n).sysif = s.sysif := rfl
@[simp] theorem State.bumpBy_flash (s : State) (f : Fld) (n : Nat) : (s.bumpBy f n).flash = s.flash := rfl
@[simp] theorem State.bumpBy_sram (s : State) (f : Fld) (n : Nat) : (s.bumpBy f n).sram = s.sram := rfl
@[simp] theorem State.bumpBy_trace (s : State) (f : Fld) (n : Nat) : (s.bumpBy f n).trace = s.trace := rfl
@[simp] theorem State.bumpBy_faults (s : State) (f : Fld) (n : Nat) : (s.bumpBy f n).faults = s.faults := rfl
@[simp] theorem State.bumpBy_loads (s : State) (f : Fld) (n : Nat) : (s.bumpBy f n).loads = s.loads := rfl
@[simp] theorem State.bumpBy_out (s : State) (f : Fld) (n : Nat) : (s.bumpBy f n).out = s.out := rfl
@[simp] theorem State.bumpBy_freeCount (s : State) (f : Fld) (n : Nat) : (s.bumpBy f n).freeCount = s.freeCount := rfl

@[simp] theorem State.bump_pending (s : State) (f : Fld) : (s.bump f).pending = s.pending := rfl
@[simp] theorem State.bump_ruling (s : State) (f : Fld) : (s.bump f).ruling = s.ruling := rfl
@[simp] theorem State.bump_synOuts (s : State) (f : Fld) : (s.bump f).synOuts = s.synOuts := rfl
@[simp] theorem State.bump_evq (s : State) (f : Fld) : (s.bump f).evq = s.evq := rfl
@[simp] theorem State.bump_gpio (s : State) (f : Fld) : (s.bump f).gpio = s.gpio := rfl
@[simp] theorem State.bump_attic (s : State) (f : Fld) : (s.bump f).attic = s.attic := rfl
@[simp] theorem State.bump_blot (s : State) (f : Fld) : (s.bump f).blot = s.blot := rfl
@[simp] theorem State.bump_fabric (s : State) (f : Fld) : (s.bump f).fabric = s.fabric := rfl
@[simp] theorem State.bump_strong (s : State) (f : Fld) : (s.bump f).strong = s.strong := rfl
@[simp] theorem State.bump_ports (s : State) (f : Fld) : (s.bump f).ports = s.ports := rfl
@[simp] theorem State.bump_mem (s : State) (f : Fld) : (s.bump f).mem = s.mem := rfl
@[simp] theorem State.bump_streams (s : State) (f : Fld) : (s.bump f).streams = s.streams := rfl
@[simp] theorem State.bump_mots (s : State) (f : Fld) : (s.bump f).mots = s.mots := rfl
@[simp] theorem State.bump_xsWaiting (s : State) (f : Fld) : (s.bump f).xsWaiting = s.xsWaiting := rfl
@[simp] theorem State.bump_audio (s : State) (f : Fld) : (s.bump f).audio = s.audio := rfl
@[simp] theorem State.bump_cellar (s : State) (f : Fld) : (s.bump f).cellar = s.cellar := rfl
@[simp] theorem State.bump_folios (s : State) (f : Fld) : (s.bump f).folios = s.folios := rfl
@[simp] theorem State.bump_power (s : State) (f : Fld) : (s.bump f).power = s.power := rfl
@[simp] theorem State.bump_boot (s : State) (f : Fld) : (s.bump f).boot = s.boot := rfl
@[simp] theorem State.bump_host (s : State) (f : Fld) : (s.bump f).host = s.host := rfl
@[simp] theorem State.bump_sysif (s : State) (f : Fld) : (s.bump f).sysif = s.sysif := rfl
@[simp] theorem State.bump_flash (s : State) (f : Fld) : (s.bump f).flash = s.flash := rfl
@[simp] theorem State.bump_sram (s : State) (f : Fld) : (s.bump f).sram = s.sram := rfl
@[simp] theorem State.bump_trace (s : State) (f : Fld) : (s.bump f).trace = s.trace := rfl
@[simp] theorem State.bump_faults (s : State) (f : Fld) : (s.bump f).faults = s.faults := rfl
@[simp] theorem State.bump_loads (s : State) (f : Fld) : (s.bump f).loads = s.loads := rfl
@[simp] theorem State.bump_out (s : State) (f : Fld) : (s.bump f).out = s.out := rfl
@[simp] theorem State.bump_freeCount (s : State) (f : Fld) : (s.bump f).freeCount = s.freeCount := rfl

@[simp] theorem State.raise_pending (s : State) (f : Flg) : (s.raise f).pending = s.pending := rfl
@[simp] theorem State.raise_ruling (s : State) (f : Flg) : (s.raise f).ruling = s.ruling := rfl
@[simp] theorem State.raise_synOuts (s : State) (f : Flg) : (s.raise f).synOuts = s.synOuts := rfl
@[simp] theorem State.raise_evq (s : State) (f : Flg) : (s.raise f).evq = s.evq := rfl
@[simp] theorem State.raise_gpio (s : State) (f : Flg) : (s.raise f).gpio = s.gpio := rfl
@[simp] theorem State.raise_attic (s : State) (f : Flg) : (s.raise f).attic = s.attic := rfl
@[simp] theorem State.raise_blot (s : State) (f : Flg) : (s.raise f).blot = s.blot := rfl
@[simp] theorem State.raise_fabric (s : State) (f : Flg) : (s.raise f).fabric = s.fabric := rfl
@[simp] theorem State.raise_strong (s : State) (f : Flg) : (s.raise f).strong = s.strong := rfl
@[simp] theorem State.raise_ports (s : State) (f : Flg) : (s.raise f).ports = s.ports := rfl
@[simp] theorem State.raise_mem (s : State) (f : Flg) : (s.raise f).mem = s.mem := rfl
@[simp] theorem State.raise_streams (s : State) (f : Flg) : (s.raise f).streams = s.streams := rfl
@[simp] theorem State.raise_mots (s : State) (f : Flg) : (s.raise f).mots = s.mots := rfl
@[simp] theorem State.raise_xsWaiting (s : State) (f : Flg) : (s.raise f).xsWaiting = s.xsWaiting := rfl
@[simp] theorem State.raise_audio (s : State) (f : Flg) : (s.raise f).audio = s.audio := rfl
@[simp] theorem State.raise_cellar (s : State) (f : Flg) : (s.raise f).cellar = s.cellar := rfl
@[simp] theorem State.raise_folios (s : State) (f : Flg) : (s.raise f).folios = s.folios := rfl
@[simp] theorem State.raise_power (s : State) (f : Flg) : (s.raise f).power = s.power := rfl
@[simp] theorem State.raise_boot (s : State) (f : Flg) : (s.raise f).boot = s.boot := rfl
@[simp] theorem State.raise_host (s : State) (f : Flg) : (s.raise f).host = s.host := rfl
@[simp] theorem State.raise_sysif (s : State) (f : Flg) : (s.raise f).sysif = s.sysif := rfl
@[simp] theorem State.raise_flash (s : State) (f : Flg) : (s.raise f).flash = s.flash := rfl
@[simp] theorem State.raise_sram (s : State) (f : Flg) : (s.raise f).sram = s.sram := rfl
@[simp] theorem State.raise_trace (s : State) (f : Flg) : (s.raise f).trace = s.trace := rfl
@[simp] theorem State.raise_faults (s : State) (f : Flg) : (s.raise f).faults = s.faults := rfl
@[simp] theorem State.raise_loads (s : State) (f : Flg) : (s.raise f).loads = s.loads := rfl
@[simp] theorem State.raise_out (s : State) (f : Flg) : (s.raise f).out = s.out := rfl
@[simp] theorem State.raise_freeCount (s : State) (f : Flg) : (s.raise f).freeCount = s.freeCount := rfl

@[simp] theorem State.accept_pending (s : State) (a : Nat) : (s.accept a).pending = s.pending := rfl
@[simp] theorem State.accept_ruling (s : State) (a : Nat) : (s.accept a).ruling = s.ruling := rfl
@[simp] theorem State.accept_synOuts (s : State) (a : Nat) : (s.accept a).synOuts = s.synOuts := rfl
@[simp] theorem State.accept_evq (s : State) (a : Nat) : (s.accept a).evq = s.evq := rfl
@[simp] theorem State.accept_gpio (s : State) (a : Nat) : (s.accept a).gpio = s.gpio := rfl
@[simp] theorem State.accept_attic (s : State) (a : Nat) : (s.accept a).attic = s.attic := rfl
@[simp] theorem State.accept_blot (s : State) (a : Nat) : (s.accept a).blot = s.blot := rfl
@[simp] theorem State.accept_fabric (s : State) (a : Nat) : (s.accept a).fabric = s.fabric := rfl
@[simp] theorem State.accept_strong (s : State) (a : Nat) : (s.accept a).strong = s.strong := rfl
@[simp] theorem State.accept_ports (s : State) (a : Nat) : (s.accept a).ports = s.ports := rfl
@[simp] theorem State.accept_mem (s : State) (a : Nat) : (s.accept a).mem = s.mem := rfl
@[simp] theorem State.accept_streams (s : State) (a : Nat) : (s.accept a).streams = s.streams := rfl
@[simp] theorem State.accept_mots (s : State) (a : Nat) : (s.accept a).mots = s.mots := rfl
@[simp] theorem State.accept_xsWaiting (s : State) (a : Nat) : (s.accept a).xsWaiting = s.xsWaiting := rfl
@[simp] theorem State.accept_audio (s : State) (a : Nat) : (s.accept a).audio = s.audio := rfl
@[simp] theorem State.accept_cellar (s : State) (a : Nat) : (s.accept a).cellar = s.cellar := rfl
@[simp] theorem State.accept_folios (s : State) (a : Nat) : (s.accept a).folios = s.folios := rfl
@[simp] theorem State.accept_power (s : State) (a : Nat) : (s.accept a).power = s.power := rfl
@[simp] theorem State.accept_boot (s : State) (a : Nat) : (s.accept a).boot = s.boot := rfl
@[simp] theorem State.accept_host (s : State) (a : Nat) : (s.accept a).host = s.host := rfl
@[simp] theorem State.accept_sysif (s : State) (a : Nat) : (s.accept a).sysif = s.sysif := rfl
@[simp] theorem State.accept_flash (s : State) (a : Nat) : (s.accept a).flash = s.flash := rfl
@[simp] theorem State.accept_sram (s : State) (a : Nat) : (s.accept a).sram = s.sram := rfl
@[simp] theorem State.accept_trace (s : State) (a : Nat) : (s.accept a).trace = s.trace := rfl
@[simp] theorem State.accept_faults (s : State) (a : Nat) : (s.accept a).faults = s.faults := rfl
@[simp] theorem State.accept_loads (s : State) (a : Nat) : (s.accept a).loads = s.loads := rfl
@[simp] theorem State.accept_out (s : State) (a : Nat) : (s.accept a).out = s.out := rfl
@[simp] theorem State.accept_freeCount (s : State) (a : Nat) : (s.accept a).freeCount = s.freeCount := rfl

@[simp] theorem State.complete_pending (s : State) (a n : Nat) : (s.complete a n).pending = s.pending := rfl
@[simp] theorem State.complete_ruling (s : State) (a n : Nat) : (s.complete a n).ruling = s.ruling := rfl
@[simp] theorem State.complete_synOuts (s : State) (a n : Nat) : (s.complete a n).synOuts = s.synOuts := rfl
@[simp] theorem State.complete_evq (s : State) (a n : Nat) : (s.complete a n).evq = s.evq := rfl
@[simp] theorem State.complete_gpio (s : State) (a n : Nat) : (s.complete a n).gpio = s.gpio := rfl
@[simp] theorem State.complete_attic (s : State) (a n : Nat) : (s.complete a n).attic = s.attic := rfl
@[simp] theorem State.complete_blot (s : State) (a n : Nat) : (s.complete a n).blot = s.blot := rfl
@[simp] theorem State.complete_fabric (s : State) (a n : Nat) : (s.complete a n).fabric = s.fabric := rfl
@[simp] theorem State.complete_strong (s : State) (a n : Nat) : (s.complete a n).strong = s.strong := rfl
@[simp] theorem State.complete_ports (s : State) (a n : Nat) : (s.complete a n).ports = s.ports := rfl
@[simp] theorem State.complete_mem (s : State) (a n : Nat) : (s.complete a n).mem = s.mem := rfl
@[simp] theorem State.complete_streams (s : State) (a n : Nat) : (s.complete a n).streams = s.streams := rfl
@[simp] theorem State.complete_mots (s : State) (a n : Nat) : (s.complete a n).mots = s.mots := rfl
@[simp] theorem State.complete_xsWaiting (s : State) (a n : Nat) : (s.complete a n).xsWaiting = s.xsWaiting := rfl
@[simp] theorem State.complete_audio (s : State) (a n : Nat) : (s.complete a n).audio = s.audio := rfl
@[simp] theorem State.complete_cellar (s : State) (a n : Nat) : (s.complete a n).cellar = s.cellar := rfl
@[simp] theorem State.complete_folios (s : State) (a n : Nat) : (s.complete a n).folios = s.folios := rfl
@[simp] theorem State.complete_power (s : State) (a n : Nat) : (s.complete a n).power = s.power := rfl
@[simp] theorem State.complete_boot (s : State) (a n : Nat) : (s.complete a n).boot = s.boot := rfl
@[simp] theorem State.complete_host (s : State) (a n : Nat) : (s.complete a n).host = s.host := rfl
@[simp] theorem State.complete_sysif (s : State) (a n : Nat) : (s.complete a n).sysif = s.sysif := rfl
@[simp] theorem State.complete_flash (s : State) (a n : Nat) : (s.complete a n).flash = s.flash := rfl
@[simp] theorem State.complete_sram (s : State) (a n : Nat) : (s.complete a n).sram = s.sram := rfl
@[simp] theorem State.complete_trace (s : State) (a n : Nat) : (s.complete a n).trace = s.trace := rfl
@[simp] theorem State.complete_faults (s : State) (a n : Nat) : (s.complete a n).faults = s.faults := rfl
@[simp] theorem State.complete_loads (s : State) (a n : Nat) : (s.complete a n).loads = s.loads := rfl
@[simp] theorem State.complete_out (s : State) (a n : Nat) : (s.complete a n).out = s.out := rfl
@[simp] theorem State.complete_freeCount (s : State) (a n : Nat) : (s.complete a n).freeCount = s.freeCount := rfl

@[simp] theorem State.emit_pending (s : State) (o : Output) : (s.emit o).pending = s.pending := rfl
@[simp] theorem State.emit_regs (s : State) (o : Output) : (s.emit o).regs = s.regs := rfl
@[simp] theorem State.emit_ruling (s : State) (o : Output) : (s.emit o).ruling = s.ruling := rfl
@[simp] theorem State.emit_synOuts (s : State) (o : Output) : (s.emit o).synOuts = s.synOuts := rfl
@[simp] theorem State.emit_evq (s : State) (o : Output) : (s.emit o).evq = s.evq := rfl
@[simp] theorem State.emit_gpio (s : State) (o : Output) : (s.emit o).gpio = s.gpio := rfl
@[simp] theorem State.emit_attic (s : State) (o : Output) : (s.emit o).attic = s.attic := rfl
@[simp] theorem State.emit_blot (s : State) (o : Output) : (s.emit o).blot = s.blot := rfl
@[simp] theorem State.emit_fabric (s : State) (o : Output) : (s.emit o).fabric = s.fabric := rfl
@[simp] theorem State.emit_strong (s : State) (o : Output) : (s.emit o).strong = s.strong := rfl
@[simp] theorem State.emit_ports (s : State) (o : Output) : (s.emit o).ports = s.ports := rfl
@[simp] theorem State.emit_mem (s : State) (o : Output) : (s.emit o).mem = s.mem := rfl
@[simp] theorem State.emit_streams (s : State) (o : Output) : (s.emit o).streams = s.streams := rfl
@[simp] theorem State.emit_mots (s : State) (o : Output) : (s.emit o).mots = s.mots := rfl
@[simp] theorem State.emit_xsWaiting (s : State) (o : Output) : (s.emit o).xsWaiting = s.xsWaiting := rfl
@[simp] theorem State.emit_audio (s : State) (o : Output) : (s.emit o).audio = s.audio := rfl
@[simp] theorem State.emit_cellar (s : State) (o : Output) : (s.emit o).cellar = s.cellar := rfl
@[simp] theorem State.emit_folios (s : State) (o : Output) : (s.emit o).folios = s.folios := rfl
@[simp] theorem State.emit_power (s : State) (o : Output) : (s.emit o).power = s.power := rfl
@[simp] theorem State.emit_boot (s : State) (o : Output) : (s.emit o).boot = s.boot := rfl
@[simp] theorem State.emit_host (s : State) (o : Output) : (s.emit o).host = s.host := rfl
@[simp] theorem State.emit_sysif (s : State) (o : Output) : (s.emit o).sysif = s.sysif := rfl
@[simp] theorem State.emit_flash (s : State) (o : Output) : (s.emit o).flash = s.flash := rfl
@[simp] theorem State.emit_sram (s : State) (o : Output) : (s.emit o).sram = s.sram := rfl
@[simp] theorem State.emit_trace (s : State) (o : Output) : (s.emit o).trace = s.trace := rfl
@[simp] theorem State.emit_faults (s : State) (o : Output) : (s.emit o).faults = s.faults := rfl
@[simp] theorem State.emit_loads (s : State) (o : Output) : (s.emit o).loads = s.loads := rfl
@[simp] theorem State.emit_out (s : State) (o : Output) : (s.emit o).out = s.out ++ [o] := rfl
@[simp] theorem State.emit_freeCount (s : State) (o : Output) : (s.emit o).freeCount = s.freeCount := rfl
@[simp] theorem State.emit_rd (s : State) (o : Output) (r : Nat) : (s.emit o).rd r = s.rd r := rfl
@[simp] theorem State.emit_get (s : State) (o : Output) (r : Fld) : (s.emit o).get r = s.get r := rfl
@[simp] theorem State.emit_on (s : State) (o : Output) (r : Fld) : (s.emit o).on r = s.on r := rfl

@[simp] theorem State.drawn_pending (s : State)  : (s.drawn).pending = s.pending := rfl
@[simp] theorem State.drawn_regs (s : State)  : (s.drawn).regs = s.regs := rfl
@[simp] theorem State.drawn_ruling (s : State)  : (s.drawn).ruling = s.ruling := rfl
@[simp] theorem State.drawn_synOuts (s : State)  : (s.drawn).synOuts = s.synOuts := rfl
@[simp] theorem State.drawn_evq (s : State)  : (s.drawn).evq = s.evq := rfl
@[simp] theorem State.drawn_gpio (s : State)  : (s.drawn).gpio = s.gpio := rfl
@[simp] theorem State.drawn_attic (s : State)  : (s.drawn).attic = s.attic := rfl
@[simp] theorem State.drawn_blot (s : State)  : (s.drawn).blot = s.blot := rfl
@[simp] theorem State.drawn_fabric (s : State)  : (s.drawn).fabric = s.fabric := rfl
@[simp] theorem State.drawn_strong (s : State)  : (s.drawn).strong = s.strong := rfl
@[simp] theorem State.drawn_ports (s : State)  : (s.drawn).ports = s.ports := rfl
@[simp] theorem State.drawn_mem (s : State)  : (s.drawn).mem = s.mem := rfl
@[simp] theorem State.drawn_streams (s : State)  : (s.drawn).streams = s.streams := rfl
@[simp] theorem State.drawn_mots (s : State)  : (s.drawn).mots = s.mots := rfl
@[simp] theorem State.drawn_xsWaiting (s : State)  : (s.drawn).xsWaiting = s.xsWaiting := rfl
@[simp] theorem State.drawn_audio (s : State)  : (s.drawn).audio = s.audio := rfl
@[simp] theorem State.drawn_cellar (s : State)  : (s.drawn).cellar = s.cellar := rfl
@[simp] theorem State.drawn_folios (s : State)  : (s.drawn).folios = s.folios := rfl
@[simp] theorem State.drawn_power (s : State)  : (s.drawn).power = s.power := rfl
@[simp] theorem State.drawn_boot (s : State)  : (s.drawn).boot = s.boot := rfl
@[simp] theorem State.drawn_host (s : State)  : (s.drawn).host = s.host := rfl
@[simp] theorem State.drawn_sysif (s : State)  : (s.drawn).sysif = s.sysif := rfl
@[simp] theorem State.drawn_flash (s : State)  : (s.drawn).flash = s.flash := rfl
@[simp] theorem State.drawn_sram (s : State)  : (s.drawn).sram = s.sram := rfl
@[simp] theorem State.drawn_trace (s : State)  : (s.drawn).trace = s.trace := rfl
@[simp] theorem State.drawn_faults (s : State)  : (s.drawn).faults = s.faults := rfl
@[simp] theorem State.drawn_loads (s : State)  : (s.drawn).loads = s.loads := rfl
@[simp] theorem State.drawn_out (s : State)  : (s.drawn).out = s.out := rfl
@[simp] theorem State.drawn_freeCount (s : State)  : (s.drawn).freeCount = s.freeCount + 1 := rfl
@[simp] theorem State.drawn_rd (s : State) (r : Nat) : (s.drawn).rd r = s.rd r := rfl
@[simp] theorem State.drawn_get (s : State) (r : Fld) : (s.drawn).get r = s.get r := rfl
@[simp] theorem State.drawn_on (s : State) (r : Fld) : (s.drawn).on r = s.on r := rfl

@[simp] theorem State.setFlash_pending (s : State) (a : Nat) (b : Byte) : (s.setFlash a b).pending = s.pending := rfl
@[simp] theorem State.setFlash_regs (s : State) (a : Nat) (b : Byte) : (s.setFlash a b).regs = s.regs := rfl
@[simp] theorem State.setFlash_ruling (s : State) (a : Nat) (b : Byte) : (s.setFlash a b).ruling = s.ruling := rfl
@[simp] theorem State.setFlash_synOuts (s : State) (a : Nat) (b : Byte) : (s.setFlash a b).synOuts = s.synOuts := rfl
@[simp] theorem State.setFlash_evq (s : State) (a : Nat) (b : Byte) : (s.setFlash a b).evq = s.evq := rfl
@[simp] theorem State.setFlash_gpio (s : State) (a : Nat) (b : Byte) : (s.setFlash a b).gpio = s.gpio := rfl
@[simp] theorem State.setFlash_attic (s : State) (a : Nat) (b : Byte) : (s.setFlash a b).attic = s.attic := rfl
@[simp] theorem State.setFlash_blot (s : State) (a : Nat) (b : Byte) : (s.setFlash a b).blot = s.blot := rfl
@[simp] theorem State.setFlash_fabric (s : State) (a : Nat) (b : Byte) : (s.setFlash a b).fabric = s.fabric := rfl
@[simp] theorem State.setFlash_strong (s : State) (a : Nat) (b : Byte) : (s.setFlash a b).strong = s.strong := rfl
@[simp] theorem State.setFlash_ports (s : State) (a : Nat) (b : Byte) : (s.setFlash a b).ports = s.ports := rfl
@[simp] theorem State.setFlash_mem (s : State) (a : Nat) (b : Byte) : (s.setFlash a b).mem = s.mem := rfl
@[simp] theorem State.setFlash_streams (s : State) (a : Nat) (b : Byte) : (s.setFlash a b).streams = s.streams := rfl
@[simp] theorem State.setFlash_mots (s : State) (a : Nat) (b : Byte) : (s.setFlash a b).mots = s.mots := rfl
@[simp] theorem State.setFlash_xsWaiting (s : State) (a : Nat) (b : Byte) : (s.setFlash a b).xsWaiting = s.xsWaiting := rfl
@[simp] theorem State.setFlash_audio (s : State) (a : Nat) (b : Byte) : (s.setFlash a b).audio = s.audio := rfl
@[simp] theorem State.setFlash_cellar (s : State) (a : Nat) (b : Byte) : (s.setFlash a b).cellar = s.cellar := rfl
@[simp] theorem State.setFlash_folios (s : State) (a : Nat) (b : Byte) : (s.setFlash a b).folios = s.folios := rfl
@[simp] theorem State.setFlash_power (s : State) (a : Nat) (b : Byte) : (s.setFlash a b).power = s.power := rfl
@[simp] theorem State.setFlash_boot (s : State) (a : Nat) (b : Byte) : (s.setFlash a b).boot = s.boot := rfl
@[simp] theorem State.setFlash_host (s : State) (a : Nat) (b : Byte) : (s.setFlash a b).host = s.host := rfl
@[simp] theorem State.setFlash_sysif (s : State) (a : Nat) (b : Byte) : (s.setFlash a b).sysif = s.sysif := rfl
@[simp] theorem State.setFlash_sram (s : State) (a : Nat) (b : Byte) : (s.setFlash a b).sram = s.sram := rfl
@[simp] theorem State.setFlash_trace (s : State) (a : Nat) (b : Byte) : (s.setFlash a b).trace = s.trace := rfl
@[simp] theorem State.setFlash_faults (s : State) (a : Nat) (b : Byte) : (s.setFlash a b).faults = s.faults := rfl
@[simp] theorem State.setFlash_loads (s : State) (a : Nat) (b : Byte) : (s.setFlash a b).loads = s.loads := rfl
@[simp] theorem State.setFlash_out (s : State) (a : Nat) (b : Byte) : (s.setFlash a b).out = s.out := rfl
@[simp] theorem State.setFlash_freeCount (s : State) (a : Nat) (b : Byte) : (s.setFlash a b).freeCount = s.freeCount := rfl
@[simp] theorem State.setFlash_rd (s : State) (a : Nat) (b : Byte) (r : Nat) : (s.setFlash a b).rd r = s.rd r := rfl
@[simp] theorem State.setFlash_get (s : State) (a : Nat) (b : Byte) (r : Fld) : (s.setFlash a b).get r = s.get r := rfl
@[simp] theorem State.setFlash_on (s : State) (a : Nat) (b : Byte) (r : Fld) : (s.setFlash a b).on r = s.on r := rfl

@[simp] theorem State.addLoad_pending (s : State) (k v : Nat) : (s.addLoad k v).pending = s.pending := rfl
@[simp] theorem State.addLoad_regs (s : State) (k v : Nat) : (s.addLoad k v).regs = s.regs := rfl
@[simp] theorem State.addLoad_ruling (s : State) (k v : Nat) : (s.addLoad k v).ruling = s.ruling := rfl
@[simp] theorem State.addLoad_synOuts (s : State) (k v : Nat) : (s.addLoad k v).synOuts = s.synOuts := rfl
@[simp] theorem State.addLoad_evq (s : State) (k v : Nat) : (s.addLoad k v).evq = s.evq := rfl
@[simp] theorem State.addLoad_gpio (s : State) (k v : Nat) : (s.addLoad k v).gpio = s.gpio := rfl
@[simp] theorem State.addLoad_attic (s : State) (k v : Nat) : (s.addLoad k v).attic = s.attic := rfl
@[simp] theorem State.addLoad_blot (s : State) (k v : Nat) : (s.addLoad k v).blot = s.blot := rfl
@[simp] theorem State.addLoad_fabric (s : State) (k v : Nat) : (s.addLoad k v).fabric = s.fabric := rfl
@[simp] theorem State.addLoad_strong (s : State) (k v : Nat) : (s.addLoad k v).strong = s.strong := rfl
@[simp] theorem State.addLoad_ports (s : State) (k v : Nat) : (s.addLoad k v).ports = s.ports := rfl
@[simp] theorem State.addLoad_mem (s : State) (k v : Nat) : (s.addLoad k v).mem = s.mem := rfl
@[simp] theorem State.addLoad_streams (s : State) (k v : Nat) : (s.addLoad k v).streams = s.streams := rfl
@[simp] theorem State.addLoad_mots (s : State) (k v : Nat) : (s.addLoad k v).mots = s.mots := rfl
@[simp] theorem State.addLoad_xsWaiting (s : State) (k v : Nat) : (s.addLoad k v).xsWaiting = s.xsWaiting := rfl
@[simp] theorem State.addLoad_audio (s : State) (k v : Nat) : (s.addLoad k v).audio = s.audio := rfl
@[simp] theorem State.addLoad_cellar (s : State) (k v : Nat) : (s.addLoad k v).cellar = s.cellar := rfl
@[simp] theorem State.addLoad_folios (s : State) (k v : Nat) : (s.addLoad k v).folios = s.folios := rfl
@[simp] theorem State.addLoad_power (s : State) (k v : Nat) : (s.addLoad k v).power = s.power := rfl
@[simp] theorem State.addLoad_boot (s : State) (k v : Nat) : (s.addLoad k v).boot = s.boot := rfl
@[simp] theorem State.addLoad_host (s : State) (k v : Nat) : (s.addLoad k v).host = s.host := rfl
@[simp] theorem State.addLoad_sysif (s : State) (k v : Nat) : (s.addLoad k v).sysif = s.sysif := rfl
@[simp] theorem State.addLoad_flash (s : State) (k v : Nat) : (s.addLoad k v).flash = s.flash := rfl
@[simp] theorem State.addLoad_sram (s : State) (k v : Nat) : (s.addLoad k v).sram = s.sram := rfl
@[simp] theorem State.addLoad_trace (s : State) (k v : Nat) : (s.addLoad k v).trace = s.trace := rfl
@[simp] theorem State.addLoad_faults (s : State) (k v : Nat) : (s.addLoad k v).faults = s.faults := rfl
@[simp] theorem State.addLoad_out (s : State) (k v : Nat) : (s.addLoad k v).out = s.out := rfl
@[simp] theorem State.addLoad_freeCount (s : State) (k v : Nat) : (s.addLoad k v).freeCount = s.freeCount := rfl
@[simp] theorem State.addLoad_rd (s : State) (k v : Nat) (r : Nat) : (s.addLoad k v).rd r = s.rd r := rfl
@[simp] theorem State.addLoad_get (s : State) (k v : Nat) (r : Fld) : (s.addLoad k v).get r = s.get r := rfl
@[simp] theorem State.addLoad_on (s : State) (k v : Nat) (r : Fld) : (s.addLoad k v).on r = s.on r := rfl

@[simp] theorem State.setFault_pending (s : State) (k : Nat) (v : Bool) : (s.setFault k v).pending = s.pending := rfl
@[simp] theorem State.setFault_regs (s : State) (k : Nat) (v : Bool) : (s.setFault k v).regs = s.regs := rfl
@[simp] theorem State.setFault_ruling (s : State) (k : Nat) (v : Bool) : (s.setFault k v).ruling = s.ruling := rfl
@[simp] theorem State.setFault_synOuts (s : State) (k : Nat) (v : Bool) : (s.setFault k v).synOuts = s.synOuts := rfl
@[simp] theorem State.setFault_evq (s : State) (k : Nat) (v : Bool) : (s.setFault k v).evq = s.evq := rfl
@[simp] theorem State.setFault_gpio (s : State) (k : Nat) (v : Bool) : (s.setFault k v).gpio = s.gpio := rfl
@[simp] theorem State.setFault_attic (s : State) (k : Nat) (v : Bool) : (s.setFault k v).attic = s.attic := rfl
@[simp] theorem State.setFault_blot (s : State) (k : Nat) (v : Bool) : (s.setFault k v).blot = s.blot := rfl
@[simp] theorem State.setFault_fabric (s : State) (k : Nat) (v : Bool) : (s.setFault k v).fabric = s.fabric := rfl
@[simp] theorem State.setFault_strong (s : State) (k : Nat) (v : Bool) : (s.setFault k v).strong = s.strong := rfl
@[simp] theorem State.setFault_ports (s : State) (k : Nat) (v : Bool) : (s.setFault k v).ports = s.ports := rfl
@[simp] theorem State.setFault_mem (s : State) (k : Nat) (v : Bool) : (s.setFault k v).mem = s.mem := rfl
@[simp] theorem State.setFault_streams (s : State) (k : Nat) (v : Bool) : (s.setFault k v).streams = s.streams := rfl
@[simp] theorem State.setFault_mots (s : State) (k : Nat) (v : Bool) : (s.setFault k v).mots = s.mots := rfl
@[simp] theorem State.setFault_xsWaiting (s : State) (k : Nat) (v : Bool) : (s.setFault k v).xsWaiting = s.xsWaiting := rfl
@[simp] theorem State.setFault_audio (s : State) (k : Nat) (v : Bool) : (s.setFault k v).audio = s.audio := rfl
@[simp] theorem State.setFault_cellar (s : State) (k : Nat) (v : Bool) : (s.setFault k v).cellar = s.cellar := rfl
@[simp] theorem State.setFault_folios (s : State) (k : Nat) (v : Bool) : (s.setFault k v).folios = s.folios := rfl
@[simp] theorem State.setFault_power (s : State) (k : Nat) (v : Bool) : (s.setFault k v).power = s.power := rfl
@[simp] theorem State.setFault_boot (s : State) (k : Nat) (v : Bool) : (s.setFault k v).boot = s.boot := rfl
@[simp] theorem State.setFault_host (s : State) (k : Nat) (v : Bool) : (s.setFault k v).host = s.host := rfl
@[simp] theorem State.setFault_sysif (s : State) (k : Nat) (v : Bool) : (s.setFault k v).sysif = s.sysif := rfl
@[simp] theorem State.setFault_flash (s : State) (k : Nat) (v : Bool) : (s.setFault k v).flash = s.flash := rfl
@[simp] theorem State.setFault_sram (s : State) (k : Nat) (v : Bool) : (s.setFault k v).sram = s.sram := rfl
@[simp] theorem State.setFault_trace (s : State) (k : Nat) (v : Bool) : (s.setFault k v).trace = s.trace := rfl
@[simp] theorem State.setFault_loads (s : State) (k : Nat) (v : Bool) : (s.setFault k v).loads = s.loads := rfl
@[simp] theorem State.setFault_out (s : State) (k : Nat) (v : Bool) : (s.setFault k v).out = s.out := rfl
@[simp] theorem State.setFault_freeCount (s : State) (k : Nat) (v : Bool) : (s.setFault k v).freeCount = s.freeCount := rfl
@[simp] theorem State.setFault_rd (s : State) (k : Nat) (v : Bool) (r : Nat) : (s.setFault k v).rd r = s.rd r := rfl
@[simp] theorem State.setFault_get (s : State) (k : Nat) (v : Bool) (r : Fld) : (s.setFault k v).get r = s.get r := rfl
@[simp] theorem State.setFault_on (s : State) (k : Nat) (v : Bool) (r : Fld) : (s.setFault k v).on r = s.on r := rfl

@[simp] theorem State.setPort_pending (s : State) (n : Nat) (p : PortState) : (s.setPort n p).pending = s.pending := rfl
@[simp] theorem State.setPort_regs (s : State) (n : Nat) (p : PortState) : (s.setPort n p).regs = s.regs := rfl
@[simp] theorem State.setPort_ruling (s : State) (n : Nat) (p : PortState) : (s.setPort n p).ruling = s.ruling := rfl
@[simp] theorem State.setPort_synOuts (s : State) (n : Nat) (p : PortState) : (s.setPort n p).synOuts = s.synOuts := rfl
@[simp] theorem State.setPort_evq (s : State) (n : Nat) (p : PortState) : (s.setPort n p).evq = s.evq := rfl
@[simp] theorem State.setPort_gpio (s : State) (n : Nat) (p : PortState) : (s.setPort n p).gpio = s.gpio := rfl
@[simp] theorem State.setPort_attic (s : State) (n : Nat) (p : PortState) : (s.setPort n p).attic = s.attic := rfl
@[simp] theorem State.setPort_blot (s : State) (n : Nat) (p : PortState) : (s.setPort n p).blot = s.blot := rfl
@[simp] theorem State.setPort_fabric (s : State) (n : Nat) (p : PortState) : (s.setPort n p).fabric = s.fabric := rfl
@[simp] theorem State.setPort_strong (s : State) (n : Nat) (p : PortState) : (s.setPort n p).strong = s.strong := rfl
@[simp] theorem State.setPort_ports (s : State) (n : Nat) (p : PortState) : (s.setPort n p).ports = Sparse.set (fun _ => {}) s.ports n p := rfl
@[simp] theorem State.setPort_mem (s : State) (n : Nat) (p : PortState) : (s.setPort n p).mem = s.mem := rfl
@[simp] theorem State.setPort_streams (s : State) (n : Nat) (p : PortState) : (s.setPort n p).streams = s.streams := rfl
@[simp] theorem State.setPort_mots (s : State) (n : Nat) (p : PortState) : (s.setPort n p).mots = s.mots := rfl
@[simp] theorem State.setPort_xsWaiting (s : State) (n : Nat) (p : PortState) : (s.setPort n p).xsWaiting = s.xsWaiting := rfl
@[simp] theorem State.setPort_audio (s : State) (n : Nat) (p : PortState) : (s.setPort n p).audio = s.audio := rfl
@[simp] theorem State.setPort_cellar (s : State) (n : Nat) (p : PortState) : (s.setPort n p).cellar = s.cellar := rfl
@[simp] theorem State.setPort_folios (s : State) (n : Nat) (p : PortState) : (s.setPort n p).folios = s.folios := rfl
@[simp] theorem State.setPort_power (s : State) (n : Nat) (p : PortState) : (s.setPort n p).power = s.power := rfl
@[simp] theorem State.setPort_boot (s : State) (n : Nat) (p : PortState) : (s.setPort n p).boot = s.boot := rfl
@[simp] theorem State.setPort_host (s : State) (n : Nat) (p : PortState) : (s.setPort n p).host = s.host := rfl
@[simp] theorem State.setPort_sysif (s : State) (n : Nat) (p : PortState) : (s.setPort n p).sysif = s.sysif := rfl
@[simp] theorem State.setPort_flash (s : State) (n : Nat) (p : PortState) : (s.setPort n p).flash = s.flash := rfl
@[simp] theorem State.setPort_sram (s : State) (n : Nat) (p : PortState) : (s.setPort n p).sram = s.sram := rfl
@[simp] theorem State.setPort_trace (s : State) (n : Nat) (p : PortState) : (s.setPort n p).trace = s.trace := rfl
@[simp] theorem State.setPort_faults (s : State) (n : Nat) (p : PortState) : (s.setPort n p).faults = s.faults := rfl
@[simp] theorem State.setPort_loads (s : State) (n : Nat) (p : PortState) : (s.setPort n p).loads = s.loads := rfl
@[simp] theorem State.setPort_out (s : State) (n : Nat) (p : PortState) : (s.setPort n p).out = s.out := rfl
@[simp] theorem State.setPort_freeCount (s : State) (n : Nat) (p : PortState) : (s.setPort n p).freeCount = s.freeCount := rfl
@[simp] theorem State.setPort_rd (s : State) (n : Nat) (p : PortState) (r : Nat) : (s.setPort n p).rd r = s.rd r := rfl
@[simp] theorem State.setPort_get (s : State) (n : Nat) (p : PortState) (r : Fld) : (s.setPort n p).get r = s.get r := rfl
@[simp] theorem State.setPort_on (s : State) (n : Nat) (p : PortState) (r : Fld) : (s.setPort n p).on r = s.on r := rfl

@[simp] theorem State.modPort_pending (s : State) (n : Nat) (f : PortState → PortState) : (s.modPort n f).pending = s.pending := rfl
@[simp] theorem State.modPort_regs (s : State) (n : Nat) (f : PortState → PortState) : (s.modPort n f).regs = s.regs := rfl
@[simp] theorem State.modPort_ruling (s : State) (n : Nat) (f : PortState → PortState) : (s.modPort n f).ruling = s.ruling := rfl
@[simp] theorem State.modPort_synOuts (s : State) (n : Nat) (f : PortState → PortState) : (s.modPort n f).synOuts = s.synOuts := rfl
@[simp] theorem State.modPort_evq (s : State) (n : Nat) (f : PortState → PortState) : (s.modPort n f).evq = s.evq := rfl
@[simp] theorem State.modPort_gpio (s : State) (n : Nat) (f : PortState → PortState) : (s.modPort n f).gpio = s.gpio := rfl
@[simp] theorem State.modPort_attic (s : State) (n : Nat) (f : PortState → PortState) : (s.modPort n f).attic = s.attic := rfl
@[simp] theorem State.modPort_blot (s : State) (n : Nat) (f : PortState → PortState) : (s.modPort n f).blot = s.blot := rfl
@[simp] theorem State.modPort_fabric (s : State) (n : Nat) (f : PortState → PortState) : (s.modPort n f).fabric = s.fabric := rfl
@[simp] theorem State.modPort_strong (s : State) (n : Nat) (f : PortState → PortState) : (s.modPort n f).strong = s.strong := rfl
@[simp] theorem State.modPort_mem (s : State) (n : Nat) (f : PortState → PortState) : (s.modPort n f).mem = s.mem := rfl
@[simp] theorem State.modPort_streams (s : State) (n : Nat) (f : PortState → PortState) : (s.modPort n f).streams = s.streams := rfl
@[simp] theorem State.modPort_mots (s : State) (n : Nat) (f : PortState → PortState) : (s.modPort n f).mots = s.mots := rfl
@[simp] theorem State.modPort_xsWaiting (s : State) (n : Nat) (f : PortState → PortState) : (s.modPort n f).xsWaiting = s.xsWaiting := rfl
@[simp] theorem State.modPort_audio (s : State) (n : Nat) (f : PortState → PortState) : (s.modPort n f).audio = s.audio := rfl
@[simp] theorem State.modPort_cellar (s : State) (n : Nat) (f : PortState → PortState) : (s.modPort n f).cellar = s.cellar := rfl
@[simp] theorem State.modPort_folios (s : State) (n : Nat) (f : PortState → PortState) : (s.modPort n f).folios = s.folios := rfl
@[simp] theorem State.modPort_power (s : State) (n : Nat) (f : PortState → PortState) : (s.modPort n f).power = s.power := rfl
@[simp] theorem State.modPort_boot (s : State) (n : Nat) (f : PortState → PortState) : (s.modPort n f).boot = s.boot := rfl
@[simp] theorem State.modPort_host (s : State) (n : Nat) (f : PortState → PortState) : (s.modPort n f).host = s.host := rfl
@[simp] theorem State.modPort_sysif (s : State) (n : Nat) (f : PortState → PortState) : (s.modPort n f).sysif = s.sysif := rfl
@[simp] theorem State.modPort_flash (s : State) (n : Nat) (f : PortState → PortState) : (s.modPort n f).flash = s.flash := rfl
@[simp] theorem State.modPort_sram (s : State) (n : Nat) (f : PortState → PortState) : (s.modPort n f).sram = s.sram := rfl
@[simp] theorem State.modPort_trace (s : State) (n : Nat) (f : PortState → PortState) : (s.modPort n f).trace = s.trace := rfl
@[simp] theorem State.modPort_faults (s : State) (n : Nat) (f : PortState → PortState) : (s.modPort n f).faults = s.faults := rfl
@[simp] theorem State.modPort_loads (s : State) (n : Nat) (f : PortState → PortState) : (s.modPort n f).loads = s.loads := rfl
@[simp] theorem State.modPort_out (s : State) (n : Nat) (f : PortState → PortState) : (s.modPort n f).out = s.out := rfl
@[simp] theorem State.modPort_freeCount (s : State) (n : Nat) (f : PortState → PortState) : (s.modPort n f).freeCount = s.freeCount := rfl
@[simp] theorem State.modPort_rd (s : State) (n : Nat) (f : PortState → PortState) (r : Nat) : (s.modPort n f).rd r = s.rd r := rfl
@[simp] theorem State.modPort_get (s : State) (n : Nat) (f : PortState → PortState) (r : Fld) : (s.modPort n f).get r = s.get r := rfl
@[simp] theorem State.modPort_on (s : State) (n : Nat) (f : PortState → PortState) (r : Fld) : (s.modPort n f).on r = s.on r := rfl

@[simp] theorem State.modFolio_pending (s : State) (n : Nat) (f : FolioState → FolioState) : (s.modFolio n f).pending = s.pending := rfl
@[simp] theorem State.modFolio_regs (s : State) (n : Nat) (f : FolioState → FolioState) : (s.modFolio n f).regs = s.regs := rfl
@[simp] theorem State.modFolio_ruling (s : State) (n : Nat) (f : FolioState → FolioState) : (s.modFolio n f).ruling = s.ruling := rfl
@[simp] theorem State.modFolio_synOuts (s : State) (n : Nat) (f : FolioState → FolioState) : (s.modFolio n f).synOuts = s.synOuts := rfl
@[simp] theorem State.modFolio_evq (s : State) (n : Nat) (f : FolioState → FolioState) : (s.modFolio n f).evq = s.evq := rfl
@[simp] theorem State.modFolio_gpio (s : State) (n : Nat) (f : FolioState → FolioState) : (s.modFolio n f).gpio = s.gpio := rfl
@[simp] theorem State.modFolio_attic (s : State) (n : Nat) (f : FolioState → FolioState) : (s.modFolio n f).attic = s.attic := rfl
@[simp] theorem State.modFolio_blot (s : State) (n : Nat) (f : FolioState → FolioState) : (s.modFolio n f).blot = s.blot := rfl
@[simp] theorem State.modFolio_fabric (s : State) (n : Nat) (f : FolioState → FolioState) : (s.modFolio n f).fabric = s.fabric := rfl
@[simp] theorem State.modFolio_strong (s : State) (n : Nat) (f : FolioState → FolioState) : (s.modFolio n f).strong = s.strong := rfl
@[simp] theorem State.modFolio_ports (s : State) (n : Nat) (f : FolioState → FolioState) : (s.modFolio n f).ports = s.ports := rfl
@[simp] theorem State.modFolio_mem (s : State) (n : Nat) (f : FolioState → FolioState) : (s.modFolio n f).mem = s.mem := rfl
@[simp] theorem State.modFolio_streams (s : State) (n : Nat) (f : FolioState → FolioState) : (s.modFolio n f).streams = s.streams := rfl
@[simp] theorem State.modFolio_mots (s : State) (n : Nat) (f : FolioState → FolioState) : (s.modFolio n f).mots = s.mots := rfl
@[simp] theorem State.modFolio_xsWaiting (s : State) (n : Nat) (f : FolioState → FolioState) : (s.modFolio n f).xsWaiting = s.xsWaiting := rfl
@[simp] theorem State.modFolio_audio (s : State) (n : Nat) (f : FolioState → FolioState) : (s.modFolio n f).audio = s.audio := rfl
@[simp] theorem State.modFolio_cellar (s : State) (n : Nat) (f : FolioState → FolioState) : (s.modFolio n f).cellar = s.cellar := rfl
@[simp] theorem State.modFolio_power (s : State) (n : Nat) (f : FolioState → FolioState) : (s.modFolio n f).power = s.power := rfl
@[simp] theorem State.modFolio_boot (s : State) (n : Nat) (f : FolioState → FolioState) : (s.modFolio n f).boot = s.boot := rfl
@[simp] theorem State.modFolio_host (s : State) (n : Nat) (f : FolioState → FolioState) : (s.modFolio n f).host = s.host := rfl
@[simp] theorem State.modFolio_sysif (s : State) (n : Nat) (f : FolioState → FolioState) : (s.modFolio n f).sysif = s.sysif := rfl
@[simp] theorem State.modFolio_flash (s : State) (n : Nat) (f : FolioState → FolioState) : (s.modFolio n f).flash = s.flash := rfl
@[simp] theorem State.modFolio_sram (s : State) (n : Nat) (f : FolioState → FolioState) : (s.modFolio n f).sram = s.sram := rfl
@[simp] theorem State.modFolio_trace (s : State) (n : Nat) (f : FolioState → FolioState) : (s.modFolio n f).trace = s.trace := rfl
@[simp] theorem State.modFolio_faults (s : State) (n : Nat) (f : FolioState → FolioState) : (s.modFolio n f).faults = s.faults := rfl
@[simp] theorem State.modFolio_loads (s : State) (n : Nat) (f : FolioState → FolioState) : (s.modFolio n f).loads = s.loads := rfl
@[simp] theorem State.modFolio_out (s : State) (n : Nat) (f : FolioState → FolioState) : (s.modFolio n f).out = s.out := rfl
@[simp] theorem State.modFolio_freeCount (s : State) (n : Nat) (f : FolioState → FolioState) : (s.modFolio n f).freeCount = s.freeCount := rfl
@[simp] theorem State.modFolio_rd (s : State) (n : Nat) (f : FolioState → FolioState) (r : Nat) : (s.modFolio n f).rd r = s.rd r := rfl
@[simp] theorem State.modFolio_get (s : State) (n : Nat) (f : FolioState → FolioState) (r : Fld) : (s.modFolio n f).get r = s.get r := rfl
@[simp] theorem State.modFolio_on (s : State) (n : Nat) (f : FolioState → FolioState) (r : Fld) : (s.modFolio n f).on r = s.on r := rfl

@[simp] theorem State.setStream_pending (s : State) (n : Nat) (x : StreamState) : (s.setStream n x).pending = s.pending := rfl
@[simp] theorem State.setStream_regs (s : State) (n : Nat) (x : StreamState) : (s.setStream n x).regs = s.regs := rfl
@[simp] theorem State.setStream_ruling (s : State) (n : Nat) (x : StreamState) : (s.setStream n x).ruling = s.ruling := rfl
@[simp] theorem State.setStream_synOuts (s : State) (n : Nat) (x : StreamState) : (s.setStream n x).synOuts = s.synOuts := rfl
@[simp] theorem State.setStream_evq (s : State) (n : Nat) (x : StreamState) : (s.setStream n x).evq = s.evq := rfl
@[simp] theorem State.setStream_gpio (s : State) (n : Nat) (x : StreamState) : (s.setStream n x).gpio = s.gpio := rfl
@[simp] theorem State.setStream_attic (s : State) (n : Nat) (x : StreamState) : (s.setStream n x).attic = s.attic := rfl
@[simp] theorem State.setStream_blot (s : State) (n : Nat) (x : StreamState) : (s.setStream n x).blot = s.blot := rfl
@[simp] theorem State.setStream_fabric (s : State) (n : Nat) (x : StreamState) : (s.setStream n x).fabric = s.fabric := rfl
@[simp] theorem State.setStream_strong (s : State) (n : Nat) (x : StreamState) : (s.setStream n x).strong = s.strong := rfl
@[simp] theorem State.setStream_ports (s : State) (n : Nat) (x : StreamState) : (s.setStream n x).ports = s.ports := rfl
@[simp] theorem State.setStream_mem (s : State) (n : Nat) (x : StreamState) : (s.setStream n x).mem = s.mem := rfl
@[simp] theorem State.setStream_streams (s : State) (n : Nat) (x : StreamState) : (s.setStream n x).streams = Sparse.set (fun _ => {}) s.streams n x := rfl
@[simp] theorem State.setStream_mots (s : State) (n : Nat) (x : StreamState) : (s.setStream n x).mots = s.mots := rfl
@[simp] theorem State.setStream_xsWaiting (s : State) (n : Nat) (x : StreamState) : (s.setStream n x).xsWaiting = s.xsWaiting := rfl
@[simp] theorem State.setStream_audio (s : State) (n : Nat) (x : StreamState) : (s.setStream n x).audio = s.audio := rfl
@[simp] theorem State.setStream_cellar (s : State) (n : Nat) (x : StreamState) : (s.setStream n x).cellar = s.cellar := rfl
@[simp] theorem State.setStream_folios (s : State) (n : Nat) (x : StreamState) : (s.setStream n x).folios = s.folios := rfl
@[simp] theorem State.setStream_power (s : State) (n : Nat) (x : StreamState) : (s.setStream n x).power = s.power := rfl
@[simp] theorem State.setStream_boot (s : State) (n : Nat) (x : StreamState) : (s.setStream n x).boot = s.boot := rfl
@[simp] theorem State.setStream_host (s : State) (n : Nat) (x : StreamState) : (s.setStream n x).host = s.host := rfl
@[simp] theorem State.setStream_sysif (s : State) (n : Nat) (x : StreamState) : (s.setStream n x).sysif = s.sysif := rfl
@[simp] theorem State.setStream_flash (s : State) (n : Nat) (x : StreamState) : (s.setStream n x).flash = s.flash := rfl
@[simp] theorem State.setStream_sram (s : State) (n : Nat) (x : StreamState) : (s.setStream n x).sram = s.sram := rfl
@[simp] theorem State.setStream_trace (s : State) (n : Nat) (x : StreamState) : (s.setStream n x).trace = s.trace := rfl
@[simp] theorem State.setStream_faults (s : State) (n : Nat) (x : StreamState) : (s.setStream n x).faults = s.faults := rfl
@[simp] theorem State.setStream_loads (s : State) (n : Nat) (x : StreamState) : (s.setStream n x).loads = s.loads := rfl
@[simp] theorem State.setStream_out (s : State) (n : Nat) (x : StreamState) : (s.setStream n x).out = s.out := rfl
@[simp] theorem State.setStream_freeCount (s : State) (n : Nat) (x : StreamState) : (s.setStream n x).freeCount = s.freeCount := rfl
@[simp] theorem State.setStream_rd (s : State) (n : Nat) (x : StreamState) (r : Nat) : (s.setStream n x).rd r = s.rd r := rfl
@[simp] theorem State.setStream_get (s : State) (n : Nat) (x : StreamState) (r : Fld) : (s.setStream n x).get r = s.get r := rfl
@[simp] theorem State.setStream_on (s : State) (n : Nat) (x : StreamState) (r : Fld) : (s.setStream n x).on r = s.on r := rfl

@[simp] theorem State.modStream_pending (s : State) (n : Nat) (f : StreamState → StreamState) : (s.modStream n f).pending = s.pending := rfl
@[simp] theorem State.modStream_regs (s : State) (n : Nat) (f : StreamState → StreamState) : (s.modStream n f).regs = s.regs := rfl
@[simp] theorem State.modStream_ruling (s : State) (n : Nat) (f : StreamState → StreamState) : (s.modStream n f).ruling = s.ruling := rfl
@[simp] theorem State.modStream_synOuts (s : State) (n : Nat) (f : StreamState → StreamState) : (s.modStream n f).synOuts = s.synOuts := rfl
@[simp] theorem State.modStream_evq (s : State) (n : Nat) (f : StreamState → StreamState) : (s.modStream n f).evq = s.evq := rfl
@[simp] theorem State.modStream_gpio (s : State) (n : Nat) (f : StreamState → StreamState) : (s.modStream n f).gpio = s.gpio := rfl
@[simp] theorem State.modStream_attic (s : State) (n : Nat) (f : StreamState → StreamState) : (s.modStream n f).attic = s.attic := rfl
@[simp] theorem State.modStream_blot (s : State) (n : Nat) (f : StreamState → StreamState) : (s.modStream n f).blot = s.blot := rfl
@[simp] theorem State.modStream_fabric (s : State) (n : Nat) (f : StreamState → StreamState) : (s.modStream n f).fabric = s.fabric := rfl
@[simp] theorem State.modStream_strong (s : State) (n : Nat) (f : StreamState → StreamState) : (s.modStream n f).strong = s.strong := rfl
@[simp] theorem State.modStream_ports (s : State) (n : Nat) (f : StreamState → StreamState) : (s.modStream n f).ports = s.ports := rfl
@[simp] theorem State.modStream_mem (s : State) (n : Nat) (f : StreamState → StreamState) : (s.modStream n f).mem = s.mem := rfl
@[simp] theorem State.modStream_mots (s : State) (n : Nat) (f : StreamState → StreamState) : (s.modStream n f).mots = s.mots := rfl
@[simp] theorem State.modStream_xsWaiting (s : State) (n : Nat) (f : StreamState → StreamState) : (s.modStream n f).xsWaiting = s.xsWaiting := rfl
@[simp] theorem State.modStream_audio (s : State) (n : Nat) (f : StreamState → StreamState) : (s.modStream n f).audio = s.audio := rfl
@[simp] theorem State.modStream_cellar (s : State) (n : Nat) (f : StreamState → StreamState) : (s.modStream n f).cellar = s.cellar := rfl
@[simp] theorem State.modStream_folios (s : State) (n : Nat) (f : StreamState → StreamState) : (s.modStream n f).folios = s.folios := rfl
@[simp] theorem State.modStream_power (s : State) (n : Nat) (f : StreamState → StreamState) : (s.modStream n f).power = s.power := rfl
@[simp] theorem State.modStream_boot (s : State) (n : Nat) (f : StreamState → StreamState) : (s.modStream n f).boot = s.boot := rfl
@[simp] theorem State.modStream_host (s : State) (n : Nat) (f : StreamState → StreamState) : (s.modStream n f).host = s.host := rfl
@[simp] theorem State.modStream_sysif (s : State) (n : Nat) (f : StreamState → StreamState) : (s.modStream n f).sysif = s.sysif := rfl
@[simp] theorem State.modStream_flash (s : State) (n : Nat) (f : StreamState → StreamState) : (s.modStream n f).flash = s.flash := rfl
@[simp] theorem State.modStream_sram (s : State) (n : Nat) (f : StreamState → StreamState) : (s.modStream n f).sram = s.sram := rfl
@[simp] theorem State.modStream_trace (s : State) (n : Nat) (f : StreamState → StreamState) : (s.modStream n f).trace = s.trace := rfl
@[simp] theorem State.modStream_faults (s : State) (n : Nat) (f : StreamState → StreamState) : (s.modStream n f).faults = s.faults := rfl
@[simp] theorem State.modStream_loads (s : State) (n : Nat) (f : StreamState → StreamState) : (s.modStream n f).loads = s.loads := rfl
@[simp] theorem State.modStream_out (s : State) (n : Nat) (f : StreamState → StreamState) : (s.modStream n f).out = s.out := rfl
@[simp] theorem State.modStream_freeCount (s : State) (n : Nat) (f : StreamState → StreamState) : (s.modStream n f).freeCount = s.freeCount := rfl
@[simp] theorem State.modStream_rd (s : State) (n : Nat) (f : StreamState → StreamState) (r : Nat) : (s.modStream n f).rd r = s.rd r := rfl
@[simp] theorem State.modStream_get (s : State) (n : Nat) (f : StreamState → StreamState) (r : Fld) : (s.modStream n f).get r = s.get r := rfl
@[simp] theorem State.modStream_on (s : State) (n : Nat) (f : StreamState → StreamState) (r : Fld) : (s.modStream n f).on r = s.on r := rfl

@[simp] theorem State.modMot_pending (s : State) (n : Nat) (f : MotState → MotState) : (s.modMot n f).pending = s.pending := rfl
@[simp] theorem State.modMot_regs (s : State) (n : Nat) (f : MotState → MotState) : (s.modMot n f).regs = s.regs := rfl
@[simp] theorem State.modMot_ruling (s : State) (n : Nat) (f : MotState → MotState) : (s.modMot n f).ruling = s.ruling := rfl
@[simp] theorem State.modMot_synOuts (s : State) (n : Nat) (f : MotState → MotState) : (s.modMot n f).synOuts = s.synOuts := rfl
@[simp] theorem State.modMot_evq (s : State) (n : Nat) (f : MotState → MotState) : (s.modMot n f).evq = s.evq := rfl
@[simp] theorem State.modMot_gpio (s : State) (n : Nat) (f : MotState → MotState) : (s.modMot n f).gpio = s.gpio := rfl
@[simp] theorem State.modMot_attic (s : State) (n : Nat) (f : MotState → MotState) : (s.modMot n f).attic = s.attic := rfl
@[simp] theorem State.modMot_blot (s : State) (n : Nat) (f : MotState → MotState) : (s.modMot n f).blot = s.blot := rfl
@[simp] theorem State.modMot_fabric (s : State) (n : Nat) (f : MotState → MotState) : (s.modMot n f).fabric = s.fabric := rfl
@[simp] theorem State.modMot_strong (s : State) (n : Nat) (f : MotState → MotState) : (s.modMot n f).strong = s.strong := rfl
@[simp] theorem State.modMot_ports (s : State) (n : Nat) (f : MotState → MotState) : (s.modMot n f).ports = s.ports := rfl
@[simp] theorem State.modMot_mem (s : State) (n : Nat) (f : MotState → MotState) : (s.modMot n f).mem = s.mem := rfl
@[simp] theorem State.modMot_streams (s : State) (n : Nat) (f : MotState → MotState) : (s.modMot n f).streams = s.streams := rfl
@[simp] theorem State.modMot_xsWaiting (s : State) (n : Nat) (f : MotState → MotState) : (s.modMot n f).xsWaiting = s.xsWaiting := rfl
@[simp] theorem State.modMot_audio (s : State) (n : Nat) (f : MotState → MotState) : (s.modMot n f).audio = s.audio := rfl
@[simp] theorem State.modMot_cellar (s : State) (n : Nat) (f : MotState → MotState) : (s.modMot n f).cellar = s.cellar := rfl
@[simp] theorem State.modMot_folios (s : State) (n : Nat) (f : MotState → MotState) : (s.modMot n f).folios = s.folios := rfl
@[simp] theorem State.modMot_power (s : State) (n : Nat) (f : MotState → MotState) : (s.modMot n f).power = s.power := rfl
@[simp] theorem State.modMot_boot (s : State) (n : Nat) (f : MotState → MotState) : (s.modMot n f).boot = s.boot := rfl
@[simp] theorem State.modMot_host (s : State) (n : Nat) (f : MotState → MotState) : (s.modMot n f).host = s.host := rfl
@[simp] theorem State.modMot_sysif (s : State) (n : Nat) (f : MotState → MotState) : (s.modMot n f).sysif = s.sysif := rfl
@[simp] theorem State.modMot_flash (s : State) (n : Nat) (f : MotState → MotState) : (s.modMot n f).flash = s.flash := rfl
@[simp] theorem State.modMot_sram (s : State) (n : Nat) (f : MotState → MotState) : (s.modMot n f).sram = s.sram := rfl
@[simp] theorem State.modMot_trace (s : State) (n : Nat) (f : MotState → MotState) : (s.modMot n f).trace = s.trace := rfl
@[simp] theorem State.modMot_faults (s : State) (n : Nat) (f : MotState → MotState) : (s.modMot n f).faults = s.faults := rfl
@[simp] theorem State.modMot_loads (s : State) (n : Nat) (f : MotState → MotState) : (s.modMot n f).loads = s.loads := rfl
@[simp] theorem State.modMot_out (s : State) (n : Nat) (f : MotState → MotState) : (s.modMot n f).out = s.out := rfl
@[simp] theorem State.modMot_freeCount (s : State) (n : Nat) (f : MotState → MotState) : (s.modMot n f).freeCount = s.freeCount := rfl
@[simp] theorem State.modMot_rd (s : State) (n : Nat) (f : MotState → MotState) (r : Nat) : (s.modMot n f).rd r = s.rd r := rfl
@[simp] theorem State.modMot_get (s : State) (n : Nat) (f : MotState → MotState) (r : Fld) : (s.modMot n f).get r = s.get r := rfl
@[simp] theorem State.modMot_on (s : State) (n : Nat) (f : MotState → MotState) (r : Fld) : (s.modMot n f).on r = s.on r := rfl

@[simp] theorem State.setSynOut_pending (s : State) (n o : Nat) (x : SynOut) : (s.setSynOut n o x).pending = s.pending := rfl
@[simp] theorem State.setSynOut_regs (s : State) (n o : Nat) (x : SynOut) : (s.setSynOut n o x).regs = s.regs := rfl
@[simp] theorem State.setSynOut_ruling (s : State) (n o : Nat) (x : SynOut) : (s.setSynOut n o x).ruling = s.ruling := rfl
@[simp] theorem State.setSynOut_evq (s : State) (n o : Nat) (x : SynOut) : (s.setSynOut n o x).evq = s.evq := rfl
@[simp] theorem State.setSynOut_gpio (s : State) (n o : Nat) (x : SynOut) : (s.setSynOut n o x).gpio = s.gpio := rfl
@[simp] theorem State.setSynOut_attic (s : State) (n o : Nat) (x : SynOut) : (s.setSynOut n o x).attic = s.attic := rfl
@[simp] theorem State.setSynOut_blot (s : State) (n o : Nat) (x : SynOut) : (s.setSynOut n o x).blot = s.blot := rfl
@[simp] theorem State.setSynOut_fabric (s : State) (n o : Nat) (x : SynOut) : (s.setSynOut n o x).fabric = s.fabric := rfl
@[simp] theorem State.setSynOut_strong (s : State) (n o : Nat) (x : SynOut) : (s.setSynOut n o x).strong = s.strong := rfl
@[simp] theorem State.setSynOut_ports (s : State) (n o : Nat) (x : SynOut) : (s.setSynOut n o x).ports = s.ports := rfl
@[simp] theorem State.setSynOut_mem (s : State) (n o : Nat) (x : SynOut) : (s.setSynOut n o x).mem = s.mem := rfl
@[simp] theorem State.setSynOut_streams (s : State) (n o : Nat) (x : SynOut) : (s.setSynOut n o x).streams = s.streams := rfl
@[simp] theorem State.setSynOut_mots (s : State) (n o : Nat) (x : SynOut) : (s.setSynOut n o x).mots = s.mots := rfl
@[simp] theorem State.setSynOut_xsWaiting (s : State) (n o : Nat) (x : SynOut) : (s.setSynOut n o x).xsWaiting = s.xsWaiting := rfl
@[simp] theorem State.setSynOut_audio (s : State) (n o : Nat) (x : SynOut) : (s.setSynOut n o x).audio = s.audio := rfl
@[simp] theorem State.setSynOut_cellar (s : State) (n o : Nat) (x : SynOut) : (s.setSynOut n o x).cellar = s.cellar := rfl
@[simp] theorem State.setSynOut_folios (s : State) (n o : Nat) (x : SynOut) : (s.setSynOut n o x).folios = s.folios := rfl
@[simp] theorem State.setSynOut_power (s : State) (n o : Nat) (x : SynOut) : (s.setSynOut n o x).power = s.power := rfl
@[simp] theorem State.setSynOut_boot (s : State) (n o : Nat) (x : SynOut) : (s.setSynOut n o x).boot = s.boot := rfl
@[simp] theorem State.setSynOut_host (s : State) (n o : Nat) (x : SynOut) : (s.setSynOut n o x).host = s.host := rfl
@[simp] theorem State.setSynOut_sysif (s : State) (n o : Nat) (x : SynOut) : (s.setSynOut n o x).sysif = s.sysif := rfl
@[simp] theorem State.setSynOut_flash (s : State) (n o : Nat) (x : SynOut) : (s.setSynOut n o x).flash = s.flash := rfl
@[simp] theorem State.setSynOut_sram (s : State) (n o : Nat) (x : SynOut) : (s.setSynOut n o x).sram = s.sram := rfl
@[simp] theorem State.setSynOut_trace (s : State) (n o : Nat) (x : SynOut) : (s.setSynOut n o x).trace = s.trace := rfl
@[simp] theorem State.setSynOut_faults (s : State) (n o : Nat) (x : SynOut) : (s.setSynOut n o x).faults = s.faults := rfl
@[simp] theorem State.setSynOut_loads (s : State) (n o : Nat) (x : SynOut) : (s.setSynOut n o x).loads = s.loads := rfl
@[simp] theorem State.setSynOut_out (s : State) (n o : Nat) (x : SynOut) : (s.setSynOut n o x).out = s.out := rfl
@[simp] theorem State.setSynOut_freeCount (s : State) (n o : Nat) (x : SynOut) : (s.setSynOut n o x).freeCount = s.freeCount := rfl
@[simp] theorem State.setSynOut_rd (s : State) (n o : Nat) (x : SynOut) (r : Nat) : (s.setSynOut n o x).rd r = s.rd r := rfl
@[simp] theorem State.setSynOut_get (s : State) (n o : Nat) (x : SynOut) (r : Fld) : (s.setSynOut n o x).get r = s.get r := rfl
@[simp] theorem State.setSynOut_on (s : State) (n o : Nat) (x : SynOut) (r : Fld) : (s.setSynOut n o x).on r = s.on r := rfl

@[simp] theorem State.modRuling_pending (s : State) (f : RulingState → RulingState) : (s.modRuling f).pending = s.pending := rfl
@[simp] theorem State.modRuling_regs (s : State) (f : RulingState → RulingState) : (s.modRuling f).regs = s.regs := rfl
@[simp] theorem State.modRuling_ruling (s : State) (f : RulingState → RulingState) : (s.modRuling f).ruling = f s.ruling := rfl
@[simp] theorem State.modRuling_synOuts (s : State) (f : RulingState → RulingState) : (s.modRuling f).synOuts = s.synOuts := rfl
@[simp] theorem State.modRuling_evq (s : State) (f : RulingState → RulingState) : (s.modRuling f).evq = s.evq := rfl
@[simp] theorem State.modRuling_gpio (s : State) (f : RulingState → RulingState) : (s.modRuling f).gpio = s.gpio := rfl
@[simp] theorem State.modRuling_attic (s : State) (f : RulingState → RulingState) : (s.modRuling f).attic = s.attic := rfl
@[simp] theorem State.modRuling_blot (s : State) (f : RulingState → RulingState) : (s.modRuling f).blot = s.blot := rfl
@[simp] theorem State.modRuling_fabric (s : State) (f : RulingState → RulingState) : (s.modRuling f).fabric = s.fabric := rfl
@[simp] theorem State.modRuling_strong (s : State) (f : RulingState → RulingState) : (s.modRuling f).strong = s.strong := rfl
@[simp] theorem State.modRuling_ports (s : State) (f : RulingState → RulingState) : (s.modRuling f).ports = s.ports := rfl
@[simp] theorem State.modRuling_mem (s : State) (f : RulingState → RulingState) : (s.modRuling f).mem = s.mem := rfl
@[simp] theorem State.modRuling_streams (s : State) (f : RulingState → RulingState) : (s.modRuling f).streams = s.streams := rfl
@[simp] theorem State.modRuling_mots (s : State) (f : RulingState → RulingState) : (s.modRuling f).mots = s.mots := rfl
@[simp] theorem State.modRuling_xsWaiting (s : State) (f : RulingState → RulingState) : (s.modRuling f).xsWaiting = s.xsWaiting := rfl
@[simp] theorem State.modRuling_audio (s : State) (f : RulingState → RulingState) : (s.modRuling f).audio = s.audio := rfl
@[simp] theorem State.modRuling_cellar (s : State) (f : RulingState → RulingState) : (s.modRuling f).cellar = s.cellar := rfl
@[simp] theorem State.modRuling_folios (s : State) (f : RulingState → RulingState) : (s.modRuling f).folios = s.folios := rfl
@[simp] theorem State.modRuling_power (s : State) (f : RulingState → RulingState) : (s.modRuling f).power = s.power := rfl
@[simp] theorem State.modRuling_boot (s : State) (f : RulingState → RulingState) : (s.modRuling f).boot = s.boot := rfl
@[simp] theorem State.modRuling_host (s : State) (f : RulingState → RulingState) : (s.modRuling f).host = s.host := rfl
@[simp] theorem State.modRuling_sysif (s : State) (f : RulingState → RulingState) : (s.modRuling f).sysif = s.sysif := rfl
@[simp] theorem State.modRuling_flash (s : State) (f : RulingState → RulingState) : (s.modRuling f).flash = s.flash := rfl
@[simp] theorem State.modRuling_sram (s : State) (f : RulingState → RulingState) : (s.modRuling f).sram = s.sram := rfl
@[simp] theorem State.modRuling_trace (s : State) (f : RulingState → RulingState) : (s.modRuling f).trace = s.trace := rfl
@[simp] theorem State.modRuling_faults (s : State) (f : RulingState → RulingState) : (s.modRuling f).faults = s.faults := rfl
@[simp] theorem State.modRuling_loads (s : State) (f : RulingState → RulingState) : (s.modRuling f).loads = s.loads := rfl
@[simp] theorem State.modRuling_out (s : State) (f : RulingState → RulingState) : (s.modRuling f).out = s.out := rfl
@[simp] theorem State.modRuling_freeCount (s : State) (f : RulingState → RulingState) : (s.modRuling f).freeCount = s.freeCount := rfl
@[simp] theorem State.modRuling_rd (s : State) (f : RulingState → RulingState) (r : Nat) : (s.modRuling f).rd r = s.rd r := rfl
@[simp] theorem State.modRuling_get (s : State) (f : RulingState → RulingState) (r : Fld) : (s.modRuling f).get r = s.get r := rfl
@[simp] theorem State.modRuling_on (s : State) (f : RulingState → RulingState) (r : Fld) : (s.modRuling f).on r = s.on r := rfl

@[simp] theorem State.modAttic_pending (s : State) (f : AtticState → AtticState) : (s.modAttic f).pending = s.pending := rfl
@[simp] theorem State.modAttic_regs (s : State) (f : AtticState → AtticState) : (s.modAttic f).regs = s.regs := rfl
@[simp] theorem State.modAttic_ruling (s : State) (f : AtticState → AtticState) : (s.modAttic f).ruling = s.ruling := rfl
@[simp] theorem State.modAttic_synOuts (s : State) (f : AtticState → AtticState) : (s.modAttic f).synOuts = s.synOuts := rfl
@[simp] theorem State.modAttic_evq (s : State) (f : AtticState → AtticState) : (s.modAttic f).evq = s.evq := rfl
@[simp] theorem State.modAttic_gpio (s : State) (f : AtticState → AtticState) : (s.modAttic f).gpio = s.gpio := rfl
@[simp] theorem State.modAttic_attic (s : State) (f : AtticState → AtticState) : (s.modAttic f).attic = f s.attic := rfl
@[simp] theorem State.modAttic_blot (s : State) (f : AtticState → AtticState) : (s.modAttic f).blot = s.blot := rfl
@[simp] theorem State.modAttic_fabric (s : State) (f : AtticState → AtticState) : (s.modAttic f).fabric = s.fabric := rfl
@[simp] theorem State.modAttic_strong (s : State) (f : AtticState → AtticState) : (s.modAttic f).strong = s.strong := rfl
@[simp] theorem State.modAttic_ports (s : State) (f : AtticState → AtticState) : (s.modAttic f).ports = s.ports := rfl
@[simp] theorem State.modAttic_mem (s : State) (f : AtticState → AtticState) : (s.modAttic f).mem = s.mem := rfl
@[simp] theorem State.modAttic_streams (s : State) (f : AtticState → AtticState) : (s.modAttic f).streams = s.streams := rfl
@[simp] theorem State.modAttic_mots (s : State) (f : AtticState → AtticState) : (s.modAttic f).mots = s.mots := rfl
@[simp] theorem State.modAttic_xsWaiting (s : State) (f : AtticState → AtticState) : (s.modAttic f).xsWaiting = s.xsWaiting := rfl
@[simp] theorem State.modAttic_audio (s : State) (f : AtticState → AtticState) : (s.modAttic f).audio = s.audio := rfl
@[simp] theorem State.modAttic_cellar (s : State) (f : AtticState → AtticState) : (s.modAttic f).cellar = s.cellar := rfl
@[simp] theorem State.modAttic_folios (s : State) (f : AtticState → AtticState) : (s.modAttic f).folios = s.folios := rfl
@[simp] theorem State.modAttic_power (s : State) (f : AtticState → AtticState) : (s.modAttic f).power = s.power := rfl
@[simp] theorem State.modAttic_boot (s : State) (f : AtticState → AtticState) : (s.modAttic f).boot = s.boot := rfl
@[simp] theorem State.modAttic_host (s : State) (f : AtticState → AtticState) : (s.modAttic f).host = s.host := rfl
@[simp] theorem State.modAttic_sysif (s : State) (f : AtticState → AtticState) : (s.modAttic f).sysif = s.sysif := rfl
@[simp] theorem State.modAttic_flash (s : State) (f : AtticState → AtticState) : (s.modAttic f).flash = s.flash := rfl
@[simp] theorem State.modAttic_sram (s : State) (f : AtticState → AtticState) : (s.modAttic f).sram = s.sram := rfl
@[simp] theorem State.modAttic_trace (s : State) (f : AtticState → AtticState) : (s.modAttic f).trace = s.trace := rfl
@[simp] theorem State.modAttic_faults (s : State) (f : AtticState → AtticState) : (s.modAttic f).faults = s.faults := rfl
@[simp] theorem State.modAttic_loads (s : State) (f : AtticState → AtticState) : (s.modAttic f).loads = s.loads := rfl
@[simp] theorem State.modAttic_out (s : State) (f : AtticState → AtticState) : (s.modAttic f).out = s.out := rfl
@[simp] theorem State.modAttic_freeCount (s : State) (f : AtticState → AtticState) : (s.modAttic f).freeCount = s.freeCount := rfl
@[simp] theorem State.modAttic_rd (s : State) (f : AtticState → AtticState) (r : Nat) : (s.modAttic f).rd r = s.rd r := rfl
@[simp] theorem State.modAttic_get (s : State) (f : AtticState → AtticState) (r : Fld) : (s.modAttic f).get r = s.get r := rfl
@[simp] theorem State.modAttic_on (s : State) (f : AtticState → AtticState) (r : Fld) : (s.modAttic f).on r = s.on r := rfl

@[simp] theorem State.modBlot_pending (s : State) (f : BlotState → BlotState) : (s.modBlot f).pending = s.pending := rfl
@[simp] theorem State.modBlot_regs (s : State) (f : BlotState → BlotState) : (s.modBlot f).regs = s.regs := rfl
@[simp] theorem State.modBlot_ruling (s : State) (f : BlotState → BlotState) : (s.modBlot f).ruling = s.ruling := rfl
@[simp] theorem State.modBlot_synOuts (s : State) (f : BlotState → BlotState) : (s.modBlot f).synOuts = s.synOuts := rfl
@[simp] theorem State.modBlot_evq (s : State) (f : BlotState → BlotState) : (s.modBlot f).evq = s.evq := rfl
@[simp] theorem State.modBlot_gpio (s : State) (f : BlotState → BlotState) : (s.modBlot f).gpio = s.gpio := rfl
@[simp] theorem State.modBlot_attic (s : State) (f : BlotState → BlotState) : (s.modBlot f).attic = s.attic := rfl
@[simp] theorem State.modBlot_blot (s : State) (f : BlotState → BlotState) : (s.modBlot f).blot = f s.blot := rfl
@[simp] theorem State.modBlot_fabric (s : State) (f : BlotState → BlotState) : (s.modBlot f).fabric = s.fabric := rfl
@[simp] theorem State.modBlot_strong (s : State) (f : BlotState → BlotState) : (s.modBlot f).strong = s.strong := rfl
@[simp] theorem State.modBlot_ports (s : State) (f : BlotState → BlotState) : (s.modBlot f).ports = s.ports := rfl
@[simp] theorem State.modBlot_mem (s : State) (f : BlotState → BlotState) : (s.modBlot f).mem = s.mem := rfl
@[simp] theorem State.modBlot_streams (s : State) (f : BlotState → BlotState) : (s.modBlot f).streams = s.streams := rfl
@[simp] theorem State.modBlot_mots (s : State) (f : BlotState → BlotState) : (s.modBlot f).mots = s.mots := rfl
@[simp] theorem State.modBlot_xsWaiting (s : State) (f : BlotState → BlotState) : (s.modBlot f).xsWaiting = s.xsWaiting := rfl
@[simp] theorem State.modBlot_audio (s : State) (f : BlotState → BlotState) : (s.modBlot f).audio = s.audio := rfl
@[simp] theorem State.modBlot_cellar (s : State) (f : BlotState → BlotState) : (s.modBlot f).cellar = s.cellar := rfl
@[simp] theorem State.modBlot_folios (s : State) (f : BlotState → BlotState) : (s.modBlot f).folios = s.folios := rfl
@[simp] theorem State.modBlot_power (s : State) (f : BlotState → BlotState) : (s.modBlot f).power = s.power := rfl
@[simp] theorem State.modBlot_boot (s : State) (f : BlotState → BlotState) : (s.modBlot f).boot = s.boot := rfl
@[simp] theorem State.modBlot_host (s : State) (f : BlotState → BlotState) : (s.modBlot f).host = s.host := rfl
@[simp] theorem State.modBlot_sysif (s : State) (f : BlotState → BlotState) : (s.modBlot f).sysif = s.sysif := rfl
@[simp] theorem State.modBlot_flash (s : State) (f : BlotState → BlotState) : (s.modBlot f).flash = s.flash := rfl
@[simp] theorem State.modBlot_sram (s : State) (f : BlotState → BlotState) : (s.modBlot f).sram = s.sram := rfl
@[simp] theorem State.modBlot_trace (s : State) (f : BlotState → BlotState) : (s.modBlot f).trace = s.trace := rfl
@[simp] theorem State.modBlot_faults (s : State) (f : BlotState → BlotState) : (s.modBlot f).faults = s.faults := rfl
@[simp] theorem State.modBlot_loads (s : State) (f : BlotState → BlotState) : (s.modBlot f).loads = s.loads := rfl
@[simp] theorem State.modBlot_out (s : State) (f : BlotState → BlotState) : (s.modBlot f).out = s.out := rfl
@[simp] theorem State.modBlot_freeCount (s : State) (f : BlotState → BlotState) : (s.modBlot f).freeCount = s.freeCount := rfl
@[simp] theorem State.modBlot_rd (s : State) (f : BlotState → BlotState) (r : Nat) : (s.modBlot f).rd r = s.rd r := rfl
@[simp] theorem State.modBlot_get (s : State) (f : BlotState → BlotState) (r : Fld) : (s.modBlot f).get r = s.get r := rfl
@[simp] theorem State.modBlot_on (s : State) (f : BlotState → BlotState) (r : Fld) : (s.modBlot f).on r = s.on r := rfl

@[simp] theorem State.modFabric_pending (s : State) (f : FabricState → FabricState) : (s.modFabric f).pending = s.pending := rfl
@[simp] theorem State.modFabric_regs (s : State) (f : FabricState → FabricState) : (s.modFabric f).regs = s.regs := rfl
@[simp] theorem State.modFabric_ruling (s : State) (f : FabricState → FabricState) : (s.modFabric f).ruling = s.ruling := rfl
@[simp] theorem State.modFabric_synOuts (s : State) (f : FabricState → FabricState) : (s.modFabric f).synOuts = s.synOuts := rfl
@[simp] theorem State.modFabric_evq (s : State) (f : FabricState → FabricState) : (s.modFabric f).evq = s.evq := rfl
@[simp] theorem State.modFabric_gpio (s : State) (f : FabricState → FabricState) : (s.modFabric f).gpio = s.gpio := rfl
@[simp] theorem State.modFabric_attic (s : State) (f : FabricState → FabricState) : (s.modFabric f).attic = s.attic := rfl
@[simp] theorem State.modFabric_blot (s : State) (f : FabricState → FabricState) : (s.modFabric f).blot = s.blot := rfl
@[simp] theorem State.modFabric_fabric (s : State) (f : FabricState → FabricState) : (s.modFabric f).fabric = f s.fabric := rfl
@[simp] theorem State.modFabric_strong (s : State) (f : FabricState → FabricState) : (s.modFabric f).strong = s.strong := rfl
@[simp] theorem State.modFabric_ports (s : State) (f : FabricState → FabricState) : (s.modFabric f).ports = s.ports := rfl
@[simp] theorem State.modFabric_mem (s : State) (f : FabricState → FabricState) : (s.modFabric f).mem = s.mem := rfl
@[simp] theorem State.modFabric_streams (s : State) (f : FabricState → FabricState) : (s.modFabric f).streams = s.streams := rfl
@[simp] theorem State.modFabric_mots (s : State) (f : FabricState → FabricState) : (s.modFabric f).mots = s.mots := rfl
@[simp] theorem State.modFabric_xsWaiting (s : State) (f : FabricState → FabricState) : (s.modFabric f).xsWaiting = s.xsWaiting := rfl
@[simp] theorem State.modFabric_audio (s : State) (f : FabricState → FabricState) : (s.modFabric f).audio = s.audio := rfl
@[simp] theorem State.modFabric_cellar (s : State) (f : FabricState → FabricState) : (s.modFabric f).cellar = s.cellar := rfl
@[simp] theorem State.modFabric_folios (s : State) (f : FabricState → FabricState) : (s.modFabric f).folios = s.folios := rfl
@[simp] theorem State.modFabric_power (s : State) (f : FabricState → FabricState) : (s.modFabric f).power = s.power := rfl
@[simp] theorem State.modFabric_boot (s : State) (f : FabricState → FabricState) : (s.modFabric f).boot = s.boot := rfl
@[simp] theorem State.modFabric_host (s : State) (f : FabricState → FabricState) : (s.modFabric f).host = s.host := rfl
@[simp] theorem State.modFabric_sysif (s : State) (f : FabricState → FabricState) : (s.modFabric f).sysif = s.sysif := rfl
@[simp] theorem State.modFabric_flash (s : State) (f : FabricState → FabricState) : (s.modFabric f).flash = s.flash := rfl
@[simp] theorem State.modFabric_sram (s : State) (f : FabricState → FabricState) : (s.modFabric f).sram = s.sram := rfl
@[simp] theorem State.modFabric_trace (s : State) (f : FabricState → FabricState) : (s.modFabric f).trace = s.trace := rfl
@[simp] theorem State.modFabric_faults (s : State) (f : FabricState → FabricState) : (s.modFabric f).faults = s.faults := rfl
@[simp] theorem State.modFabric_loads (s : State) (f : FabricState → FabricState) : (s.modFabric f).loads = s.loads := rfl
@[simp] theorem State.modFabric_out (s : State) (f : FabricState → FabricState) : (s.modFabric f).out = s.out := rfl
@[simp] theorem State.modFabric_freeCount (s : State) (f : FabricState → FabricState) : (s.modFabric f).freeCount = s.freeCount := rfl
@[simp] theorem State.modFabric_rd (s : State) (f : FabricState → FabricState) (r : Nat) : (s.modFabric f).rd r = s.rd r := rfl
@[simp] theorem State.modFabric_get (s : State) (f : FabricState → FabricState) (r : Fld) : (s.modFabric f).get r = s.get r := rfl
@[simp] theorem State.modFabric_on (s : State) (f : FabricState → FabricState) (r : Fld) : (s.modFabric f).on r = s.on r := rfl

@[simp] theorem State.modStrong_pending (s : State) (f : StrongState → StrongState) : (s.modStrong f).pending = s.pending := rfl
@[simp] theorem State.modStrong_regs (s : State) (f : StrongState → StrongState) : (s.modStrong f).regs = s.regs := rfl
@[simp] theorem State.modStrong_ruling (s : State) (f : StrongState → StrongState) : (s.modStrong f).ruling = s.ruling := rfl
@[simp] theorem State.modStrong_synOuts (s : State) (f : StrongState → StrongState) : (s.modStrong f).synOuts = s.synOuts := rfl
@[simp] theorem State.modStrong_evq (s : State) (f : StrongState → StrongState) : (s.modStrong f).evq = s.evq := rfl
@[simp] theorem State.modStrong_gpio (s : State) (f : StrongState → StrongState) : (s.modStrong f).gpio = s.gpio := rfl
@[simp] theorem State.modStrong_attic (s : State) (f : StrongState → StrongState) : (s.modStrong f).attic = s.attic := rfl
@[simp] theorem State.modStrong_blot (s : State) (f : StrongState → StrongState) : (s.modStrong f).blot = s.blot := rfl
@[simp] theorem State.modStrong_fabric (s : State) (f : StrongState → StrongState) : (s.modStrong f).fabric = s.fabric := rfl
@[simp] theorem State.modStrong_strong (s : State) (f : StrongState → StrongState) : (s.modStrong f).strong = f s.strong := rfl
@[simp] theorem State.modStrong_ports (s : State) (f : StrongState → StrongState) : (s.modStrong f).ports = s.ports := rfl
@[simp] theorem State.modStrong_mem (s : State) (f : StrongState → StrongState) : (s.modStrong f).mem = s.mem := rfl
@[simp] theorem State.modStrong_streams (s : State) (f : StrongState → StrongState) : (s.modStrong f).streams = s.streams := rfl
@[simp] theorem State.modStrong_mots (s : State) (f : StrongState → StrongState) : (s.modStrong f).mots = s.mots := rfl
@[simp] theorem State.modStrong_xsWaiting (s : State) (f : StrongState → StrongState) : (s.modStrong f).xsWaiting = s.xsWaiting := rfl
@[simp] theorem State.modStrong_audio (s : State) (f : StrongState → StrongState) : (s.modStrong f).audio = s.audio := rfl
@[simp] theorem State.modStrong_cellar (s : State) (f : StrongState → StrongState) : (s.modStrong f).cellar = s.cellar := rfl
@[simp] theorem State.modStrong_folios (s : State) (f : StrongState → StrongState) : (s.modStrong f).folios = s.folios := rfl
@[simp] theorem State.modStrong_power (s : State) (f : StrongState → StrongState) : (s.modStrong f).power = s.power := rfl
@[simp] theorem State.modStrong_boot (s : State) (f : StrongState → StrongState) : (s.modStrong f).boot = s.boot := rfl
@[simp] theorem State.modStrong_host (s : State) (f : StrongState → StrongState) : (s.modStrong f).host = s.host := rfl
@[simp] theorem State.modStrong_sysif (s : State) (f : StrongState → StrongState) : (s.modStrong f).sysif = s.sysif := rfl
@[simp] theorem State.modStrong_flash (s : State) (f : StrongState → StrongState) : (s.modStrong f).flash = s.flash := rfl
@[simp] theorem State.modStrong_sram (s : State) (f : StrongState → StrongState) : (s.modStrong f).sram = s.sram := rfl
@[simp] theorem State.modStrong_trace (s : State) (f : StrongState → StrongState) : (s.modStrong f).trace = s.trace := rfl
@[simp] theorem State.modStrong_faults (s : State) (f : StrongState → StrongState) : (s.modStrong f).faults = s.faults := rfl
@[simp] theorem State.modStrong_loads (s : State) (f : StrongState → StrongState) : (s.modStrong f).loads = s.loads := rfl
@[simp] theorem State.modStrong_out (s : State) (f : StrongState → StrongState) : (s.modStrong f).out = s.out := rfl
@[simp] theorem State.modStrong_freeCount (s : State) (f : StrongState → StrongState) : (s.modStrong f).freeCount = s.freeCount := rfl
@[simp] theorem State.modStrong_rd (s : State) (f : StrongState → StrongState) (r : Nat) : (s.modStrong f).rd r = s.rd r := rfl
@[simp] theorem State.modStrong_get (s : State) (f : StrongState → StrongState) (r : Fld) : (s.modStrong f).get r = s.get r := rfl
@[simp] theorem State.modStrong_on (s : State) (f : StrongState → StrongState) (r : Fld) : (s.modStrong f).on r = s.on r := rfl

@[simp] theorem State.modMem_pending (s : State) (f : MemState → MemState) : (s.modMem f).pending = s.pending := rfl
@[simp] theorem State.modMem_regs (s : State) (f : MemState → MemState) : (s.modMem f).regs = s.regs := rfl
@[simp] theorem State.modMem_ruling (s : State) (f : MemState → MemState) : (s.modMem f).ruling = s.ruling := rfl
@[simp] theorem State.modMem_synOuts (s : State) (f : MemState → MemState) : (s.modMem f).synOuts = s.synOuts := rfl
@[simp] theorem State.modMem_evq (s : State) (f : MemState → MemState) : (s.modMem f).evq = s.evq := rfl
@[simp] theorem State.modMem_gpio (s : State) (f : MemState → MemState) : (s.modMem f).gpio = s.gpio := rfl
@[simp] theorem State.modMem_attic (s : State) (f : MemState → MemState) : (s.modMem f).attic = s.attic := rfl
@[simp] theorem State.modMem_blot (s : State) (f : MemState → MemState) : (s.modMem f).blot = s.blot := rfl
@[simp] theorem State.modMem_fabric (s : State) (f : MemState → MemState) : (s.modMem f).fabric = s.fabric := rfl
@[simp] theorem State.modMem_strong (s : State) (f : MemState → MemState) : (s.modMem f).strong = s.strong := rfl
@[simp] theorem State.modMem_ports (s : State) (f : MemState → MemState) : (s.modMem f).ports = s.ports := rfl
@[simp] theorem State.modMem_mem (s : State) (f : MemState → MemState) : (s.modMem f).mem = f s.mem := rfl
@[simp] theorem State.modMem_streams (s : State) (f : MemState → MemState) : (s.modMem f).streams = s.streams := rfl
@[simp] theorem State.modMem_mots (s : State) (f : MemState → MemState) : (s.modMem f).mots = s.mots := rfl
@[simp] theorem State.modMem_xsWaiting (s : State) (f : MemState → MemState) : (s.modMem f).xsWaiting = s.xsWaiting := rfl
@[simp] theorem State.modMem_audio (s : State) (f : MemState → MemState) : (s.modMem f).audio = s.audio := rfl
@[simp] theorem State.modMem_cellar (s : State) (f : MemState → MemState) : (s.modMem f).cellar = s.cellar := rfl
@[simp] theorem State.modMem_folios (s : State) (f : MemState → MemState) : (s.modMem f).folios = s.folios := rfl
@[simp] theorem State.modMem_power (s : State) (f : MemState → MemState) : (s.modMem f).power = s.power := rfl
@[simp] theorem State.modMem_boot (s : State) (f : MemState → MemState) : (s.modMem f).boot = s.boot := rfl
@[simp] theorem State.modMem_host (s : State) (f : MemState → MemState) : (s.modMem f).host = s.host := rfl
@[simp] theorem State.modMem_sysif (s : State) (f : MemState → MemState) : (s.modMem f).sysif = s.sysif := rfl
@[simp] theorem State.modMem_flash (s : State) (f : MemState → MemState) : (s.modMem f).flash = s.flash := rfl
@[simp] theorem State.modMem_sram (s : State) (f : MemState → MemState) : (s.modMem f).sram = s.sram := rfl
@[simp] theorem State.modMem_trace (s : State) (f : MemState → MemState) : (s.modMem f).trace = s.trace := rfl
@[simp] theorem State.modMem_faults (s : State) (f : MemState → MemState) : (s.modMem f).faults = s.faults := rfl
@[simp] theorem State.modMem_loads (s : State) (f : MemState → MemState) : (s.modMem f).loads = s.loads := rfl
@[simp] theorem State.modMem_out (s : State) (f : MemState → MemState) : (s.modMem f).out = s.out := rfl
@[simp] theorem State.modMem_freeCount (s : State) (f : MemState → MemState) : (s.modMem f).freeCount = s.freeCount := rfl
@[simp] theorem State.modMem_rd (s : State) (f : MemState → MemState) (r : Nat) : (s.modMem f).rd r = s.rd r := rfl
@[simp] theorem State.modMem_get (s : State) (f : MemState → MemState) (r : Fld) : (s.modMem f).get r = s.get r := rfl
@[simp] theorem State.modMem_on (s : State) (f : MemState → MemState) (r : Fld) : (s.modMem f).on r = s.on r := rfl

@[simp] theorem State.modAudio_pending (s : State) (f : AudioState → AudioState) : (s.modAudio f).pending = s.pending := rfl
@[simp] theorem State.modAudio_regs (s : State) (f : AudioState → AudioState) : (s.modAudio f).regs = s.regs := rfl
@[simp] theorem State.modAudio_ruling (s : State) (f : AudioState → AudioState) : (s.modAudio f).ruling = s.ruling := rfl
@[simp] theorem State.modAudio_synOuts (s : State) (f : AudioState → AudioState) : (s.modAudio f).synOuts = s.synOuts := rfl
@[simp] theorem State.modAudio_evq (s : State) (f : AudioState → AudioState) : (s.modAudio f).evq = s.evq := rfl
@[simp] theorem State.modAudio_gpio (s : State) (f : AudioState → AudioState) : (s.modAudio f).gpio = s.gpio := rfl
@[simp] theorem State.modAudio_attic (s : State) (f : AudioState → AudioState) : (s.modAudio f).attic = s.attic := rfl
@[simp] theorem State.modAudio_blot (s : State) (f : AudioState → AudioState) : (s.modAudio f).blot = s.blot := rfl
@[simp] theorem State.modAudio_fabric (s : State) (f : AudioState → AudioState) : (s.modAudio f).fabric = s.fabric := rfl
@[simp] theorem State.modAudio_strong (s : State) (f : AudioState → AudioState) : (s.modAudio f).strong = s.strong := rfl
@[simp] theorem State.modAudio_ports (s : State) (f : AudioState → AudioState) : (s.modAudio f).ports = s.ports := rfl
@[simp] theorem State.modAudio_mem (s : State) (f : AudioState → AudioState) : (s.modAudio f).mem = s.mem := rfl
@[simp] theorem State.modAudio_streams (s : State) (f : AudioState → AudioState) : (s.modAudio f).streams = s.streams := rfl
@[simp] theorem State.modAudio_mots (s : State) (f : AudioState → AudioState) : (s.modAudio f).mots = s.mots := rfl
@[simp] theorem State.modAudio_xsWaiting (s : State) (f : AudioState → AudioState) : (s.modAudio f).xsWaiting = s.xsWaiting := rfl
@[simp] theorem State.modAudio_audio (s : State) (f : AudioState → AudioState) : (s.modAudio f).audio = f s.audio := rfl
@[simp] theorem State.modAudio_cellar (s : State) (f : AudioState → AudioState) : (s.modAudio f).cellar = s.cellar := rfl
@[simp] theorem State.modAudio_folios (s : State) (f : AudioState → AudioState) : (s.modAudio f).folios = s.folios := rfl
@[simp] theorem State.modAudio_power (s : State) (f : AudioState → AudioState) : (s.modAudio f).power = s.power := rfl
@[simp] theorem State.modAudio_boot (s : State) (f : AudioState → AudioState) : (s.modAudio f).boot = s.boot := rfl
@[simp] theorem State.modAudio_host (s : State) (f : AudioState → AudioState) : (s.modAudio f).host = s.host := rfl
@[simp] theorem State.modAudio_sysif (s : State) (f : AudioState → AudioState) : (s.modAudio f).sysif = s.sysif := rfl
@[simp] theorem State.modAudio_flash (s : State) (f : AudioState → AudioState) : (s.modAudio f).flash = s.flash := rfl
@[simp] theorem State.modAudio_sram (s : State) (f : AudioState → AudioState) : (s.modAudio f).sram = s.sram := rfl
@[simp] theorem State.modAudio_trace (s : State) (f : AudioState → AudioState) : (s.modAudio f).trace = s.trace := rfl
@[simp] theorem State.modAudio_faults (s : State) (f : AudioState → AudioState) : (s.modAudio f).faults = s.faults := rfl
@[simp] theorem State.modAudio_loads (s : State) (f : AudioState → AudioState) : (s.modAudio f).loads = s.loads := rfl
@[simp] theorem State.modAudio_out (s : State) (f : AudioState → AudioState) : (s.modAudio f).out = s.out := rfl
@[simp] theorem State.modAudio_freeCount (s : State) (f : AudioState → AudioState) : (s.modAudio f).freeCount = s.freeCount := rfl
@[simp] theorem State.modAudio_rd (s : State) (f : AudioState → AudioState) (r : Nat) : (s.modAudio f).rd r = s.rd r := rfl
@[simp] theorem State.modAudio_get (s : State) (f : AudioState → AudioState) (r : Fld) : (s.modAudio f).get r = s.get r := rfl
@[simp] theorem State.modAudio_on (s : State) (f : AudioState → AudioState) (r : Fld) : (s.modAudio f).on r = s.on r := rfl

@[simp] theorem State.modCellar_pending (s : State) (f : CellarState → CellarState) : (s.modCellar f).pending = s.pending := rfl
@[simp] theorem State.modCellar_regs (s : State) (f : CellarState → CellarState) : (s.modCellar f).regs = s.regs := rfl
@[simp] theorem State.modCellar_ruling (s : State) (f : CellarState → CellarState) : (s.modCellar f).ruling = s.ruling := rfl
@[simp] theorem State.modCellar_synOuts (s : State) (f : CellarState → CellarState) : (s.modCellar f).synOuts = s.synOuts := rfl
@[simp] theorem State.modCellar_evq (s : State) (f : CellarState → CellarState) : (s.modCellar f).evq = s.evq := rfl
@[simp] theorem State.modCellar_gpio (s : State) (f : CellarState → CellarState) : (s.modCellar f).gpio = s.gpio := rfl
@[simp] theorem State.modCellar_attic (s : State) (f : CellarState → CellarState) : (s.modCellar f).attic = s.attic := rfl
@[simp] theorem State.modCellar_blot (s : State) (f : CellarState → CellarState) : (s.modCellar f).blot = s.blot := rfl
@[simp] theorem State.modCellar_fabric (s : State) (f : CellarState → CellarState) : (s.modCellar f).fabric = s.fabric := rfl
@[simp] theorem State.modCellar_strong (s : State) (f : CellarState → CellarState) : (s.modCellar f).strong = s.strong := rfl
@[simp] theorem State.modCellar_ports (s : State) (f : CellarState → CellarState) : (s.modCellar f).ports = s.ports := rfl
@[simp] theorem State.modCellar_mem (s : State) (f : CellarState → CellarState) : (s.modCellar f).mem = s.mem := rfl
@[simp] theorem State.modCellar_streams (s : State) (f : CellarState → CellarState) : (s.modCellar f).streams = s.streams := rfl
@[simp] theorem State.modCellar_mots (s : State) (f : CellarState → CellarState) : (s.modCellar f).mots = s.mots := rfl
@[simp] theorem State.modCellar_xsWaiting (s : State) (f : CellarState → CellarState) : (s.modCellar f).xsWaiting = s.xsWaiting := rfl
@[simp] theorem State.modCellar_audio (s : State) (f : CellarState → CellarState) : (s.modCellar f).audio = s.audio := rfl
@[simp] theorem State.modCellar_cellar (s : State) (f : CellarState → CellarState) : (s.modCellar f).cellar = f s.cellar := rfl
@[simp] theorem State.modCellar_folios (s : State) (f : CellarState → CellarState) : (s.modCellar f).folios = s.folios := rfl
@[simp] theorem State.modCellar_power (s : State) (f : CellarState → CellarState) : (s.modCellar f).power = s.power := rfl
@[simp] theorem State.modCellar_boot (s : State) (f : CellarState → CellarState) : (s.modCellar f).boot = s.boot := rfl
@[simp] theorem State.modCellar_host (s : State) (f : CellarState → CellarState) : (s.modCellar f).host = s.host := rfl
@[simp] theorem State.modCellar_sysif (s : State) (f : CellarState → CellarState) : (s.modCellar f).sysif = s.sysif := rfl
@[simp] theorem State.modCellar_flash (s : State) (f : CellarState → CellarState) : (s.modCellar f).flash = s.flash := rfl
@[simp] theorem State.modCellar_sram (s : State) (f : CellarState → CellarState) : (s.modCellar f).sram = s.sram := rfl
@[simp] theorem State.modCellar_trace (s : State) (f : CellarState → CellarState) : (s.modCellar f).trace = s.trace := rfl
@[simp] theorem State.modCellar_faults (s : State) (f : CellarState → CellarState) : (s.modCellar f).faults = s.faults := rfl
@[simp] theorem State.modCellar_loads (s : State) (f : CellarState → CellarState) : (s.modCellar f).loads = s.loads := rfl
@[simp] theorem State.modCellar_out (s : State) (f : CellarState → CellarState) : (s.modCellar f).out = s.out := rfl
@[simp] theorem State.modCellar_freeCount (s : State) (f : CellarState → CellarState) : (s.modCellar f).freeCount = s.freeCount := rfl
@[simp] theorem State.modCellar_rd (s : State) (f : CellarState → CellarState) (r : Nat) : (s.modCellar f).rd r = s.rd r := rfl
@[simp] theorem State.modCellar_get (s : State) (f : CellarState → CellarState) (r : Fld) : (s.modCellar f).get r = s.get r := rfl
@[simp] theorem State.modCellar_on (s : State) (f : CellarState → CellarState) (r : Fld) : (s.modCellar f).on r = s.on r := rfl

@[simp] theorem State.modPower_pending (s : State) (f : PowerState → PowerState) : (s.modPower f).pending = s.pending := rfl
@[simp] theorem State.modPower_regs (s : State) (f : PowerState → PowerState) : (s.modPower f).regs = s.regs := rfl
@[simp] theorem State.modPower_ruling (s : State) (f : PowerState → PowerState) : (s.modPower f).ruling = s.ruling := rfl
@[simp] theorem State.modPower_synOuts (s : State) (f : PowerState → PowerState) : (s.modPower f).synOuts = s.synOuts := rfl
@[simp] theorem State.modPower_evq (s : State) (f : PowerState → PowerState) : (s.modPower f).evq = s.evq := rfl
@[simp] theorem State.modPower_gpio (s : State) (f : PowerState → PowerState) : (s.modPower f).gpio = s.gpio := rfl
@[simp] theorem State.modPower_attic (s : State) (f : PowerState → PowerState) : (s.modPower f).attic = s.attic := rfl
@[simp] theorem State.modPower_blot (s : State) (f : PowerState → PowerState) : (s.modPower f).blot = s.blot := rfl
@[simp] theorem State.modPower_fabric (s : State) (f : PowerState → PowerState) : (s.modPower f).fabric = s.fabric := rfl
@[simp] theorem State.modPower_strong (s : State) (f : PowerState → PowerState) : (s.modPower f).strong = s.strong := rfl
@[simp] theorem State.modPower_ports (s : State) (f : PowerState → PowerState) : (s.modPower f).ports = s.ports := rfl
@[simp] theorem State.modPower_mem (s : State) (f : PowerState → PowerState) : (s.modPower f).mem = s.mem := rfl
@[simp] theorem State.modPower_streams (s : State) (f : PowerState → PowerState) : (s.modPower f).streams = s.streams := rfl
@[simp] theorem State.modPower_mots (s : State) (f : PowerState → PowerState) : (s.modPower f).mots = s.mots := rfl
@[simp] theorem State.modPower_xsWaiting (s : State) (f : PowerState → PowerState) : (s.modPower f).xsWaiting = s.xsWaiting := rfl
@[simp] theorem State.modPower_audio (s : State) (f : PowerState → PowerState) : (s.modPower f).audio = s.audio := rfl
@[simp] theorem State.modPower_cellar (s : State) (f : PowerState → PowerState) : (s.modPower f).cellar = s.cellar := rfl
@[simp] theorem State.modPower_folios (s : State) (f : PowerState → PowerState) : (s.modPower f).folios = s.folios := rfl
@[simp] theorem State.modPower_power (s : State) (f : PowerState → PowerState) : (s.modPower f).power = f s.power := rfl
@[simp] theorem State.modPower_boot (s : State) (f : PowerState → PowerState) : (s.modPower f).boot = s.boot := rfl
@[simp] theorem State.modPower_host (s : State) (f : PowerState → PowerState) : (s.modPower f).host = s.host := rfl
@[simp] theorem State.modPower_sysif (s : State) (f : PowerState → PowerState) : (s.modPower f).sysif = s.sysif := rfl
@[simp] theorem State.modPower_flash (s : State) (f : PowerState → PowerState) : (s.modPower f).flash = s.flash := rfl
@[simp] theorem State.modPower_sram (s : State) (f : PowerState → PowerState) : (s.modPower f).sram = s.sram := rfl
@[simp] theorem State.modPower_trace (s : State) (f : PowerState → PowerState) : (s.modPower f).trace = s.trace := rfl
@[simp] theorem State.modPower_faults (s : State) (f : PowerState → PowerState) : (s.modPower f).faults = s.faults := rfl
@[simp] theorem State.modPower_loads (s : State) (f : PowerState → PowerState) : (s.modPower f).loads = s.loads := rfl
@[simp] theorem State.modPower_out (s : State) (f : PowerState → PowerState) : (s.modPower f).out = s.out := rfl
@[simp] theorem State.modPower_freeCount (s : State) (f : PowerState → PowerState) : (s.modPower f).freeCount = s.freeCount := rfl
@[simp] theorem State.modPower_rd (s : State) (f : PowerState → PowerState) (r : Nat) : (s.modPower f).rd r = s.rd r := rfl
@[simp] theorem State.modPower_get (s : State) (f : PowerState → PowerState) (r : Fld) : (s.modPower f).get r = s.get r := rfl
@[simp] theorem State.modPower_on (s : State) (f : PowerState → PowerState) (r : Fld) : (s.modPower f).on r = s.on r := rfl

@[simp] theorem State.modBoot_pending (s : State) (f : BootState → BootState) : (s.modBoot f).pending = s.pending := rfl
@[simp] theorem State.modBoot_regs (s : State) (f : BootState → BootState) : (s.modBoot f).regs = s.regs := rfl
@[simp] theorem State.modBoot_ruling (s : State) (f : BootState → BootState) : (s.modBoot f).ruling = s.ruling := rfl
@[simp] theorem State.modBoot_synOuts (s : State) (f : BootState → BootState) : (s.modBoot f).synOuts = s.synOuts := rfl
@[simp] theorem State.modBoot_evq (s : State) (f : BootState → BootState) : (s.modBoot f).evq = s.evq := rfl
@[simp] theorem State.modBoot_gpio (s : State) (f : BootState → BootState) : (s.modBoot f).gpio = s.gpio := rfl
@[simp] theorem State.modBoot_attic (s : State) (f : BootState → BootState) : (s.modBoot f).attic = s.attic := rfl
@[simp] theorem State.modBoot_blot (s : State) (f : BootState → BootState) : (s.modBoot f).blot = s.blot := rfl
@[simp] theorem State.modBoot_fabric (s : State) (f : BootState → BootState) : (s.modBoot f).fabric = s.fabric := rfl
@[simp] theorem State.modBoot_strong (s : State) (f : BootState → BootState) : (s.modBoot f).strong = s.strong := rfl
@[simp] theorem State.modBoot_ports (s : State) (f : BootState → BootState) : (s.modBoot f).ports = s.ports := rfl
@[simp] theorem State.modBoot_mem (s : State) (f : BootState → BootState) : (s.modBoot f).mem = s.mem := rfl
@[simp] theorem State.modBoot_streams (s : State) (f : BootState → BootState) : (s.modBoot f).streams = s.streams := rfl
@[simp] theorem State.modBoot_mots (s : State) (f : BootState → BootState) : (s.modBoot f).mots = s.mots := rfl
@[simp] theorem State.modBoot_xsWaiting (s : State) (f : BootState → BootState) : (s.modBoot f).xsWaiting = s.xsWaiting := rfl
@[simp] theorem State.modBoot_audio (s : State) (f : BootState → BootState) : (s.modBoot f).audio = s.audio := rfl
@[simp] theorem State.modBoot_cellar (s : State) (f : BootState → BootState) : (s.modBoot f).cellar = s.cellar := rfl
@[simp] theorem State.modBoot_folios (s : State) (f : BootState → BootState) : (s.modBoot f).folios = s.folios := rfl
@[simp] theorem State.modBoot_power (s : State) (f : BootState → BootState) : (s.modBoot f).power = s.power := rfl
@[simp] theorem State.modBoot_boot (s : State) (f : BootState → BootState) : (s.modBoot f).boot = f s.boot := rfl
@[simp] theorem State.modBoot_host (s : State) (f : BootState → BootState) : (s.modBoot f).host = s.host := rfl
@[simp] theorem State.modBoot_sysif (s : State) (f : BootState → BootState) : (s.modBoot f).sysif = s.sysif := rfl
@[simp] theorem State.modBoot_flash (s : State) (f : BootState → BootState) : (s.modBoot f).flash = s.flash := rfl
@[simp] theorem State.modBoot_sram (s : State) (f : BootState → BootState) : (s.modBoot f).sram = s.sram := rfl
@[simp] theorem State.modBoot_trace (s : State) (f : BootState → BootState) : (s.modBoot f).trace = s.trace := rfl
@[simp] theorem State.modBoot_faults (s : State) (f : BootState → BootState) : (s.modBoot f).faults = s.faults := rfl
@[simp] theorem State.modBoot_loads (s : State) (f : BootState → BootState) : (s.modBoot f).loads = s.loads := rfl
@[simp] theorem State.modBoot_out (s : State) (f : BootState → BootState) : (s.modBoot f).out = s.out := rfl
@[simp] theorem State.modBoot_freeCount (s : State) (f : BootState → BootState) : (s.modBoot f).freeCount = s.freeCount := rfl
@[simp] theorem State.modBoot_rd (s : State) (f : BootState → BootState) (r : Nat) : (s.modBoot f).rd r = s.rd r := rfl
@[simp] theorem State.modBoot_get (s : State) (f : BootState → BootState) (r : Fld) : (s.modBoot f).get r = s.get r := rfl
@[simp] theorem State.modBoot_on (s : State) (f : BootState → BootState) (r : Fld) : (s.modBoot f).on r = s.on r := rfl

@[simp] theorem State.modHost_pending (s : State) (f : HostState → HostState) : (s.modHost f).pending = s.pending := rfl
@[simp] theorem State.modHost_regs (s : State) (f : HostState → HostState) : (s.modHost f).regs = s.regs := rfl
@[simp] theorem State.modHost_ruling (s : State) (f : HostState → HostState) : (s.modHost f).ruling = s.ruling := rfl
@[simp] theorem State.modHost_synOuts (s : State) (f : HostState → HostState) : (s.modHost f).synOuts = s.synOuts := rfl
@[simp] theorem State.modHost_evq (s : State) (f : HostState → HostState) : (s.modHost f).evq = s.evq := rfl
@[simp] theorem State.modHost_gpio (s : State) (f : HostState → HostState) : (s.modHost f).gpio = s.gpio := rfl
@[simp] theorem State.modHost_attic (s : State) (f : HostState → HostState) : (s.modHost f).attic = s.attic := rfl
@[simp] theorem State.modHost_blot (s : State) (f : HostState → HostState) : (s.modHost f).blot = s.blot := rfl
@[simp] theorem State.modHost_fabric (s : State) (f : HostState → HostState) : (s.modHost f).fabric = s.fabric := rfl
@[simp] theorem State.modHost_strong (s : State) (f : HostState → HostState) : (s.modHost f).strong = s.strong := rfl
@[simp] theorem State.modHost_ports (s : State) (f : HostState → HostState) : (s.modHost f).ports = s.ports := rfl
@[simp] theorem State.modHost_mem (s : State) (f : HostState → HostState) : (s.modHost f).mem = s.mem := rfl
@[simp] theorem State.modHost_streams (s : State) (f : HostState → HostState) : (s.modHost f).streams = s.streams := rfl
@[simp] theorem State.modHost_mots (s : State) (f : HostState → HostState) : (s.modHost f).mots = s.mots := rfl
@[simp] theorem State.modHost_xsWaiting (s : State) (f : HostState → HostState) : (s.modHost f).xsWaiting = s.xsWaiting := rfl
@[simp] theorem State.modHost_audio (s : State) (f : HostState → HostState) : (s.modHost f).audio = s.audio := rfl
@[simp] theorem State.modHost_cellar (s : State) (f : HostState → HostState) : (s.modHost f).cellar = s.cellar := rfl
@[simp] theorem State.modHost_folios (s : State) (f : HostState → HostState) : (s.modHost f).folios = s.folios := rfl
@[simp] theorem State.modHost_power (s : State) (f : HostState → HostState) : (s.modHost f).power = s.power := rfl
@[simp] theorem State.modHost_boot (s : State) (f : HostState → HostState) : (s.modHost f).boot = s.boot := rfl
@[simp] theorem State.modHost_host (s : State) (f : HostState → HostState) : (s.modHost f).host = f s.host := rfl
@[simp] theorem State.modHost_sysif (s : State) (f : HostState → HostState) : (s.modHost f).sysif = s.sysif := rfl
@[simp] theorem State.modHost_flash (s : State) (f : HostState → HostState) : (s.modHost f).flash = s.flash := rfl
@[simp] theorem State.modHost_sram (s : State) (f : HostState → HostState) : (s.modHost f).sram = s.sram := rfl
@[simp] theorem State.modHost_trace (s : State) (f : HostState → HostState) : (s.modHost f).trace = s.trace := rfl
@[simp] theorem State.modHost_faults (s : State) (f : HostState → HostState) : (s.modHost f).faults = s.faults := rfl
@[simp] theorem State.modHost_loads (s : State) (f : HostState → HostState) : (s.modHost f).loads = s.loads := rfl
@[simp] theorem State.modHost_out (s : State) (f : HostState → HostState) : (s.modHost f).out = s.out := rfl
@[simp] theorem State.modHost_freeCount (s : State) (f : HostState → HostState) : (s.modHost f).freeCount = s.freeCount := rfl
@[simp] theorem State.modHost_rd (s : State) (f : HostState → HostState) (r : Nat) : (s.modHost f).rd r = s.rd r := rfl
@[simp] theorem State.modHost_get (s : State) (f : HostState → HostState) (r : Fld) : (s.modHost f).get r = s.get r := rfl
@[simp] theorem State.modHost_on (s : State) (f : HostState → HostState) (r : Fld) : (s.modHost f).on r = s.on r := rfl

@[simp] theorem State.modSysif_pending (s : State) (f : SysifState → SysifState) : (s.modSysif f).pending = s.pending := rfl
@[simp] theorem State.modSysif_regs (s : State) (f : SysifState → SysifState) : (s.modSysif f).regs = s.regs := rfl
@[simp] theorem State.modSysif_ruling (s : State) (f : SysifState → SysifState) : (s.modSysif f).ruling = s.ruling := rfl
@[simp] theorem State.modSysif_synOuts (s : State) (f : SysifState → SysifState) : (s.modSysif f).synOuts = s.synOuts := rfl
@[simp] theorem State.modSysif_evq (s : State) (f : SysifState → SysifState) : (s.modSysif f).evq = s.evq := rfl
@[simp] theorem State.modSysif_gpio (s : State) (f : SysifState → SysifState) : (s.modSysif f).gpio = s.gpio := rfl
@[simp] theorem State.modSysif_attic (s : State) (f : SysifState → SysifState) : (s.modSysif f).attic = s.attic := rfl
@[simp] theorem State.modSysif_blot (s : State) (f : SysifState → SysifState) : (s.modSysif f).blot = s.blot := rfl
@[simp] theorem State.modSysif_fabric (s : State) (f : SysifState → SysifState) : (s.modSysif f).fabric = s.fabric := rfl
@[simp] theorem State.modSysif_strong (s : State) (f : SysifState → SysifState) : (s.modSysif f).strong = s.strong := rfl
@[simp] theorem State.modSysif_ports (s : State) (f : SysifState → SysifState) : (s.modSysif f).ports = s.ports := rfl
@[simp] theorem State.modSysif_mem (s : State) (f : SysifState → SysifState) : (s.modSysif f).mem = s.mem := rfl
@[simp] theorem State.modSysif_streams (s : State) (f : SysifState → SysifState) : (s.modSysif f).streams = s.streams := rfl
@[simp] theorem State.modSysif_mots (s : State) (f : SysifState → SysifState) : (s.modSysif f).mots = s.mots := rfl
@[simp] theorem State.modSysif_xsWaiting (s : State) (f : SysifState → SysifState) : (s.modSysif f).xsWaiting = s.xsWaiting := rfl
@[simp] theorem State.modSysif_audio (s : State) (f : SysifState → SysifState) : (s.modSysif f).audio = s.audio := rfl
@[simp] theorem State.modSysif_cellar (s : State) (f : SysifState → SysifState) : (s.modSysif f).cellar = s.cellar := rfl
@[simp] theorem State.modSysif_folios (s : State) (f : SysifState → SysifState) : (s.modSysif f).folios = s.folios := rfl
@[simp] theorem State.modSysif_power (s : State) (f : SysifState → SysifState) : (s.modSysif f).power = s.power := rfl
@[simp] theorem State.modSysif_boot (s : State) (f : SysifState → SysifState) : (s.modSysif f).boot = s.boot := rfl
@[simp] theorem State.modSysif_host (s : State) (f : SysifState → SysifState) : (s.modSysif f).host = s.host := rfl
@[simp] theorem State.modSysif_sysif (s : State) (f : SysifState → SysifState) : (s.modSysif f).sysif = f s.sysif := rfl
@[simp] theorem State.modSysif_flash (s : State) (f : SysifState → SysifState) : (s.modSysif f).flash = s.flash := rfl
@[simp] theorem State.modSysif_sram (s : State) (f : SysifState → SysifState) : (s.modSysif f).sram = s.sram := rfl
@[simp] theorem State.modSysif_trace (s : State) (f : SysifState → SysifState) : (s.modSysif f).trace = s.trace := rfl
@[simp] theorem State.modSysif_faults (s : State) (f : SysifState → SysifState) : (s.modSysif f).faults = s.faults := rfl
@[simp] theorem State.modSysif_loads (s : State) (f : SysifState → SysifState) : (s.modSysif f).loads = s.loads := rfl
@[simp] theorem State.modSysif_out (s : State) (f : SysifState → SysifState) : (s.modSysif f).out = s.out := rfl
@[simp] theorem State.modSysif_freeCount (s : State) (f : SysifState → SysifState) : (s.modSysif f).freeCount = s.freeCount := rfl
@[simp] theorem State.modSysif_rd (s : State) (f : SysifState → SysifState) (r : Nat) : (s.modSysif f).rd r = s.rd r := rfl
@[simp] theorem State.modSysif_get (s : State) (f : SysifState → SysifState) (r : Fld) : (s.modSysif f).get r = s.get r := rfl
@[simp] theorem State.modSysif_on (s : State) (f : SysifState → SysifState) (r : Fld) : (s.modSysif f).on r = s.on r := rfl

@[simp] theorem State.modGpio_pending (s : State) (f : GpioState → GpioState) : (s.modGpio f).pending = s.pending := rfl
@[simp] theorem State.modGpio_regs (s : State) (f : GpioState → GpioState) : (s.modGpio f).regs = s.regs := rfl
@[simp] theorem State.modGpio_ruling (s : State) (f : GpioState → GpioState) : (s.modGpio f).ruling = s.ruling := rfl
@[simp] theorem State.modGpio_synOuts (s : State) (f : GpioState → GpioState) : (s.modGpio f).synOuts = s.synOuts := rfl
@[simp] theorem State.modGpio_evq (s : State) (f : GpioState → GpioState) : (s.modGpio f).evq = s.evq := rfl
@[simp] theorem State.modGpio_gpio (s : State) (f : GpioState → GpioState) : (s.modGpio f).gpio = f s.gpio := rfl
@[simp] theorem State.modGpio_attic (s : State) (f : GpioState → GpioState) : (s.modGpio f).attic = s.attic := rfl
@[simp] theorem State.modGpio_blot (s : State) (f : GpioState → GpioState) : (s.modGpio f).blot = s.blot := rfl
@[simp] theorem State.modGpio_fabric (s : State) (f : GpioState → GpioState) : (s.modGpio f).fabric = s.fabric := rfl
@[simp] theorem State.modGpio_strong (s : State) (f : GpioState → GpioState) : (s.modGpio f).strong = s.strong := rfl
@[simp] theorem State.modGpio_ports (s : State) (f : GpioState → GpioState) : (s.modGpio f).ports = s.ports := rfl
@[simp] theorem State.modGpio_mem (s : State) (f : GpioState → GpioState) : (s.modGpio f).mem = s.mem := rfl
@[simp] theorem State.modGpio_streams (s : State) (f : GpioState → GpioState) : (s.modGpio f).streams = s.streams := rfl
@[simp] theorem State.modGpio_mots (s : State) (f : GpioState → GpioState) : (s.modGpio f).mots = s.mots := rfl
@[simp] theorem State.modGpio_xsWaiting (s : State) (f : GpioState → GpioState) : (s.modGpio f).xsWaiting = s.xsWaiting := rfl
@[simp] theorem State.modGpio_audio (s : State) (f : GpioState → GpioState) : (s.modGpio f).audio = s.audio := rfl
@[simp] theorem State.modGpio_cellar (s : State) (f : GpioState → GpioState) : (s.modGpio f).cellar = s.cellar := rfl
@[simp] theorem State.modGpio_folios (s : State) (f : GpioState → GpioState) : (s.modGpio f).folios = s.folios := rfl
@[simp] theorem State.modGpio_power (s : State) (f : GpioState → GpioState) : (s.modGpio f).power = s.power := rfl
@[simp] theorem State.modGpio_boot (s : State) (f : GpioState → GpioState) : (s.modGpio f).boot = s.boot := rfl
@[simp] theorem State.modGpio_host (s : State) (f : GpioState → GpioState) : (s.modGpio f).host = s.host := rfl
@[simp] theorem State.modGpio_sysif (s : State) (f : GpioState → GpioState) : (s.modGpio f).sysif = s.sysif := rfl
@[simp] theorem State.modGpio_flash (s : State) (f : GpioState → GpioState) : (s.modGpio f).flash = s.flash := rfl
@[simp] theorem State.modGpio_sram (s : State) (f : GpioState → GpioState) : (s.modGpio f).sram = s.sram := rfl
@[simp] theorem State.modGpio_trace (s : State) (f : GpioState → GpioState) : (s.modGpio f).trace = s.trace := rfl
@[simp] theorem State.modGpio_faults (s : State) (f : GpioState → GpioState) : (s.modGpio f).faults = s.faults := rfl
@[simp] theorem State.modGpio_loads (s : State) (f : GpioState → GpioState) : (s.modGpio f).loads = s.loads := rfl
@[simp] theorem State.modGpio_out (s : State) (f : GpioState → GpioState) : (s.modGpio f).out = s.out := rfl
@[simp] theorem State.modGpio_freeCount (s : State) (f : GpioState → GpioState) : (s.modGpio f).freeCount = s.freeCount := rfl
@[simp] theorem State.modGpio_rd (s : State) (f : GpioState → GpioState) (r : Nat) : (s.modGpio f).rd r = s.rd r := rfl
@[simp] theorem State.modGpio_get (s : State) (f : GpioState → GpioState) (r : Fld) : (s.modGpio f).get r = s.get r := rfl
@[simp] theorem State.modGpio_on (s : State) (f : GpioState → GpioState) (r : Fld) : (s.modGpio f).on r = s.on r := rfl

@[simp] theorem State.setWaiting_pending (s : State) (l : List (Nat × Codestream)) : (s.setWaiting l).pending = s.pending := rfl
@[simp] theorem State.setWaiting_regs (s : State) (l : List (Nat × Codestream)) : (s.setWaiting l).regs = s.regs := rfl
@[simp] theorem State.setWaiting_ruling (s : State) (l : List (Nat × Codestream)) : (s.setWaiting l).ruling = s.ruling := rfl
@[simp] theorem State.setWaiting_synOuts (s : State) (l : List (Nat × Codestream)) : (s.setWaiting l).synOuts = s.synOuts := rfl
@[simp] theorem State.setWaiting_evq (s : State) (l : List (Nat × Codestream)) : (s.setWaiting l).evq = s.evq := rfl
@[simp] theorem State.setWaiting_gpio (s : State) (l : List (Nat × Codestream)) : (s.setWaiting l).gpio = s.gpio := rfl
@[simp] theorem State.setWaiting_attic (s : State) (l : List (Nat × Codestream)) : (s.setWaiting l).attic = s.attic := rfl
@[simp] theorem State.setWaiting_blot (s : State) (l : List (Nat × Codestream)) : (s.setWaiting l).blot = s.blot := rfl
@[simp] theorem State.setWaiting_fabric (s : State) (l : List (Nat × Codestream)) : (s.setWaiting l).fabric = s.fabric := rfl
@[simp] theorem State.setWaiting_strong (s : State) (l : List (Nat × Codestream)) : (s.setWaiting l).strong = s.strong := rfl
@[simp] theorem State.setWaiting_ports (s : State) (l : List (Nat × Codestream)) : (s.setWaiting l).ports = s.ports := rfl
@[simp] theorem State.setWaiting_mem (s : State) (l : List (Nat × Codestream)) : (s.setWaiting l).mem = s.mem := rfl
@[simp] theorem State.setWaiting_streams (s : State) (l : List (Nat × Codestream)) : (s.setWaiting l).streams = s.streams := rfl
@[simp] theorem State.setWaiting_mots (s : State) (l : List (Nat × Codestream)) : (s.setWaiting l).mots = s.mots := rfl
@[simp] theorem State.setWaiting_xsWaiting (s : State) (l : List (Nat × Codestream)) : (s.setWaiting l).xsWaiting = l := rfl
@[simp] theorem State.setWaiting_audio (s : State) (l : List (Nat × Codestream)) : (s.setWaiting l).audio = s.audio := rfl
@[simp] theorem State.setWaiting_cellar (s : State) (l : List (Nat × Codestream)) : (s.setWaiting l).cellar = s.cellar := rfl
@[simp] theorem State.setWaiting_folios (s : State) (l : List (Nat × Codestream)) : (s.setWaiting l).folios = s.folios := rfl
@[simp] theorem State.setWaiting_power (s : State) (l : List (Nat × Codestream)) : (s.setWaiting l).power = s.power := rfl
@[simp] theorem State.setWaiting_boot (s : State) (l : List (Nat × Codestream)) : (s.setWaiting l).boot = s.boot := rfl
@[simp] theorem State.setWaiting_host (s : State) (l : List (Nat × Codestream)) : (s.setWaiting l).host = s.host := rfl
@[simp] theorem State.setWaiting_sysif (s : State) (l : List (Nat × Codestream)) : (s.setWaiting l).sysif = s.sysif := rfl
@[simp] theorem State.setWaiting_flash (s : State) (l : List (Nat × Codestream)) : (s.setWaiting l).flash = s.flash := rfl
@[simp] theorem State.setWaiting_sram (s : State) (l : List (Nat × Codestream)) : (s.setWaiting l).sram = s.sram := rfl
@[simp] theorem State.setWaiting_trace (s : State) (l : List (Nat × Codestream)) : (s.setWaiting l).trace = s.trace := rfl
@[simp] theorem State.setWaiting_faults (s : State) (l : List (Nat × Codestream)) : (s.setWaiting l).faults = s.faults := rfl
@[simp] theorem State.setWaiting_loads (s : State) (l : List (Nat × Codestream)) : (s.setWaiting l).loads = s.loads := rfl
@[simp] theorem State.setWaiting_out (s : State) (l : List (Nat × Codestream)) : (s.setWaiting l).out = s.out := rfl
@[simp] theorem State.setWaiting_freeCount (s : State) (l : List (Nat × Codestream)) : (s.setWaiting l).freeCount = s.freeCount := rfl
@[simp] theorem State.setWaiting_rd (s : State) (l : List (Nat × Codestream)) (r : Nat) : (s.setWaiting l).rd r = s.rd r := rfl
@[simp] theorem State.setWaiting_get (s : State) (l : List (Nat × Codestream)) (r : Fld) : (s.setWaiting l).get r = s.get r := rfl
@[simp] theorem State.setWaiting_on (s : State) (l : List (Nat × Codestream)) (r : Fld) : (s.setWaiting l).on r = s.on r := rfl

@[simp] theorem State.pushTrace_pending (s : State) (e : TraceEntry) : (s.pushTrace e).pending = s.pending := by unfold State.pushTrace; rfl
@[simp] theorem State.pushTrace_regs (s : State) (e : TraceEntry) : (s.pushTrace e).regs = s.regs := by unfold State.pushTrace; rfl
@[simp] theorem State.pushTrace_ruling (s : State) (e : TraceEntry) : (s.pushTrace e).ruling = s.ruling := by unfold State.pushTrace; rfl
@[simp] theorem State.pushTrace_synOuts (s : State) (e : TraceEntry) : (s.pushTrace e).synOuts = s.synOuts := by unfold State.pushTrace; rfl
@[simp] theorem State.pushTrace_evq (s : State) (e : TraceEntry) : (s.pushTrace e).evq = s.evq := by unfold State.pushTrace; rfl
@[simp] theorem State.pushTrace_gpio (s : State) (e : TraceEntry) : (s.pushTrace e).gpio = s.gpio := by unfold State.pushTrace; rfl
@[simp] theorem State.pushTrace_attic (s : State) (e : TraceEntry) : (s.pushTrace e).attic = s.attic := by unfold State.pushTrace; rfl
@[simp] theorem State.pushTrace_blot (s : State) (e : TraceEntry) : (s.pushTrace e).blot = s.blot := by unfold State.pushTrace; rfl
@[simp] theorem State.pushTrace_fabric (s : State) (e : TraceEntry) : (s.pushTrace e).fabric = s.fabric := by unfold State.pushTrace; rfl
@[simp] theorem State.pushTrace_strong (s : State) (e : TraceEntry) : (s.pushTrace e).strong = s.strong := by unfold State.pushTrace; rfl
@[simp] theorem State.pushTrace_ports (s : State) (e : TraceEntry) : (s.pushTrace e).ports = s.ports := by unfold State.pushTrace; rfl
@[simp] theorem State.pushTrace_mem (s : State) (e : TraceEntry) : (s.pushTrace e).mem = s.mem := by unfold State.pushTrace; rfl
@[simp] theorem State.pushTrace_streams (s : State) (e : TraceEntry) : (s.pushTrace e).streams = s.streams := by unfold State.pushTrace; rfl
@[simp] theorem State.pushTrace_mots (s : State) (e : TraceEntry) : (s.pushTrace e).mots = s.mots := by unfold State.pushTrace; rfl
@[simp] theorem State.pushTrace_xsWaiting (s : State) (e : TraceEntry) : (s.pushTrace e).xsWaiting = s.xsWaiting := by unfold State.pushTrace; rfl
@[simp] theorem State.pushTrace_audio (s : State) (e : TraceEntry) : (s.pushTrace e).audio = s.audio := by unfold State.pushTrace; rfl
@[simp] theorem State.pushTrace_cellar (s : State) (e : TraceEntry) : (s.pushTrace e).cellar = s.cellar := by unfold State.pushTrace; rfl
@[simp] theorem State.pushTrace_folios (s : State) (e : TraceEntry) : (s.pushTrace e).folios = s.folios := by unfold State.pushTrace; rfl
@[simp] theorem State.pushTrace_power (s : State) (e : TraceEntry) : (s.pushTrace e).power = s.power := by unfold State.pushTrace; rfl
@[simp] theorem State.pushTrace_boot (s : State) (e : TraceEntry) : (s.pushTrace e).boot = s.boot := by unfold State.pushTrace; rfl
@[simp] theorem State.pushTrace_host (s : State) (e : TraceEntry) : (s.pushTrace e).host = s.host := by unfold State.pushTrace; rfl
@[simp] theorem State.pushTrace_sysif (s : State) (e : TraceEntry) : (s.pushTrace e).sysif = s.sysif := by unfold State.pushTrace; rfl
@[simp] theorem State.pushTrace_flash (s : State) (e : TraceEntry) : (s.pushTrace e).flash = s.flash := by unfold State.pushTrace; rfl
@[simp] theorem State.pushTrace_sram (s : State) (e : TraceEntry) : (s.pushTrace e).sram = s.sram := by unfold State.pushTrace; rfl
@[simp] theorem State.pushTrace_faults (s : State) (e : TraceEntry) : (s.pushTrace e).faults = s.faults := by unfold State.pushTrace; rfl
@[simp] theorem State.pushTrace_loads (s : State) (e : TraceEntry) : (s.pushTrace e).loads = s.loads := by unfold State.pushTrace; rfl
@[simp] theorem State.pushTrace_out (s : State) (e : TraceEntry) : (s.pushTrace e).out = s.out := by unfold State.pushTrace; rfl
@[simp] theorem State.pushTrace_freeCount (s : State) (e : TraceEntry) : (s.pushTrace e).freeCount = s.freeCount := by unfold State.pushTrace; rfl
@[simp] theorem State.pushTrace_rd (s : State) (e : TraceEntry) (r : Nat) : (s.pushTrace e).rd r = s.rd r := by simp only [State.rd, State.pushTrace_regs]
@[simp] theorem State.pushTrace_get (s : State) (e : TraceEntry) (r : Fld) : (s.pushTrace e).get r = s.get r := by simp only [State.get, State.pushTrace_rd]
@[simp] theorem State.pushTrace_on (s : State) (e : TraceEntry) (r : Fld) : (s.pushTrace e).on r = s.on r := by simp only [State.on, State.pushTrace_get]

@[simp] theorem State.clearTrace_pending (s : State)  : (s.clearTrace).pending = s.pending := rfl
@[simp] theorem State.clearTrace_regs (s : State)  : (s.clearTrace).regs = s.regs := rfl
@[simp] theorem State.clearTrace_ruling (s : State)  : (s.clearTrace).ruling = s.ruling := rfl
@[simp] theorem State.clearTrace_synOuts (s : State)  : (s.clearTrace).synOuts = s.synOuts := rfl
@[simp] theorem State.clearTrace_evq (s : State)  : (s.clearTrace).evq = s.evq := rfl
@[simp] theorem State.clearTrace_gpio (s : State)  : (s.clearTrace).gpio = s.gpio := rfl
@[simp] theorem State.clearTrace_attic (s : State)  : (s.clearTrace).attic = s.attic := rfl
@[simp] theorem State.clearTrace_blot (s : State)  : (s.clearTrace).blot = s.blot := rfl
@[simp] theorem State.clearTrace_fabric (s : State)  : (s.clearTrace).fabric = s.fabric := rfl
@[simp] theorem State.clearTrace_strong (s : State)  : (s.clearTrace).strong = s.strong := rfl
@[simp] theorem State.clearTrace_ports (s : State)  : (s.clearTrace).ports = s.ports := rfl
@[simp] theorem State.clearTrace_mem (s : State)  : (s.clearTrace).mem = s.mem := rfl
@[simp] theorem State.clearTrace_streams (s : State)  : (s.clearTrace).streams = s.streams := rfl
@[simp] theorem State.clearTrace_mots (s : State)  : (s.clearTrace).mots = s.mots := rfl
@[simp] theorem State.clearTrace_xsWaiting (s : State)  : (s.clearTrace).xsWaiting = s.xsWaiting := rfl
@[simp] theorem State.clearTrace_audio (s : State)  : (s.clearTrace).audio = s.audio := rfl
@[simp] theorem State.clearTrace_cellar (s : State)  : (s.clearTrace).cellar = s.cellar := rfl
@[simp] theorem State.clearTrace_folios (s : State)  : (s.clearTrace).folios = s.folios := rfl
@[simp] theorem State.clearTrace_power (s : State)  : (s.clearTrace).power = s.power := rfl
@[simp] theorem State.clearTrace_boot (s : State)  : (s.clearTrace).boot = s.boot := rfl
@[simp] theorem State.clearTrace_host (s : State)  : (s.clearTrace).host = s.host := rfl
@[simp] theorem State.clearTrace_sysif (s : State)  : (s.clearTrace).sysif = s.sysif := rfl
@[simp] theorem State.clearTrace_flash (s : State)  : (s.clearTrace).flash = s.flash := rfl
@[simp] theorem State.clearTrace_sram (s : State)  : (s.clearTrace).sram = s.sram := rfl
@[simp] theorem State.clearTrace_trace (s : State)  : (s.clearTrace).trace = [] := rfl
@[simp] theorem State.clearTrace_faults (s : State)  : (s.clearTrace).faults = s.faults := rfl
@[simp] theorem State.clearTrace_loads (s : State)  : (s.clearTrace).loads = s.loads := rfl
@[simp] theorem State.clearTrace_out (s : State)  : (s.clearTrace).out = s.out := rfl
@[simp] theorem State.clearTrace_freeCount (s : State)  : (s.clearTrace).freeCount = s.freeCount := rfl
@[simp] theorem State.clearTrace_rd (s : State) (r : Nat) : (s.clearTrace).rd r = s.rd r := rfl
@[simp] theorem State.clearTrace_get (s : State) (r : Fld) : (s.clearTrace).get r = s.get r := rfl
@[simp] theorem State.clearTrace_on (s : State) (r : Fld) : (s.clearTrace).on r = s.on r := rfl

@[simp] theorem State.clearSram_pending (s : State)  : (s.clearSram).pending = s.pending := rfl
@[simp] theorem State.clearSram_regs (s : State)  : (s.clearSram).regs = s.regs := rfl
@[simp] theorem State.clearSram_ruling (s : State)  : (s.clearSram).ruling = s.ruling := rfl
@[simp] theorem State.clearSram_synOuts (s : State)  : (s.clearSram).synOuts = s.synOuts := rfl
@[simp] theorem State.clearSram_evq (s : State)  : (s.clearSram).evq = s.evq := rfl
@[simp] theorem State.clearSram_gpio (s : State)  : (s.clearSram).gpio = s.gpio := rfl
@[simp] theorem State.clearSram_attic (s : State)  : (s.clearSram).attic = s.attic := rfl
@[simp] theorem State.clearSram_blot (s : State)  : (s.clearSram).blot = s.blot := rfl
@[simp] theorem State.clearSram_fabric (s : State)  : (s.clearSram).fabric = s.fabric := rfl
@[simp] theorem State.clearSram_strong (s : State)  : (s.clearSram).strong = s.strong := rfl
@[simp] theorem State.clearSram_ports (s : State)  : (s.clearSram).ports = s.ports := rfl
@[simp] theorem State.clearSram_mem (s : State)  : (s.clearSram).mem = s.mem := rfl
@[simp] theorem State.clearSram_streams (s : State)  : (s.clearSram).streams = s.streams := rfl
@[simp] theorem State.clearSram_mots (s : State)  : (s.clearSram).mots = s.mots := rfl
@[simp] theorem State.clearSram_xsWaiting (s : State)  : (s.clearSram).xsWaiting = s.xsWaiting := rfl
@[simp] theorem State.clearSram_audio (s : State)  : (s.clearSram).audio = s.audio := rfl
@[simp] theorem State.clearSram_cellar (s : State)  : (s.clearSram).cellar = s.cellar := rfl
@[simp] theorem State.clearSram_folios (s : State)  : (s.clearSram).folios = s.folios := rfl
@[simp] theorem State.clearSram_power (s : State)  : (s.clearSram).power = s.power := rfl
@[simp] theorem State.clearSram_boot (s : State)  : (s.clearSram).boot = s.boot := rfl
@[simp] theorem State.clearSram_host (s : State)  : (s.clearSram).host = s.host := rfl
@[simp] theorem State.clearSram_sysif (s : State)  : (s.clearSram).sysif = s.sysif := rfl
@[simp] theorem State.clearSram_flash (s : State)  : (s.clearSram).flash = s.flash := rfl
@[simp] theorem State.clearSram_sram (s : State)  : (s.clearSram).sram = [] := rfl
@[simp] theorem State.clearSram_trace (s : State)  : (s.clearSram).trace = s.trace := rfl
@[simp] theorem State.clearSram_faults (s : State)  : (s.clearSram).faults = s.faults := rfl
@[simp] theorem State.clearSram_loads (s : State)  : (s.clearSram).loads = s.loads := rfl
@[simp] theorem State.clearSram_out (s : State)  : (s.clearSram).out = s.out := rfl
@[simp] theorem State.clearSram_freeCount (s : State)  : (s.clearSram).freeCount = s.freeCount := rfl
@[simp] theorem State.clearSram_rd (s : State) (r : Nat) : (s.clearSram).rd r = s.rd r := rfl
@[simp] theorem State.clearSram_get (s : State) (r : Fld) : (s.clearSram).get r = s.get r := rfl
@[simp] theorem State.clearSram_on (s : State) (r : Fld) : (s.clearSram).on r = s.on r := rfl

@[simp] theorem State.clearLoads_pending (s : State)  : (s.clearLoads).pending = s.pending := rfl
@[simp] theorem State.clearLoads_regs (s : State)  : (s.clearLoads).regs = s.regs := rfl
@[simp] theorem State.clearLoads_ruling (s : State)  : (s.clearLoads).ruling = s.ruling := rfl
@[simp] theorem State.clearLoads_synOuts (s : State)  : (s.clearLoads).synOuts = s.synOuts := rfl
@[simp] theorem State.clearLoads_evq (s : State)  : (s.clearLoads).evq = s.evq := rfl
@[simp] theorem State.clearLoads_gpio (s : State)  : (s.clearLoads).gpio = s.gpio := rfl
@[simp] theorem State.clearLoads_attic (s : State)  : (s.clearLoads).attic = s.attic := rfl
@[simp] theorem State.clearLoads_blot (s : State)  : (s.clearLoads).blot = s.blot := rfl
@[simp] theorem State.clearLoads_fabric (s : State)  : (s.clearLoads).fabric = s.fabric := rfl
@[simp] theorem State.clearLoads_strong (s : State)  : (s.clearLoads).strong = s.strong := rfl
@[simp] theorem State.clearLoads_ports (s : State)  : (s.clearLoads).ports = s.ports := rfl
@[simp] theorem State.clearLoads_mem (s : State)  : (s.clearLoads).mem = s.mem := rfl
@[simp] theorem State.clearLoads_streams (s : State)  : (s.clearLoads).streams = s.streams := rfl
@[simp] theorem State.clearLoads_mots (s : State)  : (s.clearLoads).mots = s.mots := rfl
@[simp] theorem State.clearLoads_xsWaiting (s : State)  : (s.clearLoads).xsWaiting = s.xsWaiting := rfl
@[simp] theorem State.clearLoads_audio (s : State)  : (s.clearLoads).audio = s.audio := rfl
@[simp] theorem State.clearLoads_cellar (s : State)  : (s.clearLoads).cellar = s.cellar := rfl
@[simp] theorem State.clearLoads_folios (s : State)  : (s.clearLoads).folios = s.folios := rfl
@[simp] theorem State.clearLoads_power (s : State)  : (s.clearLoads).power = s.power := rfl
@[simp] theorem State.clearLoads_boot (s : State)  : (s.clearLoads).boot = s.boot := rfl
@[simp] theorem State.clearLoads_host (s : State)  : (s.clearLoads).host = s.host := rfl
@[simp] theorem State.clearLoads_sysif (s : State)  : (s.clearLoads).sysif = s.sysif := rfl
@[simp] theorem State.clearLoads_flash (s : State)  : (s.clearLoads).flash = s.flash := rfl
@[simp] theorem State.clearLoads_sram (s : State)  : (s.clearLoads).sram = s.sram := rfl
@[simp] theorem State.clearLoads_trace (s : State)  : (s.clearLoads).trace = s.trace := rfl
@[simp] theorem State.clearLoads_faults (s : State)  : (s.clearLoads).faults = s.faults := rfl
@[simp] theorem State.clearLoads_loads (s : State)  : (s.clearLoads).loads = [] := rfl
@[simp] theorem State.clearLoads_out (s : State)  : (s.clearLoads).out = s.out := rfl
@[simp] theorem State.clearLoads_freeCount (s : State)  : (s.clearLoads).freeCount = s.freeCount := rfl
@[simp] theorem State.clearLoads_rd (s : State) (r : Nat) : (s.clearLoads).rd r = s.rd r := rfl
@[simp] theorem State.clearLoads_get (s : State) (r : Fld) : (s.clearLoads).get r = s.get r := rfl
@[simp] theorem State.clearLoads_on (s : State) (r : Fld) : (s.clearLoads).on r = s.on r := rfl

@[simp] theorem State.setSram_pending (s : State) (a : Nat) (b : Byte) : (s.setSram a b).pending = s.pending := rfl
@[simp] theorem State.setSram_regs (s : State) (a : Nat) (b : Byte) : (s.setSram a b).regs = s.regs := rfl
@[simp] theorem State.setSram_ruling (s : State) (a : Nat) (b : Byte) : (s.setSram a b).ruling = s.ruling := rfl
@[simp] theorem State.setSram_synOuts (s : State) (a : Nat) (b : Byte) : (s.setSram a b).synOuts = s.synOuts := rfl
@[simp] theorem State.setSram_evq (s : State) (a : Nat) (b : Byte) : (s.setSram a b).evq = s.evq := rfl
@[simp] theorem State.setSram_gpio (s : State) (a : Nat) (b : Byte) : (s.setSram a b).gpio = s.gpio := rfl
@[simp] theorem State.setSram_attic (s : State) (a : Nat) (b : Byte) : (s.setSram a b).attic = s.attic := rfl
@[simp] theorem State.setSram_blot (s : State) (a : Nat) (b : Byte) : (s.setSram a b).blot = s.blot := rfl
@[simp] theorem State.setSram_fabric (s : State) (a : Nat) (b : Byte) : (s.setSram a b).fabric = s.fabric := rfl
@[simp] theorem State.setSram_strong (s : State) (a : Nat) (b : Byte) : (s.setSram a b).strong = s.strong := rfl
@[simp] theorem State.setSram_ports (s : State) (a : Nat) (b : Byte) : (s.setSram a b).ports = s.ports := rfl
@[simp] theorem State.setSram_mem (s : State) (a : Nat) (b : Byte) : (s.setSram a b).mem = s.mem := rfl
@[simp] theorem State.setSram_streams (s : State) (a : Nat) (b : Byte) : (s.setSram a b).streams = s.streams := rfl
@[simp] theorem State.setSram_mots (s : State) (a : Nat) (b : Byte) : (s.setSram a b).mots = s.mots := rfl
@[simp] theorem State.setSram_xsWaiting (s : State) (a : Nat) (b : Byte) : (s.setSram a b).xsWaiting = s.xsWaiting := rfl
@[simp] theorem State.setSram_audio (s : State) (a : Nat) (b : Byte) : (s.setSram a b).audio = s.audio := rfl
@[simp] theorem State.setSram_cellar (s : State) (a : Nat) (b : Byte) : (s.setSram a b).cellar = s.cellar := rfl
@[simp] theorem State.setSram_folios (s : State) (a : Nat) (b : Byte) : (s.setSram a b).folios = s.folios := rfl
@[simp] theorem State.setSram_power (s : State) (a : Nat) (b : Byte) : (s.setSram a b).power = s.power := rfl
@[simp] theorem State.setSram_boot (s : State) (a : Nat) (b : Byte) : (s.setSram a b).boot = s.boot := rfl
@[simp] theorem State.setSram_host (s : State) (a : Nat) (b : Byte) : (s.setSram a b).host = s.host := rfl
@[simp] theorem State.setSram_sysif (s : State) (a : Nat) (b : Byte) : (s.setSram a b).sysif = s.sysif := rfl
@[simp] theorem State.setSram_flash (s : State) (a : Nat) (b : Byte) : (s.setSram a b).flash = s.flash := rfl
@[simp] theorem State.setSram_trace (s : State) (a : Nat) (b : Byte) : (s.setSram a b).trace = s.trace := rfl
@[simp] theorem State.setSram_faults (s : State) (a : Nat) (b : Byte) : (s.setSram a b).faults = s.faults := rfl
@[simp] theorem State.setSram_loads (s : State) (a : Nat) (b : Byte) : (s.setSram a b).loads = s.loads := rfl
@[simp] theorem State.setSram_out (s : State) (a : Nat) (b : Byte) : (s.setSram a b).out = s.out := rfl
@[simp] theorem State.setSram_freeCount (s : State) (a : Nat) (b : Byte) : (s.setSram a b).freeCount = s.freeCount := rfl
@[simp] theorem State.setSram_rd (s : State) (a : Nat) (b : Byte) (r : Nat) : (s.setSram a b).rd r = s.rd r := rfl
@[simp] theorem State.setSram_get (s : State) (a : Nat) (b : Byte) (r : Fld) : (s.setSram a b).get r = s.get r := rfl
@[simp] theorem State.setSram_on (s : State) (a : Nat) (b : Byte) (r : Fld) : (s.setSram a b).on r = s.on r := rfl

end Sys2Proof.Machine
end

