-- ==== Sys2Proof/Laws/Regs.lean ====
section
/-!
SUPPORT. Reading a register or a field after a write: the field written, every other field, every other register, and what
raising an event flag and completing a command leave (00_scope.md R11 to R15).
-/
namespace Sys2Proof.Machine
open Sys2Proof

/-! ### Words -/

theorem maskBits_getLsbD (hi lo j : Nat) (h : lo ≤ hi) (h32 : hi < 32) :
    (maskBits hi lo).getLsbD j = (decide (lo ≤ j) && decide (j ≤ hi)) := by
  have : (decide (j < 32) && (!decide (j < lo) && (decide (31 - (hi - lo) + (j - lo) < 32)))) =
      (decide (lo ≤ j) && decide (j ≤ hi)) := by
    by_cases h1 : lo ≤ j <;> by_cases h2 : j ≤ hi <;> simp [h1, h2] <;> omega
  rw [← this]
  simp [maskBits, -BitVec.reduceAllOnes, Bool.and_assoc]

/-- A bit of a word with a field replaced. -/
theorem setBits_getLsbD (w : BitVec 32) (hi lo v j : Nat) (h : lo ≤ hi) (h32 : hi < 32) :
    (setBits w hi lo v).getLsbD j = if lo ≤ j ∧ j ≤ hi then v.testBit (j - lo) else w.getLsbD j := by
  by_cases hj : j < 32
  · simp only [setBits, BitVec.getLsbD_or, BitVec.getLsbD_and, BitVec.getLsbD_not, BitVec.getLsbD_shiftLeft,
      BitVec.getLsbD_ofNat, maskBits_getLsbD hi lo j h h32]
    by_cases h1 : lo ≤ j <;> by_cases h2 : j ≤ hi <;> simp [h1, h2, hj]
    · simp [Nat.not_lt.mpr h1, show j - lo < 32 by omega]
  · have hn : ¬ (lo ≤ j ∧ j ≤ hi) := by omega
    simp [hn, BitVec.getLsbD_of_ge _ _ (Nat.le_of_not_lt hj)]

/-- A bit of a field's value. -/
theorem getBits_testBit (w : BitVec 32) (hi lo i : Nat) :
    (getBits w hi lo).testBit i = (decide (i < hi + 1 - lo) && w.getLsbD (lo + i)) := by
  simp [getBits, Nat.testBit_mod_two_pow, Nat.testBit_shiftRight, BitVec.getLsbD]

theorem getBits_setBits (w : BitVec 32) (hi lo v : Nat) (h : lo ≤ hi) (h32 : hi < 32) :
    getBits (setBits w hi lo v) hi lo = v % 2 ^ (hi + 1 - lo) := by
  apply Nat.eq_of_testBit_eq
  intro i
  rw [getBits_testBit, setBits_getLsbD _ _ _ _ _ h h32, Nat.testBit_mod_two_pow]
  by_cases hi' : i < hi + 1 - lo
  · have : lo ≤ lo + i ∧ lo + i ≤ hi := by omega
    simp [hi', this]
  · simp [hi']

theorem getBits_setBits_apart (w : BitVec 32) (hi lo v hi' lo' : Nat) (h : lo ≤ hi) (h32 : hi < 32)
    (ha : hi' < lo ∨ hi < lo') : getBits (setBits w hi lo v) hi' lo' = getBits w hi' lo' := by
  apply Nat.eq_of_testBit_eq
  intro i
  rw [getBits_testBit, getBits_testBit, setBits_getLsbD _ _ _ _ _ h h32]
  by_cases hi'' : i < hi' + 1 - lo'
  · have : ¬ (lo ≤ lo' + i ∧ lo' + i ≤ hi) := by omega
    simp [hi'', this]
  · simp [hi'']

theorem getBits_lt (w : BitVec 32) (hi lo : Nat) : getBits w hi lo < 2 ^ (hi + 1 - lo) :=
  Nat.mod_lt _ (Nat.two_pow_pos _)

/-! ### Registers and fields -/

@[simp] theorem State.rd_wr_self (s : State) (a : Nat) (v : BitVec 32) : (s.wr a v).rd a = v := by
  simp [State.rd]

theorem State.rd_wr_ne (s : State) {a b : Nat} (v : BitVec 32) (h : b ≠ a) : (s.wr a v).rd b = s.rd b := by
  simp [State.rd, Sparse.get_set_ne _ _ _ h]

theorem State.rd_wr (s : State) (a b : Nat) (v : BitVec 32) : (s.wr a v).rd b = if b = a then v else s.rd b := by
  by_cases h : b = a
  · subst h; simp
  · simp [h, State.rd_wr_ne s v h]

@[simp] theorem State.rd_put_self (s : State) (f : Fld) (v : Nat) :
    (s.put f v).rd f.addr = setBits (s.rd f.addr) f.hi f.lo v := by simp [State.put]

theorem State.rd_put_ne (s : State) (f : Fld) (v : Nat) {b : Nat} (h : b ≠ f.addr) : (s.put f v).rd b = s.rd b :=
  s.rd_wr_ne _ h

/-- A field is a place in a 32-bit word. -/
abbrev Fld.Ok (f : Fld) : Prop := f.lo ≤ f.hi ∧ f.hi < 32

/-- Two fields share no bit. -/
abbrev Fld.Apart (g f : Fld) : Prop := g.addr ≠ f.addr ∨ f.Ok ∧ (g.hi < f.lo ∨ f.hi < g.lo)

/-- The field written reads as the low bits of what was written. -/
theorem State.get_put_self (s : State) (f : Fld) (v : Nat) (h : f.Ok) :
    (s.put f v).get f = v % 2 ^ (f.hi + 1 - f.lo) := by
  simp [State.get, getBits_setBits _ _ _ _ h.1 h.2]

/-- Every field apart from the one written is unchanged. -/
theorem State.get_put_apart (s : State) (f g : Fld) (v : Nat) (h : g.Apart f) : (s.put f v).get g = s.get g := by
  rcases h with h | ⟨hf, ha⟩
  · simp [State.get, State.rd_put_ne s f v h]
  · by_cases hne : g.addr = f.addr
    · simp [State.get, hne, getBits_setBits_apart _ _ _ _ _ _ hf.1 hf.2 ha]
    · simp [State.get, State.rd_put_ne s f v hne]

theorem State.on_put_self (s : State) (f : Fld) (v : Nat) (h : f.Ok) (hb : f.hi = f.lo) :
    (s.put f v).on f = (v % 2 == 1) := by
  have : f.hi + 1 - f.lo = 1 := by omega
  simp [State.on, State.get_put_self s f v h, this]

theorem State.on_put_apart (s : State) (f g : Fld) (v : Nat) (h : g.Apart f) : (s.put f v).on g = s.on g := by
  simp [State.on, State.get_put_apart s f g v h]

/-- A field holds less than its width allows. -/
theorem State.get_lt (s : State) (f : Fld) : s.get f < 2 ^ (f.hi + 1 - f.lo) := getBits_lt _ _ _

theorem State.get_wr_ne (s : State) (a : Nat) (v : BitVec 32) (g : Fld) (h : g.addr ≠ a) : (s.wr a v).get g = s.get g := by
  simp [State.get, State.rd_wr_ne s v h]

theorem State.get_wr_self (s : State) (v : BitVec 32) (g : Fld) : (s.wr g.addr v).get g = getBits v g.hi g.lo := by
  simp [State.get]

/-! ### Counters and flags -/

theorem State.get_bumpBy_self (s : State) (f : Fld) (n : Nat) (h : f.Ok) :
    (s.bumpBy f n).get f = min (s.get f + n) (2 ^ (f.hi + 1 - f.lo) - 1) := by
  have hp : 0 < 2 ^ (f.hi + 1 - f.lo) := Nat.two_pow_pos _
  rw [State.bumpBy, State.get_put_self s f _ h, Nat.mod_eq_of_lt]
  omega

theorem State.get_bumpBy_apart (s : State) (f g : Fld) (n : Nat) (h : g.Apart f) : (s.bumpBy f n).get g = s.get g :=
  s.get_put_apart f g _ h

theorem State.get_bump_self (s : State) (f : Fld) (h : f.Ok) :
    (s.bump f).get f = min (s.get f + 1) (2 ^ (f.hi + 1 - f.lo) - 1) := s.get_bumpBy_self f 1 h

theorem State.get_bump_apart (s : State) (f g : Fld) (h : g.Apart f) : (s.bump f).get g = s.get g :=
  s.get_put_apart f g _ h

theorem State.rd_bump_ne (s : State) (f : Fld) {b : Nat} (h : b ≠ f.addr) : (s.bump f).rd b = s.rd b := s.rd_put_ne f _ h

theorem State.rd_bumpBy_ne (s : State) (f : Fld) (n : Nat) {b : Nat} (h : b ≠ f.addr) : (s.bumpBy f n).rd b = s.rd b :=
  s.rd_put_ne f _ h

/-- A flag's place: its bit lies in a word that is none of its counters'. -/
abbrev Flg.Ok (f : Flg) : Prop := f.bit < 32 ∧ f.addr ≠ f.counter.addr

theorem Flg.counter_ok (f : Flg) : f.counter.Ok := by
  unfold Flg.counter; split <;> simp [Fld.Ok]

theorem Flg.counter_width (f : Flg) : f.counter.hi + 1 - f.counter.lo = 16 := by
  unfold Flg.counter; split <;> rfl

/-- Raising a flag leaves it set. -/
theorem State.get_raise_self (s : State) (f : Flg) (h : f.Ok) : (s.raise f).get f.fld = 1 := by
  have ho : f.fld.Ok := ⟨Nat.le_refl _, h.1⟩
  rw [State.raise, State.get_bump_apart _ _ _ (.inl h.2), State.get_put_self _ _ _ ho]
  simp [Flg.fld]

/-- Raising a flag counts once, and the counter saturates at FFFFh. -/
theorem State.get_raise_counter (s : State) (f : Flg) (h : f.Ok) :
    (s.raise f).get f.counter = min (s.get f.counter + 1) 0xFFFF := by
  rw [State.raise, State.get_bump_self _ _ f.counter_ok, State.get_put_apart _ _ _ _ (.inl (Ne.symm h.2)), f.counter_width]
  try rfl

theorem State.get_raise_apart (s : State) (f : Flg) (g : Fld) (h1 : g.Apart f.fld) (h2 : g.Apart f.counter) :
    (s.raise f).get g = s.get g := by
  rw [State.raise, State.get_bump_apart _ _ _ h2, State.get_put_apart _ _ _ _ h1]

theorem State.rd_raise_ne (s : State) (f : Flg) {b : Nat} (h1 : b ≠ f.addr) (h2 : b ≠ f.counter.addr) :
    (s.raise f).rd b = s.rd b := by
  rw [State.raise, State.rd_bump_ne _ _ h2, State.rd_put_ne _ _ _ h1]

/-! ### Result blocks -/

theorem State.get_complete_done (s : State) (a n : Nat) : (s.complete a n).get ⟨a, 31, 31⟩ = 1 := by
  show getBits ((s.complete a n).rd a) 31 31 = 1
  rw [State.complete, State.rd_wr_self, getBits_setBits_apart _ _ _ _ _ _ (by decide) (by decide) (by decide),
    getBits_setBits_apart _ _ _ _ _ _ (by decide) (by decide) (by decide), getBits_setBits _ _ _ _ (by decide) (by decide)]
  try rfl

theorem State.get_complete_status (s : State) (a n : Nat) : (s.complete a n).get ⟨a, 30, 16⟩ = n % 32768 := by
  show getBits ((s.complete a n).rd a) 30 16 = _
  rw [State.complete, State.rd_wr_self, getBits_setBits_apart _ _ _ _ _ _ (by decide) (by decide) (by decide),
    getBits_setBits _ _ _ _ (by decide) (by decide)]
  try rfl

theorem State.get_complete_seq (s : State) (a n : Nat) : (s.complete a n).get ⟨a, 15, 0⟩ = nextSeq (s.get ⟨a, 15, 0⟩) := by
  show getBits ((s.complete a n).rd a) 15 0 = _
  rw [State.complete, State.rd_wr_self, getBits_setBits _ _ _ _ (by decide) (by decide), Nat.mod_eq_of_lt]
  have h := s.get_lt ⟨a, 15, 0⟩
  have h' : s.get ⟨a, 15, 0⟩ < 65536 := h
  unfold nextSeq
  split <;> omega

theorem State.rd_complete_ne (s : State) (a n : Nat) {b : Nat} (h : b ≠ a) : (s.complete a n).rd b = s.rd b := s.rd_wr_ne _ h

theorem State.get_complete_ne (s : State) (a n : Nat) (g : Fld) (h : g.addr ≠ a) : (s.complete a n).get g = s.get g :=
  s.get_wr_ne a _ g h

theorem State.rd_accept_ne (s : State) (a : Nat) {b : Nat} (h : b ≠ a) : (s.accept a).rd b = s.rd b := s.rd_put_ne _ _ h

theorem State.get_accept_done (s : State) (a : Nat) : (s.accept a).get ⟨a, 31, 31⟩ = 0 := by
  rw [State.accept, State.get_put_self _ _ _ ⟨Nat.le_refl _, by simp⟩]; rfl

theorem State.get_accept_apart (s : State) (a : Nat) (g : Fld) (h : g.Apart ⟨a, 31, 31⟩) : (s.accept a).get g = s.get g :=
  s.get_put_apart _ _ _ h

/-! ### Register writes of the host -/

/-- A register that answers takes the write. -/
theorem State.rowWrite_answers (s : State) (a : Nat) (f : State → Result) (hq : (s.clusterOfAddr a).any s.quiesced = false)
    (hl : s.regLive a = true) : s.rowWrite a f = f s := by simp [State.rowWrite, hq, hl]

theorem State.hostWrite_answers (s : State) (a : Nat) (f : State → State) (hq : (s.clusterOfAddr a).any s.quiesced = false)
    (hl : s.regLive a = true) : s.hostWrite a f = f s := by simp [State.hostWrite, hq, hl]

/-- A register that does not answer loses the write, counted where its cluster is quiesced. -/
theorem State.hostWrite_silent (s : State) (a : Nat) (f : State → State) (hq : (s.clusterOfAddr a).any s.quiesced = false)
    (hl : s.regLive a = false) : s.hostWrite a f = s := by simp [State.hostWrite, hq, hl]

/-- A command offered while DONE is 1 is taken (R14). -/
theorem State.offer_free (s : State) (a : Nat) (o : Flg) (f : State → State) (hq : (s.clusterOfAddr a).any s.quiesced = false)
    (hl : s.regLive a = true) (hd : s.done a = true) : s.offer a o f = f s := by
  simp [State.offer, State.hostWrite_answers s a _ hq hl, hd]

/-- A command offered while DONE is 0 raises the unit's overrun flag and does nothing else (R17). -/
theorem State.offer_busy (s : State) (a : Nat) (o : Flg) (f : State → State) (hq : (s.clusterOfAddr a).any s.quiesced = false)
    (hl : s.regLive a = true) (hd : s.done a = false) : s.offer a o f = s.raise o := by
  simp [State.offer, State.hostWrite_answers s a _ hq hl, hd]

end Sys2Proof.Machine
end

