-- ==== Sys2Proof/Laws/Kept.lean ====
section
/-!
SUPPORT. The relation that every operation keeps between an earlier state and the present one: the queue is the same, the
canonical forms hold if they held, and no fuse reads unblown again. One lemma per shared update.
-/
namespace Sys2Proof.Machine
open Sys2Proof Safety

theorem fuses_refl (f : Fuses) : FusesGrow f f := ⟨BitVec.and_self, BitVec.and_self, BitVec.and_self, BitVec.and_self⟩

theorem and_chain {w : Nat} {a b c : BitVec w} (h1 : a &&& b = a) (h2 : b &&& c = b) : a &&& c = a := by
  rw [← h1, BitVec.and_assoc, h2]

theorem and_or_self {w : Nat} (a b : BitVec w) : a &&& (a ||| b) = a := by
  ext i; simp; intros; simp_all

theorem fuses_blow {a b : Fuses} (h1 : a.lifecycle &&& b.lifecycle = a.lifecycle) (h2 : a.svn &&& b.svn = a.svn)
    (h3 : a.ownerProg &&& b.ownerProg = a.ownerProg) (h4 : a.ownerRevoked &&& b.ownerRevoked = a.ownerRevoked) : FusesGrow a b :=
  ⟨h1, h2, h3, h4⟩

theorem thermo_bound {w : Nat} (b : BitVec w) : b.toNat < 2 ^ thermo b := by
  unfold thermo
  by_cases h : b.toNat = 0
  · simp [h]
  · simpa [h] using Nat.lt_log2_self

/-- The completion of a thermometer at boot blows bits and unblows none (13_strongroom.md R368). -/
theorem thermoFill_grow {w : Nat} (b k : BitVec w) : b &&& (thermoFill b k).1 = b := by
  apply BitVec.eq_of_getLsbD_eq
  intro i hi
  simp only [BitVec.getLsbD_and, thermoFill, BitVec.getLsbD_ofNat, hi, decide_true, Bool.true_and]
  by_cases hn : i < thermo b
  · simp [Nat.testBit_two_pow_sub_one, hn]
  · have : b.getLsbD i = false := by
      rw [BitVec.getLsbD]
      exact Nat.testBit_lt_two_pow (Nat.lt_of_lt_of_le (thermo_bound b) (Nat.pow_le_pow_right (by decide) (by omega)))
    simp [this]

theorem fuses_trans {a b c : Fuses} (h1 : FusesGrow a b) (h2 : FusesGrow b c) : FusesGrow a c :=
  ⟨and_chain h1.1 h2.1, and_chain h1.2 h2.2, and_chain h1.3 h2.3, and_chain h1.4 h2.4⟩

theorem kept_refl (z : State) : Kept z z := ⟨rfl, id, fuses_refl _⟩

theorem kept_trans {a b c : State} (h1 : Kept a b) (h2 : Kept b c) : Kept a c :=
  ⟨h2.pending.trans h1.pending, fun h => h2.inv (h1.inv h), fuses_trans h1.fuses h2.fuses⟩

/-- An update of nothing that `Kept` speaks of, and an update of the maps that keeps their form. -/
theorem kept_of {z s t : State} (h : Kept z s) (hp : t.pending = s.pending) (hi : Inv s → Inv t)
    (hf : FusesGrow s.strong.fuses t.strong.fuses) : Kept z t := kept_trans h ⟨hp, hi, hf⟩

variable {z s : State}

/-- An update of nothing that `Kept` speaks of. -/
theorem kept_same {t : State} (h : Kept z s) (h1 : t.pending = s.pending) (h2 : t.regs = s.regs)
    (h3 : t.mem.bytes = s.mem.bytes) (h4 : t.flash = s.flash) (h5 : t.sram = s.sram) (h6 : t.ports = s.ports)
    (h7 : t.streams = s.streams) (h8 : t.folios = s.folios) (h9 : t.trace = s.trace)
    (h10 : t.strong.fuses = s.strong.fuses) : Kept z t :=
  kept_of h h1 (fun i => ⟨by rw [h2]; exact i.regs, by rw [h3]; exact i.mem, by rw [h4]; exact i.flash, by rw [h5]; exact i.sram,
    by rw [h6]; exact i.ports, by rw [h7]; exact i.streams, by rw [h8]; exact i.folios, by rw [h9]; exact i.trace⟩)
    (by rw [h10]; exact fuses_refl _)

theorem kept_ite {c : Prop} [Decidable c] {a b : State} (ha : c → Kept z a) (hb : ¬c → Kept z b) : Kept z (if c then a else b) := by
  split
  · exact ha ‹_›
  · exact hb ‹_›

theorem kept_wr (h : Kept z s) (a : Nat) (v : BitVec 32) : Kept z (s.wr a v) :=
  kept_of h rfl (fun i => { i with regs := Sparse.wf_set _ _ _ _ i.regs }) (fuses_refl _)

theorem kept_put (h : Kept z s) (f : Fld) (v : Nat) : Kept z (s.put f v) := kept_wr h _ _
theorem kept_putInt (h : Kept z s) (f : Fld) (v : Int) : Kept z (s.putInt f v) := kept_wr h _ _
theorem kept_bumpBy (h : Kept z s) (f : Fld) (n : Nat) : Kept z (s.bumpBy f n) := kept_wr h _ _
theorem kept_bump (h : Kept z s) (f : Fld) : Kept z (s.bump f) := kept_wr h _ _
theorem kept_raise (h : Kept z s) (f : Flg) : Kept z (s.raise f) := kept_bump (kept_put h _ _) _
theorem kept_accept (h : Kept z s) (a : Nat) : Kept z (s.accept a) := kept_wr h _ _
theorem kept_complete (h : Kept z s) (a n : Nat) : Kept z (s.complete a n) := kept_wr h _ _
theorem kept_emit (h : Kept z s) (o : Output) : Kept z (s.emit o) :=
  kept_of h rfl (fun i => { i with }) (fuses_refl _)
theorem kept_drawn (h : Kept z s) : Kept z s.drawn := kept_of h rfl (fun i => { i with }) (fuses_refl _)
theorem kept_setFlash (h : Kept z s) (a : Nat) (b : Byte) : Kept z (s.setFlash a b) :=
  kept_of h rfl (fun i => { i with flash := Sparse.wf_set _ _ _ _ i.flash }) (fuses_refl _)
theorem kept_addLoad (h : Kept z s) (k v : Nat) : Kept z (s.addLoad k v) :=
  kept_of h rfl (fun i => { i with }) (fuses_refl _)
theorem kept_setFault (h : Kept z s) (k : Nat) (v : Bool) : Kept z (s.setFault k v) :=
  kept_of h rfl (fun i => { i with }) (fuses_refl _)
theorem kept_setPort (h : Kept z s) (n : Nat) (p : PortState) : Kept z (s.setPort n p) :=
  kept_of h rfl (fun i => { i with ports := Sparse.wf_set _ _ _ _ i.ports }) (fuses_refl _)
theorem kept_modPort (h : Kept z s) (n : Nat) (f : PortState → PortState) : Kept z (s.modPort n f) := kept_setPort h _ _
theorem kept_modFolio (h : Kept z s) (n : Nat) (f : FolioState → FolioState) : Kept z (s.modFolio n f) :=
  kept_of h rfl (fun i => { i with folios := Sparse.wf_set _ _ _ _ i.folios }) (fuses_refl _)
theorem kept_setStream (h : Kept z s) (n : Nat) (x : StreamState) : Kept z (s.setStream n x) :=
  kept_of h rfl (fun i => { i with streams := Sparse.wf_set _ _ _ _ i.streams }) (fuses_refl _)
theorem kept_modStream (h : Kept z s) (n : Nat) (f : StreamState → StreamState) : Kept z (s.modStream n f) := kept_setStream h _ _
theorem kept_modMot (h : Kept z s) (n : Nat) (f : MotState → MotState) : Kept z (s.modMot n f) :=
  kept_of h rfl (fun i => { i with }) (fuses_refl _)
theorem kept_setSynOut (h : Kept z s) (n o : Nat) (x : SynOut) : Kept z (s.setSynOut n o x) :=
  kept_of h rfl (fun i => { i with }) (fuses_refl _)
theorem kept_modRuling (h : Kept z s) (f : RulingState → RulingState) : Kept z (s.modRuling f) :=
  kept_of h rfl (fun i => { i with }) (fuses_refl _)
theorem kept_modAttic (h : Kept z s) (f : AtticState → AtticState) : Kept z (s.modAttic f) :=
  kept_of h rfl (fun i => { i with }) (fuses_refl _)
theorem kept_modBlot (h : Kept z s) (f : BlotState → BlotState) : Kept z (s.modBlot f) :=
  kept_of h rfl (fun i => { i with }) (fuses_refl _)
theorem kept_modFabric (h : Kept z s) (f : FabricState → FabricState) : Kept z (s.modFabric f) :=
  kept_of h rfl (fun i => { i with }) (fuses_refl _)
theorem kept_modAudio (h : Kept z s) (f : AudioState → AudioState) : Kept z (s.modAudio f) :=
  kept_of h rfl (fun i => { i with }) (fuses_refl _)
theorem kept_modCellar (h : Kept z s) (f : CellarState → CellarState) : Kept z (s.modCellar f) :=
  kept_of h rfl (fun i => { i with }) (fuses_refl _)
theorem kept_modPower (h : Kept z s) (f : PowerState → PowerState) : Kept z (s.modPower f) :=
  kept_of h rfl (fun i => { i with }) (fuses_refl _)
theorem kept_modBoot (h : Kept z s) (f : BootState → BootState) : Kept z (s.modBoot f) :=
  kept_of h rfl (fun i => { i with }) (fuses_refl _)
theorem kept_modHost (h : Kept z s) (f : HostState → HostState) : Kept z (s.modHost f) :=
  kept_of h rfl (fun i => { i with }) (fuses_refl _)
theorem kept_modSysif (h : Kept z s) (f : SysifState → SysifState) : Kept z (s.modSysif f) :=
  kept_of h rfl (fun i => { i with }) (fuses_refl _)
theorem kept_modGpio (h : Kept z s) (f : GpioState → GpioState) : Kept z (s.modGpio f) :=
  kept_of h rfl (fun i => { i with }) (fuses_refl _)
theorem kept_setWaiting (h : Kept z s) (l : List (Nat × Codestream)) : Kept z (s.setWaiting l) :=
  kept_of h rfl (fun i => { i with }) (fuses_refl _)
theorem traceKept_length (l : List TraceEntry) : (traceKept l).length ≤ 4096 := by
  unfold traceKept
  rw [List.length_drop]
  omega
theorem kept_pushTrace (h : Kept z s) (t : TraceEntry) : Kept z (s.pushTrace t) := by
  unfold State.pushTrace
  exact kept_of h rfl (fun i => { i with trace := traceKept_length _ }) (fuses_refl _)
theorem kept_clearTrace (h : Kept z s) : Kept z s.clearTrace :=
  kept_of h rfl (fun i => { i with trace := by simp [State.clearTrace] }) (fuses_refl _)
theorem kept_setSram (h : Kept z s) (a : Nat) (b : Byte) : Kept z (s.setSram a b) :=
  kept_of h rfl (fun i => { i with sram := Sparse.wf_set _ _ _ _ i.sram }) (fuses_refl _)
theorem kept_clearSram (h : Kept z s) : Kept z s.clearSram :=
  kept_of h rfl (fun i => { i with sram := rfl }) (fuses_refl _)
theorem kept_clearLoads (h : Kept z s) : Kept z s.clearLoads :=
  kept_of h rfl (fun i => { i with }) (fuses_refl _)
theorem kept_modStrong (h : Kept z s) (f : StrongState → StrongState) (hf : FusesGrow s.strong.fuses (f s.strong).fuses) :
    Kept z (s.modStrong f) := kept_of h rfl (fun i => { i with }) hf
theorem kept_modMem (h : Kept z s) (f : MemState → MemState)
    (hf : Memory.wf s.mem.bytes = true → Memory.wf (f s.mem).bytes = true) : Kept z (s.modMem f) :=
  kept_of h rfl (fun i => { i with mem := hf i.mem }) (fuses_refl _)

theorem kept_each {α : Type} {f : State → α → State} (h : Kept z s) (l : List α)
    (hf : ∀ t x, Kept z t → Kept z (f t x)) : Kept z (s.each l f) := by
  induction l generalizing s with
  | nil => exact h
  | cons x l ih => exact ih (hf _ _ h)

theorem kept_when {f : State → State} (h : Kept z s) (b : Bool) (hf : ∀ t, Kept z t → Kept z (f t)) : Kept z (s.when b f) := by
  unfold State.when
  split
  · exact hf _ h
  · exact h

theorem kept_foldl {α : Type} {f : State → α → State} (h : Kept z s) (l : List α)
    (hf : ∀ t x, Kept z t → Kept z (f t x)) : Kept z (l.foldl f s) := kept_each h l hf

/-- A fold that carries something beside the state. -/
theorem kept_foldl_snd {α β : Type} {f : β × State → α → β × State} (l : List α) (b : β) (h : Kept z s)
    (hf : ∀ p x, Kept z p.2 → Kept z (f p x).2) : Kept z (l.foldl f (b, s)).2 := by
  suffices ∀ p : β × State, Kept z p.2 → Kept z (l.foldl f p).2 from this (b, s) h
  induction l with
  | nil => intro p hp; exact hp
  | cons x l ih => intro p hp; exact ih _ (hf p x hp)

theorem kept_foldl_fst {α β : Type} {f : State × β → α → State × β} (l : List α) (b : β) (h : Kept z s)
    (hf : ∀ p x, Kept z p.1 → Kept z (f p x).1) : Kept z (l.foldl f (s, b)).1 := by
  suffices ∀ p : State × β, Kept z p.1 → Kept z (l.foldl f p).1 from this (s, b) h
  induction l with
  | nil => intro p hp; exact hp
  | cons x l ih => intro p hp; exact ih _ (hf p x hp)

theorem kept_foldl_snd2 {α β γ : Type} {f : β × γ × State → α → β × γ × State} (l : List α) (b : β) (c : γ) (h : Kept z s)
    (hf : ∀ p x, Kept z p.2.2 → Kept z (f p x).2.2) : Kept z (l.foldl f (b, c, s)).2.2 := by
  suffices ∀ p : β × γ × State, Kept z p.2.2 → Kept z (l.foldl f p).2.2 from this (b, c, s) h
  induction l with
  | nil => intro p hp; exact hp
  | cons x l ih => intro p hp; exact ih _ (hf p x hp)

/-- The state a pair, a triple or a quadruple ends in. -/
theorem kept_snd {α : Type} {p : α × State} {a : α} {t : State} (e : p = (a, t)) (h : Kept z p.2) : Kept z t := by
  subst e; exact h
theorem kept_snd2 {α β : Type} {p : α × β × State} {a : α} {b : β} {t : State} (e : p = (a, b, t)) (h : Kept z p.2.2) :
    Kept z t := by subst e; exact h
theorem kept_snd3 {α β γ : Type} {p : α × β × γ × State} {a : α} {b : β} {c : γ} {t : State} (e : p = (a, b, c, t))
    (h : Kept z p.2.2.2) : Kept z t := by subst e; exact h

/-- The same of an answer that may be none. -/
def KeptO {α : Type} (z : State) (r : Option (α × State)) : Prop := ∀ p, r = some p → Kept z p.2

theorem keptO_none {α : Type} : KeptO z (none : Option (α × State)) := fun _ h => nomatch h
theorem keptO_some {α : Type} {a : α} {t : State} (h : Kept z t) : KeptO z (some (a, t)) := by
  intro p hp; injection hp with hp; subst hp; exact h
theorem keptO_ite {α : Type} {c : Prop} [Decidable c] {a b : Option (α × State)} (ha : c → KeptO z a) (hb : ¬c → KeptO z b) :
    KeptO z (if c then a else b) := by
  split
  · exact ha ‹_›
  · exact hb ‹_›
theorem kept_some {α : Type} {r : Option (α × State)} {a : α} {t : State} (e : r = some (a, t)) (h : KeptO z r) : Kept z t :=
  h _ e

/-! ### Results -/

theorem keptR_next {t : State} (h : Kept z t) : KeptR z (.next t) := by
  intro u hu
  injection hu with hu
  exact hu ▸ h

theorem kept_ofR {r : Result} {t : State} (e : r = .next t) (h : KeptR z r) : Kept z t := h _ e

theorem keptR_ite {c : Prop} [Decidable c] {a b : Result} (ha : c → KeptR z a) (hb : ¬c → KeptR z b) :
    KeptR z (if c then a else b) := by
  split
  · exact ha ‹_›
  · exact hb ‹_›

theorem kept_hostWrite {f : State → State} (h : Kept z s) (a : Nat) (hf : ∀ t, Kept z t → Kept z (f t)) :
    Kept z (s.hostWrite a f) := by
  unfold State.hostWrite
  split
  · exact kept_bump h _
  · split
    · exact hf _ h
    · exact h

theorem keptR_rowWrite {f : State → Result} (h : Kept z s) (a : Nat) (hf : ∀ t, Kept z t → KeptR z (f t)) :
    KeptR z (s.rowWrite a f) := by
  unfold State.rowWrite
  split
  · exact keptR_next (kept_bump h _)
  · split
    · exact hf _ h
    · exact keptR_next h

theorem kept_offer {f : State → State} (h : Kept z s) (a : Nat) (o : Flg) (hf : ∀ t, Kept z t → Kept z (f t)) :
    Kept z (s.offer a o f) := by
  unfold State.offer
  refine kept_hostWrite h a fun t ht => ?_
  split
  · exact hf _ ht
  · exact kept_raise ht _

end Sys2Proof.Machine
end

