-- ==== Sys2Proof/Laws/KeptOps.lean ====
section
/-!
SUPPORT. The operations of Machine/Ops.lean keep the relation of Laws/Kept.lean.
-/
namespace Sys2Proof.Machine
open Sys2Proof Safety

theorem kept_putBytes {z s : State} (h : Kept z s) (a : Nat) (l : List Byte) : Kept z (s.putBytes a l) := by
  revert h
  fun_induction State.putBytes s a l <;> intro h
  · rename_i ih; exact ih (kept_wr h _ _)
  all_goals first | exact kept_wr h _ _ | exact h

end Sys2Proof.Machine
end

