-- ==== Sys2Proof/Laws/KeptFlags.lean ====
section
/-!
SUPPORT. The operations of Machine/Flags.lean keep the relation of Laws/Kept.lean.
-/
namespace Sys2Proof.Machine
open Sys2Proof Safety

theorem kept_raiseIf {z s : State} (h : Kept z s) (b : Bool) (f : Flg) :
    Kept z (State.raiseIf s b f) := by
  unfold State.raiseIf
  repeat' first | with_reducible first | assumption | apply kept_raise | apply kept_foldl | apply kept_foldl_snd | apply kept_foldl_fst | apply kept_foldl_snd2 | apply kept_ite | intro _ | extract_lets | with_reducible refine kept_some (by assumption) ?_ | dsimp -zeta only | split | dsimp -zeta +zetaDelta only

theorem kept_burstRescue {z s : State} (h : Kept z s) :
    Kept z (State.burstRescue s) := by
  unfold State.burstRescue
  repeat' first | with_reducible first | assumption | apply kept_raise | apply kept_bump | apply kept_foldl | apply kept_foldl_snd | apply kept_foldl_fst | apply kept_foldl_snd2 | apply kept_ite | intro _ | extract_lets | with_reducible refine kept_some (by assumption) ?_ | dsimp -zeta only | split | dsimp -zeta +zetaDelta only

theorem kept_raiseN {z s : State} (h : Kept z s) (f : Flg) (n : Nat) :
    Kept z (State.raiseN s f n) := by
  unfold State.raiseN
  repeat' first | with_reducible first | assumption | apply kept_bumpBy | apply kept_put | apply kept_foldl | apply kept_foldl_snd | apply kept_foldl_fst | apply kept_foldl_snd2 | apply kept_ite | intro _ | extract_lets | with_reducible refine kept_some (by assumption) ?_ | dsimp -zeta only | split | dsimp -zeta +zetaDelta only

end Sys2Proof.Machine
end

