-- ==== Sys2Proof/Laws/KeptAtticOps.lean ====
section
/-!
SUPPORT. The operations of Machine/AtticOps.lean keep the relation of Laws/Kept.lean.
-/
namespace Sys2Proof.Machine
open Sys2Proof Safety

theorem kept_dropRecord {z s : State} (h : Kept z s) (code : Nat) (sev : Nat) :
    Kept z (State.dropRecord s code sev) := by
  unfold State.dropRecord
  repeat' first | with_reducible first | assumption | apply kept_raise | apply kept_bump | apply kept_foldl | apply kept_foldl_snd | apply kept_foldl_fst | apply kept_foldl_snd2 | apply kept_ite | intro _ | extract_lets | with_reducible refine kept_some (by assumption) ?_ | dsimp -zeta only | split | dsimp -zeta +zetaDelta only

theorem kept_showBanks {z s : State} (h : Kept z s) :
    Kept z (State.showBanks s) := by
  unfold State.showBanks
  repeat' first | with_reducible first | assumption | apply kept_put | apply kept_foldl | apply kept_foldl_snd | apply kept_foldl_fst | apply kept_foldl_snd2 | apply kept_ite | intro _ | extract_lets | with_reducible refine kept_some (by assumption) ?_ | dsimp -zeta only | split | dsimp -zeta +zetaDelta only

theorem kept_startBank {z s : State} (h : Kept z s) (bank : Nat) :
    Kept z (State.startBank s bank) := by
  unfold State.startBank
  repeat' first | with_reducible first | assumption | apply kept_showBanks | apply kept_modAttic | apply kept_foldl | apply kept_foldl_snd | apply kept_foldl_fst | apply kept_foldl_snd2 | apply kept_ite | intro _ | extract_lets | with_reducible refine kept_some (by assumption) ?_ | dsimp -zeta only | split | dsimp -zeta +zetaDelta only

theorem kept_atticIssue {z s : State} (h : Kept z s) (w : AtticWrite) :
    Kept z (State.atticIssue s w) := by
  unfold State.atticIssue
  repeat' first | with_reducible first | assumption | apply kept_startBank | apply kept_modAttic | apply kept_foldl | apply kept_foldl_snd | apply kept_foldl_fst | apply kept_foldl_snd2 | apply kept_ite | intro _ | extract_lets | with_reducible refine kept_some (by assumption) ?_ | dsimp -zeta only | split | dsimp -zeta +zetaDelta only

theorem kept_counterWrite {z s : State} (h : Kept z s) (d : DevCounter) (src : AtticSrc) (v : Nat) :
    Kept z (State.counterWrite s d src v) := by
  unfold State.counterWrite
  repeat' first | with_reducible first | assumption | apply kept_atticIssue | apply kept_foldl | apply kept_foldl_snd | apply kept_foldl_fst | apply kept_foldl_snd2 | apply kept_ite | intro _ | extract_lets | with_reducible refine kept_some (by assumption) ?_ | dsimp -zeta only | split | dsimp -zeta +zetaDelta only

theorem kept_showBlot {z s : State} (h : Kept z s) :
    Kept z (State.showBlot s) := by
  unfold State.showBlot
  repeat' first | with_reducible first | assumption | apply kept_put | apply kept_foldl | apply kept_foldl_snd | apply kept_foldl_fst | apply kept_foldl_snd2 | apply kept_ite | intro _ | extract_lets | with_reducible refine kept_some (by assumption) ?_ | dsimp -zeta only | split | dsimp -zeta +zetaDelta only

theorem kept_closeRecord {z s : State} (h : Kept z s) (seq : Nat) :
    Kept z (State.closeRecord s seq) := by
  unfold State.closeRecord
  repeat' first | with_reducible first | assumption | apply kept_modBlot | apply kept_raise | apply kept_bump | apply kept_showBlot | apply kept_foldl | apply kept_foldl_snd | apply kept_foldl_fst | apply kept_foldl_snd2 | apply kept_ite | intro _ | extract_lets | with_reducible refine kept_some (by assumption) ?_ | dsimp -zeta only | split | dsimp -zeta +zetaDelta only

theorem kept_acceptRecord {z s : State} (h : Kept z s) (r : BlotRecord) (fold : Bool) :
    Kept z (State.acceptRecord s r fold) := by
  unfold State.acceptRecord
  repeat' first | with_reducible first | assumption | apply kept_counterWrite | apply kept_modAttic | apply kept_modBlot | apply kept_raiseIf | apply kept_put | apply kept_showBlot | apply kept_closeRecord | apply kept_foldl | apply kept_foldl_snd | apply kept_foldl_fst | apply kept_foldl_snd2 | apply kept_ite | intro _ | extract_lets | with_reducible refine kept_some (by assumption) ?_ | dsimp -zeta only | split | dsimp -zeta +zetaDelta only

theorem kept_blotter {z s : State} (h : Kept z s) (code : Nat) (inst : Nat) (data : List Byte) (vbat : optParam Bool Bool.false) (fromFault : optParam Bool Bool.false) :
    Kept z (State.blotter s code inst data vbat fromFault) := by
  unfold State.blotter
  repeat' first | with_reducible first | assumption | apply kept_modBlot | apply kept_dropRecord | apply kept_acceptRecord | apply kept_foldl | apply kept_foldl_snd | apply kept_foldl_fst | apply kept_foldl_snd2 | apply kept_ite | intro _ | extract_lets | with_reducible refine kept_some (by assumption) ?_ | dsimp -zeta only | split | dsimp -zeta +zetaDelta only

theorem kept_setAttic {z s : State} (h : Kept z s) (a : Nat) (b : AtticByte) :
    Kept z (State.setAttic s a b) := by
  unfold State.setAttic
  repeat' first | with_reducible first | assumption | apply kept_modAttic | apply kept_foldl | apply kept_foldl_snd | apply kept_foldl_fst | apply kept_foldl_snd2 | apply kept_ite | intro _ | extract_lets | with_reducible refine kept_some (by assumption) ?_ | dsimp -zeta only | split | dsimp -zeta +zetaDelta only

theorem kept_issueGroup {z s : State} (h : Kept z s) (src : AtticSrc) (steps : List (Nat × List (Nat × Byte) × Bool)) :
    Kept z (State.issueGroup s src steps) := by
  unfold State.issueGroup
  repeat' first | with_reducible first | assumption | apply kept_atticIssue | apply kept_foldl | apply kept_foldl_snd | apply kept_foldl_fst | apply kept_foldl_snd2 | apply kept_ite | intro _ | extract_lets | with_reducible refine kept_some (by assumption) ?_ | dsimp -zeta only | split | dsimp -zeta +zetaDelta only

end Sys2Proof.Machine
end

