-- ==== Sys2Proof/Laws/KeptAttic.lean ====
section
/-!
SUPPORT. The operations of Machine/Attic.lean keep the relation of Laws/Kept.lean.
-/
namespace Sys2Proof.Machine
open Sys2Proof Safety

theorem kept_atticOffer {z s : State} (h : Kept z s) {f : State → State} (hf : ∀ t, Kept z t → Kept z (f t)) :
    Kept z (State.atticOffer s f) := by
  unfold State.atticOffer
  repeat' first | with_reducible first | assumption | apply hf | apply kept_offer | apply kept_accept | apply kept_foldl | apply kept_foldl_snd | apply kept_foldl_fst | apply kept_foldl_snd2 | apply kept_ite | intro _ | extract_lets | with_reducible refine kept_some (by assumption) ?_ | dsimp -zeta only | split | dsimp -zeta +zetaDelta only

theorem kept_atticComplete {z s : State} (h : Kept z s) (status : Nat) :
    Kept z (State.atticComplete s status) := by
  unfold State.atticComplete
  repeat' first | with_reducible first | assumption | apply kept_raise | apply kept_complete | apply kept_foldl | apply kept_foldl_snd | apply kept_foldl_fst | apply kept_foldl_snd2 | apply kept_ite | intro _ | extract_lets | with_reducible refine kept_some (by assumption) ?_ | dsimp -zeta only | split | dsimp -zeta +zetaDelta only

theorem kept_showByteStat {z s : State} (h : Kept z s) (p : Nat) (margin : Bool) :
    Kept z (State.showByteStat s p margin) := by
  unfold State.showByteStat
  repeat' first | with_reducible first | assumption | apply kept_each | apply kept_wr | apply kept_foldl | apply kept_foldl_snd | apply kept_foldl_fst | apply kept_foldl_snd2 | apply kept_ite | intro _ | extract_lets | with_reducible refine kept_some (by assumption) ?_ | dsimp -zeta only | split | dsimp -zeta +zetaDelta only

theorem kept_clearMask {z s : State} (h : Kept z s) :
    Kept z (State.clearMask s) := by
  unfold State.clearMask
  repeat' first | with_reducible first | assumption | apply kept_wr | apply kept_foldl | apply kept_foldl_snd | apply kept_foldl_fst | apply kept_foldl_snd2 | apply kept_ite | intro _ | extract_lets | with_reducible refine kept_some (by assumption) ?_ | dsimp -zeta only | split | dsimp -zeta +zetaDelta only

theorem keptR_execAtticRead {z s : State} (h : Kept z s) (page : BitVec 14) :
    KeptR z (execAtticRead page s) := by
  unfold execAtticRead
  repeat' first | with_reducible first | assumption | apply keptR_next | apply kept_atticOffer | apply kept_atticComplete | apply kept_showByteStat | apply kept_clearMask | apply kept_putBytes | apply kept_foldl | apply kept_foldl_snd | apply kept_foldl_fst | apply kept_foldl_snd2 | apply kept_ite | apply keptR_ite | intro _ | extract_lets | with_reducible refine kept_some (by assumption) ?_ | dsimp -zeta only | split | dsimp -zeta +zetaDelta only

theorem kept_hostWritePage {z s : State} (h : Kept z s) (p : Nat) (commit : Bool) :
    Kept z (State.hostWritePage s p commit) := by
  unfold State.hostWritePage
  repeat' first | with_reducible first | assumption | apply kept_atticOffer | apply kept_clearMask | apply kept_atticComplete | apply kept_atticIssue | apply kept_foldl | apply kept_foldl_snd | apply kept_foldl_fst | apply kept_foldl_snd2 | apply kept_ite | intro _ | extract_lets | with_reducible refine kept_some (by assumption) ?_ | dsimp -zeta only | split | dsimp -zeta +zetaDelta only

theorem keptR_execAtticWrite {z s : State} (h : Kept z s) (page : BitVec 14) :
    KeptR z (execAtticWrite page s) := by
  unfold execAtticWrite
  repeat' first | with_reducible first | assumption | apply keptR_next | apply kept_hostWritePage | apply kept_foldl | apply kept_foldl_snd | apply kept_foldl_fst | apply kept_foldl_snd2 | apply kept_ite | apply keptR_ite | intro _ | extract_lets | with_reducible refine kept_some (by assumption) ?_ | dsimp -zeta only | split | dsimp -zeta +zetaDelta only

theorem keptR_execAtticWriteSealed {z s : State} (h : Kept z s) (page : BitVec 14) :
    KeptR z (execAtticWriteSealed page s) := by
  unfold execAtticWriteSealed
  repeat' first | with_reducible first | assumption | apply keptR_next | apply kept_hostWritePage | apply kept_foldl | apply kept_foldl_snd | apply kept_foldl_fst | apply kept_foldl_snd2 | apply kept_ite | apply keptR_ite | intro _ | extract_lets | with_reducible refine kept_some (by assumption) ?_ | dsimp -zeta only | split | dsimp -zeta +zetaDelta only

theorem keptR_execAtticMarginRead {z s : State} (h : Kept z s) (page : BitVec 14) :
    KeptR z (execAtticMarginRead page s) := by
  unfold execAtticMarginRead
  repeat' first | with_reducible first | assumption | apply keptR_next | apply kept_atticOffer | apply kept_atticComplete | apply kept_showByteStat | apply kept_foldl | apply kept_foldl_snd | apply kept_foldl_fst | apply kept_foldl_snd2 | apply kept_ite | apply keptR_ite | intro _ | extract_lets | with_reducible refine kept_some (by assumption) ?_ | dsimp -zeta only | split | dsimp -zeta +zetaDelta only

theorem keptR_execAtticBufClear {z s : State} (h : Kept z s) :
    KeptR z (execAtticBufClear s) := by
  unfold execAtticBufClear
  repeat' first | with_reducible first | assumption | apply keptR_next | apply kept_atticOffer | apply kept_atticComplete | apply kept_clearMask | apply kept_foldl | apply kept_foldl_snd | apply kept_foldl_fst | apply kept_foldl_snd2 | apply kept_ite | apply keptR_ite | intro _ | extract_lets | with_reducible refine kept_some (by assumption) ?_ | dsimp -zeta only | split | dsimp -zeta +zetaDelta only

theorem keptR_execAtticBadCommand {z s : State} (h : Kept z s) :
    KeptR z (execAtticBadCommand s) := by
  unfold execAtticBadCommand
  repeat' first | with_reducible first | assumption | apply keptR_next | apply kept_atticOffer | apply kept_atticComplete | apply kept_foldl | apply kept_foldl_snd | apply kept_foldl_fst | apply kept_foldl_snd2 | apply kept_ite | apply keptR_ite | intro _ | extract_lets | with_reducible refine kept_some (by assumption) ?_ | dsimp -zeta only | split | dsimp -zeta +zetaDelta only

theorem keptR_execAtticBufWrite {z s : State} (h : Kept z s) (word : Fin 16) (value : BitVec 32) (be : BitVec 4) :
    KeptR z (execAtticBufWrite word value be s) := by
  unfold execAtticBufWrite
  repeat' first | with_reducible first | assumption | apply keptR_next | apply keptR_rowWrite | apply kept_each | apply kept_put | apply kept_foldl | apply kept_foldl_snd | apply kept_foldl_fst | apply kept_foldl_snd2 | apply kept_ite | apply keptR_ite | intro _ | extract_lets | with_reducible refine kept_some (by assumption) ?_ | dsimp -zeta only | split | dsimp -zeta +zetaDelta only

theorem kept_storePair {z s : State} (h : Kept z s) (a : Nat) (b : Nat) (v : Nat) :
    Kept z (State.storePair s a b v) := by
  unfold State.storePair
  repeat' first | with_reducible first | assumption | apply kept_atticIssue | apply kept_foldl | apply kept_foldl_snd | apply kept_foldl_fst | apply kept_foldl_snd2 | apply kept_ite | intro _ | extract_lets | with_reducible refine kept_some (by assumption) ?_ | dsimp -zeta only | split | dsimp -zeta +zetaDelta only

theorem kept_storeCal {z s : State} (h : Kept z s) :
    Kept z (State.storeCal s) := by
  unfold State.storeCal
  repeat' first | with_reducible first | assumption | apply kept_storePair | apply kept_foldl | apply kept_foldl_snd | apply kept_foldl_fst | apply kept_foldl_snd2 | apply kept_ite | intro _ | extract_lets | with_reducible refine kept_some (by assumption) ?_ | dsimp -zeta only | split | dsimp -zeta +zetaDelta only

theorem kept_storeFloor {z s : State} (h : Kept z s) :
    Kept z (State.storeFloor s) := by
  unfold State.storeFloor
  repeat' first | with_reducible first | assumption | apply kept_storePair | apply kept_foldl | apply kept_foldl_snd | apply kept_foldl_fst | apply kept_foldl_snd2 | apply kept_ite | intro _ | extract_lets | with_reducible refine kept_some (by assumption) ?_ | dsimp -zeta only | split | dsimp -zeta +zetaDelta only

theorem kept_setHist {z s : State} (h : Kept z s) (q : Nat) (h : Histogram) :
    Kept z (State.setHist s q h) := by
  unfold State.setHist
  repeat' first | with_reducible first | assumption | apply kept_modBlot | apply kept_foldl | apply kept_foldl_snd | apply kept_foldl_fst | apply kept_foldl_snd2 | apply kept_ite | intro _ | extract_lets | with_reducible refine kept_some (by assumption) ?_ | dsimp -zeta only | split | dsimp -zeta +zetaDelta only

theorem kept_copyHist {z s : State} (h : Kept z s) (q : Nat) :
    Kept z (State.copyHist s q) := by
  unfold State.copyHist
  repeat' first | with_reducible first | assumption | apply kept_setHist | apply kept_issueGroup | apply kept_foldl | apply kept_foldl_snd | apply kept_foldl_fst | apply kept_foldl_snd2 | apply kept_ite | intro _ | extract_lets | with_reducible refine kept_some (by assumption) ?_ | dsimp -zeta only | split | dsimp -zeta +zetaDelta only

theorem kept_modRecord {z s : State} (h : Kept z s) (seq : Nat) (f : BlotRecord → BlotRecord) :
    Kept z (State.modRecord s seq f) := by
  unfold State.modRecord
  repeat' first | with_reducible first | assumption | apply kept_showBlot | apply kept_modBlot | apply kept_foldl | apply kept_foldl_snd | apply kept_foldl_fst | apply kept_foldl_snd2 | apply kept_ite | intro _ | extract_lets | with_reducible refine kept_some (by assumption) ?_ | dsimp -zeta only | split | dsimp -zeta +zetaDelta only

theorem kept_notPersisted {z s : State} (h : Kept z s) (seq : Nat) :
    Kept z (State.notPersisted s seq) := by
  unfold State.notPersisted
  repeat' first | with_reducible first | assumption | apply kept_modRecord | apply kept_raise | apply kept_bump | apply kept_foldl | apply kept_foldl_snd | apply kept_foldl_fst | apply kept_foldl_snd2 | apply kept_ite | intro _ | extract_lets | with_reducible refine kept_some (by assumption) ?_ | dsimp -zeta only | split | dsimp -zeta +zetaDelta only

theorem kept_persistFailed {z s : State} (h : Kept z s) (seq : Nat) (page : Nat) (bad : Nat) :
    Kept z (State.persistFailed s seq page bad) := by
  unfold State.persistFailed
  repeat' first | with_reducible first | assumption | apply kept_notPersisted | apply kept_blotter | apply kept_setFault | apply kept_modAttic | apply kept_raise | apply kept_put | apply kept_each | apply kept_foldl | apply kept_foldl_snd | apply kept_foldl_fst | apply kept_foldl_snd2 | apply kept_ite | intro _ | extract_lets | with_reducible refine kept_some (by assumption) ?_ | dsimp -zeta only | split | dsimp -zeta +zetaDelta only

theorem kept_refreshPage {z s : State} (h : Kept z s) (p : Nat) (weak : List Nat) :
    Kept z (State.refreshPage s p weak) := by
  unfold State.refreshPage
  repeat' first | with_reducible first | assumption | apply kept_counterWrite | apply kept_storeCal | apply kept_storeFloor | apply kept_copyHist | apply kept_atticIssue | apply kept_foldl | apply kept_foldl_snd | apply kept_foldl_fst | apply kept_foldl_snd2 | apply kept_ite | intro _ | extract_lets | with_reducible refine kept_some (by assumption) ?_ | dsimp -zeta only | split | dsimp -zeta +zetaDelta only

theorem kept_bankDone {z s : State} (h : Kept z s) (w : AtticWrite) :
    Kept z (State.bankDone s w) := by
  unfold State.bankDone
  repeat' first | with_reducible first | assumption | apply kept_showBanks | apply kept_modAttic | apply kept_put | apply kept_each | apply kept_startBank | apply kept_foldl | apply kept_foldl_snd | apply kept_foldl_fst | apply kept_foldl_snd2 | apply kept_ite | intro _ | extract_lets | with_reducible refine kept_some (by assumption) ?_ | dsimp -zeta only | split | dsimp -zeta +zetaDelta only

theorem kept_countWrite {z s : State} (h : Kept z s) (bank : Nat) :
    Kept z (State.countWrite s bank) := by
  unfold State.countWrite
  repeat' first | with_reducible first | assumption | apply kept_bump | apply kept_modAttic | apply kept_counterWrite | apply kept_foldl | apply kept_foldl_snd | apply kept_foldl_fst | apply kept_foldl_snd2 | apply kept_ite | intro _ | extract_lets | with_reducible refine kept_some (by assumption) ?_ | dsimp -zeta only | split | dsimp -zeta +zetaDelta only

theorem keptR_execAtticBpLock {z s : State} (h : Kept z s) :
    KeptR z (execAtticBpLock s) := by
  unfold execAtticBpLock
  repeat' first | with_reducible first | assumption | apply keptR_next | apply keptR_rowWrite | apply kept_put | apply kept_foldl | apply kept_foldl_snd | apply kept_foldl_fst | apply kept_foldl_snd2 | apply kept_ite | apply keptR_ite | intro _ | extract_lets | with_reducible refine kept_some (by assumption) ?_ | dsimp -zeta only | split | dsimp -zeta +zetaDelta only

theorem keptR_execAtticPageWriteDone {z s : State} (h : Kept z s) (bank : Fin 8) (bad : List (Fin 64)) (saveUs : BitVec 16) :
    KeptR z (execAtticPageWriteDone bank bad saveUs s) := by
  unfold execAtticPageWriteDone
  repeat' first | with_reducible first | assumption | apply keptR_next | apply kept_countWrite | apply kept_modAttic | apply kept_each | apply kept_setAttic | apply kept_raise | apply kept_bump | apply kept_bankDone | apply kept_put | apply kept_issueGroup | apply kept_atticComplete | apply kept_modRecord | apply kept_persistFailed | apply kept_foldl | apply kept_foldl_snd | apply kept_foldl_fst | apply kept_foldl_snd2 | apply kept_ite | apply keptR_ite | intro _ | extract_lets | with_reducible refine kept_some (by assumption) ?_ | dsimp -zeta only | split | dsimp -zeta +zetaDelta only

theorem keptR_execRefreshPass {z s : State} (h : Kept z s) (page : BitVec 14) :
    KeptR z (execRefreshPass page s) := by
  unfold execRefreshPass
  repeat' first | with_reducible first | assumption | apply keptR_next | apply kept_raise | apply kept_bump | apply kept_blotter | apply kept_refreshPage | apply kept_foldl | apply kept_foldl_snd | apply kept_foldl_fst | apply kept_foldl_snd2 | apply kept_ite | apply keptR_ite | intro _ | extract_lets | with_reducible refine kept_some (by assumption) ?_ | dsimp -zeta only | split | dsimp -zeta +zetaDelta only

theorem keptR_execBlotterPersist {z s : State} (h : Kept z s) :
    KeptR z (execBlotterPersist s) := by
  unfold execBlotterPersist
  repeat' first | with_reducible first | assumption | apply keptR_next | apply kept_persistFailed | apply kept_modRecord | apply kept_atticIssue | apply kept_foldl | apply kept_foldl_snd | apply kept_foldl_fst | apply kept_foldl_snd2 | apply kept_ite | apply keptR_ite | intro _ | extract_lets | with_reducible refine kept_some (by assumption) ?_ | dsimp -zeta only | split | dsimp -zeta +zetaDelta only

end Sys2Proof.Machine
end

