-- ==== Sys2Proof/Laws/KeptMemoryOps.lean ====
section
/-!
SUPPORT. The operations of Machine/MemoryOps.lean keep the relation of Laws/Kept.lean.
-/
namespace Sys2Proof.Machine
open Sys2Proof Safety

theorem kept_showClasses {z s : State} (h : Kept z s) :
    Kept z (State.showClasses s) := by
  unfold State.showClasses
  repeat' first | with_reducible first | assumption | apply kept_each | apply kept_put | apply kept_foldl | apply kept_foldl_snd | apply kept_foldl_fst | apply kept_foldl_snd2 | apply kept_ite | intro _ | extract_lets | with_reducible refine kept_some (by assumption) ?_ | dsimp -zeta only | split | dsimp -zeta +zetaDelta only

theorem kept_setWordEcc {z s : State} (h : Kept z s) (w : Nat) (e : WordEcc) :
    Kept z (State.setWordEcc s w e) := by
  unfold State.setWordEcc
  repeat' first | with_reducible first | assumption | apply kept_modMem | apply kept_foldl | apply kept_foldl_snd | apply kept_foldl_fst | apply kept_foldl_snd2 | exact id | apply kept_ite | intro _ | extract_lets | with_reducible refine kept_some (by assumption) ?_ | dsimp -zeta only | split | dsimp -zeta +zetaDelta only

theorem kept_uncorrectable {z s : State} (h : Kept z s) (word : Nat) (source : Nat) :
    Kept z (State.uncorrectable s word source) := by
  unfold State.uncorrectable
  repeat' first | with_reducible first | assumption | apply kept_setFault | apply kept_raise | apply kept_bump | apply kept_blotter | apply kept_wr | apply kept_foldl | apply kept_foldl_snd | apply kept_foldl_fst | apply kept_foldl_snd2 | apply kept_ite | intro _ | extract_lets | with_reducible refine kept_some (by assumption) ?_ | dsimp -zeta only | split | dsimp -zeta +zetaDelta only

theorem kept_eccRead {z s : State} (h : Kept z s) (word : Nat) (source : Nat) :
    Kept z (State.eccRead s word source).2 := by
  unfold State.eccRead
  repeat' first | with_reducible first | assumption | apply kept_raise | apply kept_bump | apply kept_uncorrectable | apply kept_foldl | apply kept_foldl_snd | apply kept_foldl_fst | apply kept_foldl_snd2 | apply kept_ite | intro _ | extract_lets | with_reducible refine kept_some (by assumption) ?_ | dsimp -zeta only | split | dsimp -zeta +zetaDelta only

theorem kept_setMemByte {z s : State} (h : Kept z s) (a : Nat) (b : Byte) : Kept z (s.setMemByte a b) :=
  kept_modMem h _ fun i => Sparse.wf_set _ _ _ _ i

theorem kept_memPut {z s : State} (h : Kept z s) (kind : Nat) (addr : Nat) (bs : List Byte) :
    Kept z (State.memPut s kind addr bs) := by
  unfold State.memPut
  repeat' first | with_reducible first | assumption | apply kept_each | apply kept_setWordEcc | apply kept_setMemByte | apply kept_eccRead | apply kept_foldl | apply kept_foldl_snd | apply kept_foldl_fst | apply kept_foldl_snd2 | apply kept_ite | intro _ | extract_lets | with_reducible refine kept_snd (by assumption) ?_ | with_reducible refine kept_snd2 (by assumption) ?_ | with_reducible refine kept_snd3 (by assumption) ?_ | with_reducible refine kept_some (by assumption) ?_ | dsimp -zeta only | split | dsimp -zeta +zetaDelta only

theorem kept_fwRefuse {z s : State} (h : Kept z s) (kind : Nat) (write : Bool) (addr : Nat) :
    Kept z (State.fwRefuse s kind write addr) := by
  unfold State.fwRefuse
  repeat' first | with_reducible first | assumption | apply kept_raise | apply kept_bump | apply kept_wr | apply kept_foldl | apply kept_foldl_snd | apply kept_foldl_fst | apply kept_foldl_snd2 | apply kept_ite | intro _ | extract_lets | with_reducible refine kept_some (by assumption) ?_ | dsimp -zeta only | split | dsimp -zeta +zetaDelta only

theorem kept_memWrite {z s : State} (h : Kept z s) (kind : Nat) (addr : Nat) (bs : List Byte) :
    Kept z (State.memWrite s kind addr bs) := by
  unfold State.memWrite
  repeat' first | with_reducible first | assumption | apply kept_memPut | apply kept_fwRefuse | apply kept_foldl | apply kept_foldl_snd | apply kept_foldl_fst | apply kept_foldl_snd2 | apply kept_ite | intro _ | extract_lets | with_reducible refine kept_some (by assumption) ?_ | dsimp -zeta only | split | dsimp -zeta +zetaDelta only

theorem kept_chargeClass {z s : State} (h : Kept z s) (cls : Nat) (bytes : Nat) (ns : Rat) :
    Kept z (State.chargeClass s cls bytes ns) := by
  unfold State.chargeClass
  repeat' first | with_reducible first | assumption | apply kept_modMem | apply kept_foldl | apply kept_foldl_snd | apply kept_foldl_fst | apply kept_foldl_snd2 | exact id | apply kept_ite | intro _ | extract_lets | with_reducible refine kept_some (by assumption) ?_ | dsimp -zeta only | split | dsimp -zeta +zetaDelta only

theorem kept_useMem {z s : State} (h : Kept z s) (port : Nat) (cls : Nat) (bytes : Nat) (ns : Rat) :
    Kept z (State.useMem s port cls bytes ns) := by
  unfold State.useMem
  repeat' first | with_reducible first | assumption | apply kept_modMem | apply kept_chargeClass | apply kept_foldl | apply kept_foldl_snd | apply kept_foldl_fst | apply kept_foldl_snd2 | exact id | apply kept_ite | intro _ | extract_lets | with_reducible refine kept_some (by assumption) ?_ | dsimp -zeta only | split | dsimp -zeta +zetaDelta only

theorem kept_unitUse {z s : State} (h : Kept z s) (port : Nat) (cls : Nat) (bytes : Nat) :
    Kept z (State.unitUse s port cls bytes) := by
  unfold State.unitUse
  repeat' first | with_reducible first | assumption | apply kept_useMem | apply kept_foldl | apply kept_foldl_snd | apply kept_foldl_fst | apply kept_foldl_snd2 | apply kept_ite | intro _ | extract_lets | with_reducible refine kept_some (by assumption) ?_ | dsimp -zeta only | split | dsimp -zeta +zetaDelta only

theorem kept_memTake {z s : State} (h : Kept z s) (kind : Nat) (addr : Nat) (len : Nat) :
    Kept z (State.memTake s kind addr len).2 := by
  unfold State.memTake
  repeat' first | with_reducible first | assumption | apply kept_eccRead | apply kept_foldl | apply kept_foldl_snd | apply kept_foldl_fst | apply kept_foldl_snd2 | apply kept_ite | intro _ | extract_lets | with_reducible refine kept_snd (by assumption) ?_ | with_reducible refine kept_snd2 (by assumption) ?_ | with_reducible refine kept_snd3 (by assumption) ?_ | with_reducible refine kept_some (by assumption) ?_ | dsimp -zeta only | split | dsimp -zeta +zetaDelta only

theorem kept_memRead {z s : State} (h : Kept z s) (kind : Nat) (addr : Nat) (len : Nat) :
    Kept z (State.memRead s kind addr len).2 := by
  unfold State.memRead
  repeat' first | with_reducible first | assumption | apply kept_fwRefuse | apply kept_memTake | apply kept_foldl | apply kept_foldl_snd | apply kept_foldl_fst | apply kept_foldl_snd2 | apply kept_ite | intro _ | extract_lets | with_reducible refine kept_snd (by assumption) ?_ | with_reducible refine kept_snd2 (by assumption) ?_ | with_reducible refine kept_snd3 (by assumption) ?_ | with_reducible refine kept_some (by assumption) ?_ | dsimp -zeta only | split | dsimp -zeta +zetaDelta only

theorem kept_setChannel0 {z s : State} (h : Kept z s) (c : Nat) (x : Nat × Nat) :
    Kept z (State.setChannel0 s c x) := by
  unfold State.setChannel0
  repeat' first | with_reducible first | assumption | apply kept_modMem | apply kept_foldl | apply kept_foldl_snd | apply kept_foldl_fst | apply kept_foldl_snd2 | exact id | apply kept_ite | intro _ | extract_lets | with_reducible refine kept_some (by assumption) ?_ | dsimp -zeta only | split | dsimp -zeta +zetaDelta only

theorem kept_passSlots {z s : State} (h : Kept z s) (n : Nat) :
    Kept z (State.passSlots s n) := by
  unfold State.passSlots
  repeat' first | with_reducible first | assumption | apply kept_each | apply kept_setChannel0 | apply kept_modMem | apply kept_foldl | apply kept_foldl_snd | apply kept_foldl_fst | apply kept_foldl_snd2 | exact id | apply kept_ite | intro _ | extract_lets | with_reducible refine kept_some (by assumption) ?_ | dsimp -zeta only | split | dsimp -zeta +zetaDelta only

theorem kept_strike {z s : State} (h : Kept z s) (upsets : List (Nat × Bool)) :
    Kept z (State.strike s upsets) := by
  unfold State.strike
  repeat' first | with_reducible first | assumption | apply kept_each | apply kept_setWordEcc | apply kept_foldl | apply kept_foldl_snd | apply kept_foldl_fst | apply kept_foldl_snd2 | apply kept_ite | intro _ | extract_lets | with_reducible refine kept_some (by assumption) ?_ | dsimp -zeta only | split | dsimp -zeta +zetaDelta only

theorem kept_enqueue0 {z s : State} (h : Kept z s) (c : Nat) :
    Kept z (State.enqueue0 s c).2 := by
  unfold State.enqueue0
  repeat' first | with_reducible first | assumption | apply kept_setChannel0 | apply kept_foldl | apply kept_foldl_snd | apply kept_foldl_fst | apply kept_foldl_snd2 | apply kept_ite | intro _ | extract_lets | with_reducible refine kept_some (by assumption) ?_ | dsimp -zeta only | split | dsimp -zeta +zetaDelta only

theorem kept_enqueueBytes {z s : State} (h : Kept z s) (addr : Nat) (len : Nat) :
    Kept z (State.enqueueBytes s addr len) := by
  unfold State.enqueueBytes
  repeat' first | with_reducible first | assumption | apply kept_raise | apply kept_bump | apply kept_enqueue0 | apply kept_foldl | apply kept_foldl_snd | apply kept_foldl_fst | apply kept_foldl_snd2 | apply kept_ite | intro _ | extract_lets | with_reducible refine kept_snd (by assumption) ?_ | with_reducible refine kept_snd2 (by assumption) ?_ | with_reducible refine kept_snd3 (by assumption) ?_ | with_reducible refine kept_some (by assumption) ?_ | dsimp -zeta only | split | dsimp -zeta +zetaDelta only

theorem kept_memServe {z s : State} (h : Kept z s) (r : MemReq) :
    Kept z (State.memServe s r) := by
  unfold State.memServe
  repeat' first | with_reducible first | assumption | apply kept_enqueueBytes | apply kept_useMem | apply kept_memWrite | apply kept_emit | apply kept_memRead | apply kept_foldl | apply kept_foldl_snd | apply kept_foldl_fst | apply kept_foldl_snd2 | apply kept_ite | intro _ | extract_lets | with_reducible refine kept_snd (by assumption) ?_ | with_reducible refine kept_snd2 (by assumption) ?_ | with_reducible refine kept_snd3 (by assumption) ?_ | with_reducible refine kept_some (by assumption) ?_ | dsimp -zeta only | split | dsimp -zeta +zetaDelta only

theorem kept_memAccess {z s : State} (h : Kept z s) (r : MemReq) :
    Kept z (State.memAccess s r) := by
  unfold State.memAccess
  repeat' first | with_reducible first | assumption | apply kept_memServe | apply kept_modMem | apply kept_foldl | apply kept_foldl_snd | apply kept_foldl_fst | apply kept_foldl_snd2 | exact id | apply kept_ite | intro _ | extract_lets | with_reducible refine kept_some (by assumption) ?_ | dsimp -zeta only | split | dsimp -zeta +zetaDelta only

end Sys2Proof.Machine
end

