-- ==== Sys2Proof/Laws/KeptStreamOps.lean ====
section
/-!
SUPPORT. The operations of Machine/StreamOps.lean keep the relation of Laws/Kept.lean.
-/
namespace Sys2Proof.Machine
open Sys2Proof Safety

theorem kept_showStream {z s : State} (h : Kept z s) (n : Nat) :
    Kept z (State.showStream s n) := by
  unfold State.showStream
  repeat' first | with_reducible first | assumption | apply kept_put | apply kept_foldl | apply kept_foldl_snd | apply kept_foldl_fst | apply kept_foldl_snd2 | apply kept_ite | intro _ | extract_lets | with_reducible refine kept_some (by assumption) ?_ | dsimp -zeta only | split | dsimp -zeta +zetaDelta only

theorem kept_emptyRing {z s : State} (h : Kept z s) (n : Nat) :
    Kept z (State.emptyRing s n) := by
  unfold State.emptyRing
  repeat' first | with_reducible first | assumption | apply kept_setStream | apply kept_showStream | apply kept_put | apply kept_foldl | apply kept_foldl_snd | apply kept_foldl_fst | apply kept_foldl_snd2 | apply kept_ite | intro _ | extract_lets | with_reducible refine kept_some (by assumption) ?_ | dsimp -zeta only | split | dsimp -zeta +zetaDelta only

theorem kept_unpin {z s : State} (h : Kept z s) (n : Nat) (r : Reader) :
    Kept z (State.unpin s n r) := by
  unfold State.unpin
  repeat' first | with_reducible first | assumption | apply kept_showStream | apply kept_modStream | apply kept_foldl | apply kept_foldl_snd | apply kept_foldl_fst | apply kept_foldl_snd2 | apply kept_ite | intro _ | extract_lets | with_reducible refine kept_some (by assumption) ?_ | dsimp -zeta only | split | dsimp -zeta +zetaDelta only

theorem kept_endJob {z s : State} (h : Kept z s) (e : Nat) :
    Kept z (State.endJob s e) := by
  unfold State.endJob
  repeat' first | with_reducible first | assumption | apply kept_unpin | apply kept_modCellar | apply kept_put | apply kept_foldl | apply kept_foldl_snd | apply kept_foldl_fst | apply kept_foldl_snd2 | apply kept_ite | intro _ | extract_lets | with_reducible refine kept_some (by assumption) ?_ | dsimp -zeta only | split | dsimp -zeta +zetaDelta only

theorem kept_writeSlotState {z s : State} (h : Kept z s) (n : Nat) (i : Nat) (v : Nat) :
    Kept z (State.writeSlotState s n i v) := by
  unfold State.writeSlotState
  repeat' first | with_reducible first | assumption | apply kept_memWrite | apply kept_foldl | apply kept_foldl_snd | apply kept_foldl_fst | apply kept_foldl_snd2 | apply kept_ite | intro _ | extract_lets | with_reducible refine kept_some (by assumption) ?_ | dsimp -zeta only | split | dsimp -zeta +zetaDelta only

theorem kept_emptyWriting {z s : State} (h : Kept z s) (n : Nat) :
    Kept z (State.emptyWriting s n) := by
  unfold State.emptyWriting
  repeat' first | with_reducible first | assumption | apply kept_modStream | apply kept_showStream | apply kept_writeSlotState | apply kept_foldl | apply kept_foldl_snd | apply kept_foldl_fst | apply kept_foldl_snd2 | apply kept_ite | intro _ | extract_lets | with_reducible refine kept_some (by assumption) ?_ | dsimp -zeta only | split | dsimp -zeta +zetaDelta only

theorem kept_abandonFrame {z s : State} (h : Kept z s) (n : Nat) :
    Kept z (State.abandonFrame s n) := by
  unfold State.abandonFrame
  repeat' first | with_reducible first | assumption | apply kept_modStream | apply kept_emptyWriting | apply kept_foldl | apply kept_foldl_snd | apply kept_foldl_fst | apply kept_foldl_snd2 | apply kept_ite | intro _ | extract_lets | with_reducible refine kept_some (by assumption) ?_ | dsimp -zeta only | split | dsimp -zeta +zetaDelta only

theorem kept_abandonStream {z s : State} (h : Kept z s) (n : Nat) :
    Kept z (State.abandonStream s n) := by
  unfold State.abandonStream
  repeat' first | with_reducible first | assumption | apply kept_setWaiting | apply kept_each | apply kept_endJob | apply kept_modStream | apply kept_abandonFrame | apply kept_foldl | apply kept_foldl_snd | apply kept_foldl_fst | apply kept_foldl_snd2 | apply kept_ite | intro _ | extract_lets | with_reducible refine kept_some (by assumption) ?_ | dsimp -zeta only | split | dsimp -zeta +zetaDelta only

theorem kept_abandonPort {z s : State} (h : Kept z s) (p : Nat) :
    Kept z (State.abandonPort s p) := by
  unfold State.abandonPort
  repeat' first | with_reducible first | assumption | apply kept_each | apply kept_abandonStream | apply kept_foldl | apply kept_foldl_snd | apply kept_foldl_fst | apply kept_foldl_snd2 | apply kept_ite | intro _ | extract_lets | with_reducible refine kept_some (by assumption) ?_ | dsimp -zeta only | split | dsimp -zeta +zetaDelta only

theorem kept_genlockReset {z s : State} (h : Kept z s) :
    Kept z (State.genlockReset s) := by
  unfold State.genlockReset
  repeat' first | with_reducible first | assumption | apply kept_each | apply kept_modStream | apply kept_raise | apply kept_put | apply kept_foldl | apply kept_foldl_snd | apply kept_foldl_fst | apply kept_foldl_snd2 | apply kept_ite | intro _ | extract_lets | with_reducible refine kept_some (by assumption) ?_ | dsimp -zeta only | split | dsimp -zeta +zetaDelta only

theorem kept_dropFrame {z s : State} (h : Kept z s) (n : Nat) (cause : Nat) :
    Kept z (State.dropFrame s n cause) := by
  unfold State.dropFrame
  repeat' first | with_reducible first | assumption | apply kept_bump | apply kept_raise | apply kept_put | apply kept_foldl | apply kept_foldl_snd | apply kept_foldl_fst | apply kept_foldl_snd2 | apply kept_ite | intro _ | extract_lets | with_reducible refine kept_some (by assumption) ?_ | dsimp -zeta only | split | dsimp -zeta +zetaDelta only

theorem kept_discardRecord {z s : State} (h : Kept z s) (n : Nat) :
    Kept z (State.discardRecord s n) := by
  unfold State.discardRecord
  repeat' first | with_reducible first | assumption | apply kept_modStream | apply kept_foldl | apply kept_foldl_snd | apply kept_foldl_fst | apply kept_foldl_snd2 | apply kept_ite | intro _ | extract_lets | with_reducible refine kept_some (by assumption) ?_ | dsimp -zeta only | split | dsimp -zeta +zetaDelta only

theorem kept_failFrame {z s : State} (h : Kept z s) (n : Nat) (cause : Nat) :
    Kept z (State.failFrame s n cause) := by
  unfold State.failFrame
  repeat' first | with_reducible first | assumption | apply kept_dropFrame | apply kept_discardRecord | apply kept_emptyWriting | apply kept_foldl | apply kept_foldl_snd | apply kept_foldl_fst | apply kept_foldl_snd2 | apply kept_ite | intro _ | extract_lets | with_reducible refine kept_some (by assumption) ?_ | dsimp -zeta only | split | dsimp -zeta +zetaDelta only

theorem kept_readRow {z s : State} (h : Kept z s) (kind : Nat) (base : Nat) (code : Nat) (w : Nat) (r : Nat) :
    Kept z (State.readRow s kind base code w r).2 := by
  unfold State.readRow
  repeat' first | with_reducible first | assumption | apply kept_memRead | apply kept_foldl | apply kept_foldl_snd | apply kept_foldl_fst | apply kept_foldl_snd2 | apply kept_ite | intro _ | extract_lets | with_reducible refine kept_snd (by assumption) ?_ | with_reducible refine kept_snd2 (by assumption) ?_ | with_reducible refine kept_snd3 (by assumption) ?_ | with_reducible refine kept_some (by assumption) ?_ | dsimp -zeta only | split | dsimp -zeta +zetaDelta only

theorem kept_readPart {z s : State} (h : Kept z s) (kind : Nat) (base : Nat) (code : Nat) (w : Nat) (h : Nat) :
    Kept z (State.readPart s kind base code w h).2 := by
  unfold State.readPart
  repeat' first | with_reducible first | assumption | apply kept_readRow | apply kept_foldl | apply kept_foldl_snd | apply kept_foldl_fst | apply kept_foldl_snd2 | apply kept_ite | intro _ | extract_lets | with_reducible refine kept_snd (by assumption) ?_ | with_reducible refine kept_snd2 (by assumption) ?_ | with_reducible refine kept_snd3 (by assumption) ?_ | with_reducible refine kept_some (by assumption) ?_ | dsimp -zeta only | split | dsimp -zeta +zetaDelta only

theorem kept_newestPicture {z s : State} (h : Kept z s) (n : Nat) :
    Kept z (State.newestPicture s n).2 := by
  unfold State.newestPicture
  repeat' first | with_reducible first | assumption | apply kept_readPart | apply kept_foldl | apply kept_foldl_snd | apply kept_foldl_fst | apply kept_foldl_snd2 | apply kept_ite | intro _ | extract_lets | with_reducible refine kept_snd (by assumption) ?_ | with_reducible refine kept_snd2 (by assumption) ?_ | with_reducible refine kept_snd3 (by assumption) ?_ | with_reducible refine kept_some (by assumption) ?_ | dsimp -zeta only | split | dsimp -zeta +zetaDelta only

theorem kept_abandonField {z s : State} (h : Kept z s) (n : Nat) :
    Kept z (State.abandonField s n) := by
  unfold State.abandonField
  repeat' first | with_reducible first | assumption | apply kept_each | apply kept_modMot | apply kept_unpin | apply kept_modStream | apply kept_memWrite | apply kept_raise | apply kept_bump | apply kept_foldl | apply kept_foldl_snd | apply kept_foldl_fst | apply kept_foldl_snd2 | apply kept_ite | intro _ | extract_lets | with_reducible refine kept_some (by assumption) ?_ | dsimp -zeta only | split | dsimp -zeta +zetaDelta only

theorem kept_writePart {z s : State} (h : Kept z s) (kind : Nat) (base : Nat) (code : Nat) (w : Nat) (h : Nat) (g : Picture) :
    Kept z (State.writePart s kind base code w h g) := by
  unfold State.writePart
  repeat' first | with_reducible first | assumption | apply kept_each | apply kept_memWrite | apply kept_foldl | apply kept_foldl_snd | apply kept_foldl_fst | apply kept_foldl_snd2 | apply kept_ite | intro _ | extract_lets | with_reducible refine kept_some (by assumption) ?_ | dsimp -zeta only | split | dsimp -zeta +zetaDelta only

theorem kept_queueMotion {z s : State} (h : Kept z s) (n : Nat) (slot : Nat) (seq : Nat) (old : Option Nat) (skip : Bool) :
    Kept z (State.queueMotion s n slot seq old skip) := by
  unfold State.queueMotion
  repeat' first | with_reducible first | assumption | apply kept_bump | apply kept_modMot | apply kept_foldl | apply kept_foldl_snd | apply kept_foldl_fst | apply kept_foldl_snd2 | apply kept_ite | intro _ | extract_lets | with_reducible refine kept_some (by assumption) ?_ | dsimp -zeta only | split | dsimp -zeta +zetaDelta only

theorem kept_finishFrame {z s : State} (h : Kept z s) (n : Nat) (w : Writing) (g : Picture) (concealed : Nat → Nat → Bool) (synth : Bool) (decoded : Bool) (frac : Nat) :
    Kept z (State.finishFrame s n w g concealed synth decoded frac) := by
  unfold State.finishFrame
  repeat' first | with_reducible first | assumption | apply kept_abandonField | apply kept_writePart | apply kept_each | apply kept_unitUse | apply kept_memWrite | apply kept_writeSlotState | apply kept_modStream | apply kept_put | apply kept_raiseIf | apply kept_bumpBy | apply kept_bump | apply kept_addLoad | apply kept_showStream | apply kept_queueMotion | apply kept_foldl | apply kept_foldl_snd | apply kept_foldl_fst | apply kept_foldl_snd2 | apply kept_ite | intro _ | extract_lets | with_reducible refine kept_some (by assumption) ?_ | dsimp -zeta only | split | dsimp -zeta +zetaDelta only

theorem kept_completeReceived {z s : State} (h : Kept z s) (n : Nat) (frac : Nat) (refused : Bool) :
    Kept z (State.completeReceived s n frac refused) := by
  unfold State.completeReceived
  repeat' first | with_reducible first | assumption | apply kept_failFrame | apply kept_finishFrame | apply kept_newestPicture | apply kept_foldl | apply kept_foldl_snd | apply kept_foldl_fst | apply kept_foldl_snd2 | apply kept_ite | intro _ | extract_lets | with_reducible refine kept_snd (by assumption) ?_ | with_reducible refine kept_snd2 (by assumption) ?_ | with_reducible refine kept_snd3 (by assumption) ?_ | with_reducible refine kept_some (by assumption) ?_ | dsimp -zeta only | split | dsimp -zeta +zetaDelta only

theorem kept_genlockStep {z s : State} (h : Kept z s) (n : Nat) (frac : Nat) :
    Kept z (State.genlockStep s n frac) := by
  unfold State.genlockStep
  repeat' first | with_reducible first | assumption | apply kept_modStream | apply kept_raise | apply kept_put | apply kept_foldl | apply kept_foldl_snd | apply kept_foldl_fst | apply kept_foldl_snd2 | apply kept_ite | intro _ | extract_lets | with_reducible refine kept_some (by assumption) ?_ | dsimp -zeta only | split | dsimp -zeta +zetaDelta only

theorem kept_takeSlot {z s : State} (h : Kept z s) (n : Nat) (w : Writing) :
    Kept z (State.takeSlot s n w) := by
  unfold State.takeSlot
  repeat' first | with_reducible first | assumption | apply kept_dropFrame | apply kept_discardRecord | apply kept_modStream | apply kept_showStream | apply kept_writeSlotState | apply kept_foldl | apply kept_foldl_snd | apply kept_foldl_fst | apply kept_foldl_snd2 | apply kept_ite | intro _ | extract_lets | with_reducible refine kept_some (by assumption) ?_ | dsimp -zeta only | split | dsimp -zeta +zetaDelta only

theorem kept_seeStart {z s : State} (h : Kept z s) (n : Nat) (frameSeq : Option Nat) :
    Kept z (State.seeStart s n frameSeq) := by
  unfold State.seeStart
  repeat' first | with_reducible first | assumption | apply kept_modStream | apply kept_foldl | apply kept_foldl_snd | apply kept_foldl_fst | apply kept_foldl_snd2 | apply kept_ite | intro _ | extract_lets | with_reducible refine kept_some (by assumption) ?_ | dsimp -zeta only | split | dsimp -zeta +zetaDelta only

theorem kept_placeSegment {z s : State} (h : Kept z s) (n : Nat) (k : Packet) :
    Kept z (State.placeSegment s n k) := by
  unfold State.placeSegment
  repeat' first | with_reducible first | assumption | apply kept_modStream | apply kept_bump | apply kept_foldl | apply kept_foldl_snd | apply kept_foldl_fst | apply kept_foldl_snd2 | apply kept_ite | intro _ | extract_lets | with_reducible refine kept_some (by assumption) ?_ | dsimp -zeta only | split | dsimp -zeta +zetaDelta only

theorem kept_pin {z s : State} (h : Kept z s) (n : Nat) (r : Reader) (two : Bool) :
    Kept z (State.pin s n r two).2 := by
  unfold State.pin
  repeat' first | with_reducible first | assumption | apply kept_showStream | apply kept_setStream | apply kept_foldl | apply kept_foldl_snd | apply kept_foldl_fst | apply kept_foldl_snd2 | apply kept_ite | intro _ | extract_lets | with_reducible refine kept_some (by assumption) ?_ | dsimp -zeta only | split | dsimp -zeta +zetaDelta only

end Sys2Proof.Machine
end

