-- ==== Sys2Proof/Laws/KeptAudioOps.lean ====
section
/-!
SUPPORT. The operations of Machine/AudioOps.lean keep the relation of Laws/Kept.lean.
-/
namespace Sys2Proof.Machine
open Sys2Proof Safety

theorem kept_modOut {z s : State} (h : Kept z s) (o : Nat) (f : OutChan → OutChan) :
    Kept z (State.modOut s o f) := by
  unfold State.modOut
  repeat' first | with_reducible first | assumption | apply kept_modAudio | apply kept_foldl | apply kept_foldl_snd | apply kept_foldl_fst | apply kept_foldl_snd2 | apply kept_ite | intro _ | extract_lets | with_reducible refine kept_some (by assumption) ?_ | dsimp -zeta only | split | dsimp -zeta +zetaDelta only

theorem kept_planFade {z s : State} (h : Kept z s) (o : Nat) (wait : Nat) (n : Nat) (ws : List (BitVec 32)) (afv : Bool) :
    Kept z (State.planFade s o wait n ws afv) := by
  unfold State.planFade
  repeat' first | with_reducible first | assumption | apply kept_modOut | apply kept_raise | apply kept_foldl | apply kept_foldl_snd | apply kept_foldl_fst | apply kept_foldl_snd2 | apply kept_ite | intro _ | extract_lets | with_reducible refine kept_some (by assumption) ?_ | dsimp -zeta only | split | dsimp -zeta +zetaDelta only

theorem kept_planTakes {z s : State} (h : Kept z s) (f : Nat) (periods : Nat) :
    Kept z (State.planTakes s f periods) := by
  unfold State.planTakes
  repeat' first | with_reducible first | assumption | apply kept_each | apply kept_planFade | apply kept_foldl | apply kept_foldl_snd | apply kept_foldl_fst | apply kept_foldl_snd2 | apply kept_ite | intro _ | extract_lets | with_reducible refine kept_some (by assumption) ?_ | dsimp -zeta only | split | dsimp -zeta +zetaDelta only

theorem kept_lipRestart {z s : State} (h : Kept z s) (f : Nat) (p : Nat) :
    Kept z (State.lipRestart s f p) := by
  unfold State.lipRestart
  repeat' first | with_reducible first | assumption | apply kept_each | apply kept_modOut | apply kept_foldl | apply kept_foldl_snd | apply kept_foldl_fst | apply kept_foldl_snd2 | apply kept_ite | intro _ | extract_lets | with_reducible refine kept_some (by assumption) ?_ | dsimp -zeta only | split | dsimp -zeta +zetaDelta only

theorem kept_armBank {z s : State} (h : Kept z s) :
    Kept z (State.armBank s) := by
  unfold State.armBank
  repeat' first | with_reducible first | assumption | apply kept_raise | apply kept_each | apply kept_modOut | apply kept_put | apply kept_foldl | apply kept_foldl_snd | apply kept_foldl_fst | apply kept_foldl_snd2 | apply kept_ite | intro _ | extract_lets | with_reducible refine kept_some (by assumption) ?_ | dsimp -zeta only | split | dsimp -zeta +zetaDelta only

theorem kept_clearBank {z s : State} (h : Kept z s) :
    Kept z (State.clearBank s) := by
  unfold State.clearBank
  repeat' first | with_reducible first | assumption | apply kept_each | apply kept_modOut | apply kept_raise | apply kept_put | apply kept_foldl | apply kept_foldl_snd | apply kept_foldl_fst | apply kept_foldl_snd2 | apply kept_ite | intro _ | extract_lets | with_reducible refine kept_some (by assumption) ?_ | dsimp -zeta only | split | dsimp -zeta +zetaDelta only

theorem kept_ringRead {z s : State} (h : Kept z s) (i : Nat) (k : Int) :
    Kept z (State.ringRead s i k).2 := by
  unfold State.ringRead
  repeat' first | with_reducible first | assumption | apply kept_unitUse | apply kept_memRead | apply kept_foldl | apply kept_foldl_snd | apply kept_foldl_fst | apply kept_foldl_snd2 | apply kept_ite | intro _ | extract_lets | with_reducible refine kept_snd (by assumption) ?_ | with_reducible refine kept_snd2 (by assumption) ?_ | with_reducible refine kept_snd3 (by assumption) ?_ | with_reducible refine kept_some (by assumption) ?_ | dsimp -zeta only | split | dsimp -zeta +zetaDelta only

theorem kept_termAt {z s : State} (h : Kept z s) (i : Nat) (d : Rat) :
    Kept z (State.termAt s i d).2 := by
  unfold State.termAt
  repeat' first | with_reducible first | assumption | apply kept_ringRead | apply kept_foldl | apply kept_foldl_snd | apply kept_foldl_fst | apply kept_foldl_snd2 | apply kept_ite | intro _ | extract_lets | with_reducible refine kept_snd (by assumption) ?_ | with_reducible refine kept_snd2 (by assumption) ?_ | with_reducible refine kept_snd3 (by assumption) ?_ | with_reducible refine kept_some (by assumption) ?_ | dsimp -zeta only | split | dsimp -zeta +zetaDelta only

theorem kept_sumTerms {z s : State} (h : Kept z s) (g : List (Nat × Rat)) (d : Rat) :
    Kept z (State.sumTerms s g d).2 := by
  unfold State.sumTerms
  repeat' first | with_reducible first | assumption | apply kept_termAt | apply kept_foldl | apply kept_foldl_snd | apply kept_foldl_fst | apply kept_foldl_snd2 | apply kept_ite | intro _ | extract_lets | with_reducible refine kept_snd (by assumption) ?_ | with_reducible refine kept_snd2 (by assumption) ?_ | with_reducible refine kept_snd3 (by assumption) ?_ | with_reducible refine kept_some (by assumption) ?_ | dsimp -zeta only | split | dsimp -zeta +zetaDelta only

theorem kept_mixOne {z s : State} (h : Kept z s) (o : Nat) :
    Kept z (State.mixOne s o) := by
  unfold State.mixOne
  repeat' first | with_reducible first | assumption | apply kept_raise | apply kept_bump | apply kept_modOut | apply kept_sumTerms | apply kept_foldl | apply kept_foldl_snd | apply kept_foldl_fst | apply kept_foldl_snd2 | apply kept_ite | intro _ | extract_lets | with_reducible refine kept_snd (by assumption) ?_ | with_reducible refine kept_snd2 (by assumption) ?_ | with_reducible refine kept_snd3 (by assumption) ?_ | with_reducible refine kept_some (by assumption) ?_ | dsimp -zeta only | split | dsimp -zeta +zetaDelta only

theorem kept_setSpPeriods {z s : State} (h : Kept z s) (f : Nat) (n : Nat) :
    Kept z (State.setSpPeriods s f n) := by
  unfold State.setSpPeriods
  repeat' first | with_reducible first | assumption | apply kept_modAudio | apply kept_foldl | apply kept_foldl_snd | apply kept_foldl_fst | apply kept_foldl_snd2 | apply kept_ite | intro _ | extract_lets | with_reducible refine kept_some (by assumption) ?_ | dsimp -zeta only | split | dsimp -zeta +zetaDelta only

theorem kept_replaceFade {z s : State} (h : Kept z s) (o : Nat) :
    Kept z (State.replaceFade s o) := by
  unfold State.replaceFade
  repeat' first | with_reducible first | assumption | apply kept_modOut | apply kept_foldl | apply kept_foldl_snd | apply kept_foldl_fst | apply kept_foldl_snd2 | apply kept_ite | intro _ | extract_lets | with_reducible refine kept_some (by assumption) ?_ | dsimp -zeta only | split | dsimp -zeta +zetaDelta only

theorem kept_settleTakes {z s : State} (h : Kept z s) (f : Nat) :
    Kept z (State.settleTakes s f) := by
  unfold State.settleTakes
  repeat' first | with_reducible first | assumption | apply kept_each | apply kept_modOut | apply kept_replaceFade | apply kept_foldl | apply kept_foldl_snd | apply kept_foldl_fst | apply kept_foldl_snd2 | apply kept_ite | intro _ | extract_lets | with_reducible refine kept_some (by assumption) ?_ | dsimp -zeta only | split | dsimp -zeta +zetaDelta only

theorem kept_modSrc {z s : State} (h : Kept z s) (i : Nat) (f : SrcChan → SrcChan) :
    Kept z (State.modSrc s i f) := by
  unfold State.modSrc
  repeat' first | with_reducible first | assumption | apply kept_modAudio | apply kept_foldl | apply kept_foldl_snd | apply kept_foldl_fst | apply kept_foldl_snd2 | apply kept_ite | intro _ | extract_lets | with_reducible refine kept_some (by assumption) ?_ | dsimp -zeta only | split | dsimp -zeta +zetaDelta only

theorem kept_countLost {z s : State} (h : Kept z s) (n : Nat) :
    Kept z (State.countLost s n) := by
  unfold State.countLost
  repeat' first | with_reducible first | assumption | apply kept_raiseN | apply kept_bumpBy | apply kept_foldl | apply kept_foldl_snd | apply kept_foldl_fst | apply kept_foldl_snd2 | apply kept_ite | intro _ | extract_lets | with_reducible refine kept_some (by assumption) ?_ | dsimp -zeta only | split | dsimp -zeta +zetaDelta only

theorem kept_setSrcMode {z s : State} (h : Kept z s) (i : Nat) (m : SrcMode) :
    Kept z (State.setSrcMode s i m) := by
  unfold State.setSrcMode
  repeat' first | with_reducible first | assumption | apply kept_put | apply kept_modSrc | apply kept_raise | apply kept_raiseIf | apply kept_foldl | apply kept_foldl_snd | apply kept_foldl_fst | apply kept_foldl_snd2 | apply kept_ite | intro _ | extract_lets | with_reducible refine kept_some (by assumption) ?_ | dsimp -zeta only | split | dsimp -zeta +zetaDelta only

theorem kept_samplesIn {z s : State} (h : Kept z s) (i : Nat) (lost : Nat) (vals : List Int) (rate : Nat) (dev : Int) :
    Kept z (State.samplesIn s i lost vals rate dev) := by
  unfold State.samplesIn
  repeat' first | with_reducible first | assumption | apply kept_modSrc | apply kept_countLost | apply kept_putInt | apply kept_put | apply kept_setSrcMode | apply kept_foldl | apply kept_foldl_snd | apply kept_foldl_fst | apply kept_foldl_snd2 | apply kept_ite | intro _ | extract_lets | with_reducible refine kept_some (by assumption) ?_ | dsimp -zeta only | split | dsimp -zeta +zetaDelta only

theorem kept_convertOne {z s : State} (h : Kept z s) (i : Nat) :
    Kept z (State.convertOne s i) := by
  unfold State.convertOne
  repeat' first | with_reducible first | assumption | apply kept_modSrc | apply kept_countLost | apply kept_memWrite | apply kept_unitUse | apply kept_foldl | apply kept_foldl_snd | apply kept_foldl_fst | apply kept_foldl_snd2 | apply kept_ite | intro _ | extract_lets | with_reducible refine kept_some (by assumption) ?_ | dsimp -zeta only | split | dsimp -zeta +zetaDelta only

theorem kept_advanceFade {z s : State} (h : Kept z s) (o : Nat) :
    Kept z (State.advanceFade s o) := by
  unfold State.advanceFade
  repeat' first | with_reducible first | assumption | apply kept_modOut | apply kept_foldl | apply kept_foldl_snd | apply kept_foldl_fst | apply kept_foldl_snd2 | apply kept_ite | intro _ | extract_lets | with_reducible refine kept_some (by assumption) ?_ | dsimp -zeta only | split | dsimp -zeta +zetaDelta only

theorem kept_trackDelay {z s : State} (h : Kept z s) (o : Nat) :
    Kept z (State.trackDelay s o) := by
  unfold State.trackDelay
  repeat' first | with_reducible first | assumption | apply kept_raiseIf | apply kept_modOut | apply kept_put | apply kept_putInt | apply kept_foldl | apply kept_foldl_snd | apply kept_foldl_fst | apply kept_foldl_snd2 | apply kept_ite | intro _ | extract_lets | with_reducible refine kept_some (by assumption) ?_ | dsimp -zeta only | split | dsimp -zeta +zetaDelta only

theorem kept_switchBank {z s : State} (h : Kept z s) (o : Nat) :
    Kept z (State.switchBank s o) := by
  unfold State.switchBank
  repeat' first | with_reducible first | assumption | apply kept_each | apply kept_wr | apply kept_modOut | apply kept_put | apply kept_raise | apply kept_foldl | apply kept_foldl_snd | apply kept_foldl_fst | apply kept_foldl_snd2 | apply kept_ite | intro _ | extract_lets | with_reducible refine kept_some (by assumption) ?_ | dsimp -zeta only | split | dsimp -zeta +zetaDelta only

theorem kept_bankStep {z s : State} (h : Kept z s) (o : Nat) :
    Kept z (State.bankStep s o) := by
  unfold State.bankStep
  repeat' first | with_reducible first | assumption | apply kept_switchBank | apply kept_modOut | apply kept_planFade | apply kept_foldl | apply kept_foldl_snd | apply kept_foldl_fst | apply kept_foldl_snd2 | apply kept_ite | intro _ | extract_lets | with_reducible refine kept_some (by assumption) ?_ | dsimp -zeta only | split | dsimp -zeta +zetaDelta only

theorem kept_lipMeasure {z s : State} (h : Kept z s) (f : Nat) (p : Nat) (ns : Rat) :
    Kept z (State.lipMeasure s f p ns) := by
  unfold State.lipMeasure
  repeat' first | with_reducible first | assumption | apply kept_each | apply kept_modOut | apply kept_foldl | apply kept_foldl_snd | apply kept_foldl_fst | apply kept_foldl_snd2 | apply kept_ite | intro _ | extract_lets | with_reducible refine kept_some (by assumption) ?_ | dsimp -zeta only | split | dsimp -zeta +zetaDelta only

theorem kept_restartAudio {z s : State} (h : Kept z s) :
    Kept z (State.restartAudio s) := by
  unfold State.restartAudio
  repeat' first | with_reducible first | assumption | apply kept_each | apply kept_put | apply kept_modAudio | apply kept_modStream | apply kept_foldl | apply kept_foldl_snd | apply kept_foldl_fst | apply kept_foldl_snd2 | apply kept_ite | intro _ | extract_lets | with_reducible refine kept_some (by assumption) ?_ | dsimp -zeta only | split | dsimp -zeta +zetaDelta only

theorem kept_quiesceAudio {z s : State} (h : Kept z s) (f : Nat) :
    Kept z (State.quiesceAudio s f) := by
  unfold State.quiesceAudio
  repeat' first | with_reducible first | assumption | apply kept_each | apply kept_modOut | apply kept_switchBank | apply kept_foldl | apply kept_foldl_snd | apply kept_foldl_fst | apply kept_foldl_snd2 | apply kept_ite | intro _ | extract_lets | with_reducible refine kept_some (by assumption) ?_ | dsimp -zeta only | split | dsimp -zeta +zetaDelta only

end Sys2Proof.Machine
end

