-- ==== Sys2Proof/Laws/KeptStrongroomOps.lean ====
section
/-!
SUPPORT. The operations of Machine/StrongroomOps.lean keep the relation of Laws/Kept.lean.
-/
namespace Sys2Proof.Machine
open Sys2Proof Safety

theorem kept_strongDone {z s : State} (h : Kept z s) (status : Nat) (data : List Byte) :
    Kept z (State.strongDone s status data) := by
  unfold State.strongDone
  repeat' first | with_reducible first | assumption | apply kept_each | apply kept_wr | apply kept_put | apply kept_putBytes | apply kept_raise | apply kept_complete | apply kept_foldl | apply kept_foldl_snd | apply kept_foldl_fst | apply kept_foldl_snd2 | apply kept_ite | intro _ | extract_lets | with_reducible refine kept_some (by assumption) ?_ | dsimp -zeta only | split | dsimp -zeta +zetaDelta only

theorem kept_showIdentity {z s : State} (h : Kept z s) :
    Kept z (State.showIdentity s) := by
  unfold State.showIdentity
  repeat' first | with_reducible first | assumption | apply kept_putBytes | apply kept_foldl | apply kept_foldl_snd | apply kept_foldl_fst | apply kept_foldl_snd2 | apply kept_ite | intro _ | extract_lets | with_reducible refine kept_some (by assumption) ?_ | dsimp -zeta only | split | dsimp -zeta +zetaDelta only

theorem kept_showStrong {z s : State} (h : Kept z s) :
    Kept z (State.showStrong s) := by
  unfold State.showStrong
  repeat' first | with_reducible first | assumption | apply kept_put | apply kept_putBytes | apply kept_wr | apply kept_each | apply kept_foldl | apply kept_foldl_snd | apply kept_foldl_fst | apply kept_foldl_snd2 | apply kept_ite | intro _ | extract_lets | with_reducible refine kept_some (by assumption) ?_ | dsimp -zeta only | split | dsimp -zeta +zetaDelta only

theorem kept_extend {z s : State} (h : Kept z s) (i : Nat) (v : List Byte) :
    Kept z (State.extend s i v) := by
  unfold State.extend
  repeat' first | with_reducible first | assumption | apply kept_putBytes | apply kept_foldl | apply kept_foldl_snd | apply kept_foldl_fst | apply kept_foldl_snd2 | apply kept_ite | intro _ | extract_lets | with_reducible refine kept_some (by assumption) ?_ | dsimp -zeta only | split | dsimp -zeta +zetaDelta only

theorem kept_event {z s : State} (h : Kept z s) (code : Nat) (detail : Nat) :
    Kept z (State.event s code detail) := by
  unfold State.event
  repeat' first | with_reducible first | assumption | apply kept_extend | apply kept_foldl | apply kept_foldl_snd | apply kept_foldl_fst | apply kept_foldl_snd2 | apply kept_ite | intro _ | extract_lets | with_reducible refine kept_some (by assumption) ?_ | dsimp -zeta only | split | dsimp -zeta +zetaDelta only

theorem kept_zeroRoot {z s : State} (h : Kept z s) (cause : Nat) :
    Kept z (State.zeroRoot s cause) := by
  unfold State.zeroRoot
  repeat' first | with_reducible first | assumption | apply kept_modStrong | apply kept_foldl | apply kept_foldl_snd | apply kept_foldl_fst | apply kept_foldl_snd2 | exact fuses_refl _ | apply kept_ite | intro _ | extract_lets | with_reducible refine kept_some (by assumption) ?_ | dsimp -zeta only | split | dsimp -zeta +zetaDelta only | exact fuses_refl _

theorem kept_draw {z s : State} (h : Kept z s) (n : Nat) :
    Kept z (State.draw s n).2 := by
  unfold State.draw
  repeat' first | with_reducible first | assumption | apply kept_drawn | apply kept_foldl | apply kept_foldl_snd | apply kept_foldl_fst | apply kept_foldl_snd2 | apply kept_ite | intro _ | extract_lets | with_reducible refine kept_some (by assumption) ?_ | dsimp -zeta only | split | dsimp -zeta +zetaDelta only

theorem kept_drawScalar {z s : State} (h : Kept z s) :
    Kept z (State.drawScalar s).2 := by
  unfold State.drawScalar
  repeat' first | with_reducible first | assumption | apply kept_draw | apply kept_foldl | apply kept_foldl_snd | apply kept_foldl_fst | apply kept_foldl_snd2 | apply kept_ite | intro _ | extract_lets | with_reducible refine kept_snd (by assumption) ?_ | with_reducible refine kept_snd2 (by assumption) ?_ | with_reducible refine kept_snd3 (by assumption) ?_ | with_reducible refine kept_some (by assumption) ?_ | dsimp -zeta only | split | dsimp -zeta +zetaDelta only

theorem kept_writeTag {z s : State} (h : Kept z s) (t : ListTag) :
    Kept z (State.writeTag s t) := by
  unfold State.writeTag
  repeat' first | with_reducible first | assumption | apply kept_modStrong | apply kept_foldl | apply kept_foldl_snd | apply kept_foldl_fst | apply kept_foldl_snd2 | exact fuses_refl _ | apply kept_ite | intro _ | extract_lets | with_reducible refine kept_some (by assumption) ?_ | dsimp -zeta only | split | dsimp -zeta +zetaDelta only | exact fuses_refl _

theorem kept_retag {z s : State} (h : Kept z s) :
    Kept z (State.retag s) := by
  unfold State.retag
  repeat' first | with_reducible first | assumption | apply kept_writeTag | apply kept_foldl | apply kept_foldl_snd | apply kept_foldl_fst | apply kept_foldl_snd2 | apply kept_ite | intro _ | extract_lets | with_reducible refine kept_some (by assumption) ?_ | dsimp -zeta only | split | dsimp -zeta +zetaDelta only

theorem kept_storePage {z s : State} (h : Kept z s) (page : Nat) (bs : List Byte) :
    Kept z (State.storePage s page bs) := by
  unfold State.storePage
  repeat' first | with_reducible first | assumption | apply kept_each | apply kept_setAttic | apply kept_foldl | apply kept_foldl_snd | apply kept_foldl_fst | apply kept_foldl_snd2 | apply kept_ite | intro _ | extract_lets | with_reducible refine kept_some (by assumption) ?_ | dsimp -zeta only | split | dsimp -zeta +zetaDelta only

theorem kept_saveGens {z s : State} (h : Kept z s) :
    Kept z (State.saveGens s) := by
  unfold State.saveGens
  repeat' first | with_reducible first | assumption | apply kept_modStrong | apply kept_foldl | apply kept_foldl_snd | apply kept_foldl_fst | apply kept_foldl_snd2 | exact fuses_refl _ | apply kept_ite | intro _ | extract_lets | with_reducible refine kept_some (by assumption) ?_ | dsimp -zeta only | split | dsimp -zeta +zetaDelta only | exact fuses_refl _

theorem kept_setBank {z s : State} (h : Kept z s) (b : SlotBank) :
    Kept z (State.setBank s b) := by
  unfold State.setBank
  repeat' first | with_reducible first | assumption | apply kept_modStrong | apply kept_foldl | apply kept_foldl_snd | apply kept_foldl_fst | apply kept_foldl_snd2 | exact fuses_refl _ | apply kept_ite | intro _ | extract_lets | with_reducible refine kept_some (by assumption) ?_ | dsimp -zeta only | split | dsimp -zeta +zetaDelta only | exact fuses_refl _

theorem kept_fillSlot {z s : State} (h : Kept z s) (n : Nat) (k : KeySlot) :
    Kept z (State.fillSlot s n k) := by
  unfold State.fillSlot
  repeat' first | with_reducible first | assumption | apply kept_setBank | apply kept_foldl | apply kept_foldl_snd | apply kept_foldl_fst | apply kept_foldl_snd2 | apply kept_ite | intro _ | extract_lets | with_reducible refine kept_some (by assumption) ?_ | dsimp -zeta only | split | dsimp -zeta +zetaDelta only

theorem kept_deriveFromRoot {z s : State} (h : Kept z s) (n : Nat) (kind : Nat) (label : List Byte) :
    Kept z (State.deriveFromRoot s n kind label) := by
  unfold State.deriveFromRoot
  repeat' first | with_reducible first | assumption | apply kept_fillSlot | apply kept_foldl | apply kept_foldl_snd | apply kept_foldl_fst | apply kept_foldl_snd2 | apply kept_ite | intro _ | extract_lets | with_reducible refine kept_some (by assumption) ?_ | dsimp -zeta only | split | dsimp -zeta +zetaDelta only

theorem kept_deriveFixed {z s : State} (h : Kept z s) :
    Kept z (State.deriveFixed s) := by
  unfold State.deriveFixed
  repeat' first | with_reducible first | assumption | apply kept_deriveFromRoot | apply kept_foldl | apply kept_foldl_snd | apply kept_foldl_fst | apply kept_foldl_snd2 | apply kept_ite | intro _ | extract_lets | with_reducible refine kept_some (by assumption) ?_ | dsimp -zeta only | split | dsimp -zeta +zetaDelta only

theorem kept_newRoot {z s : State} (h : Kept z s) :
    Kept z (State.newRoot s) := by
  unfold State.newRoot
  repeat' first | with_reducible first | assumption | apply kept_modStrong | apply kept_raise | apply kept_saveGens | apply kept_deriveFixed | apply kept_draw | apply kept_foldl | apply kept_foldl_snd | apply kept_foldl_fst | apply kept_foldl_snd2 | exact fuses_refl _ | apply kept_ite | intro _ | extract_lets | with_reducible refine kept_snd (by assumption) ?_ | with_reducible refine kept_snd2 (by assumption) ?_ | with_reducible refine kept_snd3 (by assumption) ?_ | with_reducible refine kept_some (by assumption) ?_ | dsimp -zeta only | split | dsimp -zeta +zetaDelta only | exact fuses_refl _

theorem kept_modFuses {z s : State} (h : Kept z s) (f : Fuses → Fuses) (hf : FusesGrow s.strong.fuses (f s.strong.fuses)) :
    Kept z (s.modFuses f) := kept_modStrong h _ hf

theorem kept_onReal {z s : State} (h : Kept z s) {f : State → State} (hf : ∀ t, Kept z t → Kept z (f t)) :
    Kept z (State.onReal s f) := by
  unfold State.onReal
  repeat' first | with_reducible first | assumption | apply hf | apply kept_modStrong | apply kept_foldl | apply kept_foldl_snd | apply kept_foldl_fst | apply kept_foldl_snd2 | exact fuses_refl _ | apply kept_ite | intro _ | extract_lets | with_reducible refine kept_some (by assumption) ?_ | dsimp -zeta only | split | dsimp -zeta +zetaDelta only | exact fuses_refl _

end Sys2Proof.Machine
end

