-- ==== Sys2Proof/Laws/KeptCellarOps.lean ====
section
/-!
SUPPORT. The operations of Machine/CellarOps.lean keep the relation of Laws/Kept.lean.
-/
namespace Sys2Proof.Machine
open Sys2Proof Safety

theorem kept_signMode {z s : State} (h : Kept z s) (m : Nat) :
    Kept z (State.signMode s m) := by
  unfold State.signMode
  repeat' first | with_reducible first | assumption | apply kept_raise | apply kept_modCellar | apply kept_foldl | apply kept_foldl_snd | apply kept_foldl_fst | apply kept_foldl_snd2 | apply kept_ite | intro _ | extract_lets | with_reducible refine kept_some (by assumption) ?_ | dsimp -zeta only | split | dsimp -zeta +zetaDelta only

theorem kept_showSigMode {z s : State} (h : Kept z s) :
    Kept z (State.showSigMode s) := by
  unfold State.showSigMode
  repeat' first | with_reducible first | assumption | apply kept_signMode | apply kept_put | apply kept_foldl | apply kept_foldl_snd | apply kept_foldl_fst | apply kept_foldl_snd2 | apply kept_ite | intro _ | extract_lets | with_reducible refine kept_some (by assumption) ?_ | dsimp -zeta only | split | dsimp -zeta +zetaDelta only

theorem kept_showCellar {z s : State} (h : Kept z s) :
    Kept z (State.showCellar s) := by
  unfold State.showCellar
  repeat' first | with_reducible first | assumption | apply kept_put | apply kept_each | apply kept_wr | apply kept_foldl | apply kept_foldl_snd | apply kept_foldl_fst | apply kept_foldl_snd2 | apply kept_ite | intro _ | extract_lets | with_reducible refine kept_some (by assumption) ?_ | dsimp -zeta only | split | dsimp -zeta +zetaDelta only

theorem kept_setCelMode {z s : State} (h : Kept z s) (m : CelMode) :
    Kept z (State.setCelMode s m) := by
  unfold State.setCelMode
  repeat' first | with_reducible first | assumption | apply kept_modCellar | apply kept_setFault | apply kept_raise | apply kept_put | apply kept_foldl | apply kept_foldl_snd | apply kept_foldl_fst | apply kept_foldl_snd2 | apply kept_ite | intro _ | extract_lets | with_reducible refine kept_some (by assumption) ?_ | dsimp -zeta only | split | dsimp -zeta +zetaDelta only

theorem kept_modEntry {z s : State} (h : Kept z s) (n : Nat) (f : CelEntry → CelEntry) :
    Kept z (State.modEntry s n f) := by
  unfold State.modEntry
  repeat' first | with_reducible first | assumption | apply kept_modCellar | apply kept_foldl | apply kept_foldl_snd | apply kept_foldl_fst | apply kept_foldl_snd2 | apply kept_ite | intro _ | extract_lets | with_reducible refine kept_some (by assumption) ?_ | dsimp -zeta only | split | dsimp -zeta +zetaDelta only

theorem kept_noteMissed {z s : State} (h : Kept z s) (n : Nat) (cause : Nat) :
    Kept z (State.noteMissed s n cause) := by
  unfold State.noteMissed
  repeat' first | with_reducible first | assumption | apply kept_modEntry | apply kept_foldl | apply kept_foldl_snd | apply kept_foldl_fst | apply kept_foldl_snd2 | apply kept_ite | intro _ | extract_lets | with_reducible refine kept_some (by assumption) ?_ | dsimp -zeta only | split | dsimp -zeta +zetaDelta only

theorem kept_recordIn {z s : State} (h : Kept z s) (r : CelRecord) (g : CelSeg) :
    Kept z (State.recordIn s r g) := by
  unfold State.recordIn
  repeat' first | with_reducible first | assumption | apply kept_modCellar | apply kept_bump | apply kept_bumpBy | apply kept_foldl | apply kept_foldl_snd | apply kept_foldl_fst | apply kept_foldl_snd2 | apply kept_ite | intro _ | extract_lets | with_reducible refine kept_some (by assumption) ?_ | dsimp -zeta only | split | dsimp -zeta +zetaDelta only

theorem kept_endSeg {z s : State} (h : Kept z s) (n : Nat) (cause : Nat) :
    Kept z (State.endSeg s n cause) := by
  unfold State.endSeg
  repeat' first | with_reducible first | assumption | apply kept_modEntry | apply kept_foldl | apply kept_foldl_snd | apply kept_foldl_fst | apply kept_foldl_snd2 | apply kept_ite | intro _ | extract_lets | with_reducible refine kept_some (by assumption) ?_ | dsimp -zeta only | split | dsimp -zeta +zetaDelta only

theorem kept_modDrive {z s : State} (h : Kept z s) (f : CelDrive → CelDrive) :
    Kept z (State.modDrive s f) := by
  unfold State.modDrive
  repeat' first | with_reducible first | assumption | apply kept_modCellar | apply kept_foldl | apply kept_foldl_snd | apply kept_foldl_fst | apply kept_foldl_snd2 | apply kept_ite | intro _ | extract_lets | with_reducible refine kept_some (by assumption) ?_ | dsimp -zeta only | split | dsimp -zeta +zetaDelta only

theorem kept_setDir {z s : State} (h : Kept z s) (gseq : Nat) (b : List Byte) (written : Bool) :
    Kept z (State.setDir s gseq b written) := by
  unfold State.setDir
  repeat' first | with_reducible first | assumption | apply kept_modCellar | apply kept_foldl | apply kept_foldl_snd | apply kept_foldl_fst | apply kept_foldl_snd2 | apply kept_ite | intro _ | extract_lets | with_reducible refine kept_some (by assumption) ?_ | dsimp -zeta only | split | dsimp -zeta +zetaDelta only

theorem kept_nvmeIssue {z s : State} (h : Kept z s) (t : CelTag) :
    Kept z (State.nvmeIssue s t) := by
  unfold State.nvmeIssue
  repeat' first | with_reducible first | assumption | apply kept_modCellar | apply kept_foldl | apply kept_foldl_snd | apply kept_foldl_fst | apply kept_foldl_snd2 | apply kept_ite | intro _ | extract_lets | with_reducible refine kept_some (by assumption) ?_ | dsimp -zeta only | split | dsimp -zeta +zetaDelta only

theorem kept_driveBytes {z s : State} (h : Kept z s) (cb : Nat) (off : Nat) (bs : List Byte) :
    Kept z (State.driveBytes s cb off bs) := by
  unfold State.driveBytes
  repeat' first | with_reducible first | assumption | apply kept_each | apply kept_emit | apply kept_foldl | apply kept_foldl_snd | apply kept_foldl_fst | apply kept_foldl_snd2 | apply kept_ite | intro _ | extract_lets | with_reducible refine kept_some (by assumption) ?_ | dsimp -zeta only | split | dsimp -zeta +zetaDelta only

theorem kept_writeSuperblock {z s : State} (h : Kept z s) :
    Kept z (State.writeSuperblock s) := by
  unfold State.writeSuperblock
  repeat' first | with_reducible first | assumption | apply kept_emit | apply kept_modDrive | apply kept_nvmeIssue | apply kept_driveBytes | apply kept_modCellar | apply kept_foldl | apply kept_foldl_snd | apply kept_foldl_fst | apply kept_foldl_snd2 | apply kept_ite | intro _ | extract_lets | with_reducible refine kept_some (by assumption) ?_ | dsimp -zeta only | split | dsimp -zeta +zetaDelta only

theorem kept_writeDir {z s : State} (h : Kept z s) (gseq : Nat) :
    Kept z (State.writeDir s gseq) := by
  unfold State.writeDir
  repeat' first | with_reducible first | assumption | apply kept_nvmeIssue | apply kept_driveBytes | apply kept_foldl | apply kept_foldl_snd | apply kept_foldl_fst | apply kept_foldl_snd2 | apply kept_ite | intro _ | extract_lets | with_reducible refine kept_some (by assumption) ?_ | dsimp -zeta only | split | dsimp -zeta +zetaDelta only

theorem kept_reclaim {z s : State} (h : Kept z s) (gseq : Nat) (b : List Byte) :
    Kept z (State.reclaim s gseq b) := by
  unfold State.reclaim
  repeat' first | with_reducible first | assumption | apply kept_setDir | apply kept_modDrive | apply kept_emit | apply kept_writeSuperblock | apply kept_writeDir | apply kept_foldl | apply kept_foldl_snd | apply kept_foldl_fst | apply kept_foldl_snd2 | apply kept_ite | intro _ | extract_lets | with_reducible refine kept_some (by assumption) ?_ | dsimp -zeta only | split | dsimp -zeta +zetaDelta only

theorem kept_allocFrom {z s : State} (h : Kept z s) (d : CelDrive) (ax : Nat) (ax2 : Nat) :
    KeptO z (State.allocFrom s d ax ax2) := by
  induction ax generalizing s ax2 with
  | zero => exact keptO_none
  | succ n ih =>
  unfold State.allocFrom
  repeat' first | with_reducible first | assumption | apply ih | exact keptO_none | apply keptO_some | apply keptO_ite | apply kept_modDrive | apply kept_reclaim | apply kept_allocFrom | apply kept_foldl | apply kept_foldl_snd | apply kept_foldl_fst | apply kept_foldl_snd2 | apply kept_ite | intro _ | extract_lets | with_reducible refine kept_snd (by assumption) ?_ | with_reducible refine kept_snd2 (by assumption) ?_ | with_reducible refine kept_snd3 (by assumption) ?_ | with_reducible refine kept_some (by assumption) ?_ | dsimp -zeta only | split | dsimp -zeta +zetaDelta only

theorem kept_allocExtent {z s : State} (h : Kept z s) :
    KeptO z (State.allocExtent s) := by
  unfold State.allocExtent
  repeat' first | with_reducible first | assumption | exact keptO_none | apply keptO_some | apply keptO_ite | apply kept_allocFrom | apply kept_foldl | apply kept_foldl_snd | apply kept_foldl_fst | apply kept_foldl_snd2 | apply kept_ite | intro _ | extract_lets | with_reducible refine kept_snd (by assumption) ?_ | with_reducible refine kept_snd2 (by assumption) ?_ | with_reducible refine kept_snd3 (by assumption) ?_ | with_reducible refine kept_some (by assumption) ?_ | dsimp -zeta only | split | dsimp -zeta +zetaDelta only

theorem kept_openSeg {z s : State} (h : Kept z s) (n : Nat) (frame : Nat) (preroll : Bool) :
    Kept z (State.openSeg s n frame preroll).2 := by
  unfold State.openSeg
  repeat' first | with_reducible first | assumption | apply kept_modEntry | apply kept_modDrive | apply kept_modCellar | apply kept_allocExtent | apply kept_foldl | apply kept_foldl_snd | apply kept_foldl_fst | apply kept_foldl_snd2 | apply kept_ite | intro _ | extract_lets | with_reducible refine kept_snd (by assumption) ?_ | with_reducible refine kept_snd2 (by assumption) ?_ | with_reducible refine kept_snd3 (by assumption) ?_ | with_reducible refine kept_some (by assumption) ?_ | dsimp -zeta only | split | dsimp -zeta +zetaDelta only

theorem kept_placeRecord {z s : State} (h : Kept z s) (r : CelRecord) (preroll : Bool) :
    Kept z (State.placeRecord s r preroll) := by
  unfold State.placeRecord
  repeat' first | with_reducible first | assumption | apply kept_recordIn | apply kept_modEntry | apply kept_endSeg | apply kept_modCellar | apply kept_openSeg | apply kept_foldl | apply kept_foldl_snd | apply kept_foldl_fst | apply kept_foldl_snd2 | apply kept_ite | intro _ | extract_lets | with_reducible refine kept_snd (by assumption) ?_ | with_reducible refine kept_snd2 (by assumption) ?_ | with_reducible refine kept_snd3 (by assumption) ?_ | with_reducible refine kept_some (by assumption) ?_ | dsimp -zeta only | split | dsimp -zeta +zetaDelta only

theorem kept_toRing {z s : State} (h : Kept z s) (r : CelRecord) :
    Kept z (State.toRing s r) := by
  unfold State.toRing
  repeat' first | with_reducible first | assumption | apply kept_noteMissed | apply kept_memWrite | apply kept_unitUse | apply kept_modCellar | apply kept_placeRecord | apply kept_foldl | apply kept_foldl_snd | apply kept_foldl_fst | apply kept_foldl_snd2 | apply kept_ite | intro _ | extract_lets | with_reducible refine kept_some (by assumption) ?_ | dsimp -zeta only | split | dsimp -zeta +zetaDelta only

theorem kept_drainRing {z ax2 : State} (h : Kept z ax2) (force : Bool) (ax : List CelRecord) :
    Kept z (State.drainRing force ax ax2) := by
  induction ax generalizing ax2 with
  | nil => first | exact h | exact kept_modCellar h _
  | cons hd tl ih =>
  unfold State.drainRing
  repeat' first | with_reducible first | assumption | apply ih | apply kept_modCellar | apply kept_toRing | apply kept_foldl | apply kept_foldl_snd | apply kept_foldl_fst | apply kept_foldl_snd2 | apply kept_ite | intro _ | extract_lets | with_reducible refine kept_some (by assumption) ?_ | dsimp -zeta only | split | dsimp -zeta +zetaDelta only

theorem kept_closeOne {z s : State} (h : Kept z s) (g : CelSeg) (cause : Nat) :
    Kept z (State.closeOne s g cause) := by
  unfold State.closeOne
  repeat' first | with_reducible first | assumption | apply kept_raise | apply kept_bump | apply kept_modDrive | apply kept_showSigMode | apply kept_modCellar | apply kept_put | apply kept_foldl | apply kept_foldl_snd | apply kept_foldl_fst | apply kept_foldl_snd2 | apply kept_ite | intro _ | extract_lets | with_reducible refine kept_some (by assumption) ?_ | dsimp -zeta only | split | dsimp -zeta +zetaDelta only

theorem kept_startRecording {z s : State} (h : Kept z s) (n : Nat) :
    Kept z (State.startRecording s n) := by
  unfold State.startRecording
  repeat' first | with_reducible first | assumption | apply kept_modEntry | apply kept_each | apply kept_placeRecord | apply kept_foldl | apply kept_foldl_snd | apply kept_foldl_fst | apply kept_foldl_snd2 | apply kept_ite | intro _ | extract_lets | with_reducible refine kept_some (by assumption) ?_ | dsimp -zeta only | split | dsimp -zeta +zetaDelta only

theorem kept_retrigger {z s : State} (h : Kept z s) :
    Kept z (State.retrigger s) := by
  unfold State.retrigger
  repeat' first | with_reducible first | assumption | apply kept_showCellar | apply kept_each | apply kept_startRecording | apply kept_modEntry | apply kept_foldl | apply kept_foldl_snd | apply kept_foldl_fst | apply kept_foldl_snd2 | apply kept_ite | intro _ | extract_lets | with_reducible refine kept_some (by assumption) ?_ | dsimp -zeta only | split | dsimp -zeta +zetaDelta only

theorem kept_recovered {z s : State} (h : Kept z s) :
    Kept z (State.recovered s) := by
  unfold State.recovered
  repeat' first | with_reducible first | assumption | apply kept_showCellar | apply kept_retrigger | apply kept_setCelMode | apply kept_writeSuperblock | apply kept_foldl | apply kept_foldl_snd | apply kept_foldl_fst | apply kept_foldl_snd2 | apply kept_ite | intro _ | extract_lets | with_reducible refine kept_some (by assumption) ?_ | dsimp -zeta only | split | dsimp -zeta +zetaDelta only

theorem kept_settleFresh {z s : State} (h : Kept z s) :
    Kept z (State.settleFresh s) := by
  unfold State.settleFresh
  repeat' first | with_reducible first | assumption | apply kept_writeSuperblock | apply kept_modCellar | apply kept_each | apply kept_nvmeIssue | apply kept_driveBytes | apply kept_foldl | apply kept_foldl_snd | apply kept_foldl_fst | apply kept_foldl_snd2 | apply kept_ite | intro _ | extract_lets | with_reducible refine kept_some (by assumption) ?_ | dsimp -zeta only | split | dsimp -zeta +zetaDelta only

theorem kept_writeFooters {z s : State} (h : Kept z s) (ax : Nat) :
    Kept z (State.writeFooters s ax) := by
  induction ax generalizing s  with
  | zero => exact h
  | succ n ih =>
  unfold State.writeFooters
  repeat' first | with_reducible first | assumption | apply ih | apply kept_settleFresh | apply kept_signMode | apply kept_bump | apply kept_driveBytes | apply kept_emit | apply kept_nvmeIssue | apply kept_modCellar | apply kept_modDrive | apply kept_writeDir | apply kept_setDir | apply kept_draw | apply kept_foldl | apply kept_foldl_snd | apply kept_foldl_fst | apply kept_foldl_snd2 | apply kept_ite | intro _ | extract_lets | with_reducible refine kept_snd (by assumption) ?_ | with_reducible refine kept_snd2 (by assumption) ?_ | with_reducible refine kept_snd3 (by assumption) ?_ | with_reducible refine kept_some (by assumption) ?_ | dsimp -zeta only | split | dsimp -zeta +zetaDelta only

theorem kept_settleFooter {z s : State} (h : Kept z s) (mode : CelClose → Nat) :
    Kept z (State.settleFooter s mode) := by
  unfold State.settleFooter
  repeat' first | with_reducible first | assumption | apply kept_modCellar | apply kept_showCellar | apply kept_recovered | apply kept_writeFooters | apply kept_foldl | apply kept_foldl_snd | apply kept_foldl_fst | apply kept_foldl_snd2 | apply kept_ite | intro _ | extract_lets | with_reducible refine kept_some (by assumption) ?_ | dsimp -zeta only | split | dsimp -zeta +zetaDelta only

theorem kept_loadFooter {z s : State} (h : Kept z s) :
    Kept z (State.loadFooter s) := by
  unfold State.loadFooter
  repeat' first | with_reducible first | assumption | apply kept_modCellar | apply kept_settleFooter | apply kept_foldl | apply kept_foldl_snd | apply kept_foldl_fst | apply kept_foldl_snd2 | apply kept_ite | intro _ | extract_lets | with_reducible refine kept_some (by assumption) ?_ | dsimp -zeta only | split | dsimp -zeta +zetaDelta only

theorem kept_beginHost {z s : State} (h : Kept z s) (w : EngineWait) :
    Kept z (State.beginHost s w) := by
  unfold State.beginHost
  repeat' first | with_reducible first | assumption | apply kept_modStrong | apply kept_strongDone | apply kept_drawScalar | apply kept_foldl | apply kept_foldl_snd | apply kept_foldl_fst | apply kept_foldl_snd2 | exact fuses_refl _ | apply kept_ite | intro _ | extract_lets | with_reducible refine kept_snd (by assumption) ?_ | with_reducible refine kept_snd2 (by assumption) ?_ | with_reducible refine kept_snd3 (by assumption) ?_ | with_reducible refine kept_some (by assumption) ?_ | dsimp -zeta only | split | dsimp -zeta +zetaDelta only | exact fuses_refl _

theorem kept_engineNext_go {z ax2 : State} (h : Kept z ax2) (ax : Nat) :
    Kept z (State.engineNext.go ax ax2) := by
  induction ax generalizing ax2  with
  | zero => exact h
  | succ n ih =>
  unfold State.engineNext.go
  repeat' first | with_reducible first | assumption | apply ih | apply kept_loadFooter | apply kept_beginHost | apply kept_modStrong | apply kept_foldl | apply kept_foldl_snd | apply kept_foldl_fst | apply kept_foldl_snd2 | exact fuses_refl _ | apply kept_ite | intro _ | extract_lets | with_reducible refine kept_some (by assumption) ?_ | dsimp -zeta only | split | dsimp -zeta +zetaDelta only | exact fuses_refl _

theorem kept_engineNext {z s : State} (h : Kept z s) :
    Kept z (State.engineNext s) := by
  unfold State.engineNext
  repeat' first | with_reducible first | assumption | apply kept_engineNext_go | apply kept_foldl | apply kept_foldl_snd | apply kept_foldl_fst | apply kept_foldl_snd2 | apply kept_ite | intro _ | extract_lets | with_reducible refine kept_some (by assumption) ?_ | dsimp -zeta only | split | dsimp -zeta +zetaDelta only

theorem kept_closeEnded {z s : State} (h : Kept z s) (force : optParam Bool Bool.false) :
    Kept z (State.closeEnded s force) := by
  unfold State.closeEnded
  repeat' first | with_reducible first | assumption | apply kept_each | apply kept_modEntry | apply kept_closeOne | apply kept_engineNext | apply kept_showCellar | apply kept_writeFooters | apply kept_foldl | apply kept_foldl_snd | apply kept_foldl_fst | apply kept_foldl_snd2 | apply kept_ite | intro _ | extract_lets | with_reducible refine kept_some (by assumption) ?_ | dsimp -zeta only | split | dsimp -zeta +zetaDelta only

theorem kept_writeRecords {z s : State} (h : Kept z s) (rs : List CelRecord) :
    Kept z (State.writeRecords s rs) := by
  unfold State.writeRecords
  repeat' first | with_reducible first | assumption | apply kept_each | apply kept_driveBytes | apply kept_modCellar | apply kept_nvmeIssue | apply kept_foldl | apply kept_foldl_snd | apply kept_foldl_fst | apply kept_foldl_snd2 | apply kept_ite | intro _ | extract_lets | with_reducible refine kept_some (by assumption) ?_ | dsimp -zeta only | split | dsimp -zeta +zetaDelta only

theorem kept_writePending {z s : State} (h : Kept z s) :
    Kept z (State.writePending s) := by
  unfold State.writePending
  repeat' first | with_reducible first | assumption | apply kept_writeRecords | apply kept_settleFresh | apply kept_foldl | apply kept_foldl_snd | apply kept_foldl_fst | apply kept_foldl_snd2 | apply kept_ite | intro _ | extract_lets | with_reducible refine kept_some (by assumption) ?_ | dsimp -zeta only | split | dsimp -zeta +zetaDelta only

theorem kept_closeAll {z s : State} (h : Kept z s) (cause : Nat) :
    Kept z (State.closeAll s cause) := by
  unfold State.closeAll
  repeat' first | with_reducible first | assumption | apply kept_drainRing | apply kept_each | apply kept_modEntry | apply kept_endSeg | apply kept_closeEnded | apply kept_writePending | apply kept_foldl | apply kept_foldl_snd | apply kept_foldl_fst | apply kept_foldl_snd2 | apply kept_ite | intro _ | extract_lets | with_reducible refine kept_some (by assumption) ?_ | dsimp -zeta only | split | dsimp -zeta +zetaDelta only

theorem kept_appendRecord {z s : State} (h : Kept z s) (r : CelRecord) :
    Kept z (State.appendRecord s r) := by
  unfold State.appendRecord
  repeat' first | with_reducible first | assumption | apply kept_noteMissed | apply kept_toRing | apply kept_modCellar | apply kept_foldl | apply kept_foldl_snd | apply kept_foldl_fst | apply kept_foldl_snd2 | apply kept_ite | intro _ | extract_lets | with_reducible refine kept_some (by assumption) ?_ | dsimp -zeta only | split | dsimp -zeta +zetaDelta only

theorem kept_markRecord {z s : State} (h : Kept z s) (n : Nat) (code : Nat) (source : Nat) (detail : Nat) :
    Kept z (State.markRecord s n code source detail) := by
  unfold State.markRecord
  repeat' first | with_reducible first | assumption | apply kept_appendRecord | apply kept_foldl | apply kept_foldl_snd | apply kept_foldl_fst | apply kept_foldl_snd2 | apply kept_ite | intro _ | extract_lets | with_reducible refine kept_some (by assumption) ?_ | dsimp -zeta only | split | dsimp -zeta +zetaDelta only

theorem kept_markIncident {z s : State} (h : Kept z s) :
    Kept z (State.markIncident s) := by
  unfold State.markIncident
  repeat' first | with_reducible first | assumption | apply kept_each | apply kept_modEntry | apply kept_foldl | apply kept_foldl_snd | apply kept_foldl_fst | apply kept_foldl_snd2 | apply kept_ite | intro _ | extract_lets | with_reducible refine kept_some (by assumption) ?_ | dsimp -zeta only | split | dsimp -zeta +zetaDelta only

theorem kept_incident {z s : State} (h : Kept z s) (source : Nat) (detail : Nat) :
    Kept z (State.incident s source detail) := by
  unfold State.incident
  repeat' first | with_reducible first | assumption | apply kept_raiseIf | apply kept_retrigger | apply kept_put | apply kept_each | apply kept_markRecord | apply kept_showCellar | apply kept_markIncident | apply kept_foldl | apply kept_foldl_snd | apply kept_foldl_fst | apply kept_foldl_snd2 | apply kept_ite | intro _ | extract_lets | with_reducible refine kept_some (by assumption) ?_ | dsimp -zeta only | split | dsimp -zeta +zetaDelta only

theorem kept_incidentEvent {z s : State} (h : Kept z s) (bit : Nat) (source : Nat) (detail : Nat) :
    Kept z (State.incidentEvent s bit source detail) := by
  unfold State.incidentEvent
  repeat' first | with_reducible first | assumption | apply kept_incident | apply kept_foldl | apply kept_foldl_snd | apply kept_foldl_fst | apply kept_foldl_snd2 | apply kept_ite | intro _ | extract_lets | with_reducible refine kept_some (by assumption) ?_ | dsimp -zeta only | split | dsimp -zeta +zetaDelta only

theorem kept_emptyPreroll {z s : State} (h : Kept z s) :
    Kept z (State.emptyPreroll s) := by
  unfold State.emptyPreroll
  repeat' first | with_reducible first | assumption | apply kept_modCellar | apply kept_foldl | apply kept_foldl_snd | apply kept_foldl_fst | apply kept_foldl_snd2 | apply kept_ite | intro _ | extract_lets | with_reducible refine kept_some (by assumption) ?_ | dsimp -zeta only | split | dsimp -zeta +zetaDelta only

theorem kept_cellarMark {z s : State} (h : Kept z s) (code : Nat) (param : Nat) :
    Kept z (State.cellarMark s code param) := by
  unfold State.cellarMark
  repeat' first | with_reducible first | assumption | apply kept_each | apply kept_markRecord | apply kept_raiseIf | apply kept_markIncident | apply kept_retrigger | apply kept_put | apply kept_showCellar | apply kept_foldl | apply kept_foldl_snd | apply kept_foldl_fst | apply kept_foldl_snd2 | apply kept_ite | intro _ | extract_lets | with_reducible refine kept_some (by assumption) ?_ | dsimp -zeta only | split | dsimp -zeta +zetaDelta only

theorem kept_cellarBoundary {z s : State} (h : Kept z s) :
    Kept z (State.cellarBoundary s) := by
  unfold State.cellarBoundary
  repeat' first | with_reducible first | assumption | apply kept_closeEnded | apply kept_showCellar | apply kept_each | apply kept_modEntry | apply kept_endSeg | apply kept_appendRecord | apply kept_foldl | apply kept_foldl_snd | apply kept_foldl_fst | apply kept_foldl_snd2 | apply kept_ite | intro _ | extract_lets | with_reducible refine kept_some (by assumption) ?_ | dsimp -zeta only | split | dsimp -zeta +zetaDelta only

theorem kept_gapRecord {z s : State} (h : Kept z s) (n : Nat) (cause : Nat) (missed : Nat) (frame : Nat) :
    Kept z (State.gapRecord s n cause missed frame) := by
  unfold State.gapRecord
  repeat' first | with_reducible first | assumption | apply kept_appendRecord | apply kept_foldl | apply kept_foldl_snd | apply kept_foldl_fst | apply kept_foldl_snd2 | apply kept_ite | intro _ | extract_lets | with_reducible refine kept_some (by assumption) ?_ | dsimp -zeta only | split | dsimp -zeta +zetaDelta only

theorem kept_flushMissed {z s : State} (h : Kept z s) (n : Nat) :
    Kept z (State.flushMissed s n) := by
  unfold State.flushMissed
  repeat' first | with_reducible first | assumption | apply kept_modEntry | apply kept_gapRecord | apply kept_foldl | apply kept_foldl_snd | apply kept_foldl_fst | apply kept_foldl_snd2 | apply kept_ite | intro _ | extract_lets | with_reducible refine kept_some (by assumption) ?_ | dsimp -zeta only | split | dsimp -zeta +zetaDelta only

theorem kept_missFrame {z s : State} (h : Kept z s) (n : Nat) (cause : Nat) :
    Kept z (State.missFrame s n cause) := by
  unfold State.missFrame
  repeat' first | with_reducible first | assumption | apply kept_noteMissed | apply kept_flushMissed | apply kept_foldl | apply kept_foldl_snd | apply kept_foldl_fst | apply kept_foldl_snd2 | apply kept_ite | intro _ | extract_lets | with_reducible refine kept_some (by assumption) ?_ | dsimp -zeta only | split | dsimp -zeta +zetaDelta only

theorem kept_queueCellarJobs {z s : State} (h : Kept z s) (stream : Nat) :
    Kept z (State.queueCellarJobs s stream) := by
  unfold State.queueCellarJobs
  repeat' first | with_reducible first | assumption | apply kept_each | apply kept_missFrame | apply kept_modCellar | apply kept_modEntry | apply kept_foldl | apply kept_foldl_snd | apply kept_foldl_fst | apply kept_foldl_snd2 | apply kept_ite | intro _ | extract_lets | with_reducible refine kept_some (by assumption) ?_ | dsimp -zeta only | split | dsimp -zeta +zetaDelta only

end Sys2Proof.Machine
end

