-- ==== Sys2Proof/Laws/KeptLinkOps.lean ====
section
/-!
SUPPORT. The operations of Machine/LinkOps.lean keep the relation of Laws/Kept.lean.
-/
namespace Sys2Proof.Machine
open Sys2Proof Safety

theorem kept_reevaluate {z s : State} (h : Kept z s) :
    Kept z (State.reevaluate s) := by
  unfold State.reevaluate
  repeat' first | with_reducible first | assumption | apply kept_each | apply kept_modPort | apply kept_foldl | apply kept_foldl_snd | apply kept_foldl_fst | apply kept_foldl_snd2 | apply kept_ite | intro _ | extract_lets | with_reducible refine kept_some (by assumption) ?_ | dsimp -zeta only | split | dsimp -zeta +zetaDelta only

theorem kept_checkList {z s : State} (h : Kept z s) :
    Kept z (State.checkList s) := by
  unfold State.checkList
  repeat' first | with_reducible first | assumption | apply kept_put | apply kept_reevaluate | apply kept_raiseIf | apply kept_foldl | apply kept_foldl_snd | apply kept_foldl_fst | apply kept_foldl_snd2 | apply kept_ite | intro _ | extract_lets | with_reducible refine kept_some (by assumption) ?_ | dsimp -zeta only | split | dsimp -zeta +zetaDelta only

theorem kept_relock {z s : State} (h : Kept z s) (n : Nat) :
    Kept z (State.relock s n) := by
  unfold State.relock
  repeat' first | with_reducible first | assumption | apply kept_each | apply kept_modPort | apply kept_put | apply kept_foldl | apply kept_foldl_snd | apply kept_foldl_fst | apply kept_foldl_snd2 | apply kept_ite | intro _ | extract_lets | with_reducible refine kept_some (by assumption) ?_ | dsimp -zeta only | split | dsimp -zeta +zetaDelta only

theorem kept_discardEndpoint {z s : State} (h : Kept z s) (n : Nat) :
    Kept z (State.discardEndpoint s n) := by
  unfold State.discardEndpoint
  repeat' first | with_reducible first | assumption | apply kept_putBytes | apply kept_each | apply kept_put | apply kept_modPort | apply kept_relock | apply kept_foldl | apply kept_foldl_snd | apply kept_foldl_fst | apply kept_foldl_snd2 | apply kept_ite | intro _ | extract_lets | with_reducible refine kept_some (by assumption) ?_ | dsimp -zeta only | split | dsimp -zeta +zetaDelta only

theorem kept_sendPacket {z s : State} (h : Kept z s) (n : Nat) (typ : Nat) (vc : Nat) (payload : List Byte) :
    Kept z (State.sendPacket s n typ vc payload) := by
  unfold State.sendPacket
  repeat' first | with_reducible first | assumption | apply kept_modPort | apply kept_emit | apply kept_foldl | apply kept_foldl_snd | apply kept_foldl_fst | apply kept_foldl_snd2 | apply kept_ite | intro _ | extract_lets | with_reducible refine kept_some (by assumption) ?_ | dsimp -zeta only | split | dsimp -zeta +zetaDelta only

theorem kept_sendWaiting {z s : State} (h : Kept z s) (n : Nat) :
    Kept z (State.sendWaiting s n) := by
  unfold State.sendWaiting
  repeat' first | with_reducible first | assumption | apply kept_modPort | apply kept_sendPacket | apply kept_foldl | apply kept_foldl_snd | apply kept_foldl_fst | apply kept_foldl_snd2 | apply kept_ite | intro _ | extract_lets | with_reducible refine kept_some (by assumption) ?_ | dsimp -zeta only | split | dsimp -zeta +zetaDelta only

theorem kept_ctrlRequest {z s : State} (h : Kept z s) (n : Nat) (host : Bool) (opcode : Nat) (vc : Nat) (data : List Byte) :
    Kept z (State.ctrlRequest s n host opcode vc data) := by
  unfold State.ctrlRequest
  repeat' first | with_reducible first | assumption | apply kept_sendWaiting | apply kept_modPort | apply kept_foldl | apply kept_foldl_snd | apply kept_foldl_fst | apply kept_foldl_snd2 | apply kept_ite | intro _ | extract_lets | with_reducible refine kept_some (by assumption) ?_ | dsimp -zeta only | split | dsimp -zeta +zetaDelta only

theorem kept_holdRefused {z s : State} (h : Kept z s) (f : Nat) :
    Kept z (State.holdRefused s f) := by
  unfold State.holdRefused
  repeat' first | with_reducible first | assumption | apply kept_each | apply kept_modPort | apply kept_ctrlRequest | apply kept_raise | apply kept_modFolio | apply kept_foldl | apply kept_foldl_snd | apply kept_foldl_fst | apply kept_foldl_snd2 | apply kept_ite | intro _ | extract_lets | with_reducible refine kept_some (by assumption) ?_ | dsimp -zeta only | split | dsimp -zeta +zetaDelta only

theorem kept_displayReply {z s : State} (h : Kept z s) (n : Nat) (msgId : Nat) (reply : Nat) :
    Kept z (State.displayReply s n msgId reply) := by
  unfold State.displayReply
  repeat' first | with_reducible first | assumption | apply kept_modPort | apply kept_raise | apply kept_ctrlRequest | apply kept_holdRefused | apply kept_foldl | apply kept_foldl_snd | apply kept_foldl_fst | apply kept_foldl_snd2 | apply kept_ite | intro _ | extract_lets | with_reducible refine kept_some (by assumption) ?_ | dsimp -zeta only | split | dsimp -zeta +zetaDelta only

theorem kept_ctrlComplete {z s : State} (h : Kept z s) (n : Nat) (status : Nat) :
    Kept z (State.ctrlComplete s n status) := by
  unfold State.ctrlComplete
  repeat' first | with_reducible first | assumption | apply kept_raise | apply kept_complete | apply kept_foldl | apply kept_foldl_snd | apply kept_foldl_fst | apply kept_foldl_snd2 | apply kept_ite | intro _ | extract_lets | with_reducible refine kept_some (by assumption) ?_ | dsimp -zeta only | split | dsimp -zeta +zetaDelta only

theorem kept_ctrlUnanswered {z s : State} (h : Kept z s) (n : Nat) (status : Nat) :
    Kept z (State.ctrlUnanswered s n status) := by
  unfold State.ctrlUnanswered
  repeat' first | with_reducible first | assumption | apply kept_each | apply kept_put | apply kept_ctrlComplete | apply kept_putBytes | apply kept_foldl | apply kept_foldl_snd | apply kept_foldl_fst | apply kept_foldl_snd2 | apply kept_ite | intro _ | extract_lets | with_reducible refine kept_some (by assumption) ?_ | dsimp -zeta only | split | dsimp -zeta +zetaDelta only

theorem kept_dropRequests {z s : State} (h : Kept z s) (n : Nat) :
    Kept z (State.dropRequests s n) := by
  unfold State.dropRequests
  repeat' first | with_reducible first | assumption | apply kept_modPort | apply kept_displayReply | apply kept_ctrlUnanswered | apply kept_foldl | apply kept_foldl_snd | apply kept_foldl_fst | apply kept_foldl_snd2 | apply kept_ite | intro _ | extract_lets | with_reducible refine kept_some (by assumption) ?_ | dsimp -zeta only | split | dsimp -zeta +zetaDelta only

theorem kept_linkDown {z s : State} (h : Kept z s) (n : Nat) :
    Kept z (State.linkDown s n) := by
  unfold State.linkDown
  repeat' first | with_reducible first | assumption | apply kept_abandonPort | apply kept_dropRequests | apply kept_incidentEvent | apply kept_blotter | apply kept_raise | apply kept_foldl | apply kept_foldl_snd | apply kept_foldl_fst | apply kept_foldl_snd2 | apply kept_ite | intro _ | extract_lets | with_reducible refine kept_some (by assumption) ?_ | dsimp -zeta only | split | dsimp -zeta +zetaDelta only

theorem kept_setLink {z s : State} (h : Kept z s) (n : Nat) (l : LinkState) :
    Kept z (State.setLink s n l) := by
  unfold State.setLink
  repeat' first | with_reducible first | assumption | apply kept_put | apply kept_foldl | apply kept_foldl_snd | apply kept_foldl_fst | apply kept_foldl_snd2 | apply kept_ite | intro _ | extract_lets | with_reducible refine kept_some (by assumption) ?_ | dsimp -zeta only | split | dsimp -zeta +zetaDelta only

theorem kept_enterDetect {z s : State} (h : Kept z s) (n : Nat) :
    Kept z (State.enterDetect s n) := by
  unfold State.enterDetect
  repeat' first | with_reducible first | assumption | apply kept_discardEndpoint | apply kept_linkDown | apply kept_modPort | apply kept_bump | apply kept_setLink | apply kept_foldl | apply kept_foldl_snd | apply kept_foldl_fst | apply kept_foldl_snd2 | apply kept_ite | intro _ | extract_lets | with_reducible refine kept_some (by assumption) ?_ | dsimp -zeta only | split | dsimp -zeta +zetaDelta only

theorem kept_enterOff {z s : State} (h : Kept z s) (n : Nat) :
    Kept z (State.enterOff s n) := by
  unfold State.enterOff
  repeat' first | with_reducible first | assumption | apply kept_setLink | apply kept_discardEndpoint | apply kept_linkDown | apply kept_foldl | apply kept_foldl_snd | apply kept_foldl_fst | apply kept_foldl_snd2 | apply kept_ite | intro _ | extract_lets | with_reducible refine kept_some (by assumption) ?_ | dsimp -zeta only | split | dsimp -zeta +zetaDelta only

theorem kept_enterTrain {z s : State} (h : Kept z s) (n : Nat) :
    Kept z (State.enterTrain s n) := by
  unfold State.enterTrain
  repeat' first | with_reducible first | assumption | apply kept_relock | apply kept_setLink | apply kept_modPort | apply kept_ctrlRequest | apply kept_foldl | apply kept_foldl_snd | apply kept_foldl_fst | apply kept_foldl_snd2 | apply kept_ite | intro _ | extract_lets | with_reducible refine kept_some (by assumption) ?_ | dsimp -zeta only | split | dsimp -zeta +zetaDelta only

theorem kept_startRetrain {z s : State} (h : Kept z s) (n : Nat) :
    Kept z (State.startRetrain s n) := by
  unfold State.startRetrain
  repeat' first | with_reducible first | assumption | apply kept_modPort | apply kept_abandonPort | apply kept_enterTrain | apply kept_raise | apply kept_bump | apply kept_foldl | apply kept_foldl_snd | apply kept_foldl_fst | apply kept_foldl_snd2 | apply kept_ite | intro _ | extract_lets | with_reducible refine kept_some (by assumption) ?_ | dsimp -zeta only | split | dsimp -zeta +zetaDelta only

theorem kept_ppb {z s : State} (h : Kept z s) (port : Nat) (op : Nat) (arg : Nat) (replies : List (BitVec 17)) :
    Kept z (State.ppb s port op arg replies).2 := by
  unfold State.ppb
  repeat' first | with_reducible first | assumption | apply kept_emit | apply kept_put | apply kept_foldl | apply kept_foldl_snd | apply kept_foldl_fst | apply kept_foldl_snd2 | apply kept_ite | intro _ | extract_lets | with_reducible refine kept_some (by assumption) ?_ | dsimp -zeta only | split | dsimp -zeta +zetaDelta only

theorem kept_ppbSend {z s : State} (h : Kept z s) (port : Nat) (op : Nat) (arg : Nat) (replies : List (BitVec 17)) :
    Kept z (State.ppbSend s port op arg replies) := by
  unfold State.ppbSend
  repeat' first | with_reducible first | assumption | apply kept_ppb | apply kept_foldl | apply kept_foldl_snd | apply kept_foldl_fst | apply kept_foldl_snd2 | apply kept_ite | intro _ | extract_lets | with_reducible refine kept_snd (by assumption) ?_ | with_reducible refine kept_snd2 (by assumption) ?_ | with_reducible refine kept_snd3 (by assumption) ?_ | with_reducible refine kept_some (by assumption) ?_ | dsimp -zeta only | split | dsimp -zeta +zetaDelta only

theorem kept_startCycle {z s : State} (h : Kept z s) (n : Nat) (replies : List (BitVec 17)) :
    Kept z (State.startCycle s n replies) := by
  unfold State.startCycle
  repeat' first | with_reducible first | assumption | apply kept_bump | apply kept_ppbSend | apply kept_modPort | apply kept_foldl | apply kept_foldl_snd | apply kept_foldl_fst | apply kept_foldl_snd2 | apply kept_ite | intro _ | extract_lets | with_reducible refine kept_some (by assumption) ?_ | dsimp -zeta only | split | dsimp -zeta +zetaDelta only

theorem kept_setAuth {z s : State} (h : Kept z s) (n : Nat) (result : Nat) :
    Kept z (State.setAuth s n result) := by
  unfold State.setAuth
  repeat' first | with_reducible first | assumption | apply kept_raise | apply kept_put | apply kept_blotter | apply kept_foldl | apply kept_foldl_snd | apply kept_foldl_fst | apply kept_foldl_snd2 | apply kept_ite | intro _ | extract_lets | with_reducible refine kept_some (by assumption) ?_ | dsimp -zeta only | split | dsimp -zeta +zetaDelta only

theorem kept_settleAuth {z s : State} (h : Kept z s) (n : Nat) :
    Kept z (State.settleAuth s n) := by
  unfold State.settleAuth
  repeat' first | with_reducible first | assumption | apply kept_setLink | apply kept_incidentEvent | apply kept_raise | apply kept_foldl | apply kept_foldl_snd | apply kept_foldl_fst | apply kept_foldl_snd2 | apply kept_ite | intro _ | extract_lets | with_reducible refine kept_some (by assumption) ?_ | dsimp -zeta only | split | dsimp -zeta +zetaDelta only

theorem kept_portsBoundary {z s : State} (h : Kept z s) :
    Kept z (State.portsBoundary s) := by
  unfold State.portsBoundary
  repeat' first | with_reducible first | assumption | apply kept_each | apply kept_setAuth | apply kept_modPort | apply kept_settleAuth | apply kept_foldl | apply kept_foldl_snd | apply kept_foldl_fst | apply kept_foldl_snd2 | apply kept_ite | intro _ | extract_lets | with_reducible refine kept_some (by assumption) ?_ | dsimp -zeta only | split | dsimp -zeta +zetaDelta only

theorem kept_linkUp {z s : State} (h : Kept z s) (n : Nat) :
    Kept z (State.linkUp s n) := by
  unfold State.linkUp
  repeat' first | with_reducible first | assumption | apply kept_setLink | apply kept_modPort | apply kept_raise | apply kept_incidentEvent | apply kept_foldl | apply kept_foldl_snd | apply kept_foldl_fst | apply kept_foldl_snd2 | apply kept_ite | intro _ | extract_lets | with_reducible refine kept_some (by assumption) ?_ | dsimp -zeta only | split | dsimp -zeta +zetaDelta only

theorem kept_alignDone {z s : State} (h : Kept z s) (n : Nat) :
    Kept z (State.alignDone s n) := by
  unfold State.alignDone
  repeat' first | with_reducible first | assumption | apply kept_linkUp | apply kept_foldl | apply kept_foldl_snd | apply kept_foldl_fst | apply kept_foldl_snd2 | apply kept_ite | intro _ | extract_lets | with_reducible refine kept_some (by assumption) ?_ | dsimp -zeta only | split | dsimp -zeta +zetaDelta only

theorem kept_challenge {z s : State} (h : Kept z s) (n : Nat) (reauth : Bool) :
    Kept z (State.challenge s n reauth) := by
  unfold State.challenge
  repeat' first | with_reducible first | assumption | apply kept_modPort | apply kept_sendPacket | apply kept_draw | apply kept_foldl | apply kept_foldl_snd | apply kept_foldl_fst | apply kept_foldl_snd2 | apply kept_ite | intro _ | extract_lets | with_reducible refine kept_snd (by assumption) ?_ | with_reducible refine kept_snd2 (by assumption) ?_ | with_reducible refine kept_snd3 (by assumption) ?_ | with_reducible refine kept_some (by assumption) ?_ | dsimp -zeta only | split | dsimp -zeta +zetaDelta only

theorem kept_enterFault {z s : State} (h : Kept z s) (n : Nat) (cause : Nat) (replies : optParam (List (BitVec 17)) []) :
    Kept z (State.enterFault s n cause replies) := by
  unfold State.enterFault
  repeat' first | with_reducible first | assumption | apply kept_put | apply kept_linkDown | apply kept_setLink | apply kept_modPort | apply kept_startCycle | apply kept_foldl | apply kept_foldl_snd | apply kept_foldl_fst | apply kept_foldl_snd2 | apply kept_ite | intro _ | extract_lets | with_reducible refine kept_some (by assumption) ?_ | dsimp -zeta only | split | dsimp -zeta +zetaDelta only

theorem kept_deliversPacket {z s : State} (h : Kept z s) (n : Nat) (k : Packet) :
    Kept z (State.deliversPacket s n k).2 := by
  unfold State.deliversPacket
  repeat' first | with_reducible first | assumption | apply kept_modPort | apply kept_foldl | apply kept_foldl_snd | apply kept_foldl_fst | apply kept_foldl_snd2 | apply kept_ite | intro _ | extract_lets | with_reducible refine kept_some (by assumption) ?_ | dsimp -zeta only | split | dsimp -zeta +zetaDelta only

theorem kept_authOutcome {z s : State} (h : Kept z s) (n : Nat) (result : Nat) :
    Kept z (State.authOutcome s n result) := by
  unfold State.authOutcome
  repeat' first | with_reducible first | assumption | apply kept_modPort | apply kept_enterTrain | apply kept_setAuth | apply kept_foldl | apply kept_foldl_snd | apply kept_foldl_fst | apply kept_foldl_snd2 | apply kept_ite | intro _ | extract_lets | with_reducible refine kept_some (by assumption) ?_ | dsimp -zeta only | split | dsimp -zeta +zetaDelta only

theorem kept_endRequest {z s : State} (h : Kept z s) (n : Nat) (r : CtrlReq) :
    Kept z (State.endRequest s n r) := by
  unfold State.endRequest
  repeat' first | with_reducible first | assumption | apply kept_sendWaiting | apply kept_modPort | apply kept_foldl | apply kept_foldl_snd | apply kept_foldl_fst | apply kept_foldl_snd2 | apply kept_ite | intro _ | extract_lets | with_reducible refine kept_some (by assumption) ?_ | dsimp -zeta only | split | dsimp -zeta +zetaDelta only

end Sys2Proof.Machine
end

