-- ==== Sys2Proof/Laws/KeptLink.lean ====
section
/-!
SUPPORT. The operations of Machine/Link.lean keep the relation of Laws/Kept.lean.
-/
namespace Sys2Proof.Machine
open Sys2Proof Safety

theorem keptR_execQuarPolicyWrite {z s : State} (h : Kept z s) (port : Fin 96) (policy : BitVec 2) :
    KeptR z (execQuarPolicyWrite port policy s) := by
  unfold execQuarPolicyWrite
  repeat' first | with_reducible first | assumption | apply keptR_next | apply keptR_rowWrite | apply kept_put | apply kept_modPort | apply kept_foldl | apply kept_foldl_snd | apply kept_foldl_fst | apply kept_foldl_snd2 | apply kept_ite | apply keptR_ite | intro _ | extract_lets | with_reducible refine kept_some (by assumption) ?_ | dsimp -zeta only | split | dsimp -zeta +zetaDelta only

theorem keptR_execLinkEnableWrite {z s : State} (h : Kept z s) (port : Fin 96) (en : Bool) :
    KeptR z (execLinkEnableWrite port en s) := by
  unfold execLinkEnableWrite
  repeat' first | with_reducible first | assumption | apply keptR_next | apply keptR_rowWrite | apply kept_put | apply kept_enterDetect | apply kept_enterOff | apply kept_foldl | apply kept_foldl_snd | apply kept_foldl_fst | apply kept_foldl_snd2 | apply kept_ite | apply keptR_ite | intro _ | extract_lets | with_reducible refine kept_some (by assumption) ?_ | dsimp -zeta only | split | dsimp -zeta +zetaDelta only

theorem keptR_execLinkRestart {z s : State} (h : Kept z s) (port : Fin 96) :
    KeptR z (execLinkRestart port s) := by
  unfold execLinkRestart
  repeat' first | with_reducible first | assumption | apply keptR_next | apply keptR_rowWrite | apply kept_enterDetect | apply kept_foldl | apply kept_foldl_snd | apply kept_foldl_fst | apply kept_foldl_snd2 | apply kept_ite | apply keptR_ite | intro _ | extract_lets | with_reducible refine kept_some (by assumption) ?_ | dsimp -zeta only | split | dsimp -zeta +zetaDelta only

theorem keptR_execLinkRetrainRequest {z s : State} (h : Kept z s) (port : Fin 96) :
    KeptR z (execLinkRetrainRequest port s) := by
  unfold execLinkRetrainRequest
  repeat' first | with_reducible first | assumption | apply keptR_next | apply keptR_rowWrite | apply kept_startRetrain | apply kept_foldl | apply kept_foldl_snd | apply kept_foldl_fst | apply kept_foldl_snd2 | apply kept_ite | apply keptR_ite | intro _ | extract_lets | with_reducible refine kept_some (by assumption) ?_ | dsimp -zeta only | split | dsimp -zeta +zetaDelta only

theorem kept_clearCounters {z s : State} (h : Kept z s) (fs : List Fld) (hits : BitVec 32) :
    Kept z (State.clearCounters s fs hits) := by
  unfold State.clearCounters
  repeat' first | with_reducible first | assumption | apply kept_each | apply kept_put | apply kept_foldl | apply kept_foldl_snd | apply kept_foldl_fst | apply kept_foldl_snd2 | apply kept_ite | intro _ | extract_lets | with_reducible refine kept_some (by assumption) ?_ | dsimp -zeta only | split | dsimp -zeta +zetaDelta only

theorem keptR_execPortClrCnt {z s : State} (h : Kept z s) (port : Fin 96) (hits : BitVec 32) :
    KeptR z (execPortClrCnt port hits s) := by
  unfold execPortClrCnt
  repeat' first | with_reducible first | assumption | apply keptR_next | apply keptR_rowWrite | apply kept_clearCounters | apply kept_foldl | apply kept_foldl_snd | apply kept_foldl_fst | apply kept_foldl_snd2 | apply kept_ite | apply keptR_ite | intro _ | extract_lets | with_reducible refine kept_some (by assumption) ?_ | dsimp -zeta only | split | dsimp -zeta +zetaDelta only

theorem keptR_execHostCtrlSend {z s : State} (h : Kept z s) (port : Fin 96) :
    KeptR z (execHostCtrlSend port s) := by
  unfold execHostCtrlSend
  repeat' first | with_reducible first | assumption | apply keptR_next | apply kept_offer | apply kept_accept | apply kept_ctrlUnanswered | apply kept_ctrlRequest | apply kept_foldl | apply kept_foldl_snd | apply kept_foldl_fst | apply kept_foldl_snd2 | apply kept_ite | apply keptR_ite | intro _ | extract_lets | with_reducible refine kept_some (by assumption) ?_ | dsimp -zeta only | split | dsimp -zeta +zetaDelta only

theorem keptR_execPwrLimitWrite {z s : State} (h : Kept z s) (port : Fin 96) (limit : BitVec 8) (replies : List (BitVec 17)) :
    KeptR z (execPwrLimitWrite port limit replies s) := by
  unfold execPwrLimitWrite
  repeat' first | with_reducible first | assumption | apply keptR_next | apply keptR_rowWrite | apply kept_put | apply kept_ppbSend | apply kept_foldl | apply kept_foldl_snd | apply kept_foldl_fst | apply kept_foldl_snd2 | apply kept_ite | apply keptR_ite | intro _ | extract_lets | with_reducible refine kept_some (by assumption) ?_ | dsimp -zeta only | split | dsimp -zeta +zetaDelta only

theorem keptR_execPwrOnWrite {z s : State} (h : Kept z s) (port : Fin 96) (on : Bool) (replies : List (BitVec 17)) :
    KeptR z (execPwrOnWrite port on replies s) := by
  unfold execPwrOnWrite
  repeat' first | with_reducible first | assumption | apply keptR_next | apply keptR_rowWrite | apply kept_ppbSend | apply kept_put | apply kept_modPort | apply kept_foldl | apply kept_foldl_snd | apply kept_foldl_fst | apply kept_foldl_snd2 | apply kept_ite | apply keptR_ite | intro _ | extract_lets | with_reducible refine kept_some (by assumption) ?_ | dsimp -zeta only | split | dsimp -zeta +zetaDelta only

theorem keptR_execClearLockout {z s : State} (h : Kept z s) (port : Fin 96) (replies : List (BitVec 17)) :
    KeptR z (execClearLockout port replies s) := by
  unfold execClearLockout
  repeat' first | with_reducible first | assumption | apply keptR_next | apply keptR_rowWrite | apply kept_put | apply kept_ppbSend | apply kept_foldl | apply kept_foldl_snd | apply kept_foldl_fst | apply kept_foldl_snd2 | apply kept_ite | apply keptR_ite | intro _ | extract_lets | with_reducible refine kept_some (by assumption) ?_ | dsimp -zeta only | split | dsimp -zeta +zetaDelta only

theorem keptR_execPwrCycle {z s : State} (h : Kept z s) (port : Fin 96) (replies : List (BitVec 17)) :
    KeptR z (execPwrCycle port replies s) := by
  unfold execPwrCycle
  repeat' first | with_reducible first | assumption | apply keptR_next | apply keptR_rowWrite | apply kept_startCycle | apply kept_foldl | apply kept_foldl_snd | apply kept_foldl_fst | apply kept_foldl_snd2 | apply kept_ite | apply keptR_ite | intro _ | extract_lets | with_reducible refine kept_some (by assumption) ?_ | dsimp -zeta only | split | dsimp -zeta +zetaDelta only

theorem keptR_execLinkSignalDetect {z s : State} (h : Kept z s) (port : Fin 96) :
    KeptR z (execLinkSignalDetect port s) := by
  unfold execLinkSignalDetect
  repeat' first | with_reducible first | assumption | apply keptR_next | apply kept_setLink | apply kept_foldl | apply kept_foldl_snd | apply kept_foldl_fst | apply kept_foldl_snd2 | apply kept_ite | apply keptR_ite | intro _ | extract_lets | with_reducible refine kept_some (by assumption) ?_ | dsimp -zeta only | split | dsimp -zeta +zetaDelta only

theorem kept_ppbStatus {z s : State} (h : Kept z s) (n : Nat) (replies : List (BitVec 17)) :
    Kept z (State.ppbStatus s n replies) := by
  unfold State.ppbStatus
  repeat' first | with_reducible first | assumption | apply kept_put | apply kept_bump | apply kept_raise | apply kept_ppbSend | apply kept_modPort | apply kept_ppb | apply kept_foldl | apply kept_foldl_snd | apply kept_foldl_fst | apply kept_foldl_snd2 | apply kept_ite | intro _ | extract_lets | with_reducible refine kept_snd (by assumption) ?_ | with_reducible refine kept_snd2 (by assumption) ?_ | with_reducible refine kept_snd3 (by assumption) ?_ | with_reducible refine kept_some (by assumption) ?_ | dsimp -zeta only | split | dsimp -zeta +zetaDelta only

theorem keptR_execPpbPoll {z s : State} (h : Kept z s) (port : Fin 96) (status : List (BitVec 17)) (current : List (BitVec 17)) (voltage : List (BitVec 17)) :
    KeptR z (execPpbPoll port status current voltage s) := by
  unfold execPpbPoll
  repeat' first | with_reducible first | assumption | apply keptR_next | apply kept_ppbStatus | apply kept_put | apply kept_ppb | apply kept_foldl | apply kept_foldl_snd | apply kept_foldl_fst | apply kept_foldl_snd2 | apply kept_ite | apply keptR_ite | intro _ | extract_lets | with_reducible refine kept_snd (by assumption) ?_ | with_reducible refine kept_snd2 (by assumption) ?_ | with_reducible refine kept_snd3 (by assumption) ?_ | with_reducible refine kept_some (by assumption) ?_ | dsimp -zeta only | split | dsimp -zeta +zetaDelta only

theorem kept_countFec {z s : State} (h : Kept z s) (n : Nat) (port : Nat) (corrected : Option Nat) :
    Kept z (State.countFec s n port corrected) := by
  unfold State.countFec
  repeat' first | with_reducible first | assumption | apply kept_addLoad | apply kept_bump | apply kept_bumpBy | apply kept_modPort | apply kept_foldl | apply kept_foldl_snd | apply kept_foldl_fst | apply kept_foldl_snd2 | apply kept_ite | intro _ | extract_lets | with_reducible refine kept_some (by assumption) ?_ | dsimp -zeta only | split | dsimp -zeta +zetaDelta only

theorem kept_laneBytes {z s : State} (h : Kept z s) (n : Nat) (bonded : Bool) (seq : Nat) (bs : List (Byte × Bool)) :
    Kept z (State.laneBytes s n bonded seq bs) := by
  unfold State.laneBytes
  repeat' first | with_reducible first | assumption | apply kept_modPort | apply kept_foldl | apply kept_foldl_snd | apply kept_foldl_fst | apply kept_foldl_snd2 | apply kept_ite | intro _ | extract_lets | with_reducible refine kept_some (by assumption) ?_ | dsimp -zeta only | split | dsimp -zeta +zetaDelta only

theorem kept_fecPayload {z s : State} (h : Kept z s) (n : Nat) (port : Nat) (bits : List Bool) :
    Kept z (State.fecPayload s n port bits).2 := by
  unfold State.fecPayload
  repeat' first | with_reducible first | assumption | apply kept_modPort | apply kept_countFec | apply kept_laneBytes | apply kept_foldl | apply kept_foldl_snd | apply kept_foldl_fst | apply kept_foldl_snd2 | apply kept_ite | intro _ | extract_lets | with_reducible refine kept_some (by assumption) ?_ | dsimp -zeta only | split | dsimp -zeta +zetaDelta only

theorem kept_encodeFrame {z s : State} (h : Kept z s) (n : Nat) (port : Nat) (frame : Bool) (fec : Bool) (bits : List Bool) :
    Kept z (State.encodeFrame s n port frame fec bits).2 := by
  unfold State.encodeFrame
  repeat' first | with_reducible first | assumption | apply kept_laneBytes | apply kept_fecPayload | apply kept_foldl | apply kept_foldl_snd | apply kept_foldl_fst | apply kept_foldl_snd2 | apply kept_ite | intro _ | extract_lets | with_reducible refine kept_snd (by assumption) ?_ | with_reducible refine kept_snd2 (by assumption) ?_ | with_reducible refine kept_snd3 (by assumption) ?_ | with_reducible refine kept_some (by assumption) ?_ | dsimp -zeta only | split | dsimp -zeta +zetaDelta only

theorem keptR_execFecFrameReceived {z s : State} (h : Kept z s) (port : Fin 96) (blocks : List (BitVec 66)) :
    KeptR z (execFecFrameReceived port blocks s) := by
  unfold execFecFrameReceived
  repeat' first | with_reducible first | assumption | apply keptR_next | apply kept_put | apply kept_setPort | apply kept_modPort | apply kept_startRetrain | apply kept_alignDone | apply kept_encodeFrame | apply kept_foldl | apply kept_foldl_snd | apply kept_foldl_fst | apply kept_foldl_snd2 | apply kept_ite | apply keptR_ite | intro _ | extract_lets | with_reducible refine kept_snd (by assumption) ?_ | with_reducible refine kept_snd2 (by assumption) ?_ | with_reducible refine kept_snd3 (by assumption) ?_ | with_reducible refine kept_some (by assumption) ?_ | dsimp -zeta only | split | dsimp -zeta +zetaDelta only

theorem kept_takePacket {z s : State} (h : Kept z s) (n : Nat) (f : Packet → Bool) :
    KeptO z (State.takePacket s n f) := by
  unfold State.takePacket
  repeat' first | with_reducible first | assumption | exact keptO_none | apply keptO_some | apply keptO_ite | apply kept_modPort | apply kept_foldl | apply kept_foldl_snd | apply kept_foldl_fst | apply kept_foldl_snd2 | apply kept_ite | intro _ | extract_lets | with_reducible refine kept_some (by assumption) ?_ | dsimp -zeta only | split | dsimp -zeta +zetaDelta only

theorem keptR_execDiscoverComplete {z s : State} (h : Kept z s) (port : Fin 96) :
    KeptR z (execDiscoverComplete port s) := by
  unfold execDiscoverComplete
  repeat' first | with_reducible first | assumption | apply keptR_next | apply kept_raise | apply kept_putBytes | apply kept_enterFault | apply kept_challenge | apply kept_setLink | apply kept_foldl | apply kept_foldl_snd | apply kept_foldl_fst | apply kept_foldl_snd2 | apply kept_ite | apply keptR_ite | intro _ | extract_lets | with_reducible refine kept_some (by assumption) ?_ | dsimp -zeta only | split | dsimp -zeta +zetaDelta only

theorem keptR_execAuthTimeout {z s : State} (h : Kept z s) (port : Fin 96) :
    KeptR z (execAuthTimeout port s) := by
  unfold execAuthTimeout
  repeat' first | with_reducible first | assumption | apply keptR_next | apply kept_authOutcome | apply kept_foldl | apply kept_foldl_snd | apply kept_foldl_fst | apply kept_foldl_snd2 | apply kept_ite | apply keptR_ite | intro _ | extract_lets | with_reducible refine kept_some (by assumption) ?_ | dsimp -zeta only | split | dsimp -zeta +zetaDelta only

theorem keptR_execPwrOffTimeExpiry {z s : State} (h : Kept z s) (port : Fin 96) (replies : List (BitVec 17)) :
    KeptR z (execPwrOffTimeExpiry port replies s) := by
  unfold execPwrOffTimeExpiry
  repeat' first | with_reducible first | assumption | apply keptR_next | apply kept_ppbSend | apply kept_modPort | apply kept_foldl | apply kept_foldl_snd | apply kept_foldl_fst | apply kept_foldl_snd2 | apply kept_ite | apply keptR_ite | intro _ | extract_lets | with_reducible refine kept_some (by assumption) ?_ | dsimp -zeta only | split | dsimp -zeta +zetaDelta only

theorem keptR_execCtrlRetryTimeout {z s : State} (h : Kept z s) (port : Fin 96) (msgId : BitVec 8) :
    KeptR z (execCtrlRetryTimeout port msgId s) := by
  unfold execCtrlRetryTimeout
  repeat' first | with_reducible first | assumption | apply keptR_next | apply kept_modPort | apply kept_bump | apply kept_sendPacket | apply kept_displayReply | apply kept_endRequest | apply kept_ctrlUnanswered | apply kept_foldl | apply kept_foldl_snd | apply kept_foldl_fst | apply kept_foldl_snd2 | apply kept_ite | apply keptR_ite | intro _ | extract_lets | with_reducible refine kept_some (by assumption) ?_ | dsimp -zeta only | split | dsimp -zeta +zetaDelta only

theorem kept_enterDiscover {z s : State} (h : Kept z s) (n : Nat) :
    Kept z (State.enterDiscover s n) := by
  unfold State.enterDiscover
  repeat' first | with_reducible first | assumption | apply kept_modPort | apply kept_setLink | apply kept_each | apply kept_ctrlRequest | apply kept_foldl | apply kept_foldl_snd | apply kept_foldl_fst | apply kept_foldl_snd2 | apply kept_ite | intro _ | extract_lets | with_reducible refine kept_some (by assumption) ?_ | dsimp -zeta only | split | dsimp -zeta +zetaDelta only

theorem keptR_execBackChannelUp {z s : State} (h : Kept z s) (port : Fin 96) :
    KeptR z (execBackChannelUp port s) := by
  unfold execBackChannelUp
  repeat' first | with_reducible first | assumption | apply keptR_next | apply kept_modPort | apply kept_put | apply kept_enterDiscover | apply kept_foldl | apply kept_foldl_snd | apply kept_foldl_fst | apply kept_foldl_snd2 | apply kept_ite | apply keptR_ite | intro _ | extract_lets | with_reducible refine kept_some (by assumption) ?_ | dsimp -zeta only | split | dsimp -zeta +zetaDelta only

theorem keptR_execBackChannelLost {z s : State} (h : Kept z s) (port : Fin 96) (codeErrors : Nat) :
    KeptR z (execBackChannelLost port codeErrors s) := by
  unfold execBackChannelLost
  repeat' first | with_reducible first | assumption | apply keptR_next | apply kept_put | apply kept_bumpBy | apply kept_foldl | apply kept_foldl_snd | apply kept_foldl_fst | apply kept_foldl_snd2 | apply kept_ite | apply keptR_ite | intro _ | extract_lets | with_reducible refine kept_some (by assumption) ?_ | dsimp -zeta only | split | dsimp -zeta +zetaDelta only

theorem keptR_execFaultHoldExpiry {z s : State} (h : Kept z s) (port : Fin 96) :
    KeptR z (execFaultHoldExpiry port s) := by
  unfold execFaultHoldExpiry
  repeat' first | with_reducible first | assumption | apply keptR_next | apply kept_enterDetect | apply kept_foldl | apply kept_foldl_snd | apply kept_foldl_fst | apply kept_foldl_snd2 | apply kept_ite | apply keptR_ite | intro _ | extract_lets | with_reducible refine kept_some (by assumption) ?_ | dsimp -zeta only | split | dsimp -zeta +zetaDelta only

theorem keptR_execDetectReinit {z s : State} (h : Kept z s) (port : Fin 96) :
    KeptR z (execDetectReinit port s) := by
  unfold execDetectReinit
  repeat' first | with_reducible first | assumption | apply keptR_next | apply kept_modPort | apply kept_relock | apply kept_foldl | apply kept_foldl_snd | apply kept_foldl_fst | apply kept_foldl_snd2 | apply kept_ite | apply keptR_ite | intro _ | extract_lets | with_reducible refine kept_some (by assumption) ?_ | dsimp -zeta only | split | dsimp -zeta +zetaDelta only

theorem keptR_execLinkStateTimeout {z s : State} (h : Kept z s) (port : Fin 96) (replies : List (BitVec 17)) :
    KeptR z (execLinkStateTimeout port replies s) := by
  unfold execLinkStateTimeout
  repeat' first | with_reducible first | assumption | apply keptR_next | apply kept_enterFault | apply kept_enterTrain | apply kept_modPort | apply kept_foldl | apply kept_foldl_snd | apply kept_foldl_fst | apply kept_foldl_snd2 | apply kept_ite | apply keptR_ite | intro _ | extract_lets | with_reducible refine kept_some (by assumption) ?_ | dsimp -zeta only | split | dsimp -zeta +zetaDelta only

theorem keptR_execIdentResponse {z s : State} (h : Kept z s) (port : Fin 96) :
    KeptR z (execIdentResponse port s) := by
  unfold execIdentResponse
  repeat' first | with_reducible first | assumption | apply keptR_next | apply kept_putBytes | apply kept_authOutcome | apply kept_takePacket | apply kept_foldl | apply kept_foldl_snd | apply kept_foldl_fst | apply kept_foldl_snd2 | apply kept_ite | apply keptR_ite | intro _ | extract_lets | with_reducible refine kept_snd (by assumption) ?_ | with_reducible refine kept_snd2 (by assumption) ?_ | with_reducible refine kept_snd3 (by assumption) ?_ | with_reducible refine kept_some (by assumption) ?_ | dsimp -zeta only | split | dsimp -zeta +zetaDelta only

theorem keptR_execPpbInt {z s : State} (h : Kept z s) (bus : Fin 6) (statuses : List (List (BitVec 17))) :
    KeptR z (execPpbInt bus statuses s) := by
  unfold execPpbInt
  repeat' first | with_reducible first | assumption | apply keptR_next | apply kept_each | apply kept_ppbStatus | apply kept_foldl | apply kept_foldl_snd | apply kept_foldl_fst | apply kept_foldl_snd2 | apply kept_ite | apply keptR_ite | intro _ | extract_lets | with_reducible refine kept_some (by assumption) ?_ | dsimp -zeta only | split | dsimp -zeta +zetaDelta only

theorem keptR_execTimeEcho {z s : State} (h : Kept z s) (port : Fin 96) (rttNs : Nat) :
    KeptR z (execTimeEcho port rttNs s) := by
  unfold execTimeEcho
  repeat' first | with_reducible first | assumption | apply keptR_next | apply kept_modPort | apply kept_put | apply kept_takePacket | apply kept_foldl | apply kept_foldl_snd | apply kept_foldl_fst | apply kept_foldl_snd2 | apply kept_ite | apply keptR_ite | intro _ | extract_lets | with_reducible refine kept_snd (by assumption) ?_ | with_reducible refine kept_snd2 (by assumption) ?_ | with_reducible refine kept_snd3 (by assumption) ?_ | with_reducible refine kept_some (by assumption) ?_ | dsimp -zeta only | split | dsimp -zeta +zetaDelta only

theorem keptR_execIdentNoKey {z s : State} (h : Kept z s) (port : Fin 96) :
    KeptR z (execIdentNoKey port s) := by
  unfold execIdentNoKey
  repeat' first | with_reducible first | assumption | apply keptR_next | apply kept_authOutcome | apply kept_takePacket | apply kept_foldl | apply kept_foldl_snd | apply kept_foldl_fst | apply kept_foldl_snd2 | apply kept_ite | apply keptR_ite | intro _ | extract_lets | with_reducible refine kept_snd (by assumption) ?_ | with_reducible refine kept_snd2 (by assumption) ?_ | with_reducible refine kept_snd3 (by assumption) ?_ | with_reducible refine kept_some (by assumption) ?_ | dsimp -zeta only | split | dsimp -zeta +zetaDelta only

theorem keptR_execPresetDwellExpiry {z s : State} (h : Kept z s) (port : Fin 96) :
    KeptR z (execPresetDwellExpiry port s) := by
  unfold execPresetDwellExpiry
  repeat' first | with_reducible first | assumption | apply keptR_next | apply kept_modPort | apply kept_foldl | apply kept_foldl_snd | apply kept_foldl_fst | apply kept_foldl_snd2 | apply kept_ite | apply keptR_ite | intro _ | extract_lets | with_reducible refine kept_some (by assumption) ?_ | dsimp -zeta only | split | dsimp -zeta +zetaDelta only

theorem keptR_execTrainResult {z s : State} (h : Kept z s) (port : Fin 96) (counts : List (BitVec 32)) :
    KeptR z (execTrainResult port counts s) := by
  unfold execTrainResult
  repeat' first | with_reducible first | assumption | apply keptR_next | apply kept_relock | apply kept_setLink | apply kept_put | apply kept_ctrlRequest | apply kept_modPort | apply kept_sendPacket | apply kept_takePacket | apply kept_foldl | apply kept_foldl_snd | apply kept_foldl_fst | apply kept_foldl_snd2 | apply kept_ite | apply keptR_ite | intro _ | extract_lets | with_reducible refine kept_snd (by assumption) ?_ | with_reducible refine kept_snd2 (by assumption) ?_ | with_reducible refine kept_snd3 (by assumption) ?_ | with_reducible refine kept_some (by assumption) ?_ | dsimp -zeta only | split | dsimp -zeta +zetaDelta only

theorem keptR_execBackChannelLossTimeout {z s : State} (h : Kept z s) (port : Fin 96) :
    KeptR z (execBackChannelLossTimeout port s) := by
  unfold execBackChannelLossTimeout
  repeat' first | with_reducible first | assumption | apply keptR_next | apply kept_enterDetect | apply kept_foldl | apply kept_foldl_snd | apply kept_foldl_fst | apply kept_foldl_snd2 | apply kept_ite | apply keptR_ite | intro _ | extract_lets | with_reducible refine kept_some (by assumption) ?_ | dsimp -zeta only | split | dsimp -zeta +zetaDelta only

theorem keptR_execReauthTimer {z s : State} (h : Kept z s) (port : Fin 96) :
    KeptR z (execReauthTimer port s) := by
  unfold execReauthTimer
  repeat' first | with_reducible first | assumption | apply keptR_next | apply kept_challenge | apply kept_foldl | apply kept_foldl_snd | apply kept_foldl_fst | apply kept_foldl_snd2 | apply kept_ite | apply keptR_ite | intro _ | extract_lets | with_reducible refine kept_some (by assumption) ?_ | dsimp -zeta only | split | dsimp -zeta +zetaDelta only

end Sys2Proof.Machine
end

