-- ==== Sys2Proof/Laws/KeptMargOps.lean ====
section
/-!
SUPPORT. The operations of Machine/MargOps.lean keep the relation of Laws/Kept.lean.
-/
namespace Sys2Proof.Machine
open Sys2Proof Safety

theorem kept_closeMarg {z s : State} (h : Kept z s) (n : Nat) (seq : Nat) (m : Option MargRec) :
    Kept z (State.closeMarg s n seq m) := by
  unfold State.closeMarg
  repeat' first | with_reducible first | assumption | apply kept_modStream | apply kept_foldl | apply kept_foldl_snd | apply kept_foldl_fst | apply kept_foldl_snd2 | apply kept_ite | intro _ | extract_lets | with_reducible refine kept_some (by assumption) ?_ | dsimp -zeta only | split | dsimp -zeta +zetaDelta only

theorem kept_beginMarg {z s : State} (h : Kept z s) (n : Nat) (frameSeq : Option Nat) :
    Kept z (State.beginMarg s n frameSeq) := by
  unfold State.beginMarg
  repeat' first | with_reducible first | assumption | apply kept_modStream | apply kept_foldl | apply kept_foldl_snd | apply kept_foldl_fst | apply kept_foldl_snd2 | apply kept_ite | intro _ | extract_lets | with_reducible refine kept_some (by assumption) ?_ | dsimp -zeta only | split | dsimp -zeta +zetaDelta only

theorem kept_bindAnc {z s : State} (h : Kept z s) (n : Nat) (a : AncPacket) :
    Kept z (State.bindAnc s n a) := by
  unfold State.bindAnc
  repeat' first | with_reducible first | assumption | apply kept_raiseIf | apply kept_modStream | apply kept_foldl | apply kept_foldl_snd | apply kept_foldl_fst | apply kept_foldl_snd2 | apply kept_ite | intro _ | extract_lets | with_reducible refine kept_some (by assumption) ?_ | dsimp -zeta only | split | dsimp -zeta +zetaDelta only

theorem kept_bindMeta {z s : State} (h : Kept z s) (n : Nat) (payload : List Byte) :
    Kept z (State.bindMeta s n payload) := by
  unfold State.bindMeta
  repeat' first | with_reducible first | assumption | apply kept_modStream | apply kept_raise | apply kept_foldl | apply kept_foldl_snd | apply kept_foldl_fst | apply kept_foldl_snd2 | apply kept_ite | intro _ | extract_lets | with_reducible refine kept_some (by assumption) ?_ | dsimp -zeta only | split | dsimp -zeta +zetaDelta only

theorem kept_trackStream {z s : State} (h : Kept z s) (n : Nat) :
    Kept z (State.trackStream s n) := by
  unfold State.trackStream
  repeat' first | with_reducible first | assumption | apply kept_modAudio | apply kept_raise | apply kept_foldl | apply kept_foldl_snd | apply kept_foldl_fst | apply kept_foldl_snd2 | apply kept_ite | intro _ | extract_lets | with_reducible refine kept_some (by assumption) ?_ | dsimp -zeta only | split | dsimp -zeta +zetaDelta only

end Sys2Proof.Machine
end

