-- ==== Sys2Proof/Laws/KeptAudio.lean ====
section
/-!
SUPPORT. The operations of Machine/Audio.lean keep the relation of Laws/Kept.lean.
-/
namespace Sys2Proof.Machine
open Sys2Proof Safety

theorem keptR_execBankCommit {z s : State} (h : Kept z s) :
    KeptR z (execBankCommit s) := by
  unfold execBankCommit
  repeat' first | with_reducible first | assumption | apply keptR_next | apply keptR_rowWrite | apply kept_armBank | apply kept_foldl | apply kept_foldl_snd | apply kept_foldl_fst | apply kept_foldl_snd2 | apply kept_ite | apply keptR_ite | intro _ | extract_lets | with_reducible refine kept_some (by assumption) ?_ | dsimp -zeta only | split | dsimp -zeta +zetaDelta only

theorem keptR_queryBadCommand {z s : State} (h : Kept z s) :
    KeptR z (queryBadCommand s) := by
  unfold queryBadCommand
  repeat' first | with_reducible first | assumption | apply keptR_next | apply kept_offer | apply kept_complete | apply kept_putBytes | apply kept_accept | apply kept_foldl | apply kept_foldl_snd | apply kept_foldl_fst | apply kept_foldl_snd2 | apply kept_ite | apply keptR_ite | intro _ | extract_lets | with_reducible refine kept_some (by assumption) ?_ | dsimp -zeta only | split | dsimp -zeta +zetaDelta only

theorem keptR_execQueryFetch {z s : State} (h : Kept z s) :
    KeptR z (execQueryFetch s) := by
  unfold execQueryFetch
  repeat' first | with_reducible first | assumption | apply keptR_next | apply kept_offer | apply kept_accept | apply kept_complete | apply kept_putBytes | apply kept_foldl | apply kept_foldl_snd | apply kept_foldl_fst | apply kept_foldl_snd2 | apply kept_ite | apply keptR_ite | intro _ | extract_lets | with_reducible refine kept_some (by assumption) ?_ | dsimp -zeta only | split | dsimp -zeta +zetaDelta only

theorem keptR_execOutMapWrite {z s : State} (h : Kept z s) (ch : Fin 1024) (value : BitVec 32) :
    KeptR z (execOutMapWrite ch value s) := by
  unfold execOutMapWrite
  repeat' first | with_reducible first | assumption | apply keptR_next | apply keptR_rowWrite | apply kept_modAudio | apply kept_foldl | apply kept_foldl_snd | apply kept_foldl_fst | apply kept_foldl_snd2 | apply kept_ite | apply keptR_ite | intro _ | extract_lets | with_reducible refine kept_some (by assumption) ?_ | dsimp -zeta only | split | dsimp -zeta +zetaDelta only

theorem keptR_execInMapWrite {z s : State} (h : Kept z s) (ch : Fin 2048) (value : BitVec 32) :
    KeptR z (execInMapWrite ch value s) := by
  unfold execInMapWrite
  repeat' first | with_reducible first | assumption | apply keptR_next | apply keptR_rowWrite | apply kept_modAudio | apply kept_foldl | apply kept_foldl_snd | apply kept_foldl_fst | apply kept_foldl_snd2 | apply kept_ite | apply keptR_ite | intro _ | extract_lets | with_reducible refine kept_some (by assumption) ?_ | dsimp -zeta only | split | dsimp -zeta +zetaDelta only

theorem kept_audioLose {z s : State} (h : Kept z s) (i : Nat) (count : Nat) (n : Nat) :
    Kept z (State.audioLose s i count n) := by
  unfold State.audioLose
  repeat' first | with_reducible first | assumption | apply kept_countLost | apply kept_modSrc | apply kept_setSrcMode | apply kept_foldl | apply kept_foldl_snd | apply kept_foldl_fst | apply kept_foldl_snd2 | apply kept_ite | intro _ | extract_lets | with_reducible refine kept_some (by assumption) ?_ | dsimp -zeta only | split | dsimp -zeta +zetaDelta only

theorem keptR_execAudioSample {z s : State} (h : Kept z s) :
    KeptR z (execAudioSample s) := by
  unfold execAudioSample
  repeat' first | with_reducible first | assumption | apply keptR_next | apply kept_put | apply kept_each | apply kept_convertOne | apply kept_advanceFade | apply kept_mixOne | apply kept_trackDelay | apply kept_bankStep | apply kept_modAudio | apply kept_foldl | apply kept_foldl_snd | apply kept_foldl_fst | apply kept_foldl_snd2 | apply kept_ite | apply keptR_ite | intro _ | extract_lets | with_reducible refine kept_some (by assumption) ?_ | dsimp -zeta only | split | dsimp -zeta +zetaDelta only

theorem keptR_execAncPacket {z s : State} (h : Kept z s) (port : Fin 96) :
    KeptR z (execAncPacket port s) := by
  unfold execAncPacket
  repeat' first | with_reducible first | assumption | apply keptR_next | apply kept_bindAnc | apply kept_takePacket | apply kept_foldl | apply kept_foldl_snd | apply kept_foldl_fst | apply kept_foldl_snd2 | apply kept_ite | apply keptR_ite | intro _ | extract_lets | with_reducible refine kept_snd (by assumption) ?_ | with_reducible refine kept_snd2 (by assumption) ?_ | with_reducible refine kept_snd3 (by assumption) ?_ | with_reducible refine kept_some (by assumption) ?_ | dsimp -zeta only | split | dsimp -zeta +zetaDelta only

theorem keptR_execMetaPacket {z s : State} (h : Kept z s) (port : Fin 96) :
    KeptR z (execMetaPacket port s) := by
  unfold execMetaPacket
  repeat' first | with_reducible first | assumption | apply keptR_next | apply kept_bindMeta | apply kept_takePacket | apply kept_foldl | apply kept_foldl_snd | apply kept_foldl_fst | apply kept_foldl_snd2 | apply kept_ite | apply keptR_ite | intro _ | extract_lets | with_reducible refine kept_snd (by assumption) ?_ | with_reducible refine kept_snd2 (by assumption) ?_ | with_reducible refine kept_snd3 (by assumption) ?_ | with_reducible refine kept_some (by assumption) ?_ | dsimp -zeta only | split | dsimp -zeta +zetaDelta only

theorem kept_audioTake {z s : State} (h : Kept z s) (i : Nat) (count : Nat) (rate : Nat) (vals : List Int) (dev : Int) :
    Kept z (State.audioTake s i count rate vals dev) := by
  unfold State.audioTake
  repeat' first | with_reducible first | assumption | apply kept_modSrc | apply kept_setSrcMode | apply kept_samplesIn | apply kept_countLost | apply kept_foldl | apply kept_foldl_snd | apply kept_foldl_fst | apply kept_foldl_snd2 | apply kept_ite | intro _ | extract_lets | with_reducible refine kept_some (by assumption) ?_ | dsimp -zeta only | split | dsimp -zeta +zetaDelta only

theorem keptR_execMeterUpdate {z s : State} (h : Kept z s) :
    KeptR z (execMeterUpdate s) := by
  unfold execMeterUpdate
  repeat' first | with_reducible first | assumption | apply keptR_next | apply kept_each | apply kept_modSrc | apply kept_put | apply kept_modOut | apply kept_foldl | apply kept_foldl_snd | apply kept_foldl_fst | apply kept_foldl_snd2 | apply kept_ite | apply keptR_ite | intro _ | extract_lets | with_reducible refine kept_some (by assumption) ?_ | dsimp -zeta only | split | dsimp -zeta +zetaDelta only

theorem keptR_execAudioMapApply {z s : State} (h : Kept z s) :
    KeptR z (execAudioMapApply s) := by
  unfold execAudioMapApply
  repeat' first | with_reducible first | assumption | apply keptR_next | apply kept_each | apply kept_modSrc | apply kept_wr | apply kept_setSrcMode | apply kept_modAudio | apply kept_foldl | apply kept_foldl_snd | apply kept_foldl_fst | apply kept_foldl_snd2 | apply kept_ite | apply keptR_ite | intro _ | extract_lets | with_reducible refine kept_some (by assumption) ?_ | dsimp -zeta only | split | dsimp -zeta +zetaDelta only

theorem keptR_execSrcStateTimeout {z s : State} (h : Kept z s) (ch : Fin 2048) (idle : Bool) :
    KeptR z (execSrcStateTimeout ch idle s) := by
  unfold execSrcStateTimeout
  repeat' first | with_reducible first | assumption | apply keptR_next | apply kept_setSrcMode | apply kept_foldl | apply kept_foldl_snd | apply kept_foldl_fst | apply kept_foldl_snd2 | apply kept_ite | apply keptR_ite | intro _ | extract_lets | with_reducible refine kept_some (by assumption) ?_ | dsimp -zeta only | split | dsimp -zeta +zetaDelta only

theorem keptR_execAudioPacket {z s : State} (h : Kept z s) (port : Fin 96) (dev : Int) :
    KeptR z (execAudioPacket port dev s) := by
  unfold execAudioPacket
  repeat' first | with_reducible first | assumption | apply keptR_next | apply kept_each | apply kept_audioLose | apply kept_audioTake | apply kept_takePacket | apply kept_foldl | apply kept_foldl_snd | apply kept_foldl_fst | apply kept_foldl_snd2 | apply kept_ite | apply keptR_ite | intro _ | extract_lets | with_reducible refine kept_snd (by assumption) ?_ | with_reducible refine kept_snd2 (by assumption) ?_ | with_reducible refine kept_snd3 (by assumption) ?_ | with_reducible refine kept_some (by assumption) ?_ | dsimp -zeta only | split | dsimp -zeta +zetaDelta only

end Sys2Proof.Machine
end

