-- ==== Sys2Proof/Laws/KeptBlotter.lean ====
section
/-!
SUPPORT. The operations of Machine/Blotter.lean keep the relation of Laws/Kept.lean.
-/
namespace Sys2Proof.Machine
open Sys2Proof Safety

theorem keptR_execCalSetWrite {z s : State} (h : Kept z s) (value : BitVec 32) :
    KeptR z (execCalSetWrite value s) := by
  unfold execCalSetWrite
  repeat' first | with_reducible first | assumption | apply keptR_next | apply keptR_rowWrite | apply kept_modAttic | apply kept_storeCal | apply kept_blotter | apply kept_foldl | apply kept_foldl_snd | apply kept_foldl_fst | apply kept_foldl_snd2 | apply kept_ite | apply keptR_ite | intro _ | extract_lets | with_reducible refine kept_some (by assumption) ?_ | dsimp -zeta only | split | dsimp -zeta +zetaDelta only

theorem keptR_execSnapStart {z s : State} (h : Kept z s) :
    KeptR z (execSnapStart s) := by
  unfold execSnapStart
  repeat' first | with_reducible first | assumption | apply keptR_next | apply keptR_rowWrite | apply kept_put | apply kept_modBlot | apply kept_foldl | apply kept_foldl_snd | apply kept_foldl_fst | apply kept_foldl_snd2 | apply kept_ite | apply keptR_ite | intro _ | extract_lets | with_reducible refine kept_some (by assumption) ?_ | dsimp -zeta only | split | dsimp -zeta +zetaDelta only

theorem kept_clearBlotter {z s : State} (h : Kept z s) (sub : Nat) (seq : Nat) (upTo : Nat) :
    Kept z (State.clearBlotter s sub seq upTo) := by
  unfold State.clearBlotter
  repeat' first | with_reducible first | assumption | apply kept_counterWrite | apply kept_modAttic | apply kept_blotter | apply kept_put | apply kept_storeFloor | apply kept_showBlot | apply kept_modBlot | apply kept_each | apply kept_copyHist | apply kept_setHist | apply kept_wr | apply kept_foldl | apply kept_foldl_snd | apply kept_foldl_fst | apply kept_foldl_snd2 | apply kept_ite | intro _ | extract_lets | with_reducible refine kept_some (by assumption) ?_ | dsimp -zeta only | split | dsimp -zeta +zetaDelta only

theorem keptR_execClearSubmit {z s : State} (h : Kept z s) (storeOk : Bool) :
    KeptR z (execClearSubmit storeOk s) := by
  unfold execClearSubmit
  repeat' first | with_reducible first | assumption | apply keptR_next | apply kept_offer | apply kept_accept | apply kept_complete | apply kept_raise | apply kept_clearBlotter | apply kept_foldl | apply kept_foldl_snd | apply kept_foldl_fst | apply kept_foldl_snd2 | apply kept_ite | apply keptR_ite | intro _ | extract_lets | with_reducible refine kept_some (by assumption) ?_ | dsimp -zeta only | split | dsimp -zeta +zetaDelta only

theorem kept_saveSet {z s : State} (h : Kept z s) (kind : Nat) (inst : Nat) (tail : List Byte) :
    Kept z (State.saveSet s kind inst tail) := by
  unfold State.saveSet
  repeat' first | with_reducible first | assumption | apply kept_each | apply kept_closeRecord | apply kept_blotter | apply kept_put | apply kept_modAttic | apply kept_atticIssue | apply kept_foldl | apply kept_foldl_snd | apply kept_foldl_fst | apply kept_foldl_snd2 | apply kept_ite | intro _ | extract_lets | with_reducible refine kept_some (by assumption) ?_ | dsimp -zeta only | split | dsimp -zeta +zetaDelta only

theorem kept_copyTamperLog {z s : State} (h : Kept z s) :
    Kept z (State.copyTamperLog s) := by
  unfold State.copyTamperLog
  repeat' first | with_reducible first | assumption | apply kept_each | apply kept_blotter | apply kept_modStrong | apply kept_raiseIf | apply kept_foldl | apply kept_foldl_snd | apply kept_foldl_fst | apply kept_foldl_snd2 | exact fuses_refl _ | apply kept_ite | intro _ | extract_lets | with_reducible refine kept_some (by assumption) ?_ | dsimp -zeta only | split | dsimp -zeta +zetaDelta only | exact fuses_refl _

theorem kept_interruptWrite {z s : State} (h : Kept z s) (left : List (Nat × BitVec 8 × Bool)) (w : AtticWrite) :
    Kept z (State.interruptWrite s left w) := by
  unfold State.interruptWrite
  repeat' first | with_reducible first | assumption | apply kept_each | apply kept_setAttic | apply kept_foldl | apply kept_foldl_snd | apply kept_foldl_fst | apply kept_foldl_snd2 | apply kept_ite | intro _ | extract_lets | with_reducible refine kept_some (by assumption) ?_ | dsimp -zeta only | split | dsimp -zeta +zetaDelta only

theorem kept_interruptWrites {z s : State} (h : Kept z s) (left : List (Nat × BitVec 8 × Bool)) (save : Bool) :
    Kept z (State.interruptWrites s left save) := by
  unfold State.interruptWrites
  repeat' first | with_reducible first | assumption | apply kept_each | apply kept_interruptWrite | apply kept_showBanks | apply kept_modAttic | apply kept_modBlot | apply kept_atticComplete | apply kept_foldl | apply kept_foldl_snd | apply kept_foldl_fst | apply kept_foldl_snd2 | apply kept_ite | intro _ | extract_lets | with_reducible refine kept_some (by assumption) ?_ | dsimp -zeta only | split | dsimp -zeta +zetaDelta only

theorem kept_blotPop {z s : State} (h : Kept z s) :
    Kept z (State.blotPop s) := by
  unfold State.blotPop
  repeat' first | with_reducible first | assumption | apply kept_wr | apply kept_putBytes | apply kept_modBlot | apply kept_foldl | apply kept_foldl_snd | apply kept_foldl_fst | apply kept_foldl_snd2 | apply kept_ite | intro _ | extract_lets | with_reducible refine kept_some (by assumption) ?_ | dsimp -zeta only | split | dsimp -zeta +zetaDelta only

theorem kept_recoverSave {z s : State} (h : Kept z s) :
    Kept z (State.recoverSave s).2 := by
  unfold State.recoverSave
  repeat' first | with_reducible first | assumption | apply kept_put | apply kept_each | apply kept_atticIssue | apply kept_bumpBy | apply kept_foldl | apply kept_foldl_snd | apply kept_foldl_fst | apply kept_foldl_snd2 | apply kept_ite | intro _ | extract_lets | with_reducible refine kept_some (by assumption) ?_ | dsimp -zeta only | split | dsimp -zeta +zetaDelta only

theorem kept_advanceReserve {z s : State} (h : Kept z s) :
    Kept z (State.advanceReserve s) := by
  unfold State.advanceReserve
  repeat' first | with_reducible first | assumption | apply kept_counterWrite | apply kept_modAttic | apply kept_foldl | apply kept_foldl_snd | apply kept_foldl_fst | apply kept_foldl_snd2 | apply kept_ite | intro _ | extract_lets | with_reducible refine kept_some (by assumption) ?_ | dsimp -zeta only | split | dsimp -zeta +zetaDelta only

theorem kept_bootAttic {z s : State} (h : Kept z s) (floor : Option (Nat × Nat)) :
    Kept z (State.bootAttic s floor) := by
  unfold State.bootAttic
  repeat' first | with_reducible first | assumption | apply kept_modAttic | apply kept_put | apply kept_counterWrite | apply kept_modBlot | apply kept_advanceReserve | apply kept_blotter | apply kept_recoverSave | apply kept_foldl | apply kept_foldl_snd | apply kept_foldl_fst | apply kept_foldl_snd2 | apply kept_ite | intro _ | extract_lets | with_reducible refine kept_snd (by assumption) ?_ | with_reducible refine kept_snd2 (by assumption) ?_ | with_reducible refine kept_snd3 (by assumption) ?_ | with_reducible refine kept_some (by assumption) ?_ | dsimp -zeta only | split | dsimp -zeta +zetaDelta only

theorem keptR_execHistogramCopy {z s : State} (h : Kept z s) :
    KeptR z (execHistogramCopy s) := by
  unfold execHistogramCopy
  repeat' first | with_reducible first | assumption | apply keptR_next | apply kept_each | apply kept_copyHist | apply kept_foldl | apply kept_foldl_snd | apply kept_foldl_fst | apply kept_foldl_snd2 | apply kept_ite | apply keptR_ite | intro _ | extract_lets | with_reducible refine kept_some (by assumption) ?_ | dsimp -zeta only | split | dsimp -zeta +zetaDelta only

theorem keptR_execFoldWindowExpiry {z s : State} (h : Kept z s) (code : BitVec 16) (inst : BitVec 16) :
    KeptR z (execFoldWindowExpiry code inst s) := by
  unfold execFoldWindowExpiry
  repeat' first | with_reducible first | assumption | apply keptR_next | apply kept_closeRecord | apply kept_foldl | apply kept_foldl_snd | apply kept_foldl_fst | apply kept_foldl_snd2 | apply kept_ite | apply keptR_ite | intro _ | extract_lets | with_reducible refine kept_some (by assumption) ?_ | dsimp -zeta only | split | dsimp -zeta +zetaDelta only

theorem keptR_execLifeClockSave {z s : State} (h : Kept z s) :
    KeptR z (execLifeClockSave s) := by
  unfold execLifeClockSave
  repeat' first | with_reducible first | assumption | apply keptR_next | apply kept_modStrong | apply kept_foldl | apply kept_foldl_snd | apply kept_foldl_fst | apply kept_foldl_snd2 | exact fuses_refl _ | apply kept_ite | apply keptR_ite | intro _ | extract_lets | with_reducible refine kept_some (by assumption) ?_ | dsimp -zeta only | split | dsimp -zeta +zetaDelta only | exact fuses_refl _

theorem keptR_execOpReserveAdvance {z s : State} (h : Kept z s) :
    KeptR z (execOpReserveAdvance s) := by
  unfold execOpReserveAdvance
  repeat' first | with_reducible first | assumption | apply keptR_next | apply kept_advanceReserve | apply kept_foldl | apply kept_foldl_snd | apply kept_foldl_fst | apply kept_foldl_snd2 | apply kept_ite | apply keptR_ite | intro _ | extract_lets | with_reducible refine kept_some (by assumption) ?_ | dsimp -zeta only | split | dsimp -zeta +zetaDelta only

end Sys2Proof.Machine
end

