-- ==== Sys2Proof/Laws/KeptCellar.lean ====
section
/-!
SUPPORT. The operations of Machine/Cellar.lean keep the relation of Laws/Kept.lean.
-/
namespace Sys2Proof.Machine
open Sys2Proof Safety

theorem kept_cellarEnable {z s : State} (h : Kept z s) :
    Kept z (State.cellarEnable s) := by
  unfold State.cellarEnable
  repeat' first | with_reducible first | assumption | apply kept_showCellar | apply kept_setCelMode | apply kept_closeAll | apply kept_engineNext | apply kept_modCellar | apply kept_foldl | apply kept_foldl_snd | apply kept_foldl_fst | apply kept_foldl_snd2 | apply kept_ite | intro _ | extract_lets | with_reducible refine kept_some (by assumption) ?_ | dsimp -zeta only | split | dsimp -zeta +zetaDelta only

theorem keptR_execHeartbeat {z s : State} (h : Kept z s) :
    KeptR z (execHeartbeat s) := by
  unfold execHeartbeat
  repeat' first | with_reducible first | assumption | apply keptR_next | apply keptR_rowWrite | apply kept_modCellar | apply kept_foldl | apply kept_foldl_snd | apply kept_foldl_fst | apply kept_foldl_snd2 | apply kept_ite | apply keptR_ite | intro _ | extract_lets | with_reducible refine kept_some (by assumption) ?_ | dsimp -zeta only | split | dsimp -zeta +zetaDelta only

theorem keptR_execIncidentSet {z s : State} (h : Kept z s) :
    KeptR z (execIncidentSet s) := by
  unfold execIncidentSet
  repeat' first | with_reducible first | assumption | apply keptR_next | apply keptR_rowWrite | apply kept_incident | apply kept_foldl | apply kept_foldl_snd | apply kept_foldl_fst | apply kept_foldl_snd2 | apply kept_ite | apply keptR_ite | intro _ | extract_lets | with_reducible refine kept_some (by assumption) ?_ | dsimp -zeta only | split | dsimp -zeta +zetaDelta only

theorem kept_endIncident {z s : State} (h : Kept z s) :
    Kept z (State.endIncident s) := by
  unfold State.endIncident
  repeat' first | with_reducible first | assumption | apply kept_retrigger | apply kept_put | apply kept_foldl | apply kept_foldl_snd | apply kept_foldl_fst | apply kept_foldl_snd2 | apply kept_ite | intro _ | extract_lets | with_reducible refine kept_some (by assumption) ?_ | dsimp -zeta only | split | dsimp -zeta +zetaDelta only

theorem keptR_execIncidentClear {z s : State} (h : Kept z s) :
    KeptR z (execIncidentClear s) := by
  unfold execIncidentClear
  repeat' first | with_reducible first | assumption | apply keptR_next | apply keptR_rowWrite | apply kept_endIncident | apply kept_foldl | apply kept_foldl_snd | apply kept_foldl_fst | apply kept_foldl_snd2 | apply kept_ite | apply keptR_ite | intro _ | extract_lets | with_reducible refine kept_some (by assumption) ?_ | dsimp -zeta only | split | dsimp -zeta +zetaDelta only

theorem kept_celComplete {z s : State} (h : Kept z s) (status : Nat) (info : optParam Nat 0) :
    Kept z (State.celComplete s status info) := by
  unfold State.celComplete
  repeat' first | with_reducible first | assumption | apply kept_raise | apply kept_complete | apply kept_put | apply kept_foldl | apply kept_foldl_snd | apply kept_foldl_fst | apply kept_foldl_snd2 | apply kept_ite | intro _ | extract_lets | with_reducible refine kept_some (by assumption) ?_ | dsimp -zeta only | split | dsimp -zeta +zetaDelta only

theorem keptR_execCellarFormat {z s : State} (h : Kept z s) :
    KeptR z (execCellarFormat s) := by
  unfold execCellarFormat
  repeat' first | with_reducible first | assumption | apply keptR_next | apply kept_offer | apply kept_accept | apply kept_celComplete | apply kept_modStrong | apply kept_each | apply kept_modEntry | apply kept_modCellar | apply kept_engineNext | apply kept_showCellar | apply kept_setCelMode | apply kept_writeSuperblock | apply kept_draw | apply kept_foldl | apply kept_foldl_snd | apply kept_foldl_fst | apply kept_foldl_snd2 | exact fuses_refl _ | apply kept_ite | apply keptR_ite | intro _ | extract_lets | with_reducible refine kept_snd (by assumption) ?_ | with_reducible refine kept_snd2 (by assumption) ?_ | with_reducible refine kept_snd3 (by assumption) ?_ | with_reducible refine kept_some (by assumption) ?_ | dsimp -zeta only | split | dsimp -zeta +zetaDelta only | exact fuses_refl _

theorem keptR_execCellarReadSeg {z s : State} (h : Kept z s) (ok : Bool) (data : List (BitVec 8)) :
    KeptR z (execCellarReadSeg ok data s) := by
  unfold execCellarReadSeg
  repeat' first | with_reducible first | assumption | apply keptR_next | apply kept_offer | apply kept_accept | apply kept_celComplete | apply kept_emit | apply kept_unitUse | apply kept_foldl | apply kept_foldl_snd | apply kept_foldl_fst | apply kept_foldl_snd2 | apply kept_ite | apply keptR_ite | intro _ | extract_lets | with_reducible refine kept_some (by assumption) ?_ | dsimp -zeta only | split | dsimp -zeta +zetaDelta only

theorem keptR_execCellarRescan {z s : State} (h : Kept z s) :
    KeptR z (execCellarRescan s) := by
  unfold execCellarRescan
  repeat' first | with_reducible first | assumption | apply keptR_next | apply kept_offer | apply kept_accept | apply kept_celComplete | apply kept_setCelMode | apply kept_closeAll | apply kept_foldl | apply kept_foldl_snd | apply kept_foldl_fst | apply kept_foldl_snd2 | apply kept_ite | apply keptR_ite | intro _ | extract_lets | with_reducible refine kept_some (by assumption) ?_ | dsimp -zeta only | split | dsimp -zeta +zetaDelta only

theorem keptR_execCellarBadCommand {z s : State} (h : Kept z s) :
    KeptR z (execCellarBadCommand s) := by
  unfold execCellarBadCommand
  repeat' first | with_reducible first | assumption | apply keptR_next | apply kept_offer | apply kept_celComplete | apply kept_accept | apply kept_foldl | apply kept_foldl_snd | apply kept_foldl_fst | apply kept_foldl_snd2 | apply kept_ite | apply keptR_ite | intro _ | extract_lets | with_reducible refine kept_some (by assumption) ?_ | dsimp -zeta only | split | dsimp -zeta +zetaDelta only

theorem keptR_execDirCursorWrite {z s : State} (h : Kept z s) (high : Bool) (value : BitVec 32) :
    KeptR z (execDirCursorWrite high value s) := by
  unfold execDirCursorWrite
  repeat' first | with_reducible first | assumption | apply keptR_next | apply keptR_rowWrite | apply kept_wr | apply kept_modCellar | apply kept_foldl | apply kept_foldl_snd | apply kept_foldl_fst | apply kept_foldl_snd2 | apply kept_ite | apply keptR_ite | intro _ | extract_lets | with_reducible refine kept_some (by assumption) ?_ | dsimp -zeta only | split | dsimp -zeta +zetaDelta only

theorem keptR_execCellarEntryWrite {z s : State} (h : Kept z s) (entry : Fin 256) (word : Fin 3) (value : BitVec 32) :
    KeptR z (execCellarEntryWrite entry word value s) := by
  unfold execCellarEntryWrite
  repeat' first | with_reducible first | assumption | apply keptR_next | apply keptR_rowWrite | apply kept_wr | apply kept_modEntry | apply kept_retrigger | apply kept_foldl | apply kept_foldl_snd | apply kept_foldl_fst | apply kept_foldl_snd2 | apply kept_ite | apply keptR_ite | intro _ | extract_lets | with_reducible refine kept_some (by assumption) ?_ | dsimp -zeta only | split | dsimp -zeta +zetaDelta only

theorem kept_dirPop {z s : State} (h : Kept z s) :
    Kept z (State.dirPop s) := by
  unfold State.dirPop
  repeat' first | with_reducible first | assumption | apply kept_put | apply kept_putBytes | apply kept_modCellar | apply kept_foldl | apply kept_foldl_snd | apply kept_foldl_fst | apply kept_foldl_snd2 | apply kept_ite | intro _ | extract_lets | with_reducible refine kept_some (by assumption) ?_ | dsimp -zeta only | split | dsimp -zeta +zetaDelta only

theorem keptR_execPostSExpiry {z s : State} (h : Kept z s) (entry : Fin 256) :
    KeptR z (execPostSExpiry entry s) := by
  unfold execPostSExpiry
  repeat' first | with_reducible first | assumption | apply keptR_next | apply kept_modEntry | apply kept_foldl | apply kept_foldl_snd | apply kept_foldl_fst | apply kept_foldl_snd2 | apply kept_ite | apply keptR_ite | intro _ | extract_lets | with_reducible refine kept_some (by assumption) ?_ | dsimp -zeta only | split | dsimp -zeta +zetaDelta only

theorem kept_cellarPowerFail {z s : State} (h : Kept z s) :
    Kept z (State.cellarPowerFail s) := by
  unfold State.cellarPowerFail
  repeat' first | with_reducible first | assumption | apply kept_modCellar | apply kept_emit | apply kept_writePending | apply kept_foldl | apply kept_foldl_snd | apply kept_foldl_fst | apply kept_foldl_snd2 | apply kept_ite | intro _ | extract_lets | with_reducible refine kept_some (by assumption) ?_ | dsimp -zeta only | split | dsimp -zeta +zetaDelta only

theorem keptR_execFooterSignatureDone {z s : State} (h : Kept z s) (aborted : Bool) :
    KeptR z (execFooterSignatureDone aborted s) := by
  unfold execFooterSignatureDone
  repeat' first | with_reducible first | assumption | apply keptR_next | apply kept_engineNext | apply kept_settleFooter | apply kept_foldl | apply kept_foldl_snd | apply kept_foldl_fst | apply kept_foldl_snd2 | apply kept_ite | apply keptR_ite | intro _ | extract_lets | with_reducible refine kept_some (by assumption) ?_ | dsimp -zeta only | split | dsimp -zeta +zetaDelta only

theorem kept_rebuild {z s : State} (h : Kept z s) (cb : Nat) (bytes : List Byte) (rs : List (List Byte)) :
    Kept z (State.rebuild s cb bytes rs).2 := by
  unfold State.rebuild
  repeat' first | with_reducible first | assumption | apply kept_drawn | apply kept_foldl | apply kept_foldl_snd | apply kept_foldl_fst | apply kept_foldl_snd2 | apply kept_ite | intro _ | extract_lets | with_reducible refine kept_some (by assumption) ?_ | dsimp -zeta only | split | dsimp -zeta +zetaDelta only

theorem kept_driveError {z s : State} (h : Kept z s) :
    Kept z (State.driveError s) := by
  unfold State.driveError
  repeat' first | with_reducible first | assumption | apply kept_blotter | apply kept_raise | apply kept_bump | apply kept_foldl | apply kept_foldl_snd | apply kept_foldl_fst | apply kept_foldl_snd2 | apply kept_ite | intro _ | extract_lets | with_reducible refine kept_some (by assumption) ?_ | dsimp -zeta only | split | dsimp -zeta +zetaDelta only

theorem kept_celFault {z s : State} (h : Kept z s) :
    Kept z (State.celFault s) := by
  unfold State.celFault
  repeat' first | with_reducible first | assumption | apply kept_each | apply kept_modEntry | apply kept_modCellar | apply kept_engineNext | apply kept_showCellar | apply kept_setCelMode | apply kept_foldl | apply kept_foldl_snd | apply kept_foldl_fst | apply kept_foldl_snd2 | apply kept_ite | intro _ | extract_lets | with_reducible refine kept_some (by assumption) ?_ | dsimp -zeta only | split | dsimp -zeta +zetaDelta only

theorem keptR_execNvmeTimeout {z s : State} (h : Kept z s) :
    KeptR z (execNvmeTimeout s) := by
  unfold execNvmeTimeout
  repeat' first | with_reducible first | assumption | apply keptR_next | apply kept_driveError | apply kept_emit | apply kept_modCellar | apply kept_celFault | apply kept_foldl | apply kept_foldl_snd | apply kept_foldl_fst | apply kept_foldl_snd2 | apply kept_ite | apply keptR_ite | intro _ | extract_lets | with_reducible refine kept_some (by assumption) ?_ | dsimp -zeta only | split | dsimp -zeta +zetaDelta only

theorem keptR_execIncidentHoldExpiry {z s : State} (h : Kept z s) :
    KeptR z (execIncidentHoldExpiry s) := by
  unfold execIncidentHoldExpiry
  repeat' first | with_reducible first | assumption | apply keptR_next | apply kept_endIncident | apply kept_foldl | apply kept_foldl_snd | apply kept_foldl_fst | apply kept_foldl_snd2 | apply kept_ite | apply keptR_ite | intro _ | extract_lets | with_reducible refine kept_some (by assumption) ?_ | dsimp -zeta only | split | dsimp -zeta +zetaDelta only

theorem kept_loseUplink {z s : State} (h : Kept z s) :
    Kept z (State.loseUplink s) := by
  unfold State.loseUplink
  repeat' first | with_reducible first | assumption | apply kept_retrigger | apply kept_raise | apply kept_put | apply kept_foldl | apply kept_foldl_snd | apply kept_foldl_fst | apply kept_foldl_snd2 | apply kept_ite | intro _ | extract_lets | with_reducible refine kept_some (by assumption) ?_ | dsimp -zeta only | split | dsimp -zeta +zetaDelta only

theorem keptR_execHeartbeatLapse {z s : State} (h : Kept z s) :
    KeptR z (execHeartbeatLapse s) := by
  unfold execHeartbeatLapse
  repeat' first | with_reducible first | assumption | apply keptR_next | apply kept_loseUplink | apply kept_modCellar | apply kept_foldl | apply kept_foldl_snd | apply kept_foldl_fst | apply kept_foldl_snd2 | apply kept_ite | apply keptR_ite | intro _ | extract_lets | with_reducible refine kept_some (by assumption) ?_ | dsimp -zeta only | split | dsimp -zeta +zetaDelta only

theorem kept_storeWord {z s : State} (h : Kept z s) (i : Nat) (k : Nat) :
    Kept z (State.storeWord s i k).2.2 := by
  unfold State.storeWord
  repeat' first | with_reducible first | assumption | apply kept_memRead | apply kept_foldl | apply kept_foldl_snd | apply kept_foldl_fst | apply kept_foldl_snd2 | apply kept_ite | intro _ | extract_lets | with_reducible refine kept_snd (by assumption) ?_ | with_reducible refine kept_snd2 (by assumption) ?_ | with_reducible refine kept_snd3 (by assumption) ?_ | with_reducible refine kept_some (by assumption) ?_ | dsimp -zeta only | split | dsimp -zeta +zetaDelta only

theorem keptR_execCellarRetryTimer {z s : State} (h : Kept z s) :
    KeptR z (execCellarRetryTimer s) := by
  unfold execCellarRetryTimer
  repeat' first | with_reducible first | assumption | apply keptR_next | apply kept_setCelMode | apply kept_foldl | apply kept_foldl_snd | apply kept_foldl_fst | apply kept_foldl_snd2 | apply kept_ite | apply keptR_ite | intro _ | extract_lets | with_reducible refine kept_some (by assumption) ?_ | dsimp -zeta only | split | dsimp -zeta +zetaDelta only

theorem keptR_execCellarDriveWrite {z s : State} (h : Kept z s) :
    KeptR z (execCellarDriveWrite s) := by
  unfold execCellarDriveWrite
  repeat' first | with_reducible first | assumption | apply keptR_next | apply kept_modCellar | apply kept_drainRing | apply kept_writeRecords | apply kept_settleFresh | apply kept_showCellar | apply kept_writeFooters | apply kept_foldl | apply kept_foldl_snd | apply kept_foldl_fst | apply kept_foldl_snd2 | apply kept_ite | apply keptR_ite | intro _ | extract_lets | with_reducible refine kept_some (by assumption) ?_ | dsimp -zeta only | split | dsimp -zeta +zetaDelta only

theorem keptR_execRootPortLinkDown {z s : State} (h : Kept z s) :
    KeptR z (execRootPortLinkDown s) := by
  unfold execRootPortLinkDown
  repeat' first | with_reducible first | assumption | apply keptR_next | apply kept_celFault | apply kept_driveError | apply kept_foldl | apply kept_foldl_snd | apply kept_foldl_fst | apply kept_foldl_snd2 | apply kept_ite | apply keptR_ite | intro _ | extract_lets | with_reducible refine kept_some (by assumption) ?_ | dsimp -zeta only | split | dsimp -zeta +zetaDelta only

theorem kept_cellarPowerBack {z s : State} (h : Kept z s) :
    Kept z (State.cellarPowerBack s) := by
  unfold State.cellarPowerBack
  repeat' first | with_reducible first | assumption | apply kept_modCellar | apply kept_showCellar | apply kept_each | apply kept_flushMissed | apply kept_modEntry | apply kept_foldl | apply kept_foldl_snd | apply kept_foldl_fst | apply kept_foldl_snd2 | apply kept_ite | intro _ | extract_lets | with_reducible refine kept_some (by assumption) ?_ | dsimp -zeta only | split | dsimp -zeta +zetaDelta only

theorem kept_recover {z s : State} (h : Kept z s) (extents : List (Nat × List Byte)) :
    Kept z (State.recover s extents) := by
  unfold State.recover
  repeat' first | with_reducible first | assumption | apply kept_setCelMode | apply kept_each | apply kept_writeDir | apply kept_setDir | apply kept_modDrive | apply kept_closeOne | apply kept_raiseIf | apply kept_showCellar | apply kept_recovered | apply kept_engineNext | apply kept_writeFooters | apply kept_rebuild | apply kept_foldl | apply kept_foldl_snd | apply kept_foldl_fst | apply kept_foldl_snd2 | apply kept_ite | intro _ | extract_lets | with_reducible refine kept_snd (by assumption) ?_ | with_reducible refine kept_snd2 (by assumption) ?_ | with_reducible refine kept_snd3 (by assumption) ?_ | with_reducible refine kept_some (by assumption) ?_ | dsimp -zeta only | split | dsimp -zeta +zetaDelta only

theorem keptR_execCellarInit {z s : State} (h : Kept z s) (link : Bool) (lbaBytes : Nat) (blocks : Nat) (plain : Bool) (dsm : Bool) (cache : Bool) (transfer : Nat) (copies : List (List (BitVec 8))) (dir : List (List (BitVec 8))) (extents : List (Nat × List (BitVec 8))) :
    KeptR z (execCellarInit link lbaBytes blocks plain dsm cache transfer copies dir extents s) := by
  unfold execCellarInit
  repeat' first | with_reducible first | assumption | apply keptR_next | apply kept_setCelMode | apply kept_each | apply kept_emit | apply kept_modCellar | apply kept_showCellar | apply kept_setDir | apply kept_recover | apply kept_foldl | apply kept_foldl_snd | apply kept_foldl_fst | apply kept_foldl_snd2 | apply kept_ite | apply keptR_ite | intro _ | extract_lets | with_reducible refine kept_some (by assumption) ?_ | dsimp -zeta only | split | dsimp -zeta +zetaDelta only

theorem keptR_execCellarOverloadCheck {z s : State} (h : Kept z s) :
    KeptR z (execCellarOverloadCheck s) := by
  unfold execCellarOverloadCheck
  repeat' first | with_reducible first | assumption | apply keptR_next | apply kept_modCellar | apply kept_missFrame | apply kept_modEntry | apply kept_showCellar | apply kept_raise | apply kept_bump | apply kept_flushMissed | apply kept_foldl | apply kept_foldl_snd | apply kept_foldl_fst | apply kept_foldl_snd2 | apply kept_ite | apply keptR_ite | intro _ | extract_lets | with_reducible refine kept_some (by assumption) ?_ | dsimp -zeta only | split | dsimp -zeta +zetaDelta only

theorem keptR_execCellarAudioRecord {z s : State} (h : Kept z s) (entry : Fin 256) :
    KeptR z (execCellarAudioRecord entry s) := by
  unfold execCellarAudioRecord
  repeat' first | with_reducible first | assumption | apply keptR_next | apply kept_modEntry | apply kept_showCellar | apply kept_appendRecord | apply kept_storeWord | apply kept_foldl | apply kept_foldl_snd | apply kept_foldl_fst | apply kept_foldl_snd2 | apply kept_ite | apply keptR_ite | intro _ | extract_lets | with_reducible refine kept_snd (by assumption) ?_ | with_reducible refine kept_snd2 (by assumption) ?_ | with_reducible refine kept_snd3 (by assumption) ?_ | with_reducible refine kept_some (by assumption) ?_ | dsimp -zeta only | split | dsimp -zeta +zetaDelta only

theorem keptR_execUplinkRestored {z s : State} (h : Kept z s) :
    KeptR z (execUplinkRestored s) := by
  unfold execUplinkRestored
  repeat' first | with_reducible first | assumption | apply keptR_next | apply kept_modCellar | apply kept_retrigger | apply kept_raise | apply kept_put | apply kept_foldl | apply kept_foldl_snd | apply kept_foldl_fst | apply kept_foldl_snd2 | apply kept_ite | apply keptR_ite | intro _ | extract_lets | with_reducible refine kept_some (by assumption) ?_ | dsimp -zeta only | split | dsimp -zeta +zetaDelta only

theorem keptR_execSuperblockTimer {z s : State} (h : Kept z s) :
    KeptR z (execSuperblockTimer s) := by
  unfold execSuperblockTimer
  repeat' first | with_reducible first | assumption | apply keptR_next | apply kept_writeSuperblock | apply kept_settleFresh | apply kept_foldl | apply kept_foldl_snd | apply kept_foldl_fst | apply kept_foldl_snd2 | apply kept_ite | apply keptR_ite | intro _ | extract_lets | with_reducible refine kept_some (by assumption) ?_ | dsimp -zeta only | split | dsimp -zeta +zetaDelta only

theorem keptR_execFooterSignTimeout {z s : State} (h : Kept z s) :
    KeptR z (execFooterSignTimeout s) := by
  unfold execFooterSignTimeout
  repeat' first | with_reducible first | assumption | apply keptR_next | apply kept_engineNext | apply kept_settleFooter | apply kept_foldl | apply kept_foldl_snd | apply kept_foldl_fst | apply kept_foldl_snd2 | apply kept_ite | apply keptR_ite | intro _ | extract_lets | with_reducible refine kept_some (by assumption) ?_ | dsimp -zeta only | split | dsimp -zeta +zetaDelta only

theorem keptR_execUplinkPinLoss {z s : State} (h : Kept z s) :
    KeptR z (execUplinkPinLoss s) := by
  unfold execUplinkPinLoss
  repeat' first | with_reducible first | assumption | apply keptR_next | apply kept_loseUplink | apply kept_modCellar | apply kept_foldl | apply kept_foldl_snd | apply kept_foldl_fst | apply kept_foldl_snd2 | apply kept_ite | apply keptR_ite | intro _ | extract_lets | with_reducible refine kept_some (by assumption) ?_ | dsimp -zeta only | split | dsimp -zeta +zetaDelta only

theorem keptR_execNvmeCompletion {z s : State} (h : Kept z s) (tag : Nat) :
    KeptR z (execNvmeCompletion tag s) := by
  unfold execNvmeCompletion
  repeat' first | with_reducible first | assumption | apply keptR_next | apply kept_modCellar | apply kept_showCellar | apply kept_foldl | apply kept_foldl_snd | apply kept_foldl_fst | apply kept_foldl_snd2 | apply kept_ite | apply keptR_ite | intro _ | extract_lets | with_reducible refine kept_some (by assumption) ?_ | dsimp -zeta only | split | dsimp -zeta +zetaDelta only

end Sys2Proof.Machine
end

