-- ==== Sys2Proof/Laws/KeptSdi.lean ====
section
/-!
SUPPORT. The operations of Machine/Sdi.lean keep the relation of Laws/Kept.lean.
-/
namespace Sys2Proof.Machine
open Sys2Proof Safety

theorem kept_pidFrame {z s : State} (h : Kept z s) (n : Nat) :
    Kept z (State.pidFrame s n) := by
  unfold State.pidFrame
  repeat' first | with_reducible first | assumption | apply kept_put | apply kept_modPort | apply kept_raiseIf | apply kept_raise | apply kept_foldl | apply kept_foldl_snd | apply kept_foldl_fst | apply kept_foldl_snd2 | apply kept_ite | intro _ | extract_lets | with_reducible refine kept_some (by assumption) ?_ | dsimp -zeta only | split | dsimp -zeta +zetaDelta only

theorem kept_setSdi {z s : State} (h : Kept z s) (n : Nat) (m : SdiMode) :
    Kept z (State.setSdi s n m) := by
  unfold State.setSdi
  repeat' first | with_reducible first | assumption | apply kept_put | apply kept_foldl | apply kept_foldl_snd | apply kept_foldl_fst | apply kept_foldl_snd2 | apply kept_ite | intro _ | extract_lets | with_reducible refine kept_some (by assumption) ?_ | dsimp -zeta only | split | dsimp -zeta +zetaDelta only

theorem keptR_execSdiSearchTimer {z s : State} (h : Kept z s) (port : Fin 96) :
    KeptR z (execSdiSearchTimer port s) := by
  unfold execSdiSearchTimer
  repeat' first | with_reducible first | assumption | apply keptR_next | apply kept_modPort | apply kept_foldl | apply kept_foldl_snd | apply kept_foldl_fst | apply kept_foldl_snd2 | apply kept_ite | apply keptR_ite | intro _ | extract_lets | with_reducible refine kept_some (by assumption) ?_ | dsimp -zeta only | split | dsimp -zeta +zetaDelta only

theorem kept_sdiAbandon {z s : State} (h : Kept z s) (n : Nat) :
    Kept z (State.sdiAbandon s n) := by
  unfold State.sdiAbandon
  repeat' first | with_reducible first | assumption | apply kept_modStream | apply kept_abandonFrame | apply kept_foldl | apply kept_foldl_snd | apply kept_foldl_fst | apply kept_foldl_snd2 | apply kept_ite | intro _ | extract_lets | with_reducible refine kept_some (by assumption) ?_ | dsimp -zeta only | split | dsimp -zeta +zetaDelta only

theorem kept_sdiLose {z s : State} (h : Kept z s) (n : Nat) (m : SdiMode) :
    Kept z (State.sdiLose s n m) := by
  unfold State.sdiLose
  repeat' first | with_reducible first | assumption | apply kept_raise | apply kept_bump | apply kept_sdiAbandon | apply kept_setSdi | apply kept_modPort | apply kept_foldl | apply kept_foldl_snd | apply kept_foldl_fst | apply kept_foldl_snd2 | apply kept_ite | intro _ | extract_lets | with_reducible refine kept_some (by assumption) ?_ | dsimp -zeta only | split | dsimp -zeta +zetaDelta only

theorem kept_sdiAudioIn {z s : State} (h : Kept z s) (n : Nat) (a : SdiAudio) :
    Kept z (State.sdiAudioIn s n a) := by
  unfold State.sdiAudioIn
  repeat' first | with_reducible first | assumption | apply kept_each | apply kept_setSrcMode | apply kept_raiseIf | apply kept_samplesIn | apply kept_foldl | apply kept_foldl_snd | apply kept_foldl_fst | apply kept_foldl_snd2 | apply kept_ite | intro _ | extract_lets | with_reducible refine kept_some (by assumption) ?_ | dsimp -zeta only | split | dsimp -zeta +zetaDelta only

theorem keptR_execSdiLineReceived {z s : State} (h : Kept z s) (port : Fin 96) (eav : Bool) (change : Bool) (lnumErr : Bool) (crcY : Bool) (crcC : Bool) (line : Nat) (samples : List (BitVec 10)) (anc : List SdiAnc) (audio : List SdiAudio) :
    KeptR z (execSdiLineReceived port eav change lnumErr crcY crcC line samples anc audio s) := by
  unfold execSdiLineReceived
  repeat' first | with_reducible first | assumption | apply keptR_next | apply kept_sdiLose | apply kept_bump | apply kept_seeStart | apply kept_modStream | apply kept_each | apply kept_modPort | apply kept_wr | apply kept_bindAnc | apply kept_bumpBy | apply kept_sdiAudioIn | apply kept_pidFrame | apply kept_foldl | apply kept_foldl_snd | apply kept_foldl_fst | apply kept_foldl_snd2 | apply kept_ite | apply keptR_ite | intro _ | extract_lets | with_reducible refine kept_some (by assumption) ?_ | dsimp -zeta only | split | dsimp -zeta +zetaDelta only

theorem keptR_execSdiDetectComplete {z s : State} (h : Kept z s) (port : Fin 96) (width : BitVec 12) (height : BitVec 12) (fields : Bool) (lines : Nat) (rate : Fin 9) (pid : Option (BitVec 32)) :
    KeptR z (execSdiDetectComplete port width height fields lines rate pid s) := by
  unfold execSdiDetectComplete
  repeat' first | with_reducible first | assumption | apply keptR_next | apply kept_wr | apply kept_put | apply kept_modPort | apply kept_pidFrame | apply kept_raiseIf | apply kept_setSdi | apply kept_foldl | apply kept_foldl_snd | apply kept_foldl_fst | apply kept_foldl_snd2 | apply kept_ite | apply keptR_ite | intro _ | extract_lets | with_reducible refine kept_some (by assumption) ?_ | dsimp -zeta only | split | dsimp -zeta +zetaDelta only

theorem keptR_execSdiLoss {z s : State} (h : Kept z s) (port : Fin 96) (carrier : Bool) :
    KeptR z (execSdiLoss port carrier s) := by
  unfold execSdiLoss
  repeat' first | with_reducible first | assumption | apply keptR_next | apply kept_put | apply kept_sdiLose | apply kept_foldl | apply kept_foldl_snd | apply kept_foldl_fst | apply kept_foldl_snd2 | apply kept_ite | apply keptR_ite | intro _ | extract_lets | with_reducible refine kept_some (by assumption) ?_ | dsimp -zeta only | split | dsimp -zeta +zetaDelta only

theorem keptR_execSdiCdrLock {z s : State} (h : Kept z s) (port : Fin 96) :
    KeptR z (execSdiCdrLock port s) := by
  unfold execSdiCdrLock
  repeat' first | with_reducible first | assumption | apply keptR_next | apply kept_put | apply kept_setSdi | apply kept_foldl | apply kept_foldl_snd | apply kept_foldl_fst | apply kept_foldl_snd2 | apply kept_ite | apply keptR_ite | intro _ | extract_lets | with_reducible refine kept_some (by assumption) ?_ | dsimp -zeta only | split | dsimp -zeta +zetaDelta only

theorem keptR_execSdiCarrierUp {z s : State} (h : Kept z s) (port : Fin 96) :
    KeptR z (execSdiCarrierUp port s) := by
  unfold execSdiCarrierUp
  repeat' first | with_reducible first | assumption | apply keptR_next | apply kept_modPort | apply kept_put | apply kept_setSdi | apply kept_raise | apply kept_foldl | apply kept_foldl_snd | apply kept_foldl_fst | apply kept_foldl_snd2 | apply kept_ite | apply keptR_ite | intro _ | extract_lets | with_reducible refine kept_some (by assumption) ?_ | dsimp -zeta only | split | dsimp -zeta +zetaDelta only

theorem keptR_execSdiNoLockTimeout {z s : State} (h : Kept z s) (port : Fin 96) :
    KeptR z (execSdiNoLockTimeout port s) := by
  unfold execSdiNoLockTimeout
  repeat' first | with_reducible first | assumption | apply keptR_next | apply kept_put | apply kept_foldl | apply kept_foldl_snd | apply kept_foldl_fst | apply kept_foldl_snd2 | apply kept_ite | apply keptR_ite | intro _ | extract_lets | with_reducible refine kept_some (by assumption) ?_ | dsimp -zeta only | split | dsimp -zeta +zetaDelta only

end Sys2Proof.Machine
end

