-- ==== Sys2Proof/Laws/KeptFolioOps.lean ====
section
/-!
SUPPORT. The operations of Machine/FolioOps.lean keep the relation of Laws/Kept.lean.
-/
namespace Sys2Proof.Machine
open Sys2Proof Safety

theorem kept_dryInvalid {z s : State} (h : Kept z s) (f : Nat) :
    Kept z (State.dryInvalid s f) := by
  unfold State.dryInvalid
  repeat' first | with_reducible first | assumption | apply kept_modFolio | apply kept_put | apply kept_foldl | apply kept_foldl_snd | apply kept_foldl_fst | apply kept_foldl_snd2 | apply kept_ite | intro _ | extract_lets | with_reducible refine kept_some (by assumption) ?_ | dsimp -zeta only | split | dsimp -zeta +zetaDelta only

theorem kept_commitClear {z s : State} (h : Kept z s) (f : Nat) :
    Kept z (State.commitClear s f) := by
  unfold State.commitClear
  repeat' first | with_reducible first | assumption | apply kept_put | apply kept_raise | apply kept_foldl | apply kept_foldl_snd | apply kept_foldl_fst | apply kept_foldl_snd2 | apply kept_ite | intro _ | extract_lets | with_reducible refine kept_some (by assumption) ?_ | dsimp -zeta only | split | dsimp -zeta +zetaDelta only

theorem kept_askMode {z s : State} (h : Kept z s) (f : Nat) (data : List Byte) :
    Kept z (State.askMode s f data) := by
  unfold State.askMode
  repeat' first | with_reducible first | assumption | apply kept_each | apply kept_ctrlRequest | apply kept_modPort | apply kept_foldl | apply kept_foldl_snd | apply kept_foldl_fst | apply kept_foldl_snd2 | apply kept_ite | intro _ | extract_lets | with_reducible refine kept_some (by assumption) ?_ | dsimp -zeta only | split | dsimp -zeta +zetaDelta only

theorem kept_setRaster {z s : State} (h : Kept z s) (f : Nat) (m : RasterMode) :
    Kept z (State.setRaster s f m) := by
  unfold State.setRaster
  repeat' first | with_reducible first | assumption | apply kept_put | apply kept_foldl | apply kept_foldl_snd | apply kept_foldl_fst | apply kept_foldl_snd2 | apply kept_ite | intro _ | extract_lets | with_reducible refine kept_some (by assumption) ?_ | dsimp -zeta only | split | dsimp -zeta +zetaDelta only

theorem kept_acceptChange {z s : State} (h : Kept z s) (f : Nat) (vals : List (Nat × BitVec 32)) (staleMask : Nat) :
    Kept z (State.acceptChange s f vals staleMask) := by
  unfold State.acceptChange
  repeat' first | with_reducible first | assumption | apply kept_askMode | apply kept_modFolio | apply kept_setRaster | apply kept_put | apply kept_foldl | apply kept_foldl_snd | apply kept_foldl_fst | apply kept_foldl_snd2 | apply kept_ite | intro _ | extract_lets | with_reducible refine kept_some (by assumption) ?_ | dsimp -zeta only | split | dsimp -zeta +zetaDelta only

theorem kept_sdiSends {z s : State} (h : Kept z s) (n : Nat) (t : Timing) (r : SdiRaster) :
    Kept z (State.sdiSends s n t r) := by
  unfold State.sdiSends
  repeat' first | with_reducible first | assumption | apply kept_modPort | apply kept_wr | apply kept_put | apply kept_setSdi | apply kept_foldl | apply kept_foldl_snd | apply kept_foldl_fst | apply kept_foldl_snd2 | apply kept_ite | intro _ | extract_lets | with_reducible refine kept_some (by assumption) ?_ | dsimp -zeta only | split | dsimp -zeta +zetaDelta only

theorem kept_sdiRefBad {z s : State} (h : Kept z s) (n : Nat) :
    Kept z (State.sdiRefBad s n) := by
  unfold State.sdiRefBad
  repeat' first | with_reducible first | assumption | apply kept_raise | apply kept_setSdi | apply kept_foldl | apply kept_foldl_snd | apply kept_foldl_fst | apply kept_foldl_snd2 | apply kept_ite | intro _ | extract_lets | with_reducible refine kept_some (by assumption) ?_ | dsimp -zeta only | split | dsimp -zeta +zetaDelta only

theorem kept_sdiCommit {z s : State} (h : Kept z s) (f : Nat) (changed : Bool) :
    Kept z (State.sdiCommit s f changed) := by
  unfold State.sdiCommit
  repeat' first | with_reducible first | assumption | apply kept_each | apply kept_sdiSends | apply kept_sdiRefBad | apply kept_foldl | apply kept_foldl_snd | apply kept_foldl_fst | apply kept_foldl_snd2 | apply kept_ite | intro _ | extract_lets | with_reducible refine kept_some (by assumption) ?_ | dsimp -zeta only | split | dsimp -zeta +zetaDelta only

theorem kept_rasterWaits {z s : State} (h : Kept z s) (f : Nat) :
    Kept z (State.rasterWaits s f) := by
  unfold State.rasterWaits
  repeat' first | with_reducible first | assumption | apply kept_modFolio | apply kept_put | apply kept_setRaster | apply kept_raiseIf | apply kept_foldl | apply kept_foldl_snd | apply kept_foldl_fst | apply kept_foldl_snd2 | apply kept_ite | intro _ | extract_lets | with_reducible refine kept_some (by assumption) ?_ | dsimp -zeta only | split | dsimp -zeta +zetaDelta only

theorem kept_followRun {z s : State} (h : Kept z s) (f : Nat) :
    Kept z (State.followRun s f) := by
  unfold State.followRun
  repeat' first | with_reducible first | assumption | apply kept_rasterWaits | apply kept_setRaster | apply kept_foldl | apply kept_foldl_snd | apply kept_foldl_fst | apply kept_foldl_snd2 | apply kept_ite | intro _ | extract_lets | with_reducible refine kept_some (by assumption) ?_ | dsimp -zeta only | split | dsimp -zeta +zetaDelta only

theorem kept_commitDone {z s : State} (h : Kept z s) (f : Nat) (staleMask : Nat) :
    Kept z (State.commitDone s f staleMask) := by
  unfold State.commitDone
  repeat' first | with_reducible first | assumption | apply kept_put | apply kept_each | apply kept_raiseIf | apply kept_modFolio | apply kept_raise | apply kept_foldl | apply kept_foldl_snd | apply kept_foldl_fst | apply kept_foldl_snd2 | apply kept_ite | intro _ | extract_lets | with_reducible refine kept_some (by assumption) ?_ | dsimp -zeta only | split | dsimp -zeta +zetaDelta only

theorem kept_activate {z s : State} (h : Kept z s) (f : Nat) (vals : List (Nat × BitVec 32)) :
    Kept z (State.activate s f vals) := by
  unfold State.activate
  repeat' first | with_reducible first | assumption | apply kept_each | apply kept_wr | apply kept_dryInvalid | apply kept_lipRestart | apply kept_modFolio | apply kept_foldl | apply kept_foldl_snd | apply kept_foldl_fst | apply kept_foldl_snd2 | apply kept_ite | intro _ | extract_lets | with_reducible refine kept_some (by assumption) ?_ | dsimp -zeta only | split | dsimp -zeta +zetaDelta only

theorem kept_commitApply {z s : State} (h : Kept z s) (f : Nat) (unready : List Nat) :
    Kept z (State.commitApply s f unready) := by
  unfold State.commitApply
  repeat' first | with_reducible first | assumption | apply kept_acceptChange | apply kept_sdiCommit | apply kept_followRun | apply kept_commitDone | apply kept_activate | apply kept_foldl | apply kept_foldl_snd | apply kept_foldl_fst | apply kept_foldl_snd2 | apply kept_ite | intro _ | extract_lets | with_reducible refine kept_some (by assumption) ?_ | dsimp -zeta only | split | dsimp -zeta +zetaDelta only

theorem kept_commitPoint {z s : State} (h : Kept z s) (f : Nat) :
    Kept z (State.commitPoint s f) := by
  unfold State.commitPoint
  repeat' first | with_reducible first | assumption | apply kept_put | apply kept_commitApply | apply kept_raise | apply kept_bump | apply kept_foldl | apply kept_foldl_snd | apply kept_foldl_fst | apply kept_foldl_snd2 | apply kept_ite | intro _ | extract_lets | with_reducible refine kept_some (by assumption) ?_ | dsimp -zeta only | split | dsimp -zeta +zetaDelta only

theorem kept_commitArm {z s : State} (h : Kept z s) (f : Nat) (periods : Nat) :
    Kept z (State.commitArm s f periods) := by
  unfold State.commitArm
  repeat' first | with_reducible first | assumption | apply kept_put | apply kept_planTakes | apply kept_commitPoint | apply kept_foldl | apply kept_foldl_snd | apply kept_foldl_fst | apply kept_foldl_snd2 | apply kept_ite | intro _ | extract_lets | with_reducible refine kept_some (by assumption) ?_ | dsimp -zeta only | split | dsimp -zeta +zetaDelta only

theorem kept_surfaceTouched {z s : State} (h : Kept z s) (i : Nat) :
    Kept z (State.surfaceTouched s i) := by
  unfold State.surfaceTouched
  repeat' first | with_reducible first | assumption | apply kept_each | apply kept_dryInvalid | apply kept_modFolio | apply kept_foldl | apply kept_foldl_snd | apply kept_foldl_fst | apply kept_foldl_snd2 | apply kept_ite | intro _ | extract_lets | with_reducible refine kept_some (by assumption) ?_ | dsimp -zeta only | split | dsimp -zeta +zetaDelta only

theorem kept_dropWriteback {z s : State} (h : Kept z s) (f : Nat) :
    Kept z (State.dropWriteback s f) := by
  unfold State.dropWriteback
  repeat' first | with_reducible first | assumption | apply kept_abandonFrame | apply kept_raise | apply kept_modFolio | apply kept_foldl | apply kept_foldl_snd | apply kept_foldl_fst | apply kept_foldl_snd2 | apply kept_ite | intro _ | extract_lets | with_reducible refine kept_some (by assumption) ?_ | dsimp -zeta only | split | dsimp -zeta +zetaDelta only

theorem kept_unpinLatch {z s : State} (h : Kept z s) (f : Nat) (t : PaneLatch) :
    Kept z (State.unpinLatch s f t) := by
  unfold State.unpinLatch
  repeat' first | with_reducible first | assumption | apply kept_unpin | apply kept_foldl | apply kept_foldl_snd | apply kept_foldl_fst | apply kept_foldl_snd2 | apply kept_ite | intro _ | extract_lets | with_reducible refine kept_some (by assumption) ?_ | dsimp -zeta only | split | dsimp -zeta +zetaDelta only

theorem kept_unpinFolio {z s : State} (h : Kept z s) (f : Nat) :
    Kept z (State.unpinFolio s f) := by
  unfold State.unpinFolio
  repeat' first | with_reducible first | assumption | apply kept_each | apply kept_unpinLatch | apply kept_foldl | apply kept_foldl_snd | apply kept_foldl_fst | apply kept_foldl_snd2 | apply kept_ite | intro _ | extract_lets | with_reducible refine kept_some (by assumption) ?_ | dsimp -zeta only | split | dsimp -zeta +zetaDelta only

theorem kept_dropKept {z s : State} (h : Kept z s) (f : Nat) :
    Kept z (State.dropKept s f) := by
  unfold State.dropKept
  repeat' first | with_reducible first | assumption | apply kept_unpinLatch | apply kept_modFolio | apply kept_foldl | apply kept_foldl_snd | apply kept_foldl_fst | apply kept_foldl_snd2 | apply kept_ite | intro _ | extract_lets | with_reducible refine kept_some (by assumption) ?_ | dsimp -zeta only | split | dsimp -zeta +zetaDelta only

theorem kept_retire {z s : State} (h : Kept z s) (f : Nat) :
    Kept z (State.retire s f) := by
  unfold State.retire
  repeat' first | with_reducible first | assumption | apply kept_raise | apply kept_put | apply kept_raiseIf | apply kept_foldl | apply kept_foldl_snd | apply kept_foldl_fst | apply kept_foldl_snd2 | apply kept_ite | intro _ | extract_lets | with_reducible refine kept_some (by assumption) ?_ | dsimp -zeta only | split | dsimp -zeta +zetaDelta only

theorem kept_showAlarm {z s : State} (h : Kept z s) (f : Nat) :
    Kept z (State.showAlarm s f) := by
  unfold State.showAlarm
  repeat' first | with_reducible first | assumption | apply kept_put | apply kept_foldl | apply kept_foldl_snd | apply kept_foldl_fst | apply kept_foldl_snd2 | apply kept_ite | intro _ | extract_lets | with_reducible refine kept_some (by assumption) ?_ | dsimp -zeta only | split | dsimp -zeta +zetaDelta only

theorem kept_setSeal {z s : State} (h : Kept z s) (f : Nat) (st : Nat) (reason : Nat) :
    Kept z (State.setSeal s f st reason) := by
  unfold State.setSeal
  repeat' first | with_reducible first | assumption | apply kept_put | apply kept_raise | apply kept_incidentEvent | apply kept_blotter | apply kept_showAlarm | apply kept_foldl | apply kept_foldl_snd | apply kept_foldl_fst | apply kept_foldl_snd2 | apply kept_ite | intro _ | extract_lets | with_reducible refine kept_some (by assumption) ?_ | dsimp -zeta only | split | dsimp -zeta +zetaDelta only

theorem kept_stopFetching {z s : State} (h : Kept z s) (f : Nat) :
    Kept z (State.stopFetching s f) := by
  unfold State.stopFetching
  repeat' first | with_reducible first | assumption | apply kept_dropWriteback | apply kept_unpinFolio | apply kept_dropKept | apply kept_retire | apply kept_modFolio | apply kept_put | apply kept_setSeal | apply kept_each | apply kept_setSdi | apply kept_foldl | apply kept_foldl_snd | apply kept_foldl_fst | apply kept_foldl_snd2 | apply kept_ite | intro _ | extract_lets | with_reducible refine kept_some (by assumption) ?_ | dsimp -zeta only | split | dsimp -zeta +zetaDelta only

theorem kept_discardChange {z s : State} (h : Kept z s) (f : Nat) :
    Kept z (State.discardChange s f) := by
  unfold State.discardChange
  repeat' first | with_reducible first | assumption | apply kept_modFolio | apply kept_raise | apply kept_put | apply kept_foldl | apply kept_foldl_snd | apply kept_foldl_fst | apply kept_foldl_snd2 | apply kept_ite | intro _ | extract_lets | with_reducible refine kept_some (by assumption) ?_ | dsimp -zeta only | split | dsimp -zeta +zetaDelta only

theorem kept_tellHold {z s : State} (h : Kept z s) (f : Nat) (v : Nat) :
    Kept z (State.tellHold s f v) := by
  unfold State.tellHold
  repeat' first | with_reducible first | assumption | apply kept_each | apply kept_ctrlRequest | apply kept_modPort | apply kept_foldl | apply kept_foldl_snd | apply kept_foldl_fst | apply kept_foldl_snd2 | apply kept_ite | intro _ | extract_lets | with_reducible refine kept_some (by assumption) ?_ | dsimp -zeta only | split | dsimp -zeta +zetaDelta only

theorem kept_rasterStops {z s : State} (h : Kept z s) (f : Nat) :
    Kept z (State.rasterStops s f) := by
  unfold State.rasterStops
  repeat' first | with_reducible first | assumption | apply kept_tellHold | apply kept_stopFetching | apply kept_modFolio | apply kept_put | apply kept_setRaster | apply kept_foldl | apply kept_foldl_snd | apply kept_foldl_fst | apply kept_foldl_snd2 | apply kept_ite | intro _ | extract_lets | with_reducible refine kept_some (by assumption) ?_ | dsimp -zeta only | split | dsimp -zeta +zetaDelta only

theorem kept_sdiStart {z s : State} (h : Kept z s) (f : Nat) (t : Timing) :
    Kept z (State.sdiStart s f t) := by
  unfold State.sdiStart
  repeat' first | with_reducible first | assumption | apply kept_each | apply kept_raise | apply kept_setSdi | apply kept_sdiSends | apply kept_sdiRefBad | apply kept_foldl | apply kept_foldl_snd | apply kept_foldl_fst | apply kept_foldl_snd2 | apply kept_ite | intro _ | extract_lets | with_reducible refine kept_some (by assumption) ?_ | dsimp -zeta only | split | dsimp -zeta +zetaDelta only

theorem kept_sealTakes {z s : State} (h : Kept z s) (f : Nat) :
    Kept z (State.sealTakes s f) := by
  unfold State.sealTakes
  repeat' first | with_reducible first | assumption | apply kept_putBytes | apply kept_dropKept | apply kept_modFolio | apply kept_showAlarm | apply kept_raise | apply kept_foldl | apply kept_foldl_snd | apply kept_foldl_fst | apply kept_foldl_snd2 | apply kept_ite | intro _ | extract_lets | with_reducible refine kept_some (by assumption) ?_ | dsimp -zeta only | split | dsimp -zeta +zetaDelta only

theorem kept_askHold {z s : State} (h : Kept z s) (f : Nat) :
    Kept z (State.askHold s f) := by
  unfold State.askHold
  repeat' first | with_reducible first | assumption | apply kept_each | apply kept_ctrlRequest | apply kept_modPort | apply kept_foldl | apply kept_foldl_snd | apply kept_foldl_fst | apply kept_foldl_snd2 | apply kept_ite | intro _ | extract_lets | with_reducible refine kept_some (by assumption) ?_ | dsimp -zeta only | split | dsimp -zeta +zetaDelta only

end Sys2Proof.Machine
end

