-- ==== Sys2Proof/Laws/KeptGpioOps.lean ====
section
/-!
SUPPORT. The operations of Machine/GpioOps.lean keep the relation of Laws/Kept.lean.
-/
namespace Sys2Proof.Machine
open Sys2Proof Safety

theorem kept_setBase {z s : State} (h : Kept z s) (mask : BitVec 32) (v : Bool) :
    Kept z (State.setBase s mask v) := by
  unfold State.setBase
  repeat' first | with_reducible first | assumption | apply kept_modGpio | apply kept_foldl | apply kept_foldl_snd | apply kept_foldl_fst | apply kept_foldl_snd2 | apply kept_ite | intro _ | extract_lets | with_reducible refine kept_some (by assumption) ?_ | dsimp -zeta only | split | dsimp -zeta +zetaDelta only

theorem kept_startPulse {z s : State} (h : Kept z s) (mask : BitVec 32) (width : Nat) :
    Kept z (State.startPulse s mask width) := by
  unfold State.startPulse
  repeat' first | with_reducible first | assumption | apply kept_modGpio | apply kept_foldl | apply kept_foldl_snd | apply kept_foldl_fst | apply kept_foldl_snd2 | apply kept_ite | intro _ | extract_lets | with_reducible refine kept_some (by assumption) ?_ | dsimp -zeta only | split | dsimp -zeta +zetaDelta only

theorem kept_endPulse {z s : State} (h : Kept z s) (g : Nat) :
    Kept z (State.endPulse s g) := by
  unfold State.endPulse
  repeat' first | with_reducible first | assumption | apply kept_modGpio | apply kept_foldl | apply kept_foldl_snd | apply kept_foldl_fst | apply kept_foldl_snd2 | apply kept_ite | intro _ | extract_lets | with_reducible refine kept_some (by assumption) ?_ | dsimp -zeta only | split | dsimp -zeta +zetaDelta only

end Sys2Proof.Machine
end

