-- ==== Sys2Proof/Laws/KeptRulingOps.lean ====
section
/-!
SUPPORT. The operations of Machine/RulingOps.lean keep the relation of Laws/Kept.lean.
-/
namespace Sys2Proof.Machine
open Sys2Proof Safety

theorem kept_applyFreq {z s : State} (h : Kept z s) :
    Kept z (State.applyFreq s) := by
  unfold State.applyFreq
  repeat' first | with_reducible first | assumption | apply kept_putInt | apply kept_each | apply kept_put | apply kept_foldl | apply kept_foldl_snd | apply kept_foldl_fst | apply kept_foldl_snd2 | apply kept_ite | intro _ | extract_lets | with_reducible refine kept_some (by assumption) ?_ | dsimp -zeta only | split | dsimp -zeta +zetaDelta only

theorem kept_setQualified {z s : State} (h : Kept z s) (c : Nat) (q : Bool) :
    Kept z (State.setQualified s c q) := by
  unfold State.setQualified
  repeat' first | with_reducible first | assumption | apply kept_put | apply kept_foldl | apply kept_foldl_snd | apply kept_foldl_fst | apply kept_foldl_snd2 | apply kept_ite | intro _ | extract_lets | with_reducible refine kept_some (by assumption) ?_ | dsimp -zeta only | split | dsimp -zeta +zetaDelta only

theorem kept_setLoop {z s : State} (h : Kept z s) (l : LoopState) :
    Kept z (State.setLoop s l) := by
  unfold State.setLoop
  repeat' first | with_reducible first | assumption | apply kept_put | apply kept_foldl | apply kept_foldl_snd | apply kept_foldl_fst | apply kept_foldl_snd2 | apply kept_ite | intro _ | extract_lets | with_reducible refine kept_some (by assumption) ?_ | dsimp -zeta only | split | dsimp -zeta +zetaDelta only

theorem kept_setResidual {z s : State} (h : Kept z s) (r : Rat) :
    Kept z (State.setResidual s r) := by
  unfold State.setResidual
  repeat' first | with_reducible first | assumption | apply kept_putInt | apply kept_modRuling | apply kept_foldl | apply kept_foldl_snd | apply kept_foldl_fst | apply kept_foldl_snd2 | apply kept_ite | intro _ | extract_lets | with_reducible refine kept_some (by assumption) ?_ | dsimp -zeta only | split | dsimp -zeta +zetaDelta only

theorem kept_enterCoast {z s : State} (h : Kept z s) (held : Rat) :
    Kept z (State.enterCoast s held) := by
  unfold State.enterCoast
  repeat' first | with_reducible first | assumption | apply kept_modRuling | apply kept_put | apply kept_setLoop | apply kept_setResidual | apply kept_applyFreq | apply kept_raise | apply kept_foldl | apply kept_foldl_snd | apply kept_foldl_fst | apply kept_foldl_snd2 | apply kept_ite | intro _ | extract_lets | with_reducible refine kept_some (by assumption) ?_ | dsimp -zeta only | split | dsimp -zeta +zetaDelta only

theorem kept_coastOrDefer {z s : State} (h : Kept z s) (sinceNs : Nat) :
    Kept z (State.coastOrDefer s sinceNs) := by
  unfold State.coastOrDefer
  repeat' first | with_reducible first | assumption | apply kept_modRuling | apply kept_enterCoast | apply kept_foldl | apply kept_foldl_snd | apply kept_foldl_fst | apply kept_foldl_snd2 | apply kept_ite | intro _ | extract_lets | with_reducible refine kept_some (by assumption) ?_ | dsimp -zeta only | split | dsimp -zeta +zetaDelta only

theorem kept_enterAcquire {z s : State} (h : Kept z s) (c : Nat) :
    Kept z (State.enterAcquire s c) := by
  unfold State.enterAcquire
  repeat' first | with_reducible first | assumption | apply kept_raiseIf | apply kept_modRuling | apply kept_applyFreq | apply kept_setLoop | apply kept_put | apply kept_setResidual | apply kept_foldl | apply kept_foldl_snd | apply kept_foldl_fst | apply kept_foldl_snd2 | apply kept_ite | intro _ | extract_lets | with_reducible refine kept_some (by assumption) ?_ | dsimp -zeta only | split | dsimp -zeta +zetaDelta only

theorem kept_leaveCoast {z s : State} (h : Kept z s) :
    Kept z (State.leaveCoast s) := by
  unfold State.leaveCoast
  repeat' first | with_reducible first | assumption | apply kept_enterAcquire | apply kept_foldl | apply kept_foldl_snd | apply kept_foldl_fst | apply kept_foldl_snd2 | apply kept_ite | intro _ | extract_lets | with_reducible refine kept_some (by assumption) ?_ | dsimp -zeta only | split | dsimp -zeta +zetaDelta only

theorem kept_moveToSource {z s : State} (h : Kept z s) (c : Nat) :
    Kept z (State.moveToSource s c) := by
  unfold State.moveToSource
  repeat' first | with_reducible first | assumption | apply kept_modRuling | apply kept_enterAcquire | apply kept_foldl | apply kept_foldl_snd | apply kept_foldl_fst | apply kept_foldl_snd2 | apply kept_ite | intro _ | extract_lets | with_reducible refine kept_some (by assumption) ?_ | dsimp -zeta only | split | dsimp -zeta +zetaDelta only

theorem kept_enterFree {z s : State} (h : Kept z s) :
    Kept z (State.enterFree s) := by
  unfold State.enterFree
  repeat' first | with_reducible first | assumption | apply kept_modRuling | apply kept_put | apply kept_setLoop | apply kept_setResidual | apply kept_applyFreq | apply kept_foldl | apply kept_foldl_snd | apply kept_foldl_fst | apply kept_foldl_snd2 | apply kept_ite | intro _ | extract_lets | with_reducible refine kept_some (by assumption) ?_ | dsimp -zeta only | split | dsimp -zeta +zetaDelta only

theorem kept_setEvq {z s : State} (h : Kept z s) (q : EvqState) :
    Kept z (State.setEvq s q) := by
  unfold State.setEvq
  repeat' first | with_reducible first | assumption | apply kept_put | apply kept_foldl | apply kept_foldl_snd | apply kept_foldl_fst | apply kept_foldl_snd2 | apply kept_ite | intro _ | extract_lets | with_reducible refine kept_some (by assumption) ?_ | dsimp -zeta only | split | dsimp -zeta +zetaDelta only | exact kept_same h rfl rfl rfl rfl rfl rfl rfl rfl rfl rfl

theorem kept_onQualified {z s : State} (h : Kept z s) (c : Nat) :
    Kept z (State.onQualified s c) := by
  unfold State.onQualified
  repeat' first | with_reducible first | assumption | apply kept_enterAcquire | apply kept_foldl | apply kept_foldl_snd | apply kept_foldl_fst | apply kept_foldl_snd2 | apply kept_ite | intro _ | extract_lets | with_reducible refine kept_some (by assumption) ?_ | dsimp -zeta only | split | dsimp -zeta +zetaDelta only

theorem kept_runInstant {z s : State} (h : Kept z s) (c : Nat) (ok : Bool) (needed : Nat) :
    Kept z (State.runInstant s c ok needed) := by
  unfold State.runInstant
  repeat' first | with_reducible first | assumption | apply kept_modRuling | apply kept_onQualified | apply kept_setQualified | apply kept_foldl | apply kept_foldl_snd | apply kept_foldl_fst | apply kept_foldl_snd2 | apply kept_ite | intro _ | extract_lets | with_reducible refine kept_some (by assumption) ?_ | dsimp -zeta only | split | dsimp -zeta +zetaDelta only

theorem kept_lateUpTo {z s : State} (h : Kept z s) (frame : Nat) (line : Nat) (mark : LateMark) :
    Kept z (State.lateUpTo s frame line mark) := by
  unfold State.lateUpTo
  repeat' first | with_reducible first | assumption | apply kept_setEvq | apply kept_each | apply kept_raise | apply kept_foldl | apply kept_foldl_snd | apply kept_foldl_fst | apply kept_foldl_snd2 | apply kept_ite | intro _ | extract_lets | with_reducible refine kept_some (by assumption) ?_ | dsimp -zeta only | split | dsimp -zeta +zetaDelta only

theorem kept_enterLocked {z s : State} (h : Kept z s) :
    Kept z (State.enterLocked s) := by
  unfold State.enterLocked
  repeat' first | with_reducible first | assumption | apply kept_modRuling | apply kept_applyFreq | apply kept_raise | apply kept_setLoop | apply kept_foldl | apply kept_foldl_snd | apply kept_foldl_fst | apply kept_foldl_snd2 | apply kept_ite | intro _ | extract_lets | with_reducible refine kept_some (by assumption) ?_ | dsimp -zeta only | split | dsimp -zeta +zetaDelta only

theorem kept_startSlew {z s : State} (h : Kept z s) (e : Rat) (rate : Nat) :
    Kept z (State.startSlew s e rate) := by
  unfold State.startSlew
  repeat' first | with_reducible first | assumption | apply kept_enterLocked | apply kept_modRuling | apply kept_applyFreq | apply kept_setLoop | apply kept_setResidual | apply kept_foldl | apply kept_foldl_snd | apply kept_foldl_fst | apply kept_foldl_snd2 | apply kept_ite | intro _ | extract_lets | with_reducible refine kept_some (by assumption) ?_ | dsimp -zeta only | split | dsimp -zeta +zetaDelta only

theorem kept_elapse {z s : State} (h : Kept z s) (frac : Nat) (tauNs : Nat) :
    Kept z (State.elapse s frac tauNs) := by
  unfold State.elapse
  repeat' first | with_reducible first | assumption | apply kept_modRuling | apply kept_foldl | apply kept_foldl_snd | apply kept_foldl_fst | apply kept_foldl_snd2 | apply kept_ite | intro _ | extract_lets | with_reducible refine kept_some (by assumption) ?_ | dsimp -zeta only | split | dsimp -zeta +zetaDelta only

theorem kept_directSet {z s : State} (h : Kept z s) (pos : Rat) (loadCount : Bool) :
    Kept z (State.directSet s pos loadCount) := by
  unfold State.directSet
  repeat' first | with_reducible first | assumption | apply kept_modRuling | apply kept_lateUpTo | apply kept_foldl | apply kept_foldl_snd | apply kept_foldl_fst | apply kept_foldl_snd2 | apply kept_ite | intro _ | extract_lets | with_reducible refine kept_some (by assumption) ?_ | dsimp -zeta only | split | dsimp -zeta +zetaDelta only

theorem kept_steer {z s : State} (h : Kept z s) (e : Rat) (tau : Rat) :
    Kept z (State.steer s e tau) := by
  unfold State.steer
  repeat' first | with_reducible first | assumption | apply kept_modRuling | apply kept_foldl | apply kept_foldl_snd | apply kept_foldl_fst | apply kept_foldl_snd2 | apply kept_ite | intro _ | extract_lets | with_reducible refine kept_some (by assumption) ?_ | dsimp -zeta only | split | dsimp -zeta +zetaDelta only

theorem kept_declareJump {z s : State} (h : Kept z s) (e : Rat) :
    Kept z (State.declareJump s e) := by
  unfold State.declareJump
  repeat' first | with_reducible first | assumption | apply kept_raise | apply kept_modRuling | apply kept_applyFreq | apply kept_setLoop | apply kept_setResidual | apply kept_startSlew | apply kept_foldl | apply kept_foldl_snd | apply kept_foldl_fst | apply kept_foldl_snd2 | apply kept_ite | intro _ | extract_lets | with_reducible refine kept_some (by assumption) ?_ | dsimp -zeta only | split | dsimp -zeta +zetaDelta only

theorem kept_judge {z s : State} (h : Kept z s) (err : Rat) (e : Rat) :
    Kept z (State.judge s err e) := by
  unfold State.judge
  repeat' first | with_reducible first | assumption | apply kept_modRuling | apply kept_steer | apply kept_declareJump | apply kept_enterLocked | apply kept_applyFreq | apply kept_foldl | apply kept_foldl_snd | apply kept_foldl_fst | apply kept_foldl_snd2 | apply kept_ite | intro _ | extract_lets | with_reducible refine kept_some (by assumption) ?_ | dsimp -zeta only | split | dsimp -zeta +zetaDelta only

theorem kept_measure {z s : State} (h : Kept z s) (refPos : Rat) (counted : Bool) (frac : Nat) (tauNs : Nat) :
    Kept z (State.measure s refPos counted frac tauNs) := by
  unfold State.measure
  repeat' first | with_reducible first | assumption | apply kept_elapse | apply kept_setResidual | apply kept_putInt | apply kept_modRuling | apply kept_directSet | apply kept_judge | apply kept_foldl | apply kept_foldl_snd | apply kept_foldl_fst | apply kept_foldl_snd2 | apply kept_ite | intro _ | extract_lets | with_reducible refine kept_some (by assumption) ?_ | dsimp -zeta only | split | dsimp -zeta +zetaDelta only

theorem kept_frameInstant {z s : State} (h : Kept z s) (c : Nat) (frac : Nat) (tauNs : Nat) (ok : Bool) :
    Kept z (State.frameInstant s c frac tauNs ok) := by
  unfold State.frameInstant
  repeat' first | with_reducible first | assumption | apply kept_runInstant | apply kept_measure | apply kept_foldl | apply kept_foldl_snd | apply kept_foldl_fst | apply kept_foldl_snd2 | apply kept_ite | intro _ | extract_lets | with_reducible refine kept_some (by assumption) ?_ | dsimp -zeta only | split | dsimp -zeta +zetaDelta only

end Sys2Proof.Machine
end

