-- ==== Sys2Proof/Laws/KeptRuling.lean ====
section
/-!
SUPPORT. The operations of Machine/Ruling.lean keep the relation of Laws/Kept.lean.
-/
namespace Sys2Proof.Machine
open Sys2Proof Safety

theorem kept_loseSource {z s : State} (h : Kept z s) (c : Nat) (sinceNs : Nat) :
    Kept z (State.loseSource s c sinceNs) := by
  unfold State.loseSource
  repeat' first | with_reducible first | assumption | apply kept_setQualified | apply kept_modRuling | apply kept_raiseIf | apply kept_coastOrDefer | apply kept_foldl | apply kept_foldl_snd | apply kept_foldl_fst | apply kept_foldl_snd2 | apply kept_ite | intro _ | extract_lets | with_reducible refine kept_some (by assumption) ?_ | dsimp -zeta only | split | dsimp -zeta +zetaDelta only

theorem kept_streamSrcChanged {z s : State} (h : Kept z s) (old : Nat) :
    Kept z (State.streamSrcChanged s old) := by
  unfold State.streamSrcChanged
  repeat' first | with_reducible first | assumption | apply kept_loseSource | apply kept_modRuling | apply kept_foldl | apply kept_foldl_snd | apply kept_foldl_fst | apply kept_foldl_snd2 | apply kept_ite | intro _ | extract_lets | with_reducible refine kept_some (by assumption) ?_ | dsimp -zeta only | split | dsimp -zeta +zetaDelta only

theorem keptR_execCapture {z s : State} (h : Kept z s) (frac : BitVec 16) :
    KeptR z (execCapture frac s) := by
  unfold execCapture
  repeat' first | with_reducible first | assumption | apply keptR_next | apply keptR_rowWrite | apply kept_modRuling | apply kept_put | apply kept_foldl | apply kept_foldl_snd | apply kept_foldl_fst | apply kept_foldl_snd2 | apply kept_ite | apply keptR_ite | intro _ | extract_lets | with_reducible refine kept_some (by assumption) ?_ | dsimp -zeta only | split | dsimp -zeta +zetaDelta only

theorem kept_autoFromFree {z s : State} (h : Kept z s) :
    Kept z (State.autoFromFree s) := by
  unfold State.autoFromFree
  repeat' first | with_reducible first | assumption | apply kept_enterAcquire | apply kept_enterCoast | apply kept_foldl | apply kept_foldl_snd | apply kept_foldl_fst | apply kept_foldl_snd2 | apply kept_ite | intro _ | extract_lets | with_reducible refine kept_some (by assumption) ?_ | dsimp -zeta only | split | dsimp -zeta +zetaDelta only

theorem keptR_execForceCoastWrite {z s : State} (h : Kept z s) (on : Bool) (sinceNs : Nat) :
    KeptR z (execForceCoastWrite on sinceNs s) := by
  unfold execForceCoastWrite
  repeat' first | with_reducible first | assumption | apply keptR_next | apply keptR_rowWrite | apply kept_put | apply kept_coastOrDefer | apply kept_leaveCoast | apply kept_autoFromFree | apply kept_foldl | apply kept_foldl_snd | apply kept_foldl_fst | apply kept_foldl_snd2 | apply kept_ite | apply keptR_ite | intro _ | extract_lets | with_reducible refine kept_some (by assumption) ?_ | dsimp -zeta only | split | dsimp -zeta +zetaDelta only

theorem kept_reselectAuto {z s : State} (h : Kept z s) (sinceNs : Nat) :
    Kept z (State.reselectAuto s sinceNs) := by
  unfold State.reselectAuto
  repeat' first | with_reducible first | assumption | apply kept_autoFromFree | apply kept_coastOrDefer | apply kept_moveToSource | apply kept_foldl | apply kept_foldl_snd | apply kept_foldl_fst | apply kept_foldl_snd2 | apply kept_ite | intro _ | extract_lets | with_reducible refine kept_some (by assumption) ?_ | dsimp -zeta only | split | dsimp -zeta +zetaDelta only

theorem keptR_execManualSrcWrite {z s : State} (h : Kept z s) (manual : Bool) (src : Fin 4) (sinceNs : Nat) :
    KeptR z (execManualSrcWrite manual src sinceNs s) := by
  unfold execManualSrcWrite
  repeat' first | with_reducible first | assumption | apply keptR_next | apply keptR_rowWrite | apply kept_put | apply kept_reselectAuto | apply kept_raiseIf | apply kept_enterFree | apply kept_coastOrDefer | apply kept_moveToSource | apply kept_foldl | apply kept_foldl_snd | apply kept_foldl_fst | apply kept_foldl_snd2 | apply kept_ite | apply keptR_ite | intro _ | extract_lets | with_reducible refine kept_some (by assumption) ?_ | dsimp -zeta only | split | dsimp -zeta +zetaDelta only

theorem keptR_execSrcPrioWrite {z s : State} (h : Kept z s) (value : BitVec 12) (sinceNs : Nat) :
    KeptR z (execSrcPrioWrite value sinceNs s) := by
  unfold execSrcPrioWrite
  repeat' first | with_reducible first | assumption | apply keptR_next | apply keptR_rowWrite | apply kept_put | apply kept_reselectAuto | apply kept_foldl | apply kept_foldl_snd | apply kept_foldl_fst | apply kept_foldl_snd2 | apply kept_ite | apply keptR_ite | intro _ | extract_lets | with_reducible refine kept_some (by assumption) ?_ | dsimp -zeta only | split | dsimp -zeta +zetaDelta only

theorem keptR_execEpochArm {z s : State} (h : Kept z s) :
    KeptR z (execEpochArm s) := by
  unfold execEpochArm
  repeat' first | with_reducible first | assumption | apply keptR_next | apply keptR_rowWrite | apply kept_modRuling | apply kept_foldl | apply kept_foldl_snd | apply kept_foldl_fst | apply kept_foldl_snd2 | apply kept_ite | apply keptR_ite | intro _ | extract_lets | with_reducible refine kept_some (by assumption) ?_ | dsimp -zeta only | split | dsimp -zeta +zetaDelta only

theorem kept_evqResult {z s : State} (h : Kept z s) (status : Nat) (handle : Nat) :
    Kept z (State.evqResult s status handle) := by
  unfold State.evqResult
  repeat' first | with_reducible first | assumption | apply kept_complete | apply kept_put | apply kept_foldl | apply kept_foldl_snd | apply kept_foldl_fst | apply kept_foldl_snd2 | apply kept_ite | intro _ | extract_lets | with_reducible refine kept_some (by assumption) ?_ | dsimp -zeta only | split | dsimp -zeta +zetaDelta only

theorem keptR_execEvqPush {z s : State} (h : Kept z s) (master : Master) :
    KeptR z (execEvqPush master s) := by
  unfold execEvqPush
  repeat' first | with_reducible first | assumption | apply keptR_next | apply kept_offer | apply kept_evqResult | apply kept_raiseIf | apply kept_raise | apply kept_setEvq | apply kept_foldl | apply kept_foldl_snd | apply kept_foldl_fst | apply kept_foldl_snd2 | apply kept_ite | apply keptR_ite | intro _ | extract_lets | with_reducible refine kept_some (by assumption) ?_ | dsimp -zeta only | split | dsimp -zeta +zetaDelta only

theorem keptR_execEvqCancel {z s : State} (h : Kept z s) (_master : Master) :
    KeptR z (execEvqCancel _master s) := by
  unfold execEvqCancel
  repeat' first | with_reducible first | assumption | apply keptR_next | apply kept_offer | apply kept_evqResult | apply kept_setEvq | apply kept_foldl | apply kept_foldl_snd | apply kept_foldl_fst | apply kept_foldl_snd2 | apply kept_ite | apply keptR_ite | intro _ | extract_lets | with_reducible refine kept_some (by assumption) ?_ | dsimp -zeta only | split | dsimp -zeta +zetaDelta only

theorem keptR_execEvqFlush {z s : State} (h : Kept z s) (master : Master) :
    KeptR z (execEvqFlush master s) := by
  unfold execEvqFlush
  repeat' first | with_reducible first | assumption | apply keptR_next | apply kept_offer | apply kept_evqResult | apply kept_setEvq | apply kept_foldl | apply kept_foldl_snd | apply kept_foldl_fst | apply kept_foldl_snd2 | apply kept_ite | apply keptR_ite | intro _ | extract_lets | with_reducible refine kept_some (by assumption) ?_ | dsimp -zeta only | split | dsimp -zeta +zetaDelta only

theorem keptR_execEvqBadCommand {z s : State} (h : Kept z s) (_master : Master) (op : BitVec 4) :
    KeptR z (execEvqBadCommand _master op s) := by
  unfold execEvqBadCommand
  repeat' first | with_reducible first | assumption | apply keptR_next | apply kept_offer | apply kept_evqResult | apply kept_foldl | apply kept_foldl_snd | apply kept_foldl_fst | apply kept_foldl_snd2 | apply kept_ite | apply keptR_ite | intro _ | extract_lets | with_reducible refine kept_some (by assumption) ?_ | dsimp -zeta only | split | dsimp -zeta +zetaDelta only

theorem keptR_execOutDelayWrite {z s : State} (h : Kept z s) (syn : Fin 2) (out : Fin 8) (delay : BitVec 16) :
    KeptR z (execOutDelayWrite syn out delay s) := by
  unfold execOutDelayWrite
  repeat' first | with_reducible first | assumption | apply keptR_next | apply keptR_rowWrite | apply kept_put | apply kept_foldl | apply kept_foldl_snd | apply kept_foldl_fst | apply kept_foldl_snd2 | apply kept_ite | apply keptR_ite | intro _ | extract_lets | with_reducible refine kept_some (by assumption) ?_ | dsimp -zeta only | split | dsimp -zeta +zetaDelta only

theorem keptR_execDivChangeApply {z s : State} (h : Kept z s) (syn : Fin 2) (out : Fin 8) :
    KeptR z (execDivChangeApply syn out s) := by
  unfold execDivChangeApply
  repeat' first | with_reducible first | assumption | apply keptR_next | apply kept_setSynOut | apply kept_foldl | apply kept_foldl_snd | apply kept_foldl_fst | apply kept_foldl_snd2 | apply kept_ite | apply keptR_ite | intro _ | extract_lets | with_reducible refine kept_some (by assumption) ?_ | dsimp -zeta only | split | dsimp -zeta +zetaDelta only

theorem keptR_execPpsEdge {z s : State} (h : Kept z s) (frac : BitVec 16) (tauNs : Nat) (runOk : Bool) :
    KeptR z (execPpsEdge frac tauNs runOk s) := by
  unfold execPpsEdge
  repeat' first | with_reducible first | assumption | apply keptR_next | apply kept_runInstant | apply kept_put | apply kept_modRuling | apply kept_measure | apply kept_foldl | apply kept_foldl_snd | apply kept_foldl_fst | apply kept_foldl_snd2 | apply kept_ite | apply keptR_ite | intro _ | extract_lets | with_reducible refine kept_some (by assumption) ?_ | dsimp -zeta only | split | dsimp -zeta +zetaDelta only

theorem keptR_execSwitchTimeout {z s : State} (h : Kept z s) :
    KeptR z (execSwitchTimeout s) := by
  unfold execSwitchTimeout
  repeat' first | with_reducible first | assumption | apply keptR_next | apply kept_modRuling | apply kept_enterAcquire | apply kept_foldl | apply kept_foldl_snd | apply kept_foldl_fst | apply kept_foldl_snd2 | apply kept_ite | apply keptR_ite | intro _ | extract_lets | with_reducible refine kept_some (by assumption) ?_ | dsimp -zeta only | split | dsimp -zeta +zetaDelta only

theorem keptR_execVcoLockRegained {z s : State} (h : Kept z s) (syn : Fin 2) :
    KeptR z (execVcoLockRegained syn s) := by
  unfold execVcoLockRegained
  repeat' first | with_reducible first | assumption | apply keptR_next | apply kept_put | apply kept_foldl | apply kept_foldl_snd | apply kept_foldl_fst | apply kept_foldl_snd2 | apply kept_ite | apply keptR_ite | intro _ | extract_lets | with_reducible refine kept_some (by assumption) ?_ | dsimp -zeta only | split | dsimp -zeta +zetaDelta only

theorem keptR_execRevertTimeout {z s : State} (h : Kept z s) (src : Fin 3) :
    KeptR z (execRevertTimeout src s) := by
  unfold execRevertTimeout
  repeat' first | with_reducible first | assumption | apply keptR_next | apply kept_moveToSource | apply kept_foldl | apply kept_foldl_snd | apply kept_foldl_fst | apply kept_foldl_snd2 | apply kept_ite | apply keptR_ite | intro _ | extract_lets | with_reducible refine kept_some (by assumption) ?_ | dsimp -zeta only | split | dsimp -zeta +zetaDelta only

theorem keptR_execRefSyncEdge {z s : State} (h : Kept z s) (frameSync : Bool) (frac : BitVec 16) (tauNs : Nat) (runOk : Bool) :
    KeptR z (execRefSyncEdge frameSync frac tauNs runOk s) := by
  unfold execRefSyncEdge
  repeat' first | with_reducible first | assumption | apply keptR_next | apply kept_frameInstant | apply kept_foldl | apply kept_foldl_snd | apply kept_foldl_fst | apply kept_foldl_snd2 | apply kept_ite | apply keptR_ite | intro _ | extract_lets | with_reducible refine kept_some (by assumption) ?_ | dsimp -zeta only | split | dsimp -zeta +zetaDelta only

theorem keptR_execSynUnlock {z s : State} (h : Kept z s) (syn : Fin 2) :
    KeptR z (execSynUnlock syn s) := by
  unfold execSynUnlock
  repeat' first | with_reducible first | assumption | apply keptR_next | apply kept_raise | apply kept_bump | apply kept_put | apply kept_foldl | apply kept_foldl_snd | apply kept_foldl_fst | apply kept_foldl_snd2 | apply kept_ite | apply keptR_ite | intro _ | extract_lets | with_reducible refine kept_some (by assumption) ?_ | dsimp -zeta only | split | dsimp -zeta +zetaDelta only

theorem keptR_execGpioPulseEnd {z s : State} (h : Kept z s) (gpio : Fin 32) :
    KeptR z (execGpioPulseEnd gpio s) := by
  unfold execGpioPulseEnd
  repeat' first | with_reducible first | assumption | apply keptR_next | apply kept_endPulse | apply kept_foldl | apply kept_foldl_snd | apply kept_foldl_fst | apply kept_foldl_snd2 | apply kept_ite | apply keptR_ite | intro _ | extract_lets | with_reducible refine kept_some (by assumption) ?_ | dsimp -zeta only | split | dsimp -zeta +zetaDelta only

theorem keptR_execOutDelayStep {z s : State} (h : Kept z s) (syn : Fin 2) (out : Fin 8) :
    KeptR z (execOutDelayStep syn out s) := by
  unfold execOutDelayStep
  repeat' first | with_reducible first | assumption | apply keptR_next | apply kept_put | apply kept_foldl | apply kept_foldl_snd | apply kept_foldl_fst | apply kept_foldl_snd2 | apply kept_ite | apply keptR_ite | intro _ | extract_lets | with_reducible refine kept_some (by assumption) ?_ | dsimp -zeta only | split | dsimp -zeta +zetaDelta only

theorem keptR_execSlewDone {z s : State} (h : Kept z s) :
    KeptR z (execSlewDone s) := by
  unfold execSlewDone
  repeat' first | with_reducible first | assumption | apply keptR_next | apply kept_modRuling | apply kept_enterLocked | apply kept_raise | apply kept_setResidual | apply kept_foldl | apply kept_foldl_snd | apply kept_foldl_fst | apply kept_foldl_snd2 | apply kept_ite | apply keptR_ite | intro _ | extract_lets | with_reducible refine kept_some (by assumption) ?_ | dsimp -zeta only | split | dsimp -zeta +zetaDelta only

theorem keptR_execSourceLost {z s : State} (h : Kept z s) (src : Fin 3) (sinceNs : Nat) :
    KeptR z (execSourceLost src sinceNs s) := by
  unfold execSourceLost
  repeat' first | with_reducible first | assumption | apply keptR_next | apply kept_loseSource | apply kept_foldl | apply kept_foldl_snd | apply kept_foldl_fst | apply kept_foldl_snd2 | apply kept_ite | apply keptR_ite | intro _ | extract_lets | with_reducible refine kept_some (by assumption) ?_ | dsimp -zeta only | split | dsimp -zeta +zetaDelta only

end Sys2Proof.Machine
end

