-- ==== Sys2Proof/Laws/KeptRegAccess.lean ====
section
/-!
SUPPORT. The operations of Machine/RegAccess.lean keep the relation of Laws/Kept.lean.
-/
namespace Sys2Proof.Machine
open Sys2Proof Safety

theorem kept_dmaShow {z s : State} (h : Kept z s) (c : Nat) :
    Kept z (State.dmaShow s c) := by
  unfold State.dmaShow
  repeat' first | with_reducible first | assumption | apply kept_put | apply kept_foldl | apply kept_foldl_snd | apply kept_foldl_fst | apply kept_foldl_snd2 | apply kept_ite | intro _ | extract_lets | with_reducible refine kept_some (by assumption) ?_ | dsimp -zeta only | split | dsimp -zeta +zetaDelta only

theorem kept_rearm {z s : State} (h : Kept z s) :
    Kept z (State.rearm s) := by
  unfold State.rearm
  repeat' first | with_reducible first | assumption | apply kept_each | apply kept_put | apply kept_foldl | apply kept_foldl_snd | apply kept_foldl_fst | apply kept_foldl_snd2 | apply kept_ite | intro _ | extract_lets | with_reducible refine kept_some (by assumption) ?_ | dsimp -zeta only | split | dsimp -zeta +zetaDelta only

theorem kept_afterWrite {z s : State} (h : Kept z s) (a : Nat) (old : BitVec 32) :
    Kept z (State.afterWrite s a old) := by
  unfold State.afterWrite
  repeat' first | with_reducible first | assumption | apply kept_put | apply kept_cellarEnable | apply kept_streamSrcChanged | apply kept_each | apply kept_dmaShow | apply kept_foldl | apply kept_foldl_snd | apply kept_foldl_fst | apply kept_foldl_snd2 | apply kept_ite | intro _ | extract_lets | with_reducible refine kept_some (by assumption) ?_ | dsimp -zeta only | split | dsimp -zeta +zetaDelta only

theorem kept_writeWord {z s : State} (h : Kept z s) (takes : Access → Bool) (a : Nat) (v : BitVec 32) (m : BitVec 32) :
    Kept z (State.writeWord s takes a v m) := by
  unfold State.writeWord
  repeat' first | with_reducible first | assumption | apply kept_rearm | apply kept_afterWrite | apply kept_wr | apply kept_foldl | apply kept_foldl_snd | apply kept_foldl_fst | apply kept_foldl_snd2 | apply kept_ite | intro _ | extract_lets | with_reducible refine kept_some (by assumption) ?_ | dsimp -zeta only | split | dsimp -zeta +zetaDelta only

theorem kept_rxPop {z s : State} (h : Kept z s) (n : Nat) :
    Kept z (State.rxPop s n) := by
  unfold State.rxPop
  repeat' first | with_reducible first | assumption | apply kept_putBytes | apply kept_wr | apply kept_modPort | apply kept_foldl | apply kept_foldl_snd | apply kept_foldl_fst | apply kept_foldl_snd2 | apply kept_ite | intro _ | extract_lets | with_reducible refine kept_some (by assumption) ?_ | dsimp -zeta only | split | dsimp -zeta +zetaDelta only

theorem kept_popAt {z s : State} (h : Kept z s) (a : Nat) :
    Kept z (State.popAt s a) := by
  unfold State.popAt
  repeat' first | with_reducible first | assumption | apply kept_dirPop | apply kept_blotPop | apply kept_rxPop | apply kept_foldl | apply kept_foldl_snd | apply kept_foldl_fst | apply kept_foldl_snd2 | apply kept_ite | intro _ | extract_lets | with_reducible refine kept_some (by assumption) ?_ | dsimp -zeta only | split | dsimp -zeta +zetaDelta only

theorem kept_busRead {z s : State} (h : Kept z s) (a : Nat) :
    Kept z (State.busRead s a).2 := by
  unfold State.busRead
  repeat' first | with_reducible first | assumption | apply kept_popAt | apply kept_foldl | apply kept_foldl_snd | apply kept_foldl_fst | apply kept_foldl_snd2 | apply kept_ite | intro _ | extract_lets | with_reducible refine kept_some (by assumption) ?_ | dsimp -zeta only | split | dsimp -zeta +zetaDelta only

theorem kept_regWrite {z s : State} (h : Kept z s) (takes : Access → Bool) (a : Nat) (v : BitVec 32) (m : BitVec 32) :
    Kept z (State.regWrite s takes a v m) := by
  unfold State.regWrite
  repeat' first | with_reducible first | assumption | apply kept_bump | apply kept_writeWord | apply kept_foldl | apply kept_foldl_snd | apply kept_foldl_fst | apply kept_foldl_snd2 | apply kept_ite | intro _ | extract_lets | with_reducible refine kept_some (by assumption) ?_ | dsimp -zeta only | split | dsimp -zeta +zetaDelta only

end Sys2Proof.Machine
end

