-- ==== Sys2Proof/Laws/KeptHostIf.lean ====
section
/-!
SUPPORT. The operations of Machine/HostIf.lean keep the relation of Laws/Kept.lean.
-/
namespace Sys2Proof.Machine
open Sys2Proof Safety

theorem keptR_execHostifClrCnt {z s : State} (h : Kept z s) (hits : BitVec 2) (keepErr : Bool) :
    KeptR z (execHostifClrCnt hits keepErr s) := by
  unfold execHostifClrCnt
  repeat' first | with_reducible first | assumption | apply keptR_next | apply kept_hostWrite | apply kept_put | apply kept_wr | apply kept_foldl | apply kept_foldl_snd | apply kept_foldl_fst | apply kept_foldl_snd2 | apply kept_ite | apply keptR_ite | intro _ | extract_lets | with_reducible refine kept_some (by assumption) ?_ | dsimp -zeta only | split | dsimp -zeta +zetaDelta only

theorem keptR_execVecEoiWrite {z s : State} (h : Kept z s) (vector : BitVec 8) :
    KeptR z (execVecEoiWrite vector s) := by
  unfold execVecEoiWrite
  repeat' first | with_reducible first | assumption | apply keptR_next | apply kept_hostWrite | apply kept_put | apply kept_foldl | apply kept_foldl_snd | apply kept_foldl_fst | apply kept_foldl_snd2 | apply kept_ite | apply keptR_ite | intro _ | extract_lets | with_reducible refine kept_some (by assumption) ?_ | dsimp -zeta only | split | dsimp -zeta +zetaDelta only

theorem kept_sendMessage {z s : State} (h : Kept z s) (v : Nat) :
    Kept z (State.sendMessage s v) := by
  unfold State.sendMessage
  repeat' first | with_reducible first | assumption | apply kept_emit | apply kept_foldl | apply kept_foldl_snd | apply kept_foldl_fst | apply kept_foldl_snd2 | apply kept_ite | intro _ | extract_lets | with_reducible refine kept_some (by assumption) ?_ | dsimp -zeta only | split | dsimp -zeta +zetaDelta only

theorem kept_releasePba {z s : State} (h : Kept z s) :
    Kept z (State.releasePba s) := by
  unfold State.releasePba
  repeat' first | with_reducible first | assumption | apply kept_each | apply kept_sendMessage | apply kept_put | apply kept_foldl | apply kept_foldl_snd | apply kept_foldl_fst | apply kept_foldl_snd2 | apply kept_ite | intro _ | extract_lets | with_reducible refine kept_some (by assumption) ?_ | dsimp -zeta only | split | dsimp -zeta +zetaDelta only

theorem keptR_execMsixVectorMaskWrite {z s : State} (h : Kept z s) (vector : Fin 256) (mask : Bool) :
    KeptR z (execMsixVectorMaskWrite vector mask s) := by
  unfold execMsixVectorMaskWrite
  repeat' first | with_reducible first | assumption | apply keptR_next | apply kept_hostWrite | apply kept_releasePba | apply kept_put | apply kept_foldl | apply kept_foldl_snd | apply kept_foldl_fst | apply kept_foldl_snd2 | apply kept_ite | apply keptR_ite | intro _ | extract_lets | with_reducible refine kept_some (by assumption) ?_ | dsimp -zeta only | split | dsimp -zeta +zetaDelta only

theorem kept_dmaReset {z s : State} (h : Kept z s) (c : Nat) :
    Kept z (State.dmaReset s c) := by
  unfold State.dmaReset
  repeat' first | with_reducible first | assumption | apply kept_put | apply kept_foldl | apply kept_foldl_snd | apply kept_foldl_fst | apply kept_foldl_snd2 | apply kept_ite | intro _ | extract_lets | with_reducible refine kept_some (by assumption) ?_ | dsimp -zeta only | split | dsimp -zeta +zetaDelta only

theorem keptR_execDmaReset {z s : State} (h : Kept z s) (chan : Fin 4) :
    KeptR z (execDmaReset chan s) := by
  unfold execDmaReset
  repeat' first | with_reducible first | assumption | apply keptR_next | apply kept_hostWrite | apply kept_dmaReset | apply kept_foldl | apply kept_foldl_snd | apply kept_foldl_fst | apply kept_foldl_snd2 | apply kept_ite | apply keptR_ite | intro _ | extract_lets | with_reducible refine kept_some (by assumption) ?_ | dsimp -zeta only | split | dsimp -zeta +zetaDelta only

theorem keptR_execDmaTailWrite {z s : State} (h : Kept z s) (chan : Fin 4) (tail : BitVec 13) :
    KeptR z (execDmaTailWrite chan tail s) := by
  unfold execDmaTailWrite
  repeat' first | with_reducible first | assumption | apply keptR_next | apply kept_hostWrite | apply kept_dmaShow | apply kept_put | apply kept_foldl | apply kept_foldl_snd | apply kept_foldl_fst | apply kept_foldl_snd2 | apply kept_ite | apply keptR_ite | intro _ | extract_lets | with_reducible refine kept_some (by assumption) ?_ | dsimp -zeta only | split | dsimp -zeta +zetaDelta only

theorem kept_resetRange {z s : State} (h : Kept z s) (lo hi : Nat) : Kept z (s.resetRange lo hi) :=
  kept_of h rfl (fun i => { i with regs := Sparse.wf_filter _ _ _ i.regs }) (fuses_refl _)

theorem kept_icxAnswerError {z s : State} (h : Kept z s) (m : Master) (write : Bool) (words : Nat) :
    Kept z (State.icxAnswerError s m write words) := by
  unfold State.icxAnswerError
  repeat' first | with_reducible first | assumption | apply kept_emit | apply kept_foldl | apply kept_foldl_snd | apply kept_foldl_fst | apply kept_foldl_snd2 | apply kept_ite | intro _ | extract_lets | with_reducible refine kept_some (by assumption) ?_ | dsimp -zeta only | split | dsimp -zeta +zetaDelta only

theorem keptR_execVectorHoldoffEnd {z s : State} (h : Kept z s) (vector : Fin 256) :
    KeptR z (execVectorHoldoffEnd vector s) := by
  unfold execVectorHoldoffEnd
  repeat' first | with_reducible first | assumption | apply keptR_next | apply kept_modHost | apply kept_foldl | apply kept_foldl_snd | apply kept_foldl_fst | apply kept_foldl_snd2 | apply kept_ite | apply keptR_ite | intro _ | extract_lets | with_reducible refine kept_some (by assumption) ?_ | dsimp -zeta only | split | dsimp -zeta +zetaDelta only

theorem kept_icxError {z s : State} (h : Kept z s) (m : Master) (timeout : Bool) (write : Bool) (addr : Nat) :
    Kept z (State.icxError s m timeout write addr) := by
  unfold State.icxError
  repeat' first | with_reducible first | assumption | apply kept_raise | apply kept_bump | apply kept_wr | apply kept_foldl | apply kept_foldl_snd | apply kept_foldl_fst | apply kept_foldl_snd2 | apply kept_ite | intro _ | extract_lets | with_reducible refine kept_some (by assumption) ?_ | dsimp -zeta only | split | dsimp -zeta +zetaDelta only

theorem keptR_execMsixSignal {z s : State} (h : Kept z s) (vector : Fin 256) :
    KeptR z (execMsixSignal vector s) := by
  unfold execMsixSignal
  repeat' first | with_reducible first | assumption | apply keptR_next | apply kept_put | apply kept_modHost | apply kept_sendMessage | apply kept_foldl | apply kept_foldl_snd | apply kept_foldl_fst | apply kept_foldl_snd2 | apply kept_ite | apply keptR_ite | intro _ | extract_lets | with_reducible refine kept_some (by assumption) ?_ | dsimp -zeta only | split | dsimp -zeta +zetaDelta only

theorem kept_descFails {z s : State} (h : Kept z s) (c : Nat) (status : Nat) :
    Kept z (State.descFails s c status) := by
  unfold State.descFails
  repeat' first | with_reducible first | assumption | apply kept_emit | apply kept_raise | apply kept_put | apply kept_foldl | apply kept_foldl_snd | apply kept_foldl_fst | apply kept_foldl_snd2 | apply kept_ite | intro _ | extract_lets | with_reducible refine kept_some (by assumption) ?_ | dsimp -zeta only | split | dsimp -zeta +zetaDelta only

theorem kept_descDone {z s : State} (h : Kept z s) (c : Nat) (flags : BitVec 8) (status : Nat) :
    Kept z (State.descDone s c flags status) := by
  unfold State.descDone
  repeat' first | with_reducible first | assumption | apply kept_emit | apply kept_bump | apply kept_put | apply kept_dmaShow | apply kept_raiseIf | apply kept_foldl | apply kept_foldl_snd | apply kept_foldl_fst | apply kept_foldl_snd2 | apply kept_ite | intro _ | extract_lets | with_reducible refine kept_some (by assumption) ?_ | dsimp -zeta only | split | dsimp -zeta +zetaDelta only

theorem kept_descriptor {z s : State} (h : Kept z s) (c : Nat) (ok : Bool) {f : State → State} (hf : ∀ t, Kept z t → Kept z (f t)) :
    Kept z (State.descriptor s c ok f) := by
  unfold State.descriptor
  repeat' first | with_reducible first | assumption | apply hf | apply kept_descFails | apply kept_foldl | apply kept_foldl_snd | apply kept_foldl_fst | apply kept_foldl_snd2 | apply kept_ite | intro _ | extract_lets | with_reducible refine kept_some (by assumption) ?_ | dsimp -zeta only | split | dsimp -zeta +zetaDelta only

theorem keptR_execDmaNop {z s : State} (h : Kept z s) (chan : Fin 4) (flags : BitVec 8) (ok : Bool) :
    KeptR z (execDmaNop chan flags ok s) := by
  unfold execDmaNop
  repeat' first | with_reducible first | assumption | apply keptR_next | apply kept_descriptor | apply kept_descDone | apply kept_foldl | apply kept_foldl_snd | apply kept_foldl_fst | apply kept_foldl_snd2 | apply kept_ite | apply keptR_ite | intro _ | extract_lets | with_reducible refine kept_some (by assumption) ?_ | dsimp -zeta only | split | dsimp -zeta +zetaDelta only

theorem keptR_execFunctionReset {z s : State} (h : Kept z s) (kind : Fin 4) (burst : Bool) :
    KeptR z (execFunctionReset kind burst s) := by
  unfold execFunctionReset
  repeat' first | with_reducible first | assumption | apply keptR_next | apply kept_wr | apply kept_resetRange | apply kept_modHost | apply kept_bump | apply kept_burstRescue | apply kept_blotter | apply kept_foldl | apply kept_foldl_snd | apply kept_foldl_fst | apply kept_foldl_snd2 | apply kept_ite | apply keptR_ite | intro _ | extract_lets | with_reducible refine kept_some (by assumption) ?_ | dsimp -zeta only | split | dsimp -zeta +zetaDelta only

theorem kept_settleBar {z s : State} (h : Kept z s) :
    Kept z (State.settleBar s) := by
  unfold State.settleBar
  repeat' first | with_reducible first | assumption | apply kept_modHost | apply kept_put | apply kept_foldl | apply kept_foldl_snd | apply kept_foldl_fst | apply kept_foldl_snd2 | apply kept_ite | intro _ | extract_lets | with_reducible refine kept_some (by assumption) ?_ | dsimp -zeta only | split | dsimp -zeta +zetaDelta only

theorem keptR_execDmaH2s {z s : State} (h : Kept z s) (chan : Fin 4) (dst : BitVec 64) (len : BitVec 32) (flags : BitVec 8) (data : Option (List (BitVec 8))) :
    KeptR z (execDmaH2s chan dst len flags data s) := by
  unfold execDmaH2s
  repeat' first | with_reducible first | assumption | apply keptR_next | apply kept_descriptor | apply kept_descFails | apply kept_memWrite | apply kept_useMem | apply kept_descDone | apply kept_foldl | apply kept_foldl_snd | apply kept_foldl_fst | apply kept_foldl_snd2 | apply kept_ite | apply keptR_ite | intro _ | extract_lets | with_reducible refine kept_some (by assumption) ?_ | dsimp -zeta only | split | dsimp -zeta +zetaDelta only

theorem keptR_execDmaS2h {z s : State} (h : Kept z s) (chan : Fin 4) (src : BitVec 64) (dst : BitVec 64) (len : BitVec 32) (flags : BitVec 8) (ok : Bool) :
    KeptR z (execDmaS2h chan src dst len flags ok s) := by
  unfold execDmaS2h
  repeat' first | with_reducible first | assumption | apply keptR_next | apply kept_descriptor | apply kept_descFails | apply kept_useMem | apply kept_emit | apply kept_descDone | apply kept_memRead | apply kept_foldl | apply kept_foldl_snd | apply kept_foldl_fst | apply kept_foldl_snd2 | apply kept_ite | apply keptR_ite | intro _ | extract_lets | with_reducible refine kept_snd (by assumption) ?_ | with_reducible refine kept_snd2 (by assumption) ?_ | with_reducible refine kept_snd3 (by assumption) ?_ | with_reducible refine kept_some (by assumption) ?_ | dsimp -zeta only | split | dsimp -zeta +zetaDelta only

theorem keptR_execEndpointLinkUp {z s : State} (h : Kept z s) (gen : Fin 5) (widthLog2 : Fin 4) :
    KeptR z (execEndpointLinkUp gen widthLog2 s) := by
  unfold execEndpointLinkUp
  repeat' first | with_reducible first | assumption | apply keptR_next | apply kept_put | apply kept_modPower | apply kept_foldl | apply kept_foldl_snd | apply kept_foldl_fst | apply kept_foldl_snd2 | apply kept_ite | apply keptR_ite | intro _ | extract_lets | with_reducible refine kept_some (by assumption) ?_ | dsimp -zeta only | split | dsimp -zeta +zetaDelta only

theorem keptR_execConfigurationRequest {z s : State} (h : Kept z s) (what : ConfigWrite) :
    KeptR z (execConfigurationRequest what s) := by
  unfold execConfigurationRequest
  repeat' first | with_reducible first | assumption | apply keptR_next | apply kept_releasePba | apply kept_put | apply kept_settleBar | apply kept_modHost | apply kept_foldl | apply kept_foldl_snd | apply kept_foldl_fst | apply kept_foldl_snd2 | apply kept_ite | apply keptR_ite | intro _ | extract_lets | with_reducible refine kept_some (by assumption) ?_ | dsimp -zeta only | split | dsimp -zeta +zetaDelta only

theorem keptR_execIcxTimeout {z s : State} (h : Kept z s) (master : Master) (write : Bool) (addr : BitVec 32) :
    KeptR z (execIcxTimeout master write addr s) := by
  unfold execIcxTimeout
  repeat' first | with_reducible first | assumption | apply keptR_next | apply kept_icxAnswerError | apply kept_icxError | apply kept_foldl | apply kept_foldl_snd | apply kept_foldl_fst | apply kept_foldl_snd2 | apply kept_ite | apply keptR_ite | intro _ | extract_lets | with_reducible refine kept_some (by assumption) ?_ | dsimp -zeta only | split | dsimp -zeta +zetaDelta only

end Sys2Proof.Machine
end

