-- ==== Sys2Proof/Laws/KeptClusterOps.lean ====
section
/-!
SUPPORT. The operations of Machine/ClusterOps.lean keep the relation of Laws/Kept.lean.
-/
namespace Sys2Proof.Machine
open Sys2Proof Safety

theorem kept_setFields {z s : State} (h : Kept z s) (l : List (Fld × Nat)) :
    Kept z (State.setFields s l) := by
  unfold State.setFields
  repeat' first | with_reducible first | assumption | apply kept_each | apply kept_put | apply kept_foldl | apply kept_foldl_snd | apply kept_foldl_fst | apply kept_foldl_snd2 | apply kept_ite | intro _ | extract_lets | with_reducible refine kept_some (by assumption) ?_ | dsimp -zeta only | split | dsimp -zeta +zetaDelta only

theorem kept_showStructure {z s : State} (h : Kept z s) :
    Kept z (State.showStructure s) := by
  unfold State.showStructure
  repeat' first | with_reducible first | assumption | apply kept_setFields | apply kept_each | apply kept_put | apply kept_showClasses | apply kept_foldl | apply kept_foldl_snd | apply kept_foldl_fst | apply kept_foldl_snd2 | apply kept_ite | intro _ | extract_lets | with_reducible refine kept_some (by assumption) ?_ | dsimp -zeta only | split | dsimp -zeta +zetaDelta only

theorem kept_placeStreams {z s : State} (h : Kept z s) (old : List StreamRec) (new : List StreamRec) :
    Kept z (State.placeStreams s old new) := by
  unfold State.placeStreams
  repeat' first | with_reducible first | assumption | apply kept_each | apply kept_setStream | apply kept_resetRange | apply kept_setFields | apply kept_emptyRing | apply kept_foldl | apply kept_foldl_snd | apply kept_foldl_fst | apply kept_foldl_snd2 | apply kept_ite | intro _ | extract_lets | with_reducible refine kept_some (by assumption) ?_ | dsimp -zeta only | split | dsimp -zeta +zetaDelta only

theorem kept_setDomains {z s : State} (h : Kept z s) (on : Nat → Bool) :
    Kept z (State.setDomains s on) := by
  unfold State.setDomains
  repeat' first | with_reducible first | assumption | apply kept_wr | apply kept_each | apply kept_put | apply kept_foldl | apply kept_foldl_snd | apply kept_foldl_fst | apply kept_foldl_snd2 | apply kept_ite | intro _ | extract_lets | with_reducible refine kept_some (by assumption) ?_ | dsimp -zeta only | split | dsimp -zeta +zetaDelta only

theorem kept_portStops {z s : State} (h : Kept z s) (n : Nat) :
    Kept z (State.portStops s n) := by
  unfold State.portStops
  repeat' first | with_reducible first | assumption | apply kept_enterOff | apply kept_sdiLose | apply kept_each | apply kept_put | apply kept_setSdi | apply kept_foldl | apply kept_foldl_snd | apply kept_foldl_fst | apply kept_foldl_snd2 | apply kept_ite | intro _ | extract_lets | with_reducible refine kept_some (by assumption) ?_ | dsimp -zeta only | split | dsimp -zeta +zetaDelta only

theorem kept_showStops {z s : State} (h : Kept z s) (quiet : Bool) :
    Kept z (State.showStops s quiet) := by
  unfold State.showStops
  repeat' first | with_reducible first | assumption | apply kept_each | apply kept_raise | apply kept_put | apply kept_foldl | apply kept_foldl_snd | apply kept_foldl_fst | apply kept_foldl_snd2 | apply kept_ite | intro _ | extract_lets | with_reducible refine kept_some (by assumption) ?_ | dsimp -zeta only | split | dsimp -zeta +zetaDelta only

theorem kept_ingestStops {z s : State} (h : Kept z s) (c : Nat) :
    Kept z (State.ingestStops s c) := by
  unfold State.ingestStops
  repeat' first | with_reducible first | assumption | apply kept_each | apply kept_abandonStream | apply kept_foldl | apply kept_foldl_snd | apply kept_foldl_fst | apply kept_foldl_snd2 | apply kept_ite | intro _ | extract_lets | with_reducible refine kept_some (by assumption) ?_ | dsimp -zeta only | split | dsimp -zeta +zetaDelta only

theorem kept_motionStops {z s : State} (h : Kept z s) (u : Nat) :
    Kept z (State.motionStops s u) := by
  unfold State.motionStops
  repeat' first | with_reducible first | assumption | apply kept_unpin | apply kept_modMot | apply kept_foldl | apply kept_foldl_snd | apply kept_foldl_fst | apply kept_foldl_snd2 | apply kept_ite | intro _ | extract_lets | with_reducible refine kept_some (by assumption) ?_ | dsimp -zeta only | split | dsimp -zeta +zetaDelta only

theorem kept_engineStops {z s : State} (h : Kept z s) (e : Nat) :
    Kept z (State.engineStops s e) := by
  unfold State.engineStops
  repeat' first | with_reducible first | assumption | apply kept_emptyWriting | apply kept_endJob | apply kept_missFrame | apply kept_foldl | apply kept_foldl_snd | apply kept_foldl_fst | apply kept_foldl_snd2 | apply kept_ite | intro _ | extract_lets | with_reducible refine kept_some (by assumption) ?_ | dsimp -zeta only | split | dsimp -zeta +zetaDelta only

theorem kept_domainStops {z s : State} (h : Kept z s) (d : Nat) :
    Kept z (State.domainStops s d) := by
  unfold State.domainStops
  repeat' first | with_reducible first | assumption | apply kept_engineNext | apply kept_showCellar | apply kept_setCelMode | apply kept_modCellar | apply kept_each | apply kept_portStops | apply kept_ingestStops | apply kept_motionStops | apply kept_rasterStops | apply kept_engineStops | apply kept_foldl | apply kept_foldl_snd | apply kept_foldl_fst | apply kept_foldl_snd2 | apply kept_ite | intro _ | extract_lets | with_reducible refine kept_some (by assumption) ?_ | dsimp -zeta only | split | dsimp -zeta +zetaDelta only

theorem kept_portStarts {z s : State} (h : Kept z s) (n : Nat) :
    Kept z (State.portStarts s n) := by
  unfold State.portStarts
  repeat' first | with_reducible first | assumption | apply kept_enterDetect | apply kept_setSdi | apply kept_foldl | apply kept_foldl_snd | apply kept_foldl_fst | apply kept_foldl_snd2 | apply kept_ite | intro _ | extract_lets | with_reducible refine kept_some (by assumption) ?_ | dsimp -zeta only | split | dsimp -zeta +zetaDelta only

theorem kept_domainStarts {z s : State} (h : Kept z s) (d : Nat) :
    Kept z (State.domainStarts s d) := by
  unfold State.domainStarts
  repeat' first | with_reducible first | assumption | apply kept_cellarEnable | apply kept_each | apply kept_portStarts | apply kept_followRun | apply kept_restartAudio | apply kept_foldl | apply kept_foldl_snd | apply kept_foldl_fst | apply kept_foldl_snd2 | apply kept_ite | intro _ | extract_lets | with_reducible refine kept_some (by assumption) ?_ | dsimp -zeta only | split | dsimp -zeta +zetaDelta only

theorem kept_dropQueued {z s : State} (h : Kept z s) (c : Nat) :
    Kept z (State.dropQueued s c) := by
  unfold State.dropQueued
  repeat' first | with_reducible first | assumption | apply kept_each | apply kept_missFrame | apply kept_modEntry | apply kept_foldl | apply kept_foldl_snd | apply kept_foldl_fst | apply kept_foldl_snd2 | apply kept_ite | intro _ | extract_lets | with_reducible refine kept_some (by assumption) ?_ | dsimp -zeta only | split | dsimp -zeta +zetaDelta only

end Sys2Proof.Machine
end

