-- ==== Sys2Proof/Laws/KeptStrongroom.lean ====
section
/-!
SUPPORT. The operations of Machine/Strongroom.lean keep the relation of Laws/Kept.lean.
-/
namespace Sys2Proof.Machine
open Sys2Proof Safety

theorem kept_strongCommand {z s : State} (h : Kept z s) {f : State → Nat × List Byte × State} (hf : ∀ t, Kept z t → Kept z (f t).2.2) :
    Kept z (State.strongCommand s f) := by
  unfold State.strongCommand
  repeat' first | with_reducible first | assumption | apply hf | apply kept_offer | apply kept_accept | apply kept_strongDone | apply kept_foldl | apply kept_foldl_snd | apply kept_foldl_fst | apply kept_foldl_snd2 | apply kept_ite | intro _ | extract_lets | with_reducible refine kept_some (by assumption) ?_ | dsimp -zeta only | split | dsimp -zeta +zetaDelta only

theorem kept_strongChanged {z s : State} (h : Kept z s) :
    Kept z (State.strongChanged s) := by
  unfold State.strongChanged
  repeat' first | with_reducible first | assumption | apply kept_showSigMode | apply kept_checkList | apply kept_showIdentity | apply kept_showStrong | apply kept_foldl | apply kept_foldl_snd | apply kept_foldl_fst | apply kept_foldl_snd2 | apply kept_ite | intro _ | extract_lets | with_reducible refine kept_some (by assumption) ?_ | dsimp -zeta only | split | dsimp -zeta +zetaDelta only

theorem kept_ownerCommand {z s : State} (h : Kept z s) (sub : Nat) (storeOk : Bool) (check : State → List Byte → Option Nat) {effect : State → List Byte → Nat × State} (heffect : ∀ t x0, Kept z t → Kept z (effect t x0).2) :
    Kept z (State.ownerCommand s sub storeOk check effect) := by
  unfold State.ownerCommand
  repeat' first | with_reducible first | assumption | apply heffect | apply kept_strongCommand | apply kept_modStrong | apply kept_strongChanged | apply kept_foldl | apply kept_foldl_snd | apply kept_foldl_fst | apply kept_foldl_snd2 | exact fuses_refl _ | apply kept_ite | intro _ | extract_lets | with_reducible refine kept_some (by assumption) ?_ | dsimp -zeta only | split | dsimp -zeta +zetaDelta only | exact fuses_refl _

theorem keptR_execTamperCfg {z s : State} (h : Kept z s) (storeOk : Bool) :
    KeptR z (execTamperCfg storeOk s) := by
  unfold execTamperCfg
  repeat' first | with_reducible first | assumption | apply keptR_next | apply kept_ownerCommand | apply kept_event | apply kept_modStrong | apply kept_foldl | apply kept_foldl_snd | apply kept_foldl_fst | apply kept_foldl_snd2 | exact fuses_refl _ | apply kept_ite | apply keptR_ite | intro _ | extract_lets | with_reducible refine kept_some (by assumption) ?_ | dsimp -zeta only | split | dsimp -zeta +zetaDelta only | exact fuses_refl _

theorem kept_tamperD01 {z s : State} (h : Kept z s) (source : Nat) :
    Kept z (State.tamperD01 s source) := by
  unfold State.tamperD01
  repeat' first | with_reducible first | assumption | apply kept_zeroRoot | apply kept_modStrong | apply kept_foldl | apply kept_foldl_snd | apply kept_foldl_fst | apply kept_foldl_snd2 | exact fuses_refl _ | apply kept_ite | intro _ | extract_lets | with_reducible refine kept_some (by assumption) ?_ | dsimp -zeta only | split | dsimp -zeta +zetaDelta only | exact fuses_refl _

theorem kept_setPair {z s : State} (h : Kept z s) (i : Nat) (e : List Byte) :
    Kept z (State.setPair s i e) := by
  unfold State.setPair
  repeat' first | with_reducible first | assumption | apply kept_retag | apply kept_storePage | apply kept_foldl | apply kept_foldl_snd | apply kept_foldl_fst | apply kept_foldl_snd2 | apply kept_ite | intro _ | extract_lets | with_reducible refine kept_some (by assumption) ?_ | dsimp -zeta only | split | dsimp -zeta +zetaDelta only

theorem keptR_execPairRevoke {z s : State} (h : Kept z s) (storeOk : Bool) :
    KeptR z (execPairRevoke storeOk s) := by
  unfold execPairRevoke
  repeat' first | with_reducible first | assumption | apply keptR_next | apply kept_ownerCommand | apply kept_setPair | apply kept_foldl | apply kept_foldl_snd | apply kept_foldl_fst | apply kept_foldl_snd2 | apply kept_ite | apply keptR_ite | intro _ | extract_lets | with_reducible refine kept_some (by assumption) ?_ | dsimp -zeta only | split | dsimp -zeta +zetaDelta only

theorem keptR_execPairRemove {z s : State} (h : Kept z s) (storeOk : Bool) :
    KeptR z (execPairRemove storeOk s) := by
  unfold execPairRemove
  repeat' first | with_reducible first | assumption | apply keptR_next | apply kept_ownerCommand | apply kept_setPair | apply kept_foldl | apply kept_foldl_snd | apply kept_foldl_fst | apply kept_foldl_snd2 | apply kept_ite | apply keptR_ite | intro _ | extract_lets | with_reducible refine kept_some (by assumption) ?_ | dsimp -zeta only | split | dsimp -zeta +zetaDelta only

theorem keptR_execPairRekey {z s : State} (h : Kept z s) (storeOk : Bool) :
    KeptR z (execPairRekey storeOk s) := by
  unfold execPairRekey
  repeat' first | with_reducible first | assumption | apply keptR_next | apply kept_ownerCommand | apply kept_retag | apply kept_foldl | apply kept_foldl_snd | apply kept_foldl_fst | apply kept_foldl_snd2 | apply kept_ite | apply keptR_ite | intro _ | extract_lets | with_reducible refine kept_some (by assumption) ?_ | dsimp -zeta only | split | dsimp -zeta +zetaDelta only

theorem keptR_execPairClear {z s : State} (h : Kept z s) (storeOk : Bool) :
    KeptR z (execPairClear storeOk s) := by
  unfold execPairClear
  repeat' first | with_reducible first | assumption | apply keptR_next | apply kept_ownerCommand | apply kept_retag | apply kept_each | apply kept_storePage | apply kept_foldl | apply kept_foldl_snd | apply kept_foldl_fst | apply kept_foldl_snd2 | apply kept_ite | apply keptR_ite | intro _ | extract_lets | with_reducible refine kept_some (by assumption) ?_ | dsimp -zeta only | split | dsimp -zeta +zetaDelta only

theorem kept_unprotect {z s : State} (h : Kept z s) (first : Nat) (last : Nat) :
    Kept z (State.unprotect s first last) := by
  unfold State.unprotect
  repeat' first | with_reducible first | assumption | apply kept_each | apply kept_writeDir | apply kept_setDir | apply kept_modCellar | apply kept_modDrive | apply kept_showCellar | apply kept_writeSuperblock | apply kept_foldl | apply kept_foldl_snd | apply kept_foldl_fst | apply kept_foldl_snd2 | apply kept_ite | intro _ | extract_lets | with_reducible refine kept_some (by assumption) ?_ | dsimp -zeta only | split | dsimp -zeta +zetaDelta only

theorem keptR_execUnprotect {z s : State} (h : Kept z s) (storeOk : Bool) :
    KeptR z (execUnprotect storeOk s) := by
  unfold execUnprotect
  repeat' first | with_reducible first | assumption | apply keptR_next | apply kept_ownerCommand | apply kept_unprotect | apply kept_foldl | apply kept_foldl_snd | apply kept_foldl_fst | apply kept_foldl_snd2 | apply kept_ite | apply keptR_ite | intro _ | extract_lets | with_reducible refine kept_some (by assumption) ?_ | dsimp -zeta only | split | dsimp -zeta +zetaDelta only

theorem keptR_execCellarFormatPermit {z s : State} (h : Kept z s) (storeOk : Bool) :
    KeptR z (execCellarFormatPermit storeOk s) := by
  unfold execCellarFormatPermit
  repeat' first | with_reducible first | assumption | apply keptR_next | apply kept_ownerCommand | apply kept_modStrong | apply kept_foldl | apply kept_foldl_snd | apply kept_foldl_fst | apply kept_foldl_snd2 | exact fuses_refl _ | apply kept_ite | apply keptR_ite | intro _ | extract_lets | with_reducible refine kept_some (by assumption) ?_ | dsimp -zeta only | split | dsimp -zeta +zetaDelta only | exact fuses_refl _

theorem keptR_execReroot {z s : State} (h : Kept z s) (storeOk : Bool) (inputs : BitVec 2) :
    KeptR z (execReroot storeOk inputs s) := by
  unfold execReroot
  repeat' first | with_reducible first | assumption | apply keptR_next | apply kept_modStrong | apply kept_ownerCommand | apply kept_event | apply kept_setFault | apply kept_newRoot | apply kept_foldl | apply kept_foldl_snd | apply kept_foldl_fst | apply kept_foldl_snd2 | exact fuses_refl _ | apply kept_ite | apply keptR_ite | intro _ | extract_lets | with_reducible refine kept_some (by assumption) ?_ | dsimp -zeta only | split | dsimp -zeta +zetaDelta only | exact fuses_refl _

theorem keptR_execRotateRec {z s : State} (h : Kept z s) (storeOk : Bool) :
    KeptR z (execRotateRec storeOk s) := by
  unfold execRotateRec
  repeat' first | with_reducible first | assumption | apply keptR_next | apply kept_ownerCommand | apply kept_event | apply kept_saveGens | apply kept_deriveFromRoot | apply kept_foldl | apply kept_foldl_snd | apply kept_foldl_fst | apply kept_foldl_snd2 | apply kept_ite | apply keptR_ite | intro _ | extract_lets | with_reducible refine kept_some (by assumption) ?_ | dsimp -zeta only | split | dsimp -zeta +zetaDelta only

theorem kept_lifecycleChanged {z s : State} (h : Kept z s) (record : Bool) :
    Kept z (State.lifecycleChanged s record) := by
  unfold State.lifecycleChanged
  repeat' first | with_reducible first | assumption | apply kept_raise | apply kept_blotter | apply kept_foldl | apply kept_foldl_snd | apply kept_foldl_fst | apply kept_foldl_snd2 | apply kept_ite | intro _ | extract_lets | with_reducible refine kept_some (by assumption) ?_ | dsimp -zeta only | split | dsimp -zeta +zetaDelta only

theorem kept_programOwner {z s : State} (h : Kept z s) (f : CrcField) (i : Nat) :
    Kept z (State.programOwner s f i) := by
  unfold State.programOwner
  repeat' first | with_reducible first | assumption | apply kept_modFuses | apply kept_foldl | apply kept_foldl_snd | apply kept_foldl_fst | apply kept_foldl_snd2 | exact fuses_refl _ | apply kept_ite | intro _ | extract_lets | with_reducible refine kept_some (by assumption) ?_ | dsimp -zeta only | split | dsimp -zeta +zetaDelta only | exact fuses_blow (by first | exact BitVec.and_self | exact and_or_self _ _ | exact thermoFill_grow _ _ | exact BitVec.and_allOnes) (by first | exact BitVec.and_self | exact and_or_self _ _ | exact thermoFill_grow _ _) (by first | exact BitVec.and_self | exact and_or_self _ _ | exact thermoFill_grow _ _) (by first | exact BitVec.and_self | exact and_or_self _ _ | exact thermoFill_grow _ _)

theorem keptR_execAddOwnerKey {z s : State} (h : Kept z s) (storeOk : Bool) (fuseOk : Bool) :
    KeptR z (execAddOwnerKey storeOk fuseOk s) := by
  unfold execAddOwnerKey
  repeat' first | with_reducible first | assumption | apply keptR_next | apply kept_ownerCommand | apply kept_lifecycleChanged | apply kept_event | apply kept_programOwner | apply kept_foldl | apply kept_foldl_snd | apply kept_foldl_fst | apply kept_foldl_snd2 | apply kept_ite | apply keptR_ite | intro _ | extract_lets | with_reducible refine kept_some (by assumption) ?_ | dsimp -zeta only | split | dsimp -zeta +zetaDelta only

theorem keptR_execRevokeOwnerKey {z s : State} (h : Kept z s) (storeOk : Bool) :
    KeptR z (execRevokeOwnerKey storeOk s) := by
  unfold execRevokeOwnerKey
  repeat' first | with_reducible first | assumption | apply keptR_next | apply kept_ownerCommand | apply kept_lifecycleChanged | apply kept_event | apply kept_modFuses | apply kept_foldl | apply kept_foldl_snd | apply kept_foldl_fst | apply kept_foldl_snd2 | exact fuses_refl _ | apply kept_ite | apply keptR_ite | intro _ | extract_lets | with_reducible refine kept_some (by assumption) ?_ | dsimp -zeta only | split | dsimp -zeta +zetaDelta only | exact fuses_blow (by first | exact BitVec.and_self | exact and_or_self _ _ | exact thermoFill_grow _ _ | exact BitVec.and_allOnes) (by first | exact BitVec.and_self | exact and_or_self _ _ | exact thermoFill_grow _ _) (by first | exact BitVec.and_self | exact and_or_self _ _ | exact thermoFill_grow _ _) (by first | exact BitVec.and_self | exact and_or_self _ _ | exact thermoFill_grow _ _)

theorem kept_nextLifecycle {z s : State} (h : Kept z s) :
    Kept z (State.nextLifecycle s) := by
  unfold State.nextLifecycle
  repeat' first | with_reducible first | assumption | apply kept_modFuses | apply kept_foldl | apply kept_foldl_snd | apply kept_foldl_fst | apply kept_foldl_snd2 | exact fuses_refl _ | apply kept_ite | intro _ | extract_lets | with_reducible refine kept_some (by assumption) ?_ | dsimp -zeta only | split | dsimp -zeta +zetaDelta only | exact fuses_blow (by first | exact BitVec.and_self | exact and_or_self _ _ | exact thermoFill_grow _ _ | exact BitVec.and_allOnes) (by first | exact BitVec.and_self | exact and_or_self _ _ | exact thermoFill_grow _ _) (by first | exact BitVec.and_self | exact and_or_self _ _ | exact thermoFill_grow _ _) (by first | exact BitVec.and_self | exact and_or_self _ _ | exact thermoFill_grow _ _)

theorem keptR_execTakeOwnership {z s : State} (h : Kept z s) (storeOk : Bool) (fuseOk : Bool) :
    KeptR z (execTakeOwnership storeOk fuseOk s) := by
  unfold execTakeOwnership
  repeat' first | with_reducible first | assumption | apply keptR_next | apply kept_ownerCommand | apply kept_onReal | apply kept_newRoot | apply kept_modStrong | apply kept_nextLifecycle | apply kept_programOwner | apply kept_lifecycleChanged | apply kept_event | apply kept_foldl | apply kept_foldl_snd | apply kept_foldl_fst | apply kept_foldl_snd2 | exact fuses_refl _ | apply kept_ite | apply keptR_ite | intro _ | extract_lets | with_reducible refine kept_some (by assumption) ?_ | dsimp -zeta only | split | dsimp -zeta +zetaDelta only | exact fuses_refl _

theorem keptR_execReturnPart {z s : State} (h : Kept z s) (storeOk : Bool) :
    KeptR z (execReturnPart storeOk s) := by
  unfold execReturnPart
  repeat' first | with_reducible first | assumption | apply keptR_next | apply kept_ownerCommand | apply kept_raise | apply kept_saveGens | apply kept_zeroRoot | apply kept_modFuses | apply kept_lifecycleChanged | apply kept_event | apply kept_nextLifecycle | apply kept_foldl | apply kept_foldl_snd | apply kept_foldl_fst | apply kept_foldl_snd2 | exact fuses_refl _ | apply kept_ite | apply keptR_ite | intro _ | extract_lets | with_reducible refine kept_some (by assumption) ?_ | dsimp -zeta only | split | dsimp -zeta +zetaDelta only | exact fuses_blow (by first | exact BitVec.and_self | exact and_or_self _ _ | exact thermoFill_grow _ _ | exact BitVec.and_allOnes) (by first | exact BitVec.and_self | exact and_or_self _ _ | exact thermoFill_grow _ _) (by first | exact BitVec.and_self | exact and_or_self _ _ | exact thermoFill_grow _ _) (by first | exact BitVec.and_self | exact and_or_self _ _ | exact thermoFill_grow _ _)

theorem keptR_execScrap {z s : State} (h : Kept z s) (storeOk : Bool) :
    KeptR z (execScrap storeOk s) := by
  unfold execScrap
  repeat' first | with_reducible first | assumption | apply keptR_next | apply kept_ownerCommand | apply kept_raise | apply kept_saveGens | apply kept_zeroRoot | apply kept_modFuses | apply kept_lifecycleChanged | apply kept_event | apply kept_foldl | apply kept_foldl_snd | apply kept_foldl_fst | apply kept_foldl_snd2 | exact fuses_refl _ | apply kept_ite | apply keptR_ite | intro _ | extract_lets | with_reducible refine kept_some (by assumption) ?_ | dsimp -zeta only | split | dsimp -zeta +zetaDelta only | exact fuses_blow (by first | exact BitVec.and_self | exact and_or_self _ _ | exact thermoFill_grow _ _ | exact BitVec.and_allOnes) (by first | exact BitVec.and_self | exact and_or_self _ _ | exact thermoFill_grow _ _) (by first | exact BitVec.and_self | exact and_or_self _ _ | exact thermoFill_grow _ _) (by first | exact BitVec.and_self | exact and_or_self _ _ | exact thermoFill_grow _ _)

theorem keptR_execPairAdd {z s : State} (h : Kept z s) (storeOk : Bool) :
    KeptR z (execPairAdd storeOk s) := by
  unfold execPairAdd
  repeat' first | with_reducible first | assumption | apply keptR_next | apply kept_ownerCommand | apply kept_setPair | apply kept_foldl | apply kept_foldl_snd | apply kept_foldl_fst | apply kept_foldl_snd2 | apply kept_ite | apply keptR_ite | intro _ | extract_lets | with_reducible refine kept_some (by assumption) ?_ | dsimp -zeta only | split | dsimp -zeta +zetaDelta only

theorem kept_engineCommand {z s : State} (h : Kept z s) (f : State → Nat ⊕ EngineWait) :
    Kept z (State.engineCommand s f) := by
  unfold State.engineCommand
  repeat' first | with_reducible first | assumption | apply kept_offer | apply kept_accept | apply kept_strongDone | apply kept_engineNext | apply kept_modStrong | apply kept_foldl | apply kept_foldl_snd | apply kept_foldl_fst | apply kept_foldl_snd2 | exact fuses_refl _ | apply kept_ite | intro _ | extract_lets | with_reducible refine kept_some (by assumption) ?_ | dsimp -zeta only | split | dsimp -zeta +zetaDelta only | exact fuses_refl _

theorem keptR_execAttest {z s : State} (h : Kept z s) :
    KeptR z (execAttest s) := by
  unfold execAttest
  repeat' first | with_reducible first | assumption | apply keptR_next | apply kept_engineCommand | apply kept_foldl | apply kept_foldl_snd | apply kept_foldl_fst | apply kept_foldl_snd2 | apply kept_ite | apply keptR_ite | intro _ | extract_lets | with_reducible refine kept_some (by assumption) ?_ | dsimp -zeta only | split | dsimp -zeta +zetaDelta only

theorem keptR_execExtend {z s : State} (h : Kept z s) :
    KeptR z (execExtend s) := by
  unfold execExtend
  repeat' first | with_reducible first | assumption | apply keptR_next | apply kept_strongCommand | apply kept_extend | apply kept_foldl | apply kept_foldl_snd | apply kept_foldl_fst | apply kept_foldl_snd2 | apply kept_ite | apply keptR_ite | intro _ | extract_lets | with_reducible refine kept_some (by assumption) ?_ | dsimp -zeta only | split | dsimp -zeta +zetaDelta only

theorem keptR_execRandom {z s : State} (h : Kept z s) :
    KeptR z (execRandom s) := by
  unfold execRandom
  repeat' first | with_reducible first | assumption | apply keptR_next | apply kept_strongCommand | apply kept_draw | apply kept_foldl | apply kept_foldl_snd | apply kept_foldl_fst | apply kept_foldl_snd2 | apply kept_ite | apply keptR_ite | intro _ | extract_lets | with_reducible refine kept_snd (by assumption) ?_ | with_reducible refine kept_snd2 (by assumption) ?_ | with_reducible refine kept_snd3 (by assumption) ?_ | with_reducible refine kept_some (by assumption) ?_ | dsimp -zeta only | split | dsimp -zeta +zetaDelta only

theorem keptR_execDerive {z s : State} (h : Kept z s) :
    KeptR z (execDerive s) := by
  unfold execDerive
  repeat' first | with_reducible first | assumption | apply keptR_next | apply kept_strongCommand | apply kept_fillSlot | apply kept_strongChanged | apply kept_saveGens | apply kept_foldl | apply kept_foldl_snd | apply kept_foldl_fst | apply kept_foldl_snd2 | apply kept_ite | apply keptR_ite | intro _ | extract_lets | with_reducible refine kept_some (by assumption) ?_ | dsimp -zeta only | split | dsimp -zeta +zetaDelta only

theorem keptR_execGenerate {z s : State} (h : Kept z s) :
    KeptR z (execGenerate s) := by
  unfold execGenerate
  repeat' first | with_reducible first | assumption | apply keptR_next | apply kept_strongCommand | apply kept_fillSlot | apply kept_strongChanged | apply kept_saveGens | apply kept_draw | apply kept_foldl | apply kept_foldl_snd | apply kept_foldl_fst | apply kept_foldl_snd2 | apply kept_ite | apply keptR_ite | intro _ | extract_lets | with_reducible refine kept_snd (by assumption) ?_ | with_reducible refine kept_snd2 (by assumption) ?_ | with_reducible refine kept_snd3 (by assumption) ?_ | with_reducible refine kept_some (by assumption) ?_ | dsimp -zeta only | split | dsimp -zeta +zetaDelta only

theorem keptR_execInvalidate {z s : State} (h : Kept z s) :
    KeptR z (execInvalidate s) := by
  unfold execInvalidate
  repeat' first | with_reducible first | assumption | apply keptR_next | apply kept_strongCommand | apply kept_setBank | apply kept_strongChanged | apply kept_saveGens | apply kept_foldl | apply kept_foldl_snd | apply kept_foldl_fst | apply kept_foldl_snd2 | apply kept_ite | apply keptR_ite | intro _ | extract_lets | with_reducible refine kept_some (by assumption) ?_ | dsimp -zeta only | split | dsimp -zeta +zetaDelta only

theorem keptR_execSign {z s : State} (h : Kept z s) :
    KeptR z (execSign s) := by
  unfold execSign
  repeat' first | with_reducible first | assumption | apply keptR_next | apply kept_engineCommand | apply kept_foldl | apply kept_foldl_snd | apply kept_foldl_fst | apply kept_foldl_snd2 | apply kept_ite | apply keptR_ite | intro _ | extract_lets | with_reducible refine kept_some (by assumption) ?_ | dsimp -zeta only | split | dsimp -zeta +zetaDelta only

theorem keptR_execHmac {z s : State} (h : Kept z s) :
    KeptR z (execHmac s) := by
  unfold execHmac
  repeat' first | with_reducible first | assumption | apply keptR_next | apply kept_engineCommand | apply kept_foldl | apply kept_foldl_snd | apply kept_foldl_fst | apply kept_foldl_snd2 | apply kept_ite | apply keptR_ite | intro _ | extract_lets | with_reducible refine kept_some (by assumption) ?_ | dsimp -zeta only | split | dsimp -zeta +zetaDelta only

theorem keptR_execPubkey {z s : State} (h : Kept z s) :
    KeptR z (execPubkey s) := by
  unfold execPubkey
  repeat' first | with_reducible first | assumption | apply keptR_next | apply kept_engineCommand | apply kept_foldl | apply kept_foldl_snd | apply kept_foldl_fst | apply kept_foldl_snd2 | apply kept_ite | apply keptR_ite | intro _ | extract_lets | with_reducible refine kept_some (by assumption) ?_ | dsimp -zeta only | split | dsimp -zeta +zetaDelta only

theorem keptR_execStrongroomBadCommand {z s : State} (h : Kept z s) :
    KeptR z (execStrongroomBadCommand s) := by
  unfold execStrongroomBadCommand
  repeat' first | with_reducible first | assumption | apply keptR_next | apply kept_strongCommand | apply kept_foldl | apply kept_foldl_snd | apply kept_foldl_fst | apply kept_foldl_snd2 | apply kept_ite | apply keptR_ite | intro _ | extract_lets | with_reducible refine kept_some (by assumption) ?_ | dsimp -zeta only | split | dsimp -zeta +zetaDelta only

theorem kept_endSession {z s : State} (h : Kept z s) :
    Kept z (State.endSession s) := by
  unfold State.endSession
  repeat' first | with_reducible first | assumption | apply kept_modStrong | apply kept_event | apply kept_put | apply kept_strongChanged | apply kept_blotter | apply kept_raise | apply kept_foldl | apply kept_foldl_snd | apply kept_foldl_fst | apply kept_foldl_snd2 | exact fuses_refl _ | apply kept_ite | intro _ | extract_lets | with_reducible refine kept_some (by assumption) ?_ | dsimp -zeta only | split | dsimp -zeta +zetaDelta only | exact fuses_refl _

theorem keptR_execDrbgHealthRetest {z s : State} (h : Kept z s) (pass : Bool) :
    KeptR z (execDrbgHealthRetest pass s) := by
  unfold execDrbgHealthRetest
  repeat' first | with_reducible first | assumption | apply keptR_next | apply kept_setFault | apply kept_put | apply kept_bump | apply kept_raise | apply kept_foldl | apply kept_foldl_snd | apply kept_foldl_fst | apply kept_foldl_snd2 | apply kept_ite | apply keptR_ite | intro _ | extract_lets | with_reducible refine kept_some (by assumption) ?_ | dsimp -zeta only | split | dsimp -zeta +zetaDelta only

theorem kept_abortEngine {z s : State} (h : Kept z s) :
    Kept z (State.abortEngine s) := by
  unfold State.abortEngine
  repeat' first | with_reducible first | assumption | apply kept_settleFooter | apply kept_strongDone | apply kept_modStrong | apply kept_foldl | apply kept_foldl_snd | apply kept_foldl_fst | apply kept_foldl_snd2 | exact fuses_refl _ | apply kept_ite | intro _ | extract_lets | with_reducible refine kept_some (by assumption) ?_ | dsimp -zeta only | split | dsimp -zeta +zetaDelta only | exact fuses_refl _

theorem keptR_execTamperDetect {z s : State} (h : Kept z s) (source : Fin 4) (bursts : BitVec 2) :
    KeptR z (execTamperDetect source bursts s) := by
  unfold execTamperDetect
  repeat' first | with_reducible first | assumption | apply keptR_next | apply kept_modStrong | apply kept_tamperD01 | apply kept_burstRescue | apply kept_endSession | apply kept_abortEngine | apply kept_event | apply kept_saveGens | apply kept_raise | apply kept_blotter | apply kept_setFault | apply kept_engineNext | apply kept_strongChanged | apply kept_showStrong | apply kept_foldl | apply kept_foldl_snd | apply kept_foldl_fst | apply kept_foldl_snd2 | exact fuses_refl _ | apply kept_ite | apply keptR_ite | intro _ | extract_lets | with_reducible refine kept_some (by assumption) ?_ | dsimp -zeta only | split | dsimp -zeta +zetaDelta only | exact fuses_refl _

theorem kept_engineResult {z s : State} (h : Kept z s) (e : EngineOp) :
    Kept z (State.engineResult s e) := by
  unfold State.engineResult
  repeat' first | with_reducible first | assumption | apply kept_strongDone | apply kept_raise | apply kept_drawScalar | apply kept_foldl | apply kept_foldl_snd | apply kept_foldl_fst | apply kept_foldl_snd2 | apply kept_ite | intro _ | extract_lets | with_reducible refine kept_snd (by assumption) ?_ | with_reducible refine kept_snd2 (by assumption) ?_ | with_reducible refine kept_snd3 (by assumption) ?_ | with_reducible refine kept_some (by assumption) ?_ | dsimp -zeta only | split | dsimp -zeta +zetaDelta only

theorem keptR_execStrongroomOpComplete {z s : State} (h : Kept z s) :
    KeptR z (execStrongroomOpComplete s) := by
  unfold execStrongroomOpComplete
  repeat' first | with_reducible first | assumption | apply keptR_next | apply kept_engineNext | apply kept_engineResult | apply kept_modStrong | apply kept_foldl | apply kept_foldl_snd | apply kept_foldl_fst | apply kept_foldl_snd2 | exact fuses_refl _ | apply kept_ite | apply keptR_ite | intro _ | extract_lets | with_reducible refine kept_some (by assumption) ?_ | dsimp -zeta only | split | dsimp -zeta +zetaDelta only | exact fuses_refl _

end Sys2Proof.Machine
end

