-- ==== Sys2Proof/Laws/KeptDebug.lean ====
section
/-!
SUPPORT. The operations of Machine/Debug.lean keep the relation of Laws/Kept.lean.
-/
namespace Sys2Proof.Machine
open Sys2Proof Safety

theorem kept_sessionOver {z s : State} (h : Kept z s) (burst : Bool) :
    Kept z (State.sessionOver s burst) := by
  unfold State.sessionOver
  repeat' first | with_reducible first | assumption | apply kept_endSession | apply kept_burstRescue | apply kept_foldl | apply kept_foldl_snd | apply kept_foldl_fst | apply kept_foldl_snd2 | apply kept_ite | intro _ | extract_lets | with_reducible refine kept_some (by assumption) ?_ | dsimp -zeta only | split | dsimp -zeta +zetaDelta only

theorem kept_setIr {z s : State} (h : Kept z s) (v : BitVec 8) :
    Kept z (State.setIr s v) := by
  unfold State.setIr
  repeat' first | with_reducible first | assumption | apply kept_modStrong | apply kept_foldl | apply kept_foldl_snd | apply kept_foldl_fst | apply kept_foldl_snd2 | exact fuses_refl _ | apply kept_ite | intro _ | extract_lets | with_reducible refine kept_some (by assumption) ?_ | dsimp -zeta only | split | dsimp -zeta +zetaDelta only | exact fuses_refl _

theorem kept_openSession {z s : State} (h : Kept z s) (level : Nat) (duration : Nat) :
    Kept z (State.openSession s level duration) := by
  unfold State.openSession
  repeat' first | with_reducible first | assumption | apply kept_clearTrace | apply kept_abortEngine | apply kept_modStrong | apply kept_deriveFixed | apply kept_put | apply kept_raise | apply kept_event | apply kept_engineNext | apply kept_strongChanged | apply kept_blotter | apply kept_foldl | apply kept_foldl_snd | apply kept_foldl_fst | apply kept_foldl_snd2 | exact fuses_refl _ | apply kept_ite | intro _ | extract_lets | with_reducible refine kept_some (by assumption) ?_ | dsimp -zeta only | split | dsimp -zeta +zetaDelta only | exact fuses_refl _

theorem keptR_execDbgToken {z s : State} (h : Kept z s) (token : List (BitVec 8)) :
    KeptR z (execDbgToken token s) := by
  unfold execDbgToken
  repeat' first | with_reducible first | assumption | apply keptR_next | apply kept_setIr | apply kept_modStrong | apply kept_openSession | apply kept_foldl | apply kept_foldl_snd | apply kept_foldl_fst | apply kept_foldl_snd2 | exact fuses_refl _ | apply kept_ite | apply keptR_ite | intro _ | extract_lets | with_reducible refine kept_some (by assumption) ?_ | dsimp -zeta only | split | dsimp -zeta +zetaDelta only | exact fuses_refl _

theorem keptR_execTapExtest {z s : State} (h : Kept z s) (shift : List Bool) :
    KeptR z (execTapExtest shift s) := by
  unfold execTapExtest
  repeat' first | with_reducible first | assumption | apply keptR_next | apply kept_emit | apply kept_setIr | apply kept_modStrong | apply kept_foldl | apply kept_foldl_snd | apply kept_foldl_fst | apply kept_foldl_snd2 | exact fuses_refl _ | apply kept_ite | apply keptR_ite | intro _ | extract_lets | with_reducible refine kept_some (by assumption) ?_ | dsimp -zeta only | split | dsimp -zeta +zetaDelta only | exact fuses_refl _

theorem keptR_execTapSamplePreload {z s : State} (h : Kept z s) (pins : List Bool) (shift : List Bool) :
    KeptR z (execTapSamplePreload pins shift s) := by
  unfold execTapSamplePreload
  repeat' first | with_reducible first | assumption | apply keptR_next | apply kept_emit | apply kept_modStrong | apply kept_setIr | apply kept_foldl | apply kept_foldl_snd | apply kept_foldl_fst | apply kept_foldl_snd2 | exact fuses_refl _ | apply kept_ite | apply keptR_ite | intro _ | extract_lets | with_reducible refine kept_some (by assumption) ?_ | dsimp -zeta only | split | dsimp -zeta +zetaDelta only | exact fuses_refl _

theorem keptR_execDbgRelock {z s : State} (h : Kept z s) (burst : Bool) :
    KeptR z (execDbgRelock burst s) := by
  unfold execDbgRelock
  repeat' first | with_reducible first | assumption | apply keptR_next | apply kept_sessionOver | apply kept_modStrong | apply kept_setIr | apply kept_foldl | apply kept_foldl_snd | apply kept_foldl_fst | apply kept_foldl_snd2 | exact fuses_refl _ | apply kept_ite | apply keptR_ite | intro _ | extract_lets | with_reducible refine kept_some (by assumption) ?_ | dsimp -zeta only | split | dsimp -zeta +zetaDelta only | exact fuses_refl _

theorem keptR_execTapIdcode {z s : State} (h : Kept z s) :
    KeptR z (execTapIdcode s) := by
  unfold execTapIdcode
  repeat' first | with_reducible first | assumption | apply keptR_next | apply kept_emit | apply kept_modStrong | apply kept_setIr | apply kept_foldl | apply kept_foldl_snd | apply kept_foldl_fst | apply kept_foldl_snd2 | exact fuses_refl _ | apply kept_ite | apply keptR_ite | intro _ | extract_lets | with_reducible refine kept_some (by assumption) ?_ | dsimp -zeta only | split | dsimp -zeta +zetaDelta only | exact fuses_refl _

theorem keptR_execTapBypass {z s : State} (h : Kept z s) (shift : List Bool) :
    KeptR z (execTapBypass shift s) := by
  unfold execTapBypass
  repeat' first | with_reducible first | assumption | apply keptR_next | apply kept_emit | apply kept_modStrong | apply kept_setIr | apply kept_foldl | apply kept_foldl_snd | apply kept_foldl_fst | apply kept_foldl_snd2 | exact fuses_refl _ | apply kept_ite | apply keptR_ite | intro _ | extract_lets | with_reducible refine kept_some (by assumption) ?_ | dsimp -zeta only | split | dsimp -zeta +zetaDelta only | exact fuses_refl _

theorem keptR_execDebugSessionExpiry {z s : State} (h : Kept z s) (burst : Bool) :
    KeptR z (execDebugSessionExpiry burst s) := by
  unfold execDebugSessionExpiry
  repeat' first | with_reducible first | assumption | apply keptR_next | apply kept_sessionOver | apply kept_foldl | apply kept_foldl_snd | apply kept_foldl_fst | apply kept_foldl_snd2 | apply kept_ite | apply keptR_ite | intro _ | extract_lets | with_reducible refine kept_some (by assumption) ?_ | dsimp -zeta only | split | dsimp -zeta +zetaDelta only

theorem keptR_execDbgStatus {z s : State} (h : Kept z s) :
    KeptR z (execDbgStatus s) := by
  unfold execDbgStatus
  repeat' first | with_reducible first | assumption | apply keptR_next | apply kept_emit | apply kept_modStrong | apply kept_setIr | apply kept_foldl | apply kept_foldl_snd | apply kept_foldl_fst | apply kept_foldl_snd2 | exact fuses_refl _ | apply kept_ite | apply keptR_ite | intro _ | extract_lets | with_reducible refine kept_some (by assumption) ?_ | dsimp -zeta only | split | dsimp -zeta +zetaDelta only | exact fuses_refl _

theorem keptR_execDbgChallenge {z s : State} (h : Kept z s) :
    KeptR z (execDbgChallenge s) := by
  unfold execDbgChallenge
  repeat' first | with_reducible first | assumption | apply keptR_next | apply kept_setIr | apply kept_emit | apply kept_modStrong | apply kept_draw | apply kept_foldl | apply kept_foldl_snd | apply kept_foldl_fst | apply kept_foldl_snd2 | exact fuses_refl _ | apply kept_ite | apply keptR_ite | intro _ | extract_lets | with_reducible refine kept_snd (by assumption) ?_ | with_reducible refine kept_snd2 (by assumption) ?_ | with_reducible refine kept_snd3 (by assumption) ?_ | with_reducible refine kept_some (by assumption) ?_ | dsimp -zeta only | split | dsimp -zeta +zetaDelta only | exact fuses_refl _

theorem keptR_execTapReset {z s : State} (h : Kept z s) :
    KeptR z (execTapReset s) := by
  unfold execTapReset
  repeat' first | with_reducible first | assumption | apply keptR_next | apply kept_modStrong | apply kept_setIr | apply kept_foldl | apply kept_foldl_snd | apply kept_foldl_fst | apply kept_foldl_snd2 | exact fuses_refl _ | apply kept_ite | apply keptR_ite | intro _ | extract_lets | with_reducible refine kept_some (by assumption) ?_ | dsimp -zeta only | split | dsimp -zeta +zetaDelta only | exact fuses_refl _

end Sys2Proof.Machine
end

