-- ==== Sys2Proof/Laws/KeptFabricOps.lean ====
section
/-!
SUPPORT. The operations of Machine/FabricOps.lean keep the relation of Laws/Kept.lean.
-/
namespace Sys2Proof.Machine
open Sys2Proof Safety

theorem kept_fabricOffer {z s : State} (h : Kept z s) {f : State → State} (hf : ∀ t, Kept z t → Kept z (f t)) :
    Kept z (State.fabricOffer s f) := by
  unfold State.fabricOffer
  repeat' first | with_reducible first | assumption | apply hf | apply kept_offer | apply kept_accept | apply kept_foldl | apply kept_foldl_snd | apply kept_foldl_fst | apply kept_foldl_snd2 | apply kept_ite | intro _ | extract_lets | with_reducible refine kept_some (by assumption) ?_ | dsimp -zeta only | split | dsimp -zeta +zetaDelta only

theorem kept_fabricDone {z s : State} (h : Kept z s) (status : Nat) (info : Nat) :
    Kept z (State.fabricDone s status info) := by
  unfold State.fabricDone
  repeat' first | with_reducible first | assumption | apply kept_complete | apply kept_wr | apply kept_raise | apply kept_foldl | apply kept_foldl_snd | apply kept_foldl_fst | apply kept_foldl_snd2 | apply kept_ite | intro _ | extract_lets | with_reducible refine kept_some (by assumption) ?_ | dsimp -zeta only | split | dsimp -zeta +zetaDelta only

theorem kept_showSvn {z s : State} (h : Kept z s) :
    Kept z (State.showSvn s) := by
  unfold State.showSvn
  repeat' first | with_reducible first | assumption | apply kept_put | apply kept_foldl | apply kept_foldl_snd | apply kept_foldl_fst | apply kept_foldl_snd2 | apply kept_ite | intro _ | extract_lets | with_reducible refine kept_some (by assumption) ?_ | dsimp -zeta only | split | dsimp -zeta +zetaDelta only

end Sys2Proof.Machine
end

