-- ==== Sys2Proof/Laws/KeptFabric.lean ====
section
/-!
SUPPORT. The operations of Machine/Fabric.lean keep the relation of Laws/Kept.lean.
-/
namespace Sys2Proof.Machine
open Sys2Proof Safety

theorem kept_loadCommand {z s : State} (h : Kept z s) (image : Option (List Byte)) {fail : State → Nat → Nat → State} {good : State → List Byte → State} (hfail : ∀ t x0 x1, Kept z t → Kept z (fail t x0 x1)) (hgood : ∀ t x0, Kept z t → Kept z (good t x0)) :
    Kept z (State.loadCommand s image fail good) := by
  unfold State.loadCommand
  repeat' first | with_reducible first | assumption | apply hfail | apply hgood | apply kept_fabricOffer | apply kept_foldl | apply kept_foldl_snd | apply kept_foldl_fst | apply kept_foldl_snd2 | apply kept_ite | intro _ | extract_lets | with_reducible refine kept_some (by assumption) ?_ | dsimp -zeta only | split | dsimp -zeta +zetaDelta only

theorem keptR_execFabricVerify {z s : State} (h : Kept z s) (image : Option (List (BitVec 8))) :
    KeptR z (execFabricVerify image s) := by
  unfold execFabricVerify
  repeat' first | with_reducible first | assumption | apply keptR_next | apply kept_loadCommand | apply kept_fabricDone | apply kept_foldl | apply kept_foldl_snd | apply kept_foldl_fst | apply kept_foldl_snd2 | apply kept_ite | apply keptR_ite | intro _ | extract_lets | with_reducible refine kept_some (by assumption) ?_ | dsimp -zeta only | split | dsimp -zeta +zetaDelta only

theorem keptR_execFabricLoad {z s : State} (h : Kept z s) (image : Option (List (BitVec 8))) :
    KeptR z (execFabricLoad image s) := by
  unfold execFabricLoad
  repeat' first | with_reducible first | assumption | apply keptR_next | apply kept_loadCommand | apply kept_blotter | apply kept_fabricDone | apply kept_emptyPreroll | apply kept_closeAll | apply kept_modFabric | apply kept_foldl | apply kept_foldl_snd | apply kept_foldl_fst | apply kept_foldl_snd2 | apply kept_ite | apply keptR_ite | intro _ | extract_lets | with_reducible refine kept_some (by assumption) ?_ | dsimp -zeta only | split | dsimp -zeta +zetaDelta only

theorem keptR_execAdvanceSvn {z s : State} (h : Kept z s) :
    KeptR z (execAdvanceSvn s) := by
  unfold execAdvanceSvn
  repeat' first | with_reducible first | assumption | apply keptR_next | apply kept_fabricOffer | apply kept_fabricDone | apply kept_showSvn | apply kept_modFuses | apply kept_strongChanged | apply kept_foldl | apply kept_foldl_snd | apply kept_foldl_fst | apply kept_foldl_snd2 | exact fuses_refl _ | apply kept_ite | apply keptR_ite | intro _ | extract_lets | with_reducible refine kept_some (by assumption) ?_ | dsimp -zeta only | split | dsimp -zeta +zetaDelta only | exact fuses_blow (by first | exact BitVec.and_self | exact and_or_self _ _ | exact thermoFill_grow _ _ | exact BitVec.and_allOnes) (by first | exact BitVec.and_self | exact and_or_self _ _ | exact thermoFill_grow _ _) (by first | exact BitVec.and_self | exact and_or_self _ _ | exact thermoFill_grow _ _) (by first | exact BitVec.and_self | exact and_or_self _ _ | exact thermoFill_grow _ _)

theorem keptR_execFabricBadCommand {z s : State} (h : Kept z s) :
    KeptR z (execFabricBadCommand s) := by
  unfold execFabricBadCommand
  repeat' first | with_reducible first | assumption | apply keptR_next | apply kept_fabricOffer | apply kept_fabricDone | apply kept_foldl | apply kept_foldl_snd | apply kept_foldl_fst | apply kept_foldl_snd2 | apply kept_ite | apply keptR_ite | intro _ | extract_lets | with_reducible refine kept_some (by assumption) ?_ | dsimp -zeta only | split | dsimp -zeta +zetaDelta only

end Sys2Proof.Machine
end

