-- ==== Sys2Proof/Laws/KeptLatch.lean ====
section
/-!
SUPPORT. The operations of Machine/Latch.lean keep the relation of Laws/Kept.lean.
-/
namespace Sys2Proof.Machine
open Sys2Proof Safety

theorem kept_latchPane {z s : State} (h : Kept z s) (f : Nat) (frac : Nat) (p : PanePlan) :
    Kept z (State.latchPane s f frac p) := by
  unfold State.latchPane
  repeat' first | with_reducible first | assumption | apply kept_wr | apply kept_put | apply kept_raiseIf | apply kept_modFolio | apply kept_pin | apply kept_foldl | apply kept_foldl_snd | apply kept_foldl_fst | apply kept_foldl_snd2 | apply kept_ite | intro _ | extract_lets | with_reducible refine kept_snd (by assumption) ?_ | with_reducible refine kept_snd2 (by assumption) ?_ | with_reducible refine kept_snd3 (by assumption) ?_ | with_reducible refine kept_some (by assumption) ?_ | dsimp -zeta only | split | dsimp -zeta +zetaDelta only

theorem kept_latchSeal {z s : State} (h : Kept z s) (f : Nat) (frac : Nat) (t : Timing) :
    Kept z (State.latchSeal s f frac t) := by
  unfold State.latchSeal
  repeat' first | with_reducible first | assumption | apply kept_setSeal | apply kept_modFolio | apply kept_dropKept | apply kept_put | apply kept_pin | apply kept_foldl | apply kept_foldl_snd | apply kept_foldl_fst | apply kept_foldl_snd2 | apply kept_ite | intro _ | extract_lets | with_reducible refine kept_snd (by assumption) ?_ | with_reducible refine kept_snd2 (by assumption) ?_ | with_reducible refine kept_snd3 (by assumption) ?_ | with_reducible refine kept_some (by assumption) ?_ | dsimp -zeta only | split | dsimp -zeta +zetaDelta only

theorem kept_cutEvents {z s : State} (h : Kept z s) (f : Nat) (old : Option Nat) (new : Option Nat) :
    Kept z (State.cutEvents s f old new) := by
  unfold State.cutEvents
  repeat' first | with_reducible first | assumption | apply kept_raise | apply kept_foldl | apply kept_foldl_snd | apply kept_foldl_fst | apply kept_foldl_snd2 | apply kept_ite | intro _ | extract_lets | with_reducible refine kept_some (by assumption) ?_ | dsimp -zeta only | split | dsimp -zeta +zetaDelta only

theorem kept_trackPass {z s : State} (h : Kept z s) (f : Nat) (plans : List PanePlan) :
    Kept z (State.trackPass s f plans) := by
  unfold State.trackPass
  repeat' first | with_reducible first | assumption | apply kept_trackStream | apply kept_foldl | apply kept_foldl_snd | apply kept_foldl_fst | apply kept_foldl_snd2 | apply kept_ite | intro _ | extract_lets | with_reducible refine kept_some (by assumption) ?_ | dsimp -zeta only | split | dsimp -zeta +zetaDelta only

theorem kept_frameLatch {z s : State} (h : Kept z s) (f : Nat) (frac : Nat) :
    Kept z (State.frameLatch s f frac) := by
  unfold State.frameLatch
  repeat' first | with_reducible first | assumption | apply kept_put | apply kept_modFolio | apply kept_cutEvents | apply kept_each | apply kept_latchPane | apply kept_latchSeal | apply kept_trackPass | apply kept_foldl | apply kept_foldl_snd | apply kept_foldl_fst | apply kept_foldl_snd2 | apply kept_ite | intro _ | extract_lets | with_reducible refine kept_some (by assumption) ?_ | dsimp -zeta only | split | dsimp -zeta +zetaDelta only

end Sys2Proof.Machine
end

