-- ==== Sys2Proof/Laws/KeptCompose.lean ====
section
/-!
SUPPORT. The operations of Machine/Compose.lean keep the relation of Laws/Kept.lean.
-/
namespace Sys2Proof.Machine
open Sys2Proof Safety

theorem kept_paneRead {z s : State} (h : Kept z s) (addr : Nat) (len : Nat) :
    Kept z (State.paneRead s addr len).2.2 := by
  unfold State.paneRead
  repeat' first | with_reducible first | assumption | apply kept_fwRefuse | apply kept_memTake | apply kept_foldl | apply kept_foldl_snd | apply kept_foldl_fst | apply kept_foldl_snd2 | apply kept_ite | intro _ | extract_lets | with_reducible refine kept_snd (by assumption) ?_ | with_reducible refine kept_snd2 (by assumption) ?_ | with_reducible refine kept_snd3 (by assumption) ?_ | with_reducible refine kept_some (by assumption) ?_ | dsimp -zeta only | split | dsimp -zeta +zetaDelta only

theorem kept_markCut {z s : State} (h : Kept z s) (f : Nat) (t : PaneLatch) (unv : Bool) (con : Bool) (syn : Bool) :
    Kept z (State.markCut s f t unv con syn) := by
  unfold State.markCut
  repeat' first | with_reducible first | assumption | apply kept_raiseIf | apply kept_put | apply kept_modFolio | apply kept_foldl | apply kept_foldl_snd | apply kept_foldl_fst | apply kept_foldl_snd2 | apply kept_ite | intro _ | extract_lets | with_reducible refine kept_some (by assumption) ?_ | dsimp -zeta only | split | dsimp -zeta +zetaDelta only

theorem kept_fetchRow {z s : State} (h : Kept z s) (f : Nat) (t : PaneLatch) (slot : Nat) (row : Nat) :
    Kept z (State.fetchRow s f t slot row) := by
  unfold State.fetchRow
  repeat' first | with_reducible first | assumption | apply kept_unitUse | apply kept_raise | apply kept_bump | apply kept_modFolio | apply kept_paneRead | apply kept_foldl | apply kept_foldl_snd | apply kept_foldl_fst | apply kept_foldl_snd2 | apply kept_ite | intro _ | extract_lets | with_reducible refine kept_snd (by assumption) ?_ | with_reducible refine kept_snd2 (by assumption) ?_ | with_reducible refine kept_snd3 (by assumption) ?_ | with_reducible refine kept_some (by assumption) ?_ | dsimp -zeta only | split | dsimp -zeta +zetaDelta only

theorem kept_cutStep {z s : State} (h : Kept z s) (f : Nat) (t : PaneLatch) (y : Nat) :
    Kept z (State.cutStep s f t y) := by
  unfold State.cutStep
  repeat' first | with_reducible first | assumption | apply kept_modFolio | apply kept_markCut | apply kept_put | apply kept_raise | apply kept_each | apply kept_fetchRow | apply kept_foldl | apply kept_foldl_snd | apply kept_foldl_fst | apply kept_foldl_snd2 | apply kept_ite | intro _ | extract_lets | with_reducible refine kept_some (by assumption) ?_ | dsimp -zeta only | split | dsimp -zeta +zetaDelta only

theorem kept_fetchFor {z s : State} (h : Kept z s) (f : Nat) (t : PaneLatch) (y : Nat) :
    Kept z (State.fetchFor s f t y) := by
  unfold State.fetchFor
  repeat' first | with_reducible first | assumption | apply kept_cutStep | apply kept_each | apply kept_fetchRow | apply kept_foldl | apply kept_foldl_snd | apply kept_foldl_fst | apply kept_foldl_snd2 | apply kept_ite | intro _ | extract_lets | with_reducible refine kept_some (by assumption) ?_ | dsimp -zeta only | split | dsimp -zeta +zetaDelta only

theorem kept_dryRow {z s : State} (h : Kept z s) (f : Nat) (y : Nat) :
    Kept z (State.dryRow s f y).2 := by
  unfold State.dryRow
  repeat' first | with_reducible first | assumption | apply kept_unitUse | apply kept_memRead | apply kept_foldl | apply kept_foldl_snd | apply kept_foldl_fst | apply kept_foldl_snd2 | apply kept_ite | intro _ | extract_lets | with_reducible refine kept_snd (by assumption) ?_ | with_reducible refine kept_snd2 (by assumption) ?_ | with_reducible refine kept_snd3 (by assumption) ?_ | with_reducible refine kept_some (by assumption) ?_ | dsimp -zeta only | split | dsimp -zeta +zetaDelta only

theorem kept_dryWrite {z s : State} (h : Kept z s) (f : Nat) (y : Nat) (row : List (List Nat)) :
    Kept z (State.dryWrite s f y row).2 := by
  unfold State.dryWrite
  repeat' first | with_reducible first | assumption | apply kept_memWrite | apply kept_unitUse | apply kept_foldl | apply kept_foldl_snd | apply kept_foldl_fst | apply kept_foldl_snd2 | apply kept_ite | intro _ | extract_lets | with_reducible refine kept_some (by assumption) ?_ | dsimp -zeta only | split | dsimp -zeta +zetaDelta only

theorem kept_composeRow {z s : State} (h : Kept z s) (f : Nat) (y : Nat) :
    Kept z (State.composeRow s f y).2 := by
  unfold State.composeRow
  repeat' first | with_reducible first | assumption | apply kept_each | apply kept_fetchFor | apply kept_drawn | apply kept_modFolio | apply kept_dryRow | apply kept_dryWrite | apply kept_foldl | apply kept_foldl_snd | apply kept_foldl_fst | apply kept_foldl_snd2 | apply kept_ite | intro _ | extract_lets | with_reducible refine kept_snd (by assumption) ?_ | with_reducible refine kept_snd2 (by assumption) ?_ | with_reducible refine kept_snd3 (by assumption) ?_ | with_reducible refine kept_some (by assumption) ?_ | dsimp -zeta only | split | dsimp -zeta +zetaDelta only

end Sys2Proof.Machine
end

