-- ==== Sys2Proof/Laws/KeptCodec.lean ====
section
/-!
SUPPORT. The operations of Machine/Codec.lean keep the relation of Laws/Kept.lean.
-/
namespace Sys2Proof.Machine
open Sys2Proof Safety

theorem kept_startJob {z s : State} (h : Kept z s) (e : Nat) (kind : Nat) (stream : Nat) (j : EngineJob) :
    Kept z (State.startJob s e kind stream j) := by
  unfold State.startJob
  repeat' first | with_reducible first | assumption | apply kept_modCellar | apply kept_put | apply kept_foldl | apply kept_foldl_snd | apply kept_foldl_fst | apply kept_foldl_snd2 | apply kept_ite | intro _ | extract_lets | with_reducible refine kept_some (by assumption) ?_ | dsimp -zeta only | split | dsimp -zeta +zetaDelta only

theorem kept_latchEncode {z s : State} (h : Kept z s) (e : Nat) (n : Nat) (st : Nat) (slot : Nat) :
    Kept z (State.latchEncode s e n st slot) := by
  unfold State.latchEncode
  repeat' first | with_reducible first | assumption | apply kept_modCellar | apply kept_startJob | apply kept_pin | apply kept_foldl | apply kept_foldl_snd | apply kept_foldl_fst | apply kept_foldl_snd2 | apply kept_ite | intro _ | extract_lets | with_reducible refine kept_snd (by assumption) ?_ | with_reducible refine kept_snd2 (by assumption) ?_ | with_reducible refine kept_snd3 (by assumption) ?_ | with_reducible refine kept_some (by assumption) ?_ | dsimp -zeta only | split | dsimp -zeta +zetaDelta only

theorem keptR_execCellarEncodeStart {z s : State} (h : Kept z s) :
    KeptR z (execCellarEncodeStart s) := by
  unfold execCellarEncodeStart
  repeat' first | with_reducible first | assumption | apply keptR_next | apply kept_modEntry | apply kept_missFrame | apply kept_latchEncode | apply kept_foldl | apply kept_foldl_snd | apply kept_foldl_fst | apply kept_foldl_snd2 | apply kept_ite | apply keptR_ite | intro _ | extract_lets | with_reducible refine kept_some (by assumption) ?_ | dsimp -zeta only | split | dsimp -zeta +zetaDelta only

theorem kept_encodeUse {z s : State} (h : Kept z s) (e : Nat) (n : Nat) (slot : Nat) :
    Kept z (State.encodeUse s e n slot) := by
  unfold State.encodeUse
  repeat' first | with_reducible first | assumption | apply kept_unitUse | apply kept_foldl | apply kept_foldl_snd | apply kept_foldl_fst | apply kept_foldl_snd2 | apply kept_ite | intro _ | extract_lets | with_reducible refine kept_some (by assumption) ?_ | dsimp -zeta only | split | dsimp -zeta +zetaDelta only

theorem kept_hencSkip {z s : State} (h : Kept z s) (e : Nat) :
    Kept z (State.hencSkip s e) := by
  unfold State.hencSkip
  repeat' first | with_reducible first | assumption | apply kept_raise | apply kept_bump | apply kept_foldl | apply kept_foldl_snd | apply kept_foldl_fst | apply kept_foldl_snd2 | apply kept_ite | intro _ | extract_lets | with_reducible refine kept_some (by assumption) ?_ | dsimp -zeta only | split | dsimp -zeta +zetaDelta only

theorem kept_hostEncodeDone {z s : State} (h : Kept z s) (e : Nat) (f : List Byte) :
    Kept z (State.hostEncodeDone s e f) := by
  unfold State.hostEncodeDone
  repeat' first | with_reducible first | assumption | apply kept_endJob | apply kept_hencSkip | apply kept_memWrite | apply kept_raise | apply kept_bump | apply kept_put | apply kept_foldl | apply kept_foldl_snd | apply kept_foldl_fst | apply kept_foldl_snd2 | apply kept_ite | intro _ | extract_lets | with_reducible refine kept_some (by assumption) ?_ | dsimp -zeta only | split | dsimp -zeta +zetaDelta only

theorem kept_slotSamples {z s : State} (h : Kept z s) (n : Nat) (slot : Nat) :
    Kept z (State.slotSamples s n slot).2.2 := by
  unfold State.slotSamples
  repeat' first | with_reducible first | assumption | apply kept_readPart | apply kept_foldl | apply kept_foldl_snd | apply kept_foldl_fst | apply kept_foldl_snd2 | apply kept_ite | intro _ | extract_lets | with_reducible refine kept_snd (by assumption) ?_ | with_reducible refine kept_snd2 (by assumption) ?_ | with_reducible refine kept_snd3 (by assumption) ?_ | with_reducible refine kept_some (by assumption) ?_ | dsimp -zeta only | split | dsimp -zeta +zetaDelta only

theorem kept_cellarEncodeDone {z s : State} (h : Kept z s) (e : Nat) (n : Nat) (st : Nat) (slot : Nat) :
    Kept z (State.cellarEncodeDone s e n st slot) := by
  unfold State.cellarEncodeDone
  repeat' first | with_reducible first | assumption | apply kept_encodeUse | apply kept_endJob | apply kept_raise | apply kept_bump | apply kept_showCellar | apply kept_flushMissed | apply kept_missFrame | apply kept_appendRecord | apply kept_modEntry | apply kept_slotSamples | apply kept_memRead | apply kept_foldl | apply kept_foldl_snd | apply kept_foldl_fst | apply kept_foldl_snd2 | apply kept_ite | intro _ | extract_lets | with_reducible refine kept_snd (by assumption) ?_ | with_reducible refine kept_snd2 (by assumption) ?_ | with_reducible refine kept_snd3 (by assumption) ?_ | with_reducible refine kept_some (by assumption) ?_ | dsimp -zeta only | split | dsimp -zeta +zetaDelta only

theorem keptR_execEncodeAbandon {z s : State} (h : Kept z s) (engine : Fin 32) :
    KeptR z (execEncodeAbandon engine s) := by
  unfold execEncodeAbandon
  repeat' first | with_reducible first | assumption | apply keptR_next | apply kept_raise | apply kept_bump | apply kept_modCellar | apply kept_missFrame | apply kept_endJob | apply kept_foldl | apply kept_foldl_snd | apply kept_foldl_fst | apply kept_foldl_snd2 | apply kept_ite | apply keptR_ite | intro _ | extract_lets | with_reducible refine kept_some (by assumption) ?_ | dsimp -zeta only | split | dsimp -zeta +zetaDelta only

theorem keptR_execHostEncodeStart {z s : State} (h : Kept z s) (engine : Fin 32) :
    KeptR z (execHostEncodeStart engine s) := by
  unfold execHostEncodeStart
  repeat' first | with_reducible first | assumption | apply keptR_next | apply kept_hencSkip | apply kept_encodeUse | apply kept_raise | apply kept_bump | apply kept_startJob | apply kept_slotSamples | apply kept_pin | apply kept_foldl | apply kept_foldl_snd | apply kept_foldl_fst | apply kept_foldl_snd2 | apply kept_ite | apply keptR_ite | intro _ | extract_lets | with_reducible refine kept_snd (by assumption) ?_ | with_reducible refine kept_snd2 (by assumption) ?_ | with_reducible refine kept_snd3 (by assumption) ?_ | with_reducible refine kept_some (by assumption) ?_ | dsimp -zeta only | split | dsimp -zeta +zetaDelta only

end Sys2Proof.Machine
end

