-- ==== Sys2Proof/Laws/KeptIngest.lean ====
section
/-!
SUPPORT. The operations of Machine/Ingest.lean keep the relation of Laws/Kept.lean.
-/
namespace Sys2Proof.Machine
open Sys2Proof Safety

theorem keptR_execStreamClrCnt {z s : State} (h : Kept z s) (stream : Fin 1600) (hits : BitVec 32) :
    KeptR z (execStreamClrCnt stream hits s) := by
  unfold execStreamClrCnt
  repeat' first | with_reducible first | assumption | apply keptR_next | apply keptR_rowWrite | apply kept_clearCounters | apply kept_foldl | apply kept_foldl_snd | apply kept_foldl_fst | apply kept_foldl_snd2 | apply kept_ite | apply keptR_ite | intro _ | extract_lets | with_reducible refine kept_some (by assumption) ?_ | dsimp -zeta only | split | dsimp -zeta +zetaDelta only

theorem keptR_execIngestClrCnt {z s : State} (h : Kept z s) (cluster : Fin 8) (hits : BitVec 32) :
    KeptR z (execIngestClrCnt cluster hits s) := by
  unfold execIngestClrCnt
  repeat' first | with_reducible first | assumption | apply keptR_next | apply keptR_rowWrite | apply kept_clearCounters | apply kept_foldl | apply kept_foldl_snd | apply kept_foldl_fst | apply kept_foldl_snd2 | apply kept_ite | apply keptR_ite | intro _ | extract_lets | with_reducible refine kept_some (by assumption) ?_ | dsimp -zeta only | split | dsimp -zeta +zetaDelta only

theorem kept_readCodestream {z s : State} (h : Kept z s) (n : Nat) (c : Codestream) :
    Kept z (State.readCodestream s n c).2.2.2 := by
  unfold State.readCodestream
  repeat' first | with_reducible first | assumption | apply kept_memRead | apply kept_foldl | apply kept_foldl_snd | apply kept_foldl_fst | apply kept_foldl_snd2 | apply kept_ite | intro _ | extract_lets | with_reducible refine kept_snd (by assumption) ?_ | with_reducible refine kept_snd2 (by assumption) ?_ | with_reducible refine kept_snd3 (by assumption) ?_ | with_reducible refine kept_some (by assumption) ?_ | dsimp -zeta only | split | dsimp -zeta +zetaDelta only

theorem kept_afterFrame {z s : State} (h : Kept z s) (n : Nat) (record : Option MargRec) :
    Kept z (State.afterFrame s n record) := by
  unfold State.afterFrame
  repeat' first | with_reducible first | assumption | apply kept_closeMarg | apply kept_each | apply kept_incidentEvent | apply kept_raise | apply kept_put | apply kept_queueCellarJobs | apply kept_foldl | apply kept_foldl_snd | apply kept_foldl_fst | apply kept_foldl_snd2 | apply kept_ite | intro _ | extract_lets | with_reducible refine kept_some (by assumption) ?_ | dsimp -zeta only | split | dsimp -zeta +zetaDelta only

theorem kept_decodeDone {z s : State} (h : Kept z s) (e : Nat) (n : Nat) (c : Codestream) (frac : Nat) :
    Kept z (State.decodeDone s e n c frac) := by
  unfold State.decodeDone
  repeat' first | with_reducible first | assumption | apply kept_endJob | apply kept_unitUse | apply kept_failFrame | apply kept_bumpBy | apply kept_raise | apply kept_bump | apply kept_addLoad | apply kept_afterFrame | apply kept_finishFrame | apply kept_readCodestream | apply kept_newestPicture | apply kept_foldl | apply kept_foldl_snd | apply kept_foldl_fst | apply kept_foldl_snd2 | apply kept_ite | intro _ | extract_lets | with_reducible refine kept_snd (by assumption) ?_ | with_reducible refine kept_snd2 (by assumption) ?_ | with_reducible refine kept_snd3 (by assumption) ?_ | with_reducible refine kept_some (by assumption) ?_ | dsimp -zeta only | split | dsimp -zeta +zetaDelta only

theorem kept_handOver {z s : State} (h : Kept z s) (n : Nat) :
    Kept z (State.handOver s n) := by
  unfold State.handOver
  repeat' first | with_reducible first | assumption | apply kept_modStream | apply kept_dropFrame | apply kept_setWaiting | apply kept_foldl | apply kept_foldl_snd | apply kept_foldl_fst | apply kept_foldl_snd2 | apply kept_ite | intro _ | extract_lets | with_reducible refine kept_some (by assumption) ?_ | dsimp -zeta only | split | dsimp -zeta +zetaDelta only

theorem keptR_execFrameComplete {z s : State} (h : Kept z s) (stream : Fin 1600) (frac : BitVec 16) (refused : Bool) :
    KeptR z (execFrameComplete stream frac refused s) := by
  unfold execFrameComplete
  repeat' first | with_reducible first | assumption | apply keptR_next | apply kept_completeReceived | apply kept_afterFrame | apply kept_modStream | apply kept_foldl | apply kept_foldl_snd | apply kept_foldl_fst | apply kept_foldl_snd2 | apply kept_ite | apply keptR_ite | intro _ | extract_lets | with_reducible refine kept_some (by assumption) ?_ | dsimp -zeta only | split | dsimp -zeta +zetaDelta only

theorem kept_videoPacket {z s : State} (h : Kept z s) (n : Nat) (k : Packet) :
    Kept z (State.videoPacket s n k) := by
  unfold State.videoPacket
  repeat' first | with_reducible first | assumption | apply kept_modStream | apply kept_seeStart | apply kept_placeSegment | apply kept_foldl | apply kept_foldl_snd | apply kept_foldl_fst | apply kept_foldl_snd2 | apply kept_ite | intro _ | extract_lets | with_reducible refine kept_some (by assumption) ?_ | dsimp -zeta only | split | dsimp -zeta +zetaDelta only

theorem kept_drainBuffer {z s : State} (h : Kept z s) (n : Nat) :
    Kept z (State.drainBuffer s n) := by
  unfold State.drainBuffer
  repeat' first | with_reducible first | assumption | apply kept_modStream | apply kept_videoPacket | apply kept_foldl | apply kept_foldl_snd | apply kept_foldl_fst | apply kept_foldl_snd2 | apply kept_ite | intro _ | extract_lets | with_reducible refine kept_some (by assumption) ?_ | dsimp -zeta only | split | dsimp -zeta +zetaDelta only

theorem keptR_execFrameStart {z s : State} (h : Kept z s) (stream : Fin 1600) (frac : BitVec 16) (tauNs : Nat) (runOk : Bool) :
    KeptR z (execFrameStart stream frac tauNs runOk s) := by
  unfold execFrameStart
  repeat' first | with_reducible first | assumption | apply keptR_next | apply kept_beginMarg | apply kept_modStream | apply kept_genlockStep | apply kept_frameInstant | apply kept_takeSlot | apply kept_drainBuffer | apply kept_foldl | apply kept_foldl_snd | apply kept_foldl_fst | apply kept_foldl_snd2 | apply kept_ite | apply keptR_ite | intro _ | extract_lets | with_reducible refine kept_some (by assumption) ?_ | dsimp -zeta only | split | dsimp -zeta +zetaDelta only

theorem keptR_execVideoXsPacket {z s : State} (h : Kept z s) (port : Fin 96) :
    KeptR z (execVideoXsPacket port s) := by
  unfold execVideoXsPacket
  repeat' first | with_reducible first | assumption | apply keptR_next | apply kept_handOver | apply kept_modStream | apply kept_seeStart | apply kept_addLoad | apply kept_memWrite | apply kept_unitUse | apply kept_takePacket | apply kept_foldl | apply kept_foldl_snd | apply kept_foldl_fst | apply kept_foldl_snd2 | apply kept_ite | apply keptR_ite | intro _ | extract_lets | with_reducible refine kept_snd (by assumption) ?_ | with_reducible refine kept_snd2 (by assumption) ?_ | with_reducible refine kept_snd3 (by assumption) ?_ | with_reducible refine kept_some (by assumption) ?_ | dsimp -zeta only | split | dsimp -zeta +zetaDelta only

theorem keptR_execVideoLinePacket {z s : State} (h : Kept z s) (port : Fin 96) (overflow : Bool) :
    KeptR z (execVideoLinePacket port overflow s) := by
  unfold execVideoLinePacket
  repeat' first | with_reducible first | assumption | apply keptR_next | apply kept_raise | apply kept_bump | apply kept_videoPacket | apply kept_addLoad | apply kept_takePacket | apply kept_foldl | apply kept_foldl_snd | apply kept_foldl_fst | apply kept_foldl_snd2 | apply kept_ite | apply keptR_ite | intro _ | extract_lets | with_reducible refine kept_snd (by assumption) ?_ | with_reducible refine kept_snd2 (by assumption) ?_ | with_reducible refine kept_snd3 (by assumption) ?_ | with_reducible refine kept_some (by assumption) ?_ | dsimp -zeta only | split | dsimp -zeta +zetaDelta only

theorem kept_streamLost {z s : State} (h : Kept z s) (n : Nat) :
    Kept z (State.streamLost s n) := by
  unfold State.streamLost
  repeat' first | with_reducible first | assumption | apply kept_raise | apply kept_put | apply kept_loseSource | apply kept_modRuling | apply kept_foldl | apply kept_foldl_snd | apply kept_foldl_fst | apply kept_foldl_snd2 | apply kept_ite | intro _ | extract_lets | with_reducible refine kept_some (by assumption) ?_ | dsimp -zeta only | split | dsimp -zeta +zetaDelta only

theorem keptR_execXsDecodeStart {z s : State} (h : Kept z s) :
    KeptR z (execXsDecodeStart s) := by
  unfold execXsDecodeStart
  repeat' first | with_reducible first | assumption | apply keptR_next | apply kept_setWaiting | apply kept_takeSlot | apply kept_startJob | apply kept_dropFrame | apply kept_readCodestream | apply kept_foldl | apply kept_foldl_snd | apply kept_foldl_fst | apply kept_foldl_snd2 | apply kept_ite | apply keptR_ite | intro _ | extract_lets | with_reducible refine kept_snd (by assumption) ?_ | with_reducible refine kept_snd2 (by assumption) ?_ | with_reducible refine kept_snd3 (by assumption) ?_ | with_reducible refine kept_some (by assumption) ?_ | dsimp -zeta only | split | dsimp -zeta +zetaDelta only

theorem keptR_execCodecJobDone {z s : State} (h : Kept z s) (engine : Fin 32) (frac : BitVec 16) :
    KeptR z (execCodecJobDone engine frac s) := by
  unfold execCodecJobDone
  repeat' first | with_reducible first | assumption | apply keptR_next | apply kept_decodeDone | apply kept_hostEncodeDone | apply kept_addLoad | apply kept_cellarEncodeDone | apply kept_foldl | apply kept_foldl_snd | apply kept_foldl_fst | apply kept_foldl_snd2 | apply kept_ite | apply keptR_ite | intro _ | extract_lets | with_reducible refine kept_some (by assumption) ?_ | dsimp -zeta only | split | dsimp -zeta +zetaDelta only

theorem keptR_execMotionFieldStart {z s : State} (h : Kept z s) (unit : Fin 2) :
    KeptR z (execMotionFieldStart unit s) := by
  unfold execMotionFieldStart
  repeat' first | with_reducible first | assumption | apply keptR_next | apply kept_modMot | apply kept_modStream | apply kept_memWrite | apply kept_showStream | apply kept_bump | apply kept_foldl | apply kept_foldl_snd | apply kept_foldl_fst | apply kept_foldl_snd2 | apply kept_ite | apply keptR_ite | intro _ | extract_lets | with_reducible refine kept_some (by assumption) ?_ | dsimp -zeta only | split | dsimp -zeta +zetaDelta only

theorem keptR_execLostTimeout {z s : State} (h : Kept z s) (stream : Fin 1600) :
    KeptR z (execLostTimeout stream s) := by
  unfold execLostTimeout
  repeat' first | with_reducible first | assumption | apply keptR_next | apply kept_streamLost | apply kept_foldl | apply kept_foldl_snd | apply kept_foldl_fst | apply kept_foldl_snd2 | apply kept_ite | apply keptR_ite | intro _ | extract_lets | with_reducible refine kept_some (by assumption) ?_ | dsimp -zeta only | split | dsimp -zeta +zetaDelta only

theorem keptR_execXsDecodeWaitTimeout {z s : State} (h : Kept z s) (stream : Fin 1600) :
    KeptR z (execXsDecodeWaitTimeout stream s) := by
  unfold execXsDecodeWaitTimeout
  repeat' first | with_reducible first | assumption | apply keptR_next | apply kept_dropFrame | apply kept_setWaiting | apply kept_foldl | apply kept_foldl_snd | apply kept_foldl_fst | apply kept_foldl_snd2 | apply kept_ite | apply keptR_ite | intro _ | extract_lets | with_reducible refine kept_some (by assumption) ?_ | dsimp -zeta only | split | dsimp -zeta +zetaDelta only

theorem kept_quarterSketch {z s : State} (h : Kept z s) (n : Nat) (slot : Nat) :
    Kept z (State.quarterSketch s n slot).2.2 := by
  unfold State.quarterSketch
  repeat' first | with_reducible first | assumption | apply kept_readPart | apply kept_foldl | apply kept_foldl_snd | apply kept_foldl_fst | apply kept_foldl_snd2 | apply kept_ite | intro _ | extract_lets | with_reducible refine kept_snd (by assumption) ?_ | with_reducible refine kept_snd2 (by assumption) ?_ | with_reducible refine kept_snd3 (by assumption) ?_ | with_reducible refine kept_some (by assumption) ?_ | dsimp -zeta only | split | dsimp -zeta +zetaDelta only

theorem keptR_execMotionFieldDone {z s : State} (h : Kept z s) (unit : Fin 2) :
    KeptR z (execMotionFieldDone unit s) := by
  unfold execMotionFieldDone
  repeat' first | with_reducible first | assumption | apply keptR_next | apply kept_abandonField | apply kept_unitUse | apply kept_memWrite | apply kept_modStream | apply kept_addLoad | apply kept_modMot | apply kept_unpin | apply kept_bump | apply kept_quarterSketch | apply kept_foldl | apply kept_foldl_snd | apply kept_foldl_fst | apply kept_foldl_snd2 | apply kept_ite | apply keptR_ite | intro _ | extract_lets | with_reducible refine kept_snd (by assumption) ?_ | with_reducible refine kept_snd2 (by assumption) ?_ | with_reducible refine kept_snd3 (by assumption) ?_ | with_reducible refine kept_some (by assumption) ?_ | dsimp -zeta only | split | dsimp -zeta +zetaDelta only

end Sys2Proof.Machine
end

