-- ==== Sys2Proof/Laws/KeptRasterOps.lean ====
section
/-!
SUPPORT. The operations of Machine/RasterOps.lean keep the relation of Laws/Kept.lean.
-/
namespace Sys2Proof.Machine
open Sys2Proof Safety

theorem kept_unpinDone {z s : State} (h : Kept z s) (f : Nat) (line : Nat) :
    Kept z (State.unpinDone s f line) := by
  unfold State.unpinDone
  repeat' first | with_reducible first | assumption | apply kept_each | apply kept_unpinLatch | apply kept_foldl | apply kept_foldl_snd | apply kept_foldl_fst | apply kept_foldl_snd2 | apply kept_ite | intro _ | extract_lets | with_reducible refine kept_some (by assumption) ?_ | dsimp -zeta only | split | dsimp -zeta +zetaDelta only

theorem kept_setNextSample {z s : State} (h : Kept z s) (n : Nat) (k : Nat) :
    Kept z (State.setNextSample s n k) := by
  unfold State.setNextSample
  repeat' first | with_reducible first | assumption | apply kept_modAudio | apply kept_foldl | apply kept_foldl_snd | apply kept_foldl_fst | apply kept_foldl_snd2 | apply kept_ite | intro _ | extract_lets | with_reducible refine kept_some (by assumption) ?_ | dsimp -zeta only | split | dsimp -zeta +zetaDelta only

theorem kept_skipSamples {z s : State} (h : Kept z s) (n : Nat) :
    Kept z (State.skipSamples s n) := by
  unfold State.skipSamples
  repeat' first | with_reducible first | assumption | apply kept_modAudio | apply kept_setNextSample | apply kept_foldl | apply kept_foldl_snd | apply kept_foldl_fst | apply kept_foldl_snd2 | apply kept_ite | intro _ | extract_lets | with_reducible refine kept_some (by assumption) ?_ | dsimp -zeta only | split | dsimp -zeta +zetaDelta only

theorem kept_startFrame {z s : State} (h : Kept z s) (f : Nat) :
    Kept z (State.startFrame s f) := by
  unfold State.startFrame
  repeat' first | with_reducible first | assumption | apply kept_modFolio | apply kept_put | apply kept_foldl | apply kept_foldl_snd | apply kept_foldl_fst | apply kept_foldl_snd2 | apply kept_ite | intro _ | extract_lets | with_reducible refine kept_some (by assumption) ?_ | dsimp -zeta only | split | dsimp -zeta +zetaDelta only

theorem kept_queueAnc {z s : State} (h : Kept z s) (f : Nat) :
    Kept z (State.queueAnc s f) := by
  unfold State.queueAnc
  repeat' first | with_reducible first | assumption | apply kept_raiseIf | apply kept_modFolio | apply kept_foldl | apply kept_foldl_snd | apply kept_foldl_fst | apply kept_foldl_snd2 | apply kept_ite | intro _ | extract_lets | with_reducible refine kept_some (by assumption) ?_ | dsimp -zeta only | split | dsimp -zeta +zetaDelta only

theorem kept_takeAnc {z s : State} (h : Kept z s) (f : Nat) (n : Nat) (sent : List AncPacket) :
    Kept z (State.takeAnc s f n sent) := by
  unfold State.takeAnc
  repeat' first | with_reducible first | assumption | apply kept_modFolio | apply kept_foldl | apply kept_foldl_snd | apply kept_foldl_fst | apply kept_foldl_snd2 | apply kept_ite | intro _ | extract_lets | with_reducible refine kept_some (by assumption) ?_ | dsimp -zeta only | split | dsimp -zeta +zetaDelta only

theorem kept_sendAnc {z s : State} (h : Kept z s) (f : Nat) (n : Nat) (line : Nat) :
    Kept z (State.sendAnc s f n line) := by
  unfold State.sendAnc
  repeat' first | with_reducible first | assumption | apply kept_each | apply kept_takeAnc | apply kept_sendPacket | apply kept_foldl | apply kept_foldl_snd | apply kept_foldl_fst | apply kept_foldl_snd2 | apply kept_ite | intro _ | extract_lets | with_reducible refine kept_some (by assumption) ?_ | dsimp -zeta only | split | dsimp -zeta +zetaDelta only

theorem kept_dropAnc {z s : State} (h : Kept z s) (f : Nat) (line : Nat) :
    Kept z (State.dropAnc s f line) := by
  unfold State.dropAnc
  repeat' first | with_reducible first | assumption | apply kept_each | apply kept_bump | apply kept_bumpBy | apply kept_modAudio | apply kept_modFolio | apply kept_foldl | apply kept_foldl_snd | apply kept_foldl_fst | apply kept_foldl_snd2 | apply kept_ite | intro _ | extract_lets | with_reducible refine kept_some (by assumption) ?_ | dsimp -zeta only | split | dsimp -zeta +zetaDelta only

theorem kept_lineEvents {z s : State} (h : Kept z s) (f : Nat) (line : Nat) :
    Kept z (State.lineEvents s f line) := by
  unfold State.lineEvents
  repeat' first | with_reducible first | assumption | apply kept_put | apply kept_raiseIf | apply kept_foldl | apply kept_foldl_snd | apply kept_foldl_fst | apply kept_foldl_snd2 | apply kept_ite | intro _ | extract_lets | with_reducible refine kept_some (by assumption) ?_ | dsimp -zeta only | split | dsimp -zeta +zetaDelta only

theorem kept_beginWriteback {z s : State} (h : Kept z s) (f : Nat) (t : Timing) :
    Kept z (State.beginWriteback s f t) := by
  unfold State.beginWriteback
  repeat' first | with_reducible first | assumption | apply kept_put | apply kept_raise | apply kept_dropFrame | apply kept_takeSlot | apply kept_modFolio | apply kept_foldl | apply kept_foldl_snd | apply kept_foldl_fst | apply kept_foldl_snd2 | apply kept_ite | intro _ | extract_lets | with_reducible refine kept_some (by assumption) ?_ | dsimp -zeta only | split | dsimp -zeta +zetaDelta only

theorem kept_noteMargins {z s : State} (h : Kept z s) (f : Nat) (margins : List (Nat × Int)) :
    Kept z (State.noteMargins s f margins) := by
  unfold State.noteMargins
  repeat' first | with_reducible first | assumption | apply kept_each | apply kept_modFolio | apply kept_foldl | apply kept_foldl_snd | apply kept_foldl_fst | apply kept_foldl_snd2 | apply kept_ite | intro _ | extract_lets | with_reducible refine kept_some (by assumption) ?_ | dsimp -zeta only | split | dsimp -zeta +zetaDelta only

theorem kept_embedded {z s : State} (h : Kept z s) (f : Nat) (n : Nat) (line : Nat) (room : Nat) (t : Timing) :
    Kept z (State.embedded s f n line room t).2.2 := by
  unfold State.embedded
  repeat' first | with_reducible first | assumption | apply kept_drawn | apply kept_modAudio | apply kept_setNextSample | apply kept_foldl | apply kept_foldl_snd | apply kept_foldl_fst | apply kept_foldl_snd2 | apply kept_ite | intro _ | extract_lets | with_reducible refine kept_some (by assumption) ?_ | dsimp -zeta only | split | dsimp -zeta +zetaDelta only

theorem kept_sendSdi {z s : State} (h : Kept z s) (f : Nat) (n : Nat) (line : Nat) (room : Nat) (t : Timing) (codes : Option (List Nat)) :
    Kept z (State.sendSdi s f n line room t codes) := by
  unfold State.sendSdi
  repeat' first | with_reducible first | assumption | apply kept_modPort | apply kept_emit | apply kept_takeAnc | apply kept_skipSamples | apply kept_embedded | apply kept_foldl | apply kept_foldl_snd | apply kept_foldl_fst | apply kept_foldl_snd2 | apply kept_ite | intro _ | extract_lets | with_reducible refine kept_snd (by assumption) ?_ | with_reducible refine kept_snd2 (by assumption) ?_ | with_reducible refine kept_snd3 (by assumption) ?_ | with_reducible refine kept_some (by assumption) ?_ | dsimp -zeta only | split | dsimp -zeta +zetaDelta only

theorem kept_sendRasyn {z s : State} (h : Kept z s) (f : Nat) (n : Nat) (y : Nat) (t : Timing) (line : List (List Nat)) :
    Kept z (State.sendRasyn s f n y t line) := by
  unfold State.sendRasyn
  repeat' first | with_reducible first | assumption | apply kept_each | apply kept_emit | apply kept_foldl | apply kept_foldl_snd | apply kept_foldl_fst | apply kept_foldl_snd2 | apply kept_ite | intro _ | extract_lets | with_reducible refine kept_some (by assumption) ?_ | dsimp -zeta only | split | dsimp -zeta +zetaDelta only

theorem kept_lipLine {z s : State} (h : Kept z s) (f : Nat) (y : Nat) (frac : Nat) (margins : List (Nat × Int)) :
    Kept z (State.lipLine s f y frac margins) := by
  unfold State.lipLine
  repeat' first | with_reducible first | assumption | apply kept_each | apply kept_lipMeasure | apply kept_foldl | apply kept_foldl_snd | apply kept_foldl_fst | apply kept_foldl_snd2 | apply kept_ite | intro _ | extract_lets | with_reducible refine kept_some (by assumption) ?_ | dsimp -zeta only | split | dsimp -zeta +zetaDelta only

theorem kept_endWriteback {z s : State} (h : Kept z s) (f : Nat) (frac : Nat) :
    Kept z (State.endWriteback s f frac) := by
  unfold State.endWriteback
  repeat' first | with_reducible first | assumption | apply kept_finishFrame | apply kept_afterFrame | apply kept_bump | apply kept_modFolio | apply kept_foldl | apply kept_foldl_snd | apply kept_foldl_fst | apply kept_foldl_snd2 | apply kept_ite | intro _ | extract_lets | with_reducible refine kept_some (by assumption) ?_ | dsimp -zeta only | split | dsimp -zeta +zetaDelta only

theorem kept_activeLine {z s : State} (h : Kept z s) (f : Nat) (line : Nat) (y : Nat) (frac : Nat) (late : Option Nat) (lateB : Option Nat) (margins : List (Nat × Int)) (room : Nat) :
    Kept z (State.activeLine s f line y frac late lateB margins room) := by
  unfold State.activeLine
  repeat' first | with_reducible first | assumption | apply kept_beginWriteback | apply kept_noteMargins | apply kept_drawn | apply kept_raise | apply kept_bump | apply kept_modFolio | apply kept_each | apply kept_sendSdi | apply kept_sendAnc | apply kept_sendRasyn | apply kept_unpinDone | apply kept_lipLine | apply kept_endWriteback | apply kept_composeRow | apply kept_foldl | apply kept_foldl_snd | apply kept_foldl_fst | apply kept_foldl_snd2 | apply kept_ite | intro _ | extract_lets | with_reducible refine kept_snd (by assumption) ?_ | with_reducible refine kept_snd2 (by assumption) ?_ | with_reducible refine kept_snd3 (by assumption) ?_ | with_reducible refine kept_some (by assumption) ?_ | dsimp -zeta only | split | dsimp -zeta +zetaDelta only

theorem kept_plainLine {z s : State} (h : Kept z s) (f : Nat) (line : Nat) (room : Nat) :
    Kept z (State.plainLine s f line room) := by
  unfold State.plainLine
  repeat' first | with_reducible first | assumption | apply kept_each | apply kept_sendSdi | apply kept_sendAnc | apply kept_sendRasyn | apply kept_foldl | apply kept_foldl_snd | apply kept_foldl_fst | apply kept_foldl_snd2 | apply kept_ite | intro _ | extract_lets | with_reducible refine kept_some (by assumption) ?_ | dsimp -zeta only | split | dsimp -zeta +zetaDelta only

theorem kept_reportLtr {z s : State} (h : Kept z s) (f : Nat) (line : Nat) :
    Kept z (State.reportLtr s f line) := by
  unfold State.reportLtr
  repeat' first | with_reducible first | assumption | apply kept_put | apply kept_foldl | apply kept_foldl_snd | apply kept_foldl_fst | apply kept_foldl_snd2 | apply kept_ite | intro _ | extract_lets | with_reducible refine kept_some (by assumption) ?_ | dsimp -zeta only | split | dsimp -zeta +zetaDelta only

theorem kept_beginLine {z s : State} (h : Kept z s) (f : Nat) (line : Nat) (frac : Nat) (late : Option Nat) (lateB : Option Nat) (margins : List (Nat × Int)) (room : Nat) :
    Kept z (State.beginLine s f line frac late lateB margins room) := by
  unfold State.beginLine
  repeat' first | with_reducible first | assumption | apply kept_dropAnc | apply kept_lineEvents | apply kept_modFolio | apply kept_activeLine | apply kept_plainLine | apply kept_reportLtr | apply kept_foldl | apply kept_foldl_snd | apply kept_foldl_fst | apply kept_foldl_snd2 | apply kept_ite | intro _ | extract_lets | with_reducible refine kept_some (by assumption) ?_ | dsimp -zeta only | split | dsimp -zeta +zetaDelta only

theorem kept_jump {z s : State} (h : Kept z s) (f : Nat) (n : Int) (exact : Bool) :
    Kept z (State.jump s f n exact) := by
  unfold State.jump
  repeat' first | with_reducible first | assumption | apply kept_modFolio | apply kept_foldl | apply kept_foldl_snd | apply kept_foldl_fst | apply kept_foldl_snd2 | apply kept_ite | intro _ | extract_lets | with_reducible refine kept_some (by assumption) ?_ | dsimp -zeta only | split | dsimp -zeta +zetaDelta only

theorem kept_sdiBlack {z s : State} (h : Kept z s) (f : Nat) (n : Nat) :
    Kept z (State.sdiBlack s f n) := by
  unfold State.sdiBlack
  repeat' first | with_reducible first | assumption | apply kept_sendSdi | apply kept_foldl | apply kept_foldl_snd | apply kept_foldl_fst | apply kept_foldl_snd2 | apply kept_ite | intro _ | extract_lets | with_reducible refine kept_some (by assumption) ?_ | dsimp -zeta only | split | dsimp -zeta +zetaDelta only

theorem kept_holdStep {z s : State} (h : Kept z s) (f : Nat) :
    Kept z (State.holdStep s f) := by
  unfold State.holdStep
  repeat' first | with_reducible first | assumption | apply kept_modFolio | apply kept_askHold | apply kept_foldl | apply kept_foldl_snd | apply kept_foldl_fst | apply kept_foldl_snd2 | apply kept_ite | intro _ | extract_lets | with_reducible refine kept_some (by assumption) ?_ | dsimp -zeta only | split | dsimp -zeta +zetaDelta only

theorem kept_endFrame {z s : State} (h : Kept z s) (f : Nat) (frac : Nat) (room : Nat) :
    Kept z (State.endFrame s f frac room) := by
  unfold State.endFrame
  repeat' first | with_reducible first | assumption | apply kept_holdStep | apply kept_dropAnc | apply kept_rasterStops | apply kept_modFolio | apply kept_stopFetching | apply kept_beginLine | apply kept_startFrame | apply kept_foldl | apply kept_foldl_snd | apply kept_foldl_fst | apply kept_foldl_snd2 | apply kept_ite | intro _ | extract_lets | with_reducible refine kept_some (by assumption) ?_ | dsimp -zeta only | split | dsimp -zeta +zetaDelta only

end Sys2Proof.Machine
end

