-- ==== Sys2Proof/Laws/KeptFolio.lean ====
section
/-!
SUPPORT. The operations of Machine/Folio.lean keep the relation of Laws/Kept.lean.
-/
namespace Sys2Proof.Machine
open Sys2Proof Safety

theorem keptR_execCoeffTableWrite {z s : State} (h : Kept z s) (folio : Fin 64) (word : Fin 448) (value : BitVec 32) :
    KeptR z (execCoeffTableWrite folio word value s) := by
  unfold execCoeffTableWrite
  repeat' first | with_reducible first | assumption | apply keptR_next | apply keptR_rowWrite | apply kept_wr | apply kept_dryInvalid | apply kept_foldl | apply kept_foldl_snd | apply kept_foldl_fst | apply kept_foldl_snd2 | apply kept_ite | apply keptR_ite | intro _ | extract_lets | with_reducible refine kept_some (by assumption) ?_ | dsimp -zeta only | split | dsimp -zeta +zetaDelta only

theorem kept_folioWrite {z s : State} (h : Kept z s) (f : Nat) {g : State → State} (hg : ∀ t, Kept z t → Kept z (g t)) :
    Kept z (State.folioWrite s f g) := by
  unfold State.folioWrite
  repeat' first | with_reducible first | assumption | apply hg | apply kept_hostWrite | apply kept_foldl | apply kept_foldl_snd | apply kept_foldl_fst | apply kept_foldl_snd2 | apply kept_ite | intro _ | extract_lets | with_reducible refine kept_some (by assumption) ?_ | dsimp -zeta only | split | dsimp -zeta +zetaDelta only

theorem keptR_execStageHoldWrite {z s : State} (h : Kept z s) (folio : Fin 64) (hold : Bool) :
    KeptR z (execStageHoldWrite folio hold s) := by
  unfold execStageHoldWrite
  repeat' first | with_reducible first | assumption | apply keptR_next | apply kept_folioWrite | apply kept_put | apply kept_foldl | apply kept_foldl_snd | apply kept_foldl_fst | apply kept_foldl_snd2 | apply kept_ite | apply keptR_ite | intro _ | extract_lets | with_reducible refine kept_some (by assumption) ?_ | dsimp -zeta only | split | dsimp -zeta +zetaDelta only

theorem keptR_execCommitRevert {z s : State} (h : Kept z s) (folio : Fin 64) :
    KeptR z (execCommitRevert folio s) := by
  unfold execCommitRevert
  repeat' first | with_reducible first | assumption | apply keptR_next | apply kept_folioWrite | apply kept_each | apply kept_wr | apply kept_foldl | apply kept_foldl_snd | apply kept_foldl_fst | apply kept_foldl_snd2 | apply kept_ite | apply keptR_ite | intro _ | extract_lets | with_reducible refine kept_some (by assumption) ?_ | dsimp -zeta only | split | dsimp -zeta +zetaDelta only

theorem keptR_execCommitDisarm {z s : State} (h : Kept z s) (folio : Fin 64) :
    KeptR z (execCommitDisarm folio s) := by
  unfold execCommitDisarm
  repeat' first | with_reducible first | assumption | apply keptR_next | apply kept_folioWrite | apply kept_commitClear | apply kept_foldl | apply kept_foldl_snd | apply kept_foldl_fst | apply kept_foldl_snd2 | apply kept_ite | apply keptR_ite | intro _ | extract_lets | with_reducible refine kept_some (by assumption) ?_ | dsimp -zeta only | split | dsimp -zeta +zetaDelta only

theorem keptR_execCommitArm {z s : State} (h : Kept z s) (folio : Fin 64) (periods : Nat) :
    KeptR z (execCommitArm folio periods s) := by
  unfold execCommitArm
  repeat' first | with_reducible first | assumption | apply keptR_next | apply kept_folioWrite | apply kept_commitArm | apply kept_foldl | apply kept_foldl_snd | apply kept_foldl_fst | apply kept_foldl_snd2 | apply kept_ite | apply keptR_ite | intro _ | extract_lets | with_reducible refine kept_some (by assumption) ?_ | dsimp -zeta only | split | dsimp -zeta +zetaDelta only

theorem keptR_execFenceWrite {z s : State} (h : Kept z s) (surface : Fin 256) (value : BitVec 32) :
    KeptR z (execFenceWrite surface value s) := by
  unfold execFenceWrite
  repeat' first | with_reducible first | assumption | apply keptR_next | apply keptR_rowWrite | apply kept_surfaceTouched | apply kept_wr | apply kept_foldl | apply kept_foldl_snd | apply kept_foldl_fst | apply kept_foldl_snd2 | apply kept_ite | apply keptR_ite | intro _ | extract_lets | with_reducible refine kept_some (by assumption) ?_ | dsimp -zeta only | split | dsimp -zeta +zetaDelta only

theorem keptR_execSurfDescriptorWrite {z s : State} (h : Kept z s) (surface : Fin 256) (word : Fin 3) (value : BitVec 32) :
    KeptR z (execSurfDescriptorWrite surface word value s) := by
  unfold execSurfDescriptorWrite
  repeat' first | with_reducible first | assumption | apply keptR_next | apply keptR_rowWrite | apply kept_surfaceTouched | apply kept_wr | apply kept_foldl | apply kept_foldl_snd | apply kept_foldl_fst | apply kept_foldl_snd2 | apply kept_ite | apply keptR_ite | intro _ | extract_lets | with_reducible refine kept_some (by assumption) ?_ | dsimp -zeta only | split | dsimp -zeta +zetaDelta only

theorem keptR_execRetireAdvance {z s : State} (h : Kept z s) (folio : Fin 64) :
    KeptR z (execRetireAdvance folio s) := by
  unfold execRetireAdvance
  repeat' first | with_reducible first | assumption | apply keptR_next | apply kept_unpinFolio | apply kept_each | apply kept_put | apply kept_raise | apply kept_bump | apply kept_retire | apply kept_modFolio | apply kept_stopFetching | apply kept_foldl | apply kept_foldl_snd | apply kept_foldl_fst | apply kept_foldl_snd2 | apply kept_ite | apply keptR_ite | intro _ | extract_lets | with_reducible refine kept_some (by assumption) ?_ | dsimp -zeta only | split | dsimp -zeta +zetaDelta only

theorem kept_holdExit {z s : State} (h : Kept z s) (f : Nat) :
    Kept z (State.holdExit s f) := by
  unfold State.holdExit
  repeat' first | with_reducible first | assumption | apply kept_modFolio | apply kept_setRaster | apply kept_raise | apply kept_tellHold | apply kept_foldl | apply kept_foldl_snd | apply kept_foldl_fst | apply kept_foldl_snd2 | apply kept_ite | intro _ | extract_lets | with_reducible refine kept_some (by assumption) ?_ | dsimp -zeta only | split | dsimp -zeta +zetaDelta only

theorem kept_dispTimedStep {z s : State} (h : Kept z s) (f : Nat) (applied : Bool) (realign : Int) :
    Kept z (State.dispTimedStep s f applied realign).2 := by
  unfold State.dispTimedStep
  repeat' first | with_reducible first | assumption | apply kept_modFolio | apply kept_put | apply kept_raiseIf | apply kept_foldl | apply kept_foldl_snd | apply kept_foldl_fst | apply kept_foldl_snd2 | apply kept_ite | intro _ | extract_lets | with_reducible refine kept_some (by assumption) ?_ | dsimp -zeta only | split | dsimp -zeta +zetaDelta only

theorem keptR_execSwitchingPoint {z s : State} (h : Kept z s) (folio : Fin 64) (nextPeriods : Nat) (realign : Int) :
    KeptR z (execSwitchingPoint folio nextPeriods realign s) := by
  unfold execSwitchingPoint
  repeat' first | with_reducible first | assumption | apply keptR_next | apply kept_sealTakes | apply kept_holdExit | apply kept_commitPoint | apply kept_modFolio | apply kept_jump | apply kept_raiseIf | apply kept_setSpPeriods | apply kept_settleTakes | apply kept_planTakes | apply kept_dispTimedStep | apply kept_foldl | apply kept_foldl_snd | apply kept_foldl_fst | apply kept_foldl_snd2 | apply kept_ite | apply keptR_ite | intro _ | extract_lets | with_reducible refine kept_snd (by assumption) ?_ | with_reducible refine kept_snd2 (by assumption) ?_ | with_reducible refine kept_snd3 (by assumption) ?_ | with_reducible refine kept_some (by assumption) ?_ | dsimp -zeta only | split | dsimp -zeta +zetaDelta only

theorem keptR_execFrameFetchStart {z s : State} (h : Kept z s) (folio : Fin 64) (frac : BitVec 16) :
    KeptR z (execFrameFetchStart folio frac s) := by
  unfold execFrameFetchStart
  repeat' first | with_reducible first | assumption | apply keptR_next | apply kept_queueAnc | apply kept_frameLatch | apply kept_each | apply kept_setSdi | apply kept_foldl | apply kept_foldl_snd | apply kept_foldl_fst | apply kept_foldl_snd2 | apply kept_ite | apply keptR_ite | intro _ | extract_lets | with_reducible refine kept_some (by assumption) ?_ | dsimp -zeta only | split | dsimp -zeta +zetaDelta only

end Sys2Proof.Machine
end

