-- ==== Sys2Proof/Laws/KeptLine.lean ====
section
/-!
SUPPORT. The operations of Machine/Line.lean keep the relation of Laws/Kept.lean.
-/
namespace Sys2Proof.Machine
open Sys2Proof Safety

theorem kept_clockChanged {z s : State} (h : Kept z s) (y : Nat) (o : Nat) :
    Kept z (State.clockChanged s y o) := by
  unfold State.clockChanged
  repeat' first | with_reducible first | assumption | apply kept_each | apply kept_rasterWaits | apply kept_stopFetching | apply kept_discardChange | apply kept_raise | apply kept_setSdi | apply kept_foldl | apply kept_foldl_snd | apply kept_foldl_fst | apply kept_foldl_snd2 | apply kept_ite | intro _ | extract_lets | with_reducible refine kept_some (by assumption) ?_ | dsimp -zeta only | split | dsimp -zeta +zetaDelta only

theorem keptR_execSynOutCtrlWrite {z s : State} (h : Kept z s) (syn : Fin 2) (out : Fin 8) (en : Bool) (div : BitVec 10) :
    KeptR z (execSynOutCtrlWrite syn out en div s) := by
  unfold execSynOutCtrlWrite
  repeat' first | with_reducible first | assumption | apply keptR_next | apply keptR_rowWrite | apply kept_put | apply kept_setSynOut | apply kept_clockChanged | apply kept_foldl | apply kept_foldl_snd | apply kept_foldl_fst | apply kept_foldl_snd2 | apply kept_ite | apply keptR_ite | intro _ | extract_lets | with_reducible refine kept_some (by assumption) ?_ | dsimp -zeta only | split | dsimp -zeta +zetaDelta only

theorem kept_adjustEnds {z s : State} (h : Kept z s) (old : Nat) (a : Adjust) :
    Kept z (State.adjustEnds s old a) := by
  unfold State.adjustEnds
  repeat' first | with_reducible first | assumption | apply kept_lateUpTo | apply kept_modRuling | apply kept_raise | apply kept_enterFree | apply kept_leaveCoast | apply kept_enterCoast | apply kept_enterAcquire | apply kept_startSlew | apply kept_genlockReset | apply kept_foldl | apply kept_foldl_snd | apply kept_foldl_fst | apply kept_foldl_snd2 | apply kept_ite | intro _ | extract_lets | with_reducible refine kept_some (by assumption) ?_ | dsimp -zeta only | split | dsimp -zeta +zetaDelta only

theorem kept_adjustBegins {z s : State} (h : Kept z s) (a : Adjust) :
    Kept z (State.adjustBegins s a) := by
  unfold State.adjustBegins
  repeat' first | with_reducible first | assumption | apply kept_modRuling | apply kept_each | apply kept_modFolio | apply kept_foldl | apply kept_foldl_snd | apply kept_foldl_fst | apply kept_foldl_snd2 | apply kept_ite | intro _ | extract_lets | with_reducible refine kept_some (by assumption) ?_ | dsimp -zeta only | split | dsimp -zeta +zetaDelta only

theorem kept_countStep {z s : State} (h : Kept z s) (n : Int) :
    Kept z (State.countStep s n) := by
  unfold State.countStep
  repeat' first | with_reducible first | assumption | apply kept_raise | apply kept_modRuling | apply kept_lateUpTo | apply kept_genlockReset | apply kept_foldl | apply kept_foldl_snd | apply kept_foldl_fst | apply kept_foldl_snd2 | apply kept_ite | intro _ | extract_lets | with_reducible refine kept_some (by assumption) ?_ | dsimp -zeta only | split | dsimp -zeta +zetaDelta only

theorem kept_clocksBoundary {z s : State} (h : Kept z s) :
    Kept z (State.clocksBoundary s) := by
  unfold State.clocksBoundary
  repeat' first | with_reducible first | assumption | apply kept_each | apply kept_setSynOut | apply kept_put | apply kept_foldl | apply kept_foldl_snd | apply kept_foldl_fst | apply kept_foldl_snd2 | apply kept_ite | intro _ | extract_lets | with_reducible refine kept_some (by assumption) ?_ | dsimp -zeta only | split | dsimp -zeta +zetaDelta only

theorem kept_unitsBoundary {z s : State} (h : Kept z s) :
    Kept z (State.unitsBoundary s) := by
  unfold State.unitsBoundary
  repeat' first | with_reducible first | assumption | apply kept_cellarBoundary | apply kept_portsBoundary | apply kept_clocksBoundary | apply kept_each | apply kept_raiseIf | apply kept_setSpPeriods | apply kept_settleTakes | apply kept_commitPoint | apply kept_planTakes | apply kept_foldl | apply kept_foldl_snd | apply kept_foldl_fst | apply kept_foldl_snd2 | apply kept_ite | intro _ | extract_lets | with_reducible refine kept_some (by assumption) ?_ | dsimp -zeta only | split | dsimp -zeta +zetaDelta only

theorem kept_timeMarker {z s : State} (h : Kept z s) (n : Nat) :
    Kept z (State.timeMarker s n) := by
  unfold State.timeMarker
  repeat' first | with_reducible first | assumption | apply kept_drawn | apply kept_sendPacket | apply kept_foldl | apply kept_foldl_snd | apply kept_foldl_fst | apply kept_foldl_snd2 | apply kept_ite | intro _ | extract_lets | with_reducible refine kept_some (by assumption) ?_ | dsimp -zeta only | split | dsimp -zeta +zetaDelta only

theorem kept_frameBoundary {z s : State} (h : Kept z s) :
    Kept z (State.frameBoundary s) := by
  unfold State.frameBoundary
  repeat' first | with_reducible first | assumption | apply kept_modRuling | apply kept_adjustEnds | apply kept_adjustBegins | apply kept_countStep | apply kept_each | apply kept_unitsBoundary | apply kept_timeMarker | apply kept_foldl | apply kept_foldl_snd | apply kept_foldl_fst | apply kept_foldl_snd2 | apply kept_ite | intro _ | extract_lets | with_reducible refine kept_some (by assumption) ?_ | dsimp -zeta only | split | dsimp -zeta +zetaDelta only

theorem kept_nextRulingLine {z s : State} (h : Kept z s) :
    Kept z (State.nextRulingLine s) := by
  unfold State.nextRulingLine
  repeat' first | with_reducible first | assumption | apply kept_modRuling | apply kept_frameBoundary | apply kept_foldl | apply kept_foldl_snd | apply kept_foldl_fst | apply kept_foldl_snd2 | apply kept_ite | intro _ | extract_lets | with_reducible refine kept_some (by assumption) ?_ | dsimp -zeta only | split | dsimp -zeta +zetaDelta only

theorem kept_dispatchCommit {z s : State} (h : Kept z s) (periods : List Nat) (f : Nat) :
    Kept z (State.dispatchCommit s periods f) := by
  unfold State.dispatchCommit
  repeat' first | with_reducible first | assumption | apply kept_commitClear | apply kept_put | apply kept_commitArm | apply kept_foldl | apply kept_foldl_snd | apply kept_foldl_fst | apply kept_foldl_snd2 | apply kept_ite | intro _ | extract_lets | with_reducible refine kept_some (by assumption) ?_ | dsimp -zeta only | split | dsimp -zeta +zetaDelta only

theorem kept_dispatch {z s : State} (h : Kept z s) (periods : List Nat) (e : EvqEntry) :
    Kept z (State.dispatch s periods e) := by
  unfold State.dispatch
  repeat' first | with_reducible first | assumption | apply kept_dispatchCommit | apply kept_each | apply kept_armBank | apply kept_setBase | apply kept_startPulse | apply kept_cellarMark | apply kept_raise | apply kept_wr | apply kept_foldl | apply kept_foldl_snd | apply kept_foldl_fst | apply kept_foldl_snd2 | apply kept_ite | intro _ | extract_lets | with_reducible refine kept_some (by assumption) ?_ | dsimp -zeta only | split | dsimp -zeta +zetaDelta only

theorem kept_dispatchLine {z s : State} (h : Kept z s) (periods : List Nat) :
    Kept z (State.dispatchLine s periods) := by
  unfold State.dispatchLine
  repeat' first | with_reducible first | assumption | apply kept_setEvq | apply kept_each | apply kept_dispatch | apply kept_foldl | apply kept_foldl_snd | apply kept_foldl_fst | apply kept_foldl_snd2 | apply kept_ite | intro _ | extract_lets | with_reducible refine kept_some (by assumption) ?_ | dsimp -zeta only | split | dsimp -zeta +zetaDelta only

theorem keptR_execRulingLineStart {z s : State} (h : Kept z s) (periods : List Nat) :
    KeptR z (execRulingLineStart periods s) := by
  unfold execRulingLineStart
  repeat' first | with_reducible first | assumption | apply keptR_next | apply kept_nextRulingLine | apply kept_put | apply kept_dispatchLine | apply kept_foldl | apply kept_foldl_snd | apply kept_foldl_fst | apply kept_foldl_snd2 | apply kept_ite | apply keptR_ite | intro _ | extract_lets | with_reducible refine kept_some (by assumption) ?_ | dsimp -zeta only | split | dsimp -zeta +zetaDelta only

end Sys2Proof.Machine
end

