-- ==== Sys2Proof/Laws/KeptMemory.lean ====
section
/-!
SUPPORT. The operations of Machine/Memory.lean keep the relation of Laws/Kept.lean.
-/
namespace Sys2Proof.Machine
open Sys2Proof Safety

theorem keptR_execMemoryClrCnt {z s : State} (h : Kept z s) (hits : BitVec 32) (keepUe : Bool) (keepFw : Bool) :
    KeptR z (execMemoryClrCnt hits keepUe keepFw s) := by
  unfold execMemoryClrCnt
  repeat' first | with_reducible first | assumption | apply keptR_next | apply keptR_rowWrite | apply kept_each | apply kept_put | apply kept_wr | apply kept_foldl | apply kept_foldl_snd | apply kept_foldl_fst | apply kept_foldl_snd2 | apply kept_ite | apply keptR_ite | intro _ | extract_lets | with_reducible refine kept_some (by assumption) ?_ | dsimp -zeta only | split | dsimp -zeta +zetaDelta only

theorem keptR_execCl0MeterWindow {z s : State} (h : Kept z s) (port : Fin 22) :
    KeptR z (execCl0MeterWindow port s) := by
  unfold execCl0MeterWindow
  repeat' first | with_reducible first | assumption | apply keptR_next | apply kept_modMem | apply kept_raise | apply kept_bump | apply kept_foldl | apply kept_foldl_snd | apply kept_foldl_fst | apply kept_foldl_snd2 | exact id | apply kept_ite | apply keptR_ite | intro _ | extract_lets | with_reducible refine kept_some (by assumption) ?_ | dsimp -zeta only | split | dsimp -zeta +zetaDelta only

theorem keptR_execMemoryAccess {z s : State} (h : Kept z s) (kind : Fin 10) (write : Bool) (cls : Fin 4) (addr : BitVec 35) (len : Nat) (data : List Byte) (upsets : List (Nat × Bool)) (ns : Nat) (port : Fin 23) (slots : Nat) :
    KeptR z (execMemoryAccess kind write cls addr len data upsets ns port slots s) := by
  unfold execMemoryAccess
  repeat' first | with_reducible first | assumption | apply keptR_next | apply kept_passSlots | apply kept_strike | apply kept_modMem | apply kept_put | apply kept_memAccess | apply kept_foldl | apply kept_foldl_snd | apply kept_foldl_fst | apply kept_foldl_snd2 | exact id | apply kept_ite | apply keptR_ite | intro _ | extract_lets | with_reducible refine kept_some (by assumption) ?_ | dsimp -zeta only | split | dsimp -zeta +zetaDelta only

theorem kept_sampleChannels {z s : State} (h : Kept z s) :
    Kept z (State.sampleChannels s) := by
  unfold State.sampleChannels
  repeat' first | with_reducible first | assumption | apply kept_each | apply kept_modMem | apply kept_enqueue0 | apply kept_foldl | apply kept_foldl_snd | apply kept_foldl_fst | apply kept_foldl_snd2 | exact id | apply kept_ite | intro _ | extract_lets | with_reducible refine kept_snd (by assumption) ?_ | with_reducible refine kept_snd2 (by assumption) ?_ | with_reducible refine kept_snd3 (by assumption) ?_ | with_reducible refine kept_some (by assumption) ?_ | dsimp -zeta only | split | dsimp -zeta +zetaDelta only

theorem keptR_execPdExit {z s : State} (h : Kept z s) :
    KeptR z (execPdExit s) := by
  unfold execPdExit
  repeat' first | with_reducible first | assumption | apply keptR_next | apply kept_put | apply kept_sampleChannels | apply kept_each | apply kept_modMem | apply kept_memServe | apply kept_foldl | apply kept_foldl_snd | apply kept_foldl_fst | apply kept_foldl_snd2 | exact id | apply kept_ite | apply keptR_ite | intro _ | extract_lets | with_reducible refine kept_some (by assumption) ?_ | dsimp -zeta only | split | dsimp -zeta +zetaDelta only

theorem keptR_execDriftSample {z s : State} (h : Kept z s) (windows : List (BitVec 8)) :
    KeptR z (execDriftSample windows s) := by
  unfold execDriftSample
  repeat' first | with_reducible first | assumption | apply keptR_next | apply kept_put | apply kept_raiseIf | apply kept_sampleChannels | apply kept_foldl | apply kept_foldl_snd | apply kept_foldl_fst | apply kept_foldl_snd2 | apply kept_ite | apply keptR_ite | intro _ | extract_lets | with_reducible refine kept_some (by assumption) ?_ | dsimp -zeta only | split | dsimp -zeta +zetaDelta only

theorem keptR_execBar2Access {z s : State} (h : Kept z s) (write : Bool) (offset : Nat) (len : Nat) (data : List Byte) (upsets : List (Nat × Bool)) :
    KeptR z (execBar2Access write offset len data upsets s) := by
  unfold execBar2Access
  repeat' first | with_reducible first | assumption | apply keptR_next | apply kept_strike | apply kept_memAccess | apply kept_foldl | apply kept_foldl_snd | apply kept_foldl_fst | apply kept_foldl_snd2 | apply kept_ite | apply keptR_ite | intro _ | extract_lets | with_reducible refine kept_some (by assumption) ?_ | dsimp -zeta only | split | dsimp -zeta +zetaDelta only

theorem keptR_execWarmupEnd {z s : State} (h : Kept z s) :
    KeptR z (execWarmupEnd s) := by
  unfold execWarmupEnd
  repeat' first | with_reducible first | assumption | apply keptR_next | apply kept_raise | apply kept_put | apply kept_foldl | apply kept_foldl_snd | apply kept_foldl_fst | apply kept_foldl_snd2 | apply kept_ite | apply keptR_ite | intro _ | extract_lets | with_reducible refine kept_some (by assumption) ?_ | dsimp -zeta only | split | dsimp -zeta +zetaDelta only

theorem keptR_execPdEnter {z s : State} (h : Kept z s) (others : Option Nat) (idle : Bool) :
    KeptR z (execPdEnter others idle s) := by
  unfold execPdEnter
  repeat' first | with_reducible first | assumption | apply keptR_next | apply kept_put | apply kept_bump | apply kept_foldl | apply kept_foldl_snd | apply kept_foldl_fst | apply kept_foldl_snd2 | apply kept_ite | apply keptR_ite | intro _ | extract_lets | with_reducible refine kept_some (by assumption) ?_ | dsimp -zeta only | split | dsimp -zeta +zetaDelta only

theorem keptR_execScrubStep {z s : State} (h : Kept z s) (upsets : List (Nat × Bool)) :
    KeptR z (execScrubStep upsets s) := by
  unfold execScrubStep
  repeat' first | with_reducible first | assumption | apply keptR_next | apply kept_strike | apply kept_useMem | apply kept_setWordEcc | apply kept_put | apply kept_modMem | apply kept_raise | apply kept_bump | apply kept_enqueue0 | apply kept_eccRead | apply kept_foldl | apply kept_foldl_snd | apply kept_foldl_fst | apply kept_foldl_snd2 | exact id | apply kept_ite | apply keptR_ite | intro _ | extract_lets | with_reducible refine kept_snd (by assumption) ?_ | with_reducible refine kept_snd2 (by assumption) ?_ | with_reducible refine kept_snd3 (by assumption) ?_ | with_reducible refine kept_some (by assumption) ?_ | dsimp -zeta only | split | dsimp -zeta +zetaDelta only

theorem keptR_execClassWindowEnd {z s : State} (h : Kept z s) :
    KeptR z (execClassWindowEnd s) := by
  unfold execClassWindowEnd
  repeat' first | with_reducible first | assumption | apply keptR_next | apply kept_each | apply kept_put | apply kept_bumpBy | apply kept_raiseIf | apply kept_modMem | apply kept_foldl | apply kept_foldl_snd | apply kept_foldl_fst | apply kept_foldl_snd2 | exact id | apply kept_ite | apply keptR_ite | intro _ | extract_lets | with_reducible refine kept_some (by assumption) ?_ | dsimp -zeta only | split | dsimp -zeta +zetaDelta only

end Sys2Proof.Machine
end

