-- ==== Sys2Proof/Laws/KeptPowerOps.lean ====
section
/-!
SUPPORT. The operations of Machine/PowerOps.lean keep the relation of Laws/Kept.lean.
-/
namespace Sys2Proof.Machine
open Sys2Proof Safety

theorem kept_setPower {z s : State} (h : Kept z s) (st : Nat) :
    Kept z (State.setPower s st) := by
  unfold State.setPower
  repeat' first | with_reducible first | assumption | apply kept_raise | apply kept_put | apply kept_foldl | apply kept_foldl_snd | apply kept_foldl_fst | apply kept_foldl_snd2 | apply kept_ite | intro _ | extract_lets | with_reducible refine kept_some (by assumption) ?_ | dsimp -zeta only | split | dsimp -zeta +zetaDelta only

theorem kept_emptyEvq {z s : State} (h : Kept z s) :
    Kept z (State.emptyEvq s) := by
  unfold State.emptyEvq
  repeat' first | with_reducible first | assumption | apply kept_modPower | apply kept_setEvq | apply kept_foldl | apply kept_foldl_snd | apply kept_foldl_fst | apply kept_foldl_snd2 | apply kept_ite | intro _ | extract_lets | with_reducible refine kept_some (by assumption) ?_ | dsimp -zeta only | split | dsimp -zeta +zetaDelta only

theorem kept_ppbEach {z s : State} (h : Kept z s) (ports : List Nat) (op : Nat) (replies : List (BitVec 17)) :
    Kept z (State.ppbEach s ports op replies) := by
  unfold State.ppbEach
  repeat' first | with_reducible first | assumption | apply kept_each | apply kept_ppbSend | apply kept_foldl | apply kept_foldl_snd | apply kept_foldl_fst | apply kept_foldl_snd2 | apply kept_ite | intro _ | extract_lets | with_reducible refine kept_some (by assumption) ?_ | dsimp -zeta only | split | dsimp -zeta +zetaDelta only

theorem kept_cellarRests {z s : State} (h : Kept z s) :
    Kept z (State.cellarRests s) := by
  unfold State.cellarRests
  repeat' first | with_reducible first | assumption | apply kept_closeAll | apply kept_foldl | apply kept_foldl_snd | apply kept_foldl_fst | apply kept_foldl_snd2 | apply kept_ite | intro _ | extract_lets | with_reducible refine kept_some (by assumption) ?_ | dsimp -zeta only | split | dsimp -zeta +zetaDelta only

theorem kept_abortLoad {z s : State} (h : Kept z s) :
    Kept z (State.abortLoad s) := by
  unfold State.abortLoad
  repeat' first | with_reducible first | assumption | apply kept_fabricDone | apply kept_modFabric | apply kept_foldl | apply kept_foldl_snd | apply kept_foldl_fst | apply kept_foldl_snd2 | apply kept_ite | intro _ | extract_lets | with_reducible refine kept_some (by assumption) ?_ | dsimp -zeta only | split | dsimp -zeta +zetaDelta only

theorem kept_standbyBegins {z s : State} (h : Kept z s) (fromQuiet : Bool) (replies : List (BitVec 17)) :
    Kept z (State.standbyBegins s fromQuiet replies) := by
  unfold State.standbyBegins
  repeat' first | with_reducible first | assumption | apply kept_emptyEvq | apply kept_each | apply kept_discardChange | apply kept_commitClear | apply kept_endSession | apply kept_clearBank | apply kept_ppbEach | apply kept_saveSet | apply kept_cellarRests | apply kept_abortLoad | apply kept_foldl | apply kept_foldl_snd | apply kept_foldl_fst | apply kept_foldl_snd2 | apply kept_ite | intro _ | extract_lets | with_reducible refine kept_some (by assumption) ?_ | dsimp -zeta only | split | dsimp -zeta +zetaDelta only

theorem kept_startPower {z s : State} (h : Kept z s) (target : Nat) (host : Bool) (replies : List (BitVec 17)) :
    Kept z (State.startPower s target host replies) := by
  unfold State.startPower
  repeat' first | with_reducible first | assumption | apply kept_complete | apply kept_modPower | apply kept_setPower | apply kept_standbyBegins | apply kept_foldl | apply kept_foldl_snd | apply kept_foldl_fst | apply kept_foldl_snd2 | apply kept_ite | intro _ | extract_lets | with_reducible refine kept_some (by assumption) ?_ | dsimp -zeta only | split | dsimp -zeta +zetaDelta only

theorem kept_requestPower {z s : State} (h : Kept z s) (target : Nat) (host : Bool) (replies : List (BitVec 17)) :
    Kept z (State.requestPower s target host replies) := by
  unfold State.requestPower
  repeat' first | with_reducible first | assumption | apply kept_startPower | apply kept_complete | apply kept_modPower | apply kept_foldl | apply kept_foldl_snd | apply kept_foldl_fst | apply kept_foldl_snd2 | apply kept_ite | intro _ | extract_lets | with_reducible refine kept_some (by assumption) ?_ | dsimp -zeta only | split | dsimp -zeta +zetaDelta only

theorem kept_wake {z s : State} (h : Kept z s) :
    Kept z (State.wake s) := by
  unfold State.wake
  repeat' first | with_reducible first | assumption | apply kept_requestPower | apply kept_foldl | apply kept_foldl_snd | apply kept_foldl_fst | apply kept_foldl_snd2 | apply kept_ite | intro _ | extract_lets | with_reducible refine kept_some (by assumption) ?_ | dsimp -zeta only | split | dsimp -zeta +zetaDelta only

theorem kept_putRat {z s : State} (h : Kept z s) (f : Fld) (signed : Bool) (r : Rat) :
    Kept z (State.putRat s f signed r) := by
  unfold State.putRat
  repeat' first | with_reducible first | assumption | apply kept_put | apply kept_foldl | apply kept_foldl_snd | apply kept_foldl_fst | apply kept_foldl_snd2 | apply kept_ite | intro _ | extract_lets | with_reducible refine kept_some (by assumption) ?_ | dsimp -zeta only | split | dsimp -zeta +zetaDelta only

theorem kept_endPower {z s : State} (h : Kept z s) (st : Nat) (replies : List (BitVec 17)) :
    Kept z (State.endPower s st replies) := by
  unfold State.endPower
  dsimp only
  repeat' first | with_reducible first | assumption | apply kept_setPower | apply kept_complete | apply kept_modPower | apply kept_startPower | apply kept_foldl | apply kept_foldl_snd | apply kept_foldl_fst | apply kept_foldl_snd2 | apply kept_ite | intro _ | extract_lets | with_reducible refine kept_some (by assumption) ?_ | dsimp -zeta only | split | dsimp -zeta +zetaDelta only

end Sys2Proof.Machine
end

