-- ==== Sys2Proof/Laws/KeptSealCmd.lean ====
section
/-!
SUPPORT. The operations of Machine/SealCmd.lean keep the relation of Laws/Kept.lean.
-/
namespace Sys2Proof.Machine
open Sys2Proof Safety

theorem kept_sealCommand {z s : State} (h : Kept z s) (op : Nat) {f : State → List Byte → Nat × State} (hf : ∀ t x0, Kept z t → Kept z (f t x0).2) :
    Kept z (State.sealCommand s op f) := by
  unfold State.sealCommand
  repeat' first | with_reducible first | assumption | apply hf | apply kept_strongCommand | apply kept_extend | apply kept_raiseIf | apply kept_foldl | apply kept_foldl_snd | apply kept_foldl_fst | apply kept_foldl_snd2 | apply kept_ite | intro _ | extract_lets | with_reducible refine kept_some (by assumption) ?_ | dsimp -zeta only | split | dsimp -zeta +zetaDelta only

theorem kept_loadSurface {z s : State} (h : Kept z s) (f : Nat) (r : SealRec) (b : List Byte) (data : List Byte) :
    Kept z (State.loadSurface s f r b data).2 := by
  unfold State.loadSurface
  repeat' first | with_reducible first | assumption | apply kept_memWrite | apply kept_put | apply kept_memRead | apply kept_foldl | apply kept_foldl_snd | apply kept_foldl_fst | apply kept_foldl_snd2 | apply kept_ite | intro _ | extract_lets | with_reducible refine kept_snd (by assumption) ?_ | with_reducible refine kept_snd2 (by assumption) ?_ | with_reducible refine kept_snd3 (by assumption) ?_ | with_reducible refine kept_some (by assumption) ?_ | dsimp -zeta only | split | dsimp -zeta +zetaDelta only

theorem kept_setSealStore {z s : State} (h : Kept z s) (f : Nat) (x : SealStore) :
    Kept z (State.setSealStore s f x) := by
  unfold State.setSealStore
  repeat' first | with_reducible first | assumption | apply kept_modStrong | apply kept_foldl | apply kept_foldl_snd | apply kept_foldl_fst | apply kept_foldl_snd2 | exact fuses_refl _ | apply kept_ite | intro _ | extract_lets | with_reducible refine kept_some (by assumption) ?_ | dsimp -zeta only | split | dsimp -zeta +zetaDelta only | exact fuses_refl _

theorem keptR_execSealLoadSurface {z s : State} (h : Kept z s) (data : Option (List (BitVec 8))) (storeOk : Bool) :
    KeptR z (execSealLoadSurface data storeOk s) := by
  unfold execSealLoadSurface
  repeat' first | with_reducible first | assumption | apply keptR_next | apply kept_sealCommand | apply kept_setSealStore | apply kept_loadSurface | apply kept_foldl | apply kept_foldl_snd | apply kept_foldl_fst | apply kept_foldl_snd2 | apply kept_ite | apply keptR_ite | intro _ | extract_lets | with_reducible refine kept_snd (by assumption) ?_ | with_reducible refine kept_snd2 (by assumption) ?_ | with_reducible refine kept_snd3 (by assumption) ?_ | with_reducible refine kept_some (by assumption) ?_ | dsimp -zeta only | split | dsimp -zeta +zetaDelta only

theorem kept_sealApply {z s : State} (h : Kept z s) (b : List Byte) (storeOk : Bool) :
    Kept z (State.sealApply s b storeOk).2 := by
  unfold State.sealApply
  repeat' first | with_reducible first | assumption | apply kept_setSealStore | apply kept_modFolio | apply kept_foldl | apply kept_foldl_snd | apply kept_foldl_fst | apply kept_foldl_snd2 | apply kept_ite | intro _ | extract_lets | with_reducible refine kept_some (by assumption) ?_ | dsimp -zeta only | split | dsimp -zeta +zetaDelta only

theorem keptR_execSealClear {z s : State} (h : Kept z s) (storeOk : Bool) :
    KeptR z (execSealClear storeOk s) := by
  unfold execSealClear
  repeat' first | with_reducible first | assumption | apply keptR_next | apply kept_sealCommand | apply kept_sealApply | apply kept_foldl | apply kept_foldl_snd | apply kept_foldl_fst | apply kept_foldl_snd2 | apply kept_ite | apply keptR_ite | intro _ | extract_lets | with_reducible refine kept_snd (by assumption) ?_ | with_reducible refine kept_snd2 (by assumption) ?_ | with_reducible refine kept_snd3 (by assumption) ?_ | with_reducible refine kept_some (by assumption) ?_ | dsimp -zeta only | split | dsimp -zeta +zetaDelta only

theorem keptR_execSealApply {z s : State} (h : Kept z s) (storeOk : Bool) :
    KeptR z (execSealApply storeOk s) := by
  unfold execSealApply
  repeat' first | with_reducible first | assumption | apply keptR_next | apply kept_sealCommand | apply kept_sealApply | apply kept_foldl | apply kept_foldl_snd | apply kept_foldl_fst | apply kept_foldl_snd2 | apply kept_ite | apply keptR_ite | intro _ | extract_lets | with_reducible refine kept_snd (by assumption) ?_ | with_reducible refine kept_snd2 (by assumption) ?_ | with_reducible refine kept_snd3 (by assumption) ?_ | with_reducible refine kept_some (by assumption) ?_ | dsimp -zeta only | split | dsimp -zeta +zetaDelta only

theorem kept_sealStart {z s : State} (h : Kept z s) (f : Nat) :
    Kept z (State.sealStart s f) := by
  unfold State.sealStart
  repeat' first | with_reducible first | assumption | apply kept_extend | apply kept_modFolio | apply kept_each | apply kept_loadSurface | apply kept_foldl | apply kept_foldl_snd | apply kept_foldl_fst | apply kept_foldl_snd2 | apply kept_ite | intro _ | extract_lets | with_reducible refine kept_snd (by assumption) ?_ | with_reducible refine kept_snd2 (by assumption) ?_ | with_reducible refine kept_snd3 (by assumption) ?_ | with_reducible refine kept_some (by assumption) ?_ | dsimp -zeta only | split | dsimp -zeta +zetaDelta only

end Sys2Proof.Machine
end

