-- ==== Sys2Proof/Laws/KeptPower.lean ====
section
/-!
SUPPORT. The operations of Machine/Power.lean keep the relation of Laws/Kept.lean.
-/
namespace Sys2Proof.Machine
open Sys2Proof Safety

theorem kept_powerCommand {z s : State} (h : Kept z s) (target : Nat) (replies : List (BitVec 17)) :
    Kept z (State.powerCommand s target replies) := by
  unfold State.powerCommand
  repeat' first | with_reducible first | assumption | apply kept_hostWrite | apply kept_offer | apply kept_requestPower | apply kept_accept | apply kept_foldl | apply kept_foldl_snd | apply kept_foldl_fst | apply kept_foldl_snd2 | apply kept_ite | intro _ | extract_lets | with_reducible refine kept_some (by assumption) ?_ | dsimp -zeta only | split | dsimp -zeta +zetaDelta only

theorem keptR_execPwrCmdRun {z s : State} (h : Kept z s) :
    KeptR z (execPwrCmdRun s) := by
  unfold execPwrCmdRun
  repeat' first | with_reducible first | assumption | apply keptR_next | apply kept_powerCommand | apply kept_foldl | apply kept_foldl_snd | apply kept_foldl_fst | apply kept_foldl_snd2 | apply kept_ite | apply keptR_ite | intro _ | extract_lets | with_reducible refine kept_some (by assumption) ?_ | dsimp -zeta only | split | dsimp -zeta +zetaDelta only

theorem keptR_execPwrCmdQuiet {z s : State} (h : Kept z s) :
    KeptR z (execPwrCmdQuiet s) := by
  unfold execPwrCmdQuiet
  repeat' first | with_reducible first | assumption | apply keptR_next | apply kept_powerCommand | apply kept_foldl | apply kept_foldl_snd | apply kept_foldl_fst | apply kept_foldl_snd2 | apply kept_ite | apply keptR_ite | intro _ | extract_lets | with_reducible refine kept_some (by assumption) ?_ | dsimp -zeta only | split | dsimp -zeta +zetaDelta only

theorem keptR_execPwrCmdStandby {z s : State} (h : Kept z s) (replies : List (BitVec 17)) :
    KeptR z (execPwrCmdStandby replies s) := by
  unfold execPwrCmdStandby
  repeat' first | with_reducible first | assumption | apply keptR_next | apply kept_powerCommand | apply kept_foldl | apply kept_foldl_snd | apply kept_foldl_fst | apply kept_foldl_snd2 | apply kept_ite | apply keptR_ite | intro _ | extract_lets | with_reducible refine kept_some (by assumption) ?_ | dsimp -zeta only | split | dsimp -zeta +zetaDelta only

theorem keptR_execPwrBadCommand {z s : State} (h : Kept z s) (op : BitVec 4) :
    KeptR z (execPwrBadCommand op s) := by
  unfold execPwrBadCommand
  repeat' first | with_reducible first | assumption | apply keptR_next | apply kept_hostWrite | apply kept_offer | apply kept_complete | apply kept_accept | apply kept_foldl | apply kept_foldl_snd | apply kept_foldl_fst | apply kept_foldl_snd2 | apply kept_ite | apply keptR_ite | intro _ | extract_lets | with_reducible refine kept_some (by assumption) ?_ | dsimp -zeta only | split | dsimp -zeta +zetaDelta only

theorem kept_readTamper {z s : State} (h : Kept z s) :
    Kept z (State.readTamper s) := by
  unfold State.readTamper
  repeat' first | with_reducible first | assumption | apply kept_raise | apply kept_saveGens | apply kept_copyTamperLog | apply kept_strongChanged | apply kept_setFault | apply kept_foldl | apply kept_foldl_snd | apply kept_foldl_fst | apply kept_foldl_snd2 | apply kept_ite | intro _ | extract_lets | with_reducible refine kept_some (by assumption) ?_ | dsimp -zeta only | split | dsimp -zeta +zetaDelta only

theorem kept_trainFails {z s : State} (h : Kept z s) (channels : List (Fin 32)) :
    Kept z (State.trainFails s channels) := by
  unfold State.trainFails
  repeat' first | with_reducible first | assumption | apply kept_each | apply kept_blotter | apply kept_raise | apply kept_foldl | apply kept_foldl_snd | apply kept_foldl_fst | apply kept_foldl_snd2 | apply kept_ite | intro _ | extract_lets | with_reducible refine kept_some (by assumption) ?_ | dsimp -zeta only | split | dsimp -zeta +zetaDelta only

theorem keptR_execMainPowerLoss {z s : State} (h : Kept z s) (left : List (Nat × BitVec 8 × Bool)) :
    KeptR z (execMainPowerLoss left s) := by
  unfold execMainPowerLoss
  repeat' first | with_reducible first | assumption | apply keptR_next | apply kept_setDomains | apply kept_interruptWrites | apply kept_modPower | apply kept_foldl | apply kept_foldl_snd | apply kept_foldl_fst | apply kept_foldl_snd2 | apply kept_ite | apply keptR_ite | intro _ | extract_lets | with_reducible refine kept_some (by assumption) ?_ | dsimp -zeta only | split | dsimp -zeta +zetaDelta only

theorem keptR_execWakeTimer {z s : State} (h : Kept z s) :
    KeptR z (execWakeTimer s) := by
  unfold execWakeTimer
  repeat' first | with_reducible first | assumption | apply keptR_next | apply kept_wake | apply kept_foldl | apply kept_foldl_snd | apply kept_foldl_fst | apply kept_foldl_snd2 | apply kept_ite | apply keptR_ite | intro _ | extract_lets | with_reducible refine kept_some (by assumption) ?_ | dsimp -zeta only | split | dsimp -zeta +zetaDelta only

theorem kept_streamResumes {z s : State} (h : Kept z s) (n : Nat) :
    Kept z (State.streamResumes s n) := by
  unfold State.streamResumes
  repeat' first | with_reducible first | assumption | apply kept_showStream | apply kept_streamLost | apply kept_put | apply kept_foldl | apply kept_foldl_snd | apply kept_foldl_fst | apply kept_foldl_snd2 | apply kept_ite | intro _ | extract_lets | with_reducible refine kept_some (by assumption) ?_ | dsimp -zeta only | split | dsimp -zeta +zetaDelta only

theorem keptR_execPwrfail {z s : State} (h : Kept z s) (left : List (Nat × BitVec 8 × Bool)) :
    KeptR z (execPwrfail left s) := by
  unfold execPwrfail
  repeat' first | with_reducible first | assumption | apply keptR_next | apply kept_bump | apply kept_put | apply kept_raise | apply kept_interruptWrites | apply kept_saveSet | apply kept_cellarPowerFail | apply kept_foldl | apply kept_foldl_snd | apply kept_foldl_fst | apply kept_foldl_snd2 | apply kept_ite | apply keptR_ite | intro _ | extract_lets | with_reducible refine kept_some (by assumption) ?_ | dsimp -zeta only | split | dsimp -zeta +zetaDelta only

theorem kept_synthStarts {z s : State} (h : Kept z s) :
    Kept z (State.synthStarts s) := by
  unfold State.synthStarts
  repeat' first | with_reducible first | assumption | apply kept_put | apply kept_each | apply kept_setSynOut | apply kept_applyFreq | apply kept_foldl | apply kept_foldl_snd | apply kept_foldl_fst | apply kept_foldl_snd2 | apply kept_ite | intro _ | extract_lets | with_reducible refine kept_some (by assumption) ?_ | dsimp -zeta only | split | dsimp -zeta +zetaDelta only

theorem kept_sealResumes {z s : State} (h : Kept z s) (f : Nat) :
    Kept z (State.sealResumes s f) := by
  unfold State.sealResumes
  repeat' first | with_reducible first | assumption | apply kept_showAlarm | apply kept_put | apply kept_foldl | apply kept_foldl_snd | apply kept_foldl_fst | apply kept_foldl_snd2 | apply kept_ite | intro _ | extract_lets | with_reducible refine kept_some (by assumption) ?_ | dsimp -zeta only | split | dsimp -zeta +zetaDelta only

theorem kept_memoryTrained {z s : State} (h : Kept z s) :
    Kept z (State.memoryTrained s) := by
  unfold State.memoryTrained
  repeat' first | with_reducible first | assumption | apply kept_modMem | apply kept_put | apply kept_foldl | apply kept_foldl_snd | apply kept_foldl_fst | apply kept_foldl_snd2 | exact id | apply kept_ite | intro _ | extract_lets | with_reducible refine kept_some (by assumption) ?_ | dsimp -zeta only | split | dsimp -zeta +zetaDelta only

theorem kept_saveRegisters {z s : State} (h : Kept z s) :
    Kept z (State.saveRegisters s) := by
  unfold State.saveRegisters
  repeat' first | with_reducible first | assumption | apply kept_wr | apply kept_each | apply kept_foldl | apply kept_foldl_snd | apply kept_foldl_fst | apply kept_foldl_snd2 | apply kept_ite | intro _ | extract_lets | with_reducible refine kept_some (by assumption) ?_ | dsimp -zeta only | split | dsimp -zeta +zetaDelta only

theorem kept_memoryFails {z s : State} (h : Kept z s) (channels : List (Fin 32)) :
    Kept z (State.memoryFails s channels) := by
  unfold State.memoryFails
  repeat' first | with_reducible first | assumption | apply kept_trainFails | apply kept_setFault | apply kept_put | apply kept_foldl | apply kept_foldl_snd | apply kept_foldl_fst | apply kept_foldl_snd2 | apply kept_ite | intro _ | extract_lets | with_reducible refine kept_some (by assumption) ?_ | dsimp -zeta only | split | dsimp -zeta +zetaDelta only

theorem keptR_execResume {z s : State} (h : Kept z s) (failed : List (Fin 32)) (entropyOk : Bool) (replies : List (BitVec 17)) :
    KeptR z (execResume failed entropyOk replies s) := by
  unfold execResume
  repeat' first | with_reducible first | assumption | apply keptR_next | apply kept_setDomains | apply kept_synthStarts | apply kept_raise | apply kept_put | apply kept_showBanks | apply kept_showBlot | apply kept_showStructure | apply kept_setFault | apply kept_readTamper | apply kept_raiseIf | apply kept_memoryTrained | apply kept_each | apply kept_streamResumes | apply kept_sealResumes | apply kept_sealStart | apply kept_domainStarts | apply kept_memoryFails | apply kept_ppbEach | apply kept_showStops | apply kept_showStrong | apply kept_endPower | apply kept_foldl | apply kept_foldl_snd | apply kept_foldl_fst | apply kept_foldl_snd2 | apply kept_ite | apply keptR_ite | intro _ | extract_lets | with_reducible refine kept_some (by assumption) ?_ | dsimp -zeta only | split | dsimp -zeta +zetaDelta only

theorem keptR_execQuietExit {z s : State} (h : Kept z s) (replies : List (BitVec 17)) :
    KeptR z (execQuietExit replies s) := by
  unfold execQuietExit
  repeat' first | with_reducible first | assumption | apply keptR_next | apply kept_setDomains | apply kept_showStops | apply kept_each | apply kept_domainStarts | apply kept_ppbEach | apply kept_showStrong | apply kept_endPower | apply kept_foldl | apply kept_foldl_snd | apply kept_foldl_fst | apply kept_foldl_snd2 | apply kept_ite | apply keptR_ite | intro _ | extract_lets | with_reducible refine kept_some (by assumption) ?_ | dsimp -zeta only | split | dsimp -zeta +zetaDelta only

theorem keptR_execQuietEntry {z s : State} (h : Kept z s) (replies : List (BitVec 17)) :
    KeptR z (execQuietEntry replies s) := by
  unfold execQuietEntry
  repeat' first | with_reducible first | assumption | apply keptR_next | apply kept_each | apply kept_domainStops | apply kept_ppbEach | apply kept_showStops | apply kept_setDomains | apply kept_showStrong | apply kept_endPower | apply kept_foldl | apply kept_foldl_snd | apply kept_foldl_fst | apply kept_foldl_snd2 | apply kept_ite | apply keptR_ite | intro _ | extract_lets | with_reducible refine kept_some (by assumption) ?_ | dsimp -zeta only | split | dsimp -zeta +zetaDelta only

theorem kept_unitsOff {z s : State} (h : Kept z s) : Kept z s.unitsOff := by
  refine kept_of h rfl (fun i => { i with ports := ?_, streams := ?_, folios := ?_ }) (fuses_refl _)
  · exact Sparse.wf_map _ (fun p => p.2.resting) (fun p => p.2 != ({} : PortState)) (fun _ _ hv => by simpa using hv) _ i.ports
  · exact Sparse.wf_map _ (fun p => p.2.resting) (fun p => p.2 != ({} : StreamState)) (fun _ _ hv => by simpa using hv) _ i.streams
  · exact Sparse.wf_filter_map _ _ _ (fun p hp => by
      intro he
      have hs : p.2.sealDue = none := congrArg FolioState.sealDue he
      simp [hs] at hp) _ i.folios

theorem keptR_execStandbyEntryComplete {z s : State} (h : Kept z s) :
    KeptR z (execStandbyEntryComplete s) := by
  unfold execStandbyEntryComplete
  repeat' first | with_reducible first | assumption | apply keptR_next | apply kept_each | apply kept_rasterStops | apply kept_abandonStream | apply kept_portStops | apply kept_emit | apply kept_writeSuperblock | apply kept_put | apply kept_setDomains | apply kept_unitsOff | apply kept_saveRegisters | apply kept_endPower | apply kept_foldl | apply kept_foldl_snd | apply kept_foldl_fst | apply kept_foldl_snd2 | apply kept_ite | apply keptR_ite | intro _ | extract_lets | with_reducible refine kept_some (by assumption) ?_ | dsimp -zeta only | split | dsimp -zeta +zetaDelta only

theorem keptR_execPfRecover {z s : State} (h : Kept z s) :
    KeptR z (execPfRecover s) := by
  unfold execPfRecover
  repeat' first | with_reducible first | assumption | apply keptR_next | apply kept_cellarPowerBack | apply kept_raise | apply kept_put | apply kept_foldl | apply kept_foldl_snd | apply kept_foldl_fst | apply kept_foldl_snd2 | apply kept_ite | apply keptR_ite | intro _ | extract_lets | with_reducible refine kept_some (by assumption) ?_ | dsimp -zeta only | split | dsimp -zeta +zetaDelta only

end Sys2Proof.Machine
end

