-- ==== Sys2Proof/Laws/KeptSysif.lean ====
section
/-!
SUPPORT. The operations of Machine/Sysif.lean keep the relation of Laws/Kept.lean.
-/
namespace Sys2Proof.Machine
open Sys2Proof Safety

theorem kept_flashEnds {z s : State} (h : Kept z s) (status : Nat) :
    Kept z (State.flashEnds s status) := by
  unfold State.flashEnds
  repeat' first | with_reducible first | assumption | apply kept_raise | apply kept_complete | apply kept_foldl | apply kept_foldl_snd | apply kept_foldl_fst | apply kept_foldl_snd2 | apply kept_ite | intro _ | extract_lets | with_reducible refine kept_some (by assumption) ?_ | dsimp -zeta only | split | dsimp -zeta +zetaDelta only

theorem kept_flashCommand {z s : State} (h : Kept z s) (op : Nat) (a : Nat) :
    Kept z (State.flashCommand s op a) := by
  unfold State.flashCommand
  repeat' first | with_reducible first | assumption | apply kept_hostWrite | apply kept_offer | apply kept_accept | apply kept_flashEnds | apply kept_modSysif | apply kept_foldl | apply kept_foldl_snd | apply kept_foldl_fst | apply kept_foldl_snd2 | apply kept_ite | intro _ | extract_lets | with_reducible refine kept_some (by assumption) ?_ | dsimp -zeta only | split | dsimp -zeta +zetaDelta only

theorem kept_flashTorn {z s : State} (h : Kept z s) :
    Kept z (State.flashTorn s) := by
  unfold State.flashTorn
  repeat' first | with_reducible first | assumption | apply kept_modSysif | apply kept_drawn | apply kept_each | apply kept_setFlash | apply kept_foldl | apply kept_foldl_snd | apply kept_foldl_fst | apply kept_foldl_snd2 | apply kept_ite | intro _ | extract_lets | with_reducible refine kept_some (by assumption) ?_ | dsimp -zeta only | split | dsimp -zeta +zetaDelta only

theorem keptR_execGpioInputChange {z s : State} (h : Kept z s) (gpio : Fin 32) (level : Bool) :
    KeptR z (execGpioInputChange gpio level s) := by
  unfold execGpioInputChange
  repeat' first | with_reducible first | assumption | apply keptR_next | apply kept_modGpio | apply kept_raiseIf | apply kept_incident | apply kept_requestPower | apply kept_wake | apply kept_foldl | apply kept_foldl_snd | apply kept_foldl_fst | apply kept_foldl_snd2 | apply kept_ite | apply keptR_ite | intro _ | extract_lets | with_reducible refine kept_some (by assumption) ?_ | dsimp -zeta only | split | dsimp -zeta +zetaDelta only

theorem keptR_execFlashTimeout {z s : State} (h : Kept z s) :
    KeptR z (execFlashTimeout s) := by
  unfold execFlashTimeout
  repeat' first | with_reducible first | assumption | apply keptR_next | apply kept_flashEnds | apply kept_flashTorn | apply kept_foldl | apply kept_foldl_snd | apply kept_foldl_fst | apply kept_foldl_snd2 | apply kept_ite | apply keptR_ite | intro _ | extract_lets | with_reducible refine kept_some (by assumption) ?_ | dsimp -zeta only | split | dsimp -zeta +zetaDelta only

theorem keptR_smbAnswer {z s : State} (h : Kept z s) (a : Option (List Byte)) :
    KeptR z (State.smbAnswer s a) := by
  unfold State.smbAnswer
  repeat' first | with_reducible first | assumption | apply keptR_next | apply kept_emit | apply kept_foldl | apply kept_foldl_snd | apply kept_foldl_fst | apply kept_foldl_snd2 | apply kept_ite | apply keptR_ite | intro _ | extract_lets | with_reducible refine kept_some (by assumption) ?_ | dsimp -zeta only | split | dsimp -zeta +zetaDelta only

theorem keptR_execSmbUnknownCommand {z s : State} (h : Kept z s) :
    KeptR z (execSmbUnknownCommand s) := by
  unfold execSmbUnknownCommand
  repeat' first | with_reducible first | assumption | apply keptR_next | apply keptR_smbAnswer | apply kept_foldl | apply kept_foldl_snd | apply kept_foldl_fst | apply kept_foldl_snd2 | apply kept_ite | apply keptR_ite | intro _ | extract_lets | with_reducible refine kept_some (by assumption) ?_ | dsimp -zeta only | split | dsimp -zeta +zetaDelta only

theorem keptR_execSmbId {z s : State} (h : Kept z s) :
    KeptR z (execSmbId s) := by
  unfold execSmbId
  repeat' first | with_reducible first | assumption | apply keptR_next | apply keptR_smbAnswer | apply kept_foldl | apply kept_foldl_snd | apply kept_foldl_fst | apply kept_foldl_snd2 | apply kept_ite | apply keptR_ite | intro _ | extract_lets | with_reducible refine kept_some (by assumption) ?_ | dsimp -zeta only | split | dsimp -zeta +zetaDelta only

theorem keptR_execSmbMaxTemp {z s : State} (h : Kept z s) :
    KeptR z (execSmbMaxTemp s) := by
  unfold execSmbMaxTemp
  repeat' first | with_reducible first | assumption | apply keptR_next | apply keptR_smbAnswer | apply kept_foldl | apply kept_foldl_snd | apply kept_foldl_fst | apply kept_foldl_snd2 | apply kept_ite | apply keptR_ite | intro _ | extract_lets | with_reducible refine kept_some (by assumption) ?_ | dsimp -zeta only | split | dsimp -zeta +zetaDelta only

theorem keptR_execSmbAlarms {z s : State} (h : Kept z s) (uplinkOk : Bool) :
    KeptR z (execSmbAlarms uplinkOk s) := by
  unfold execSmbAlarms
  repeat' first | with_reducible first | assumption | apply keptR_next | apply keptR_smbAnswer | apply kept_foldl | apply kept_foldl_snd | apply kept_foldl_fst | apply kept_foldl_snd2 | apply kept_ite | apply keptR_ite | intro _ | extract_lets | with_reducible refine kept_some (by assumption) ?_ | dsimp -zeta only | split | dsimp -zeta +zetaDelta only

theorem keptR_execSmbPower {z s : State} (h : Kept z s) :
    KeptR z (execSmbPower s) := by
  unfold execSmbPower
  repeat' first | with_reducible first | assumption | apply keptR_next | apply keptR_smbAnswer | apply kept_foldl | apply kept_foldl_snd | apply kept_foldl_fst | apply kept_foldl_snd2 | apply kept_ite | apply keptR_ite | intro _ | extract_lets | with_reducible refine kept_some (by assumption) ?_ | dsimp -zeta only | split | dsimp -zeta +zetaDelta only

theorem keptR_execFlashErase4k {z s : State} (h : Kept z s) (addr : BitVec 28) :
    KeptR z (execFlashErase4k addr s) := by
  unfold execFlashErase4k
  repeat' first | with_reducible first | assumption | apply keptR_next | apply kept_flashCommand | apply kept_foldl | apply kept_foldl_snd | apply kept_foldl_fst | apply kept_foldl_snd2 | apply kept_ite | apply keptR_ite | intro _ | extract_lets | with_reducible refine kept_some (by assumption) ?_ | dsimp -zeta only | split | dsimp -zeta +zetaDelta only

theorem keptR_execFlashRead {z s : State} (h : Kept z s) (addr : BitVec 28) :
    KeptR z (execFlashRead addr s) := by
  unfold execFlashRead
  repeat' first | with_reducible first | assumption | apply keptR_next | apply kept_flashCommand | apply kept_foldl | apply kept_foldl_snd | apply kept_foldl_fst | apply kept_foldl_snd2 | apply kept_ite | apply keptR_ite | intro _ | extract_lets | with_reducible refine kept_some (by assumption) ?_ | dsimp -zeta only | split | dsimp -zeta +zetaDelta only

theorem keptR_execFlashOpComplete {z s : State} (h : Kept z s) :
    KeptR z (execFlashOpComplete s) := by
  unfold execFlashOpComplete
  repeat' first | with_reducible first | assumption | apply keptR_next | apply kept_modSysif | apply kept_putBytes | apply kept_each | apply kept_setFlash | apply kept_flashEnds | apply kept_foldl | apply kept_foldl_snd | apply kept_foldl_fst | apply kept_foldl_snd2 | apply kept_ite | apply keptR_ite | intro _ | extract_lets | with_reducible refine kept_some (by assumption) ?_ | dsimp -zeta only | split | dsimp -zeta +zetaDelta only

theorem keptR_execSmbState {z s : State} (h : Kept z s) :
    KeptR z (execSmbState s) := by
  unfold execSmbState
  repeat' first | with_reducible first | assumption | apply keptR_next | apply keptR_smbAnswer | apply kept_foldl | apply kept_foldl_snd | apply kept_foldl_fst | apply kept_foldl_snd2 | apply kept_ite | apply keptR_ite | intro _ | extract_lets | with_reducible refine kept_some (by assumption) ?_ | dsimp -zeta only | split | dsimp -zeta +zetaDelta only

theorem keptR_execFlashProgram {z s : State} (h : Kept z s) (addr : BitVec 28) :
    KeptR z (execFlashProgram addr s) := by
  unfold execFlashProgram
  repeat' first | with_reducible first | assumption | apply keptR_next | apply kept_flashCommand | apply kept_foldl | apply kept_foldl_snd | apply kept_foldl_fst | apply kept_foldl_snd2 | apply kept_ite | apply keptR_ite | intro _ | extract_lets | with_reducible refine kept_some (by assumption) ?_ | dsimp -zeta only | split | dsimp -zeta +zetaDelta only

theorem keptR_execPmbusPoll {z s : State} (h : Kept z s) (dev : Fin 8) (reply : Option (BitVec 5 × BitVec 16 × BitVec 16 × BitVec 16)) :
    KeptR z (execPmbusPoll dev reply s) := by
  unfold execPmbusPoll
  repeat' first | with_reducible first | assumption | apply keptR_next | apply kept_modSysif | apply kept_raise | apply kept_put | apply kept_putRat | apply kept_modPower | apply kept_foldl | apply kept_foldl_snd | apply kept_foldl_fst | apply kept_foldl_snd2 | apply kept_ite | apply keptR_ite | intro _ | extract_lets | with_reducible refine kept_some (by assumption) ?_ | dsimp -zeta only | split | dsimp -zeta +zetaDelta only

end Sys2Proof.Machine
end

