-- ==== Sys2Proof/Laws/KeptReset.lean ====
section
/-!
SUPPORT. The operations of Machine/Reset.lean keep the relation of Laws/Kept.lean.
-/
namespace Sys2Proof.Machine
open Sys2Proof Safety

theorem kept_drainFor {z s : State} (h : Kept z s) (cause : BitVec 5) :
    Kept z (State.drainFor s cause) := by
  unfold State.drainFor
  repeat' first | with_reducible first | assumption | apply kept_modBoot | apply kept_foldl | apply kept_foldl_snd | apply kept_foldl_fst | apply kept_foldl_snd2 | apply kept_ite | intro _ | extract_lets | with_reducible refine kept_some (by assumption) ?_ | dsimp -zeta only | split | dsimp -zeta +zetaDelta only

theorem keptR_execSoftResetRequest {z s : State} (h : Kept z s) (key : BitVec 16) (soft : Bool) :
    KeptR z (execSoftResetRequest key soft s) := by
  unfold execSoftResetRequest
  repeat' first | with_reducible first | assumption | apply keptR_next | apply kept_hostWrite | apply kept_drainFor | apply kept_foldl | apply kept_foldl_snd | apply kept_foldl_fst | apply kept_foldl_snd2 | apply kept_ite | apply keptR_ite | intro _ | extract_lets | with_reducible refine kept_some (by assumption) ?_ | dsimp -zeta only | split | dsimp -zeta +zetaDelta only

theorem keptR_execFaultAckEcc {z s : State} (h : Kept z s) :
    KeptR z (execFaultAckEcc s) := by
  unfold execFaultAckEcc
  repeat' first | with_reducible first | assumption | apply keptR_next | apply kept_hostWrite | apply kept_setFault | apply kept_foldl | apply kept_foldl_snd | apply kept_foldl_fst | apply kept_foldl_snd2 | apply kept_ite | apply keptR_ite | intro _ | extract_lets | with_reducible refine kept_some (by assumption) ?_ | dsimp -zeta only | split | dsimp -zeta +zetaDelta only

theorem kept_afterReset {z s : State} (h : Kept z s) (left : List (Nat × BitVec 8 × Bool)) : Kept z (s.afterReset left) := by
  unfold State.afterReset
  extract_lets fail s1 t
  have h1 : Kept z s1 := kept_flashTorn (kept_interruptWrites h _ _)
  refine kept_setDomains (kept_put ?_ _ _) _
  exact kept_of h1 rfl
    (fun i => ⟨rfl, rfl, i.flash, i.sram, rfl, rfl, rfl, Nat.zero_le _⟩) (fuses_refl _)

theorem kept_warmReset {z s : State} (h : Kept z s) (cause : BitVec 5) (left : List (Nat × BitVec 8 × Bool)) :
    Kept z (State.warmReset s cause left) := by
  unfold State.warmReset
  repeat' first | with_reducible first | assumption | apply kept_interruptWrites | apply kept_wr | apply kept_afterReset | apply kept_modBoot | apply kept_bump | apply kept_foldl | apply kept_foldl_snd | apply kept_foldl_fst | apply kept_foldl_snd2 | apply kept_ite | intro _ | extract_lets | with_reducible refine kept_some (by assumption) ?_ | dsimp -zeta only | split | dsimp -zeta +zetaDelta only

theorem keptR_execPinReset {z s : State} (h : Kept z s) (left : List (Nat × BitVec 8 × Bool)) :
    KeptR z (execPinReset left s) := by
  unfold execPinReset
  repeat' first | with_reducible first | assumption | apply keptR_next | apply kept_warmReset | apply kept_foldl | apply kept_foldl_snd | apply kept_foldl_fst | apply kept_foldl_snd2 | apply kept_ite | apply keptR_ite | intro _ | extract_lets | with_reducible refine kept_some (by assumption) ?_ | dsimp -zeta only | split | dsimp -zeta +zetaDelta only

theorem keptR_execWatchdogExpiry {z s : State} (h : Kept z s) (burst : Bool) (left : List (Nat × BitVec 8 × Bool)) :
    KeptR z (execWatchdogExpiry burst left s) := by
  unfold execWatchdogExpiry
  repeat' first | with_reducible first | assumption | apply keptR_next | apply kept_burstRescue | apply kept_warmReset | apply kept_drainFor | apply kept_foldl | apply kept_foldl_snd | apply kept_foldl_fst | apply kept_foldl_snd2 | apply kept_ite | apply keptR_ite | intro _ | extract_lets | with_reducible refine kept_some (by assumption) ?_ | dsimp -zeta only | split | dsimp -zeta +zetaDelta only

theorem keptR_execResetDrainEnd {z s : State} (h : Kept z s) (left : List (Nat × BitVec 8 × Bool)) :
    KeptR z (execResetDrainEnd left s) := by
  unfold execResetDrainEnd
  repeat' first | with_reducible first | assumption | apply keptR_next | apply kept_warmReset | apply kept_foldl | apply kept_foldl_snd | apply kept_foldl_fst | apply kept_foldl_snd2 | apply kept_ite | apply keptR_ite | intro _ | extract_lets | with_reducible refine kept_some (by assumption) ?_ | dsimp -zeta only | split | dsimp -zeta +zetaDelta only

theorem keptR_execPowerOnReset {z s : State} (h : Kept z s) (vbatLost : Bool) (lifeS : Nat) (left : List (Nat × BitVec 8 × Bool)) :
    KeptR z (execPowerOnReset vbatLost lifeS left s) := by
  have h1 : Kept z (((s.afterReset left).clearSram.modBoot fun _ => { causes := causePowerOn }).modPower fun p => { note := p.note }) :=
    kept_modPower (kept_modBoot (kept_clearSram (kept_afterReset h left)) _) _
  have h2 := kept_modStrong h1 (fun u => { u with dbgReg := 0 }) (fuses_refl _)
  unfold execPowerOnReset
  dsimp only
  split
  · exact keptR_next (kept_put (kept_modPower (kept_modStrong h2 _ (fuses_refl _)) _) _ _)
  · exact keptR_next (kept_modStrong h2 _ (fuses_refl _))

end Sys2Proof.Machine
end

