-- ==== Sys2Proof/Laws/KeptBus.lean ====
section
/-!
SUPPORT. The operations of Machine/Bus.lean keep the relation of Laws/Kept.lean.
-/
namespace Sys2Proof.Machine
open Sys2Proof Safety

theorem kept_after {z s : State} (h : Kept z s) {f : State → Result} (hf : ∀ t, Kept z t → KeptR z (f t)) :
    Kept z (State.after s f) := by
  unfold State.after
  repeat' first | with_reducible first | assumption | apply hf | apply kept_foldl | apply kept_foldl_snd | apply kept_foldl_fst | apply kept_foldl_snd2 | apply kept_ite | intro _ | extract_lets | with_reducible refine kept_ofR (by assumption) ?_ | with_reducible refine kept_some (by assumption) ?_ | dsimp -zeta only | split | dsimp -zeta +zetaDelta only

theorem kept_sets {z s : State} (h : Kept z s) (b : Bool) {f : State → Result} (hf : ∀ t, Kept z t → KeptR z (f t)) :
    Kept z (State.sets s b f) := by
  unfold State.sets
  repeat' first | with_reducible first | assumption | apply hf | apply kept_after | apply kept_foldl | apply kept_foldl_snd | apply kept_foldl_fst | apply kept_foldl_snd2 | apply kept_ite | intro _ | extract_lets | with_reducible refine kept_ofR (by assumption) ?_ | with_reducible refine kept_some (by assumption) ?_ | dsimp -zeta only | split | dsimp -zeta +zetaDelta only

theorem kept_BusWrite_hostif {z s : State} (h : Kept z s) (w : BusWrite) :
    Kept z (BusWrite.hostif w s) := by
  unfold BusWrite.hostif
  repeat' first | with_reducible first | assumption | apply keptR_next | apply kept_sets | apply keptR_execHostifClrCnt | apply keptR_execVecEoiWrite | apply keptR_execMsixVectorMaskWrite | apply keptR_execDmaReset | apply keptR_execDmaTailWrite | apply kept_foldl | apply kept_foldl_snd | apply kept_foldl_fst | apply kept_foldl_snd2 | apply kept_ite | apply keptR_ite | intro _ | extract_lets | with_reducible refine kept_some (by assumption) ?_ | dsimp -zeta only | split | dsimp -zeta +zetaDelta only

theorem kept_BusWrite_port {z s : State} (h : Kept z s) (w : BusWrite) (n : Nat) :
    Kept z (BusWrite.port w n s) := by
  unfold BusWrite.port
  repeat' first | with_reducible first | assumption | apply keptR_next | apply kept_sets | apply keptR_execQuarPolicyWrite | apply keptR_execLinkEnableWrite | apply keptR_execLinkRestart | apply keptR_execLinkRetrainRequest | apply keptR_execPortClrCnt | apply keptR_execHostCtrlSend | apply keptR_execPwrLimitWrite | apply keptR_execPwrOnWrite | apply keptR_execClearLockout | apply keptR_execPwrCycle | apply kept_foldl | apply kept_foldl_snd | apply kept_foldl_fst | apply kept_foldl_snd2 | apply kept_ite | apply keptR_ite | intro _ | extract_lets | with_reducible refine kept_some (by assumption) ?_ | dsimp -zeta only | split | dsimp -zeta +zetaDelta only

theorem kept_BusWrite_folio {z s : State} (h : Kept z s) (w : BusWrite) (f : Nat) :
    Kept z (BusWrite.folio w f s) := by
  unfold BusWrite.folio
  repeat' first | with_reducible first | assumption | apply keptR_next | apply kept_sets | apply keptR_execStageHoldWrite | apply keptR_execCommitRevert | apply keptR_execCommitDisarm | apply keptR_execCommitArm | apply kept_foldl | apply kept_foldl_snd | apply kept_foldl_fst | apply kept_foldl_snd2 | apply kept_ite | apply keptR_ite | intro _ | extract_lets | with_reducible refine kept_some (by assumption) ?_ | dsimp -zeta only | split | dsimp -zeta +zetaDelta only

theorem kept_BusWrite_tables {z s : State} (h : Kept z s) (w : BusWrite) :
    Kept z (BusWrite.tables w s) := by
  unfold BusWrite.tables
  repeat' first | with_reducible first | assumption | apply keptR_next | apply kept_after | apply keptR_execFenceWrite | apply keptR_execSurfDescriptorWrite | apply keptR_execCoeffTableWrite | apply kept_foldl | apply kept_foldl_snd | apply kept_foldl_fst | apply kept_foldl_snd2 | apply kept_ite | apply keptR_ite | intro _ | extract_lets | with_reducible refine kept_some (by assumption) ?_ | dsimp -zeta only | split | dsimp -zeta +zetaDelta only

theorem kept_BusWrite_ruling {z s : State} (h : Kept z s) (w : BusWrite) :
    Kept z (BusWrite.ruling w s) := by
  unfold BusWrite.ruling
  repeat' first | with_reducible first | assumption | apply keptR_next | apply kept_sets | apply keptR_execCapture | apply keptR_execForceCoastWrite | apply keptR_execManualSrcWrite | apply keptR_execSrcPrioWrite | apply keptR_execEpochArm | apply kept_after | apply keptR_execEvqPush | apply keptR_execEvqCancel | apply keptR_execEvqFlush | apply keptR_execEvqBadCommand | apply keptR_execSynOutCtrlWrite | apply keptR_execOutDelayWrite | apply kept_foldl | apply kept_foldl_snd | apply kept_foldl_fst | apply kept_foldl_snd2 | apply kept_ite | apply keptR_ite | intro _ | extract_lets | with_reducible refine kept_some (by assumption) ?_ | dsimp -zeta only | split | dsimp -zeta +zetaDelta only

theorem kept_BusWrite_audio {z s : State} (h : Kept z s) (w : BusWrite) :
    Kept z (BusWrite.audio w s) := by
  unfold BusWrite.audio
  repeat' first | with_reducible first | assumption | apply keptR_next | apply kept_sets | apply keptR_execBankCommit | apply keptR_queryBadCommand | apply keptR_execQueryFetch | apply kept_after | apply keptR_execOutMapWrite | apply keptR_execInMapWrite | apply kept_foldl | apply kept_foldl_snd | apply kept_foldl_fst | apply kept_foldl_snd2 | apply kept_ite | apply keptR_ite | intro _ | extract_lets | with_reducible refine kept_some (by assumption) ?_ | dsimp -zeta only | split | dsimp -zeta +zetaDelta only

theorem kept_BusWrite_cellar {z s : State} (h : Kept z s) (w : BusWrite) :
    Kept z (BusWrite.cellar w s) := by
  unfold BusWrite.cellar
  repeat' first | with_reducible first | assumption | apply keptR_next | apply kept_after | apply keptR_execHeartbeat | apply kept_sets | apply keptR_execIncidentSet | apply keptR_execIncidentClear | apply keptR_execCellarFormat | apply keptR_execCellarReadSeg | apply keptR_execCellarRescan | apply keptR_execCellarBadCommand | apply keptR_execDirCursorWrite | apply keptR_execCellarEntryWrite | apply kept_foldl | apply kept_foldl_snd | apply kept_foldl_fst | apply kept_foldl_snd2 | apply kept_ite | apply keptR_ite | intro _ | extract_lets | with_reducible refine kept_some (by assumption) ?_ | dsimp -zeta only | split | dsimp -zeta +zetaDelta only

theorem keptR_BusWrite_sealOp {z ax : State} (h : Kept z ax) (w : BusWrite) (op : Nat) :
    KeptR z (BusWrite.sealOp w op ax) := by
  unfold BusWrite.sealOp
  repeat' first | with_reducible first | assumption | apply keptR_next | apply keptR_execSealLoadSurface | apply keptR_execSealClear | apply keptR_execSealApply | apply kept_foldl | apply kept_foldl_snd | apply kept_foldl_fst | apply kept_foldl_snd2 | apply kept_ite | apply keptR_ite | intro _ | extract_lets | with_reducible refine kept_some (by assumption) ?_ | dsimp -zeta only | split | dsimp -zeta +zetaDelta only

theorem keptR_BusWrite_ownerOp {z ax : State} (h : Kept z ax) (w : BusWrite) (sub : Nat) :
    KeptR z (BusWrite.ownerOp w sub ax) := by
  unfold BusWrite.ownerOp
  repeat' first | with_reducible first | assumption | apply keptR_next | apply keptR_execPairRevoke | apply keptR_execPairRemove | apply keptR_execPairRekey | apply keptR_execPairClear | apply keptR_execUnprotect | apply keptR_execCellarFormatPermit | apply keptR_execReroot | apply keptR_execRotateRec | apply keptR_execAddOwnerKey | apply keptR_execRevokeOwnerKey | apply keptR_execTamperCfg | apply keptR_execTakeOwnership | apply keptR_execReturnPart | apply keptR_execScrap | apply keptR_execPairAdd | apply kept_foldl | apply kept_foldl_snd | apply kept_foldl_fst | apply kept_foldl_snd2 | apply kept_ite | apply keptR_ite | intro _ | extract_lets | with_reducible refine kept_some (by assumption) ?_ | dsimp -zeta only | split | dsimp -zeta +zetaDelta only

theorem kept_BusWrite_strong {z s : State} (h : Kept z s) (w : BusWrite) :
    Kept z (BusWrite.strong w s) := by
  unfold BusWrite.strong
  repeat' first | with_reducible first | assumption | apply keptR_next | apply kept_after | apply keptR_BusWrite_sealOp | apply keptR_BusWrite_ownerOp | apply keptR_execAttest | apply keptR_execExtend | apply keptR_execRandom | apply keptR_execDerive | apply keptR_execGenerate | apply keptR_execInvalidate | apply keptR_execSign | apply keptR_execHmac | apply keptR_execPubkey | apply keptR_execStrongroomBadCommand | apply kept_foldl | apply kept_foldl_snd | apply kept_foldl_fst | apply kept_foldl_snd2 | apply kept_ite | apply keptR_ite | intro _ | extract_lets | with_reducible refine kept_some (by assumption) ?_ | dsimp -zeta only | split | dsimp -zeta +zetaDelta only

theorem kept_BusWrite_blotter {z s : State} (h : Kept z s) (w : BusWrite) :
    Kept z (BusWrite.blotter w s) := by
  unfold BusWrite.blotter
  repeat' first | with_reducible first | assumption | apply keptR_next | apply kept_after | apply keptR_execAtticRead | apply keptR_execAtticWrite | apply keptR_execAtticWriteSealed | apply keptR_execAtticMarginRead | apply keptR_execAtticBufClear | apply kept_sets | apply keptR_execAtticBadCommand | apply keptR_execAtticBufWrite | apply keptR_execCalSetWrite | apply keptR_execSnapStart | apply keptR_execClearSubmit | apply kept_foldl | apply kept_foldl_snd | apply kept_foldl_fst | apply kept_foldl_snd2 | apply kept_ite | apply keptR_ite | intro _ | extract_lets | with_reducible refine kept_some (by assumption) ?_ | dsimp -zeta only | split | dsimp -zeta +zetaDelta only

theorem kept_BusWrite_system {z s : State} (h : Kept z s) (w : BusWrite) :
    Kept z (BusWrite.system w s) := by
  unfold BusWrite.system
  repeat' first | with_reducible first | assumption | apply keptR_next | apply kept_after | apply keptR_execSoftResetRequest | apply kept_sets | apply keptR_execFaultAckEcc | apply keptR_execFabricVerify | apply keptR_execFabricLoad | apply keptR_execAdvanceSvn | apply keptR_execFabricBadCommand | apply keptR_execPwrCmdRun | apply keptR_execPwrCmdQuiet | apply keptR_execPwrCmdStandby | apply keptR_execPwrBadCommand | apply kept_flashCommand | apply keptR_execMemoryClrCnt | apply kept_foldl | apply kept_foldl_snd | apply kept_foldl_fst | apply kept_foldl_snd2 | apply kept_ite | apply keptR_ite | intro _ | extract_lets | with_reducible refine kept_some (by assumption) ?_ | dsimp -zeta only | split | dsimp -zeta +zetaDelta only

theorem kept_BusWrite_commands {z s : State} (h : Kept z s) (w : BusWrite) :
    Kept z (BusWrite.commands w s) := by
  unfold BusWrite.commands
  repeat' first | with_reducible first | assumption | apply keptR_next | apply kept_BusWrite_port | apply kept_sets | apply keptR_execStreamClrCnt | apply keptR_execIngestClrCnt | apply kept_BusWrite_folio | apply kept_BusWrite_tables | apply kept_BusWrite_ruling | apply kept_BusWrite_audio | apply kept_BusWrite_cellar | apply kept_BusWrite_strong | apply kept_BusWrite_blotter | apply kept_BusWrite_hostif | apply kept_BusWrite_system | apply kept_foldl | apply kept_foldl_snd | apply kept_foldl_fst | apply kept_foldl_snd2 | apply kept_ite | apply keptR_ite | intro _ | extract_lets | with_reducible refine kept_some (by assumption) ?_ | dsimp -zeta only | split | dsimp -zeta +zetaDelta only

theorem kept_busAct {z s : State} (h : Kept z s) (who : Master) (mo : Moment) (a : Nat) (v : BitVec 32) (m : BitVec 32) :
    Kept z (State.busAct s who mo a v m) := by
  unfold State.busAct
  repeat' first | with_reducible first | assumption | apply kept_writeWord | apply kept_BusWrite_commands | apply kept_foldl | apply kept_foldl_snd | apply kept_foldl_fst | apply kept_foldl_snd2 | apply kept_ite | intro _ | extract_lets | with_reducible refine kept_some (by assumption) ?_ | dsimp -zeta only | split | dsimp -zeta +zetaDelta only

theorem kept_traced {z s : State} (h : Kept z s) (t : TraceEntry) :
    Kept z (State.traced s t) := by
  unfold State.traced
  repeat' first | with_reducible first | assumption | apply kept_bump | apply kept_pushTrace | apply kept_foldl | apply kept_foldl_snd | apply kept_foldl_fst | apply kept_foldl_snd2 | apply kept_ite | intro _ | extract_lets | with_reducible refine kept_some (by assumption) ?_ | dsimp -zeta only | split | dsimp -zeta +zetaDelta only

theorem kept_busWrite {z s : State} (h : Kept z s) (who : Master) (mo : Moment) (a : Nat) (v : BitVec 32) (m : BitVec 32) :
    Kept z (State.busWrite s who mo a v m) := by
  unfold State.busWrite
  repeat' first | with_reducible first | assumption | apply keptR_next | apply kept_bump | apply kept_busAct | apply kept_sets | apply keptR_execPortClrCnt | apply kept_foldl | apply kept_foldl_snd | apply kept_foldl_fst | apply kept_foldl_snd2 | apply kept_ite | apply keptR_ite | intro _ | extract_lets | with_reducible refine kept_some (by assumption) ?_ | dsimp -zeta only | split | dsimp -zeta +zetaDelta only

theorem keptR_execBar0Request {z s : State} (h : Kept z s) (write : Bool) (addr : BitVec 22) (len : Nat) (data : List (BitVec 8)) (at' : Moment) :
    KeptR z (execBar0Request write addr len data at' s) := by
  unfold execBar0Request
  repeat' first | with_reducible first | assumption | apply keptR_next | apply kept_emit | apply kept_traced | apply kept_each | apply kept_busWrite | apply kept_busRead | apply kept_foldl | apply kept_foldl_snd | apply kept_foldl_fst | apply kept_foldl_snd2 | apply kept_ite | apply keptR_ite | intro _ | extract_lets | with_reducible refine kept_snd (by assumption) ?_ | with_reducible refine kept_snd2 (by assumption) ?_ | with_reducible refine kept_snd3 (by assumption) ?_ | with_reducible refine kept_some (by assumption) ?_ | dsimp -zeta only | split | dsimp -zeta +zetaDelta only

theorem kept_icxWrite {z s : State} (h : Kept z s) (m : Master) (mo : Moment) (t : IcxTarget) (o : Nat) (v : BitVec 32) :
    Kept z (State.icxWrite s m mo t o v) := by
  unfold State.icxWrite
  repeat' first | with_reducible first | assumption | apply kept_each | apply kept_setSram | apply kept_busWrite | apply kept_foldl | apply kept_foldl_snd | apply kept_foldl_fst | apply kept_foldl_snd2 | apply kept_ite | intro _ | extract_lets | with_reducible refine kept_some (by assumption) ?_ | dsimp -zeta only | split | dsimp -zeta +zetaDelta only

theorem keptR_execEventCounterWrite {z s : State} (h : Kept z s) (addr : BitVec 22) (value : BitVec 32) (be : BitVec 4) :
    KeptR z (execEventCounterWrite addr value be s) := by
  unfold execEventCounterWrite
  repeat' first | with_reducible first | assumption | apply keptR_next | apply kept_regWrite | apply kept_foldl | apply kept_foldl_snd | apply kept_foldl_fst | apply kept_foldl_snd2 | apply kept_ite | apply keptR_ite | intro _ | extract_lets | with_reducible refine kept_some (by assumption) ?_ | dsimp -zeta only | split | dsimp -zeta +zetaDelta only

theorem kept_icxRead {z s : State} (h : Kept z s) (m : Master) (t : IcxTarget) (o : Nat) :
    Kept z (State.icxRead s m t o).2 := by
  unfold State.icxRead
  repeat' first | with_reducible first | assumption | apply kept_busRead | apply kept_foldl | apply kept_foldl_snd | apply kept_foldl_fst | apply kept_foldl_snd2 | apply kept_ite | intro _ | extract_lets | with_reducible refine kept_snd (by assumption) ?_ | with_reducible refine kept_snd2 (by assumption) ?_ | with_reducible refine kept_snd3 (by assumption) ?_ | with_reducible refine kept_some (by assumption) ?_ | dsimp -zeta only | split | dsimp -zeta +zetaDelta only

theorem kept_icxBeats {z s : State} (h : Kept z s) (m : Master) (write : Bool) (t : IcxTarget) (o : Nat) (beats : Nat) (data : List (BitVec 32)) (mo : Moment) :
    Kept z (State.icxBeats s m write t o beats data mo).2 := by
  unfold State.icxBeats
  repeat' first | with_reducible first | assumption | apply kept_icxWrite | apply kept_icxRead | apply kept_foldl | apply kept_foldl_snd | apply kept_foldl_fst | apply kept_foldl_snd2 | apply kept_ite | intro _ | extract_lets | with_reducible refine kept_snd (by assumption) ?_ | with_reducible refine kept_snd2 (by assumption) ?_ | with_reducible refine kept_snd3 (by assumption) ?_ | with_reducible refine kept_some (by assumption) ?_ | dsimp -zeta only | split | dsimp -zeta +zetaDelta only

theorem keptR_execIcxTransaction {z s : State} (h : Kept z s) (master : Master) (write : Bool) (addr : BitVec 32) (beats : Fin 17) (data : List (BitVec 32)) (at' : Moment) :
    KeptR z (execIcxTransaction master write addr beats data at' s) := by
  unfold execIcxTransaction
  repeat' first | with_reducible first | assumption | apply keptR_next | apply kept_traced | apply kept_icxAnswerError | apply kept_icxError | apply kept_emit | apply kept_icxBeats | apply kept_foldl | apply kept_foldl_snd | apply kept_foldl_fst | apply kept_foldl_snd2 | apply kept_ite | apply keptR_ite | intro _ | extract_lets | with_reducible refine kept_snd (by assumption) ?_ | with_reducible refine kept_snd2 (by assumption) ?_ | with_reducible refine kept_snd3 (by assumption) ?_ | with_reducible refine kept_some (by assumption) ?_ | dsimp -zeta only | split | dsimp -zeta +zetaDelta only

theorem keptR_execReadPop {z s : State} (h : Kept z s) (addr : BitVec 22) :
    KeptR z (execReadPop addr s) := by
  unfold execReadPop
  repeat' first | with_reducible first | assumption | apply keptR_next | apply kept_emit | apply kept_busRead | apply kept_foldl | apply kept_foldl_snd | apply kept_foldl_fst | apply kept_foldl_snd2 | apply kept_ite | apply keptR_ite | intro _ | extract_lets | with_reducible refine kept_snd (by assumption) ?_ | with_reducible refine kept_snd2 (by assumption) ?_ | with_reducible refine kept_snd3 (by assumption) ?_ | with_reducible refine kept_some (by assumption) ?_ | dsimp -zeta only | split | dsimp -zeta +zetaDelta only

theorem keptR_execRegisterWrite {z s : State} (h : Kept z s) (addr : BitVec 22) (value : BitVec 32) (be : BitVec 4) :
    KeptR z (execRegisterWrite addr value be s) := by
  unfold execRegisterWrite
  repeat' first | with_reducible first | assumption | apply keptR_next | apply kept_regWrite | apply kept_foldl | apply kept_foldl_snd | apply kept_foldl_fst | apply kept_foldl_snd2 | apply kept_ite | apply keptR_ite | intro _ | extract_lets | with_reducible refine kept_some (by assumption) ?_ | dsimp -zeta only | split | dsimp -zeta +zetaDelta only

theorem keptR_execDmaRegWrite {z s : State} (h : Kept z s) (chan : Fin 4) (dst : BitVec 64) (value : BitVec 32) (flags : BitVec 8) (ok : Bool) (at' : Moment) :
    KeptR z (execDmaRegWrite chan dst value flags ok at' s) := by
  unfold execDmaRegWrite
  repeat' first | with_reducible first | assumption | apply keptR_next | apply kept_descriptor | apply kept_descFails | apply kept_traced | apply kept_descDone | apply kept_busWrite | apply kept_foldl | apply kept_foldl_snd | apply kept_foldl_fst | apply kept_foldl_snd2 | apply kept_ite | apply keptR_ite | intro _ | extract_lets | with_reducible refine kept_some (by assumption) ?_ | dsimp -zeta only | split | dsimp -zeta +zetaDelta only

theorem kept_dbgGo {z s : State} (h : Kept z s) (r : BitVec 68) (mo : Moment) :
    Kept z (State.dbgGo s r mo) := by
  unfold State.dbgGo
  repeat' first | with_reducible first | assumption | apply kept_modStrong | apply kept_icxError | apply kept_traced | apply kept_icxWrite | apply kept_icxRead | apply kept_foldl | apply kept_foldl_snd | apply kept_foldl_fst | apply kept_foldl_snd2 | exact fuses_refl _ | apply kept_ite | intro _ | extract_lets | with_reducible refine kept_snd (by assumption) ?_ | with_reducible refine kept_snd2 (by assumption) ?_ | with_reducible refine kept_snd3 (by assumption) ?_ | with_reducible refine kept_some (by assumption) ?_ | dsimp -zeta only | split | dsimp -zeta +zetaDelta only | exact fuses_refl _

theorem keptR_execDbgAccess {z s : State} (h : Kept z s) (shift : BitVec 68) (at' : Moment) :
    KeptR z (execDbgAccess shift at' s) := by
  unfold execDbgAccess
  repeat' first | with_reducible first | assumption | apply keptR_next | apply kept_emit | apply kept_modStrong | apply kept_setIr | apply kept_dbgGo | apply kept_foldl | apply kept_foldl_snd | apply kept_foldl_fst | apply kept_foldl_snd2 | exact fuses_refl _ | apply kept_ite | apply keptR_ite | intro _ | extract_lets | with_reducible refine kept_some (by assumption) ?_ | dsimp -zeta only | split | dsimp -zeta +zetaDelta only | exact fuses_refl _

end Sys2Proof.Machine
end

