-- ==== Sys2Proof/Laws/KeptLoad.lean ====
section
/-!
SUPPORT. The operations of Machine/Load.lean keep the relation of Laws/Kept.lean.
-/
namespace Sys2Proof.Machine
open Sys2Proof Safety

theorem kept_admitPort {z s : State} (h : Kept z s) (p : Nat) :
    Kept z (State.admitPort s p) := by
  unfold State.admitPort
  repeat' first | with_reducible first | assumption | apply kept_modMem | apply kept_foldl | apply kept_foldl_snd | apply kept_foldl_fst | apply kept_foldl_snd2 | exact id | apply kept_ite | intro _ | extract_lets | with_reducible refine kept_some (by assumption) ?_ | dsimp -zeta only | split | dsimp -zeta +zetaDelta only

theorem kept_takeFull {z s : State} (h : Kept z s) (im : LoadedImage) (source : Nat) :
    Kept z (State.takeFull s im source) := by
  unfold State.takeFull
  repeat' first | with_reducible first | assumption | apply kept_modFabric | apply kept_put | apply kept_wr | apply kept_putBytes | apply kept_showStructure | apply kept_placeStreams | apply kept_each | apply kept_admitPort | apply kept_extend | apply kept_setFault | apply kept_blotter | apply kept_foldl | apply kept_foldl_snd | apply kept_foldl_fst | apply kept_foldl_snd2 | apply kept_ite | intro _ | extract_lets | with_reducible refine kept_some (by assumption) ?_ | dsimp -zeta only | split | dsimp -zeta +zetaDelta only

theorem kept_initAct {z s : State} (h : Kept z s) (mo : Moment) (a : Nat) (v : BitVec 32) :
    Kept z (State.initAct s mo a v) := by
  unfold State.initAct
  repeat' first | with_reducible first | assumption | apply kept_applyFreq | apply kept_wr | apply kept_busAct | apply kept_foldl | apply kept_foldl_snd | apply kept_foldl_fst | apply kept_foldl_snd2 | apply kept_ite | intro _ | extract_lets | with_reducible refine kept_some (by assumption) ?_ | dsimp -zeta only | split | dsimp -zeta +zetaDelta only

theorem kept_initWrite {z s : State} (h : Kept z s) (scope : Option Nat) (replies : List (Nat × List (BitVec 17))) (a : Nat) (v : BitVec 32) :
    Kept z (State.initWrite s scope replies a v) := by
  unfold State.initWrite
  repeat' first | with_reducible first | assumption | apply kept_bump | apply kept_initAct | apply kept_foldl | apply kept_foldl_snd | apply kept_foldl_fst | apply kept_foldl_snd2 | apply kept_ite | intro _ | extract_lets | with_reducible refine kept_some (by assumption) ?_ | dsimp -zeta only | split | dsimp -zeta +zetaDelta only

theorem kept_initWrites {z s : State} (h : Kept z s) (scope : Option Nat) (im : LoadedImage) (replies : List (Nat × List (BitVec 17))) :
    Kept z (State.initWrites s scope im replies) := by
  unfold State.initWrites
  repeat' first | with_reducible first | assumption | apply kept_wr | apply kept_modFabric | apply kept_each | apply kept_initWrite | apply kept_foldl | apply kept_foldl_snd | apply kept_foldl_fst | apply kept_foldl_snd2 | apply kept_ite | intro _ | extract_lets | with_reducible refine kept_some (by assumption) ?_ | dsimp -zeta only | split | dsimp -zeta +zetaDelta only

theorem kept_quiesceUnits {z s : State} (h : Kept z s) (c : Nat) :
    Kept z (State.quiesceUnits s c) := by
  unfold State.quiesceUnits
  repeat' first | with_reducible first | assumption | apply kept_each | apply kept_portStops | apply kept_ingestStops | apply kept_quiesceAudio | apply kept_discardChange | apply kept_commitClear | apply kept_rasterStops | apply kept_dropQueued | apply kept_engineStops | apply kept_foldl | apply kept_foldl_snd | apply kept_foldl_fst | apply kept_foldl_snd2 | apply kept_ite | intro _ | extract_lets | with_reducible refine kept_some (by assumption) ?_ | dsimp -zeta only | split | dsimp -zeta +zetaDelta only

theorem kept_mixActive {z s : State} (h : Kept z s) :
    Kept z (State.mixActive s) := by
  unfold State.mixActive
  repeat' first | with_reducible first | assumption | apply kept_each | apply kept_wr | apply kept_foldl | apply kept_foldl_snd | apply kept_foldl_fst | apply kept_foldl_snd2 | apply kept_ite | intro _ | extract_lets | with_reducible refine kept_some (by assumption) ?_ | dsimp -zeta only | split | dsimp -zeta +zetaDelta only

theorem kept_stagedActive {z s : State} (h : Kept z s) (f : Nat) :
    Kept z (State.stagedActive s f) := by
  unfold State.stagedActive
  repeat' first | with_reducible first | assumption | apply kept_activate | apply kept_foldl | apply kept_foldl_snd | apply kept_foldl_fst | apply kept_foldl_snd2 | apply kept_ite | intro _ | extract_lets | with_reducible refine kept_some (by assumption) ?_ | dsimp -zeta only | split | dsimp -zeta +zetaDelta only

theorem kept_releaseUnits {z s : State} (h : Kept z s) (target : Nat) :
    Kept z (State.releaseUnits s target) := by
  unfold State.releaseUnits
  repeat' first | with_reducible first | assumption | apply kept_each | apply kept_sealStart | apply kept_mixActive | apply kept_stagedActive | apply kept_domainStarts | apply kept_showStops | apply kept_foldl | apply kept_foldl_snd | apply kept_foldl_fst | apply kept_foldl_snd2 | apply kept_ite | intro _ | extract_lets | with_reducible refine kept_some (by assumption) ?_ | dsimp -zeta only | split | dsimp -zeta +zetaDelta only

theorem kept_unitsReset {z s : State} (h : Kept z s) : Kept z s.unitsReset := by
  unfold State.unitsReset
  dsimp only
  refine kept_raiseIf ?_ _ _
  exact kept_of h rfl
    (fun i => { i with regs := Sparse.wf_filter _ _ _ i.regs, ports := rfl, streams := rfl, folios := rfl }) (fuses_refl _)

theorem keptR_execFullLoadApply {z s : State} (h : Kept z s) (replies : List (Nat × List (BitVec 17))) :
    KeptR z (execFullLoadApply replies s) := by
  unfold execFullLoadApply
  repeat' first | with_reducible first | assumption | apply keptR_next | apply kept_unitsReset | apply kept_modFabric | apply kept_takeFull | apply kept_initWrites | apply kept_setDomains | apply kept_fabricDone | apply kept_releaseUnits | apply kept_modBoot | apply kept_put | apply kept_foldl | apply kept_foldl_snd | apply kept_foldl_fst | apply kept_foldl_snd2 | apply kept_ite | apply keptR_ite | intro _ | extract_lets | with_reducible refine kept_some (by assumption) ?_ | dsimp -zeta only | split | dsimp -zeta +zetaDelta only

theorem keptR_execPartialRelease {z s : State} (h : Kept z s) :
    KeptR z (execPartialRelease s) := by
  unfold execPartialRelease
  repeat' first | with_reducible first | assumption | apply keptR_next | apply kept_modFabric | apply kept_put | apply kept_extend | apply kept_raise | apply kept_blotter | apply kept_each | apply kept_modFolio | apply kept_stagedActive | apply kept_domainStarts | apply kept_fabricDone | apply kept_foldl | apply kept_foldl_snd | apply kept_foldl_fst | apply kept_foldl_snd2 | apply kept_ite | apply keptR_ite | intro _ | extract_lets | with_reducible refine kept_some (by assumption) ?_ | dsimp -zeta only | split | dsimp -zeta +zetaDelta only

theorem kept_resetCluster {z s : State} (h : Kept z s) (c : Nat) :
    Kept z (State.resetCluster s c) := by
  unfold State.resetCluster
  repeat' first | with_reducible first | assumption | apply kept_each | apply kept_wr | apply kept_foldl | apply kept_foldl_snd | apply kept_foldl_fst | apply kept_foldl_snd2 | apply kept_ite | intro _ | extract_lets | with_reducible refine kept_some (by assumption) ?_ | dsimp -zeta only | split | dsimp -zeta +zetaDelta only

theorem keptR_execPartialQuiesce {z s : State} (h : Kept z s) (replies : List (Nat × List (BitVec 17))) :
    KeptR z (execPartialQuiesce replies s) := by
  unfold execPartialQuiesce
  repeat' first | with_reducible first | assumption | apply keptR_next | apply kept_quiesceUnits | apply kept_put | apply kept_raise | apply kept_modFabric | apply kept_resetCluster | apply kept_showStructure | apply kept_placeStreams | apply kept_admitPort | apply kept_setDomains | apply kept_initWrites | apply kept_foldl | apply kept_foldl_snd | apply kept_foldl_fst | apply kept_foldl_snd2 | apply kept_ite | apply keptR_ite | intro _ | extract_lets | with_reducible refine kept_some (by assumption) ?_ | dsimp -zeta only | split | dsimp -zeta +zetaDelta only

end Sys2Proof.Machine
end

