-- ==== Sys2Proof/Laws/KeptBoot.lean ====
section
/-!
SUPPORT. The operations of Machine/Boot.lean keep the relation of Laws/Kept.lean.
-/
namespace Sys2Proof.Machine
open Sys2Proof Safety

theorem kept_bootWith {z s : State} (h : Kept z s) (bs : List Byte) (source : Nat) (replies : List (Nat × List (BitVec 17))) :
    Kept z (State.bootWith s bs source replies) := by
  unfold State.bootWith
  repeat' first | with_reducible first | assumption | apply kept_takeFull | apply kept_initWrites | apply kept_setDomains | apply kept_modBoot | apply kept_put | apply kept_foldl | apply kept_foldl_snd | apply kept_foldl_fst | apply kept_foldl_snd2 | apply kept_ite | intro _ | extract_lets | with_reducible refine kept_some (by assumption) ?_ | dsimp -zeta only | split | dsimp -zeta +zetaDelta only

theorem kept_completeFuses {z s : State} (h : Kept z s) :
    Kept z (State.completeFuses s) := by
  unfold State.completeFuses
  repeat' first | with_reducible first | assumption | apply kept_modFuses | apply kept_put | apply kept_nextLifecycle | apply kept_foldl | apply kept_foldl_snd | apply kept_foldl_fst | apply kept_foldl_snd2 | exact fuses_refl _ | apply kept_ite | intro _ | extract_lets | with_reducible refine kept_some (by assumption) ?_ | dsimp -zeta only | split | dsimp -zeta +zetaDelta only | exact fuses_blow (by first | exact BitVec.and_self | exact and_or_self _ _ | exact thermoFill_grow _ _ | exact BitVec.and_allOnes) (by first | exact BitVec.and_self | exact and_or_self _ _ | exact thermoFill_grow _ _) (by first | exact BitVec.and_self | exact and_or_self _ _ | exact thermoFill_grow _ _) (by first | exact BitVec.and_self | exact and_or_self _ _ | exact thermoFill_grow _ _)

theorem kept_countLostRecords {z s : State} (h : Kept z s) :
    Kept z (State.countLostRecords s) := by
  unfold State.countLostRecords
  repeat' first | with_reducible first | assumption | apply kept_modBoot | apply kept_blotter | apply kept_bumpBy | apply kept_foldl | apply kept_foldl_snd | apply kept_foldl_fst | apply kept_foldl_snd2 | apply kept_ite | intro _ | extract_lets | with_reducible refine kept_some (by assumption) ?_ | dsimp -zeta only | split | dsimp -zeta +zetaDelta only

theorem kept_vbatRecovered {z s : State} (h : Kept z s) :
    Kept z (State.vbatRecovered s) := by
  unfold State.vbatRecovered
  repeat' first | with_reducible first | assumption | apply kept_saveGens | apply kept_modStrong | apply kept_foldl | apply kept_foldl_snd | apply kept_foldl_fst | apply kept_foldl_snd2 | exact fuses_refl _ | apply kept_ite | intro _ | extract_lets | with_reducible refine kept_some (by assumption) ?_ | dsimp -zeta only | split | dsimp -zeta +zetaDelta only | exact fuses_refl _

theorem kept_firmwareFails {z s : State} (h : Kept z s) :
    Kept z (State.firmwareFails s) := by
  unfold State.firmwareFails
  repeat' first | with_reducible first | assumption | apply kept_setFault | apply kept_put | apply kept_setDomains | apply kept_foldl | apply kept_foldl_snd | apply kept_foldl_fst | apply kept_foldl_snd2 | apply kept_ite | intro _ | extract_lets | with_reducible refine kept_some (by assumption) ?_ | dsimp -zeta only | split | dsimp -zeta +zetaDelta only

theorem kept_imageFails {z s : State} (h : Kept z s) (copy : Nat) (st : Nat) :
    Kept z (State.imageFails s copy st) := by
  unfold State.imageFails
  repeat' first | with_reducible first | assumption | apply kept_blotter | apply kept_foldl | apply kept_foldl_snd | apply kept_foldl_fst | apply kept_foldl_snd2 | apply kept_ite | intro _ | extract_lets | with_reducible refine kept_some (by assumption) ?_ | dsimp -zeta only | split | dsimp -zeta +zetaDelta only

theorem kept_loadSecondary {z s : State} (h : Kept z s) (replies : List (Nat × List (BitVec 17))) :
    Kept z (State.loadSecondary s replies) := by
  rw [State.loadSecondary]
  generalize s.bootImage 4 = a
  cases a with
  | ok bs => exact kept_bootWith h _ _ _
  | error st => exact kept_setFault (kept_put (kept_imageFails h _ _) _ _) _ _

theorem kept_loadBootImage {z s : State} (h : Kept z s) (replies : List (Nat × List (BitVec 17))) :
    Kept z (State.loadBootImage s replies) := by
  rw [State.loadBootImage]
  generalize s.bootImage 3 = a
  cases a with
  | ok bs => exact kept_bootWith h _ _ _
  | error st => exact kept_loadSecondary (kept_raise (kept_imageFails h _ _) _) _

theorem kept_copyNote {z s : State} (h : Kept z s) :
    Kept z (State.copyNote s) := by
  unfold State.copyNote
  repeat' first | with_reducible first | assumption | apply kept_putInt | apply kept_put | apply kept_blotter | apply kept_modPower | apply kept_raise | apply kept_foldl | apply kept_foldl_snd | apply kept_foldl_fst | apply kept_foldl_snd2 | apply kept_ite | intro _ | extract_lets | with_reducible refine kept_some (by assumption) ?_ | dsimp -zeta only | split | dsimp -zeta +zetaDelta only

theorem kept_reportFuses {z s : State} (h : Kept z s) :
    Kept z (State.reportFuses s) := by
  unfold State.reportFuses
  repeat' first | with_reducible first | assumption | apply kept_each | apply kept_blotter | apply kept_setFault | apply kept_foldl | apply kept_foldl_snd | apply kept_foldl_fst | apply kept_foldl_snd2 | apply kept_ite | intro _ | extract_lets | with_reducible refine kept_some (by assumption) ?_ | dsimp -zeta only | split | dsimp -zeta +zetaDelta only

theorem kept_completeList {z s : State} (h : Kept z s) :
    Kept z (State.completeList s) := by
  unfold State.completeList
  repeat' first | with_reducible first | assumption | apply kept_modStrong | apply kept_writeTag | apply kept_storePage | apply kept_foldl | apply kept_foldl_snd | apply kept_foldl_fst | apply kept_foldl_snd2 | exact fuses_refl _ | apply kept_ite | intro _ | extract_lets | with_reducible refine kept_some (by assumption) ?_ | dsimp -zeta only | split | dsimp -zeta +zetaDelta only | exact fuses_refl _

theorem kept_zaluBoots {z s : State} (h : Kept z s) (floor : Option (Nat × Nat)) (entropyOk : Bool) :
    Kept z (State.zaluBoots s floor entropyOk) := by
  unfold State.zaluBoots
  repeat' first | with_reducible first | assumption | apply kept_setFault | apply kept_put | apply kept_raiseIf | apply kept_countLostRecords | apply kept_bootAttic | apply kept_modBoot | apply kept_modStrong | apply kept_copyNote | apply kept_reportFuses | apply kept_readTamper | apply kept_completeList | apply kept_foldl | apply kept_foldl_snd | apply kept_foldl_fst | apply kept_foldl_snd2 | exact fuses_refl _ | apply kept_ite | intro _ | extract_lets | with_reducible refine kept_some (by assumption) ?_ | dsimp -zeta only | split | dsimp -zeta +zetaDelta only | exact fuses_refl _

theorem kept_zaluStarts {z s : State} (h : Kept z s) (copyB : Bool) (image : List Byte) (hash : List Byte) :
    Kept z (State.zaluStarts s copyB image hash) := by
  unfold State.zaluStarts
  repeat' first | with_reducible first | assumption | apply kept_extend | apply kept_put | apply kept_modStrong | apply kept_modBoot | apply kept_foldl | apply kept_foldl_snd | apply kept_foldl_fst | apply kept_foldl_snd2 | exact fuses_refl _ | apply kept_ite | intro _ | extract_lets | with_reducible refine kept_some (by assumption) ?_ | dsimp -zeta only | split | dsimp -zeta +zetaDelta only | exact fuses_refl _

theorem keptR_execColdBoot {z s : State} (h : Kept z s) (entropyOk : Bool) (replies : List (Nat × List (BitVec 17))) :
    KeptR z (execColdBoot entropyOk replies s) := by
  unfold execColdBoot
  repeat' first | with_reducible first | assumption | apply keptR_next | apply kept_modBoot | apply kept_wr | apply kept_clearTrace | apply kept_synthStarts | apply kept_completeFuses | apply kept_vbatRecovered | apply kept_setDomains | apply kept_firmwareFails | apply kept_loadBootImage | apply kept_zaluBoots | apply kept_zaluStarts | apply kept_foldl | apply kept_foldl_snd | apply kept_foldl_fst | apply kept_foldl_snd2 | apply kept_ite | apply keptR_ite | intro _ | extract_lets | with_reducible refine kept_some (by assumption) ?_ | dsimp -zeta only | split | dsimp -zeta +zetaDelta only

theorem keptR_execBootRelease {z s : State} (h : Kept z s) (ms : Nat) :
    KeptR z (execBootRelease ms s) := by
  unfold execBootRelease
  repeat' first | with_reducible first | assumption | apply keptR_next | apply kept_put | apply kept_modBoot | apply kept_releaseUnits | apply kept_foldl | apply kept_foldl_snd | apply kept_foldl_fst | apply kept_foldl_snd2 | apply kept_ite | apply keptR_ite | intro _ | extract_lets | with_reducible refine kept_some (by assumption) ?_ | dsimp -zeta only | split | dsimp -zeta +zetaDelta only

theorem keptR_execMemoryTrainingDone {z s : State} (h : Kept z s) (failed : List (Fin 32)) :
    KeptR z (execMemoryTrainingDone failed s) := by
  unfold execMemoryTrainingDone
  repeat' first | with_reducible first | assumption | apply keptR_next | apply kept_modMem | apply kept_memoryTrained | apply kept_trainFails | apply kept_setDomains | apply kept_memoryFails | apply kept_modBoot | apply kept_foldl | apply kept_foldl_snd | apply kept_foldl_fst | apply kept_foldl_snd2 | exact id | apply kept_ite | apply keptR_ite | intro _ | extract_lets | with_reducible refine kept_some (by assumption) ?_ | dsimp -zeta only | split | dsimp -zeta +zetaDelta only

end Sys2Proof.Machine
end

