-- ==== Sys2Proof/Laws/KeptPacket.lean ====
section
/-!
SUPPORT. The operations of Machine/Packet.lean keep the relation of Laws/Kept.lean.
-/
namespace Sys2Proof.Machine
open Sys2Proof Safety

theorem kept_badHeader {z s : State} (h : Kept z s) (n : Nat) :
    Kept z (State.badHeader s n) := by
  unfold State.badHeader
  repeat' first | with_reducible first | assumption | apply kept_modPort | apply kept_bump | apply kept_startRetrain | apply kept_foldl | apply kept_foldl_snd | apply kept_foldl_fst | apply kept_foldl_snd2 | apply kept_ite | intro _ | extract_lets | with_reducible refine kept_some (by assumption) ?_ | dsimp -zeta only | split | dsimp -zeta +zetaDelta only

theorem kept_queuePacket {z s : State} (h : Kept z s) (n : Nat) (k : Packet) :
    Kept z (State.queuePacket s n k) := by
  unfold State.queuePacket
  repeat' first | with_reducible first | assumption | apply kept_modPort | apply kept_foldl | apply kept_foldl_snd | apply kept_foldl_fst | apply kept_foldl_snd2 | apply kept_ite | intro _ | extract_lets | with_reducible refine kept_some (by assumption) ?_ | dsimp -zeta only | split | dsimp -zeta +zetaDelta only

theorem kept_routePacket {z s : State} (h : Kept z s) (n : Nat) (k : Packet) (discard : Bool) :
    Kept z (State.routePacket s n k discard) := by
  unfold State.routePacket
  repeat' first | with_reducible first | assumption | apply kept_bump | apply kept_queuePacket | apply kept_deliversPacket | apply kept_foldl | apply kept_foldl_snd | apply kept_foldl_fst | apply kept_foldl_snd2 | apply kept_ite | intro _ | extract_lets | with_reducible refine kept_snd (by assumption) ?_ | with_reducible refine kept_snd2 (by assumption) ?_ | with_reducible refine kept_snd3 (by assumption) ?_ | with_reducible refine kept_some (by assumption) ?_ | dsimp -zeta only | split | dsimp -zeta +zetaDelta only

theorem keptR_execPacketReceived {z s : State} (h : Kept z s) (port : Fin 96) (back : List (BitVec 8)) :
    KeptR z (execPacketReceived port back s) := by
  unfold execPacketReceived
  repeat' first | with_reducible first | assumption | apply keptR_next | apply kept_badHeader | apply kept_routePacket | apply kept_modPort | apply kept_bumpBy | apply kept_alignDone | apply kept_foldl | apply kept_foldl_snd | apply kept_foldl_fst | apply kept_foldl_snd2 | apply kept_ite | apply keptR_ite | intro _ | extract_lets | with_reducible refine kept_some (by assumption) ?_ | dsimp -zeta only | split | dsimp -zeta +zetaDelta only

theorem kept_rxMailbox {z s : State} (h : Kept z s) (n : Nat) (e : RxEntry) :
    Kept z (State.rxMailbox s n e) := by
  unfold State.rxMailbox
  repeat' first | with_reducible first | assumption | apply kept_raise | apply kept_bump | apply kept_modPort | apply kept_foldl | apply kept_foldl_snd | apply kept_foldl_fst | apply kept_foldl_snd2 | apply kept_ite | intro _ | extract_lets | with_reducible refine kept_some (by assumption) ?_ | dsimp -zeta only | split | dsimp -zeta +zetaDelta only

theorem kept_ctrlAnswered {z s : State} (h : Kept z s) (n : Nat) (r : CtrlReq) (nak : Bool) (reason : Nat) (data : List Byte) :
    Kept z (State.ctrlAnswered s n r nak reason data) := by
  unfold State.ctrlAnswered
  repeat' first | with_reducible first | assumption | apply kept_endRequest | apply kept_displayReply | apply kept_put | apply kept_putBytes | apply kept_rxMailbox | apply kept_ctrlComplete | apply kept_modPort | apply kept_linkUp | apply kept_foldl | apply kept_foldl_snd | apply kept_foldl_fst | apply kept_foldl_snd2 | apply kept_ite | intro _ | extract_lets | with_reducible refine kept_some (by assumption) ?_ | dsimp -zeta only | split | dsimp -zeta +zetaDelta only

theorem kept_ctrlRun {z s : State} (h : Kept z s) (n : Nat) (opcode : Nat) (kind : Nat) (vc : Nat) (data : List Byte) :
    Kept z (State.ctrlRun s n opcode kind vc data).2 := by
  unfold State.ctrlRun
  repeat' first | with_reducible first | assumption | apply kept_rxMailbox | apply kept_foldl | apply kept_foldl_snd | apply kept_foldl_fst | apply kept_foldl_snd2 | apply kept_ite | intro _ | extract_lets | with_reducible refine kept_some (by assumption) ?_ | dsimp -zeta only | split | dsimp -zeta +zetaDelta only

theorem keptR_execCtrlPacket {z s : State} (h : Kept z s) (port : Fin 96) :
    KeptR z (execCtrlPacket port s) := by
  unfold execCtrlPacket
  repeat' first | with_reducible first | assumption | apply keptR_next | apply kept_ctrlAnswered | apply kept_sendPacket | apply kept_modPort | apply kept_takePacket | apply kept_ctrlRun | apply kept_foldl | apply kept_foldl_snd | apply kept_foldl_fst | apply kept_foldl_snd2 | apply kept_ite | apply keptR_ite | intro _ | extract_lets | with_reducible refine kept_snd (by assumption) ?_ | with_reducible refine kept_snd2 (by assumption) ?_ | with_reducible refine kept_snd3 (by assumption) ?_ | with_reducible refine kept_some (by assumption) ?_ | dsimp -zeta only | split | dsimp -zeta +zetaDelta only

end Sys2Proof.Machine
end

