-- ==== Sys2Proof/Laws/KeptRaster.lean ====
section
/-!
SUPPORT. The operations of Machine/Raster.lean keep the relation of Laws/Kept.lean.
-/
namespace Sys2Proof.Machine
open Sys2Proof Safety

theorem keptR_execTimingCut {z s : State} (h : Kept z s) (folio : Fin 64) (periods : Nat) (index : Nat) :
    KeptR z (execTimingCut folio periods index s) := by
  unfold execTimingCut
  repeat' first | with_reducible first | assumption | apply keptR_next | apply kept_commitDone | apply kept_activate | apply kept_raise | apply kept_put | apply kept_modFolio | apply kept_settleTakes | apply kept_sdiStart | apply kept_setRaster | apply kept_beginLine | apply kept_setSpPeriods | apply kept_rasterWaits | apply kept_foldl | apply kept_foldl_snd | apply kept_foldl_fst | apply kept_foldl_snd2 | apply kept_ite | apply keptR_ite | intro _ | extract_lets | with_reducible refine kept_some (by assumption) ?_ | dsimp -zeta only | split | dsimp -zeta +zetaDelta only

theorem keptR_execAudioOutPacket {z s : State} (h : Kept z s) (port : Fin 96) :
    KeptR z (execAudioOutPacket port s) := by
  unfold execAudioOutPacket
  repeat' first | with_reducible first | assumption | apply keptR_next | apply kept_drawn | apply kept_sendPacket | apply kept_setNextSample | apply kept_foldl | apply kept_foldl_snd | apply kept_foldl_fst | apply kept_foldl_snd2 | apply kept_ite | apply keptR_ite | intro _ | extract_lets | with_reducible refine kept_some (by assumption) ?_ | dsimp -zeta only | split | dsimp -zeta +zetaDelta only

theorem keptR_execHoldEnter {z s : State} (h : Kept z s) (folio : Fin 64) :
    KeptR z (execHoldEnter folio s) := by
  unfold execHoldEnter
  repeat' first | with_reducible first | assumption | apply keptR_next | apply kept_stopFetching | apply kept_setRaster | apply kept_modFolio | apply kept_raise | apply kept_bump | apply kept_foldl | apply kept_foldl_snd | apply kept_foldl_fst | apply kept_foldl_snd2 | apply kept_ite | apply keptR_ite | intro _ | extract_lets | with_reducible refine kept_some (by assumption) ?_ | dsimp -zeta only | split | dsimp -zeta +zetaDelta only

theorem keptR_execTeMiss {z s : State} (h : Kept z s) (folio : Fin 64) :
    KeptR z (execTeMiss folio s) := by
  unfold execTeMiss
  repeat' first | with_reducible first | assumption | apply keptR_next | apply kept_modFolio | apply kept_bump | apply kept_raiseIf | apply kept_beginLine | apply kept_startFrame | apply kept_foldl | apply kept_foldl_snd | apply kept_foldl_fst | apply kept_foldl_snd2 | apply kept_ite | apply keptR_ite | intro _ | extract_lets | with_reducible refine kept_some (by assumption) ?_ | dsimp -zeta only | split | dsimp -zeta +zetaDelta only

theorem keptR_execTeReport {z s : State} (h : Kept z s) (port : Fin 96) (ns : Int) :
    KeptR z (execTeReport port ns s) := by
  unfold execTeReport
  repeat' first | with_reducible first | assumption | apply keptR_next | apply kept_modFolio | apply kept_put | apply kept_takePacket | apply kept_foldl | apply kept_foldl_snd | apply kept_foldl_fst | apply kept_foldl_snd2 | apply kept_ite | apply keptR_ite | intro _ | extract_lets | with_reducible refine kept_snd (by assumption) ?_ | with_reducible refine kept_snd2 (by assumption) ?_ | with_reducible refine kept_snd3 (by assumption) ?_ | with_reducible refine kept_some (by assumption) ?_ | dsimp -zeta only | split | dsimp -zeta +zetaDelta only

theorem keptR_execRasterStart {z s : State} (h : Kept z s) (folio : Fin 64) (periods : Nat) (index : Nat) :
    KeptR z (execRasterStart folio periods index s) := by
  unfold execRasterStart
  repeat' first | with_reducible first | assumption | apply keptR_next | apply kept_raise | apply kept_sdiStart | apply kept_modFolio | apply kept_put | apply kept_setRaster | apply kept_askMode | apply kept_setSpPeriods | apply kept_beginLine | apply kept_foldl | apply kept_foldl_snd | apply kept_foldl_fst | apply kept_foldl_snd2 | apply kept_ite | apply keptR_ite | intro _ | extract_lets | with_reducible refine kept_some (by assumption) ?_ | dsimp -zeta only | split | dsimp -zeta +zetaDelta only

theorem keptR_execOutputLine {z s : State} (h : Kept z s) (folio : Fin 64) (frac : BitVec 16) (late : Option Nat) (lateB : Option Nat) (margins : List (Nat × Int)) (room : Nat) :
    KeptR z (execOutputLine folio frac late lateB margins room s) := by
  unfold execOutputLine
  repeat' first | with_reducible first | assumption | apply keptR_next | apply kept_endFrame | apply kept_beginLine | apply kept_each | apply kept_sdiBlack | apply kept_foldl | apply kept_foldl_snd | apply kept_foldl_fst | apply kept_foldl_snd2 | apply kept_ite | apply keptR_ite | intro _ | extract_lets | with_reducible refine kept_some (by assumption) ?_ | dsimp -zeta only | split | dsimp -zeta +zetaDelta only

theorem keptR_execTeLine1Start {z s : State} (h : Kept z s) (folio : Fin 64) (readyNs : Int) :
    KeptR z (execTeLine1Start folio readyNs s) := by
  unfold execTeLine1Start
  repeat' first | with_reducible first | assumption | apply keptR_next | apply kept_bump | apply kept_startFrame | apply kept_modFolio | apply kept_beginLine | apply kept_foldl | apply kept_foldl_snd | apply kept_foldl_fst | apply kept_foldl_snd2 | apply kept_ite | apply keptR_ite | intro _ | extract_lets | with_reducible refine kept_some (by assumption) ?_ | dsimp -zeta only | split | dsimp -zeta +zetaDelta only

end Sys2Proof.Machine
end

