-- ==== Sys2Proof/Laws/KeptSecond.lean ====
section
/-!
SUPPORT. The operations of Machine/Second.lean keep the relation of Laws/Kept.lean.
-/
namespace Sys2Proof.Machine
open Sys2Proof Safety

theorem kept_lifeTicks {z s : State} (h : Kept z s) (n : Nat) :
    Kept z (State.lifeTicks s n) := by
  unfold State.lifeTicks
  repeat' first | with_reducible first | assumption | apply kept_modStrong | apply kept_put | apply kept_foldl | apply kept_foldl_snd | apply kept_foldl_fst | apply kept_foldl_snd2 | exact fuses_refl _ | apply kept_ite | intro _ | extract_lets | with_reducible refine kept_some (by assumption) ?_ | dsimp -zeta only | split | dsimp -zeta +zetaDelta only | exact fuses_refl _

theorem kept_portSeconds {z s : State} (h : Kept z s) : Kept z s.portSeconds :=
  kept_of h rfl (fun i => { i with ports := Sparse.wf_map _ _ _ (fun _ _ hv => by simpa using hv) _ i.ports }) (fuses_refl _)

theorem kept_histSample {z s : State} (h : Kept z s) (q : Nat) (v : Int) :
    Kept z (State.histSample s q v) := by
  unfold State.histSample
  repeat' first | with_reducible first | assumption | apply kept_setHist | apply kept_foldl | apply kept_foldl_snd | apply kept_foldl_fst | apply kept_foldl_snd2 | apply kept_ite | intro _ | extract_lets | with_reducible refine kept_some (by assumption) ?_ | dsimp -zeta only | split | dsimp -zeta +zetaDelta only

theorem kept_newSecond {z s : State} (h : Kept z s) :
    Kept z (State.newSecond s) := by
  unfold State.newSecond
  repeat' first | with_reducible first | assumption | apply kept_modMem | apply kept_modPower | apply kept_modBlot | apply kept_portSeconds | apply kept_foldl | apply kept_foldl_snd | apply kept_foldl_fst | apply kept_foldl_snd2 | exact id | apply kept_ite | intro _ | extract_lets | with_reducible refine kept_some (by assumption) ?_ | dsimp -zeta only | split | dsimp -zeta +zetaDelta only

theorem kept_loadRegs {z s : State} (h : Kept z s) :
    Kept z (State.loadRegs s) := by
  unfold State.loadRegs
  repeat' first | with_reducible first | assumption | apply kept_each | apply kept_put | apply kept_clearLoads | apply kept_foldl | apply kept_foldl_snd | apply kept_foldl_fst | apply kept_foldl_snd2 | apply kept_ite | intro _ | extract_lets | with_reducible refine kept_some (by assumption) ?_ | dsimp -zeta only | split | dsimp -zeta +zetaDelta only

theorem keptR_execHistogramSample {z s : State} (h : Kept z s) (lifeTicks : Nat) :
    KeptR z (execHistogramSample lifeTicks s) := by
  unfold execHistogramSample
  repeat' first | with_reducible first | assumption | apply keptR_next | apply kept_lifeTicks | apply kept_modBoot | apply kept_put | apply kept_each | apply kept_histSample | apply kept_newSecond | apply kept_loadRegs | apply kept_modPower | apply kept_foldl | apply kept_foldl_snd | apply kept_foldl_fst | apply kept_foldl_snd2 | apply kept_ite | apply keptR_ite | intro _ | extract_lets | with_reducible refine kept_some (by assumption) ?_ | dsimp -zeta only | split | dsimp -zeta +zetaDelta only

end Sys2Proof.Machine
end

