-- ==== Sys2Proof/Laws/KeptThermal.lean ====
section
/-!
SUPPORT. The operations of Machine/Thermal.lean keep the relation of Laws/Kept.lean.
-/
namespace Sys2Proof.Machine
open Sys2Proof Safety

theorem kept_setBandRun {z s : State} (h : Kept z s) (stack : Nat) (b : Nat) (x : Nat × Nat) :
    Kept z (State.setBandRun s stack b x) := by
  unfold State.setBandRun
  repeat' first | with_reducible first | assumption | apply kept_modMem | apply kept_foldl | apply kept_foldl_snd | apply kept_foldl_fst | apply kept_foldl_snd2 | exact id | apply kept_ite | intro _ | extract_lets | with_reducible refine kept_some (by assumption) ?_ | dsimp -zeta only | split | dsimp -zeta +zetaDelta only

theorem kept_stackBand {z s : State} (h : Kept z s) (stack : Nat) :
    Kept z (State.stackBand s stack) := by
  unfold State.stackBand
  repeat' first | with_reducible first | assumption | apply kept_each | apply kept_put | apply kept_setBandRun | apply kept_foldl | apply kept_foldl_snd | apply kept_foldl_fst | apply kept_foldl_snd2 | apply kept_ite | intro _ | extract_lets | with_reducible refine kept_some (by assumption) ?_ | dsimp -zeta only | split | dsimp -zeta +zetaDelta only

theorem kept_modSensor {z s : State} (h : Kept z s) (k : Nat) (f : SensorState → SensorState) :
    Kept z (State.modSensor s k f) := by
  unfold State.modSensor
  repeat' first | with_reducible first | assumption | apply kept_modPower | apply kept_foldl | apply kept_foldl_snd | apply kept_foldl_fst | apply kept_foldl_snd2 | apply kept_ite | intro _ | extract_lets | with_reducible refine kept_some (by assumption) ?_ | dsimp -zeta only | split | dsimp -zeta +zetaDelta only

theorem kept_sensorReturns {z s : State} (h : Kept z s) (k : Nat) :
    Kept z (State.sensorReturns s k) := by
  unfold State.sensorReturns
  repeat' first | with_reducible first | assumption | apply kept_modSensor | apply kept_put | apply kept_blotter | apply kept_raise | apply kept_foldl | apply kept_foldl_snd | apply kept_foldl_fst | apply kept_foldl_snd2 | apply kept_ite | intro _ | extract_lets | with_reducible refine kept_some (by assumption) ?_ | dsimp -zeta only | split | dsimp -zeta +zetaDelta only

theorem kept_sensorFails {z s : State} (h : Kept z s) (k : Nat) :
    Kept z (State.sensorFails s k) := by
  unfold State.sensorFails
  repeat' first | with_reducible first | assumption | apply kept_modSensor | apply kept_put | apply kept_raise | apply kept_foldl | apply kept_foldl_snd | apply kept_foldl_fst | apply kept_foldl_snd2 | apply kept_ite | intro _ | extract_lets | with_reducible refine kept_some (by assumption) ?_ | dsimp -zeta only | split | dsimp -zeta +zetaDelta only

theorem kept_judgeSample {z s : State} (h : Kept z s) (k : Nat) (good : Bool) (elapsedNs : Nat) :
    Kept z (State.judgeSample s k good elapsedNs) := by
  unfold State.judgeSample
  repeat' first | with_reducible first | assumption | apply kept_sensorReturns | apply kept_modSensor | apply kept_sensorFails | apply kept_foldl | apply kept_foldl_snd | apply kept_foldl_fst | apply kept_foldl_snd2 | apply kept_ite | intro _ | extract_lets | with_reducible refine kept_some (by assumption) ?_ | dsimp -zeta only | split | dsimp -zeta +zetaDelta only

theorem kept_setStep {z s : State} (h : Kept z s) (v : Nat) :
    Kept z (State.setStep s v) := by
  unfold State.setStep
  repeat' first | with_reducible first | assumption | apply kept_raise | apply kept_bump | apply kept_put | apply kept_modPower | apply kept_foldl | apply kept_foldl_snd | apply kept_foldl_fst | apply kept_foldl_snd2 | apply kept_ite | intro _ | extract_lets | with_reducible refine kept_some (by assumption) ?_ | dsimp -zeta only | split | dsimp -zeta +zetaDelta only

theorem kept_moveStep {z s : State} (h : Kept z s) :
    Kept z (State.moveStep s) := by
  unfold State.moveStep
  repeat' first | with_reducible first | assumption | apply kept_setStep | apply kept_foldl | apply kept_foldl_snd | apply kept_foldl_fst | apply kept_foldl_snd2 | apply kept_ite | intro _ | extract_lets | with_reducible refine kept_some (by assumption) ?_ | dsimp -zeta only | split | dsimp -zeta +zetaDelta only

theorem kept_setFloor {z s : State} (h : Kept z s) (v : Bool) :
    Kept z (State.setFloor s v) := by
  unfold State.setFloor
  repeat' first | with_reducible first | assumption | apply kept_raiseIf | apply kept_put | apply kept_foldl | apply kept_foldl_snd | apply kept_foldl_fst | apply kept_foldl_snd2 | apply kept_ite | intro _ | extract_lets | with_reducible refine kept_some (by assumption) ?_ | dsimp -zeta only | split | dsimp -zeta +zetaDelta only

theorem kept_setShed {z s : State} (h : Kept z s) (n : Nat) :
    Kept z (State.setShed s n) := by
  unfold State.setShed
  repeat' first | with_reducible first | assumption | apply kept_showStops | apply kept_put | apply kept_foldl | apply kept_foldl_snd | apply kept_foldl_fst | apply kept_foldl_snd2 | apply kept_ite | intro _ | extract_lets | with_reducible refine kept_some (by assumption) ?_ | dsimp -zeta only | split | dsimp -zeta +zetaDelta only

theorem kept_shedEvaluation {z s : State} (h : Kept z s) :
    Kept z (State.shedEvaluation s) := by
  unfold State.shedEvaluation
  repeat' first | with_reducible first | assumption | apply kept_setFloor | apply kept_setShed | apply kept_put | apply kept_putRat | apply kept_foldl | apply kept_foldl_snd | apply kept_foldl_fst | apply kept_foldl_snd2 | apply kept_ite | intro _ | extract_lets | with_reducible refine kept_some (by assumption) ?_ | dsimp -zeta only | split | dsimp -zeta +zetaDelta only

theorem keptR_execThrottleStep {z s : State} (h : Kept z s) :
    KeptR z (execThrottleStep s) := by
  unfold execThrottleStep
  repeat' first | with_reducible first | assumption | apply keptR_next | apply kept_moveStep | apply kept_shedEvaluation | apply kept_foldl | apply kept_foldl_snd | apply kept_foldl_fst | apply kept_foldl_snd2 | apply kept_ite | apply keptR_ite | intro _ | extract_lets | with_reducible refine kept_some (by assumption) ?_ | dsimp -zeta only | split | dsimp -zeta +zetaDelta only

theorem kept_thermalShutdown {z s : State} (h : Kept z s) :
    Kept z (State.thermalShutdown s) := by
  unfold State.thermalShutdown
  repeat' first | with_reducible first | assumption | apply kept_modPower | apply kept_setDomains | apply kept_foldl | apply kept_foldl_snd | apply kept_foldl_fst | apply kept_foldl_snd2 | apply kept_ite | intro _ | extract_lets | with_reducible refine kept_some (by assumption) ?_ | dsimp -zeta only | split | dsimp -zeta +zetaDelta only

theorem kept_showMax {z s : State} (h : Kept z s) :
    Kept z (State.showMax s) := by
  unfold State.showMax
  repeat' first | with_reducible first | assumption | apply kept_putInt | apply kept_put | apply kept_modPower | apply kept_foldl | apply kept_foldl_snd | apply kept_foldl_fst | apply kept_foldl_snd2 | apply kept_ite | intro _ | extract_lets | with_reducible refine kept_some (by assumption) ?_ | dsimp -zeta only | split | dsimp -zeta +zetaDelta only

theorem kept_formEstimate {z s : State} (h : Kept z s) :
    Kept z (State.formEstimate s) := by
  unfold State.formEstimate
  repeat' first | with_reducible first | assumption | apply kept_put | apply kept_putRat | apply kept_modPower | apply kept_foldl | apply kept_foldl_snd | apply kept_foldl_fst | apply kept_foldl_snd2 | apply kept_ite | intro _ | extract_lets | with_reducible refine kept_some (by assumption) ?_ | dsimp -zeta only | split | dsimp -zeta +zetaDelta only

theorem kept_setLevel {z s : State} (h : Kept z s) (v : Nat) :
    Kept z (State.setLevel s v) := by
  unfold State.setLevel
  repeat' first | with_reducible first | assumption | apply kept_put | apply kept_blotter | apply kept_foldl | apply kept_foldl_snd | apply kept_foldl_fst | apply kept_foldl_snd2 | apply kept_ite | intro _ | extract_lets | with_reducible refine kept_some (by assumption) ?_ | dsimp -zeta only | split | dsimp -zeta +zetaDelta only

theorem kept_enterThrottle {z s : State} (h : Kept z s) :
    Kept z (State.enterThrottle s) := by
  unfold State.enterThrottle
  repeat' first | with_reducible first | assumption | apply kept_raise | apply kept_modPower | apply kept_setStep | apply kept_setLevel | apply kept_foldl | apply kept_foldl_snd | apply kept_foldl_fst | apply kept_foldl_snd2 | apply kept_ite | intro _ | extract_lets | with_reducible refine kept_some (by assumption) ?_ | dsimp -zeta only | split | dsimp -zeta +zetaDelta only

theorem kept_levels {z s : State} (h : Kept z s) :
    Kept z (State.levels s) := by
  unfold State.levels
  repeat' first | with_reducible first | assumption | apply kept_modPower | apply kept_thermalShutdown | apply kept_raise | apply kept_setLevel | apply kept_enterThrottle | apply kept_foldl | apply kept_foldl_snd | apply kept_foldl_fst | apply kept_foldl_snd2 | apply kept_ite | intro _ | extract_lets | with_reducible refine kept_some (by assumption) ?_ | dsimp -zeta only | split | dsimp -zeta +zetaDelta only

theorem kept_learn {z s : State} (h : Kept z s) (k : Nat) (t : Int) (elapsedNs : Nat) :
    Kept z (State.learn s k t elapsedNs) := by
  unfold State.learn
  repeat' first | with_reducible first | assumption | apply kept_modSensor | apply kept_putRat | apply kept_foldl | apply kept_foldl_snd | apply kept_foldl_fst | apply kept_foldl_snd2 | apply kept_ite | intro _ | extract_lets | with_reducible refine kept_some (by assumption) ?_ | dsimp -zeta only | split | dsimp -zeta +zetaDelta only

theorem kept_bands {z s : State} (h : Kept z s) :
    Kept z (State.bands s) := by
  unfold State.bands
  repeat' first | with_reducible first | assumption | apply kept_stackBand | apply kept_showClasses | apply kept_raise | apply kept_put | apply kept_blotter | apply kept_foldl | apply kept_foldl_snd | apply kept_foldl_fst | apply kept_foldl_snd2 | apply kept_ite | intro _ | extract_lets | with_reducible refine kept_some (by assumption) ?_ | dsimp -zeta only | split | dsimp -zeta +zetaDelta only

theorem kept_showAdj {z s : State} (h : Kept z s) :
    Kept z (State.showAdj s) := by
  unfold State.showAdj
  repeat' first | with_reducible first | assumption | apply kept_setFault | apply kept_put | apply kept_raiseIf | apply kept_setStep | apply kept_foldl | apply kept_foldl_snd | apply kept_foldl_fst | apply kept_foldl_snd2 | apply kept_ite | intro _ | extract_lets | with_reducible refine kept_some (by assumption) ?_ | dsimp -zeta only | split | dsimp -zeta +zetaDelta only

theorem keptR_execSensorSample {z s : State} (h : Kept z s) (raws : List (Option (BitVec 16))) (elapsedNs : Nat) :
    KeptR z (execSensorSample raws elapsedNs s) := by
  unfold execSensorSample
  repeat' first | with_reducible first | assumption | apply keptR_next | apply kept_each | apply kept_put | apply kept_putInt | apply kept_judgeSample | apply kept_blotter | apply kept_learn | apply kept_modPower | apply kept_levels | apply kept_bands | apply kept_showAdj | apply kept_showMax | apply kept_foldl | apply kept_foldl_snd | apply kept_foldl_fst | apply kept_foldl_snd2 | apply kept_ite | apply keptR_ite | intro _ | extract_lets | with_reducible refine kept_some (by assumption) ?_ | dsimp -zeta only | split | dsimp -zeta +zetaDelta only

theorem kept_rescale {z s : State} (h : Kept z s) (g : Nat) :
    Kept z (State.rescale s g) := by
  unfold State.rescale
  repeat' first | with_reducible first | assumption | apply kept_put | apply kept_putRat | apply kept_modPower | apply kept_raise | apply kept_raiseIf | apply kept_blotter | apply kept_foldl | apply kept_foldl_snd | apply kept_foldl_fst | apply kept_foldl_snd2 | apply kept_ite | intro _ | extract_lets | with_reducible refine kept_some (by assumption) ?_ | dsimp -zeta only | split | dsimp -zeta +zetaDelta only

theorem keptR_execEstimateUpdate {z s : State} (h : Kept z s) (mw : List Nat) :
    KeptR z (execEstimateUpdate mw s) := by
  unfold execEstimateUpdate
  repeat' first | with_reducible first | assumption | apply keptR_next | apply kept_formEstimate | apply kept_modPower | apply kept_foldl | apply kept_foldl_snd | apply kept_foldl_fst | apply kept_foldl_snd2 | apply kept_ite | apply keptR_ite | intro _ | extract_lets | with_reducible refine kept_some (by assumption) ?_ | dsimp -zeta only | split | dsimp -zeta +zetaDelta only

theorem keptR_execStepHoldEnd {z s : State} (h : Kept z s) :
    KeptR z (execStepHoldEnd s) := by
  unfold execStepHoldEnd
  repeat' first | with_reducible first | assumption | apply keptR_next | apply kept_put | apply kept_foldl | apply kept_foldl_snd | apply kept_foldl_fst | apply kept_foldl_snd2 | apply kept_ite | apply keptR_ite | intro _ | extract_lets | with_reducible refine kept_some (by assumption) ?_ | dsimp -zeta only | split | dsimp -zeta +zetaDelta only

theorem keptR_execEstimateRescale {z s : State} (h : Kept z s) :
    KeptR z (execEstimateRescale s) := by
  unfold execEstimateRescale
  repeat' first | with_reducible first | assumption | apply keptR_next | apply kept_formEstimate | apply kept_each | apply kept_rescale | apply kept_foldl | apply kept_foldl_snd | apply kept_foldl_fst | apply kept_foldl_snd2 | apply kept_ite | apply keptR_ite | intro _ | extract_lets | with_reducible refine kept_some (by assumption) ?_ | dsimp -zeta only | split | dsimp -zeta +zetaDelta only

end Sys2Proof.Machine
end

