-- ==== Sys2Proof/Laws/Ruling.lean ====
section
/-!
SUPPORT. What the Ruling's shared transitions leave: the loop's state, the source in use, the residual, and the registers they do
not touch (01_ruling.md R41 to R46).
-/
namespace Sys2Proof.Machine
open Sys2Proof

/-- The registers that follow the loop's frequency. -/
def freqRegs : List Nat :=
  [Reg.ruling_FREQ_OFFSET, Reg.clock_N_INT 0, Reg.clock_FRAC 0, Reg.clock_N_INT 1, Reg.clock_FRAC 1]

/-- The loop's frequency goes to FREQ_OFFSET and the two dividers, and nowhere else. -/
theorem State.applyFreq_rd (s : State) (a : Nat) (h : a ∉ freqRegs) : s.applyFreq.rd a = s.rd a := by
  simp only [freqRegs, List.mem_cons, List.not_mem_nil, or_false, not_or] at h
  obtain ⟨h0, h1, h2, h3, h4⟩ := h
  simp only [State.applyFreq, State.each, List.foldl]
  rw [State.rd_put_ne _ _ _ (by exact h4), State.rd_put_ne _ _ _ (by exact h3), State.rd_put_ne _ _ _ (by exact h2),
    State.rd_put_ne _ _ _ (by exact h1), State.putInt, State.rd_put_ne _ _ _ (by exact h0)]

theorem State.applyFreq_get (s : State) (f : Fld) (h : f.addr ∉ freqRegs) : s.applyFreq.get f = s.get f := by
  simp [State.get, s.applyFreq_rd f.addr h]

theorem State.applyFreq_state (s : State) : s.applyFreq = { s with regs := s.applyFreq.regs } := rfl

@[simp] theorem State.applyFreq_ruling (s : State) : s.applyFreq.ruling = s.ruling := rfl

@[simp] theorem LoopState.ofCode_code (l : LoopState) : LoopState.ofCode l.code = l := by cases l <;> rfl

theorem LoopState.code_lt (l : LoopState) : l.code < 8 := by cases l <;> decide

@[simp] theorem State.loop_setLoop (s : State) (l : LoopState) : (s.setLoop l).loop = l := by
  rw [State.loop, State.setLoop, State.get_put_self _ _ _ (by decide)]
  cases l <;> rfl

@[simp] theorem State.loop_applyFreq (s : State) : s.applyFreq.loop = s.loop := by
  rw [State.loop, State.loop, State.applyFreq_get _ _ (by decide)]

theorem State.loop_put (s : State) (f : Fld) (v : Nat) (h : R.ruling_STATUS_STATE.Apart f) : (s.put f v).loop = s.loop := by
  rw [State.loop, State.loop, State.get_put_apart _ _ _ _ h]

theorem State.loop_raise (s : State) (f : Flg) (h1 : R.ruling_STATUS_STATE.Apart f.fld) (h2 : R.ruling_STATUS_STATE.Apart f.counter) :
    (s.raise f).loop = s.loop := by
  rw [State.loop, State.loop, State.get_raise_apart _ _ _ h1 h2]

theorem State.curSrc_put (s : State) (f : Fld) (v : Nat) (h : R.ruling_STATUS_CUR_SRC.Apart f) : (s.put f v).curSrc = s.curSrc :=
  s.get_put_apart _ _ _ h

/-- COAST holds no residual and counts its seconds from 0 (R43, R44). -/
theorem State.enterCoast_spec (s : State) (y : Rat) :
    (s.enterCoast y).loop = .coast ∧ (s.enterCoast y).get R.ruling_RESIDUAL = 0 ∧ (s.enterCoast y).get R.ruling_STATUS_COAST_S = 0 ∧
      (s.enterCoast y).ruling.residual = 0 := by
  refine ⟨?_, ?_, ?_, rfl⟩
  · simp only [State.enterCoast, State.loop_applyFreq]
    rw [State.loop_raise _ _ (by decide) (by decide), State.loop_put _ _ _ (by decide), State.loop_setLoop]
  · simp only [State.enterCoast]
    rw [State.applyFreq_get _ _ (by decide), State.get_raise_apart _ _ _ (by decide) (by decide), State.get_put_apart _ _ _ _ (by decide),
      State.setLoop, State.get_put_apart _ _ _ _ (by decide), State.setResidual, State.putInt, State.get_put_self _ _ _ (by decide)]
    rfl
  · simp only [State.enterCoast]
    rw [State.applyFreq_get _ _ (by decide), State.get_raise_apart _ _ _ (by decide) (by decide), State.get_put_self _ _ _ (by decide)]
    rfl

/-- ACQUIRE on a source (R33, R41): it is the source in use, and no residual is held. -/
theorem State.enterAcquire_spec (s : State) (c : Nat) :
    (s.enterAcquire c).loop = .acquire ∧ (s.enterAcquire c).curSrc = c % 4 ∧ (s.enterAcquire c).get R.ruling_RESIDUAL = 0 := by
  refine ⟨?_, ?_, ?_⟩
  · simp only [State.enterAcquire, State.loop_applyFreq, State.loop_setLoop]
  · simp only [State.enterAcquire, State.curSrc]
    rw [State.applyFreq_get _ _ (by decide), State.setLoop, State.get_put_apart _ _ _ _ (by decide), State.get_put_self _ _ _ (by decide)]
    rfl
  · simp only [State.enterAcquire]
    rw [State.applyFreq_get _ _ (by decide), State.setLoop, State.get_put_apart _ _ _ _ (by decide), State.get_put_apart _ _ _ _ (by decide),
      State.setResidual, State.putInt, State.get_put_self _ _ _ (by decide)]
    rfl

/-- FREE on the crystal (R32): nominal frequency, no residual. -/
theorem State.enterFree_spec (s : State) :
    s.enterFree.loop = .free ∧ s.enterFree.curSrc = 3 ∧ s.enterFree.get R.ruling_RESIDUAL = 0 ∧ s.enterFree.ruling.corr = 0 := by
  refine ⟨?_, ?_, ?_, rfl⟩
  · simp only [State.enterFree, State.loop_applyFreq]
    rw [State.loop_put _ _ _ (by decide), State.loop_setLoop]
  · simp only [State.enterFree, State.curSrc]
    rw [State.applyFreq_get _ _ (by decide), State.get_put_self _ _ _ (by decide)]
    rfl
  · simp only [State.enterFree]
    rw [State.applyFreq_get _ _ (by decide), State.get_put_apart _ _ _ _ (by decide), State.setLoop, State.get_put_apart _ _ _ _ (by decide),
      State.setResidual, State.putInt, State.get_put_self _ _ _ (by decide)]
    rfl

/-- A field of the status word that QUAL does not hold is left by a change of a source's qualification. -/
theorem State.setQualified_get (s : State) (c : Nat) (q : Bool) (f : Fld) (hc : c < 4) (h : f.addr ≠ Reg.ruling_STATUS ∨ f.hi < 22 ∨ 25 < f.lo) :
    (s.setQualified c q).get f = s.get f := by
  refine State.get_put_apart _ _ _ _ ?_
  rcases h with h | h | h
  · exact .inl h
  · exact .inr ⟨⟨Nat.le_refl _, by show 22 + c < 32; omega⟩, .inl (by show f.hi < 22 + c; omega)⟩
  · exact .inr ⟨⟨Nat.le_refl _, by show 22 + c < 32; omega⟩, .inr (by show 22 + c < f.lo; omega)⟩

/-- A bit of a register is a one-bit field. -/
theorem State.bit_eq (s : State) (a n : Nat) : (s.rd a).getLsbD n = (s.get ⟨a, n, n⟩ == 1) := by
  have h : (getBits (s.rd a) n n).testBit 0 = (s.rd a).getLsbD n := by rw [getBits_testBit]; simp
  have hl : getBits (s.rd a) n n < 2 := by
    have := getBits_lt (s.rd a) n n
    simpa using this
  show _ = (getBits (s.rd a) n n == 1)
  rw [← h]
  generalize getBits (s.rd a) n n = k at hl
  match k, hl with
  | 0, _ => rfl
  | 1, _ => rfl

theorem State.qualified_setQualified (s : State) (c : Nat) (q : Bool) (hc : c < 4) : (s.setQualified c q).qualified c = q := by
  rw [State.qualified, State.bit_eq, State.setQualified, State.get_put_self _ _ _ ⟨Nat.le_refl _, by show 22 + c < 32; omega⟩]
  cases q <;> simp

end Sys2Proof.Machine
end

