-- ==== Sys2Proof/WellFormed.lean ====
section
/-!
DEFINITION. Which commands are well formed: the operands whose size or range the spec fixes and a type does not.
-/
namespace Sys2Proof

/-- A port power bus transaction is tried at most twice (03_rasyn_link.md R122). -/
def Operand.tries (l : List (BitVec 17)) : Bool := decide (l.length ≤ 2)

/-- The ports of a list are among the 96. -/
def Operand.perPort (l : List (Nat × List (BitVec 17))) : Bool := l.all fun p => decide (p.1 < 96)

/-- An access moves at least a byte and lies within the 32 GiB (10_stream_memory.md R285). -/
def Operand.span (addr len : Nat) : Bool := decide (1 ≤ len) && decide (addr + len ≤ 2 ^ 35)

/-- A write carries its bytes. -/
def Operand.carries (write : Bool) (len : Nat) (data : List (BitVec 8)) : Bool := !write || decide (data.length = len)

/-- What an interrupted Attic write leaves lies within the array (15_attic_blotter.md R436, R440). -/
def Operand.leftBytes (l : List (Nat × BitVec 8 × Bool)) : Bool := l.all fun p => decide (p.1 < 2 ^ 20)

/-- The bounds the operands of a command keep. -/
def Instr.wf : Instr → Bool
  | .rulingLineStart periods => decide (periods.length ≤ 64)
  | .fabricVerify image => image.all fun b => decide (b.length ≤ 4194304)
  | .fabricLoad image => image.all fun b => decide (b.length ≤ 4194304)
  | .fullLoadApply replies => Operand.perPort replies
  | .partialQuiesce replies => Operand.perPort replies
  | .trainResult _ counts => decide (counts.length ≤ 8)
  | .linkStateTimeout _ replies => Operand.tries replies
  | .fecFrameReceived _ blocks => decide (blocks.length = 85)
  | .packetReceived _ back => decide (back.length ≤ 140)
  | .ppbPoll _ status current voltage => Operand.tries status && Operand.tries current && Operand.tries voltage
  | .ppbInt _ statuses => decide (statuses.length ≤ 16) && statuses.all Operand.tries
  | .pwrOnWrite _ _ replies => Operand.tries replies
  | .pwrCycle _ replies => Operand.tries replies
  | .pwrOffTimeExpiry _ replies => Operand.tries replies
  | .clearLockout _ replies => Operand.tries replies
  | .pwrLimitWrite _ _ replies => Operand.tries replies
  | .sdiDetectComplete _ _ _ _ lines _ _ => decide (lines < 4096)
  | .sdiLineReceived _ _ _ _ _ _ line samples _ audio => decide (line ≤ 2250) && decide (samples.length % 4 = 0) && audio.all fun a => decide (a.chan < 32)
  | .outputLine _ _ _ _ margins _ => margins.all fun m => decide (m.1 < 8)
  | .memoryAccess _ write _ addr len data _ _ _ _ => Operand.span addr.toNat len && Operand.carries write len data
  | .memoryTrainingDone failed => decide failed.Nodup
  | .driftSample windows => decide (windows.length = 32)
  | .bar2Access write offset len data _ => Operand.span offset len && Operand.carries write len data
  | .cellarInit _ _ _ _ _ _ _ copies _ _ => decide (copies.length ≤ 2)
  | .bar0Request write _ len data _ => Operand.carries write len data
  | .icxTransaction _ write _ beats data _ => decide (1 ≤ beats.val) && (!write || decide (data.length = beats.val))
  | .dbgToken token => decide (token.length = 328)
  | .resume failed _ _ => decide failed.Nodup
  | .mainPowerLoss left => Operand.leftBytes left
  | .pwrfail left => Operand.leftBytes left
  | .sensorSample raws _ => decide (raws.length = 28)
  | .estimateUpdate mw => decide (mw.length = 10)
  | .atticPageWriteDone _ bad _ => decide bad.Nodup
  | .powerOnReset _ _ left => Operand.leftBytes left
  | .pinReset left => Operand.leftBytes left
  | .watchdogExpiry _ left => Operand.leftBytes left
  | .resetDrainEnd left => Operand.leftBytes left
  | .coldBoot _ replies => Operand.perPort replies
  | .registerWrite .. | .eventCounterWrite .. | .readPop .. | .capture .. | .epochArm | .ppsEdge .. 
  | .refSyncEdge .. | .sourceLost .. | .switchTimeout | .revertTimeout .. | .srcPrioWrite .. | .manualSrcWrite .. 
  | .forceCoastWrite .. | .slewDone | .synOutCtrlWrite .. | .divChangeApply .. | .outDelayWrite .. | .outDelayStep .. 
  | .synUnlock .. | .evqPush .. | .evqCancel .. | .evqFlush .. | .evqBadCommand .. | .gpioPulseEnd .. 
  | .advanceSvn | .fabricBadCommand | .partialRelease | .linkEnableWrite .. | .linkRestart .. | .linkRetrainRequest .. 
  | .portClrCnt .. | .quarPolicyWrite .. | .linkSignalDetect .. | .detectReinit .. | .backChannelUp .. | .backChannelLost .. 
  | .backChannelLossTimeout .. | .discoverComplete .. | .identResponse .. | .identNoKey .. | .authTimeout .. | .faultHoldExpiry .. 
  | .videoLinePacket .. | .videoXsPacket .. | .audioPacket .. | .ancPacket .. | .metaPacket .. | .ctrlPacket .. 
  | .timeEcho .. | .hostCtrlSend .. | .ctrlRetryTimeout .. | .reauthTimer .. | .sdiCarrierUp .. | .sdiSearchTimer .. 
  | .sdiCdrLock .. | .sdiNoLockTimeout .. | .sdiLoss .. | .frameStart .. | .frameComplete .. | .lostTimeout .. 
  | .xsDecodeStart | .xsDecodeWaitTimeout .. | .codecJobDone .. | .motionFieldStart .. | .motionFieldDone .. | .streamClrCnt .. 
  | .ingestClrCnt .. | .frameFetchStart .. | .surfDescriptorWrite .. | .fenceWrite .. | .coeffTableWrite .. | .commitArm .. 
  | .commitDisarm .. | .commitRevert .. | .stageHoldWrite .. | .switchingPoint .. | .retireAdvance .. | .rasterStart .. 
  | .timingCut .. | .teReport .. | .teLine1Start .. | .teMiss .. | .holdEnter .. | .inMapWrite .. 
  | .outMapWrite .. | .audioMapApply | .srcStateTimeout .. | .bankCommit | .audioOutPacket .. | .meterUpdate 
  | .queryFetch | .classWindowEnd | .cl0MeterWindow .. | .scrubStep .. | .warmupEnd | .pdEnter .. 
  | .pdExit | .memoryClrCnt .. | .cellarEncodeStart | .encodeAbandon .. | .hostEncodeStart .. | .cellarEntryWrite .. 
  | .heartbeat | .heartbeatLapse | .uplinkPinLoss | .uplinkRestored | .incidentSet | .incidentClear 
  | .incidentHoldExpiry | .postSExpiry .. | .cellarAudioRecord .. | .cellarDriveWrite | .footerSignatureDone .. | .footerSignTimeout 
  | .cellarOverloadCheck | .superblockTimer | .cellarRetryTimer | .nvmeCompletion .. | .nvmeTimeout | .rootPortLinkDown 
  | .cellarFormat | .cellarReadSeg .. | .cellarRescan | .cellarBadCommand | .dirCursorWrite .. | .msixSignal .. 
  | .vectorHoldoffEnd .. | .vecEoiWrite .. | .dmaTailWrite .. | .dmaNop .. | .dmaH2s .. | .dmaS2h .. 
  | .dmaRegWrite .. | .dmaReset .. | .functionReset .. | .icxTimeout .. | .hostifClrCnt .. | .flashRead .. 
  | .flashProgram .. | .flashErase4k .. | .flashOpComplete | .flashTimeout | .smbState | .smbMaxTemp 
  | .smbAlarms .. | .smbPower | .smbId | .smbUnknownCommand | .pmbusPoll .. | .gpioInputChange .. 
  | .sealApply .. | .sealLoadSurface .. | .sealClear .. | .pairAdd .. | .pairRevoke .. | .pairRemove .. 
  | .pairRekey .. | .pairClear .. | .unprotect .. | .cellarFormatPermit .. | .reroot .. | .rotateRec .. 
  | .addOwnerKey .. | .revokeOwnerKey .. | .tamperCfg .. | .takeOwnership .. | .returnPart .. | .scrap .. 
  | .attest | .extend | .random | .derive | .generate | .invalidate 
  | .sign | .hmac | .pubkey | .strongroomBadCommand | .strongroomOpComplete | .tamperDetect .. 
  | .drbgHealthRetest .. | .tapExtest .. | .tapIdcode | .tapSamplePreload .. | .tapBypass .. | .dbgChallenge 
  | .dbgStatus | .dbgAccess .. | .dbgRelock .. | .tapReset | .debugSessionExpiry .. | .pwrCmdRun 
  | .pwrCmdQuiet | .pwrCmdStandby .. | .pwrBadCommand .. | .wakeTimer | .quietEntry .. | .quietExit .. 
  | .standbyEntryComplete | .pfRecover | .stepHoldEnd | .throttleStep | .estimateRescale | .atticRead .. 
  | .atticWrite .. | .atticWriteSealed .. | .atticMarginRead .. | .atticBufClear | .atticBadCommand | .atticBufWrite .. 
  | .atticBpLock | .refreshPass .. | .foldWindowExpiry .. | .blotterPersist | .histogramSample .. | .histogramCopy 
  | .opReserveAdvance | .snapStart | .calSetWrite .. | .clearSubmit .. | .softResetRequest .. | .bootRelease .. 
  | .faultAckEcc | .audioSample | .presetDwellExpiry .. | .vcoLockRegained .. | .lifeClockSave | .configurationRequest .. 
  | .msixVectorMaskWrite .. | .endpointLinkUp .. => true

end Sys2Proof
end

