-- ==== Sys2Proof/Tests/Slice0.lean ====
section
/-!
SUPPORT. The model's own tests: ill-formed operands that WellFormed refuses, small facts whose values the spec gives, and for every
statement with hypotheses states and operands that meet them.
-/
namespace Sys2Proof.Tests
open Sys2Proof Sys2Proof.Machine Safety

set_option maxRecDepth 100000
set_option Elab.async false

/-- What `Answers` asks, as a test. -/
def answers (s : State) (a : Nat) : Bool := !((s.clusterOfAddr a).any s.quiesced) && s.regLive a

theorem answers_spec (s : State) (a : Nat) (h : answers s a = true) : Answers s a := by
  rw [answers, Bool.and_eq_true, Bool.not_eq_true'] at h
  exact ⟨h.1, h.2⟩

/-- Fields set one after another. -/
def puts (s : State) (l : List (Fld × Nat)) : State := l.foldl (fun s p => s.put p.1 p.2) s

/-- Every domain powered, every port of the structure present with the modes given. -/
def up : State :=
  let s := (State.reset.wr Reg.power_DOM_ON_LO 0xFFFFFFFF).wr Reg.power_DOM_ON_HI 0x3FFFFFFF
  { s with fabric := { now := { ports := (List.range 96).map fun n => ⟨n, 0, 0, false, false, false, 0, 0⟩ } } }

/-- Port `n` with a MODE. -/
def portUp (n mode : Nat) : State := up.put (R.port_PORT_CFG_MODE n) mode

/-- Port `n` with a MODE and its link in a state. -/
def linkUp (n mode : Nat) (l : LinkState) : State := (portUp n mode).setLink n l

/-- The result block answers and holds a result. -/
def idle (s : State) (a : Nat) : Bool := answers s a && s.done a

/-- A signed FULL image with no unit. -/
def fullImage : List Byte := beBytes 776 0x4757464901000100080300000E000000000000000000000002000000000000000000000000000000000000000000000000000000000000000000000000000000000000000000000002C0427611DB8F723472C6B6A16AA9931C48E11EC2CF9D893234C9AA294F6CDFC7FCFB8C799F9DCB3CE114DD84DCFCA200000000000000000100100060010000000000000000000002002000600100000000000000000000030010006001000010000000554BBBEC040010007001000000000000000000000500200070010000000000000000000006001000700100000000000000000000070020007001000080000000477774D508001000F001000010000000554BBBEC090008000002000000000000000000000A0020000002000020000000AD550A190B0010002002000010000000554BBBEC0C0010003002000010000000150201950D0010004002000000000000000000000E000800400200000000000000000000000000000000000000000000000000000001000000000000000000000000000000000000000000000000000000000000010100000000000000000000000000000000000000000000000000000000000002010000000000000000000000000000000000000000000000000000000000000301000000000000000000000000000000000000000000000000000000000000000000000000000000000000000000000000000000000000000000000000000000000000000000000000000000000000000000000000000000000000000000005A5F6903000000000000000000000000FF010000043CAD174D8A7367BE70BCE8DA547617D9384EC25D25A3E51596C4EC9916078CCB0B155258AACA7ABCB6EBD5F2A5BE2E5ACAA15E466D298F2AB09EAC1145E73DFAEB12B97FEF4175A31D8481AE3A3D29BCD1604445E1C645E2409873F927263C0A000000D7008562112984371704AB1AB488A4E15D99DAE2E319D6B6CC428810E3EE98EE9C8048F944F141B40B0526E7FF2E98EDD7008562112984371704AB1AB488A4E15D99DAE2E319D6B6CC428810E3EE98EE9C8048F944F141B40B0526E7FF2E98ED

/-- The hash of its key. -/
def fullImageHash : List Byte := beBytes 48 0x01654CA34B08155805B530658C5350879D0E2EA22922DA653CD2ACA9C005576D2F2804EEB20469556B43624765C36B7F

/-- A signed PARTIAL image of port group 23. -/
def partialImage : List Byte := beBytes 552 0x4757464901000200280200000E0000000000800000000000000000000000000000000000000000000000000000000000000000000000000000000000000000000000000000000000F91C2A9866DB54B349B103569A3D229122994DAC26E29463009331DF029BBFF8B550AA9DBBE66BC46B5E2A76CA3AFB9100000000000000000100100060010000000000000000000002002000600100000000000000000000030010006001000000000000000000000400100060010000000000000000000005002000600100000000000000000000060010006001000000000000000000000700200060010000000000000000000008001000600100000000000000000000090008006001000000000000000000000A0020006001000000000000000000000B0010006001000000000000000000000C0010006001000000000000000000000D0010006001000000000000000000000E000800600100000000000000000000FF0100000458C9705E7F9BC74434674E5C62832EE2A653F913777427B736B99726C0F5BD11CB98BEBA4CB241955D54B4F65C04F5FC4B2BAAA6AFB37B723D85B8F56E0F6861E64B311AF902F8EEC21E0E57852FB2AEC2C62A33AF543343A0B173194EE522CD0000001E4D80E56EE79F3CCCB06E3FEBA1FBF0ED31EDAEF869D194F3C176E2B4B491A1308E004D0C86417A1A55BACE31A762CE1E4D80E56EE79F3CCCB06E3FEBA1FBF0ED31EDAEF869D194F3C176E2B4B491A1308E004D0C86417A1A55BACE31A762CE

/-- The hash of its key. -/
def partialImageHash : List Byte := beBytes 48 0xF0079DA33B716128F2950E6B7BDD229FEE1F5CE1963F405ECB32432D87331F06EAAD49912BA3309C196D8061295178BD

/-- PAIR_ADD of the hash 00h to 2Fh. Word 0 lies lowest. -/
def ownPairAdd : Nat := 0x508D322306A845E501B26082C9826F7DA92209CD5B3C63B15E0027D738BA146898E13580D3AAEE9BDB27C5B06F450BFF508D322306A845E501B26082C9826F7DA92209CD5B3C63B15E0027D738BA146898E13580D3AAEE9BDB27C5B06F450BFF000000530912BD6D8AFC16E2C06FDD3F5A5856C2C39E06E454E9AFF79C24F490559965A44549484E51297AF6B2FF32E438CDDF00E402F7934ECE26BF473FC99E70E0FEAB8B4352639D7E01CF4DB7DB9D0925A03E356A9CE7064206775C88B9DA6A042304000001000000000000000000000000000000000000000000000000000000000000000000000000000000000000000000000000012F2E2D2C2B2A292827262524232221201F1E1D1C1B1A191817161514131211100F0E0D0C0B0A0908070605040302010000000000FFEEDDCCBBAA998877665544332211000000000200000101434F5747

/-- The hash of its key. -/
def ownPairAddHash : List Byte := beBytes 48 0xD1B80469B01289835431674D4B89F08EE9954B64CDF87917612CAF05193A07DDA86C65BE856E57C26B34F8165E69703E

/-- PAIR_REVOKE of it. Word 0 lies lowest. -/
def ownPairRevoke : Nat := 0xCB119BA89AF953400B3C4AFC5242EEF30240507523F52C552F46DEC3A4182E6E3E7BF6C2669E392E4D05D81889CB4B29CB119BA89AF953400B3C4AFC5242EEF30240507523F52C552F46DEC3A4182E6E3E7BF6C2669E392E4D05D81889CB4B290000006782CF60761030AB56A8CCFA7AA73F884E8CA2F1F196ACE19FCBB3ABEA6C8F1F2A76144E6346349FF4F24E86C4F6F7FE8AD682ACE0EF9404C6078C1784A5A67C46DC047784BE5834504C1AF559D96A741F0F536DA9DCA0508BDD5C4A80A65C2D04000001000000000000000000000000000000000000000000000000000000000000000000000000000000000000000000000000002F2E2D2C2B2A292827262524232221201F1E1D1C1B1A191817161514131211100F0E0D0C0B0A0908070605040302010000000000FFEEDDCCBBAA998877665544332211000000000200000201434F5747

/-- The hash of its key. -/
def ownPairRevokeHash : List Byte := beBytes 48 0x1D4EE4B0A0FEEC41772977E9C584429AA2021A6EF519CC38EF054E7C48AE5A21C84A9BD83E2CDCCAEE7C3E0419429FE5

/-- PAIR_REMOVE of it. Word 0 lies lowest. -/
def ownPairRemove : Nat := 0xD54D71BC0C5EA6C340701A51150592101690C05159571137E4ED8C060C089C61853F0AA7806F70355BD67C2B63FF0CB4D54D71BC0C5EA6C340701A51150592101690C05159571137E4ED8C060C089C61853F0AA7806F70355BD67C2B63FF0CB4000000C68E9E290A2AD3126B5176EF5C37965B6FCF14CE94020091F2BD65014DD230DBAE87290412C2A932D7143170093BC9BB53EB3F8F699636654363EE04C4DCD4F9678238BEBE60B6FCC55BC9DFD5D1A4EAF17744CD5050BA755E7152EBA2FDE61304000001000000000000000000000000000000000000000000000000000000000000000000000000000000000000000000000000002F2E2D2C2B2A292827262524232221201F1E1D1C1B1A191817161514131211100F0E0D0C0B0A0908070605040302010000000000FFEEDDCCBBAA998877665544332211000000000400000301434F5747

/-- The hash of its key. -/
def ownPairRemoveHash : List Byte := beBytes 48 0xD80EAD22348D63A6414A412B675BC33473F79929B870EDB3FAD441FE2385D826A9B9D877D07CFEB5AB6A2436AE5C73E3

/-- PAIR_REKEY with that hash. Word 0 lies lowest. -/
def ownPairRekey : Nat := 0x050EEFBE647E7DF64BBCB466E5F3284C62F6160F057140FFC528638DF0886DC1EA9F7E9C02339549A44A008B841EAC4D050EEFBE647E7DF64BBCB466E5F3284C62F6160F057140FFC528638DF0886DC1EA9F7E9C02339549A44A008B841EAC4D000000665F3584F9288F9AD657BE5968EA097E77DDC828B753815D3BD17A5AA9C84A414C1CA910B4A9B46ABBA482FADFB1BC59A62AF3544A63CB6E04BB3CB509498A8E07A319148582702D4216CE1BDAB9F0F9E59752D979A0DBC4E85DD732709546BF04000001000000000000000000000000000000000000000000000000000000000000000000000000000000000000000000000000002F2E2D2C2B2A292827262524232221201F1E1D1C1B1A191817161514131211100F0E0D0C0B0A0908070605040302010000000000FFEEDDCCBBAA998877665544332211000000000100000401434F5747

/-- The hash of its key. -/
def ownPairRekeyHash : List Byte := beBytes 48 0x4CE815C43EB982E0AD1881675B7CB89C8A0B3153BA159CB8823F88312D1BE3002F02F6BE24827EDA8182DAA383CE97C4

/-- PAIR_CLEAR. Word 0 lies lowest. -/
def ownPairClear : Nat := 0x0442ABD3C8350FBC236F3C96AD457315F890ACFDCC9223E9D0437A5947855C643A1FEDE70E6330543BB43C2B924114290442ABD3C8350FBC236F3C96AD457315F890ACFDCC9223E9D0437A5947855C643A1FEDE70E6330543BB43C2B92411429000000DDA5F2A3B9D2A2B8CB95EF8ADAB69578A36F995067415CD3A72B9FD85F361EA356B5B66E6C7D7430C77BB04FDE37A0AF1DC2B1CF32E7A5A69B9784F7D2356DDF49E2809BB0E5FE27E5E426F38518572E1D15C3BD5742B3471DADDB0A814AFBF6040000010000000000000000000000000000000000000000000000000000000000000000000000000000000000000000000000000000000000000000000000000000000000000000000000000000000000000000000000000000000000000000000000000000000000FFEEDDCCBBAA998877665544332211000000000300000501434F5747

/-- The hash of its key. -/
def ownPairClearHash : List Byte := beBytes 48 0x1314F0DBD83F220FBBDE8DBAF50C1F6E1B8A6AA8252B20F90AF66628FAC0BED2C2CBCEC08CAEA9D88E849303791432BC

/-- UNPROTECT. Word 0 lies lowest. -/
def ownUnprotect : Nat := 0x717FA4B9CCA49019D9252B6BD29769C8D268AD11E92D60A52B584337A6355DDDB950E002E0DAFB2869CD6062F28F89C2717FA4B9CCA49019D9252B6BD29769C8D268AD11E92D60A52B584337A6355DDDB950E002E0DAFB2869CD6062F28F89C200000098BD531F25624FB7058E332063127210D7593CC58C1F85C3EF7BC123F9F288D7E5C1BDD7E580F5CC931358E1AF8BF2E82BD118894FCA5832B0F831A1C58CF1F1D8F1326FE2C3AF2DDF6D23D4197580334E29E97F5A3F6B462E59928B7BD99D1504000001000000000000000000000000000000000000000000000000000000000000000000000000000000000000000000000000000000000000000000000000000000000000000000000000000000000000000000FFFFFFFFFFFFFFFFFFFFFFFFFFFFFFFF00000000FFEEDDCCBBAA998877665544332211000000000400000601434F5747

/-- The hash of its key. -/
def ownUnprotectHash : List Byte := beBytes 48 0x7D2168CBEF1AAF222FAA19F1E40B1A89062E22C7AF48B2AF8ACAC43D478FBFB3CE465795352EB88A429573C34C4A9019

/-- CELLAR_FORMAT_PERMIT. Word 0 lies lowest. -/
def ownPermit : Nat := 0xF009225481CB213935BB51EF0FA04A3EAC5AABD78DD0F87E5335A8D7150EF71DB551432DDCECECE5BBCAE304A3B75DCFF009225481CB213935BB51EF0FA04A3EAC5AABD78DD0F87E5335A8D7150EF71DB551432DDCECECE5BBCAE304A3B75DCF000000D7B7FE658B1A8BB712608FB3F79998ADCB0D0E6982301A37CDD0E84B4CA578A3B4F0BE7E66296E446EC6B76838B2D35BFF308D4BF2C31D30D11492AE2EC631BAFC4680BBDDD86BB154192E0356457A1F6B76C3B8361DDA0107729D82A0D629EC040000010000000000000000000000000000000000000000000000000000000000000000000000000000000000000000000000000000000000000000000000000000000000000000000000000000000000000000000000000000000000000000000000000000000000FFEEDDCCBBAA998877665544332211000000000100000701434F5747

/-- The hash of its key. -/
def ownPermitHash : List Byte := beBytes 48 0xEFE2182BDF471BDE61EE278C8D5568CC3B4CD8FA9D6B9AAB752477C148F647B4DBDE70C4FD0EF957D3E24F3F590DC184

/-- REROOT. Word 0 lies lowest. -/
def ownReroot : Nat := 0x6E90E0AB752393FD1B787A90AA9F89AC25EEA4003D7356DD65BA10BDA6311C8BC9E9DBB2CFAA5E3863F309845DA5B05B6E90E0AB752393FD1B787A90AA9F89AC25EEA4003D7356DD65BA10BDA6311C8BC9E9DBB2CFAA5E3863F309845DA5B05B000000A276E3DE6005E35D6A76B678C79E15FA138943BD2E31D2BFFECEA1018DC337EEA8380B833FF2CC392D45C8F1DE33F71FF80470E0B4BFDE08DD360294936CD99762A9F50C36902118989AE4EC6FDBE4AAA049BEFC2E442BDA4D3D0A7353641C7C040000010000000000000000000000000000000000000000000000000000000000000000000000000000000000000000000000000000000000000000000000000000000000000000000000000000000000000000000000000000000000000000000000000000000000FFEEDDCCBBAA998877665544332211000000000200000801434F5747

/-- The hash of its key. -/
def ownRerootHash : List Byte := beBytes 48 0xD778DA16FE41996CFDD84AEE0A6DCFE88FAA933FF8F84F58BE7906AFABAA188698F2E0583CF36984AC0D0FBC4B94FFF5

/-- ROTATE_REC. Word 0 lies lowest. -/
def ownRotate : Nat := 0xF351EBF14D57855E5CE37B64844F1A58C7C5368E3F38BE805F145087A6E820A08DC901E88881D691DDF195255A599450F351EBF14D57855E5CE37B64844F1A58C7C5368E3F38BE805F145087A6E820A08DC901E88881D691DDF195255A5994500000009ACBCD6BABBC4E1C3FD83FC481184BB4ADD78FB43376FC2703228A2FC59D8A9DA0CC085B48A3E78E85F71B39A258A138FAFE257045C879BB2BDCD02A846C1C01109C1A6162760274D0174FB7E95DE0141275FE23C6AC57AC461E93B15FD17B2E040000010000000000000000000000000000000000000000000000000000000000000000000000000000000000000000000000000000000000000000000000000000000000000000000000000000000000000000000000000000000000000000000000000000000000FFEEDDCCBBAA998877665544332211000000000300000901434F5747

/-- The hash of its key. -/
def ownRotateHash : List Byte := beBytes 48 0xBED4880751C2D1ED52BBA08A482A3E8665923C10B4571787A55DFFD043C289AB201E370EADE4AF03633CC6DF4A76378B

/-- ADD_OWNER_KEY of the hash 00h to 2Fh. Word 0 lies lowest. -/
def ownAddKey : Nat := 0xB1D5C944074AC2468051DA8EBB32D349C1F2317F224D394AFE59F6403FFC30ECAFFCC78CD0D0FCA430F378B777578635B1D5C944074AC2468051DA8EBB32D349C1F2317F224D394AFE59F6403FFC30ECAFFCC78CD0D0FCA430F378B777578635000000FF94C3AD27099002D5C00051911D7FAFB53D11185BEE677F5F63C2AB5BC93177E16281E9A2354C248F8780B2E1AF64957785826E0C107E047C06FEE01904B538F78475B4FF5D94688A67D24252B17B070B182CD7159F9EC1BB91F706FB15C79F04000001000000000000000000000000000000000000000000000000000000000000000000000000000000000000000000000000002F2E2D2C2B2A292827262524232221201F1E1D1C1B1A191817161514131211100F0E0D0C0B0A0908070605040302010000000000FFEEDDCCBBAA998877665544332211000000000200000A01434F5747

/-- The hash of its key. -/
def ownAddKeyHash : List Byte := beBytes 48 0x9B4B376E97FF39885C524A0AA13CFEB934DA9D50666C37304C56BB287BDB99AEE8223641A6455B2F6F9A33F25710651A

/-- REVOKE_OWNER_KEY of slot 3. Word 0 lies lowest. -/
def ownRevokeKey : Nat := 0xB6767B2A775EBB5172C67089B701E52B948249D82AFEED859C0EF5F7877AA7E1C695E1EC8B5EB118F75072E486B56B7EB6767B2A775EBB5172C67089B701E52B948249D82AFEED859C0EF5F7877AA7E1C695E1EC8B5EB118F75072E486B56B7E000000A7D5266CFC4DFC3FD03932D8BA07A95A4FBFC27F99DB76657851F6D89B24E308F041607514E9210B3FB6727459646FA39E38072E939FE59C863538AD3035EAA308100BD5E32221B6C437AD5DB8A8BBB0A046FB40A6C60D2A850FFFC6D7AA97C0040000010000000000000000000000000000000000000000000000000000000000000000000000000000000000000000000000000000000000000000000000000000000000000000000000000000000000000000000000000000000000000000000000000300000000FFEEDDCCBBAA998877665544332211000000000400000B01434F5747

/-- The hash of its key. -/
def ownRevokeKeyHash : List Byte := beBytes 48 0x2AC0CF7BE66DA5DEA67BD3E3DFD15C3EA375045EECD8C98FA98023EDA264DBBA78F84D4626FBC6CDC54D7D3169DD120D

/-- TAMPER_CFG. Word 0 lies lowest. -/
def ownTamperCfg : Nat := 0x6B62AD7F1C924F3DCAABBC8F1AD85F108D2F9FB68543A115855F09FC370032854192A80C905EFB68500C18B2B510A73B6B62AD7F1C924F3DCAABBC8F1AD85F108D2F9FB68543A115855F09FC370032854192A80C905EFB68500C18B2B510A73B000000C037B4FC954D1549EDD211215B9388E4012AC58677524B3F71E5009E9A0EA5EA1B31FC45DA4D7C22E0543B5B4117F486D008E2EEC1E13945B60FABF3712428D55187381CEB5F5865EEF96B2F8E267EED4AA90AEC9360DCD32CAF8D618873884804000001000000000000000000000000000000000000000000000000000000000000000000000000000000000000000000000000000000000000000000000000000000000000000000000000000000000000000000000000000000000000000000FFFFFFFF00000000FFEEDDCCBBAA998877665544332211000000000100000C01434F5747

/-- The hash of its key. -/
def ownTamperCfgHash : List Byte := beBytes 48 0xF65C516383CD1414766C680B42C9387C7EAE65CA55192CBA6B1F575D1EE28255BFB5637A830A8168A709002C485D8977

/-- TAKE_OWNERSHIP. Word 0 lies lowest. -/
def ownTake : Nat := 0x0A9295CDC9B928E4D70FAB9CA9D74A07450EF12454B246C1354E377509F3017D9AC22D083A8AD522B37AAF16DB8DF0BD0A9295CDC9B928E4D70FAB9CA9D74A07450EF12454B246C1354E377509F3017D9AC22D083A8AD522B37AAF16DB8DF0BD000000370F259C79CBEBD87268D4FB6EBD852BB67F3D5924A1BBB0F2445C3028829385A321B30544BCE67479D423EC10F938B43226F6D9197E4CD3532E9D491406D9F109BD828BA5FDA311E87828B0F31383880AD90BA3545AE6FCA757F6D6090C9A8F04000001FF000000000000000000000000000000000000000000000000000000000000000000000000000000000000000000000000000000000000000227262524232221201F1E1D1C1B1A191817161514131211100F0E0D0C0B0A0908070605040302010000000000FFEEDDCCBBAA998877665544332211000000000100000D01434F5747

/-- The hash of its key. -/
def ownTakeHash : List Byte := beBytes 48 0xBA9B8F39DF5F50EBD7B21C0A1356EA6695A530728AA2306EC830FAFF19494852DDDDA6F0140445034A7A90DED565C3F1

/-- RETURN. Word 0 lies lowest. -/
def ownReturn : Nat := 0x2F97898DA40AAF991EAAF1C040F46028507A741A5A36DC9A3BFA19ED3CD52B42C51F69096DDED48F7813C8544459F0382F97898DA40AAF991EAAF1C040F46028507A741A5A36DC9A3BFA19ED3CD52B42C51F69096DDED48F7813C8544459F038000000E8BC3134EA056CCC127F1C119C9B860D3E138DAC06E3F7AC64061DCD90677CBCF37369BDAF79EAD56AE8AA14FFAA00BF9FEABBBBD67CA65164D1279ACB95D117840DDE58C4D4F522B840EECA032D7667DBEA6239A95C42505CAFC4FE2C10C01A040000010000000000000000000000000000000000000000000000000000000000000000000000000000000000000000000000000000000000000000000000000000000000000000000000000000000000000000000000000000000000000000000000000000000000FFEEDDCCBBAA998877665544332211000000000100000E01434F5747

/-- The hash of its key. -/
def ownReturnHash : List Byte := beBytes 48 0x0EF1C88E39F6D6A2DC349D1F16E70F724991B2AE5D54FEB98840F441D74BCE32D22C5B9C8BBEAD6250A470D98BF3FADB

/-- SCRAP. Word 0 lies lowest. -/
def ownScrap : Nat := 0x17A34528A450974FE6581D403A14999F6F3E704756ECE238247798B4964E47E9223D10072271BB97C21FB401524B6DBE17A34528A450974FE6581D403A14999F6F3E704756ECE238247798B4964E47E9223D10072271BB97C21FB401524B6DBE0000003F29AE86589333C55A9B7A313C2CB41315CB749E6290AAED8C890B6BC8479A9D50AC5F9C7DE4AE3731860BA4AD20EBDC161CE844BF783F2E32AA1FCD40D602C1C38CBAE00889145BDC005C9D4CEF2214D4CDAE4CBEE0A6A371EEF95DE95F4AD6040000010000000000000000000000000000000000000000000000000000000000000000000000000000000000000000000000000000000000000000000000000000000000000000000000000000000000000000000000000000000000000000000000000000000000FFEEDDCCBBAA998877665544332211000000000200000F01434F5747

/-- The hash of its key. -/
def ownScrapHash : List Byte := beBytes 48 0xDCF5A186FC105443B5C4DE5AD88D7ABB9B0051BBA24F4354A2CB18003FB380DECE8F3DFDA00AE1B87B96F0C2A93BB783

/-- A seal APPLY of Folio 63 with nothing to show. Word 0 lies lowest. -/
def sealApplyBlk : Nat := 0xC0E793D83FE5864EC404C99AE4328CB76502C4BFB3B956B65E49DAD8151FD33E02B958B3B65A518225C30C5B979392B0C0E793D83FE5864EC404C99AE4328CB76502C4BFB3B956B65E49DAD8151FD33E02B958B3B65A518225C30C5B979392B000000082F66D944C93F414346F06C3535103D6E864F597F06B295A0D39936AC3333E9521FC0F32E8F0CB26C9A86071741F1110D1B6F22A932F6A39F9B1C0D91CEA7AF0C745E6D2AAA37AEC609A6A36E6B481C6B9D45476DD42027BE3D37098FE02FB4C04000001000000000000000000000000000000000000000000000000000000000000000000000000000000000000000000000000000000000000000000000000000000000000000000FFFFFFFF00FF0000000000000000000000000000000000000000000000000000FFEEDDCCBBAA9988776655443322110000000002003F010143535747

/-- The hash of its key. -/
def sealApplyBlkHash : List Byte := beBytes 48 0xBE0F5CDA3F1577C3687675051F9183B1B1805B609E730A374649712BA9A29546601A92452B1EC7F49457D981ABAE489B

/-- A seal CLEAR of Folio 63. Word 0 lies lowest. -/
def sealClearBlk : Nat := 0x4BF2BD6F312E3817739E9CEBCF5700ACBC9A704D14A6197E403A29230BB944039F63592CAA55D7F095B6DBDB9EEE46314BF2BD6F312E3817739E9CEBCF5700ACBC9A704D14A6197E403A29230BB944039F63592CAA55D7F095B6DBDB9EEE4631000000743BA3214F22D7B126BD225D7DAAD7C77D2481BA4169415DC49D66D10D6B89333AE01054B28276C09A3F9A1B6D7B7B6C2DB5DBD1DF5636F272D3C45B837B4F24E089A753D12612C3CDA7F0BC8BFDE28E83C371596837DAA02B0E291549BECFBF040000010000000000000000000000000000000000000000000000000000000000000000000000000000000000000000000000000000000000000000000000000000000000000000000000000000000000000000000000000000000000000000000000000000000000FFEEDDCCBBAA9988776655443322110000000003003F030143535747

/-- The hash of its key. -/
def sealClearBlkHash : List Byte := beBytes 48 0x02CDBAB43D0E7E2759A532254D0D320DDDEC533DC0F8CD229A38F9DDC642C8185F604C32981543F28847DC26843BCEFB

/-- A LOAD_SURFACE of no bytes. Word 0 lies lowest. -/
def sealLoadBlk : Nat := 0x702F960DA4B87EB321C393DF044A099AEFA184944562F8ECE2C5F8B302B2CC0CC9C43B77AE09A5EFE7A59E9CAF747C5E702F960DA4B87EB321C393DF044A099AEFA184944562F8ECE2C5F8B302B2CC0CC9C43B77AE09A5EFE7A59E9CAF747C5E000000645F56C61B4EE7B62C732AD27372EE5071A391C205843556A3F7D780559B32B3E0381D4B61FD97B23768A1E8FBAD6FC99FF06705E9B698EBE379BD5130148F77F8B8096F2A2304245D8CF34AD6F32A02B7FB94EBC9F62C583B812520388B2E8B0400000100000000000000000000000000000000005BB99848F1D21AD5FB656FE7BFDE4E27DAE1F663BFC70C4C4307BE1411B7FD216AE3B1B17E32D94C3896AC51A760B038000000000000000000000000000000000000000000000000000000000000000000000000FFEEDDCCBBAA9988776655443322110000000001003F020143535747

/-- The hash of its key. -/
def sealLoadBlkHash : List Byte := beBytes 48 0x50B8A9ED1699519F0C4EB6529DFF8029DB4B77A2E47230BB5A312AF28698EADD23831D40E5DC93A80FB11D86EF910FC0

/-- A LOAD_SURFACE of no bytes from the boot flash. Word 0 lies lowest. -/
def sealFlashBlk : Nat := 0x78A3EA576A4E0E40D5DD1F541A28FF687BC45BD4E7AEAECB8F403610DE22A487B6D1AFA33118B029531788D80E2C28AB78A3EA576A4E0E40D5DD1F541A28FF687BC45BD4E7AEAECB8F403610DE22A487B6D1AFA33118B029531788D80E2C28AB0000009CF567AE11C47D5C7CEDC03402AB4F29109F4C1D0E6DC5D8B920F1B337249C5A8497904B04ADE548A9450F20D6779BA6D441AB7BD660796EAAD537BDC0F84D4BE3A8FFC4512C38A0B5D4F19FB8978C78EB2C8687F13C208E50BA362B3DC552D30400000100000000000000000000000000000000005BB99848F1D21AD5FB656FE7BFDE4E27DAE1F663BFC70C4C4307BE1411B7FD216AE3B1B17E32D94C3896AC51A760B038000000000000000000000000000000000000000100000000000000000000000000000000FFEEDDCCBBAA9988776655443322110000000001003F020143535747

/-- The hash of its key. -/
def sealFlashBlkHash : List Byte := beBytes 48 0xC41753BB99F86163CA3038E43AD6A337C58243FB807C5E785F650B291C5FE285CEE30E2210E4ED9AEE1A919C6B045B14

/-- A LOAD_SURFACE with another hash. Word 0 lies lowest. -/
def sealLoadBadBlk : Nat := 0xDC366E3382149347C4EF5996A870ED21D4F16944C83FE7CD7FEE0714430075E2362330F5654229F3C15AAE5274530FBCDC366E3382149347C4EF5996A870ED21D4F16944C83FE7CD7FEE0714430075E2362330F5654229F3C15AAE5274530FBC000000187B7EC73F16C9DE26BA3F00486F6129225EF3DFC9F7DE896C6A876BE5675BF0E7B5195810C36FEAC4A1EAD7F15528DB37DD97BF0035BD3E5949F2076139819A7EEF3182589C545A391A4AD8C9883D929D0887EBC51A689D36D04832BD843DA60400000100000000000000000000000000000000005BB99848F1D21AD5FB656FE7BFDE4E27DAE1F663BFC70C4C4307BE1411B7FD216AE3B1B17E32D94C3896AC51A760B039000000000000000000000000000000000000000000000000000000000000000000000000FFEEDDCCBBAA9988776655443322110000000002003F020143535747

/-- The hash of its key. -/
def sealLoadBadBlkHash : List Byte := beBytes 48 0x5D72EE8FFA22737DD5BC479231FA9B04DC9AE546094350FA628655CE24C3489758D977B5884A8BBB4AF3EEC95CF065C5

/-- A VIEW token of 86,400 s. -/
def viewToken : List Byte := beBytes 328 0x47574454010100000200000000112233445566778899AABBCCDDEEFF00000000000102030405060708090A0B0C0D0E0F101112131415161718191A1B1C1D1E1F202122232425262728292A2B2C2D2E2F805101000000000000000000000000000000000000000000000000000000000000000000000000000000000000000000FF0100000460BE7A2E094CC70F39E3F0A45DC65863DD7F1B654883C33ED9BBA2B38472EDF0051F27CA9505A582A202D44969BDA901DA8527C04E3BD75B3376C9169849540D562F0E58E02DB1BD52B3D884D7496A30D2BC9D282332D2E5C155AF33701EDC15000000C7EF04D01C4872DA86A88EDA6722F5906149F744DE0254F0DEC134831DE7051B9A9E2379E21563A6DB7CE94BEC3920A0C7EF04D01C4872DA86A88EDA6722F5906149F744DE0254F0DEC134831DE7051B9A9E2379E21563A6DB7CE94BEC3920A0

/-- The hash of its key. -/
def viewTokenHash : List Byte := beBytes 48 0x2E09ED896648171DBBB4811C7AD5C5D39C728FA16479E17593726FC10B4B6447C2A932B5ABABBEB43BF271F7AE8EA3C5

/-- A Blotter clear of both kinds. Word 0 lies lowest. -/
def clearBlk : Nat := 0x77291BC34A64808DCC6034AB36696F41D663B42AEAB2988E2A2D65B1A57612BF9D7EAB2888A12644ECFCF9995796B12377291BC34A64808DCC6034AB36696F41D663B42AEAB2988E2A2D65B1A57612BF9D7EAB2888A12644ECFCF9995796B12300000028EF397434950BD81904F696017B434E82742D7189A2EE70F463B35D0623F9FFF2836E3959A13610CDB0F82EE177EA0E5B7E345835B8AAA6CA07871DC0BF673F56D81E76AA555595DF9F3297840CAA11BD39B47223096C3EE7D86989766AA98404000001FF0000000000000000000000000000000000000000000000000000000000000000000000000000000000000000000000000000000000000000000000000000000000000000000000000000000000000000000000000000000000000000FFFFFFFF00000000FFEEDDCCBBAA99887766554433221100000000030000030143425747

/-- The hash of its key. -/
def clearBlkHash : List Byte := beBytes 48 0xEB6C264DE16F958C5A0426F99E088678CCD3CEE757C25CEE9055DE61DCE0C1636A0F77D2C540DA36902D7110A78B4DDE

/-- A device of LIFECYCLE count 1 (VENDOR) or 2 (OWNED) whose vendor key, or whose owner key 0, has the hash given. -/
def testUid : List Byte := beBytes 16 0x00112233445566778899AABBCCDDEEFF
def vendor (hash : List Byte) : State :=
  (up.put R.strongroom_DRBG_STATUS_OK 1).modStrong fun x => { x with rootCheck := true, root := List.replicate 48 1, fuses :=
    { x.fuses with lifecycle := 1, uid := ⟨testUid, crc32 testUid⟩, vendorHash := hashField hash } }
def owned (hash : List Byte) : State :=
  (vendor []).modFuses fun f => { f with lifecycle := 3, ownerProg := 1, ownerHash := [(0, hashField hash)] }

/-- A device with a command of 82 words in a buffer at `a`. -/
def commandedAt (a : Nat) (s : State) (n : Nat) : State :=
  let words := (List.range 82).map fun i => (a + 4 * i, BitVec.ofNat 32 (n >>> (32 * i)))
  { s with regs := (s.regs.filter fun p => decide (p.1 < a)) ++ (words.filter fun p => p.2 != 0) ++ s.regs.filter fun p => decide (a < p.1) }
def commanded (s : State) (n : Nat) : State := commandedAt (Reg.strongroom_CMD_BUF 0) s n

/-- The check an owner command passes, and the ones before it. -/
def ownerReady (s : State) (sub : Nat) : Bool :=
  let u := s.accept Reg.strongroom_RESULT
  answers s Reg.strongroom_RESULT && s.done Reg.strongroom_RESULT && u.ownerCheck (u.cmdBuf 82) sub == none

theorem usable_of (s : State) (n : Nat) (hv : (s.slot n).valid = true) (ht : (s.slot n).tag = s.tagOf (s.slot n))
    (hc : s.chainGood 32 (s.slot n) = true) (hr : (s.rootState != 1) = true) : s.usable n = true ∧ s.loadFailure n = none := by
  constructor
  · simp only [State.usable, hv, hc, hr, Bool.and_true, ht, beq_self_eq_true]
  · simp only [State.loadFailure, hv, hc, hr, ← ht, Bool.and_true, ne_eq, not_true_eq_false, if_false, if_true, Bool.true_eq_false]

/-- An Attic with an entry for the hash 00h to 2Fh at index 0 of the pairing list. -/
def listAttic : AtticState :=
  (up.storePage 4608 (pairBytesOf ((List.range 48).map (BitVec.ofNat 8)) 1 0 1 0)).attic

/-- The list's key. -/
def listKey : KeySlot := { valid := true, kind := 2, parent := 63, key := List.replicate 48 7 }

/-- An owned device with the list's key in slot 1, a pairing list with a good tag, and a command. -/
def listKeyed (a : AtticState) (hash : List Byte) : State :=
  { owned hash with
    strong := ((owned hash).fillSlot 1 listKey).strong
    attic := a }
def listed (a : AtticState) (hash : List Byte) (b : Nat) : State :=
  let s := (listKeyed a hash).writeTag ⟨1, (listKeyed a hash).tagFor 1⟩
  { s with regs := (commanded (owned hash) b).regs }

theorem listed_slot (a : AtticState) (hash : List Byte) (b : Nat) :
    ((listed a hash b).accept Reg.strongroom_RESULT).slot 1 = { listKey with tag := (owned hash).tagOf listKey } := by
  with_unfolding_all rfl

theorem listed_usable (a : AtticState) (hash : List Byte) (b : Nat) : let u := (listed a hash b).accept Reg.strongroom_RESULT
    u.usable 1 = true ∧ u.loadFailure 1 = none := by
  refine usable_of _ 1 ?_ ?_ ?_ ?_
  · rw [listed_slot]; rfl
  · rw [listed_slot]
    have h : ((listed a hash b).accept Reg.strongroom_RESULT).tagSecret = (owned hash).tagSecret := rfl
    simp only [State.tagOf, h]
    rfl
  · rw [listed_slot]; with_unfolding_all rfl
  · with_unfolding_all rfl

theorem listed_good (a : AtticState) (hash : List Byte) (b : Nat) : ((listed a hash b).accept Reg.strongroom_RESULT).listGood = true := by
  have h : ((listed a hash b).accept Reg.strongroom_RESULT).listTag = some ⟨1, (listKeyed a hash).tagFor 1⟩ := rfl
  have ht : (listKeyed a hash).tagFor 1 = ((listed a hash b).accept Reg.strongroom_RESULT).tagFor 1 := rfl
  rw [State.listGood, h]
  simp only [(listed_usable a hash b).1, ht, beq_self_eq_true, Bool.and_true]
  with_unfolding_all rfl

/-- The hash the pairing commands name. -/
def pairHash : List Byte := (List.range 48).map (BitVec.ofNat 8)

def found (s : State) : Bool :=
  let u := s.accept Reg.strongroom_RESULT
  u.pairFind (slice (u.cmdBuf 82) 32 48) == some 0

/-- An Attic whose pairing entry 0 is not valid; every other byte is FFh. -/
def oneFree : AtticState := { bytes := [(64 * 4608 + 50, ⟨0, .good, false⟩)] }

theorem oneFree_entry (hash : List Byte) (b : Nat) (i : Nat) :
    ((listed oneFree hash b).accept Reg.strongroom_RESULT).pairEntry i = (0xFF : Byte) ::
      (((listed oneFree hash b).accept Reg.strongroom_RESULT).pairEntry i).tail := by
  have h0 : ((listed oneFree hash b).accept Reg.strongroom_RESULT).attic.bytes = [(64 * 4608 + 50, ⟨0, .good, false⟩)] := rfl
  have h1 : (((listed oneFree hash b).accept Reg.strongroom_RESULT).atticAt (64 * (4608 + i) + 0)).val = 0xFF := by
    rw [State.atticAt, h0, Sparse.get, if_neg (by omega)]; rfl
  rw [State.pairEntry, State.atticPage, show List.range 64 = 0 :: (List.range 63).map (· + 1) from by decide, List.map_cons, h1,
    List.tail_cons]

theorem oneFree_find (hash : List Byte) (b : Nat) : ((listed oneFree hash b).accept Reg.strongroom_RESULT).pairFind pairHash = none := by
  rw [State.pairFind, List.find?_eq_none]
  intro i _
  rw [oneFree_entry]
  simp [slice, pairHash, List.range, List.range.loop]

theorem witness_OwnerCommands_pairing :
    (ownerReady (listed listAttic ownPairAddHash ownPairAdd) 1 = true ∧ found (listed listAttic ownPairAddHash ownPairAdd) = true) ∧
    ownerReady (listed oneFree ownPairAddHash ownPairAdd) 1 = true ∧ slice (((listed oneFree ownPairAddHash ownPairAdd).accept
      Reg.strongroom_RESULT).cmdBuf 82) 32 48 = pairHash ∧
    (List.range 2048).find? (fun i => !pairValid (((listed oneFree ownPairAddHash ownPairAdd).accept Reg.strongroom_RESULT).pairEntry i))
      = some 0 ∧
    (ownerReady (listed listAttic ownPairRevokeHash ownPairRevoke) 2 = true ∧ found (listed listAttic ownPairRevokeHash ownPairRevoke) = true) ∧
    (ownerReady (listed listAttic ownPairRemoveHash ownPairRemove) 3 = true ∧ found (listed listAttic ownPairRemoveHash ownPairRemove) = true) ∧
    ownerReady (listed listAttic ownPairRekeyHash ownPairRekey) 4 = true ∧
    ownerReady (listed listAttic ownPairClearHash ownPairClear) 5 = true := by decide +kernel

/-- An owned device with a command. -/
def given (hash : List Byte) (b : Nat) : State := commanded (owned hash) b

theorem witness_OwnerCommands_others :
    ownerReady (given ownUnprotectHash ownUnprotect) 6 = true ∧ ownerReady (given ownPermitHash ownPermit) 7 = true ∧
    (let s := given ownRerootHash ownReroot
     let u := (s.accept Reg.strongroom_RESULT).modStrong fun x => { x with tamperPins := 3 }
     ownerReady s 8 = true ∧ u.ownerCheck (u.cmdBuf 82) 8 = none ∧ u.tamperActive = false ∧ u.entropyOk = true) ∧
    (let s := given ownRotateHash ownRotate
     ownerReady s 9 = true ∧ (s.accept Reg.strongroom_RESULT).rootState = 0) ∧
    (let s := given ownAddKeyHash ownAddKey
     let u := s.accept Reg.strongroom_RESULT
     ownerReady s 0x0A = true ∧ u.ownerTarget (hashField (slice (u.cmdBuf 82) 32 48)) = some 1) ∧
    (let s := given ownRevokeKeyHash ownRevokeKey
     let u := s.accept Reg.strongroom_RESULT
     ownerReady s 0x0B = true ∧ leAt (u.cmdBuf 82) 32 1 ≤ 3 ∧ [0, 1, 2, 3].filter u.ownerSlot ≠ [leAt (u.cmdBuf 82) 32 1]) := by
  decide +kernel

theorem witness_OwnerCommands_lifecycle :
    ownerReady (given ownTamperCfgHash ownTamperCfg) 0x0C = true ∧
    (let s := commanded (vendor ownTakeHash) ownTake
     let u := s.accept Reg.strongroom_RESULT
     ownerReady s 0x0D = true ∧ u.entropyOk = true ∧ u.ownerTarget (hashField (slice (u.cmdBuf 82) 32 48)) = some 0) ∧
    ownerReady (given ownReturnHash ownReturn) 0x0E = true ∧ ownerReady (given ownScrapHash ownScrap) 0x0F = true ∧
    (let u := up.accept Reg.strongroom_RESULT
     answers up Reg.strongroom_RESULT = true ∧ up.done Reg.strongroom_RESULT = true ∧ u.ownerCheck (u.cmdBuf 82) 1 = some 3) := by
  decide +kernel

/-- A device with a seal area of Folio 63 and a command. -/
def sealGiven (hash : List Byte) (b : Nat) : State :=
  let s := given hash b
  { s with fabric := { s.fabric with now := { s.fabric.now with seals := [⟨63, 0, 16⟩] } } }

def sealReady (s : State) (op : Nat) : Bool :=
  let u := s.accept Reg.strongroom_RESULT
  answers s Reg.strongroom_RESULT && s.done Reg.strongroom_RESULT && u.sealCheck (u.cmdBuf 82) op == none

theorem witness_SealCommands :
    (sealReady (sealGiven sealApplyBlkHash sealApplyBlk) 1 = true ∧ sealApplyBlk >>> 40 % 256 = 1) ∧
    (sealReady (sealGiven sealClearBlkHash sealClearBlk) 3 = true ∧ sealClearBlk >>> 40 % 256 = 3) ∧
    (let u := up.accept Reg.strongroom_RESULT
     answers up Reg.strongroom_RESULT = true ∧ up.done Reg.strongroom_RESULT = true ∧ u.sealCheck (u.cmdBuf 82) 1 = some 2) ∧
    (let s := sealGiven sealFlashBlkHash sealFlashBlk
     let u := s.accept Reg.strongroom_RESULT
     sealReady s 2 = true ∧ u.sealRec 63 = some ⟨63, 0, 16⟩ ∧ leAt (u.cmdBuf 82) 44 1 = 1 ∧ leAt (u.cmdBuf 82) 56 4 = 0 ∧
       (u.loadSurface 63 ⟨63, 0, 16⟩ (u.cmdBuf 82) []).1 = true) ∧
    (let s := (sealGiven sealLoadBlkHash sealLoadBlk).put R.hostif_LINK_BME 1
     let u := s.accept Reg.strongroom_RESULT
     sealReady s 2 = true ∧ u.sealRec 63 = some ⟨63, 0, 16⟩ ∧ leAt (u.cmdBuf 82) 6 1 = 63 ∧ leAt (u.cmdBuf 82) 44 1 ≠ 1 ∧
       u.on R.hostif_LINK_BME = true ∧ ((sealGiven sealLoadBlkHash sealLoadBlk).accept Reg.strongroom_RESULT).on R.hostif_LINK_BME = false ∧
       (u.loadSurface 63 ⟨63, 0, 16⟩ (u.cmdBuf 82) []).1 = true) ∧
    (let s := sealGiven sealLoadBadBlkHash sealLoadBadBlk
     let u := s.accept Reg.strongroom_RESULT
     sealReady s 2 = true ∧ u.sealRec 63 = some ⟨63, 0, 16⟩ ∧ leAt (u.cmdBuf 82) 44 1 ≠ 1 ∧
       (u.put R.hostif_LINK_BME 1).on R.hostif_LINK_BME = true ∧ (u.loadSurface 63 ⟨63, 0, 16⟩ (u.cmdBuf 82) []).1 = false) := by
  decide +kernel

/-- A key of a kind, under the root. -/
def rootKey (kind : Nat) : KeySlot := { valid := true, kind := kind, parent := 63, key := List.replicate 48 7 }

/-- A vendor device with a key of a kind in a slot, and a command's arguments. -/
def keyed (n kind : Nat) (args : List (Fld × Nat)) : State :=
  let bank : SlotBank := { halves := [(2 * n, { rootKey kind with tag := (vendor []).tagOf (rootKey kind) })] }
  { vendor [] with regs := (puts (vendor []) args).regs, strong := { (vendor []).strong with bank := bank } }

theorem keyed_slot (n kind : Nat) (args : List (Fld × Nat)) : ((keyed n kind args).accept Reg.strongroom_RESULT).slot n =
    { rootKey kind with tag := (vendor []).tagOf (rootKey kind) } := by
  have h : ((keyed n kind args).accept Reg.strongroom_RESULT).slotBank =
    { halves := [(2 * n, { rootKey kind with tag := (vendor []).tagOf (rootKey kind) })] } := by with_unfolding_all rfl
  rw [State.slot, h]
  simp [SlotBank.slot, Sparse.get]

theorem keyed_load (n kind : Nat) (args : List (Fld × Nat)) :
    ((keyed n kind args).accept Reg.strongroom_RESULT).loadFailure n = none := by
  refine (usable_of _ n ?_ ?_ ?_ ?_).2
  · rw [keyed_slot]; rfl
  · rw [keyed_slot]
    have h : ((keyed n kind args).accept Reg.strongroom_RESULT).tagSecret = (vendor []).tagSecret := rfl
    simp only [State.tagOf, h]
    rfl
  · rw [keyed_slot]; with_unfolding_all rfl
  · with_unfolding_all rfl

/-- Arguments: slot, kind, parent, length. -/
def args (slot kind parent len : Nat) : List (Fld × Nat) :=
  [(R.strongroom_CMD_ARG_SLOT, slot), (R.strongroom_CMD_ARG_KIND, kind), (R.strongroom_CMD_ARG_PARENT, parent), (R.strongroom_CMD_ARG_LEN, len)]

theorem witness_StrongroomCommands_ends :
    ((1 : Nat) < 2 ^ 15 ∧ (List.replicate 832 (0 : Byte)).length ≤ 832) ∧ idle (vendor []) Reg.strongroom_RESULT = true ∧
    (let s := (vendor []).put ⟨Reg.strongroom_RESULT, 31, 31⟩ 0
     answers s Reg.strongroom_RESULT = true ∧ s.done Reg.strongroom_RESULT = false) ∧
    (let s := (vendor []).modStrong fun x => { x with engine := some ⟨.hmac, 63, [1], []⟩ }
     let u := s.modStrong fun x => { x with engine := none }
     s.strong.engine = some ⟨.hmac, 63, [1], []⟩ ∧ u.parentGens 63 = [0] ∧ u.rootState ≠ 1 ∧ (vendor []).strong.engine = none) := by
  decide +kernel

theorem load_of (n kind : Nat) (u : State) (hb : u.slot n = { rootKey kind with tag := (vendor []).tagOf (rootKey kind) })
    (hs : u.tagSecret = (vendor []).tagSecret) (hc : u.chainGood 32 { rootKey kind with tag := (vendor []).tagOf (rootKey kind) } = true)
    (hr : (u.rootState != 1) = true) : u.usable n = true ∧ u.loadFailure n = none :=
  usable_of u n (by rw [hb]; rfl) (by rw [hb]; simp only [State.tagOf, hs]; rfl) (by rw [hb]; exact hc) hr

/-- The same with the host's operation waiting for engine 0, and what it is once it has left its place. -/
def waitsFor (w : EngineWait) (kind : Nat) : State := (keyed w.slot kind []).modStrong fun x => { x with waiting := some w }
def comesOn (w : EngineWait) (kind : Nat) : State := (waitsFor w kind).modStrong fun x => { x with waiting := none }

theorem comesOn_slot (w : EngineWait) (kind : Nat) :
    (comesOn w kind).slot w.slot = { rootKey kind with tag := (vendor []).tagOf (rootKey kind) } := by
  have h : (comesOn w kind).slotBank = { halves := [(2 * w.slot, { rootKey kind with tag := (vendor []).tagOf (rootKey kind) })] } := by
    with_unfolding_all rfl
  rw [State.slot, h]
  simp [SlotBank.slot, Sparse.get]

theorem comesOn_load (w : EngineWait) (kind : Nat) : (comesOn w kind).usable w.slot = true ∧ (comesOn w kind).loadFailure w.slot = none :=
  load_of _ kind _ (comesOn_slot w kind) rfl (by with_unfolding_all rfl) (by with_unfolding_all rfl)

theorem comesOn_kind (w : EngineWait) (kind : Nat) : ((comesOn w kind).slot w.slot).kind = kind := by rw [comesOn_slot]; rfl

/-- A device with a segment's footer to be signed. -/
def footing : State := (keyed 0 1 []).modCellar fun c =>
  { c with closing := [⟨⟨0, 0, 0, 0, 0, 0, [], [], 0, 0, 0, 0, 0, 0, 0, 0, 0⟩, 0, 0, 0, false, none, false, 63, [], 0, []⟩] }

theorem footing_mode : footing.footerMode ≤ 1 := by
  have h : footing.slot 0 = { rootKey 1 with tag := (vendor []).tagOf (rootKey 1) } := by
    have h : footing.slotBank = { halves := [(0, { rootKey 1 with tag := (vendor []).tagOf (rootKey 1) })] } := by with_unfolding_all rfl
    rw [State.slot, h]
    simp [SlotBank.slot, Sparse.get]
  have u : footing.usable 0 = true := (load_of 0 1 footing h rfl (by with_unfolding_all rfl) (by with_unfolding_all rfl)).1
  have m : footing.sigMode ≤ 1 := by decide +kernel
  rw [State.footerMode, u]
  simpa using m

theorem witness_StrongroomCommands_order :
    footing.footerMode ≤ 1 ∧
    (footing.strong.engine = none ∧ footing.signing = false ∧ footing.cellar.closing.map (fun c => c.mode) = [none] ∧ footing.entropyOk = true ∧
      ((vendor []).modStrong fun x => { x with engine := some ⟨.hmac, 63, [1], []⟩ }).strong.engine.isSome = true ∧
      (footing.modCellar fun c => { c with closing := c.closing.map fun x => { x with loaded := true } }).signing = true) ∧
    (∀ w kind, (waitsFor w kind).strong.waiting = some w ∧ (waitsFor w kind).strong.engine = none ∧ (waitsFor w kind).cellar.closing = [] ∧
      (comesOn w kind).loadFailure w.slot = none ∧ ((comesOn w kind).slot w.slot).kind = kind) ∧
    (comesOn ⟨.sign, 31, []⟩ 1).entropyOk = true ∧
    ((vendor []).modStrong fun x => { x with waiting := none }).loadFailure 31 = some 9 ∧
    (let s := (vendor []).modFuses fun f => { f with secret := ⟨List.replicate 48 5, crc32 (List.replicate 48 5)⟩ }
     let v := s.modStrong fun x => { x with waiting := some ⟨.attest, 0, []⟩ }
     v.strong.engine = none ∧ v.cellar.closing = [] ∧ v.strong.waiting = some ⟨.attest, 0, []⟩ ∧
       (v.modStrong fun x => { x with waiting := none }).identityOk = true ∧ (v.modStrong fun x => { x with waiting := none }).entropyOk = true) :=
  ⟨footing_mode, by decide +kernel, fun w kind => ⟨rfl, rfl, rfl, (comesOn_load w kind).2, comesOn_kind w kind⟩, by decide +kernel,
    by decide +kernel, by decide +kernel⟩

theorem witness_StrongroomCommands_keys :
    ((keyed 8 3 (args 31 1 8 0)).accept Reg.strongroom_RESULT).loadFailure 8 = none ∧
    (let s := puts (vendor []) [(R.strongroom_CMD_ARG_MEAS, 7)]
     let u := s.accept Reg.strongroom_RESULT
     idle s Reg.strongroom_RESULT = true ∧ 5 ≤ 7 ∧ u.get R.strongroom_CMD_ARG_MEAS = 7) ∧
    (let s := puts (vendor []) (args 0 0 0 768)
     let u := s.accept Reg.strongroom_RESULT
     idle s Reg.strongroom_RESULT = true ∧ 1 ≤ u.get R.strongroom_CMD_ARG_LEN ∧ u.get R.strongroom_CMD_ARG_LEN ≤ 768 ∧ u.entropyOk = true) ∧
    (let s := puts (vendor []) (args 31 2 63 0)
     let u := s.accept Reg.strongroom_RESULT
     idle s Reg.strongroom_RESULT = true ∧ 8 ≤ u.argSlot ∧ u.hostSlots = true ∧ u.get R.strongroom_CMD_ARG_KIND = 2 ∧
       u.get R.strongroom_CMD_ARG_PARENT = 63 ∧ u.rootState ≠ 1 ∧ u.entropyOk = true) ∧
    (let s := keyed 8 3 (args 31 1 8 0)
     let u := s.accept Reg.strongroom_RESULT
     idle s Reg.strongroom_RESULT = true ∧ 8 ≤ u.argSlot ∧ u.hostSlots = true ∧ u.rootState ≠ 1 ∧ u.get R.strongroom_CMD_ARG_KIND ≠ 0 ∧
       u.get R.strongroom_CMD_ARG_PARENT = 8 ∧ (u.slot 8).kind = 3) ∧
    (let s := keyed 31 1 (args 31 0 0 0)
     let u := s.accept Reg.strongroom_RESULT
     idle s Reg.strongroom_RESULT = true ∧ u.argSlot = 31 ∧ u.hostSlots = true ∧ u.rootState ≠ 1 ∧ (u.slot 31).kind = 1 ∧ u.entropyOk = true) ∧
    (let s := keyed 31 2 (args 31 0 0 768)
     let u := s.accept Reg.strongroom_RESULT
     idle s Reg.strongroom_RESULT = true ∧ u.argSlot = 31 ∧ u.hostSlots = true ∧ u.rootState ≠ 1 ∧ u.get R.strongroom_CMD_ARG_LEN ≤ 768) ∧
    (let u := (puts (vendor []) (args 7 0 0 0)).accept Reg.strongroom_RESULT
     u.argSlot = 7 ∧ ((vendor []).accept Reg.strongroom_RESULT).argSlot = 0 ∧ u.lifecycle ≠ .blank ∧ u.lifecycle ≠ .scrapped ∧ u.rootState ≠ 1) ∧
    (let u := (puts (State.reset.wr Reg.power_DOM_ON_HI 0x3FFFFFFF) (args 31 0 0 0)).accept Reg.strongroom_RESULT
     8 ≤ u.argSlot ∧ u.hostSlots = false ∧ u.attestOk = false) ∧
    (let s := (vendor []).modFuses fun f => { f with secret := ⟨List.replicate 48 5, crc32 (List.replicate 48 5)⟩ }
     let u := s.accept Reg.strongroom_RESULT
     idle s Reg.strongroom_RESULT = true ∧ u.attestOk = true ∧ u.identityOk = true ∧ u.entropyOk = true) :=
  ⟨keyed_load 8 3 (args 31 1 8 0), by decide +kernel⟩

theorem witness_TamperDetections :
    let c := ((vendor []).modStrong fun x => { x with tamperCfg := 0x18080 }).strong.tamperCfg
    (c.getLsbD 7 = true ∧ c.getLsbD 15 = true ∧ c.getLsbD 16 = true) ∧ State.reset.strong.tamperCfg.getLsbD 7 = false ∧
      (vendor []).tamperPower = 4 ∧ ((vendor []).put R.global_BOOT_STATUS_STAGE 3).tamperPower < 2 := by decide +kernel

/-- A device whose last token challenge gave the nonce 00h to 2Fh. -/
def challenged : State := (vendor viewTokenHash).modStrong fun x => { x with nonce := some (pairHash, 0) }

theorem witness_DebugSessions :
    (challenged.tapDead = false ∧ (challenged.setIr 0x21).tokenCheck viewToken = 1) ∧
    (challenged.setIr 0x21).tokenCheck [] = 2 ∧
    ((challenged.modStrong fun x => { x with debug := 1 }).strong.debug = 1 ∧
      (challenged.modStrong fun x => { x with debug := 2 }).strong.debug = 2 ∧ challenged.strong.debug = 0) ∧
    (up.modPower fun p => { p with vbatOnly := true }).tapDead = true ∧
    (let shift : BitVec 68 := 0x240000000#68 <<< 32
     shift.getLsbD 65 = true ∧ shift.getLsbD 64 = false ∧ challenged.noSession = false ∧ challenged.debugLevel ≠ 1 ∧ challenged.debugLevel ≠ 2 ∧
     (let s := (challenged.modStrong fun x => { x with debug := 1 }).setDomains fun d => d != 60
      s.tapDead = false ∧ s.noSession = false ∧ s.debugLevel = 1 ∧ s.domainOn 60 = false ∧ bar0Decodes 0x1CFFFC = true ∧ 0x1CFFFC % 4 = 0)) ∧
    ((0x240000000#68 <<< 32 ||| (0x1CFFFC#68 <<< 32)).extractLsb' 32 32).toNat = 0x40000000 + 0x1CFFFC ∧
    (let shift : BitVec 68 := 0x340000000#68 <<< 32
     shift.getLsbD 65 = true ∧ shift.getLsbD 64 = true ∧ (icxTarget ((shift.extractLsb' 32 32).toNat / 4 * 4)).isSome = true) := by decide +kernel

theorem witness_DebugReadsOfPorts :
    let s := challenged.modStrong fun x => { x with debug := 1 }
    let o := Reg.blotter_RD_DATA 7
    let shift : BitVec 68 := 0x240000000#68 <<< 32 ||| BitVec.ofNat 68 o <<< 32
    s.tapDead = false ∧ s.noSession = false ∧ shift.getLsbD 65 = true ∧ shift.getLsbD 64 = false ∧
      debugReaches s.debugLevel false .registers o = true ∧ s.regLive o = true ∧ (shift.extractLsb' 32 32).toNat = 0x40000000 + o := by
  decide +kernel

theorem witness_TestAccessPort :
    (up.modPower fun p => { p with vbatOnly := true }).tapDead = true ∧
    ((vendor []).tapDead = false ∧ (vendor []).noSession = false ∧ (vendor []).debugLevel < 4 ∧ (vendor []).strong.tokenResult < 8 ∧
      (vendor []).entropyOk = true) ∧
    (((vendor []).modStrong fun x => { x with debug := 2 }).strong.debug = 2 ∧ (vendor []).strong.debug ≠ 1 ∧ (vendor []).strong.debug ≠ 2) := by
  decide +kernel

theorem witness_StepRunsFront : { State.reset with pending := [.slewDone, .epochArm] }.pending = .slewDone :: [.epochArm] ∧
    State.reset.pending = [] := by decide +kernel

theorem witness_ResultSequence : State.reset.get ⟨Reg.fabric_RESULT, 15, 0⟩ = 0 ∧
    (State.reset.put ⟨Reg.fabric_RESULT, 15, 0⟩ 0xFFFF).get ⟨Reg.fabric_RESULT, 15, 0⟩ = 0xFFFF := by decide +kernel

theorem witness_ResultReads : (0x10060 : Nat) ≠ Reg.cellar_DIR_HDR ∧ (0x10060 : Nat) ≠ Reg.blotter_RD_HDR ∧
    ∀ n, n < 96 → (0x10060 : Nat) ≠ Reg.port_RX_HDR n := by decide +kernel

/-- A Ruling at its last line, with one user event due at line 1. -/
def dueEvent : EvqEntry := ⟨0, 0, 0, .host, 0, 2, 8, 0x5A, false, 0, .onTime⟩

theorem witness_RulingPosition :
    answers up Reg.ruling_CTRL = true ∧ answers up Reg.ruling_EPOCH_HI = true ∧
    (let s := (up.setQualified 1 true).modRuling fun u => { u with armed := some 7 }
     s.qualified 1 = true ∧ s.curSrc ≠ 1 ∧ s.ruling.armed = some 7) ∧
    (let s := (up.setQualified 1 true).modRuling fun u => { u with secStarted := true, seconds := 2 ^ 48 - 1 }
     s.qualified 1 = true ∧ s.curSrc ≠ 1 ∧ s.ruling.armed = none ∧ s.ruling.secStarted = true) ∧
    (up.domainOn 5 = true ∧ up.ruling.adjust = none ∧ up.ruling.inserted = false ∧ up.ruling.line < up.rulingFormat.lines ∧
      up.evq.entries = [] ∧ up.loop ≠ .coast ∧ (up.setLoop .coast).loop = .coast) ∧
    (let s := (up.put R.power_PWR_STATE_STATE 2).modRuling fun u => { u with line := 4000 }
     s.get R.power_PWR_STATE_STATE = 2 ∧ (s.put R.power_PWR_STATE_STATE 4).get R.power_PWR_STATE_STATE = 4 ∧ s.loop ≠ .coast ∧ s.ruling.adjust = none ∧ s.ruling.countStep = none ∧ s.ruling.inserted = false ∧
       s.rulingFormat.lines ≤ s.ruling.line) ∧
    (let s := up.setEvq { entries := [dueEvent] }
     s.domainOn 5 = true ∧ s.get R.power_PWR_STATE_STATE = 0 ∧ s.ruling.adjust = none ∧ s.ruling.inserted = false ∧
       s.ruling.line < s.rulingFormat.lines ∧ s.evq.entries = [dueEvent] ∧ dueEvent.action = 8 ∧ dueEvent.late = .onTime ∧
       dueEvent.frame = s.ruling.frame ∧ dueEvent.line ≤ s.ruling.line + 1) := by decide +kernel

theorem witness_RulingSources :
    (let s := ((up.put R.ruling_CTRL_FORCE_COAST 1).setLoop .coast).modRuling fun u => { u with runs := [(0, 7)] }
     s.qualified 0 = false ∧ s.forceCoast = true ∧ s.loop = .coast ∧ s.refTypeAgrees = true ∧ Sparse.get (fun _ => 0) s.ruling.runs 0 = 7) ∧
    (let s := (up.put R.ruling_STATUS_CUR_SRC 2).setLoop .locked
     s.curSrc = (2 : Fin 3).val ∧ s.loop = .locked) ∧
    (let s := ((up.put R.ruling_SRC_PRIO_PRIO0 9).setQualified 1 true).setLoop .coast
     s.manualMode = false ∧ s.loop = .coast ∧ s.forceCoast = false ∧ s.bestSource = some 1) ∧
    (let s := ((((puts up [(R.ruling_SRC_PRIO_PRIO0, 8), (R.ruling_SRC_PRIO_PRIO1, 9)]).setQualified 0 true).put R.ruling_SRC_TIMING_REVERT_S 1).put R.ruling_STATUS_CUR_SRC 1).setLoop .locked
     s.manualMode = false ∧ s.forceCoast = false ∧ s.get R.ruling_SRC_TIMING_REVERT_S ≠ 0 ∧ s.qualified 0 = true ∧
       s.outranks 0 = true ∧ s.loop = .locked ∧ s.ruling.adjust = none) ∧
    (let s := up.put R.ruling_CTRL_SRC_MODE 1
     answers s Reg.ruling_SRC_PRIO = true ∧ s.manualMode = true) ∧
    answers (up.setLoop .locked) Reg.ruling_CTRL = true ∧ (up.setLoop .locked).loop = .locked ∧
    (up.setLoop .slewing).loop = .slewing := by decide +kernel

theorem witness_Synthesizers :
    answers up (Reg.clock_OUT_CTRL 1 7) = true ∧
    (let s := ((puts up [(R.clock_OUT_CTRL_EN 1 7, 1), (R.clock_CTRL_EN 1, 1), (R.clock_OUT_DELAY_DELAY 1 7, 0xFFFF)]).setSynOut 1 7 ⟨true, 4⟩)
     s.on (R.clock_OUT_CTRL_EN 1 7) = true ∧ s.on (R.clock_CTRL_EN 1) = true ∧ (s.synOut 1 7).running = true ∧
       s.get (R.clock_OUT_DELAY_CUR_DELAY 1 7) < s.get (R.clock_OUT_DELAY_DELAY 1 7)) ∧
    (up.on (R.clock_OUT_CTRL_EN 1 7) = false ∧ (∀ f, f < 64 → up.folioOn f = false) ∧ (∀ p, p < 96 → up.sdiOut p = false) ∧
      up.get (R.clock_OUT_CTRL_DIV 1 7) = (BitVec.ofNat 10 (up.get (R.clock_OUT_CTRL_DIV 1 7))).toNat) := by decide +kernel

/-- The words of a PUSH of a user event at line 1 of frame 1. -/
def pushWords : State := (up.wr (Reg.ruling_EVQ_W 0) 1).wr (Reg.ruling_EVQ_W 1) 0x80010000

theorem witness_PushTakesTheLowestIndex :
    let s := pushWords
    let w1 := s.rd (Reg.ruling_EVQ_W 1)
    answers s Reg.ruling_EVQ_RESULT = true ∧ s.done Reg.ruling_EVQ_RESULT = true ∧ 1 ≤ getBits w1 31 28 ∧ getBits w1 31 28 ≤ 8 ∧
      1 ≤ getBits w1 27 16 ∧ getBits w1 27 16 ≤ s.rulingFormat.lines ∧
      s.ruling.frame < getBits w1 15 0 * 2 ^ 32 + (s.rd (Reg.ruling_EVQ_W 0)).toNat ∧ s.evq.freeIndex = some 0 ∧ 0 < 512 ∧
      Sparse.get (fun _ => 0) s.evq.gens 0 < 128 ∧ (s.evq.entries.filter fun e => e.master != .core).length < 480 := by decide +kernel

theorem witness_EventQueueCommands :
    (let s := up.put ⟨Reg.ruling_EVQ_RESULT, 31, 31⟩ 0
     answers s Reg.ruling_EVQ_RESULT = true ∧ s.done Reg.ruling_EVQ_RESULT = false) ∧
    (answers up Reg.ruling_EVQ_RESULT = true ∧ up.done Reg.ruling_EVQ_RESULT = true ∧
      (let s := up.setEvq { entries := [dueEvent] }
       let h := getBits (s.rd (Reg.ruling_EVQ_W 0)) 15 0
       (s.evq.entries.any fun e => e.index == h % 512 && e.gen == h / 512) = true) ∧
      (let h := getBits (up.rd (Reg.ruling_EVQ_W 0)) 15 0
       (up.evq.entries.any fun e => e.index == h % 512 && e.gen == h / 512) = false) ∧
      4 ≤ (15 : BitVec 4).toNat) := by decide +kernel

/-- A sound descriptor of an input that runs rate 0. -/
def soundDescriptor : List (Nat × List Byte) := [(0, beBytes 64 0x52535944000300000000000000000000000000000000000000000000010000000000000000000000000000000000000000000000000000000000000000000000),
  (64, beBytes 64 0x00000000000000000000000000000000000000000000000000000000000000000000000000000000000000000000000000000000000000000000000000000000),
  (128, beBytes 64 0x00000000000000000000000000000000000000000000000000000000000000000000000000000000000000000000000000000000000000000000000000000000),
  (192, beBytes 64 0x000000000000000000000000000000000000000000000000000000000000000000000000000000000000000000000000000000000000000000000000B121F051)]

/-- A vendor device whose loader is told the length of an image. -/
def loader (hash : List Byte) (n : Nat) : State := ((vendor hash).put R.hostif_LINK_BME 1).put R.fabric_SRC_LEN_LEN n

theorem witness_LoaderCommands_images :
    (let s := loader fullImageHash fullImage.length
     let u := s.accept Reg.fabric_RESULT
     let n := s.get R.fabric_SRC_LEN_LEN
     idle s Reg.fabric_RESULT = true ∧ s.on R.hostif_LINK_BME = true ∧ s.get R.power_PWR_STATE_STATE ≠ 3 ∧ u.imageFault (fullImage.take n) n false = none ∧
       (loadedImage (fullImage.take n)).isPartial = false ∧ u.celMode ≠ .ready) ∧
    (let s := loader partialImageHash partialImage.length
     let u := s.accept Reg.fabric_RESULT
     let n := s.get R.fabric_SRC_LEN_LEN
     idle s Reg.fabric_RESULT = true ∧ s.on R.hostif_LINK_BME = true ∧ s.get R.power_PWR_STATE_STATE ≠ 3 ∧ u.imageFault (partialImage.take n) n false = none ∧
       (loadedImage (partialImage.take n)).isPartial = true) := by decide +kernel

theorem witness_LoaderCommands_others :
    (let s := loader [] 0
     idle s Reg.fabric_RESULT = true ∧ s.on R.hostif_LINK_BME = true ∧ (s.accept Reg.fabric_RESULT).imageFault ([].take 0) 0 false = some (2, 0) ∧ 2 ≤ 10) ∧
    (let s := puts (loader [] 0) [(R.fabric_STATE_CONFIGURED, 1), (R.fabric_STATE_SVN, 64)]
     let u := s.accept Reg.fabric_RESULT
     idle s Reg.fabric_RESULT = true ∧ s.on R.hostif_LINK_BME = true ∧ u.testRoot = false ∧ u.on R.fabric_STATE_CONFIGURED = true ∧ u.svnFuse < u.get R.fabric_STATE_SVN) := by
  decide +kernel

/-- An image of port group 23 and one of everything, with nothing in them. -/
def emptyImage (part : Bool) : LoadedImage := ⟨part, 23, 0, [], [], {}⟩
def loading (st : LoadStage) (part : Bool) : State := up.modFabric fun x => { x with load := some (st, emptyImage part) }

theorem witness_LoadsTakeEffect :
    (let s := (loading .fullPending false).put R.memory_STATUS_TRAINED 1
     let im := emptyImage false
     let a := (s.modFabric fun u => { u with load := none }).unitsReset.takeFull im 3
     let b := ((a.setDomains (a.powered 0)).initWrites none im []).fabricDone 0 0
     s.fabric.load = some (.fullPending, im) ∧ s.loadTarget = some 0 ∧ s.celMode ≠ .ready ∧ b.get R.global_BOOT_STATUS_STAGE ≠ 5 ∧
       b.on R.memory_STATUS_TRAINED = true) ∧
    (let s := loading .partialPending true
     s.fabric.load = some (.partialPending, emptyImage true) ∧ s.loadTarget = some 0) ∧
    (loading .quiesced true).fabric.load = some (.quiesced, emptyImage true) := by decide +kernel

theorem witness_LinkControl :
    (let s := linkUp 95 1 .off
     answers s (Reg.port_LINK_CTRL 95) = true ∧ s.rasyn 95 = true ∧ s.link 95 = .off ∧ answers s (Reg.port_PORT_CFG 95) = true) ∧
    (let s := (linkUp 95 6 .active).put (R.port_LINK_CTRL_ENABLE 95) 1
     answers s (Reg.port_LINK_CTRL 95) = true ∧ s.rasyn 95 = true ∧ s.link 95 ≠ .off ∧ s.on (R.port_LINK_CTRL_ENABLE 95) = true ∧
       s.isUp 95 = true) ∧
    (linkUp 0 1 .off).isUp 0 = false := by decide +kernel

theorem witness_LinkBringUp :
    (linkUp 95 1 .detect).link 95 = .detect ∧ (linkUp 95 1 .back).link 95 = .back ∧
    ((linkUp 95 1 .active).bcUp 95 = false ∧ (linkUp 95 1 .active).isUp 95 = true) ∧
    ((linkUp 95 1 .train).link 95 = .train ∧ (linkUp 95 1 .train).rasynIn 95 = true) ∧ (linkUp 95 1 .fault).link 95 = .fault ∧
    (linkUp 95 1 .discover).link 95 = .discover ∧
    (let s := (linkUp 95 1 .align).modPort 95 fun p => { p with alignFails := 2 }
     s.link 95 = .align ∧ 2 ≤ (s.port 95).alignFails) ∧
    ((linkUp 95 1 .align).link 95 = .align ∧ ((linkUp 95 1 .align).port 95).alignFails < 2) := by decide +kernel

/-- Port `n` with a packet waiting. -/
def holding (n typ vc : Nat) (l : LinkState) (payload : List Byte) : State :=
  (linkUp n 1 l).modPort n fun p => { p with rx := [⟨typ, vc, false, false, false, false, 0, payload, false⟩], nonce := some [] }

theorem witness_LinkIdentity :
    (let s := (linkUp 95 1 .discover).modPort 95 fun p => { p with descParts := soundDescriptor }
     let d := (s.port 95).descriptor
     s.link 95 = .discover ∧ d.length = 256 ∧ slice d 0 4 = [0x52, 0x53, 0x59, 0x44] ∧ leAt d 252 4 = (crc32 (slice d 0 252)).toNat ∧
       leAt d 5 1 = 3 ∧ (leAt d 28 1).testBit (s.get (R.port_PORT_CFG_RATE 95)) = true) ∧
    (let s := (linkUp 95 1 .discover).modPort 95 fun p => { p with descParts := [(0, List.replicate 256 0)] }
     let d := (s.port 95).descriptor
     s.link 95 = .discover ∧ d.length = 256 ∧ slice d 0 4 ≠ [0x52, 0x53, 0x59, 0x44]) ∧
    (let s := holding 95 8 0 .auth [2]
     ((s.takePacket 95 fun k => k.typ == 8 && leAt k.payload 0 1 == 2).map fun p => (p.2.port 95).nonce) = some (some [])) ∧
    (let s := holding 95 8 0 .auth [3]
     ((s.takePacket 95 fun k => k.typ == 8 && leAt k.payload 0 1 == 3).map fun p => (p.2.port 95).nonce.isSome) = some true) ∧
    (linkUp 95 1 .auth).link 95 = .auth ∧
    (let s := (linkUp 95 1 .quarantine).put (R.port_LINK_CTRL_REAUTH_MIN 95) 1
     s.get (R.port_LINK_CTRL_REAUTH_MIN 95) ≠ 0 ∧ s.isUp 95 = true) := by decide +kernel

/-- The bytes of a packet on the lane of a port in packet lock. -/
def laned (l : LinkState) (typ : Nat) (payload : List Byte) (damaged : Bool) : State :=
  (linkUp 95 1 l).modPort 95 fun p =>
    { p with packetLock := true, lane := (packetBytes typ 3 1 7 payload).map fun b => (b, damaged) }

/-- What a statement of a whole packet asks of a lane; the type found, and whether it is damaged. -/
def laneHolds (s : State) : Option (Nat × Bool) :=
  match headerAt 504 ((s.port 95).lane.map (·.1)) with
  | some (step, k, len) =>
    let w := wholePacket (s.port 95).lane step len k
    if s.link 95 ≠ .off ∧ s.link 95 ≠ .detect ∧ s.link 95 ≠ .fault ∧ s.portMode 95 = 1 ∧ (s.port 95).packetLock = true ∧
      step ≤ (s.port 95).lane.length ∧ 8 ≤ (s.port 95).lane.length then some (w.1.typ, w.2) else none
  | none => none

def laneSof (s : State) : Option Bool := (headerAt 504 ((s.port 95).lane.map (·.1))).map fun x => x.2.1.sof

theorem witness_LinkPackets :
    (let s := linkUp 95 1 .active
     let blocks : List (BitVec 66) := List.replicate 85 1
     s.portMode 95 = 1 ∧ s.link 95 ≠ .off ∧ s.link 95 ≠ .fault ∧ s.on (R.port_LINK_STATE_BLOCK_LOCK 95) = false ∧
       (s.port 95).frameLock = false ∧ (s.port 95).frameRun < 3 ∧ (s.port 95).headerBad = 0 ∧
       (blocks.all fun b => b.extractLsb' 0 2 == 1 || b.extractLsb' 0 2 == 2) = true ∧ 64 ≤ (s.port 95).headerRun + blocks.length) ∧
    ((linkUp 95 1 .off).portMode 95 = 1 ∧ (linkUp 95 1 .off).link 95 = .off) ∧
    laneHolds (laned .active 0 [] false) = some (0, false) ∧ laneHolds (laned .active 15 [1, 2] false) = some (15, false) ∧
    laneHolds (laned .active 9 [] false) = some (9, false) ∧
    (laneHolds (laned .active 1 [1, 2] false) = some (1, false) ∧ laneSof (laned .active 1 [1, 2] false) = some true ∧
      (laned .active 1 [1, 2] false).delivers 95 = true) ∧
    (let lane := (packetBytes 2 0 0 7 [1, 2]).map fun b => (b, false)
     let s := (linkUp 95 1 .active).modPort 95 fun p => { p with packetLock := true, vcFrames := [(0, (0x201, true))], lane := lane }
     laneHolds s = some (2, false) ∧ laneSof s = some false ∧ Sparse.get (fun _ => (65536, false)) (s.port 95).vcFrames 0 = (leAt [1, 2] 0 2, true)) ∧
    laneHolds (laned .active 5 [] false) = some (5, false) ∧ laneHolds (laned .active 6 [1] false) = some (6, false) ∧
    laneHolds (laned .active 8 [1] false) = some (8, false) ∧ laneHolds (laned .active 3 [1] true) = some (3, true) ∧
    (let s := holding 95 6 0 .active [9, 0, 0x20, 0]
     ((s.takePacket 95 fun k => k.typ == 6 && !(leAt k.payload 2 1 == 0x11 && s.link 95 == .train)).map fun p =>
       (p.1.payload.length, leAt p.1.payload 1 1, leAt p.1.payload 2 1, (p.2.port 95).seenIds.contains (leAt p.1.payload 0 1)))
       = some (4, 0, 0x20, false)) := by decide +kernel

theorem witness_LinkControlChannel :
    (let s := (linkUp 95 1 .active).put (R.port_CTRL_TX_HDR_LENGTH 95) 64
     idle s (Reg.port_CTRL_RESULT 95) = true ∧ s.get (R.port_CTRL_TX_HDR_LENGTH 95) = 64 ∧ s.linkWasUp 95 = true ∧
       (s.port 95).nextHostId < 128 ∧ (s.port 95).outstanding true < 4 ∧ (s.port 95).reqs = []) ∧
    (let s := (linkUp 95 1 .active).put (R.port_CTRL_TX_HDR_LENGTH 95) 65
     idle s (Reg.port_CTRL_RESULT 95) = true ∧ 64 < s.get (R.port_CTRL_TX_HDR_LENGTH 95)) ∧
    (idle (linkUp 95 1 .detect) (Reg.port_CTRL_RESULT 95) = true ∧ (linkUp 95 1 .detect).linkWasUp 95 = false) ∧
    (let s := (linkUp 95 1 .active).modPort 95 fun p => { p with reqs := [⟨127, 8, 0, [], 7⟩, ⟨1, 8, 0, [], 8⟩] }
     (s.port 95).reqs.find? (fun r => r.msgId == (127 : BitVec 8).toNat && r.tries != 0) = some ⟨127, 8, 0, [], 7⟩ ∧
       (s.port 95).reqs.find? (fun r => r.msgId == (1 : BitVec 8).toNat && r.tries != 0) = some ⟨1, 8, 0, [], 8⟩ ∧
       (s.port 95).modeMsg ≠ 1 ∧ (s.port 95).holdMsg ≠ 1 ∧ ((s.port 95).reqs.all fun x => x.tries != 0) = true) ∧
    ((holding 95 7 0 .active [1]).takePacket 95 fun k => k.typ == 7 && leAt k.payload 0 1 == 1).isSome = true := by decide +kernel

/-- A reply of the port power bus with odd parity. -/
def ppbGood (d : BitVec 12) : BitVec 17 := if (ppbReply (0x10000 ||| d.zeroExtend 17 <<< 1)).isSome then 0x10000 ||| d.zeroExtend 17 <<< 1
  else 0x10001 ||| d.zeroExtend 17 <<< 1

theorem witness_PortPower :
    ((List.head? [ppbGood 5, 0]) = some (ppbGood 5) ∧ ppbReply (ppbGood 5) = some 5) ∧ ([(0 : BitVec 17), 1].map ppbReply = [none, none]) ∧
    (let s := (portUp 95 1).put (R.port_PORT_CFG_PPB 95) 1
     answers s (Reg.port_PWR_CTRL 95) = true ∧ s.ppbOwned 95 = true ∧ s.on (R.port_PWR_STAT_LOCKOUT 95) = false ∧
       (s.put (R.port_PWR_STAT_LOCKOUT 95) 1).on (R.port_PWR_STAT_LOCKOUT 95) = true ∧
       (∀ i, i < 16 → i ≠ 15 → s.ppbOwned (16 * 5 + i) = false) ∧ s.ppbOwned (16 * 5 + 15) = true ∧
       ((s.modPort 95 fun p => { p with cycling := true }).port 95).cycling = true) ∧
    (ppbReply (ppbGood 0xFFD) = some 0xFFD ∧ (0xFFD : BitVec 12).getLsbD 1 = false) ∧
    (ppbReply (ppbGood 2) = some 2 ∧ (2 : BitVec 12).getLsbD 1 = true) := by decide +kernel

/-- Port 95 as an SDI input in a state, and with the stream of it received. -/
def sdiAs (m : SdiMode) : State := (puts (portUp 95 3) [(R.port_PORT_CFG_RATE 95, 1), (R.port_SDI_FMT_HEIGHT 95, 720)]).setSdi 95 m
def sdiStream : State := puts (sdiAs .locked) [(R.stream_CFG_PRESENT 1520, 1), (R.stream_GEOM_WIDTH 1520, 1280), (R.stream_GEOM_HEIGHT 1520, 720),
  (R.stream_RATE_NUM 1520, 60), (R.stream_RATE_DEN 1520, 1), (R.stream_CFG_SLOTS 1520, 3), (R.stream_CFG_STORE_FMT 1520, 1)]

/-- A frame being written. -/
def aFrame (slot : Nat) : Writing := { slot := slot, frameSeq := some 7, startFrame := 0, startLine := 1 }

theorem witness_SdiInputs :
    (∀ m ∈ [SdiMode.noCarrier, .search, .detect, .locked], (sdiAs m).sdiRuns 95 = true ∧ (sdiAs m).sdi 95 = m ∧
       (sdiAs m).get (R.port_PORT_CFG_RATE 95) ≠ 0) ∧
    (let s := sdiStream.setSdi 95 .detect
     s.sdi 95 = .detect ∧ sdiListed (s.get (R.port_PORT_CFG_RATE 95)) 750 false false 8 = true ∧ s.width 1520 = (1280 : BitVec 12).toNat ∧
       s.height 1520 = (720 : BitVec 12).toNat ∧ s.on (R.stream_CFG_INTERLACED 1520) = false ∧
       (sdiRate 8).1 * s.get (R.stream_RATE_DEN 1520) = s.get (R.stream_RATE_NUM 1520) * (sdiRate 8).2 ∧
       (sdiRate 0).1 * s.get (R.stream_RATE_DEN 1520) ≠ s.get (R.stream_RATE_NUM 1520) * (sdiRate 0).2) ∧
    (let s := sdiStream.modStream 1520 fun x => { x with writing := some (aFrame 2) }
     s.sdiRuns 95 = true ∧ s.sdi 95 = .locked ∧ s.ingestRuns 1520 = true ∧ s.get (R.port_PORT_CFG_RATE 95) ≠ 0 ∧ s.get (R.port_SDI_FMT_HEIGHT 95) = 720 ∧
       sdiLineRow 720 (s.sdiFields 95) 1 = none ∧ sdiLineRow 720 (s.sdiFields 95) 27 = some 1 ∧ (sdiFirst 720 (s.sdiFields 95)).1 = 26 ∧
       sdiLastLine 720 (s.sdiFields 95) = 745 ∧ 1 < s.height 1520 ∧
       (List.replicate 8 (0 : BitVec 10)).length / 2 ≤ s.width 1520 ∧ (s.stream 1520).startSeen = none ∧
       (s.stream 1520).writing = some (aFrame 2) ∧ (aFrame 2).ended = false) := by decide +kernel

/-- The last virtual stream of port 95, which takes packets, with a packet waiting. -/
def taking (typ : Nat) (xs : Nat) (payload : List Byte) : State :=
  puts (holding 95 typ 15 .active payload) [(R.stream_CFG_PRESENT 1535, 1), (R.stream_CFG_XS 1535, xs)]

/-- Stream 1599 with slots in given states. -/
def slotted (l : List SlotInfo) : State :=
  (puts up [(R.stream_CFG_PRESENT 1599, 1), (R.stream_CFG_SLOTS 1599, l.length), (R.stream_GEOM_WIDTH 1599, 4), (R.stream_GEOM_HEIGHT 1599, 2),
    (R.stream_CFG_STORE_FMT 1599, 1), (R.stream_RATE_NUM 1599, 60), (R.stream_RATE_DEN 1599, 1), (R.stream_CFG_INGEST 1599, 7)]).modStream 1599
    fun x => { x with slots := l }
def whole (seq : Nat) : SlotInfo := { st := 2, seq := seq, sketches := 2 }

theorem witness_IngestFrames :
    ((slotted [whole 1, {}, {}]).chooseSlot 1599 = some 1 ∧ (slotted [whole 1, whole 2, whole 3]).chooseSlot 1599 = some 0 ∧
      (slotted [{ st := 1 }, { st := 2, pins := [.engine 3] }]).chooseSlot 1599 = none) ∧
    (((taking 1 0 (List.replicate 9 0)).takePacket 95 fun k => k.typ == 1).any fun q =>
      q.2.ingestRuns (1520 + q.1.vc) && !q.2.on (R.stream_CFG_XS (1520 + q.1.vc)) && decide (8 ≤ q.1.payload.length ∧ q.1.vc < 16)) = true ∧
    (let s := taking 1 0 []
     (s.stream 1535).startSeen = none ∧ (s.stream 1535).writing = none ∧
       (⟨1, 15, false, false, false, true, 0, List.replicate 8 0, false⟩ : Packet).sof = true) ∧
    (let s := (slotted [{}, {}, {}]).modStream 1599 fun x => { x with startSeen := some (some 7, 0, 1) }
     let a := ((s.modStream 1599 fun x => { x with startSeen := none }).beginMarg 1599 (some 7)).genlockStep 1599 0
     (s.stream 1599).startSeen = some (some 7, 0, 1) ∧ (s.stream 1599).writing = none ∧
       a.get R.ruling_STREAM_SRC_STREAM ≠ 1599 ∧ a.on (R.stream_CFG_XS 1599) = false) ∧
    (let s := (slotted [{}, {}, {}]).modStream 1599 fun x => { x with writing := some { aFrame 1 with badFormat := true, ended := true } }
     (s.stream 1599).writing = some { aFrame 1 with badFormat := true, ended := true } ∧ s.on (R.stream_CFG_XS 1599) = false ∧
       (s.stream 1599).newest ≠ some 1) ∧
    (let s := ((slotted [{}, { st := 1 }, {}]).put (R.stream_CTRL_CONCEAL_MAX 1599) 255).modStream 1599 fun x => { x with writing := some { aFrame 1 with ended := true } }
     let a := s.completeReceived 1599 0 false
     (s.stream 1599).writing = some { aFrame 1 with ended := true } ∧ (aFrame 1).ended = false ∧ (a.stream 1599).newest = some 1 ∧ (a.stream 1599).writing = none) ∧
    (let s := ({ (slotted [whole 0]) with ruling := { lineTotal := 100000 } }.modStream 1599 fun x =>
       { x with newest := some 0 }).put (R.stream_STATE_STATE 1599) 2
     s.streamMode 1599 = .live ∧ s.get (R.stream_RATE_NUM 1599) ≠ 0 ∧
       ((max 1 (s.get (R.stream_CTRL_LOST_FRAMES 1599)) : Nat) : Rat) * s.framePeriodNs 1599 ≤
         s.exactAge 1599 * s.rulingFormat.lineNs ∧ s.get R.ruling_STREAM_SRC_STREAM ≠ 1599) := by decide +kernel

/-- A codestream of stream 1599, waiting, with a decoder free or not. -/
def aCode : Codestream := { frameSeq := 7, buffer := 0, startFrame := 0, startLine := 1, flags := 0 }
def engineUp (role : Nat) : State := puts up [(R.codec_CFG_PRESENT 31, 1), (R.codec_CFG_ROLE 31, role)]
def working (j : EngineJob) : State := (engineUp 1).modCellar fun c => { c with engines := [(31, j)] }

theorem witness_CodestreamsAndEngines :
    (((taking 2 1 (List.replicate 9 0)).takePacket 95 fun k => k.typ == 2).any fun q =>
      q.2.ingestRuns (1520 + q.1.vc) && q.2.on (R.stream_CFG_XS (1520 + q.1.vc)) && decide (8 ≤ q.1.payload.length ∧
        (q.2.stream (1520 + q.1.vc)).gathering = none ∧ leAt q.1.payload 4 4 = 0 ∧ q.1.eof = false ∧ q.2.xsRegion = none)) = true ∧
    (let s := (engineUp 1).setWaiting [(1599, aCode)]
     s.xsWaiting.find? (fun p => (s.stream p.1).writing.isNone) = some (1599, aCode) ∧ s.freeEngine 1 = some 31 ∧
       (s.xsWaiting.any fun p => p.1 == 1599) = true) ∧
    (∀ j ∈ [EngineJob.decode 1599 aCode, .host 1599 0 [], .cellar 15 1599 0], (working j).engineJob 31 = some j) ∧
    (let s := (((engineUp 3).put R.cellar_CFG_MAX_STREAMS 16).modEntry 15 fun x => { x with job := some 1 }).modStream 0 fun x => { x with newest := some 0 }
     let u := s.modEntry 15 fun x => { x with job := none }
     s.topJob = some 15 ∧ s.freeEngine 3 = some 31 ∧ (u.celEntry 15).lastSeq = none ∧ (u.stream (u.entryStream 15)).newest = some 0 ∧
       ((u.stream (u.entryStream 15)).slot 0).seq = 0 ∧ u.entryDiv 15 = 1 ∧
       (∀ l ∈ [0, 2 ^ 32 - 1, 5], let w := s.modEntry 15 fun x => { x with lastSeq := some l }
         w.topJob = some 15 ∧ w.freeEngine 3 = some 31 ∧ ((w.modEntry 15 fun x => { x with job := none }).celEntry 15).lastSeq = some l) ∧
       seqBefore 0 (2 ^ 32 - 1 + 1) = false ∧ seqBefore 0 (5 + 1) = true) ∧
    (let s := (puts (slotted [whole 1]) [(R.codec_CFG_PRESENT 31, 1), (R.codec_CFG_ROLE 31, 2), (R.codec_HENC_CFG_STREAM 31, 1599),
       (R.codec_HENC_CFG_EN 31, 1), (R.codec_HENC_RING_SIZE 31, 1)]).modStream 1599 fun x => { x with newest := some 0 }
     s.get (R.codec_HENC_CFG_STREAM 31) = 1599 ∧ s.engineRole 31 = 2 ∧ s.on (R.codec_HENC_CFG_EN 31) = true ∧ s.quiet = false ∧
       (s.get R.power_SHED).testBit 4 = false ∧ (s.stream 1599).newest = some 0 ∧ s.engineFree 31 = true ∧
       ((s.encodeUse 31 1599 0).slotSamples 1599 0).2.1 = false ∧ s.get (R.codec_HENC_RING_SIZE 31) = 1 ∧
       s.get (R.codec_HENC_RD 31) = 0 ∧ s.get (R.codec_HENC_WR 31) = 0 ∧
       codeBudget ((s.stream 1599).slot 0).width ((s.stream 1599).slot 0).height (s.get (R.codec_HENC_CFG_BPP 31)) + 288 ≤ 65536 ∧
       (s.put R.power_PWR_STATE_STATE 1).quiet = true ∧ (s.put R.power_PWR_STATE_STATE 1).on (R.codec_HENC_CFG_EN 31) = true ∧
       (s.modCellar fun c => { c with engines := [(31, .host 0 0 [])] }).engineFree 31 = false) := by decide +kernel

theorem witness_MotionFieldsAndCounters :
    (let q := (1599, 1, 6, 0, 5)
     let s := (puts (slotted [whole 5, whole 6]) [(R.mot_STATUS_ACTIVE 1, 1)]).modMot 1 fun m => { m with queue := [q] }
     (s.mot 1).running = none ∧ (s.mot 1).queue = q :: [] ∧ ((s.stream 1599).slot 0).st = 2 ∧ ((s.stream 1599).slot 0).seq = 5 ∧
       ((s.stream 1599).slot 0).sketches.testBit 1 = true ∧ ((s.stream 1599).slot 1).st = 2 ∧ ((s.stream 1599).slot 1).seq = 6 ∧
       ((s.stream 1599).slot 1).sketches.testBit 1 = true ∧ s.on (R.mot_STATUS_ACTIVE 1) = true) ∧
    (let s := (slotted [whole 9, whole 6]).modMot 1 fun m => { m with queue := [(1599, 1, 6, 0, 5)] }
     ((s.stream 1599).slot 0).seq ≠ 5) ∧
    (let s := (slotted [whole 5, whole 6]).modMot 1 fun m => { m with running := some (1599, 1, 6, 0, 5) }
     let p := s.modFabric fun x => { x with now := { x.now with regions := [⟨0, 0, 0x3FF, 0, 0x80000, 0x3FF, 0⟩] } }
     let bad := p.setWordEcc 256 .bad
     (s.mot 1).running = some (1599, 1, 6, 0, 5) ∧ (s.quarterSketch 1599 1).2.1 = false ∧
       ((s.quarterSketch 1599 1).2.2.quarterSketch 1599 0).2.1 = false ∧ (bad.mot 1).running = some (1599, 1, 6, 0, 5) ∧
       (bad.quarterSketch 1599 1).2.1 = true) ∧
    (answers (slotted []) (Reg.stream_CTRL 1599) = true ∧ (slotted []).present 1599 = true ∧ answers (up.put (R.ingest_CFG_PRESENT 7) 1) (Reg.ingest_CTRL 7) = true) :=
  ⟨by decide +kernel, by decide +kernel, by decide +kernel, by decide +kernel⟩

/-- A device with the audio engine's channels, and with input channel `ch` in a state. -/
def sounding (ins outs : Nat) : State := puts up [(R.audio_CFG_IN_CH, ins), (R.audio_CFG_OUT_CH, outs)]
def converter (ch : Nat) (m : SrcMode) : State := (sounding 2048 0).put (R.audio_IN_STAT_STATE ch) m.code

theorem witness_AudioInputs :
    (answers (sounding 2048 1024) (Reg.audio_IN_MAP 2047) = true ∧ 2047 < (sounding 2048 1024).inCount ∧
      answers (sounding 2048 1024) (Reg.audio_OUT_MAP 1023) = true ∧ 1023 < (sounding 2048 1024).outCount ∧ (sounding 2048 1024).audioOn = true) ∧
    ((up.modAudio fun a => { a with outPend := [(1023, 5)] }).audio.inPend = [] ∧
      (up.modAudio fun a => { a with outPend := [(1023, 5)] }).audio.outPend = [(1023, 5)]) ∧
    ((up.modAudio fun a => { a with inPend := [(2047, 5)] }).audio.inPend = [(2047, 5)] ∧
      (up.modAudio fun a => { a with inPend := [(2047, 5)] }).audio.outPend = []) ∧
    ((List.all [SrcMode.acquire, .outOfRange, .nonPcm, .locked, .hold] fun m => (converter 2047 m).srcMode 2047 == m &&
        (converter 2047 m).audioOn && decide (2047 < (converter 2047 m).inCount)) = true) ∧
    (((converter 2047 .acquire).putInt (R.audio_IN_STAT_RATIO 2047) (-10000)).getInt (R.audio_IN_STAT_RATIO 2047)).natAbs ≤ 10000 ∧
    (let s := (converter 2047 .acquire).putInt (R.audio_IN_STAT_RATIO 2047) (-10001)
     s.srcMode 2047 = .acquire ∧ 10000 < (s.getInt (R.audio_IN_STAT_RATIO 2047)).natAbs) ∧
    (((holding 95 3 15 .active (leBytes 1 16 ++ leBytes 1 0x41 ++ List.replicate 54 0)).takePacket 95 fun k => k.typ == 3).any fun q =>
      q.2.audioOn && decide (leAt q.1.payload 0 1 = 16 ∧ leAt q.1.payload 1 1 % 64 = 1 ∧ q.1.payload.length = 8 + 3 * 16 * 1) &&
        !q.1.lost && (List.range 16).all fun c => (q.2.inputsOf (1520 + q.1.vc) c).isEmpty) = true ∧
    (let s := (holding 95 3 15 .active (leBytes 1 16 ++ leBytes 1 0x41)).modPort 95 fun p => { p with rx := p.rx.map fun k => { k with lost := true } }
     (s.takePacket 95 fun k => k.typ == 3).any fun q => q.2.audioOn && q.1.lost) = true := by decide +kernel

/-- Folio 63 on port 95 with a raster of 1125 lines, in a state and at a line. -/
def rastered (m : RasterMode) (line : Nat) : State :=
  (puts up [(R.folio_CFG_PRESENT 63, 1), (R.folio_CFG_PORT_A 63, 95), (R.folio_CFG_PORT_B 63, 255), ((R.folio_TIMING_H_H_TOTAL 63).active, 2200),
    ((R.folio_TIMING_V_V_TOTAL 63).active, 1125), ((R.folio_TIMING_VA_FIRST_ACTIVE 63).active, 42),
    ((R.folio_TIMING_V_V_ACTIVE 63).active, 1080), ((R.folio_TIMING_VS_SWITCH_LINE 63).active, 38), ((R.folio_TIMING_RATE_NUM 63).active, 60), ((R.folio_TIMING_RATE_DEN 63).active, 1),
    (R.clock_OUT_CTRL_DIV 0 0, 40), (R.clock_OUT_CTRL_EN 0 0, 1), (R.folio_RASTER_STATUS_LINE 63, line)]).setRaster 63 m
/-- The same with port 95 a Rasyn output in service. -/
def sending (m : RasterMode) (line : Nat) : State := (puts (rastered m line) [(R.port_PORT_CFG_MODE 95, 2)]).setLink 95 .active

theorem witness_AudioOutputs :
    ((up.put ⟨Reg.power_DOM_ON_HI, 24, 24⟩ 0).audioOn = false ∧ (sounding 1 0).audioOn = true ∧ (sounding 1 0).inCount = 1 ∧
      (sounding 1 0).outCount = 0) ∧
    (let s := sounding 0 1024
     answers s Reg.audio_BANK_CMD = true ∧ s.audioOn = true ∧ (s.put R.audio_BANK_STATUS_PENDING 1).on R.audio_BANK_STATUS_PENDING = true ∧
       s.on R.audio_BANK_STATUS_PENDING = false ∧ 1023 < s.outCount ∧
       (s.wr (Reg.audio_MIX 4092) 1).mixWords 1023 false ≠ (s.wr (Reg.audio_MIX 4092) 1).mixWords 1023 true) ∧
    (let s := sounding 0 1
     s.on R.audio_BANK_STATUS_PENDING = false ∧ s.outCount = 1 ∧ s.mixWords 0 false = s.mixWords 0 true) ∧
    (let s := sending .off 1
     s.folioOfPort 95 = some 63 ∧ s.rasynOut 95 = true ∧ s.isUp 95 = true ∧ s.audioOn = true ∧ (s.folioUp 63 && s.composing 63) = false) ∧
    (let s := sending .run 1
     s.folioOfPort 95 = some 63 ∧ s.rasynOut 95 = true ∧ s.isUp 95 = true ∧ s.audioOn = true ∧ (s.folioUp 63 && s.composing 63) = true ∧
       (s.outsOf 63).foldl (fun m o => max m (s.get (R.audio_OUT_MAP_POS o) + 1)) 0 = 0) ∧
    (let s := (puts (sending .run 1) [(R.audio_CFG_OUT_CH, 1), (R.audio_OUT_MAP_EN 0, 1), (R.audio_OUT_MAP_FOLIO 0, 63)]).modAudio fun a =>
       { a with k := 63 }
     (s.folioUp 63 && s.composing 63) = true ∧ (s.outsOf 63).foldl (fun m o => max m (s.get (R.audio_OUT_MAP_POS o) + 1)) 0 = 1 ∧
       s.nextSample 95 + min 63 (496 / (3 * 1)) ≤ s.audio.k) := by decide +kernel

theorem witness_MarginaliaCommands :
    (List.all [4, 5] fun typ => ((taking typ 0 [1, 0, 2, 0]).takePacket 95 fun k => k.typ == typ).any fun q =>
      q.2.audioOn && q.2.present (1520 + q.1.vc)) = true ∧
    (let s := up.put R.marginalia_QUERY_STREAM 1599
     s.audioOn = true ∧ idle s Reg.marginalia_QUERY_RESULT = true ∧ s.present (s.get R.marginalia_QUERY_STREAM) = false) ∧
    (let s := (slotted []).put R.marginalia_QUERY_STREAM 1599
     s.audioOn = true ∧ idle s Reg.marginalia_QUERY_RESULT = true ∧ s.present (s.get R.marginalia_QUERY_STREAM) = true ∧
       s.isWriteback 1599 = false ∧ (s.stream 1599).margs.find? (fun m => m.seq == s.get R.marginalia_QUERY_SEQ) = none) ∧
    (let s := ((slotted []).put R.marginalia_QUERY_STREAM 1599).modStream 1599 fun x => { x with margs := [{}] }
     idle s Reg.marginalia_QUERY_RESULT = true ∧ s.present (s.get R.marginalia_QUERY_STREAM) = true ∧ s.isWriteback 1599 = false ∧
       (s.stream 1599).margs.find? (fun m => m.seq == s.get R.marginalia_QUERY_SEQ) = some {}) := by decide +kernel

/-- A trained memory with one region, its last 64 KiB, open to every kind. -/
def trained : State := (up.put R.memory_STATUS_TRAINED 1).modFabric fun x =>
  { x with now := { x.now with regions := [⟨0, 0, 0x3FF, 0x7FFFF, 1, 0x3FF, 0⟩] } }

theorem witness_MemoryAccesses :
    (trained.memUp = true ∧ (∀ w ∈ wordsOf 0x7FFFFFFF0 16, trained.wordEcc w = .good) ∧ trained.fwAllows 9 true 0x7FFFFFFF0 16 = true ∧
      trained.fwAllows 9 false 0x7FFFFFFF0 16 = true) ∧
    (trained.fwAllows 9 true 0x7FFFEFFFF 2 = false ∧ trained.fwAllows 0 false 0 1 = false ∧ trained.on R.memory_FW_LAST_VALID = false ∧
      (trained.put R.memory_FW_LAST_VALID 1).on R.memory_FW_LAST_VALID = true) := by decide +kernel

theorem witness_MemoryScrubbing :
    (trained.memUp = true ∧ up.memUp = false) ∧
    (let s := ((trained.put R.memory_SCRUB_CFG_EN 1).modMem fun m => { m with scrubWord := 2 ^ 30 - 2 }).setWordEcc (2 ^ 30 - 2) .oneSymbol
     s.on R.memory_SCRUB_CFG_EN = true ∧ s.memUp = true ∧ s.mem.scrubWord + 1 < 2 ^ 30 ∧ s.wordEcc s.mem.scrubWord = .oneSymbol) ∧
    (let s := (trained.put R.memory_SCRUB_CFG_EN 1).modMem fun m => { m with scrubWord := 2 ^ 30 - 1 }
     s.on R.memory_SCRUB_CFG_EN = true ∧ s.memUp = true ∧ s.mem.scrubWord + 1 = 2 ^ 30 ∧ s.wordEcc s.mem.scrubWord = .good) := by decide +kernel

theorem witness_MemoryUpkeep :
    (let s := up.modMem fun m => { m with windows := 98, shedBefore := true }
     s.mem.windows + 1 < 100 ∧ s.mem.shedBefore = true) ∧
    (up.mem.windows + 1 < 100 ∧ ((List.range 4).all fun c => decide (0 ≤ up.demand c)) = true ∧
      ([1, 2, 3].all fun c => decide (up.demand c ≤ up.entitlement c)) = true ∧
      up.demand 0 + up.demand 1 + up.demand 2 + up.demand 3 ≤ windowTime) ∧
    (let s := up.modMem fun m => { m with windows := 99, served := [(1, 1000)], metered := [(21, 65537)] }
     s.mem.windows + 1 = 100 ∧ Sparse.get (fun _ => 0) s.mem.served 1 * 8 / 1000 = 8 ∧
       Sparse.get (fun _ => 0) s.mem.admitted 21 + 65536 < Sparse.get (fun _ => 0) s.mem.metered 21 ∧
       Sparse.get (fun _ => 0) s.mem.metered 20 ≤ Sparse.get (fun _ => 0) s.mem.admitted 20 + 65536) ∧
    (trained.memUp = true ∧ (List.range 32).all (fun c => decide (trained.get R.memory_DRIFT_CFG_MIN_WIN ≤ ([] : List Nat).getD c 255)) = true ∧
      (trained.put R.memory_STATUS_WARMUP 1).on R.memory_STATUS_WARMUP = true) ∧
    (let s := puts trained [(R.memory_PD_CFG_DEEP_EN, 1), (R.memory_PD_CFG_LIGHT_EN, 1), (R.memory_PD_CFG_GUARD_US, 7)]
     s.memUp = true ∧ s.on R.memory_STATUS_TRAINED = true ∧ s.get R.memory_STATUS_PD_STATE ≤ 1 ∧ s.on R.memory_PD_CFG_DEEP_EN = true ∧
       s.tMin none = none ∧ s.tMin (some 9) = some 9 ∧ s.on R.memory_PD_CFG_LIGHT_EN = true ∧
       (s.modMot 1 fun m => { m with running := some (1599, 1, 6, 0, 5) }).unitsBusy = true ∧
       9 < 60 + s.get R.memory_PD_CFG_GUARD_US ∧ 2 + s.get R.memory_PD_CFG_GUARD_US ≤ 9) ∧
    ((trained.put R.memory_STATUS_PD_STATE 1).get R.memory_STATUS_PD_STATE = 1 ∧
      (trained.put R.memory_STATUS_PD_STATE 2).get R.memory_STATUS_PD_STATE = 2 ∧ answers up Reg.memory_CTRL = true) := by decide +kernel

theorem witness_FolioCommits :
    (let s := rastered .off 1
     answers s (Reg.folio_COMMIT 63) = true ∧ s.on (R.folio_COMMIT_STATUS_ARMED 63) = false ∧ s.rasterRuns 63 = false ∧
       (rastered .run 1).rasterRuns 63 = true ∧ (rastered .run 1).on (R.folio_COMMIT_STATUS_ARMED 63) = false) ∧
    (let s := puts (rastered .run 1) [(R.folio_COMMIT_STATUS_ARMED 63, 1)]
     let h := s.put (R.folio_COMMIT_STAGE_HOLD 63) 1
     let w := (puts s [(R.folio_CTRL_WAIT_EN 63, 128), (R.pane_SRC_KIND 63 7, 2), (R.folio_COMMIT_CFG_POLICY 63, 0)]).wr (Reg.folio_FENCE_WAIT 63 7) 1
     answers s (Reg.folio_COMMIT 63) = true ∧ s.on (R.folio_COMMIT_STATUS_ARMED 63) = true ∧ s.on (R.folio_COMMIT_STAGE_HOLD 63) = false ∧
       h.on (R.folio_COMMIT_STATUS_ARMED 63) = true ∧ h.on (R.folio_COMMIT_STAGE_HOLD 63) = true ∧
       (s.put (R.folio_COMMIT_STATUS_HELD 63) 0).unreadyPanes 63 = [] ∧ w.on (R.folio_COMMIT_STATUS_ARMED 63) = true ∧
       (w.put (R.folio_COMMIT_STATUS_HELD 63) 0).unreadyPanes 63 ≠ [] ∧ w.on (R.folio_COMMIT_CFG_POLICY 63) = false) ∧
    ((List.range 64).all (fun f => !up.folioOn f) = true ∧ answers up (0x300000 + 16 * 255) = true ∧ answers up (Reg.surf_FENCE 255) = true ∧
      answers up (0x310000 + 0x800 * 63) = true) := by decide +kernel

theorem witness_FolioFrames :
    (let s := rastered .run 39
     s.folioUp 63 = true ∧ s.composing 63 = true ∧ (s.folio 63).waiting = false ∧ (s.folio 63).began = false ∧
       (s.folio 63).holdAsked = false ∧ s.get (R.folio_RASTER_STATUS_LINE 63) = (s.timing 63).fetchLine ∧
       (rastered .run 40).get (R.folio_RASTER_STATUS_LINE 63) ≠ ((rastered .run 40).timing 63).fetchLine) ∧
    (let s := rastered .run 38
     s.folioUp 63 = true ∧ s.raster 63 = .run ∧ (s.folio 63).waiting = false ∧
       s.get (R.folio_RASTER_STATUS_LINE 63) = s.switchLine 63 (s.timing 63) ∧ (s.folio 63).sealDue = none ∧ (s.folio 63).snap = none ∧
       s.on (R.folio_COMMIT_STATUS_ARMED 63) = false ∧ s.act (R.folio_TIMING_MODE_DISP_TIMED 63) = 0 ∧
       s.on (R.folio_RASTER_STATUS_DISP_TIMED_ACTIVE 63) = false ∧
       (rastered .run 2).get (R.folio_RASTER_STATUS_LINE 63) ≠ (rastered .run 2).switchLine 63 ((rastered .run 2).timing 63)) ∧
    (let s := ((rastered .run 1125).put (R.folio_FRAME_NUM 63) 5).modFolio 63 fun x => { x with began := true }
     s.folioUp 63 = true ∧ (s.folio 63).began = true ∧ s.raster 63 = .run ∧
       (s.timing 63).lastActive ≤ s.get (R.folio_RASTER_STATUS_LINE 63) ∧ (s.folio 63).latches = [] ∧ (s.folio 63).margins = [] ∧
       (s.folio 63).dry ≠ 2 ∧ s.get (R.folio_RETIRE 63) ≠ s.frameNum 63 ∧ s.get (R.folio_RETIRE_WAIT 63) ≠ s.frameNum 63) := by decide +kernel

theorem witness_OutputLines :
    (let s := rastered .run 40
     s.folioUp 63 = true ∧ s.rasterRuns 63 = true ∧ (s.folio 63).waiting = false ∧ (s.folio 63).nextLine = none ∧
       s.get (R.folio_RASTER_STATUS_LINE 63) < (s.timing 63).vTotal ∧ s.sdiPorts 63 = [] ∧ s.rasynPorts 63 = [] ∧
       (s.timing 63).inter = false ∧ s.get (R.folio_RASTER_STATUS_LINE 63) + 1 < (s.timing 63).first ∧
       s.get (R.folio_LINE_MATCH_LINE 63) ≠ s.get (R.folio_RASTER_STATUS_LINE 63) + 1) ∧
    (let s := rastered .hold 1125
     s.folioUp 63 = true ∧ s.rasterRuns 63 = true ∧ (s.folio 63).waiting = false ∧ (s.folio 63).nextLine = none ∧
       (s.timing 63).vTotal ≤ s.get (R.folio_RASTER_STATUS_LINE 63)) ∧
    (rastered .off 1).rasterRuns 63 = false ∧ (rastered .off 1).sdiPorts 63 = [] ∧
    (let s := (((rastered .off 1).put (R.port_PORT_CFG_MODE 95) 4).setSdi 95 .txBlack).modPort 95 fun p => { p with sdiSent := some 2, sdiLine := 750 }
     s.rasterRuns 63 = false ∧ s.sdiPorts 63 = [95] ∧ s.sdi 95 = .txBlack ∧ (s.port 95).sdiSent = some 2 ∧ sdiRasters[2]?.isSome = true) := by
  decide +kernel

theorem witness_RasterStarts :
    (let s := rastered .waitStart 0
     let sdi := s.put (R.port_PORT_CFG_MODE 95) 4
     let late := s.modRuling fun u => { u with line := 2 }
     let common := s.modFolio 63 fun x => { x with common := true }
     let fast := common.put (R.folio_TIMING_RATE_NUM 63).active 50
     (sdi.folioUp 63 = true ∧ sdi.raster 63 = .waitStart ∧ sdi.clkGood (sdi.timing 63) = true ∧ sdi.rasterServes 63 (sdi.timing 63) = false) ∧
       (late.folioUp 63 = true ∧ late.raster 63 = .waitStart ∧ late.clkGood (late.timing 63) = true ∧
         late.rasterServes 63 (late.timing 63) = true ∧ late.onTarget 63 (late.timing 63) 0 1 = false) ∧
       (common.folioUp 63 = true ∧ common.raster 63 = .waitStart ∧ common.clkGood (common.timing 63) = true ∧
         common.rasterServes 63 (common.timing 63) = true ∧ (common.folio 63).common = true ∧
         1 % max 1 (common.rateRatio (common.timing 63)).1 ≠ 0 ∧ 6 % max 1 (common.rateRatio (common.timing 63)).1 = 0 ∧
         common.onTarget 63 (common.timing 63) 6 1 = true) ∧
       (fast.rateRatio (fast.timing 63)).1 = 1 ∧
       s.rasterServes 63 (s.timing 63) = true ∧ s.onTarget 63 (s.timing 63) 0 1 = true ∧ (s.folio 63).common = false ∧
       s.folioUp 63 = true ∧ s.raster 63 = .waitStart ∧ s.clkGood (s.timing 63) = true ∧ s.sdiPorts 63 = [] ∧ s.rasynPorts 63 = [] ∧
       (s.timing 63).inter = false ∧ 1 < (s.timing 63).first ∧
       (s.put (R.clock_OUT_CTRL_DIV 0 0) 41).clkGood ((s.put (R.clock_OUT_CTRL_DIV 0 0) 41).timing 63) = false) ∧
    (let s := (((rastered .changing 0).put (R.folio_TIMING_MODE_RUN 63).active 1).modRuling fun u => { u with line := 31 }).modFolio 63 fun x =>
       { x with taken := some [], gap := true }
     let done (s : State) : State :=
       let b := (((s.activate 63 []).commitDone 63 (s.folio 63).takenStale).put (R.folio_COMMIT_STATUS_ARMED 63)
         (s.get (R.folio_COMMIT_STATUS_ARMED 63))).raise (Flag.folio_RASTER_TIMING_CHANGED 63)
       b.modFolio 63 fun x =>
         { x with taken := none, gap := false, disp := 0, snap := b.pendingSnap, nextLine := none, black := false, waiting := false, dtJudged := false, tie := 0, startAt := (b.ruling.frame, b.ruling.line) }
     let sdi := s.put (R.port_PORT_CFG_MODE 95) 4
     let bad := s.put (R.clock_OUT_CTRL_DIV 0 0) 41
     (s.folio 63).taken = some [] ∧ s.folioUp 63 = true ∧ s.raster 63 = .changing ∧ (s.folio 63).gap = true ∧ (s.folio 63).blackLeft = 0 ∧
       ((s.rasynPorts 63).all fun n => (s.port n).modeReply != 1) = true ∧ (done s).clkGood ((done s).timing 63) = true ∧
       (done s).rasterServes 63 ((done s).timing 63) = true ∧
       (done s).onTarget 63 ((done s).timing 63) 0 ((done s).switchLine 63 ((done s).timing 63)) = true ∧
       (done bad).onTarget 63 ((done bad).timing 63) 0 ((done bad).switchLine 63 ((done bad).timing 63)) = true ∧
       (done s).onTarget 63 ((done s).timing 63) 1 ((done s).switchLine 63 ((done s).timing 63)) = false ∧
       sdi.folioUp 63 = true ∧ (done sdi).onTarget 63 ((done sdi).timing 63) 0 ((done sdi).switchLine 63 ((done sdi).timing 63)) = true ∧
       (done sdi).clkGood ((done sdi).timing 63) = true ∧ (done sdi).rasterServes 63 ((done sdi).timing 63) = false ∧
       (done sdi).act (R.folio_TIMING_MODE_RUN 63) = 1 ∧
       (done bad).clkGood ((done bad).timing 63) = false ∧ (done bad).act (R.folio_TIMING_MODE_RUN 63) = 1) ∧
    ((rastered .run 1).folio 63).taken = none := by decide +kernel

theorem witness_DisplayTiming :
    (let s := (sending .run 1).modPort 95 fun p =>
       { p with rx := [⟨7, 0, false, false, false, false, 0, leBytes 1 2 ++ List.replicate 23 0, false⟩] }
     (s.takePacket 95 fun k => k.typ == 7 && leAt k.payload 0 1 == 2).any fun q =>
       decide (q.2.folioOfPort 95 = some 63 ∧ q.2.get (R.folio_CFG_PORT_A 63) = 95 ∧ q.2.rasynOut 95 = true ∧ q.1.payload.length = 24)) = true ∧
    (let s := (rastered .run 1).modFolio 63 fun x => { x with waiting := true, report := true }
     s.folioUp 63 = true ∧ (s.folio 63).waiting = true ∧ (s.folio 63).report = true ∧
       (((0 : Int) : Rat) ≤ ((s.folio 63).teAt : Rat) + (s.get (R.folio_TE_CFG_DELAY_LINES 63) : Rat) * (s.timing 63).lineNs)) ∧
    (let s := (rastered .run 1).modFolio 63 fun x => { x with waiting := true }
     s.folioUp 63 = true ∧ (s.folio 63).waiting = true ∧ (s.folio 63).report = false) ∧
    (let s := ((sending .run 39).modFolio 63 fun x => { x with holdAsked := true }).modPort 95 fun p => { p with holdReply := 2 }
     s.folioUp 63 = true ∧ s.raster 63 = .run ∧ (s.folio 63).holdAsked = true ∧ (s.folio 63).began = false ∧ (s.folio 63).latches = [] ∧
       (s.folio 63).wbOn = false ∧ ((s.folioPorts 63).all fun n => (s.port n).holdReply == 2) = true ∧
       s.get (R.folio_RASTER_STATUS_LINE 63) = (s.timing 63).fetchLine) := by decide +kernel

/-- A device with a Cellar, in a state, and with a drive. -/
def keeping (m : CelMode) : State := puts up [(R.cellar_CFG_PRESENT, 1), (R.cellar_CFG_MAX_STREAMS, 256), (R.cellar_STATE_STATE, m.code)]
def driven (m : CelMode) (d : CelDrive) : State := (keeping m).modCellar fun c => { c with drive := some d }
/-- Entry 255 at work. -/
def entryAs (e : CelEntry) : State := (keeping .ready).modEntry 255 fun _ => e

theorem witness_CellarTriggers :
    (let s := keeping .ready
     answers s (0x1B1000 + 32 * 255) = true ∧ 255 < s.maxEntries ∧ answers s Reg.cellar_HEARTBEAT = true ∧ s.on R.cellar_CFG_PRESENT = true ∧
       s.on R.cellar_CTRL_HB_BOOT = false ∧ (keeping .noDrive).celMode ≠ .ready ∧ s.celMode = .ready ∧
       ((keeping .noDrive).put R.cellar_CTRL_HB_BOOT 1).on R.cellar_CTRL_HB_BOOT = true ∧
       s.on R.cellar_STATE_UPLINK_LOST = false ∧ (s.modCellar fun c => { c with hbSeen := true }).cellar.hbSeen = true ∧
       (s.put R.cellar_CTRL_UPLINK_PIN_EN 1).on R.cellar_CTRL_UPLINK_PIN_EN = true ∧ (s.put R.cellar_STATE_UPLINK_LOST 1).on R.cellar_STATE_UPLINK_LOST = true ∧
       answers s Reg.cellar_INCIDENT_CMD = true) ∧
    ((entryAs { mode := 2 }).celEntry 255).mode = 2 ∧
    (let s := (entryAs { mode := 1 }).modCellar fun c => { c with abandons := [0] }
     let r := (entryAs { mode := 1 }).modFabric fun x => { x with now := { x.now with single := { prerollSize := 1 } } }
     let full := r.modCellar fun c => { c with ring := [⟨0, 255, 1, List.replicate 59000 0, 0, 0, 0, 0, 0, 1, (0, 0)⟩] }
     s.shedPick ((s.entryNums.filter fun n => (s.celEntry n).mode != 0).filter fun n => !(s.celEntry n).suspended) false = some 255 ∧
       (s.lastSecond s.cellar.latches).length * 2 < (s.lastSecond s.cellar.abandons).length * 100 ∧
       full.shedPick ((full.entryNums.filter fun n => (full.celEntry n).mode != 0).filter fun n => !(full.celEntry n).suspended) false = some 255 ∧
       full.ringSize ≠ 0 ∧ full.ringSize * 90 ≤ full.ringPending * 100 ∧
       r.ringPending = 0 ∧ r.lastSecond r.cellar.abandons = [] ∧ (r.entryNums.all fun n => !(r.celEntry n).suspended) = true) ∧
    (let s := (entryAs { mode := 1, suspended := true }).modFabric fun x => { x with now := { x.now with single := { prerollSize := 1 } } }
     s.shedPick (s.entryNums.filter fun n => (s.celEntry n).suspended) true = some 255 ∧ s.ringPending * 100 < s.ringSize * 70 ∧
       s.lastSecond s.cellar.abandons = [] ∧ s.cellar.calm % 10 = 0 ∧ (s.modCellar fun c => { c with calm := 5 }).cellar.calm % 10 ≠ 0) := by
  decide +kernel

/-- A superblock of the device with the test UID: its bytes to the CRC. -/
def superblockHead : List Byte := [0x47, 0x57, 0x43, 0x42] ++ List.replicate 28 0 ++ testUid
def superblockBody : List Byte := superblockHead ++ List.replicate 4044 0
def superblock : List Byte := superblockBody ++ leBytes 4 0xA7943D8D

/-- The CRC register after 337 zeros more. -/
def zeros (c : BitVec 32) : BitVec 32 := (List.replicate 337 (0 : Byte)).foldl crc32Byte c

theorem zeros_0 : zeros 0x0A213185 = 0xB0930EF3 := by decide +kernel
theorem zeros_1 : zeros 0xB0930EF3 = 0x31011E2B := by decide +kernel
theorem zeros_2 : zeros 0x31011E2B = 0xCBA0F346 := by decide +kernel
theorem zeros_3 : zeros 0xCBA0F346 = 0x6677D66B := by decide +kernel
theorem zeros_4 : zeros 0x6677D66B = 0x48BAF16D := by decide +kernel
theorem zeros_5 : zeros 0x48BAF16D = 0xF966AF12 := by decide +kernel
theorem zeros_6 : zeros 0xF966AF12 = 0x3BEF7F40 := by decide +kernel
theorem zeros_7 : zeros 0x3BEF7F40 = 0x8B347450 := by decide +kernel
theorem zeros_8 : zeros 0x8B347450 = 0x42844BB4 := by decide +kernel
theorem zeros_9 : zeros 0x42844BB4 = 0x5C98872D := by decide +kernel
theorem zeros_10 : zeros 0x5C98872D = 0x987CBF87 := by decide +kernel
theorem zeros_11 : zeros 0x987CBF87 = 0x586BC272 := by decide +kernel

theorem zeros_split (k : Nat) (c : BitVec 32) :
    (List.replicate (337 * (k + 1)) (0 : Byte)).foldl crc32Byte c = (List.replicate (337 * k) (0 : Byte)).foldl crc32Byte (zeros c) := by
  rw [zeros, ← List.foldl_append, List.replicate_append_replicate]
  congr 2
  omega

theorem superblock_crc : crc32 superblockBody = 0xA7943D8D := by
  have h : superblockHead.foldl crc32Byte 0xFFFFFFFF = 0x0A213185 := by decide +kernel
  have z : (List.replicate (337 * 12) (0 : Byte)).foldl crc32Byte 0x0A213185 = 0x586BC272 := by
    rw [zeros_split, zeros_0, zeros_split, zeros_1, zeros_split, zeros_2, zeros_split, zeros_3, zeros_split, zeros_4, zeros_split, zeros_5, zeros_split, zeros_6, zeros_split, zeros_7, zeros_split, zeros_8, zeros_split, zeros_9, zeros_split, zeros_10, zeros_split, zeros_11]
    rfl
  rw [crc32, superblockBody, List.foldl_append, h, z]
  rfl

theorem superblock_good : superblockGood superblock = true := by
  have l : superblockBody.length = 4092 := by simp [superblockBody, superblockHead, testUid, beBytes]
  have t : slice superblock 0 4092 = superblockBody := by simp [slice, superblock, List.take_left' l, l]
  have d : slice superblock 4092 4 = leBytes 4 0xA7943D8D := by
    simp only [slice, superblock, List.drop_left' l]
    decide +kernel
  rw [superblockGood, leAt, t, d, superblock_crc]
  decide +kernel

theorem witness_CellarDrive :
    superblockGood superblock = true ∧
    (let r : CelRecord := ⟨4, 255, 1, List.replicate 512 0, 0, 0, 0, 0, 0, 1, (9, 4096)⟩
     let s := ((driven .ready {}).modCellar fun c => { c with ring := [r] }).modFabric fun x => { x with now := { x.now with single := { cellarRate := 1 } } }
     s.celMode = .ready ∧ s.cellar.ringWait = [] ∧ s.cellar.fresh = [] ∧ s.cellar.closing = [] ∧ s.cellar.drive = some {} ∧ s.cellar.ring = [r] ∧
       r.st = 1 ∧ s.cellar.driveDebt = 0 ∧ 0 < s.tenMs ∧ 1 ≤ r.bytes.length ∧ r.bytes.length ≤ ({} : CelDrive).transfer) ∧
    (let c : CelClose := ⟨⟨1, 255, 1599, 0, 0, 0, [], [], 0, 0, 0, 0, 0, 0, 0, 0, 0⟩, 7, 0, 0, false, none, true, 63, [], 0, []⟩
     ((keeping .ready).modCellar fun x => { x with closing := [c] }).signing = true ∧ (keeping .ready).signing = false) ∧
    ((keeping .ready).celMode = .ready ∧ (keeping .blank).celMode ≠ .ready ∧ (keeping .ready).cellar.dirty = false ∧
      (List.all [CelTag.records [4], .other, .dirEntry 9] fun t =>
        ((keeping .ready).modCellar fun c => { c with nvme := [(7, t)] }).cellar.nvme.find? (fun x => x.1 == 7) == some (7, t)) = true ∧
      (keeping .ready).testRoot = false ∧ ((keeping .ready).modCellar fun c => { c with dirty := true }).cellar.dirty = true) ∧
    ((keeping .init).celMode = .init ∧ slice superblock 32 16 ≠ slice (keeping .init).uid 0 16 ∧
      slice superblock 32 16 = slice ((keeping .init).modFuses fun f => { f with uid := ⟨testUid, crc32 testUid⟩ }).uid 0 16) ∧
    ((keeping .noDrive).celMode = .noDrive ∧ (keeping .fault).celMode = .fault) ∧
    ((driven .ready {}).cellar.drive.isSome = true ∧ (driven .ready {}).driveError.cellar.timeouts = 0 ∧
      ((driven .ready {}).modCellar fun c => { c with timeouts := 1 }).driveError.cellar.timeouts ≠ 0) :=
  ⟨superblock_good, by decide +kernel⟩

/-- A directory entry of a closed segment of no blocks. -/
def dirEntry : List Byte := List.replicate 8 0 ++ [1] ++ List.replicate 119 0

theorem witness_CellarCommands :
    (idle (keeping .ready) Reg.cellar_RESULT = true) ∧
    (let s := driven .foreign {}
     idle s Reg.cellar_RESULT = true ∧ s.cellar.drive = some {} ∧ s.celMode = .foreign ∧ s.strong.formatPermit = none) ∧
    (let u := (puts (driven .blank { cbCount := 2 ^ 24 }) [(R.cellar_FMT_CFG_EXTENT_MIB, 1024), (R.cellar_FMT_CFG_DIR_4K, 1)]).accept Reg.cellar_RESULT
     u.celMode = .blank ∧ (u.put R.strongroom_DRBG_STATUS_OK 1).entropyOk = true ∧
       ((u.put R.strongroom_DRBG_STATUS_OK 1).drawn.formatDrive { cbCount := 2 ^ 24 } []).isSome = true ∧ (u.drawn.formatDrive { cbCount := 2 ^ 24 } []).isSome = true) ∧
    (let s := (keeping .ready).modCellar fun c => { c with dir := [(0, dirEntry, true)] }
     let u := s.accept Reg.cellar_RESULT
     idle s Reg.cellar_RESULT = true ∧ u.celMode = .ready ∧ u.on R.hostif_LINK_BME = false ∧
       (u.put R.hostif_LINK_BME 1).on R.hostif_LINK_BME = true ∧
       (u.cellar.dir.find? fun x => x.1 == u.get R.cellar_ARG_GSEQ_LO + 2 ^ 32 * u.get R.cellar_ARG_GSEQ_HI &&
         (dirState x.2.1 == 1 || dirState x.2.1 == 2)) = some (0, dirEntry, true) ∧ leAt dirEntry 24 4 ≤ u.get R.cellar_ARG_LEN) ∧
    (keeping .blank).celMode = .blank ∧ (keeping .ready).entryOn 255 = false ∧ ((keeping .ready).celEntry 255).ended = [] ∧
    (let s := (((entryAs { mode := 1 }).wr (Reg.cellar_ENTRY_CTRL 255) 0x80000000).wr (Reg.cellar_ENTRY_AUDIO 255) 0x08000000).modAudio
       fun a => { a with k := 1056 }
     let e := s.celEntry 255
     let m := s.nextSpan 255
     getBits (s.entryAudio 255) 31 27 ≠ 0 ∧ s.entryOn 255 = true ∧ e.suspended = false ∧ e.mode ≠ 0 ∧ 255 < s.maxEntries ∧
       s.audioOn = true ∧ 960 * (m + 1) + 96 ≤ s.audio.k ∧ s.inCount = 0) ∧
    answers (keeping .ready) Reg.cellar_DIR_CURSOR_LO = true := by decide +kernel

theorem witness_RegisterWrites :
    (answers up 0x10054 = true ∧ (regLookup 0x10054).isSome = true ∧ answers up 0x22FFFC = true) ∧
    ((List.range 256).all (fun i => !up.on (R.hostif_VEC_CFG_AUTO_REARM i)) = true ∧ answers up Reg.ruling_INT_EN = true ∧
      answers up Reg.ruling_INT_STATUS = true ∧ answers up Reg.ruling_STATUS = true ∧ answers up 0x10058 = true) ∧
    ((up.clusterOfAddr 0x3FFFFC).any up.quiesced = false ∧ (State.reset.wr Reg.power_DOM_ON_LO 0).regLive 0x3FFFFC = false ∧
      ((State.reset.wr Reg.power_DOM_ON_LO 0).clusterOfAddr 0x3FFFFC).any State.reset.quiesced = false) ∧
    ((loading .quiesced true).clusterOfAddr (Reg.port_PORT_CFG 95)).any (loading .quiesced true).quiesced = true := by decide +kernel

theorem witness_BusAccesses :
    (let s := (linkUp 95 1 .active).modPort 95 fun p => { p with mailbox := [⟨255, 15, 3, List.replicate 64 0⟩] }
     s.regLive (Reg.port_RX_HDR 95) = true ∧ (s.port 95).mailbox = [⟨255, 15, 3, List.replicate 64 0⟩] ∧
       (List.replicate 64 (0 : Byte)).length ≤ 64 ∧ ((linkUp 95 1 .active).port 95).mailbox = []) ∧
    (up.domainOn 7 = true ∧ bar0Decodes 0x30000 = false ∧ bar0Decodes 0x3FFFFC = true ∧ 0x3FFFFC % 4 = 0) ∧
    (let s := up.wr Reg.power_DOM_ON_HI 0x2FFFFFFF
     s.domainOn 2 = true ∧ s.domainOn 60 = false ∧ 0x7FFFFC < 0x800000 ∧ 0x7FFFFC % 4 = 0 ∧ icxTarget 0x20000 = none ∧
       icxTarget (0xFFFFFFFF / 4 * 4) = none) := by decide +kernel

/-- A device where interrupt source 0 leads to vector 255 and holds. -/
def signalling : State := puts up [(R.hostif_IRQ_ROUTE_EN 0, 1), (R.hostif_IRQ_ROUTE_VECTOR 0, 255), (R.hostif_VEC_CFG_ARMED 255, 1),
  (⟨Reg.ruling_INT_STATUS, 0, 0⟩, 1), (⟨Reg.ruling_INT_EN, 0, 0⟩, 1)]

theorem witness_HostEndpoint :
    (signalling.vectorCond 255 = true ∧ signalling.on (R.hostif_VEC_CFG_ARMED 255) = true ∧ signalling.host.holdoff.contains 255 = false ∧
      signalling.get (R.hostif_VEC_CFG_HOLDOFF_US 255) = 0 ∧ signalling.vectorMasked 255 = true ∧
      (puts signalling [(R.hostif_MSIX_VCTRL_MASK 255, 0), (R.hostif_LINK_BME, 1), (R.hostif_LINK_MSIX_EN, 1)]).vectorMasked 255 = false) ∧
    (answers up Reg.hostif_VEC_EOI = true ∧ answers up (Reg.hostif_MSIX_VCTRL 255) = true ∧
      (List.range 256).all (fun u => !up.on (pbaFld u)) = true) ∧
    (up.host.memorySpace = false ∧ { up with host := { memorySpace := true } }.host.memorySpace = true) ∧
    answers up Reg.hostif_CTRL = true := by decide +kernel

theorem witness_DmaChannels :
    (let s := puts trained [(R.hostif_DMA_STATUS_STATE 3, 1), (R.hostif_LINK_BME, 1)]
     s.dmaRuns 3 = true ∧ s.on R.hostif_LINK_BME = true ∧ descRange 0 0 = false ∧ descRange (2 ^ 35 - 1) 2 = false ∧
       descRange (2 ^ 35 - 16777216) 16777216 = true ∧ s.memUp = true ∧ descRange (2 ^ 35 - 16) 16 = true ∧
       s.someRefused true (2 ^ 35 - 16) 16 = false ∧ s.someRefused false (2 ^ 35 - 16) 16 = false ∧
       (List.replicate 16 (0 : Byte)).length = 16) ∧
    (2 % 4 ≠ 0 ∧ 0x3FFFFC % 4 = 0 ∧ bar0Decodes 0x3FFFFC = true) ∧
    (answers up (Reg.hostif_DMA_TAIL 3) = true ∧ answers up (Reg.hostif_DMA_CTRL 3) = true) := by decide +kernel

theorem witness_FlashCommands :
    (let s := up.put R.sysif_FLASH_LEN 256
     answers s Reg.sysif_FLASH_CMD = true ∧ idle s Reg.sysif_FLASH_RESULT = true ∧ 1 ≤ s.get R.sysif_FLASH_LEN ∧
       s.get R.sysif_FLASH_LEN ≤ 256 ∧ 131072 % 256 + s.get R.sysif_FLASH_LEN ≤ 256 ∧ 256 < 131073 % 256 + s.get R.sysif_FLASH_LEN ∧
       (s.put R.sysif_FLASH_CFG_WP_64K 0).on R.sysif_FLASH_CFG_WP_64K = false ∧
       (s.put R.sysif_FLASH_CFG_WP_64K 1).on R.sysif_FLASH_CFG_WP_64K = true ∧ ¬ 131072 ≤ 131071 ∧
       (s.put R.sysif_FLASH_LEN 257).get R.sysif_FLASH_LEN = 257 ∧ (s.put R.sysif_FLASH_LEN 0).get R.sysif_FLASH_LEN = 0) ∧
    (List.all [1, 2, 3] fun op => { up with sysif := { up.sysif with flashOp := some (op, 0, 256, [0]) } }.sysif.flashOp
      == some (op, 0, 256, [0])) = true := by decide +kernel

theorem witness_BoardBuses :
    (up.power.vbatOnly = false ∧ up.domainOn 61 = true ∧
      (List.all [-128, 127] fun n : Int =>
        let s := (List.range 28).foldl (fun s k => s.putInt (R.power_TS_TEMP k) (10 * n)) up
        (List.range 28).all fun k => !s.on (R.power_TS_FAILED k) && s.getInt (R.power_TS_TEMP k) == 10 * n) = true) ∧
    (let s := up.put (R.sysif_PMB_DEV_EN 7) 1
     s.on (R.sysif_PMB_DEV_EN 7) = true ∧ ((0x3000 : BitVec 16).toNat : Rat) * twoTo ((-12 : BitVec 5) : BitVec 5).toInt * 1000 = ((3000 : Nat) : Rat) ∧
       linear11 0x0005 * 100 = ((500 : Nat) : Rat) ∧ linear11 0x07FF * 10 = (((-10 : Int)) : Rat) ∧ -(2 ^ 15) ≤ (-10 : Int) ∧
       Sparse.get (fun _ => 0) s.sysif.pmbFails 7 = 0 ∧
       Sparse.get (fun _ => 0) { s with sysif := { s.sysif with pmbFails := [(7, 2)] } }.sysif.pmbFails 7 = 2 ∧
       s.on (R.sysif_PMB_DEV_ABSENT 7) = false) ∧
    (let s := up.wr (Reg.sysif_GPIO_CFG 31) 0
     s.gpio.pins.getLsbD 31 = !true ∧ s.get (R.sysif_GPIO_CFG_FUNC 31) = 0 ∧ (s.rd Reg.cellar_INC_GPIO).getLsbD 31 = false ∧
       s.on R.power_QUIET_CFG_EN = false ∧ s.on R.power_WAKE_CFG_GPIO_EN = false) ∧
    (let s := (puts up [(R.power_WAKE_CFG_GPIO_EN, 1), (R.power_WAKE_CFG_GPIO, 31), (R.power_WAKE_CFG_TARGET, 1), (R.power_PWR_STATE_STATE, 2),
       (⟨Reg.power_DOM_ON_LO, 9, 9⟩, 0)]).wr (Reg.sysif_GPIO_CFG 31) 0
     s.domainOn 61 = true ∧ s.gpio.pins.getLsbD 31 = !true ∧ s.get (R.sysif_GPIO_CFG_FUNC 31) = 0 ∧ s.on R.power_WAKE_CFG_GPIO_EN = true ∧
       s.get R.power_WAKE_CFG_GPIO = 31 ∧ s.get R.power_WAKE_CFG_TARGET ≤ 1 ∧ s.get R.power_PWR_STATE_STATE = 2 ∧ s.domainOn 9 = false ∧
       (true ^^ s.on (R.sysif_GPIO_CFG_POL 31)) = true) := by decide +kernel

/-- The bare device after its boot, in a power state. -/
def poweredAs (st : Nat) : State := { (State.reset.put R.power_PWR_STATE_STATE st) with boot := { held := false } }

theorem witness_PowerCommands :
    (List.all [0, 1, 2, 3, 6] fun st => (poweredAs st).get R.power_PWR_STATE_STATE == st && answers (poweredAs st) Reg.power_PWR_CMD &&
      idle (poweredAs st) Reg.power_PWR_RESULT && (poweredAs st).power.next.isNone) = true ∧
    ((0 : BitVec 4) = 0 ∧ 4 ≤ (4 : BitVec 4).toNat) ∧
    (let s := puts (poweredAs 2) [(R.power_WAKE_CFG_TIMER_EN, 1), (R.power_WAKE_CFG_TARGET, 1)]
     s.on R.power_WAKE_CFG_TIMER_EN = true ∧ s.get R.power_PWR_STATE_STATE = 2 ∧ s.get R.power_WAKE_CFG_TARGET ≤ 1 ∧
       (s.put R.power_WAKE_CFG_TIMER_EN 0).on R.power_WAKE_CFG_TIMER_EN = false ∧
       (s.put R.power_PWR_STATE_STATE 1).get R.power_PWR_STATE_STATE ≤ 1) ∧
    (let s := (poweredAs 5).modPower fun p => { p with owned := true }
     s.get R.power_PWR_STATE_STATE = 5 ∧ s.get R.power_PWR_STATE_STATE ≠ 6 ∧ (poweredAs 6).get R.power_PWR_STATE_STATE = 6 ∧
       (poweredAs 6).get R.power_PWR_STATE_STATE ≠ 5 ∧ s.power.next = none ∧ s.power.owned = true ∧ s.on R.fabric_STATE_CONFIGURED = false ∧
       (List.range 62).all (fun d => s.domainOn d == bareDomain d) = true ∧
       (List.range 96).all (fun n => !s.on (R.port_PWR_CTRL_QUIET_OFF n)) = true) := by decide +kernel

/-- A closed segment whose footer is not yet written. -/
def aClose : CelClose := ⟨⟨0, 0, 0, 0, 0, 0, [], [], 0, 0, 0, 0, 0, 0, 0, 0, 0⟩, 0, 0, 0, false, none, false, 63, [], 0, []⟩

theorem witness_StandbyAndPowerFailure :
    ((poweredAs 3).get R.power_PWR_STATE_STATE = 3 ∧ (poweredAs 3).standbyReady = true ∧
      ((poweredAs 3).modCellar fun c => { c with closing := [aClose] }).standbyReady = false ∧ (poweredAs 2).get R.power_PWR_STATE_STATE ≠ 3) ∧
    (let s := (poweredAs 4).modPower fun p => { p with flushed := 511 }
     (poweredAs 3).get R.power_PWR_STATE_STATE ≠ 4 ∧ s.get R.power_PWR_STATE_STATE = 4 ∧ s.power.target = 0 ∧ s.power.next = none ∧
       s.fabric.now = {} ∧ s.on R.fabric_STATE_CONFIGURED = false ∧ s.get R.power_SHED = 0 ∧ s.strong.tamperLog = [] ∧
       s.power.flushed < 512 ∧ (List.range 96).all (fun n => !s.on (R.port_PWR_CTRL_STANDBY_OFF n)) = true ∧
       (List.range 64).all (fun f => !s.folioOn f) = true) ∧
    (let s := (poweredAs 0).modBoot fun b => { b with recorded := true }
     (poweredAs 2).get R.power_PWR_STATE_STATE = 2 ∧ ((poweredAs 0).modPower fun p => { p with vbatOnly := true }).power.vbatOnly = true ∧
       ((poweredAs 0).modPower fun p => { p with shutdown := true }).power.shutdown = true ∧ (poweredAs 0).boot.recorded = false ∧
       s.get R.power_PWR_STATE_STATE ≠ 2 ∧ s.power.vbatOnly = false ∧ s.power.shutdown = false ∧ s.boot.recorded = true) ∧
    (let s := (poweredAs 0).put R.power_PWR_STATE_PF_ACTIVE 1
     (poweredAs 0).on R.power_PWR_STATE_PF_ACTIVE = false ∧ s.on R.power_PWR_STATE_PF_ACTIVE = true ∧ s.cellar.entries = [] ∧
       s.cellar.closing = []) := by decide +kernel

/-- The bare device at a temperature in 0.1 °C and a thermal level, with thresholds of 135, 142 and 155 °C. -/
def warm (t : Int) (level : Nat) (p : PowerState) : State :=
  { ((puts (poweredAs 0) [(R.power_TH_CFG_WARN, 135), (R.power_TH_CFG_THROTTLE, 142), (R.power_TH_CFG_SHUTDOWN, 155), (R.power_TH_CFG_MAX_STEP, 15),
    (R.power_TH_STATUS_LEVEL, level)]).putInt R.power_TH_STATUS_T_MAX t) with power := p }

theorem witness_ThermalLevels :
    ((warm 0 0 { vbatOnly := true }).power.vbatOnly = true ∧ (warm 0 0 { shutdown := true }).power.shutdown = true ∧
      (warm 0 0 {}).power.vbatOnly = false ∧ (warm 0 0 {}).power.shutdown = false) ∧
    (let f := R.memory_STATUS_BAND_S1
     let s := ((up.put f 1).putInt (R.power_TS_TEMP 26) 1220).modMem fun m => { m with bandRun := [(5, (7, 0))] }
     let u := ((up.put f 3).putInt (R.power_TS_TEMP 26) 789).modMem fun m => { m with bandRun := [(3, (0, 7)), (4, (0, 7)), (5, (0, 7))] }
     let v := (up.put f 1).putInt (R.power_TS_TEMP 26) 800
     pairFailed s 26 27 = false ∧ max (s.effective 26) (s.effective 27) = 1220 ∧ (s.bandRun 1 2).1 = 7 ∧ s.get f = 1 ∧
       pairFailed u 26 27 = false ∧ max (u.effective 26) (u.effective 27) = 789 ∧ (u.bandRun 1 0).2 = 7 ∧ u.get f = 3 ∧
       pairFailed v 26 27 = false ∧ max (v.effective 26) (v.effective 27) = 800 ∧ v.get f = 1 ∧ (v.bandRun 1 0).1 = 0) ∧
    (up.sensorFailed 27 = false ∧ (up.sensor 27).bad < 3 ∧ 3 ≤ ((up.modSensor 27 fun x => { x with bad := 3 }).sensor 27).bad ∧
      (up.modSensor 27 fun x => { x with bad := 3 }).sensorFailed 27 = false) ∧
    (let s := (up.put (R.power_TS_FAILED 27) 1).modSensor 27 fun x => { x with goodNs := some 500000000 }
     s.sensorFailed 27 = true ∧ (s.sensor 27).goodNs = some 500000000 ∧ 1000000000 ≤ 500000000 + 500000000 ∧
       500000000 + 499999999 < 1000000000) ∧
    (let at' (s : State) (f : Fld) : Int := 10 * (s.get f : Int)
     let tm (s : State) : Int := s.getInt R.power_TH_STATUS_T_MAX
     (at' (warm 1550 2 { shutIn := 7 }) R.power_TH_CFG_SHUTDOWN ≤ tm (warm 1550 2 { shutIn := 7 })) ∧
     (let s := warm 1420 1 { thrIn := 7 }
      tm s < at' s R.power_TH_CFG_SHUTDOWN ∧ s.get R.power_TH_STATUS_LEVEL ≤ 1 ∧ at' s R.power_TH_CFG_THROTTLE ≤ tm s ∧ 7 ≤ s.power.thrIn ∧
        s.maxStep ≠ 0 ∧ s.on R.power_TH_STATUS_HOLD = false ∧ s.on R.power_TH_STATUS_ADJ_FAIL = false) ∧
     (let s := warm 1389 2 { thrOut := 7, warn := true }
      s.get R.power_TH_STATUS_LEVEL = 2 ∧ s.power.warn = true ∧ at' s R.power_TH_CFG_WARN ≤ tm s ∧
        tm s < at' s R.power_TH_CFG_THROTTLE - 30 ∧ 7 ≤ s.power.thrOut) ∧
     (let s := warm 1350 0 { warnIn := 7 }
      s.get R.power_TH_STATUS_LEVEL = 0 ∧ s.power.warn = false ∧ at' s R.power_TH_CFG_WARN ≤ tm s ∧ tm s < at' s R.power_TH_CFG_THROTTLE ∧
        7 ≤ s.power.warnIn) ∧
     (let s := warm 1319 1 { warnOut := 7, warn := true }
      s.get R.power_TH_STATUS_LEVEL = 1 ∧ s.power.warn = true ∧ tm s < at' s R.power_TH_CFG_WARN - 30 ∧
        at' s R.power_TH_CFG_WARN ≤ at' s R.power_TH_CFG_THROTTLE ∧ 7 ≤ s.power.warnOut)) := by decide +kernel

/-- No group has a regulator polled on a device where none is enabled. -/
theorem groupPolled_none (s : State) (h : ((List.range 8).all fun k => !s.on (R.sysif_PMB_DEV_EN k)) = true) (g : Nat) : s.groupPolled g = [] := by
  rw [State.groupPolled, List.filter_eq_nil_iff]
  intro k hk
  simp only [List.all_eq_true, Bool.not_eq_true'] at h
  simp [h k hk]

theorem witness_ThrottleAndEstimate :
    (let s := up.put R.power_TH_CFG_CLKDIV 1
     up.on R.power_TH_CFG_CLKDIV = false ∧ s.on R.power_TH_CFG_CLKDIV = true ∧ s.fabric.now.clockExempt 59 = true ∧
       s.fabric.now.clockExempt 56 = false) ∧
    (let s := (warm 1420 2 {}).put R.power_TH_CFG_CLKDIV 1
     s.power.vbatOnly = false ∧ s.power.shutdown = false ∧ s.on R.power_TH_CFG_CLKDIV = true ∧ s.on R.power_TH_STATUS_ADJ_FAIL = false ∧
       s.maxStep ≠ 0 ∧ 10000000 ≤ s.power.stepNs ∧ s.get R.power_TH_STATUS_LEVEL = 2 ∧
       10 * (s.get R.power_TH_CFG_THROTTLE : Int) ≤ s.getInt R.power_TH_STATUS_T_MAX) ∧
    (let s := (warm 1400 1 {}).put R.power_TH_CFG_CLKDIV 1
     s.get R.power_TH_STATUS_LEVEL ≠ 2 ∧ s.on R.power_TH_STATUS_HOLD = false ∧
       (s.put R.power_TH_STATUS_HOLD 1).on R.power_TH_STATUS_HOLD = true ∧ 10000000 ≤ s.power.stepNs ∧
       s.on R.power_TH_CFG_CLKDIV = true ∧ s.on R.power_TH_STATUS_ADJ_FAIL = false ∧ s.maxStep ≠ 0) ∧
    (List.all [(0, 0), (1001, 1), (1001, 13), (1001, 14), (900, 14)] fun q =>
      let s := puts (warm 0 0 { stepNs := 9999999, est := (q.1 : Nat) }) [(R.power_EST_CFG_POWER_CAP, if q.1 = 0 then 0 else 10),
        (R.power_SHED, 2 ^ q.2 - 1)]
      decide (s.power.stepNs < 10000000 ∧ s.on R.power_TH_CFG_CLKDIV = false ∧ s.get R.power_SHED = 2 ^ q.2 - 1 ∧
        s.powerLimit = (if q.1 = 0 then none else some 1000) ∧ (1000 < s.power.est ↔ q.1 = 1001) ∧ (s.power.est ≤ 1000 * 9 / 10 ↔ q.1 ≤ 900))) = true ∧
    (∀ g, (poweredAs 0).groupPolled g = []) ∧
    (let s (mw : Nat) := ((puts up [(R.power_PMB_RAIL_GROUP 7, 10), (R.sysif_PMB_DEV_EN 7, 1)]).modPower fun p => { p with groups := [(10, mw)] })
     let t (mw : Nat) := { s mw with sysif := { up.sysif with polls := [(7, [100000])] } }
     (t 1100).groupPolled 10 ≠ [] ∧ (t 1100).groupEst 10 - (t 1100).measured 10 ≤ (t 1100).measured 10 / 10 ∧
       (t 1100).measured 10 - (t 1100).groupEst 10 ≤ (t 1100).measured 10 / 10 ∧ 0 < (t 2000).groupEst 10 ∧
       (t 2000).measured 10 / 10 < (t 2000).groupEst 10 - (t 2000).measured 10 ∧
       1 / 2 ≤ (t 2000).groupScale 10 * (t 2000).measured 10 / (t 2000).groupEst 10 ∧
       (t 2000).groupScale 10 * (t 2000).measured 10 / (t 2000).groupEst 10 ≤ 2) :=
  ⟨by decide +kernel, by decide +kernel, by decide +kernel, by decide +kernel, groupPolled_none _ (by decide +kernel), by decide +kernel⟩

/-- The device with a write of its own running on bank 7. -/
def writingPage (w : AtticWrite) : State := up.modAttic fun a => { a with running := [w] }

theorem witness_AtticCommands :
    (idle up Reg.blotter_ATTIC_RESULT = true ∧ (6655 : BitVec 14).toNat < 6656 ∧ 8192 ≤ (8192 : BitVec 14).toNat ∧
      (8191 : BitVec 14).toNat < 8192 ∧
      (let u := up.put R.blotter_ATTIC_BP_LEVEL 1
       idle u Reg.blotter_ATTIC_RESULT = true ∧ u.atticProtected 12287 = false ∧ u.atticProtected 12288 = true)) ∧
    (answers up (Reg.blotter_ATTIC_BUF 15) = true ∧ answers up Reg.blotter_ATTIC_BP = true) ∧
    (List.all [true, false] fun again =>
      let s := writingPage ⟨.host, 16383, [(63, 0)], false, .hostCmd, again⟩
      decide (16383 % 8 = 7 ∧ s.attic.running = [⟨.host, 16383, [(63, 0)], false, .hostCmd, again⟩] ∧ s.attic.waiting = [] ∧
        (Sparse.get (fun _ => 0) s.attic.wear 7 + 1) % 1024 ≠ 0) && (s.attic.running.all fun w => w.page % 8 != 6)) = true ∧
    (let s := writingPage ⟨.m3, 16383, [(63, 0)], false, .group [(4097, [], true)], false⟩
     s.attic.running = [⟨.m3, 16383, [(63, 0)], false, .group [(4097, [], true)], false⟩] ∧ s.attic.waiting = [] ∧
       (Sparse.get (fun _ => 0) s.attic.wear 7 + 1) % 1024 ≠ 0) ∧
    (let w : AtticWrite := ⟨.host, 16383, [(62, 0x0F)], false, .hostCmd, false⟩
     let s := up.modAttic fun a => { a with bytes := [(64 * 16383 + 62, ⟨0xF0, .good, false⟩)] }
     w.lastPhase 62 = false ∧ s.atticAt (64 * w.page + 62) = ⟨0xF0, .good, false⟩ ∧ (0x1F : Byte) ≠ 0xF0 ∧ (0x1F : Byte) ≠ 0x0F ∧
       (0x1F : Byte) ≠ 0xFF ∧ between 0xFF 0x0F 0x1F = true) ∧
    ((List.range 64).all (fun i => !(up.atticAt (64 * 16383 + i)).weak && (up.atticAt (64 * 16383 + i)).cond != .bad) = true ∧
      ((up.modAttic fun a => { a with bytes := [(64 * 16383 + 63, ⟨0, .bad, false⟩)] }).atticAt (64 * 16383 + 63)).cond = .bad) := by
  decide +kernel

/-- A record of the ring. -/
def aRecord (isOpen pending : Bool) : BlotRecord :=
  { seq := 0, opS := 0, opFrac := 0, cycles := 0, sev := 1, code := 0x0601, inst := 3, data := [], isOpen := isOpen, pending := pending }

/-- A vendor device with a Blotter clear in its buffer. -/
def clearing : State := commandedAt (Reg.blotter_CLEAR_BUF 0) (vendor clearBlkHash) clearBlk

theorem witness_BlotterCommands :
    (let s := up.modBlot fun b => { b with ring := [aRecord true false] }
     up.blot.ring.find? (fun r => r.isOpen && r.code == (0x0601 : BitVec 16).toNat && r.inst == (3 : BitVec 16).toNat) = none ∧
       s.blot.ring.find? (fun r => r.isOpen && r.code == (0x0601 : BitVec 16).toNat && r.inst == (3 : BitVec 16).toNat)
         = some (aRecord true false) ∧ s.blot.ring = [aRecord true false] ∧ (aRecord true false).notPersisted = false ∧
       s.on R.blotter_ATTIC_STATUS_FAILED = false ∧ (s.put R.blotter_ATTIC_STATUS_FAILED 1).on R.blotter_ATTIC_STATUS_FAILED = true) ∧
    (let s := up.modBlot fun b => { b with ring := [aRecord false true] }
     s.on R.blotter_ATTIC_STATUS_FAILED = false ∧ s.attic.running = [] ∧ s.attic.waiting = [] ∧ s.blot.ring = [aRecord false true] ∧
       (aRecord false true).pending = true ∧ (aRecord false true).issued = false ∧
       s.atticProtected ((aRecord false true).seq % 8192 / 2) = false) ∧
    (up.attic.running = [] ∧ up.attic.waiting = [] ∧ up.atticProtected (4096 + 8 * 34 + 2 * ((up.hist 34).nextCopy % 4)) = false ∧
      (up.put R.blotter_ATTIC_BP_LEVEL 15).atticProtected (4096 + 8 * 34 + 2 * (((up.put R.blotter_ATTIC_BP_LEVEL 15).hist 34).nextCopy % 4)) = true) ∧
    (let s := up.modAttic fun a => { a with opReserve := 1 }
     (s.put R.blotter_OP_S 1023).get R.blotter_OP_S < (s.put R.blotter_OP_S 1023).attic.opReserve * 1024 ∧
       (s.put R.blotter_OP_S 1024).attic.opReserve * 1024 ≤ (s.put R.blotter_OP_S 1024).get R.blotter_OP_S) ∧
    (answers up Reg.blotter_SNAP_CMD = true ∧ answers up Reg.blotter_CAL_SET = true ∧ idle up Reg.blotter_CLEAR_RESULT = true) ∧
    (up.accept Reg.blotter_CLEAR_RESULT).clearCheck ((up.accept Reg.blotter_CLEAR_RESULT).getBytes (Reg.blotter_CLEAR_BUF 0) 82) ≠ 0 ∧
    (idle clearing Reg.blotter_CLEAR_RESULT = true ∧ (clearing.accept Reg.blotter_CLEAR_RESULT).clearCheck
      ((clearing.accept Reg.blotter_CLEAR_RESULT).getBytes (Reg.blotter_CLEAR_BUF 0) 82) = 0) := by decide +kernel

theorem witness_OperatingSeconds :
    (up.domainOn 0 = true ∧ up.inReset = false ∧ up.domainOn 4 = true ∧
      ((poweredAs 0).put ⟨Reg.power_DOM_ON_LO, 4, 4⟩ 0).domainOn 4 = false ∧ ((poweredAs 0).put ⟨Reg.power_DOM_ON_LO, 4, 4⟩ 0).inReset = false ∧
      ((poweredAs 0).put ⟨Reg.power_DOM_ON_LO, 4, 4⟩ 0).domainOn 0 = true) ∧
    (let s := State.reset.wr Reg.power_DOM_ON_LO 3
     s.domainOn 0 = true ∧ s.inReset = true) ∧
    binOf (histEdges 34) 0 < (up.hist 34).bins.length := by decide +kernel

theorem witness_Resets :
    ((poweredAs 0).power.vbatOnly = false ∧ ((poweredAs 0).modPower fun p => { p with vbatOnly := true }).power.vbatOnly = true) ∧
    ((poweredAs 0).boot.drain = false ∧ ((poweredAs 0).modBoot fun b => { b with drain := true }).boot.drain = true) ∧
    (let s := (poweredAs 0).put R.global_BOOT_STATUS_STAGE 3
     (poweredAs 2).coreRuns = false ∧ s.coreRuns = true ∧ s.boot.drain = false ∧ (s.modBoot fun b => { b with drain := true }).coreRuns = true ∧
       answers s Reg.global_RESET_CMD = true) := by decide +kernel

theorem witness_StartUp :
    (State.reset.boot.held = true ∧ State.reset.power.vbatOnly = false ∧ State.reset.power.shutdown = false ∧ State.reset.tooHot = false ∧
      (poweredAs 0).boot.held = false ∧ (State.reset.modPower fun p => { p with vbatOnly := true }).power.vbatOnly = true ∧
      (State.reset.modPower fun p => { p with shutdown := true }).power.shutdown = true ∧
      (let s := (State.reset.put R.power_TH_CFG_SHUTDOWN 155).putInt R.power_TH_STATUS_T_MAX 1500
       s.tooHot = true ∧ s.boot.held = true)) ∧
    (let s := (poweredAs 0).modBoot fun b => { b with waiting := true }
     (poweredAs 0).boot.waiting = false ∧ (s.put R.memory_STATUS_TRAINED 1).on R.memory_STATUS_TRAINED = true ∧ s.boot.waiting = true ∧
       s.on R.memory_STATUS_TRAINED = false ∧ [(31 : Fin 32)] ≠ [] ∧ s.mem.trainTries < 3 ∧
       3 ≤ (s.modMem fun m => { m with trainTries := 3 }).mem.trainTries) ∧
    (let s := ((poweredAs 1).modBoot fun b => { b with waiting := true }).put R.memory_STATUS_TRAINED 1
     s.loadTarget = some 1 ∧ s.boot.waiting = true ∧ s.on R.memory_STATUS_TRAINED = true) ∧
    answers (poweredAs 0) Reg.global_FAULT_ACK = true := by decide +kernel

/-- The bare device after boot with a command waiting and a byte of memory written. -/
def waiting : State := { poweredAs 0 with pending := [.tapReset], mem := { bytes := [⟨5, 7⟩] } }

theorem witness_StepKeepsInv : Inv waiting ∧ ∃ t, step waiting = .next t :=
  ⟨⟨by decide +kernel, by decide +kernel, rfl, rfl, rfl, rfl, rfl, by decide +kernel⟩, _, rfl⟩

/-! Ill-formed operands, one for each check of `Instr.wf`. -/

def someMoment : Moment := ⟨0, 0, 0, [], none, true, true, 0⟩

theorem test_ill_formed_images (b : List Byte) (h : b.length = 4194305) : Instr.wf (.fabricVerify (some b)) = false ∧
    Instr.wf (.fabricLoad (some b)) = false := by simp [Instr.wf, h]

theorem test_ill_formed_links : (List.any [.rulingLineStart (List.replicate 65 0), .fullLoadApply [(96, [])], .partialQuiesce [(96, [])],
    .trainResult 0 (List.replicate 9 0), .linkStateTimeout 0 [0, 0, 0], .fecFrameReceived 0 (List.replicate 84 0),
    .packetReceived 0 (List.replicate 141 0), .ppbPoll 0 [0, 0, 0] [] [], .ppbPoll 0 [] [0, 0, 0] [], .ppbPoll 0 [] [] [0, 0, 0],
    .ppbInt 0 (List.replicate 17 []), .ppbInt 0 [[0, 0, 0]], .pwrOnWrite 0 true [0, 0, 0], .pwrCycle 0 [0, 0, 0],
    .pwrOffTimeExpiry 0 [0, 0, 0], .clearLockout 0 [0, 0, 0], .pwrLimitWrite 0 0 [0, 0, 0]] Instr.wf) = false := by decide +kernel

theorem test_ill_formed_streams : (List.any [.sdiDetectComplete 0 0 0 false 4096 0 none,
    .sdiLineReceived 0 true false false false false 2251 [] [] [], .sdiLineReceived 0 true false false false false 1 [0, 0] [] [],
    .sdiLineReceived 0 true false false false false 1 [] [] [⟨32, [], true, false, 0, 0⟩],
    .outputLine 0 0 none none [(8, 0)] 0, .memoryAccess 0 false 0 0 0 [] [] 0 0 0,
    .memoryAccess 0 false 0 (BitVec.ofNat 35 (2 ^ 35 - 1)) 2 [] [] 0 0 0, .memoryAccess 0 true 0 0 2 [0] [] 0 0 0, .memoryTrainingDone [3, 3], .driftSample (List.replicate 31 0), .bar2Access false 0 0 [] [],
    .bar2Access true 0 1 [] [], .cellarInit true 4096 0 true false false 0 [[], [], []] [] []] Instr.wf) = false := by decide +kernel

theorem test_ill_formed_system : (List.any [.bar0Request true 0 4 [] someMoment, .icxTransaction .core false 0 0 [] someMoment,
    .icxTransaction .core true 0 2 [0] someMoment, .dbgToken (List.replicate 327 0), .resume [1, 1] true [], .mainPowerLoss [(2 ^ 20, 0, true)],
    .pwrfail [(2 ^ 20, 0, true)], .sensorSample (List.replicate 27 none) 0, .estimateUpdate (List.replicate 9 0), .atticPageWriteDone 0 [1, 1] 0,
    .powerOnReset false 0 [(2 ^ 20, 0, true)], .pinReset [(2 ^ 20, 0, true)], .watchdogExpiry false [(2 ^ 20, 0, true)],
    .resetDrainEnd [(2 ^ 20, 0, true)], .coldBoot true [(96, [])]] Instr.wf) = false := by decide +kernel

/-! Values the spec gives. -/

theorem test_reset_idles : step State.reset = .next State.reset := rfl

/-- 01_ruling.md R34: N = 118 and F = CCCCCCCCh with ×1, 59 and 66666666h with ×2. -/
theorem test_synthesizer_dividers : synDivider 0 0 0 = (118, 0xCCCCCCCC) ∧ synDivider 0 1 0 = (59, 0x66666666) := by decide +kernel

/-- The example of 18_register_map.md: DST_POS of pane 5 of F37, staged and active, and its COMMIT. -/
theorem test_register_map : Reg.pane_DST_POS 37 5 = 0x14AA0C ∧ (R.pane_DST_POS_X 37 5).active.addr = 0x14BA0C ∧ Reg.folio_COMMIT 37 = 0x14A180 := by
  decide +kernel

/-- The example of 00_scope.md (R12): a counter that reads 3 reads 0 after 3 is written to it, and 1 where one more came in between. -/
theorem test_counter_lowered : (List.all [(3, 0), (4, 1)] fun q =>
    let c := (Flag.folio_RASTER_FRAME_DONE 3).counter
    match exec (.eventCounterWrite (BitVec.ofNat 22 c.addr) 3 15) (puts up [(R.folio_CFG_PRESENT 3, 1), (c, q.1)]) with
    | .next t => t.get c == q.2
    | _ => false) = true := by decide +kernel

/-- 16_startup_faults.md: a soft reset wants the key C96Dh. -/
theorem test_reset_key : (match exec (.softResetRequest 0xC96C true) (poweredAs 0) with | .next t => !t.boot.drain | _ => false) = true ∧
    (match exec (.softResetRequest 0xC96D true) (poweredAs 0) with | .next t => t.boot.drain | _ => false) = true := by decide +kernel

/-- The Orrin Vale cabinet's classes, asking for the figures given in Gbit/s, in a band whose usable bandwidth is `whole` Mbit/s. -/
def orrinVale (band whole : Nat) : State :=
  let time (gbit : Rat) : Rat := windowTime * gbit * 1000 / (whole : Nat)
  let s := puts up [(R.memory_CLASS_CFG_WEIGHT 1, 4), (R.memory_CLASS_CFG_WEIGHT 2, 3), (R.memory_CLASS_CFG_WEIGHT 3, 1)]
  let s := s.modMem fun m => { m with windowBand := band, charge := [(0, time 1250), (1, time 850), (2, time 2500), (3, time 1500)] }
  s.modFabric fun x => { x with now := { x.now with classes := [⟨1, 4, [900000, 900000, 900000, 900000]⟩,
    ⟨2, 3, [2400000, 2300000, 2100000, 1600000]⟩, ⟨3, 1, [1287520, 1190912, 1063232, 907872]⟩] } }

/-- The worked example of 10_stream_memory.md (R293, R297): in band 1 class 2 is shed by 16.96 Gbit/s and class 3 by 184.80; in band 3
by 316.96 and 409.088. -/
theorem test_orrin_vale :
    (orrinVale 0 5898240).windowRest.map (fun q => (q.1, q.2.2 * 5898240 / windowTime / 1000)) = [(1, 0), (2, 1696 / 100), (3, 18480 / 100)] ∧
    (orrinVale 2 5373952).windowRest.map (fun q => (q.1, q.2.2 * 5373952 / windowTime / 1000)) = [(1, 0), (2, 31696 / 100), (3, 409088 / 1000)] := by
  decide +kernel

/-- CRC-32 of IEEE 802.3 over "123456789", and the CRC-16 of R99: their published check values. -/
theorem test_crc : crc32 (asciiBytes "123456789") = 0xCBF43926 ∧ crc16 (asciiBytes "123456789") = 0x29B1 := by decide +kernel

/-- SHA-384 of "abc" (FIPS 180-4). -/
theorem test_sha384 : sha384 (asciiBytes "abc") =
    beBytes 48 0xCB00753F45A35E8BB5A03D699AC65007272C32AB0EDED1631A8B605A43FF5BED8086072BA1E7CC2358BAECA134C825A7 := by decide +kernel

end Sys2Proof.Tests
end

section
/-!
PROOFS. The canonical forms at reset, the sequence of results, and reads without side effect (00_scope.md R15, R16, R18).
-/
namespace Sys2Proof.Machine
open Sys2Proof Safety

/-! ### Reset and result blocks -/

/-- Settles O2: every sparse map of the state after reset is empty, and so is the trace. -/
theorem resetInv : Obligations.ResetInv where
  regs := rfl
  mem := rfl
  flash := rfl
  sram := rfl
  ports := rfl
  streams := rfl
  folios := rfl
  trace := Nat.zero_le _

/-- Settles O5: a completion writes the number after the one shown, and every result block shows 0 at reset. -/
theorem resultSequence : Obligations.ResultSequence := by
  refine ⟨fun s a status => s.get_complete_seq a status, by decide +kernel, fun s a status h => ?_⟩
  rw [State.get_complete_seq, h]
  rfl

/-! ### What the block has sent shows in no register -/

theorem State.regLive_emit (s : State) (o : Output) (a : Nat) : (s.emit o).regLive a = s.regLive a := rfl

theorem State.irqLevel_emit (s : State) (o : Output) (k : Nat) : (s.emit o).irqLevel k = s.irqLevel k := by
  have hp (st en : Nat) : (s.emit o).pendOf st en = s.pendOf st en := rfl
  have hd (d : Nat) : (s.emit o).domainOn d = s.domainOn d := rfl
  have ha (a : Nat) : (s.emit o).domainOfAddr a = s.domainOfAddr a := rfl
  simp only [State.irqLevel, hp, hd, ha]

theorem State.derivedWord_emit (s : State) (o : Output) (a : Nat) : (s.emit o).derivedWord a = s.derivedWord a := by
  have hr : (s.emit o).rastersActive = s.rastersActive := rfl
  have hf : (s.emit o).faultSrc = s.faultSrc := rfl
  have hg : (s.emit o).gpioLogical = s.gpioLogical := rfl
  have hc : (s.emit o).calNow = s.calNow := rfl
  have hh (q : Nat) : (s.emit o).hist q = s.hist q := rfl
  have hp (st en : Nat) : (s.emit o).pendOf st en = s.pendOf st en := rfl
  have ha (n : Nat) : (s.emit o).streamAge n = s.streamAge n := rfl
  have hs (f p : Nat) : (s.emit o).fenceSignalled f p = s.fenceSignalled f p := rfl
  have hz : (s.emit o).sealAccept = s.sealAccept := rfl
  simp only [State.derivedWord, State.irqLevel_emit, State.emit_rd, State.emit_get, State.emit_fabric, hr, hf, hg, hc, hh, hp, ha, hs, hz]

theorem State.peek_emit (s : State) (o : Output) (a : Nat) : (s.emit o).peek a = s.peek a := by
  simp only [State.peek, State.regLive_emit, State.derivedWord_emit, State.emit_rd]

/-! ### Reads -/

/-- The port blocks of the register map are those of the 96 ports. -/
theorem blockAt_port_lt {a n : Nat} (h : blockAt a = .port n) : n < 96 := by
  revert h
  fun_cases blockAt a <;> intro h <;> cases h
  omega

/-- A read of a register that is no read-pop port's first word takes no entry (R18). -/
theorem State.popAt_of_no_port (s : State) {a : Nat} (hc : a ≠ Reg.cellar_DIR_HDR) (hb : a ≠ Reg.blotter_RD_HDR)
    (hp : ∀ n, n < 96 → a ≠ Reg.port_RX_HDR n) : s.popAt a = s := by
  unfold State.popAt
  rw [if_neg hc, if_neg hb]
  split
  · cases hk : blockAt a with
    | port n => exact if_neg (hp n (blockAt_port_lt hk))
    | _ => rfl
  · rfl

/-- Settles O6: a read of such a register takes no entry, so that all it does is to answer the register's word. -/
theorem resultReads : Obligations.ResultReads := by
  refine ⟨fun s a hc hb hp => ⟨?_, s.peek_emit _ _⟩, by decide +kernel⟩
  show execReadPop a s = _
  rw [execReadPop, State.busRead, s.popAt_of_no_port hc hb hp]

end Sys2Proof.Machine
end

section
/-!
PROOFS. The event queue's commands other than PUSH, and the end of a pulse (01_ruling.md R56, R57; 00_scope.md R17; 12_host_control.md R366).
-/
namespace Sys2Proof.Machine
open Sys2Proof Safety

/-! ### The event queue's result block and levels -/

/-- The result of an event queue command shows its status and its handle (R56). -/
theorem State.evqResult_status (s : State) (st h : Nat) (hst : st < 32768) :
    (s.evqResult st h).get ⟨Reg.ruling_EVQ_RESULT, 30, 16⟩ = st := by
  rw [State.evqResult, State.get_complete_status, Nat.mod_eq_of_lt hst]

theorem State.evqResult_handle (s : State) (st h : Nat) : (s.evqResult st h).get R.ruling_EVQ_HANDLE = h % 2 ^ 16 := by
  rw [State.evqResult, State.get_complete_ne _ _ _ _ (by decide), State.get_put_self _ _ _ (by decide)]
  rfl

/-- A result goes to registers alone. -/
theorem State.evqResult_frame (s : State) (st h : Nat) : s.evqResult st h = { s with regs := (s.evqResult st h).regs } := rfl

@[simp] theorem State.setEvq_evq (s : State) (q : EvqState) : (s.setEvq q).evq = q := rfl

/-- A queue's content goes to its level registers and to the queue alone. -/
theorem State.setEvq_frame (s : State) (q : EvqState) : s.setEvq q = { s with regs := (s.setEvq q).regs, evq := q } := rfl

/-! ### The commands, as a block that answers takes them -/

/-- An event queue command with its result block free acts. -/
theorem execEvqCancel_free (m : Master) {s : State} (ha : Answers s Reg.ruling_EVQ_RESULT) (hd : s.done Reg.ruling_EVQ_RESULT = true) :
    execEvqCancel m s = .next (
      let h := getBits (s.rd (Reg.ruling_EVQ_W 0)) 15 0
      if s.evq.entries.any (fun e => e.index == h % 512 && e.gen == h / 512) then
        (s.setEvq { s.evq with entries := s.evq.entries.filter fun e => !(e.index == h % 512 && e.gen == h / 512) }).evqResult 5 h
      else s.evqResult 6 h) := by
  rw [execEvqCancel, State.offer_free _ _ _ _ ha.running ha.live hd]

theorem execEvqFlush_free (m : Master) {s : State} (ha : Answers s Reg.ruling_EVQ_RESULT) (hd : s.done Reg.ruling_EVQ_RESULT = true) :
    execEvqFlush m s = .next (
      (s.setEvq { s.evq with entries := s.evq.entries.filter fun e => e.master != m }).evqResult 7
        (s.evq.entries.filter fun e => e.master == m).length) := by
  rw [execEvqFlush, State.offer_free _ _ _ _ ha.running ha.live hd]

theorem execEvqBadCommand_free (m : Master) {op : BitVec 4} {s : State} (ha : Answers s Reg.ruling_EVQ_RESULT)
    (hd : s.done Reg.ruling_EVQ_RESULT = true) (hop : op = 0 ∨ 4 ≤ op.toNat) : execEvqBadCommand m op s = .next (s.evqResult 8 0) := by
  have hno : ¬ (1 ≤ op.toNat ∧ op.toNat ≤ 3) := by
    rcases hop with rfl | hop
    · decide
    · omega
  rw [execEvqBadCommand, if_neg hno, State.offer_free _ _ _ _ ha.running ha.live hd]

/-- Each command of the event queue offered while DONE is 0 raises CMD_OVERRUN and does nothing else (R17). -/
theorem exec_evq_busy {s : State} {c : Instr} (ha : Answers s Reg.ruling_EVQ_RESULT) (hd : s.done Reg.ruling_EVQ_RESULT = false)
    (hc : ∃ m, c = .evqPush m ∨ c = .evqCancel m ∨ c = .evqFlush m ∨ c = .evqBadCommand m 0) :
    exec c s = .next (s.raise Flag.ruling_CMD_OVERRUN) := by
  have hoff (f : State → State) := s.offer_busy Reg.ruling_EVQ_RESULT Flag.ruling_CMD_OVERRUN f ha.running ha.live hd
  obtain ⟨m, rfl | rfl | rfl | rfl⟩ := hc
  · exact congrArg _ (hoff _)
  · exact congrArg _ (hoff _)
  · exact congrArg _ (hoff _)
  · exact congrArg _ (hoff _)

theorem evq_overrun (s : State) (c : Instr) (ha : Answers s Reg.ruling_EVQ_RESULT) (hd : s.done Reg.ruling_EVQ_RESULT = false)
    (hc : ∃ m, c = .evqPush m ∨ c = .evqCancel m ∨ c = .evqFlush m ∨ c = .evqBadCommand m 0) :
    ∃ t, exec c s = .next t ∧ t.get Flag.ruling_CMD_OVERRUN.fld = 1 ∧
      t.get Flag.ruling_CMD_OVERRUN.counter = min (s.get Flag.ruling_CMD_OVERRUN.counter + 1) 0xFFFF ∧
      OnlyRegs s t [Flag.ruling_CMD_OVERRUN.addr, Flag.ruling_CMD_OVERRUN.counter.addr] ∧ t = { s with regs := t.regs } := by
  refine ⟨_, exec_evq_busy ha hd hc, s.get_raise_self _ (by decide), s.get_raise_counter _ (by decide), fun a hn => ?_, rfl⟩
  simp only [List.mem_cons, List.not_mem_nil, or_false, not_or] at hn
  exact s.rd_raise_ne _ hn.1 hn.2

/-- A CANCEL of a held handle takes its entry out of the queue (R57). -/
theorem evqCancel_held {s : State} (m : Master) (ha : Answers s Reg.ruling_EVQ_RESULT) (hd : s.done Reg.ruling_EVQ_RESULT = true)
    {h : Nat} (hh : getBits (s.rd (Reg.ruling_EVQ_W 0)) 15 0 = h)
    (hit : (s.evq.entries.any fun e => e.index == h % 512 && e.gen == h / 512) = true) :
    ∃ t, exec (.evqCancel m) s = .next t ∧ t.get ⟨Reg.ruling_EVQ_RESULT, 30, 16⟩ = 5 ∧ t.get R.ruling_EVQ_HANDLE = h ∧
      (∀ e, e ∈ t.evq.entries ↔ e ∈ s.evq.entries ∧ ¬(e.index = h % 512 ∧ e.gen = h / 512)) ∧
      t = { s with regs := t.regs, evq := t.evq } := by
  have hx := execEvqCancel_free m ha hd
  simp only [hh, hit, if_true] at hx
  refine ⟨_, hx, State.evqResult_status _ _ _ (by decide), ?_, fun e => ?_, rfl⟩
  · rw [State.evqResult_handle, Nat.mod_eq_of_lt]
    exact hh ▸ getBits_lt _ 15 0
  · rw [State.evqResult_frame, State.setEvq_evq]
    simp only [List.mem_filter, Bool.not_eq_true', Bool.and_eq_false_imp, beq_iff_eq, beq_eq_false_iff_ne, not_and, ne_eq]

/-- A CANCEL of any other handle finds no entry and changes nothing but the result (R57). -/
theorem evqCancel_unheld {s : State} (m : Master) (ha : Answers s Reg.ruling_EVQ_RESULT) (hd : s.done Reg.ruling_EVQ_RESULT = true)
    {h : Nat} (hh : getBits (s.rd (Reg.ruling_EVQ_W 0)) 15 0 = h)
    (hit : (s.evq.entries.any fun e => e.index == h % 512 && e.gen == h / 512) = false) :
    ∃ t, exec (.evqCancel m) s = .next t ∧ t.get ⟨Reg.ruling_EVQ_RESULT, 30, 16⟩ = 6 ∧ t = { s with regs := t.regs } := by
  have hx := execEvqCancel_free m ha hd
  simp only [hh, hit] at hx
  exact ⟨_, hx, State.evqResult_status _ _ _ (by decide), rfl⟩

theorem evqFlush_takes_own (s : State) (m : Master) (ha : Answers s Reg.ruling_EVQ_RESULT) (hd : s.done Reg.ruling_EVQ_RESULT = true) :
    ∃ t, exec (.evqFlush m) s = .next t ∧ t.get ⟨Reg.ruling_EVQ_RESULT, 30, 16⟩ = 7 ∧
      t.get R.ruling_EVQ_HANDLE = (s.evq.entries.filter fun e => e.master == m).length % 2 ^ 16 ∧
      (∀ e, e ∈ t.evq.entries ↔ e ∈ s.evq.entries ∧ e.master ≠ m) ∧ t = { s with regs := t.regs, evq := t.evq } := by
  refine ⟨_, execEvqFlush_free m ha hd, State.evqResult_status _ _ _ (by decide), State.evqResult_handle _ _ _, fun e => ?_, rfl⟩
  rw [State.evqResult_frame, State.setEvq_evq]
  simp only [List.mem_filter, bne_iff_ne]

/-- The end of a pulse clears its own bit of the pulses (R366). -/
theorem State.endPulse_getLsbD (s : State) (g : Fin 32) (k : Nat) :
    (s.endPulse g).gpio.pulse.getLsbD k = (s.gpio.pulse.getLsbD k && decide (k ≠ g.val)) := by
  show (s.gpio.pulse &&& ~~~(1#32 <<< g.val)).getLsbD k = _
  have := g.isLt
  rw [BitVec.getLsbD_and, BitVec.getLsbD_not, BitVec.getLsbD_shiftLeft, BitVec.getLsbD_one]
  by_cases hk : k < 32
  · by_cases he : k = g.val
    · simp [he]
    · simp [hk, he]
      omega
  · simp [BitVec.getLsbD_of_ge _ _ (Nat.le_of_not_lt hk)]

/-- Settles O11: one lemma for each command, by what a block that answers does with it while DONE is 0 and while it is 1. -/
theorem eventQueueCommands : Obligations.EventQueueCommands := by
  refine ⟨evq_overrun, fun s m ha hd => ⟨evqCancel_held m ha hd rfl, evqCancel_unheld m ha hd rfl, evqFlush_takes_own s m ha hd, fun op hop => ?_⟩,
    fun s g => ⟨_, rfl, ?_, fun k hk => ?_, rfl, rfl, rfl⟩⟩
  · exact ⟨_, execEvqBadCommand_free m ha hd hop, State.evqResult_status _ _ _ (by decide), rfl⟩
  · rw [State.endPulse_getLsbD]
    simp
  · rw [State.endPulse_getLsbD]
    simp [hk]

end Sys2Proof.Machine
end

section
/-!
PROOFS. What a write of a register leaves, by the access types of its fields (00_scope.md R7, R8, R12; 02_fabric_image.md R84;
12_host_control.md R357).
-/
namespace Sys2Proof.Machine
open Sys2Proof Safety

/-! ### A row's write, by the access types of its fields -/

/-- The bits of a word that a list of fields covers. -/
def fieldsMask (fs : List FieldRow) : BitVec 32 := fs.foldr (fun f m => maskBits f.hi f.lo ||| m) 0

/-- Where every field of a row writes its bits by one rule `F` of a mask, the row writes by that rule all the bits it has. -/
theorem RegRow.write_uniform (r : RegRow) (takes : Access → Bool) (mirror : Bool) (v m w : BitVec 32) (F : BitVec 32 → BitVec 32 → BitVec 32)
    (hw : ∀ f ∈ r.fields, ∀ w, (if takes f.acc then f.write mirror v m w else w) = F (maskBits f.hi f.lo) w)
    (h0 : ∀ w, F 0 w = w) (hF : ∀ b c w, F c (F b w) = F (b ||| c) w) :
    r.write takes mirror v m w = F (fieldsMask r.fields) w := by
  unfold RegRow.write
  generalize r.fields = fs at hw
  induction fs generalizing w with
  | nil => exact (h0 w).symm
  | cons f fs ih =>
    rw [List.foldl_cons, ih _ fun g hg => hw g (List.mem_cons_of_mem _ hg), hw f List.mem_cons_self, hF]
    rfl

/-- A row of RW fields takes the enabled bits of what is written (R8). -/
theorem RegRow.write_rw (r : RegRow) (mirror : Bool) (v m w : BitVec 32) (h : ∀ f ∈ r.fields, f.acc = .rw) :
    r.write plainAccess mirror v m w = (w &&& ~~~(m &&& fieldsMask r.fields)) ||| (v &&& m &&& fieldsMask r.fields) := by
  refine r.write_uniform _ _ _ _ _ (fun b w => (w &&& ~~~(m &&& b)) ||| (v &&& m &&& b)) (fun f hf w => ?_) (fun w => ?_) fun b c w => ?_
  · simp only [h f hf, plainAccess, if_true, FieldRow.write, BitVec.and_comm m, BitVec.and_assoc]
  · ext i hi
    simp only [BitVec.getElem_and, BitVec.getElem_or, BitVec.getElem_not, BitVec.ofNat_eq_ofNat, BitVec.getElem_zero]
    simp only [Bool.and_false, Bool.not_false, Bool.and_true, Bool.or_false]
  · ext i hi
    simp only [BitVec.getElem_and, BitVec.getElem_or, BitVec.getElem_not]
    grind

/-- A row of W1C fields loses the enabled bits written 1 (R8). -/
theorem RegRow.write_w1c (r : RegRow) (mirror : Bool) (v m w : BitVec 32) (h : ∀ f ∈ r.fields, f.acc = .w1c) :
    r.write plainAccess mirror v m w = w &&& ~~~(v &&& m &&& fieldsMask r.fields) := by
  refine r.write_uniform _ _ _ _ _ (fun b w => w &&& ~~~(v &&& m &&& b)) (fun f hf w => ?_) (fun w => ?_) fun b c w => ?_
  · simp only [h f hf, plainAccess, if_true, FieldRow.write, BitVec.and_comm m, BitVec.and_assoc]
  · ext i hi
    simp only [BitVec.getElem_and, BitVec.getElem_not, BitVec.ofNat_eq_ofNat, BitVec.getElem_zero]
    simp only [Bool.and_false, Bool.not_false, Bool.and_true]
  · ext i hi
    simp only [BitVec.getElem_and, BitVec.getElem_or, BitVec.getElem_not]
    grind

/-- A row none of whose fields takes the write keeps its word. -/
theorem RegRow.write_untaken (r : RegRow) (takes : Access → Bool) (mirror : Bool) (v m w : BitVec 32)
    (h : ∀ f ∈ r.fields, takes f.acc = false) : r.write takes mirror v m w = w :=
  r.write_uniform _ _ _ _ _ (fun _ w => w) (fun f hf w => by rw [h f hf]; rfl) (fun _ => rfl) fun _ _ _ => rfl

/-! ### Event counters (R12) -/

theorem getBits_and (w m : BitVec 32) (hi lo : Nat) : getBits (w &&& m) hi lo = getBits w hi lo &&& getBits m hi lo := by
  apply Nat.eq_of_testBit_eq
  intro i
  simp only [getBits_testBit, Nat.testBit_and, BitVec.getLsbD_and]
  grind

/-- What an event counter in bits [hi:lo] holds after `v` is written to the enabled bits `m`. -/
def lowered (w v m : BitVec 32) (hi lo : Nat) : Nat :=
  getBits (w &&& ~~~m) hi lo + (getBits (w &&& m) hi lo - getBits (v &&& m) hi lo)

/-- A counter fully enabled is lowered by what is written, not below 0. -/
theorem lowered_allOnes (w v : BitVec 32) (hi lo : Nat) :
    lowered w v (BitVec.allOnes 32) hi lo = getBits w hi lo - getBits v hi lo := by
  have h0 : getBits 0#32 hi lo = 0 := by simp [getBits]
  rw [lowered, BitVec.not_allOnes, BitVec.and_zero, BitVec.and_allOnes, BitVec.and_allOnes, h0, Nat.zero_add]

theorem byteMask_full : byteMask 15 = BitVec.allOnes 32 := by decide

theorem byteMask_getLsbD (be : BitVec 4) {i : Nat} (hi : i < 32) : (byteMask be).getLsbD i = be.getLsbD (i / 8) := by
  revert i
  revert be
  decide +kernel

/-- A number whose low eight bits are 0. -/
theorem mod_256_eq_zero {n : Nat} (h : ∀ i, i < 8 → n.testBit i = false) : n % 256 = 0 := by
  refine Nat.eq_of_testBit_eq fun i => ?_
  rw [show 256 = 2 ^ 8 from rfl, Nat.testBit_mod_two_pow, Nat.zero_testBit]
  by_cases hi : i < 8
  · simp [h i hi]
  · simp [hi]

/-! A counter's half of the word begins at bit `lo`, with its low byte at byte `lo / 8` of the word. -/

theorem half_testBit (x : BitVec 32) (lo i : Nat) : (getBits x (lo + 15) lo).testBit i = (decide (i < 16) && x.getLsbD (lo + i)) := by
  rw [getBits_testBit, show lo + 15 + 1 - lo = 16 by omega]

section
variable {lo : Nat} (hlo : lo = 0 ∨ lo = 16)
include hlo

theorem byteMask_half (be : BitVec 4) {i : Nat} (hi : i < 16) : (byteMask be).getLsbD (lo + i) = be.getLsbD (lo / 8 + i / 8) := by
  rw [byteMask_getLsbD be (by omega), show (lo + i) / 8 = lo / 8 + i / 8 by omega]

/-- Of a byte that is not enabled no bit is written. -/
theorem disabled_testBit (x : BitVec 32) (be : BitVec 4) {i : Nat} (he : i < 16 → be.getLsbD (lo / 8 + i / 8) = false) :
    (getBits (x &&& byteMask be) (lo + 15) lo).testBit i = false := by
  rw [half_testBit, BitVec.getLsbD_and]
  by_cases hi : i < 16
  · rw [byteMask_half hlo be hi, he hi, Bool.and_false, Bool.and_false]
  · simp [hi]

/-- With its low byte not enabled a counter is lowered by a multiple of 256. -/
theorem lowered_low_byte (w v : BitVec 32) {be : BitVec 4} (he : be.getLsbD (lo / 8) = false) :
    lowered w v (byteMask be) (lo + 15) lo % 256 = getBits (w &&& ~~~byteMask be) (lo + 15) lo % 256 := by
  have hz (x : BitVec 32) : getBits (x &&& byteMask be) (lo + 15) lo % 256 = 0 :=
    mod_256_eq_zero fun i hi => disabled_testBit hlo x be fun _ => by rwa [show lo / 8 + i / 8 = lo / 8 by omega]
  have hw := hz w
  have hv := hz v
  unfold lowered
  omega

/-- With its high byte not enabled a counter is lowered within its low byte. -/
theorem lowered_high_byte (w v : BitVec 32) {be : BitVec 4} (he : be.getLsbD (lo / 8 + 1) = false) :
    lowered w v (byteMask be) (lo + 15) lo / 256 = getBits (w &&& ~~~byteMask be) (lo + 15) lo / 256 := by
  have hlt : getBits (w &&& byteMask be) (lo + 15) lo < 256 :=
    Nat.lt_pow_two_of_testBit (n := 8) _ fun i hi => disabled_testBit hlo w be fun h16 => by
      rwa [show lo / 8 + i / 8 = lo / 8 + 1 by omega]
  have hcase : getBits (w &&& byteMask be) (lo + 15) lo = 0 ∨ getBits (w &&& ~~~byteMask be) (lo + 15) lo % 256 = 0 := by
    cases hl : be.getLsbD (lo / 8)
    · refine .inl (Nat.eq_of_testBit_eq fun i => (disabled_testBit hlo w be fun h16 => ?_).trans (Nat.zero_testBit i).symm)
      rcases (by omega : i / 8 = 0 ∨ i / 8 = 1) with h | h
      · rwa [h]
      · rwa [h]
    · refine .inr (mod_256_eq_zero fun i hi => ?_)
      rw [half_testBit, BitVec.getLsbD_and, BitVec.getLsbD_not, byteMask_half hlo be (by omega), show lo / 8 + i / 8 = lo / 8 by omega, hl]
      simp
  unfold lowered
  omega

/-- A byte of a counter that is not enabled is left alone (log entry 100). -/
theorem lowered_testBit (w v : BitVec 32) {be : BitVec 4} {j : Nat} (hj : j < 16) (hd : (byteMask be).getLsbD (lo + j) = false) :
    (lowered w v (byteMask be) (lo + 15) lo).testBit j = w.getLsbD (lo + j) := by
  have hkept : (getBits (w &&& ~~~byteMask be) (lo + 15) lo).testBit j = w.getLsbD (lo + j) := by
    have : lo + j < 32 := by omega
    rw [half_testBit, BitVec.getLsbD_and, BitVec.getLsbD_not, hd]
    simp [hj, this]
  rw [byteMask_half hlo be hj] at hd
  rw [← hkept]
  by_cases h8 : j < 8
  · have h := congrArg (Nat.testBit · j) (lowered_low_byte hlo w v (by rwa [show lo / 8 + j / 8 = lo / 8 by omega] at hd))
    simpa only [show 256 = 2 ^ 8 from rfl, Nat.testBit_mod_two_pow, h8, decide_true, Bool.true_and] using h
  · have h := congrArg (Nat.testBit · (j - 8)) (lowered_high_byte hlo w v (by rwa [show lo / 8 + j / 8 = lo / 8 + 1 by omega] at hd))
    simpa only [show 256 = 2 ^ 8 from rfl, Nat.testBit_div_two_pow, show j - 8 + 8 = j by omega] using h

end

/-- A row of two event counters: each is lowered by its half of the word written. -/
theorem RegRow.write_two_counters (r : RegRow) (mirror : Bool) (v m w : BitVec 32) (h : r.fields = [⟨31, 16, .cnt, 0⟩, ⟨15, 0, .cnt, 0⟩]) :
    r.write (fun k => k == .cnt) mirror v m w = setBits (setBits w 31 16 (lowered w v m 31 16)) 15 0 (lowered w v m 15 0) := by
  have hlow (n x : BitVec 32) (k : Nat) : getBits (setBits x 31 16 k &&& n) 15 0 = getBits (x &&& n) 15 0 := by
    rw [getBits_and, getBits_and, getBits_setBits_apart _ _ _ _ _ _ (by decide) (by decide) (by decide)]
  rw [RegRow.write, h]
  simp only [List.foldl_cons, List.foldl_nil, beq_self_eq_true, if_true, FieldRow.write, hlow, lowered]

/-- With every byte enabled each counter is lowered by what is written, not below 0. -/
theorem RegRow.write_two_counters_all (r : RegRow) (mirror : Bool) (v w : BitVec 32) (h : r.fields = [⟨31, 16, .cnt, 0⟩, ⟨15, 0, .cnt, 0⟩]) :
    getBits (r.write (fun k => k == .cnt) mirror v (byteMask 15) w) 15 0 = getBits w 15 0 - getBits v 15 0 ∧
      getBits (r.write (fun k => k == .cnt) mirror v (byteMask 15) w) 31 16 = getBits w 31 16 - getBits v 31 16 := by
  have hlt (hi lo : Nat) : getBits w hi lo - getBits v hi lo < 2 ^ (hi + 1 - lo) := Nat.lt_of_le_of_lt (Nat.sub_le _ _) (getBits_lt _ _ _)
  rw [r.write_two_counters _ _ _ _ h, byteMask_full, lowered_allOnes, lowered_allOnes,
    getBits_setBits_apart _ 15 0 _ 31 16 (by decide) (by decide) (by decide)]
  exact ⟨(getBits_setBits _ _ _ _ (by decide) (by decide)).trans (Nat.mod_eq_of_lt (hlt 15 0)),
    (getBits_setBits _ _ _ _ (by decide) (by decide)).trans (Nat.mod_eq_of_lt (hlt 31 16))⟩

/-- Whatever bytes are enabled, no bit of the others changes. -/
theorem RegRow.write_two_counters_off (r : RegRow) (mirror : Bool) (v w : BitVec 32) (be : BitVec 4)
    (h : r.fields = [⟨31, 16, .cnt, 0⟩, ⟨15, 0, .cnt, 0⟩]) :
    r.write (fun k => k == .cnt) mirror v (byteMask be) w &&& ~~~byteMask be = w &&& ~~~byteMask be := by
  rw [r.write_two_counters _ _ _ _ h]
  apply BitVec.eq_of_getLsbD_eq
  intro i hi
  rw [BitVec.getLsbD_and, BitVec.getLsbD_and, BitVec.getLsbD_not]
  cases hb : (byteMask be).getLsbD i with
  | true => simp
  | false =>
    congr 1
    rw [setBits_getLsbD _ _ _ _ _ (by decide) (by decide), setBits_getLsbD _ _ _ _ _ (by decide) (by decide)]
    by_cases hl : i ≤ 15
    · rw [if_pos ⟨Nat.zero_le _, hl⟩, Nat.sub_zero]
      have hbit := lowered_testBit (.inl rfl) w v (be := be) (j := i) (by omega) (by rwa [Nat.zero_add])
      simpa only [Nat.zero_add] using hbit
    · have hj : 16 + (i - 16) = i := by omega
      rw [if_neg (by omega), if_pos (by omega)]
      have hbit := lowered_testBit (.inr rfl) w v (be := be) (j := i - 16) (by omega) (by rwa [hj])
      rwa [hj] at hbit

/-! ### What follows a write -/

/-- With no vector to arm again, none is. -/
theorem State.rearm_of_none {s : State} (h : ∀ i, i < 256 → s.on (R.hostif_VEC_CFG_AUTO_REARM i) = false) : s.rearm = s := by
  unfold State.rearm State.each
  refine List.foldlRecOn (motive := fun t => t = s) _ _ rfl fun t ht i hi => ?_
  subst ht
  simp [h i (List.mem_range.1 hi)]

/-- Only ATTIC_BP, CELLAR.CTRL, STREAM_SRC and a DMA channel's CTRL act by their value. -/
theorem State.afterWrite_of_plain (s : State) (a : Nat) (old : BitVec 32) (hb : a ≠ Reg.blotter_ATTIC_BP) (hc : a ≠ Reg.cellar_CTRL)
    (hr : a ≠ Reg.ruling_STREAM_SRC) (hd : ∀ c, c < 4 → a ≠ Reg.hostif_DMA_CTRL c) : s.afterWrite a old = s := by
  simp only [State.afterWrite, hb, hc, hr, false_and, if_false, State.each]
  refine List.foldlRecOn (motive := fun t => t = s) _ _ rfl fun t ht c hc' => ?_
  rw [ht, if_neg (hd c (List.mem_range.1 hc'))]

/-- A register that answers takes a write by its row. -/
theorem State.regWrite_answers {s : State} {a : Nat} {h : RegHit} (takes : Access → Bool) (v m : BitVec 32) (ha : Answers s a)
    (hl : regLookup a = some h) : s.regWrite takes a v m =
      ((s.wr h.addr (h.row.write takes h.mirror v m (s.rd h.addr))).afterWrite h.addr (s.rd h.addr)).rearm := by
  rw [State.regWrite, ha.running, ha.live, State.writeWord, hl]
  rfl

/-- A register of RULING other than STREAM_SRC takes a write by its row, and nothing follows. -/
theorem State.regWrite_ruling {s : State} {a : Nat} {r : RegRow} (takes : Access → Bool) (v m : BitVec 32) (ha : Answers s a)
    (hl : regLookup a = some ⟨a, r, false⟩) (hr : a < 0x20000) (hs : a ≠ Reg.ruling_STREAM_SRC)
    (hn : ∀ i, i < 256 → s.on (R.hostif_VEC_CFG_AUTO_REARM i) = false) :
    s.regWrite takes a v m = s.wr a (r.write takes false v m (s.rd a)) := by
  have hne (b : Nat) (hb : 0x20000 ≤ b) : a ≠ b := by omega
  rw [s.regWrite_answers takes v m ha hl, State.afterWrite_of_plain _ _ _ (hne _ (by decide)) (hne _ (by decide)) hs
    fun c _ => hne _ (by unfold Reg.hostif_DMA_CTRL; omega), State.rearm_of_none]
  intro i hi
  rw [State.on, State.get_wr_ne _ _ _ _ (hne _ (by show 0x20000 ≤ 0x202000 + 4 * i; omega)).symm]
  exact hn i hi

/-- A write changes the register written and nothing else. -/
theorem State.wr_frame (s : State) (a : Nat) (v : BitVec 32) : OnlyRegs s (s.wr a v) [a] ∧ s.wr a v = { s with regs := (s.wr a v).regs } :=
  ⟨fun _ hb => s.rd_wr_ne v (by simpa using hb), rfl⟩

/-- A register that does not answer ignores the write (R357). -/
theorem State.regWrite_silent {s : State} {a : Nat} (takes : Access → Bool) (v m : BitVec 32)
    (hq : (s.clusterOfAddr a).any s.quiesced = false) (hl : s.regLive a = false) : s.regWrite takes a v m = s := by
  rw [State.regWrite, hq, hl]; rfl

/-- A write into a quiesced cluster is dropped and counted (02_fabric_image.md R84). -/
theorem State.regWrite_quiesced {s : State} {a : Nat} (takes : Access → Bool) (v m : BitVec 32)
    (hq : (s.clusterOfAddr a).any s.quiesced = true) : s.regWrite takes a v m = s.bump R.fabric_WINDOW_DROP := by
  rw [State.regWrite, hq]; rfl

/-! ### Registers of RULING -/

theorem intEn_write (s : State) (v : BitVec 32) (be : BitVec 4) (hn : ∀ i, i < 256 → s.on (R.hostif_VEC_CFG_AUTO_REARM i) = false)
    (ha : Answers s Reg.ruling_INT_EN) : ∃ t, exec (.registerWrite 0x10054 v be) s = .next t ∧
      t.rd Reg.ruling_INT_EN = (s.rd Reg.ruling_INT_EN &&& ~~~(byteMask be &&& 0x7FFF)) ||| (v &&& byteMask be &&& 0x7FFF) ∧
      OnlyRegs s t [Reg.ruling_INT_EN] ∧ t = { s with regs := t.regs } := by
  have hx := s.regWrite_ruling plainAccess v (byteMask be) ha rfl (by decide) (by decide) hn
  refine ⟨_, (congrArg Host.Outcome.next hx :), ?_, s.wr_frame _ _⟩
  rw [State.rd_wr_self]
  exact RegRow.write_rw _ _ _ _ _ (by decide)

theorem intStatus_write (s : State) (v : BitVec 32) (be : BitVec 4) (hn : ∀ i, i < 256 → s.on (R.hostif_VEC_CFG_AUTO_REARM i) = false)
    (ha : Answers s Reg.ruling_INT_STATUS) : ∃ t, exec (.registerWrite 0x10050 v be) s = .next t ∧
      t.rd Reg.ruling_INT_STATUS = s.rd Reg.ruling_INT_STATUS &&& ~~~(v &&& byteMask be &&& 0x7FFF) ∧
      OnlyRegs s t [Reg.ruling_INT_STATUS] ∧ t = { s with regs := t.regs } := by
  have hx := s.regWrite_ruling plainAccess v (byteMask be) ha rfl (by decide) (by decide) hn
  refine ⟨_, (congrArg Host.Outcome.next hx :), ?_, s.wr_frame _ _⟩
  rw [State.rd_wr_self]
  exact RegRow.write_w1c _ _ _ _ _ (by decide)

theorem status_write (s : State) (v : BitVec 32) (be : BitVec 4) (hn : ∀ i, i < 256 → s.on (R.hostif_VEC_CFG_AUTO_REARM i) = false)
    (ha : Answers s Reg.ruling_STATUS) : ∃ t, exec (.registerWrite 0x10030 v be) s = .next t ∧
      OnlyRegs s t [] ∧ t = { s with regs := t.regs } := by
  have hx := s.regWrite_ruling plainAccess v (byteMask be) ha rfl (by decide) (by decide) hn
  refine ⟨_, (congrArg Host.Outcome.next hx :), fun b _ => ?_, rfl⟩
  rw [RegRow.write_untaken _ _ _ _ _ _ (by decide), State.rd_wr]
  split
  · next h => rw [h]
  · rfl

theorem counter_write (s : State) (v : BitVec 32) (be : BitVec 4) (hn : ∀ i, i < 256 → s.on (R.hostif_VEC_CFG_AUTO_REARM i) = false)
    (ha : Answers s 0x10058) : ∃ t, exec (.eventCounterWrite 0x10058 v be) s = .next t ∧
      (be = 15 → t.get ⟨0x10058, 15, 0⟩ = s.get ⟨0x10058, 15, 0⟩ - getBits v 15 0 ∧
        t.get ⟨0x10058, 31, 16⟩ = s.get ⟨0x10058, 31, 16⟩ - getBits v 31 16) ∧
      t.rd 0x10058 &&& ~~~byteMask be = s.rd 0x10058 &&& ~~~byteMask be ∧
      OnlyRegs s t [0x10058] ∧ t = { s with regs := t.regs } := by
  have hx := s.regWrite_ruling (fun k => k == .cnt) v (byteMask be) ha rfl (by decide) (by decide) hn
  refine ⟨_, (congrArg Host.Outcome.next hx :), fun hbe => ?_, ?_, s.wr_frame _ _⟩
  · subst hbe
    rw [State.get_wr_self _ _ ⟨0x10058, 15, 0⟩, State.get_wr_self _ _ ⟨0x10058, 31, 16⟩]
    exact RegRow.write_two_counters_all _ _ _ _ rfl
  · rw [State.rd_wr_self]
    exact RegRow.write_two_counters_off _ _ _ _ _ rfl

/-- Settles O38: each access type writes by one rule of the bits it has, and what a write sets off does nothing here. -/
theorem registerWrites : Obligations.RegisterWrites :=
  ⟨⟨fun s _ _ _ _ ha hl => congrArg _ (s.regWrite_answers _ _ _ ha hl),
    fun s v be hn => ⟨intEn_write s v be hn, intStatus_write s v be hn, status_write s v be hn, counter_write s v be hn⟩⟩,
   fun s _ _ _ => ⟨fun hq hl => ⟨congrArg _ (s.regWrite_silent _ _ _ hq hl), congrArg _ (s.regWrite_silent _ _ _ hq hl)⟩,
    fun hq => ⟨congrArg _ (s.regWrite_quiesced _ _ _ hq), congrArg _ (s.regWrite_quiesced _ _ _ hq)⟩⟩⟩

end Sys2Proof.Machine
end

section
/-!
PROOFS. The words of the read-pop ports: where they lie, what they read, and their reads through the debug port (00_scope.md R18, R20).
-/
namespace Sys2Proof.Machine
open Sys2Proof Safety

/-! ### Which registers decide whether a register answers -/

/-- The registers that say whether the register at `a` answers: the power state, the boot stage, the domains that are on, and what
says that its unit is there. -/
def liveRegs (a : Nat) : List Nat :=
  [Reg.global_BOOT_STATUS, Reg.power_PWR_STATE, Reg.power_DOM_ON_LO, Reg.power_DOM_ON_HI] ++
    match blockAt a with
    | .port n => [Reg.port_PORT_CFG n]
    | .stream n => [Reg.stream_CFG n, Reg.stream_SLOT_STRIDE n]
    | .ingest c => [Reg.ingest_CFG c]
    | .folio f => [Reg.folio_CFG f]
    | .codec e => [Reg.codec_CFG e]
    | .domain _ => [Reg.cellar_CFG]
    | _ => []

section
variable {s t : State}

theorem State.get_congr {f : Fld} (h : t.rd f.addr = s.rd f.addr) : t.get f = s.get f := by rw [State.get, State.get, h]

theorem State.on_congr {f : Fld} (h : t.rd f.addr = s.rd f.addr) : t.on f = s.on f := by rw [State.on, State.on, State.get_congr h]

theorem State.domainOn_congr (hlo : t.rd Reg.power_DOM_ON_LO = s.rd Reg.power_DOM_ON_LO)
    (hhi : t.rd Reg.power_DOM_ON_HI = s.rd Reg.power_DOM_ON_HI) (d : Nat) : t.domainOn d = s.domainOn d := by
  rw [State.domainOn, State.domainOn, State.on_congr (f := ⟨Reg.power_DOM_ON_LO, d, d⟩) hlo,
    State.on_congr (f := ⟨Reg.power_DOM_ON_HI, d - 32, d - 32⟩) hhi]

variable {a : Nat} (hr : ∀ b ∈ liveRegs a, t.rd b = s.rd b)
include hr

theorem State.clusterOfAddr_congr : t.clusterOfAddr a = s.clusterOfAddr a := by
  unfold State.clusterOfAddr
  cases hk : blockAt a with
  | stream n => simp only [State.get_congr (f := R.stream_SLOT_STRIDE_WB_FOLIO n) (hr _ (by simp [liveRegs, hk, R.stream_SLOT_STRIDE_WB_FOLIO]))]
  | _ => rfl

theorem State.unitPresent_congr (hf : t.fabric = s.fabric) : t.unitPresent a = s.unitPresent a := by
  unfold State.unitPresent
  cases hk : blockAt a with
  | port n => simp only [hf]
  | stream n => exact State.on_congr (hr _ (by simp [liveRegs, hk, R.stream_CFG_PRESENT]))
  | ingest c => exact State.on_congr (hr _ (by simp [liveRegs, hk, R.ingest_CFG_PRESENT]))
  | folio f => exact State.on_congr (hr _ (by simp [liveRegs, hk, R.folio_CFG_PRESENT]))
  | codec e => exact State.on_congr (hr _ (by simp [liveRegs, hk, R.codec_CFG_PRESENT]))
  | domain d =>
    by_cases h9 : d = 9
    · subst h9
      exact State.on_congr (hr _ (by simp [liveRegs, hk, R.cellar_CFG_PRESENT]))
    · simp [h9]
  | _ => rfl

/-- A register answers as before while those registers and the images loaded stay. -/
theorem State.regLive_congr (hf : t.fabric = s.fabric) : t.regLive a = s.regLive a := by
  have hd := State.domainOn_congr (hr Reg.power_DOM_ON_LO (by simp [liveRegs])) (hr Reg.power_DOM_ON_HI (by simp [liveRegs]))
  have hp := State.get_congr (f := R.power_PWR_STATE_STATE) (hr _ (by simp [liveRegs, R.power_PWR_STATE_STATE]))
  have hb := State.get_congr (f := R.global_BOOT_STATUS_STAGE) (hr _ (by simp [liveRegs, R.global_BOOT_STATUS_STAGE]))
  have hc := State.clusterOfAddr_congr hr
  have hq : t.quiesced = s.quiesced := by funext i; rw [State.quiesced, State.quiesced, hf]
  have ha : t.domainOfAddr a = s.domainOfAddr a := by simp only [State.domainOfAddr, hc]
  have hu := State.unitPresent_congr hr hf
  unfold State.regLive
  cases hk : blockAt a with
  | port n =>
    have hm := State.get_congr (f := R.port_PORT_CFG_MODE n) (hr _ (by simp [liveRegs, hk, R.port_PORT_CFG_MODE]))
    have hl : t.portRegLive n = s.portRegLive n := by
      funext o
      rw [State.portRegLive, State.portRegLive, State.portMode, State.portMode, hm]
    simp only [hd, hp, hb, hc, hq, ha, hu, hl]
  | _ => simp only [hd, hp, hb, hc, hq, ha, hu]

end

/-! ### Words of the read-pop ports -/

/-- The words of the three kinds of read-pop ports: the Blotter read port, the Cellar directory port and the receive mailboxes. -/
def PopWord (o : Nat) : Prop :=
  o = Reg.blotter_RD_HDR ∨ (∃ i, i < 8 ∧ o = Reg.blotter_RD_DATA i) ∨ o = Reg.cellar_DIR_HDR ∨ (∃ i, i < 32 ∧ o = Reg.cellar_DIR_DATA i) ∨
    (∃ n, n < 96 ∧ (o = Reg.port_RX_HDR n ∨ ∃ i, i < 16 ∧ o = Reg.port_RX_DATA n i))

/-- Every word of a read-pop port is a register kept at its own address. -/
theorem PopWord.lookup {o : Nat} (h : PopWord o) : (regLookup o).map RegHit.addr = some o := by
  have hb : ∀ i, i < 8 → (regLookup (Reg.blotter_RD_DATA i)).map RegHit.addr = some (Reg.blotter_RD_DATA i) := by decide +kernel
  have hc : ∀ i, i < 32 → (regLookup (Reg.cellar_DIR_DATA i)).map RegHit.addr = some (Reg.cellar_DIR_DATA i) := by decide +kernel
  have hp : ∀ n, n < 96 → (regLookup (Reg.port_RX_HDR n)).map RegHit.addr = some (Reg.port_RX_HDR n) := by decide +kernel
  have hd : ∀ n, n < 96 → ∀ i, i < 16 → (regLookup (Reg.port_RX_DATA n i)).map RegHit.addr = some (Reg.port_RX_DATA n i) := by decide +kernel
  obtain rfl | ⟨i, hi, rfl⟩ | rfl | ⟨i, hi, rfl⟩ | ⟨n, hn, rfl | ⟨i, hi, rfl⟩⟩ := h
  · rfl
  · exact hb i hi
  · rfl
  · exact hc i hi
  · exact hp n hn
  · exact hd n hn i hi

/-- Where the words lie. -/
theorem PopWord.place {o : Nat} (h : PopWord o) :
    (0x40000 ≤ o ∧ o < 0x70000 ∨ 0x1B0100 ≤ o ∧ o < 0x1B0200 ∨ 0x1F0140 ≤ o ∧ o < 0x1F0170) ∧ o % 4 = 0 := by
  obtain rfl | ⟨i, hi, rfl⟩ | rfl | ⟨i, hi, rfl⟩ | ⟨n, hn, rfl | ⟨i, hi, rfl⟩⟩ := h
  · decide
  · unfold Reg.blotter_RD_DATA; omega
  · decide
  · unfold Reg.cellar_DIR_DATA; omega
  · unfold Reg.port_RX_HDR; omega
  · unfold Reg.port_RX_DATA; omega

/-- They lie in the ports' blocks and in single blocks. -/
theorem PopWord.block {o : Nat} (h : PopWord o) : (∃ n, blockAt o = .port n) ∨ ∃ d, blockAt o = .domain d := by
  obtain ⟨hp, -⟩ := h.place
  fun_cases blockAt o <;> simp <;> omega

/-- No other state decides what such a word reads. -/
theorem PopWord.derivedWord {o : Nat} (h : PopWord o) (s : State) : s.derivedWord o = none := by
  obtain ⟨hp, -⟩ := h.place
  have hr : o ≠ Reg.ruling_STATUS ∧ o ≠ Reg.global_FAULT_SRC ∧ o ≠ Reg.sysif_GPIO_IN ∧ o ≠ Reg.blotter_CAL_NOW ∧
      o ≠ Reg.blotter_HIST_MIN ∧ o ≠ Reg.blotter_HIST_MAX ∧ o ≠ Reg.blotter_HIST_MAX_AT ∧ ¬ (0x1F0240 ≤ o ∧ o < 0x1F0280) ∧
      ¬ (0x2200A0 ≤ o ∧ o < 0x2200D0) ∧ ¬ (0x201800 ≤ o ∧ o < 0x201840) ∧ ¬ (0x203000 ≤ o ∧ o < 0x203190) := by
    unfold Reg.ruling_STATUS Reg.global_FAULT_SRC Reg.sysif_GPIO_IN Reg.blotter_CAL_NOW Reg.blotter_HIST_MIN Reg.blotter_HIST_MAX
      Reg.blotter_HIST_MAX_AT
    omega
  obtain ⟨h1, h2, h3, h4, h5, h6, h7, h8, h9, h10, h11⟩ := hr
  simp only [State.derivedWord, h1, h2, h3, h4, h5, h6, h7, h8, h9, h10, h11, if_false]
  obtain ⟨n, hk⟩ | ⟨d, hk⟩ := h.block
  · rw [hk]
  · rw [hk]

/-- A read-pop port's word reads as it stands in the holding window. -/
theorem PopWord.peek {o : Nat} (h : PopWord o) {s : State} (hl : s.regLive o = true) : s.peek o = s.rd o := by
  obtain ⟨x, hx, ho⟩ := Option.map_eq_some_iff.1 h.lookup
  rw [State.peek, hl, hx]
  show (s.derivedWord x.addr).getD (s.rd x.addr) = s.rd o
  rw [ho, h.derivedWord]
  rfl

/-! ### The debug trace -/

theorem State.traced_off {s : State} (h : s.domainOn 60 = false) (e : TraceEntry) : s.traced e = s := by rw [State.traced, h]; rfl

/-- The trace takes an entry and counts one lost; nothing else changes. -/
theorem State.traced_frame (s : State) (e : TraceEntry) : s.traced e = { s with regs := (s.traced e).regs, trace := (s.traced e).trace } := by
  unfold State.traced State.pushTrace
  split
  · split
    · rfl
    · rfl
  · rfl

theorem State.traced_rd_ne (s : State) (e : TraceEntry) {b : Nat} (h : b ≠ Reg.global_TRACE_LOST) : (s.traced e).rd b = s.rd b := by
  unfold State.traced
  split
  · dsimp only
    split
    · rw [State.pushTrace_rd]
    · rw [State.pushTrace_rd, State.rd_bump_ne _ _ h]
  · rfl

/-- TRACE_LOST says of no register whether it answers. -/
theorem traceLost_not_live (a : Nat) : ∀ b ∈ liveRegs a, b ≠ Reg.global_TRACE_LOST := by
  unfold liveRegs
  cases blockAt a <;>
    simp [Reg.global_TRACE_LOST, Reg.global_BOOT_STATUS, Reg.power_PWR_STATE, Reg.power_DOM_ON_LO, Reg.power_DOM_ON_HI, Reg.port_PORT_CFG,
      Reg.stream_CFG, Reg.stream_SLOT_STRIDE, Reg.ingest_CFG, Reg.folio_CFG, Reg.codec_CFG, Reg.cellar_CFG] <;> omega

theorem State.traced_regLive (s : State) (e : TraceEntry) (a : Nat) : (s.traced e).regLive a = s.regLive a :=
  State.regLive_congr (fun b hb => s.traced_rd_ne e (traceLost_not_live a b hb)) (by rw [s.traced_frame e])

theorem PopWord.peek_traced {o : Nat} (h : PopWord o) {s : State} (hl : s.regLive o = true) (e : TraceEntry) : (s.traced e).peek o = s.rd o := by
  rw [h.peek (by rwa [State.traced_regLive]), State.traced_rd_ne]
  have := h.place
  unfold Reg.global_TRACE_LOST
  omega

/-! ### The debug port -/

/-- A level that reaches a target is VIEW or FULL. -/
theorem level_of_debugReaches {l o : Nat} {w : Bool} {t : IcxTarget} (h : debugReaches l w t o = true) : ¬ (l ≠ 1 ∧ l ≠ 2) := by
  rintro ⟨h1, h2⟩
  simp [debugReaches, h1, h2] at h

theorem PopWord.target {o : Nat} (h : PopWord o) : icxTarget (0x40000000 + o) = some (.registers, o) := by
  obtain ⟨hp, -⟩ := h.place
  have hb : bar0Decodes o = true := by
    simp only [bar0Decodes, Bool.or_eq_true, Bool.and_eq_true, decide_eq_true_eq]
    omega
  have hs : 0x40000000 + o - 0x40000000 = o := by omega
  rw [icxTarget, if_neg (by omega), if_neg (by omega), if_neg (by omega), if_neg (by omega), hs, if_pos ⟨by omega, by omega, hb⟩]

/-- A debug read of a read-pop port's word shifts out that word of the holding window next (R20). -/
theorem PopWord.dbgGo {o : Nat} (h : PopWord o) {s : State} {r : BitVec 68} (mo : Moment) (hw : r.getLsbD 64 = false)
    (hr : debugReaches s.debugLevel false .registers o = true) (hl : s.regLive o = true)
    (ha : (r.extractLsb' 32 32).toNat = 0x40000000 + o) :
    s.dbgGo r mo = (s.traced ⟨.debug, false, 0x40000000 + o, 1, false⟩).modStrong fun u => { u with dbgReg := dbgResult r (s.rd o) 0 } := by
  have hal : (0x40000000 + o) / 4 * 4 = 0x40000000 + o := by have := h.place; omega
  simp only [State.dbgGo, if_neg (level_of_debugReaches hr), ha, hal, h.target, hw, hr, State.icxRead, if_true, h.peek_traced hl]
  rfl

/-- What an access begins with: the instruction register and the register captured before. -/
def State.dbgShift (s : State) : State :=
  { s with strong := { s.strong with tapIr := 0x23, extest := false }, out := s.out ++ [.tap ((List.range 68).map s.strong.dbgReg.getLsbD)] }

theorem execDbgAccess_go {s : State} {r : BitVec 68} (mo : Moment) (hd : s.tapDead = false) (hs : s.noSession = false)
    (hg : r.getLsbD 65 = true) : execDbgAccess r mo s = .next (s.dbgShift.dbgGo r mo) := by
  rw [execDbgAccess, if_neg (by simp [hd, hs]), hg]
  rfl

theorem State.dbgShift_regLive (s : State) (a : Nat) : s.dbgShift.regLive a = s.regLive a := State.regLive_congr (fun _ _ => rfl) rfl

theorem State.dbgShift_debugLevel (s : State) : s.dbgShift.debugLevel = s.debugLevel := rfl

/-- Settles O44: the access reads the word as it stands and writes the debug register; only the trace may count one lost. -/
theorem debugReadsOfPorts : Obligations.DebugReadsOfPorts := by
  intro s r mo o hd hs hg hw hr hl ha ho
  have hp : PopWord o := ho
  have hx := execDbgAccess_go mo hd hs hg
  rw [hp.dbgGo mo hw (by rwa [s.dbgShift_debugLevel]) (by rwa [s.dbgShift_regLive]) ha] at hx
  obtain ⟨rg, tr, hf⟩ : ∃ rg tr, s.dbgShift.traced ⟨.debug, false, 0x40000000 + o, 1, false⟩ =
      { s.dbgShift with regs := rg, trace := tr } := ⟨_, _, s.dbgShift.traced_frame _⟩
  refine ⟨_, hx, rfl, ?_, ?_, ?_, fun b hb => ?_, fun h60 => ?_, ?_⟩
  · rw [hf]; rfl
  · rw [hf]; rfl
  · rw [hf]; rfl
  · exact State.traced_rd_ne s.dbgShift _ (by simpa using hb)
  · rw [State.traced_off (s := s.dbgShift) h60]; rfl
  · rw [hf, State.modStrong, State.dbgShift]

end Sys2Proof.Machine
end

section
/-!
PROOFS. Pops of the receive mailboxes, the host's requests to BAR0, and the interconnect (00_scope.md R18, R19; 12_host_control.md R343,
R353 to R357).
-/
namespace Sys2Proof.Machine
open Sys2Proof Safety

/-! ### Byte arrays in registers -/

theorem State.rd_putBytes_ne (s : State) (a : Nat) (l : List Byte) {b : Nat} (h : b < a ∨ a + l.length ≤ b) :
    (s.putBytes a l).rd b = s.rd b := by
  induction s, a, l using State.putBytes.induct with
  | case1 s a b0 b1 b2 b3 bs ih =>
    rw [State.putBytes, ih (by simp only [List.length_cons] at h; omega), State.rd_wr_ne]
    simp only [List.length_cons] at h; omega
  | case2 s a b0 b1 b2 => exact s.rd_wr_ne _ (by simp at h; omega)
  | case3 s a b0 b1 => exact s.rd_wr_ne _ (by simp at h; omega)
  | case4 s a b0 => exact s.rd_wr_ne _ (by simp at h; omega)
  | case5 => rfl

theorem State.putBytes_frame (s : State) (a : Nat) (l : List Byte) : s.putBytes a l = { s with regs := (s.putBytes a l).regs } := by
  induction s, a, l using State.putBytes.induct with
  | case1 s a b0 b1 b2 b3 bs ih =>
    rw [State.putBytes, ih]
    rfl
  | _ => rfl

/-! ### The receive mailboxes (R18, R19) -/

theorem slice_length (bs : List Byte) (o n : Nat) : (slice bs o n).length = n := by
  simp only [slice, List.length_append, List.length_take, List.length_drop, List.length_replicate]
  omega

/-- The word that shows an entry of a mailbox: VALID, OPCODE, VC, KIND and LENGTH. -/
def rxWord (e : RxEntry) : BitVec 32 :=
  setBits (setBits (setBits (setBits (setBits 0 31 31 1) 23 16 e.opcode) 15 12 e.vc) 11 8 e.kind) 6 0 e.data.length

theorem rxWord_fields (e : RxEntry) : getBits (rxWord e) 31 31 = 1 ∧ getBits (rxWord e) 23 16 = e.opcode % 256 ∧
    getBits (rxWord e) 15 12 = e.vc % 16 ∧ getBits (rxWord e) 11 8 = e.kind % 16 ∧ getBits (rxWord e) 6 0 = e.data.length % 128 := by
  have hs (w : BitVec 32) (hi lo v : Nat) (h : lo ≤ hi ∧ hi < 32) := getBits_setBits w hi lo v h.1 h.2
  have ha (w : BitVec 32) (hi lo v hi' lo' : Nat) (h : (lo ≤ hi ∧ hi < 32) ∧ (hi' < lo ∨ hi < lo')) :=
    getBits_setBits_apart w hi lo v hi' lo' h.1.1 h.1.2 h.2
  refine ⟨?_, ?_, ?_, ?_, hs _ _ _ _ (by decide)⟩
  · rw [rxWord, ha _ _ _ _ _ _ (by decide), ha _ _ _ _ _ _ (by decide), ha _ _ _ _ _ _ (by decide), ha _ _ _ _ _ _ (by decide)]
    rfl
  · rw [rxWord, ha _ _ _ _ _ _ (by decide), ha _ _ _ _ _ _ (by decide), ha _ _ _ _ _ _ (by decide)]
    exact hs _ _ _ _ (by decide)
  · rw [rxWord, ha _ _ _ _ _ _ (by decide), ha _ _ _ _ _ _ (by decide)]
    exact hs _ _ _ _ (by decide)
  · rw [rxWord, ha _ _ _ _ _ _ (by decide)]
    exact hs _ _ _ _ (by decide)

theorem State.port_modPort (s : State) (n : Nat) (f : PortState → PortState) : (s.modPort n f).port n = f (s.port n) :=
  Sparse.get_set_self _ _ _ _

/-- The holding window of a port's mailbox shows a word and 64 bytes. -/
def State.showRx (s : State) (n : Nat) (w : BitVec 32) (bs : List Byte) : State := (s.wr (Reg.port_RX_HDR n) w).putBytes (Reg.port_RX_DATA n 0) bs

/-- A pop of an empty mailbox shows VALID 0 (R19). -/
theorem State.rxPop_nil {s : State} {n : Nat} (h : (s.port n).mailbox = []) : s.rxPop n = s.showRx n 0 (List.replicate 64 0) := by
  rw [State.rxPop, h]
  rfl

/-- A pop takes the oldest entry and shows it (R18). -/
theorem State.rxPop_cons {s : State} {n : Nat} {e : RxEntry} {rest : List RxEntry} (h : (s.port n).mailbox = e :: rest) :
    s.rxPop n = (s.modPort n fun p => { p with mailbox := rest }).showRx n (rxWord e) (slice e.data 0 64) := by
  rw [State.rxPop, h]
  rfl

theorem State.showRx_frame (s : State) (n : Nat) (w : BitVec 32) (bs : List Byte) :
    s.showRx n w bs = { s with regs := (s.showRx n w bs).regs } := State.putBytes_frame (s.wr _ w) _ bs

theorem State.showRx_port (s : State) (n : Nat) (w : BitVec 32) (bs : List Byte) (m : Nat) : (s.showRx n w bs).port m = s.port m := by
  rw [s.showRx_frame]
  rfl

theorem State.showRx_rd_hdr (s : State) (n : Nat) (w : BitVec 32) (bs : List Byte) : (s.showRx n w bs).rd (Reg.port_RX_HDR n) = w := by
  rw [State.showRx, State.rd_putBytes_ne _ _ _ (.inl (by unfold Reg.port_RX_HDR Reg.port_RX_DATA; omega)), State.rd_wr_self]

/-- What lies outside the holding window is left. -/
theorem State.showRx_rd_ne (s : State) (n : Nat) (w : BitVec 32) {bs : List Byte} (hbs : bs.length = 64) {b : Nat}
    (h : b < 0x40200 + 0x800 * n ∨ 0x40244 + 0x800 * n ≤ b) : (s.showRx n w bs).rd b = s.rd b := by
  rw [State.showRx, State.rd_putBytes_ne, State.rd_wr_ne]
  · unfold Reg.port_RX_HDR; omega
  · unfold Reg.port_RX_DATA; omega

theorem blockAt_rxHdr {n : Nat} (h : n < 96) : blockAt (Reg.port_RX_HDR n) = .port n := by
  rw [Reg.port_RX_HDR, blockAt, if_neg (by omega), if_neg (by omega), if_pos (by omega)]
  congr 1
  omega

/-- The holding window says of no register of its port whether it answers. -/
theorem State.showRx_regLive (s : State) {n : Nat} (hn : n < 96) (w : BitVec 32) {bs : List Byte} (hbs : bs.length = 64) :
    (s.showRx n w bs).regLive (Reg.port_RX_HDR n) = s.regLive (Reg.port_RX_HDR n) := by
  refine State.regLive_congr (fun b hb => s.showRx_rd_ne n w hbs ?_) (by rw [s.showRx_frame])
  simp only [liveRegs, blockAt_rxHdr hn, List.cons_append, List.nil_append, List.mem_cons, List.not_mem_nil, or_false] at hb
  unfold Reg.global_BOOT_STATUS Reg.power_PWR_STATE Reg.power_DOM_ON_LO Reg.power_DOM_ON_HI Reg.port_PORT_CFG at hb
  omega

/-- A read of RX_HDR takes the next entry and answers the word that shows it. -/
theorem exec_readPop_rx {s : State} {n : Nat} (hn : n < 96) (hl : s.regLive (Reg.port_RX_HDR n) = true) {u : State} {w : BitVec 32}
    {bs : List Byte} (hp : s.rxPop n = u.showRx n w bs) (hbs : bs.length = 64) (hu : u.regLive (Reg.port_RX_HDR n) = true) :
    exec (.readPop (BitVec.ofNat 22 (Reg.port_RX_HDR n))) s = .next ((u.showRx n w bs).emit (.readData w)) := by
  have ha : (BitVec.ofNat 22 (Reg.port_RX_HDR n)).toNat = Reg.port_RX_HDR n := by
    rw [BitVec.toNat_ofNat, Nat.mod_eq_of_lt]
    unfold Reg.port_RX_HDR; omega
  have hpop : s.popAt (Reg.port_RX_HDR n) = u.showRx n w bs := by
    have hc : Reg.port_RX_HDR n ≠ Reg.cellar_DIR_HDR ∧ Reg.port_RX_HDR n ≠ Reg.blotter_RD_HDR := by
      unfold Reg.port_RX_HDR Reg.cellar_DIR_HDR Reg.blotter_RD_HDR; omega
    rw [State.popAt, hl, if_neg hc.1, if_neg hc.2, blockAt_rxHdr hn, ← hp]
    simp
  have hw : PopWord (Reg.port_RX_HDR n) := .inr (.inr (.inr (.inr ⟨n, hn, .inl rfl⟩)))
  show execReadPop _ s = _
  rw [execReadPop, State.busRead, ha, hpop, hw.peek (by rw [u.showRx_regLive hn w hbs, hu]), u.showRx_rd_hdr]

theorem readPop_rx_nil (s : State) (n : Fin 96) (hl : s.regLive (Reg.port_RX_HDR n) = true) (h : (s.port n).mailbox = []) :
    ∃ t, exec (.readPop (BitVec.ofNat 22 (Reg.port_RX_HDR n))) s = .next t ∧ t.out = s.out ++ [.readData 0] ∧
      t.rd (Reg.port_RX_HDR n) = 0 ∧ t = { s with regs := t.regs, out := t.out } := by
  refine ⟨_, exec_readPop_rx n.isLt hl (State.rxPop_nil h) List.length_replicate hl, ?_, ?_, ?_⟩
  · rw [State.emit_out, State.showRx_frame]
  · rw [State.emit_rd, State.showRx_rd_hdr]
  · rw [State.showRx_frame, State.emit]

theorem readPop_rx_cons (s : State) (n : Fin 96) (hl : s.regLive (Reg.port_RX_HDR n) = true) (e : RxEntry) (rest : List RxEntry)
    (h : (s.port n).mailbox = e :: rest) (hlen : e.data.length ≤ 64) :
    ∃ t w, exec (.readPop (BitVec.ofNat 22 (Reg.port_RX_HDR n))) s = .next t ∧ t.out = s.out ++ [.readData w] ∧
      (t.port n).mailbox = rest ∧ getBits w 31 31 = 1 ∧ getBits w 23 16 = e.opcode % 256 ∧ getBits w 15 12 = e.vc % 16 ∧
      getBits w 11 8 = e.kind % 16 ∧ getBits w 6 0 = e.data.length ∧ t.rd (Reg.port_RX_HDR n) = w ∧
      t = { s with regs := t.regs, ports := t.ports, out := t.out } := by
  have hlu : (s.modPort n fun p => { p with mailbox := rest }).regLive (Reg.port_RX_HDR n) = true :=
    (State.regLive_congr (fun _ _ => rfl) rfl).trans hl
  obtain ⟨h1, h2, h3, h4, h5⟩ := rxWord_fields e
  refine ⟨_, rxWord e, exec_readPop_rx n.isLt hl (State.rxPop_cons h) (slice_length _ _ _) hlu, ?_, ?_, h1, h2, h3, h4, ?_, ?_, ?_⟩
  · rw [State.emit_out, State.showRx_frame]
    rfl
  · show ((State.showRx _ n _ _).port n).mailbox = rest
    rw [State.showRx_port, State.port_modPort]
  · rw [h5]; omega
  · rw [State.emit_rd, State.showRx_rd_hdr]
  · rw [State.showRx_frame, State.emit]
    rfl

/-! ### Words and bytes -/

/-- Four bytes, the least significant first, spell their word (R6). -/
theorem ofNat_leNat_four (b0 b1 b2 b3 : Byte) : BitVec.ofNat 32 (leNat [b0, b1, b2, b3]) = b3 ++ b2 ++ b1 ++ b0 := by
  apply BitVec.eq_of_toNat_eq
  have h0 := b0.isLt
  have h1 := b1.isLt
  have h2 := b2.isLt
  have h3 := b3.isLt
  rw [BitVec.toNat_append, BitVec.toNat_append, BitVec.toNat_append, ← Nat.shiftLeft_add_eq_or_of_lt h0,
    ← Nat.shiftLeft_add_eq_or_of_lt h1, ← Nat.shiftLeft_add_eq_or_of_lt h2]
  simp only [leNat, List.foldr_cons, List.foldr_nil, BitVec.toNat_ofNat, Nat.shiftLeft_eq]
  omega

theorem ofNat_leNat_extract (f : Nat → Byte) {i : Nat} (hi : i < 4) :
    (BitVec.ofNat 32 (leNat ((List.range 4).map f))).extractLsb' (8 * i) 8 = f i := by
  rw [show (List.range 4).map f = [f 0, f 1, f 2, f 3] from rfl, ofNat_leNat_four]
  apply BitVec.eq_of_getLsbD_eq
  intro j hj
  rw [BitVec.getLsbD_extractLsb']
  simp only [BitVec.getLsbD_append]
  rcases (by omega : i = 0 ∨ i = 1 ∨ i = 2 ∨ i = 3) with rfl | rfl | rfl | rfl
  · grind
  · grind
  · grind
  · grind

/-! ### BAR0 requests of the host -/

theorem reqWords_word {a : Nat} (h : a % 4 = 0) : reqWords a 4 = [a] := by
  have ha : a / 4 * 4 = a := by omega
  simp [reqWords, ha, List.range_succ, List.filter]

theorem lanesOf_word (a : Nat) : lanesOf a 4 a = 15 := by
  simp [lanesOf, List.range_succ]

theorem bar0Request_undecoded {s : State} {a : BitVec 22} (mo : Moment) (hd : s.domainOn 7 = true) (hn : bar0Decodes a.toNat = false)
    (len : Nat) (data : List Byte) : exec (.bar0Request false a len data mo) s = .next (s.emit (.completion 1 [])) ∧
      exec (.bar0Request true a len data mo) s = .next s := by
  constructor
  · show execBar0Request _ _ _ _ _ s = _
    simp [execBar0Request, hd, hn]
  · show execBar0Request _ _ _ _ _ s = _
    simp [execBar0Request, hd, hn]

/-- An aligned word lies in one doubleword. -/
theorem word_in_doubleword {a : Nat} (h : a % 4 = 0) : a / 8 = (a + 3) / 8 := by omega

theorem bar0Request_read {s : State} {a : BitVec 22} (mo : Moment) (hd : s.domainOn 7 = true) (hy : bar0Decodes a.toNat = true)
    (h : a.toNat % 4 = 0) : exec (.bar0Request false a 4 [] mo) s =
      .next (((s.traced ⟨.host, false, 0x40000000 + a.toNat, 1, false⟩).busRead a.toNat).2.emit
        (.completion 0 (wordBytes ((s.traced ⟨.host, false, 0x40000000 + a.toNat, 1, false⟩).busRead a.toNat).1))) := by
  show execBar0Request _ _ _ _ _ s = _
  simp only [execBar0Request, reqWords_word h, hd, hy, h]
  simp [← word_in_doubleword h, slice, wordBytes]

theorem bar0Request_write {s : State} {a : BitVec 22} (mo : Moment) (hd : s.domainOn 7 = true) (hy : bar0Decodes a.toNat = true)
    (h : a.toNat % 4 = 0) (b0 b1 b2 b3 : Byte) : exec (.bar0Request true a 4 [b0, b1, b2, b3] mo) s =
      .next ((s.traced ⟨.host, true, 0x40000000 + a.toNat, 1, false⟩).busWrite .host mo a.toNat (b3 ++ b2 ++ b1 ++ b0) (BitVec.allOnes 32)) := by
  have hw : (List.range 4).map (fun i => if a.toNat ≤ a.toNat + i then [b0, b1, b2, b3].getD (a.toNat + i - a.toNat) 0 else 0) =
      [b0, b1, b2, b3] := by simp [List.range_succ]
  show execBar0Request _ _ _ _ _ s = _
  simp only [execBar0Request, reqWords_word h, hd, hy, State.each, List.foldl_cons, List.foldl_nil, hw, ofNat_leNat_four, lanesOf_word,
    byteMask_full]
  simp [← word_in_doubleword h]

/-! ### The interconnect (R353 to R357) -/

theorem State.icxGrant_core {s : State} {a : Nat} {t : IcxTarget} {o : Nat} (write : Bool) (h : icxTarget a = some (t, o)) :
    s.icxGrant .core write a 1 = some (t, o) := by
  simp [State.icxGrant, State.icxPath, h]

theorem icxTarget_sram {o : Nat} (h : o < 0x800000) : icxTarget (0x10000000 + o) = some (.sram, o) := by
  rw [icxTarget, if_neg (by omega), if_pos (by omega), Nat.add_sub_cancel_left]

/-- An aligned offset of the SRAM window is where the target decodes it. -/
theorem icxTarget_sram_addr {o : Nat} (h : o < 0x800000) (h4 : o % 4 = 0) :
    icxTarget ((BitVec.ofNat 32 (0x10000000 + o)).toNat / 4 * 4) = some (.sram, o) := by
  rw [BitVec.toNat_ofNat, show (0x10000000 + o) % 2 ^ 32 / 4 * 4 = 0x10000000 + o by omega, icxTarget_sram h]

/-- A transaction of one word of the management core, with the trace off, is its beat and the answer. -/
theorem execIcx_core_word {s u : State} {a : BitVec 32} {t : IcxTarget} {o : Nat} {write : Bool} {data ws : List (BitVec 32)} {mo : Moment}
    (hd : s.domainOn 2 = true) (ht : s.domainOn 60 = false) (ha : icxTarget (a.toNat / 4 * 4) = some (t, o))
    (hb : s.icxBeats .core write t o 1 data mo = (ws, u)) :
    exec (.icxTransaction .core write a 1 data mo) s = .next (u.emit (.icx .core false ws)) := by
  show execIcxTransaction _ _ _ _ _ _ s = _
  have h1 : ((1 : Fin 17) : Nat) = 1 := rfl
  simp only [execIcxTransaction, h1, s.icxGrant_core write ha, State.traced_off ht, hb]
  rw [if_neg (by simp [hd])]

/-- A transaction that no target decodes, with the trace off, ends in a decode error (R356). -/
theorem execIcx_undecoded {s : State} (m : Master) {a : BitVec 32} (mo : Moment) (hd : s.domainOn 2 = true) (ht : s.domainOn 60 = false)
    (ha : icxTarget (a.toNat / 4 * 4) = none) :
    exec (.icxTransaction m false a 1 [] mo) s = .next ((s.icxError m false false a.toNat).icxAnswerError m false 1) := by
  show execIcxTransaction _ _ _ _ _ _ s = _
  have hn : ¬ ((1 : Fin 17).val = 0 ∨ s.domainOn 2 = false) := by simp [hd]
  have hg : s.icxGrant m false (a.toNat / 4 * 4) (1 : Fin 17).val = none := by rw [State.icxGrant, ha]
  simp only [execIcxTransaction, if_neg hn, hg, State.traced_off ht]
  rfl

/-! ### The management SRAM -/

theorem State.sram_setSram (s : State) (a b : Nat) (v : Byte) :
    Sparse.get (fun _ => 0#8) (s.setSram a v).sram b = if b = a then v else Sparse.get (fun _ => 0#8) s.sram b := by
  split
  · next h => rw [h]; exact Sparse.get_set_self _ _ _ _
  · next h => exact Sparse.get_set_ne _ _ _ h

theorem State.setSram_frame (s : State) (a : Nat) (v : Byte) : s.setSram a v = { s with sram := (s.setSram a v).sram } := rfl

/-- A word written to the SRAM goes in as its four bytes, the least significant first (R6). -/
theorem State.icxWrite_sram (s : State) (m : Master) (mo : Moment) (o : Nat) (v : BitVec 32) : s.icxWrite m mo .sram o v =
    (((s.setSram o (v.extractLsb' 0 8)).setSram (o + 1) (v.extractLsb' 8 8)).setSram (o + 2) (v.extractLsb' 16 8)).setSram (o + 3)
      (v.extractLsb' 24 8) := rfl

theorem State.icxWrite_sram_frame (s : State) (m : Master) (mo : Moment) (o : Nat) (v : BitVec 32) :
    s.icxWrite m mo .sram o v = { s with sram := (s.icxWrite m mo .sram o v).sram } := by
  rw [State.icxWrite_sram, State.setSram, State.setSram, State.setSram, State.setSram]

/-- It reads there, and every other byte reads as before. -/
theorem State.icxWrite_sram_byte (s : State) (m : Master) (mo : Moment) (o : Nat) (v : BitVec 32) {i : Nat} (hi : i < 4) :
    Sparse.get (fun _ => 0#8) (s.icxWrite m mo .sram o v).sram (o + i) = v.extractLsb' (8 * i) 8 := by
  rw [State.icxWrite_sram]
  simp only [State.sram_setSram]
  rcases (by omega : i = 0 ∨ i = 1 ∨ i = 2 ∨ i = 3) with rfl | rfl | rfl | rfl
  · rw [if_neg (by omega), if_neg (by omega), if_neg (by omega), if_pos (by omega)]
  · rw [if_neg (by omega), if_neg (by omega), if_pos (by omega)]
  · rw [if_neg (by omega), if_pos (by omega)]
  · rw [if_pos (by omega)]

theorem State.icxWrite_sram_other (s : State) (m : Master) (mo : Moment) (o : Nat) (v : BitVec 32) {b : Nat} (hb : b < o ∨ o + 4 ≤ b) :
    Sparse.get (fun _ => 0#8) (s.icxWrite m mo .sram o v).sram b = Sparse.get (fun _ => 0#8) s.sram b := by
  rw [State.icxWrite_sram]
  simp only [State.sram_setSram]
  rw [if_neg (by omega), if_neg (by omega), if_neg (by omega), if_neg (by omega)]

theorem icx_core_sram_write (s : State) {o : Nat} (v : BitVec 32) (mo : Moment) (hd : s.domainOn 2 = true) (ht : s.domainOn 60 = false)
    (ha : icxTarget ((BitVec.ofNat 32 (0x10000000 + o)).toNat / 4 * 4) = some (.sram, o)) :
    ∃ t, exec (.icxTransaction .core true (BitVec.ofNat 32 (0x10000000 + o)) 1 [v] mo) s = .next t ∧
      (∀ i, i < 4 → Sparse.get (fun _ => 0#8) t.sram (o + i) = v.extractLsb' (8 * i) 8) ∧
      (∀ a, a < o ∨ o + 4 ≤ a → Sparse.get (fun _ => 0#8) t.sram a = Sparse.get (fun _ => 0#8) s.sram a) ∧
      t.out = s.out ++ [.icx .core false []] ∧ t = { s with sram := t.sram, out := t.out } := by
  have hb : s.icxBeats .core true .sram o 1 [v] mo = ([], s.icxWrite .core mo .sram o v) := rfl
  refine ⟨_, execIcx_core_word hd ht ha hb, fun i hi => s.icxWrite_sram_byte .core mo o v hi,
    fun a hn => s.icxWrite_sram_other .core mo o v hn, ?_, ?_⟩
  · rw [State.emit_out, State.icxWrite_sram_frame]
  · rw [State.icxWrite_sram_frame, State.emit]

theorem icx_core_sram_read (s : State) {o : Nat} (mo : Moment) (hd : s.domainOn 2 = true) (ht : s.domainOn 60 = false)
    (ha : icxTarget ((BitVec.ofNat 32 (0x10000000 + o)).toNat / 4 * 4) = some (.sram, o)) :
    ∃ t w, exec (.icxTransaction .core false (BitVec.ofNat 32 (0x10000000 + o)) 1 [] mo) s = .next t ∧
      t.out = s.out ++ [.icx .core false [w]] ∧
      (∀ i, i < 4 → w.extractLsb' (8 * i) 8 = Sparse.get (fun _ => 0#8) s.sram (o + i)) ∧ t = { s with out := t.out } := by
  have hb : s.icxBeats .core false .sram o 1 [] mo = ([(s.icxRead .core .sram o).1], s) := rfl
  exact ⟨_, _, execIcx_core_word hd ht ha hb, rfl, fun i hi => ofNat_leNat_extract _ hi, rfl⟩

/-! ### Errors of the interconnect (R356) -/

/-- The record of a first error. -/
def icxErrWord (m : Master) (timeout write : Bool) : BitVec 32 :=
  setBits (setBits (setBits (setBits 0 31 31 1) 30 30 (if timeout then 1 else 0)) 29 27 (Master.code m)) 26 26 (if write then 1 else 0)

/-- Each error is counted and raises ICX_ERR; a record that stands is kept. -/
theorem State.icxError_recorded {s : State} (m : Master) (timeout write : Bool) (a : Nat) (h : s.on R.hostif_ICX_ERR_VALID = true) :
    s.icxError m timeout write a = (s.bump icxErrCnt).raise Flag.hostif_ICX_ERR := by
  have hv : ((s.bump icxErrCnt).raise Flag.hostif_ICX_ERR).on R.hostif_ICX_ERR_VALID = true := by
    rw [State.on, State.get_raise_apart _ _ _ (by decide) (by decide), State.get_bump_apart _ _ _ (by decide)]
    exact h
  rw [State.icxError, hv]
  rfl

theorem State.icxError_first {s : State} (m : Master) (timeout write : Bool) (a : Nat) (h : s.on R.hostif_ICX_ERR_VALID = false) :
    s.icxError m timeout write a = (((s.bump icxErrCnt).raise Flag.hostif_ICX_ERR).wr Reg.hostif_ICX_ERR (icxErrWord m timeout write)).wr
      Reg.hostif_ICX_ERR_ADDR (BitVec.ofNat 32 a) := by
  have hv : ((s.bump icxErrCnt).raise Flag.hostif_ICX_ERR).on R.hostif_ICX_ERR_VALID = false := by
    rw [State.on, State.get_raise_apart _ _ _ (by decide) (by decide), State.get_bump_apart _ _ _ (by decide)]
    exact h
  rw [State.icxError, hv]
  rfl

theorem icxErrWord_fields (m : Master) (timeout write : Bool) : getBits (icxErrWord m timeout write) 31 31 = 1 ∧
    getBits (icxErrWord m timeout write) 30 30 = (if timeout then 1 else 0) ∧ getBits (icxErrWord m timeout write) 29 27 = Master.code m ∧
    getBits (icxErrWord m timeout write) 26 26 = (if write then 1 else 0) := by
  cases m <;> cases timeout <;> cases write <;> decide

/-- Each error is counted and raises ICX_ERR, and a record stands. -/
theorem State.icxError_counts (s : State) (m : Master) (timeout write : Bool) (a : Nat) :
    (s.icxError m timeout write a).get Flag.hostif_ICX_ERR.fld = 1 ∧
    (s.icxError m timeout write a).get icxErrCnt = min (s.get icxErrCnt + 1) (2 ^ 32 - 1) ∧
    (s.icxError m timeout write a).get R.hostif_ICX_ERR_VALID = 1 := by
  have hflag : ((s.bump icxErrCnt).raise Flag.hostif_ICX_ERR).get Flag.hostif_ICX_ERR.fld = 1 := State.get_raise_self _ _ (by decide)
  have hcnt : ((s.bump icxErrCnt).raise Flag.hostif_ICX_ERR).get icxErrCnt = min (s.get icxErrCnt + 1) (2 ^ 32 - 1) := by
    rw [State.get_raise_apart _ _ _ (by decide) (by decide), State.get_bump_self _ _ (by decide)]
    rfl
  cases hv : s.on R.hostif_ICX_ERR_VALID with
  | true =>
    rw [State.icxError_recorded m timeout write a hv]
    refine ⟨hflag, hcnt, ?_⟩
    rw [State.get_raise_apart _ _ _ (by decide) (by decide), State.get_bump_apart _ _ _ (by decide)]
    exact beq_iff_eq.1 hv
  | false =>
    rw [State.icxError_first m timeout write a hv]
    refine ⟨?_, ?_, ?_⟩
    · rwa [State.get_wr_ne _ _ _ _ (by decide), State.get_wr_ne _ _ _ _ (by decide)]
    · rwa [State.get_wr_ne _ _ _ _ (by decide), State.get_wr_ne _ _ _ _ (by decide)]
    · rw [State.get_wr_ne _ _ _ _ (by decide)]
      exact (State.get_wr_self _ _ R.hostif_ICX_ERR_VALID).trans (icxErrWord_fields m timeout write).1

/-- A first error is recorded. -/
theorem State.icxError_records {s : State} (m : Master) (timeout write : Bool) (a : Nat) (hv : s.on R.hostif_ICX_ERR_VALID = false) :
    (s.icxError m timeout write a).rd Reg.hostif_ICX_ERR = icxErrWord m timeout write ∧
    (s.icxError m timeout write a).rd Reg.hostif_ICX_ERR_ADDR = BitVec.ofNat 32 a := by
  rw [State.icxError_first m timeout write a hv]
  exact ⟨by rw [State.rd_wr_ne _ _ (by decide), State.rd_wr_self], State.rd_wr_self _ _ _⟩

/-- A record that stands stays. -/
theorem State.icxError_keeps {s : State} (m : Master) (timeout write : Bool) (a : Nat) (hv : s.on R.hostif_ICX_ERR_VALID = true) :
    (s.icxError m timeout write a).rd Reg.hostif_ICX_ERR = s.rd Reg.hostif_ICX_ERR := by
  rw [State.icxError_recorded m timeout write a hv, State.rd_raise_ne _ _ (by decide) (by decide), State.rd_bump_ne _ _ (by decide)]

theorem State.icxError_frame (s : State) (m : Master) (timeout write : Bool) (a : Nat) :
    s.icxError m timeout write a = { s with regs := (s.icxError m timeout write a).regs } := by
  cases hv : s.on R.hostif_ICX_ERR_VALID with
  | true => rw [State.icxError_recorded m timeout write a hv]; rfl
  | false => rw [State.icxError_first m timeout write a hv]; rfl

/-- What a master sees of a transaction of one word that ends in error (R356). -/
def errorAnswer (m : Master) (write : Bool) : List Output :=
  match m with
  | .host => if write then [] else [.completion 4 []]
  | _ => [.icx m true (if write then [] else [0])]

/-- The answer is all that such an end changes. -/
theorem State.icxAnswerError_eq (s : State) (m : Master) (write : Bool) : s.icxAnswerError m write 1 = { s with out := s.out ++ errorAnswer m write } := by
  cases m with
  | host =>
    cases write with
    | false => rfl
    | true => exact congrArg (fun o => { s with out := o }) (List.append_nil s.out).symm
  | _ => rfl

/-- A transaction that times out (R356). -/
theorem icxTimeout_spec (s : State) (m : Master) (write : Bool) (a : BitVec 32) : ∃ t, exec (.icxTimeout m write a) s = .next t ∧
    t.get Flag.hostif_ICX_ERR.fld = 1 ∧ t.get icxErrCnt = min (s.get icxErrCnt + 1) (2 ^ 32 - 1) ∧ t.get R.hostif_ICX_ERR_VALID = 1 ∧
    (s.on R.hostif_ICX_ERR_VALID = false → t.get R.hostif_ICX_ERR_TIMEOUT = 1 ∧ t.get R.hostif_ICX_ERR_MASTER = Master.code m ∧
      t.get R.hostif_ICX_ERR_WRITE = (if write then 1 else 0) ∧ t.rd Reg.hostif_ICX_ERR_ADDR = a) ∧
    (s.on R.hostif_ICX_ERR_VALID = true → t.rd Reg.hostif_ICX_ERR = s.rd Reg.hostif_ICX_ERR) ∧
    t.out = s.out ++ errorAnswer m write ∧ t = { s with regs := t.regs, out := t.out } := by
  have hx : exec (.icxTimeout m write a) s = .next { s.icxError m true write a.toNat with out := (s.icxError m true write a.toNat).out ++ errorAnswer m write } :=
    congrArg Host.Outcome.next (State.icxAnswerError_eq _ _ _)
  obtain ⟨hflag, hcnt, hvalid⟩ := s.icxError_counts m true write a.toNat
  refine ⟨_, hx, hflag, hcnt, hvalid, fun hv => ?_, State.icxError_keeps m true write a.toNat, ?_, ?_⟩
  · obtain ⟨hword, haddr⟩ := State.icxError_records m true write a.toNat hv
    obtain ⟨-, h30, h27, h26⟩ := icxErrWord_fields m true write
    have hg (hi lo : Nat) : (s.icxError m true write a.toNat).get ⟨Reg.hostif_ICX_ERR, hi, lo⟩ = getBits (icxErrWord m true write) hi lo := by
      rw [State.get, hword]
    exact ⟨(hg 30 30).trans h30, (hg 29 27).trans h27, (hg 26 26).trans h26, haddr.trans (by rw [BitVec.ofNat_toNat, BitVec.setWidth_eq])⟩
  · rw [State.icxError_frame]
  · rw [State.icxError_frame]

/-- Settles O39: the pops by what the holding window shows, BAR0 and the SRAM word by word, errors by the record they leave. -/
theorem busAccesses : Obligations.BusAccesses := by
  refine ⟨fun s n hl => ⟨readPop_rx_nil s n hl, readPop_rx_cons s n hl⟩, fun s a mo hd => ⟨fun hn => bar0Request_undecoded mo hd hn,
    fun hy h4 => ⟨bar0Request_read mo hd hy h4, bar0Request_write mo hd hy h4⟩⟩, fun s o v mo hd ht ho h4 => ?_,
    fun s m a mo hd ht ha => execIcx_undecoded m mo hd ht ha, icxTimeout_spec⟩
  have ha := icxTarget_sram_addr ho h4
  exact ⟨icx_core_sram_write s v mo hd ht ha, icx_core_sram_read s mo hd ht ha⟩

end Sys2Proof.Machine
end

section
/-!
PROOFS. Which registers a chain of writes may change, one lemma per kind of write.
-/
namespace Sys2Proof.Safety
open Sys2Proof Sys2Proof.Machine

variable {s t : State} {l : List Nat}

theorem OnlyRegs.refl (s : State) (l : List Nat) : OnlyRegs s s l := fun _ _ => rfl

theorem OnlyRegs.put (h : OnlyRegs s t l) (f : Fld) (v : Nat) (hf : f.addr ∈ l) : OnlyRegs s (t.put f v) l :=
  fun a ha => (t.rd_put_ne f v (ne_of_mem_of_not_mem hf ha).symm).trans (h a ha)

theorem OnlyRegs.bump (h : OnlyRegs s t l) (f : Fld) (hf : f.addr ∈ l) : OnlyRegs s (t.bump f) l := h.put f _ hf

theorem OnlyRegs.raise (h : OnlyRegs s t l) (f : Flg) (hf : f.addr ∈ l) (hc : f.counter.addr ∈ l) : OnlyRegs s (t.raise f) l :=
  (h.put f.fld 1 hf).bump f.counter hc

end Sys2Proof.Safety
end

section
/-!
PROOFS. The synthesizers and their outputs (01_ruling.md R34, R37 to R39).
-/
namespace Sys2Proof.Machine
open Sys2Proof Safety

/-! ### Lock, delay and divider -/

theorem synUnlock_spec (s : State) (n : Fin 2) : ∃ t, exec (.synUnlock n) s = .next t ∧ t.get (R.clock_STATUS_VCO_LOCK n) = 0 ∧
    t.get (R.clock_STATUS_UNLOCK_CNT n) = min (s.get (R.clock_STATUS_UNLOCK_CNT n) + 1) 0xFFFF ∧
    t.get Flag.ruling_SYN_UNLOCK.fld = 1 ∧
    OnlyRegs s t [Reg.clock_STATUS n, Flag.ruling_SYN_UNLOCK.addr, Flag.ruling_SYN_UNLOCK.counter.addr] ∧
    t = { s with regs := t.regs } := by
  refine ⟨_, rfl, ?_, ?_, State.get_raise_self _ _ (by decide), ?_, rfl⟩
  · rw [State.get_raise_apart _ _ _ (by decide +revert) (by decide +revert), State.get_bump_apart _ _ _ (by decide +revert),
      State.get_put_self _ _ _ (by decide +revert)]
    rfl
  · rw [State.get_raise_apart _ _ _ (by decide +revert) (by decide +revert), State.get_bump_self _ _ (by decide +revert),
      State.get_put_apart _ _ _ _ (by decide +revert)]
    rfl
  · exact (((OnlyRegs.refl s _).put _ _ (by simp [R.clock_STATUS_VCO_LOCK])).bump _ (by simp [R.clock_STATUS_UNLOCK_CNT])).raise _
      (by simp) (by simp)

theorem vcoLockRegained_spec (s : State) (n : Fin 2) : ∃ t, exec (.vcoLockRegained n) s = .next t ∧ t.get (R.clock_STATUS_VCO_LOCK n) = 1 ∧
    OnlyRegs s t [Reg.clock_STATUS n] ∧ t = { s with regs := t.regs } :=
  ⟨_, rfl, State.get_put_self _ _ _ (by decide +revert), (OnlyRegs.refl s _).put (R.clock_STATUS_VCO_LOCK n) 1 (List.mem_singleton_self _), rfl⟩

/-- DELAY and CUR_DELAY are the two halves of an output's delay register. -/
theorem outDelay_halves (n o : Nat) : (R.clock_OUT_DELAY_DELAY n o).Ok ∧ (R.clock_OUT_DELAY_CUR_DELAY n o).Ok ∧
    (R.clock_OUT_DELAY_CUR_DELAY n o).Apart (R.clock_OUT_DELAY_DELAY n o) := by
  have hlow : (R.clock_OUT_DELAY_DELAY n o).Ok := (by decide : 0 ≤ 15 ∧ 15 < 32)
  exact ⟨hlow, (by decide : 16 ≤ 31 ∧ 31 < 32), .inr ⟨hlow, .inr (by decide : 15 < 16)⟩⟩

/-- A write of DELAY sets the target; CUR_DELAY goes on from where it is (R38). -/
theorem outDelayWrite_spec (s : State) (n : Fin 2) (o : Fin 8) (d : BitVec 16) (ha : Answers s (Reg.clock_OUT_CTRL n o)) :
    ∃ t, exec (.outDelayWrite n o d) s = .next t ∧ t.get (R.clock_OUT_DELAY_DELAY n o) = d.toNat ∧
      t.get (R.clock_OUT_DELAY_CUR_DELAY n o) = s.get (R.clock_OUT_DELAY_CUR_DELAY n o) ∧
      OnlyRegs s t [Reg.clock_OUT_DELAY n o] ∧ t = { s with regs := t.regs } := by
  obtain ⟨hok, -, hapart⟩ := outDelay_halves n o
  have hx : execOutDelayWrite n o d s = .next (s.put (R.clock_OUT_DELAY_DELAY n o) d.toNat) := by
    rw [execOutDelayWrite, State.rowWrite_answers _ _ _ ha.running ha.live]
  refine ⟨_, hx, ?_, State.get_put_apart _ _ _ _ hapart,
    (OnlyRegs.refl s _).put (R.clock_OUT_DELAY_DELAY n o) _ (List.mem_singleton_self _), rfl⟩
  rw [State.get_put_self _ _ _ hok]
  exact Nat.mod_eq_of_lt d.isLt

/-- A period that is produced moves CUR_DELAY one fine step up to a greater target (R38). -/
theorem outDelayStep_up (s : State) (n : Fin 2) (o : Fin 8) (hen : s.on (R.clock_OUT_CTRL_EN n o) = true)
    (hsyn : s.on (R.clock_CTRL_EN n) = true) (hrun : (s.synOut n o).running = true)
    (hlt : s.get (R.clock_OUT_DELAY_CUR_DELAY n o) < s.get (R.clock_OUT_DELAY_DELAY n o)) :
    ∃ t, exec (.outDelayStep n o) s = .next t ∧
      t.get (R.clock_OUT_DELAY_CUR_DELAY n o) = s.get (R.clock_OUT_DELAY_CUR_DELAY n o) + 1 ∧
      OnlyRegs s t [Reg.clock_OUT_DELAY n o] ∧ t = { s with regs := t.regs } := by
  obtain ⟨-, hok, -⟩ := outDelay_halves n o
  have hx : execOutDelayStep n o s =
      .next (s.put (R.clock_OUT_DELAY_CUR_DELAY n o) (s.get (R.clock_OUT_DELAY_CUR_DELAY n o) + 1)) := by
    simp only [execOutDelayStep, hen, hsyn, hrun, hlt, and_self, if_true]
  have htgt : s.get (R.clock_OUT_DELAY_DELAY n o) < 2 ^ 16 := s.get_lt _
  refine ⟨_, hx, ?_, (OnlyRegs.refl s _).put (R.clock_OUT_DELAY_CUR_DELAY n o) _ (List.mem_singleton_self _), rfl⟩
  rw [State.get_put_self _ _ _ hok]
  exact Nat.mod_eq_of_lt (by show _ < 2 ^ 16; omega)

theorem State.synOut_setSynOut (s : State) (n o : Nat) (x : SynOut) : (s.setSynOut n o x).synOut n o = x := Sparse.get_set_self _ _ _ _

theorem State.synOut_setSynOut_ne (s : State) {n o m p : Nat} (x : SynOut) (h : 8 * m + p ≠ 8 * n + o) :
    (s.setSynOut n o x).synOut m p = s.synOut m p := Sparse.get_set_ne _ _ _ h

theorem divChangeApply_spec (s : State) (n : Fin 2) (o : Fin 8) : ∃ t, exec (.divChangeApply n o) s = .next t ∧
    (t.synOut n o).div = s.get (R.clock_OUT_CTRL_DIV n o) ∧ t = { s with synOuts := t.synOuts } ∧
    ∀ m p, 8 * m + p ≠ 8 * n.val + o.val → t.synOut m p = s.synOut m p :=
  ⟨_, rfl, congrArg SynOut.div (s.synOut_setSynOut _ _ _), rfl, fun _ _ h => s.synOut_setSynOut_ne _ h⟩

/-! ### Writes of OUT_CTRL (R37, R39) -/

/-- A clock that no raster and no transmitter takes has no consumer to tell of a change. -/
theorem State.clockChanged_unused {s : State} (y o : Nat) (hf : ∀ f, f < 64 → s.folioOn f = false) (hp : ∀ p, p < 96 → s.sdiOut p = false) :
    s.clockChanged y o = s := by
  have hfolios : ((List.range 64).filter fun f => s.folioUp f && s.rasterRuns f && (s.timing f).syn == y && (s.timing f).out == o) = [] :=
    List.filter_eq_nil_iff.2 fun f hm => by simp [State.folioUp, hf f (List.mem_range.1 hm)]
  have hports : ((List.range 96).filter fun n => s.sdiOut n && (s.sdi n == .txRun || s.sdi n == .txBlack) &&
      s.get (R.port_SDI_CFG_TX_REF_SYN n) == y && s.get (R.port_SDI_CFG_TX_REF_OUT n) == o) = [] :=
    List.filter_eq_nil_iff.2 fun n hm => by simp [hp n (List.mem_range.1 hm)]
  rw [State.clockChanged, hfolios, hports]
  rfl

/-- The registers of an output that is enabled with a divider: EN, DIV and SYNC_PENDING. -/
def State.outEnabled (s : State) (n o d : Nat) : State :=
  ((s.put (R.clock_OUT_CTRL_EN n o) 1).put (R.clock_OUT_CTRL_DIV n o) d).put (R.clock_OUT_CTRL_SYNC_PENDING n o) 1

theorem State.outEnabled_onlyRegs (s : State) (n o d : Nat) : OnlyRegs s (s.outEnabled n o d) [Reg.clock_OUT_CTRL n o] :=
  have hin : Reg.clock_OUT_CTRL n o ∈ [Reg.clock_OUT_CTRL n o] := List.mem_singleton_self _
  (((OnlyRegs.refl s _).put (R.clock_OUT_CTRL_EN n o) 1 hin).put (R.clock_OUT_CTRL_DIV n o) d hin).put (R.clock_OUT_CTRL_SYNC_PENDING n o) 1 hin

theorem State.outEnabled_fields (s : State) (n o d : Nat) (hd : d < 2 ^ 10) :
    (s.outEnabled n o d).get (R.clock_OUT_CTRL_EN n o) = 1 ∧ (s.outEnabled n o d).get (R.clock_OUT_CTRL_DIV n o) = d ∧
      (s.outEnabled n o d).get (R.clock_OUT_CTRL_SYNC_PENDING n o) = 1 := by
  have hen : (R.clock_OUT_CTRL_EN n o).Ok := ⟨Nat.le_refl 31, (by decide : 31 < 32)⟩
  have hdiv : (R.clock_OUT_CTRL_DIV n o).Ok := ⟨Nat.zero_le 9, (by decide : 9 < 32)⟩
  have hsync : (R.clock_OUT_CTRL_SYNC_PENDING n o).Ok := ⟨Nat.le_refl 30, (by decide : 30 < 32)⟩
  have hen_sync : (R.clock_OUT_CTRL_EN n o).Apart (R.clock_OUT_CTRL_SYNC_PENDING n o) := .inr ⟨hsync, .inr (by decide : 30 < 31)⟩
  have hen_div : (R.clock_OUT_CTRL_EN n o).Apart (R.clock_OUT_CTRL_DIV n o) := .inr ⟨hdiv, .inr (by decide : 9 < 31)⟩
  have hdiv_sync : (R.clock_OUT_CTRL_DIV n o).Apart (R.clock_OUT_CTRL_SYNC_PENDING n o) := .inr ⟨hsync, .inl (by decide : 9 < 30)⟩
  refine ⟨?_, ?_, State.get_put_self _ _ _ hsync⟩
  · rw [State.outEnabled, State.get_put_apart _ _ _ _ hen_sync, State.get_put_apart _ _ _ _ hen_div, State.get_put_self _ _ _ hen]
    rfl
  · rw [State.outEnabled, State.get_put_apart _ _ _ _ hdiv_sync, State.get_put_self _ _ _ hdiv]
    exact Nat.mod_eq_of_lt hd

theorem State.setSynOut_folioOn (s : State) (n o : Nat) (x : SynOut) (f : Nat) : (s.setSynOut n o x).folioOn f = s.folioOn f := rfl

theorem State.setSynOut_sdiOut (s : State) (n o : Nat) (x : SynOut) (p : Nat) : (s.setSynOut n o x).sdiOut p = s.sdiOut p := rfl

/-- A synthesizer's registers hold nothing of what decides whether a Folio or an SDI output is there. -/
theorem State.outEnabled_unused {s : State} {n o : Nat} (d : Nat) (hn : n < 2) (ho : o < 8) (hf : ∀ f, f < 64 → s.folioOn f = false)
    (hp : ∀ p, p < 96 → s.sdiOut p = false) :
    (∀ f, f < 64 → (s.outEnabled n o d).folioOn f = false) ∧ ∀ p, p < 96 → (s.outEnabled n o d).sdiOut p = false := by
  have hrd (a : Nat) (ha : 0x40000 ≤ a) : (s.outEnabled n o d).rd a = s.rd a :=
    s.outEnabled_onlyRegs n o d a fun h => by
      rw [List.mem_singleton, Reg.clock_OUT_CTRL] at h
      omega
  refine ⟨fun f h => ?_, fun p h => ?_⟩
  · exact (State.on_congr (hrd _ (by show 0x40000 ≤ 0x100100 + 0x2000 * f; omega))).trans (hf f h)
  · have hmode : (s.outEnabled n o d).get (R.port_PORT_CFG_MODE p) = s.get (R.port_PORT_CFG_MODE p) :=
      State.get_congr (hrd _ (by show 0x40000 ≤ 0x40000 + 0x800 * p; omega))
    rw [State.sdiOut, State.portMode, hmode]
    exact hp p h

/-- A write that enables an output nothing takes its clock from. -/
theorem synOutCtrlWrite_enables {s : State} (n : Fin 2) (o : Fin 8) (d : BitVec 10) (ha : Answers s (Reg.clock_OUT_CTRL n o))
    (hoff : s.on (R.clock_OUT_CTRL_EN n o) = false) (hf : ∀ f, f < 64 → s.folioOn f = false) (hp : ∀ p, p < 96 → s.sdiOut p = false) :
    exec (.synOutCtrlWrite n o true d) s = .next ((s.outEnabled n o d.toNat).setSynOut n o ⟨false, d.toNat⟩) := by
  obtain ⟨hf', hp'⟩ := State.outEnabled_unused d.toNat n.isLt o.isLt hf hp
  have hx : execSynOutCtrlWrite n o true d s =
      .next (((s.outEnabled n o d.toNat).setSynOut n o ⟨false, d.toNat⟩).clockChanged n o) := by
    rw [execSynOutCtrlWrite, State.rowWrite_answers _ _ _ ha.running ha.live]
    simp only [hoff]
    rfl
  rw [State.clockChanged_unused _ _ (fun f h => (State.setSynOut_folioOn _ _ _ _ f).trans (hf' f h))
    fun p h => (State.setSynOut_sdiOut _ _ _ _ p).trans (hp' p h)] at hx
  exact hx

/-- A write of the present EN and DIV has no effect (R37). -/
theorem synOutCtrlWrite_same {s : State} (n : Fin 2) (o : Fin 8) (en : Bool) (d : BitVec 10) (ha : Answers s (Reg.clock_OUT_CTRL n o))
    (hen : s.on (R.clock_OUT_CTRL_EN n o) = en) (hd : s.get (R.clock_OUT_CTRL_DIV n o) = d.toNat) :
    exec (.synOutCtrlWrite n o en d) s = .next s := by
  show execSynOutCtrlWrite n o en d s = _
  rw [execSynOutCtrlWrite, State.rowWrite_answers _ _ _ ha.running ha.live]
  simp only [hen, hd, beq_self_eq_true, Bool.and_self, if_true]

/-- Settles O9: each command writes the fields named, and an enabled output's three fields stand in one register. -/
theorem synthesizers : Obligations.Synthesizers := by
  refine ⟨⟨synUnlock_spec, vcoLockRegained_spec, outDelayWrite_spec, outDelayStep_up, divChangeApply_spec⟩,
    fun s n o d ha => ⟨fun hoff hf hp => ?_, fun en => synOutCtrlWrite_same n o en d ha⟩⟩
  obtain ⟨hen, hdiv, hsync⟩ := s.outEnabled_fields n o d.toNat d.isLt
  refine ⟨_, synOutCtrlWrite_enables n o d ha hoff hf hp, ?_, ?_, ?_, fun a hn => ?_, rfl⟩
  · rwa [State.setSynOut_get]
  · rwa [State.setSynOut_get]
  · rwa [State.setSynOut_get]
  · rw [State.setSynOut_rd]
    exact s.outEnabled_onlyRegs n o d.toNat a hn

end Sys2Proof.Machine
end

section
/-!
PROOFS. A push to the event queue (01_ruling.md R52, R55 to R58).
-/
namespace Sys2Proof.Machine
open Sys2Proof Safety

/-- The target frame of the words of a PUSH (R52). -/
def State.pushFrame (s : State) : Nat := getBits (s.rd (Reg.ruling_EVQ_W 1)) 15 0 * 2 ^ 32 + (s.rd (Reg.ruling_EVQ_W 0)).toNat

/-- The entry that the words of a PUSH ask for, at index `i`, for a target that is not late. -/
def State.pushEntry (s : State) (m : Master) (i : Nat) : EvqEntry :=
  let w1 := s.rd (Reg.ruling_EVQ_W 1)
  let w3 := s.rd (Reg.ruling_EVQ_W 3)
  ⟨i, Sparse.get (fun _ => 0) s.evq.gens i, s.evq.order, m, s.pushFrame, getBits w1 27 16, getBits w1 31 28,
    s.rd (Reg.ruling_EVQ_W 2), w3.getLsbD 31, w3.extractLsb' 0 31, .onTime⟩

/-- The queue with that entry. -/
def State.pushedQueue (s : State) (m : Master) (i : Nat) : EvqState :=
  ⟨s.evq.entries ++ [s.pushEntry m i],
    Sparse.set (fun _ => 0) s.evq.gens i ((Sparse.get (fun _ => 0) s.evq.gens i + 1) % 128), s.evq.order + 1⟩

/-- The words of a PUSH name an action and a line of the format (R53). -/
structure State.PushSound (s : State) : Prop where
  action_pos : 1 ≤ getBits (s.rd (Reg.ruling_EVQ_W 1)) 31 28
  action_le : getBits (s.rd (Reg.ruling_EVQ_W 1)) 31 28 ≤ 8
  line_pos : 1 ≤ getBits (s.rd (Reg.ruling_EVQ_W 1)) 27 16
  line_le : getBits (s.rd (Reg.ruling_EVQ_W 1)) 27 16 ≤ s.rulingFormat.lines

/-- A sound PUSH for a later frame, with an index free and its master's entries not used up, is accepted (R58). -/
theorem execEvqPush_accepted {s : State} (m : Master) {i : Nat} (ha : Answers s Reg.ruling_EVQ_RESULT)
    (hd : s.done Reg.ruling_EVQ_RESULT = true) (hw : s.PushSound) (hlater : s.ruling.frame < s.pushFrame)
    (hfree : s.evq.freeIndex = some i) (hroom : m = .core ∨ (s.evq.entries.filter fun e => e.master != .core).length < 480) :
    execEvqPush m s = .next ((s.setEvq (s.pushedQueue m i)).evqResult 0 (Sparse.get (fun _ => 0) s.evq.gens i * 512 + i)) := by
  obtain ⟨hact, hact8, hline, hlines⟩ := hw
  have hsound : ¬ (getBits (s.rd (Reg.ruling_EVQ_W 1)) 31 28 = 0 ∨ 9 ≤ getBits (s.rd (Reg.ruling_EVQ_W 1)) 31 28 ∨
      getBits (s.rd (Reg.ruling_EVQ_W 1)) 27 16 = 0 ∨ s.rulingFormat.lines < getBits (s.rd (Reg.ruling_EVQ_W 1)) 27 16) := by omega
  have hlate : (decide (s.pushFrame < s.ruling.frame) ||
      (s.pushFrame == s.ruling.frame && decide (getBits (s.rd (Reg.ruling_EVQ_W 1)) 27 16 ≤ s.ruling.line))) = false := by
    simp [Nat.not_lt.2 (Nat.le_of_lt hlater), Nat.ne_of_gt hlater]
  have hfull : (m != .core && decide (480 ≤ (s.evq.entries.filter fun e => e.master != .core).length)) = false := by
    rcases hroom with rfl | hroom
    · rfl
    · simp [hroom]
  rw [State.pushFrame] at hlate
  rw [execEvqPush, State.offer_free _ _ _ _ ha.running ha.live hd]
  simp only [if_neg hsound, hlate, State.raiseIf, Bool.false_eq_true, false_and, if_false, hfree, hfull]
  rfl

/-- A register outside EVQ_LEVEL reads as before when the queue's content changes. -/
theorem State.rd_setEvq_ne (s : State) (q : EvqState) {a : Nat} (h : a ≠ Reg.ruling_EVQ_LEVEL) : (s.setEvq q).rd a = s.rd a := by
  rw [State.setEvq, State.rd_put_ne _ R.ruling_EVQ_LEVEL_HOST _ h, State.rd_put_ne _ R.ruling_EVQ_LEVEL_TOTAL _ h]
  rfl

theorem State.evqResult_done (s : State) (st h : Nat) : (s.evqResult st h).get ⟨Reg.ruling_EVQ_RESULT, 31, 31⟩ = 1 :=
  State.get_complete_done _ _ _

theorem State.evqResult_seq (s : State) (st h : Nat) :
    (s.evqResult st h).get ⟨Reg.ruling_EVQ_RESULT, 15, 0⟩ = nextSeq (s.get ⟨Reg.ruling_EVQ_RESULT, 15, 0⟩) := by
  rw [State.evqResult, State.get_complete_seq, State.get_put_apart _ _ _ _ (by decide)]

/-- Settles O10: the push is accepted; its result and its handle are those of the entry appended. -/
theorem pushTakesTheLowestIndex : Obligations.PushTakesTheLowestIndex := by
  intro s m i ha hd w1 frame gen hact hact8 hline hlines hlater hfree hi hgen hroom
  have hx := execEvqPush_accepted m ha hd ⟨hact, hact8, hline, hlines⟩ hlater hfree hroom
  refine ⟨_, hx, State.evqResult_done _ _ _, State.evqResult_status _ _ _ (by decide), ?_, ?_, rfl, Sparse.get_set_self _ _ _ _, rfl⟩
  · rw [State.evqResult_seq, State.get_congr (State.rd_setEvq_ne s _ (by decide))]
  · rw [State.evqResult_handle]
    exact Nat.mod_eq_of_lt (by omega)

end Sys2Proof.Machine
end

section
/-!
PROOFS. The Ruling's position, its seconds and its lines (01_ruling.md R21, R25 to R27, R43, R53, R54, R61).
-/
namespace Sys2Proof.Machine
open Sys2Proof Safety

/-! ### CAPTURE and EPOCH_ARM (R25, R26) -/

/-- The position latched into the POS registers. -/
def State.posLatched (s : State) (frac : Nat) : State :=
  ((((s.put R.ruling_POS_FRAME_LO_FRAME s.ruling.frame).put R.ruling_POS_FRAME_HI_FRAME (s.ruling.frame / 2 ^ 32)).put
    R.ruling_POS_LINE_FRACTION frac).put R.ruling_POS_LINE_INSERTED (if s.ruling.inserted then 1 else 0)).put
    R.ruling_POS_LINE_LINE s.ruling.line

theorem State.posLatched_onlyRegs (s : State) (frac : Nat) :
    OnlyRegs s (s.posLatched frac) [Reg.ruling_POS_FRAME_LO, Reg.ruling_POS_FRAME_HI, Reg.ruling_POS_LINE] :=
  (((((OnlyRegs.refl s _).put _ _ (by decide)).put _ _ (by decide)).put _ _ (by decide)).put _ _ (by decide)).put _ _ (by decide)

theorem State.posLatched_frame (s : State) (frac : Nat) :
    (s.posLatched frac).get R.ruling_POS_FRAME_LO_FRAME = s.ruling.frame % 2 ^ 32 ∧
      (s.posLatched frac).get R.ruling_POS_FRAME_HI_FRAME = s.ruling.frame / 2 ^ 32 % 2 ^ 16 := by
  constructor
  · rw [State.posLatched, State.get_put_apart _ _ _ _ (by decide), State.get_put_apart _ _ _ _ (by decide),
      State.get_put_apart _ _ _ _ (by decide), State.get_put_apart _ _ _ _ (by decide), State.get_put_self _ _ _ (by decide)]
    rfl
  · rw [State.posLatched, State.get_put_apart _ _ _ _ (by decide), State.get_put_apart _ _ _ _ (by decide),
      State.get_put_apart _ _ _ _ (by decide), State.get_put_self _ _ _ (by decide)]
    rfl

theorem State.posLatched_line (s : State) (frac : BitVec 16) :
    (s.posLatched frac.toNat).get R.ruling_POS_LINE_LINE = s.ruling.line % 2 ^ 12 ∧
      (s.posLatched frac.toNat).get R.ruling_POS_LINE_INSERTED = (if s.ruling.inserted then 1 else 0) ∧
      (s.posLatched frac.toNat).get R.ruling_POS_LINE_FRACTION = frac.toNat := by
  refine ⟨State.get_put_self _ _ _ (by decide), ?_, ?_⟩
  · rw [State.posLatched, State.get_put_apart _ _ _ _ (by decide), State.get_put_self _ _ _ (by decide)]
    cases s.ruling.inserted <;> rfl
  · rw [State.posLatched, State.get_put_apart _ _ _ _ (by decide), State.get_put_apart _ _ _ _ (by decide),
      State.get_put_self _ _ _ (by decide)]
    exact Nat.mod_eq_of_lt frac.isLt

theorem capture_spec (s : State) (frac : BitVec 16) (ha : Answers s Reg.ruling_CTRL) :
    ∃ t, exec (.capture frac) s = .next t ∧
      t.get R.ruling_POS_FRAME_LO_FRAME = s.ruling.frame % 2 ^ 32 ∧
      t.get R.ruling_POS_FRAME_HI_FRAME = s.ruling.frame / 2 ^ 32 % 2 ^ 16 ∧
      t.get R.ruling_POS_LINE_LINE = s.ruling.line % 2 ^ 12 ∧
      t.get R.ruling_POS_LINE_INSERTED = (if s.ruling.inserted then 1 else 0) ∧
      t.get R.ruling_POS_LINE_FRACTION = frac.toNat ∧
      OnlyRegs s t [Reg.ruling_POS_FRAME_LO, Reg.ruling_POS_FRAME_HI, Reg.ruling_POS_LINE] ∧
      t = { s with regs := t.regs, ruling := { s.ruling with frac := frac.toNat } } := by
  have hx : execCapture frac s = .next ((s.modRuling fun u => { u with frac := frac.toNat }).posLatched frac.toNat) := by
    rw [execCapture, State.rowWrite_answers _ _ _ ha.running ha.live]
    rfl
  obtain ⟨hlo, hhi⟩ := (s.modRuling fun u => { u with frac := frac.toNat }).posLatched_frame frac.toNat
  obtain ⟨hline, hins, hfrac⟩ := (s.modRuling fun u => { u with frac := frac.toNat }).posLatched_line frac
  exact ⟨_, hx, hlo, hhi, hline, hins, hfrac, fun a hn => (State.posLatched_onlyRegs _ _ a hn).trans (State.modRuling_rd _ _ a), rfl⟩

theorem epochArm_spec (s : State) (ha : Answers s Reg.ruling_EPOCH_HI) : exec .epochArm s = .next { s with ruling :=
    { s.ruling with armed := some (s.get R.ruling_EPOCH_HI_SEC * 2 ^ 32 + s.get R.ruling_EPOCH_LO_SEC) } } := by
  show execEpochArm s = _
  rw [execEpochArm, State.rowWrite_answers _ _ _ ha.running ha.live]
  rfl

/-! ### PPS edges (R26) -/

/-- An instant of a source already qualified goes to its run alone (R508). -/
theorem State.runInstant_qualified {s : State} {c : Nat} (ok : Bool) (needed : Nat) (hq : s.qualified c = true) :
    ∃ runs, s.runInstant c ok needed = s.modRuling fun u => { u with runs := runs } := by
  refine ⟨Sparse.set (fun _ => 0) s.ruling.runs c (min (if ok then Sparse.get (fun _ => 0) s.ruling.runs c + 1 else 1) needed), ?_⟩
  rw [State.runInstant]
  exact if_neg fun h => absurd (h.2.symm.trans hq) (by decide)

/-- A source that is not in use is not measured. -/
theorem State.measures_of_not_cur {s : State} {c : Nat} (h : s.curSrc ≠ c) : s.measures c = false := by
  simp [State.measures, h]

theorem ppsEdge_armed {s : State} (frac : BitVec 16) (tauNs : Nat) (ok : Bool) (hq : s.qualified 1 = true) (hc : s.curSrc ≠ 1)
    {sec : Nat} (harm : s.ruling.armed = some sec) :
    ∃ t, exec (.ppsEdge frac tauNs ok) s = .next t ∧ t.ruling.seconds = sec ∧ t.ruling.armed = none ∧
      t.get R.ruling_STATUS_EPOCH_KNOWN = 1 := by
  obtain ⟨runs, hrun⟩ := s.runInstant_qualified ok 3 hq
  let u := (s.modRuling fun u => { u with runs := runs, seconds := sec, secStarted := true, armed := none }).put R.ruling_STATUS_EPOCH_KNOWN 1
  have hm : u.measures 1 = false :=
    State.measures_of_not_cur (by rw [State.curSrc_put _ _ _ (by decide)]; exact hc)
  have hx : execPpsEdge frac tauNs ok s = .next u := by
    simp only [execPpsEdge, hrun, State.modRuling_ruling, harm]
    exact congrArg Host.Outcome.next (if_neg (ne_true_of_eq_false hm))
  exact ⟨_, hx, rfl, rfl, State.get_put_self _ _ _ (by decide)⟩

theorem ppsEdge_counts {s : State} (frac : BitVec 16) (tauNs : Nat) (ok : Bool) (hq : s.qualified 1 = true) (hc : s.curSrc ≠ 1)
    (harm : s.ruling.armed = none) (hsec : s.ruling.secStarted = true) :
    ∃ t, exec (.ppsEdge frac tauNs ok) s = .next t ∧ t.ruling.seconds = (s.ruling.seconds + 1) % 2 ^ 48 ∧ t.regs = s.regs := by
  obtain ⟨runs, hrun⟩ := s.runInstant_qualified ok 3 hq
  let u := s.modRuling fun u => { u with runs := runs, seconds := (u.seconds + 1) % 2 ^ 48 }
  have hm : u.measures 1 = false := State.measures_of_not_cur hc
  have hx : execPpsEdge frac tauNs ok s = .next u := by
    simp only [execPpsEdge, hrun, State.modRuling_ruling, harm, hsec, if_true]
    exact congrArg Host.Outcome.next (if_neg (ne_true_of_eq_false hm))
  exact ⟨_, hx, rfl, rfl⟩

/-! ### Line starts (R21, R43, R54, R61) -/

/-- The position one line on, within a frame. -/
def State.lineOn (s : State) : State := s.modRuling fun u => { u with line := u.line + 1, lineTotal := u.lineTotal + 1, frac := 0 }

theorem State.nextRulingLine_within {s : State} (hadj : s.ruling.adjust = none) (hins : s.ruling.inserted = false)
    (hline : s.ruling.line < s.rulingFormat.lines) : s.nextRulingLine = s.lineOn := by
  have hlast : ¬ s.rulingFormat.lines - Int.toNat 0 ≤ s.ruling.line := by simpa using hline
  simp only [State.nextRulingLine, hadj, hins, if_neg hlast]
  rfl

/-- After the last line begins line 1 of the next frame. -/
theorem State.nextRulingLine_last {s : State} (hadj : s.ruling.adjust = none) (hins : s.ruling.inserted = false)
    (hline : s.rulingFormat.lines ≤ s.ruling.line) :
    s.nextRulingLine = (s.modRuling fun u => { u with lineTotal := u.lineTotal + 1, frac := 0 }).frameBoundary := by
  have hlast : s.rulingFormat.lines - Int.toNat 0 ≤ s.ruling.line := by simpa using hline
  simp only [State.nextRulingLine, hadj, hins, if_pos hlast]
  rfl

/-- The frame that begins with nothing announced while the units do not run: its count and line 1, and no more (R61). -/
theorem State.frameBoundary_standby {s : State} (hadj : s.ruling.adjust = none) (hstep : s.ruling.countStep = none)
    (hrun : s.unitsRun = false) : s.frameBoundary = s.modRuling fun u =>
      { u with frame := (u.frame + 1) % 2 ^ 48, line := 1, inserted := false, insertedLeft := 0, stepInFrame := 0 } := by
  simp only [State.frameBoundary, State.modRuling_ruling, hadj, hstep]
  exact if_neg (ne_true_of_eq_false hrun)

/-- With nothing queued a line dispatches nothing. -/
theorem State.dispatchLine_nil {s : State} (ps : List Nat) (h : s.evq.entries = []) : s.dispatchLine ps = s := by
  simp [State.dispatchLine, h]

/-- COAST_S at a line start: the whole seconds of a coast (R43). -/
def State.coastShown (s : State) : State :=
  if s.loop = .coast then s.put R.ruling_STATUS_COAST_S (min 0xFFFF s.coastSeconds) else s

theorem State.coastShown_rd (s : State) {a : Nat} (h : a ≠ Reg.ruling_STATUS) : s.coastShown.rd a = s.rd a := by
  unfold State.coastShown
  split
  · exact s.rd_put_ne _ _ h
  · rfl

theorem State.coastShown_frame (s : State) : s.coastShown = { s with regs := s.coastShown.regs } := by
  unfold State.coastShown
  split
  · rfl
  · rfl

theorem State.coastShown_ruling (s : State) : s.coastShown.ruling = s.ruling := by rw [State.coastShown_frame]

theorem State.coastShown_evq (s : State) : s.coastShown.evq = s.evq := by rw [State.coastShown_frame]

theorem State.setEvq_ruling (s : State) (q : EvqState) : (s.setEvq q).ruling = s.ruling := rfl

/-- A line start of a Ruling that goes on: the position, COAST_S, and the dispatch of a line that is not inserted. -/
theorem execRulingLineStart_runs {s : State} (ps : List Nat)
    (h : s.domainOn 5 = true ∨ s.get R.power_PWR_STATE_STATE = 2 ∨ s.get R.power_PWR_STATE_STATE = 4) :
    execRulingLineStart ps s = .next (
      if s.nextRulingLine.coastShown.ruling.inserted || !s.nextRulingLine.coastShown.unitsRun then s.nextRulingLine.coastShown
      else s.nextRulingLine.coastShown.dispatchLine ps) := by
  have hgo : ¬ (s.domainOn 5 = false ∧ s.get R.power_PWR_STATE_STATE ≠ 2 ∧ s.get R.power_PWR_STATE_STATE ≠ 4) := by
    rintro ⟨hd, h2, h4⟩
    simp [hd, h2, h4] at h
  rw [execRulingLineStart]
  exact if_neg hgo

theorem State.coastShown_still {s : State} (h : s.loop ≠ .coast) : s.coastShown = s := if_neg h

theorem State.coastShown_coasting {s : State} (h : s.loop = .coast) :
    s.coastShown = s.put R.ruling_STATUS_COAST_S (min 0xFFFF s.coastSeconds) := if_pos h

/-- A line within its frame with nothing queued (R21). -/
theorem rulingLineStart_quiet {s : State} (ps : List Nat) (hd : s.domainOn 5 = true) (hadj : s.ruling.adjust = none)
    (hins : s.ruling.inserted = false) (hline : s.ruling.line < s.rulingFormat.lines) (hevq : s.evq.entries = []) :
    exec (.rulingLineStart ps) s = .next s.lineOn.coastShown := by
  have hq : s.lineOn.coastShown.evq.entries = [] := by
    rw [State.coastShown_evq]
    exact hevq
  show execRulingLineStart ps s = _
  rw [execRulingLineStart_runs ps (.inl hd), State.nextRulingLine_within hadj hins hline, State.dispatchLine_nil ps hq, ite_self]

/-- The seconds of a coast are counted by the Ruling's lines; COAST_S has no part in them. -/
theorem State.coastSeconds_put (s : State) (f : Fld) (v : Nat) (h : R.ruling_REF_FORMAT_FORMAT.Apart f) :
    (s.put f v).coastSeconds = s.coastSeconds := by
  rw [State.coastSeconds, State.rulingFormat, State.get_put_apart _ _ _ _ h]
  rfl

theorem rulingLineStart_coasting {s : State} (ps : List Nat) (hd : s.domainOn 5 = true) (hadj : s.ruling.adjust = none)
    (hins : s.ruling.inserted = false) (hline : s.ruling.line < s.rulingFormat.lines) (hevq : s.evq.entries = []) (hloop : s.loop = .coast) :
    ∃ t, exec (.rulingLineStart ps) s = .next t ∧ t.ruling.line = s.ruling.line + 1 ∧
      t.get R.ruling_STATUS_COAST_S = min 0xFFFF t.coastSeconds ∧ OnlyRegs s t [R.ruling_STATUS_COAST_S.addr] ∧
      t = { s with regs := t.regs, ruling := t.ruling } := by
  have hx := rulingLineStart_quiet ps hd hadj hins hline hevq
  rw [State.coastShown_coasting (s := s.lineOn) hloop] at hx
  refine ⟨_, hx, rfl, ?_, (OnlyRegs.refl s _).put (t := s.lineOn) _ _ (List.mem_singleton_self _), rfl⟩
  rw [State.coastSeconds_put _ _ _ (by decide), State.get_put_self _ _ _ (by decide)]
  exact Nat.mod_eq_of_lt (Nat.lt_of_le_of_lt (Nat.min_le_left _ _) (by decide))

/-- The position at line 1 of the next frame, with nothing announced. -/
def State.frameOn (s : State) : State := s.modRuling fun u =>
  { u with frame := (u.frame + 1) % 2 ^ 48, line := 1, frac := 0, inserted := false, insertedLeft := 0,
           lineTotal := u.lineTotal + 1, stepInFrame := 0 }

/-- The last line's end while the units do not run: line 1 of the next frame (R61). -/
theorem rulingLineStart_standby {s : State} (ps : List Nat)
    (hst : s.get R.power_PWR_STATE_STATE = 2 ∨ s.get R.power_PWR_STATE_STATE = 4) (hloop : s.loop ≠ .coast)
    (hadj : s.ruling.adjust = none) (hstep : s.ruling.countStep = none) (hins : s.ruling.inserted = false)
    (hline : s.rulingFormat.lines ≤ s.ruling.line) :
    ∃ t, exec (.rulingLineStart ps) s = .next t ∧ t.ruling.line = 1 ∧ t.ruling.frame = (s.ruling.frame + 1) % 2 ^ 48 ∧
      t = { s with ruling := t.ruling } := by
  have hrun : s.unitsRun = false := by rcases hst with h | h <;> simp [State.unitsRun, h]
  have hnext : s.nextRulingLine = s.frameOn := by
    rw [State.nextRulingLine_last hadj hins hline]
    exact State.frameBoundary_standby hadj hstep hrun
  have hstop : (s.frameOn.ruling.inserted || !s.frameOn.unitsRun) = true := by
    rw [show s.frameOn.unitsRun = false from hrun]
    rfl
  refine ⟨s.frameOn, ?_, rfl, rfl, rfl⟩
  show execRulingLineStart ps s = _
  rw [execRulingLineStart_runs ps (.inr hst), hnext, State.coastShown_still (s := s.frameOn) hloop, if_pos hstop]

/-- The one entry queued is due: it leaves the queue and acts (R54). -/
theorem State.dispatchLine_single {s : State} (ps : List Nat) {e : EvqEntry} (h : s.evq.entries = [e])
    (hdue : e.due s.ruling.frame s.ruling.line = true) :
    s.dispatchLine ps = (s.setEvq { s.evq with entries := [] }).dispatch ps e := by
  simp [State.dispatchLine, h, hdue, insertEntry, State.each]

/-- The dispatch of a FLAG shows its tag and raises EVQ_USER (R53). -/
theorem State.dispatch_flag (s : State) (ps : List Nat) {e : EvqEntry} (h : e.action = 8) : s.dispatch ps e =
    (s.wr Reg.ruling_EVQ_USER_TAG (BitVec.ofNat 32 (getBits e.target 7 0))).raise Flag.ruling_EVQ_USER := by
  rw [State.dispatch, h]
  rfl

/-- An entry of the frame in progress is due from its line on. -/
theorem EvqEntry.due_of_line {e : EvqEntry} {frame line : Nat} (hlate : e.late = .onTime) (hf : e.frame = frame) (hl : e.line ≤ line) :
    e.due frame line = true := by
  simp [EvqEntry.due, hlate, hf, hl]

theorem rulingLineStart_user {s : State} (ps : List Nat) {e : EvqEntry} (hd : s.domainOn 5 = true)
    (hst : s.get R.power_PWR_STATE_STATE = 0) (hadj : s.ruling.adjust = none) (hins : s.ruling.inserted = false)
    (hline : s.ruling.line < s.rulingFormat.lines) (hevq : s.evq.entries = [e]) (hact : e.action = 8) (hlate : e.late = .onTime)
    (hframe : e.frame = s.ruling.frame) (hdue : e.line ≤ s.ruling.line + 1) :
    ∃ t, exec (.rulingLineStart ps) s = .next t ∧ t.ruling.line = s.ruling.line + 1 ∧ t.evq.entries = [] ∧
      (t.rd Reg.ruling_EVQ_USER_TAG).toNat = getBits e.target 7 0 ∧ t.get Flag.ruling_EVQ_USER.fld = 1 := by
  have hrun : s.lineOn.coastShown.unitsRun = true := by
    rw [State.unitsRun, State.get_congr (State.coastShown_rd _ (by decide))]
    exact congrArg (fun n => n != 2 && n != 4) hst
  have hgo : ¬ (s.lineOn.coastShown.ruling.inserted || !s.lineOn.coastShown.unitsRun) = true := by
    rw [hrun, State.coastShown_ruling, show s.lineOn.ruling.inserted = false from hins]
    decide
  have hone : s.lineOn.coastShown.evq.entries = [e] := by
    rw [State.coastShown_evq]
    exact hevq
  have hnow : e.due s.lineOn.coastShown.ruling.frame s.lineOn.coastShown.ruling.line = true := by
    rw [State.coastShown_ruling]
    exact EvqEntry.due_of_line hlate hframe hdue
  have hx : execRulingLineStart ps s = .next (((s.lineOn.coastShown.setEvq { s.lineOn.coastShown.evq with entries := [] }).wr
      Reg.ruling_EVQ_USER_TAG (BitVec.ofNat 32 (getBits e.target 7 0))).raise Flag.ruling_EVQ_USER) := by
    rw [execRulingLineStart_runs ps (.inl hd), State.nextRulingLine_within hadj hins hline, if_neg hgo,
      State.dispatchLine_single ps hone hnow, State.dispatch_flag _ _ hact]
  have htag : getBits e.target 7 0 < 2 ^ 8 := getBits_lt _ _ _
  refine ⟨_, hx, ?_, rfl, ?_, State.get_raise_self _ _ (by decide)⟩
  · rw [State.raise_ruling, State.wr_ruling, State.setEvq_ruling, State.coastShown_ruling]
    rfl
  · rw [State.rd_raise_ne _ _ (by decide) (by decide), State.rd_wr_self, BitVec.toNat_ofNat]
    exact Nat.mod_eq_of_lt (by omega)

/-- Settles O7: the position latched field by field, the seconds at an edge that is no measurement, and one lemma for each kind of line. -/
theorem rulingPosition : Obligations.RulingPosition := by
  refine ⟨⟨capture_spec, epochArm_spec⟩, fun s frac tauNs ok hq hc => ⟨fun sec harm => ppsEdge_armed frac tauNs ok hq hc harm,
    ppsEdge_counts frac tauNs ok hq hc⟩, fun s ps hd hadj hins hline hevq => ⟨fun hloop => ?_,
    rulingLineStart_coasting ps hd hadj hins hline hevq⟩, fun s ps hst hloop hadj hstep hins => rulingLineStart_standby ps hst hloop hadj hstep hins,
    fun s ps e hd hst hadj hins hline hevq hact hlate hf hl => rulingLineStart_user ps hd hst hadj hins hline hevq hact hlate hf hl⟩
  rw [rulingLineStart_quiet ps hd hadj hins hline hevq, State.coastShown_still (s := s.lineOn) hloop]
  rfl

end Sys2Proof.Machine
end

section
/-!
PROOFS. The Ruling's sources: how they are qualified and lost, when the loop moves between them, and the end of a slew (01_ruling.md
R28, R30 to R32, R41, R46, R51, R508).
-/
namespace Sys2Proof.Machine
open Sys2Proof Safety

/-! ### What the loop's transitions leave -/

/-- The loop's hidden state is in no register: its state, its sources and its mode read as before. -/
theorem State.loop_modRuling (s : State) (f : RulingState → RulingState) : (s.modRuling f).loop = s.loop := rfl

theorem State.curSrc_modRuling (s : State) (f : RulingState → RulingState) : (s.modRuling f).curSrc = s.curSrc := rfl

theorem State.forceCoast_modRuling (s : State) (f : RulingState → RulingState) : (s.modRuling f).forceCoast = s.forceCoast := rfl

theorem State.qualified_modRuling (s : State) (f : RulingState → RulingState) (c : Nat) : (s.modRuling f).qualified c = s.qualified c := rfl

theorem State.bestSource_modRuling (s : State) (f : RulingState → RulingState) : (s.modRuling f).bestSource = s.bestSource := rfl

/-- Entry to COAST writes RESIDUAL, the STATE and COAST_S of STATUS, the flag COAST and what follows the frequency; every other field
reads as before. -/
theorem State.enterCoast_get (s : State) (y : Rat) (f : Fld) (hf : f.addr ∉ Reg.ruling_RESIDUAL :: freqRegs)
    (hstate : f.Apart R.ruling_STATUS_STATE) (hsec : f.Apart R.ruling_STATUS_COAST_S) (hflag : f.Apart Flag.ruling_COAST.fld)
    (hcnt : f.Apart Flag.ruling_COAST.counter) : (s.enterCoast y).get f = s.get f := by
  rw [List.mem_cons, not_or] at hf
  obtain ⟨hres, hfreq⟩ := hf
  simp only [State.enterCoast]
  rw [State.applyFreq_get _ _ hfreq, State.get_raise_apart _ _ _ hflag hcnt, State.get_put_apart _ _ _ _ hsec, State.setLoop,
    State.get_put_apart _ _ _ _ hstate, State.setResidual, State.putInt, State.get_put_apart _ _ _ _ (.inl hres)]
  rfl

/-- QUAL is left by an entry to COAST. -/
theorem State.qualified_enterCoast (s : State) (y : Rat) (c : Fin 4) : (s.enterCoast y).qualified c = s.qualified c := by
  rw [State.qualified, State.qualified, State.bit_eq, State.bit_eq, State.enterCoast_get _ _ _ (by decide +revert)
    (by decide +revert) (by decide +revert) (by decide +revert) (by decide +revert)]

theorem State.forceCoast_enterCoast (s : State) (y : Rat) : (s.enterCoast y).forceCoast = s.forceCoast := by
  rw [State.forceCoast, State.on, State.enterCoast_get _ _ _ (by decide) (by decide) (by decide) (by decide) (by decide)]
  rfl

/-- A loop that is LOCKED goes to COAST at once when its source is lost (R41). -/
theorem State.coastOrDefer_locked {s : State} (n : Nat) (h : s.loop = .locked) : s.coastOrDefer n = s.enterCoast (s.heldFreq n) := by
  rw [State.coastOrDefer, h]

/-- A flag raised under a condition leaves the fields of every other register. -/
theorem State.get_raiseIf_apart (s : State) (b : Bool) (f : Flg) (g : Fld) (h1 : g.Apart f.fld) (h2 : g.Apart f.counter) :
    (s.raiseIf b f).get g = s.get g := by
  cases b with
  | false => rfl
  | true => exact s.get_raise_apart f g h1 h2

theorem State.loop_raiseIf (s : State) (b : Bool) (f : Flg) (h1 : R.ruling_STATUS_STATE.Apart f.fld)
    (h2 : R.ruling_STATUS_STATE.Apart f.counter) : (s.raiseIf b f).loop = s.loop := by
  rw [State.loop, State.loop, State.get_raiseIf_apart _ _ _ _ h1 h2]

theorem State.loop_setQualified (s : State) (c : Fin 4) (q : Bool) : (s.setQualified c q).loop = s.loop := by
  rw [State.loop, State.loop, State.setQualified_get _ _ _ _ c.isLt (.inr (.inr (by decide)))]

theorem State.curSrc_setQualified (s : State) (c : Fin 4) (q : Bool) : (s.setQualified c q).curSrc = s.curSrc :=
  State.setQualified_get _ _ _ _ c.isLt (.inr (.inr (by decide)))

theorem State.forceCoast_setQualified (s : State) (c : Fin 4) (q : Bool) : (s.setQualified c q).forceCoast = s.forceCoast := by
  rw [State.forceCoast, State.forceCoast, State.on, State.on, State.setQualified_get _ _ _ _ c.isLt (.inl (by decide))]

/-! ### Sources qualified and lost (R28, R508) -/

/-- A coasting loop measures no source. -/
theorem State.measures_coast {s : State} (c : Nat) (h : s.loop = .coast) : s.measures c = false := by
  simp [State.measures, h]

/-- FORCE_COAST keeps the loop from a source that qualifies (R41). -/
theorem State.onQualified_forced {s : State} (c : Nat) (h : s.forceCoast = true) : s.onQualified c = s := by
  rw [State.onQualified, if_pos h]

/-- The instant that completes a run qualifies its source (R508). -/
theorem State.runInstant_qualifies {s : State} {c : Nat} {needed : Nat} (hq : s.qualified c = false)
    (hrun : Sparse.get (fun _ => 0) s.ruling.runs c + 1 = needed) : ∃ runs, s.runInstant c true needed =
      (((s.modRuling fun u => { u with runs := runs }).setQualified c true).onQualified c) := by
  subst hrun
  refine ⟨Sparse.set (fun _ => 0) s.ruling.runs c (Sparse.get (fun _ => 0) s.ruling.runs c + 1), ?_⟩
  have hgo : Sparse.get (fun _ => 0) s.ruling.runs c + 1 ≤ Sparse.get (fun _ => 0) s.ruling.runs c + 1 ∧
      (s.modRuling fun u => { u with runs := Sparse.set (fun _ => 0) u.runs c (Sparse.get (fun _ => 0) s.ruling.runs c + 1) }).qualified c = false :=
    ⟨Nat.le_refl _, hq⟩
  simp only [State.runInstant, if_true, Nat.min_self]
  exact if_pos hgo

theorem refSyncEdge_qualifies (s : State) (frac : BitVec 16) (tauNs : Nat) (hq : s.qualified 0 = false) (hforce : s.forceCoast = true)
    (hloop : s.loop = .coast) (htype : s.refTypeAgrees = true) (hrun : Sparse.get (fun _ => 0) s.ruling.runs 0 = 7) :
    ∃ t, exec (.refSyncEdge true frac tauNs true) s = .next t ∧ t.qualified 0 = true ∧ t.loop = .coast := by
  obtain ⟨runs, hinst⟩ := State.runInstant_qualifies hq (congrArg (· + 1) hrun)
  let t := (s.modRuling fun u => { u with runs := runs }).setQualified 0 true
  have hcoast : t.loop = .coast := (State.loop_setQualified _ 0 true).trans hloop
  have hfc : t.forceCoast = true := (State.forceCoast_setQualified _ 0 true).trans hforce
  have hx : execRefSyncEdge true frac tauNs true s = .next t := by
    rw [State.onQualified_forced 0 hfc] at hinst
    simp only [execRefSyncEdge, if_true, Bool.true_and, htype, State.frameInstant, hinst]
    rw [if_neg (ne_true_of_eq_false (State.measures_coast 0 hcoast))]
  exact ⟨t, hx, State.qualified_setQualified _ _ _ (by decide), hcoast⟩

/-- The state of a source as a loss leaves it, before the loop takes notice. -/
def State.sourceDropped (s : State) (c : Nat) : State :=
  let s := (s.setQualified c false).modRuling fun u => { u with runs := Sparse.set (fun _ => 0) u.runs c 0 }
  s.raiseIf (if s.manualMode then s.get R.ruling_CTRL_MANUAL_SRC == c else s.listed.contains c) Flag.ruling_SRC_LOST

theorem State.sourceDropped_spec (s : State) (c : Fin 4) :
    (s.sourceDropped c).qualified c = false ∧ (s.sourceDropped c).loop = s.loop ∧ (s.sourceDropped c).curSrc = s.curSrc := by
  refine ⟨?_, ?_, ?_⟩
  · rw [State.qualified, State.bit_eq, State.sourceDropped, State.get_raiseIf_apart _ _ _ _ (by decide +revert) (by decide +revert),
      ← State.bit_eq]
    exact (State.qualified_modRuling _ _ c).trans (s.qualified_setQualified c false c.isLt)
  · rw [State.sourceDropped, State.loop_raiseIf _ _ _ (by decide) (by decide), State.loop_modRuling, State.loop_setQualified]
  · rw [State.curSrc, State.sourceDropped, State.get_raiseIf_apart _ _ _ _ (by decide) (by decide), ← State.curSrc,
      State.curSrc_modRuling, State.curSrc_setQualified]

/-- The loop takes notice where the source is in use or is to be, and the loop tracks it. -/
theorem State.loseSource_eq (s : State) (c n : Nat) : s.loseSource c n =
    if (s.sourceDropped c).inUse c ∧ ((s.sourceDropped c).loop = .acquire ∨ (s.sourceDropped c).loop = .locked ∨
      (s.sourceDropped c).loop = .slewing ∨ (s.sourceDropped c).loop = .snapPending) then
      ((s.sourceDropped c).coastOrDefer n).modRuling fun u => { u with lostSrc := some c, switchExpired := false }
    else s.sourceDropped c := rfl

/-- The loss of the source that a LOCKED loop tracks enters COAST (R31, R41). -/
theorem State.loseSource_tracked {s : State} (c : Fin 4) (n : Nat) (hc : s.curSrc = c) (hloop : s.loop = .locked) :
    s.loseSource c n = ((s.sourceDropped c).enterCoast ((s.sourceDropped c).heldFreq n)).modRuling fun u =>
      { u with lostSrc := some c.val, switchExpired := false } := by
  obtain ⟨-, hl, hcur⟩ := s.sourceDropped_spec c
  have huse : (s.sourceDropped c).inUse c = true := by simp [State.inUse, hcur, hc]
  have hl' : (s.sourceDropped c).loop = .locked := hl.trans hloop
  rw [State.loseSource_eq, if_pos ⟨huse, .inr (.inl hl')⟩, State.coastOrDefer_locked n hl']

theorem sourceLost_spec (s : State) (c : Fin 3) (n : Nat) (hc : s.curSrc = c.val) (hloop : s.loop = .locked) :
    ∃ t, exec (.sourceLost c n) s = .next t ∧ t.qualified c = false ∧ t.loop = .coast ∧
      t.get R.ruling_STATUS_COAST_S = 0 ∧ t.get R.ruling_RESIDUAL = 0 ∧ t.ruling.lostSrc = some c.val := by
  obtain ⟨hcoast, hres, hsec, -⟩ := (s.sourceDropped c).enterCoast_spec ((s.sourceDropped c).heldFreq n)
  have hq : ((s.sourceDropped c).enterCoast ((s.sourceDropped c).heldFreq n)).qualified c = false :=
    (State.qualified_enterCoast _ _ c.castSucc).trans (s.sourceDropped_spec c.castSucc).1
  exact ⟨_, congrArg Host.Outcome.next (State.loseSource_tracked c.castSucc n hc hloop), (State.qualified_modRuling _ _ _).trans hq,
    (State.loop_modRuling _ _).trans hcoast, (State.modRuling_get _ _ _).trans hsec, (State.modRuling_get _ _ _).trans hres, rfl⟩

/-! ### Moves to another source (R30, R31) -/

/-- Only the codes 0 to 2 can be listed. -/
theorem State.listed_lt (s : State) {c : Nat} (h : c ∈ s.listed) : c < 3 := by
  simp only [State.listed, List.mem_append] at h
  rcases h with (h | h) | h
  all_goals
    split at h
    · rw [List.mem_singleton] at h
      omega
    · cases h

theorem State.bestSource_lt {s : State} {b : Nat} (h : s.bestSource = some b) : b < 3 := s.listed_lt (List.mem_of_find?_eq_some h)

/-- After SWITCH_S the loop acquires the best qualified source (R31). -/
theorem switchTimeout_spec (s : State) (b : Nat) (hman : s.manualMode = false) (hloop : s.loop = .coast) (hforce : s.forceCoast = false)
    (hbest : s.bestSource = some b) : ∃ t, exec .switchTimeout s = .next t ∧ t.loop = .acquire ∧ t.curSrc = b := by
  have hx : execSwitchTimeout s = .next ((s.modRuling fun u => { u with switchExpired := true }).enterAcquire b) := by
    simp only [execSwitchTimeout, hman, State.loop_modRuling, State.forceCoast_modRuling, State.bestSource_modRuling, hloop, hforce, hbest]
    rfl
  obtain ⟨hacq, hsrc, -⟩ := (s.modRuling fun u => { u with switchExpired := true }).enterAcquire_spec b
  exact ⟨_, hx, hacq, hsrc.trans (Nat.mod_eq_of_lt (Nat.lt_trans (State.bestSource_lt hbest) (by decide)))⟩

/-- With no adjustment announced the loop moves at once. -/
theorem State.moveToSource_now {s : State} (c : Nat) (h : s.ruling.adjust = none) : s.moveToSource c = s.enterAcquire c := by
  rw [State.moveToSource, h]

/-- After REVERT_S the loop goes to the source that ranks higher (R31). -/
theorem revertTimeout_spec (s : State) (c : Fin 3) (hman : s.manualMode = false) (hforce : s.forceCoast = false)
    (hrev : s.get R.ruling_SRC_TIMING_REVERT_S ≠ 0) (hq : s.qualified c = true) (hrank : s.outranks c = true) (hloop : s.loop = .locked)
    (hadj : s.ruling.adjust = none) : ∃ t, exec (.revertTimeout c) s = .next t ∧ t.loop = .acquire ∧ t.curSrc = c.val := by
  have hx : execRevertTimeout c s = .next (s.enterAcquire c) := by
    rw [execRevertTimeout, if_neg (by simp [hman, hforce, hrev, hq, hrank, hloop]), State.moveToSource_now _ hadj]
  obtain ⟨hacq, hsrc, -⟩ := s.enterAcquire_spec c
  exact ⟨_, hx, hacq, hsrc.trans (Nat.mod_eq_of_lt (Nat.lt_trans c.isLt (by decide)))⟩

/-! ### Writes that choose a source (R30, R32, R41) -/

/-- In MANUAL mode a write of SRC_PRIO moves nothing (R32). -/
theorem srcPrioWrite_manual (s : State) (v : BitVec 12) (n : Nat) (ha : Answers s Reg.ruling_SRC_PRIO) (hman : s.manualMode = true) :
    ∃ t, exec (.srcPrioWrite v n) s = .next t ∧ t.get ⟨Reg.ruling_SRC_PRIO, 11, 0⟩ = v.toNat ∧
      OnlyRegs s t [Reg.ruling_SRC_PRIO] ∧ t = { s with regs := t.regs } := by
  have hman' : (s.put ⟨Reg.ruling_SRC_PRIO, 11, 0⟩ v.toNat).manualMode = true := (State.on_put_apart _ _ _ _ (by decide)).trans hman
  have hx : execSrcPrioWrite v n s = .next (s.put ⟨Reg.ruling_SRC_PRIO, 11, 0⟩ v.toNat) := by
    rw [execSrcPrioWrite, State.rowWrite_answers _ _ _ ha.running ha.live]
    exact congrArg Host.Outcome.next (if_pos hman')
  refine ⟨_, hx, ?_, (OnlyRegs.refl s _).put _ _ (by decide), rfl⟩
  rw [State.get_put_self _ _ _ (by decide)]
  exact Nat.mod_eq_of_lt v.isLt

/-- MANUAL_SRC = XO enters FREE (R32). -/
theorem manualSrcWrite_xo (s : State) (n : Nat) (ha : Answers s Reg.ruling_CTRL) (hloop : s.loop = .locked) :
    ∃ t, exec (.manualSrcWrite true 3 n) s = .next t ∧ t.loop = .free ∧ t.curSrc = 3 ∧
      t.get R.ruling_RESIDUAL = 0 ∧ t.ruling.corr = 0 := by
  let u := (s.put R.ruling_CTRL_SRC_MODE 1).put R.ruling_CTRL_MANUAL_SRC 3
  let w := u.raiseIf (u.curSrc != 3) Flag.ruling_SRC_SWITCH
  have hl : w.loop = .locked := by
    rw [State.loop_raiseIf _ _ _ (by decide) (by decide), State.loop_put _ _ _ (by decide), State.loop_put _ _ _ (by decide), hloop]
  have hx : execManualSrcWrite true 3 n s = .next w.enterFree := by
    rw [execManualSrcWrite, State.rowWrite_answers _ _ _ ha.running ha.live]
    simp only [Bool.true_eq_false, if_false, if_true]
    split
    · next hsnap _ => exact absurd (hl.symm.trans hsnap) (by decide)
    · rfl
  obtain ⟨hfree, hsrc, hres, hcorr⟩ := w.enterFree_spec
  exact ⟨_, hx, hfree, hsrc, hres, hcorr⟩

/-- FORCE_COAST = 1 enters COAST from LOCKED (R41). -/
theorem forceCoastWrite_locked (s : State) (n : Nat) (ha : Answers s Reg.ruling_CTRL) (hloop : s.loop = .locked) :
    ∃ t, exec (.forceCoastWrite true n) s = .next t ∧ t.forceCoast = true ∧ t.loop = .coast := by
  let u := s.put R.ruling_CTRL_FORCE_COAST 1
  have hl : u.loop = .locked := (State.loop_put _ _ _ (by decide)).trans hloop
  have hx : execForceCoastWrite true n s = .next (u.enterCoast (u.heldFreq n)) := by
    rw [execForceCoastWrite, State.rowWrite_answers _ _ _ ha.running ha.live, ← State.coastOrDefer_locked n hl]
    rfl
  refine ⟨_, hx, ?_, (State.enterCoast_spec _ _).1⟩
  rw [State.forceCoast_enterCoast]
  exact State.on_put_self _ _ _ (by decide) rfl

/-! ### The end of a slew (R41, R46) -/

/-- Entry to LOCKED writes STATE, the flag LOCKED and what follows the frequency; every other field reads as before. -/
theorem State.enterLocked_get (s : State) (f : Fld) (hfreq : f.addr ∉ freqRegs) (hstate : f.Apart R.ruling_STATUS_STATE)
    (hflag : f.Apart Flag.ruling_LOCKED.fld) (hcnt : f.Apart Flag.ruling_LOCKED.counter) : s.enterLocked.get f = s.get f := by
  simp only [State.enterLocked]
  rw [State.applyFreq_get _ _ hfreq, State.get_raise_apart _ _ _ hflag hcnt, State.setLoop, State.get_put_apart _ _ _ _ hstate]
  rfl

theorem State.loop_enterLocked (s : State) : s.enterLocked.loop = .locked := by
  simp only [State.enterLocked, State.loop_applyFreq]
  rw [State.loop_raise _ _ (by decide) (by decide), State.loop_setLoop]

theorem State.setResidual_zero_get (s : State) : (s.setResidual 0).get R.ruling_RESIDUAL = 0 := by
  rw [State.setResidual, State.putInt, State.get_put_self _ _ _ (by decide)]
  rfl

theorem State.setResidual_get_ne (s : State) (r : Rat) (f : Fld) (h : f.addr ≠ Reg.ruling_RESIDUAL) : (s.setResidual r).get f = s.get f := by
  rw [State.setResidual, State.putInt, State.get_put_apart _ _ _ _ (.inl h), State.modRuling_get]

theorem slewDone_spec (s : State) (hloop : s.loop = .slewing) :
    ∃ t, exec .slewDone s = .next t ∧ t.loop = .locked ∧ t.get R.ruling_RESIDUAL = 0 ∧ t.ruling.residual = 0 ∧
      t.get Flag.ruling_SLEW_DONE.fld = 1 ∧
      t.get Flag.ruling_SLEW_DONE.counter = min (s.get Flag.ruling_SLEW_DONE.counter + 1) 0xFFFF := by
  let u := (s.modRuling fun u => { u with absorbed := u.absorbed + u.residual, slewFrom := none }).setResidual 0
  have hx : execSlewDone s = .next (u.raise Flag.ruling_SLEW_DONE).enterLocked := if_pos hloop
  refine ⟨_, hx, State.loop_enterLocked _, ?_, rfl, ?_, ?_⟩
  · rw [State.enterLocked_get _ _ (by decide) (by decide) (by decide) (by decide), State.get_raise_apart _ _ _ (by decide) (by decide),
      State.setResidual_zero_get]
  · rw [State.enterLocked_get _ _ (by decide) (by decide) (by decide) (by decide), State.get_raise_self _ _ (by decide)]
  · rw [State.enterLocked_get _ _ (by decide) (by decide) (by decide) (by decide), State.get_raise_counter _ _ (by decide),
      State.setResidual_get_ne _ _ _ (by decide), State.modRuling_get]

/-- Settles O8: each command is one transition of the loop, and the laws of the transitions say what it leaves. -/
theorem rulingSources : Obligations.RulingSources :=
  ⟨⟨fun _ _ _ _ => rfl, refSyncEdge_qualifies, sourceLost_spec, switchTimeout_spec, revertTimeout_spec⟩,
    ⟨srcPrioWrite_manual, manualSrcWrite_xo, forceCoastWrite_locked⟩, slewDone_spec⟩

end Sys2Proof.Machine
end

section
/-!
PROOFS. The fabric loader's commands and how an image comes into force (02_fabric_image.md R75, R79, R80, R82, R86, R92;
12_host_control.md R345).
-/
namespace Sys2Proof.Machine
open Sys2Proof Safety

/-! ### A command's completion -/

/-- The flag that a completion with this code raises (R75, R79, R92). -/
def loadFlag (status : Nat) : Flg :=
  if status = 0 ∨ status = 1 ∨ status = 11 ∨ status = 12 then Flag.fabric_LOAD_DONE else Flag.fabric_LOAD_FAIL

theorem State.fabricDone_eq (s : State) (status info : Nat) : s.fabricDone status info =
    ((s.wr Reg.fabric_RESULT_INFO (BitVec.ofNat 32 info)).complete Reg.fabric_RESULT status).raise (loadFlag status) := rfl

/-- Neither flag lies in the result block. -/
theorem State.rd_raise_loadFlag (s : State) (status : Nat) {a : Nat} (h : a < Reg.fabric_INT_STATUS) : (s.raise (loadFlag status)).rd a = s.rd a := by
  have hs : a ≠ Reg.fabric_INT_STATUS := Nat.ne_of_lt h
  have hc : a ≠ 0x220078 := Nat.ne_of_lt (Nat.lt_trans h (by decide))
  unfold loadFlag
  split
  · exact s.rd_raise_ne Flag.fabric_LOAD_DONE hs hc
  · exact s.rd_raise_ne Flag.fabric_LOAD_FAIL hs hc

theorem State.fabricDone_result (s : State) (info : Nat) {status : Nat} (h : status < 32768) :
    (s.fabricDone status info).get R.fabric_RESULT_STATUS = status ∧ (s.fabricDone status info).get R.fabric_RESULT_DONE = 1 := by
  have hr (f : Fld) (hf : f.addr < Reg.fabric_INT_STATUS) := State.get_congr (f := f) (State.rd_raise_loadFlag
    ((s.wr Reg.fabric_RESULT_INFO (BitVec.ofNat 32 info)).complete Reg.fabric_RESULT status) status hf)
  rw [State.fabricDone_eq, hr _ (by decide), hr _ (by decide)]
  exact ⟨(State.get_complete_status _ _ _).trans (Nat.mod_eq_of_lt h), State.get_complete_done _ _ _⟩

theorem State.fabricDone_info (s : State) (status info : Nat) :
    ((s.fabricDone status info).rd Reg.fabric_RESULT_INFO).toNat = info % 2 ^ 32 := by
  rw [State.fabricDone_eq, State.rd_raise_loadFlag _ _ (by decide), State.rd_complete_ne _ _ _ (by decide), State.rd_wr_self,
    BitVec.toNat_ofNat]

/-- The codes of a command that did what it was given (R75, R79, R92). -/
theorem State.fabricDone_loadDone (s : State) (info : Nat) {status : Nat} (h : status = 0 ∨ status = 1 ∨ status = 11 ∨ status = 12) :
    (s.fabricDone status info).get Flag.fabric_LOAD_DONE.fld = 1 := by
  rw [State.fabricDone_eq, loadFlag, if_pos h]
  exact State.get_raise_self _ _ (by decide)

theorem State.fabricDone_loadFail (s : State) (info : Nat) {status : Nat} (h : ¬ (status = 0 ∨ status = 1 ∨ status = 11 ∨ status = 12)) :
    (s.fabricDone status info).get Flag.fabric_LOAD_FAIL.fld = 1 := by
  rw [State.fabricDone_eq, loadFlag, if_neg h]
  exact State.get_raise_self _ _ (by decide)

/-- A command taken and completed goes to registers alone. -/
theorem State.fabricDone_accept_frame (s : State) (a status info : Nat) :
    (s.accept a).fabricDone status info = { s with regs := ((s.accept a).fabricDone status info).regs } := rfl

theorem State.accept_onlyRegs (s : State) (a : Nat) : OnlyRegs s (s.accept a) [a] :=
  (OnlyRegs.refl s [a]).put ⟨a, 31, 31⟩ 0 (List.mem_singleton_self a)

/-! ### The commands, as a loader that answers takes them -/

/-- What verification finds in the first SRC_LEN bytes of what was read, once the command has been taken. -/
def State.readFault (s : State) (bs : List Byte) : Option (Nat × Nat) :=
  (s.accept Reg.fabric_RESULT).imageFault (bs.take (s.get R.fabric_SRC_LEN_LEN)) (s.get R.fabric_SRC_LEN_LEN) false

section
variable {s : State} (ha : Answers s Reg.fabric_RESULT) (hd : s.done Reg.fabric_RESULT = true)
include ha hd

theorem State.fabricOffer_free (f : State → State) : s.fabricOffer f = f (s.accept Reg.fabric_RESULT) :=
  s.offer_free _ _ _ ha.running ha.live hd

/-- An image that could not be read, as none can without Bus Master Enable, fails with code 9 (R79; 12_host_control.md R345). -/
theorem State.loadCommand_unread {image : Option (List Byte)} (fail : State → Nat → Nat → State) (good : State → List Byte → State)
    (h : s.on R.hostif_LINK_BME = false ∨ image = none) : s.loadCommand image fail good = fail (s.accept Reg.fabric_RESULT) 9 0 := by
  have hread : (if (s.accept Reg.fabric_RESULT).on R.hostif_LINK_BME then image else none) = none := by
    rcases h with h | rfl
    · rw [State.accept, State.on_put_apart _ _ _ _ (by decide), h]
      rfl
    · exact ite_self _
  rw [State.loadCommand, State.fabricOffer_free ha hd, hread]

/-- What verification finds decides what follows a read (R75). -/
theorem State.loadCommand_read (hb : s.on R.hostif_LINK_BME = true) (bs : List Byte) (fail : State → Nat → Nat → State)
    (good : State → List Byte → State) : s.loadCommand (some bs) fail good =
      (s.readFault bs).elim
        (good (s.accept Reg.fabric_RESULT) (bs.take (s.get R.fabric_SRC_LEN_LEN)))
        fun p => fail (s.accept Reg.fabric_RESULT) p.1 p.2 := by
  have hbme : (s.accept Reg.fabric_RESULT).on R.hostif_LINK_BME = true := (State.on_put_apart _ _ _ _ (by decide)).trans hb
  have hlen : (s.accept Reg.fabric_RESULT).get R.fabric_SRC_LEN_LEN = s.get R.fabric_SRC_LEN_LEN := State.get_accept_apart _ _ _ (by decide)
  rw [State.loadCommand, State.fabricOffer_free ha hd, hbme, if_pos rfl, State.readFault, ← hlen]
  dsimp only
  split <;> next h => rw [h]; rfl

/-! ### FABRIC_VERIFY and FABRIC_LOAD (R75, R79, R80, R82) -/

theorem exec_fabricVerify_unread {image : Option (List Byte)} (h : s.on R.hostif_LINK_BME = false ∨ image = none) :
    exec (.fabricVerify image) s = .next ((s.accept Reg.fabric_RESULT).fabricDone 9 0) :=
  congrArg Host.Outcome.next (State.loadCommand_unread ha hd _ _ h)

/-- A sound image verifies with code 1, and the rest of the device stays as it is (R75; log entry 113). -/
theorem fabricVerify_sound (hb : s.on R.hostif_LINK_BME = true) {bs : List Byte}
    (hf : s.readFault bs = none) :
    ∃ t, exec (.fabricVerify (some bs)) s = .next t ∧ t.get R.fabric_RESULT_STATUS = 1 ∧ t.get R.fabric_RESULT_DONE = 1 ∧
      t.get Flag.fabric_LOAD_DONE.fld = 1 ∧ t = { s with regs := t.regs } := by
  have hx : execFabricVerify (some bs) s = .next ((s.accept Reg.fabric_RESULT).fabricDone 1 0) := by
    rw [execFabricVerify, State.loadCommand_read ha hd hb, hf]
    rfl
  obtain ⟨hstatus, hdone⟩ := (s.accept Reg.fabric_RESULT).fabricDone_result 0 (status := 1) (by decide)
  exact ⟨_, hx, hstatus, hdone, State.fabricDone_loadDone _ _ (by decide), s.fabricDone_accept_frame _ _ _⟩

/-- The first fault found is the answer, with its RESULT_INFO (R75). -/
theorem fabricVerify_faulty (hb : s.on R.hostif_LINK_BME = true) {bs : List Byte} {st info : Nat}
    (hf : s.readFault bs = some (st, info))
    (h2 : 2 ≤ st) (h10 : st ≤ 10) :
    ∃ t, exec (.fabricVerify (some bs)) s = .next t ∧ t.get R.fabric_RESULT_STATUS = st ∧
      (t.rd Reg.fabric_RESULT_INFO).toNat = info % 2 ^ 32 ∧ t.get Flag.fabric_LOAD_FAIL.fld = 1 ∧ t = { s with regs := t.regs } := by
  have hx : execFabricVerify (some bs) s = .next ((s.accept Reg.fabric_RESULT).fabricDone st info) := by
    rw [execFabricVerify, State.loadCommand_read ha hd hb, hf]
    rfl
  obtain ⟨hstatus, -⟩ := (s.accept Reg.fabric_RESULT).fabricDone_result info (status := st) (by omega)
  exact ⟨_, hx, hstatus, State.fabricDone_info _ _ _, State.fabricDone_loadFail _ _ (by omega), s.fabricDone_accept_frame _ _ _⟩

/-- A verified image waits for its frame boundary; where it is FULL, the Cellar is not READY here and has no segments to close (R80, R82). -/
theorem exec_fabricLoad_pending (hb : s.on R.hostif_LINK_BME = true) {bs : List Byte}
    (hf : s.readFault bs = none)
    {im : LoadedImage} (him : loadedImage (bs.take (s.get R.fabric_SRC_LEN_LEN)) = im) (hp : s.get R.power_PWR_STATE_STATE ≠ 3)
    (hc : im.isPartial = true ∨ (s.accept Reg.fabric_RESULT).celMode ≠ .ready) :
    exec (.fabricLoad (some bs)) s = .next ((s.accept Reg.fabric_RESULT).modFabric fun u =>
      { u with load := some (if im.isPartial then .partialPending else .fullPending, im) }) := by
  have hpwr : (s.accept Reg.fabric_RESULT).get R.power_PWR_STATE_STATE ≠ 3 := by
    rwa [State.get_accept_apart _ _ _ (by decide)]
  have hopen : ¬ (!im.isPartial && (s.accept Reg.fabric_RESULT).celMode == .ready) = true := by
    rcases hc with hc | hc <;> simp [hc]
  show execFabricLoad (some bs) s = _
  rw [execFabricLoad, State.loadCommand_read ha hd hb, hf]
  simp only [Option.elim_none, him, if_neg hpwr, if_neg hopen]

/-! ### ADVANCE_SVN (R92) -/

/-- An image newer than the fuses say has every fuse below its SVN blown. -/
theorem exec_advanceSvn (hroot : (s.accept Reg.fabric_RESULT).testRoot = false)
    (hconf : (s.accept Reg.fabric_RESULT).on R.fabric_STATE_CONFIGURED = true)
    (hsvn : (s.accept Reg.fabric_RESULT).svnFuse < (s.accept Reg.fabric_RESULT).get R.fabric_STATE_SVN) :
    exec .advanceSvn s = .next ((((s.accept Reg.fabric_RESULT).modFuses fun f =>
      { f with svn := f.svn ||| BitVec.ofNat 64 (2 ^ (s.accept Reg.fabric_RESULT).get R.fabric_STATE_SVN - 1) }).showSvn.strongChanged).fabricDone 11 0) := by
  show execAdvanceSvn s = _
  rw [execAdvanceSvn, State.fabricOffer_free ha hd]
  simp only [hroot, hconf, Nat.not_le.2 hsvn, Bool.false_eq_true, Bool.true_eq_false, or_self, if_false]

theorem exec_fabricBadCommand : exec .fabricBadCommand s = .next ((s.accept Reg.fabric_RESULT).fabricDone 14 0) :=
  congrArg Host.Outcome.next (State.fabricOffer_free ha hd _)

/-- Bus Master Enable decides nothing of whether the loader takes a command. -/
theorem loader_without_bme : Answers (s.put R.hostif_LINK_BME 0) Reg.fabric_RESULT ∧ (s.put R.hostif_LINK_BME 0).done Reg.fabric_RESULT = true ∧
    (s.put R.hostif_LINK_BME 0).on R.hostif_LINK_BME = false := by
  have hr : ∀ b ∈ liveRegs Reg.fabric_RESULT, (s.put R.hostif_LINK_BME 0).rd b = s.rd b := fun b hb =>
    s.rd_put_ne R.hostif_LINK_BME 0 ((by decide : ∀ b ∈ liveRegs Reg.fabric_RESULT, b ≠ Reg.hostif_LINK) b hb)
  refine ⟨⟨?_, (State.regLive_congr hr rfl).trans ha.live⟩, ?_, State.on_put_self _ _ _ (by decide) rfl⟩
  · rw [State.clusterOfAddr_congr hr]
    exact ha.running
  · rw [State.done, State.get_put_apart _ _ _ _ (by decide)]
    exact hd

end

/-! ### What the Strongroom shows of its state leaves that state alone -/

/-- The state `t` has the Strongroom of `s`. -/
def SameStrong (s t : State) : Prop := t.strong = s.strong

section
variable {s t : State}

theorem SameStrong.put (h : SameStrong s t) (f : Fld) (v : Nat) : SameStrong s (t.put f v) := h

theorem SameStrong.wr (h : SameStrong s t) (a : Nat) (v : BitVec 32) : SameStrong s (t.wr a v) := h

theorem SameStrong.raise (h : SameStrong s t) (f : Flg) : SameStrong s (t.raise f) := h

theorem SameStrong.modCellar (h : SameStrong s t) (f : CellarState → CellarState) : SameStrong s (t.modCellar f) := h

theorem SameStrong.putBytes (h : SameStrong s t) (a : Nat) (l : List Byte) : SameStrong s (t.putBytes a l) := by
  rw [t.putBytes_frame a l]
  exact h

theorem SameStrong.each {α : Type} {f : State → α → State} (h : SameStrong s t) (l : List α)
    (hf : ∀ u x, SameStrong s u → SameStrong s (f u x)) : SameStrong s (t.each l f) :=
  List.foldlRecOn l f h fun u hu x _ => hf u x hu

theorem SameStrong.showStrong (h : SameStrong s t) : SameStrong s t.showStrong := by
  unfold State.showStrong
  extract_lets
  refine SameStrong.each (SameStrong.each ?_ _ fun u i hu => ?_) _ fun u n hu => hu.wr _ _
  · iterate 4 refine SameStrong.put ?_ _ _
    refine (SameStrong.putBytes ?_ _ _).wr _ _
    iterate 16 refine SameStrong.put ?_ _ _
    exact h
  · split
    · exact (hu.wr _ _).wr _ _
    · exact ((hu.put _ _).put _ _).put _ _

theorem SameStrong.showIdentity (h : SameStrong s t) : SameStrong s t.showIdentity := (h.putBytes _ _).putBytes _ _

theorem SameStrong.checkList (h : SameStrong s t) : SameStrong s t.checkList := by
  have hlist (b : Bool) (u : State) (hu : SameStrong s u) : SameStrong s (u.raiseIf b Flag.strongroom_LIST_CHANGE) := by
    cases b
    · exact hu
    · exact hu.raise _
  refine SameStrong.each (hlist _ _ (h.put _ _)) _ fun u n hu => ?_
  dsimp only
  split <;> exact hu

theorem SameStrong.showSigMode (h : SameStrong s t) : SameStrong s t.showSigMode := by
  unfold State.showSigMode
  dsimp only
  split
  · exact h
  · unfold State.signMode
    split
    · exact h.put _ _
    · exact ((h.put _ _).modCellar _).raise _

end

/-- What follows a change in the Strongroom shows its state and changes none of it. -/
theorem State.strongChanged_strong (s : State) : s.strongChanged.strong = s.strong :=
  (SameStrong.showStrong (s := s) rfl).showIdentity.checkList.showSigMode

/-! ### What each command leaves -/

/-- Settles O12: one lemma for each command, and for each way that its image can be found. -/
theorem loaderCommands : Obligations.LoaderCommands := by
  intro s ha hd hb n u
  obtain ⟨ha', hd', hb'⟩ := loader_without_bme ha hd
  obtain ⟨hbad, -⟩ := u.fabricDone_result 0 (status := 14) (by decide)
  obtain ⟨hunread, -⟩ := u.fabricDone_result 0 (status := 9) (by decide)
  refine ⟨fun bs hf => ⟨fabricVerify_sound ha hd hb hf, fun hp hpwr => ?_, fun hp hpwr hcel => ?_⟩, fun bs st info => fabricVerify_faulty ha hd hb,
    fun image => ⟨_, exec_fabricVerify_unread ha' hd' (.inl hb'), ?_⟩,
    ⟨_, exec_fabricVerify_unread ha hd (.inr rfl), hunread, s.fabricDone_accept_frame _ _ _⟩,
    ⟨_, exec_fabricBadCommand ha hd, hbad, State.fabricDone_loadFail _ _ (by decide), s.fabricDone_accept_frame _ _ _⟩, fun hroot hconf hsvn => ?_⟩
  · refine ⟨_, exec_fabricLoad_pending ha hd hb hf rfl hpwr (.inl hp), ?_, s.get_accept_done _, s.accept_onlyRegs _, rfl⟩
    rw [hp]
    rfl
  · refine ⟨_, exec_fabricLoad_pending ha hd hb hf rfl hpwr (.inr hcel), ?_, s.get_accept_done _, rfl⟩
    rw [hp]
    rfl
  · exact (State.fabricDone_result _ _ (by decide)).1
  · obtain ⟨hstatus, hdone⟩ := State.fabricDone_result _ 0 (status := 11) (by decide)
    exact ⟨_, exec_advanceSvn ha hd hroot hconf hsvn, hstatus, hdone, congrArg (fun x : StrongState => x.fuses.svn) (State.strongChanged_strong _)⟩

/-! ### How an image comes into force (R80, R82) -/

/-- With the Cellar closed and the memory trained, a full load goes through to the release of its units (R80). -/
theorem fullLoadApply_spec (s : State) (im : LoadedImage) (target : Nat) (rs : List (Nat × List (BitVec 17)))
    (hl : s.fabric.load = some (.fullPending, im)) (ht : s.loadTarget = some target) (hc : s.celMode ≠ .ready) :
    let a := (s.modFabric fun u => { u with load := none }).unitsReset.takeFull im 3
    let b := ((a.setDomains (a.powered target)).initWrites none im rs).fabricDone 0 0
    b.get R.global_BOOT_STATUS_STAGE ≠ 5 → b.on R.memory_STATUS_TRAINED = true →
    exec (.fullLoadApply rs) s = .next (b.releaseUnits target) := by
  intro a b hstage htrained
  show execFullLoadApply rs s = _
  have hclosed : ¬ (s.celMode = .ready ∧ s.cellar.closing ≠ []) := fun h => hc h.1
  rw [execFullLoadApply, hl, ht]
  exact (if_neg hclosed).trans ((if_neg hstage).trans (if_pos htrained))

/-- The release of a quiesced cluster ends in the completion with code 0 (R82). -/
theorem partialRelease_spec (s : State) (im : LoadedImage) (hl : s.fabric.load = some (.quiesced, im)) :
    ∃ t, exec .partialRelease s = .next t ∧ t.get R.fabric_RESULT_STATUS = 0 ∧ t.get R.fabric_RESULT_DONE = 1 ∧
      t.get Flag.fabric_LOAD_DONE.fld = 1 := by
  obtain ⟨t, hx⟩ : ∃ t : State, execPartialRelease s = .next (t.fabricDone 0 0) := by
    rw [execPartialRelease, hl]
    exact ⟨_, rfl⟩
  obtain ⟨hstatus, hdone⟩ := t.fabricDone_result 0 (status := 0) (by decide)
  exact ⟨_, hx, hstatus, hdone, t.fabricDone_loadDone 0 (by decide)⟩

/-- Settles O13: a load that waits, or that has quiesced its cluster, takes its one branch of the command. -/
theorem loadsTakeEffect : Obligations.LoadsTakeEffect := by
  refine ⟨fullLoadApply_spec, fun s im target rs hl ht => ?_, partialRelease_spec⟩
  show execPartialQuiesce rs s = _
  rewrite [execPartialQuiesce, hl, ht]
  rfl

end Sys2Proof.Machine
end

section
/-!
PROOFS. A Folio's frames: fetch start, switching points and retirement (06_panes.md R170; 07_folio_commit_seal.md R206, R210, R215,
R225; 08_raster_out.md R232, R239).
-/
namespace Sys2Proof.Machine
open Sys2Proof Safety

/-! ### A Folio's hidden state -/

/-- What was put in a Folio's hidden state is what it holds. -/
theorem State.folio_modFolio_self (s : State) (f : Nat) (g : FolioState → FolioState) : (s.modFolio f g).folio f = g (s.folio f) :=
  Sparse.get_set_self _ _ _ _

/-! ### The audio engine's plans show in no register -/

theorem State.on_of_regs {s t : State} (h : t.regs = s.regs) (f : Fld) : t.on f = s.on f :=
  State.on_congr (congrArg (fun m => Sparse.get regReset m f.addr) h)

/-- A step over a list in which no item writes a register writes none. -/
theorem State.each_regs {α : Type} {g : State → α → State} (h : ∀ s a, (g s a).regs = s.regs) (s : State) (l : List α) :
    (s.each l g).regs = s.regs := by
  induction l generalizing s with
  | nil => rfl
  | cons a l ih => exact (ih (g s a)).trans (h s a)

theorem State.replaceFade_regs (s : State) (o : Nat) : (s.replaceFade o).regs = s.regs := rfl

/-- The fades that a switching point settles are the audio engine's own (R269, R271). -/
theorem State.settleTakes_regs (s : State) (f : Nat) : (s.settleTakes f).regs = s.regs := by
  refine State.each_regs (fun s o => ?_) s _
  dsimp only
  split
  · split
    · split
      · rfl
      · exact State.replaceFade_regs _ o
    · rfl
  · rfl

theorem State.on_setSpPeriods_settleTakes (s : State) (f n : Nat) (g : Fld) : ((s.settleTakes f).setSpPeriods f n).on g = s.on g :=
  (State.modAudio_on _ _ g).trans (State.on_of_regs (s.settleTakes_regs f) g)

/-! ### The frame fetch start (R170) -/

/-- A composed frame that has not begun, is not held and has no hold asked for is fetched from its fetch line on. -/
theorem frameFetchStart_latches {s : State} {f : Fin 64} (frac : BitVec 16) (hup : s.folioUp f = true) (hcomp : s.composing f = true)
    (hwait : (s.folio f).waiting = false) (hbegan : (s.folio f).began = false) (hhold : (s.folio f).holdAsked = false)
    (hline : s.get (R.folio_RASTER_STATUS_LINE f) = (s.timing f).fetchLine) :
    let t := (s.frameLatch f frac.toNat).queueAnc f
    exec (.frameFetchStart f frac) s = .next (t.each (t.sdiPorts f) fun s n => if s.sdi n = .txBlack then s.setSdi n .txRun else s) := by
  have hholds : ((s.folio f).holdAsked && (s.folioPorts f).all fun n => (s.port n).holdReply == 2) = false := by
    rw [hhold, Bool.false_and]
  exact if_pos ⟨hup, hcomp, hwait, hbegan, hholds, hline⟩

theorem frameFetchStart_other_line {s : State} {f : Fin 64} (frac : BitVec 16)
    (hline : s.get (R.folio_RASTER_STATUS_LINE f) ≠ (s.timing f).fetchLine) : exec (.frameFetchStart f frac) s = .next s :=
  if_neg fun ⟨_, _, _, _, _, h⟩ => hline h

/-! ### Parts of a switching point that have nothing to do -/

theorem State.rasterRuns_of_run {s : State} {f : Nat} (h : s.raster f = .run) : s.rasterRuns f = true := by
  rw [State.rasterRuns, h]

/-- A raster that runs is in no hold that could end (R249). -/
theorem State.holdExit_of_run {s : State} {f : Nat} (h : s.raster f = .run) : s.holdExit f = s :=
  if_neg fun hold => absurd (h.symm.trans hold.1) (by decide)

theorem State.sealTakes_of_not_due {s : State} {f : Nat} (h : (s.folio f).sealDue = none) : s.sealTakes f = s := by
  rw [State.sealTakes, h]

theorem State.commitPoint_of_not_armed {s : State} {f : Nat} (h : s.on (R.folio_COMMIT_STATUS_ARMED f) = false) :
    s.commitPoint f = s := if_pos h

/-- Display-timed mode neither asked for nor in force: the switching point notes only that it judged no request (R245). -/
theorem State.dispTimedStep_of_off {s : State} {f : Nat} (applied : Bool) (realign : Int)
    (hasked : s.act (R.folio_TIMING_MODE_DISP_TIMED f) = 0) (hwas : s.on (R.folio_RASTER_STATUS_DISP_TIMED_ACTIVE f) = false) :
    s.dispTimedStep f applied realign = (none, s.modFolio f fun x => { x with dtJudged := false }) := by
  simp [State.dispTimedStep, hasked, hwas, State.raiseIf]

/-! ### Switching points (R210, R225, R232, R239) -/

/-- A switching point of a running raster at which no commit, no seal setting and no realignment is due. -/
theorem switchingPoint_idle {s : State} {f : Fin 64} (next : Nat) (realign : Int) (hup : s.folioUp f = true) (hrun : s.raster f = .run)
    (hwait : (s.folio f).waiting = false) (hline : s.get (R.folio_RASTER_STATUS_LINE f) = s.switchLine f (s.timing f))
    (hseal : (s.folio f).sealDue = none) (hsnap : (s.folio f).snap = none) (harmed : s.on (R.folio_COMMIT_STATUS_ARMED f) = false)
    (hasked : s.act (R.folio_TIMING_MODE_DISP_TIMED f) = 0) (hwas : s.on (R.folio_RASTER_STATUS_DISP_TIMED_ACTIVE f) = false) :
    exec (.switchingPoint f next realign) s =
      .next ((((s.modFolio f fun x => { x with dtJudged := false }).modFolio f fun x => { x with snap := none }).settleTakes f).setSpPeriods
        f next) := by
  have hat : s.folioUp f = true ∧ s.rasterRuns f = true ∧ (s.folio f).waiting = false ∧
      s.get (R.folio_RASTER_STATUS_LINE f) = s.switchLine f (s.timing f) := ⟨hup, State.rasterRuns_of_run hrun, hwait, hline⟩
  show execSwitchingPoint f next realign s = _
  simp [execSwitchingPoint, hat, State.holdExit_of_run hrun, State.sealTakes_of_not_due hseal, hrun,
    State.commitPoint_of_not_armed harmed, State.dispTimedStep_of_off _ _ hasked hwas, State.folio_modFolio_self, hsnap,
    State.raiseIf, State.on_setSpPeriods_settleTakes, harmed]

theorem switchingPoint_other_line {s : State} {f : Fin 64} (next : Nat) (realign : Int)
    (hline : s.get (R.folio_RASTER_STATUS_LINE f) ≠ s.switchLine f (s.timing f)) : exec (.switchingPoint f next realign) s = .next s :=
  if_neg fun ⟨_, _, _, h⟩ => hline h

/-! ### Retirement (R206, R215) -/

/-- RETIRE with the present frame's number, and FRAME_DONE raised. -/
def State.retired (s : State) (f : Nat) : State := (s.put (R.folio_RETIRE f) (s.frameNum f)).raise (Flag.folio_RASTER_FRAME_DONE f)

/-- The registers that a retirement writes. -/
def retiredRegs (f : Nat) : List Nat :=
  [(R.folio_RETIRE f).addr, (Flag.folio_RASTER_FRAME_DONE f).addr, (Flag.folio_RASTER_FRAME_DONE f).counter.addr]

theorem State.retired_onlyRegs (s : State) (f : Nat) : OnlyRegs s (s.retired f) (retiredRegs f) :=
  ((OnlyRegs.refl s _).put _ _ (by simp [retiredRegs])).raise _ (by simp [retiredRegs]) (by simp [retiredRegs])

/-- RETIRE lies apart from FRAME_DONE and its counter. -/
theorem retire_apart_frameDone (f : Fin 64) : (R.folio_RETIRE f).Apart (Flag.folio_RASTER_FRAME_DONE f).fld ∧
    (R.folio_RETIRE f).Apart (Flag.folio_RASTER_FRAME_DONE f).counter := by decide +revert

theorem State.retired_fields (s : State) (f : Fin 64) : (s.retired f).get (R.folio_RETIRE f) = s.frameNum f ∧
    (s.retired f).get (Flag.folio_RASTER_FRAME_DONE f).fld = 1 := by
  obtain ⟨hflag, hcounter⟩ := retire_apart_frameDone f
  refine ⟨?_, State.get_raise_self _ _ (by decide +revert)⟩
  rw [State.retired, State.get_raise_apart _ _ _ hflag hcounter, State.get_put_self _ _ _ (by decide +revert)]
  exact Nat.mod_eq_of_lt (s.get_lt (R.folio_FRAME_NUM f))

/-- Neither RETIRE_WAIT nor the raster's state is among them. -/
theorem retiredRegs_leave (f : Fin 64) : (R.folio_RETIRE_WAIT f).addr ∉ retiredRegs f ∧
    (R.folio_RASTER_STATUS_STATE f).addr ∉ retiredRegs f := by decide +revert

theorem State.raster_retired (s : State) (f : Fin 64) : (s.retired f).raster f = s.raster f :=
  congrArg RasterMode.ofCode (State.get_congr (s.retired_onlyRegs f _ (retiredRegs_leave f).2))

/-- A frame whose number RETIRE does not show yet, and RETIRE_WAIT does not await, retires without RETIRE_REACHED. -/
theorem State.retire_eq_retired {s : State} {f : Fin 64} (hretire : s.get (R.folio_RETIRE f) ≠ s.frameNum f)
    (hawait : s.get (R.folio_RETIRE_WAIT f) ≠ s.frameNum f) : s.retire f = s.retired f := by
  have hsame : (s.retired f).get (R.folio_RETIRE_WAIT f) = s.get (R.folio_RETIRE_WAIT f) :=
    State.get_congr (s.retired_onlyRegs f _ (retiredRegs_leave f).1)
  have hunmet : ((s.retired f).get (R.folio_RETIRE_WAIT f) == s.frameNum f) = false := by
    rw [hsame]
    exact beq_false_of_ne hawait
  calc s.retire f = (s.retired f).raiseIf ((s.retired f).get (R.folio_RETIRE_WAIT f) == s.frameNum f) (Flag.folio_RETIRE_REACHED f) :=
        if_neg hretire
    _ = s.retired f := by rw [hunmet]; rfl

theorem State.unpinFolio_of_no_latches {s : State} {f : Nat} (h : (s.folio f).latches = []) : s.unpinFolio f = s := by
  rw [State.unpinFolio, h]
  rfl

theorem State.raster_modFolio (s : State) (n : Nat) (g : FolioState → FolioState) (f : Nat) : (s.modFolio n g).raster f = s.raster f := rfl

/-- The frame of a running raster, with no pane latched and no margin measured, after its last active line. -/
theorem retireAdvance_retires {s : State} {f : Fin 64} (hup : s.folioUp f = true) (hbegan : (s.folio f).began = true)
    (hrun : s.raster f = .run) (hline : (s.timing f).lastActive ≤ s.get (R.folio_RASTER_STATUS_LINE f))
    (hlatches : (s.folio f).latches = []) (hmargins : (s.folio f).margins = []) (hdry : (s.folio f).dry ≠ 2)
    (hretire : s.get (R.folio_RETIRE f) ≠ s.frameNum f) (hawait : s.get (R.folio_RETIRE_WAIT f) ≠ s.frameNum f) :
    exec (.retireAdvance f) s = .next ((s.retired f).modFolio f fun x => { x with began := false, rows := [] }) := by
  have hstill : ((s.retired f).modFolio f fun x => { x with began := false, rows := [] }).raster f = .run :=
    ((State.raster_modFolio _ _ _ _).trans (s.raster_retired f)).trans hrun
  show execRetireAdvance f s = _
  simp [execRetireAdvance, hup, hbegan, hline, State.unpinFolio_of_no_latches hlatches, hmargins, State.each, hdry, State.retire_eq_retired hretire hawait, hstill]

/-- Settles O31: each command takes one branch, in which the parts with nothing to do drop out. -/
theorem folioFrames : Obligations.FolioFrames := by
  refine ⟨fun s f frac => ⟨frameFetchStart_latches frac, frameFetchStart_other_line frac⟩,
    ⟨fun s f next realign => switchingPoint_idle next realign, fun s f next realign => switchingPoint_other_line next realign⟩,
    fun s f hup hbegan hrun hline hlatches hmargins hdry hretire hawait => ?_⟩
  obtain ⟨hnum, hdone⟩ := s.retired_fields f
  have hfolio := (s.retired f).folio_modFolio_self f fun x => { x with began := false, rows := [] }
  refine ⟨_, retireAdvance_retires hup hbegan hrun hline hlatches hmargins hdry hretire hawait, ?_, ?_,
    congrArg FolioState.began hfolio, congrArg FolioState.rows hfolio, fun a ha => ?_, rfl⟩
  · rwa [State.modFolio_get]
  · rwa [State.modFolio_get]
  · rw [State.modFolio_rd]
    exact s.retired_onlyRegs f a ha

end Sys2Proof.Machine
end

section
/-!
PROOFS. A Folio's commits: arming and disarming, reverting the staged set, what a switching point does with an armed commit, and the
words of surfaces and coefficient tables (06_panes.md R200; 07_folio_commit_seal.md R206, R209 to R213; 09_audio_marginalia.md R269).
-/
namespace Sys2Proof.Machine
open Sys2Proof Safety

/-! ### Steps over a list -/

/-- A step over a list changes no register that none of its items changes. -/
theorem State.each_onlyRegs {α : Type} {g : State → α → State} {l : List Nat} (h : ∀ s a, OnlyRegs s (g s a) l) (s : State)
    (as : List α) : OnlyRegs s (s.each as g) l := by
  induction as generalizing s with
  | nil => exact OnlyRegs.refl s l
  | cons a as ih => exact fun b hb => (ih (g s a) b hb).trans (h s a b hb)

/-- A step over a list whose items each leave the state as it is leaves it as it is. -/
theorem State.each_same {α : Type} {g : State → α → State} {s : State} {l : List α} (h : ∀ a ∈ l, g s a = s) : s.each l g = s := by
  induction l with
  | nil => rfl
  | cons a l ih =>
    have hrest : s.each l g = s := ih fun b hb => h b (List.mem_cons_of_mem a hb)
    rwa [State.each, List.foldl_cons, h a List.mem_cons_self]

/-! ### The audio fades of a commit (09_audio_marginalia.md R269) -/

/-- Planning a fade writes no register but those of FADE_LATE. -/
theorem State.planFade_onlyRegs (s : State) (o wait n : Nat) (ws : List (BitVec 32)) (afv : Bool) :
    OnlyRegs s (s.planFade o wait n ws afv) [Flag.audio_FADE_LATE.addr, Flag.audio_FADE_LATE.counter.addr] := by
  have hlate : OnlyRegs s (s.raise Flag.audio_FADE_LATE) [Flag.audio_FADE_LATE.addr, Flag.audio_FADE_LATE.counter.addr] :=
    (OnlyRegs.refl s _).raise _ (by simp) (by simp)
  unfold State.planFade
  split
  · exact fun _ _ => rfl
  · dsimp only
    split
    · exact fun _ _ => rfl
    · split
      · exact hlate
      · exact fun _ _ => rfl

theorem State.planTakes_onlyRegs (s : State) (f periods : Nat) :
    OnlyRegs s (s.planTakes f periods) [Flag.audio_FADE_LATE.addr, Flag.audio_FADE_LATE.counter.addr] := by
  refine State.each_onlyRegs (fun s o => ?_) s _
  dsimp only
  split
  · split
    · exact OnlyRegs.refl s _
    · exact s.planFade_onlyRegs _ _ _ _ _
  · exact OnlyRegs.refl s _

/-! ### ARM, DISARM and STAGE_HOLD (R209, R210, R213) -/

theorem State.folioWrite_answers {s : State} {f : Nat} (ha : Answers s (Reg.folio_COMMIT f)) (g : State → State) :
    s.folioWrite f g = g s := s.hostWrite_answers _ g ha.running ha.live

/-- A commit armed with DEFERS 0 and its fades planned. -/
def State.armed (s : State) (f periods : Nat) : State :=
  ((s.put (R.folio_COMMIT_STATUS_ARMED f) 1).put (R.folio_COMMIT_STATUS_DEFERS f) 0).planTakes f periods

/-- Arming does not touch the raster. -/
theorem State.rasterRuns_armed (s : State) (f : Fin 64) (periods : Nat) : (s.armed f periods).rasterRuns f = s.rasterRuns f := by
  have hne : Reg.folio_RASTER_STATUS f ≠ Reg.folio_COMMIT_STATUS f := by decide +revert
  have hplan : (s.armed f periods).rd (Reg.folio_RASTER_STATUS f) = _ :=
    State.planTakes_onlyRegs _ f periods _ (by clear hne; decide +revert)
  have hstate : (s.armed f periods).get (R.folio_RASTER_STATUS_STATE f) = s.get (R.folio_RASTER_STATUS_STATE f) :=
    State.get_congr (hplan.trans ((State.rd_put_ne _ _ _ hne).trans (State.rd_put_ne _ _ _ hne)))
  rw [State.rasterRuns, State.rasterRuns, State.raster, State.raster, hstate]

/-- A commit that is not armed yet is applied, or deferred, as it is armed where its raster does not run. -/
theorem State.commitArm_first {s : State} {f : Fin 64} (periods : Nat) (h : s.on (R.folio_COMMIT_STATUS_ARMED f) = false) :
    s.commitArm f periods = if s.rasterRuns f then s.armed f periods else (s.armed f periods).commitPoint f := by
  rw [State.commitArm, h, if_neg (by decide), ← s.rasterRuns_armed f periods]
  rfl

theorem State.commitArm_again {s : State} {f : Nat} (periods : Nat) (h : s.on (R.folio_COMMIT_STATUS_ARMED f) = true) :
    s.commitArm f periods = s := if_pos h

/-- The state once an armed commit has been removed: neither armed nor held, LAST 3, COMMIT_CLEARED raised. -/
def State.disarmed (s : State) (f : Nat) : State :=
  (((s.put (R.folio_COMMIT_STATUS_ARMED f) 0).put (R.folio_COMMIT_STATUS_HELD f) 0).put (R.folio_COMMIT_STATUS_LAST f) 3).raise
    (Flag.folio_COMMIT_CLEARED f)

theorem State.commitClear_armed {s : State} {f : Nat} (h : s.on (R.folio_COMMIT_STATUS_ARMED f) = true) :
    s.commitClear f = s.disarmed f := if_pos h

theorem State.commitClear_unarmed {s : State} {f : Nat} (h : s.on (R.folio_COMMIT_STATUS_ARMED f) = false) :
    s.commitClear f = s := by
  rw [State.commitClear, h]
  rfl

/-- COMMIT_STATUS lies apart from COMMIT_CLEARED and COMMIT_DEFER, so that raising either leaves its fields. -/
theorem State.get_raise_commitFlags (s : State) (f : Fin 64) {g : Fld} (hg : g.addr = Reg.folio_COMMIT_STATUS f) :
    (s.raise (Flag.folio_COMMIT_CLEARED f)).get g = s.get g ∧ (s.raise (Flag.folio_COMMIT_DEFER f)).get g = s.get g := by
  have hcleared : g.addr ≠ (Flag.folio_COMMIT_CLEARED f).fld.addr ∧ g.addr ≠ (Flag.folio_COMMIT_CLEARED f).counter.addr := by
    rw [hg]
    clear hg
    decide +revert
  have hdefer : g.addr ≠ (Flag.folio_COMMIT_DEFER f).fld.addr ∧ g.addr ≠ (Flag.folio_COMMIT_DEFER f).counter.addr := by
    rw [hg]
    clear hg hcleared
    decide +revert
  exact ⟨s.get_raise_apart _ g (.inl hcleared.1) (.inl hcleared.2), s.get_raise_apart _ g (.inl hdefer.1) (.inl hdefer.2)⟩

theorem State.disarmed_fields (s : State) (f : Fin 64) : (s.disarmed f).get (R.folio_COMMIT_STATUS_ARMED f) = 0 ∧
    (s.disarmed f).get (R.folio_COMMIT_STATUS_HELD f) = 0 ∧ (s.disarmed f).get (R.folio_COMMIT_STATUS_LAST f) = 3 ∧
    (s.disarmed f).get (Flag.folio_COMMIT_CLEARED f).fld = 1 := by
  refine ⟨?_, ?_, ?_, State.get_raise_self _ _ (by decide +revert)⟩
  · rw [State.disarmed, (State.get_raise_commitFlags _ f rfl).1, State.get_put_apart _ _ _ _ (by decide +revert),
      State.get_put_apart _ _ _ _ (by decide +revert), State.get_put_self _ _ _ (by decide +revert), Nat.zero_mod]
  · rw [State.disarmed, (State.get_raise_commitFlags _ f rfl).1, State.get_put_apart _ _ _ _ (by decide +revert),
      State.get_put_self _ _ _ (by decide +revert), Nat.zero_mod]
  · rw [State.disarmed, (State.get_raise_commitFlags _ f rfl).1, State.get_put_self _ _ _ (by decide +revert)]
    rfl

theorem State.disarmed_onlyRegs (s : State) (f : Nat) : OnlyRegs s (s.disarmed f)
    [Reg.folio_COMMIT_STATUS f, (Flag.folio_COMMIT_CLEARED f).addr, (Flag.folio_COMMIT_CLEARED f).counter.addr] :=
  ((((OnlyRegs.refl s _).put (R.folio_COMMIT_STATUS_ARMED f) 0 List.mem_cons_self).put (R.folio_COMMIT_STATUS_HELD f) 0
    List.mem_cons_self).put (R.folio_COMMIT_STATUS_LAST f) 3 List.mem_cons_self).raise _ (by simp) (by simp)

theorem State.on_stageHold (s : State) (f : Fin 64) (hold : Bool) :
    (s.put (R.folio_COMMIT_STAGE_HOLD f) (if hold then 1 else 0)).on (R.folio_COMMIT_STAGE_HOLD f) = hold := by
  rw [State.on_put_self _ _ _ (by clear hold; decide +revert) rfl]
  cases hold <;> rfl

section
variable {s : State} {f : Fin 64} (ha : Answers s (Reg.folio_COMMIT f))
include ha

theorem exec_commitArm_answers (periods : Nat) : exec (.commitArm f periods) s = .next (s.commitArm f periods) :=
  congrArg Host.Outcome.next (State.folioWrite_answers ha fun s => s.commitArm f periods)

theorem exec_commitDisarm_answers : exec (.commitDisarm f) s = .next (s.commitClear f) :=
  congrArg Host.Outcome.next (State.folioWrite_answers ha fun s => s.commitClear f)

theorem exec_stageHoldWrite_answers (hold : Bool) :
    exec (.stageHoldWrite f hold) s = .next (s.put (R.folio_COMMIT_STAGE_HOLD f) (if hold then 1 else 0)) :=
  congrArg Host.Outcome.next (State.folioWrite_answers ha fun s => s.put (R.folio_COMMIT_STAGE_HOLD f) (if hold then 1 else 0))

end

/-! ### REVERT (R209) -/

/-- Each register of a list takes the value `k` bytes on. -/
def State.copyBack (s : State) (k : Nat) (l : List Nat) : State := s.each l fun s a => s.wr a (s.rd (a + k))

theorem State.copyBack_cons (s : State) (k a : Nat) (l : List Nat) :
    s.copyBack k (a :: l) = (s.wr a (s.rd (a + k))).copyBack k l := rfl

theorem State.copyBack_onlyRegs (s : State) (k : Nat) (l : List Nat) : OnlyRegs s (s.copyBack k l) l := by
  induction l generalizing s with
  | nil => exact OnlyRegs.refl s []
  | cons a l ih =>
    intro b hb
    rw [List.mem_cons, not_or] at hb
    rw [State.copyBack_cons, ih _ b hb.2, State.rd_wr_ne _ _ hb.1]

theorem State.copyBack_frame (s : State) (k : Nat) (l : List Nat) : s.copyBack k l = { s with regs := (s.copyBack k l).regs } := by
  induction l generalizing s with
  | nil => rfl
  | cons a l ih =>
    rw [State.copyBack_cons, ih]
    rfl

/-- Where no source is itself written, each register reads as its source did. -/
theorem State.rd_copyBack {k : Nat} {l : List Nat} (s : State) (h : ∀ a ∈ l, a + k ∉ l) {a : Nat} (ha : a ∈ l) :
    (s.copyBack k l).rd a = s.rd (a + k) := by
  induction l generalizing s with
  | nil => exact absurd ha List.not_mem_nil
  | cons b l ih =>
    have hsource (c : Nat) (hc : c ∈ b :: l) : c + k ≠ b ∧ c + k ∉ l := by
      simpa only [List.mem_cons, not_or] using h c hc
    rw [State.copyBack_cons]
    by_cases hl : a ∈ l
    · rw [ih _ (fun c hc => (hsource c (List.mem_cons_of_mem b hc)).2) hl, State.rd_wr_ne _ _ (hsource a ha).1]
    · obtain rfl : a = b := (List.mem_cons.1 ha).resolve_right hl
      rw [State.copyBack_onlyRegs _ k l a hl, State.rd_wr_self]

/-- The staged registers of a Folio and of its panes. -/
def stagedRegs (f : Nat) : List Nat := (List.range 8).flatMap (paneStaged f) ++ folioStaged f

/-- The registers of rows at a base are those at 0, moved by the base. -/
theorem flatMap_addrs (base : Nat) (rows : List RegRow) :
    rows.flatMap (RegRow.addrs base) = (rows.flatMap (RegRow.addrs 0)).map (base + ·) := by
  have hrow : RegRow.addrs base = fun r => (r.addrs 0).map (base + ·) := by
    funext r
    simp only [RegRow.addrs, List.map_map]
    exact List.map_congr_left fun i _ => by simp only [Function.comp]; omega
  rw [List.map_flatMap, hrow]

/-- Rows whose registers lie below `n` at base 0 lie within `n` bytes of any base. -/
theorem flatMap_addrs_within {base n a : Nat} {rows : List RegRow} (hrows : ∀ o ∈ rows.flatMap (RegRow.addrs 0), o < n)
    (h : a ∈ rows.flatMap (RegRow.addrs base)) : base ≤ a ∧ a < base + n := by
  rw [flatMap_addrs, List.mem_map] at h
  obtain ⟨o, ho, rfl⟩ := h
  have := hrows o ho
  omega

/-- Staged registers lie in the lower half of their Folio's 8 KiB, the active values in the upper half. -/
theorem stagedRegs_lower {f a : Nat} (h : a ∈ stagedRegs f) : 0x100000 + 0x2000 * f ≤ a ∧ a < 0x101000 + 0x2000 * f := by
  obtain hpane | hfolio := List.mem_append.1 h
  · obtain ⟨p, hp, ha⟩ := List.mem_flatMap.1 hpane
    have hwithin := flatMap_addrs_within (n := 0x200) (by decide +kernel) ha
    have := List.mem_range.1 hp
    omega
  · have := flatMap_addrs_within (n := 0x1000) (by decide +kernel) hfolio
    omega

theorem stagedRegs_mirror {f a : Nat} (h : a ∈ stagedRegs f) : a + 0x1000 ∉ stagedRegs f := fun hm => by
  have := stagedRegs_lower h
  have := stagedRegs_lower hm
  omega

theorem commitRevert_spec (s : State) (f : Fin 64) (ha : Answers s (Reg.folio_COMMIT f)) : ∃ t, exec (.commitRevert f) s = .next t ∧
    (∀ a ∈ stagedRegs f, t.rd a = s.rd (a + 0x1000)) ∧ OnlyRegs s t (stagedRegs f) ∧ t = { s with regs := t.regs } :=
  ⟨s.copyBack 0x1000 (stagedRegs f), congrArg Host.Outcome.next (State.folioWrite_answers ha fun s => s.copyBack 0x1000 (stagedRegs f)),
    fun _ h => s.rd_copyBack (fun _ => stagedRegs_mirror) h, s.copyBack_onlyRegs _ _, s.copyBack_frame _ _⟩

/-! ### A switching point (R209 to R212) -/

/-- HELD lies apart from POLICY and ARMED, and DEFERS from ARMED. -/
theorem commitFields_apart (f : Fin 64) : (R.folio_COMMIT_CFG_POLICY f).Apart (R.folio_COMMIT_STATUS_HELD f) ∧
    (R.folio_COMMIT_STATUS_ARMED f).Apart (R.folio_COMMIT_STATUS_HELD f) ∧
    (R.folio_COMMIT_STATUS_ARMED f).Apart (R.folio_COMMIT_STATUS_DEFERS f) := by decide +revert

/-- A commit deferred once more. -/
def State.deferred (s : State) (f : Nat) : State :=
  ((s.put (R.folio_COMMIT_STATUS_HELD f) 0).bump (R.folio_COMMIT_STATUS_DEFERS f)).raise (Flag.folio_COMMIT_DEFER f)

theorem State.deferred_reads (s : State) (f : Fin 64) :
    (s.deferred f).on (R.folio_COMMIT_STATUS_ARMED f) = s.on (R.folio_COMMIT_STATUS_ARMED f) ∧
    (s.deferred f).get (Flag.folio_COMMIT_DEFER f).fld = 1 ∧ (s.deferred f).rd (Reg.folio_FRAME_NUM f) = s.rd (Reg.folio_FRAME_NUM f) := by
  obtain ⟨_, hheld, hdefers⟩ := commitFields_apart f
  refine ⟨?_, State.get_raise_self _ _ (by clear hheld hdefers; decide +revert), ?_⟩
  · rw [State.on, State.deferred, (State.get_raise_commitFlags _ f rfl).2, State.get_bump_apart _ _ _ hdefers,
      State.get_put_apart _ _ _ _ hheld]
    rfl
  · have hne : Reg.folio_FRAME_NUM f ≠ (Flag.folio_COMMIT_DEFER f).addr ∧
        Reg.folio_FRAME_NUM f ≠ (Flag.folio_COMMIT_DEFER f).counter.addr ∧ Reg.folio_FRAME_NUM f ≠ Reg.folio_COMMIT_STATUS f := by
      clear hheld hdefers
      decide +revert
    obtain ⟨hflag, hcounter, hstatus⟩ := hne
    rw [State.deferred, State.rd_raise_ne _ _ hflag hcounter, State.rd_bump_ne _ _ hstatus, State.rd_put_ne _ _ _ hstatus]

section
variable {s : State} {f : Fin 64} (harmed : s.on (R.folio_COMMIT_STATUS_ARMED f) = true)
include harmed

theorem State.commitPoint_held (hhold : s.on (R.folio_COMMIT_STAGE_HOLD f) = true) :
    s.commitPoint f = s.put (R.folio_COMMIT_STATUS_HELD f) 1 := by
  rw [State.commitPoint, harmed, if_neg (by decide), if_pos hhold]

theorem State.commitPoint_ready (hhold : s.on (R.folio_COMMIT_STAGE_HOLD f) = false)
    (hready : (s.put (R.folio_COMMIT_STATUS_HELD f) 0).unreadyPanes f = []) :
    s.commitPoint f = (s.put (R.folio_COMMIT_STATUS_HELD f) 0).commitApply f [] := by
  simp [State.commitPoint, harmed, hhold, hready]

/-- Under policy 0 a commit with unready panes waits, however often it has been deferred. -/
theorem State.commitPoint_deferred (hhold : s.on (R.folio_COMMIT_STAGE_HOLD f) = false)
    (hunready : (s.put (R.folio_COMMIT_STATUS_HELD f) 0).unreadyPanes f ≠ []) (hpolicy : s.on (R.folio_COMMIT_CFG_POLICY f) = false) :
    s.commitPoint f = s.deferred f := by
  have hstill : (s.put (R.folio_COMMIT_STATUS_HELD f) 0).on (R.folio_COMMIT_CFG_POLICY f) = false :=
    (State.on_put_apart _ _ _ _ (commitFields_apart f).1).trans hpolicy
  simp [State.commitPoint, harmed, hhold, hunready, hstill, State.deferred]

/-- STAGE_HOLD keeps the commit armed and shows that it is held. -/
theorem State.commitPoint_held_reads (hhold : s.on (R.folio_COMMIT_STAGE_HOLD f) = true) :
    (s.commitPoint f).get (R.folio_COMMIT_STATUS_HELD f) = 1 ∧ (s.commitPoint f).on (R.folio_COMMIT_STATUS_ARMED f) = true ∧
      OnlyRegs s (s.commitPoint f) [Reg.folio_COMMIT_STATUS f] := by
  rw [State.commitPoint_held harmed hhold]
  refine ⟨?_, (State.on_put_apart _ _ _ _ (commitFields_apart f).2.1).trans harmed,
    (OnlyRegs.refl s _).put (R.folio_COMMIT_STATUS_HELD f) 1 List.mem_cons_self⟩
  have hok : ∀ f : Fin 64, (R.folio_COMMIT_STATUS_HELD f).Ok := by decide
  rw [State.get_put_self _ _ _ (hok f)]
  rfl

end

/-! ### Words outside the pages, with no Folio present (R200, R206, R211) -/

section
variable {s : State} (hnone : ∀ f, f < 64 → s.folioOn f = false)
include hnone

/-- A word of a surface or of a coefficient table is not one that says whether a Folio is present. -/
theorem State.folioOn_wr_off {a : Nat} (ha : 0x180000 ≤ a) (v : BitVec 32) {f : Nat} (hf : f < 64) : (s.wr a v).folioOn f = false := by
  have hne : Reg.folio_CFG f ≠ a := by
    rw [Reg.folio_CFG]
    omega
  exact (State.on_congr (State.rd_wr_ne s v hne)).trans (hnone f hf)

/-- A surface that no Folio shows may change without an effect. -/
theorem State.wr_surfaceTouched {a : Nat} (ha : 0x180000 ≤ a) (v : BitVec 32) (i : Nat) : (s.wr a v).surfaceTouched i = s.wr a v :=
  State.each_same fun f hf => by rw [State.folioOn_wr_off hnone ha v (List.mem_range.1 hf)]; rfl

theorem exec_surfDescriptorWrite_unused (i : Fin 256) (w : Fin 3) (v : BitVec 32) (ha : Answers s (0x300000 + 16 * i)) :
    exec (.surfDescriptorWrite i w v) s = .next (s.wr (Reg.surf_BASE i + 4 * w) (if w.val = 1 then v &&& 0xFF00FFFF else v)) := by
  have hoff : 0x180000 ≤ Reg.surf_BASE i + 4 * w := by rw [Reg.surf_BASE]; omega
  show execSurfDescriptorWrite i w v s = _
  rw [execSurfDescriptorWrite, s.rowWrite_answers _ _ ha.running ha.live]
  exact congrArg Host.Outcome.next (State.wr_surfaceTouched hnone hoff _ i)

theorem exec_fenceWrite_unused (i : Fin 256) (v : BitVec 32) (ha : Answers s (Reg.surf_FENCE i)) :
    exec (.fenceWrite i v) s = .next (s.wr (Reg.surf_FENCE i) v) := by
  have hoff : 0x180000 ≤ Reg.surf_FENCE i := by rw [Reg.surf_FENCE]; omega
  show execFenceWrite i v s = _
  rw [execFenceWrite, s.rowWrite_answers _ _ ha.running ha.live, State.wr_surfaceTouched hnone hoff]

theorem exec_coeffTableWrite_unused (f : Fin 64) (w : Fin 448) (v : BitVec 32) (ha : Answers s (0x310000 + 0x800 * f)) :
    exec (.coeffTableWrite f w v) s = .next (s.wr (Reg.coef_COEF f w) v) := by
  have hoff : (s.wr (Reg.coef_COEF f w) v).folioOn f = false := State.folioOn_wr_off hnone (by rw [Reg.coef_COEF]; omega) v f.isLt
  show execCoeffTableWrite f w v s = _
  rw [execCoeffTableWrite, s.rowWrite_answers _ _ ha.running ha.live]
  simp only [hoff, Bool.false_and, Bool.false_eq_true, if_false]

end

/-- A command that does no more than write a word. -/
theorem spec_of_wr {s : State} {r : Result} {a : Nat} {v : BitVec 32} (h : r = .next (s.wr a v)) :
    ∃ t, r = .next t ∧ t.rd a = v ∧ OnlyRegs s t [a] ∧ t = { s with regs := t.regs } := by
  obtain ⟨honly, hframe⟩ := s.wr_frame a v
  exact ⟨_, h, s.rd_wr_self a v, honly, hframe⟩

/-! ### The obligation -/

/-- ARM and DISARM, by whether the commit is armed and whether its raster runs (R210, R213). -/
theorem commitCommands_spec (s : State) (f : Fin 64) (periods : Nat) (ha : Answers s (Reg.folio_COMMIT f)) :
    (s.on (R.folio_COMMIT_STATUS_ARMED f) = true → exec (.commitArm f periods) s = .next s) ∧
    (s.on (R.folio_COMMIT_STATUS_ARMED f) = false → s.rasterRuns f = true → exec (.commitArm f periods) s = .next (s.armed f periods)) ∧
    (s.on (R.folio_COMMIT_STATUS_ARMED f) = false → s.rasterRuns f = false →
      exec (.commitArm f periods) s = .next ((s.armed f periods).commitPoint f)) ∧
    (s.on (R.folio_COMMIT_STATUS_ARMED f) = true → exec (.commitDisarm f) s = .next (s.disarmed f)) ∧
    (s.on (R.folio_COMMIT_STATUS_ARMED f) = false → exec (.commitDisarm f) s = .next s) := by
  refine ⟨fun h => ?_, fun h hruns => ?_, fun h hruns => ?_, fun h => ?_, fun h => ?_⟩
  · rw [exec_commitArm_answers ha, State.commitArm_again periods h]
  · rw [exec_commitArm_answers ha, State.commitArm_first periods h, if_pos hruns]
  · rw [exec_commitArm_answers ha, State.commitArm_first periods h, hruns, if_neg (by decide)]
  · rw [exec_commitDisarm_answers ha, State.commitClear_armed h]
  · rw [exec_commitDisarm_answers ha, State.commitClear_unarmed h]

/-- Settles O30: each command by the branch it takes, the staged registers by their half of the Folio's page, and the words outside the
pages by there being no Folio that shows them. -/
theorem folioCommits : Obligations.FolioCommits := by
  refine ⟨fun s f periods ha => ?_, commitRevert_spec, fun s f => ?_, fun s hnone =>
    ⟨fun i w v ha => spec_of_wr (exec_surfDescriptorWrite_unused hnone i w v ha),
      fun i v ha => spec_of_wr (exec_fenceWrite_unused hnone i v ha),
      fun f w v ha => spec_of_wr (exec_coeffTableWrite_unused hnone f w v ha)⟩⟩
  · obtain ⟨hagain, hruns, hstopped, hdisarm, hunarmed⟩ := commitCommands_spec s f periods ha
    obtain ⟨harmed, hheld, hlast, hflag⟩ := s.disarmed_fields f
    exact ⟨hagain, hruns, hstopped, fun h => ⟨_, hdisarm h, harmed, hheld, hlast, hflag, s.disarmed_onlyRegs f, rfl⟩, hunarmed,
      fun hold => ⟨_, exec_stageHoldWrite_answers ha hold, s.on_stageHold f hold,
        (OnlyRegs.refl s _).put (R.folio_COMMIT_STAGE_HOLD f) _ List.mem_cons_self, rfl⟩⟩
  · refine ⟨State.commitPoint_of_not_armed, State.commitPoint_held_reads, fun harmed hhold =>
      ⟨State.commitPoint_ready harmed hhold, fun hunready hpolicy => ?_⟩⟩
    obtain ⟨hstill, hflag, hframe⟩ := s.deferred_reads f
    rw [State.commitPoint_deferred harmed hhold hunready hpolicy]
    exact ⟨hstill.trans harmed, hflag, hframe⟩

end Sys2Proof.Machine
end

section
/-!
PROOFS. The seal commands: what one does by the outcome of its checks and of its own part (07_folio_commit_seal.md R222 to R225;
13_strongroom.md R390, R397).
-/
namespace Sys2Proof.Machine
open Sys2Proof Safety

/-! ### What the commands store, and where a surface comes from -/

/-- The seal store of the command's Folio with an APPLY or a CLEAR and its CMD_SEQ (R225). -/
def State.sealStored (s : State) (b : List Byte) : State :=
  s.setSealStore (leAt b 6 1) { s.sealStore (leAt b 6 1) with seq := leAt b 8 4, apply := b.take 128 }

/-- The seal store of the command's Folio with a LOAD_SURFACE in its surface's place and its CMD_SEQ (R225). -/
def State.loadStored (s : State) (b : List Byte) : State :=
  s.setSealStore (leAt b 6 1) { s.sealStore (leAt b 6 1) with
    seq := leAt b 8 4, loads := Sparse.insert (Sparse.erase (s.sealStore (leAt b 6 1)).loads (leAt b 32 1)) (leAt b 32 1) (b.take 128) }

/-- The bytes of a LOAD_SURFACE's SOURCE: the boot flash, or what host memory gave under Bus Master Enable (R223). -/
def State.loadSource (s : State) (b : List Byte) (data : Option (List Byte)) : Option (List Byte) :=
  if leAt b 44 1 = 1 then some (s.flashSource b) else if s.on R.hostif_LINK_BME then data else none

/-- A LOAD_SURFACE's own part, once its checks have passed. -/
def State.sealLoad (s : State) (b : List Byte) (data : Option (List Byte)) (storeOk : Bool) : Nat × State :=
  match s.loadSource b data, s.sealRec (leAt b 6 1) with
  | none, _ => (11, s)
  | _, none => (7, s)
  | some d, some r =>
    let (good, s) := s.loadSurface (leAt b 6 1) r b d
    if good = false then (12, s) else if storeOk = false then (21, s) else (1, s.loadStored b)

theorem exec_sealApply_eq (storeOk : Bool) (s : State) :
    exec (.sealApply storeOk) s = .next (s.sealCommand 1 fun s b => s.sealApply b storeOk) := rfl

theorem exec_sealClear_eq (storeOk : Bool) (s : State) :
    exec (.sealClear storeOk) s = .next (s.sealCommand 3 fun s b => s.sealApply b storeOk) := rfl

theorem exec_sealLoadSurface_eq (data : Option (List Byte)) (storeOk : Bool) (s : State) :
    exec (.sealLoadSurface data storeOk) s = .next (s.sealCommand 2 fun s b => s.sealLoad b data storeOk) := rfl

section
variable {s : State} {b d : List Byte} {data : Option (List Byte)} {ok : Bool} {r : SealRec}

theorem State.sealApply_applied (hop : leAt b 5 1 = 1) : s.sealApply b true =
    (0, (s.sealStored b).modFolio (leAt b 6 1) fun x => { x with sealDue := some (b.take 128) }) := by
  rw [State.sealApply, if_neg (by decide), hop, if_neg (by decide)]
  rfl

theorem State.sealApply_cleared (hop : leAt b 5 1 = 3) : s.sealApply b true =
    (0, (s.sealStored b).modFolio (leAt b 6 1) fun x => { x with sealDue := some (List.replicate 128 0) }) := by
  rw [State.sealApply, if_neg (by decide), hop, if_pos rfl]
  rfl

theorem State.sealLoad_unread (h : s.loadSource b data = none) : s.sealLoad b data ok = (11, s) := by
  rw [State.sealLoad, h]

theorem State.sealLoad_loaded (hr : s.sealRec (leAt b 6 1) = some r) (hsrc : s.loadSource b data = some d)
    (hgood : (s.loadSurface (leAt b 6 1) r b d).1 = true) :
    s.sealLoad b data true = (1, (s.loadSurface (leAt b 6 1) r b d).2.loadStored b) := by
  simp [State.sealLoad, hr, hsrc, hgood]

theorem State.sealLoad_mismatch (hr : s.sealRec (leAt b 6 1) = some r) (hsrc : s.loadSource b data = some d)
    (hbad : (s.loadSurface (leAt b 6 1) r b d).1 = false) :
    s.sealLoad b data ok = (12, (s.loadSurface (leAt b 6 1) r b d).2) := by
  simp [State.sealLoad, hr, hsrc, hbad]

end

/-! ### How a command of the Strongroom ends -/

/-- The codes of the checks are failures: none is OK or LOADED (R224). -/
theorem State.sealCheck_code {s : State} {b : List Byte} {op c : Nat} (h : s.sealCheck b op = some c) : 1 < c := by
  revert h
  fun_cases State.sealCheck s b op <;> intro h <;> cases h <;> decide

/-- A seal command that passes has its first 128 bytes measured in MEAS3 (13_strongroom.md R397). -/
def State.sealPassed (s : State) (b : List Byte) (c : Nat) : State := (s.extend 3 (sha384 (b.take 128))).strongDone c []

/-- A seal command that fails raises SEAL_REFUSED of its Folio, where that Folio is in the image (R224). -/
def State.sealFailed (s : State) (b : List Byte) (c : Nat) : State :=
  (s.raiseIf (s.fabric.now.folios.any fun r => r.folio == leAt b 6 1) (Flag.folio_SEAL_SEAL_REFUSED (leAt b 6 1))).strongDone c []

section
variable {s : State} (ha : Answers s Reg.strongroom_RESULT) (hd : s.done Reg.strongroom_RESULT = true)
include ha hd

/-- A command offered to a Strongroom that answers with its result free is taken. -/
theorem State.strongCommand_free (f : State → Nat × List Byte × State) : s.strongCommand f =
    (f (s.accept Reg.strongroom_RESULT)).2.2.strongDone (f (s.accept Reg.strongroom_RESULT)).1 (f (s.accept Reg.strongroom_RESULT)).2.1 :=
  s.offer_free _ _ _ ha.running ha.live hd

variable {u : State} {b : List Byte} (hu : s.accept Reg.strongroom_RESULT = u) (hb : u.cmdBuf 82 = b)
include hu hb

theorem State.sealCommand_refused {op c : Nat} (f : State → List Byte → Nat × State) (hc : u.sealCheck b op = some c) :
    s.sealCommand op f = u.sealFailed b c := by
  have hfail : ¬ c ≤ 1 := Nat.not_le.2 (State.sealCheck_code hc)
  simp [State.sealCommand, State.strongCommand_free ha hd, hu, hb, hc, hfail, State.sealFailed]

theorem State.sealCommand_passed {op c : Nat} {f : State → List Byte → Nat × State} {w : State}
    (hc : u.sealCheck b op = none) (hf : f u b = (c, w)) (hpass : c ≤ 1) :
    s.sealCommand op f = w.sealPassed b c := by
  simp [State.sealCommand, State.strongCommand_free ha hd, hu, hb, hc, hf, hpass, State.sealPassed]

theorem State.sealCommand_failed {op c : Nat} {f : State → List Byte → Nat × State} {w : State}
    (hc : u.sealCheck b op = none) (hf : f u b = (c, w)) (hfail : 1 < c) :
    s.sealCommand op f = w.sealFailed b c := by
  simp [State.sealCommand, State.strongCommand_free ha hd, hu, hb, hc, hf, Nat.not_le.2 hfail, State.sealFailed]

/-! ### Each command's own part -/

/-- An APPLY, LOAD_SURFACE or CLEAR of which a check fails ends with its code, whatever it would have stored or read. -/
theorem exec_seal_refused (c : Nat) (ok : Bool) : ∀ p ∈ [(Instr.sealApply ok, 1), (.sealLoadSurface none ok, 2),
    (.sealLoadSurface (some []) ok, 2), (.sealClear ok, 3)],
    u.sealCheck b p.2 = some c → exec p.1 s = .next (u.sealFailed b c) := by
  intro p hp hc
  simp only [List.mem_cons, List.not_mem_nil, or_false] at hp
  rcases hp with rfl | rfl | rfl | rfl
  · rw [exec_sealApply_eq, State.sealCommand_refused ha hd hu hb _ hc]
  · rw [exec_sealLoadSurface_eq, State.sealCommand_refused ha hd hu hb _ hc]
  · rw [exec_sealLoadSurface_eq, State.sealCommand_refused ha hd hu hb _ hc]
  · rw [exec_sealClear_eq, State.sealCommand_refused ha hd hu hb _ hc]

/-- An APPLY that could not be stored fails with code 21. -/
theorem exec_sealApply_unstored (hc : u.sealCheck b 1 = none) :
    exec (.sealApply false) s = .next (u.sealFailed b 21) := by
  rw [exec_sealApply_eq, State.sealCommand_failed ha hd hu hb hc (if_pos rfl) (by decide)]

/-- An APPLY is stored with its CMD_SEQ and waits for its Folio's switching point (R225). -/
theorem exec_sealApply_stored (hc : u.sealCheck b 1 = none) (hop : leAt b 5 1 = 1) : exec (.sealApply true) s =
    .next (((u.sealStored b).modFolio (leAt b 6 1) fun x => { x with sealDue := some (b.take 128) }).sealPassed b 0) := by
  rw [exec_sealApply_eq, State.sealCommand_passed ha hd hu hb hc (State.sealApply_applied hop) (Nat.zero_le 1)]

/-- A CLEAR waits for the switching point as settings of all zeros (R225). -/
theorem exec_sealClear_stored (hc : u.sealCheck b 3 = none) (hop : leAt b 5 1 = 3) : exec (.sealClear true) s =
    .next (((u.sealStored b).modFolio (leAt b 6 1) fun x => { x with sealDue := some (List.replicate 128 0) }).sealPassed b 0) := by
  rw [exec_sealClear_eq, State.sealCommand_passed ha hd hu hb hc (State.sealApply_cleared hop) (Nat.zero_le 1)]

/-- A source in host memory that was not read, as none is without Bus Master Enable, fails with code 11 (12_host_control.md R345). -/
theorem exec_sealLoadSurface_unread {data : Option (List Byte)} (hc : u.sealCheck b 2 = none)
    (hsrc : leAt b 44 1 ≠ 1) (hread : data = none ∨ u.on R.hostif_LINK_BME = false) :
    exec (.sealLoadSurface data true) s = .next (u.sealFailed b 11) := by
  have hnone : u.loadSource b data = none := by
    rcases hread with rfl | hbme
    · simp [State.loadSource, hsrc]
    · simp [State.loadSource, hsrc, hbme]
  rw [exec_sealLoadSurface_eq, State.sealCommand_failed ha hd hu hb hc (State.sealLoad_unread hnone) (by decide)]

section
variable {r : SealRec} {d : List Byte} {data : Option (List Byte)} (hc : u.sealCheck b 2 = none)
  (hr : u.sealRec (leAt b 6 1) = some r) (hsrc : u.loadSource b data = some d)
include hc hr hsrc

/-- A surface whose copy in stream memory has the hash of the command is stored as loaded. -/
theorem exec_sealLoadSurface_loaded (hgood : (u.loadSurface (leAt b 6 1) r b d).1 = true) :
    exec (.sealLoadSurface data true) s = .next (((u.loadSurface (leAt b 6 1) r b d).2.loadStored b).sealPassed b 1) := by
  rw [exec_sealLoadSurface_eq, State.sealCommand_passed ha hd hu hb hc (State.sealLoad_loaded hr hsrc hgood) (Nat.le_refl 1)]

/-- A copy that has another hash leaves the surface not loaded and fails with code 12. -/
theorem exec_sealLoadSurface_mismatch (hbad : (u.loadSurface (leAt b 6 1) r b d).1 = false) :
    exec (.sealLoadSurface data true) s = .next ((u.loadSurface (leAt b 6 1) r b d).2.sealFailed b 12) := by
  rw [exec_sealLoadSurface_eq, State.sealCommand_failed ha hd hu hb hc (State.sealLoad_mismatch hr hsrc hbad) (by decide)]

end

end

/-- Settles O48: each command by what its checks and its own part give, a failure ending in `sealFailed` and a success in `sealPassed`. -/
theorem sealCommands : Obligations.SealCommands := by
  intro s ha hd u b f refused stored
  have hu : s.accept Reg.strongroom_RESULT = u := rfl
  have hb : u.cmdBuf 82 = b := rfl
  refine ⟨exec_sealApply_stored ha hd hu hb, exec_sealClear_stored ha hd hu hb, exec_seal_refused ha hd hu hb,
    exec_sealApply_unstored ha hd hu hb, fun _ => exec_sealLoadSurface_unread ha hd hu hb, fun r d data hc hr hfrom => ?_⟩
  have hsrc : u.loadSource b data = some d := by
    obtain ⟨hflash, hbytes⟩ | ⟨hhost, hbme, hdata⟩ := hfrom
    · rw [State.loadSource, if_pos hflash, hbytes, State.flashSource]
    · rw [State.loadSource, if_neg hhost, if_pos hbme, hdata]
  intro w x
  refine ⟨exec_sealLoadSurface_loaded ha hd hu hb hc hr hsrc, fun hbad => ?_⟩
  rw [exec_sealLoadSurface_mismatch ha hd hu hb hc hr hsrc hbad, State.sealFailed]

end Sys2Proof.Machine
end

section
/-!
PROOFS. The lines of an output raster: what begins the next line, what an SDI port sends while no raster drives it, and a line of
vertical blanking without ports (08_raster_out.md R231, R237, R243; 04_sdi_ports.md R135, R136).
-/
namespace Sys2Proof.Machine
open Sys2Proof Safety

/-! ### The next line of a raster that runs (R231) -/

section
variable {s : State} {f : Fin 64} (frac : BitVec 16) (late lateB : Option Nat) (margins : List (Nat × Int)) (room : Nat)

/-- With no jump pending, the line that ends decides between the next line and the end of the frame. -/
theorem outputLine_running (hup : s.folioUp f = true) (hruns : s.rasterRuns f = true) (hwait : (s.folio f).waiting = false)
    (hnext : (s.folio f).nextLine = none) :
    exec (.outputLine f frac late lateB margins room) s =
      if (s.timing f).vTotal ≤ s.get (R.folio_RASTER_STATUS_LINE f) then .next (s.endFrame f frac.toNat room)
      else .next (s.beginLine f (s.get (R.folio_RASTER_STATUS_LINE f) + 1) frac.toNat late lateB margins room) := by
  show execOutputLine f frac late lateB margins room s = _
  simp only [execOutputLine, hup, hruns, hwait, hnext, and_self, if_true]

/-- While no raster drives them the SDI ports go on in black (R237). -/
theorem outputLine_stopped (hruns : s.rasterRuns f = false) :
    exec (.outputLine f frac late lateB margins room) s = .next (s.each (s.sdiPorts f) fun s n => s.sdiBlack f n) :=
  if_neg fun ⟨_, h, _⟩ => absurd (hruns.symm.trans h) (by decide)

end

/-! ### Black lines of an SDI port (04_sdi_ports.md R135, R136) -/

/-- The payload ID packet of a line, where the raster has one there. -/
def State.pidPackets (s : State) (n line : Nat) (t : Timing) : List (List Nat) :=
  if (pidLines t).contains line then [ancPacketWords 0x41 0x01 ((s.sdiPid n).map ancWord)] else []

/-- A transmitter that sends black sends a line with its payload ID and no audio, whatever is composed. -/
theorem State.sendSdi_of_txBlack {s : State} {n : Nat} (f line room : Nat) (t : Timing) (codes : Option (List Nat))
    (hmode : s.sdi n = .txBlack) :
    s.sendSdi f n line room t codes = ((s.modPort n fun p => { p with sdiLine := line }).skipSamples n).emit
      (.sdi n line (if (t.row line).isSome then codes.getD (blackCodes t.hAct) else []) (s.pidPackets n line t) {}) := by
  have hmode' : (s.modPort n fun p => { p with sdiLine := line }).sdi n = .txBlack := hmode
  have hnot : (SdiMode.txBlack == SdiMode.txRun) = false := rfl
  simp only [State.sendSdi, hmode, hmode', hnot, Bool.and_false, Bool.false_eq_true, if_false]
  rfl

/-- The next line of the format that a port has sent is the line after the last, or line 1 after the last of its raster. -/
theorem State.sdiBlack_of_sent {s : State} {n i : Nat} {r : SdiRaster} (f : Nat) (hmode : s.sdi n = .txBlack)
    (hsent : (s.port n).sdiSent = some i) (hrow : sdiRasters[i]? = some r) :
    s.sdiBlack f n = s.sendSdi f n (if r.vTotal ≤ (s.port n).sdiLine then 1 else (s.port n).sdiLine + 1) 0
      (r.timing (s.on (R.port_SDI_FMT_PSF n))) none := by
  have hformat : (s.port n).sdiSent.bind (fun i => sdiRasters[i]?) = some r := by rw [hsent]; exact hrow
  simp only [State.sdiBlack, hmode, hformat]

theorem State.port_modPort_self (s : State) (n : Nat) (g : PortState → PortState) : (s.modPort n g).port n = g (s.port n) :=
  Sparse.get_set_self _ _ _ _

/-- A black line is sent, and changes nothing but the port's line and the audio samples that are no longer due on it. -/
theorem outputLine_black {s : State} {f : Fin 64} {n i : Nat} {r : SdiRaster} (frac : BitVec 16) (late lateB : Option Nat)
    (margins : List (Nat × Int)) (room : Nat) (hruns : s.rasterRuns f = false) (hport : s.sdiPorts f = [n]) (hmode : s.sdi n = .txBlack)
    (hsent : (s.port n).sdiSent = some i) (hrow : sdiRasters[i]? = some r) :
    let t := r.timing (s.on (R.port_SDI_FMT_PSF n))
    let line := if r.vTotal ≤ (s.port n).sdiLine then 1 else (s.port n).sdiLine + 1
    ∃ u, exec (.outputLine f frac late lateB margins room) s = .next u ∧ (u.port n).sdiLine = line ∧
      u.out = s.out ++ [.sdi n line (if (t.row line).isSome then blackCodes r.w else []) (s.pidPackets n line t) {}] ∧
      u = { s with ports := u.ports, audio := u.audio, out := u.out } := by
  intro t line
  have hx := outputLine_stopped frac late lateB margins room hruns
  rw [hport, State.each, List.foldl_cons, List.foldl_nil, State.sdiBlack_of_sent f hmode hsent hrow,
    State.sendSdi_of_txBlack f _ _ _ _ hmode] at hx
  exact ⟨_, hx, congrArg PortState.sdiLine (s.port_modPort_self n fun p => { p with sdiLine := line }), rfl, rfl⟩

/-! ### A line of vertical blanking (R231, R243) -/

/-- A line before the first active one carries no row. -/
theorem Timing.row_of_before_first {t : Timing} {line : Nat} (hinter : t.inter = false) (hline : line < t.first) : t.row line = none := by
  rw [Timing.row, hinter, if_neg (by decide), if_neg (by omega)]

/-- Nor is it the first after the last active one. -/
theorem Timing.blankStarts_of_before_first {t : Timing} {prev line : Nat} (hinter : t.inter = false) (hline : line < t.first)
    (hprev : line = prev + 1) (htotal : line ≤ t.vTotal) : t.blankStarts prev line = false := by
  have hnext : line ≠ t.first + t.vAct := by omega
  have hwrap : ¬ (line = 1 ∧ prev = t.vTotal) := by omega
  simp only [Timing.blankStarts, hinter, Bool.false_eq_true, if_false, Bool.or_eq_false_iff, Bool.and_eq_false_imp, beq_eq_false_iff_ne,
    ne_eq, Bool.and_eq_true, beq_iff_eq, decide_eq_true_eq]
  exact ⟨hnext, fun ⟨_, h1⟩ hp => hwrap ⟨h1, hp⟩⟩

/-- LINE shows a line, and FIELD2 that it is of the first field. -/
def State.showLine (s : State) (f line : Nat) : State :=
  (s.put (R.folio_RASTER_STATUS_LINE f) line).put (R.folio_RASTER_STATUS_FIELD2 f) 0

theorem State.showLine_onlyRegs (s : State) (f line : Nat) : OnlyRegs s (s.showLine f line) [Reg.folio_RASTER_STATUS f] :=
  ((OnlyRegs.refl s _).put (R.folio_RASTER_STATUS_LINE f) line List.mem_cons_self).put (R.folio_RASTER_STATUS_FIELD2 f) 0 List.mem_cons_self

theorem State.rd_showLine_ne (s : State) (f line : Nat) {a : Nat} (ha : a ≠ Reg.folio_RASTER_STATUS f) :
    (s.showLine f line).rd a = s.rd a := s.showLine_onlyRegs f line a (by simpa using ha)

/-- STATE, LINE and FIELD2 lie apart in RASTER_STATUS. -/
theorem rasterStatus_fields (f : Fin 64) : (R.folio_RASTER_STATUS_LINE f).Ok ∧ (R.folio_RASTER_STATUS_FIELD2 f).Ok ∧
    (R.folio_RASTER_STATUS_LINE f).Apart (R.folio_RASTER_STATUS_FIELD2 f) ∧
    (R.folio_RASTER_STATUS_STATE f).Apart (R.folio_RASTER_STATUS_LINE f) ∧
    (R.folio_RASTER_STATUS_STATE f).Apart (R.folio_RASTER_STATUS_FIELD2 f) := by decide +revert

theorem State.showLine_fields (s : State) (f : Fin 64) {line : Nat} (hline : line < 2 ^ 13) :
    (s.showLine f line).get (R.folio_RASTER_STATUS_LINE f) = line ∧ (s.showLine f line).get (R.folio_RASTER_STATUS_FIELD2 f) = 0 ∧
      (s.showLine f line).raster f = s.raster f := by
  obtain ⟨hlineOk, hfieldOk, hlineApart, hstateLine, hstateField⟩ := rasterStatus_fields f
  refine ⟨?_, ?_, congrArg RasterMode.ofCode ?_⟩
  · rw [State.showLine, State.get_put_apart _ _ _ _ hlineApart, State.get_put_self _ _ _ hlineOk]
    exact Nat.mod_eq_of_lt hline
  · rw [State.showLine, State.get_put_self _ _ _ hfieldOk, Nat.zero_mod]
  · rw [State.showLine, State.get_put_apart _ _ _ _ hstateField, State.get_put_apart _ _ _ _ hstateLine]

/-- A line with no event at its position 0 only shows (R243). -/
theorem State.lineEvents_quiet {s : State} {f line : Nat} (hfield : (s.timing f).inField2 line = false)
    (hblank : (s.timing f).blankStarts (s.get (R.folio_RASTER_STATUS_LINE f)) line = false)
    (hmatch : s.get (R.folio_LINE_MATCH_LINE f) ≠ line) : s.lineEvents f line = s.showLine f line := by
  have hne : Reg.folio_LINE_MATCH f ≠ Reg.folio_RASTER_STATUS f := by simp [Reg.folio_LINE_MATCH, Reg.folio_RASTER_STATUS]
  have hsame : (s.showLine f line).get (R.folio_LINE_MATCH_LINE f) = s.get (R.folio_LINE_MATCH_LINE f) :=
    State.get_congr (s.rd_showLine_ne f line hne)
  have hunmatched : ((s.showLine f line).get (R.folio_LINE_MATCH_LINE f) == line) = false := by
    rw [hsame]
    exact beq_false_of_ne hmatch
  rw [State.showLine] at hunmatched
  simp only [State.lineEvents, hfield, hblank, State.raiseIf, Bool.false_eq_true, if_false, hunmatched]
  rfl

/-- Which ports a Folio drives, and in which mode, does not follow its lines. -/
theorem State.ports_showLine (s : State) (f : Fin 64) (line : Nat) :
    (s.showLine f line).sdiPorts f = s.sdiPorts f ∧ (s.showLine f line).rasynPorts f = s.rasynPorts f := by
  have hne : Reg.folio_CFG f ≠ Reg.folio_RASTER_STATUS f := by simp [Reg.folio_CFG, Reg.folio_RASTER_STATUS]
  have hcfg := s.rd_showLine_ne f line hne
  have hports : (s.showLine f line).folioPorts f = s.folioPorts f := by
    rw [State.folioPorts, State.folioPorts, State.get_congr (f := R.folio_CFG_PORT_A f) hcfg,
      State.get_congr (f := R.folio_CFG_PORT_B f) hcfg]
  have hmode {n : Nat} (hn : n ∈ s.folioPorts f) : (s.showLine f line).portMode n = s.portMode n := by
    have hlt : n < 96 := of_decide_eq_true (List.mem_filter.1 hn).2
    refine State.get_congr (f := R.port_PORT_CFG_MODE n) (s.rd_showLine_ne f line ?_)
    simp only [R.port_PORT_CFG_MODE, Reg.port_PORT_CFG, Reg.folio_RASTER_STATUS]
    omega
  constructor
  · rw [State.sdiPorts, State.sdiPorts, hports]
    exact List.filter_congr fun n hn => by rw [State.sdiOut, State.sdiOut, hmode hn]
  · rw [State.rasynPorts, State.rasynPorts, hports]
    exact List.filter_congr fun n hn => by rw [State.rasynOut, State.rasynOut, hmode hn]

/-- Without ports a line with no composed pixels goes nowhere. -/
theorem State.plainLine_of_no_ports {s : State} {f : Nat} (line room : Nat) (hsdi : s.sdiPorts f = []) (hrasyn : s.rasynPorts f = []) :
    s.plainLine f line room = s := by
  simp only [State.plainLine, State.each, hsdi, List.foldl_nil, hrasyn]

/-- The tolerance that is reported after a line goes to LTR_STATUS alone (R250). -/
theorem State.reportLtr_eq_put (s : State) (f line : Nat) : ∃ v, s.reportLtr f line = s.put (R.folio_LTR_STATUS_TOL f) v := ⟨_, rfl⟩

/-- A line of vertical blanking at which nothing is raised, on a Folio without ports. -/
theorem State.beginLine_blank {s : State} {f : Fin 64} {line : Nat} (frac : Nat) (hsdi : s.sdiPorts f = []) (hrasyn : s.rasynPorts f = [])
    (hinter : (s.timing f).inter = false) (hprev : line = s.get (R.folio_RASTER_STATUS_LINE f) + 1) (htotal : line ≤ (s.timing f).vTotal)
    (hfirst : line < (s.timing f).first) (hmatch : s.get (R.folio_LINE_MATCH_LINE f) ≠ line) :
    s.beginLine f line frac none none [] 0 =
      ((s.modFolio f fun x => { x with nextLine := none }).showLine f line).reportLtr f line := by
  let u := s.modFolio f fun x => { x with nextLine := none }
  have hfield : (u.timing f).inField2 line = false := by
    show (s.timing f).inField2 line = false
    rw [Timing.inField2, hinter, Bool.false_and]
  have hevents : u.lineEvents f line = u.showLine f line :=
    State.lineEvents_quiet hfield (Timing.blankStarts_of_before_first hinter hfirst hprev htotal) hmatch
  have hplain : (u.showLine f line).plainLine f line 0 = u.showLine f line := by
    obtain ⟨hs, hr⟩ := u.ports_showLine f line
    exact State.plainLine_of_no_ports line 0 (hs.trans hsdi) (hr.trans hrasyn)
  simp only [State.beginLine, hinter, Bool.false_and, Bool.false_eq_true, if_false, Timing.row_of_before_first hinter hfirst]
  rw [hevents, hplain]

/-- What such a line leaves of a state is written to registers and to the Folio. -/
theorem State.put_showLine_modFolio_frame (s : State) (f line v : Nat) (r : Fld) (g : FolioState → FolioState) :
    let t := ((s.modFolio f g).showLine f line).put r v
    t = { s with regs := t.regs, folios := t.folios } := by
  simp only [State.showLine, State.put, State.wr, State.modFolio]

/-- Such a line shows in RASTER_STATUS, and beside the tolerance reported nothing else changes. -/
theorem outputLine_blank {s : State} {f : Fin 64} (frac : BitVec 16) (hup : s.folioUp f = true) (hruns : s.rasterRuns f = true)
    (hwait : (s.folio f).waiting = false) (hnext : (s.folio f).nextLine = none) (hsdi : s.sdiPorts f = []) (hrasyn : s.rasynPorts f = [])
    (hinter : (s.timing f).inter = false) {line : Nat} (hprev : line = s.get (R.folio_RASTER_STATUS_LINE f) + 1)
    (htotal : line ≤ (s.timing f).vTotal) (hfirst : line < (s.timing f).first) (hmatch : s.get (R.folio_LINE_MATCH_LINE f) ≠ line)
    (hwidth : line < 2 ^ 12) :
    ∃ t, exec (.outputLine f frac none none [] 0) s = .next t ∧ t.get (R.folio_RASTER_STATUS_LINE f) = line ∧
      t.get (R.folio_RASTER_STATUS_FIELD2 f) = 0 ∧ t.raster f = s.raster f ∧
      OnlyRegs s t [Reg.folio_RASTER_STATUS f, (R.folio_LTR_STATUS_TOL f).addr] ∧ t = { s with regs := t.regs, folios := t.folios } := by
  let u := s.modFolio f fun x => { x with nextLine := none }
  obtain ⟨v, hltr⟩ := (u.showLine f line).reportLtr_eq_put f line
  have hx := outputLine_running frac none none [] 0 hup hruns hwait hnext
  rw [if_neg (by omega), ← hprev, State.beginLine_blank _ hsdi hrasyn hinter hprev htotal hfirst hmatch, hltr] at hx
  have hne : Reg.folio_RASTER_STATUS f ≠ (R.folio_LTR_STATUS_TOL f).addr := by
    simp [Reg.folio_RASTER_STATUS, R.folio_LTR_STATUS_TOL, Reg.folio_LTR_STATUS]
  have hkept := (u.showLine f line).rd_put_ne (R.folio_LTR_STATUS_TOL f) v hne
  obtain ⟨hline, hfield, hraster⟩ := u.showLine_fields f (line := line) (by omega)
  have hline' := (State.get_congr (f := R.folio_RASTER_STATUS_LINE f) hkept).trans hline
  have hfield' := (State.get_congr (f := R.folio_RASTER_STATUS_FIELD2 f) hkept).trans hfield
  have hraster' : ((u.showLine f line).put (R.folio_LTR_STATUS_TOL f) v).raster f = s.raster f :=
    (congrArg RasterMode.ofCode (State.get_congr (f := R.folio_RASTER_STATUS_STATE f) hkept)).trans hraster
  refine ⟨_, hx, hline', hfield', hraster', fun a ha => ?_, s.put_showLine_modFolio_frame f line v _ _⟩
  rw [List.mem_cons, List.mem_singleton, not_or] at ha
  exact (State.rd_put_ne _ _ _ ha.2).trans (u.rd_showLine_ne _ _ ha.1)

/-- Settles O32: a raster that runs by the line that ends, one that does not by the black line of its port, and the blanking line by what
of its beginning has something to do. -/
theorem outputLines : Obligations.OutputLines := by
  refine ⟨fun s f frac late lateB margins room hup hruns hwait hnext => ?_,
    fun s f frac late lateB margins room hruns => ⟨fun hports => ?_, ?_⟩, ?_⟩
  · rw [outputLine_running frac late lateB margins room hup hruns hwait hnext]
    exact ⟨fun hlt => if_neg (Nat.not_le.2 hlt), fun hle => if_pos hle⟩
  · rw [outputLine_stopped frac late lateB margins room hruns, hports]
    rfl
  · exact fun n i r => outputLine_black frac late lateB margins room hruns
  · exact fun s f frac hup hruns hwait hnext hsdi hrasyn hinter htotal hfirst hmatch hwidth =>
      outputLine_blank frac hup hruns hwait hnext hsdi hrasyn hinter rfl htotal hfirst hmatch hwidth

end Sys2Proof.Machine
end

section
/-!
PROOFS. Display-timed output and hold: the reports of a display, the line that answers one or its absence, and the hold of a raster
whose ports have acknowledged (08_raster_out.md R245 to R248).
-/
namespace Sys2Proof.Machine
open Sys2Proof Safety

/-! ### Bytes of a packet -/

theorem leNat_lt (bs : List Byte) : leNat bs < 256 ^ bs.length := by
  induction bs with
  | nil => decide
  | cons b bs ih =>
    have hb := b.isLt
    rw [leNat, List.foldr_cons, ← leNat, List.length_cons, Nat.pow_succ]
    omega

/-- A little-endian field of `n` bytes. -/
theorem leAt_lt (bs : List Byte) (o n : Nat) : leAt bs o n < 256 ^ n := by
  have h := leNat_lt (slice bs o n)
  rwa [slice_length] at h

/-- A packet taken leaves its port with the packets after it. -/
theorem State.takePacket_eq_some {s u : State} {n : Nat} {p : Packet → Bool} {k : Packet} (h : s.takePacket n p = some (k, u)) :
    ∃ rest, u = s.modPort n fun q => { q with rx := rest } := by
  revert h
  unfold State.takePacket
  split
  · exact fun h => nomatch h
  · next k' rest _ =>
    split
    · exact fun h => ⟨rest, (congrArg Prod.snd (Option.some.inj h)).symm⟩
    · exact fun h => nomatch h

/-! ### Reports and the lines that they begin (R246, R247) -/

/-- A report of the Folio's first port, on a Rasyn output, shows its frame and is kept with its instant. -/
theorem teReport_first_port {s u : State} {p : Fin 96} {f : Fin 64} (ns : Int) {k : Packet}
    (htake : s.takePacket p (fun k => k.typ == 7 && leAt k.payload 0 1 == 2) = some (k, u)) (hfolio : u.folioOfPort p = some f.val)
    (hfirst : u.get (R.folio_CFG_PORT_A f) = p) (hout : u.rasynOut p = true) (hlen : k.payload.length = 24) :
    exec (.teReport p ns) s = .next ((u.put (R.folio_TE_FRAME f) (leAt k.payload 4 4)).modFolio f fun x =>
      { x with report := true, teLost := false, teAt := ns - leAt k.payload 16 4 - u.get (R.folio_TE_CFG_CABLE_NS f) }) := by
  show execTeReport p ns s = _
  simp only [execTeReport, htake, hfolio, hfirst, hout, hlen, and_self, if_true]

/-- Beside them only the packet leaves its port. -/
theorem teReport_spec {s u : State} {p : Fin 96} {f : Fin 64} (ns : Int) {k : Packet}
    (htake : s.takePacket p (fun k => k.typ == 7 && leAt k.payload 0 1 == 2) = some (k, u)) (hfolio : u.folioOfPort p = some f.val)
    (hfirst : u.get (R.folio_CFG_PORT_A f) = p) (hout : u.rasynOut p = true) (hlen : k.payload.length = 24) :
    ∃ t, exec (.teReport p ns) s = .next t ∧ t.get (R.folio_TE_FRAME f) = leAt k.payload 4 4 ∧ (t.folio f).report = true ∧
      (t.folio f).teAt = ns - leAt k.payload 16 4 - s.get (R.folio_TE_CFG_CABLE_NS f) ∧
      OnlyRegs s t [(R.folio_TE_FRAME f).addr] ∧ t = { s with regs := t.regs, ports := t.ports, folios := t.folios } := by
  have hx := teReport_first_port ns htake hfolio hfirst hout hlen
  obtain ⟨rest, rfl⟩ := State.takePacket_eq_some htake
  have hok : (R.folio_TE_FRAME f).Ok := ⟨Nat.zero_le _, (by decide : 31 < 32)⟩
  refine ⟨_, hx, ?_, congrArg FolioState.report (State.folio_modFolio_self _ f _),
    congrArg FolioState.teAt (State.folio_modFolio_self _ f _), fun a ha => ?_, rfl⟩
  · rw [State.modFolio_get, State.get_put_self _ _ _ hok]
    exact Nat.mod_eq_of_lt (leAt_lt k.payload 4 4)
  · rw [State.modFolio_rd, State.rd_put_ne _ _ _ (by simpa using ha), State.modPort_rd]

/-- A report in time begins line 1 and ends the misses in a row. -/
theorem teLine1Start_in_time {s : State} {f : Fin 64} {ready : Int} (hup : s.folioUp f = true) (hwait : (s.folio f).waiting = true)
    (hreport : (s.folio f).report = true)
    (htime : (ready : Rat) ≤ ((s.folio f).teAt : Rat) + (s.get (R.folio_TE_CFG_DELAY_LINES f) : Rat) * (s.timing f).lineNs) :
    exec (.teLine1Start f ready) s =
      .next (((s.modFolio f fun x => { x with misses := 0 }).startFrame f).beginLine f 1 0 none none [] 0) := by
  show execTeLine1Start f ready s = _
  simp only [execTeLine1Start, hup, hwait, hreport, and_self, if_true, if_neg (Rat.not_lt.2 htime)]

/-- Without a report a miss is counted, and line 1 begins all the same. -/
theorem teMiss_unreported {s : State} {f : Fin 64} (hup : s.folioUp f = true) (hwait : (s.folio f).waiting = true)
    (hreport : (s.folio f).report = false) :
    let a := (s.bump (R.folio_TE_COUNT_MISS f)).modFolio f fun x => { x with misses := x.misses + 1 }
    let last := decide (max 1 (a.get (R.folio_TE_CFG_TIMEOUT f)) ≤ (s.folio f).misses + 1)
    exec (.teMiss f) s = .next ((((a.raiseIf last (Flag.folio_RASTER_TE_LOST f)).modFolio f fun x => { x with teLost := last }).startFrame
      f).beginLine f 1 0 none none [] 0) :=
  if_pos ⟨hup, hwait, hreport⟩

/-! ### What leaves a register and the Folios alone -/

/-- From `s` to `t` the register at `a` and the hidden state of the Folios stay. -/
structure Leaves (a : Nat) (s t : State) : Prop where
  folios : t.folios = s.folios
  rd : t.rd a = s.rd a

section
variable {a : Nat} {s t u : State}

theorem Leaves.refl (a : Nat) (s : State) : Leaves a s s := ⟨rfl, rfl⟩

theorem Leaves.trans (h : Leaves a s t) (h' : Leaves a t u) : Leaves a s u := ⟨h'.folios.trans h.folios, h'.rd.trans h.rd⟩

theorem Leaves.put (h : Leaves a s t) (r : Fld) (v : Nat) (hr : a ≠ r.addr) : Leaves a s (t.put r v) :=
  h.trans ⟨rfl, t.rd_put_ne r v hr⟩

theorem Leaves.bump (h : Leaves a s t) (r : Fld) (hr : a ≠ r.addr) : Leaves a s (t.bump r) := h.put r _ hr

theorem Leaves.raise (h : Leaves a s t) (g : Flg) (hg : a ≠ g.addr) (hc : a ≠ g.counter.addr) : Leaves a s (t.raise g) :=
  (h.put g.fld 1 hg).bump g.counter hc

theorem Leaves.each {α : Type} {g : State → α → State} (h : ∀ s x, Leaves a s (g s x)) (s : State) (l : List α) :
    Leaves a s (s.each l g) := by
  induction l generalizing s with
  | nil => exact Leaves.refl a s
  | cons x l ih => exact (h s x).trans (ih (g s x))

end

/-! A record of the Blotter (R450 to R458) writes the Blotter's own registers, from 1F0000h on. -/

section
variable {a : Nat} {s t : State} (ha : a < 0x1F0000) (h : Leaves a s t)
include h

theorem Leaves.modAttic (g : AtticState → AtticState) : Leaves a s (t.modAttic g) := h.trans ⟨rfl, rfl⟩

theorem Leaves.modBlot (g : BlotState → BlotState) : Leaves a s (t.modBlot g) := h.trans ⟨rfl, rfl⟩

include ha

theorem Leaves.putHigh (r : Fld) (v : Nat) (hr : 0x1F0000 ≤ r.addr) : Leaves a s (t.put r v) :=
  h.put r v (Nat.ne_of_lt (Nat.lt_of_lt_of_le ha hr))

theorem Leaves.bumpHigh (r : Fld) (hr : 0x1F0000 ≤ r.addr) : Leaves a s (t.bump r) := h.putHigh ha r _ hr

theorem Leaves.raiseHigh (g : Flg) (hg : 0x1F0000 ≤ g.addr) (hc : 0x1F0000 ≤ g.counter.addr) : Leaves a s (t.raise g) :=
  (h.putHigh ha g.fld 1 hg).bumpHigh ha g.counter hc

theorem Leaves.startBank (bank : Nat) : Leaves a s (t.startBank bank) := by
  unfold State.startBank
  split
  · exact h
  · split
    · exact h
    · split
      · exact h
      · exact (h.modAttic _).putHigh ha R.blotter_ATTIC_STATUS_BANK_BUSY _ (by decide)

theorem Leaves.counterWrite (d : DevCounter) (src : AtticSrc) (v : Nat) : Leaves a s (t.counterWrite d src v) :=
  (h.modAttic _).startBank ha _

theorem Leaves.showBlot : Leaves a s t.showBlot :=
  (h.putHigh ha R.blotter_BL_STATUS_VOL_LEVEL _ (by decide)).putHigh ha R.blotter_BL_STATUS_PENDING _ (by decide)

theorem Leaves.dropRecord (code sev : Nat) : Leaves a s (t.dropRecord code sev) := by
  have hfield : 0x1F0000 ≤ (dropField code).addr := by
    unfold dropField
    split
    · simp only [Reg.blotter_DROP]; omega
    · simp only [Reg.blotter_DROP]; omega
  have hdrop := ((h.bumpHigh ha _ hfield).bumpHigh ha R.blotter_DROP_TOTAL (by decide)).raiseHigh ha Flag.blotter_DROP
    (by decide) (by decide)
  unfold State.dropRecord
  dsimp only
  split
  · exact hdrop.bumpHigh ha R.blotter_PERSIST_FAIL (by decide)
  · exact hdrop

theorem Leaves.closeRecord (seq : Nat) : Leaves a s (t.closeRecord seq) := by
  unfold State.closeRecord
  dsimp only
  split
  · exact h
  · refine Leaves.showBlot ha ?_
    split
    · exact ((h.modBlot _).bumpHigh ha R.blotter_PERSIST_FAIL (by decide)).raiseHigh ha Flag.blotter_PERSIST_FAIL (by decide)
        (by decide)
    · exact h.modBlot _

theorem Leaves.acceptRecord (r : BlotRecord) (fold : Bool) : Leaves a s (t.acceptRecord r fold) := by
  have hplaced {t : State} (h : Leaves a s t) (n : Nat) (c : Bool) :
      Leaves a s ((t.put R.blotter_NEWEST_SEQ n).raiseIf c Flag.blotter_CRITICAL) := by
    have hput := h.putHigh ha R.blotter_NEWEST_SEQ n (by decide)
    cases c with
    | false => exact hput
    | true => exact hput.raiseHigh ha Flag.blotter_CRITICAL (by decide) (by decide)
  unfold State.acceptRecord
  dsimp only
  split
  · refine Leaves.showBlot ha (hplaced (Leaves.modBlot ?_ _) _ _)
    split
    · exact (h.modAttic _).counterWrite ha _ _ _
    · exact h
  · refine Leaves.closeRecord ha (hplaced (Leaves.modBlot ?_ _) _ _) _
    split
    · exact (h.modAttic _).counterWrite ha _ _ _
    · exact h

/-- A record that is folded, dropped or placed. -/
theorem Leaves.blotter (code inst : Nat) (data : List Byte) : Leaves a s (t.blotter code inst data) := by
  unfold State.blotter
  dsimp only
  split
  · exact h.modBlot _
  · split
    · exact h.dropRecord ha _ _
    · split
      · exact (h.modBlot _).acceptRecord ha _ _
      · split
        · exact (h.modBlot _).dropRecord ha _ _
        · refine Leaves.acceptRecord ha ?_ _ _
          split
          · exact (h.modBlot _).modBlot _
          · exact ((h.modBlot _).modBlot _).dropRecord ha _ _

end

/-! ### The stop of fetching (R160, R215, R227) -/

/-- A stream's slots show in its STATE and NEWEST_SEQ. -/
theorem Leaves.showStream {a : Nat} {s t : State} (h : Leaves a s t) (ha : a % 64 = 0) (n : Nat) : Leaves a s (t.showStream n) := by
  have hstate : a ≠ Reg.stream_STATE n := by rw [Reg.stream_STATE]; omega
  have hseq : a ≠ Reg.stream_NEWEST_SEQ n := by rw [Reg.stream_NEWEST_SEQ]; omega
  have hslots (v w x y : Nat) : Leaves a s ((((t.put (R.stream_STATE_NEWEST n) v).put (R.stream_STATE_WRITING n) w).put
      (R.stream_STATE_WRITING_VALID n) x).put (R.stream_STATE_PINNED n) y) :=
    (((h.put _ v hstate).put _ w hstate).put _ x hstate).put _ y hstate
  unfold State.showStream
  dsimp only
  split
  · exact ((hslots _ _ _ _).put _ _ hseq).put _ _ hstate
  · exact ((hslots _ _ _ _).put _ _ hseq).put _ _ hstate

theorem Leaves.modStream {a : Nat} {s t : State} (h : Leaves a s t) (n : Nat) (g : StreamState → StreamState) :
    Leaves a s (t.modStream n g) := h.trans ⟨rfl, rfl⟩

theorem Leaves.unpin {a : Nat} {s t : State} (h : Leaves a s t) (ha : a % 64 = 0) (n : Nat) (r : Reader) : Leaves a s (t.unpin n r) :=
  (h.modStream n _).showStream ha n

theorem Leaves.unpinLatch {a : Nat} {s t : State} (h : Leaves a s t) (ha : a % 64 = 0) (f : Nat) (l : PaneLatch) :
    Leaves a s (t.unpinLatch f l) := by
  have hunpin : Leaves a s (if l.pane = 8 ∧ (t.folio f).sealKept.isSome = true then t else t.unpin l.set.index (.pane f l.pane)) := by
    split
    · exact h
    · exact h.unpin ha _ _
  unfold State.unpinLatch
  split
  · exact hunpin
  · exact hunpin
  · exact h

/-- RASTER_STATUS lies below the Blotter, and where no stream's STATE or NEWEST_SEQ can lie. -/
theorem rasterStatus_place (f : Fin 64) : Reg.folio_RASTER_STATUS f < 0x1F0000 ∧ Reg.folio_RASTER_STATUS f % 64 = 0 := by
  rw [Reg.folio_RASTER_STATUS]
  omega

/-- The picture kept by the seal pane goes, and RASTER_STATUS stays. -/
theorem State.dropKept_spec (s : State) (f : Fin 64) : (s.dropKept f).folio f = { s.folio f with sealKept := none } ∧
    (s.dropKept f).rd (Reg.folio_RASTER_STATUS f) = s.rd (Reg.folio_RASTER_STATUS f) := by
  unfold State.dropKept
  split
  · next hnone => exact ⟨by rw [← hnone], rfl⟩
  · next l _ =>
    have h := (Leaves.refl (Reg.folio_RASTER_STATUS f) (s.modFolio f fun x => { x with sealKept := none })).unpinLatch
      (rasterStatus_place f).2 f l
    refine ⟨?_, h.rd⟩
    rw [State.folio, h.folios]
    exact s.folio_modFolio_self f fun x => { x with sealKept := none }

/-- SEAL_STOPPED and its counter are other registers than RASTER_STATUS. -/
theorem sealStopped_place (f : Fin 64) : Reg.folio_RASTER_STATUS f ≠ (Flag.folio_SEAL_SEAL_STOPPED f).addr ∧
    Reg.folio_RASTER_STATUS f ≠ (Flag.folio_SEAL_SEAL_STOPPED f).counter.addr := by decide +revert

/-- A seal pane that stops shows its state, its flag and its alarm, and makes a record (R227). -/
theorem Leaves.setSeal_stopped {s t : State} {f : Fin 64} (h : Leaves (Reg.folio_RASTER_STATUS f) s t) (reason : Nat) :
    Leaves (Reg.folio_RASTER_STATUS f) s (t.setSeal f 3 reason) := by
  have hne : Reg.folio_RASTER_STATUS f ≠ Reg.folio_SEAL_STATE f := by simp [Reg.folio_RASTER_STATUS, Reg.folio_SEAL_STATE]
  obtain ⟨hflag, hcounter⟩ := sealStopped_place f
  have hstate := (h.put (R.folio_SEAL_STATE_STATE f) 3 hne).put (R.folio_SEAL_STATE_REASON f) reason hne
  unfold State.setSeal
  dsimp only
  refine Leaves.put ?_ (R.folio_SEAL_STATE_ALARM f) _ hne
  split
  · exact hstate
  · exact (hstate.raise (Flag.folio_SEAL_SEAL_STOPPED f) hflag hcounter).blotter (rasterStatus_place f).1 _ _ _

/-- The SDI ports go on in black. -/
theorem Leaves.blackenPorts {s t : State} {f : Fin 64} (h : Leaves (Reg.folio_RASTER_STATUS f) s t) (l : List Nat) :
    Leaves (Reg.folio_RASTER_STATUS f) s (t.each l fun s n => if s.sdi n = .txRun then s.setSdi n .txBlack else s) := by
  refine h.trans (Leaves.each (fun s n => ?_) t l)
  split
  · refine (Leaves.refl _ s).put (R.port_SDI_STATE_STATE n) _ ?_
    simp only [R.port_SDI_STATE_STATE, Reg.port_SDI_STATE, Reg.folio_RASTER_STATUS]
    omega
  · exact Leaves.refl _ s

/-- Where no frame has begun, no pane is latched and no writeback is in progress, the stop of fetching leaves it so, and the raster
as it is. -/
theorem State.stopFetching_idle {s : State} {f : Fin 64} (hlatches : (s.folio f).latches = []) (hwb : (s.folio f).wbOn = false)
    (hbegan : (s.folio f).began = false) :
    (s.stopFetching f).rd (Reg.folio_RASTER_STATUS f) = s.rd (Reg.folio_RASTER_STATUS f) ∧
      ((s.stopFetching f).folio f).began = false ∧ ((s.stopFetching f).folio f).latches = [] := by
  obtain ⟨hfolio, hrd⟩ := s.dropKept_spec f
  have hunpin : (s.dropKept f).unpinFolio f = s.dropKept f := State.unpinFolio_of_no_latches (by rw [hfolio, hlatches])
  have hdrop : (s.dropKept f).dropWriteback f = s.dropKept f := if_neg (by simp [hfolio, hwb])
  have hnot : ((s.dropKept f).folio f).began = false := by rw [hfolio, hbegan]
  let g : FolioState → FolioState := fun x =>
    { x with latches := [], rows := [], began := false, sealRestart := true, cutSlot := none, cutLate := none,
             genlocked := 0, marginGood := 0, margins := [], anc := [] }
  have hrest : Leaves (Reg.folio_RASTER_STATUS f) ((s.dropKept f).modFolio f g) (s.stopFetching f) := by
    have hne : Reg.folio_RASTER_STATUS f ≠ (R.folio_DRY_STATUS_VALID f).addr ∧
        Reg.folio_RASTER_STATUS f ≠ (R.folio_LTR_STATUS_TOL f).addr := by
      simp [Reg.folio_RASTER_STATUS, R.folio_DRY_STATUS_VALID, Reg.folio_DRY_STATUS, R.folio_LTR_STATUS_TOL, Reg.folio_LTR_STATUS]
    have hshown := ((Leaves.refl _ ((s.dropKept f).modFolio f g)).put (R.folio_DRY_STATUS_VALID f) 0 hne.1).put
      (R.folio_LTR_STATUS_TOL f) 0xFFFF hne.2
    simp only [State.stopFetching, hunpin, hdrop, hnot, Bool.false_eq_true, if_false]
    refine Leaves.blackenPorts ?_ _
    split
    · exact hshown
    · exact hshown.setSeal_stopped _
  have hleft : (s.stopFetching f).folio f = g ((s.dropKept f).folio f) := by
    rw [State.folio, hrest.folios]
    exact State.folio_modFolio_self _ _ g
  exact ⟨hrest.rd.trans hrd, congrArg FolioState.began hleft, congrArg FolioState.latches hleft⟩

/-! ### Hold (R248) -/

/-- A raster that was asked to hold, whose ports have all acknowledged, enters hold at its frame fetch start. -/
theorem holdEnter_acknowledged {s : State} {f : Fin 64} (hup : s.folioUp f = true) (hrun : s.raster f = .run)
    (hasked : (s.folio f).holdAsked = true) (hbegan : (s.folio f).began = false)
    (hacks : ((s.folioPorts f).all fun n => (s.port n).holdReply == 2) = true)
    (hline : s.get (R.folio_RASTER_STATUS_LINE f) = (s.timing f).fetchLine) :
    exec (.holdEnter f) s = .next (((((s.setRaster f .hold).stopFetching f).modFolio f fun x => { x with holdAsked := false }).bump
      (R.folio_HOLD_COUNT f)).raise (Flag.folio_RASTER_HOLD_ENTER f)) :=
  if_pos ⟨hup, hrun, hasked, hbegan, hacks, hline⟩

theorem State.raster_setRaster (s : State) (f : Fin 64) (m : RasterMode) : (s.setRaster f m).raster f = m := by
  have hok : (R.folio_RASTER_STATUS_STATE f).Ok := ⟨(by decide : 29 ≤ 31), (by decide : 31 < 32)⟩
  rw [State.raster, State.setRaster, State.get_put_self _ _ _ hok]
  cases m <;> rfl

/-- HOLD_COUNT, HOLD_ENTER and its counter are other registers than RASTER_STATUS. -/
theorem holdEnter_place (f : Fin 64) : (Flag.folio_RASTER_HOLD_ENTER f).Ok ∧ Reg.folio_RASTER_STATUS f ≠ (R.folio_HOLD_COUNT f).addr ∧
    Reg.folio_RASTER_STATUS f ≠ (Flag.folio_RASTER_HOLD_ENTER f).addr ∧
    Reg.folio_RASTER_STATUS f ≠ (Flag.folio_RASTER_HOLD_ENTER f).counter.addr := by decide +revert

/-- The hold entered shows in STATE and HOLD_ENTER; nothing is asked for, begun or latched any more. -/
theorem holdEnter_spec {s : State} {f : Fin 64} (hup : s.folioUp f = true) (hrun : s.raster f = .run)
    (hasked : (s.folio f).holdAsked = true) (hbegan : (s.folio f).began = false) (hlatches : (s.folio f).latches = [])
    (hwb : (s.folio f).wbOn = false) (hacks : ((s.folioPorts f).all fun n => (s.port n).holdReply == 2) = true)
    (hline : s.get (R.folio_RASTER_STATUS_LINE f) = (s.timing f).fetchLine) :
    ∃ t, exec (.holdEnter f) s = .next t ∧ t.get (Flag.folio_RASTER_HOLD_ENTER f).fld = 1 ∧ (t.folio f).holdAsked = false ∧
      (t.folio f).began = false ∧ (t.folio f).latches = [] ∧ t.raster f = .hold := by
  obtain ⟨hrd, hidle, hempty⟩ := State.stopFetching_idle (s := s.setRaster f .hold) hlatches hwb hbegan
  have hfolio := ((s.setRaster f .hold).stopFetching f).folio_modFolio_self f fun x => { x with holdAsked := false }
  obtain ⟨hok, hcount, hflag, hcounter⟩ := holdEnter_place f
  refine ⟨_, holdEnter_acknowledged hup hrun hasked hbegan hacks hline, State.get_raise_self _ _ hok,
    congrArg FolioState.holdAsked hfolio, (congrArg FolioState.began hfolio).trans hidle, (congrArg FolioState.latches hfolio).trans hempty, ?_⟩
  refine (congrArg RasterMode.ofCode (State.get_congr (f := R.folio_RASTER_STATUS_STATE f) ?_)).trans (s.raster_setRaster f .hold)
  exact (State.rd_raise_ne _ _ hflag hcounter).trans ((State.rd_bump_ne _ _ hcount).trans hrd)

/-- Settles O34: a report by the packet taken, a line 1 by whether its report came, and hold by what a stop of fetching with nothing in
progress leaves. -/
theorem displayTiming : Obligations.DisplayTiming :=
  ⟨⟨fun _ _ _ _ ns _ => teReport_spec ns, fun _ _ _ => teLine1Start_in_time, fun _ _ => teMiss_unreported⟩,
    fun _ _ hup hrun hasked hbegan hlatches hwb hacks hline => holdEnter_spec hup hrun hasked hbegan hlatches hwb hacks hline⟩

end Sys2Proof.Machine
end

section
/-!
PROOFS. Marginalia: packets bound to a stream, and queries (09_audio_marginalia.md R278 to R280).
-/
namespace Sys2Proof.Machine
open Sys2Proof Safety

/-! ### Words of an array register -/

/-- Bytes go to the words they fill, and to no address between those words. -/
theorem State.rd_putBytes_of_no_word (s : State) (a : Nat) (l : List Byte) {b : Nat} (h : ∀ i, 4 * i < l.length → b ≠ a + 4 * i) :
    (s.putBytes a l).rd b = s.rd b := by
  have hfirst (hl : 0 < l.length) : b ≠ a := h 0 hl
  induction s, a, l using State.putBytes.induct with
  | case1 s a b0 b1 b2 b3 bs ih =>
    have hrest : ∀ i, 4 * i < bs.length → b ≠ a + 4 + 4 * i := fun i hi => by
      have := h (i + 1) (by simp only [List.length_cons]; omega)
      omega
    rw [State.putBytes, ih hrest fun hl => hrest 0 hl, State.rd_wr_ne _ _ (hfirst (by simp))]
  | case2 s a b0 b1 b2 => exact s.rd_wr_ne _ (hfirst (by simp))
  | case3 s a b0 b1 => exact s.rd_wr_ne _ (hfirst (by simp))
  | case4 s a b0 => exact s.rd_wr_ne _ (hfirst (by simp))
  | case5 => rfl

theorem State.putBytes_onlyRegs (s : State) (a : Nat) {l : List Byte} {n : Nat} (h : l.length ≤ 4 * n) :
    OnlyRegs s (s.putBytes a l) ((List.range n).map fun i => a + 4 * i) := by
  refine fun b hb => s.rd_putBytes_of_no_word a l fun i hi he => hb ?_
  exact List.mem_map.2 ⟨i, List.mem_range.2 (by omega), he.symm⟩

/-- Each word filled with zeros reads 0. -/
theorem State.rd_putBytes_zeros (s : State) (a : Nat) {n i : Nat} (hi : i < n) :
    (s.putBytes a (List.replicate (4 * n) 0)).rd (a + 4 * i) = 0 := by
  induction n generalizing s a i with
  | zero => omega
  | succ n ih =>
    show (State.putBytes (s.wr a 0) (a + 4) (List.replicate (4 * n) 0)).rd (a + 4 * i) = 0
    cases i with
    | zero => rw [State.rd_putBytes_ne _ _ _ (.inl (by omega)), Nat.mul_zero, Nat.add_zero, State.rd_wr_self]
    | succ i =>
      have h := ih (s.wr a 0) (a + 4) (Nat.lt_of_succ_lt_succ hi)
      rwa [show a + 4 * (i + 1) = a + 4 + 4 * i by omega]

/-! ### ANC and META packets (R279) -/

theorem ancPacket_binds {s u : State} {p : Fin 96} {k : Packet} (htake : s.takePacket p (fun k => k.typ == 4) = some (k, u))
    (hon : u.audioOn = true) (hpresent : u.present (16 * p + k.vc) = true) :
    exec (.ancPacket p) s = .next (u.bindAnc (16 * p + k.vc) ⟨leAt k.payload 0 2, leAt k.payload 2 2,
      (List.range ((k.payload.length - 4) / 2)).map fun i => leAt k.payload (4 + 2 * i) 2 % 1024⟩) := by
  show execAncPacket p s = _
  simp only [execAncPacket, htake, hon, hpresent, Bool.and_self, if_true]

theorem metaPacket_binds {s u : State} {p : Fin 96} {k : Packet} (htake : s.takePacket p (fun k => k.typ == 5) = some (k, u))
    (hon : u.audioOn = true) (hpresent : u.present (16 * p + k.vc) = true) :
    exec (.metaPacket p) s = .next (u.bindMeta (16 * p + k.vc) k.payload) := by
  show execMetaPacket p s = _
  simp only [execMetaPacket, htake, hon, hpresent, Bool.and_self, if_true]

/-! ### Queries (R280) -/

/-- An answer to a query: the record's bytes, or zeros, and STATUS. -/
def State.queryAnswer (s : State) (bs : List Byte) (status : Nat) : State :=
  ((s.accept Reg.marginalia_QUERY_RESULT).putBytes (Reg.marginalia_QUERY_DATA 0) bs).complete Reg.marginalia_QUERY_RESULT status

/-- The data words follow one another. -/
theorem queryData_word (i : Nat) : Reg.marginalia_QUERY_DATA i = Reg.marginalia_QUERY_DATA 0 + 4 * i := by
  rw [Reg.marginalia_QUERY_DATA, Reg.marginalia_QUERY_DATA, Nat.mul_zero, Nat.add_zero]

/-- The result block is no register of a stream. -/
theorem queryResult_not_stream (n : Nat) :
    Reg.stream_CFG n ≠ Reg.marginalia_QUERY_RESULT ∧ Reg.stream_SLOT_STRIDE n ≠ Reg.marginalia_QUERY_RESULT := by
  unfold Reg.stream_CFG Reg.stream_SLOT_STRIDE Reg.marginalia_QUERY_RESULT
  omega

section
variable {s : State} {n : Nat} (hon : s.audioOn = true) (ha : Answers s Reg.marginalia_QUERY_RESULT)
  (hd : s.done Reg.marginalia_QUERY_RESULT = true) (hn : s.get R.marginalia_QUERY_STREAM = n)
include hon ha hd hn

/-- A query that is taken answers by the stream asked for and its records. -/
theorem exec_queryFetch_free : exec .queryFetch s = .next (
    if s.present n = false ∨ s.isWriteback n = true then s.queryAnswer (List.replicate 128 0) 2
    else match (s.stream n).margs.find? fun m => m.seq == s.get R.marginalia_QUERY_SEQ with
      | none => s.queryAnswer (List.replicate 128 0) 1
      | some m => s.queryAnswer m.bytes 0) := by
  subst hn
  have hkeeps {f : Fld} (hf : f.addr ≠ Reg.marginalia_QUERY_RESULT) : (s.accept Reg.marginalia_QUERY_RESULT).get f = s.get f :=
    s.get_accept_apart _ f (.inl hf)
  have hpresent (n : Nat) : (s.accept Reg.marginalia_QUERY_RESULT).present n = s.present n := by
    rw [State.present, State.present, State.on, State.on, hkeeps (queryResult_not_stream n).1]
  have hwriteback (n : Nat) : (s.accept Reg.marginalia_QUERY_RESULT).isWriteback n = s.isWriteback n := by
    rw [State.isWriteback, State.isWriteback, State.on, State.on, hkeeps (queryResult_not_stream n).2]
  show execQueryFetch s = _
  simp only [execQueryFetch, hon, State.offer_free _ _ _ _ ha.running ha.live hd, hkeeps (f := R.marginalia_QUERY_STREAM) (by decide),
    hkeeps (f := R.marginalia_QUERY_SEQ) (by decide), hpresent, hwriteback]
  rfl

theorem exec_queryFetch_absent (hp : s.present n = false) : exec .queryFetch s = .next (s.queryAnswer (List.replicate 128 0) 2) := by
  rw [exec_queryFetch_free hon ha hd hn, if_pos (.inl hp)]

variable (hp : s.present n = true) (hw : s.isWriteback n = false)
include hp hw

theorem exec_queryFetch_unheld (hnone : (s.stream n).margs.find? (fun m => m.seq == s.get R.marginalia_QUERY_SEQ) = none) :
    exec .queryFetch s = .next (s.queryAnswer (List.replicate 128 0) 1) := by
  rw [exec_queryFetch_free hon ha hd hn, if_neg (by simp [hp, hw]), hnone]

theorem exec_queryFetch_held {m : MargRec}
    (hsome : (s.stream n).margs.find? (fun m => m.seq == s.get R.marginalia_QUERY_SEQ) = some m) :
    exec .queryFetch s = .next (s.queryAnswer m.bytes 0) := by
  rw [exec_queryFetch_free hon ha hd hn, if_neg (by simp [hp, hw]), hsome]

end

/-- An answer without a record: STATUS, DONE, data words of zeros, and nothing else changed. -/
theorem State.queryAnswer_zeros (s : State) {status : Nat} (hst : status < 32768) {t : State}
    (ht : t = s.queryAnswer (List.replicate 128 0) status) :
    t.get ⟨Reg.marginalia_QUERY_RESULT, 30, 16⟩ = status ∧ t.done Reg.marginalia_QUERY_RESULT = true ∧
      (∀ i, i < 32 → t.rd (Reg.marginalia_QUERY_DATA i) = 0) ∧
      OnlyRegs s t (Reg.marginalia_QUERY_RESULT :: (List.range 32).map Reg.marginalia_QUERY_DATA) ∧ t = { s with regs := t.regs } := by
  subst ht
  refine ⟨?_, ?_, fun i hi => ?_, fun a ha => ?_, ?_⟩
  · rw [State.queryAnswer, State.get_complete_status, Nat.mod_eq_of_lt hst]
  · rw [State.done, State.queryAnswer, State.get_complete_done]
    rfl
  · have hne : Reg.marginalia_QUERY_DATA i ≠ Reg.marginalia_QUERY_RESULT := by
      unfold Reg.marginalia_QUERY_DATA Reg.marginalia_QUERY_RESULT
      omega
    rw [State.queryAnswer, State.rd_complete_ne _ _ _ hne, queryData_word]
    exact State.rd_putBytes_zeros (n := 32) _ _ hi
  · obtain ⟨hresult, hdata⟩ := List.ne_and_not_mem_of_not_mem_cons ha
    rw [funext queryData_word] at hdata
    rw [State.queryAnswer, State.rd_complete_ne _ _ _ hresult]
    exact (State.putBytes_onlyRegs _ _ (by simp) a hdata).trans (s.rd_accept_ne _ hresult)
  · rw [State.queryAnswer, State.putBytes_frame]
    rfl

/-- Settles O26: packets by the branch their stream takes, a query by its answer. -/
theorem marginaliaCommands : Obligations.MarginaliaCommands := by
  refine ⟨fun _ _ _ _ => ancPacket_binds, fun _ _ _ _ => metaPacket_binds, fun s hon ha hd => ⟨fun hp => ?_, fun hp hw hnone => ?_,
    fun m hp hw hsome => exec_queryFetch_held hon ha hd rfl hp hw hsome⟩⟩
  · exact ⟨_, exec_queryFetch_absent hon ha hd rfl hp, s.queryAnswer_zeros (by decide) rfl⟩
  · exact ⟨_, exec_queryFetch_unheld hon ha hd rfl hp hw hnone, s.queryAnswer_zeros (by decide) rfl⟩

end Sys2Proof.Machine
end

section
/-!
PROOFS. The audio engine's inputs: channel maps, the states of the converters and AUDIO packets (09_audio_marginalia.md R255, R256, R258,
R260, R266; 03_rasyn_link.md R120).
-/
namespace Sys2Proof.Machine
open Sys2Proof Safety

/-! ### A channel's hidden state -/

@[simp] theorem State.modSrc_rd (s : State) (i : Nat) (g : SrcChan → SrcChan) (a : Nat) : (s.modSrc i g).rd a = s.rd a := rfl

@[simp] theorem State.modSrc_get (s : State) (i : Nat) (g : SrcChan → SrcChan) (f : Fld) : (s.modSrc i g).get f = s.get f := rfl

@[simp] theorem State.src_modSrc (s : State) (i : Nat) (g : SrcChan → SrcChan) : (s.modSrc i g).src i = g (s.src i) :=
  Sparse.get_set_self _ _ _ _

/-! ### Changes of a converter's state (R260) -/

/-- The exit from a converter's state: from LOCKED it raises SRC_UNLOCK and ramps the output. -/
def State.srcLeft (s : State) (i : Nat) (was : SrcMode) : State :=
  if was = .locked then (s.raise Flag.audio_SRC_UNLOCK).modSrc i fun c => { c with rampLeft := 48 } else s

/-- The entry to a converter's state: LOCKED fades its output in. -/
def State.srcEntered (s : State) (i : Nat) (m : SrcMode) : State :=
  if m = .locked then s.modSrc i fun c => { c with fadeIn := 0, rampLeft := 0, phase := (c.total : Nat) } else s

/-- The registers of SRC_UNLOCK and SRC_RANGE. -/
def srcFlagRegs : List Nat := [Reg.audio_INT_STATUS, Flag.audio_SRC_UNLOCK.counter.addr]

theorem inStat_not_srcFlag (i : Nat) : Reg.audio_IN_STAT i ∉ srcFlagRegs := by
  have hplace : 0x184000 ≤ Reg.audio_IN_STAT i := Nat.le_add_right _ _
  intro h
  exact absurd hplace (Nat.not_le.2 ((by decide : ∀ a ∈ srcFlagRegs, a < 0x184000) _ h))

theorem State.srcMode_congr {s t : State} {i : Nat} (h : t.rd (Reg.audio_IN_STAT i) = s.rd (Reg.audio_IN_STAT i)) :
    t.srcMode i = s.srcMode i := congrArg SrcMode.ofCode (State.get_congr (f := R.audio_IN_STAT_STATE i) h)

theorem State.srcMode_put (s : State) (i : Nat) (m : SrcMode) : (s.put (R.audio_IN_STAT_STATE i) m.code).srcMode i = m := by
  have hok : (R.audio_IN_STAT_STATE i).Ok := ⟨(by decide : 29 ≤ 31), (by decide : 31 < 32)⟩
  rw [State.srcMode, State.get_put_self _ _ _ hok]
  cases m <;> rfl

section
variable (s : State) (i : Nat) (m : SrcMode)

theorem State.srcLeft_onlyRegs : OnlyRegs s (s.srcLeft i m) srcFlagRegs := by
  unfold State.srcLeft
  split
  · exact fun a ha => (State.modSrc_rd _ _ _ a).trans
      ((OnlyRegs.refl s srcFlagRegs).raise Flag.audio_SRC_UNLOCK (by decide) (by decide) a ha)
  · exact OnlyRegs.refl _ _

theorem State.srcEntered_rd (a : Nat) : (s.srcEntered i m).rd a = s.rd a := by
  unfold State.srcEntered
  split
  · rfl
  · rfl

/-- Neither touches the samples held, the count expected next, or the maps that wait. -/
theorem State.srcLeft_held : ((s.srcLeft i m).src i).samples = (s.src i).samples ∧
    ((s.srcLeft i m).src i).expected = (s.src i).expected ∧ (s.srcLeft i m).audio.outPend = s.audio.outPend := by
  unfold State.srcLeft
  split
  · rw [State.src_modSrc]
    exact ⟨rfl, rfl, rfl⟩
  · exact ⟨rfl, rfl, rfl⟩

theorem State.srcEntered_held : ((s.srcEntered i m).src i).samples = (s.src i).samples ∧
    ((s.srcEntered i m).src i).expected = (s.src i).expected ∧ (s.srcEntered i m).audio.outPend = s.audio.outPend := by
  unfold State.srcEntered
  split
  · rw [State.src_modSrc]
    exact ⟨rfl, rfl, rfl⟩
  · exact ⟨rfl, rfl, rfl⟩

end

theorem State.raiseIf_onlyRegs (s : State) (b : Bool) (f : Flg) : OnlyRegs s (s.raiseIf b f) [f.addr, f.counter.addr] := by
  cases b with
  | false => exact OnlyRegs.refl _ _
  | true => exact (OnlyRegs.refl s _).raise f (by simp) (by simp)

theorem State.raiseIf_audio (s : State) (b : Bool) (f : Flg) : (s.raiseIf b f).audio = s.audio := by
  cases b with
  | false => rfl
  | true => rfl

theorem State.src_raiseIf (s : State) (b : Bool) (f : Flg) (i : Nat) : (s.raiseIf b f).src i = s.src i := by
  rw [State.src, State.raiseIf_audio, State.src]

section
variable {s : State} {i : Nat} {m : SrcMode}

theorem State.setSrcMode_same (h : s.srcMode i = m) : s.setSrcMode i m = s := if_pos h

theorem State.setSrcMode_changed (h : s.srcMode i ≠ m) : s.setSrcMode i m =
    (((s.put (R.audio_IN_STAT_STATE i) m.code).srcLeft i (s.srcMode i)).raiseIf (m == .outOfRange) Flag.audio_SRC_RANGE).srcEntered i m := by
  rw [State.setSrcMode, if_neg h]
  rfl

/-- Between states other than LOCKED and OUT_OF_RANGE only STATE changes. -/
theorem State.setSrcMode_quiet (h : s.srcMode i ≠ m) (hwas : s.srcMode i ≠ .locked) (hlock : m ≠ .locked) (hrange : m ≠ .outOfRange) :
    s.setSrcMode i m = s.put (R.audio_IN_STAT_STATE i) m.code := by
  rw [State.setSrcMode_changed h, State.srcLeft, if_neg hwas, State.srcEntered, if_neg hlock, beq_false_of_ne hrange]
  rfl

theorem State.setSrcMode_locked (h : s.srcMode i ≠ .locked) : s.setSrcMode i .locked =
    (s.put (R.audio_IN_STAT_STATE i) SrcMode.locked.code).modSrc i fun c => { c with fadeIn := 0, rampLeft := 0, phase := (c.total : Nat) } := by
  rw [State.setSrcMode_changed h, State.srcLeft, if_neg h]
  rfl

theorem State.setSrcMode_outOfRange (h : s.srcMode i = .acquire) : s.setSrcMode i .outOfRange =
    (s.put (R.audio_IN_STAT_STATE i) SrcMode.outOfRange.code).raise Flag.audio_SRC_RANGE := by
  rw [State.setSrcMode_changed (by rw [h]; decide), h]
  rfl

theorem State.setSrcMode_hold (h : s.srcMode i = .locked) : s.setSrcMode i .hold =
    ((s.put (R.audio_IN_STAT_STATE i) SrcMode.hold.code).raise Flag.audio_SRC_UNLOCK).modSrc i fun c => { c with rampLeft := 48 } := by
  rw [State.setSrcMode_changed (by rw [h]; decide), h]
  rfl

/-- Beside STATE a change of state writes only the flags that tell of it. -/
theorem State.setSrcMode_onlyFlags (h : s.srcMode i ≠ m) :
    OnlyRegs (s.put (R.audio_IN_STAT_STATE i) m.code) (s.setSrcMode i m) srcFlagRegs := by
  intro a ha
  rw [State.setSrcMode_changed h, State.srcEntered_rd]
  exact (State.raiseIf_onlyRegs _ _ Flag.audio_SRC_RANGE a ha).trans (State.srcLeft_onlyRegs _ _ _ a ha)

variable (s i m)

theorem State.srcMode_setSrcMode : (s.setSrcMode i m).srcMode i = m := by
  by_cases h : s.srcMode i = m
  · rw [State.setSrcMode_same h, h]
  · exact (State.srcMode_congr (State.setSrcMode_onlyFlags h _ (inStat_not_srcFlag i))).trans (s.srcMode_put i m)

theorem State.setSrcMode_onlyRegs : OnlyRegs s (s.setSrcMode i m) (Reg.audio_IN_STAT i :: srcFlagRegs) := by
  by_cases h : s.srcMode i = m
  · rw [State.setSrcMode_same h]
    exact OnlyRegs.refl _ _
  · intro a ha
    obtain ⟨hstat, hflag⟩ := List.ne_and_not_mem_of_not_mem_cons ha
    exact (State.setSrcMode_onlyFlags h a hflag).trans (State.rd_put_ne _ _ _ hstat)

/-- A change of state leaves the samples held, the count expected next and the maps that wait. -/
theorem State.setSrcMode_held : ((s.setSrcMode i m).src i).samples = (s.src i).samples ∧
    ((s.setSrcMode i m).src i).expected = (s.src i).expected ∧ (s.setSrcMode i m).audio.outPend = s.audio.outPend := by
  by_cases h : s.srcMode i = m
  · rw [State.setSrcMode_same h]
    exact ⟨rfl, rfl, rfl⟩
  · obtain ⟨hs, he, hp⟩ := (((s.put (R.audio_IN_STAT_STATE i) m.code).srcLeft i (s.srcMode i)).raiseIf (m == .outOfRange)
      Flag.audio_SRC_RANGE).srcEntered_held i m
    obtain ⟨hs', he', hp'⟩ := (s.put (R.audio_IN_STAT_STATE i) m.code).srcLeft_held i (s.srcMode i)
    rw [State.src_raiseIf] at hs he
    rw [State.raiseIf_audio] at hp
    rw [State.setSrcMode_changed h]
    exact ⟨hs.trans hs', he.trans he', hp.trans hp'⟩

end

/-! ### Timeouts of a converter's states (R260) -/

/-- A converter that returns to NO_INPUT without having been locked shows it in STATE alone. -/
theorem srcStateTimeout_noInput {s : State} {ch : Fin 2048} {idle : Bool} (hm : s.srcMode ch ≠ .noInput) (hl : s.srcMode ch ≠ .locked)
    (hx : exec (.srcStateTimeout ch idle) s = .next (s.setSrcMode ch .noInput)) :
    ∃ t, exec (.srcStateTimeout ch idle) s = .next t ∧ t.srcMode ch = .noInput ∧ OnlyRegs s t [Reg.audio_IN_STAT ch] ∧
      t = { s with regs := t.regs } := by
  rw [State.setSrcMode_quiet hm hl (by decide) (by decide)] at hx
  exact ⟨_, hx, s.srcMode_put ch .noInput, (OnlyRegs.refl s _).put _ _ (List.mem_singleton_self _), rfl⟩

section
variable {s : State} {ch : Fin 2048} (hon : s.audioOn = true) (hch : ch.val < s.inCount)
include hon hch

/-- A present channel of a powered engine acts by its state. -/
theorem exec_srcStateTimeout_present (idle : Bool) : exec (.srcStateTimeout ch idle) s = .next (
    match s.srcMode ch with
    | .noInput => s
    | .acquire => if idle then s.setSrcMode ch .noInput
        else if 10000 < (s.getInt (R.audio_IN_STAT_RATIO ch)).natAbs then s.setSrcMode ch .outOfRange else s.setSrcMode ch .locked
    | .locked => if idle then s.setSrcMode ch .hold else s
    | .hold => s.setSrcMode ch .noInput
    | .outOfRange => if idle then s.setSrcMode ch .noInput
        else if (s.getInt (R.audio_IN_STAT_RATIO ch)).natAbs ≤ 9000 then s.setSrcMode ch .acquire else s
    | .nonPcm => if idle then s.setSrcMode ch .noInput else s) := by
  have hlive : ¬ (s.audioOn = false ∨ s.inCount ≤ ch.val) := by simp [hon, hch]
  show execSrcStateTimeout ch idle s = _
  rw [execSrcStateTimeout, if_neg hlive]
  cases s.srcMode ch <;> rfl

theorem srcStateTimeout_idle (hm : s.srcMode ch = .acquire ∨ s.srcMode ch = .outOfRange ∨ s.srcMode ch = .nonPcm) :
    ∃ t, exec (.srcStateTimeout ch true) s = .next t ∧ t.srcMode ch = .noInput ∧ OnlyRegs s t [Reg.audio_IN_STAT ch] ∧
      t = { s with regs := t.regs } := by
  have hx := exec_srcStateTimeout_present hon hch true
  rcases hm with hm | hm | hm
  all_goals
    rw [hm] at hx
    exact srcStateTimeout_noInput (by rw [hm]; decide) (by rw [hm]; decide) hx

theorem srcStateTimeout_hold (idle : Bool) (hm : s.srcMode ch = .hold) :
    ∃ t, exec (.srcStateTimeout ch idle) s = .next t ∧ t.srcMode ch = .noInput ∧ OnlyRegs s t [Reg.audio_IN_STAT ch] ∧
      t = { s with regs := t.regs } := by
  have hx := exec_srcStateTimeout_present hon hch idle
  rw [hm] at hx
  exact srcStateTimeout_noInput (by rw [hm]; decide) (by rw [hm]; decide) hx

/-- The output of a locked converter that hears nothing ramps down. -/
theorem srcStateTimeout_unlock (hm : s.srcMode ch = .locked) :
    ∃ t, exec (.srcStateTimeout ch true) s = .next t ∧ t.srcMode ch = .hold ∧ (t.src ch).rampLeft = 48 ∧
      t.get Flag.audio_SRC_UNLOCK.fld = 1 ∧ t = { s with regs := t.regs, audio := t.audio } := by
  have hx := exec_srcStateTimeout_present hon hch true
  simp only [hm, if_true] at hx
  have hmode := s.srcMode_setSrcMode ch .hold
  rw [State.setSrcMode_hold hm] at hx hmode
  exact ⟨_, hx, hmode, congrArg SrcChan.rampLeft (State.src_modSrc _ _ _),
    (State.modSrc_get _ _ _ _).trans (State.get_raise_self _ Flag.audio_SRC_UNLOCK (by decide)), rfl⟩

/-- A converter that has acquired its rate locks where that lies within 1,000 ppm of the nominal one. -/
theorem srcStateTimeout_lock (hm : s.srcMode ch = .acquire) (hdev : (s.getInt (R.audio_IN_STAT_RATIO ch)).natAbs ≤ 10000) :
    ∃ t, exec (.srcStateTimeout ch false) s = .next t ∧ t.srcMode ch = .locked ∧ (t.src ch).fadeIn = 0 ∧
      OnlyRegs s t [Reg.audio_IN_STAT ch] ∧ t = { s with regs := t.regs, audio := t.audio } := by
  have hx := exec_srcStateTimeout_present hon hch false
  simp only [hm, if_neg (Nat.not_lt.2 hdev), Bool.false_eq_true, if_false] at hx
  have hmode := s.srcMode_setSrcMode ch .locked
  rw [State.setSrcMode_locked (by rw [hm]; decide)] at hx hmode
  exact ⟨_, hx, hmode, congrArg SrcChan.fadeIn (State.src_modSrc _ _ _),
    (OnlyRegs.refl s _).put (R.audio_IN_STAT_STATE ch) _ (List.mem_singleton_self _), rfl⟩

theorem srcStateTimeout_range (hm : s.srcMode ch = .acquire) (hdev : 10000 < (s.getInt (R.audio_IN_STAT_RATIO ch)).natAbs) :
    ∃ t, exec (.srcStateTimeout ch false) s = .next t ∧ t.srcMode ch = .outOfRange ∧ t.get Flag.audio_SRC_RANGE.fld = 1 ∧
      t = { s with regs := t.regs } := by
  have hx := exec_srcStateTimeout_present hon hch false
  simp only [hm, if_pos hdev, Bool.false_eq_true, if_false] at hx
  have hmode := s.srcMode_setSrcMode ch .outOfRange
  rw [State.setSrcMode_outOfRange hm] at hx hmode
  exact ⟨_, hx, hmode, State.get_raise_self _ Flag.audio_SRC_RANGE (by decide), rfl⟩

end

/-! ### Channel maps (R255, R256, R266) -/

theorem inMapWrite_waits (s : State) (ch : Fin 2048) (v : BitVec 32) (ha : Answers s (Reg.audio_IN_MAP ch)) (hch : ch.val < s.inCount)
    (hon : s.audioOn = true) : ∃ t, exec (.inMapWrite ch v) s = .next t ∧
      Sparse.get (fun _ => 0) t.audio.inPend ch = v &&& 0xFFF07C00#32 ∧
      t = { s with audio := { s.audio with inPend := t.audio.inPend } } := by
  have hx : execInMapWrite ch v s = _ := (State.rowWrite_answers _ _ _ ha.running ha.live).trans (if_pos ⟨hch, hon⟩)
  exact ⟨_, hx, Sparse.get_insert_erase _ _ _ _, rfl⟩

theorem outMapWrite_waits (s : State) (ch : Fin 1024) (v : BitVec 32) (ha : Answers s (Reg.audio_OUT_MAP ch)) (hch : ch.val < s.outCount)
    (hon : s.audioOn = true) : ∃ t, exec (.outMapWrite ch v) s = .next t ∧ Sparse.get (fun _ => 0) t.audio.outPend ch = v ∧
      t = { s with audio := { s.audio with outPend := t.audio.outPend } } := by
  have hx : execOutMapWrite ch v s = _ := (State.rowWrite_answers _ _ _ ha.running ha.live).trans (if_pos ⟨hch, hon⟩)
  exact ⟨_, hx, Sparse.get_insert_erase _ _ _ _, rfl⟩

theorem audioMapApply_output (s : State) (ch : Fin 1024) (v : BitVec 32) (hin : s.audio.inPend = [])
    (hout : s.audio.outPend = [(ch.val, v)]) : ∃ t, exec .audioMapApply s = .next t ∧ t.rd (Reg.audio_OUT_MAP ch) = v ∧
      OnlyRegs s t [Reg.audio_OUT_MAP ch] ∧ t = { s with regs := t.regs, audio := { s.audio with inPend := [], outPend := [] } } := by
  have hx : exec .audioMapApply s =
      .next ((s.wr (Reg.audio_OUT_MAP ch) v).modAudio fun a => { a with inPend := [], outPend := [] }) := by
    show execAudioMapApply s = _
    simp only [execAudioMapApply, State.each, hin, List.foldl_nil, hout, List.foldl_cons]
  exact ⟨_, hx, s.rd_wr_self _ _, fun a ha => s.rd_wr_ne v (by simpa using ha), rfl⟩

/-- Whether an input is bound is said by its map and by registers below the audio engine's. -/
theorem State.inBound_congr {s t : State} {i : Nat} (hmap : t.rd (Reg.audio_IN_MAP i) = s.rd (Reg.audio_IN_MAP i))
    (hlow : ∀ a, a < 0x180000 → t.rd a = s.rd a) : t.inBound i = s.inBound i := by
  have hget {f : Fld} (hf : f.addr < 0x180000) : t.get f = s.get f := State.get_congr (hlow _ hf)
  have hstream : t.get (R.audio_IN_MAP_STREAM i) = s.get (R.audio_IN_MAP_STREAM i) := State.get_congr hmap
  have hchan : t.get (R.audio_IN_MAP_CHAN i) = s.get (R.audio_IN_MAP_CHAN i) := State.get_congr hmap
  have hen : t.on (R.audio_IN_MAP_EN i) = s.on (R.audio_IN_MAP_EN i) := State.on_congr hmap
  have hn : s.get (R.audio_IN_MAP_STREAM i) < 2048 := s.get_lt _
  revert hn
  unfold State.inBound
  rw [hstream, hchan, hen]
  generalize s.get (R.audio_IN_MAP_STREAM i) = n
  intro hn
  have hpresent : t.present n = s.present n := State.on_congr (hlow _ (by simp only [R.stream_CFG_PRESENT, Reg.stream_CFG]; omega))
  have hwriteback : t.isWriteback n = s.isWriteback n :=
    State.on_congr (hlow _ (by simp only [R.stream_SLOT_STRIDE_WB, Reg.stream_SLOT_STRIDE]; omega))
  have hmode : t.portMode (n / 16) = s.portMode (n / 16) := hget (by simp only [R.port_PORT_CFG_MODE, Reg.port_PORT_CFG]; omega)
  have hrate : t.get (R.port_PORT_CFG_RATE (n / 16)) = s.get (R.port_PORT_CFG_RATE (n / 16)) :=
    hget (by simp only [R.port_PORT_CFG_RATE, Reg.port_PORT_CFG]; omega)
  have hpositions : t.audioPositions n = s.audioPositions n := by
    rw [State.audioPositions, State.audioPositions, State.srcKind, State.srcKind, State.sdiIn, State.sdiIn, hwriteback, hmode, hrate]
  dsimp only
  rw [hpresent, hwriteback, hpositions]

/-- A change of a converter's state leaves every map, and every register below the audio engine's. -/
theorem State.inBound_setSrcMode (s : State) (i : Nat) (m : SrcMode) (ch : Fin 2048) : (s.setSrcMode i m).inBound ch = s.inBound ch ∧
    (s.setSrcMode i m).rd (Reg.audio_IN_MAP ch) = s.rd (Reg.audio_IN_MAP ch) := by
  have hkeeps : ∀ a, a < 0x184000 → a ∉ srcFlagRegs → (s.setSrcMode i m).rd a = s.rd a := fun a ha hflag =>
    s.setSrcMode_onlyRegs i m a (List.not_mem_cons_of_ne_of_not_mem (by simp only [Reg.audio_IN_STAT]; omega) hflag)
  have hplace : ∀ a ∈ srcFlagRegs, 0x180000 ≤ a ∧ a < 0x182000 := by decide
  have hmap : (s.setSrcMode i m).rd (Reg.audio_IN_MAP ch) = s.rd (Reg.audio_IN_MAP ch) :=
    hkeeps _ (by simp only [Reg.audio_IN_MAP]; omega) fun h => absurd (hplace _ h).2 (Nat.not_lt.2 (Nat.le_add_right _ _))
  exact ⟨State.inBound_congr hmap fun a ha => hkeeps a (Nat.lt_trans ha (by decide)) fun h => absurd ha (Nat.not_lt.2 (hplace a h).1), hmap⟩

/-- An input whose map is written anew holds nothing. -/
def State.remapped (s : State) (ch : Nat) (v : BitVec 32) : State :=
  (s.wr (Reg.audio_IN_MAP ch) v).modSrc ch fun c => { c.cleared with expected := none }

/-- The state in which a converter starts: ACQUIRE where its input is bound, else NO_INPUT. -/
def State.startMode (s : State) (ch : Nat) : SrcMode := if s.inBound ch then .acquire else .noInput

/-- An input restarted under its new map. -/
def State.restarted (s : State) (ch : Nat) (v : BitVec 32) : State := (s.remapped ch v).setSrcMode ch ((s.remapped ch v).startMode ch)

theorem State.restarted_held (s : State) (ch : Nat) (v : BitVec 32) : ((s.restarted ch v).src ch).samples = [] ∧
    ((s.restarted ch v).src ch).expected = none ∧ (s.restarted ch v).audio.outPend = s.audio.outPend := by
  obtain ⟨hsamples, hexpected, hpend⟩ := (s.remapped ch v).setSrcMode_held ch ((s.remapped ch v).startMode ch)
  rw [State.remapped, State.src_modSrc] at hsamples hexpected
  exact ⟨hsamples, hexpected, hpend⟩

theorem State.restarted_map (s : State) (ch : Fin 2048) (v : BitVec 32) : (s.restarted ch v).rd (Reg.audio_IN_MAP ch) = v ∧
    (s.restarted ch v).srcMode ch = (s.restarted ch v).startMode ch := by
  obtain ⟨hbound, hmap⟩ := (s.remapped ch v).inBound_setSrcMode ch ((s.remapped ch v).startMode ch) ch
  refine ⟨hmap.trans (State.rd_wr_self _ _ _), (State.srcMode_setSrcMode _ _ _).trans ?_⟩
  rw [State.startMode, State.startMode, State.restarted, hbound]

theorem exec_audioMapApply_input {s : State} {ch : Nat} {v : BitVec 32} (hin : s.audio.inPend = [(ch, v)]) (hout : s.audio.outPend = []) :
    exec .audioMapApply s = .next ((s.restarted ch v).modAudio fun a => { a with inPend := [], outPend := [] }) := by
  have hinputs : s.each s.audio.inPend (fun s p =>
      let s := (s.wr (Reg.audio_IN_MAP p.1) p.2).modSrc p.1 fun c => { c.cleared with expected := none }
      s.setSrcMode p.1 (if s.inBound p.1 then .acquire else .noInput)) = s.restarted ch v := by
    rw [hin]
    rfl
  show execAudioMapApply s = _
  rw [execAudioMapApply, hinputs, (s.restarted_held ch v).2.2, hout]
  rfl

theorem audioMapApply_input (s : State) (ch : Fin 2048) (v : BitVec 32) (hin : s.audio.inPend = [(ch.val, v)])
    (hout : s.audio.outPend = []) : ∃ t, exec .audioMapApply s = .next t ∧ t.rd (Reg.audio_IN_MAP ch) = v ∧
      (t.src ch).samples = [] ∧ (t.src ch).expected = none ∧
      t.srcMode ch = (if t.inBound ch then .acquire else .noInput) ∧ t.audio.inPend = [] ∧ t.audio.outPend = [] := by
  obtain ⟨hmap, hmode⟩ := s.restarted_map ch v
  obtain ⟨hsamples, hexpected, -⟩ := s.restarted_held ch v
  exact ⟨_, exec_audioMapApply_input hin hout, hmap, hsamples, hexpected, hmode, rfl, rfl⟩

/-! ### AUDIO packets (R258) -/

/-- The inputs that a packet reaches, each with the packet's channel it takes. -/
def State.packetInputs (u : State) (n chans : Nat) : List (Nat × Nat) :=
  (List.range chans).flatMap fun c => (u.inputsOf n c).map fun i => (i, c)

theorem State.packetInputs_of_unbound {u : State} {n chans : Nat} (h : ∀ c, c < chans → u.inputsOf n c = []) :
    u.packetInputs n chans = [] := by
  refine List.flatMap_eq_nil_iff.2 fun c hc => ?_
  rw [h c (List.mem_range.1 hc), List.map_nil]

section
variable {s u : State} {p : Fin 96} {k : Packet} (dev : Int) (htake : s.takePacket p (fun k => k.typ == 3) = some (k, u))
  (hon : u.audioOn = true) (hmin : 1 ≤ leAt k.payload 0 1) (hmax : leAt k.payload 0 1 ≤ 16) (hn : leAt k.payload 1 1 % 64 ≠ 0)
include htake hon hmin hmax hn

theorem audioPacket_whole (hlost : k.lost = false) (hlen : k.payload.length = 8 + 3 * leAt k.payload 0 1 * (leAt k.payload 1 1 % 64)) :
    exec (.audioPacket p dev) s = .next (u.each (u.packetInputs (16 * p + k.vc) (leAt k.payload 0 1)) fun s q =>
      s.audioTake q.1 (leAt k.payload 4 4) (leAt k.payload 1 1 / 64)
        (audioChannel k.payload (leAt k.payload 0 1) (leAt k.payload 1 1 % 64) q.2) dev) := by
  show execAudioPacket p dev s = _
  rw [execAudioPacket, htake]
  dsimp only
  rw [if_neg (by simp [hon, hn, hlen]; omega), hlost]
  rfl

theorem audioPacket_lost (hlost : k.lost = true) :
    exec (.audioPacket p dev) s = .next (u.each (u.packetInputs (16 * p + k.vc) (leAt k.payload 0 1)) fun s q =>
      s.audioLose q.1 (leAt k.payload 4 4) (leAt k.payload 1 1 % 64)) := by
  show execAudioPacket p dev s = _
  rw [execAudioPacket, htake]
  dsimp only
  rw [if_neg (by simp [hon, hn, hlost]; omega), hlost]
  rfl

theorem audioPacket_unbound (hlost : k.lost = false)
    (hlen : k.payload.length = 8 + 3 * leAt k.payload 0 1 * (leAt k.payload 1 1 % 64))
    (hnone : ∀ c, c < leAt k.payload 0 1 → u.inputsOf (16 * p + k.vc) c = []) : exec (.audioPacket p dev) s = .next u := by
  rw [audioPacket_whole dev htake hon hmin hmax hn hlost hlen, State.packetInputs_of_unbound hnone]
  rfl

end

/-- Settles O24: the maps by what waits and what is applied, the converters by their states, a packet by the inputs it reaches. -/
theorem audioInputs : Obligations.AudioInputs :=
  ⟨⟨inMapWrite_waits, outMapWrite_waits, audioMapApply_output, audioMapApply_input⟩,
    fun _ _ hon hch => ⟨srcStateTimeout_idle hon hch, srcStateTimeout_lock hon hch, srcStateTimeout_range hon hch,
      srcStateTimeout_unlock hon hch, srcStateTimeout_hold hon hch⟩,
    fun _ _ _ dev _ htake hon hmin hmax hn => ⟨audioPacket_whole dev htake hon hmin hmax hn, audioPacket_lost dev htake hon hmin hmax hn,
      audioPacket_unbound dev htake hon hmin hmax hn⟩⟩

end Sys2Proof.Machine
end

section
/-!
PROOFS. The audio engine's outputs: the periods of the audio master, meters, the mixing bank and the packets of a Rasyn output
(09_audio_marginalia.md R260 to R271, R274 to R276).
-/
namespace Sys2Proof.Machine
open Sys2Proof Safety

/-! ### Periods (R260 to R271) -/

/-- The audio master moves to its next period, and every switching point comes one period closer. -/
def State.periodEnded (s : State) : State := s.modAudio fun a =>
  { a with k := a.k + 1, spWait := a.spWait.filterMap fun p => if p.2 ≤ 1 then none else some (p.1, p.2 - 1) }

/-- A period of a muted engine counts and moves no channel (R277). -/
theorem audioSample_muted (s : State) (hoff : s.audioOn = false) : ∃ t, exec .audioSample s = .next t ∧ t.audio.k = s.audio.k + 1 ∧
    t.audio.srcs = s.audio.srcs ∧ t.audio.outs = s.audio.outs ∧ t = { s with audio := t.audio } := by
  have hx : execAudioSample s = .next s.periodEnded := by
    rw [execAudioSample, hoff]
    rfl
  exact ⟨_, hx, rfl, rfl, rfl, rfl⟩

/-- A period of a powered engine runs the converters, then each output, on what the steps before it left. -/
theorem audioSample_powered (s : State) (hon : s.audioOn = true) :
    let a := (s.put R.audio_DELAY_MAX s.delayMax).each (List.range s.inCount) State.convertOne
    let b := a.each (List.range a.outCount) fun s o => (((s.bankStep o).trackDelay o).mixOne o).advanceFade o
    ∃ t, exec .audioSample s = .next t ∧ t.audio.k = b.audio.k + 1 ∧ t = { b with audio := t.audio } ∧
      t.audio.srcs = b.audio.srcs ∧ t.audio.outs = b.audio.outs := by
  intro a b
  have hcount : (s.put R.audio_DELAY_MAX s.delayMax).inCount = s.inCount := State.get_put_apart _ _ _ _ (.inl (by decide))
  have hx : execAudioSample s = .next b.periodEnded := by
    rw [execAudioSample, hon, if_pos rfl]
    dsimp only
    rw [hcount]
    rfl
  exact ⟨_, hx, rfl, rfl, rfl, rfl⟩

/-! ### Meters (R276) -/

/-- The present block of a meter joins the closed ones of the last 300 ms. -/
def SrcChan.blockClosed (c : SrcChan) : SrcChan := { c with blocks := (c.block :: c.blocks).take 30, block := (0, 0, 0) }

/-- The 10 ms of an input's meter end: its half-word shows the closed blocks. -/
def State.inputMetered (s : State) (i : Nat) : State :=
  (s.modSrc i SrcChan.blockClosed).put (meterFld (Reg.audio_IN_METER (i / 2)) i)
    (meterWord ((s.modSrc i SrcChan.blockClosed).src i).blocks)

theorem State.inputMetered_src (s : State) (i : Nat) : (s.inputMetered i).src i = (s.src i).blockClosed :=
  State.src_modSrc s i SrcChan.blockClosed

theorem exec_meterUpdate_one_input {s : State} (hon : s.audioOn = true) (hin : s.inCount = 1) (hout : s.outCount = 0) :
    exec .meterUpdate s = .next (s.inputMetered 0) := by
  have hinputs : s.each (List.range s.inCount) State.inputMetered = s.inputMetered 0 := by
    rw [hin]
    rfl
  have hcount : (s.inputMetered 0).outCount = 0 := (State.get_put_apart _ _ _ _ (.inl (by decide))).trans hout
  show execMeterUpdate s = _
  rw [execMeterUpdate, hon, if_neg (by decide)]
  show Host.Outcome.next ((s.each (List.range s.inCount) State.inputMetered).each
    (List.range (s.each (List.range s.inCount) State.inputMetered).outCount) _) = _
  rw [hinputs, hcount]
  rfl

theorem meterUpdate_one_input (s : State) (hon : s.audioOn = true) (hin : s.inCount = 1) (hout : s.outCount = 0) :
    let l := ((s.src 0).block :: (s.src 0).blocks).take 30
    ∃ t, exec .meterUpdate s = .next t ∧ t.get (meterFld (Reg.audio_IN_METER 0) 0) = meterWord l % 65536 ∧
      (t.src 0).blocks = l ∧ (t.src 0).block = (0, 0, 0) ∧ OnlyRegs s t [Reg.audio_IN_METER 0] ∧
      t = { s with regs := t.regs, audio := t.audio } := by
  have hsrc := s.inputMetered_src 0
  have hfld : (s.inputMetered 0).get (meterFld (Reg.audio_IN_METER 0) 0) =
      meterWord ((s.modSrc 0 SrcChan.blockClosed).src 0).blocks % 65536 := State.get_put_self _ _ _ (by decide)
  rw [State.src_modSrc] at hfld
  exact ⟨_, exec_meterUpdate_one_input hon hin hout, hfld, congrArg SrcChan.blocks hsrc, congrArg SrcChan.block hsrc,
    (OnlyRegs.refl s _).put (meterFld (Reg.audio_IN_METER 0) 0) _ (List.mem_singleton_self _), rfl⟩

/-! ### The mixing bank (R270) -/

theorem State.outChan_modOut (s : State) (o : Nat) (g : OutChan → OutChan) : (s.modOut o g).outChan o = g (s.outChan o) :=
  Sparse.get_set_self _ _ _ _

theorem State.outChan_modOut_ne (s : State) {o p : Nat} (g : OutChan → OutChan) (h : p ≠ o) : (s.modOut o g).outChan p = s.outChan p :=
  Sparse.get_set_ne _ _ _ h

theorem State.mixWords_congr {s t : State} {o : Nat} {active : Bool}
    (h : ∀ j, j < 4 → t.rd (Reg.audio_MIX (4 * o + j) + if active then 0x4000 else 0) =
      s.rd (Reg.audio_MIX (4 * o + j) + if active then 0x4000 else 0)) : t.mixWords o active = s.mixWords o active :=
  List.map_congr_left fun j hj => h j (List.mem_range.1 hj)

/-- A channel's staged entry is copied into the pending set. -/
def State.bankTaken (s : State) (o : Nat) : State :=
  let loose := !s.on (R.audio_OUT_MAP_EN o) || !(s.fabric.now.folios.any fun f => f.folio == s.get (R.audio_OUT_MAP_FOLIO o))
  s.modOut o fun c => { c with bank := some (s.mixWords o false), bankAt := if loose then some (s.fadeSamples / 2) else none }

/-- The output channels whose staged entry differs from the active one. -/
def State.bankChans (s : State) : List Nat := (List.range s.outCount).filter fun o => s.mixWords o false != s.mixWords o true

/-- A copy of the bank awaits its switching points. -/
def State.bankPending (s : State) : State :=
  ((s.each s.bankChans State.bankTaken).put R.audio_BANK_STATUS_PENDING 1).put R.audio_BANK_STATUS_LEFT s.bankChans.length

theorem State.mem_bankChans {s : State} {o : Nat} : o ∈ s.bankChans ↔ o < s.outCount ∧ s.mixWords o false ≠ s.mixWords o true := by
  rw [State.bankChans, List.mem_filter, List.mem_range, bne_iff_ne]

theorem State.bankTaken_each_frame (s : State) (l : List Nat) :
    s.each l State.bankTaken = { s with audio := (s.each l State.bankTaken).audio } := by
  induction l generalizing s with
  | nil => rfl
  | cons o l ih => exact ih (s.bankTaken o)

/-- Each channel of the list has the entry that was staged when the bank was copied, for the copy changes no register. -/
theorem State.bankTaken_each_bank {s t : State} {o : Nat} {l : List Nat} (hregs : t.regs = s.regs)
    (h : o ∈ l ∨ (t.outChan o).bank = some (s.mixWords o false)) :
    ((t.each l State.bankTaken).outChan o).bank = some (s.mixWords o false) := by
  induction l generalizing t with
  | nil => exact h.resolve_left List.not_mem_nil
  | cons p l ih =>
    refine ih (t := t.bankTaken p) hregs ?_
    by_cases hp : o = p
    · subst hp
      refine .inr ((congrArg OutChan.bank (State.outChan_modOut _ _ _)).trans ?_)
      exact congrArg some (State.mixWords_congr fun j _ => congrArg (fun m => Sparse.get regReset m _) hregs)
    · refine h.imp (fun hmem => (List.mem_cons.1 hmem).resolve_left hp) fun hbank => ?_
      exact (congrArg OutChan.bank (State.outChan_modOut_ne _ _ hp)).trans hbank

theorem State.bankPending_onlyRegs (s : State) : OnlyRegs s s.bankPending [Reg.audio_BANK_STATUS] := by
  have hregs : (s.each s.bankChans State.bankTaken).regs = s.regs := State.each_regs (g := State.bankTaken) (fun _ _ => rfl) s _
  have hcopy : OnlyRegs s (s.each s.bankChans State.bankTaken) [Reg.audio_BANK_STATUS] := fun a _ =>
    congrArg (fun m => Sparse.get regReset m a) hregs
  exact (hcopy.put R.audio_BANK_STATUS_PENDING 1 (by decide)).put R.audio_BANK_STATUS_LEFT _ (by decide)

theorem State.bankPending_on (s : State) : s.bankPending.on R.audio_BANK_STATUS_PENDING = true := by
  rw [State.bankPending, State.on_put_apart _ _ _ _ (by decide), State.on_put_self _ _ _ (by decide) rfl]
  rfl

theorem State.bankPending_frame (s : State) : s.bankPending = { s with regs := s.bankPending.regs, audio := s.bankPending.audio } := by
  rw [State.bankPending, State.bankTaken_each_frame]
  rfl

/-- The mixing entries lie apart from BANK_STATUS. -/
theorem State.mixWords_bankPending (s : State) (o : Nat) (active : Bool) : s.bankPending.mixWords o active = s.mixWords o active := by
  refine State.mixWords_congr fun j _ => s.bankPending_onlyRegs _ ?_
  simp only [List.mem_singleton, Reg.audio_MIX, Reg.audio_BANK_STATUS]
  omega

section
variable {s : State} (ha : Answers s Reg.audio_BANK_CMD) (hon : s.audioOn = true)
include ha hon

theorem exec_bankCommit_pending (hp : s.on R.audio_BANK_STATUS_PENDING = true) :
    exec .bankCommit s = .next (s.raise Flag.audio_BANK_OVERRUN) := by
  have hx : execBankCommit s = .next s.armBank := State.rowWrite_answers _ _ _ ha.running ha.live
  rw [State.armBank, hon, hp] at hx
  exact hx

/-- With no switch pending the staged entries that differ are copied, and await their switching points. -/
theorem exec_bankCommit_idle (hp : s.on R.audio_BANK_STATUS_PENDING = false) : exec .bankCommit s = .next (
    if s.bankChans.isEmpty then (s.each s.bankChans State.bankTaken).raise Flag.audio_BANK_DONE
    else s.bankPending) := by
  have hx : execBankCommit s = .next s.armBank := State.rowWrite_answers _ _ _ ha.running ha.live
  rw [State.armBank, hon, hp] at hx
  exact hx

theorem bankCommit_overrun (hp : s.on R.audio_BANK_STATUS_PENDING = true) :
    ∃ t, exec .bankCommit s = .next t ∧ t.get Flag.audio_BANK_OVERRUN.fld = 1 ∧
      t.get Flag.audio_BANK_OVERRUN.counter = min (s.get Flag.audio_BANK_OVERRUN.counter + 1) 0xFFFF ∧
      OnlyRegs s t [Flag.audio_BANK_OVERRUN.addr, Flag.audio_BANK_OVERRUN.counter.addr] ∧ t = { s with regs := t.regs } :=
  ⟨_, exec_bankCommit_pending ha hon hp, s.get_raise_self _ (by decide), s.get_raise_counter _ (by decide),
    (OnlyRegs.refl s _).raise _ (by simp) (by simp), rfl⟩

theorem bankCommit_nothing_staged (hp : s.on R.audio_BANK_STATUS_PENDING = false)
    (hsame : ∀ o, o < s.outCount → s.mixWords o false = s.mixWords o true) :
    ∃ t, exec .bankCommit s = .next t ∧ t.get Flag.audio_BANK_DONE.fld = 1 ∧
      OnlyRegs s t [Flag.audio_BANK_DONE.addr, Flag.audio_BANK_DONE.counter.addr] ∧ t = { s with regs := t.regs } := by
  have hnone : s.bankChans = [] := List.eq_nil_iff_forall_not_mem.2 fun o ho =>
    (State.mem_bankChans.1 ho).2 (hsame o (State.mem_bankChans.1 ho).1)
  have hx := exec_bankCommit_idle ha hon hp
  rw [hnone] at hx
  exact ⟨_, hx, s.get_raise_self _ (by decide), (OnlyRegs.refl s _).raise _ (by simp) (by simp), rfl⟩

theorem bankCommit_staged (o : Nat) (hp : s.on R.audio_BANK_STATUS_PENDING = false) (ho : o < s.outCount)
    (hdiff : s.mixWords o false ≠ s.mixWords o true) :
    ∃ t, exec .bankCommit s = .next t ∧ t.on R.audio_BANK_STATUS_PENDING = true ∧ (t.outChan o).bank = some (s.mixWords o false) ∧
      t.mixWords o true = s.mixWords o true ∧ OnlyRegs s t [Reg.audio_BANK_STATUS] ∧
      t = { s with regs := t.regs, audio := t.audio } := by
  have hmem : o ∈ s.bankChans := State.mem_bankChans.2 ⟨ho, hdiff⟩
  have hx := exec_bankCommit_idle ha hon hp
  rw [if_neg fun h => List.ne_nil_of_mem hmem (List.isEmpty_iff.1 h)] at hx
  exact ⟨_, hx, s.bankPending_on, State.bankTaken_each_bank rfl (.inl hmem), s.mixWords_bankPending o true, s.bankPending_onlyRegs,
    s.bankPending_frame⟩

end

/-! ### The audio packets of a Rasyn output (R274, R275) -/

theorem leBytes_length (n v : Nat) : (leBytes n v).length = n := by
  rw [leBytes, List.length_map, List.length_range]

/-- The samples of a packet's channels, 3 bytes each, the channels of one period after one another. -/
def pcmBytes (cols : List (List Int)) (count : Nat) : List Byte :=
  (List.range count).flatMap fun i => cols.flatMap fun c => leBytes 3 (twos 24 (c.getD i 0))

theorem pcmBytes_length (cols : List (List Int)) (count : Nat) : (pcmBytes cols count).length = 3 * cols.length * count := by
  have hperiod (i : Nat) : (cols.flatMap fun c => leBytes 3 (twos 24 (c.getD i 0))).length = 3 * cols.length := by
    rw [List.length_flatMap]
    simp only [leBytes_length, List.map_const', List.sum_replicate_nat, Nat.mul_comm]
  rw [pcmBytes, List.length_flatMap]
  simp only [hperiod, List.map_const', List.sum_replicate_nat, List.length_range, Nat.mul_comm]

theorem State.rasynIn_of_rasynOut {s : State} {n : Nat} (h : s.rasynOut n = true) : s.rasynIn n = false := by
  rw [State.rasynOut, Bool.or_eq_true, beq_iff_eq, beq_iff_eq] at h
  rcases h with h | h
  · rw [State.rasynIn, h]
    rfl
  · rw [State.rasynIn, h]
    rfl

/-- A Rasyn output sends a packet with the next TAG of its channel and type. -/
theorem State.sendPacket_rasynOut {s : State} {n : Nat} (typ vc : Nat) (payload : List Byte) (h : s.rasynOut n = true) :
    (s.sendPacket n typ vc payload).out =
      s.out ++ [.packet n (packetBytes typ vc 0 (Sparse.get (fun _ => 0) (s.port n).txTags (16 * typ + vc)) payload)] ∧
    (s.sendPacket n typ vc payload).audio = s.audio := by
  rw [State.sendPacket, State.rasynIn_of_rasynOut h]
  exact ⟨rfl, rfl⟩

/-- The next sample to send is the one set, where that is not older than the samples at hand. -/
theorem State.nextSample_setNextSample {s : State} {n k : Nat} (h : s.audio.k - 128 ≤ k) : (s.setNextSample n k).nextSample n = k := by
  have hnext : Sparse.get (fun _ => 0) (s.setNextSample n k).audio.portNext n = k := Sparse.get_set_self _ _ _ _
  rw [State.nextSample, hnext]
  exact Nat.max_eq_left h

/-- Channels in an AUDIO packet of a Folio: the highest position mapped and those below it, at most 16. -/
def State.packetChans (s : State) (f : Nat) : Nat := min 16 ((s.outsOf f).foldl (fun m o => max m (s.get (R.audio_OUT_MAP_POS o) + 1)) 0)

/-- Samples of each channel in a packet of `chans` channels. -/
def packetSamples (chans : Nat) : Nat := min 63 (496 / (3 * max 1 chans))

/-- The samples that a port sends next of each position of a Folio up to the highest mapped one. -/
def State.packetBody (s : State) (n f : Nat) : List Byte :=
  let count := packetSamples (s.packetChans f)
  pcmBytes ((List.range (s.packetChans f)).map fun pos => s.columnAt f pos (s.nextSample n) count) count

theorem State.packetBody_length (s : State) (n f : Nat) :
    (s.packetBody n f).length = 3 * s.packetChans f * packetSamples (s.packetChans f) := by
  rw [State.packetBody, pcmBytes_length, List.length_map, List.length_range]

/-- The payload of an AUDIO packet (03_rasyn_link.md R101) in which a port sends those samples. -/
def State.audioPayload (s : State) (n f : Nat) : List Byte :=
  leBytes 1 (s.packetChans f) ++ leBytes 1 (packetSamples (s.packetChans f)) ++ leBytes 2 0 ++ leBytes 4 (s.nextSample n) ++
    s.packetBody n f

/-- The state once the samples are read: a free value has been drawn where channels share a position (R266). -/
def State.columnsRead (s : State) (f : Nat) : State := if s.doubled f then s.drawn else s

theorem State.columnsRead_keeps (s : State) (n f : Nat) : (s.columnsRead f).rasynOut n = s.rasynOut n ∧
    (s.columnsRead f).port n = s.port n ∧ (s.columnsRead f).out = s.out ∧ (s.columnsRead f).audio = s.audio := by
  unfold State.columnsRead
  split
  · exact ⟨rfl, rfl, rfl, rfl⟩
  · exact ⟨rfl, rfl, rfl, rfl⟩

section
variable {s : State} {n : Fin 96} {f : Nat} (hfolio : s.folioOfPort n = some f) (hrasyn : s.rasynOut n = true) (hup : s.isUp n = true)
  (hon : s.audioOn = true)
include hfolio hrasyn hup hon

theorem audioOutPacket_silent (h : (s.folioUp f && s.composing f) = false) :
    exec (.audioOutPacket n) s = .next (s.setNextSample n s.audio.k) := by
  show execAudioOutPacket n s = _
  simp only [execAudioOutPacket, hfolio, hrasyn, hup, hon, h, and_self, Bool.false_eq_true, if_true, if_false]

theorem audioOutPacket_too_few (h : (s.folioUp f && s.composing f) = true)
    (hfew : s.packetChans f = 0 ∨ s.audio.k < s.nextSample n + packetSamples (s.packetChans f)) :
    exec (.audioOutPacket n) s = .next s := by
  show execAudioOutPacket n s = _
  simp only [execAudioOutPacket, hfolio, hrasyn, hup, hon, h, and_self, if_true]
  exact if_pos hfew

theorem exec_audioOutPacket_sends (h : (s.folioUp f && s.composing f) = true) (hchans : s.packetChans f ≠ 0)
    (hready : s.nextSample n + packetSamples (s.packetChans f) ≤ s.audio.k) :
    exec (.audioOutPacket n) s = .next (((s.columnsRead f).sendPacket n 3 0 (s.audioPayload n f)).setNextSample n
      (s.nextSample n + packetSamples (s.packetChans f))) := by
  show execAudioOutPacket n s = _
  simp only [execAudioOutPacket, hfolio, hrasyn, hup, hon, h, and_self, if_true]
  exact if_neg fun hno => hno.elim hchans (Nat.not_lt.2 hready)

theorem audioOutPacket_sends (h : (s.folioUp f && s.composing f) = true) (hchans : s.packetChans f ≠ 0)
    (hready : s.nextSample n + packetSamples (s.packetChans f) ≤ s.audio.k) :
    let chans := s.packetChans f
    let count := packetSamples chans
    ∃ body t, body.length = 3 * chans * count ∧ exec (.audioOutPacket n) s = .next t ∧ t.nextSample n = s.nextSample n + count ∧
      t.out = s.out ++ [.packet n (packetBytes 3 0 0 (Sparse.get (fun _ => 0) (s.port n).txTags 48)
        (leBytes 1 chans ++ leBytes 1 count ++ leBytes 2 0 ++ leBytes 4 (s.nextSample n) ++ body))] := by
  obtain ⟨hmode, hport, hout, haudio⟩ := s.columnsRead_keeps n f
  obtain ⟨hsent, hkept⟩ := State.sendPacket_rasynOut 3 0 (s.audioPayload n f) (hmode.trans hrasyn)
  refine ⟨_, _, s.packetBody_length n f, exec_audioOutPacket_sends hfolio hrasyn hup hon h hchans hready,
    State.nextSample_setNextSample ?_, ?_⟩
  · rw [hkept, haudio, State.nextSample]
    omega
  · rw [hport, hout] at hsent
    exact hsent

end

/-- Settles O25: a period by whether the engine is powered, a bank command by what is pending and staged, a packet by the samples that
are ready. -/
theorem audioOutputs : Obligations.AudioOutputs := by
  refine ⟨⟨audioSample_muted, audioSample_powered, meterUpdate_one_input⟩,
    fun s ha hon => ⟨bankCommit_overrun ha hon, bankCommit_nothing_staged ha hon, fun o _ => bankCommit_staged ha hon o⟩,
    fun s n f hfolio hrasyn hup hon => ⟨audioOutPacket_silent hfolio hrasyn hup hon, fun h => ⟨fun hfew => ?_, fun hchans hready => ?_⟩⟩⟩
  · exact audioOutPacket_too_few hfolio hrasyn hup hon h hfew
  · exact audioOutPacket_sends hfolio hrasyn hup hon h hchans hready

end Sys2Proof.Machine
end

section
/-!
PROOFS. Accesses to stream memory: what the accounting of an access leaves, what a permitted access of good words stores and answers,
and what the firewall refuses (10_stream_memory.md R285 to R287, R290 to R294).
-/
namespace Sys2Proof.Machine
open Sys2Proof Safety

/-! ### Accounting leaves what memory holds (R292 to R294) -/

/-- What stream memory holds and what waits for it, beside the fabric's counts of its traffic. -/
def MemState.data (m : MemState) : List Host.Cell × List (Nat × WordEcc) × List MemReq × Nat := (m.bytes, m.ecc, m.held, m.scrubWord)

/-- Between two states the fabric has counted: only the registers listed and stream memory's counts may differ. -/
structure KeepsData (l : List Nat) (s t : State) : Prop where
  regs : OnlyRegs s t l
  frame : t = { s with regs := t.regs, mem := t.mem }
  data : t.mem.data = s.mem.data

section
variable {l : List Nat} {s t u : State}

theorem KeepsData.refl (l : List Nat) (s : State) : KeepsData l s s := ⟨OnlyRegs.refl s l, rfl, rfl⟩

theorem KeepsData.trans (h : KeepsData l s t) (h' : KeepsData l t u) : KeepsData l s u where
  regs a ha := (h'.regs a ha).trans (h.regs a ha)
  frame := by rw [h'.frame, h.frame]
  data := h'.data.trans h.data

theorem KeepsData.memByte (h : KeepsData l s t) (a : Nat) : t.memByte a = s.memByte a :=
  congrArg (fun d : List Host.Cell × _ => Sparse.get (fun _ => 0) d.1 a) h.data

theorem KeepsData.wordEcc (h : KeepsData l s t) (w : Nat) : t.wordEcc w = s.wordEcc w :=
  congrArg (fun d : _ × List (Nat × WordEcc) × _ => Sparse.get (fun _ => WordEcc.good) d.2.1 w) h.data

theorem KeepsData.fwAllows (h : KeepsData l s t) (kind : Nat) (write : Bool) (addr len : Nat) :
    t.fwAllows kind write addr len = s.fwAllows kind write addr len := by
  rw [h.frame]
  rfl

theorem KeepsData.out (h : KeepsData l s t) : t.out = s.out := by rw [h.frame]

theorem KeepsData.put (h : KeepsData l s t) (f : Fld) (v : Nat) (hf : f.addr ∈ l) : KeepsData l s (t.put f v) :=
  h.trans ⟨(OnlyRegs.refl t l).put f v hf, rfl, rfl⟩

theorem KeepsData.raise (h : KeepsData l s t) (f : Flg) (hf : f.addr ∈ l) (hc : f.counter.addr ∈ l) : KeepsData l s (t.raise f) :=
  (h.put f.fld 1 hf).put f.counter _ hc

theorem KeepsData.modMem (h : KeepsData l s t) (g : MemState → MemState) (hg : (g t.mem).data = t.mem.data) :
    KeepsData l s (t.modMem g) := h.trans ⟨fun _ _ => rfl, rfl, hg⟩

theorem KeepsData.each {α : Type} {g : State → α → State} (h : KeepsData l s t) (as : List α)
    (hg : ∀ u a, KeepsData l s u → KeepsData l s (g u a)) : KeepsData l s (t.each as g) :=
  List.foldlRecOn as g h fun u hu a _ => hg u a hu

theorem KeepsData.setChannel0 (h : KeepsData l s t) (c : Nat) (x : Nat × Nat) : KeepsData l s (t.setChannel0 c x) := h.modMem _ rfl

theorem KeepsData.passSlots (h : KeepsData l s t) (n : Nat) : KeepsData l s (t.passSlots n) := by
  unfold State.passSlots
  split
  · exact h
  · exact (h.each _ fun u c hu => hu.setChannel0 c _).modMem _ rfl

theorem KeepsData.chargeClass (h : KeepsData l s t) (cls bytes : Nat) (ns : Rat) : KeepsData l s (t.chargeClass cls bytes ns) :=
  h.modMem _ rfl

theorem KeepsData.useMem (h : KeepsData l s t) (port cls bytes : Nat) (ns : Rat) : KeepsData l s (t.useMem port cls bytes ns) := by
  unfold State.useMem
  split
  · dsimp only
    have hmetered : KeepsData l s (if port < 22 then t.modMem fun m =>
        { m with metered := Sparse.set (fun _ => 0) m.metered port (Sparse.get (fun _ => 0) m.metered port + bytes) } else t) := by
      split
      · exact h.modMem _ rfl
      · exact h
    split
    · exact (hmetered.chargeClass _ _ _).chargeClass _ _ _
    · exact hmetered.chargeClass _ _ _
  · exact h.chargeClass cls bytes ns

theorem KeepsData.enqueue0 (h : KeepsData l s t) (c : Nat) : KeepsData l s (t.enqueue0 c).2 := h.setChannel0 c _

/-- A block of 64 bytes joins its channel's queue; the flag remembers whether one was full (R292). -/
def joinQueue (x : Bool × State) (b : Nat) : Bool × State :=
  (x.1 || (x.2.enqueue0 (channelOf (64 * b))).1, (x.2.enqueue0 (channelOf (64 * b))).2)

theorem State.enqueueBytes_eq (s : State) (addr len : Nat) : ∃ blocks : List Nat, s.enqueueBytes addr len =
    let x := blocks.foldl joinQueue (false, s)
    if x.1 then (x.2.bump R.memory_CL0_QFULL).raise Flag.memory_CL0_QFULL else x.2 := ⟨_, rfl⟩

theorem KeepsData.enqueueBytes (h : KeepsData l s t) (addr len : Nat) (hcount : R.memory_CL0_QFULL.addr ∈ l)
    (hflag : Flag.memory_CL0_QFULL.addr ∈ l) (hcounter : Flag.memory_CL0_QFULL.counter.addr ∈ l) :
    KeepsData l s (t.enqueueBytes addr len) := by
  obtain ⟨blocks, hblocks⟩ := t.enqueueBytes_eq addr len
  have hjoined : KeepsData l s (blocks.foldl joinQueue (false, t)).2 :=
    List.foldlRecOn (motive := fun x : Bool × State => KeepsData l s x.2) blocks joinQueue h fun x hx b _ => hx.enqueue0 _
  rw [hblocks]
  dsimp only
  split
  · exact (hjoined.put _ _ hcount).raise _ hflag hcounter
  · exact hjoined

end

/-! ### An access that arrives and is served (R292 to R294) -/

/-- The registers in which a class-0 access may show. -/
def classZeroRegs : List Nat :=
  [Reg.memory_CL0_LAT_MAX, R.memory_CL0_QFULL.addr, Flag.memory_CL0_QFULL.addr, Flag.memory_CL0_QFULL.counter.addr]

/-- The registers in which an access of a class may show. -/
def accessRegs (cls : Fin 4) : List Nat := if cls.val = 0 then classZeroRegs else []

/-- The longest class-0 latency shows in CL0_LAT_MAX. -/
def State.latencySeen (s : State) (ns : Nat) : State :=
  (s.put R.memory_CL0_LAT_MAX (max (s.get R.memory_CL0_LAT_MAX) (min ns (2 ^ 32 - 1)))).modMem fun m =>
    { m with latSecond := max m.latSecond ns }

/-- What an access brings with it: the slots that have passed and, of class 0, its latency. -/
def State.arrives (s : State) (cls : Fin 4) (ns slots : Nat) : State :=
  if cls = 0 then (s.passSlots slots).latencySeen ns else s.passSlots slots

/-- The accounting of an access: its blocks join the class-0 queues, and its class is charged. -/
def State.accounts (s : State) (r : MemReq) (n : Nat) : State :=
  (if r.cls = 0 then s.enqueueBytes r.addr (s.classZero r.port n) else s).useMem r.port r.cls n (reqTime n r.ns)

theorem State.memServe_write {s : State} {r : MemReq} (h : r.write = true) :
    s.memServe r = (s.accounts r r.data.length).memWrite r.kind r.addr r.data := by
  rw [State.memServe, h]
  rfl

/-- What a read took is answered. -/
def answered (x : List (Byte × Bool) × State) : State := x.2.emit (.memory (x.1.map (·.1)) (x.1.map (·.2)))

theorem State.memServe_read {s : State} {r : MemReq} (h : r.write = false) :
    s.memServe r = answered ((s.accounts r r.len).memRead r.kind r.addr r.len) := by
  rw [State.memServe, h]
  rfl

theorem memUp_of_regs {s t : State} {l : List Nat} (h : OnlyRegs s t l) (hl : Reg.memory_STATUS ∉ l) : t.memUp = s.memUp := by
  rw [State.memUp, State.memUp, State.on_congr (f := R.memory_STATUS_TRAINED) (h _ hl),
    State.get_congr (f := R.memory_STATUS_PD_STATE) (h _ hl)]

theorem State.arrives_keepsData (s : State) (cls : Fin 4) (ns slots : Nat) : KeepsData (accessRegs cls) s (s.arrives cls ns slots) := by
  have hpassed := (KeepsData.refl (accessRegs cls) s).passSlots slots
  by_cases hcls : cls = 0
  · subst hcls
    exact hpassed.trans (((KeepsData.refl classZeroRegs _).put R.memory_CL0_LAT_MAX _ (by decide)).modMem
      (fun m => { m with latSecond := max m.latSecond ns }) rfl)
  · rw [State.arrives, if_neg hcls]
    exact hpassed

theorem State.accounts_keepsData (s : State) {cls : Fin 4} {r : MemReq} (hr : r.cls = cls.val) (n : Nat) :
    KeepsData (accessRegs cls) s (s.accounts r n) := by
  refine KeepsData.useMem ?_ _ _ _ _
  by_cases hzero : cls.val = 0
  · rw [if_pos (hr.trans hzero), accessRegs, if_pos hzero]
    exact (KeepsData.refl classZeroRegs s).enqueueBytes _ _ (by decide) (by decide) (by decide)
  · rw [if_neg fun h => hzero (hr.symm.trans h)]
    exact KeepsData.refl _ s

theorem status_not_accessReg (cls : Fin 4) : Reg.memory_STATUS ∉ accessRegs cls := by
  unfold accessRegs
  split
  · decide
  · exact List.not_mem_nil

/-- An access that arrives while the memory is up is served. -/
theorem exec_memoryAccess {s : State} (hup : s.memUp = true) (kind : Fin 10) (write : Bool) (cls : Fin 4) (addr : BitVec 35) (len : Nat)
    (data : List Byte) (ns : Nat) (port : Fin 23) (slots : Nat) :
    exec (.memoryAccess kind write cls addr len data [] ns port slots) s =
      .next ((s.arrives cls ns slots).memServe ⟨kind, write, cls, addr.toNat, len, data, port, if cls = 0 then 0 else ns⟩) := by
  have hstill : (s.arrives cls ns slots).memUp = true :=
    (memUp_of_regs (s.arrives_keepsData cls ns slots).regs (status_not_accessReg cls)).trans hup
  show Host.Outcome.next ((s.arrives cls ns slots).memAccess _) = _
  rw [State.memAccess, if_pos hstill]

theorem State.passSlots_uncharged (s : State) (n : Nat) :
    (s.passSlots n).mem.served = s.mem.served ∧ (s.passSlots n).mem.charge = s.mem.charge := by
  unfold State.passSlots
  split
  · exact ⟨rfl, rfl⟩
  · exact List.foldlRecOn (motive := fun t : State => t.mem.served = s.mem.served ∧ t.mem.charge = s.mem.charge) (List.range 32) _
      ⟨rfl, rfl⟩ fun t ht c _ => ht

/-- Outside class 0 the class is charged with the bytes, their slots and the time beside them (R293). -/
theorem State.accounts_charged {s : State} {cls : Fin 4} (hcls : cls.val ≠ 0) (ns slots : Nat) {r : MemReq} (hr : r.cls = cls.val)
    (n : Nat) : let t := (s.arrives cls ns slots).accounts r n
      Sparse.get (fun _ => 0) t.mem.served cls = Sparse.get (fun _ => 0) s.mem.served cls + n ∧
      Sparse.get (fun _ => 0) t.mem.charge cls = Sparse.get (fun _ => 0) s.mem.charge cls + reqTime n r.ns := by
  obtain ⟨hserved, hcharge⟩ := s.passSlots_uncharged slots
  have harrives : s.arrives cls ns slots = s.passSlots slots := if_neg fun h => hcls (congrArg Fin.val h)
  have haccounts : (s.passSlots slots).accounts r n = (s.passSlots slots).chargeClass cls n (reqTime n r.ns) := by
    rw [State.accounts, hr, if_neg hcls, State.useMem, if_neg hcls]
  rw [harrives, haccounts, ← hserved, ← hcharge]
  exact ⟨Sparse.get_set_self _ _ _ _, Sparse.get_set_self _ _ _ _⟩

/-! ### The firewall (R290, R291) -/

section
variable {s : State} {kind : Nat} (h6 : kind ≠ 6) (h7 : kind ≠ 7)
include h6 h7

theorem accessPieces_unit (addr len : Nat) : accessPieces kind addr len = [(addr, len)] := if_neg (not_or.2 ⟨h6, h7⟩)

theorem State.memWrite_unit (addr : Nat) (bs : List Byte) : s.memWrite kind addr bs =
    if s.fwAllows kind true addr bs.length then s.memPut kind addr bs else s.fwRefuse kind true addr := by
  rw [State.memWrite, accessPieces_unit h6 h7, List.foldl_cons, List.foldl_nil, List.take_length]

theorem State.memRead_unit (addr len : Nat) : s.memRead kind addr len =
    if s.fwAllows kind false addr len then s.memTake kind addr len
    else (List.replicate len (0, false), s.fwRefuse kind false addr) := by
  rw [State.memRead, accessPieces_unit h6 h7, List.foldl_cons, List.foldl_nil]
  rfl

end

/-! ### Good words (R286, R287) -/

theorem State.eccRead_good {s : State} {w : Nat} (h : s.wordEcc w = .good) (source : Nat) : s.eccRead w source = (false, s) := by
  rw [State.eccRead, h]

/-- A word that a write of `n` bytes touches: read through ECC where it is written in part, then good (R286, R287). -/
def State.wordWritten (kind addr n : Nat) (s : State) (w : Nat) : State :=
  if addr ≤ 32 * w ∧ 32 * w + 32 ≤ addr + n then s.setWordEcc w .good
  else
    let (poison, s) := s.eccRead w (sourceOf kind)
    if poison then s else s.setWordEcc w .good

theorem State.memPut_eq (s : State) (kind addr : Nat) (bs : List Byte) : s.memPut kind addr bs =
    (s.each (wordsOf addr bs.length) (State.wordWritten kind addr bs.length)).each bs.zipIdx fun s p => s.setMemByte (addr + p.2) p.1 :=
  rfl

theorem State.wordWritten_good {s : State} {w : Nat} (h : s.wordEcc w = .good) (kind addr n : Nat) :
    s.wordWritten kind addr n w = s.setWordEcc w .good := by
  rw [State.wordWritten, State.eccRead_good h]
  exact ite_self _

theorem State.wordEcc_setWordEcc_self (s : State) (w : Nat) (e : WordEcc) : (s.setWordEcc w e).wordEcc w = e :=
  Sparse.get_set_self _ _ _ _

theorem State.wordEcc_setWordEcc_ne (s : State) {v w : Nat} (e : WordEcc) (h : v ≠ w) : (s.setWordEcc w e).wordEcc v = s.wordEcc v :=
  Sparse.get_set_ne (fun _ => WordEcc.good) s.mem.ecc e h

theorem State.wordEcc_setWordEcc_good {s : State} {w : Nat} (h : s.wordEcc w = .good) (v : Nat) :
    (s.setWordEcc w .good).wordEcc v = s.wordEcc v := by
  by_cases hv : v = w
  · rw [hv, State.wordEcc_setWordEcc_self, h]
  · exact State.wordEcc_setWordEcc_ne s _ hv

/-- Writing good words leaves every word as good as it was. -/
theorem State.wordsWritten_good (kind addr n : Nat) (ws : List Nat) (s : State) (h : ∀ w ∈ ws, s.wordEcc w = .good) :
    ∃ ecc, s.each ws (State.wordWritten kind addr n) = { s with mem := { s.mem with ecc := ecc } } ∧
      ∀ v, Sparse.get (fun _ => .good) ecc v = s.wordEcc v := by
  induction ws generalizing s with
  | nil => exact ⟨s.mem.ecc, rfl, fun _ => rfl⟩
  | cons w ws ih =>
    have hw := h w List.mem_cons_self
    obtain ⟨ecc, heach, hecc⟩ := ih (s.setWordEcc w .good) fun v hv =>
      (State.wordEcc_setWordEcc_good hw v).trans (h v (List.mem_cons_of_mem w hv))
    refine ⟨ecc, ?_, fun v => (hecc v).trans (State.wordEcc_setWordEcc_good hw v)⟩
    rw [State.each, List.foldl_cons, State.wordWritten_good hw]
    exact heach

/-- Bytes stored from an address on read back, and no other byte changes. -/
theorem State.bytesStored (addr : Nat) (bs : List Byte) (k : Nat) (s : State) :
    ∃ cells, (s.each (bs.zipIdx k) fun s p => s.setMemByte (addr + p.2) p.1) = { s with mem := { s.mem with bytes := cells } } ∧
      (∀ i b, bs[i]? = some b → Sparse.get (fun _ => 0) cells (addr + k + i) = b) ∧
      ∀ a, a < addr + k ∨ addr + k + bs.length ≤ a → Sparse.get (fun _ => 0) cells a = s.memByte a := by
  induction bs generalizing k s with
  | nil => exact ⟨s.mem.bytes, rfl, fun i b h => by simp at h, fun _ _ => rfl⟩
  | cons b bs ih =>
    obtain ⟨cells, heach, hin, hout⟩ := ih (k + 1) (s.setMemByte (addr + k) b)
    refine ⟨cells, heach, fun i c hc => ?_, fun a ha => ?_⟩
    · cases i with
      | zero =>
        rw [hout _ (.inl (by omega))]
        exact (Sparse.get_set_self _ _ _ _).trans (Option.some.inj hc)
      | succ i =>
        have := hin i c hc
        rwa [show addr + (k + 1) + i = addr + k + (i + 1) by omega] at this
    · rw [List.length_cons] at ha
      rw [hout a (by omega)]
      exact Sparse.get_set_ne _ _ _ (by omega)

/-- A write of good words stores its bytes, and changes neither another byte nor what a word's ECC says. -/
theorem State.memPut_good {s : State} {addr : Nat} {bs : List Byte} (h : ∀ w ∈ wordsOf addr bs.length, s.wordEcc w = .good)
    (kind : Nat) :
    (∀ i b, bs[i]? = some b → (s.memPut kind addr bs).memByte (addr + i) = b) ∧
      (∀ a, a < addr ∨ addr + bs.length ≤ a → (s.memPut kind addr bs).memByte a = s.memByte a) ∧
      (∀ w, (s.memPut kind addr bs).wordEcc w = s.wordEcc w) ∧
      ∃ cells ecc, s.memPut kind addr bs = { s with mem := { s.mem with bytes := cells, ecc := ecc } } := by
  obtain ⟨ecc, hwords, hecc⟩ := State.wordsWritten_good kind addr bs.length _ s h
  obtain ⟨cells, hbytes, hin, hout⟩ := State.bytesStored addr bs 0 { s with mem := { s.mem with ecc := ecc } }
  rw [State.memPut_eq, hwords, hbytes]
  exact ⟨hin, hout, hecc, cells, ecc, rfl⟩

/-- A read of good words answers the bytes and changes nothing. -/
theorem State.memTake_good {s : State} {addr len : Nat} (h : ∀ w ∈ wordsOf addr len, s.wordEcc w = .good) (kind : Nat) :
    s.memTake kind addr len = ((List.range len).map fun i => (s.memByte (addr + i), false), s) := by
  have hread : (wordsOf addr len).foldl (fun (x : List Nat × State) w =>
      let (p, s) := x.2.eccRead w (sourceOf kind)
      (if p then w :: x.1 else x.1, s)) ([], s) = ([], s) :=
    List.foldlRecOn (motive := fun x => x = ([], s)) _ _ rfl fun x hx w hw => by
      rw [hx, State.eccRead_good (h w hw)]
      rfl
  rw [State.memTake, hread]
  rfl

/-! ### A refusal (R291) -/

theorem fwViol_lt (kind : Fin 10) : Reg.memory_FW_VIOL kind < Reg.memory_FW_LAST := by
  rw [Reg.memory_FW_VIOL, Reg.memory_FW_LAST]
  omega

section
variable (s : State) (kind : Fin 10) (write : Bool) (addr : BitVec 35)

/-- The violation is counted for its kind, and FW_VIOL is raised. -/
def State.violation : State := (s.bump (R.memory_FW_VIOL kind)).raise Flag.memory_FW_VIOL

/-- The record of a violation (R291). -/
def violationRecord : BitVec 32 :=
  setBits (setBits (setBits (setBits 0 31 31 1) 30 30 (if write then 1 else 0)) 29 26 kind) 18 0 (addr.toNat / 65536)

theorem State.fwRefuse_eq : s.fwRefuse kind write addr.toNat =
    if (s.violation kind).on R.memory_FW_LAST_VALID then s.violation kind
    else (s.violation kind).wr Reg.memory_FW_LAST (violationRecord kind write addr) := rfl

theorem State.violation_fwLast : (s.violation kind).rd Reg.memory_FW_LAST = s.rd Reg.memory_FW_LAST :=
  (State.rd_raise_ne _ _ (by decide) (by decide)).trans (State.rd_bump_ne _ _ (Nat.ne_of_gt (fwViol_lt kind)))

theorem State.violation_counted :
    (s.violation kind).get (R.memory_FW_VIOL kind) = min (s.get (R.memory_FW_VIOL kind) + 1) (2 ^ 32 - 1) ∧
      (s.violation kind).get Flag.memory_FW_VIOL.fld = 1 := by
  have hflag : Reg.memory_FW_VIOL kind ≠ Flag.memory_FW_VIOL.addr := Nat.ne_of_lt (Nat.lt_trans (fwViol_lt kind) (by decide))
  have hcounter : Reg.memory_FW_VIOL kind ≠ Flag.memory_FW_VIOL.counter.addr := Nat.ne_of_lt (Nat.lt_trans (fwViol_lt kind) (by decide))
  refine ⟨?_, State.get_raise_self _ _ (by decide)⟩
  rw [State.violation, State.get_raise_apart _ _ _ (.inl hflag) (.inl hcounter)]
  exact State.get_bump_self _ _ ⟨(by decide : 0 ≤ 31), (by decide : 31 < 32)⟩

theorem State.fwRefuse_frame : s.fwRefuse kind write addr.toNat = { s with regs := (s.fwRefuse kind write addr.toNat).regs } := by
  rw [State.fwRefuse_eq]
  split
  · rfl
  · rfl

theorem State.fwRefuse_counted :
    (s.fwRefuse kind write addr.toNat).get (R.memory_FW_VIOL kind) = min (s.get (R.memory_FW_VIOL kind) + 1) (2 ^ 32 - 1) ∧
      (s.fwRefuse kind write addr.toNat).get Flag.memory_FW_VIOL.fld = 1 := by
  rw [State.fwRefuse_eq]
  split
  · exact s.violation_counted kind
  · rw [State.get_wr_ne _ _ _ _ (Nat.ne_of_lt (fwViol_lt kind)), State.get_wr_ne _ _ _ _ (by decide)]
    exact s.violation_counted kind

theorem State.fwRefuse_recorded (h : s.on R.memory_FW_LAST_VALID = true) :
    (s.fwRefuse kind write addr.toNat).rd Reg.memory_FW_LAST = s.rd Reg.memory_FW_LAST := by
  have hvalid : (s.violation kind).on R.memory_FW_LAST_VALID = true := (State.on_congr (s.violation_fwLast kind)).trans h
  rw [State.fwRefuse_eq, if_pos hvalid]
  exact s.violation_fwLast kind

theorem State.fwRefuse_records (h : s.on R.memory_FW_LAST_VALID = false) :
    (s.fwRefuse kind write addr.toNat).rd Reg.memory_FW_LAST = violationRecord kind write addr := by
  have hfree : (s.violation kind).on R.memory_FW_LAST_VALID = false := (State.on_congr (s.violation_fwLast kind)).trans h
  rw [State.fwRefuse_eq, hfree]
  exact State.rd_wr_self _ _ _

end

theorem violationRecord_fields (kind : Fin 10) (write : Bool) (addr : BitVec 35) :
    getBits (violationRecord kind write addr) 31 31 = 1 ∧ getBits (violationRecord kind write addr) 29 26 = kind.val ∧
      getBits (violationRecord kind write addr) 18 0 = addr.toNat / 65536 := by
  unfold violationRecord
  refine ⟨?_, ?_, ?_⟩
  · iterate 3 rw [getBits_setBits_apart _ _ _ _ _ _ (by decide) (by decide) (by decide)]
    exact getBits_setBits _ _ _ _ (by decide) (by decide)
  · rw [getBits_setBits_apart _ _ _ _ _ _ (by decide) (by decide) (by decide), getBits_setBits _ _ _ _ (by decide) (by decide)]
    omega
  · rw [getBits_setBits _ _ _ _ (by decide) (by decide)]
    omega

/-- A refusal after an access was counted: memory keeps its bytes, the violation is counted, and recorded unless a record stands. -/
theorem State.fwRefuse_after {s u : State} (hu : KeepsData [] s u) (kind : Fin 10) (write : Bool) (addr : BitVec 35) :
    let t := u.fwRefuse kind write addr.toNat
    t.out = s.out ∧ t.mem.bytes = s.mem.bytes ∧ t.mem.ecc = s.mem.ecc ∧
      t.get (R.memory_FW_VIOL kind) = min (s.get (R.memory_FW_VIOL kind) + 1) (2 ^ 32 - 1) ∧ t.get Flag.memory_FW_VIOL.fld = 1 ∧
      (s.on R.memory_FW_LAST_VALID = true → t.rd Reg.memory_FW_LAST = s.rd Reg.memory_FW_LAST) ∧
      (s.on R.memory_FW_LAST_VALID = false → t.on R.memory_FW_LAST_VALID = true ∧
        getBits (t.rd Reg.memory_FW_LAST) 29 26 = kind.val ∧ getBits (t.rd Reg.memory_FW_LAST) 18 0 = addr.toNat / 65536) := by
  have hrd (a : Nat) : u.rd a = s.rd a := hu.regs a List.not_mem_nil
  have hvalid : u.on R.memory_FW_LAST_VALID = s.on R.memory_FW_LAST_VALID := State.on_congr (hrd _)
  obtain ⟨hcount, hflag⟩ := u.fwRefuse_counted kind write addr
  obtain ⟨hmark, hkind, haddr⟩ := violationRecord_fields kind write addr
  have hmem : (u.fwRefuse kind write addr.toNat).mem = u.mem := by rw [State.fwRefuse_frame]
  have hout : (u.fwRefuse kind write addr.toNat).out = u.out := by rw [State.fwRefuse_frame]
  rw [State.get_congr (hrd _)] at hcount
  refine ⟨hout.trans hu.out, ?_, ?_, hcount, hflag, fun hon => ?_, fun hoff => ?_⟩
  · rw [hmem]
    exact congrArg Prod.fst hu.data
  · rw [hmem]
    exact congrArg (fun d : _ × List (Nat × WordEcc) × _ => d.2.1) hu.data
  · exact (u.fwRefuse_recorded kind write addr (hvalid.trans hon)).trans (hrd _)
  · have hrecord := u.fwRefuse_records kind write addr (hvalid.trans hoff)
    rw [hrecord, State.on, State.get, beq_iff_eq]
    exact ⟨(congrArg (fun w => getBits w 31 31) hrecord).trans hmark, hkind, haddr⟩

/-! ### Accesses of a unit -/

section
variable {s : State} {kind : Fin 10} {addr : BitVec 35} (cls : Fin 4) (data : List Byte) (ns : Nat) (port : Fin 23)
  (slots : Nat) (h6 : kind.val ≠ 6) (h7 : kind.val ≠ 7) (hup : s.memUp = true)
include h6 h7 hup

/-- A unit's write is counted, then served as the firewall judges it. -/
theorem exec_memoryAccess_write (len : Nat) : ∃ u, KeepsData (accessRegs cls) s u ∧
    (cls.val ≠ 0 →
      Sparse.get (fun _ => 0) u.mem.served cls = Sparse.get (fun _ => 0) s.mem.served cls + data.length ∧
      Sparse.get (fun _ => 0) u.mem.charge cls = Sparse.get (fun _ => 0) s.mem.charge cls + reqTime data.length ns) ∧
    exec (.memoryAccess kind true cls addr len data [] ns port slots) s = .next (
      if s.fwAllows kind true addr.toNat data.length then u.memPut kind addr.toNat data else u.fwRefuse kind true addr.toNat) := by
  let r : MemReq := ⟨kind, true, cls, addr.toNat, len, data, port, if cls = 0 then 0 else ns⟩
  have hu : KeepsData (accessRegs cls) s ((s.arrives cls ns slots).accounts r data.length) :=
    (s.arrives_keepsData cls ns slots).trans ((s.arrives cls ns slots).accounts_keepsData rfl _)
  refine ⟨_, hu, fun hcls => ?_, ?_⟩
  · have hns : r.ns = ns := if_neg fun h => hcls (congrArg Fin.val h)
    have hcharged := State.accounts_charged (s := s) hcls ns slots (r := r) rfl data.length
    rwa [hns] at hcharged
  · rw [exec_memoryAccess hup, State.memServe_write rfl, ← hu.fwAllows]
    exact congrArg _ (State.memWrite_unit h6 h7 _ _)

/-- A unit's read is counted, then served as the firewall judges it, and answered. -/
theorem exec_memoryAccess_read (len : Nat) : ∃ u, KeepsData (accessRegs cls) s u ∧
    exec (.memoryAccess kind false cls addr len data [] ns port slots) s = .next (answered (
      if s.fwAllows kind false addr.toNat len then u.memTake kind addr.toNat len
      else (List.replicate len (0, false), u.fwRefuse kind false addr.toNat))) := by
  let r : MemReq := ⟨kind, false, cls, addr.toNat, len, data, port, if cls = 0 then 0 else ns⟩
  have hu : KeepsData (accessRegs cls) s ((s.arrives cls ns slots).accounts r len) :=
    (s.arrives_keepsData cls ns slots).trans ((s.arrives cls ns slots).accounts_keepsData rfl _)
  refine ⟨_, hu, ?_⟩
  rw [exec_memoryAccess hup, State.memServe_read rfl, ← hu.fwAllows]
  exact congrArg (fun x => Host.Outcome.next (answered x)) (State.memRead_unit h6 h7 _ _)

variable {data}

theorem memoryAccess_write (hgood : ∀ w ∈ wordsOf addr.toNat data.length, s.wordEcc w = .good)
    (hallow : s.fwAllows kind true addr.toNat data.length = true) :
    ∃ t, exec (.memoryAccess kind true cls addr data.length data [] ns port slots) s = .next t ∧
      (∀ i b, data[i]? = some b → t.memByte (addr.toNat + i) = b) ∧
      (∀ a, a < addr.toNat ∨ addr.toNat + data.length ≤ a → t.memByte a = s.memByte a) ∧
      (∀ w, t.wordEcc w = s.wordEcc w) ∧
      (cls.val ≠ 0 →
        Sparse.get (fun _ => 0) t.mem.served cls = Sparse.get (fun _ => 0) s.mem.served cls + data.length ∧
        Sparse.get (fun _ => 0) t.mem.charge cls = Sparse.get (fun _ => 0) s.mem.charge cls + reqTime data.length ns) ∧
      OnlyRegs s t (accessRegs cls) ∧ t = { s with regs := t.regs, mem := t.mem } := by
  obtain ⟨u, hu, hcharged, hx⟩ := exec_memoryAccess_write (addr := addr) cls data ns port slots h6 h7 hup data.length
  rw [if_pos hallow] at hx
  obtain ⟨hin, hout, hecc, cells, ecc, hput⟩ := State.memPut_good (fun w hw => (hu.wordEcc w).trans (hgood w hw)) kind.val
  refine ⟨_, hx, hin, fun a ha => (hout a ha).trans (hu.memByte a), fun w => (hecc w).trans (hu.wordEcc w), ?_⟩
  rw [hput]
  exact ⟨hcharged, hu.regs, by rw [hu.frame]⟩

theorem memoryAccess_read (hgood : ∀ w ∈ wordsOf addr.toNat data.length, s.wordEcc w = .good)
    (hallow : s.fwAllows kind false addr.toNat data.length = true) :
    ∃ t, exec (.memoryAccess kind false cls addr data.length [] [] ns port slots) s = .next t ∧
      t.out = s.out ++ [.memory ((List.range data.length).map fun i => s.memByte (addr.toNat + i)) (List.replicate data.length false)] ∧
      t.mem.bytes = s.mem.bytes ∧ (∀ w, t.wordEcc w = s.wordEcc w) ∧
      OnlyRegs s t (accessRegs cls) ∧ t = { s with regs := t.regs, mem := t.mem, out := t.out } := by
  obtain ⟨u, hu, hx⟩ := exec_memoryAccess_read (addr := addr) cls [] ns port slots h6 h7 hup data.length
  rw [if_pos hallow, State.memTake_good fun w hw => (hu.wordEcc w).trans (hgood w hw)] at hx
  simp only [answered, List.map_map, Function.comp_def, hu.memByte, List.map_const', List.length_range] at hx
  refine ⟨_, hx, ?_, congrArg Prod.fst hu.data, hu.wordEcc, hu.regs, ?_⟩
  · rw [State.emit, hu.out]
  · rw [State.emit, hu.frame]

theorem memoryAccess_refused (write : Bool) (hcls : cls.val ≠ 0) (hrefuse : s.fwAllows kind write addr.toNat data.length = false) :
    ∃ t, exec (.memoryAccess kind write cls addr data.length data [] ns port slots) s = .next t ∧
      t.mem.bytes = s.mem.bytes ∧ t.mem.ecc = s.mem.ecc ∧
      t.get (R.memory_FW_VIOL kind) = min (s.get (R.memory_FW_VIOL kind) + 1) (2 ^ 32 - 1) ∧ t.get Flag.memory_FW_VIOL.fld = 1 ∧
      (s.on R.memory_FW_LAST_VALID = true → t.rd Reg.memory_FW_LAST = s.rd Reg.memory_FW_LAST) ∧
      (s.on R.memory_FW_LAST_VALID = false → t.on R.memory_FW_LAST_VALID = true ∧
        getBits (t.rd Reg.memory_FW_LAST) 29 26 = kind.val ∧ getBits (t.rd Reg.memory_FW_LAST) 18 0 = addr.toNat / 65536) ∧
      t.out = s.out ++ (if write then [] else [.memory (List.replicate data.length 0) (List.replicate data.length false)]) := by
  have hlist : accessRegs cls = [] := if_neg hcls
  cases write with
  | true =>
    obtain ⟨u, hu, -, hx⟩ := exec_memoryAccess_write (addr := addr) cls data ns port slots h6 h7 hup data.length
    rw [hrefuse] at hx
    obtain ⟨hout, hrest⟩ := State.fwRefuse_after (hlist ▸ hu) kind true addr
    obtain ⟨hbytes, hecc, hcount, hflag, hstood, hrecord⟩ := hrest
    exact ⟨_, hx, hbytes, hecc, hcount, hflag, hstood, hrecord, hout.trans (List.append_nil _).symm⟩
  | false =>
    obtain ⟨u, hu, hx⟩ := exec_memoryAccess_read (addr := addr) cls data ns port slots h6 h7 hup data.length
    rw [hrefuse, if_neg Bool.false_ne_true, answered, List.map_replicate, List.map_replicate] at hx
    obtain ⟨hout, hrest⟩ := State.fwRefuse_after (hlist ▸ hu) kind false addr
    obtain ⟨hbytes, hecc, hcount, hflag, hstood, hrecord⟩ := hrest
    exact ⟨_, hx, hbytes, hecc, hcount, hflag, hstood, hrecord, congrArg (· ++ _) hout⟩

end

/-- Settles O27: an access is counted without a change of what memory holds, then the firewall decides; good words are stored and read
as they are. -/
theorem memoryAccesses : Obligations.MemoryAccesses := by
  constructor
  · intro s kind cls addr data ns port slots zero h6 h7 hup hgood
    exact ⟨memoryAccess_write cls ns port slots h6 h7 hup hgood, memoryAccess_read cls ns port slots h6 h7 hup hgood⟩
  · intro s kind cls addr data ns write port slots h6 h7 hup hcls hrefuse
    exact memoryAccess_refused cls ns port slots h6 h7 hup write hcls hrefuse

end Sys2Proof.Machine
end

section
/-!
PROOFS. The host's window into stream memory, and scrubbing (10_stream_memory.md R286 to R290, R302).
-/
namespace Sys2Proof.Machine
open Sys2Proof Safety

/-! ### BAR2 (R289) -/

section
variable {s : State} (write : Bool) (offset len : Nat) (data : List Byte)

theorem bar2Access_served (hup : s.memUp = true) :
    exec (.bar2Access write offset len data []) s =
      .next (s.memServe ⟨6, write, 3, (s.get R.memory_BAR2_WIN_BASE * 65536 + offset) % memSize, len, data, 22,
        Config.rowTime ((s.get R.memory_BAR2_WIN_BASE * 65536 + offset) % memSize) len⟩) := by
  let r : MemReq := ⟨6, write, 3, (s.get R.memory_BAR2_WIN_BASE * 65536 + offset) % memSize, len, data, 22,
    Config.rowTime ((s.get R.memory_BAR2_WIN_BASE * 65536 + offset) % memSize) len⟩
  show Host.Outcome.next (s.memAccess r) = .next (s.memServe r)
  rw [State.memAccess, if_pos hup]

theorem bar2Access_held (hdown : s.memUp = false) :
    ∃ t, exec (.bar2Access write offset len data []) s = .next t ∧
      t.mem.held.map (fun r => (r.kind, r.write, r.cls, r.addr, r.len, r.data)) =
        s.mem.held.map (fun r => (r.kind, r.write, r.cls, r.addr, r.len, r.data)) ++
          [(6, write, 3, (s.get R.memory_BAR2_WIN_BASE * 65536 + offset) % memSize, len, data)] ∧
      t = { s with mem := { s.mem with held := t.mem.held } } := by
  let r : MemReq := ⟨6, write, 3, (s.get R.memory_BAR2_WIN_BASE * 65536 + offset) % memSize, len, data, 22,
    Config.rowTime ((s.get R.memory_BAR2_WIN_BASE * 65536 + offset) % memSize) len⟩
  have hx : exec (.bar2Access write offset len data []) s = .next (s.modMem fun m => { m with held := m.held ++ [r] }) := by
    show Host.Outcome.next (s.memAccess r) = _
    rw [State.memAccess, hdown]
    rfl
  exact ⟨_, hx, List.map_append, rfl⟩

end

/-! ### Scrubbing (R286 to R288) -/

/-- The accounting of a scrub access: class 0 takes a credit of its channel, and its class is charged. -/
def State.scrubCharged (s : State) : State :=
  (if s.scrubClass s.mem.scrubWord = 0 then (s.enqueue0 (channelOf (32 * s.mem.scrubWord))).2 else s).useMem 22
    (s.scrubClass s.mem.scrubWord) 32 (reqTime 32 0)

theorem State.scrubCharged_keepsData (s : State) : KeepsData [] s s.scrubCharged := by
  refine KeepsData.useMem ?_ _ _ _ _
  split
  · exact (KeepsData.refl [] s).enqueue0 _
  · exact KeepsData.refl [] s

/-- The position moves to the next word, and after the last to the first with SCRUB_DONE (R288). -/
def State.scrubMoved (s : State) (n : Nat) : State :=
  let s := (s.modMem fun m => { m with scrubWord := n }).put R.memory_SCRUB_POS_POS (n * 32 / 65536)
  if n = 0 then (s.bump R.memory_SCRUB_PASSES).raise Flag.memory_SCRUB_DONE else s

theorem exec_scrubStep_eq (s : State) : exec (.scrubStep []) s =
    if s.on R.memory_SCRUB_CFG_EN && s.memUp then
      let x := s.scrubCharged.eccRead s.mem.scrubWord 1
      .next ((if x.1 then x.2 else x.2.setWordEcc s.mem.scrubWord .good).scrubMoved ((s.mem.scrubWord + 1) % 2 ^ 30))
    else .next s := rfl

/-- A word without an uncorrectable error is read, with its correction counted, and written back. -/
theorem exec_scrubStep {s u : State} (hen : s.on R.memory_SCRUB_CFG_EN = true) (hup : s.memUp = true)
    (hread : s.scrubCharged.eccRead s.mem.scrubWord 1 = (false, u)) :
    exec (.scrubStep []) s = .next ((u.setWordEcc s.mem.scrubWord .good).scrubMoved ((s.mem.scrubWord + 1) % 2 ^ 30)) := by
  rw [exec_scrubStep_eq, hen, hup, hread]
  rfl

theorem State.scrubMoved_mem (s : State) (n : Nat) : (s.scrubMoved n).mem = { s.mem with scrubWord := n } := by
  unfold State.scrubMoved
  split
  · rfl
  · rfl

theorem State.setWordEcc_get (s : State) (w : Nat) (e : WordEcc) (f : Fld) : (s.setWordEcc w e).get f = s.get f := rfl

theorem State.wordEcc_scrubMoved (s : State) (n w : Nat) : (s.scrubMoved n).wordEcc w = s.wordEcc w := by
  rw [State.wordEcc, State.scrubMoved_mem]
  rfl

theorem State.scrubMoved_of_ne (s : State) {n : Nat} (hn : n ≠ 0) : s.scrubMoved n =
    (s.modMem fun m => { m with scrubWord := n }).put R.memory_SCRUB_POS_POS (n * 32 / 65536) := if_neg hn

section
variable {s : State} (hen : s.on R.memory_SCRUB_CFG_EN = true) (hup : s.memUp = true)
include hen hup

theorem scrubStep_corrects (hmore : s.mem.scrubWord + 1 < 2 ^ 30) (hword : s.wordEcc s.mem.scrubWord = .oneSymbol) :
    ∃ t, exec (.scrubStep []) s = .next t ∧ t.wordEcc s.mem.scrubWord = .good ∧
      (∀ w, w ≠ s.mem.scrubWord → t.wordEcc w = s.wordEcc w) ∧ t.mem.scrubWord = s.mem.scrubWord + 1 ∧
      t.get R.memory_ECC_CORR = min (s.get R.memory_ECC_CORR + 1) (2 ^ 32 - 1) ∧ t.get Flag.memory_ECC_CORR.fld = 1 ∧
      t.get R.memory_SCRUB_POS_POS = (s.mem.scrubWord + 1) * 32 / 65536 ∧ t.mem.bytes = s.mem.bytes := by
  have hu := s.scrubCharged_keepsData
  generalize hw : s.mem.scrubWord = w at *
  have hread : s.scrubCharged.eccRead w 1 = (false, (s.scrubCharged.bump R.memory_ECC_CORR).raise Flag.memory_ECC_CORR) := by
    rw [State.eccRead, (hu.wordEcc _).trans hword]
  have hx := exec_scrubStep hen hup (hw ▸ hread)
  rw [hw, Nat.mod_eq_of_lt hmore] at hx
  refine ⟨_, hx, ?_, fun v hv => ?_, ?_, ?_, ?_, ?_, ?_⟩
  · rw [State.wordEcc_scrubMoved, State.wordEcc_setWordEcc_self]
  · rw [State.wordEcc_scrubMoved, State.wordEcc_setWordEcc_ne _ _ hv]
    exact hu.wordEcc v
  · rw [State.scrubMoved_mem]
  · rw [State.scrubMoved_of_ne _ (Nat.succ_ne_zero w), State.get_put_apart _ _ _ _ (.inl (by decide)), State.modMem_get,
      State.setWordEcc_get, State.get_raise_apart _ _ _ (.inl (by decide)) (.inl (by decide)), State.get_bump_self _ _ (by decide),
      State.get_congr (hu.regs _ List.not_mem_nil)]
    rfl
  · rw [State.scrubMoved_of_ne _ (Nat.succ_ne_zero w), State.get_put_apart _ _ _ _ (.inl (by decide)), State.modMem_get,
      State.setWordEcc_get, State.get_raise_self _ _ (by decide)]
  · rw [State.scrubMoved_of_ne _ (Nat.succ_ne_zero w), State.get_put_self _ _ _ (by decide)]
    exact Nat.mod_eq_of_lt (show (w + 1) * 32 / 65536 < 2 ^ 19 by omega)
  · rw [State.scrubMoved_mem]
    exact congrArg Prod.fst hu.data

theorem scrubStep_ends_pass (hlast : s.mem.scrubWord + 1 = 2 ^ 30) (hword : s.wordEcc s.mem.scrubWord = .good) :
    ∃ t, exec (.scrubStep []) s = .next t ∧ t.mem.scrubWord = 0 ∧ t.get R.memory_SCRUB_POS_POS = 0 ∧
      t.get R.memory_SCRUB_PASSES = min (s.get R.memory_SCRUB_PASSES + 1) (2 ^ 32 - 1) ∧ t.get Flag.memory_SCRUB_DONE.fld = 1 := by
  have hu := s.scrubCharged_keepsData
  have hx := exec_scrubStep hen hup (State.eccRead_good ((hu.wordEcc _).trans hword) 1)
  rw [hlast, Nat.mod_self, State.scrubMoved, if_pos rfl] at hx
  refine ⟨_, hx, rfl, ?_, ?_, State.get_raise_self _ _ (by decide)⟩
  · rw [State.get_raise_apart _ _ _ (.inl (by decide)) (.inl (by decide)), State.get_bump_apart _ _ _ (.inl (by decide)),
      State.get_put_self _ _ _ (by decide)]
    rfl
  · rw [State.get_raise_apart _ _ _ (.inl (by decide)) (.inl (by decide)), State.get_bump_self _ _ (by decide),
      State.get_put_apart _ _ _ _ (.inl (by decide)), State.modMem_get, State.setWordEcc_get,
      State.get_congr (hu.regs _ List.not_mem_nil)]
    rfl

end

/-- Settles O28: a request through BAR2 is served or waits by whether the memory is up; a scrubbed word is read through ECC and written
back before the position moves. -/
theorem memoryScrubbing : Obligations.MemoryScrubbing := by
  refine ⟨⟨fun s write offset len data => bar2Access_served write offset len data,
    fun s write offset len data => bar2Access_held write offset len data⟩, fun s hen hup _ => ⟨?_, ?_⟩⟩
  · exact scrubStep_corrects hen hup
  · exact scrubStep_ends_pass hen hup

end Sys2Proof.Machine
end

section
/-!
PROOFS. The classes' windows: what is shed at a window's end, what a class was served in a millisecond, and the class-0 load of a
requester port (10_stream_memory.md R293 to R297).
-/
namespace Sys2Proof.Machine
open Sys2Proof Safety

/-! ### What a step over a list does to one reading -/

/-- A reading that no item of a list changes is as it was. -/
theorem foldl_unseen {σ α β : Type} {g : σ → α → σ} (see : σ → β) {l : List α} (h : ∀ b ∈ l, ∀ s, see (g s b) = see s) (s : σ) :
    see (l.foldl g s) = see s :=
  List.foldlRecOn (motive := fun t => see t = see s) l g rfl fun t ht b hb => (h b hb t).trans ht

/-- A reading that one item of a list changes is changed by it alone, where no two items have the same key. -/
theorem foldl_seen {σ α β κ : Type} {g : σ → α → σ} (see : σ → β) (F : β → β) (key : α → κ) {a : α} {l : List α}
    (hl : l.Pairwise fun b c => key b ≠ key c) (ha : a ∈ l) (hself : ∀ s, see (g s a) = F (see s))
    (hother : ∀ b, key b ≠ key a → ∀ s, see (g s b) = see s) (s : σ) : see (l.foldl g s) = F (see s) := by
  induction l generalizing s with
  | nil => exact absurd ha List.not_mem_nil
  | cons b l ih =>
    obtain ⟨hb, hrest⟩ := List.pairwise_cons.1 hl
    rw [List.foldl_cons]
    rcases List.mem_cons.1 ha with rfl | hmem
    · rw [foldl_unseen see fun c hc => hother c (hb c hc).symm, hself]
    · rw [ih hrest hmem, hother b (hb a hmem)]

/-- A step over a list whose items write registers alone writes registers alone. -/
theorem State.each_regs_frame {α : Type} {g : State → α → State} (h : ∀ s a, g s a = { s with regs := (g s a).regs }) (s : State)
    (l : List α) : s.each l g = { s with regs := (s.each l g).regs } := by
  refine List.foldlRecOn (motive := fun t => t = { s with regs := t.regs }) (b := s) l g rfl fun t ht a _ => ?_
  rw [h t a, ht]

/-! ### The end of a window (R293, R297) -/

/-- Whether work of a class is left at the window's end. -/
def State.sheds (s : State) (c : Nat) : Bool := s.windowRest.any fun q => q.1 == c && decide (0 < q.2.2)

/-- Whether work of any class is left. -/
def State.shedsAny (s : State) : Bool := s.sheds 1 || s.sheds 2 || s.sheds 3

/-- A class shows whether it is shed, and counts the window where it is. -/
def State.classShown (shed : Bool) (s : State) (c : Nat) : State :=
  let s := s.put (R.memory_CLASS_CFG_SHED c) (if shed then 1 else 0)
  if shed then s.bumpBy (R.memory_CLASS_SHED_US c) 10 else s

/-- Classes 1 to 3 show what is shed of them. -/
def State.classesShown (s : State) : State := s.each [1, 2, 3] fun t c => t.classShown (s.sheds c) c

/-- The classes' outcomes, and SHED raised where nothing was shed before. -/
def State.shedShown (s : State) : State := s.classesShown.raiseIf (s.shedsAny && !s.classesShown.mem.shedBefore) Flag.memory_SHED

/-- The work left in the window waits for the next, which has the present band's entitlements. -/
def State.windowEnded (s : State) : State :=
  s.shedShown.modMem fun m =>
    { m with shedBefore := s.shedsAny, charge := [], windows := m.windows + 1, windowBand := s.shedShown.get R.memory_STATUS_BAND,
             backlog := ((0, 0, s.demand 0 - min windowTime (s.demand 0)) :: s.windowRest).foldl
               (fun l q => Sparse.set (fun _ => (0 : Rat)) l q.1 q.2.2) [] }

/-- The use of a class in the millisecond shows. -/
def State.useShown (s : State) (c : Nat) : State :=
  s.put (R.memory_CLASS_USE c) (Sparse.get (fun _ => 0) s.mem.served c * 8 / 1000)

/-- The millisecond's use of each class shows, and the next begins. -/
def State.usesShown (s : State) : State :=
  (s.each [0, 1, 2, 3] State.useShown).modMem fun m => { m with windows := 0, served := [] }

theorem exec_classWindowEnd (s : State) : exec .classWindowEnd s =
    if s.windowEnded.mem.windows < 100 then .next s.windowEnded else .next s.windowEnded.usesShown := rfl

theorem State.classShown_frame (shed : Bool) (s : State) (c : Nat) :
    s.classShown shed c = { s with regs := (s.classShown shed c).regs } := by
  cases shed with
  | false => rfl
  | true => rfl

theorem State.raiseIf_frame (s : State) (b : Bool) (f : Flg) : s.raiseIf b f = { s with regs := (s.raiseIf b f).regs } := by
  cases b with
  | false => rfl
  | true => rfl

theorem State.classesShown_frame (s : State) : s.classesShown = { s with regs := s.classesShown.regs } :=
  State.each_regs_frame (fun t c => State.classShown_frame (s.sheds c) t c) s [1, 2, 3]

theorem State.shedShown_frame (s : State) : s.shedShown = { s with regs := s.shedShown.regs } := by
  rw [State.shedShown, State.raiseIf_frame, s.classesShown_frame]

theorem State.shedShown_mem (s : State) : s.shedShown.mem = s.mem := by rw [State.shedShown_frame]

theorem State.rd_classShown_ne (shed : Bool) (s : State) (c : Nat) {a : Nat} (hcfg : a ≠ Reg.memory_CLASS_CFG c)
    (hus : a ≠ Reg.memory_CLASS_SHED_US c) : (s.classShown shed c).rd a = s.rd a := by
  unfold State.classShown
  dsimp only
  split
  · rw [State.rd_bumpBy_ne _ _ _ hus, State.rd_put_ne _ _ _ hcfg]
  · rw [State.rd_put_ne _ _ _ hcfg]

/-- What a class shows: whether it is shed, and for how long it was. -/
def State.shedView (s : State) (c : Nat) : Nat × Nat := (s.get (R.memory_CLASS_CFG_SHED c), s.get (R.memory_CLASS_SHED_US c))

/-- What a class shows after a window. -/
def shedAfter (shed : Bool) (x : Nat × Nat) : Nat × Nat :=
  (if shed then 1 else 0, if shed then min (x.2 + 10) (2 ^ 32 - 1) else x.2)

theorem State.shedView_classShown (shed : Bool) (s : State) (c : Nat) :
    (s.classShown shed c).shedView c = shedAfter shed (s.shedView c) := by
  have hcfg (v : Nat) : (s.put (R.memory_CLASS_CFG_SHED c) v).get (R.memory_CLASS_CFG_SHED c) = v % 2 :=
    State.get_put_self _ _ _ ⟨(by decide : 31 ≤ 31), (by decide : 31 < 32)⟩
  have hne : Reg.memory_CLASS_SHED_US c ≠ Reg.memory_CLASS_CFG c := by
    rw [Reg.memory_CLASS_SHED_US, Reg.memory_CLASS_CFG]
    omega
  have hus (v : Nat) : (s.put (R.memory_CLASS_CFG_SHED c) v).get (R.memory_CLASS_SHED_US c) = s.get (R.memory_CLASS_SHED_US c) :=
    State.get_put_apart _ _ _ _ (.inl hne)
  cases shed with
  | false => exact Prod.ext (hcfg 0) (hus 0)
  | true =>
    refine Prod.ext ((State.get_bumpBy_apart _ _ _ _ (.inl hne.symm)).trans (hcfg 1)) ?_
    refine (State.get_bumpBy_self _ _ _ ⟨(by decide : 0 ≤ 31), (by decide : 31 < 32)⟩).trans ?_
    exact congrArg (fun x => min (x + 10) (2 ^ 32 - 1)) (hus 1)

theorem State.shedView_congr {s t : State} {c : Nat} (hcfg : t.rd (Reg.memory_CLASS_CFG c) = s.rd (Reg.memory_CLASS_CFG c))
    (hus : t.rd (Reg.memory_CLASS_SHED_US c) = s.rd (Reg.memory_CLASS_SHED_US c)) : t.shedView c = s.shedView c :=
  Prod.ext (State.get_congr hcfg) (State.get_congr hus)

/-- The words in which one class shows are no other class's. -/
theorem State.shedView_classShown_ne (shed : Bool) (s : State) {c d : Nat} (h : d ≠ c) :
    (s.classShown shed d).shedView c = s.shedView c := by
  refine State.shedView_congr (State.rd_classShown_ne _ _ _ ?_ ?_) (State.rd_classShown_ne _ _ _ ?_ ?_)
  all_goals
    simp only [Reg.memory_CLASS_CFG, Reg.memory_CLASS_SHED_US]
    omega

/-- The classes' words lie below those of the event flags. -/
theorem classWords_lt {c : Nat} (h : c ≤ 3) : Reg.memory_CLASS_SHED_US c < Reg.memory_INT_STATUS ∧
    Reg.memory_CLASS_CFG c < Reg.memory_INT_STATUS := by
  simp only [Reg.memory_CLASS_CFG, Reg.memory_CLASS_SHED_US, Reg.memory_INT_STATUS]
  omega

theorem shedFlag_not_mem {a : Nat} (h : a < Reg.memory_INT_STATUS) :
    a ∉ [Flag.memory_SHED.addr, Flag.memory_SHED.counter.addr] := by
  have hplace : ∀ b ∈ [Flag.memory_SHED.addr, Flag.memory_SHED.counter.addr], Reg.memory_INT_STATUS ≤ b := by decide
  exact fun hmem => absurd h (Nat.not_lt.2 (hplace a hmem))

/-- After the window each class shows its own outcome. -/
theorem State.shedView_shedShown (s : State) {c : Nat} (h1 : 1 ≤ c) (h3 : c ≤ 3) :
    s.shedShown.shedView c = shedAfter (s.sheds c) (s.shedView c) := by
  obtain ⟨hus, hcfg⟩ := classWords_lt h3
  have hflag : s.shedShown.shedView c = s.classesShown.shedView c :=
    State.shedView_congr (s.classesShown.raiseIf_onlyRegs _ _ _ (shedFlag_not_mem hcfg))
      (s.classesShown.raiseIf_onlyRegs _ _ _ (shedFlag_not_mem hus))
  have hmem : c ∈ [1, 2, 3] := by
    simp only [List.mem_cons, List.not_mem_nil]
    omega
  exact hflag.trans (foldl_seen (g := fun t d => t.classShown (s.sheds d) d) (fun t => t.shedView c) (shedAfter (s.sheds c)) id
    (by decide) hmem (fun t => State.shedView_classShown _ t c) (fun d hne t => State.shedView_classShown_ne _ t hne) s)

theorem State.band_shedShown (s : State) : s.shedShown.get R.memory_STATUS_BAND = s.get R.memory_STATUS_BAND := by
  refine State.get_congr ((s.classesShown.raiseIf_onlyRegs _ _ _ (shedFlag_not_mem (by decide))).trans ?_)
  refine foldl_unseen (g := fun t d => t.classShown (s.sheds d) d) (fun t => t.rd Reg.memory_STATUS)
    (fun c _ t => State.rd_classShown_ne _ _ _ ?_ ?_) s
  all_goals
    simp only [Reg.memory_STATUS, Reg.memory_CLASS_CFG, Reg.memory_CLASS_SHED_US]
    omega

/-! ### What is left of a window (R293, R297) -/

theorem shareRound_classes (x : Rat × List (Nat × Nat × Rat)) : (shareRound x).2.map Prod.fst = x.2.map Prod.fst := by
  rw [shareRound, List.map_map]
  rfl

/-- What the classes wait for when each has had its entitlement (R293). -/
def State.windowWaits (s : State) : Rat × List (Nat × Nat × Rat) :=
  [1, 2, 3].foldl (fun (x : Rat × List (Nat × Nat × Rat)) c =>
    let got := min (min (s.entitlement c) x.1) (s.demand c)
    (x.1 - got, x.2 ++ [(c, s.get (R.memory_CLASS_CFG_WEIGHT c), s.demand c - got)])) (windowTime - min windowTime (s.demand 0), [])

theorem State.windowRest_eq (s : State) : s.windowRest =
    if s.on R.memory_STATUS_WARMUP then s.windowWaits.2 else (shareRound (shareRound (shareRound s.windowWaits))).2 := rfl

/-- What is left is listed once for each of classes 1 to 3. -/
theorem State.windowRest_classes (s : State) : s.windowRest.map Prod.fst = [1, 2, 3] := by
  rw [State.windowRest_eq]
  split
  · rfl
  · rw [shareRound_classes, shareRound_classes, shareRound_classes]
    rfl

/-- The work left of a class is what it brings to the next window. -/
theorem backlog_of_rest {l : List (Nat × Nat × Rat)} (hl : (l.map Prod.fst).Nodup) {q : Nat × Nat × Rat} (hq : q ∈ l)
    (m : List (Nat × Rat)) :
    Sparse.get (fun _ => 0) (l.foldl (fun l q => Sparse.set (fun _ => (0 : Rat)) l q.1 q.2.2) m) q.1 = q.2.2 :=
  foldl_seen (g := fun (m : List (Nat × Rat)) (q : Nat × Nat × Rat) => Sparse.set (fun _ => (0 : Rat)) m q.1 q.2.2)
    (fun m => Sparse.get (fun _ => 0) m q.1) (fun _ => q.2.2) Prod.fst (List.pairwise_map.1 hl) hq (fun _ => Sparse.get_set_self _ _ _ _)
    (fun _ hne _ => Sparse.get_set_ne _ _ _ hne.symm) m

theorem ratMin_eq_if (a b : Rat) : min a b = if a ≤ b then a else b := Rat.min_def

theorem ratMin_eq_right {a b : Rat} (h : b ≤ a) : min a b = b := by
  rw [ratMin_eq_if]
  split
  · next hle => exact Rat.le_antisymm hle h
  · rfl

theorem le_ratMin {a b c : Rat} (ha : c ≤ a) (hb : c ≤ b) : c ≤ min a b := by
  rw [ratMin_eq_if]
  split
  · exact ha
  · exact hb

/-- Nothing waits at all. -/
def NoneWaits (l : List (Nat × Nat × Rat)) : Prop := ∀ q ∈ l, q.2.2 = 0

/-- With nothing waiting a round of sharing gives nothing. -/
theorem shareRound_noneWaits {x : Rat × List (Nat × Nat × Rat)} (h : NoneWaits x.2) : NoneWaits (shareRound x).2 := by
  intro q hq
  obtain ⟨r, hr, rfl⟩ := List.mem_map.1 hq
  show r.2.2 - (if 0 < r.2.2 ∧ _ then _ else _) = 0
  rw [h r hr, if_neg fun hpos => Rat.lt_irrefl hpos.1, Rat.sub_self]

section
variable {s : State} (hwithin : ∀ c, 1 ≤ c → c ≤ 3 → s.demand c ≤ s.entitlement c)
  (hpos : ∀ c, c ≤ 3 → 0 ≤ s.demand c) (htotal : s.demand 0 + s.demand 1 + s.demand 2 + s.demand 3 ≤ windowTime)
include hwithin hpos htotal

/-- While all fits the window, each class within its entitlement gets what it asks for. -/
theorem State.windowWaits_none : NoneWaits s.windowWaits.2 := by
  have h0 := hpos 0 (by decide)
  have h1 := hpos 1 (by decide)
  have h2 := hpos 2 (by decide)
  have h3 := hpos 3 (by decide)
  have hgot (c : Nat) (h1 : 1 ≤ c) (h3 : c ≤ 3) (left : Rat) (hleft : s.demand c ≤ left) :
      min (min (s.entitlement c) left) (s.demand c) = s.demand c := ratMin_eq_right (le_ratMin (hwithin c h1 h3) hleft)
  have hzero : min windowTime (s.demand 0) = s.demand 0 := ratMin_eq_right (by grind)
  have hwaits : s.windowWaits.2 = [1, 2, 3].map fun c => (c, s.get (R.memory_CLASS_CFG_WEIGHT c), 0) := by
    simp only [State.windowWaits, List.foldl_cons, List.foldl_nil, hzero]
    rw [hgot 1 (by decide) (by decide) _ (by grind), hgot 2 (by decide) (by decide) _ (by grind),
      hgot 3 (by decide) (by decide) _ (by grind)]
    simp only [Rat.sub_self, List.nil_append, List.cons_append, List.map_cons, List.map_nil]
  intro q hq
  rw [hwaits] at hq
  obtain ⟨c, -, rfl⟩ := List.mem_map.1 hq
  rfl

theorem State.windowRest_none : NoneWaits s.windowRest := by
  have hwaits := State.windowWaits_none hwithin hpos htotal
  rw [State.windowRest_eq]
  split
  · exact hwaits
  · exact shareRound_noneWaits (shareRound_noneWaits (shareRound_noneWaits hwaits))

theorem State.sheds_none (c : Nat) : s.sheds c = false := by
  refine List.any_eq_false.2 fun q hq => ?_
  rw [State.windowRest_none hwithin hpos htotal q hq]
  simp

end

/-! ### What a class was served (R293) -/

/-- What a class was served in the millisecond, and what it shows of it. -/
def State.useView (s : State) (c : Nat) : List (Nat × Nat) × Nat := (s.mem.served, s.get (R.memory_CLASS_USE c))

theorem State.useView_useShown_ne (s : State) {c d : Nat} (h : d ≠ c) : (s.useShown d).useView c = s.useView c := by
  refine Prod.ext rfl (State.get_put_apart _ _ _ _ (.inl ?_))
  simp only [R.memory_CLASS_USE, Reg.memory_CLASS_USE]
  omega

theorem State.useView_useShown (s : State) (c : Nat) :
    (s.useShown c).useView c = (s.mem.served, Sparse.get (fun _ => 0) s.mem.served c * 8 / 1000 % 2 ^ 32) :=
  Prod.ext rfl (State.get_put_self _ _ _ ⟨(by decide : 0 ≤ 31), (by decide : 31 < 32)⟩)

theorem State.useView_each (s : State) {c : Nat} (hc : c < 4) : (s.each [0, 1, 2, 3] State.useShown).useView c =
    (s.mem.served, Sparse.get (fun _ => 0) s.mem.served c * 8 / 1000 % 2 ^ 32) := by
  have hmem : c ∈ [0, 1, 2, 3] := by
    simp only [List.mem_cons, List.not_mem_nil]
    omega
  exact foldl_seen (g := State.useShown) (fun t => t.useView c) (fun x => (x.1, Sparse.get (fun _ => 0) x.1 c * 8 / 1000 % 2 ^ 32))
    id (by decide) hmem (fun t => t.useView_useShown c) (fun _ hne t => t.useView_useShown_ne hne) s

theorem State.get_usesShown (s : State) {c : Nat} (hc : c < 4) :
    s.usesShown.get (R.memory_CLASS_USE c) = Sparse.get (fun _ => 0) s.mem.served c * 8 / 1000 % 2 ^ 32 :=
  congrArg Prod.snd (s.useView_each hc)

/-! ### The window's end -/

theorem windowEnd_within {s : State} (h : s.mem.windows + 1 < 100) : exec .classWindowEnd s = .next s.windowEnded := by
  rw [exec_classWindowEnd]
  refine if_pos ?_
  show s.shedShown.mem.windows + 1 < 100
  rwa [State.shedShown_mem]

theorem windowEnd_last {s : State} (h : s.mem.windows + 1 = 100) : exec .classWindowEnd s = .next s.windowEnded.usesShown := by
  rw [exec_classWindowEnd]
  refine if_neg ?_
  show ¬s.shedShown.mem.windows + 1 < 100
  rw [State.shedShown_mem, h]
  decide

theorem State.shedView_windowEnded (s : State) {c : Nat} (h1 : 1 ≤ c) (h3 : c ≤ 3) :
    s.windowEnded.get (R.memory_CLASS_CFG_SHED c) = (if s.sheds c then 1 else 0) ∧
      s.windowEnded.get (R.memory_CLASS_SHED_US c) =
        if s.sheds c then min (s.get (R.memory_CLASS_SHED_US c) + 10) (2 ^ 32 - 1) else s.get (R.memory_CLASS_SHED_US c) :=
  Prod.ext_iff.1 (s.shedView_shedShown h1 h3)

theorem classWindowEnd_sheds (s : State) (hwindows : s.mem.windows + 1 < 100) :
    let shed (c : Nat) : Bool := s.windowRest.any fun q => q.1 == c && decide (0 < q.2.2)
    ∃ t, exec .classWindowEnd s = .next t ∧
      (∀ c, 1 ≤ c → c ≤ 3 → t.on (R.memory_CLASS_CFG_SHED c) = shed c ∧
        t.get (R.memory_CLASS_SHED_US c) =
          (if shed c then min (s.get (R.memory_CLASS_SHED_US c) + 10) (2 ^ 32 - 1) else s.get (R.memory_CLASS_SHED_US c))) ∧
      (∀ q ∈ s.windowRest, Sparse.get (fun _ => 0) t.mem.backlog q.1 = q.2.2) ∧ t.mem.windowBand = s.get R.memory_STATUS_BAND ∧
      t.mem.windows = s.mem.windows + 1 ∧ t.mem.charge = [] ∧ t.mem.bytes = s.mem.bytes ∧
      t = { s with regs := t.regs, mem := t.mem } := by
  have hmem := s.shedShown_mem
  refine ⟨_, windowEnd_within hwindows, fun c h1 h3 => ?_, fun q hq => ?_, s.band_shedShown, congrArg (·.windows + 1) hmem, rfl,
    (congrArg MemState.bytes hmem :), ?_⟩
  · obtain ⟨hshed, hus⟩ := s.shedView_windowEnded h1 h3
    refine ⟨?_, hus⟩
    rw [State.on, hshed]
    show ((if s.sheds c then 1 else 0) == 1) = s.sheds c
    cases s.sheds c <;> rfl
  · refine backlog_of_rest ?_ (List.mem_cons_of_mem _ hq) []
    rw [List.map_cons, State.windowRest_classes]
    exact (by decide : [0, 1, 2, 3].Nodup)
  · rw [State.windowEnded, State.shedShown_frame]
    rfl

theorem classWindowEnd_fits (s : State) (hwindows : s.mem.windows + 1 < 100) (hpos : ∀ c, c ≤ 3 → 0 ≤ s.demand c)
    (hwithin : ∀ c, 1 ≤ c → c ≤ 3 → s.demand c ≤ s.entitlement c)
    (htotal : s.demand 0 + s.demand 1 + s.demand 2 + s.demand 3 ≤ windowTime) :
    ∃ t, exec .classWindowEnd s = .next t ∧ (∀ c, 1 ≤ c → c ≤ 3 → t.get (R.memory_CLASS_CFG_SHED c) = 0 ∧
      t.get (R.memory_CLASS_SHED_US c) = s.get (R.memory_CLASS_SHED_US c)) ∧ t.mem.shedBefore = false := by
  have hnone := State.sheds_none hwithin hpos htotal
  refine ⟨_, windowEnd_within hwindows, fun c h1 h3 => ?_, ?_⟩
  · have hview := s.shedView_windowEnded h1 h3
    rw [hnone] at hview
    exact hview
  · show s.shedsAny = false
    rw [State.shedsAny, hnone, hnone, hnone]
    rfl

theorem classWindowEnd_millisecond (s : State) (hwindows : s.mem.windows + 1 = 100) :
    ∃ t, exec .classWindowEnd s = .next t ∧ t.mem.windows = 0 ∧ t.mem.served = [] ∧
      (∀ c, c < 4 → Sparse.get (fun _ => 0) s.mem.served c * 8 / 1000 < 2 ^ 32 →
        t.get (R.memory_CLASS_USE c) = Sparse.get (fun _ => 0) s.mem.served c * 8 / 1000) := by
  have hserved : s.windowEnded.mem.served = s.mem.served := (congrArg MemState.served s.shedShown_mem :)
  refine ⟨_, windowEnd_last hwindows, rfl, rfl, fun c hc hfits => ?_⟩
  rw [State.get_usesShown _ hc, hserved, Nat.mod_eq_of_lt hfits]

/-! ### The class-0 load of a port (R294) -/

section
variable (s : State) (p : Fin 22)

theorem cl0MeterWindow_within
    (h : Sparse.get (fun _ => 0) s.mem.metered p.val ≤ Sparse.get (fun _ => 0) s.mem.admitted p.val + 65536) :
    exec (.cl0MeterWindow p) s = .next { s with mem := { s.mem with metered := Sparse.erase s.mem.metered p.val } } :=
  if_neg (Nat.not_lt.2 h)

theorem cl0MeterWindow_beyond
    (h : Sparse.get (fun _ => 0) s.mem.admitted p.val + 65536 < Sparse.get (fun _ => 0) s.mem.metered p.val) :
    ∃ t, exec (.cl0MeterWindow p) s = .next t ∧ Sparse.get (fun _ => 0) t.mem.metered p.val = 0 ∧
      t.get R.memory_CL0_EXCESS = min (s.get R.memory_CL0_EXCESS + 1) (2 ^ 32 - 1) ∧ t.get Flag.memory_CL0_EXCESS.fld = 1 ∧
      OnlyRegs s t [R.memory_CL0_EXCESS.addr, Flag.memory_CL0_EXCESS.addr, Flag.memory_CL0_EXCESS.counter.addr] ∧
      t = { s with regs := t.regs, mem := { s.mem with metered := t.mem.metered } } := by
  let u := s.modMem fun m => { m with metered := Sparse.erase m.metered p.val }
  have hx : exec (.cl0MeterWindow p) s = .next ((u.bump R.memory_CL0_EXCESS).raise Flag.memory_CL0_EXCESS) := if_pos h
  refine ⟨_, hx, Sparse.get_erase_self _ _ _, ?_, State.get_raise_self _ _ (by decide), ?_, rfl⟩
  · rw [State.get_raise_apart _ _ _ (.inl (by decide)) (.inl (by decide)), State.get_bump_self _ _ (by decide), State.modMem_get]
    rfl
  · have hsame : OnlyRegs s u [R.memory_CL0_EXCESS.addr, Flag.memory_CL0_EXCESS.addr, Flag.memory_CL0_EXCESS.counter.addr] :=
      fun _ _ => rfl
    exact (hsame.bump _ (by simp)).raise _ (by simp) (by simp)

end

end Sys2Proof.Machine
end

section
/-!
PROOFS. The memory's upkeep: drift samples, the end of warm-up, power-down and its exit, and CLR_CNT (10_stream_memory.md R292, R299 to
R302; 00_scope.md R506).
-/
namespace Sys2Proof.Machine
open Sys2Proof Safety

/-! ### Drift samples (R299) -/

/-- A channel's count of samples goes up. -/
def sampledOnce (l : List (Nat × Nat)) (c : Nat) : List (Nat × Nat) := Sparse.set (fun _ => 0) l c (Sparse.get (fun _ => 0) l c + 1)

/-- The counts of samples of some channels go up. -/
def MemState.sampled (m : MemState) (cs : List Nat) : MemState := { m with samples := cs.foldl sampledOnce m.samples }

/-- A class-0 access of each channel of a list joins its queue. -/
def State.queueAll (s : State) (cs : List Nat) : State := s.each cs fun s c => (s.enqueue0 c).2

theorem State.sampleChannels_eq (s : State) :
    s.sampleChannels = (s.queueAll (List.range 32)).modMem fun m => m.sampled (List.range 32) := rfl

theorem MemState.sampled_data (m : MemState) (cs : List Nat) : (m.sampled cs).data = m.data := rfl

theorem MemState.sampled_samples (m : MemState) {c : Nat} {cs : List Nat} (hcs : cs.Nodup) (hc : c ∈ cs) :
    Sparse.get (fun _ => 0) (m.sampled cs).samples c = Sparse.get (fun _ => 0) m.samples c + 1 :=
  foldl_seen (fun l => Sparse.get (fun _ => 0) l c) (· + 1) id hcs hc (fun _ => Sparse.get_set_self _ _ _ _)
    (fun _ hne _ => Sparse.get_set_ne _ _ _ hne.symm) m.samples

section
variable (s : State)

theorem State.queueAll_keepsData (cs : List Nat) : KeepsData [] s (s.queueAll cs) :=
  (KeepsData.refl [] s).each cs fun _ c hu => hu.enqueue0 c

theorem State.queueAll_samples (cs : List Nat) : (s.queueAll cs).mem.samples = s.mem.samples :=
  foldl_unseen (g := fun (s : State) c => (s.enqueue0 c).2) (fun t => t.mem.samples) (fun _ _ _ => rfl) s

theorem State.queueAll_channel0 {c : Nat} {cs : List Nat} (hcs : cs.Nodup) (hc : c ∈ cs) :
    (s.queueAll cs).channel0 c = ((s.channel0 c).1, (s.channel0 c).2 + 1) :=
  foldl_seen (g := fun (s : State) c => (s.enqueue0 c).2) (fun t => t.channel0 c) (fun x => (x.1, x.2 + 1)) id hcs hc
    (fun _ => Sparse.get_set_self _ _ _ _) (fun _ hne _ => Sparse.get_set_ne _ _ _ hne.symm) s

theorem State.channel0_sampled (cs : List Nat) (c : Nat) : (s.modMem fun m => m.sampled cs).channel0 c = s.channel0 c := rfl

theorem State.sampleChannels_keepsData : KeepsData [] s s.sampleChannels := by
  rw [State.sampleChannels_eq]
  exact (s.queueAll_keepsData _).modMem _ (MemState.sampled_data _ _)

variable {c : Nat} (hc : c < 32)
include hc

theorem State.sampleChannels_samples :
    Sparse.get (fun _ => 0) s.sampleChannels.mem.samples c = Sparse.get (fun _ => 0) s.mem.samples c + 1 := by
  rw [State.sampleChannels_eq, State.modMem_mem, MemState.sampled_samples _ List.nodup_range (List.mem_range.2 hc),
    State.queueAll_samples]

theorem State.sampleChannels_channel0 : s.sampleChannels.channel0 c = ((s.channel0 c).1, (s.channel0 c).2 + 1) := by
  rw [State.sampleChannels_eq, State.channel0_sampled, State.queueAll_channel0 _ List.nodup_range (List.mem_range.2 hc)]

end

/-- The channels whose window is below the least. -/
def lowMask (low : Nat → Bool) : Nat := (List.range 32).foldl (fun n c => if low c then n + 2 ^ c else n) 0

theorem lowMask_none {low : Nat → Bool} (h : ∀ c, c < 32 → low c = false) : lowMask low = 0 :=
  foldl_unseen (g := fun n c => if low c then n + 2 ^ c else n) id
    (fun c hc _ => if_neg (Bool.eq_false_iff.1 (h c (List.mem_range.1 hc)))) 0

/-- Each channel has its full count of samples. -/
def State.driftFull (s : State) : Bool := (List.range 32).all fun c => decide (8 ≤ Sparse.get (fun _ => 0) s.mem.samples c)

theorem exec_driftSample (windows : List (BitVec 8)) (s : State) : exec (.driftSample windows) s =
    if s.memUp then
      let mask := lowMask fun c => decide ((windows.getD c 255).toNat < s.get R.memory_DRIFT_CFG_MIN_WIN)
      let t := ((s.put R.memory_DRIFT_STATUS_LOW mask).raiseIf (mask != 0) Flag.memory_DRIFT_MARGIN).sampleChannels
      .next (t.put R.memory_STATUS_DRIFT_FULL (if t.driftFull then 1 else 0))
    else .next s := rfl

theorem State.channel0_put (s : State) (f : Fld) (v c : Nat) : (s.put f v).channel0 c = s.channel0 c := rfl

theorem State.put_frame (s : State) (f : Fld) (v : Nat) : s.put f v = { s with regs := (s.put f v).regs } := rfl

theorem driftSample_wide (s : State) (windows : List (BitVec 8)) (hup : s.memUp = true)
    (hwide : ∀ c, c < 32 → s.get R.memory_DRIFT_CFG_MIN_WIN ≤ (windows.getD c 255).toNat) :
    ∃ t, exec (.driftSample windows) s = .next t ∧ t.get R.memory_DRIFT_STATUS_LOW = 0 ∧
      (∀ c, c < 32 → Sparse.get (fun _ => 0) t.mem.samples c = Sparse.get (fun _ => 0) s.mem.samples c + 1) ∧
      (∀ c, c < 32 → t.channel0 c = ((s.channel0 c).1, (s.channel0 c).2 + 1)) ∧
      OnlyRegs s t [R.memory_DRIFT_STATUS_LOW.addr, Reg.memory_STATUS] ∧ t = { s with regs := t.regs, mem := t.mem } := by
  have hmask : lowMask (fun c => decide ((windows.getD c 255).toNat < s.get R.memory_DRIFT_CFG_MIN_WIN)) = 0 :=
    lowMask_none fun c hc => decide_eq_false (Nat.not_lt.2 (hwide c hc))
  obtain ⟨u, hput⟩ : ∃ u, u = s.put R.memory_DRIFT_STATUS_LOW 0 := ⟨_, rfl⟩
  have hx : exec (.driftSample windows) s =
      .next (u.sampleChannels.put R.memory_STATUS_DRIFT_FULL (if u.sampleChannels.driftFull then 1 else 0)) := by
    rw [exec_driftSample, if_pos hup, hmask, hput]
    rfl
  have hu := u.sampleChannels_keepsData
  have hlow : u.get R.memory_DRIFT_STATUS_LOW = 0 := by
    rw [hput, State.get_put_self _ _ _ (by decide)]
    rfl
  have hregs : OnlyRegs s u [R.memory_DRIFT_STATUS_LOW.addr, Reg.memory_STATUS] :=
    hput ▸ (OnlyRegs.refl s _).put R.memory_DRIFT_STATUS_LOW 0 (by decide)
  have hframe : u = { s with regs := u.regs } := by rw [hput]; rfl
  refine ⟨_, hx, ?_, fun c hc => ?_, fun c hc => ?_, ?_, ?_⟩
  · rw [State.get_put_apart _ _ _ _ (.inl (by decide)), State.get_congr (hu.regs _ List.not_mem_nil), hlow]
  · rw [State.put_mem, u.sampleChannels_samples hc, hframe]
  · rw [State.channel0_put, u.sampleChannels_channel0 hc, hframe]
    rfl
  · have hsampled : OnlyRegs s u.sampleChannels [R.memory_DRIFT_STATUS_LOW.addr, Reg.memory_STATUS] := fun a ha =>
      (hu.regs a List.not_mem_nil).trans (hregs a ha)
    exact hsampled.put _ _ (by decide)
  · rw [State.put_frame, hu.frame, hframe]

/-! ### Warm-up and power-down (R300 to R302) -/

theorem warmupEnd_ends (s : State) (h : s.on R.memory_STATUS_WARMUP = true) :
    ∃ t, exec .warmupEnd s = .next t ∧ t.get R.memory_STATUS_WARMUP = 0 ∧ t.get Flag.memory_WARMUP_END.fld = 1 ∧
      OnlyRegs s t [Reg.memory_STATUS, Flag.memory_WARMUP_END.addr, Flag.memory_WARMUP_END.counter.addr] ∧
      t = { s with regs := t.regs } := by
  have hx : exec .warmupEnd s = .next ((s.put R.memory_STATUS_WARMUP 0).raise Flag.memory_WARMUP_END) := by
    show Host.Outcome.next (if s.on R.memory_STATUS_WARMUP then _ else s) = _
    rw [h]
    rfl
  refine ⟨_, hx, ?_, State.get_raise_self _ _ (by decide), ?_, rfl⟩
  · rw [State.get_raise_apart _ _ _ (.inl (by decide)) (.inl (by decide)), State.get_put_self _ _ _ (by decide)]
    rfl
  · exact ((OnlyRegs.refl s _).put _ _ (by decide)).raise _ (by decide) (by decide)

/-- Whether the next need, if there is one, is far enough off. -/
def roomFor (tMin : Option Nat) (k guard : Nat) : Bool := match tMin with | none => true | some t => decide (k + guard ≤ t)

/-- T_MIN as PD_STATUS shows it. -/
def shownTMin : Option Nat → Nat
  | none => 0xFFFF
  | some t => min t 0xFFFE

/-- Power-down is entered as what permits it says: DEEP before LIGHT (R301). -/
def State.pdChoice (u : State) (may deep light : Bool) : Result :=
  if may then
    if deep then .next ((u.put R.memory_STATUS_PD_STATE 2).bump R.memory_PD_DEEP)
    else if light then .next ((u.put R.memory_STATUS_PD_STATE 1).bump R.memory_PD_LIGHT)
    else .next u
  else .next u

theorem exec_pdEnter (others : Option Nat) (idle : Bool) (s : State) : exec (.pdEnter others idle) s =
    (s.put R.memory_PD_STATUS_T_MIN (shownTMin (s.tMin others))).pdChoice
      (s.memUp || (s.on R.memory_STATUS_TRAINED && s.get R.memory_STATUS_PD_STATE == 1))
      (s.on R.memory_PD_CFG_DEEP_EN && roomFor (s.tMin others) 60 (s.get R.memory_PD_CFG_GUARD_US))
      (!(s.get R.memory_STATUS_PD_STATE == 1) && s.on R.memory_PD_CFG_LIGHT_EN &&
        roomFor (s.tMin others) 2 (s.get R.memory_PD_CFG_GUARD_US) && idle) := by
  obtain ⟨u, hput⟩ : ∃ u, u = s.put R.memory_PD_STATUS_T_MIN (shownTMin (s.tMin others)) := ⟨_, rfl⟩
  have hregs : OnlyRegs s u [Reg.memory_PD_STATUS] := hput ▸ (OnlyRegs.refl s _).put R.memory_PD_STATUS_T_MIN _ (by decide)
  have hx : exec (.pdEnter others idle) s =
      u.pdChoice (u.memUp || (u.on R.memory_STATUS_TRAINED && u.get R.memory_STATUS_PD_STATE == 1))
        (u.on R.memory_PD_CFG_DEEP_EN && roomFor (s.tMin others) 60 (u.get R.memory_PD_CFG_GUARD_US))
        (!(u.get R.memory_STATUS_PD_STATE == 1) && u.on R.memory_PD_CFG_LIGHT_EN &&
          roomFor (s.tMin others) 2 (u.get R.memory_PD_CFG_GUARD_US) && idle) := by
    rw [hput]
    rfl
  rw [hx, ← hput, memUp_of_regs hregs (by decide), State.get_congr (f := R.memory_STATUS_PD_STATE) (hregs _ (by decide)),
    State.on_congr (f := R.memory_STATUS_TRAINED) (hregs _ (by decide)),
    State.on_congr (f := R.memory_PD_CFG_DEEP_EN) (hregs _ (by decide)),
    State.on_congr (f := R.memory_PD_CFG_LIGHT_EN) (hregs _ (by decide)),
    State.get_congr (f := R.memory_PD_CFG_GUARD_US) (hregs _ (by decide))]

/-- DEEP can be entered from a memory that is up and from LIGHT (R301). -/
theorem memUp_or_light {s : State} (htrained : s.on R.memory_STATUS_TRAINED = true) (hstate : s.get R.memory_STATUS_PD_STATE ≤ 1) :
    (s.memUp || (s.on R.memory_STATUS_TRAINED && s.get R.memory_STATUS_PD_STATE == 1)) = true := by
  rw [State.memUp, htrained]
  rcases Nat.le_one_iff_eq_zero_or_eq_one.1 hstate with h | h
  · rw [h]
    rfl
  · rw [h]
    rfl

/-- What an entry to power-down leaves: the state entered, T_MIN and the entry counted. -/
theorem State.pdEntered_reads (s : State) (v : Nat) {st : Nat} {count : Fld} (hst : st < 4)
    (hcount : count = R.memory_PD_DEEP ∨ count = R.memory_PD_LIGHT) :
    let t := ((s.put R.memory_PD_STATUS_T_MIN v).put R.memory_STATUS_PD_STATE st).bump count
    t.get R.memory_STATUS_PD_STATE = st ∧ t.get R.memory_PD_STATUS_T_MIN = v % 65536 ∧
      t.get count = min (s.get count + 1) (2 ^ 32 - 1) ∧ t = { s with regs := t.regs } := by
  intro t
  have hok : count.Ok ∧ count.hi + 1 - count.lo = 32 := by rcases hcount with rfl | rfl <;> decide
  have hstatus : R.memory_STATUS_PD_STATE.addr ≠ count.addr ∧ R.memory_PD_STATUS_T_MIN.addr ≠ count.addr := by
    rcases hcount with rfl | rfl <;> decide
  obtain ⟨hstatus, htmin⟩ := hstatus
  refine ⟨?_, ?_, ?_, rfl⟩
  · rw [State.get_bump_apart _ _ _ (.inl hstatus), State.get_put_self _ _ _ (by decide)]
    exact Nat.mod_eq_of_lt hst
  · rw [State.get_bump_apart _ _ _ (.inl htmin), State.get_put_apart _ _ _ _ (.inl (by decide)), State.get_put_self _ _ _ (by decide)]
    rfl
  · rw [State.get_bump_self _ _ hok.1, hok.2, State.get_put_apart _ _ _ _ (.inl hstatus.symm),
      State.get_put_apart _ _ _ _ (.inl htmin.symm)]

theorem pdEnter_deep (s : State) (others : Option Nat) (idle : Bool) (htrained : s.on R.memory_STATUS_TRAINED = true)
    (hstate : s.get R.memory_STATUS_PD_STATE ≤ 1) (hdeep : s.on R.memory_PD_CFG_DEEP_EN = true) (hnone : s.tMin others = none) :
    ∃ t, exec (.pdEnter others idle) s = .next t ∧ t.get R.memory_STATUS_PD_STATE = 2 ∧ t.get R.memory_PD_STATUS_T_MIN = 0xFFFF ∧
      t.get R.memory_PD_DEEP = min (s.get R.memory_PD_DEEP + 1) (2 ^ 32 - 1) ∧ t = { s with regs := t.regs } := by
  have hx := exec_pdEnter others idle s
  rw [memUp_or_light htrained hstate, hdeep, hnone] at hx
  exact ⟨_, hx, s.pdEntered_reads 0xFFFF (by decide) (.inl rfl)⟩

theorem pdEnter_light (s : State) (others : Option Nat) (t0 : Nat) (hup : s.memUp = true) (hlight : s.on R.memory_PD_CFG_LIGHT_EN = true)
    (hneed : s.tMin others = some t0) (hnear : t0 < 60 + s.get R.memory_PD_CFG_GUARD_US)
    (hroom : 2 + s.get R.memory_PD_CFG_GUARD_US ≤ t0) :
    ∃ t, exec (.pdEnter others true) s = .next t ∧ t.get R.memory_STATUS_PD_STATE = 1 ∧
      t.get R.memory_PD_STATUS_T_MIN = min t0 0xFFFE ∧ t.get R.memory_PD_LIGHT = min (s.get R.memory_PD_LIGHT + 1) (2 ^ 32 - 1) ∧
      t = { s with regs := t.regs } := by
  have hstate : s.get R.memory_STATUS_PD_STATE = 0 := by
    rw [State.memUp, Bool.and_eq_true, beq_iff_eq] at hup
    exact hup.2
  have hfar : roomFor (some t0) 60 (s.get R.memory_PD_CFG_GUARD_US) = false := decide_eq_false (Nat.not_le.2 hnear)
  have hclose : roomFor (some t0) 2 (s.get R.memory_PD_CFG_GUARD_US) = true := decide_eq_true hroom
  have hx := exec_pdEnter others true s
  rw [hup, hlight, hneed, hstate, hfar, hclose, Bool.and_false] at hx
  obtain ⟨hentered, htmin, hrest⟩ := s.pdEntered_reads (min t0 0xFFFE) (st := 1) (by decide) (.inr rfl)
  exact ⟨_, hx, hentered, htmin.trans (Nat.mod_eq_of_lt (by omega)), hrest⟩

theorem pdEnter_busy (s : State) (others : Option Nat) (idle : Bool) (hbusy : s.unitsBusy = true) :
    exec (.pdEnter others idle) s = .next (s.put R.memory_PD_STATUS_T_MIN 0) := by
  have hnow : s.tMin others = some 0 := if_pos hbusy
  have hnoRoom (k guard : Nat) (hk : 0 < k) : roomFor (some 0) k guard = false := decide_eq_false (by omega)
  rw [exec_pdEnter, hnow, hnoRoom 60 _ (by decide), hnoRoom 2 _ (by decide), Bool.and_false, Bool.and_false, Bool.false_and]
  exact ite_self _

/-! ### The exit from power-down (R302) -/

theorem KeepsData.held {l : List Nat} {s t : State} (h : KeepsData l s t) : t.mem.held = s.mem.held :=
  congrArg (fun d : _ × _ × List MemReq × _ => d.2.2.1) h.data

/-- The memory serves what waited for it. -/
def State.heldServed (s : State) : State := (s.modMem fun m => { m with held := [] }).each s.mem.held State.memServe

theorem exec_pdExit (s : State) : exec .pdExit s =
    if s.get R.memory_STATUS_PD_STATE = 0 then .next s
    else .next (if s.get R.memory_STATUS_PD_STATE = 2 then (s.put R.memory_STATUS_PD_STATE 0).sampleChannels
      else s.put R.memory_STATUS_PD_STATE 0).heldServed := rfl

theorem pdExit_deep (s : State) (h : s.get R.memory_STATUS_PD_STATE = 2) : exec .pdExit s =
    .next (((s.put R.memory_STATUS_PD_STATE 0).sampleChannels.modMem fun m => { m with held := [] }).each s.mem.held State.memServe) := by
  rw [exec_pdExit, h, if_neg (by decide), if_pos rfl, State.heldServed, (State.sampleChannels_keepsData _).held, State.put_mem]

theorem pdExit_light (s : State) (h : s.get R.memory_STATUS_PD_STATE = 1) : exec .pdExit s =
    .next (((s.put R.memory_STATUS_PD_STATE 0).modMem fun m => { m with held := [] }).each s.mem.held State.memServe) := by
  rw [exec_pdExit, h, if_neg (by decide), if_neg (by decide), State.heldServed, State.put_mem]

/-! ### CLR_CNT (R506) -/

/-- The counters that CLR_CNT zeroes. -/
def clrCounters : List Fld :=
  [R.memory_CL0_LAT_MAX, R.memory_CL0_QFULL, R.memory_CL0_EXCESS, R.memory_ECC_CORR, R.memory_ECC_UNCORR] ++
    (List.range 10).map R.memory_FW_VIOL

/-- The counters zeroed, but for those that count in this cycle. -/
def State.countersCleared (s : State) (hits : BitVec 32) : State :=
  s.each clrCounters.zipIdx fun s p => s.put p.1 (if hits.getLsbD p.2 then 1 else 0)

/-- The record of an uncorrectable error is dropped unless it was made in this cycle. -/
def State.ueCleared (s : State) (keep : Bool) : State :=
  if keep then s else (s.wr Reg.memory_UE_ADDR_LO 0).wr Reg.memory_UE_ADDR_HI 0

/-- The record of a violation is dropped unless it was made in this cycle. -/
def State.fwCleared (s : State) (keep : Bool) : State := if keep then s else s.wr Reg.memory_FW_LAST 0

theorem exec_memoryClrCnt {s : State} (ha : Answers s Reg.memory_CTRL) (hits : BitVec 32) (keepUe keepFw : Bool) :
    exec (.memoryClrCnt hits keepUe keepFw) s = .next (((s.countersCleared hits).ueCleared keepUe).fwCleared keepFw) :=
  State.rowWrite_answers s Reg.memory_CTRL (fun s => .next (((s.countersCleared hits).ueCleared keepUe).fwCleared keepFw))
    ha.running ha.live

theorem clrCounters_words : ∀ p ∈ clrCounters.zipIdx, p.1.Ok ∧ p.1.hi + 1 - p.1.lo = 32 := by decide

theorem clrCounters_apart : clrCounters.zipIdx.Pairwise fun p q => p.1.addr ≠ q.1.addr := by decide

theorem State.get_countersCleared (s : State) (hits : BitVec 32) {p : Fld × Nat} (hp : p ∈ clrCounters.zipIdx) :
    (s.countersCleared hits).get p.1 = if hits.getLsbD p.2 then 1 else 0 := by
  obtain ⟨hok, hwidth⟩ := clrCounters_words p hp
  refine foldl_seen (g := fun (s : State) (p : Fld × Nat) => s.put p.1 (if hits.getLsbD p.2 then 1 else 0)) (fun t => t.get p.1)
    (fun _ => if hits.getLsbD p.2 then 1 else 0) (fun p => p.1.addr) clrCounters_apart hp (fun t => ?_) (fun q hne t => ?_) s
  · rw [State.get_put_self _ _ _ hok, hwidth]
    split
    · rfl
    · rfl
  · exact State.get_put_apart _ _ _ _ (.inl hne.symm)

theorem State.countersCleared_onlyRegs (s : State) (hits : BitVec 32) :
    OnlyRegs s (s.countersCleared hits) (clrCounters.zipIdx.map fun p => p.1.addr) := fun a ha =>
  foldl_unseen (g := fun (s : State) (p : Fld × Nat) => s.put p.1 (if hits.getLsbD p.2 then 1 else 0)) (fun t => t.rd a)
    (fun _ hp t => t.rd_put_ne _ _ (ne_of_mem_of_not_mem (List.mem_map_of_mem hp) ha).symm) s

theorem State.countersCleared_frame (s : State) (hits : BitVec 32) :
    s.countersCleared hits = { s with regs := (s.countersCleared hits).regs } := State.each_regs_frame (fun _ _ => rfl) s _

theorem State.ueCleared_onlyRegs (s : State) (keep : Bool) :
    OnlyRegs s (s.ueCleared keep) [Reg.memory_UE_ADDR_LO, Reg.memory_UE_ADDR_HI] := by
  intro a ha
  rw [List.mem_cons, List.mem_singleton, not_or] at ha
  obtain ⟨hlo, hhi⟩ := ha
  cases keep with
  | false => exact (State.rd_wr_ne _ _ hhi).trans (State.rd_wr_ne _ _ hlo)
  | true => rfl

theorem State.fwCleared_onlyRegs (s : State) (keep : Bool) : OnlyRegs s (s.fwCleared keep) [Reg.memory_FW_LAST] := by
  intro a ha
  cases keep with
  | false => exact State.rd_wr_ne _ _ fun h => ha (List.mem_singleton.2 h)
  | true => rfl

theorem State.ueCleared_valid (s : State) (keep : Bool) :
    (s.ueCleared keep).on R.memory_UE_ADDR_HI_VALID = (keep && s.on R.memory_UE_ADDR_HI_VALID) := by
  cases keep with
  | false => exact congrArg (· == 1) (State.get_wr_self (s.wr Reg.memory_UE_ADDR_LO 0) 0 R.memory_UE_ADDR_HI_VALID)
  | true => rfl

theorem State.fwCleared_valid (s : State) (keep : Bool) :
    (s.fwCleared keep).on R.memory_FW_LAST_VALID = (keep && s.on R.memory_FW_LAST_VALID) := by
  cases keep with
  | false => exact congrArg (· == 1) (State.get_wr_self s 0 R.memory_FW_LAST_VALID)
  | true => rfl

theorem State.ueCleared_frame (s : State) (keep : Bool) : s.ueCleared keep = { s with regs := (s.ueCleared keep).regs } := by
  cases keep with
  | false => rfl
  | true => rfl

theorem State.fwCleared_frame (s : State) (keep : Bool) : s.fwCleared keep = { s with regs := (s.fwCleared keep).regs } := by
  cases keep with
  | false => rfl
  | true => rfl

theorem memoryClrCnt_clears (s : State) (hits : BitVec 32) (ue fw : Bool) (ha : Answers s Reg.memory_CTRL) :
    ∃ t, exec (.memoryClrCnt hits ue fw) s = .next t ∧
      t.get R.memory_CL0_LAT_MAX = (if hits.getLsbD 0 then 1 else 0) ∧ t.get R.memory_ECC_CORR = (if hits.getLsbD 3 then 1 else 0) ∧
      (∀ k, k < 10 → t.get (R.memory_FW_VIOL k) = if hits.getLsbD (5 + k) then 1 else 0) ∧
      (t.on R.memory_UE_ADDR_HI_VALID = (ue && s.on R.memory_UE_ADDR_HI_VALID)) ∧
      (t.on R.memory_FW_LAST_VALID = (fw && s.on R.memory_FW_LAST_VALID)) ∧ t = { s with regs := t.regs } := by
  have hcounters := s.countersCleared_onlyRegs hits
  have hue := (s.countersCleared hits).ueCleared_onlyRegs ue
  have hfw := ((s.countersCleared hits).ueCleared ue).fwCleared_onlyRegs fw
  have hapart : ∀ p ∈ clrCounters.zipIdx, p.1.addr ∉ [Reg.memory_FW_LAST] ∧
      p.1.addr ∉ [Reg.memory_UE_ADDR_LO, Reg.memory_UE_ADDR_HI] := by decide
  have hcount (p : Fld × Nat) (hp : p ∈ clrCounters.zipIdx) :
      (((s.countersCleared hits).ueCleared ue).fwCleared fw).get p.1 = if hits.getLsbD p.2 then 1 else 0 := by
    obtain ⟨hlast, haddr⟩ := hapart p hp
    rw [State.get_congr (hfw _ hlast), State.get_congr (hue _ haddr), State.get_countersCleared s hits hp]
  have hviol : ∀ k, k < 10 → (R.memory_FW_VIOL k, 5 + k) ∈ clrCounters.zipIdx := by decide
  refine ⟨_, exec_memoryClrCnt ha hits ue fw, hcount (_, 0) (by decide), hcount (_, 3) (by decide), fun k hk => hcount _ (hviol k hk), ?_,
    ?_, ?_⟩
  · rw [State.on_congr (hfw _ (by decide)), State.ueCleared_valid, State.on_congr (hcounters _ (by decide))]
  · rw [State.fwCleared_valid, State.on_congr (hue _ (by decide)), State.on_congr (hcounters _ (by decide))]
  · rw [State.fwCleared_frame, State.ueCleared_frame, State.countersCleared_frame]

/-- Settles O29: a window's end by what is left of it, then each of the memory's own commands by its conditions. -/
theorem memoryUpkeep : Obligations.MemoryUpkeep := by
  refine ⟨⟨fun s hwindows _ => classWindowEnd_sheds s hwindows, classWindowEnd_fits, classWindowEnd_millisecond, fun s p => ?_⟩,
    driftSample_wide, warmupEnd_ends, pdEnter_deep, pdEnter_light, pdEnter_busy, pdExit_deep, pdExit_light, memoryClrCnt_clears⟩
  exact ⟨cl0MeterWindow_within s p, cl0MeterWindow_beyond s p⟩

end Sys2Proof.Machine
end
